-- ==== Sys2Proof/Word.lean ====
section
/-!
DEFINITION. The 32-bit word of R10, bit fields named by their lowest bit and width (R11), and the sparse table: a list
of key and value pairs by which the model holds what the manual numbers (registers, cells, memory words).
-/
namespace Sys2Proof

/-- A 32-bit word, held little-endian wherever bytes of it are named (R10). -/
abbrev Word := BitVec 32

/-- A byte. -/
abbrev Byte := BitVec 8

/-- A field `[lo + width - 1 : lo]` of a word (R11). -/
structure Fld where
  lo : Nat
  width : Nat
  deriving DecidableEq, Repr

/-- A sparse table: keys strictly rising, no entry equal to what an unlisted key reads as. -/
abbrev Sparse (α : Type) := List (Nat × α)

end Sys2Proof
end

