-- ==== Sys2Proof/Config.lean ====
section
/-!
DEFINITION. What one implementation fixes and the manual leaves open. Every constant here is opaque: it has no body a proof
could see, so whatever is proved holds for every value of it.
-/
namespace Sys2Proof.Config

/-- The `n`-th value the manual leaves undefined or does not state (used with the counter `State.fresh`). -/
opaque freeWord : Nat → Word

/-- SLH-DSA verification (FIPS 205, R49): public key words, message bytes, signature words, by parameter set
(0 SHA2-128s, 1 SHA2-192s, 2 SHA2-256s). The manual names the algorithm and does not restate it. -/
opaque slhVerify : Nat → List Word → List Byte → List Word → Bool

/-- A word of the factory store: section key, point, word (R312, R313). The store is readable through no register. -/
opaque factoryWord : Nat → Nat → Nat → Word

/-- Which way the curve unit rounds the natural logarithm of m × 2^e (R258), which the manual does not say: the departure from the nearest
binary32 number in units of its last place, limited to one. -/
opaque lnRound : Int → Int → Int

/-- The reference functions of IEC 60584-1 (R258), which the manual names and does not restate: the EMF in µV at a temperature in
0.001 °C, as m × 2^e, and the temperature in 0.001 °C at an EMF of m × 2^e µV, each by curve 5 or 6. -/
opaque thermoEmf : Nat → Int → Int × Int
opaque thermoTemp : Nat → Int → Int → Int

/-- How far the curve unit departs from that temperature, in 0.001 °C, limited to 10 (R258). -/
opaque thermoError : Nat → Int → Int → Int

/-- The temperature in 0.001 °C that the curve unit computes, before it is limited to the curve's range (R257, R258), where binary32 meets
no finite number: curve, parameter words 1 to 3, chain output x, gain code, `ADC_RREF`. -/
opaque curve : Nat → List Word → Int → Nat → Nat → Int

/-- Whether the receiver of a lane has nothing left to ask of its partner in equalisation, and the bit errors it meets against PRBS31, at
an instant (R373, R378). -/
opaque eqReady : Nat → Nat → Bool
opaque prbsErrors : Nat → Nat → Nat

/-- Whether a control block copy or a settings half that was being written at an instant is lost with a reset (R579). -/
opaque torn : Nat → Bool

/-- The ROM service image's own plane (R71, R525): address word, type word and canonical payload of each frame, in ascending order of
key. The manual does not print it. -/
opaque romPlane : List (Nat × Nat × List Word)

/-- The fixed digest of the ROM service image, 8 words (R533). -/
opaque romDigest : Nat → Word

/-- The Llyntex image key of slot 4 (R530), 8 words. -/
opaque llyntexKey : Nat → Word

/-- The device identity public key (R532), 8 words; the serial, low word then high; the signature words of Llyntex's endorsement. -/
opaque identityKey : Nat → Word
opaque serial : Nat → Word
opaque endorsement : Nat → Word

/-- A word of the SLH-DSA-SHA2-128f signature that the identity key makes over report words 0 to 47 (R533). -/
opaque attestSign : List Word → Nat → Word

/-- The instruction code of SAMPLE/PRELOAD at the test access port, which the boundary-scan description file gives (R607). -/
opaque samplePreload : Nat

end Sys2Proof.Config
end

