-- ==== Sys2Proof/Machine/Store.lean ====
section
/-!
DEFINITION. Operations on words, fields and sparse tables that every family shares. A table is read against a function
that says what an unlisted key reads as, and a write of that very value removes the entry, so equal contents are equal data.
-/
namespace Sys2Proof.Machine

/-! ### Sparse tables -/

/-- The value at key `k`; keys rise, so the search ends at the first larger key. -/
def look {α : Type} (d : Nat → α) : Sparse α → Nat → α
  | [], k => d k
  | (j, v) :: m, k => if k = j then v else if k < j then d k else look d m k

/-- The entries whose key lies above `k`. -/
def dropTo {α : Type} (k : Nat) : Sparse α → Sparse α
  | [] => []
  | (j, v) :: m => if j ≤ k then dropTo k m else (j, v) :: m

/-- Write `v` at key `k`: the entry is put in its place, or removed where `v` is what an unlisted key reads as. -/
def put {α : Type} [DecidableEq α] (d : Nat → α) : Sparse α → Nat → α → Sparse α
  | [], k, v => if v = d k then [] else [(k, v)]
  | (j, w) :: m, k, v =>
    if k < j then (if v = d k then (j, w) :: m else (k, v) :: (j, w) :: m)
    else if k = j then (if v = d k then dropTo k m else (k, v) :: m)
    else (j, w) :: put d m k v

/-- The canonical form: keys strictly rising, and no entry equal to its default. -/
abbrev Canon {α : Type} (d : Nat → α) (m : Sparse α) : Prop :=
  m.Pairwise (fun a b => a.1 < b.1) ∧ ∀ e ∈ m, e.2 ≠ d e.1

/-- Remove every entry whose key satisfies `p`: those keys read as their default again. -/
def clearWhere {α : Type} (p : Nat → Bool) (m : Sparse α) : Sparse α :=
  m.filter (fun e => !p e.1)

/-! ### Fields of a word -/

/-- The field's value in a word. -/
def getF (f : Fld) (w : Word) : Nat := w.toNat / 2 ^ f.lo % 2 ^ f.width

/-- The mask of the field's bits. -/
def maskF (f : Fld) : Word := BitVec.ofNat 32 ((2 ^ f.width - 1) * 2 ^ f.lo)

/-- The word with the field set to `v` (taken modulo the field's width). -/
def setF (f : Fld) (v : Nat) (w : Word) : Word :=
  (w &&& ~~~ maskF f) ||| BitVec.ofNat 32 (v % 2 ^ f.width * 2 ^ f.lo)

/-- Bit `n` of a word as 0 or 1. -/
def bitN (n : Nat) (w : Word) : Nat := if w.getLsbD n then 1 else 0

/-- The word with bit `n` set. -/
def setBit (n : Nat) (w : Word) : Word := w ||| BitVec.ofNat 32 (2 ^ n)

/-- The word with bit `n` clear. -/
def clrBit (n : Nat) (w : Word) : Word := w &&& ~~~ BitVec.ofNat 32 (2 ^ n)

/-- 1 for true, 0 for false. -/
def b2n (b : Bool) : Nat := if b then 1 else 0

/-- A word from a number, modulo 2^32. -/
def w32 (n : Nat) : Word := BitVec.ofNat 32 n

/-- The two's complement reading of the low `w` bits of `n`. -/
def sext (w n : Nat) : Int :=
  let m := n % 2 ^ w
  if m < 2 ^ (w - 1) then (m : Int) else (m : Int) - (2 : Int) ^ w

/-- The low `w` bits of an integer, as a number. -/
def toBits (w : Nat) (x : Int) : Nat := (x % (2 : Int) ^ w).toNat

/-- `x` limited to `lo .. hi`. -/
def clampI (lo hi x : Int) : Int := if x < lo then lo else if hi < x then hi else x

/-- `a + b`, held at `cap` once it would pass it (a counter that saturates, R492). -/
def satAdd (cap a b : Nat) : Nat := if cap < a + b then cap else a + b

/-! ### Lists -/

/-- The element at position `n`, or `d`. -/
def nth {α : Type} (d : α) : List α → Nat → α
  | [], _ => d
  | a :: _, 0 => a
  | _ :: l, n + 1 => nth d l n

/-- The list with position `n` replaced (unchanged where it is shorter). -/
def setNth {α : Type} : List α → Nat → α → List α
  | [], _, _ => []
  | _ :: l, 0, v => v :: l
  | a :: l, n + 1, v => a :: setNth l n v

/-- Append to a ring of at most `cap` entries, oldest first: a full ring loses its oldest entry. -/
def pushRing {α : Type} (cap : Nat) (l : List α) (a : α) : List α :=
  if l.length < cap then l ++ [a] else l.drop 1 ++ [a]

/-- Apply `f` for `i`, `i + 1`, …, `n` times in rising order. -/
def forUp {σ : Type} (f : Nat → σ → σ) : Nat → Nat → σ → σ
  | _, 0, s => s
  | i, n + 1, s => forUp f (i + 1) n (f i s)

/-- Is some `i` below `n` with `p i`? -/
def anyBelow (p : Nat → Bool) : Nat → Bool
  | 0 => false
  | n + 1 => anyBelow p n || p n

/-- Do all `i` below `n` satisfy `p`? -/
def allBelow (p : Nat → Bool) : Nat → Bool
  | 0 => true
  | n + 1 => allBelow p n && p n

/-- How many `i` below `n` satisfy `p`. -/
def countBelow (p : Nat → Bool) : Nat → Nat
  | 0 => 0
  | n + 1 => countBelow p n + b2n (p n)

/-- The sum of `2^i` over the `i` below `n` with `p i`: a word of flags. -/
def bitsBelow (p : Nat → Bool) : Nat → Nat
  | 0 => 0
  | n + 1 => bitsBelow p n + (if p n then 2 ^ n else 0)

/-- Insert a number into a rising list, once. -/
def insertNat (n : Nat) : List Nat → List Nat
  | [] => [n]
  | m :: l => if n < m then n :: m :: l else if n = m then m :: l else m :: insertNat n l

/-- Digit by digit square root: the bits below `b` of the largest `r` with r² ≤ n. -/
def sqrtBits (n : Nat) : Nat → Nat → Nat
  | 0, r => r
  | b + 1, r => if (r + 2 ^ b) * (r + 2 ^ b) ≤ n then sqrtBits n b (r + 2 ^ b) else sqrtBits n b r

/-- The floor of the square root. -/
def isqrt (n : Nat) : Nat := sqrtBits n (Nat.log2 n / 2 + 1) 0

/-- Half-up rounding division for natural numbers. -/
def divRound (a b : Nat) : Nat := (2 * a + b) / (2 * b)

/-- Half-up rounding of `a / b` for an integer `a` (ties towards positive infinity). -/
def divRoundI (a : Int) (b : Nat) : Int := (2 * a + b) / (2 * b)

end Sys2Proof.Machine
end

