-- ==== Sys2Proof/Machine/RegMap.lean ====
section
/-!
DEFINITION. The register map: the address of every register (R38, R72, R103, R139, R171, R197, R223, R261, R306, R329,
R359, R399, R433, R460, R482, R509, R534, R555, R575), the named fields of its field map, and for each class of
register addresses the rows that say which bits a write may touch and what the word holds at reset (R10 to R12,
R542, R543). The rows stand in the order of the manual's tables.
-/
namespace Sys2Proof.Machine

/-! ### Addresses and fields -/

/-- Base address of the `cf` registers (R541, R543). -/
def baseCf : Nat := 0x00FFFF00
def DEV_ID : Nat := baseCf + 0x00
def DEV_REV : Nat := baseCf + 0x04
def CHIP_MODE : Nat := baseCf + 0x08
def CHIP_MODE.mode : Fld := ⟨0, 3⟩
def CHIP_MODE.pair : Fld := ⟨4, 2⟩
def CHIP_MODE.chip_fault : Fld := ⟨8, 1⟩
def TBASE_LO : Nat := baseCf + 0x10
def TBASE_HI : Nat := baseCf + 0x14
def FRAME_NUM : Nat := baseCf + 0x18
def FRAME_EDGE_LO : Nat := baseCf + 0x1C
def FRAME_EDGE_HI : Nat := baseCf + 0x20
def TIME_STATUS : Nat := baseCf + 0x24
def TIME_STATUS.locked : Fld := ⟨0, 1⟩
def TIME_STATUS.holdover : Fld := ⟨1, 1⟩
def TIME_STATUS.frame_sync_present : Fld := ⟨2, 1⟩
def TIME_STATUS.refclk_lost : Fld := ⟨8, 1⟩
def TIME_STATUS.skew_event : Fld := ⟨9, 1⟩
def TIME_STATUS.frame_sync_lost : Fld := ⟨10, 1⟩
def TIME_STATUS.late_instant : Fld := ⟨11, 1⟩
def TIME_STATUS.skew_region : Fld := ⟨12, 4⟩
def REGION_FENCE : Nat := baseCf + 0x28
def REGION_FENCE.fenced : Fld := ⟨0, 16⟩
def PAIR_CFG : Nat := baseCf + 0x2C
def PAIR_CFG.pair_en : Fld := ⟨0, 1⟩
def PAIR_CFG.rank : Fld := ⟨1, 3⟩
def PAIR_CFG.cmp_tol : Fld := ⟨8, 8⟩
def PAIR_CFG.cmp_frac : Fld := ⟨16, 8⟩
def PAIR_DELAY : Nat := baseCf + 0x30
def PAIR_STATUS : Nat := baseCf + 0x34
def PAIR_STATUS.state : Fld := ⟨0, 2⟩
def PAIR_STATUS.claiming : Fld := ⟨2, 1⟩
def PAIR_STATUS.partner_seen : Fld := ⟨3, 1⟩
def PAIR_STATUS.budget_fresh : Fld := ⟨4, 1⟩
def PAIR_STATUS.sched_match : Fld := ⟨5, 1⟩
def PAIR_STATUS.promoting : Fld := ⟨6, 1⟩
def PAIR_STATUS.refusal : Fld := ⟨7, 3⟩
def PAIR_STATUS.bus_carat : Fld := ⟨16, 16⟩
def PAIR_FLAGS : Nat := baseCf + 0x38
def PAIR_FLAGS.promoted : Fld := ⟨0, 1⟩
def PAIR_FLAGS.withdrawn : Fld := ⟨1, 1⟩
def PAIR_FLAGS.promote_refused : Fld := ⟨2, 1⟩
def PAIR_FLAGS.rank_conflict : Fld := ⟨3, 1⟩
def PAIR_FLAGS.claim_crc : Fld := ⟨4, 1⟩
def PAIR_FLAGS.claim_silent : Fld := ⟨5, 1⟩
def PAIR_FLAGS.sched_mismatch : Fld := ⟨6, 1⟩
def PAIR_FLAGS.skew_jump : Fld := ⟨7, 1⟩
def PAIR_FLAGS.cmp_disagree : Fld := ⟨8, 1⟩
def PAIR_FLAGS.seq_gap : Fld := ⟨9, 1⟩
def PAIR_FLAGS.cnt_ovf : Fld := ⟨10, 1⟩
def PAIR_CMD : Nat := baseCf + 0x3C
def CUT_CTRL : Nat := baseCf + 0x40
def CUT_CTRL.command : Fld := ⟨0, 4⟩
def CUT_CTRL.slot : Fld := ⟨4, 2⟩
def CUT_STATUS : Nat := baseCf + 0x44
def CUT_STATUS.shadow_state : Fld := ⟨0, 3⟩
def CUT_STATUS.live_present : Fld := ⟨3, 1⟩
def CUT_STATUS.validated : Fld := ⟨8, 1⟩
def CUT_STATUS.validate_failed : Fld := ⟨9, 1⟩
def CUT_STATUS.cmd_refused : Fld := ⟨10, 1⟩
def CUT_STATUS.swap_done : Fld := ⟨11, 1⟩
def CUT_STATUS.digest_fault : Fld := ⟨12, 1⟩
def CUT_STATUS.owner : Fld := ⟨16, 2⟩
def CUT_STATUS.owner_lane : Fld := ⟨18, 5⟩
def CUT_SWAP_FRAME : Nat := baseCf + 0x48
def CUT_SHADOW_LEN : Nat := baseCf + 0x4C
def LIVE_EPOCH : Nat := baseCf + 0x50
def CUT_ERROR : Nat := baseCf + 0x54
def CUT_ERROR.code : Fld := ⟨0, 8⟩
def CUT_ERROR.frame : Fld := ⟨8, 16⟩
def CUT_SWAP_FIRST_LO : Nat := baseCf + 0x58
def CUT_SWAP_FIRST_HI : Nat := baseCf + 0x5C
def CUT_SWAP_LAST_LO : Nat := baseCf + 0x60
def CUT_SWAP_LAST_HI : Nat := baseCf + 0x64
def LIVE_DIGEST (i : Nat) : Nat := baseCf + 0x68 + 4 * i
def SHADOW_DIGEST (i : Nat) : Nat := baseCf + 0x88 + 4 * i
def CUT_REGION_MASK : Nat := baseCf + 0xA8
def PAIR_SKEW : Nat := baseCf + 0xAC
def PAIR_SKEW.skew : Fld := ⟨0, 16⟩
def PAIR_SKEW.valid : Fld := ⟨16, 1⟩
def PAIR_SCHED : Nat := baseCf + 0xB0
def PAIR_CMP : Nat := baseCf + 0xB4
def PAIR_CMP.regions : Fld := ⟨0, 6⟩
def PAIR_CMP.frame : Fld := ⟨8, 24⟩
def PAIR_CNT : Nat := baseCf + 0xB8
def PAIR_CNT.claim_crc_count : Fld := ⟨0, 16⟩
def PAIR_CNT.seq_gap_count : Fld := ⟨16, 16⟩
def CAL_SLEW : Nat := baseCf + 0xC0
def CAL_CMD : Nat := baseCf + 0xC4
def CAL_CMD.command : Fld := ⟨0, 4⟩
def CAL_FG_MASK_LO : Nat := baseCf + 0xC8
def CAL_FG_MASK_HI : Nat := baseCf + 0xCC
def CAL_FG_CFG : Nat := baseCf + 0xD0
def CAL_FG_STATUS : Nat := baseCf + 0xD4
def CAL_FG_STATUS.state : Fld := ⟨0, 2⟩
def CAL_FG_STATUS.port : Fld := ⟨2, 6⟩
def CAL_FG_STATUS.passed : Fld := ⟨8, 6⟩
def CAL_FG_STATUS.failed : Fld := ⟨14, 6⟩
def CAL_FG_STATUS.skipped : Fld := ⟨20, 6⟩
def CAL_SEL : Nat := baseCf + 0xD8
def CAL_SEL.kind : Fld := ⟨0, 8⟩
def CAL_SEL.cell : Fld := ⟨8, 8⟩
def CAL_SEL.block : Fld := ⟨16, 8⟩
def CAL_SEL.region : Fld := ⟨24, 4⟩
def CAL_SEL2 : Nat := baseCf + 0xDC
def CAL_SEL2.point : Fld := ⟨0, 3⟩
def CAL_SEL2.load_point : Fld := ⟨3, 1⟩
def CAL_SEL2.word : Fld := ⟨8, 7⟩
def CAL_SEL2.in_force : Fld := ⟨31, 1⟩
def CAL_WIN_DATA : Nat := baseCf + 0xE0
def CAL_INFO_COUNT : Nat := baseCf + 0xE4
def CAL_INFO_TIME : Nat := baseCf + 0xE8
def CAL_STATUS : Nat := baseCf + 0xEC
def CAL_STATUS.temp_stale : Fld := ⟨0, 1⟩
def CAL_STATUS.fg_refused : Fld := ⟨1, 1⟩
def CAL_STATUS.sel_bad : Fld := ⟨2, 1⟩
def CAL_STATUS.slew_active : Fld := ⟨3, 1⟩
def CAL_STATUS.fg_abandoned : Fld := ⟨4, 1⟩
def SCRATCH : Nat := baseCf + 0xF4
def SUM_CF_REGION : Nat := baseCf + 0xF8
def SUM_CHIP : Nat := baseCf + 0xFC

/-- Base address of the `rec` registers (R541, R543). -/
def baseRec : Nat := 0x00FF1000
def REC_SEL : Nat := baseRec + 0x00
def REC_CURSOR : Nat := baseRec + 0x04
def REC_HEAD : Nat := baseRec + 0x08
def REC_OLDEST : Nat := baseRec + 0x0C
def REC_CMD : Nat := baseRec + 0x10
def REC_CMD.fetch : Fld := ⟨0, 1⟩
def REC_CMD.clear : Fld := ⟨1, 1⟩
def REC_STATUS : Nat := baseRec + 0x14
def REC_STATUS.lost : Fld := ⟨0, 1⟩
def REC_STATUS.flash_lost : Fld := ⟨1, 1⟩
def REC_STATUS.wrap : Fld := ⟨2, 1⟩
def REC_STATUS.skipped : Fld := ⟨3, 1⟩
def REC_STATUS.busy : Fld := ⟨4, 1⟩
def REC_LOST : Nat := baseRec + 0x18
def REC_DATA (i : Nat) : Nat := baseRec + 0x20 + 4 * i
def OP_HOURS : Nat := baseRec + 0x40
def POWER_CYCLES : Nat := baseRec + 0x44
def LOUPE_CFG : Nat := baseRec + 0x50
def LOUPE_CFG.src_en : Fld := ⟨0, 4⟩
def LOUPE_CFG.in_pol : Fld := ⟨4, 1⟩
def LOUPE_CFG.evt_bit : Fld := ⟨8, 5⟩
def LOUPE_EVT_ADDR : Nat := baseRec + 0x54
def LOUPE_CMD : Nat := baseRec + 0x58
def LOUPE_STATUS : Nat := baseRec + 0x5C
def LOUPE_STATUS.armed : Fld := ⟨0, 1⟩
def LOUPE_STATUS.done : Fld := ⟨1, 1⟩
def LOUPE_STATUS.overrun : Fld := ⟨2, 1⟩
def LOUPE_STATUS.cmd_refused : Fld := ⟨3, 1⟩
def LOUPE_STATUS.cause : Fld := ⟨4, 4⟩
def LOUPE_STATUS.fired : Fld := ⟨8, 2⟩
def LOUPE_STATUS.overruns : Fld := ⟨10, 6⟩
def LOUPE_STATUS.count : Fld := ⟨16, 16⟩
def LOUPE_TIME_LO : Nat := baseRec + 0x60
def LOUPE_TIME_HI : Nat := baseRec + 0x64
def LOUPE_SEL : Nat := baseRec + 0x68
def LOUPE_SEL.word : Fld := ⟨0, 9⟩
def LOUPE_SEL.block : Fld := ⟨16, 8⟩
def LOUPE_SEL.region : Fld := ⟨24, 4⟩
def LOUPE_DATA : Nat := baseRec + 0x6C

/-- Base address of the `fw` registers (R541, R543). -/
def baseFw : Nat := 0x00FF2000
def FW_CMD : Nat := baseFw + 0x00
def FW_CMD.command : Fld := ⟨0, 4⟩
def FW_CMD.slot : Fld := ⟨4, 2⟩
def FW_CMD.switch : Fld := ⟨8, 1⟩
def FW_STATUS : Nat := baseFw + 0x04
def FW_STATUS.session : Fld := ⟨0, 2⟩
def FW_STATUS.owner : Fld := ⟨2, 2⟩
def FW_STATUS.owner_lane : Fld := ⟨4, 5⟩
def FW_STATUS.image_state : Fld := ⟨9, 3⟩
def FW_STATUS.in_control : Fld := ⟨12, 2⟩
def FW_STATUS.ready : Fld := ⟨14, 1⟩
def FW_STATUS.presence : Fld := ⟨15, 1⟩
def FW_STATUS.presence_s : Fld := ⟨16, 7⟩
def FW_STATUS.pausing : Fld := ⟨23, 1⟩
def FW_RESULT : Nat := baseFw + 0x08
def FW_RESULT.command : Fld := ⟨0, 4⟩
def FW_RESULT.refusal : Fld := ⟨8, 4⟩
def FW_RESULT.verify_code : Fld := ⟨16, 8⟩
def FW_FLAGS : Nat := baseFw + 0x0C
def FW_FLAGS.session_busy : Fld := ⟨0, 1⟩
def FW_FLAGS.verified : Fld := ⟨1, 1⟩
def FW_FLAGS.verify_failed : Fld := ⟨2, 1⟩
def FW_FLAGS.activated : Fld := ⟨3, 1⟩
def FW_FLAGS.cmd_refused : Fld := ⟨4, 1⟩
def FW_FLAGS.session_expired : Fld := ⟨5, 1⟩
def FW_FLAGS.fallback : Fld := ⟨8, 1⟩
def FW_FLAGS.presence_opened : Fld := ⟨12, 1⟩
def FW_FLAGS.key_changed : Fld := ⟨16, 1⟩
def FW_FLAGS.key_refused : Fld := ⟨17, 1⟩
def FW_FLAGS.attest_done : Fld := ⟨20, 1⟩
def FW_FLAGS.settings_bad : Fld := ⟨24, 1⟩
def FW_FLAGS.settings_switched : Fld := ⟨25, 1⟩
def FW_FLAGS.flash_error : Fld := ⟨28, 1⟩
def FW_FLAGS.control_repaired : Fld := ⟨29, 1⟩
def FW_ADDR : Nat := baseFw + 0x10
def FW_DATA : Nat := baseFw + 0x14
def FW_CFG : Nat := baseFw + 0x18
def FW_PAUSE : Nat := baseFw + 0x1C
def FW_IMAGE : Nat := baseFw + 0x20
def FW_SECVER : Nat := baseFw + 0x24
def FW_SECVER.running : Fld := ⟨0, 16⟩
def FW_SECVER.minimum : Fld := ⟨16, 16⟩
def KEY_SEL : Nat := baseFw + 0x28
def KEY_STATUS : Nat := baseFw + 0x2C
def KEY_DATA (i : Nat) : Nat := baseFw + 0x30 + 4 * i
def ATT_NONCE (i : Nat) : Nat := baseFw + 0x50 + 4 * i
def ATT_SEL : Nat := baseFw + 0x70
def ATT_SEL.word : Fld := ⟨0, 13⟩
def ATT_SEL.endorsement : Fld := ⟨13, 1⟩
def ATT_DATA : Nat := baseFw + 0x74
def ATT_PUBKEY (i : Nat) : Nat := baseFw + 0x78 + 4 * i
def DEV_SERIAL_LO : Nat := baseFw + 0x98
def DEV_SERIAL_HI : Nat := baseFw + 0x9C

/-- Base address of the `mgmt` registers (R541, R543). -/
def baseMgmt : Nat := 0x00FF3000
def MGMT_FLAGS : Nat := baseMgmt + 0x00
def MGMT_FLAGS.access : Fld := ⟨0, 1⟩
def MGMT_FLAGS.no_target : Fld := ⟨1, 1⟩
def MGMT_FLAGS.crc : Fld := ⟨2, 1⟩
def MGMT_FLAGS.bad_op : Fld := ⟨3, 1⟩
def MGMT_FLAGS.off : Fld := ⟨4, 1⟩
def MGMT_FLAGS.fenced : Fld := ⟨5, 1⟩
def MGMT_FLAGS.busy : Fld := ⟨6, 1⟩
def MGMT_FLAGS.ecc : Fld := ⟨7, 1⟩
def MGMT_FLAGS.frame_abort : Fld := ⟨8, 1⟩
def MGMT_FLAGS.err_ovf : Fld := ⟨9, 1⟩
def MGMT_ERR_INFO : Nat := baseMgmt + 0x04
def MGMT_ERR_INFO.status : Fld := ⟨0, 8⟩
def MGMT_ERR_INFO.requester : Fld := ⟨8, 6⟩
def MGMT_ERR_ADDR : Nat := baseMgmt + 0x08
def MGMT_SPI_CRC : Nat := baseMgmt + 0x0C
def MGMT_ERR (i : Nat) : Nat := baseMgmt + 0x10 + 4 * i
def MGMT_ERR.count : Fld := ⟨0, 16⟩

/-- Base address of the `modeReg` registers (R541, R543). -/
def baseModeReg : Nat := 0x00FF4000
def MODE_CMD : Nat := baseModeReg + 0x00
def MODE_CMD.command : Fld := ⟨0, 4⟩
def MODE_CMD.key : Fld := ⟨16, 16⟩
def MODE_STATUS : Nat := baseModeReg + 0x04
def MODE_STATUS.phase : Fld := ⟨0, 3⟩
def MODE_STATUS.startup_done : Fld := ⟨3, 1⟩
def MODE_STATUS.selftest_pass : Fld := ⟨4, 1⟩
def MODE_STATUS.service_shooting : Fld := ⟨5, 1⟩
def MODE_STATUS.refusal : Fld := ⟨8, 4⟩
def MODE_STATUS.command : Fld := ⟨12, 4⟩
def MODE_STATUS.boot_cut_code : Fld := ⟨16, 8⟩
def RESET_CAUSE : Nat := baseModeReg + 0x08
def RESET_CAUSE.cause : Fld := ⟨0, 4⟩
def RESET_CAUSE.proc : Fld := ⟨4, 4⟩
def STARTUP_TIME : Nat := baseModeReg + 0x0C
def STARTUP_TIME.to_mode : Fld := ⟨0, 16⟩
def STARTUP_TIME.to_done : Fld := ⟨16, 16⟩

/-- Base address of the `hk` registers (R541, R543). -/
def baseHk : Nat := 0x01FFFF00
def HK_STATUS : Nat := baseHk + 0x00
def HK_STATUS.junction_hot : Fld := ⟨0, 1⟩
def HK_STATUS.hottest : Fld := ⟨1, 4⟩
def HK_STATUS.hottest_val : Fld := ⟨16, 16⟩
def HK_FLAGS : Nat := baseHk + 0x04
def HK_FLAGS.junction_hot_seen : Fld := ⟨0, 1⟩
def HK_EXC : Nat := baseHk + 0x08
def HK_SUP (i : Nat) : Nat := baseHk + 0x10 + 4 * i
def HK_SUP.mv : Fld := ⟨0, 16⟩
def HK_SUP.good : Fld := ⟨16, 1⟩
def HK_SUP.in_window : Fld := ⟨17, 1⟩
def HK_SUP.valid : Fld := ⟨18, 1⟩
def HK_SUP_FLAGS : Nat := baseHk + 0x38
def PWR_DOM_ON (i : Nat) : Nat := baseHk + 0x40 + 4 * i
def PWR_DOM_GOOD (i : Nat) : Nat := baseHk + 0x4C + 4 * i
def PWR_DOM_FAULT (i : Nat) : Nat := baseHk + 0x58 + 4 * i
def SUM_HK_CELL : Nat := baseHk + 0xF8

/-- Base address of the `hkChan` registers (R541, R543). -/
def baseHkChan (t : Nat) : Nat := 0x01FF0000 + (if t < 23 then t else t + 1) * 0x100
def HK_T_CFG (t : Nat) : Nat := baseHkChan t + 0x00
def HK_EXC.exc_cur : Fld := ⟨0, 2⟩
def HK_T_CFG.en : Fld := ⟨0, 1⟩
def HK_T_CFG.act_low : Fld := ⟨1, 1⟩
def HK_T_CFG.act_high : Fld := ⟨2, 1⟩
def HK_T_CFG.act_rate : Fld := ⟨3, 1⟩
def HK_T_CFG.hyst : Fld := ⟨8, 8⟩
def HK_T_CFG.rate_lim : Fld := ⟨16, 16⟩
def HK_T_LIM (t : Nat) : Nat := baseHkChan t + 0x04
def HK_T_LIM.low : Fld := ⟨0, 16⟩
def HK_T_LIM.high : Fld := ⟨16, 16⟩
def HK_T_VAL (t : Nat) : Nat := baseHkChan t + 0x08
def HK_T_RATE (t : Nat) : Nat := baseHkChan t + 0x0C
def HK_T_RATE.rate : Fld := ⟨0, 16⟩
def HK_T_RATE.valid : Fld := ⟨16, 1⟩
def HK_T_FLAGS (t : Nat) : Nat := baseHkChan t + 0x10
def HK_T_FLAGS.low_cross : Fld := ⟨0, 1⟩
def HK_T_FLAGS.high_cross : Fld := ⟨1, 1⟩
def HK_T_FLAGS.rate_cross : Fld := ⟨2, 1⟩
def HK_T_FLAGS.stale : Fld := ⟨3, 1⟩
def HK_T_FLAGS.low_active : Fld := ⟨4, 1⟩
def HK_T_FLAGS.high_active : Fld := ⟨5, 1⟩
def HK_T_FLAGS.rate_active : Fld := ⟨6, 1⟩

/-- Base address of the `sf` registers (R541, R543). -/
def baseSf : Nat := 0x02FFFF00
def SF_STATUS : Nat := baseSf + 0x00
def SF_STATUS.state_a : Fld := ⟨0, 4⟩
def SF_STATUS.state_b : Fld := ⟨4, 4⟩
def SF_STATUS.fb_a : Fld := ⟨8, 1⟩
def SF_STATUS.fb_b : Fld := ⟨9, 1⟩
def SF_STATUS.estop_a : Fld := ⟨10, 1⟩
def SF_STATUS.estop_b : Fld := ⟨11, 1⟩
def SF_STATUS.rst_level : Fld := ⟨12, 1⟩
def SF_CAUSE : Nat := baseSf + 0x04
def SF_CAUSE.cause : Fld := ⟨0, 13⟩
def SF_FLAGS : Nat := baseSf + 0x08
def SF_FLAGS.tripped : Fld := ⟨0, 1⟩
def SF_FLAGS.fault : Fld := ⟨1, 1⟩
def SF_FLAGS.rst_ignored : Fld := ⟨2, 1⟩
def SF_FLAGS.rst_stuck : Fld := ⟨3, 1⟩
def SF_FLAGS.lockout : Fld := ⟨4, 1⟩
def SF_FLAGS.cmd_refused : Fld := ⟨5, 1⟩
def SF_FLAGS.commit_dropped : Fld := ⟨6, 1⟩
def SF_FLAGS.motion_lost : Fld := ⟨7, 1⟩
def SF_FLAGS.log_written : Fld := ⟨8, 1⟩
def SF_CMD : Nat := baseSf + 0x0C
def SF_SET_DIGEST : Nat := baseSf + 0x10
def SF_PWD_LEN : Nat := baseSf + 0x14
def SF_PWD (i : Nat) : Nat := baseSf + 0x18 + 4 * i
def SF_PWD_STATUS : Nat := baseSf + 0x28
def SF_PWD_STATUS.set_ : Fld := ⟨0, 1⟩
def SF_PWD_STATUS.unlocked : Fld := ⟨1, 1⟩
def SF_PWD_STATUS.remaining : Fld := ⟨8, 8⟩
def SF_PWD_STATUS.failures : Fld := ⟨16, 3⟩
def SF_PWD_STATUS.lockout : Fld := ⟨20, 12⟩
def SF_PARAM_IDX : Nat := baseSf + 0x2C
def SF_PARAM_DATA : Nat := baseSf + 0x30
def SF_LOG_IDX : Nat := baseSf + 0x34
def SF_LOG_HEAD : Nat := baseSf + 0x38
def SF_RESULT : Nat := baseSf + 0x3C
def SF_RESULT.test : Fld := ⟨0, 2⟩
def SF_RESULT.item : Fld := ⟨2, 6⟩
def SF_RESULT.refusal : Fld := ⟨8, 8⟩
def SF_LOG_DATA (i : Nat) : Nat := baseSf + 0x40 + 4 * i
def SF_ENERGY_IDX : Nat := baseSf + 0x60
def SF_ENERGY_IDX.emitter : Fld := ⟨0, 6⟩
def SF_ENERGY_IDX.window : Fld := ⟨6, 2⟩
def SF_ENERGY_IDX.aggregate : Fld := ⟨8, 1⟩
def SF_ENERGY_IDX.channel_b : Fld := ⟨9, 1⟩
def SF_ENERGY_LO : Nat := baseSf + 0x64
def SF_ENERGY_HI : Nat := baseSf + 0x68

/-- Base address of the `scAxis` registers (R541, R543). -/
def baseScAxis (a : Nat) : Nat := 0x03000000 + a * 0x100
def SC_AXIS_CFG (a : Nat) : Nat := baseScAxis a + 0x00
def SC_AXIS_CFG.mode : Fld := ⟨0, 2⟩
def SC_AXIS_CFG.chop_en : Fld := ⟨2, 1⟩
def SC_AXIS_CFG.chop_n : Fld := ⟨3, 12⟩
def SC_AXIS_EXC (a : Nat) : Nat := baseScAxis a + 0x04
def SC_AXIS_EXC.level : Fld := ⟨0, 8⟩
def SC_AXIS_EXC.exc_on : Fld := ⟨8, 1⟩
def SC_AXIS_AMP (a : Nat) : Nat := baseScAxis a + 0x08
def SC_AXIS_STATUS (a : Nat) : Nat := baseScAxis a + 0x0C
def SC_AXIS_STATUS.exc_state : Fld := ⟨0, 2⟩
def SC_AXIS_STATUS.locked : Fld := ⟨2, 1⟩
def SC_AXIS_STATUS.wait_frame : Fld := ⟨3, 1⟩
def SC_AXIS_STATUS.scan_fault : Fld := ⟨4, 1⟩
def SC_AXIS_STATUS.amplitude : Fld := ⟨8, 24⟩
def SC_AXIS_PHASE (a : Nat) : Nat := baseScAxis a + 0x10
def SC_AXIS_FLAGS (a : Nat) : Nat := baseScAxis a + 0x14
def SC_AXIS_FLAGS.exc_fault : Fld := ⟨0, 1⟩
def SC_AXIS_FLAGS.unlocked : Fld := ⟨1, 1⟩

/-- Base address of the `scLoop` registers (R541, R543). -/
def baseScLoop (l : Nat) : Nat := 0x03004000 + l * 0x100
def SC_LOOP_SP (l : Nat) : Nat := baseScLoop l + 0x00
def SC_LOOP_STATUS (l : Nat) : Nat := baseScLoop l + 0x04
def SC_LOOP_STATUS.state : Fld := ⟨0, 3⟩
def SC_LOOP_STATUS.ramp_limited : Fld := ⟨3, 1⟩
def SC_LOOP_STATUS.sat_hi : Fld := ⟨4, 1⟩
def SC_LOOP_STATUS.sat_lo : Fld := ⟨5, 1⟩
def SC_LOOP_STATUS.cause : Fld := ⟨8, 4⟩
def SC_LOOP_FB (l : Nat) : Nat := baseScLoop l + 0x08
def SC_LOOP_OUT (l : Nat) : Nat := baseScLoop l + 0x0C
def SC_LOOP_DELAY (l : Nat) : Nat := baseScLoop l + 0x10
def SC_LOOP_DELAY.last : Fld := ⟨0, 8⟩
def SC_LOOP_DELAY.least : Fld := ⟨8, 8⟩
def SC_LOOP_DELAY.greatest : Fld := ⟨16, 8⟩
def SC_LOOP_TIME (l : Nat) : Nat := baseScLoop l + 0x14
def SC_LOOP_FLAGS (l : Nat) : Nat := baseScLoop l + 0x18
def SC_LOOP_FLAGS.out_of_range : Fld := ⟨0, 1⟩
def SC_LOOP_FLAGS.timeout : Fld := ⟨1, 1⟩
def SC_LOOP_FLAGS.frozen : Fld := ⟨2, 1⟩
def SC_LOOP_FLAGS.motion_lost : Fld := ⟨3, 1⟩
def SC_LOOP_FLAGS.ramp_limited_seen : Fld := ⟨4, 1⟩
def SC_LOOP_FLAGS.overrun : Fld := ⟨5, 1⟩
def SC_LOOP_FLAGS.rearm_failed : Fld := ⟨6, 1⟩
def SC_LOOP_FLAGS.temp_stale : Fld := ⟨7, 1⟩
def SC_LOOP_FLAGS.settle_held : Fld := ⟨8, 1⟩
def SC_LOOP_FLAGS.overrun_ovf : Fld := ⟨9, 1⟩
def SC_LOOP_FLAGS.overrun_count : Fld := ⟨16, 16⟩
def SC_LOOP_CMD (l : Nat) : Nat := baseScLoop l + 0x1C

/-- Base address of the `scEng` registers (R541, R543). -/
def baseScEng : Nat := 0x0300FF00
def SC_ENG_STATUS : Nat := baseScEng + 0x00
def SC_ENG_STATUS.load : Fld := ⟨0, 13⟩
def SC_ENG_STATUS.scan_faults : Fld := ⟨16, 8⟩
def SC_ENG_FLAGS : Nat := baseScEng + 0x04
def SC_ENG_FLAGS.overload : Fld := ⟨0, 1⟩
def SC_ENG_FLAGS.overrun_any : Fld := ⟨1, 1⟩
def SC_ENG_FLAGS.scan_fault_raised : Fld := ⟨2, 1⟩
def SUM_SC_AXES : Nat := baseScEng + 0xF0
def SUM_SC_LOOPS_LO : Nat := baseScEng + 0xF4
def SUM_SC_LOOPS_HI : Nat := baseScEng + 0xF8
def SUM_SC_BLOCK : Nat := baseScEng + 0xFC

/-- Base address of the `tx` registers (R541, R543). -/
def baseTx : Nat := 0x04FFFF00
def TX_SCHED_STATUS : Nat := baseTx + 0x00
def TX_SCHED_STATUS.running : Fld := ⟨0, 1⟩
def TX_SCHED_STATUS.frame_wait : Fld := ⟨1, 1⟩
def TX_SCHED_STATUS.fire_withdrawn : Fld := ⟨8, 1⟩
def TX_SCHED_STATUS.late_slot : Fld := ⟨9, 1⟩
def TX_SCHED_STATUS.hop_refused : Fld := ⟨10, 1⟩
def TX_CODE_CFG : Nat := baseTx + 0x04
def TX_CODE_CFG.present : Fld := ⟨0, 1⟩
def TX_CODE_CFG.dither_step : Fld := ⟨1, 4⟩
def TX_CODE_CFG.listen_period : Fld := ⟨16, 16⟩
def TX_CODE_HOPS : Nat := baseTx + 0x08
def TX_HOP_FRAME : Nat := baseTx + 0x0C

/-- Base address of the `txBlk` registers (R541, R543). -/
def baseTxBlk (b : Nat) : Nat := 0x0400FF00 + b * 0x10000
def TX_BLK_MON_CFG (b : Nat) : Nat := baseTxBlk b + 0x00
def TX_BLK_MON_CFG.mon_range : Fld := ⟨0, 2⟩
def TX_BLK_MON_CFG.mon_persist : Fld := ⟨2, 4⟩
def TX_BLK_MON_CFG.mon_tail : Fld := ⟨6, 4⟩
def TX_BLK_MON_LIM (b : Nat) : Nat := baseTxBlk b + 0x04
def TX_BLK_MON_LIM.mon_min : Fld := ⟨0, 12⟩
def TX_BLK_MON_LIM.mon_max : Fld := ⟨16, 12⟩

/-- Base address of the `txPort` registers (R541, R543). -/
def baseTxPort (p : Nat) : Nat := 0x04000000 + p / 16 * 0x10000 + p % 16 * 0x100
def TX_PORT_STATUS (p : Nat) : Nat := baseTxPort p + 0x00
def TX_PORT_STATUS.state : Fld := ⟨0, 2⟩
def TX_PORT_STATUS.last_charge : Fld := ⟨16, 12⟩
def TX_PORT_FLAGS (p : Nat) : Nat := baseTxPort p + 0x04
def TX_PORT_FLAGS.mon_low : Fld := ⟨0, 1⟩
def TX_PORT_FLAGS.mon_high : Fld := ⟨1, 1⟩
def TX_PORT_FLAGS.fires_ovf : Fld := ⟨31, 1⟩
def TX_PORT_FIRES_LO (p : Nat) : Nat := baseTxPort p + 0x08
def TX_PORT_FIRES_HI (p : Nat) : Nat := baseTxPort p + 0x0C
def TX_PORT_CMD (p : Nat) : Nat := baseTxPort p + 0x10
def TX_PORT_CMD.rearm : Fld := ⟨0, 1⟩

/-- Base address of the `lk` registers (R541, R543). -/
def baseLk : Nat := 0x05FFFF00
def LK_DROP (i : Nat) : Nat := baseLk + 0x00 + 4 * i
def LK_UP : Nat := baseLk + 0x40
def LK_STREAM_CFG : Nat := baseLk + 0x44
def LK_STREAM_CFG.point_wait : Fld := ⟨0, 8⟩
def LK_STREAM_CFG.capt_timeout : Fld := ⟨8, 8⟩
def LK_STREAM_CFG.mgmt_rate : Fld := ⟨16, 8⟩
def LK_FLAGS : Nat := baseLk + 0x48
def LK_FLAGS.drop_seen : Fld := ⟨0, 1⟩
def LK_FLAGS.no_lane : Fld := ⟨1, 1⟩
def LK_FLAGS.drop_ovf : Fld := ⟨2, 1⟩

/-- Base address of the `lkLane` registers (R541, R543). -/
def baseLkLane (l : Nat) : Nat := 0x05000000 + l / 8 * 0x10000 + l % 8 * 0x100
def LK_LANE_CFG (l : Nat) : Nat := baseLkLane l + 0x00
def LK_LANE_CFG.max_rate : Fld := ⟨0, 3⟩
def LK_LANE_CFG.pre_fixed : Fld := ⟨3, 1⟩
def LK_LANE_CFG.far_loop_allow : Fld := ⟨4, 1⟩
def LK_LANE_PRE (l : Nat) : Nat := baseLkLane l + 0x04
def LK_LANE_PRE.c_pre : Fld := ⟨0, 3⟩
def LK_LANE_PRE.c_post : Fld := ⟨4, 4⟩
def LK_LANE_STATUS (l : Nat) : Nat := baseLkLane l + 0x08
def LK_LANE_STATUS.state : Fld := ⟨0, 4⟩
def LK_LANE_STATUS.rate : Fld := ⟨4, 3⟩
def LK_LANE_STATUS.preset_used : Fld := ⟨7, 1⟩
def LK_LANE_STATUS.c_pre : Fld := ⟨8, 3⟩
def LK_LANE_STATUS.c_post : Fld := ⟨12, 4⟩
def LK_LANE_STATUS.partner_rates : Fld := ⟨16, 5⟩
def LK_LANE_STATUS.partner_credits : Fld := ⟨21, 1⟩
def LK_LANE_STATUS.partner_eq : Fld := ⟨22, 1⟩
def LK_LANE_STATUS.partner_lane : Fld := ⟨23, 5⟩
def LK_LANE_FLAGS (l : Nat) : Nat := baseLkLane l + 0x0C
def LK_LANE_FLAGS.crc_in : Fld := ⟨0, 1⟩
def LK_LANE_FLAGS.malformed : Fld := ⟨1, 1⟩
def LK_LANE_FLAGS.retrained : Fld := ⟨2, 1⟩
def LK_LANE_FLAGS.partner_lost : Fld := ⟨3, 1⟩
def LK_LANE_FLAGS.failed : Fld := ⟨4, 1⟩
def LK_LANE_FLAGS.mgmt_limited : Fld := ⟨5, 1⟩
def LK_LANE_FLAGS.loop_refused : Fld := ⟨6, 1⟩
def LK_LANE_FLAGS.train_bad : Fld := ⟨7, 1⟩
def LK_LANE_FLAGS.cnt_ovf : Fld := ⟨8, 1⟩
def LK_LANE_CNT0 (l : Nat) : Nat := baseLkLane l + 0x10
def LK_LANE_CNT0.crc_count : Fld := ⟨0, 16⟩
def LK_LANE_CNT0.malformed_count : Fld := ⟨16, 16⟩
def LK_LANE_CNT1 (l : Nat) : Nat := baseLkLane l + 0x14
def LK_LANE_CNT1.retrain_count : Fld := ⟨0, 16⟩
def LK_LANE_CNT1.mgmt_limited_count : Fld := ⟨16, 16⟩
def LK_LANE_TEST (l : Nat) : Nat := baseLkLane l + 0x18
def LK_LANE_TEST.loop : Fld := ⟨0, 2⟩
def LK_LANE_TEST.prbs_tx : Fld := ⟨2, 1⟩
def LK_LANE_TEST.prbs_chk : Fld := ⟨3, 1⟩
def LK_LANE_PRBS_ERR (l : Nat) : Nat := baseLkLane l + 0x1C
def LK_LANE_CMD (l : Nat) : Nat := baseLkLane l + 0x20

/-- Base address of the `aqSel` registers (R541, R543). -/
def baseAqSel : Nat := 0x06FF0000
def AQ_SEL (i : Nat) : Nat := baseAqSel + 0x00 + 4 * i

/-- Base address of the `aqTrig` registers (R541, R543). -/
def baseAqTrig : Nat := 0x06FF0100
def AQ_TRIG (i : Nat) : Nat := baseAqTrig + 0x00 + 4 * i

/-- Base address of the `aq` registers (R541, R543). -/
def baseAq : Nat := 0x06FFFF00
def AQ_CTRL : Nat := baseAq + 0x00
def AQ_CTRL.command : Fld := ⟨0, 3⟩
def AQ_CFG : Nat := baseAq + 0x04
def AQ_CFG.seq_mode : Fld := ⟨0, 2⟩
def AQ_CFG.stream : Fld := ⟨2, 1⟩
def AQ_CFG.ext_en : Fld := ⟨3, 1⟩
def AQ_CFG.ext_pol : Fld := ⟨4, 1⟩
def AQ_CFG.xline_in : Fld := ⟨5, 1⟩
def AQ_CFG.xline_out : Fld := ⟨6, 1⟩
def AQ_CFG.edge_en : Fld := ⟨7, 1⟩
def AQ_CFG.edge_pol : Fld := ⟨8, 2⟩
def AQ_CFG.rate_en : Fld := ⟨10, 1⟩
def AQ_SEG_CFG : Nat := baseAq + 0x08
def AQ_POST : Nat := baseAq + 0x0C
def AQ_POST_TIME : Nat := baseAq + 0x10
def AQ_RATE : Nat := baseAq + 0x14
def AQ_RATE.rate_n : Fld := ⟨0, 16⟩
def AQ_RATE.rate_win : Fld := ⟨16, 16⟩
def AQ_XLINE : Nat := baseAq + 0x18
def AQ_XLINE.xline_len : Fld := ⟨0, 12⟩
def AQ_XLINE.xline_stuck : Fld := ⟨16, 8⟩
def AQ_STATUS : Nat := baseAq + 0x1C
def AQ_STATUS.state : Fld := ⟨0, 3⟩
def AQ_STATUS.transmitting : Fld := ⟨3, 1⟩
def AQ_STATUS.segment : Fld := ⟨4, 12⟩
def AQ_STATUS.closed : Fld := ⟨16, 13⟩
def AQ_FLAGS : Nat := baseAq + 0x20
def AQ_FLAGS.triggered : Fld := ⟨0, 1⟩
def AQ_FLAGS.ingress_loss : Fld := ⟨1, 1⟩
def AQ_FLAGS.xline_stuck : Fld := ⟨2, 1⟩
def AQ_FLAGS.ecc_corrected : Fld := ⟨3, 1⟩
def AQ_FLAGS.ecc_fatal : Fld := ⟨4, 1⟩
def AQ_FLAGS.cmd_refused : Fld := ⟨5, 1⟩
def AQ_FLAGS.aborted : Fld := ⟨6, 1⟩
def AQ_FLAGS.cnt_ovf : Fld := ⟨7, 1⟩
def AQ_LOST : Nat := baseAq + 0x24
def AQ_CNT : Nat := baseAq + 0x28
def AQ_CNT.trig_ignored : Fld := ⟨0, 16⟩
def AQ_CNT.rearm_wait : Fld := ⟨16, 16⟩
def AQ_MASK_STATUS : Nat := baseAq + 0x2C
def AQ_MASK_STATUS.violated : Fld := ⟨0, 8⟩
def AQ_MASK_STATUS.inactive : Fld := ⟨8, 8⟩

/-- Base address of the `rxReg` registers (R541, R543). -/
def baseRxReg (n : Nat) : Nat := 0x08FFFF00 + n * 0x1000000
def RX_GATE_IDX (n : Nat) : Nat := baseRxReg n + 0x40
def RX_GATE_DATA (n : Nat) : Nat := baseRxReg n + 0x44
def RX_GATE_CMD (n : Nat) : Nat := baseRxReg n + 0x48
def RX_GATE_CMD.command : Fld := ⟨0, 3⟩
def RX_GATE_FRAME (n : Nat) : Nat := baseRxReg n + 0x4C
def RX_GATE_STATUS (n : Nat) : Nat := baseRxReg n + 0x50
def RX_GATE_STATUS.staged : Fld := ⟨0, 7⟩
def RX_GATE_STATUS.pending : Fld := ⟨7, 1⟩
def RX_GATE_STATUS.stage_full : Fld := ⟨8, 1⟩
def RX_GATE_STATUS.refused : Fld := ⟨9, 1⟩
def RX_GATE_STATUS.applied : Fld := ⟨10, 1⟩
def EX_REC (n : Nat) : Nat := baseRxReg n + 0x60
def EX_REC.kind : Fld := ⟨0, 1⟩
def EX_REC.mode : Fld := ⟨1, 2⟩
def EX_REC.skip : Fld := ⟨4, 4⟩
def EX_REC.report_conf : Fld := ⟨8, 8⟩
def EX_PEAK (n : Nat) : Nat := baseRxReg n + 0x64
def EX_PEAK.peak_k : Fld := ⟨0, 6⟩
def EX_PEAK.peak_min : Fld := ⟨8, 6⟩
def EX_PEAK.bg_guard : Fld := ⟨16, 4⟩
def EX_CLASS (n : Nat) : Nat := baseRxReg n + 0x68
def EX_CLASS.conf_gain : Fld := ⟨0, 8⟩
def EX_CLASS.diff_width : Fld := ⟨8, 8⟩
def EX_CLASS.diff_rho : Fld := ⟨16, 8⟩
def EX_CLASS.diff_range : Fld := ⟨24, 8⟩
def EX_RANGE_SCALE (n : Nat) : Nat := baseRxReg n + 0x6C

/-- Base address of the `rxBlk` registers (R541, R543). -/
def baseRxBlk (k : Nat) : Nat := 0x0800FF00 + k / 8 * 0x1000000 + k % 8 * 0x10000
def RX_BLK_WIN (k : Nat) : Nat := baseRxBlk k + 0x00
def RX_BLK_WIN.self_pre : Fld := ⟨0, 8⟩
def RX_BLK_WIN.self_post : Fld := ⟨8, 8⟩
def RX_BLK_WIN.xt_pre : Fld := ⟨16, 8⟩
def RX_BLK_WIN.xt_post : Fld := ⟨24, 8⟩
def RX_BLK_XT_LO (k : Nat) : Nat := baseRxBlk k + 0x04
def RX_BLK_XT_HI (k : Nat) : Nat := baseRxBlk k + 0x08
def RX_BLK_EXTBLANK (k : Nat) : Nat := baseRxBlk k + 0x0C
def RX_BLK_EXTBLANK.ext_en : Fld := ⟨0, 1⟩
def RX_BLK_EXTBLANK.blank_delay : Fld := ⟨4, 12⟩
def RX_BLK_EXTBLANK.blank_tail : Fld := ⟨16, 12⟩
def RX_BLK_EXTBLANK.blank_max : Fld := ⟨28, 4⟩
def RX_BLK_TONE (k : Nat) : Nat := baseRxBlk k + 0x10
def RX_BLK_TONE.cap_open : Fld := ⟨0, 12⟩
def RX_BLK_TONE.cap_short : Fld := ⟨12, 12⟩
def RX_BLK_TONE.tone_en : Fld := ⟨24, 1⟩
def RX_BLK_BIAS_CFG (k : Nat) : Nat := baseRxBlk k + 0x14
def RX_BLK_BIAS_SNS (k : Nat) : Nat := baseRxBlk k + 0x18
def RX_BLK_BIAS_SNS.bias : Fld := ⟨0, 16⟩
def RX_BLK_BIAS_SNS.valid : Fld := ⟨16, 1⟩
def RX_BLK_STATUS (k : Nat) : Nat := baseRxBlk k + 0x1C
def RX_BLK_STATUS.blank_active : Fld := ⟨0, 1⟩
def RX_BLK_STATUS.blank_stuck : Fld := ⟨1, 1⟩
def GD_BLK_STATUS (k : Nat) : Nat := baseRxBlk k + 0x20
def GD_BLK_STATUS.cal_drift : Fld := ⟨0, 1⟩
def GD_BLK_STATUS.ref_fail : Fld := ⟨1, 1⟩
def GD_BLK_STATUS.marker_jump : Fld := ⟨2, 1⟩
def GD_BLK_STATUS.ring_locked : Fld := ⟨3, 1⟩
def GD_BLK_STATUS.ref_fail_run : Fld := ⟨4, 4⟩
def GD_BLK_REF (k : Nat) : Nat := baseRxBlk k + 0x24
def GD_BLK_REF.divergence : Fld := ⟨0, 12⟩
def GD_BLK_REF.last_result : Fld := ⟨12, 2⟩
def GD_BLK_REF.runs : Fld := ⟨14, 18⟩
def GD_BLK_SKEW (k : Nat) : Nat := baseRxBlk k + 0x28
def GD_BLK_SKEW.skew : Fld := ⟨0, 16⟩
def RX_BLK_SEQ (k : Nat) : Nat := baseRxBlk k + 0x2C
def RX_BLK_SEQ.sequence : Fld := ⟨0, 6⟩
def RX_BLK_SEQ.bound : Fld := ⟨6, 1⟩
def RX_BLK_SEQ.step_eff : Fld := ⟨7, 4⟩
def RX_BLK_SEQ.overrun : Fld := ⟨16, 1⟩
def RX_BLK_SEQ.step_clamped : Fld := ⟨17, 1⟩
def RX_BLK_SEQ.dead_emitter : Fld := ⟨18, 1⟩
def RX_BLK_SEQ.foreign_high : Fld := ⟨19, 1⟩
def RX_BLK_SEQ_CNT (k : Nat) : Nat := baseRxBlk k + 0x30
def RX_BLK_SEQ_CNT.pixels_missed : Fld := ⟨0, 16⟩
def RX_BLK_SEQ_CNT.frame_cut_count : Fld := ⟨16, 16⟩
def RX_CENSUS_CFG (k : Nat) : Nat := baseRxBlk k + 0x34
def RX_CENSUS_CFG.tot_min : Fld := ⟨0, 13⟩
def RX_CENSUS_CFG.alarm_level : Fld := ⟨16, 16⟩
def RX_CENSUS_SLOTS (k : Nat) : Nat := baseRxBlk k + 0x38
def RX_CENSUS_FOREIGN (k : Nat) : Nat := baseRxBlk k + 0x3C
def RX_CENSUS_NOISE (k : Nat) : Nat := baseRxBlk k + 0x40
def HS_BLK_CNT (k : Nat) : Nat := baseRxBlk k + 0x44
def HS_BLK_CNT.close_cap_count : Fld := ⟨0, 16⟩
def HS_BLK_CNT.late_update_count : Fld := ⟨16, 16⟩
def HS_BLK_STATUS (k : Nat) : Nat := baseRxBlk k + 0x48
def HS_BLK_STATUS.late_update : Fld := ⟨0, 1⟩
def HS_BLK_STATUS.cnt_ovf : Fld := ⟨1, 1⟩
def HS_BLK_STATUS.last_buffer : Fld := ⟨2, 1⟩
def EX_BLK_CNT0 (k : Nat) : Nat := baseRxBlk k + 0x4C
def EX_BLK_CNT0.no_return_count : Fld := ⟨0, 16⟩
def EX_BLK_CNT0.more_count : Fld := ⟨16, 16⟩
def EX_BLK_CNT1 (k : Nat) : Nat := baseRxBlk k + 0x50
def EX_BLK_CNT1.foreign_count : Fld := ⟨0, 16⟩
def EX_BLK_CNT1.diffuse_count : Fld := ⟨16, 16⟩
def EX_BLK_FLAGS (k : Nat) : Nat := baseRxBlk k + 0x54
def EX_BLK_FLAGS.foreign_seen : Fld := ⟨0, 1⟩
def EX_BLK_FLAGS.saturated_seen : Fld := ⟨1, 1⟩
def EX_BLK_FLAGS.ecc_pixel : Fld := ⟨2, 1⟩
def EX_BLK_FLAGS.cnt0_ovf : Fld := ⟨3, 1⟩
def EX_BLK_FLAGS.cnt1_ovf : Fld := ⟨4, 1⟩

/-- Base address of the `rxCell` registers (R541, R543). -/
def baseRxCell (c : Nat) : Nat := 0x08000000 + c / 128 * 0x1000000 + c / 16 % 8 * 0x10000 + c % 16 * 0x100
def RX_CELL_CTRL (c : Nat) : Nat := baseRxCell c + 0x00
def RX_CELL_CTRL.gain : Fld := ⟨0, 2⟩
def RX_CELL_CTRL.blr_tau : Fld := ⟨2, 2⟩
def RX_CELL_CTRL.thr_mode : Fld := ⟨4, 1⟩
def RX_CELL_CTRL.hyst : Fld := ⟨5, 3⟩
def RX_CELL_CTRL.amb_avg : Fld := ⟨8, 3⟩
def RX_CELL_THR (c : Nat) : Nat := baseRxCell c + 0x04
def RX_CELL_THR.thr_floor : Fld := ⟨0, 10⟩
def RX_CELL_THR.thr_slope : Fld := ⟨10, 10⟩
def RX_CELL_THR.high_ratio : Fld := ⟨20, 8⟩
def RX_CELL_STATUS (c : Nat) : Nat := baseRxCell c + 0x08
def RX_CELL_STATUS.thr_now : Fld := ⟨0, 10⟩
def RX_CELL_STATUS.amb_code : Fld := ⟨10, 16⟩
def RX_CELL_STATUS.state : Fld := ⟨26, 2⟩
def RX_CELL_FLAGS (c : Nat) : Nat := baseRxCell c + 0x0C
def RX_CELL_FLAGS.open_suspect : Fld := ⟨0, 1⟩
def RX_CELL_FLAGS.open_ : Fld := ⟨1, 1⟩
def RX_CELL_FLAGS.short : Fld := ⟨2, 1⟩
def RX_CELL_FLAGS.amb_over : Fld := ⟨3, 1⟩
def RX_CELL_FLAGS.conv_invalid : Fld := ⟨4, 1⟩
def RX_CELL_FLAGS.check_inserted : Fld := ⟨5, 1⟩
def RX_CELL_FLAGS.blank_partial : Fld := ⟨6, 1⟩
def RX_CELL_FLAGS.unmask_failed : Fld := ⟨7, 1⟩
def RX_CELL_FLAGS.overload_count : Fld := ⟨16, 15⟩
def RX_CELL_FLAGS.overload_ovf : Fld := ⟨31, 1⟩
def RX_CELL_TONE (c : Nat) : Nat := baseRxCell c + 0x10
def RX_CELL_TONE.cap : Fld := ⟨0, 12⟩
def RX_CELL_TONE.result : Fld := ⟨12, 2⟩
def RX_CELL_CMD (c : Nat) : Nat := baseRxCell c + 0x14
def RX_CELL_CMD.rearm : Fld := ⟨0, 1⟩
def RX_CELL_CMD.check_now : Fld := ⟨1, 1⟩
def GD_CELL_CTRL (c : Nat) : Nat := baseRxCell c + 0x20
def GD_CELL_CTRL.walk_en : Fld := ⟨0, 1⟩
def GD_CELL_CTRL.tot_limit : Fld := ⟨1, 4⟩
def GD_CELL_CNT0 (c : Nat) : Nat := baseRxCell c + 0x24
def GD_CELL_CNT1 (c : Nat) : Nat := baseRxCell c + 0x28
def GD_CELL_CNT2 (c : Nat) : Nat := baseRxCell c + 0x2C
def GD_CELL_CNT3 (c : Nat) : Nat := baseRxCell c + 0x30
def GD_CELL_OVF (c : Nat) : Nat := baseRxCell c + 0x34
def GD_CELL_OVF.ovf : Fld := ⟨0, 8⟩
def GD_CELL_CAL (c : Nat) : Nat := baseRxCell c + 0x38
def GD_CELL_CAL.fg_result : Fld := ⟨0, 2⟩
def GD_CELL_CAL.dnl_max : Fld := ⟨8, 8⟩
def GD_CELL_CAL.inl_max : Fld := ⟨16, 16⟩
def GD_CELL_CMD (c : Nat) : Nat := baseRxCell c + 0x3C
def GD_CELL_CMD.clear_counts : Fld := ⟨0, 1⟩
def HS_CELL_WIN (c : Nat) : Nat := baseRxCell c + 0x40
def HS_CELL_WIN.offset : Fld := ⟨0, 18⟩
def HS_CELL_WIN.k_eff : Fld := ⟨18, 3⟩
def HS_CELL_WIN.tracked : Fld := ⟨21, 1⟩
def HS_CELL_WIN.sweep : Fld := ⟨22, 1⟩
def HS_CELL_WIN.class_ : Fld := ⟨23, 3⟩
def HS_CELL_CNT (c : Nat) : Nat := baseRxCell c + 0x44
def HS_CELL_CNT.out_window_count : Fld := ⟨0, 16⟩
def HS_CELL_CNT.sat_pixel_count : Fld := ⟨16, 16⟩
def HS_CELL_FLAGS (c : Nat) : Nat := baseRxCell c + 0x48
def HS_CELL_FLAGS.hist_sat : Fld := ⟨0, 1⟩
def HS_CELL_FLAGS.close_capped : Fld := ⟨1, 1⟩
def HS_CELL_FLAGS.ecc_corrected : Fld := ⟨2, 1⟩
def HS_CELL_FLAGS.ecc_fatal : Fld := ⟨3, 1⟩
def HS_CELL_FLAGS.out_window_ovf : Fld := ⟨4, 1⟩
def HS_CELL_FLAGS.sat_ovf : Fld := ⟨5, 1⟩

/-- Base address of the `adc` registers (R541, R543). -/
def baseAdc (k : Nat) : Nat := (if k < 48 then 0x08002000 + k / 8 * 0x1000000 + k % 8 * 0x10000 else if k < 52 then 0x03002000 + (k - 48) * 0x100 else 0x01FF2000 + (k - 52) * 0x100)
def ADC_CTRL (k : Nat) : Nat := baseAdc k + 0x00
def ADC_CTRL.cic_r : Fld := ⟨0, 8⟩
def ADC_CTRL.dc_shift : Fld := ⟨8, 4⟩
def ADC_CTRL.step_thr : Fld := ⟨12, 8⟩
def ADC_INPUT_EN (k : Nat) : Nat := baseAdc k + 0x04
def ADC_INPUT_EN.in_en : Fld := ⟨0, 32⟩
def ADC_RREF (k : Nat) : Nat := baseAdc k + 0x08
def ADC_REF (k : Nat) : Nat := baseAdc k + 0x0C
def ADC_REF.int_settled : Fld := ⟨0, 1⟩
def ADC_REF.ext0_settled : Fld := ⟨1, 1⟩
def ADC_REF.ext1_settled : Fld := ⟨2, 1⟩
def ADC_REF.sup_settled : Fld := ⟨3, 1⟩
def ADC_REF.lost : Fld := ⟨8, 4⟩
def ADC_STATUS (k : Nat) : Nat := baseAdc k + 0x10
def ADC_STATUS.state : Fld := ⟨0, 2⟩
def ADC_STATUS.fault : Fld := ⟨2, 1⟩
def ADC_STATUS.fading : Fld := ⟨3, 1⟩
def ADC_STATUS.entry : Fld := ⟨4, 4⟩
def ADC_FLAGS (k : Nat) : Nat := baseAdc k + 0x14
def ADC_FLAGS.settle_restart : Fld := ⟨0, 1⟩
def ADC_FLAGS.step_seen : Fld := ⟨1, 1⟩
def ADC_FLAGS.inj_stale : Fld := ⟨2, 1⟩
def ADC_FLAGS.bank_refused : Fld := ⟨3, 1⟩
def ADC_FLAGS.selfcheck_fail : Fld := ⟨4, 1⟩
def ADC_FLAGS.fault : Fld := ⟨5, 1⟩
def ADC_FLAGS.over_range_seen : Fld := ⟨6, 1⟩
def ADC_FLAGS.invalid_seen : Fld := ⟨7, 1⟩
def ADC_FLAGS.curve_range_seen : Fld := ⟨8, 1⟩
def ADC_FLAGS.cmd_refused : Fld := ⟨9, 1⟩
def ADC_CMD (k : Nat) : Nat := baseAdc k + 0x18
def ADC_CMD.command : Fld := ⟨0, 4⟩
def ADC_SYSCAL_IDX (k : Nat) : Nat := baseAdc k + 0x1C
def ADC_SYSCAL_IDX.entry : Fld := ⟨0, 4⟩
def ADC_SYSCAL_IDX.avg : Fld := ⟨8, 4⟩
def ADC_SYSCAL_TARGET (k : Nat) : Nat := baseAdc k + 0x20
def ADC_SYSCAL_OFS (k : Nat) : Nat := baseAdc k + 0x24
def ADC_SYSCAL_GAIN (k : Nat) : Nat := baseAdc k + 0x28
def ADC_SYSCAL_STATUS (k : Nat) : Nat := baseAdc k + 0x2C
def ADC_SYSCAL_STATUS.state : Fld := ⟨0, 2⟩
def ADC_SYSCAL_STATUS.calibrating : Fld := ⟨2, 1⟩
def ADC_SYSCAL_STATUS.code : Fld := ⟨8, 4⟩
def ADC_BANK (k : Nat) : Nat := baseAdc k + 0x30
def ADC_BANK.target : Fld := ⟨0, 1⟩
def ADC_BANK.fade_len : Fld := ⟨1, 11⟩
def ADC_BANK.active : Fld := ⟨12, 1⟩
def ADC_DCB (k : Nat) : Nat := baseAdc k + 0x34
def ADC_BN_CFG (k : Nat) : Nat := baseAdc k + 0x38
def ADC_BN_CFG.entry : Fld := ⟨0, 4⟩
def ADC_BN_CFG.en : Fld := ⟨4, 1⟩
def ADC_BN_CFG.k_p : Fld := ⟨8, 4⟩
def ADC_BN_CFG.k_r : Fld := ⟨12, 4⟩
def ADC_BN_CFG.k_a : Fld := ⟨16, 4⟩
def ADC_BN_CFG.k_d : Fld := ⟨20, 4⟩
def ADC_BN_PEAK (k : Nat) : Nat := baseAdc k + 0x3C
def ADC_RES (k : Nat) (i : Nat) : Nat := baseAdc k + 0x40 + 4 * i
def ADC_BN_RMS (k : Nat) : Nat := baseAdc k + 0xC0
def ADC_BN_ENV (k : Nat) : Nat := baseAdc k + 0xC4

/-! ### Rows: which bits a write touches, and the reset word -/

/-- A register row of one class: its index in the class, how many consecutive registers it covers, its reset word, and
per access code of R12 the bits that carry it (`wo` covers WO, `prs` covers PRS, `pwdPrs` covers PWD+PRS; RO bits are the rest); `ones` are bits that read 1 whatever they hold
(R262). -/
structure RegRow where
  idx : Nat
  count : Nat := 1
  reset : Nat := 0
  rw : Nat := 0
  w1c : Nat := 0
  wo : Nat := 0
  cut : Nat := 0
  prs : Nat := 0
  pwdPrs : Nat := 0
  ones : Nat := 0
  deriving DecidableEq, Repr

def rowsCf : List RegRow :=
  [ { idx := 0, reset := 0x768 },
    { idx := 1, reset := 0x10101 },
    { idx := 2, reset := 0x1 },
    { idx := 4 },
    { idx := 5 },
    { idx := 6 },
    { idx := 7 },
    { idx := 8 },
    { idx := 9, w1c := 0xF00 },
    { idx := 10, w1c := 0xFFFF },
    { idx := 11, reset := 0x100A00, cut := 0xFFFF0F },
    { idx := 12, cut := 0xFFFF },
    { idx := 13 },
    { idx := 14, w1c := 0x7FF },
    { idx := 15, wo := 0x3 },
    { idx := 16, wo := 0x3F },
    { idx := 17, w1c := 0x1F00 },
    { idx := 18, rw := 0xFFFFFFFF },
    { idx := 19, rw := 0xFFFFFFFF },
    { idx := 20 },
    { idx := 21, reset := 0xFFFF00 },
    { idx := 22 },
    { idx := 23 },
    { idx := 24 },
    { idx := 25 },
    { idx := 26, count := 8 },
    { idx := 34, count := 8 },
    { idx := 42 },
    { idx := 43 },
    { idx := 44 },
    { idx := 45 },
    { idx := 46 },
    { idx := 48, reset := 0x8, rw := 0x3FF },
    { idx := 49, wo := 0xF },
    { idx := 50, rw := 0xFFFFFFFF },
    { idx := 51, rw := 0xFFFF },
    { idx := 52, rw := 0x3F },
    { idx := 53 },
    { idx := 54, rw := 0xFFFFFFF },
    { idx := 55, rw := 0x80007F0F },
    { idx := 56 },
    { idx := 57 },
    { idx := 58 },
    { idx := 59, w1c := 0x17 },
    { idx := 61, rw := 0xFFFFFFFF },
    { idx := 62 },
    { idx := 63 } ]

def rowsRec : List RegRow :=
  [ { idx := 0, reset := 0xE, rw := 0xF },
    { idx := 1, rw := 0xFFFFFFFF },
    { idx := 2 },
    { idx := 3 },
    { idx := 4, wo := 0x1, prs := 0x2 },
    { idx := 5, w1c := 0xF },
    { idx := 6 },
    { idx := 8, count := 8 },
    { idx := 16 },
    { idx := 17 },
    { idx := 20, reset := 0x8, rw := 0x1F1F },
    { idx := 21, rw := 0xFFFFFFFC },
    { idx := 22, wo := 0x3 },
    { idx := 23, w1c := 0xE },
    { idx := 24 },
    { idx := 25 },
    { idx := 26, rw := 0xFFF01FF },
    { idx := 27 } ]

def rowsFw : List RegRow :=
  [ { idx := 0, wo := 0x13F },
    { idx := 1, reset := 0x4000 },
    { idx := 2 },
    { idx := 3, w1c := 0x3313113F },
    { idx := 4, rw := 0x7FFFFC },
    { idx := 5, wo := 0xFFFFFFFF },
    { idx := 6, reset := 0x1E, rw := 0x3FF },
    { idx := 7 },
    { idx := 8 },
    { idx := 9 },
    { idx := 10, rw := 0x7 },
    { idx := 11 },
    { idx := 12, count := 8, rw := 0xFFFFFFFF },
    { idx := 20, count := 8, rw := 0xFFFFFFFF },
    { idx := 28, rw := 0x3FFF },
    { idx := 29 },
    { idx := 30, count := 8 },
    { idx := 38 },
    { idx := 39 } ]

def rowsMgmt : List RegRow :=
  [ { idx := 0, w1c := 0x3FF },
    { idx := 1 },
    { idx := 2 },
    { idx := 3 },
    { idx := 4, count := 34 } ]

def rowsModeReg : List RegRow :=
  [ { idx := 0, wo := 0xFFFF000F },
    { idx := 1 },
    { idx := 2 },
    { idx := 3, reset := 0xFFFFFFFF } ]

def rowsHk : List RegRow :=
  [ { idx := 0 },
    { idx := 1, w1c := 0x1 },
    { idx := 2, reset := 0x2, cut := 0x3 },
    { idx := 4, count := 10 },
    { idx := 14, w1c := 0x3FF03FF },
    { idx := 16 },
    { idx := 17, reset := 0x8000000 },
    { idx := 18, reset := 0x3F },
    { idx := 19 },
    { idx := 20, reset := 0x8000000 },
    { idx := 21, reset := 0x3F },
    { idx := 22, count := 3, w1c := 0xFFFFFFFF },
    { idx := 62 } ]

def rowsHkRemote : List RegRow :=
  [ { idx := 0, reset := 0xA00, rw := 0xFFFFFF0F },
    { idx := 1, reset := 0x7FFF8000, rw := 0xFFFFFFFF },
    { idx := 2, reset := 0x2000000 },
    { idx := 3 },
    { idx := 4, w1c := 0xF } ]

def rowsHkDie : List RegRow :=
  [ { idx := 0, reset := 0xA01, rw := 0xFFFFFF0F },
    { idx := 1, reset := 0x29048000, rw := 0xFFFFFFFF },
    { idx := 2, reset := 0x2000000 },
    { idx := 3 },
    { idx := 4, w1c := 0xF } ]

def rowsSf : List RegRow :=
  [ { idx := 0 },
    { idx := 1, reset := 0x40 },
    { idx := 2, w1c := 0x1FF },
    { idx := 3, wo := 0xF },
    { idx := 4 },
    { idx := 5, rw := 0x1F },
    { idx := 6, count := 4, wo := 0xFFFFFFFF },
    { idx := 10 },
    { idx := 11, rw := 0x1FF },
    { idx := 12, pwdPrs := 0xFFFFFFFF },
    { idx := 13, rw := 0xFFFFFFFF },
    { idx := 14 },
    { idx := 15 },
    { idx := 16, count := 8 },
    { idx := 24, rw := 0x3FF },
    { idx := 25 },
    { idx := 26 } ]

def rowsScAxis : List RegRow :=
  [ { idx := 0, reset := 0x800, cut := 0x7FFF },
    { idx := 1, reset := 0x164, rw := 0x1FF },
    { idx := 2, rw := 0xFFFFFF },
    { idx := 3 },
    { idx := 4 },
    { idx := 5, w1c := 0x3 } ]

def rowsScLoop : List RegRow :=
  [ { idx := 0, rw := 0xFFFFFF },
    { idx := 1, reset := 0x100 },
    { idx := 2 },
    { idx := 3 },
    { idx := 4 },
    { idx := 5 },
    { idx := 6, w1c := 0x3FF },
    { idx := 7, wo := 0x3 } ]

def rowsScEng : List RegRow :=
  [ { idx := 0 },
    { idx := 1, w1c := 0x7 },
    { idx := 60 },
    { idx := 61 },
    { idx := 62 },
    { idx := 63 } ]

def rowsTx : List RegRow :=
  [ { idx := 0, w1c := 0x700 },
    { idx := 1 },
    { idx := 2 },
    { idx := 3, rw := 0xFFFFFFFF } ]

def rowsTxBlk : List RegRow :=
  [ { idx := 0, reset := 0x14D, cut := 0x3FF },
    { idx := 1, reset := 0xFFF0000, cut := 0xFFF0FFF } ]

def rowsTxPort : List RegRow :=
  [ { idx := 0, reset := 0x2 },
    { idx := 1, w1c := 0x80000003 },
    { idx := 2 },
    { idx := 3 },
    { idx := 4, wo := 0x1 } ]

def rowsLk : List RegRow :=
  [ { idx := 0, count := 16 },
    { idx := 16 },
    { idx := 17, reset := 0x40A32, rw := 0xFFFFFF },
    { idx := 18, w1c := 0x7 } ]

def rowsLkLane : List RegRow :=
  [ { idx := 0, reset := 0x14, cut := 0x1F },
    { idx := 1, reset := 0x62, cut := 0xF7 },
    { idx := 2 },
    { idx := 3, w1c := 0x1FF },
    { idx := 4 },
    { idx := 5 },
    { idx := 6, rw := 0xF },
    { idx := 7 },
    { idx := 8, wo := 0x7 } ]

def rowsAqSel : List RegRow :=
  [ { idx := 0, count := 24, rw := 0xFFFFFFFF } ]

def rowsAqTrig : List RegRow :=
  [ { idx := 0, count := 24, rw := 0xFFFFFFFF } ]

def rowsAq : List RegRow :=
  [ { idx := 0, wo := 0x7 },
    { idx := 1, rw := 0x7FF },
    { idx := 2, reset := 0x1, rw := 0x1FFF },
    { idx := 3, reset := 0x1000, rw := 0x1FFFFF },
    { idx := 4, rw := 0xFFFFFFFF },
    { idx := 5, rw := 0xFFFFFFFF },
    { idx := 6, rw := 0xFF0FFF },
    { idx := 7 },
    { idx := 8, w1c := 0xFF },
    { idx := 9 },
    { idx := 10 },
    { idx := 11, w1c := 0xFF } ]

def rowsRxReg : List RegRow :=
  [ { idx := 16, rw := 0x1FFFF },
    { idx := 17, rw := 0xFFFFFFFF },
    { idx := 18, wo := 0x7 },
    { idx := 19, rw := 0xFFFFFFFF },
    { idx := 20, w1c := 0x700 },
    { idx := 24, reset := 0x47, cut := 0xFFF7 },
    { idx := 25, reset := 0x20314, cut := 0xF3F3F },
    { idx := 26, reset := 0x50800C80, cut := 0xFFFFFFFF },
    { idx := 27, reset := 0x4AF2B7A2, cut := 0xFFFFFFFF } ]

def rowsRxBlk : List RegRow :=
  [ { idx := 0, cut := 0xFFFFFFFF },
    { idx := 1, cut := 0xFFFFFFFF },
    { idx := 2, cut := 0xFFFFFFFF },
    { idx := 3, reset := 0x200, cut := 0xFFFFFFF1 },
    { idx := 4, reset := 0x10FA014, cut := 0x1FFFFFF },
    { idx := 5, cut := 0xFFFF },
    { idx := 6 },
    { idx := 7, w1c := 0x2 },
    { idx := 8, w1c := 0x7 },
    { idx := 9 },
    { idx := 10 },
    { idx := 11, w1c := 0xF0000 },
    { idx := 12 },
    { idx := 13, reset := 0x40, rw := 0xFFFF1FFF },
    { idx := 14 },
    { idx := 15 },
    { idx := 16 },
    { idx := 17 },
    { idx := 18, w1c := 0x3 },
    { idx := 19 },
    { idx := 20 },
    { idx := 21, w1c := 0x1F } ]

def rowsRxCell : List RegRow :=
  [ { idx := 0, reset := 0x246, cut := 0x7FF },
    { idx := 1, reset := 0x400A01E, rw := 0xFFFFFFF },
    { idx := 2 },
    { idx := 3, w1c := 0x800000FF },
    { idx := 4 },
    { idx := 5, wo := 0x3 },
    { idx := 8, reset := 0x1F, cut := 0x1F },
    { idx := 9 },
    { idx := 10 },
    { idx := 11 },
    { idx := 12 },
    { idx := 13, w1c := 0xFF },
    { idx := 14 },
    { idx := 15, wo := 0x1 },
    { idx := 16 },
    { idx := 17 },
    { idx := 18, w1c := 0x3F } ]

/-- The result and its time of each of sixteen entries; a result begins SETTLING (R261, R266). -/
def rowsAdcRes : List RegRow :=
  (List.range 16).flatMap (fun e => [{ idx := 16 + 2 * e, reset := 0x2000000 }, { idx := 17 + 2 * e }])

def rowsAdcAmbient : List RegRow :=
  [ { idx := 0, reset := 0x807, cut := 0xFFFFF },
    { idx := 1, reset := 0xC001FFFF, cut := 0xFFFFFFFF, ones := 0xC0000000 },
    { idx := 2, cut := 0xFFFFFFFF },
    { idx := 3, w1c := 0xF00 },
    { idx := 4 },
    { idx := 5, w1c := 0x3FF },
    { idx := 6, wo := 0xF },
    { idx := 7, reset := 0xA00, rw := 0xF0F },
    { idx := 8, reset := 0x7FFFFF, rw := 0xFFFFFF },
    { idx := 9, rw := 0xFFFFFF },
    { idx := 10, reset := 0x400000, rw := 0xFFFFFF },
    { idx := 11 },
    { idx := 12, reset := 0x20, rw := 0xFFF },
    { idx := 13, rw := 0xFFFF },
    { idx := 14, rw := 0xFFFF1F },
    { idx := 15 } ]
  ++ rowsAdcRes
  ++ [ { idx := 48 }, { idx := 49 } ]

def rowsAdcSensor : List RegRow :=
  [ { idx := 0, reset := 0x807, cut := 0xFFFFF },
    { idx := 1, reset := 0xC000000F, cut := 0xFFFFFFFF, ones := 0xC0000000 },
    { idx := 2, cut := 0xFFFFFFFF },
    { idx := 3, w1c := 0xF00 },
    { idx := 4 },
    { idx := 5, w1c := 0x3FF },
    { idx := 6, wo := 0xF },
    { idx := 7, reset := 0xA00, rw := 0xF0F },
    { idx := 8, reset := 0x7FFFFF, rw := 0xFFFFFF },
    { idx := 9, rw := 0xFFFFFF },
    { idx := 10, reset := 0x400000, rw := 0xFFFFFF },
    { idx := 11 },
    { idx := 12, reset := 0x20, rw := 0xFFF },
    { idx := 13, rw := 0xFFFF },
    { idx := 14, rw := 0xFFFF1F },
    { idx := 15 } ]
  ++ rowsAdcRes
  ++ [ { idx := 48 }, { idx := 49 } ]

def rowsAdcHk : List RegRow :=
  [ { idx := 0, reset := 0x807, cut := 0xFFFFF },
    { idx := 1, reset := 0xC000FFFF, cut := 0xFFFFFFFF, ones := 0xC0000000 },
    { idx := 2, cut := 0xFFFFFFFF },
    { idx := 3, w1c := 0xF00 },
    { idx := 4 },
    { idx := 5, w1c := 0x3FF },
    { idx := 6, wo := 0xF },
    { idx := 7, reset := 0xA00, rw := 0xF0F },
    { idx := 8, reset := 0x7FFFFF, rw := 0xFFFFFF },
    { idx := 9, rw := 0xFFFFFF },
    { idx := 10, reset := 0x400000, rw := 0xFFFFFF },
    { idx := 11 },
    { idx := 12, reset := 0x20, rw := 0xFFF },
    { idx := 13, rw := 0xFFFF },
    { idx := 14, rw := 0xFFFF1F },
    { idx := 15 } ]
  ++ rowsAdcRes
  ++ [ { idx := 48 }, { idx := 49 } ]

/-- The summary words and `REGION_INFO` of a region's common address (R487, R558). -/
def rowsRegionTail : List RegRow := [ { idx := 60 }, { idx := 63 } ]

/-- The summary words of a block with cells (R487). -/
def rowsBlockTail : List RegRow := [ { idx := 62 }, { idx := 63 } ]

/-- The summary word of a block without cells (R487). -/
def rowsBlockWord : List RegRow := [ { idx := 63 } ]

/-- The rows of the address block that `region`, `block` and `cell` name, or none where R542 and R543 give no target. -/
def classRows (region block cell : Nat) : List RegRow :=
  if region = 0 then
    if block = 0xFF then
      if cell = 0xFF then rowsCf ++ [ { idx := 60 } ]
      else if cell = 0x10 then rowsRec
      else if cell = 0x20 then rowsFw
      else if cell = 0x30 then rowsMgmt
      else if cell = 0x40 then rowsModeReg
      else []
    else []
  else if region = 1 then
    if block = 0xFF then
      if cell = 0xFF then rowsHk ++ rowsRegionTail
      else if cell < 0x10 then rowsHkRemote
      else if cell < 0x17 then rowsHkDie
      else if 0x18 ≤ cell ∧ cell < 0x1E then rowsHkDie
      else if cell = 0x20 ∨ cell = 0x21 then rowsAdcHk
      else []
    else []
  else if region = 2 then
    if block = 0xFF ∧ cell = 0xFF then rowsSf ++ rowsRegionTail
    else if block < 2 ∧ cell = 0xFF then rowsBlockWord
    else []
  else if region = 3 then
    if block = 0xFF ∧ cell = 0xFF then rowsRegionTail
    else if block = 0 then
      if cell = 0xFF then rowsScEng
      else if cell < 8 then rowsScAxis
      else if 0x20 ≤ cell ∧ cell < 0x24 then rowsAdcSensor
      else if 0x40 ≤ cell ∧ cell < 0x80 then rowsScLoop
      else []
    else []
  else if region = 4 then
    if block = 0xFF ∧ cell = 0xFF then rowsTx ++ rowsRegionTail
    else if block < 4 then
      if cell = 0xFF then rowsTxBlk ++ rowsBlockTail
      else if cell < 16 then rowsTxPort
      else []
    else []
  else if region = 5 then
    if block = 0xFF ∧ cell = 0xFF then rowsLk ++ rowsRegionTail
    else if block < 4 then
      if cell = 0xFF then rowsBlockTail
      else if cell < 8 then rowsLkLane
      else []
    else []
  else if region = 6 then
    if block = 0xFF then
      if cell = 0xFF then rowsAq ++ rowsRegionTail
      else if cell = 0 then rowsAqSel
      else if cell = 1 then rowsAqTrig
      else []
    else []
  else if 8 ≤ region ∧ region < 14 then
    if block = 0xFF ∧ cell = 0xFF then rowsRxReg ++ rowsRegionTail
    else if block < 8 then
      if cell = 0xFF then rowsRxBlk ++ rowsBlockTail
      else if cell < 16 then rowsRxCell
      else if cell = 0x20 then rowsAdcAmbient
      else []
    else []
  else []

/-- The row that holds index `i`. -/
def rowAt (i : Nat) : List RegRow → Option RegRow
  | [] => none
  | r :: rs => if r.idx ≤ i ∧ i < r.idx + r.count then some r else rowAt i rs

/-- The row of the register at byte address `a`, or none where `a` names no register (R542). -/
def regRow (a : Nat) : Option RegRow :=
  if a % 4 = 0 ∧ a < 0x10000000 then
    rowAt (a / 4 % 64) (classRows (a / 0x1000000) (a / 0x10000 % 256) (a / 0x100 % 256))
  else none

/-- The reset word of the register at byte address `a`: what an unlisted entry of the register file reads as. -/
def regReset (a : Nat) : Word :=
  match regRow a with
  | some r => BitVec.ofNat 32 r.reset
  | none => 0

end Sys2Proof.Machine
end

