-- ==== Sys2Proof/Syntax.lean ====
section
/-!
DEFINITION. The commands of the block: one constructor per row of spec/opcode_table.json, in the table's order. Every value
that the outside world measures or chooses (a captured instant, a code, a received word, a ball level) is an operand.
-/
namespace Sys2Proof

/-- A management requester (R539): 0 the SPI port, 1 the management processor, 2 + l the MGMT channel of lane l. -/
abbrev Requester := Fin 34

/-- What a converter senses of a reference (R232): its bit of `ADC_REF`, its level and its running mean in µV (for the internal reference the
housekeeping bandgap), and for how many ns it has stayed within 0.1 % of the mean. -/
structure RefReading where
  ref : Fin 4
  level : Nat
  mean : Nat
  held : Nat
  deriving DecidableEq, Repr

/-- An edge of EXT_TRIG (R347): its sense, and for how many ns the new level has lasted as the edge reaches AQ. -/
structure TrigEdge where
  rising : Bool
  lasts : Nat
  deriving DecidableEq, Repr

/-- A fall of XLINE (R346 to R348): for how many ns it was high, and for how many it has stayed low as the edge reaches AQ. -/
structure LineFall where
  highFor : Nat
  lasts : Nat
  deriving DecidableEq, Repr

/-- Errors of a line (R376): the lane, and its invalid sync headers within 64 blocks, or its code and disparity errors within 1 ms. -/
structure LineErrors where
  lane : Fin 32
  errors : Nat
  deriving DecidableEq, Repr

/-- The commands. Channels, blocks, ports, lanes, converters, axes, loops and requesters carry the numbers of R6, R16, R227,
R277 and R539. -/
inductive Instr where
  /-- REGISTER_WRITE (R12): A management write to a register that has no row of its own is applied, or discarded with ACCESS under R12 and R13, by its access code. -/
  | registerWrite (q : Requester) (addr : BitVec 28) (data : Word)
  /-- ALIGNMENT_WORD (R24): Every 1,024 ns an alignment word carries TBASE to each island; `departed` names the regions whose copy departs by more than 1 ns, each with the nanoseconds for which it has. -/
  | alignmentWord (departed : List (Fin 16 × BitVec 10))
  /-- REFCLK_LOSS (R25): When REFCLK_T shows no edge for 100 ns, the timebase enters holdover, sets refclk_lost and holdover, and takes the chip-level reaction. -/
  | refclkLoss
  /-- REFCLK_RETURN (R25): When REFCLK_T returns, the loop relocks, TBASE continues without a step and holdover clears. -/
  | refclkReturn
  /-- FRAME_SYNC_EDGE (R26): A rising FRAME_SYNC edge is captured as the frame boundary instant, FRAME_NUM advances, and frame-scheduled changes fall due. -/
  | frameSyncEdge
  /-- FRAME_LIMIT_EXPIRY (R27): The frame limit elapses without a FRAME_SYNC edge, so frame_sync_present reads 0 and frame_sync_lost sets. -/
  | frameLimitExpiry
  /-- PIXEL_BOUNDARY (R20): A block reaches the shot time of a pixel: the pixel opens in a buffer and pending changes, thresholds and tables take effect under R28. -/
  | pixelBoundary (block : Fin 48)
  /-- CHANGE_AT_INSTANT (R29): An island or block without a scheduled boundary applies the pending changes at I by its local TBASE copy. -/
  | changeAtInstant (target : Fin 256)
  /-- HANDSHAKE_TIMEOUT (R34): A handshake not acknowledged within 2 µs is charged to the silent region, which is fenced. -/
  | handshakeTimeout (region : Fin 16)
  /-- FAULT_ESCALATION (R36): A fault reaction that has not completed within its bound (of a cell, a block, or a region where neither is given) is taken by the next level up. -/
  | faultEscalation (region : Fin 16) (block : Option (Fin 8)) (cell : Option (Fin 16))
  /-- REGION_FENCE_LIFT (R40): Writing 1 to a REGION_FENCE bit in CONFIGURED lifts the fence and restarts that region's handshakes. -/
  | regionFenceLift (q : Requester) (regions : BitVec 16)
  /-- REGION_READY (R41): A region whose fence was lifted comes up under the live plane with every change applied and reports ready. -/
  | regionReady (region : Fin 16)
  /-- CUT_WINDOW_WRITE (R67): A write to the shadow plane through the Cut window is stored, makes the first requester owner, or is refused with BUSY or ACCESS. -/
  | cutWindowWrite (q : Requester) (offset : BitVec 19) (data : Word)
  /-- LOAD_SLOT (R616): The LOAD_SLOT command copies a flash Cut slot into the shadow plane and then validates it. -/
  | loadSlot (q : Requester) (slot : BitVec 2)
  /-- LOAD_SLOT_COPY_DONE (R616): The copy of a Cut slot completes, CUT_SHADOW_LEN is set and validation begins. -/
  | loadSlotCopyDone
  /-- VALIDATE (R59): The VALIDATE command starts the ordered check of the shadow plane. -/
  | validate (q : Requester)
  /-- VALIDATION_COMPLETE (R60): Validation ends, and the plane either becomes VALID and staged or becomes INVALID with an error code and frame index. -/
  | validationComplete
  /-- SCHEDULE (R68): The SCHEDULE command sets the swap of a VALID plane at CUT_SWAP_FRAME, or immediately, or is refused. -/
  | schedule (q : Requester)
  /-- CANCEL (R68): The CANCEL command returns a SCHEDULED plane to VALID when the frame is still far enough ahead. -/
  | cancel (q : Requester)
  /-- DISCARD (R616): The DISCARD command empties the shadow plane or abandons its validation. -/
  | discard (q : Requester)
  /-- CUT_BAD_COMMAND (R73): An unknown CUT_CTRL command value is refused with BAD_COMMAND. -/
  | cutBadCommand (q : Requester) (command : BitVec 4)
  /-- SWAP_APPLY (R69): At the swap instant I, CF raises LIVE_EPOCH, copies the shadow digest to the live digest, and the islands change planes. -/
  | swapApply
  /-- SWAP_DONE (R69): Once every island has applied the swap, swap_done sets, the first and last stamps are recorded and the shadow plane becomes EMPTY. -/
  | swapDone
  /-- LIVE_REDIGEST (R64): Every second CF recomputes the live digest over the stored plane; `upset` is an SRAM error found there, as a word index and the bits that flipped. -/
  | liveRedigest (upset : Option (Nat × Word))
  /-- DISCRIMINATOR_EDGE (R113): A discriminator edge: the thermometer word of the 128 taps, the two coarse copies, the polarity, the amplitude discriminator, whether the stage is overloaded or recovering, and whether the edge begins a pulse beyond the linear swing. -/
  | discriminatorEdge (cell : Fin 768) (taps : BitVec 128) (copyA : BitVec 64) (copyB : BitVec 64) (rising : Bool) (high : Bool) (overload : Bool) (newPulse : Bool)
  /-- DEAD_TIME_END (R121): The dead time ends: the discriminator's level, whether the amplitude discriminator fired within the pulse as recorded, and whether the stage is overloaded or recovering. -/
  | deadTimeEnd (cell : Fin 768) (level : Bool) (high : Bool) (overload : Bool)
  /-- EDGE_ATTRIBUTE (R120): An edge reaching the pairing stage is attributed to open shots, or discarded as orphan, falling-first or excess, and paired into pulses. -/
  | edgeAttribute (cell : Fin 768)
  /-- TOT_LIMIT_EXPIRY (R122): The ToT limit passes before the falling edge arrives, and the pulse closes with TOT_OPEN. -/
  | totLimitExpiry (cell : Fin 768)
  /-- PULSE_PLACE (R182): An edge event word reaches the slice; the read of its bin may find a corrected or an uncorrectable error. -/
  | pulsePlace (cell : Fin 768) (eccCorrected : Bool) (eccFatal : Bool)
  /-- START_POST (R18): The scheduler posts a fire instant to a listening block ahead of the instant. -/
  | startPost (block : Fin 48)
  /-- START_INSTANT (R119): A start's instant comes; `dark` says that either EMIT_FB has then read low for at least 1 µs. -/
  | startInstant (block : Fin 48) (dark : Bool)
  /-- SHOT_WINDOW_CLOSE (R89): A shot's listening window closes and the shot is judged counted or not counted against self, crosstalk and external intervals. -/
  | shotWindowClose (cell : Fin 768)
  /-- BLANK_N_FALL (R90): A falling BLANK_N edge is captured and its onset distributed to obeying blocks. -/
  | blankNFall (instant : BitVec 64)
  /-- BLANK_N_RISE (R90): A rising BLANK_N edge is captured and the end of the interval distributed. -/
  | blankNRise (instant : BitVec 64)
  /-- BLANK_INTERVAL_START (R90): At t_f + D the external interval begins: stops are suppressed, the restorer holds and ambient readings are discarded. -/
  | blankIntervalStart (block : Fin 48)
  /-- BLANK_INTERVAL_END (R90): At t_r + D + T the external interval ends. -/
  | blankIntervalEnd (block : Fin 48)
  /-- BLANK_STUCK (R91): BLANK_N stays low longer than 2^m ms and blank_stuck sets. -/
  | blankStuck (block : Fin 48)
  /-- CHECK_SLOT_INSERT (R96): After 1.0 ms of a check window with too little silent time, the scheduler makes silent check slots of the cell's remaining slots. -/
  | checkSlotInsert (block : Fin 48)
  /-- CHECK_WINDOW_END (R97): A connection-check window ends with the measured capacitance in 0.01 pF. -/
  | checkWindowEnd (block : Fin 48) (cap : BitVec 12)
  /-- CELL_REARM (R100): RX_CELL_CMD.rearm gives a masked cell an out-of-turn check window and returns it to service on PASS. -/
  | cellRearm (q : Requester) (cell : Fin 768)
  /-- CHECK_NOW (R108): RX_CELL_CMD.check_now queues an out-of-turn check window for the cell. -/
  | checkNow (q : Requester) (cell : Fin 768)
  /-- BIAS_CONVERSION_REQUEST (R94): Where no bias loop runs, the block requests one injected BIAS_SNS conversion per 1 ms. -/
  | biasConversionRequest (block : Fin 48)
  /-- MARKER_EDGE (R117): The reference cell times a marker; `departure` is m − M in units. -/
  | markerEdge (block : Fin 48) (departure : Int)
  /-- SKEW_REFRESH (R117): Every 1,048,576 ns the block skew is refreshed from the mean of the last 256 markers. -/
  | skewRefresh (block : Fin 48)
  /-- FOREGROUND_RUN_END (R134): A foreground run ends with the hits per code of cells 0 to 15 (an empty list for a cell that took no part) and of the reference cell. -/
  | foregroundRunEnd (block : Fin 48) (cellHits : List (List Nat)) (refHits : List Nat)
  /-- BACKGROUND_RUN_END (R135): A reference-cell background run ends, and the divergence is computed to start a drift bring-in or count a failure. -/
  | backgroundRunEnd (block : Fin 48) (hits : List Nat)
  /-- GIRDLE_LOCK_LOSS (R138): A girdle loop loses lock, and the region is fenced as an island clock fault. -/
  | girdleLockLoss (rx : Fin 6)
  /-- GD_CLEAR_COUNTS (R141): GD_CELL_CMD.clear_counts zeroes the eight girdle counters at the cell's next pixel boundary. -/
  | gdClearCounts (q : Requester) (cell : Fin 768)
  /-- SLOT_PLACE (R157): The scheduler places a slot of a sequence: it advances the LFSR, computes the fire instants and posts the starts, or marks the slot late. -/
  | slotPlace (seq : Fin 64)
  /-- FIRE (R145): An emitter port drives its fire pulse at the placed instant and hands the fire record to safety channel B. -/
  | fire (port : Fin 64)
  /-- MONITOR_CHARGE (R147): A monitor integrator returns a fire's charge code; `evaluated` says that both EMIT_FB readbacks showed the driver stage enabled, without change, throughout the gate. -/
  | monitorCharge (port : Fin 64) (charge : BitVec 12) (evaluated : Bool)
  /-- PORT_REARM (R149): TX_PORT_CMD.rearm returns a masked port to service at its sequence's next pixel boundary. -/
  | portRearm (q : Requester) (port : Fin 64)
  /-- HOP_FRAME_WRITE (R162): A write to TX_HOP_FRAME schedules, replaces or cancels an extra hop, or is refused as late. -/
  | hopFrameWrite (q : Requester) (frame : Word)
  /-- PIXEL_CLOSE (R187): At its close instant a pixel's buffer becomes the closed buffer and the extractor's read begins. -/
  | pixelClose (block : Fin 48)
  /-- CELL_EXTRACT (R21): In its read slot the extractor reads a cell's closed buffer; the read may find a corrected error, and as `fault` 1 an uncorrectable one of the bin, 2 one of the block's bank or extractor state or a self-check mismatch. -/
  | cellExtract (cell : Fin 768) (eccCorrected : Bool) (fault : Fin 3)
  /-- GATE_UPDATE (R193): After a tile's last pixel of a frame, the region computes the update of a gate entry under the class and windows of a cell that names it; `ready` says that it came before the first shot of the tile's next pixel was posted. -/
  | gateUpdate (rx : Fin 6) (entry : BitVec 17) (cell : Fin 128) (ready : Bool)
  /-- GATE_READ (R195): The READ command copies the working entry at RX_GATE_IDX into RX_GATE_DATA. -/
  | gateRead (q : Requester) (rx : Fin 6)
  /-- GATE_STAGE (R195): The STAGE command adds the index and value pair to the staging list, or is refused. -/
  | gateStage (q : Requester) (rx : Fin 6)
  /-- GATE_COMMIT (R195): The COMMIT command schedules the staging list at RX_GATE_FRAME, or is refused as late or pending. -/
  | gateCommit (q : Requester) (rx : Fin 6)
  /-- GATE_DISCARD (R195): The DISCARD command empties the staging list or cancels a pending commit. -/
  | gateDiscard (q : Requester) (rx : Fin 6)
  /-- HIST_WINDOW_READ (R545): A read of the histogram slice window returns a bin word, or ACCESS while accumulating, or ECC or OFF; `ecc` is 1 where the bin reads corrected, 2 where it is uncorrectable. -/
  | histWindowRead (q : Requester) (rx : Fin 6) (block : Fin 8) (cell : Fin 16) (bufferY : Bool) (bin : BitVec 8) (ecc : Fin 3)
  /-- CONVERSION_SLOT_END (R229): A conversion slot ends with its raw code; `fine` holds the two further low bits of an 18-bit converter. -/
  | conversionSlotEnd (converter : Fin 54) (code : BitVec 16) (fine : BitVec 2)
  /-- INJECTED_REQUEST (R244): The oldest injected request on its way to a converter arrives there. -/
  | injectedRequest (converter : Fin 54)
  /-- INJECTED_RESULT (R245): The slot of an injected conversion ends with its raw code; `fine` as in CONVERSION_SLOT_END. -/
  | injectedResult (converter : Fin 54) (code : BitVec 16) (fine : BitVec 2)
  /-- SELF_CHECK (R246): Every 2,048 passes a converter converts input 30 or 31, with this raw code. -/
  | selfCheck (converter : Fin 54) (code : BitVec 18)
  /-- REFERENCE_SETTLED (R232): A reference meets its settling condition and its settled flag sets. -/
  | referenceSettled (converter : Fin 54) (reading : RefReading)
  /-- REFERENCE_LOST (R232): A reference in use is lost, so its lost bit sets and the converter runs the scan mask. -/
  | referenceLost (converter : Fin 54) (reading : RefReading)
  /-- CAL_ZERO (R247): The CAL_ZERO command starts 2^a conversions of an entry at its zero input, or is refused. -/
  | calZero (q : Requester) (converter : Fin 54)
  /-- CAL_ZERO_DONE (R247): The 2^a conversions of a calibration step are done; `sum` is that of their samples x. -/
  | calZeroDone (converter : Fin 54) (sum : Int)
  /-- CAL_FULL (R248): The CAL_FULL command starts 2^a conversions at full scale, or is refused with NO_ZERO, BUSY_RUN or NOT_ALLOWED. -/
  | calFull (q : Requester) (converter : Fin 54)
  /-- CAL_FULL_DONE (R248): The full-scale conversions complete and the coefficients are computed, ending DONE or FAILED. -/
  | calFullDone (converter : Fin 54) (sum : Int)
  /-- SCAN_ON (R242): The SCAN_ON command puts the converter on its scan mask in CONFIGURED or ARMED. -/
  | scanOn (q : Requester) (converter : Fin 54)
  /-- SCAN_OFF (R242): The SCAN_OFF command returns the converter to its sequence. -/
  | scanOff (q : Requester) (converter : Fin 54)
  /-- BN_RESET (R256): The BN_RESET command resets the BN192 detectors to 0. -/
  | bnReset (q : Requester) (converter : Fin 54)
  /-- ADC_REARM (R259): The REARM command, in CONFIGURED, runs the scan mask to clear a converter fault after passing self-checks. -/
  | adcRearm (q : Requester) (converter : Fin 54)
  /-- ADC_BAD_COMMAND (R264): An unknown ADC_CMD value sets cmd_refused. -/
  | adcBadCommand (q : Requester) (converter : Fin 54) (command : BitVec 4)
  /-- BANK_WRITE (R253): A write of ADC_BANK with a new target starts a coefficient cross-fade, or is refused during a fade. -/
  | bankWrite (q : Requester) (converter : Fin 54) (data : Word)
  /-- CONVERTER_RELEASE (R566): A converter leaves the scan mask for its sequence once its references have settled and a scan pass has run, or faults after 5 ms. -/
  | converterRelease (converter : Fin 54)
  /-- EXC_CURRENT_LIMIT (R269): A port held at its excitation current limit for 10 µs switches its excitation off and sets exc_fault. -/
  | excCurrentLimit (axis : Fin 8)
  /-- EXC_WRITE (R271): A write of SC_AXIS_EXC changes the level or switch at the next CIC output boundary of the feedback entry. -/
  | excWrite (q : Requester) (axis : Fin 8) (data : Word)
  /-- CHOP_REVERSAL (R271): After chop_n feedback outputs, the port reverses excitation polarity and reports a settle event. -/
  | chopReversal (axis : Fin 8)
  /-- DRIVE_WORD (R275): A DRIVE or AUX word is sent on the drive link, waiting for any word in flight. -/
  | driveWord (axis : Fin 8)
  /-- KEEPALIVE (R275): After 10 µs without a word, a KEEPALIVE word repeats the last DRIVE value. -/
  | keepalive (axis : Fin 8)
  /-- LOOP_REQUEST (R278): An injected-feedback loop issues its converter request every period ns. -/
  | loopRequest (loop : Fin 64)
  /-- LOOP_SAMPLE (R279): A feedback sample arrives for a loop, pending evaluation or replacing a pending sample. -/
  | loopSample (loop : Fin 64)
  /-- LOOP_EVALUATION (R284): The engine evaluates a loop: limiter, PID law and output, with fault and frozen tests. -/
  | loopEvaluation (loop : Fin 64)
  /-- LOOP_TIMEOUT (R298): A loop receives no sample for its time-out, which counts as out of range. -/
  | loopTimeout (loop : Fin 64)
  /-- SETTLE_HOLD_EVALUATION (R301): While feedback is suppressed, a loop is evaluated every period on the last valid sample. -/
  | settleHoldEvaluation (loop : Fin 64)
  /-- LOOP_REARM (R302): SC_LOOP_CMD.rearm moves a loop in HOLD to REARM_CHECK. -/
  | loopRearm (q : Requester) (loop : Fin 64)
  /-- CLEAR_DELAY (R289): SC_LOOP_CMD.clear_delay restarts the least and greatest delay in SC_LOOP_DELAY. -/
  | clearDelay (q : Requester) (loop : Fin 64)
  /-- SETPOINT_WRITE (R286): A write of SC_LOOP_SP takes effect at the loop's next evaluation and is stamped. -/
  | setpointWrite (q : Requester) (loop : Fin 64) (data : Word)
  /-- AMPLITUDE_WRITE (R295): A write of SC_AXIS_AMP applies at the next rising zero crossing of the drive, or is discarded when a generic loop drives it. -/
  | amplitudeWrite (q : Requester) (axis : Fin 8) (data : Word)
  /-- ENGINE_LOAD_UPDATE (R280): Each millisecond the engine load is refreshed, and overload sets at 4,000. -/
  | engineLoadUpdate
  /-- EXCITATION_REVERSAL_SENSED (R454): In STANDBY, the SCN_EXS comparator detects a reversal and reports it as a settle event. -/
  | excitationReversalSensed (axis : Fin 8)
  /-- LOAD_REFRESH (R319): Every 1 ms each RX region refreshes its load λ_q. -/
  | loadRefresh (rx : Fin 6)
  /-- FG_START (R324): The FG_START command runs foreground calibration of the masked head ports, in parallel or rolling, or is refused. -/
  | fgStart (q : Requester)
  /-- FG_ABORT (R324): The FG_ABORT command stops the run in progress and discards its result. -/
  | fgAbort (q : Requester)
  /-- WIN_READ (R329): The WIN_READ command latches a selected calibration word and its count and time, or sets sel_bad. -/
  | winRead (q : Requester)
  /-- CAPTURE_EDGE_ARRIVAL (R339): A delivered edge reaches its region FIFO; `taken` is how many entries the merger has accepted from that FIFO since the arrival before. -/
  | captureEdgeArrival (rx : Fin 6) (taken : Nat)
  /-- EVENT_RELEASE (R339): The merger releases an event 256 ns after its edge time and stores it with any SPAN marker, and it feeds the EDGE, RATE and mask tests. -/
  | eventRelease
  /-- GAP_MARKER (R340): Once a region FIFO falls below 48 entries, a GAP marker reports the edges that region lost. -/
  | gapMarker (rx : Fin 6) (taken : Nat)
  /-- POST_TIME_EXPIRY (R343): post_time after the trigger has passed and every event up to it is released, closing the segment COMPLETE. -/
  | postTimeExpiry
  /-- SEGMENT_OPEN (R344): The next segment opens within 640 ns of a close, or after the CAPT transmission of that segment ends. -/
  | segmentOpen
  /-- CAPTURE_ARM (R343): The ARM command empties every header and opens segment 0. -/
  | captureArm (q : Requester)
  /-- CAPTURE_ABORT (R343): The ABORT command closes the open segment as ABORTED. -/
  | captureAbort (q : Requester)
  /-- FORCE (R346): The FORCE command is a trigger source true at its arrival. -/
  | force (q : Requester)
  /-- CLEAR_CNT (R360): The CLEAR_CNT command clears the capture counters. -/
  | clearCnt (q : Requester)
  /-- EXT_TRIG_EDGE (R347): An edge of EXT_TRIG is captured at its instant; the active one reaches AQ as a trigger source. -/
  | extTrigEdge (instant : BitVec 64) (edge : TrigEdge)
  /-- XLINE_EDGE (R348): A falling XLINE edge not driven by this unit reaches AQ as a trigger source. -/
  | xlineEdge (instant : BitVec 64) (fall : LineFall)
  /-- XLINE_RELEASE (R348): After (xline_len + 1) × 16 ns the unit releases XLINE. -/
  | xlineRelease
  /-- XLINE_STUCK (R348): Another party has held XLINE low for `lowFor` ns. -/
  | xlineStuck (lowFor : Nat)
  /-- CAPTURE_WINDOW_READ (R345): A read of capture memory at a word offset; `ecc` is 1 for a corrected error and 2 for an uncorrectable one. -/
  | captureWindowRead (q : Requester) (offset : BitVec 22) (ecc : Fin 3)
  /-- LANE_ENABLE (R371): An enabled lane leaves DOWN for DETECT and sends HELLO bursts. -/
  | laneEnable (lane : Fin 32)
  /-- HELLO_BURST (R371): In DETECT, a 1 ms burst of HELLO is sent every 100 ms. -/
  | helloBurst (lane : Fin 32)
  /-- HELLO (R370): A HELLO word is received. -/
  | hello (lane : Fin 32) (word : Word)
  /-- CAPS_TIMEOUT (R371): After 10 ms in CAPS without both seen bits, the lane returns to DETECT. -/
  | capsTimeout (lane : Fin 32)
  /-- RATE (R372): A RATE message from the partner, once 16 own RATE words are sent, switches the lane to the next rate. -/
  | rate (lane : Fin 32) (code : BitVec 3)
  /-- ALIGNMENT_TIMEOUT (R372): A receiver not aligned within 1 ms of a rate step counts as a VERIFY failure at the new rate. -/
  | alignmentTimeout (lane : Fin 32)
  /-- TAP_REQ (R373): A received TAP_REQ is applied once per request number and answered TAP_ACK, or answered at limit or not supported. -/
  | tapReq (lane : Fin 32) (tap : BitVec 2) (action : BitVec 2) (number : BitVec 4)
  /-- TAP_ACK (R373): A TAP_ACK is received; `ask` is the next tap request that the receiver makes, as for LANE_ALIGNED. -/
  | tapAck (lane : Fin 32) (number : BitVec 4) (ask : Option (BitVec 4))
  /-- TAP_REQ_RESEND (R373): A tap request unanswered after 10 µs is resent with the same request number. -/
  | tapReqResend (lane : Fin 32)
  /-- EQ_DONE (R373): EQ_DONE is received; `ownSent` says that the own receiver has adapted and the own EQ_DONE has been sent. -/
  | eqDone (lane : Fin 32) (ownSent : Bool)
  /-- EQ_TIMEOUT (R374): 50 ms after entering EQ, equalisation ends and the fixed preset is applied. -/
  | eqTimeout (lane : Fin 32)
  /-- VERIFY_END (R375): A received VERIFY_END, with the own 2 ms PRBS count, decides whether the rung passes: step, UP, step back or FAILED. -/
  | verifyEnd (lane : Fin 32) (errors : Byte)
  /-- VERIFY_PATTERN_END (R375): After 2 ms of PRBS31 the lane sends VERIFY_END with its error count. -/
  | verifyPatternEnd (lane : Fin 32) (errors : Nat)
  /-- RETRAIN (R376): A RETRAIN message from the partner puts a lane in UP into RETRAIN. -/
  | retrain (lane : Fin 32)
  /-- LINE_ERROR_RETRAIN (R376): CRC or line errors over their thresholds put a lane in UP into RETRAIN. -/
  | lineErrorRetrain (errors : LineErrors)
  /-- PARTNER_LOST (R377): A lane that receives no valid word for 1 ms returns to DETECT and sets partner_lost. -/
  | partnerLost (lane : Fin 32)
  /-- LOOP (R378): A received LOOP message enters or leaves far-end loopback, or is answered refused. -/
  | loop (lane : Fin 32) (enter : Bool) (refused : Bool)
  /-- LANE_RETRAIN_CMD (R376): LK_LANE_CMD.retrain restores the target rate and puts the lane into RETRAIN. -/
  | laneRetrainCmd (q : Requester) (lane : Fin 32)
  /-- LANE_REARM (R371): LK_LANE_CMD.rearm moves a FAILED lane to DETECT. -/
  | laneRearm (q : Requester) (lane : Fin 32)
  /-- LANE_CLEAR_COUNTS (R399): LK_LANE_CMD.clear_counts clears the lane counters. -/
  | laneClearCounts (q : Requester) (lane : Fin 32)
  /-- LANE_TEST_WRITE (R378): LK_LANE_TEST sets loopback or PRBS in CONFIGURED or ARMED, or is refused. -/
  | laneTestWrite (q : Requester) (block : Fin 4) (lane : Fin 8) (data : Word)
  /-- PACKET_RECEIVED (R396): A packet is received whole: its header, payload and CRC words, and whether an SOP stood inside it. -/
  | packetReceived (lane : Fin 32) (words : List Word) (sopInside : Bool)
  /-- MGMT_REQUEST_PACKET (R390): the oldest accepted MGMT packet of a lane is executed; `ecc` as in MGMT_TRANSACTION, by transaction (0 beyond the list). -/
  | mgmtRequestPacket (lane : Fin 32) (ecc : List (Fin 3))
  /-- CREDIT (R393): A received CREDIT word sets a stream's credit limit on the lane. -/
  | credit (lane : Fin 32) (stream : BitVec 4) (limit : BitVec 20)
  /-- CREDIT_GRANT (R393): The CK768 sends CREDIT for MGMT and PAIR after each consumed packet and at least every 10 µs. -/
  | creditGrant (lane : Fin 32)
  /-- PACKET_CLOSE_TIMER (R382): A packet under assembly closes 2 µs after it opened. -/
  | packetCloseTimer (stream : Fin 2) (rx : Fin 6)
  /-- PACKET_TRANSMIT (R392): A closed packet, preceded by any pending drop marker, starts on its lane when the lane is free with credit. -/
  | packetTransmit (lane : Fin 32)
  /-- STREAM_WAIT_EXPIRY (R394): A packet waiting beyond its stream's limit for credit or lane is dropped and counted in the drop accumulator. -/
  | streamWaitExpiry (lane : Fin 32)
  /-- STAT_BEACON (R387): At each whole second of TBASE, STAT sends the digest beacon. -/
  | statBeacon
  /-- STAT_CENSUS (R388): Within 100 µs of each frame boundary STAT sends one census packet per RX region with a bound block. -/
  | statCensus
  /-- STAT_SAFETY_MIRROR (R389): STAT sends the safety mirror on any change of its word 0 and otherwise every 10 ms. -/
  | statSafetyMirror
  /-- SAFETY_CYCLE (R405): A safety channel runs its 20 µs cycle, with the levels of EMIT_FB_A, EMIT_FB_B and SAFE_RST as it reads them. -/
  | safetyCycle (channel : Fin 2) (fbA : Bool) (fbB : Bool) (rst : Bool)
  /-- CROSS_OFF (R405): The peer's cross-off line drives this channel's EMIT_EN low. -/
  | crossOff (channel : Fin 2)
  /-- ESTOP_CHANGE (R418): An ESTOP input is asserted or released after its 2 µs filter. -/
  | estopChange (channel : Fin 2) (asserted : Bool)
  /-- ESTOP_DISCREPANCY (R418): ESTOP_A and ESTOP_B differ for longer than estop_disc and both channels fault. -/
  | estopDiscrepancy
  /-- FIRE_REPORT (R412): Channel B receives the oldest fire record of the count tap; `fb` tells that either EMIT_FB read high at its instant, `compared` that R148 would evaluate it. -/
  | fireReport (fb : Bool) (compared : Bool)
  /-- CHARGE_REPORT (R412): Channel A receives a monitor charge code and adds its energy to the window sums. -/
  | chargeReport
  /-- SCAN_FAULT (R416): An axis scan fault raised or cleared by SC arrives at a safety channel. -/
  | scanFault (channel : Fin 2)
  /-- MOTION_SAMPLE_REQUEST (R416): Each channel requests an injected bridge conversion every mot_per µs for each required axis. -/
  | motionSampleRequest (channel : Fin 2) (axis : Fin 8)
  /-- MOTION_SAMPLE (R416): A motion sample arrives and the motion window is evaluated for scan-stop. -/
  | motionSample (channel : Fin 2)
  /-- OFF_DEMAND (R419): The off-demand from CF, or its withdrawal, reaches a safety channel. -/
  | offDemand (channel : Fin 2)
  /-- TICK_CLOSE (R420): At C_k each channel closes tick k − 1 and applies any effective-time change due. -/
  | tickClose
  /-- XC_SEND (R420): At C_k + 5 µs each channel sends its cross-comparison message to the peer. -/
  | xcSend (channel : Fin 2)
  /-- XC_MESSAGE (R420): A channel receives its peer's cross-comparison message. -/
  | xcMessage (channel : Fin 2)
  /-- XC_DECIDE (R420): By C_k + 40 µs each channel runs the cross-comparison tests, faulting on failure, and judges any pending SAFE_RST edge. -/
  | xcDecide (channel : Fin 2)
  /-- TEST_PULSE_START (R422): A channel in PERMIT drives EMIT_EN low for its 10 ms off-pulse. -/
  | testPulseStart (channel : Fin 2)
  /-- TEST_PULSE_SAMPLE (R422): Both channels sample EMIT_FB of the pulsing channel: the level as A and as B see it. -/
  | testPulseSample (channel : Fin 2) (seenA : Bool) (seenB : Bool)
  /-- TEST_PULSE_END (R422): At P + 250 ns EMIT_EN is driven high again. -/
  | testPulseEnd (channel : Fin 2)
  /-- SAFETY_SUPPLY_CHECK (R427): Every 10 ms a channel asks for a conversion of its own supply; `judge` says that it takes the answer, and faults outside 1.14 V to 1.26 V. -/
  | safetySupplyCheck (channel : Fin 2) (judge : Bool)
  /-- SAFE_RST_EDGE (R425): A SAFE_RST rising edge after 10 ms low is held high 10 ms and queued for judgement at the next C_k. -/
  | safeRstEdge
  /-- SAFE_RST_STUCK (R425): SAFE_RST has been high for more than 3 s, or, after that, low for 100 ms. -/
  | safeRstStuck (stuck : Bool)
  /-- UNLOCK (R428): The UNLOCK command compares the written password and unlocks a 60 s session, or counts a failure toward lockout. -/
  | unlock (q : Requester)
  /-- LOCK (R428): The LOCK command ends the password session. -/
  | lock (q : Requester)
  /-- SET_PWD (R428): The SET_PWD command stores a new safety password and writes a log entry. -/
  | setPwd (q : Requester)
  /-- STAGE_LOAD (R429): The STAGE_LOAD command copies the set in force into the staging copy. -/
  | stageLoad (q : Requester)
  /-- SF_PARAM_DATA_WRITE (R429): A write of SF_PARAM_DATA changes a staging word under PWD+PRS. -/
  | sfParamDataWrite (q : Requester) (data : Word)
  /-- SAFETY_COMMIT (R429): The COMMIT command checks the staging copy and schedules it at the next C_k, or is refused. -/
  | safetyCommit (q : Requester)
  /-- SELFTEST (R427): The SELFTEST command starts the safety self-test, or is refused by mode. -/
  | selftest (q : Requester)
  /-- SELFTEST_DONE (R427): The self-test ends; `item` is the failed item of R427 from 1, or 0 for a pass. -/
  | selftestDone (item : BitVec 6)
  /-- DISARM (R419): The DISARM command returns channels from PERMIT or HOT to READY. -/
  | disarm (q : Requester)
  /-- SF_BAD_COMMAND (R433): An unknown SF_CMD value is refused with BAD_COMMAND. -/
  | sfBadCommand (q : Requester) (command : BitVec 4)
  /-- SESSION_EXPIRY (R428): The password session locks 60 s after the last PWD write. -/
  | sessionExpiry
  /-- LOCKOUT_EXPIRY (R428): The 600 s lockout after five failures ends. -/
  | lockoutExpiry
  /-- BUDGET_STALE (R426): A standby channel with no budget state for 300 µs sets its sums to the limits, blocks with budget_stale and falls to READY. -/
  | budgetStale
  /-- CLAIM_FRAME (R442): At a claim slot, claimants pull CLAIM_SYN low and send their carat and CRC with bitwise arbitration. -/
  | claimFrame
  /-- CLAIM_SYN_EDGE (R452): A standby times the falling CLAIM_SYN edge: the arrival is the present nanosecond plus `units` of 1/2048 ns. -/
  | claimSynEdge (units : BitVec 11)
  /-- CLAIM_LATCH (R443): The latch instant of a claim frame; `bus` holds the 24 bits read, carat first. -/
  | claimLatch (bus : BitVec 24)
  /-- CLAIM_SILENT (R462): No valid claim frame for 1 ms with pair_en 1 sets claim_silent. -/
  | claimSilent
  /-- PROMOTE_REQUEST (R447): A PROMOTE_N low for 2 µs is accepted to start claiming, or refused. -/
  | promoteRequest
  /-- PROMOTE_TIMEOUT (R447): No claim frame has been won 1.8 ms after the edge, and the unit returns to STANDBY with NO_WIN. -/
  | promoteTimeout
  /-- EXCITATION_TAKEOVER (R459): At H + 1 µs the promoted unit drives SCN_EXC of an axis; `level` is the level code it last sensed. -/
  | excitationTakeover (axis : Fin 8) (level : BitVec 8)
  /-- HEARTBEAT_TOGGLE (R449): At C_k + 5 µs HEARTBEAT toggles if its conditions hold, and otherwise holds. -/
  | heartbeatToggle
  /-- BUDGET_SEND (R451): An ACTIVE unit sends its window sums in a BUDGET message at each C_k. -/
  | budgetSend
  /-- LOOPS_SEND (R451): An ACTIVE unit sends the LOOPS message every 20 µs. -/
  | loopsSend
  /-- STATUS_SEND (R451): A paired unit sends STATUS every 1 ms and within 20 µs of a change of its content. -/
  | statusSend
  /-- SUMMARY_SEND (R451): A paired unit sends the SUMMARY of a frame once its last pixel has closed in every region. -/
  | summarySend (frame : Word)
  /-- PAIR_MESSAGE (R450): The oldest PAIR packet accepted on a lane is taken. -/
  | pairMessage (lane : Fin 32)
  /-- SUMMARY_COMPARE_TIMEOUT (R457): A comparison still missing a SUMMARY after 10 ms is skipped. -/
  | summaryCompareTimeout (frame : Word)
  /-- REJOIN (R446): PAIR_CMD.rejoin moves a WITHDRAWN unit to STANDBY in CONFIGURED. -/
  | rejoin (q : Requester)
  /-- WITHDRAW (R446): PAIR_CMD.withdraw moves the unit to WITHDRAWN. -/
  | withdraw (q : Requester)
  /-- HK_ROUND (R467): A housekeeping round starts; `die` holds the result words of the on-die sensors by region. -/
  | hkRound (die : List (Fin 14 × Word))
  /-- SUPPLY_MONITOR_CHANGE (R473): A fast rail monitor reports bad after 2 µs outside its limits, or good after 10 µs within them. -/
  | supplyMonitorChange (rail : Fin 10) (good : Bool)
  /-- DOMAIN_FAULT (R479): A domain's power good drops while switched on, and its fault bit, record and reaction follow. -/
  | domainFault (domain : Fin 70)
  /-- DOMAIN_RESTART (R479): Writing 1 to a block domain's PWR_DOM_FAULT bit in CONFIGURED restarts it. -/
  | domainRestart (q : Requester) (word : Fin 3) (data : Word)
  /-- DOMAIN_GOOD (R478): A domain switched on for a shadow plane reports good. -/
  | domainGood (domain : Fin 70)
  /-- DOMAIN_SWITCH_OFF (R478): A domain disabled by the new plane is switched off once the swap's latest stamp has passed and its records have left. -/
  | domainSwitchOff (domain : Fin 70)
  /-- RECORD_WRITE (R498): A region recorder finishes writing a record and takes the next FIFO entry, LOST record first. -/
  | recordWrite (region : Fin 16)
  /-- RECORD_COPY (R500): A propagating or kind 1 record is copied to the chip recorder with the chip sequence. -/
  | recordCopy
  /-- FLASH_MIRROR (R501): The firmware mirrors chip records into the flash ring within 1 s. -/
  | flashMirror
  /-- HOURS_SAVE (R501): Every 1/16 h the operating hours are saved to flash. -/
  | hoursSave
  /-- REC_DATA_READ (R502): A read of REC_DATA_0 latches the record at the cursor and advances it, or returns 0 at the head. -/
  | recDataRead (q : Requester)
  /-- FETCH (R502): The FETCH command starts latching a flash record. -/
  | fetch (q : Requester)
  /-- FETCH_DONE (R502): A flash record is latched and busy clears. -/
  | fetchDone
  /-- CLEAR (R503): The CLEAR command empties the selected recorder stores and writes CLEARED records. -/
  | clear (q : Requester)
  /-- SPLIT_READ_LOW (R493): A read of the low word of a 64-bit value latches its high word into the requester's shadow. -/
  | splitReadLow (q : Requester) (addr : BitVec 28)
  /-- WINDOW_LATCH_READ (R494): A read of word 0 of a multi-word window latches all its words for the requester. -/
  | windowLatchRead (q : Requester) (addr : BitVec 28)
  /-- LOUPE_IN_EDGE (R504): The chosen LOUPE_IN edge is a Loupe trigger source. -/
  | loupeInEdge (instant : BitVec 64) (rising : Bool)
  /-- LOUPE_ARM (R505): The arm command arms Loupe, or is refused outside its modes. -/
  | loupeArm (q : Requester)
  /-- LOUPE_FIRE (R504): The fire command is a Loupe trigger source. -/
  | loupeFire (q : Requester)
  /-- LOUPE_LATCH (R506): At L = T_L + 1,000 ns each participating block latches its snapshot, and done sets when all have. -/
  | loupeLatch
  /-- STORE_CUT (R515): The STORE_CUT command writes the VALID shadow image to a flash Cut slot. -/
  | storeCut (q : Requester) (slot : BitVec 2)
  /-- SET_BOOT_CUT (R515): The SET_BOOT_CUT command records the boot Cut slot in the control block. -/
  | setBootCut (q : Requester) (slot : BitVec 2)
  /-- OPEN_UPDATE (R519): The OPEN_UPDATE command opens an update session for its requester, or is refused. -/
  | openUpdate (q : Requester)
  /-- OPEN_KEYS (R519): The OPEN_KEYS command opens a key session for its requester, or is refused. -/
  | openKeys (q : Requester)
  /-- CLOSE (R519): The CLOSE command frees the session lock. -/
  | close (q : Requester)
  /-- UPDATE_SESSION_EXPIRY (R519): After 60 s of owner inactivity the session lock frees and session_expired sets. -/
  | updateSessionExpiry
  /-- FW_DATA_WRITE (R520): A write of FW_DATA stores an image word, erasing a new sector first, or is discarded when not ready or past the slot. -/
  | fwDataWrite (q : Requester) (data : Word)
  /-- FLASH_PROGRAM_DONE (R520): A sector erase or page program completes, or fails. -/
  | flashProgramDone (failed : Bool)
  /-- VERIFY (R517): The VERIFY command starts checking the image slot. -/
  | verify (q : Requester)
  /-- VERIFY_DONE (R517): Image verification ends, setting VERIFIED or giving a verify code. -/
  | verifyDone
  /-- ACTIVATE (R521): The ACTIVATE command sets TRIAL, moves RUN to ARMED and hands control to the loader to load the new image. -/
  | activate (q : Requester)
  /-- IMAGE_LOADED (R521): The loader finishes reading the image and starts it at entry, or falls back on LOAD_MISMATCH. -/
  | imageLoaded
  /-- READY (R521): READY is given; `settings` lists the halves of the settings slots (slot × 2 + half) that the image has written, header first. -/
  | ready (q : Requester) (settings : List (Fin 4 × List Word))
  /-- READY_TIMEOUT (R521): A new image that does not write READY within 100 ms leads to fallback. -/
  | readyTimeout
  /-- CONFIRM (R523): CONFIRM is given; `settings` as for READY. -/
  | confirm (q : Requester) (switch : Bool) (settings : List (Fin 4 × List Word))
  /-- CONFIRM_DEADLINE (R524): confirm_s passes in trial without CONFIRM, leading to fallback. -/
  | confirmDeadline
  /-- WATCHDOG_EXPIRY (R526): After 1 s without service, the watchdog takes the chip-level reaction and restarts or falls back. -/
  | watchdogExpiry
  /-- ENROL (R531): The ENROL command stores a public key in the selected slot, or is refused. -/
  | enrol (q : Requester)
  /-- REVOKE (R531): The REVOKE command revokes the selected slot's key and lists its digest, or is refused. -/
  | revoke (q : Requester)
  /-- ATTEST (R533): The ATTEST command starts signing a report over the nonce. -/
  | attest (q : Requester)
  /-- ATTEST_DONE (R533): The attestation report is ready and attest_done sets. -/
  | attestDone
  /-- FW_BAD_COMMAND (R535): An unknown FW_CMD value is refused with BAD_COMMAND. -/
  | fwBadCommand (q : Requester) (command : BitVec 4)
  /-- PRESENCE_OPEN (R529): PRESENCE_N low for 100 ms opens the physical-presence window. -/
  | presenceOpen
  /-- PRESENCE_CLOSE (R529): PRESENCE_N rises, or 60 s have passed since it did. -/
  | presenceClose (rose : Bool)
  /-- MGMT_TRANSACTION (R540): a transaction of requester `q`; `ecc` is what the ECC of a memory window finds: 0 clean, 1 corrected, 2 uncorrectable. -/
  | mgmtTransaction (q : Requester) (addr : Word) (data : Word) (ecc : Fin 3)
  /-- ECHO (R541): The ECHO operation returns its data word unchanged with OK. -/
  | echo (q : Requester) (addr : Word) (data : Word)
  /-- BAD_OP (R548): A transaction with op 0b11 completes with BAD_OP and is not executed. -/
  | badOp (q : Requester) (addr : Word)
  /-- SPI_FRAME_START (R552): A falling MGMT_CS_N begins an SPI frame and resets the byte count. -/
  | spiFrameStart
  /-- SPI_REQUEST (R552): the nine bytes of a request have been received; `ecc` as in MGMT_TRANSACTION. -/
  | spiRequest (addr : Word) (data : Word) (crc : Byte) (ecc : Fin 3)
  /-- SPI_FRAME_END (R553): MGMT_CS_N rises; `inside`: within a request, or before the last byte of a response. -/
  | spiFrameEnd (inside : Bool)
  /-- RESET_N_ASSERT (R561): Four consecutive low samples of RESET_N assert the reset and put every output in its off state. -/
  | resetNAssert
  /-- RESET_N_RELEASE (R562): RESET_N rises and the start reference is set. -/
  | resetNRelease
  /-- STARTUP_START (R563): From the start reference the start-up sequence runs; the timebase locks `lockNs` after it. -/
  | startupStart (lockNs : Nat)
  /-- RUN (R571): The RUN command starts shooting in ARMED, or service shooting in SERVICE, or is refused with MODE. -/
  | run (q : Requester)
  /-- STOP (R571): The STOP command ends RUN or service shooting within 1 µs. -/
  | stop (q : Requester)
  /-- RESET_CHIP (R572): The RESET_CHIP command with its key resets the device 5 µs after completing, or is refused. -/
  | resetChip (q : Requester) (key : BitVec 16)
  /-- MODE_BAD_COMMAND (R576): An unknown MODE_CMD value, or a wrong key, is refused with BAD_COMMAND or BAD_KEY. -/
  | modeBadCommand (q : Requester) (command : BitVec 4) (key : BitVec 16)
  /-- LANE_ALIGNED (R372): The receiver aligns at the new rate; `ask` is the first tap request (tap in [1:0], action in [3:2]) that it makes of its partner. -/
  | laneAligned (lane : Fin 32) (ask : Option (BitVec 4))
  /-- AQ_BAD_COMMAND (R360): An AQ_CTRL write whose command value is not ARM, ABORT, FORCE or CLEAR_CNT sets cmd_refused. -/
  | aqBadCommand (q : Requester) (command : BitVec 3)
  /-- GATE_BAD_COMMAND (R200): An RX_GATE_CMD write whose command value is not READ, STAGE, COMMIT or DISCARD sets refused. -/
  | gateBadCommand (q : Requester) (rx : Fin 6) (command : BitVec 3)
  /-- CAL_BAD_COMMAND (R330): A CAL_CMD write whose command value is not FG_START, FG_ABORT or WIN_READ sets fg_refused. -/
  | calBadCommand (q : Requester) (command : BitVec 4)
  /-- ISLAND_CLOCK_MONITOR_FAULT (R36): An island clock monitor reports a fault, and its region is fenced, escalating to chip level for HK, SC, TX or LK. -/
  | islandClockMonitorFault (region : Fin 16)
  /-- CROSSBAR_FAULT (R36): A crossbar fault is detected, and the chip-level reaction drives emission off and the device to CONFIGURED. -/
  | crossbarFault
  /-- CF_UNCORRECTABLE_ERROR (R36): An uncorrectable error in CF is detected and the chip-level reaction follows until a reset. -/
  | cfUncorrectableError
  deriving DecidableEq, Repr

end Sys2Proof
end

