-- ==== Sys2Proof/Machine/State.lean ====
section
/-!
DEFINITION. The state of one CK768, its reset value, and the reasons a command can stop. Registers the manual numbers live in
one register file, keyed by the byte address of the address word (R541); state the manual names without an address lives in
the structures below, one per chapter. All of it is plain data.
-/
namespace Sys2Proof.Machine

/-! ### Modes and small enumerations -/

/-- The modes of R7. -/
inductive Mode where
  | off | loader | service | configured | armed | run
  deriving DecidableEq, Repr

/-- The pair states of R8 and R556. -/
inductive Pair where
  | solo | active | standby | withdrawn
  deriving DecidableEq, Repr

/-- An effective instant (R28): a TBASE value, or the boundary instant of a frame. -/
inductive Inst where
  | atTime (t : Nat)
  | atFrame (f : Nat)
  deriving DecidableEq, Repr

/-- What holds CHIP_FAULT (R573, R617). -/
inductive ChipCause where
  | refclk | digest | crossbar | cfError | fence (region : Nat) | temp (channel kind : Nat) | junction | converter (k : Nat)
  | fallback | watchdog
  deriving DecidableEq, Repr

/-! ### Timebase (chapter 01) -/

/-- What schedules a change other than a swap: the gate map of RX`n`, the inclusion codes, the bring-in of a calibration section (R28). -/
inductive Facility where
  | gates (n : Nat)
  | codes
  | bringIn (key : Nat)
  deriving DecidableEq, Repr

/-- A change with its effective instant: the targets that have not applied it, and the stamp that each other recorded (R28, R31). -/
structure Change where
  what : Facility
  at_ : Nat
  waiting : List Nat
  stamps : List (Nat × Nat)
  deriving DecidableEq, Repr

/-- The timebase and the frame limit (R23 to R27). -/
structure Timebase where
  /-- TBASE, R23. -/
  tbase : BitVec 64 := 0
  /-- The loop has locked once, so TBASE counts (R23). -/
  running : Bool := false
  /-- The instant from which the frame limit runs (R27). -/
  limitFrom : Nat := 0
  /-- The last measured frame period, once two edges have arrived (R27). -/
  period : Option Nat := none
  /-- Changes that CF has accepted, by which two of one instant are ordered (R44). -/
  accepted : Nat := 0
  /-- The last change of each facility (R31). -/
  changes : List Change := []
  /-- An edge has been captured since the lock (R26). -/
  edgeSeen : Bool := false
  deriving DecidableEq, Repr

/-! ### Cut planes (chapter 02) -/

/-- A frame of a plane: address, type word, and the words that enter the canonical content (R48, R61). -/
structure Frame where
  f0 : Nat
  f1 : Nat
  words : List Word
  deriving DecidableEq, Repr

/-- A plane: its frames other than COMMENT, in ascending order of key (R61, R62). -/
abbrev Plane := List Frame

/-- The shadow and live planes and the pending swap (R60, R62, R67 to R69, R616). -/
structure CutState where
  /-- The shadow plane by word offset; an unwritten word reads 0 (R547). -/
  shadow : Sparse Word := []
  /-- The live plane; none while no Cut is live. -/
  live : Option Plane := none
  /-- The plane in force before the last swap, still used by the targets in `waiting` (R28). -/
  old : Option Plane := none
  /-- Its epoch and digest fragment, which its content still carries (R63, R70). -/
  oldEpoch : Word := 0
  oldFrag : Word := 0
  /-- The merged plane staged by the last VALIDATE that passed (R60). -/
  staged : Option Plane := none
  /-- The keys of the frames that the Cut of the staged plane, and that of the plane last swapped in, carried themselves (R190, R429). -/
  stagedKeys : List (Nat × Nat) := []
  swapKeys : List (Nat × Nat) := []
  /-- The Cut that was staged was written with an open presence window (R58 tests it at VALIDATE's acceptance). -/
  presenceAtValidate : Bool := false
  /-- The instant of the scheduled swap. -/
  swapAt : Option Inst := none
  /-- The effective instant of the swap in progress, once it has come. -/
  swapI : Nat := 0
  /-- A swap has come and is not yet done (R69). -/
  inSwap : Bool := false
  /-- Islands and blocks that have not yet applied the swap in progress (R28, R29). -/
  waiting : List Nat := []
  /-- Earliest and latest application stamp so far, and the stamp that each target recorded at its boundary (R31). -/
  firstStamp : Nat := 0
  lastStamp : Nat := 0
  stamps : List (Nat × Nat) := []
  /-- The place of the scheduled swap among the changes that CF has accepted (R44). -/
  order : Nat := 0
  /-- The swap in progress brings in the ROM service image's plane; that plane is live (R71, R525). -/
  romNext : Bool := false
  romLive : Bool := false
  /-- Bits that have flipped in the stored live plane, by word of its canonical content (R64). -/
  upsets : Sparse Word := []
  /-- LOAD_SLOT's copy in progress: the slot. -/
  copying : Option Nat := none
  deriving DecidableEq, Repr

/-! ### Event recorder, Loupe and requesters (chapters 16 and 18) -/

/-- A record of 8 words (R496). -/
structure Rec where
  w0 : Word
  w1 : Word
  w2 : Word
  w3 : Word
  w4 : Word
  w5 : Word
  w6 : Word
  w7 : Word
  deriving DecidableEq, Repr

/-- A region recorder (R498, R499): the ring (oldest first, at most 64), the next sequence, the record being written, the
FIFO of at most 16, and the count of dropped events. -/
structure Recorder where
  ring : List Rec := []
  seq : Word := 0
  writing : Option Rec := none
  fifo : List Rec := []
  dropped : Nat := 0
  deriving DecidableEq, Repr

/-- The chip recorder, its mirror in flash, and the always-on counters (R500, R501). -/
structure ChipRecorder where
  /-- The chip ring, oldest first, at most 4,096. -/
  ring : List Rec := []
  seq : Word := 0
  /-- Region records due for a copy, oldest first. -/
  copies : List Rec := []
  /-- Chip records not yet mirrored to flash, oldest first. -/
  unmirrored : List Rec := []
  /-- The flash ring, oldest first, at most 65,536. -/
  flash : List Rec := []
  /-- The next chip sequence that flash restores at start-up. -/
  flashSeq : Word := 0
  /-- Operating hours, 24.8 fixed point, counted by the always-on domain, and the value last saved to flash. -/
  hours : Word := 0
  hoursSaved : Word := 0
  /-- Time counted towards the next 1/256 h, in ns. -/
  hoursNs : Nat := 0
  /-- Power-cycle count, saturating at 65,535. -/
  cycles : Nat := 0
  deriving DecidableEq, Repr

/-- What the manual keeps per requester (R493, R494, R502, R539). -/
structure Req where
  /-- Completion of the last transaction: status code and data word (R548). -/
  status : Byte := 0
  data : Word := 0
  /-- The address of the last access where that was a read, for the shadow rule of R493. -/
  lastAccess : Option Nat := none
  /-- The low word whose read filled the 64-bit shadow, and the shadow. -/
  shadowOf : Nat := 0
  shadow : Word := 0
  /-- Latched windows by the address of word 0 (R494). -/
  windows : Sparse (List Word) := []
  recSel : Nat := 0xE
  recCursor : Word := 0
  recData : List Word := []
  /-- A record latched by FETCH, not yet read. -/
  fetched : Option Rec := none
  loupeSel : Word := 0
  deriving DecidableEq, Repr

/-- The SPI port (R552, R553). -/
inductive SpiPhase where
  | idle
  | request
  | response
  deriving DecidableEq, Repr

/-- Loupe (R504 to R507). -/
structure Loupe where
  /-- The evaluation slot (TBASE / 10 ns) of the last firing. -/
  lastSlot : Option Nat := none
  /-- The watched event bit at the last evaluation. -/
  evtPrev : Bool := false
  /-- The latch instant L of a firing whose blocks have not all latched. -/
  latchAt : Option Nat := none
  /-- Snapshots by region × 256 + block (5 header words, then content). -/
  snaps : Sparse (List Word) := []
  deriving DecidableEq, Repr

/-- Management service, requesters, recorders and Loupe together. -/
structure Mgmt where
  req : Sparse Req := []
  spi : SpiPhase := .idle
  recorders : Sparse Recorder := []
  chip : ChipRecorder := {}
  /-- FETCHes in progress, oldest first: requester and sequence asked for (R502). -/
  fetching : List (Nat × Word) := []
  loupe : Loupe := {}
  /-- Summary words of fenced regions as they stood at the fence (R489). -/
  frozen : Sparse Word := []
  /-- SF has not acknowledged: the next transaction to it completes with FENCED at the time-out (R540, R548). -/
  sfSilent : Bool := false
  deriving DecidableEq, Repr

/-! ### Reset and start-up (chapter 19) -/

/-- Reset and start-up (R560 to R574). -/
structure Startup where
  /-- RESET_N, or an internal reset of 10 µs, holds the device (R561). -/
  inReset : Bool := false
  /-- Why: the code of `RESET_CAUSE`.cause. -/
  cause : Nat := 0
  /-- The instant at which an accepted RESET_CHIP takes effect (R572). -/
  resetAt : Option Nat := none
  /-- The start reference has been set and no start-up has run from it (R562). -/
  ready : Bool := true
  /-- Time from the start reference to the lock of the timebase (R562, R563), by which `STARTUP_TIME` counts. -/
  lockNs : Nat := 0
  /-- The loader's own boot Cut is being loaded, validated or swapped in (step 4 of R563). -/
  boot : Bool := false
  /-- Causes of the chip-level reaction in force, in order of arrival (R573). -/
  chip : List ChipCause := []
  /-- Blocks isolated by a block-level reaction (R36), as region × 256 + block. -/
  isolated : List Nat := []
  /-- Regions whose fence has been lifted and which have not yet reported ready (R41). -/
  notReady : List Nat := []
  /-- Blocks that dropped a run-time write (R44), as region × 256 + block. -/
  rtDropped : List Nat := []
  deriving DecidableEq, Repr

/-! ### The machine -/

/-! ### Calibration (chapter 10) -/

/-- A stored set of a table section (R314): keys in 0.01 °C, whether it has two load points, and the words of its points, light load
first. -/
structure CalSet where
  keys : List Int
  load : Bool
  points : List (List Word)
  deriving DecidableEq, Repr

/-- A section of a working copy (R312, R321, R322). -/
structure CalSection where
  set : CalSet
  /-- A stored set that waits for the next frame boundary. -/
  next : Option CalSet := none
  /-- ref_now of the block drift in force, and one that waits; none until a background run has drifted (R135). -/
  ref : Option (List Nat) := none
  nextRef : Option (List Nat) := none
  /-- `CAL_SLEW`.frames when the waiting bring-in started. -/
  nNext : Nat := 0
  /-- The slew in progress: Δ_0 by entry, k and n. -/
  delta0 : List Int := []
  k : Nat := 0
  n : Nat := 0
  deriving DecidableEq, Repr

/-- The working copies and foreground calibration. Sections are keyed region × 2^24 + block × 2^16 + cell × 2^8 + kind; an unlisted one
is the factory store's. -/
structure Cal where
  sections : Sparse (Option CalSection) := []
  /-- Calibration count and time by section (R327). -/
  counts : Sparse (Nat × Word) := []
  /-- Last valid die temperature by region, in 0.01 °C (R318). -/
  temp : Sparse Int := []
  /-- λ_q by RX region, and the read-modify-writes counted in the millisecond in progress (R319). -/
  load : Sparse Nat := []
  rmw : Sparse Nat := []
  /-- Keys of the frames of Cuts swapped in while a region was fenced or not ready, which it takes up when it is (R41, R312). -/
  missed : Sparse (List (Nat × Nat)) := []
  /-- Head ports a foreground request has still to start (R324). -/
  fgLeft : List Nat := []
  /-- Temperature and λ_q at the start of each block's run (R326). -/
  fgAt : Sparse (Int × Nat) := []
  deriving DecidableEq, Repr

/-! ### Packets (chapter 12) -/

/-- A packet under assembly or queued (R379 to R383, R392 to R394): its header's content, its payload, the units it counts, the pixel
indices of its first and last unit, the segment of a CAPT packet, the instant it opened, and the instant at which its wait ends. -/
structure Packet where
  stream : Nat
  kind : Nat
  source : Nat
  last : Bool := false
  frame : Nat
  epoch : Word
  frag : Word
  payload : List Word
  units : Nat := 1
  firstPix : Nat := 0
  lastPix : Nat := 0
  seg : Nat := 0
  opened : Nat := 0
  deadline : Option Nat := none
  deriving DecidableEq, Repr

/-! ### Receive path: front end, girdle, slices (chapters 03, 04, 06, 07) -/

/-- A captured discriminator edge (R113, R114, R121, R127): coarse nanosecond, phase code, polarity, and its bits. -/
structure Edge where
  ns : Nat
  phase : Nat
  rising : Bool
  high : Bool
  ovl : Bool
  dead : Bool
  deriving DecidableEq, Repr

/-- What a slot is to a cell (R96, R125, R164): one with a start, a listen slot, or a check slot. -/
inductive SlotKind where
  | fire | listen | check
  deriving DecidableEq, Repr

/-- A fire placed for a slot: emitter, nanosecond and placement code (R116, R157), and whether a check slot suppressed it (R159)
or a masked or disabled port cannot fire it (R149, R154). -/
structure Fire where
  emitter : Nat
  ns : Nat
  q : Nat
  suppressed : Bool
  dead : Bool
  /-- Skew of a pair that a standby adds to the start, in units (R452). -/
  lag : Int := 0
  deriving DecidableEq, Repr

/-- A slot of a sequence as the scheduler posts it to a block (R18, R155 to R157). -/
structure Slot where
  seq : Nat
  frame : Nat
  /-- Slot number in the frame, pixel number m, and index within the pixel. -/
  n : Nat
  m : Nat
  k : Nat
  kind : SlotKind
  /-- Nominal instant T_n and inclusion code. -/
  tn : Nat
  code : Nat
  lag : Int := 0
  fires : List Fire
  /-- The slot belongs to the block's own sequence; otherwise it is known for its crosstalk windows only (R89). -/
  own : Bool
  /-- The lows of BLANK_N that the block knew at posting, each with its end where that was known (R90). -/
  known : List (Nat × Option Nat)
  /-- In ACTIVE or STANDBY an EMIT_FB had read low for 1 µs at the slot's instant, so the slot is not counted (R453). -/
  dark : Bool
  /-- Cells whose window has been judged, and among them those in which it counted (R89), as bit sets. -/
  judged : Nat
  counted : Nat
  deriving DecidableEq, Repr

/-- The tables by which a cell's edges are corrected (R128, R129): bin centres, delay offset, walk. -/
structure Tables where
  centre : List Int
  offset : Int
  walk : List Int
  deriving DecidableEq, Repr

/-- What the edges of a shot are judged and corrected by in one cell (R122, R128, R131, R180), fixed with its pixel: the bounds of the
window in units from the start, the cell's tables, the block skew, walk_en, tot_limit in units, and whether it is cell 2k + 1 of a
ganged pair. -/
structure View where
  lo : Nat := 0
  hi : Nat := 0
  tables : Tables := ⟨[], 0, []⟩
  skew : Int := 0
  walkEn : Bool := false
  totLimit : Nat := 0
  odd : Bool := false
  deriving DecidableEq, Repr

/-- A listening window of a cell (R119, R120): the shot with its slot number in the frame, its start in units of R115, the stop indices
used, and the instant at which a truncation closed it. -/
structure Win where
  view : View
  n : Nat
  m : Nat
  k : Nat
  frame : Nat
  kind : SlotKind
  start : Nat
  used : Nat
  closed : Option Nat
  /-- rel of the first rising edge attributed to the shot (R355). -/
  first : Option Nat
  judged : Bool
  /-- Girdle counters that its stops have counted in, which a shot found blanked takes back (R125). -/
  notes : List Nat := []
  deriving DecidableEq, Repr

/-- A rising edge held by the pairing stage, or a pulse that closed open and still awaits its falling edge (R122). -/
structure Held where
  view : View
  m : Nat
  k : Nat
  frame : Nat
  kind : SlotKind
  start : Nat
  j : Nat
  rise : Edge
  prev : Bool
  /-- The ToT limit has passed, so the pulse has left already. -/
  openSent : Bool
  deriving DecidableEq, Repr

/-- The content of an edge event word (R126). -/
structure Pulse where
  interval : Nat
  odd : Bool
  shot : Nat
  pulse : Nat
  tot : Nat
  high : Bool
  ovl : Bool
  near : Bool
  prev : Bool
  totOpen : Bool
  dead : Bool
  deriving DecidableEq, Repr

/-- An edge event word on its way to the slice: its pixel, the instant at which its pulse completed, in units, and its two words
(R124, R126, R130). -/
structure EdgeWord where
  frame : Nat
  m : Nat
  done : Nat
  w0 : Word
  w1 : Word
  deriving DecidableEq, Repr

/-- An edge as the girdle delivers it to AQ (R127, R335 to R337): ideal time in girdle LSB, shot, attribution, stop index or
reason, polarity, channel. -/
structure AqEvent where
  tLsb : Nat
  shot : Nat
  attr : Nat
  stop : Nat
  pol : Bool
  channel : Nat
  deriving DecidableEq, Repr

/-- A return channel (chapters 03 and 04). -/
structure Cell where
  /-- The reading that waits for the cell's next one, and the instant of its conversion (R84). -/
  lastReading : Option (Nat × Nat) := none
  /-- The last committed reading and the instant of its conversion (R84, R99). -/
  committed : Option Nat := none
  committedAt : Nat := 0
  /-- The exponential average of committed readings, in 1/65,536 of an LSB (R85). -/
  ambAvg : Nat := 0
  /-- The high threshold in force, in 1/160 of half a millivolt, in which R87 and R317 give it without rounding. -/
  thrHigh : Nat := 0
  /-- INPUT_SUSPECT has run since this instant, that of the last committed reading (R99). -/
  suspectFrom : Option Nat := none
  /-- AMB_OVER: the check passed and readings are still out of range (R98). -/
  ambOver : Bool := false
  /-- A re-arm was asked for (R100); its check passed and the next pixel boundary unmasks the cell. -/
  rearmAsked : Bool := false
  unmaskNext : Bool := false
  /-- A foreground run failed, so a re-arm needs a new run that passes (R134). -/
  needsForeground : Bool := false
  /-- The cell was masked when a swap disabled it, and is masked again when one enables it (R100). -/
  maskedBefore : Bool := false
  /-- `GD_CELL_CMD`.clear_counts waits for the pixel boundary (R141). -/
  clearNext : Bool := false
  /-- Stops are suppressed before this instant while a new gain settles (R81). -/
  settleUntil : Nat := 0
  /-- The last captured edge: its time in units and polarity; edges lost since, in its dead time (R121). -/
  lastEdge : Option (Nat × Bool) := none
  lostInDead : Bool := false
  /-- The stop queue, oldest first, at most 16 (R35). -/
  queue : List Edge := []
  /-- Windows, newest first; held pulses; finished pulses on their way to the slice. -/
  wins : List Win := []
  held : List Held := []
  out : List EdgeWord := []
  deriving DecidableEq, Repr

/-- One cell's part of an open or closed pixel: bins, summary, ledger (R176, R202), and what placed words came from. -/
structure CellPix where
  bins : Sparse Word := []
  ovlCount : Nat := 0
  ledger : Sparse Nat := []
  /-- A slot was not counted for a crosstalk window or an external interval (R93). -/
  blankCause : Bool := false
  /-- Words placed, as (shot, bin, counted, fine, ledger entry or 64 for none, overload): what a shot that is not counted takes back (R89). -/
  placed : List (Nat × Nat × Bool × Nat × Nat × Bool) := []
  saturated : Bool := false
  eccFatal : Bool := false
  /-- Pixel flags of the cell that later events add (bits of R219). -/
  flags : Nat := 0
  deriving DecidableEq, Repr

/-- The window of a cell for one pixel (R180, R191). -/
structure CellWin where
  o : Nat := 0
  kEff : Nat := 0
  reach : Nat := 0
  tracked : Bool := false
  sweep : Bool := false
  entry : Nat := 0
  deriving DecidableEq, Repr

/-- A pixel of a block, from its boundary to the end of its read (R187). Everything it is built under is fixed at the boundary
(R28, R131): the plane, the tables, the windows, the ambient codes and the block skew. -/
structure Pixel where
  frame : Nat
  m : Nat
  /-- Boundary B_m, slots per pixel, period, pixel index. -/
  start : Nat
  shots : Nat
  period : Nat
  index : Nat
  cls : Nat
  plane : Option Plane
  epoch : Word
  frag : Word
  skew : Int
  tables : List Tables
  rtable : List Int
  wins : List CellWin
  amb : List Nat
  /-- Cells masked at the boundary and pixel flags of the whole block. -/
  flags : Nat
  slew : Bool
  cells : Sparse CellPix
  /-- The block's second pixel boundary after this one, once it has come into the schedule (R187). -/
  b2 : Option Nat
  /-- The close instant that a frame boundary sets (R166). -/
  cutAt : Option Nat
  /-- Closed at C_m; cells read so far. -/
  closedAt : Option Nat
  read : Nat
  deriving DecidableEq, Repr

/-- The boundary of a pixel as the scheduler announces it to a block (R20, R155). -/
structure PixOpen where
  seq : Nat
  frame : Nat
  m : Nat
  start : Nat
  shots : Nat
  period : Nat
  index : Nat
  deriving DecidableEq, Repr

/-- The state of a receive block (chapters 03, 04, 06). -/
structure RxBlk where
  /-- Buffers X and Y. -/
  bufX : Option Pixel := none
  bufY : Option Pixel := none
  /-- Pixel boundaries announced, slots posted and not yet delivered, slots delivered. -/
  opens : List PixOpen := []
  posts : List Slot := []
  slots : List Slot := []
  /-- BLANK_N intervals the block holds, oldest first: the falling edge, and the rising edge once known (R90). -/
  blanks : List (Nat × Option Nat) := []
  /-- Connection check: the round's cell, where the window in progress began, none while the check does not run, the runs of slots in it
  that were not silent, newest first, out-of-turn requests, and the cell of an out-of-turn window in progress (R95 to R98). -/
  checkCell : Nat := 0
  checkFrom : Option Nat := none
  busy : List (Nat × Nat) := []
  outOfTurn : List Nat := []
  outNow : Option Nat := none
  /-- Markers measured since the last refresh, their sum, and those measured in all (R117). -/
  markers : List Int := []
  markersSeen : Nat := 0
  skewNext : Option Int := none
  /-- A marker departed and none has agreed since (R118). -/
  markerBad : Bool := false
  /-- The reference cell's table of the last background run that drifted, ref_now; none until one has (R135). -/
  refNow : Option (List Nat) := none
  /-- Epoch and digest fragment of the plane under which the latched census was counted (R63, R165). -/
  censusId : Word × Word := (0, 0)
  /-- Running census counts: foreign and noise pulses, listen windows observed (R165). -/
  foreign : Nat := 0
  noise : Nat := 0
  windows : Nat := 0
  /-- The latched count of foreign pulses exceeded the alarm level (R165, R388). -/
  foreignHigh : Bool := false
  /-- Foreground calibration (R134, R325): the run waits for the first pixel boundary at or after an instant, for the close of
  the pixel before that boundary, is in progress, or has ended and the block waits for the boundary at which it returns. -/
  fgWait : Option Nat := none
  fgLeave : Bool := false
  fgRunning : Bool := false
  fgBack : Bool := false
  /-- Instant of the last bias conversion request (R94). -/
  biasAt : Nat := 0
  deriving DecidableEq, Repr

/-- Evidence of one frame for a gate entry (R192, R193). -/
structure GateEv where
  frame : Nat := 0
  nPix : Nat := 0
  nRet : Nat := 0
  sumC : Nat := 0
  deriving DecidableEq, Repr

/-- The receive regions together. Keys: channel for cells, head port for blocks, region × 131,072 + index for gate entries. -/
structure Rx where
  cells : Sparse Cell := []
  blks : Sparse RxBlk := []
  /-- BLANK_N is low, since when, and the last low with its end, which a high gap below 10 ns undoes (R90). -/
  blankLow : Option Nat := none
  blankLast : Option (Nat × Nat) := none
  /-- Edges on their way to AQ, by region, oldest first (R127). -/
  toAq : Sparse (List AqEvent) := []
  /-- Working gate maps of RX0 to RX5 (R190). -/
  gates : Sparse Word := []
  evidence : Sparse GateEv := []
  /-- Updates computed and waiting for a frame boundary, by entry: the frame and the new word (R194). -/
  updates : Sparse (Nat × Word) := []
  /-- Staging lists, by region: (index, value) pairs; and the frame of a pending commit (R195). -/
  staged : Sparse (List (Nat × Word)) := []
  /-- Run-time writes of block and cell registers waiting for their block's pixel boundary (R14), oldest first, and the TBASE
  stamped on the last applied write of each register. -/
  rtWrites : List (Nat × Word) := []
  stamps : Sparse Nat := []
  commits : Sparse Nat := []
  /-- The frame at whose boundary the host last replaced an entry, plus 1; 0 for none (R195). -/
  hostGates : Sparse Nat := []
  /-- The place of each pending commit among the changes that CF has accepted (R44). -/
  commitOrder : Sparse Nat := []
  /-- The region output (R35): records that wait at each block, oldest first; by region the block served last, how many of its records
  in a row, and the instant until which the output is busy. -/
  output : Sparse (List Packet) := []
  served : Sparse (Nat × Nat) := []
  outBusy : Sparse Nat := []
  deriving DecidableEq, Repr

/-! ### Shots and emitters (chapter 05) -/

/-- A fire waiting on a port for its instant (R145), with its width code. -/
structure PortFire where
  /-- Boundary of its pixel, from which a promoted unit drives (R459), and the instant of its slot in girdle LSB (R166). -/
  pix : Nat := 0
  slot : Nat := 0
  ns : Nat
  q : Nat
  width : Nat
  seq : Nat
  deriving DecidableEq, Repr

/-- An emitter port: persistence counts, mask, fires placed and not yet driven, re-arm waiting (R147 to R149). -/
structure Port where
  low : Nat := 0
  high : Nat := 0
  masked : Bool := false
  rearm : Bool := false
  fires : List PortFire := []
  /-- Fires driven whose charge code has not come back, oldest first. -/
  gates : List PortFire := []
  deriving DecidableEq, Repr

/-- A sequence: the frame it runs, its boundary instant E, the next slot, the LFSR (R155, R160). -/
structure Seq where
  placing : Bool := false
  frame : Nat := 0
  edge : Nat := 0
  n : Nat := 0
  lfsr : Nat := 0
  /-- The plane of the pixel whose shots are being placed (R28, R29). -/
  plane : Option Plane := none
  /-- The shot time of a pixel placed ahead under a swap whose instant has not come yet. -/
  early : Option Nat := none
  deriving DecidableEq, Repr

/-- Check slots that a window asks of the scheduler (R96): the channel, how many, how many have been used, and the instants between which
they lie. -/
structure CheckReq where
  channel : Nat
  need : Nat
  used : Nat := 0
  start : Nat
  stop : Nat
  deriving DecidableEq, Repr

/-- The shot scheduler. -/
structure Tx where
  ports : Sparse Port := []
  seqs : Sparse Seq := []
  /-- The device shoots: RUN, or SERVICE with service shooting, has been entered (R167). -/
  shooting : Bool := false
  /-- No frame boundary has come since power-on, or since a swap set h to 0 (R161). -/
  hFresh : Bool := true
  /-- A swap changed the seed, so the next frame boundary at or after its instant sets h to 0 (R161). -/
  hZero : Bool := false
  /-- The seed and CODE frame in force for the frame in progress (R175). -/
  code : List Word := []
  /-- Check slots asked for (R96). -/
  checks : List CheckReq := []
  /-- The place of the pending extra hop among the changes that CF has accepted (R44). -/
  hopOrder : Nat := 0
  /-- Fires on their way to safety channel B: emitter, width code, nanosecond; and charge codes on their way to channel A: emitter,
  code, nanosecond, and whether R148 evaluated the fire; each oldest first (R150). -/
  tapB : List (Nat × Nat × Nat) := []
  tapA : List (Nat × Nat × Nat × Bool) := []
  deriving DecidableEq, Repr

/-! ### Links (chapter 12) -/

/-- The drop accumulator of a stream and source region (R395): no marker waits while `units` is 0. -/
structure DropAcc where
  causes : Nat := 0
  units : Nat := 0
  firstFrame : Nat := 0
  frame : Nat := 0
  epoch : Word := 0
  frag : Word := 0
  firstPix : Nat := 0
  lastPix : Nat := 0
  deriving DecidableEq, Repr

/-- A lane (R370 to R378, R393, R396). What its registers show is not repeated here. -/
structure Lane where
  /-- Target rate, and the highest one that a failed rung leaves until the next retrain command (R371, R375). -/
  target : Nat := 0
  cap : Nat := 4
  /-- Consecutive valid HELLO received, at most 3, the partner's seen bit, and its last HELLO word (R370). -/
  hellos : Nat := 0
  partnerSeen : Bool := false
  partnerFar : Bool := false
  helloWord : Option Word := none
  /-- When the lane entered its state, and when its last HELLO burst began (R371). -/
  since : Nat := 0
  burstAt : Nat := 0
  /-- The rung being stepped to or verified, and whether the RATE exchange has switched to it (R372). -/
  switched : Bool := false
  /-- Own tap request not yet answered: its word and the instant it was last sent; the next number (R373). -/
  tapOut : Option (Word × Nat) := none
  tapNext : Nat := 0
  /-- The partner's last tap request number that was applied, and the answer given (R373). -/
  tapSeen : Option (Nat × Word) := none
  eqSent : Bool := false
  eqGot : Bool := false
  /-- Error counts of VERIFY: own and the partner's (R375). -/
  ownErr : Option Nat := none
  partnerErr : Option Nat := none
  /-- This VERIFY follows a failure, at the rung that has already passed, or belongs to a retrain (R375, R376). -/
  retraining : Bool := false
  /-- Instants of the entries into RETRAIN within the last second (R377). -/
  retrains : List Nat := []
  /-- Credit limits and units used by stream 0 to 5 (R393). -/
  limits : List Nat := [0, 0, 0, 0, 0, 0]
  used : List Nat := [0, 0, 0, 0, 0, 0]
  /-- Units of MGMT and PAIR received and not yet consumed, total units consumed, and the instant of the last CREDIT sent (R393). -/
  heldMgmt : Nat := 0
  heldPair : Nat := 0
  consumedMgmt : Nat := 0
  consumedPair : Nat := 0
  creditAt : Nat := 0
  /-- The millisecond of the MGMT rate limit and the transactions accepted in it (R396). -/
  mgmtMs : Nat := 0
  mgmtCount : Nat := 0
  /-- Instants of the last packets received with a wrong CRC, latest first, at most 8 (R376). -/
  crcFails : List Nat := []
  /-- Packets accepted and not yet consumed, in order: stream and payload (R390, R450). -/
  inbox : List (Nat × List Word) := []
  /-- Packets queued, first out first; the packet most recently started and the instant its last word leaves (R379). -/
  queue : List Packet := []
  flight : Option Packet := none
  flightEnd : Nat := 0
  /-- The control word most recently sent other than IDLE, SOP and CREDIT, and the CREDIT words last sent, MGMT then PAIR (R368, R393). -/
  ctl : Option Word := none
  granted : List Word := []
  /-- The words most recently sent back in far-end loopback (R378). -/
  returned : List Word := []
  /-- A swap disabled the lane, which goes DOWN after the packet in flight (R398). -/
  closing : Bool := false
  deriving DecidableEq, Repr

/-- The links region. Keys of streams are stream × 16 + source region. -/
structure Lk where
  lanes : Sparse Lane := []
  assembling : Sparse Packet := []
  drops : Sparse DropAcc := []
  /-- The lane that took the last packet of a stream and source, plus 1; 0 none yet (R392). -/
  rot : Sparse Nat := []
  /-- Copies of `LK_LANE_STATUS` in the chip timebase domain, by lane (R506). -/
  copies : Sparse Word := []
  /-- Safety mirror: word 0 and the TBASE of its last change, whether that has yet to go out, and the instant of the last packet (R389). -/
  mirrorWord : Nat := 0
  mirrorChange : Nat := 0
  mirrorDue : Bool := false
  mirrorAt : Nat := 0
  /-- The second of TBASE of the last beacon, and the frame boundary of the last census (R387, R388). -/
  beaconOf : Option Nat := none
  censusOf : Option Nat := none
  deriving DecidableEq, Repr

/-! ### Capture (chapter 11) -/

/-- The open segment (R341 to R343), from its opening to its close. -/
structure Segment where
  seg : Nat
  start : Nat
  /-- Event slots of the segment, slots stored, the slot written next, and the oldest. -/
  slots : Nat
  stored : Nat := 0
  next : Nat := 0
  oldest : Nat := 0
  wrapped : Bool := false
  /-- The slot of the latest SWAP marker, while the ring holds it (R342). -/
  swapSlot : Option Nat := none
  span : Nat := 0
  /-- The trigger: its instant in ns, the 2 ns tick of its decision, cause bitmap, fired source, `FRAME_NUM`; and the slot of its
  marker once stored, with the events stored after it. -/
  trig : Option Nat := none
  tick : Nat := 0
  cause : Nat := 0
  fired : Nat := 0
  frameTrig : Nat := 0
  trigSlot : Option Nat := none
  /-- A trigger has fired in it; the stop of a mask alone is none (R346, R356). -/
  triggered : Bool := false
  after : Nat := 0
  frameStart : Nat := 0
  epochStart : Word := 0
  fragStart : Word := 0
  lost : Nat := 0
  deriving DecidableEq, Repr

/-- What a mask has counted: consecutive violating tests (R356); and since the segment opened values seen, and the ideal time of the channel's
last rising edge (R355). -/
structure MaskRun where
  run : Nat := 0
  seen : Nat := 0
  lastRise : Option Nat := none
  deriving DecidableEq, Repr

/-- The capture engine. Edges that the girdle has delivered and that have not reached a region FIFO stand in `Rx.toAq`. -/
structure Aq where
  /-- Capture memory by word offset (R341, R544). -/
  mem : Sparse Word := []
  /-- Region FIFOs of at most 64 edges, and what the merger holds: edges and markers in order of release (R339). -/
  fifos : Sparse (List AqEvent) := []
  merger : List AqEvent := []
  /-- Edges lost by region since its last GAP marker, and the time of the first in girdle LSB (R340). -/
  lost : Sparse (Nat × Nat) := []
  /-- The open segment, and the segment that opens next while the engine re-arms (R344). -/
  seg : Option Segment := none
  nextSeg : Nat := 0
  /-- The segment that closed last, with its state code: sources of the tick of its trigger still join it (R349). And the close that a
  re-arm follows: edges from then to the next start are not counted as lost (R344). -/
  closed : Option (Segment × Nat) := none
  gapFrom : Option Nat := none
  /-- The start of the segment that ended that gap; none while the re-arm lasts. -/
  gapTo : Option Nat := none
  masks : Sparse MaskRun := []
  /-- Times of released trigger edges, newest first, for the RATE source (R346). -/
  rate : List Nat := []
  /-- CAPT packets of closed segments that have not been handed to a lane, in order (R345, R386). -/
  sending : List Packet := []
  /-- XLINE: pulled low by this unit until; released by it at; held beyond the limit by another party (R348). -/
  pullUntil : Option Nat := none
  /-- When the pull was decided; and the last edge of EXT_TRIG, from which the width of a pulse counts (R347). -/
  pullAt : Nat := 0
  extAt : Option Nat := none
  released : Option Nat := none
  stuck : Bool := false
  /-- The segment whose content a fence left undefined (R358). -/
  undefinedSeg : Option Nat := none
  deriving DecidableEq, Repr

/-! ### Converters (chapter 08) -/

/-- Who asked for an injected conversion (R243). -/
inductive InjSource where
  | sf (channel : Nat)
  | loop (l : Nat)
  | bias
  deriving DecidableEq, Repr

/-- An injected request: its source and the word of R235 [12:0]. -/
structure InjReq where
  src : InjSource
  ctl : Nat
  deriving DecidableEq, Repr

/-- The chain of one sequence entry (R250 to R255). -/
structure Chain where
  i1 : Nat := 0
  i2 : Nat := 0
  i3 : Nat := 0
  d1 : Nat := 0
  d2 : Nat := 0
  d3 : Nat := 0
  cnt : Nat := 0
  /-- Result flags of the samples since the last CIC output, as bits of R266. -/
  flags : Nat := 0
  /-- FIR line, newest first, at most 32. -/
  line : List Int := []
  lastCic : Option Int := none
  /-- Outputs still to be suppressed. -/
  settle : Nat := 0
  dc : Int := 0
  dcReset : Bool := false
  /-- Output count of the cross-fade in progress (R253). -/
  fadeJ : Nat := 0
  deriving DecidableEq, Repr

/-- A converter (R229 to R259). -/
structure Adc where
  /-- The plane whose sequence and parameters are in force, and its epoch: the converter applies a swap at a slot boundary (R239). -/
  pl : Option Plane := none
  epoch : Word := 0
  /-- Run-time writes that wait for the slot boundary: register and word (R265). -/
  due : List (Nat × Word) := []
  /-- Start-up or fallback has released the converter to its sequence (R240, R566). -/
  released : Bool := false
  /-- SCAN_ON; a reference in use was lost; REARM runs the scan mask; the scan pass in progress began with every reference it waits for
  settled; such a pass has been completed. -/
  hostScan : Bool := false
  refWait : Bool := false
  rearm : Bool := false
  scanClean : Bool := false
  scanned : Bool := false
  scanning : Bool := true
  /-- The entry or scan input in its slot, and passes since the last self-check. -/
  pos : Nat := 0
  passes : Nat := 0
  /-- The next self-check converts input 31; consecutive failures and passes of inputs 30 and 31 (R246). -/
  checkFull : Bool := false
  fail30 : Nat := 0
  fail31 : Nat := 0
  pass30 : Nat := 0
  pass31 : Nat := 0
  chains : Sparse Chain := []
  /-- TBASE of the last sample of each entry's result (R238, R296). -/
  times : Sparse Nat := []
  /-- System calibration coefficients by entry (R248). -/
  coefs : Sparse (Int × Nat) := []
  /-- Requests on their way, the one being converted, and those that wait (R244). -/
  incoming : List InjReq := []
  active : Option InjReq := none
  waiting : List InjReq := []
  /-- When the slot of the entry began, and the reconversion that is to begin after an injected conversion (R244). -/
  slotAt : Nat := 0
  resumeAt : Option Nat := none
  /-- The domain's power-on, from which the internal reference settles (R232). -/
  enabledAt : Nat := 0
  /-- References lost in the present slot, as a mask of `ADC_REF` bits with bit 4 where the VDD_ADC monitor reported bad, and those lost
  and not settled again. -/
  lostNow : Nat := 0
  lostRefs : Nat := 0
  /-- Cross-fade: its length; a swap has installed a bank table that is not in force yet (R253). -/
  fade : Option Nat := none
  bankDue : Bool := false
  /-- Run of a system calibration: entry, whether at full scale, and the averaging exponent a; the zero that stands; the entry whose results
  carry SETTLING. -/
  calRun : Option (Nat × Bool × Nat) := none
  /-- A run accepted and not begun: it waits for the slot boundary, injected conversions and reconversion done (R247). -/
  calAsk : Option (Nat × Bool × Nat) := none
  zero : Option (Nat × Int) := none
  calSettle : Option Nat := none
  /-- Last usable result by input, for answers during calibration (R249). -/
  lastGood : Sparse Word := []
  /-- Changes of excitation not yet reached by a sample: entry and instant (R254 c). -/
  excAt : List (Nat × Nat) := []
  /-- The detectors' state (R256). -/
  peak : Nat := 0
  ms : Nat := 0
  env : Nat := 0
  deriving DecidableEq, Repr

/-! ### Scanner ports and the control engine (chapter 09) -/

/-- A converter output on its way to a loop: result word, sampling instant, and whether the output was suppressed (R278, R301). -/
structure LoopIn where
  word : Word
  time : Nat
  held : Bool
  /-- No output: its reference was lost, or its converter entered fault (R259, R311). -/
  lost : Bool := false
  deriving DecidableEq, Repr

/-- A loop of the engine (R284 to R302). -/
structure Loop where
  /-- The parameter set in force. -/
  set : List Word := []
  inbox : List LoopIn := []
  /-- The pending sample: feedback after bridge offset and sign, result word, instant. -/
  pend : Option (Int × Word × Nat) := none
  /-- When the pending sample arrived (R279). -/
  pendAt : Nat := 0
  /-- When the last sample arrived, and the last valid one (R298, R301). -/
  arrived : Nat := 0
  lastFb : Option (Int × Nat) := none
  /-- When a suppressed loop was last due an evaluation (R301). -/
  heldAt : Nat := 0
  lastReq : Nat := 0
  fbPrev : Int := 0
  iAcc : Int := 0
  /-- No delay has been seen since clear_delay (R289). -/
  delayFresh : Bool := true
  /-- Limiter: set-point, rate, last target, in 2^−16 Q1.23. -/
  sp : Int := 0
  v : Int := 0
  tgtPrev : Int := 0
  uPrev : Int := 0
  /-- The next evaluation is the first after start, re-arm or a swap; across a swap the limiter keeps its state (R285). -/
  first : Bool := true
  keepSp : Bool := false
  ran : Bool := false
  /-- In-range samples and good periods since the re-arm (R302). -/
  rearmGood : Nat := 0
  rearmPeriods : Nat := 0
  /-- Feedback and output of the most recent samples, newest first (R299). -/
  hist : List (Int × Int) := []
  /-- BIAS: the last valid temperature in mK of 0.001 °C and when it was taken (R296). -/
  temp : Option Int := none
  /-- `SC_LOOP_SP` writes not yet in force: value and the instant at which the write reached SC (R286). -/
  spNext : List (Int × Nat) := []
  spNow : Int := 0
  /-- RESONANT: last output, span since the last crossing, low periods, good and bad crossings (R293, R294, R299). -/
  lastY : Option (Int × Nat) := none
  crossed : Bool := false
  lo : Int := 0
  hi : Int := 0
  lowPeriods : Nat := 0
  lastAmp : Nat := 0
  good : Nat := 0
  bad : Nat := 0
  deriving DecidableEq, Repr

/-- A drive word waiting for its link: value, sampling instant of its feedback, whether that was held, and its loop. -/
structure DriveVal where
  value : Int
  time : Nat
  held : Bool
  loop : Nat
  deriving DecidableEq, Repr

/-- A scanner port (R269 to R275, R292, R295). -/
structure Axis where
  /-- The level in force, polarity (true: reversed), the one before, and the instant of the last reversal. -/
  on : Bool := false
  level : Nat := 0
  reversed : Bool := false
  wasReversed : Bool := false
  revAt : Nat := 0
  /-- A write of `SC_AXIS_EXC` waiting for the next output of the feedback entry; outputs since the last reversal. -/
  excWrite : Bool := false
  outputs : Nat := 0
  /-- Sampling instant of the last sample that entered a CIC output of the feedback entry (R271). -/
  outAt : Nat := 0
  fault : Bool := false
  /-- Words waiting, AUX words in the order of their outputs; the last DRIVE value, word count, end of the last word with its gap, the last word sent. -/
  drive : Option DriveVal := none
  aux : List DriveVal := []
  lastDrive : Int := 0
  seq : Nat := 0
  busyUntil : Nat := 0
  startedAt : Nat := 0
  sent : Option (Word × Word) := none
  /-- Oscillator: instant and phase (in 2^−32 periods) of its last anchor, its trim u, frame period and per_frame in force; the phase of the
  last word; and the amplitude in force (R292, R295). -/
  osc : Option (Nat × Nat × Int × Nat × Nat) := none
  phase : Nat := 0
  amp : Nat := 0
  deriving DecidableEq, Repr

/-- An evaluation that the engine has issued and not completed: its loop, its sample (none for a suppressed loop, which is evaluated on the
last valid one), and the instant of issue (R279, R301). -/
structure Issue where
  loop : Nat
  sample : Option (Int × Word × Nat)
  at_ : Nat
  deriving DecidableEq, Repr

/-- The SC region. -/
structure Sc where
  loops : Sparse Loop := []
  axes : Sparse Axis := []
  /-- Evaluations completed in the millisecond in progress (R280). -/
  evals : Nat := 0
  /-- Evaluations issued and not completed, oldest first, and the last issue (R279). -/
  issued : List Issue := []
  issueAt : Option Nat := none
  /-- Scan faults as they change, on their way to channels A and B: axis and whether raised (R300, R416). -/
  toA : List (Nat × Bool) := []
  toB : List (Nat × Bool) := []
  /-- BIAS_CTL code of each head port (R297). -/
  biasCtl : Sparse Nat := []
  deriving DecidableEq, Repr

/-! ### Active and standby pairs (chapter 14) -/

/-- What the manual keeps for a pair (R441 to R458). What `PAIR_STATUS` shows is not repeated here. -/
structure PairSt where
  /-- The carat with which the unit won its claim, which an ACTIVE unit keeps into SOLO (R441). -/
  won : Option Nat := none
  /-- ACTIVE was entered at a swap and no frame has been won since (R445). -/
  unproven : Bool := false
  /-- Instants of the last valid claim frame, and of the last with a carat above the own (R444, R445, R462). -/
  validAt : Option Nat := none
  higherAt : Option Nat := none
  /-- Slot of the claim frame in progress, and whether this unit claims in it and has not lost it (R442, R443). -/
  slot : Option Nat := none
  claims : Bool := false
  /-- The carat that the claim frame in progress carries. -/
  claimCarat : Nat := 0
  /-- PROMOTE_N's edge of the promotion in progress (R447), and the handover instant H (R459). -/
  promoteAt : Option Nat := none
  handover : Option Nat := none
  /-- Raw skews, newest first, at most 64; a jump with no agreeing value since (R452). -/
  raws : List Int := []
  skewBad : Bool := false
  /-- Fire offset in girdle LSB (R452). -/
  fireOffset : Int := 0
  /-- Last accepted sequence number by message type, plus 1; numbers sent (R450). -/
  accepted : Sparse Nat := []
  sent : Sparse Nat := []
  /-- The partner's last STATUS words and when it was accepted; the last BUDGET (R451, R461). -/
  status : List Word := []
  statusAt : Option Nat := none
  budgetAt : Option Nat := none
  /-- The partner's `PAIR_SCHED` by its last message (R461). -/
  partnerSched : Option Word := none
  /-- The partner's hop count, waiting for the next frame boundary (R452). -/
  hop : Option Nat := none
  /-- The partner's `FRAME_NUM` less the own (R457). -/
  frameDelta : Option Int := none
  /-- n_pix, n_solid and sum_mm of a frame by frame × 8 + region; own SUMMARY messages sent and partner's, by frame: the instant and the
  words from word 5 (R451, R457, R458). -/
  tally : Sparse (Nat × Nat × Nat) := []
  own : Sparse (Nat × List Word) := []
  theirs : Sparse (Nat × List Word) := []
  /-- HEARTBEAT's level, whether a chip-level reaction has been in force since its last toggle, and the C_k whose BUDGET is queued (R449). -/
  heartbeat : Bool := false
  chipSince : Bool := false
  /-- The k of the last C_k whose HEARTBEAT instant has passed. -/
  beatK : Option Nat := none
  budgetTick : Option Nat := none
  /-- The last C_k whose BUDGET has been sent or dropped. -/
  budgetSent : Option Nat := none
  /-- The last two frames in which the scheduler has placed pixels (R451). -/
  shotFrames : List Nat := []
  /-- Instants of the last LOOPS and STATUS messages, and the content of the last STATUS but for its number (R451). -/
  loopsAt : Nat := 0
  statusSentAt : Nat := 0
  statusSent : List Word := []
  deriving DecidableEq, Repr

/-! ### Emission safety (chapter 13) -/

/-- A cross-comparison message (R420): tick, state, causes, set digest, compared fires as (emitter, count, energy), and window sums by
window × 65 + emitter. -/
structure XcMsg where
  tick : Nat
  state : Nat
  cause : Nat
  digest : Word
  fires : List (Nat × Nat × Nat)
  sums : Sparse Nat
  deriving DecidableEq, Repr

/-- A safety channel (R404 to R429). Its state code stands in `SF_STATUS`. Emitter 64 stands for the aggregate. -/
structure SfChan where
  /-- Conditions of R408 present in this channel, as bits of `SF_CAUSE`. -/
  cause : Nat := 0x40
  /-- Buckets (number, energy), newest first, by window × 65 + emitter (R413). -/
  buckets : Sparse (List (Nat × Nat)) := []
  /-- Every sum stands at its limit for want of a budget state (R426). -/
  atLimit : Bool := false
  /-- Compared fires and their energy, by tick × 64 + emitter (R420). -/
  compared : Sparse (Nat × Nat) := []
  /-- Compared fires and energy that the peer's messages have reported, by tick × 64 + emitter. -/
  heard : Sparse (Nat × Nat) := []
  /-- Scan faults by axis, axes in scan-stop, motion samples by axis (newest first), the instant of each axis's last request, the
  instant at which scan-stop was detected, and the energy since (R416, R417). -/
  scanFault : Nat := 0
  stopped : Nat := 0
  /-- Axes whose motion window shows none (R416). -/
  lost : Nat := 0
  motion : Sparse (List Int) := []
  asked : Sparse Nat := []
  stopAt : Option Nat := none
  stopSum : Nat := 0
  /-- Message to the peer on its way; the peer's last; the C_k of the last message sent and of the last decision; consecutive failures of the
  energy test by emitter. -/
  out : Option XcMsg := none
  peer : Option XcMsg := none
  sentK : Option Nat := none
  decidedK : Option Nat := none
  energyBad : Sparse Nat := []
  /-- State at C_k; own and the peer's state at the instant before, where both were known (R420). -/
  stateK : Nat := 0
  before : Option (Nat × Nat) := none
  /-- EMIT_EN as driven and when it last changed; cross-off asserted by this channel; consecutive readback failures; start of the test pulse
  in progress, whether its low sample has been taken, and the grid instant of the last pulse (R405, R422, R423). -/
  en : Bool := false
  enAt : Nat := 0
  crossOff : Bool := false
  fbBad : Nat := 0
  pulse : Option Nat := none
  pulseLow : Bool := false
  pulseAt : Option Nat := none
  /-- The instant after which a verdict moves the channel, and the state it moves to (R425, R426). -/
  move : Option (Nat × Nat) := none
  /-- Start of the present cycle, last own supply conversion (R405, R427). -/
  cycleAt : Option Nat := none
  supplyAt : Nat := 0
  deriving DecidableEq, Repr

/-- A change log entry (R430). -/
structure SfLog where
  kind : Nat
  requester : Nat
  seq : Word
  time : Nat
  hours : Word
  epoch : Word
  after : Word
  before : Word
  deriving DecidableEq, Repr

/-- The SF region. -/
structure Sf where
  chans : Sparse SfChan := []
  /-- The k of the last C_k (R420). -/
  tick : Option Nat := none
  /-- The set in force, and the last set applied from a Cut, in SF's own store; none where none (R411). -/
  set : Option (List Word) := none
  stored : Option (List Word) := none
  /-- Staging copy, and a commit due at the tick of a C_k with its requester (R429). -/
  staging : List Word := []
  commit : Option (Nat × List Word × Nat) := none
  /-- Password copies, the written bytes by word, and when the last PWD write was (R428). -/
  pwdA : Option (List Byte) := none
  pwdB : Option (List Byte) := none
  pwdWords : Sparse Word := []
  pwdAt : Nat := 0
  unlockedUntil : Option Nat := none
  failures : Nat := 0
  lockedUntil : Option Nat := none
  /-- Change log, oldest first, at most 256, and the next sequence number (R430). -/
  log : List SfLog := []
  logSeq : Word := 0
  /-- ESTOP differs since (R418). -/
  estopDiff : Option Nat := none
  /-- SAFE_RST: the k of the C_k at which a valid edge is judged; stuck high (R425). -/
  rstEdge : Option Nat := none
  /-- What a valid edge judged now would move READY channels to: 4 PERMIT, 5 HOT, 0 nothing (R425). -/
  rstTo : Nat := 0
  rstStuck : Bool := false
  deriving DecidableEq, Repr

/-! ### Housekeeping (chapter 15) -/

/-- A temperature channel: the count towards setting or releasing each crossing, readings skipped running, the last 100 readings, newest
first, none where skipped, and the crossings (0 low, 1 high, 2 rate) whose action holds (R467 to R470). -/
structure HkChan where
  low : Nat := 0
  high : Nat := 0
  rate : Nat := 0
  skipped : Nat := 0
  /-- The readings used in the last 100 rounds, by round, newest first (R469). -/
  hist : List (Nat × Int) := []
  held : Nat := 0
  /-- When the result shown was taken (R296). -/
  readAt : Nat := 0
  deriving DecidableEq, Repr

/-- The HK region. -/
structure Hk where
  /-- The last round, TBASE / 10 ms (R467). -/
  round : Option Nat := none
  chans : Sparse HkChan := []
  /-- Junction protection: consecutive readings towards it, and towards its release, by channel (R471). -/
  hot : Sparse Nat := []
  cool : Sparse Nat := []
  /-- Rails: rounds outside and back inside the operating range (R474). -/
  outside : Sparse Nat := []
  inside : Sparse Nat := []
  /-- Rails whose fast monitor reports bad (R473). -/
  bad : Nat := 0
  /-- Domains in fault: they stay off until they are restarted, whatever becomes of their flags in `PWR_DOM_FAULT` (R479, R482). -/
  faulted : List Nat := []
  /-- When the VDD_ADC monitor last reported good (R232). -/
  adcGoodAt : Nat := 0
  /-- Domains switched on for the shadow plane, and those to be switched off after the swap (R478). -/
  forShadow : List Nat := []
  toSwitchOff : List Nat := []
  /-- HK registers written and not yet in force (R467). -/
  writes : List (Nat × Word) := []
  deriving DecidableEq, Repr

/-! ### Firmware (chapter 17) -/

/-- The content of a copy of the control block (R514). -/
structure Ctl where
  seq : Word := 0
  imageState : Nat := 0
  trialStarts : Nat := 0
  settings : Nat := 0
  bootCut : Nat := 0
  confirm : Nat := 30
  digest : List Word := List.replicate 8 0
  deriving DecidableEq, Repr

/-- The management processor, its flash and the on-die key store (R513 to R533). What `FW_STATUS` shows is not repeated here. -/
structure Fw where
  /-- The words of the control block copies as flash holds them, none where erased, and the last of them written: copy 1 or not, and
  when (R514, R579). -/
  ctl0 : List Word := []
  ctl1 : List Word := []
  ctlAt : Option (Bool × Nat) := none
  /-- The image slot and the Cut slots, by word; an unlisted word is erased. Settings halves by slot × 2 + half: header and payload. -/
  image : Sparse Word := []
  cuts : Sparse Word := []
  settings : Sparse (List Word) := []
  /-- The half last written, and when (R528, R579); the half that the running image has read, empty for defaults. -/
  halfAt : Option (Nat × Nat) := none
  loaded : List Word := []
  /-- Calibration counts and times as each settings slot keeps them (R327). -/
  counts : Sparse (Sparse (Nat × Word)) := []
  /-- Key slots: state and key; digests of revoked keys; the minimum security version; the signer of the last swapped Cut, and of the Cut
  that is staged. -/
  keys : Sparse (Nat × List Word) := []
  revoked : List (List Word) := []
  minSec : Nat := 0
  signer : Option Nat := none
  stagedSigner : Option Nat := none
  /-- The session: its requester, its last access, sectors erased, the page buffer, the bytes written, and whether a word has been. -/
  owner : Nat := 0
  sessionAt : Nat := 0
  sectors : List Nat := []
  page : List (Nat × Word) := []
  /-- The page being programmed, and the sector being erased. -/
  busyPage : List (Nat × Word) := []
  busySector : Option Nat := none
  reach : Nat := 0
  wrote : Bool := false
  /-- The running image's header and body digest, empty for the ROM service image; whether it runs in trial, and since when. -/
  header : List Word := []
  digest : List Word := []
  trial : Bool := false
  startedAt : Nat := 0
  /-- A pause: when it was accepted; the device was in RUN; the image has started and must write READY; the first frame boundary after
  READY returns the device to RUN. -/
  pauseAt : Nat := 0
  wasRun : Bool := false
  waitReady : Bool := false
  backToRun : Bool := false
  /-- The loader is loading an image outside a pause: a restart after a watchdog expiry. -/
  restarting : Bool := false
  /-- The ROM service image has been chosen, and its plane waits to be swapped in. -/
  romPending : Bool := false
  verifying : Bool := false
  attesting : Bool := false
  report : List Word := []
  /-- PRESENCE_N is low; the instant at which it rose, while the window is open. -/
  presenceLow : Bool := false
  presenceRose : Nat := 0
  deriving DecidableEq, Repr

/-! ### The test access port (chapter 20) -/

/-- Its instruction: every code other than that of SAMPLE/PRELOAD selects BYPASS (R607). -/
inductive TapInstr where
  | bypass | samplePreload
  deriving DecidableEq, Repr

/-- The test access port: TRST_N holds it in reset; its instruction, the bypass register, and the boundary register as it was last captured
or shifted, the end towards TDO first (R607). -/
structure Tap where
  held : Bool := true
  instr : TapInstr := .bypass
  bypass : Bool := false
  boundary : List Bool := []
  deriving DecidableEq, Repr

/-- The whole machine. -/
structure State where
  /-- Commands that wait, first in first out. -/
  pending : List Instr := []
  mode : Mode := .loader
  /-- The register file, by byte address; an unlisted register reads its reset word (R12). -/
  regs : Sparse Word := []
  time : Timebase := {}
  cut : CutState := {}
  mgmt : Mgmt := {}
  startup : Startup := {}
  cal : Cal := {}
  rx : Rx := {}
  tx : Tx := {}
  lk : Lk := {}
  aq : Aq := {}
  /-- Converters by number (R227). -/
  adcs : Sparse Adc := []
  sc : Sc := {}
  /-- Motion samples on their way to a safety channel: channel, axis, word and sampling instant, oldest first (R416). -/
  motionIn : List (Nat × Nat × Word × Nat) := []
  /-- Results of the channels' own supplies on their way: channel and word (R243, R427). -/
  supplyIn : List (Nat × Word) := []
  /-- Answers to the self-test's conversions of internal inputs: converter, input, result word (R427). -/
  testIn : List (Nat × Nat × Word) := []
  pairSt : PairSt := {}
  sf : Sf := {}
  hk : Hk := {}
  fw : Fw := {}
  tap : Tap := {}
  /-- The model's own: how many free values have been drawn. -/
  fresh : Nat := 0
  deriving DecidableEq, Repr

/-- Why a command stops for good. No command of this block does: the manual gives the device no stuck state. -/
inductive Fault where
  /-- Raised by no command. It is here because a closed type of faults must have a name; safe. -/
  | none
  deriving DecidableEq, Repr

/-- Why the model has no meaning for a command. -/
inductive Refusal where
  /-- The command has no meaning in this model yet; safe. -/
  | notModelled (mnemonic : String)
  deriving DecidableEq, Repr

/-- The machine right after reset: every register at the reset value of its field map, both planes and the queue empty. -/
def State.reset : State := {}

end Sys2Proof.Machine
end

