-- ==== Sys2Proof/Machine/Ops.lean ====
section
/-!
DEFINITION. The named operations over the register file, the planes and the requesters that every family shares.
-/
namespace Sys2Proof.Machine

/-- What a command answers. -/
abbrev Out := Host.Outcome State Fault Refusal

/-! ### Registers -/

/-- The word of the register at byte address `a`. -/
def State.reg (s : State) (a : Nat) : Word := look regReset s.regs a

/-- Put `v` into the register at `a`. -/
def setReg (a : Nat) (v : Word) (s : State) : State := { s with regs := put regReset s.regs a v }

/-- A field of a register. -/
def State.fget (s : State) (a : Nat) (f : Fld) : Nat := getF f (s.reg a)

/-- Set a field of a register. -/
def fset (a : Nat) (f : Fld) (v : Nat) (s : State) : State := setReg a (setF f v (s.reg a)) s

/-- Set a run of fields of one register. -/
def fsets (a : Nat) (l : List (Fld × Nat)) (s : State) : State :=
  setReg a (l.foldl (fun w p => setF p.1 p.2 w) (s.reg a)) s

/-- A bit of a register. -/
def State.rbit (s : State) (a n : Nat) : Bool := (s.reg a).getLsbD n

/-- Put a 64-bit number into a register pair, low word first. -/
def setReg64 (lo : Nat) (v : Nat) (s : State) : State :=
  setReg (lo + 4) (w32 (v / 2 ^ 32)) (setReg lo (w32 v) s)

/-- The 64-bit number of a register pair. -/
def State.reg64 (s : State) (lo : Nat) : Nat := (s.reg lo).toNat + (s.reg (lo + 4)).toNat * 2 ^ 32

/-- Put a list of words into consecutive registers. -/
def setRegs (a : Nat) : List Word → State → State
  | [], s => s
  | w :: ws, s => setRegs (a + 4) ws (setReg a w s)

/-- The words of `n` consecutive registers. -/
def State.regsFrom (s : State) (a : Nat) : Nat → List Word
  | 0 => []
  | n + 1 => s.reg a :: s.regsFrom (a + 4) n

/-- `REGION_INFO` of region `r` (R555). -/
def REGION_INFO (r : Nat) : Nat := r * 0x1000000 + 0x00FFFFF0

/-! ### Time -/

/-- TBASE as a number of nanoseconds (R23). -/
def State.now (s : State) : Nat := s.time.tbase.toNat

/-- The current frame number (R26). -/
def State.frameNum (s : State) : Nat := (s.reg FRAME_NUM).toNat

/-- The last frame boundary instant (R38). -/
def State.frameEdge (s : State) : Nat := s.reg64 FRAME_EDGE_LO

/-- A request for a change at a TBASE instant is late under R30. -/
def State.lateTime (s : State) (t : Nat) : Bool := t < s.now + 10000

/-- A request for a change at a frame is late under R30. -/
def State.lateFrame (s : State) (f : Nat) : Bool := f ≤ s.frameNum

/-- CF accepts a change that carries an effective instant: it takes the next place in the order of acceptance (R44). -/
def accept (s : State) : State := { s with time := { s.time with accepted := s.time.accepted + 1 } }

/-! ### Modes -/

/-- The code of a mode in R387 and R556; OFF has none and reads 0. -/
def Mode.code : Mode → Nat
  | .off => 0 | .loader => 1 | .service => 2 | .configured => 3 | .armed => 4 | .run => 5

/-- The code of a pair state (R556). -/
def Pair.code : Pair → Nat
  | .solo => 0 | .active => 1 | .standby => 2 | .withdrawn => 3

/-- The pair state that `PAIR_STATUS`.state names. -/
def State.pair (s : State) : Pair :=
  match s.fget PAIR_STATUS PAIR_STATUS.state with
  | 0 => .solo | 1 => .active | 2 => .standby | _ => .withdrawn

/-! ### Planes -/

/-- The plane of the ROM service image. -/
def romPlane : Plane := Config.romPlane.map (fun e => { f0 := e.1, f1 := e.2.1, words := e.2.2 })

/-- A parameter word that a plane's PARAMETER frames set (R53). -/
def paramWord : Plane → Nat → Option Word
  | [], _ => none
  | f :: fs, a =>
    if f.f1 % 256 = 2 ∧ f.f0 / 256 = a / 256 ∧ f.f0 ≤ a ∧ (a - f.f0) / 4 < f.words.length
    then some (nth 0 f.words ((a - f.f0) / 4)) else paramWord fs a

/-- A CUT register under a plane: the word its PARAMETER frame gives on the register's CUT bits, else its reset (R12, R53). -/
def cutReg (pl : Option Plane) (a : Nat) : Word :=
  match pl with
  | none => regReset a
  | some p =>
    match paramWord p a, regRow a with
    | some w, some r => (w &&& w32 r.cut) ||| (w32 r.reset &&& ~~~ w32 r.cut)
    | _, _ => regReset a

/-- A field of a CUT register under a plane. -/
def cutF (pl : Option Plane) (a : Nat) (f : Fld) : Nat := getF f (cutReg pl a)

/-- The payload of the frame with key (`f0`, `f1`), if the plane carries it. -/
def frameWords : Plane → Nat → Nat → Option (List Word)
  | [], _, _ => none
  | f :: fs, f0, f1 => if f.f0 = f0 ∧ f.f1 = f1 then some f.words else frameWords fs f0 f1

/-- The payload of a frame under the plane in force, or the empty list. -/
def tableOf (pl : Option Plane) (f0 f1 : Nat) : List Word :=
  match pl with
  | none => []
  | some p => (frameWords p f0 f1).getD []

/-- The targets of a plane change: CF 0, HK 1, SF 2, SC 3, TX 4, AQ 6, LK block b 0x50 + b, RX block k 0x80 + k, sequence q 0xC0 + q. -/
def tgtRx (k : Nat) : Nat := 0x80 + k
def tgtLk (b : Nat) : Nat := 0x50 + b
def tgtSeq (q : Nat) : Nat := 0xC0 + q
def tgtHk : Nat := 1
def tgtSf : Nat := 2
def tgtSc : Nat := 3
def tgtTx : Nat := 4
def tgtAq : Nat := 6

/-- The plane in force for a target: the old one until the target has applied a swap in progress (R28). -/
def State.planeOf (s : State) (t : Nat) : Option Plane :=
  if s.cut.waiting.contains t then s.cut.old else s.cut.live

/-- Word 0 of the region-common STRUCTURE frame: the enabled blocks of a region under a plane (R51). While no Cut is live, LK
block 0 alone is enabled among LK, TX, AQ and RX (R569), and SC is present. -/
def blockEnable (pl : Option Plane) (region : Nat) : Nat :=
  match pl with
  | none => if region = 5 ∨ region = 3 then 1 else 0
  | some p =>
    if region = 2 then 3 else
      match frameWords p (region * 0x1000000 + 0xFFFF00) 1 with
      | some (w :: _) => w.toNat % 0x10000
      | _ => 0

/-- Is block `b` of `region` enabled under the plane? -/
def blockOn (pl : Option Plane) (region b : Nat) : Bool := (blockEnable pl region).testBit b

/-- Word 0 and 1 of the block-common STRUCTURE frame: enabled cells and pairing (R51); all cells enabled and single where the
enabled block has none. -/
def cellStruct (pl : Option Plane) (region b : Nat) : Nat × Nat :=
  if blockOn pl region b then
    match pl with
    | none => (0xFFFF, 0)
    | some p =>
      match frameWords p (region * 0x1000000 + b * 0x10000 + 0xFF00) 1 with
      | some (w :: v :: _) => (w.toNat % 0x10000, v.toNat)
      | _ => (0xFFFF, 0)
  else (0, 0)

/-- Is the cell enabled under the plane? -/
def cellOn (pl : Option Plane) (region b c : Nat) : Bool := (cellStruct pl region b).1.testBit c

/-- The pairing code of a cell: 0 single, 1 ganged, 2 split (R51). -/
def pairing (pl : Option Plane) (region b c : Nat) : Nat := (cellStruct pl region b).2 / 4 ^ c % 4

/-- Is the region present under the plane (R51, R558)? CF, HK and SF always are. -/
def regionPresent (pl : Option Plane) (region : Nat) : Bool :=
  region < 3 || blockEnable pl region ≠ 0

/-- The entries of the plane's ROUTE frame, as pairs of words (R55). -/
def routePairs : List Word → List (Nat × Nat)
  | a :: b :: ws => (a.toNat, b.toNat) :: routePairs ws
  | _ => []

/-- The entries of the ROUTE frame under a plane. -/
def routes (pl : Option Plane) : List (Nat × Nat) := routePairs (tableOf pl 0x00FFFF00 4)

/-- The mask of a summary word: the kind 0x3 ROUTE entry, or every bit (R55, R490). -/
def routeMask (pl : Option Plane) (region block cell : Nat) : Nat :=
  match (routes pl).find? (fun e => e.1 / 2 ^ 28 = 3 ∧ e.1 / 2 ^ 24 % 16 = region ∧ e.1 / 2 ^ 16 % 256 = block ∧ e.1 / 2 ^ 8 % 256 = cell) with
  | some e => e.2
  | none => 0xFFFFFFFF

/-- The lane mask of a stream of a source region (kind 0x1), or none where it is routed nowhere (R55). While no Cut is live STAT
and MGMT use lanes 0 to 7 (R569). -/
def laneMask (pl : Option Plane) (stream source : Nat) : Option Nat :=
  match pl with
  | none => if stream = 3 ∨ stream = 4 then some 0xFF else none
  | some _ =>
    match (routes pl).find? (fun e => e.1 / 2 ^ 28 = 1 ∧ e.1 / 2 ^ 24 % 16 = stream ∧ e.1 / 2 ^ 20 % 16 = source) with
    | some e => some e.2
    | none => none

/-- The output weight of an RX block (kind 0x2), 1 where none is given (R35). -/
def outputWeight (pl : Option Plane) (region block : Nat) : Nat :=
  match (routes pl).find? (fun e => e.1 / 2 ^ 28 = 2 ∧ e.1 / 2 ^ 20 % 16 = region ∧ e.1 / 2 ^ 8 % 256 = block) with
  | some e => e.1 % 16
  | none => 1

/-- Region ID and block of RX block `k`, 0 to 47 (R6). -/
def rxRegion (k : Nat) : Nat := 8 + k / 8
def rxBlock (k : Nat) : Nat := k % 8

/-- Is RX cell (channel) `c` enabled, and its pairing (R6, R51). -/
def rxCellOn (pl : Option Plane) (c : Nat) : Bool := cellOn pl (8 + c / 128) (c / 16 % 8) (c % 16)
def rxPairing (pl : Option Plane) (c : Nat) : Nat := pairing pl (8 + c / 128) (c / 16 % 8) (c % 16)

/-! ### Free values -/

/-- The next free value, and the state in which it has been drawn. -/
def State.free (s : State) : Word := Config.freeWord s.fresh
def drawFree (s : State) : State := { s with fresh := s.fresh + 1 }

/-! ### Requesters -/

/-- The record of requester `q`. -/
def State.req (s : State) (q : Nat) : Req := look (fun _ => {}) s.mgmt.req q
def setReq (q : Nat) (r : Req) (s : State) : State :=
  { s with mgmt := { s.mgmt with req := put (fun _ => {}) s.mgmt.req q r } }

/-- The owner code and lane by which `CUT_STATUS` and `FW_STATUS` name a requester (R74, R536, R539). -/
def ownerCode (q : Nat) : Nat := if q = 0 then 1 else if q = 1 then 3 else 2
def ownerLane (q : Nat) : Nat := if q < 2 then 0 else q - 2

/-- Regions, RX blocks and cells that R5, R16 name. -/
def isRegion (r : Nat) : Bool := r < 14 && r ≠ 7

/-- Power domain `d` is switched on; it is good, so out of its power-on reset, which no domain leaves before step 1 of start-up has run
(R477, R482, R563). -/
def State.domOn (s : State) (d : Nat) : Bool := s.rbit (PWR_DOM_ON (d / 32)) (d % 32)
def State.domGood (s : State) (d : Nat) : Bool := s.time.running && s.rbit (PWR_DOM_GOOD (d / 32)) (d % 32)

/-- The domain that hosts the register at byte address `a` (R465, R477); CF and what names no switched domain lie in 66. -/
def domainAt (a : Nat) : Nat :=
  let r := a / 0x1000000 % 16
  let b := a / 0x10000 % 256
  if r = 1 then 65 else if r = 2 then (if b = 1 then 68 else 67) else if r = 3 then 64
  else if r = 4 then (if b < 4 then 54 + b else 58)
  else if r = 5 then (if b < 4 then 59 + b else 59)
  else if r = 6 then 63
  else if 8 ≤ r ∧ r < 14 then (if b < 8 then (r - 8) * 8 + b else 48 + (r - 8))
  else 66

/-- Is the region fenced (R40)? -/
def State.fenced (s : State) (r : Nat) : Bool := s.rbit REGION_FENCE r

/-- The converter whose registers lie at an address, if any (R227). -/
def adcOf (a : Nat) : Option Nat :=
  let r := a / 0x1000000 % 16
  let b := a / 0x10000 % 256
  let c := a / 0x100 % 256
  if 8 ≤ r ∧ r < 14 ∧ b < 8 ∧ c = 0x20 then some ((r - 8) * 8 + b)
  else if r = 3 ∧ b = 0 ∧ 0x20 ≤ c ∧ c < 0x24 then some (48 + (c - 0x20))
  else if r = 1 ∧ b = 0xFF ∧ 0x20 ≤ c ∧ c < 0x22 then some (52 + (c - 0x20))
  else none

/-- The plain effect of a write: RW bits take the word, and a 1 clears a W1C flag (R12, R491). -/
def plainWrite (row : RegRow) (a : Nat) (w : Word) (s : State) : State :=
  let old := s.reg a
  let kept := old &&& (w32 row.rw ^^^ 0xFFFFFFFF)
  setReg a ((kept ||| (w &&& w32 row.rw)) &&& ((w &&& w32 row.w1c) ^^^ 0xFFFFFFFF)) s

end Sys2Proof.Machine
end

