-- ==== Sys2Proof/Machine/Flags.lean ====
section
/-!
DEFINITION. Sticky flags, statistic counters, the event recorders (R491, R492, R495 to R500) and the summary tree (R486 to
R490), and the containment of faults that the recorder must see (R36, R37, R573, R617).
-/
namespace Sys2Proof.Machine

/-! ### Records -/

/-- Word 1 of a record: mode, pair state, safety states and frame number at the event (R496). -/
def State.recP1 (s : State) : Word :=
  w32 (s.mode.code + s.pair.code * 16 + s.fget SF_STATUS SF_STATUS.state_a * 256 +
    s.fget SF_STATUS SF_STATUS.state_b * 4096 + s.frameNum % 0x10000 * 0x10000)

/-- A record of the event, before its sequence number is stamped (R496). -/
def State.mkRec (s : State) (w0 p0 p2 : Nat) : Rec :=
  { w0 := w32 w0, w1 := w32 p0, w2 := s.recP1, w3 := w32 p2, w4 := w32 (s.now / 256), w5 := s.mgmt.chip.hours,
    w6 := w32 (s.mgmt.chip.cycles % 0x10000), w7 := 0 }

/-- Coalesce an event into the first queued entry with the same word 0 whose repeat is below 255 (R499). -/
def absorb (w0 : Word) : List Rec → Option (List Rec)
  | [] => none
  | e :: es =>
    if e.w0 = w0 ∧ getF ⟨16, 8⟩ e.w6 < 255 then
      some ({ e with w6 := setF ⟨24, 1⟩ 1 (setF ⟨16, 8⟩ (getF ⟨16, 8⟩ e.w6 + 1) e.w6) } :: es)
    else (absorb w0 es).map (e :: ·)

/-- An event reaches a region recorder: it is written at once where no write is in progress, else it waits in the FIFO,
is coalesced, or is dropped and counted (R498, R499). The flag says whether it was dropped. -/
def Recorder.event (r : Recorder) (e : Rec) : Recorder × Bool :=
  match r.writing with
  | none => ({ r with writing := some e }, false)
  | some _ =>
    if r.fifo.length < 16 then ({ r with fifo := r.fifo ++ [e] }, false)
    else match absorb e.w0 r.fifo with
      | some f => ({ r with fifo := f }, false)
      | none => ({ r with dropped := satAdd 0xFFFFFFFF r.dropped 1 }, true)

/-- The recorder of a region. -/
def State.recorder (s : State) (r : Nat) : Recorder := look (fun _ => {}) s.mgmt.recorders r
def setRecorder (r : Nat) (x : Recorder) (s : State) : State :=
  { s with mgmt := { s.mgmt with recorders := put (fun _ => {}) s.mgmt.recorders r x } }

/-- `REC_LOST` counts a dropped event (R499, R509). -/
def countLost (s : State) : State := setReg REC_LOST (w32 (satAdd 0xFFFFFFFF (s.reg REC_LOST).toNat 1)) s

/-- Word 0 of a flag record: kind 0, and where the flag stands (R496). -/
def flagWord0 (a bit : Nat) : Nat :=
  a / 0x1000000 % 16 * 2 ^ 27 + a / 0x10000 % 256 * 2 ^ 19 + a / 0x100 % 256 * 2 ^ 11 + a / 4 % 64 * 2 ^ 5 + bit

/-- The recorder of a region runs while the region's common domain is on (R508). -/
def State.recorderOn (s : State) (r : Nat) : Bool := s.domOn (domainAt (r * 0x1000000 + 0xFF0000))

/-- The event enters the recorder of region `r`, if it runs; a drop counts in `REC_LOST` and sets `REC_STATUS`.lost, whose own record
enters CF's recorder (R499). -/
def recordEvent (r : Nat) (e : Rec) (s : State) : State :=
  let (x, lost) := (s.recorder r).event e
  let s1 := setRecorder r x s
  if !s.recorderOn r then s
  else if lost then
    let s2 := countLost s1
    if s2.rbit REC_STATUS 0 then s2
    else
      let s3 := setReg REC_STATUS (setBit 0 (s2.reg REC_STATUS)) s2
      let (y, lost2) := (s3.recorder 0).event (s3.mkRec (flagWord0 REC_STATUS 0) (s3.reg REC_STATUS).toNat (s3.reg LIVE_EPOCH).toNat)
      let s4 := setRecorder 0 y s3
      if lost2 then countLost s4 else s4
  else s1

/-! ### Sticky flags and counters -/

/-- Set a sticky flag: one that is 0 becomes 1 and writes a record in its region's recorder; one that is 1 stays (R495). -/
def setFlag (a bit : Nat) (s : State) : State :=
  if s.rbit a bit then s
  else
    let s1 := setReg a (setBit bit (s.reg a)) s
    recordEvent (a / 0x1000000 % 16) (s1.mkRec (flagWord0 a bit) (s1.reg a).toNat (s1.reg LIVE_EPOCH).toNat) s1

/-- Set the sticky flag that a one-bit field names. -/
def flag (a : Nat) (f : Fld) (s : State) : State := setFlag a f.lo s

/-- Set the flag where a condition holds. -/
def flagIf (c : Bool) (a : Nat) (f : Fld) (s : State) : State := if c then flag a f s else s

/-- Add `n` to a statistic counter field: it saturates at its largest value and then sets its overflow flag (R492). -/
def bumpOvf (a : Nat) (f : Fld) (n : Nat) (ovfA ovfBit : Nat) (s : State) : State :=
  let cap := 2 ^ f.width - 1
  let v := s.fget a f
  let v' := satAdd cap v n
  let s1 := fset a f v' s
  if v < cap ∧ v' = cap then setFlag ovfA ovfBit s1 else s1

/-- Add `n` to a counter field that saturates without an overflow flag. -/
def bump (a : Nat) (f : Fld) (n : Nat) (s : State) : State := fset a f (satAdd (2 ^ f.width - 1) (s.fget a f) n) s

/-- The whole word as a field. -/
def whole : Fld := ⟨0, 32⟩

/-! ### Recorder events of kind 1 -/

/-- A kind 1 record with its code (R497). -/
def kindOne (r code p0 p2 : Nat) (s : State) : State := recordEvent r (s.mkRec (2 ^ 31 + r * 2 ^ 27 + code) p0 p2) s

/-- A WRAP record is written and `REC_STATUS`.wrap sets (R492, R497, R510). -/
def wrapRecord (r p0 p2 : Nat) (s : State) : State := flag REC_STATUS REC_STATUS.wrap (kindOne r 2 p0 p2 s)

/-! ### The chain of summary words above a flag (R487, R488, R490) -/

/-- The bits of the summary tree through which a flag's source reaches the chip word, lowest first: each is (block, cell code of
the word under R490, bit). The region word is (0xFF, 0xFF). CF's sources are not listed: CF records are always copied. -/
def chain (a bit : Nat) : List (Nat × Nat × Nat) :=
  let r := a / 0x1000000 % 16
  let b := a / 0x10000 % 256
  let c := a / 0x100 % 256
  if r = 1 then
    if c < 0x17 then [(0xFF, 0xFE, c), (0xFF, 0xFF, 0)]
    else if c < 0x1E then [(0xFF, 0xFE, c - 1), (0xFF, 0xFF, 0)]
    else if c < 0x22 then [(0xFF, 0xFE, c - 3), (0xFF, 0xFF, 0)]
    else if a = HK_FLAGS then [(0xFF, 0xFF, 26)]
    else if a = HK_SUP_FLAGS then [(0xFF, 0xFF, 16 + bit % 16)]
    else [(0xFF, 0xFF, 27)]
  else if r = 2 then
    [(0xFF, 0xFF, if bit < 2 then 16 else if bit < 4 then 17 else if bit = 4 ∨ bit = 6 then 18 else if bit = 8 then 19 else 20)]
  else if r = 3 then
    if c < 8 then [(0, 0xFC, c), (0, 0xFF, 0), (0xFF, 0xFF, 0)]
    else if c < 0x24 then [(0, 0xFC, c - 0x18), (0, 0xFF, 0), (0xFF, 0xFF, 0)]
    else if c < 0x60 then [(0, 0xFD, c - 0x40), (0, 0xFF, 1), (0xFF, 0xFF, 0)]
    else if c < 0x80 then [(0, 0xFE, c - 0x60), (0, 0xFF, 2), (0xFF, 0xFF, 0)]
    else [(0, 0xFF, 16), (0xFF, 0xFF, 0)]
  else if r = 6 then
    [(0xFF, 0xFF, if a = AQ_MASK_STATUS then 18 else if bit = 0 then 16 else if bit = 1 ∨ bit = 7 then 17 else 19)]
  else if b = 0xFF then [(0xFF, 0xFF, 16)]
  else if c < 16 then [(b, 0xFE, c), (b, 0xFF, 0), (0xFF, 0xFF, b)]
  else [(b, 0xFF, 16), (0xFF, 0xFF, b)]

/-- A record propagates to the chip word: kind 1 and CF records always, others where every mask on the chain lets the bit pass
(R490, R500). -/
def State.propagates (s : State) (e : Rec) : Bool :=
  let r := getF ⟨27, 4⟩ e.w0
  if getF ⟨31, 1⟩ e.w0 = 1 ∨ r = 0 then true
  else
    let a := r * 0x1000000 + getF ⟨19, 8⟩ e.w0 * 0x10000 + getF ⟨11, 8⟩ e.w0 * 0x100 + getF ⟨5, 6⟩ e.w0 * 4
    (chain a (getF ⟨0, 5⟩ e.w0)).all (fun p => (routeMask s.cut.live r p.1 p.2.1).testBit p.2.2)

/-! ### Summary words (R486 to R489) -/

/-- Does any flag of the register stand, under a mask? -/
def State.anyBit (s : State) (a mask : Nat) : Bool := (s.reg a &&& w32 mask) ≠ 0

/-- The pointer rule: the word has a bit set that its mask lets through (R487, R490). -/
def State.routed (s : State) (region block cell w : Nat) : Bool := (w &&& routeMask s.cut.live region block cell) ≠ 0

/-- A cell word of an RX block: bit c while the cell is masked or a flag of it is set. -/
def State.sumRxCells (s : State) (k : Nat) : Nat :=
  bitsBelow (fun c =>
    let ch := k * 16 + c
    s.fget (RX_CELL_STATUS ch) RX_CELL_STATUS.state = 2 || s.anyBit (RX_CELL_FLAGS ch) 0x800000FF
      || s.anyBit (GD_CELL_OVF ch) 0xFF || s.anyBit (HS_CELL_FLAGS ch) 0x3F) 16

/-- The block word of RX block `k`. -/
def State.sumRxBlock (s : State) (k : Nat) : Nat :=
  let r := rxRegion k
  let b := rxBlock k
  b2n (s.routed r b 0xFE (s.sumRxCells k))
    + (if s.startup.isolated.contains (r * 256 + b) || s.anyBit (RX_BLK_STATUS k) 2 || s.anyBit (GD_BLK_STATUS k) 7
          || s.anyBit (RX_BLK_SEQ k) 0xF0000 || s.anyBit (HS_BLK_STATUS k) 3 || s.anyBit (EX_BLK_FLAGS k) 0x1F
          || s.anyBit (ADC_REF k) 0xF00 || s.anyBit (ADC_FLAGS k) 0x3FF then 0x10000 else 0)
    + (if s.startup.rtDropped.contains (r * 256 + b) then 0x20000 else 0)

/-- A cell word of a TX block. -/
def State.sumTxCells (s : State) (b : Nat) : Nat :=
  bitsBelow (fun c => s.fget (TX_PORT_STATUS (b * 16 + c)) TX_PORT_STATUS.state = 1
    || s.anyBit (TX_PORT_FLAGS (b * 16 + c)) 0x80000003) 16

/-- A cell word of an LK block. -/
def State.sumLkCells (s : State) (b : Nat) : Nat :=
  bitsBelow (fun c => s.anyBit (LK_LANE_FLAGS (b * 8 + c)) 0x1FF) 8

/-- The block word of a TX or LK block from its cell word. -/
def State.sumBlock (s : State) (r b cells : Nat) : Nat :=
  b2n (s.routed r b 0xFE cells) + (if s.startup.isolated.contains (r * 256 + b) then 0x10000 else 0)
    + (if s.startup.rtDropped.contains (r * 256 + b) then 0x20000 else 0)

/-- The AXES word of SC. -/
def State.sumAxes (s : State) : Nat :=
  bitsBelow (fun a =>
    if a < 8 then s.anyBit (SC_AXIS_FLAGS a) 3 || s.fget (SC_AXIS_STATUS a) SC_AXIS_STATUS.scan_fault = 1
    else s.anyBit (ADC_REF (40 + a)) 0xF00 || s.anyBit (ADC_FLAGS (40 + a)) 0x3FF) 12

/-- A LOOPS word of SC, from loop `l0`. -/
def State.sumLoops (s : State) (l0 : Nat) : Nat :=
  bitsBelow (fun l => s.fget (SC_LOOP_STATUS (l0 + l)) SC_LOOP_STATUS.state = 2 || s.anyBit (SC_LOOP_FLAGS (l0 + l)) 0x3FF) 32

/-- The block word of SC. -/
def State.sumScBlock (s : State) : Nat :=
  b2n (s.routed 3 0 0xFC s.sumAxes) + 2 * b2n (s.routed 3 0 0xFD (s.sumLoops 0)) + 4 * b2n (s.routed 3 0 0xFE (s.sumLoops 32))
    + (if s.anyBit SC_ENG_FLAGS 7 then 0x10000 else 0) + (if s.startup.rtDropped.contains 0x300 then 0x20000 else 0)

/-- The HK cell word. -/
def State.sumHkCells (s : State) : Nat :=
  bitsBelow (fun t =>
    if t < 29 then s.anyBit (HK_T_FLAGS t) 0xF
    else s.anyBit (ADC_REF (t + 23)) 0xF00 || s.anyBit (ADC_FLAGS (t + 23)) 0x3FF) 31

/-- The block word of an SF channel: TRIPPED is state 2 and FAULT state 6 of R407. -/
def State.sumSfBlock (s : State) (x : Nat) : Nat :=
  let st := s.fget SF_STATUS (if x = 0 then SF_STATUS.state_a else SF_STATUS.state_b)
  (if st = 2 then 0x10000 else 0) + (if st = 6 then 0x20000 else 0)

/-- The CF region word (R488). -/
def State.sumCf (s : State) : Nat :=
  let t := s.reg TIME_STATUS
  let c := s.reg CUT_STATUS
  let f := s.reg FW_FLAGS
  bitN 8 t + 2 * bitN 9 t + 4 * bitN 10 t + 8 * bitN 11 t + 16 * b2n (s.anyBit REGION_FENCE 0xFFFF)
    + 32 * bitN 8 c + 64 * bitN 9 c + 128 * bitN 10 c + 256 * bitN 11 c + 512 * bitN 12 c
    + 2 ^ 10 * b2n (s.anyBit CAL_STATUS 0x17) + 2 ^ 11 * b2n (s.anyBit PAIR_FLAGS 0x7)
    + 2 ^ 12 * b2n (s.anyBit PAIR_FLAGS 0x6F8) + 2 ^ 13 * b2n (s.anyBit PAIR_FLAGS 0x100)
    + 2 ^ 14 * b2n (s.anyBit MGMT_FLAGS 0x3FF) + 2 ^ 15 * b2n (s.anyBit REC_STATUS 0x9)
    + 2 ^ 16 * b2n (s.anyBit REC_STATUS 0x2) + 2 ^ 17 * b2n (s.anyBit REC_STATUS 0x4)
    + 2 ^ 18 * b2n (s.anyBit LOUPE_STATUS 0x2) + 2 ^ 19 * b2n (s.anyBit LOUPE_STATUS 0xC)
    + 2 ^ 20 * b2n (s.anyBit FW_FLAGS 0x3F) + 2 ^ 21 * bitN 8 f + 2 ^ 22 * bitN 12 f
    + 2 ^ 23 * b2n (s.anyBit FW_FLAGS 0x30000) + 2 ^ 24 * bitN 20 f + 2 ^ 25 * b2n (s.anyBit FW_FLAGS 0x3000000)
    + 2 ^ 26 * b2n (s.anyBit FW_FLAGS 0x30000000)

/-- The region word of a region other than CF (R487, R488). -/
def State.sumRegion (s : State) (r : Nat) : Nat :=
  if r = 1 then
    b2n (s.routed 1 0xFF 0xFE s.sumHkCells)
      + bitsBelow (fun i => i ≥ 16 && i < 26 && s.anyBit HK_SUP_FLAGS (2 ^ (i - 16) + 2 ^ i)) 26
      + 2 ^ 26 * b2n (s.anyBit HK_FLAGS 1)
      + 2 ^ 27 * b2n (s.anyBit (PWR_DOM_FAULT 0) 0xFFFFFFFF || s.anyBit (PWR_DOM_FAULT 1) 0xFFFFFFFF || s.anyBit (PWR_DOM_FAULT 2) 0xFFFFFFFF)
  else if r = 2 then
    b2n (s.routed 2 0 0xFF (s.sumSfBlock 0)) + 2 * b2n (s.routed 2 1 0xFF (s.sumSfBlock 1))
      + 2 ^ 16 * b2n (s.anyBit SF_FLAGS 0x3) + 2 ^ 17 * b2n (s.anyBit SF_FLAGS 0xC) + 2 ^ 18 * b2n (s.anyBit SF_FLAGS 0x50)
      + 2 ^ 19 * b2n (s.anyBit SF_FLAGS 0x100) + 2 ^ 20 * b2n (s.anyBit SF_FLAGS 0xA0)
  else if r = 3 then b2n (s.routed 3 0 0xFF s.sumScBlock)
  else if r = 4 then
    bitsBelow (fun b => s.routed 4 b 0xFF (s.sumBlock 4 b (s.sumTxCells b))) 4 + 2 ^ 16 * b2n (s.anyBit TX_SCHED_STATUS 0x700)
  else if r = 5 then
    bitsBelow (fun b => s.routed 5 b 0xFF (s.sumBlock 5 b (s.sumLkCells b))) 4 + 2 ^ 16 * b2n (s.anyBit LK_FLAGS 7)
  else if r = 6 then
    2 ^ 16 * b2n (s.anyBit AQ_FLAGS 1) + 2 ^ 17 * b2n (s.anyBit AQ_FLAGS 0x82) + 2 ^ 18 * b2n (s.anyBit AQ_MASK_STATUS 0xFF)
      + 2 ^ 19 * b2n (s.anyBit AQ_FLAGS 0x7C)
  else
    bitsBelow (fun b => s.routed r b 0xFF (s.sumRxBlock ((r - 8) * 8 + b))) 8
      + 2 ^ 16 * b2n (s.anyBit (RX_GATE_STATUS (r - 8)) 0x700) + 2 ^ 17 * b2n (s.fenced r)

/-- The summary word at address `a`, computed from the flags below it (R486, R487). -/
def State.sumLive (s : State) (a : Nat) : Nat :=
  let r := a / 0x1000000
  let b := a / 0x10000 % 256
  let i := a / 4 % 64
  if r = 0 then
    if i = 62 then s.sumCf
    else
      bitsBelow (fun n => if n = 0 then s.routed 0 0xFF 0xFF s.sumCf
        else isRegion n && s.routed n 0xFF 0xFF (if s.fenced n then (look (fun _ => 0) s.mgmt.frozen (n * 0x1000000 + 0xFFFFFC)).toNat + 2 ^ 17 * b2n (8 ≤ n) else s.sumRegion n)) 14
        + (if s.startup.chip = [] then 0 else 0x10000)
  else if b = 0xFF then (if r = 1 ∧ i = 62 then s.sumHkCells else s.sumRegion r)
  else if r = 2 then s.sumSfBlock b
  else if r = 3 then (if i = 60 then s.sumAxes else if i = 61 then s.sumLoops 0 else if i = 62 then s.sumLoops 32 else s.sumScBlock)
  else if r = 4 then (if i = 62 then s.sumTxCells b else s.sumBlock 4 b (s.sumTxCells b))
  else if r = 5 then (if i = 62 then s.sumLkCells b else s.sumBlock 5 b (s.sumLkCells b))
  else (if i = 62 then s.sumRxCells ((r - 8) * 8 + b) else s.sumRxBlock ((r - 8) * 8 + b))

/-- The summary words of a region, whose copies a fence freezes (R489). -/
def summaryAddrs (r : Nat) : List Nat :=
  (if r = 1 then [0x01FFFFF8] else []) ++ [r * 0x1000000 + 0xFFFFFC] ++
  (if r = 3 then [0x0300FFF0, 0x0300FFF4, 0x0300FFF8, 0x0300FFFC]
   else if r = 1 ∨ r = 6 then []
   else (List.range (if r < 8 then 4 else 8)).flatMap (fun b => [r * 0x1000000 + b * 0x10000 + 0xFFF8, r * 0x1000000 + b * 0x10000 + 0xFFFC]))

/-- Keep the summary words of a region as they stand. -/
def freeze (r : Nat) (s : State) : State :=
  { s with mgmt := { s.mgmt with frozen := (summaryAddrs r).foldl (fun m a => put (fun _ => 0) m a (w32 (s.sumLive a))) s.mgmt.frozen } }

/-- Give up the frozen words of a region. -/
def unfreeze (r : Nat) (s : State) : State :=
  { s with mgmt := { s.mgmt with frozen := clearWhere (fun a => a / 0x1000000 = r) s.mgmt.frozen } }

/-- The summary word a read returns: the frozen copy of a fenced region, with FENCE set in the region word of an RX region
(R488, R489), else the live word. -/
def State.sumWord (s : State) (a : Nat) : Word :=
  let r := a / 0x1000000
  if s.fenced r then
    let w := look (fun _ => 0) s.mgmt.frozen a
    if 8 ≤ r ∧ a / 0x10000 % 256 = 0xFF then setBit 17 w else w
  else w32 (s.sumLive a)

end Sys2Proof.Machine
end

