-- ==== Sys2Proof/Machine/Contain.lean ====
section
/-!
DEFINITION. Completion of management transactions (R548, R550), the stop of the shot scheduler (R167), and the reactions by
which a fault is contained (R4, R36, R37, R573, R617).
-/
namespace Sys2Proof.Machine

/-! ### Completion of a transaction -/

/-- A failing status is counted, flagged and recorded (R550). -/
def mgmtError (q status addr : Nat) (s : State) : State :=
  let s1 := bumpOvf (MGMT_ERR q) MGMT_ERR.count 1 MGMT_FLAGS MGMT_FLAGS.err_ovf.lo s
  let s2 := setFlag MGMT_FLAGS (status - 1) s1
  setReg MGMT_ERR_ADDR (w32 addr) (fsets MGMT_ERR_INFO [(MGMT_ERR_INFO.status, status), (MGMT_ERR_INFO.requester, q)] s2)

/-- A transaction of requester `q` at address word `addr` completes with a status and a data word (R548, R550). The last access is kept where
it is a read (R493). -/
def complete (q status addr : Nat) (data : Word) (s : State) : State :=
  let s1 := if status = 0 then s else mgmtError q status addr s
  setReq q { s1.req q with status := BitVec.ofNat 8 status, data := data, lastAccess := if addr % 4 = 1 then none else some (addr / 4 * 4) }
    (if status = 6 ∧ addr / 0x1000000 % 16 = 2 then { s1 with mgmt := { s1.mgmt with sfSilent := false } } else s1)

/-- A write that is applied completes with OK and a data word of 0 (R548, R552). -/
def completeOk (q addr : Nat) (s : State) : State := complete q 0 addr 0 s

/-- A write that a rule discards leaves everything as it is and completes with ACCESS (R13, R548). -/
def discardWrite (q addr : Nat) (s : State) : State := complete q 1 (addr + 1) 0 s

/-- Does CF answer the word at `a` itself: its own registers, `REGION_INFO`, and the summary words (R549)? -/
def answeredByCf (a : Nat) : Bool :=
  let r := a / 0x1000000 % 16
  r = 0 || a = REGION_INFO r || (summaryAddrs r).contains a

/-- The status that the state of the target region gives an access: FENCED, OFF or OK (R548, R549). -/
def State.targetStatus (s : State) (a : Nat) : Nat :=
  if answeredByCf a then 0
  else if s.fenced (a / 0x1000000 % 16) || (a / 0x1000000 % 16 = 2 && s.mgmt.sfSilent) then 6
  else if s.domGood (domainAt a) then 0 else 5

/-- The device answers transactions: the loader has begun to run, and no reset is in force (R553, R561, R563). -/
def State.answers (s : State) : Bool := !s.startup.inReset && s.fget MODE_STATUS MODE_STATUS.phase ≠ 0

/-- A write of requester `q` to the register at `a`, whose effect is `f`: applied where the target answers, else discarded with the
status of R548. The address word of a write carries op 0b01 (R541). -/
def hostWrite (q a : Nat) (f : State → State) (s : State) : State :=
  if !s.answers then s
  else match s.targetStatus a with
    | 0 => completeOk q (a + 1) (f s)
    | st => complete q st (a + 1) 0 s

/-- The same for a write that a rule discards with ACCESS unless `ok` holds (R13, R548). -/
def hostWriteIf (ok : Bool) (q a : Nat) (f : State → State) (s : State) : State :=
  if ok then hostWrite q a f s
  else if !s.answers then s
  else match s.targetStatus a with
    | 0 => discardWrite q a s
    | st => complete q st (a + 1) 0 s

/-! ### Blocks, cells, ports -/

/-- The record of receive block `k`, of cell `c`, of emitter port `p`, of sequence `q`. -/
def State.blk (s : State) (k : Nat) : RxBlk := look (fun _ => {}) s.rx.blks k
def setBlk (k : Nat) (b : RxBlk) (s : State) : State := { s with rx := { s.rx with blks := put (fun _ => {}) s.rx.blks k b } }
def State.cell (s : State) (c : Nat) : Cell := look (fun _ => {}) s.rx.cells c
def setCell (c : Nat) (x : Cell) (s : State) : State := { s with rx := { s.rx with cells := put (fun _ => {}) s.rx.cells c x } }
def State.port (s : State) (p : Nat) : Port := look (fun _ => {}) s.tx.ports p
def setPort (p : Nat) (x : Port) (s : State) : State := { s with tx := { s.tx with ports := put (fun _ => {}) s.tx.ports p x } }
def State.seq (s : State) (q : Nat) : Seq := look (fun _ => {}) s.tx.seqs q
def setSeq (q : Nat) (x : Seq) (s : State) : State := { s with tx := { s.tx with seqs := put (fun _ => {}) s.tx.seqs q x } }

/-- The device shoots, so starts may exist (R137, R167): RUN, or SERVICE with service shooting in force. -/
def State.shooting (s : State) : Bool :=
  s.mode = .run || (s.mode = .service && s.fget MODE_STATUS MODE_STATUS.service_shooting = 1)

/-- Fires are driven (R167): the device shoots, in pair state SOLO or ACTIVE. -/
def State.driving (s : State) : Bool := s.shooting && (s.pair = .solo || s.pair = .active)

/-! ### The shot scheduler stops (R167) -/

/-- A section slews, or waits to. -/
def CalSection.busy (x : CalSection) : Bool := x.next.isSome || x.nextRef.isSome || decide (x.k < x.n)

/-- Every bring-in completes at once when the device stops building pixels (R322, R323). -/
def slewFinish (s : State) : State :=
  { s with cal := { s.cal with sections := s.cal.sections.map (fun e => (e.1, e.2.map (fun x =>
      if x.busy then { set := x.next.getD x.set, ref := x.nextRef <|> x.ref } else x))) } }

/-- An open pixel of a stopped block produces no record: its bins stay for the histogram window (R189), and nothing of it is read. -/
def Pixel.abandon (now : Nat) (p : Pixel) : Pixel := { p with closedAt := some (p.closedAt.getD now), read := 16 }

/-- Is the pixel still in progress? -/
def Pixel.inProgress (p : Pixel) : Bool := p.closedAt.isNone

/-- How many pixels of the block are in progress. -/
def RxBlk.open (b : RxBlk) : Nat :=
  b2n (b.bufX.any Pixel.inProgress) + b2n (b.bufY.any Pixel.inProgress)

/-- The temperature that keys a region's tables (R318), and its load (R319). -/
def State.calTemp (s : State) (region : Nat) : Int := look (fun _ => 2500) s.cal.temp region
def State.calLoad (s : State) (region : Nat) : Nat := look (fun _ => 0) s.cal.load region

/-- A foreground run starts on block `k`: its cells listen to the source only, and the temperature and load are kept for R326 (R324, R325). -/
def fgBegin (k : Nat) (s : State) : State :=
  let r := 8 + k / 8
  let s1 := setBlk k { s.blk k with fgRunning := true, fgLeave := false, fgWait := none } s
  fset CAL_FG_STATUS CAL_FG_STATUS.port k
    { s1 with cal := { s1.cal with fgAt := put (fun _ => (2500, 0)) s1.cal.fgAt k (s1.calTemp r, s1.calLoad r) } }

/-- A pixel of the block carries CAL_ABSENT from its boundary on (R134, R325). -/
def RxBlk.calAbsent (b : RxBlk) : Bool := b.fgLeave || b.fgRunning || b.fgBack

/-- Blocks of a foreground request that run, wait, or are about to return (R324, R325). -/
def State.fgBusy (s : State) : Nat := countBelow (fun k => let b := s.blk k; b.fgWait.isSome || b.calAbsent) 48

/-- A block of a foreground request that the plane in force disables is skipped (R324, R333). -/
def fgSkip (s : State) : State := fset CAL_FG_STATUS CAL_FG_STATUS.skipped (s.fget CAL_FG_STATUS CAL_FG_STATUS.skipped + 1) s

/-- Start blocks of the request while no pixels are built: as many as may run at once (R324). `n` bounds the blocks started. -/
def fgFill : Nat → State → State
  | 0, s => s
  | n + 1, s =>
    match s.cal.fgLeft with
    | [] => if s.fgBusy = 0 && s.fget CAL_FG_STATUS CAL_FG_STATUS.state = 1 then fset CAL_FG_STATUS CAL_FG_STATUS.state 2 s else s
    | k :: rest =>
      let par := (s.reg CAL_FG_CFG).toNat % 64
      if (if par = 0 then 48 else par) ≤ s.fgBusy then s
      else
        let s1 := { s with cal := { s.cal with fgLeft := rest } }
        fgFill n (if blockOn (s.planeOf (tgtRx k)) (rxRegion k) (rxBlock k) then fgBegin k s1 else fgSkip s1)

/-- A block stops with the scheduler: its pixels in progress count as missed, what was posted to it is withdrawn, and a foreground run that
waits for a boundary starts. Run-time writes that waited for a boundary now withdrawn go on waiting, until the block's next boundary, a swap,
or a later write to the block: the model's choice (log entry 61). -/
def stopBlock (k : Nat) (s : State) : State :=
  let b := s.blk k
  let s1 := setBlk k { b with bufX := b.bufX.map (fun p => if p.inProgress then p.abandon s.now else p),
                              bufY := b.bufY.map (fun p => if p.inProgress then p.abandon s.now else p),
                              opens := [], posts := [], slots := [], fgBack := false } s
  let s2 := if b.fgLeave || b.fgWait.isSome then fgBegin k s1 else s1
  if b.open = 0 then s2 else bump (RX_BLK_SEQ_CNT k) RX_BLK_SEQ_CNT.pixels_missed b.open s2

/-- Windows and held pulses of a cell end with the starts (R137). -/
def stopCell (c : Nat) (s : State) : State :=
  let x := s.cell c
  if x.wins = [] ∧ x.held = [] ∧ x.out = [] then s else setCell c { x with wins := [], held := [], out := [] } s

/-- Fires of a port that are placed for later instants are withdrawn. -/
def stopPort (p : Nat) (s : State) : State :=
  let x := s.port p
  if x.fires = [] then s else setPort p { x with fires := [] } s

/-- A sequence places no more. -/
def stopSeq (q : Nat) (s : State) : State :=
  let x := s.seq q
  if x.placing then setSeq q { x with placing := false } s else s

/-! ### Changes other than a swap (R28, R31) -/

/-- The earliest and the latest stamp of a change, which its facility reports (R31). -/
def Change.earliest (c : Change) : Option Nat :=
  c.stamps.foldl (fun m p => some (match m with | some t => min t p.2 | none => p.2)) none
def Change.latest (c : Change) : Option Nat :=
  c.stamps.foldl (fun m p => some (match m with | some t => max t p.2 | none => p.2)) none

/-- A facility has a change with the effective instant `i`: some targets wait for a boundary of their own, the others apply it at `i`. -/
def noteChange (f : Facility) (i : Nat) (waits applied : List Nat) (s : State) : State :=
  if s.time.changes.any (fun c => c.what = f ∧ c.at_ = i) then s
  else { s with time := { s.time with changes := s.time.changes.filter (fun c => c.what ≠ f) ++
    [{ what := f, at_ := i, waiting := waits, stamps := applied.map (fun t => (t, i)) }] } }

/-- Targets have applied a change at a boundary at or after its instant. -/
def Change.stamp (p : Nat → Bool) (stamp : Nat) (c : Change) : Change :=
  if c.at_ ≤ stamp then { c with waiting := c.waiting.filter (fun t => !p t), stamps := c.stamps ++ (c.waiting.filter p).map (fun t => (t, stamp)) } else c

/-- Targets come to a boundary: they record it for every change they have not applied (R31). -/
def stampChanges (p : Nat → Bool) (stamp : Nat) (s : State) : State :=
  if s.time.changes.any (fun c => c.waiting.any p) then { s with time := { s.time with changes := s.time.changes.map (Change.stamp p stamp) } } else s

/-- Targets of a fenced region leave every change: they record no stamp (R44). -/
def leaveChanges (p : Nat → Bool) (s : State) : State :=
  if s.time.changes.any (fun c => c.waiting.any p) then
    { s with time := { s.time with changes := s.time.changes.map (fun c => { c with waiting := c.waiting.filter (fun t => !p t) }) } }
  else s

/-- The scheduler stops on leaving RUN, or at a STOP that ends service shooting (R167). -/
def stopShooting (s : State) : State :=
  let withdrawn := s.tx.ports.any (fun e => e.2.fires ≠ [])
  let s1 := forUp stopPort 0 64 s
  let s2 := forUp stopSeq 0 64 s1
  let s3 := forUp stopBlock 0 48 s2
  let s4 := stampChanges (fun t => decide (0x80 ≤ t)) s3.now (slewFinish (fgFill 49 (forUp stopCell 0 768 s3)))
  let s5 := { s4 with tx := { s4.tx with shooting := false, checks := [] } }
  let s6 := fsets TX_SCHED_STATUS [(TX_SCHED_STATUS.running, 0), (TX_SCHED_STATUS.frame_wait, 0)] s5
  flagIf withdrawn TX_SCHED_STATUS TX_SCHED_STATUS.fire_withdrawn s6

/-- The device leaves ARMED or RUN for CONFIGURED, and with it a pause that was to return it to RUN no longer does (R521, R570). -/
def toConfigured (s : State) : State :=
  let stay := fun t : State => { t with mode := .configured, fw := { t.fw with wasRun := false, backToRun := false } }
  match s.mode with
  | .run => stay (stopShooting s)
  | .armed => stay s
  | _ => s

/-! ### Reactions (R36) -/

/-- The chip-level reaction: an off-demand goes to both safety channels (it stands while a cause stands), CHIP_FAULT is recorded
when it sets, and ARMED and RUN give way to CONFIGURED (R36, R573, R617). -/
def chipReaction (cause : ChipCause) (p0 p2 : Nat) (s : State) : State :=
  let s1 := if s.startup.chip = [] then kindOne 0 5 p0 p2 s else s
  let s2 := { s1 with startup := { s1.startup with
    chip := if s1.startup.chip.contains cause then s1.startup.chip else s1.startup.chip ++ [cause] },
                      pairSt := { s1.pairSt with chipSince := true } }
  toConfigured s2

/-- A cause of the chip-level reaction ends (R573). -/
def endCause (cause : ChipCause) (s : State) : State :=
  { s with startup := { s.startup with chip := s.startup.chip.filter (· ≠ cause) } }

/-- Is a chip-level reaction in force (R556, R573)? -/
def State.chipFault (s : State) : Bool := s.startup.chip ≠ []

/-- An RX cell is masked (R36, R97). -/
def maskCell (c : Nat) (s : State) : State :=
  fset (RX_CELL_STATUS c) RX_CELL_STATUS.state 2 s

/-- Is the RX cell masked? -/
def State.masked (s : State) (c : Nat) : Bool := s.fget (RX_CELL_STATUS c) RX_CELL_STATUS.state = 2

/-- A block isolates itself (R36). -/
def isolateBlock (r b : Nat) (s : State) : State :=
  if s.startup.isolated.contains (r * 256 + b) then s
  else { s with startup := { s.startup with isolated := s.startup.isolated ++ [r * 256 + b] } }

/-- Is the block isolated? -/
def State.isolated (s : State) (r b : Nat) : Bool := s.startup.isolated.contains (r * 256 + b)

/-- A run-time write to a resource that a new plane powers down is dropped (R44). -/
def dropWrite (r b : Nat) (s : State) : State :=
  if s.startup.rtDropped.contains (r * 256 + b) then s
  else { s with startup := { s.startup with rtDropped := s.startup.rtDropped ++ [r * 256 + b] } }

/-- A target has applied the swap in progress at a stamp (R28, R29, R31). -/
def markApplied (t stamp : Nat) (s : State) : State :=
  if s.cut.waiting.contains t then
    { s with cut := { s.cut with waiting := s.cut.waiting.filter (· ≠ t), firstStamp := min s.cut.firstStamp stamp,
                                 lastStamp := max s.cut.lastStamp stamp, stamps := s.cut.stamps ++ [(t, stamp)] } }
  else s

/-- The region that a target of a plane change lies in. -/
def tgtRegion (t : Nat) : Nat := if t < 0x50 then t else if t < 0x80 then 5 else if t < 0xC0 then 8 + (t - 0x80) / 8 else 4

/-- Targets that take no further part in the swap in progress: they take the live plane up when they come back, and give no stamp (R41, R44). -/
def leaveSwap (p : Nat → Bool) (s : State) : State :=
  if s.cut.waiting.any p then { s with cut := { s.cut with waiting := s.cut.waiting.filter (fun t => !p t) } } else s

/-- A region takes no part in a swap whose Cut carried frames with these keys; it takes them up when it is ready (R41). -/
def missSwap (keys : List (Nat × Nat)) (r : Nat) (s : State) : State :=
  { s with cal := { s.cal with missed := put (fun _ => []) s.cal.missed r (look (fun _ => []) s.cal.missed r ++ keys) } }

/-- Regions that can be fenced (R37, R40). -/
def fenceable (r : Nat) : Bool := isRegion r && r ≠ 0 && r ≠ 2

/-- An RX region that is fenced delivers no more edges: those on their way to a pairing stage and to AQ are dropped (R358). -/
def dropEdges (r : Nat) (s : State) : State :=
  let s1 := forUp (fun i t =>
    let c := (r - 8) * 128 + i
    let x := t.cell c
    if x.queue = [] then t else setCell c { x with queue := [] } t) 0 128 s
  { s1 with rx := { s1.rx with toAq := put (fun _ => []) s1.rx.toAq (r - 8) [] } }

/-- A region is fenced: its summary words freeze as they stand, its bit of `REGION_FENCE` sets, and a fence of HK, SC, TX or LK
escalates to the chip level at once (R36, R37, R489). -/
def fenceRegion (r : Nat) (s : State) : State :=
  if fenceable r && !s.fenced r then
    let out := fun t => decide (tgtRegion t = r)
    let s0 := if s.cut.waiting.any out then missSwap s.cut.swapKeys r s else s
    let s1 := leaveChanges out (leaveSwap out (setFlag REGION_FENCE r (freeze r (if 8 ≤ r then dropEdges r s0 else s0))))
    if r = 1 ∨ r = 3 ∨ r = 4 ∨ r = 5 then chipReaction (.fence r) r REGION_FENCE s1 else s1
  else s

end Sys2Proof.Machine
end

