-- ==== Sys2Proof/Machine/Tables.lean ====
section
/-!
DEFINITION. The correction tables (chapter 10): working copies, their values under temperature and load, and bring-in.
-/
namespace Sys2Proof.Machine

/-! ### Sections (R312 to R315) -/

/-- The key of a section of a working copy. -/
def calKey (region block cell kind : Nat) : Nat := region * 2 ^ 24 + block * 2 ^ 16 + cell * 2 ^ 8 + kind

/-- Words of a point, by kind (R315); 0 where there is no such kind. -/
def pointWords (kind : Nat) : Nat :=
  match kind with
  | 1 => 64 | 2 => 1 | 3 => 128 | 4 => 17 | 5 => 2 | 6 => 8 | 7 => 1 | _ => 0

/-- Is there a section of this kind at an address (R227, R315)? -/
def sectionAt (region block cell kind : Nat) : Bool :=
  match kind with
  | 1 => 8 ≤ region && region < 14 && block < 8 && cell ≤ 16
  | 2 | 3 | 5 => 8 ≤ region && region < 14 && block < 8 && cell < 16
  | 4 => 8 ≤ region && region < 14 && block < 8 && cell = 0xFF
  | 6 => (8 ≤ region && region < 14 && block < 8 && cell = 0x20) || (region = 3 && block = 0 && 0x20 ≤ cell && cell < 0x24)
           || (region = 1 && block = 0xFF && (cell = 0x20 || cell = 0x21))
  | 7 => region = 3 && block = 0 && cell < 8
  | _ => false

/-- The factory store's set (R313): bin centres, front-end offsets and converter trims at −20, 25 and 85 °C, bin centres at both load
points; every other table is 0. -/
def factorySet (key : Nat) : CalSet :=
  let kind := key % 256
  let n := if kind = 1 then 6 else 3
  { keys := [-2000, 2500, 8500], load := kind = 1,
    points := (List.range n).map (fun j => (List.range (pointWords kind)).map (fun i =>
      if kind = 1 ∨ kind = 5 ∨ kind = 6 then Config.factoryWord key j i else 0)) }

/-- A section of a working copy. -/
def State.section_ (s : State) (key : Nat) : CalSection := (look (fun _ => none) s.cal.sections key).getD { set := factorySet key }
def setSection (key : Nat) (x : CalSection) (s : State) : State :=
  { s with cal := { s.cal with sections := put (fun _ => none) s.cal.sections key (some x) } }

/-- The calibration count and time of a section (R327). -/
def State.calCount (s : State) (key : Nat) : Nat × Word := look (fun _ => (0, 0)) s.cal.counts key

/-- The 16-bit halves of a list of words, low half first. -/
def halves : List Word → List Nat
  | [] => []
  | w :: ws => w.toNat % 65536 :: w.toNat / 65536 :: halves ws

/-- Two 16-bit values in each word, low half first. -/
def packHalves : List Nat → List Word
  | [] => []
  | [a] => [w32 (a % 65536)]
  | a :: b :: l => w32 (a % 65536 + b % 65536 * 65536) :: packHalves l

/-- The entries of a point, by kind (R315): for kind 0x06 offset and gain of each gain code in turn. -/
def entriesOf (kind : Nat) (ws : List Word) : List Int :=
  match kind with
  | 1 => (halves ws).map (fun (x : Nat) => (x : Int))
  | 2 => ws.map (fun w => sext 32 w.toNat)
  | 3 => (halves ws).map (sext 16)
  | 4 => ((halves ws).take 33).map (sext 16)
  | 5 => match ws with
    | [a, b] => [sext 16 (a.toNat % 65536), sext 16 (b.toNat % 65536), sext 16 (b.toNat / 65536)]
    | _ => []
  | 6 => ws.zipIdx.map (fun p => if p.2 % 2 = 0 then sext 24 p.1.toNat else ((p.1.toNat % 2 ^ 24 : Nat) : Int))
  | _ => ws.map (fun w => sext 24 w.toNat)

/-- The words in which a value in force is read (R329): packed as in a point. -/
def packEntries (kind : Nat) (v : List Int) : List Word :=
  match kind with
  | 1 | 3 | 4 => packHalves (v.map (toBits 16))
  | 5 => [w32 (toBits 16 (nth 0 v 0)), w32 (toBits 16 (nth 0 v 1) + toBits 16 (nth 0 v 2) * 65536)]
  | 2 => v.map (fun x => w32 (toBits 32 x))
  | _ => v.map (fun x => w32 (toBits 24 x))

/-! ### Values (R318 to R321) -/

/-- The largest point whose key does not exceed `t`, counting from `j`. -/
def keyBelow (t : Int) : Nat → List Int → Nat
  | j, _ :: b :: l => if b ≤ t then keyBelow t (j + 1) (b :: l) else j
  | j, _ => j

/-- Entries between two points, `num` of `den` along. -/
def mixEntries (a b : List Int) (num den : Int) : List Int := (a.zip b).map (fun p => p.1 + Int.tdiv ((p.2 - p.1) * num) den)

/-- The entries of load point `l` at temperature `t`. -/
def CalSet.atLoad (c : CalSet) (kind l : Nat) (t : Int) : List Int :=
  let n := c.keys.length
  let pt := fun j => entriesOf kind (nth [] c.points (l * n + j))
  if t ≤ nth 0 c.keys 0 then pt 0
  else if nth 0 c.keys (n - 1) ≤ t then pt (n - 1)
  else
    let j := keyBelow t 0 c.keys
    mixEntries (pt j) (pt (j + 1)) (t - nth 0 c.keys j) (nth 0 c.keys (j + 1) - nth 0 c.keys j)

/-- The stored values at a temperature and load (R320). -/
def CalSet.value (c : CalSet) (kind : Nat) (t : Int) (lam : Nat) : List Int :=
  if c.load then mixEntries (c.atLoad kind 0 t) (c.atLoad kind 1 t) lam 1024 else c.atLoad kind 0 t

/-- Add two lists of entries; a missing entry of the second is 0. -/
def addEntries (a b : List Int) : List Int := a.zipIdx.map (fun p => p.1 + nth 0 b p.2)

/-- The reference cell's section of the block that a key lies in. -/
def refKey (key : Nat) : Nat := key / 2 ^ 16 * 2 ^ 16 + 0x1001

/-- The block drift for a cell's bin centres: ref_now less ref_fg at the same temperature and load (R135, R321). -/
def State.driftOf (s : State) (key : Nat) (ref : Option (List Nat)) (t : Int) (lam : Nat) : List Int :=
  match ref with
  | none => []
  | some now =>
    if key % 256 = 1 ∧ key ≠ refKey key then
      ((s.section_ (refKey key)).set.value 1 t lam).zipIdx.map (fun p => (nth 0 now p.2 : Int) - p.1)
    else []

/-- Δ of a slew (R322). -/
def CalSection.delta (x : CalSection) : List Int :=
  if x.k < x.n then x.delta0.map (fun d => Int.tdiv (d * ((x.n - x.k : Nat) : Int)) x.n) else []

/-- The value of a stored set with its drift and a slew offset. -/
def State.valueWith (s : State) (key : Nat) (set : CalSet) (ref : Option (List Nat)) (delta : List Int) : List Int :=
  let r := key / 2 ^ 24
  let t := s.calTemp r
  let lam := s.calLoad r
  addEntries (addEntries (set.value (key % 256) t lam) (s.driftOf key ref t lam)) delta

/-- The value in force of a section (R321). -/
def State.inForce (s : State) (key : Nat) : List Int :=
  let x := s.section_ key
  s.valueWith key x.set x.ref x.delta

/-! ### Bring-in (R322, R323, R327) -/

/-- Any bring-in is in progress. -/
def State.slewActive (s : State) : Bool := s.cal.sections.any (fun e => e.2.any CalSection.busy)

/-- A bring-in of a section starts with a new stored set, a new drift, or both; it counts, and takes effect in full at once while the
device builds no pixels. -/
def bringIn (key : Nat) (set : Option CalSet) (ref : Option (List Nat)) (s : State) : State :=
  let x := s.section_ key
  let (n, _) := s.calCount key
  let s1 := { s with cal := { s.cal with counts := put (fun _ => (0, 0)) s.cal.counts key (satAdd 0xFFFFFFFF n 1, s.mgmt.chip.hours) } }
  if s.shooting then
    setSection key { x with next := set <|> x.next, nextRef := ref <|> x.nextRef, nNext := (s.reg CAL_SLEW).toNat % 1024 } s1
  else setSection key { set := set.getD x.set, ref := ref <|> x.ref } s1

/-- A bring-in of the section waits for a frame boundary. -/
def CalSection.waits (x : CalSection) : Bool := x.next.isSome || x.nextRef.isSome

/-- The stored set of a block's reference cell has changed, and with it the drift of each cell with one in force: a bring-in of these cells'
bin centres starts too (R321, R322); that of a cell whose own set has changed with it, as `own` says, has started already (R327). -/
def bringDrift (region block : Nat) (own : Nat → Bool) (s : State) : State :=
  forUp (fun i t =>
    let key := calKey region block i 1
    let x := t.section_ key
    if (x.ref.isSome || x.nextRef.isSome) && !own i then bringIn key (some (x.next.getD x.set)) none t else t) 0 16 s

/-- A frame boundary for one section: a waiting set takes effect, or the slew in progress takes its next step. -/
def slewStep (key : Nat) (s : State) : State :=
  let x := s.section_ key
  if x.waits then setSection key { set := x.next.getD x.set, ref := x.nextRef <|> x.ref, k := 0, n := x.nNext } s
  else if x.k < x.n then setSection key { x with k := x.k + 1 } s
  else s

/-- The slew offset of a section that takes effect: the value in force before the boundary, less the new value, both with the reference
sets of their side of it (R322, R323). -/
def slewOffset (before : State) (key : Nat) (s : State) : State :=
  if (before.section_ key).waits then
    let x := s.section_ key
    setSection key { x with delta0 := addEntries (before.inForce key) ((s.valueWith key x.set x.ref []).map (fun v => -v)) } s
  else s

/-- A frame boundary while pixels are built. -/
def slewFrame (s : State) : State :=
  let s1 := s.cal.sections.foldl (fun t e => slewStep e.1 t) s
  s.cal.sections.foldl (fun t e => slewOffset s e.1 t) s1

/-! ### Calibration tables of a Cut (R312, R314) -/

/-- Cut `n` points of `p` words off a list. -/
def takePoints (p : Nat) : Nat → List Word → List (List Word)
  | 0, _ => []
  | n + 1, ws => ws.take p :: takePoints p n (ws.drop p)

/-- The sections of a calibration table, each with its kind; `n` bounds them. -/
def parseSections : Nat → List Word → List (Nat × CalSet)
  | 0, _ => []
  | _, [] => []
  | n + 1, w :: ws =>
    let kind := w.toNat % 256
    let nt := w.toNat / 256 % 16
    let load := w.getLsbD 12
    let np := if load then 2 * nt else nt
    let p := pointWords kind
    (kind, { keys := ((halves (ws.take 4)).take nt).map (sext 16), load := load, points := takePoints p np (ws.drop 4) })
      :: parseSections n (ws.drop (4 + np * p))

/-- Whose calibration tables are installed: those of the frames that a Cut carried itself, or, with none, all of a plane's, where the
domain has come from its power-on with the tables of the factory store (R312). -/
abbrev Carried := Option (List (Nat × Nat))

/-- The sections that are installed at one address. -/
def carriedSections (pl : Option Plane) (cd : Carried) (region block cell : Nat) : List (Nat × CalSet) :=
  let a := region * 2 ^ 24 + block * 2 ^ 16 + cell * 2 ^ 8
  if cd.all (fun l => l.contains (a, 0x0703)) then parseSections 8 (tableOf pl a 0x0703) else []

/-- A target that applies a plane installs the sections its tables carry at one address (R312, R322). -/
def installAt (pl : Option Plane) (cd : Carried) (region block cell : Nat) (s : State) : State :=
  let l := carriedSections pl cd region block cell
  let s1 := l.foldl (fun t e => bringIn (calKey region block cell e.1) (some e.2) none t) s
  if cell = 16 ∧ l.any (fun e => e.1 = 1) then
    bringDrift region block (fun i => (carriedSections pl cd region block i).any (fun e => e.1 = 1)) s1
  else s1

/-- The sections of a receive block: cells 0 to 16, the ambient converter, and the block's own. -/
def installBlock (pl : Option Plane) (cd : Carried) (k : Nat) (s : State) : State :=
  let r := 8 + k / 8
  installAt pl cd r (k % 8) 0xFF (installAt pl cd r (k % 8) 0x20 (forUp (installAt pl cd r (k % 8)) 0 17 s))

/-- The sections of SC: axes and sensor converters; and of HK. -/
def installSc (pl : Option Plane) (cd : Carried) (s : State) : State := forUp (installAt pl cd 3 0) 0x20 4 (forUp (installAt pl cd 3 0) 0 8 s)
def installHk (pl : Option Plane) (cd : Carried) (s : State) : State := forUp (installAt pl cd 1 0xFF) 0x20 2 s

/-! ### The start of a foreground run (R324 to R326) -/

/-- The block leaves service once no pixel from before its boundary is still open (R325). -/
def fgLeft (k : Nat) (s : State) : State :=
  let b := s.blk k
  let old := fun p : Pixel => p.inProgress && p.flags &&& 0x40 = 0
  if b.fgLeave && !b.bufX.any old && !b.bufY.any old then fgBegin k s else s

/-! ### Trims (R317) -/

/-- Converter `k`'s address as region, block and cell (R227). -/
def adcCell (k : Nat) : Nat × Nat × Nat :=
  if k < 48 then (8 + k / 8, k % 8, 0x20) else if k < 52 then (3, 0, 0x20 + (k - 48)) else (1, 0xFF, 0x20 + (k - 52))

/-- A raw code of converter `k` at gain code `g`, trimmed (R317); `n` is the resolution. -/
def State.trim (s : State) (k g n raw : Nat) : Nat :=
  let (r, b, c) := adcCell k
  let v := s.inForce (calKey r b c 6)
  (clampI 0 ((2 : Int) ^ n - 1) (((16 * (raw : Int) - nth 0 v (2 * g)) * nth 0 v (2 * g + 1) + 2 ^ 25) / 2 ^ 26)).toNat

end Sys2Proof.Machine
end

