-- ==== Sys2Proof/Machine/FrontEnd.lean ====
section
/-!
DEFINITION. The return channel front end (chapter 03): the ambient reading and the threshold law, blanking, and the
connection check.
-/
namespace Sys2Proof.Machine

/-- Frame address of a region-common frame. -/
def regionCommon (r : Nat) : Nat := r * 0x1000000 + 0xFFFF00

/-! ### The shot table and the shot–channel matrix (R151, R152, R54, R156) -/

/-- The shot table of a plane. -/
def shotTable (pl : Option Plane) : List Word := tableOf pl (regionCommon 4) 0x0103

/-- A word of a table as a number. -/
def tw (t : List Word) (i : Nat) : Nat := (nth 0 t i).toNat

/-- The number of sequences. -/
def seqCount (t : List Word) : Nat := tw t 0 % 128

/-- The sequence to which head port `k` is bound, or none (R151). -/
def binding (t : List Word) (k : Nat) : Option Nat :=
  if t = [] then none
  else
    let b := tw t (1 + k / 4) / 2 ^ (8 * (k % 4)) % 256
    if b < seqCount t then some b else none

/-- Fine delay and width code of an emitter (R151). -/
def emitterDelay (t : List Word) (e : Nat) : Nat := tw t (16 + e) % 1024
def emitterWidth (t : List Word) (e : Nat) : Nat := tw t (16 + e) / 2 ^ 16 % 512

/-- The fields of a sequence (R152). -/
def seqWord (t : List Word) (q i : Nat) : Nat := tw t (80 + 40 * q + i)
def seqOffset (t : List Word) (q : Nat) : Nat := seqWord t q 0 % 2 ^ 26
def seqPeriod (t : List Word) (q : Nat) : Nat := seqWord t q 1 % 2 ^ 15
def seqShots (t : List Word) (q : Nat) : Nat := seqWord t q 2 % 2 ^ 11
def seqPatternLen (t : List Word) (q : Nat) : Nat := seqWord t q 2 / 2 ^ 16 % 32
def seqPixels (t : List Word) (q : Nat) : Nat := seqWord t q 3 % 2 ^ 24
def seqBase (t : List Word) (q : Nat) : Nat := seqWord t q 4 % 2 ^ 24
def seqCodeEn (t : List Word) (q : Nat) : Bool := (seqWord t q 5).testBit 0
def seqListenEn (t : List Word) (q : Nat) : Bool := (seqWord t q 5).testBit 1
def seqPattern (t : List Word) (q j : Nat) : Nat := seqWord t q (8 + 2 * j) + seqWord t q (9 + 2 * j) * 2 ^ 32

/-- Channel `c` listens to emitter `e` (R54). -/
def listens (pl : Option Plane) (e c : Nat) : Bool :=
  (tw (tableOf pl (regionCommon 4) 0x0203) (24 * e + c / 32)).testBit (c % 32)

/-- The fire that gives channel `c` its start in a slot: that of the lowest-numbered emitter the channel listens to (R156). -/
def startFire (pl : Option Plane) (c : Nat) (fires : List Fire) : Option Fire :=
  fires.find? (fun f => listens pl f.emitter c)

/-- A start in units of R115 (R116), on a standby with the pair's skew (R452). -/
def Fire.units (f : Fire) : Nat := ((f.ns * 2048 + 16 * f.q : Nat) + f.lag).toNat

/-! ### Which cells run (R51, R102) -/

/-- The front end of channel `c` runs: its cell is enabled and not the idle half of a split pair, its block's domain is good, its
region is not fenced, and the mode is one in which front ends run (R101, R102). -/
def State.frontEndOn (s : State) (c : Nat) : Bool :=
  let pl := s.planeOf (tgtRx (c / 16))
  rxCellOn pl c && !(rxPairing pl c = 2 && c % 2 = 1) && !s.fenced (8 + c / 128) && s.domGood (c / 16)
    && (s.mode = .configured || s.mode = .armed || s.mode = .run || s.mode = .service)

/-- The plane of a pixel of sequence `q` with shot time `b`: that of a swap in progress, or of one whose instant is still to come, where its
instant lies at or before `b` (R28, R29). -/
def State.pixelPlane (s : State) (q b : Nat) : Option Plane :=
  if s.cut.waiting.contains (tgtSeq q) then (if s.cut.swapI ≤ b then s.cut.live else s.cut.old)
  else match s.cut.swapAt with
    | some (.atTime i) => if i ≤ b then (if s.cut.romNext then some romPlane else s.cut.staged) else s.cut.live
    | _ => s.cut.live

/-- The first pixel of sequence `q` under table `t`, in the frame with the edge `e`, whose shot time is at or after `b`. -/
def pixelFrom (t : List Word) (q e b : Nat) : Nat :=
  let d := max 1 (seqShots t q * seqPeriod t q)
  (b - (e + seqOffset t q) + d - 1) / d

/-- The shot time of the next pixel that sequence `q` has still to begin in the frame in progress, and the plane of that pixel; none where
it has begun them all (R28, R29). -/
def State.nextBoundary (s : State) (q : Nat) : Option (Nat × Option Plane) :=
  let x := s.seq q
  let t := shotTable x.plane
  let m := (x.n + seqShots t q - 1) / max 1 (seqShots t q)
  let b := x.edge + seqOffset t q + m * (seqShots t q * seqPeriod t q)
  if !x.placing || seqPixels t q ≤ m then none
  else
    let pl := s.pixelPlane q b
    let u := shotTable pl
    if u = t then some (b, pl)
    else
      let j := pixelFrom u q x.edge b
      if j < seqPixels u q then some (x.edge + seqOffset u q + j * (seqShots u q * seqPeriod u q), pl) else none

/-- Does a sequence have a boundary to come? -/
def State.seqScheduled (s : State) (q : Nat) : Bool := (s.nextBoundary q).isSome

/-- The block has a pixel boundary scheduled (R29): the device shoots, and a boundary has been announced to the block, or a sequence has
a pixel to begin whose plane binds the block to it. -/
def State.scheduled (s : State) (k : Nat) : Bool :=
  s.shooting && ((s.blk k).opens ≠ []
    || s.tx.seqs.any (fun e => (s.nextBoundary e.1).any (fun p => decide (binding (shotTable p.2) k = some e.1))))

/-! ### Ambient code and thresholds (R85 to R88) -/

/-- The largest k below 2^n, from `k` on, with 2^k × b ≤ a, bit by bit. -/
def log2Bits (a b : Nat) : Nat → Nat → Nat
  | 0, k => k
  | n + 1, k => if 2 ^ (k + 2 ^ n) * b ≤ a then log2Bits a b n (k + 2 ^ n) else log2Bits a b n k

/-- round(2048 × log2 x) for x = num / den ≥ 1, by comparing x^4096 with powers of two. -/
def log2Scaled (num den : Nat) : Nat := (log2Bits (num ^ 4096) (den ^ 4096) 18 0 + 1) / 2

/-- The ambient code of an average in 1/65,536 LSB of 200 µA ÷ 65,536 (R83, R85). -/
def ambCode (avg : Nat) : Nat :=
  let num := avg * 20000000
  let den := 2 ^ 32
  if num < den then 0 else min 65535 (log2Scaled num den)

/-- The law of R86 in half millivolts: √(floor² + slope² × i / 1 µA), with low_ofs in 0.1 mV added before the rounding (R317), between
0 and 511.5 mV. -/
def thrLaw (floor slope avg : Nat) (ofs : Int) : Nat :=
  let tenRoot : Int := isqrt (100 * (floor * floor * 2 ^ 32 + slope * slope * avg * 200) / 2 ^ 32)
  (clampI 0 1023 ((tenRoot + 2 * ofs + 5) / 10)).toNat

/-- The offsets of a cell in 0.1 mV: low_ofs and high_ofs (R315, R317). -/
def State.thrOffsets (s : State) (c : Nat) : Int × Int :=
  let v := s.inForce (calKey (8 + c / 128) (c / 16 % 8) (c % 16) 5)
  (nth 0 v 1, nth 0 v 2)

/-- The baseline target of a cell's restorer in 0.01 mV, from a zero baseline: blr_ofs is added to it (R82, R315, R317). No register shows it. -/
def State.baseline (s : State) (c : Nat) : Int := nth 0 (s.inForce (calKey (8 + c / 128) (c / 16 % 8) (c % 16) 5)) 0

/-- thr_low of channel `c` under its parameters and average (R86, R98). -/
def State.thrLow (s : State) (pl : Option Plane) (c : Nat) : Nat :=
  let x := s.cell c
  let fl := s.fget (RX_CELL_THR c) RX_CELL_THR.thr_floor
  if x.ambOver then 1023
  else thrLaw fl (if cutF pl (RX_CELL_CTRL c) RX_CELL_CTRL.thr_mode = 1 then 0 else s.fget (RX_CELL_THR c) RX_CELL_THR.thr_slope) x.ambAvg (s.thrOffsets c).1

/-- thr_high in 1/160 of half a millivolt: min(800 mV, thr_low × high_ratio + high_ofs), ratios below 1 acting as 1 (R87, R317). -/
def State.thrHigh (s : State) (c low : Nat) : Nat :=
  (clampI 0 256000 (10 * (low * max 0x10 (s.fget (RX_CELL_THR c) RX_CELL_THR.high_ratio) : Nat) + 32 * (s.thrOffsets c).2)).toNat

/-- Thresholds and ambient code take effect: at a pixel boundary, or at once where the block has none scheduled (R88). A masked
cell holds its threshold (R97). -/
def applyThreshold (pl : Option Plane) (c : Nat) (s : State) : State :=
  if s.masked c then s
  else
    let low := s.thrLow pl c
    let s1 := fsets (RX_CELL_STATUS c) [(RX_CELL_STATUS.thr_now, low), (RX_CELL_STATUS.amb_code, ambCode (s.cell c).ambAvg)] s
    setCell c { s1.cell c with thrHigh := s1.thrHigh c low } s1

/-- The same, where no boundary is scheduled. -/
def applyThresholdNow (c : Nat) (s : State) : State :=
  if s.scheduled (c / 16) then s else applyThreshold (s.planeOf (tgtRx (c / 16))) c s

/-- A reading commits and updates the exponential average over 2^n readings (R84, R85). -/
def commitReading (pl : Option Plane) (c raw at_ : Nat) (s : State) : State :=
  let x := s.cell c
  let n := cutF pl (RX_CELL_CTRL c) RX_CELL_CTRL.amb_avg
  let target : Int := (raw : Int) * 65536
  let avg : Int := if x.committed.isNone then target else (x.ambAvg : Int) + (target - (x.ambAvg : Int)) / (2 : Int) ^ n
  applyThresholdNow c (setCell c { x with committed := some raw, committedAt := at_, ambAvg := avg.toNat } s)

/-- Queue an out-of-turn check window of a cell; windows run in cell order (R98). -/
def queueCheck (k c : Nat) (s : State) : State :=
  let b := s.blk k
  if b.outOfTurn.contains c then s else setBlk k { b with outOfTurn := insertNat c b.outOfTurn } s

/-- An ambient reading of channel `c` (R83, R84, R98, R99): discarded where its sampling overlaps an effective blanking interval;
out of range at 0xFFC0 and above. A cell that a check has cleared, or masked, keeps its state, and no further window is queued for it, nor for
one whose out-of-turn window runs. -/
def ambientReading (c raw : Nat) (blanked : Bool) (s : State) : State :=
  let k := c / 16
  let pl := s.planeOf (tgtRx k)
  let x := s.cell c
  if blanked then s
  else if raw < 0xFFC0 then
    let s1 := setCell c { x with lastReading := some (raw, s.now), ambOver := false } s
    match x.lastReading with
    | some (r, t) => commitReading pl c r t s1
    | none => applyThresholdNow c s1
  else
    let s1 := setCell c { x with lastReading := none } s
    let s2 := flagIf x.lastReading.isSome (RX_CELL_FLAGS c) RX_CELL_FLAGS.conv_invalid s1
    let s3 := flag (RX_CELL_FLAGS c) RX_CELL_FLAGS.open_suspect s2
    if x.ambOver || s.masked c then s3
    else
      let s4 := fset (RX_CELL_STATUS c) RX_CELL_STATUS.state 1 s3
      let y := s4.cell c
      let s5 := setCell c { y with suspectFrom := some (y.suspectFrom.getD y.committedAt) } s4
      if (s5.blk k).outNow = some (c % 16) then s5 else queueCheck k (c % 16) s5

/-! ### Blanking (R89 to R91) -/

/-- D and T of a block in ns (R90, R109). -/
def blankD (pl : Option Plane) (k : Nat) : Nat := max 0x14 (cutF pl (RX_BLK_EXTBLANK k) RX_BLK_EXTBLANK.blank_delay) * 16
def blankT (pl : Option Plane) (k : Nat) : Nat := cutF pl (RX_BLK_EXTBLANK k) RX_BLK_EXTBLANK.blank_tail * 16

/-- The block obeys BLANK_N (R90). -/
def State.obeysBlank (s : State) (k : Nat) : Bool :=
  cutF (s.planeOf (tgtRx k)) (RX_BLK_EXTBLANK k) RX_BLK_EXTBLANK.ext_en = 1

/-- The external intervals of a block as they are known: the beginning, and the end once BLANK_N's rise is known, in ns (R90). -/
def State.extIntervals (s : State) (k : Nat) : List (Nat × Option Nat) :=
  let pl := s.planeOf (tgtRx k)
  (s.blk k).blanks.map (fun e => (e.1 + blankD pl k, e.2.map (· + blankD pl k + blankT pl k)))

/-- Does an external interval hold at time `t` (units of R115)? -/
def State.inExternal (s : State) (k t : Nat) : Bool :=
  (s.extIntervals k).any (fun e => decide (e.1 * 2048 ≤ t) && (match e.2 with | some z => decide (t < z * 2048) | none => true))

/-- Does an external interval overlap the window from `a` to `z` (units)? -/
def State.extOverlaps (s : State) (k a z : Nat) : Bool :=
  (s.extIntervals k).any (fun e => decide (e.1 * 2048 < z) && (match e.2 with | some y => decide (a < y * 2048) | none => true))

/-- A shot with the window from `a` to `z` is blanked by what its block knew when it was posted: a low whose onset was known, and which was
none shorter than 10 ns, overlaps the window, an unknown end counting as later than any window (R90). -/
def State.extBlanked (s : State) (k a z : Nat) (known : List (Nat × Option Nat)) : Bool :=
  let d := blankD (s.planeOf (tgtRx k)) k
  let t := blankT (s.planeOf (tgtRx k)) k
  known.any (fun e => (s.blk k).blanks.any (fun b => b.1 = e.1) && decide ((e.1 + d) * 2048 < z)
    && (match e.2 with | some r => decide (a < (r + d + t) * 2048) | none => true))

/-- An external interval whose onset is not among those known holds before the window's end `z` (R90). -/
def State.extPartial (s : State) (k z : Nat) (known : List (Nat × Option Nat)) : Bool :=
  (s.blk k).blanks.any (fun e => !known.any (fun o => o.1 = e.1) && decide ((e.1 + blankD (s.planeOf (tgtRx k)) k) * 2048 < z))

/-- How much of the time from `a` to `z`, in ns, external intervals take up. -/
def State.extTime (s : State) (k a z : Nat) : Nat :=
  if s.obeysBlank k then
    ((s.extIntervals k).foldl (fun (p : Nat × Nat) e =>
      let lo := max p.1 e.1
      let hi := min z (e.2.getD z)
      (max p.1 hi, p.2 + (hi - lo))) (a, 0)).2
  else 0

/-- The crosstalk mask of a block (R103). -/
def xtMask (pl : Option Plane) (k : Nat) : Nat :=
  (cutReg pl (RX_BLK_XT_LO k)).toNat + (cutReg pl (RX_BLK_XT_HI k)).toNat * 2 ^ 32

/-- Time `t` lies in the self window of a slot's own start, or in a crosstalk window of another fire (R89). -/
def slotSuppresses (pl : Option Plane) (k c t : Nat) (sl : Slot) : Bool :=
  let own := if sl.own then startFire pl c sl.fires else none
  let pre := cutF pl (RX_BLK_WIN k) RX_BLK_WIN.self_pre * 2048
  let post := cutF pl (RX_BLK_WIN k) RX_BLK_WIN.self_post * 2048
  let xpre := cutF pl (RX_BLK_WIN k) RX_BLK_WIN.xt_pre * 2048
  let xpost := cutF pl (RX_BLK_WIN k) RX_BLK_WIN.xt_post * 2048
  sl.fires.any (fun f =>
    !f.dead && !f.suppressed &&
    (if own = some f then f.units ≤ t + pre && t ≤ f.units + post
     else (xtMask pl k).testBit f.emitter && f.units ≤ t + xpre && t ≤ f.units + xpost))

/-- A crosstalk window overlaps the window from `a` to `z` of channel `c`'s own shot `own` (R89). -/
def slotCrosses (pl : Option Plane) (k a z : Nat) (own : Option Fire) (sl : Slot) : Bool :=
  let xpre := cutF pl (RX_BLK_WIN k) RX_BLK_WIN.xt_pre * 2048
  let xpost := cutF pl (RX_BLK_WIN k) RX_BLK_WIN.xt_post * 2048
  sl.fires.any (fun f => !f.dead && !f.suppressed && own ≠ some f && (xtMask pl k).testBit f.emitter
    && f.units < z + xpre && a ≤ f.units + xpost)

/-- A stop of channel `c` at time `t` is suppressed by a self, crosstalk or external interval (R89, R90). -/
def State.suppressed (s : State) (c t : Nat) : Bool :=
  let k := c / 16
  let pl := s.planeOf (tgtRx k)
  (s.obeysBlank k && s.inExternal k t) || (s.blk k).slots.any (slotSuppresses pl k c t)

/-- A stop at time `t` is suppressed while a new gain settles (R81). -/
def State.gainSettles (s : State) (c t : Nat) : Bool := decide (t < (s.cell c).settleUntil * 2048)

/-- Change the intervals of every block. -/
def mapBlanks (f : Nat → List (Nat × Option Nat) → List (Nat × Option Nat)) (s : State) : State :=
  forUp (fun k t => let b := t.blk k; setBlk k { b with blanks := f k b.blanks } t) 0 48 s

/-- An end of a low that was none is forgotten, also by the slots posted in the gap (R90). -/
def mergeLow (f r : Nat) (s : State) : State :=
  let fix := fun e : Nat × Option Nat => if e = (f, some r) then (f, none) else e
  forUp (fun k t => let b := t.blk k
    setBlk k { b with blanks := b.blanks.map fix, slots := b.slots.map (fun sl => { sl with known := sl.known.map fix }) } t) 0 48 s

/-- BLANK_N falls: the onset is captured and distributed to the obeying blocks. After a high gap of less than 10 ns the low before it
goes on (R90). -/
def execBlankNFall (instant : BitVec 64) (s : State) : Out :=
  .next (match s.rx.blankLow with
    | some _ => s
    | none =>
      let i := instant.toNat
      let gap := match s.rx.blankLast with | some (f, r) => if i < r + 10 then some (f, r) else none | none => none
      match gap with
      | some (f, r) =>
        mergeLow f r { s with rx := { s.rx with blankLow := some f, blankLast := none } }
      | none =>
        mapBlanks (fun k l => if s.obeysBlank k then l ++ [(i, none)] else l) { s with rx := { s.rx with blankLow := some i } })

/-- BLANK_N rises: a low of less than 10 ns is ignored; otherwise the end is captured and distributed (R90). -/
def execBlankNRise (instant : BitVec 64) (s : State) : Out :=
  .next (match s.rx.blankLow with
    | none => s
    | some f =>
      let i := instant.toNat
      if i < f + 10 then mapBlanks (fun _ l => l.filter (fun e => e ≠ (f, none))) { s with rx := { s.rx with blankLow := none } }
      else
        mapBlanks (fun _ l => l.map (fun e => if e = (f, none) then (f, some i) else e))
          { s with rx := { s.rx with blankLow := none, blankLast := some (f, i) } })

/-- An interval has begun by `t`, and not ended by it. -/
def State.blanking (s : State) (k t : Nat) : Bool :=
  (s.extIntervals k).any (fun e => decide (e.1 ≤ t) && (match e.2 with | some z => decide (t < z) | none => true))

/-- At t_f + D the external interval begins (R90). -/
def execBlankIntervalStart (block : Fin 48) (s : State) : Out :=
  .next (if s.blanking block s.now then fset (RX_BLK_STATUS block) RX_BLK_STATUS.blank_active 1 s else s)

/-- At t_r + D + T the external interval ends (R90). The block forgets it once no slot posted before its end, or while it was not known to
end, is still to be judged, no reading sampled in it (R84), and no check window holds it (R96). -/
def execBlankIntervalEnd (block : Fin 48) (s : State) : Out :=
  .next (let pl := s.planeOf (tgtRx block)
    let b := s.blk block
    let rest := b.blanks.filter (fun e => match e.2 with
      | some r =>
        let z := r + blankD pl block + blankT pl block
        decide (s.now < z + 2000) || b.checkFrom.any (fun t => decide (t < z))
          || (b.posts ++ b.slots).any (fun sl => decide (sl.tn ≤ z) || sl.known.any (fun o => o.1 = e.1))
      | none => true)
    let s1 := setBlk block { b with blanks := rest } s
    fset (RX_BLK_STATUS block) RX_BLK_STATUS.blank_active (b2n (s1.blanking block s1.now)) s1)

/-- BLANK_N has been low longer than 2^m ms: blank_stuck sets, and blanking goes on (R91). -/
def execBlankStuck (block : Fin 48) (s : State) : Out :=
  .next (match s.rx.blankLow with
    | some f =>
      let m := cutF (s.planeOf (tgtRx block)) (RX_BLK_EXTBLANK block) RX_BLK_EXTBLANK.blank_max
      if s.obeysBlank block && f + 2 ^ m * 1000000 < s.now then flag (RX_BLK_STATUS block) RX_BLK_STATUS.blank_stuck s else s
    | none => s)

/-! ### Connection check (R95 to R100) -/

/-- The check runs on block `k` (R95). -/
def State.checkRuns (s : State) (k : Nat) : Bool :=
  let pl := s.planeOf (tgtRx k)
  blockOn pl (rxRegion k) (rxBlock k) && cutF pl (RX_BLK_TONE k) RX_BLK_TONE.tone_en = 1
    && (s.mode = .configured || s.mode = .armed || s.mode = .run)

/-- A cell that the round checks: enabled, and not the idle half of a split pair (R95). -/
def checkable (pl : Option Plane) (k i : Nat) : Bool :=
  rxCellOn pl (k * 16 + i) && !(rxPairing pl (k * 16 + i) = 2 && i % 2 = 1)

/-- The next cell in cell order after `i` that is checked, within `n` steps. -/
def nextCheck (pl : Option Plane) (k : Nat) : Nat → Nat → Nat
  | i, 0 => i
  | i, n + 1 => let j := (i + 1) % 16; if checkable pl k j then j else nextCheck pl k j n

/-- The cell of the round in its window: the round's place, moved on past a cell that is not checked (R95). -/
def roundCell (pl : Option Plane) (k i : Nat) : Nat := if checkable pl k i then i else nextCheck pl k i 16

/-- The cell whose window runs. -/
def State.checkedCell (s : State) (k : Nat) : Nat := (s.blk k).outNow.getD (roundCell (s.planeOf (tgtRx k)) k (s.blk k).checkCell)

/-- The check slots that a window of a cell of block `k` asked for end with it. -/
def dropChecks (k : Nat) (s : State) : State :=
  if s.tx.checks.any (fun e => e.channel / 16 = k) then
    { s with tx := { s.tx with checks := s.tx.checks.filter (fun e => e.channel / 16 ≠ k) } }
  else s

/-- The next window: an out-of-turn request first, else the next cell of the round (R95, R98). `checkCell` keeps the round's place
while an out-of-turn window runs. -/
def nextWindow (k : Nat) (s : State) : State :=
  let b := s.blk k
  let pl := s.planeOf (tgtRx k)
  let b1 := { b with checkFrom := some s.now, busy := b.busy.filter (fun r => decide (s.now < r.2)) }
  let place := if b.outNow.isSome then b.checkCell else nextCheck pl k (roundCell pl k b.checkCell) 16
  dropChecks k (match b.outOfTurn with
    | c :: rest => setBlk k { b1 with outNow := some c, outOfTurn := rest, checkCell := place } s
    | [] => setBlk k { b1 with outNow := none, checkCell := place } s)

/-- The check of block `k` starts or stops with the conditions of R95; it starts with cell 0. -/
def noteCheck (k stamp : Nat) (s : State) : State :=
  let b := s.blk k
  if s.checkRuns k then
    if b.checkFrom.isSome then s
    else setBlk k { b with checkFrom := some stamp, busy := [], checkCell := 0, outNow := none } s
  else if b.checkFrom.isSome then setBlk k { b with checkFrom := none, outNow := none } s
  else s

/-- An OPEN or SHORT result masks the cell (R97); where the window was the one that a re-arm asked for, the cell stays masked and says so
(R100). -/
def checkFailed (c : Nat) (settles : Bool) (f : Fld) (s : State) : State :=
  let x := s.cell c
  let s1 := flag (RX_CELL_FLAGS c) f s
  let s2 := flagIf (x.rearmAsked && settles) (RX_CELL_FLAGS c) RX_CELL_FLAGS.unmask_failed s1
  maskCell c (setCell c { s2.cell c with rearmAsked := x.rearmAsked && !settles, unmaskNext := false, suspectFrom := none, ambOver := false } s2)

/-- A PASS: a suspect cell is at its limit from light (R98); a masked cell whose re-arm was asked for returns to service at its next
pixel boundary, at once where none is scheduled (R14, R100), unless a failed foreground run still holds it (R134). -/
def checkPassed (c : Nat) (s : State) : State :=
  let x := s.cell c
  let st := s.fget (RX_CELL_STATUS c) RX_CELL_STATUS.state
  if st = 1 then
    let s1 := flag (RX_CELL_FLAGS c) RX_CELL_FLAGS.amb_over s
    let s2 := fset (RX_CELL_STATUS c) RX_CELL_STATUS.state 0 s1
    applyThresholdNow c (setCell c { s2.cell c with ambOver := true, suspectFrom := none } s2)
  else if x.rearmAsked then
    if x.needsForeground then
      setCell c { (flag (RX_CELL_FLAGS c) RX_CELL_FLAGS.unmask_failed s).cell c with rearmAsked := false }
        (flag (RX_CELL_FLAGS c) RX_CELL_FLAGS.unmask_failed s)
    else if s.scheduled (c / 16) then setCell c { x with rearmAsked := false, unmaskNext := true } s
    else applyThresholdNow c (fset (RX_CELL_STATUS c) RX_CELL_STATUS.state 0 (setCell c { x with rearmAsked := false } s))
  else s

/-- The time from `a` to `z`, in ns, outside the runs of slots, oldest first, and outside external intervals (R96). -/
def State.quietTime (s : State) (k : Nat) : Nat → List (Nat × Nat) → Nat → Nat
  | a, [], z => (z - a) - s.extTime k a z
  | a, (u, v) :: l, z => ((min u z - a) - s.extTime k a (min u z)) + s.quietTime k (max a v) l z

/-- The silent time of the window that began at `t`: all of it but the slots with a start for the cell and blanking intervals (R96). -/
def State.silentTime (s : State) (k t : Nat) : Nat := s.quietTime k t (s.blk k).busy.reverse s.now

/-- The window of block `k` in progress began 1.25 ms ago and has had its 16 µs of silent time, and a cell is in it (R95, R96). -/
def State.windowOver (s : State) (k : Nat) : Bool :=
  s.checkRuns k && (s.blk k).checkFrom.any (fun t => decide (t + 1250000 ≤ s.now) && decide (16000 ≤ s.silentTime k t))
    && checkable (s.planeOf (tgtRx k)) k (s.checkedCell k)

/-- A connection-check window ends: the measured capacitance is classified as OPEN, PASS or SHORT (R97). It settles what waits for an
out-of-turn window of its cell unless that window is still to come (R98, R100). -/
def execCheckWindowEnd (block : Fin 48) (cap : BitVec 12) (s : State) : Out :=
  .next (if s.windowOver block then
    let pl := s.planeOf (tgtRx block)
    let i := s.checkedCell block
    let c := block * 16 + i
    let settles := !(s.blk block).outOfTurn.contains i
    let v := cap.toNat
    let lo := cutF pl (RX_BLK_TONE block) RX_BLK_TONE.cap_open
    let hi := cutF pl (RX_BLK_TONE block) RX_BLK_TONE.cap_short
    let s2 := fsets (RX_CELL_TONE c) [(RX_CELL_TONE.cap, v), (RX_CELL_TONE.result, if v < lo then 2 else if v ≤ hi then 1 else 3)] s
    let s3 := if v < lo then checkFailed c settles RX_CELL_FLAGS.open_ s2
              else if v ≤ hi then (if settles then checkPassed c s2 else s2) else checkFailed c settles RX_CELL_FLAGS.short s2
    nextWindow block s3
  else s)

/-- 1.0 ms of a window has passed with less than 16 µs of silent time: the scheduler is asked to make enough of the cell's shot slots in the
final 0.25 ms of the window silent check slots (R96). Where blanking has lengthened the window, each further 0.25 ms is such a time again. -/
def execCheckSlotInsert (block : Fin 48) (s : State) : Out :=
  .next (let b := s.blk block
    match b.checkFrom with
    | none => s
    | some t =>
      let c := block * 16 + s.checkedCell block
      let silent := s.silentTime block t
      let from_ := t + 1000000 + (s.now - (t + 1000000)) / 250000 * 250000
      if s.checkRuns block && t + 1000000 ≤ s.now && silent < 16000 && s.shooting && !s.tx.checks.any (fun e => e.channel = c && decide (s.now < e.stop)) then
        match binding (shotTable (s.planeOf (tgtRx block))) block with
        | some q =>
          let p := max 1 (seqPeriod (shotTable (s.planeOf (tgtRx block))) q)
          { s with tx := { s.tx with checks := s.tx.checks.filter (fun e => e.channel ≠ c) ++
              [{ channel := c, need := (16000 - silent + p - 1) / p, start := from_, stop := from_ + 250000 }] } }
        | none => s
      else s)

/-- A masked cell is asked back into service: it takes an out-of-turn window (R100). -/
def cellRearm (c : Nat) (s : State) : State :=
  if s.masked c then queueCheck (c / 16) (c % 16) (setCell c { s.cell c with rearmAsked := true } s) else s

/-- `RX_CELL_CMD`.rearm (R100, R108). -/
def execCellRearm (q : Requester) (cell : Fin 768) (s : State) : Out := .next (hostWrite q (RX_CELL_CMD cell) (cellRearm cell) s)

/-- `RX_CELL_CMD`.check_now queues an out-of-turn window (R108). -/
def checkNow (c : Nat) (s : State) : State :=
  if checkable (s.planeOf (tgtRx (c / 16))) (c / 16) (c % 16) then queueCheck (c / 16) (c % 16) s else s

def execCheckNow (q : Requester) (cell : Fin 768) (s : State) : Out := .next (hostWrite q (RX_CELL_CMD cell) (checkNow cell) s)

/-- A write of `RX_CELL_CMD`. -/
def cellCommand (c : Nat) (w : Word) (s : State) : State :=
  let s1 := if w.getLsbD 0 then cellRearm c s else s
  if w.getLsbD 1 then checkNow c s1 else s1

end Sys2Proof.Machine
end

