-- ==== Sys2Proof/Machine/Girdle.lean ====
section
/-!
DEFINITION. Girdle timing (chapter 04): capture of an edge, posting and opening of shots, attribution and pairing of edges,
correction, and the judgement of each shot (R89).
-/
namespace Sys2Proof.Machine

/-! ### Pixel classes and windows (R177 to R181, R191) -/

/-- The pixel class table of an RX region under a plane; without one every class has k = 2 and reach = 1,024 (R178). -/
def classTable (pl : Option Plane) (r : Nat) : List Word := tableOf pl (regionCommon r) 0x0403

/-- Words of class `j`: k, track, miss_limit, target, deadband, o0, reach, gate_conf (R177). -/
def clsWord (t : List Word) (j i : Nat) : Nat := if t = [] then (if i = 0 then 2 else if i = 2 then 1024 else 0) else tw t (4 * j + i)
def clsK (t : List Word) (j : Nat) : Nat := clsWord t j 0 % 8
def clsTrack (t : List Word) (j : Nat) : Bool := (clsWord t j 0).testBit 3
def clsMissLimit (t : List Word) (j : Nat) : Nat := max 1 (clsWord t j 0 / 16 % 16)
def clsTarget (t : List Word) (j : Nat) : Nat := clsWord t j 0 / 256 % 256
def clsDeadband (t : List Word) (j : Nat) : Nat := clsWord t j 0 / 65536 % 256
def clsO0 (t : List Word) (j : Nat) : Nat := clsWord t j 1 % 2 ^ 18
def clsReach (t : List Word) (j : Nat) : Nat := clsWord t j 2 % 2 ^ 18
def clsGateConf (t : List Word) (j : Nat) : Nat := clsWord t j 3 % 256

/-- The class of pixel `m` of a block (R179). -/
def classOf (t : List Word) (b m : Nat) : Nat :=
  if t = [] then 0
  else if m < tw t (33 + 2 * b) % 2 ^ 24 then tw t (32 + 2 * b) % 8 else tw t (32 + 2 * b) / 16 % 8

/-- The gate word of a cell: first entry and enable (R177). -/
def gateBase (t : List Word) (b c : Nat) : Nat := tw t (48 + 16 * b + c) % 2 ^ 17
def gateEn (t : List Word) (b c : Nat) : Bool := (tw t (48 + 16 * b + c)).testBit 31

/-- The number of bins of a channel: 512 for a split channel, else 256 (R180). -/
def nBins (pl : Option Plane) (c : Nat) : Nat := if rxPairing pl c = 2 then 512 else 256

/-- The longest listening window of a plane, in ns rounded up: the largest reach of a class that a bound block selects (R181). A
class that the split of R179 leaves no pixel is not selected. -/
def longestWindow (pl : Option Plane) : Nat :=
  let st := shotTable pl
  (List.range 48).foldl (fun w k =>
    match binding st k with
    | none => w
    | some q =>
      let t := classTable pl (rxRegion k)
      let b := rxBlock k
      let n := seqPixels st q
      let split := if t = [] then 0 else tw t (33 + 2 * b) % 2 ^ 24
      let ra := if t ≠ [] ∧ 0 < split ∧ 0 < n then clsReach t (tw t (32 + 2 * b) % 8) else 0
      let rb := if t = [] then clsReach t 0 else if split < n then clsReach t (tw t (32 + 2 * b) / 16 % 8) else 0
      max w ((max ra rb + 7) / 8)) 0

/-! ### Pixels of a block -/

/-- The pixel of a block with a frame and number. -/
def RxBlk.pixel (b : RxBlk) (frame m : Nat) : Option Pixel :=
  match b.bufX with
  | some p => if p.frame = frame ∧ p.m = m then some p else (match b.bufY with
    | some q => if q.frame = frame ∧ q.m = m then some q else none
    | none => none)
  | none => match b.bufY with
    | some q => if q.frame = frame ∧ q.m = m then some q else none
    | none => none

/-- Change the pixel with a frame and number. -/
def RxBlk.mapPixel (b : RxBlk) (frame m : Nat) (f : Pixel → Pixel) : RxBlk :=
  let g := fun p : Pixel => if p.frame = frame ∧ p.m = m then f p else p
  { b with bufX := b.bufX.map g, bufY := b.bufY.map g }

/-- The cell whose slice a channel's pulses enter: cell 2k for a ganged pair (R185). -/
def sliceCell (pl : Option Plane) (c : Nat) : Nat := if rxPairing pl c = 1 then c / 2 * 2 else c

/-- A cell's part of a pixel. -/
def Pixel.cell (p : Pixel) (i : Nat) : CellPix := look (fun _ => {}) p.cells i
def Pixel.setCell (p : Pixel) (i : Nat) (x : CellPix) : Pixel := { p with cells := put (fun _ => {}) p.cells i x }

/-- The window of a channel for a pixel (R180, R185). -/
def Pixel.win (p : Pixel) (c : Nat) : CellWin := nth {} p.wins (sliceCell p.plane c % 16)

/-- Add pixel flags (bits of R219) to a cell's part of a pixel. -/
def Pixel.addFlags (p : Pixel) (i f : Nat) : Pixel := let x := p.cell i; p.setCell i { x with flags := x.flags ||| f }

/-! ### Counters (R141) -/

/-- Count one in girdle counter `n` of a cell, in the order of `GD_CELL_OVF`. -/
def gdCount (c n : Nat) (s : State) : State :=
  bumpOvf (GD_CELL_CNT0 c + 4 * (n / 2)) ⟨16 * (n % 2), 16⟩ 1 (GD_CELL_OVF c) n s

/-! ### Capture (R113, R114, R121, R35) -/

/-- The phase code: the number of ones of the thermometer word (R113); the code has 7 bits, so 128 ones read 127. -/
def phaseCode (taps : BitVec 128) : Nat := min 127 (countBelow (fun i => taps.getLsbD i) 128)

/-- The coarse count taken for a phase code (R114). -/
def coarseOf (p a b : Nat) : Nat := if p < 32 then b + 1 else if p < 96 then a else b

/-- The ideal time of an edge in units (R114, R115). -/
def Edge.units (e : Edge) : Nat := e.ns * 2048 + 16 * e.phase

/-- The capture selection of a channel (R334). -/
def State.captureSel (s : State) (c : Nat) : Bool := s.rbit (AQ_SEL (c / 32)) (c % 32)

/-- The slot number of a window's shot, modulo 65,536 (R335). -/
def Win.number (w : Win) : Nat := w.n % 65536

/-- A swap in progress disables the channel, and the edge is timed at or after its instant (R334, R362). -/
def State.swappedOut (s : State) (c : Nat) (e : Edge) : Bool :=
  s.cut.waiting.contains (tgtRx (c / 16)) && decide (s.cut.swapI ≤ e.ns)
    && !(rxCellOn s.cut.live c && !(rxPairing s.cut.live c = 2 && c % 2 = 1))

/-- Deliver an edge to AQ where its channel is selected (R127). -/
def deliverAq (c : Nat) (e : Edge) (shot attr stop : Nat) (s : State) : State :=
  if s.captureSel c && !e.dead && !s.swappedOut c e then
    let n := c / 128
    let l := look (fun _ => []) s.rx.toAq n
    let ev : AqEvent := { tLsb := e.ns * 128 + e.phase, shot := shot, attr := attr, stop := stop, pol := e.rising, channel := c }
    { s with rx := { s.rx with toAq := put (fun _ => []) s.rx.toAq n (l ++ [ev]) } }
  else s

/-- The shot that an unattributed edge names: the most recent start, or 0xFFFF (R335, R337). -/
def Cell.recentShot (x : Cell) : Nat := match x.wins with | w :: _ => w.number | [] => 0xFFFF

/-- An edge that does not reach the pairing stage still goes to AQ (R127). The manual gives no reason code for it, so its stop field is a
free value. -/
def aqOnly (c : Nat) (e : Edge) (s : State) : State :=
  if s.captureSel c && !e.dead then
    drawFree (deliverAq c e (s.cell c).recentShot 3 (s.free.toNat % 8) s)
  else s

/-- An edge enters the stop queue; a full queue drops the newest and counts it (R35). -/
def queueEdge (c : Nat) (e : Edge) (s : State) : State :=
  let x := s.cell c
  if x.queue.length < 16 then setCell c { x with queue := x.queue ++ [e] } s
  else aqOnly c e (gdCount c 5 s)

/-- A captured edge that no blanking suppresses: while a new gain settles the cell keeps it from the pairing stage (R81), though not from AQ
(R127). -/
def takeEdge (c : Nat) (e : Edge) (s : State) : State :=
  if s.masked c || s.suppressed c e.units then s
  else if s.gainSettles c e.units then aqOnly c e s
  else queueEdge c e s

/-- A discriminator edge is captured (R80, R87, R89, R97, R113, R114, R121, R334). -/
def execDiscriminatorEdge (cell : Fin 768) (taps : BitVec 128) (copyA copyB : BitVec 64) (rising high overload newPulse : Bool)
    (s : State) : Out :=
  .next (if s.frontEndOn cell && !(s.blk (cell / 16)).fgRunning then
    let s1 := if newPulse then
        bumpOvf (RX_CELL_FLAGS cell) RX_CELL_FLAGS.overload_count 1 (RX_CELL_FLAGS cell) RX_CELL_FLAGS.overload_ovf.lo s
      else s
    let p := phaseCode taps
    let e : Edge := { ns := coarseOf p copyA.toNat copyB.toNat, phase := p, rising := rising, high := high, ovl := overload || newPulse, dead := false }
    let x := s1.cell cell
    let lost := match x.lastEdge with
      | some (t, _) => t ≤ e.units && e.units < t + 3072
      | none => false
    if lost then
      if x.lostInDead then s1 else gdCount cell 2 (setCell cell { x with lostInDead := true } s1)
    else
      let s2 := setCell cell { x with lastEdge := some (e.units, rising), lostInDead := false } s1
      takeEdge cell e s2
  else s)

/-- The dead time ends: a level that differs from the polarity of the last captured edge makes a restored edge (R121). The restored
edge opens a dead time of its own. -/
def execDeadTimeEnd (cell : Fin 768) (level high overload : Bool) (s : State) : Out :=
  .next (let x := s.cell cell
    match x.lastEdge with
    | none => s
    | some (t, pol) =>
      if !s.frontEndOn cell ∨ level = pol ∨ s.now * 2048 + 2048 ≤ t + 3072 then s
      else
        let u := t + 3072
        let e : Edge := { ns := u / 2048, phase := u % 2048 / 16, rising := level, high := high, ovl := overload, dead := true }
        let s1 := setCell cell { x with lastEdge := some (u, level), lostInDead := false } s
        takeEdge cell e s1)

/-! ### Posting and opening of shots (R18, R90, R119, R125) -/

/-- The nominal instant of a slot as a start (R125, R452). -/
def Slot.units (sl : Slot) : Nat := ((sl.tn * 2048 : Nat) + sl.lag).toNat

/-- The scheduler's oldest post reaches the block, which notes what it knows of BLANK_N (R90). -/
def execStartPost (block : Fin 48) (s : State) : Out :=
  .next (let b := s.blk block
    match b.posts with
    | [] => s
    | sl :: rest =>
      setBlk block { b with posts := rest, slots := b.slots ++ [{ sl with known := if s.obeysBlank block then b.blanks else [] }] } s)

/-- The ToT limit of a channel in units (R122). -/
def totLimit (pl : Option Plane) (c : Nat) : Nat := (cutF pl (GD_CELL_CTRL c) GD_CELL_CTRL.tot_limit + 1) * 4 * 2048

/-- The end of a channel's window, in units from the start (R180). -/
def winEnd (p : Pixel) (c : Nat) : Nat := min ((p.win c).o + nBins p.plane c * 2 ^ (p.win c).kEff) (p.win c).reach * 256

/-- By what the edges of the pixel's shots are judged and corrected in channel `c` (R131). -/
def Pixel.view (p : Pixel) (c : Nat) : View :=
  { lo := (p.win c).o * 256, hi := winEnd p c, tables := nth ⟨[], 0, []⟩ p.tables (c % 16), skew := p.skew,
    walkEn := cutF p.plane (GD_CELL_CTRL c) GD_CELL_CTRL.walk_en = 1, totLimit := totLimit p.plane c,
    odd := rxPairing p.plane c = 1 && c % 2 = 1 }

/-- The same for a shot of a pixel that the block may not have opened: nothing lies inside its window. -/
def RxBlk.view (b : RxBlk) (frame m c : Nat) : View := match b.pixel frame m with | some p => p.view c | none => {}

/-- Two windows, newest first, are open at a new start's instant: the older closes there and is counted (R119). -/
def truncate (start : Nat) (ws : List Win) : List Win × Bool :=
  match (ws.filter (fun w => w.closed.isNone && decide (start < w.start + w.view.hi))).reverse with
  | w :: _ :: _ => (ws.map (fun v => if v = w then { v with closed := some start } else v), true)
  | _ => (ws, false)

/-- The windows a cell holds on to: the newest, by which late edges are named, and those whose shot is still to be judged. -/
def keepWins (ws : List Win) : List Win := ws.take 4 ++ (ws.drop 4).filter (fun w => !w.judged)

/-- A start's instant opens the window of one cell (R119, R125, R149): a masked or disabled start opens none and flags the pixel. A listen
window counts for the census where the cell is in service (R165). -/
def openWindow (k : Nat) (sl : Slot) (i : Nat) (s : State) : State :=
  let pl := s.planeOf (tgtRx k)
  let c := k * 16 + i
  if !checkable pl k i then s
  else
    let b := s.blk k
    match sl.kind with
    | .fire =>
      match startFire pl c sl.fires with
      | none => s
      | some f =>
        if f.dead then setBlk k (b.mapPixel sl.frame sl.m (fun p => p.addFlags (sliceCell pl c % 16) 0x200)) s
        else
          let x := s.cell c
          let (ws, tr) := truncate f.units x.wins
          let w : Win := { view := b.view sl.frame sl.m c, n := sl.n, m := sl.m, k := sl.k, frame := sl.frame, kind := if f.suppressed then .check else .fire,
                           start := f.units, used := 0, closed := none, first := none, judged := false }
          let s1 := setCell c { x with wins := keepWins (w :: ws) } s
          if tr then gdCount c 6 s1 else s1
    | _ =>
      let x := s.cell c
      let (ws, tr) := truncate sl.units x.wins
      let w : Win := { view := b.view sl.frame sl.m c, n := sl.n, m := sl.m, k := sl.k, frame := sl.frame, kind := .listen, start := sl.units,
                       used := 0, closed := none, first := none, judged := false }
      let s1 := setCell c { x with wins := keepWins (w :: ws) } s
      let s2 := if s1.masked c || !s1.frontEndOn c || b.fgRunning then s1 else setBlk k { s1.blk k with windows := (s1.blk k).windows + 1 } s1
      if tr then gdCount c 6 s2 else s2

/-- The slot that opens next: the earliest own slot of the block no window of which has opened, known by its absence from the cells. -/
def RxBlk.nextStart (b : RxBlk) : Option Slot := b.slots.find? (fun sl => sl.own ∧ sl.judged.testBit 16 = false)

/-- The instant of a slot's earliest start in girdle LSB: a slot that fires nothing stands at its nominal instant (R125, R157). -/
def Slot.lsb (sl : Slot) : Nat := match sl.fires with
  | [] => sl.tn * 128
  | f :: fs => fs.foldl (fun a g => min a (g.ns * 128 + g.q)) (f.ns * 128 + f.q)

/-- The same in ns. -/
def Slot.instant (sl : Slot) : Nat := sl.lsb / 128

/-- A run of slots goes on with the next, or a new run begins. -/
def addRun (a z : Nat) : List (Nat × Nat) → List (Nat × Nat)
  | (u, v) :: l => if a ≤ v then (u, max v z) :: l else (a, z) :: (u, v) :: l
  | [] => [(a, z)]

/-- A slot that is silent for the cell in its check window is a listen slot or a check slot; any other takes its period from the cell's
silent time (R96). -/
def addBusy (k : Nat) (sl : Slot) (s : State) : State :=
  let b := s.blk k
  let pl := s.planeOf (tgtRx k)
  let silent : Bool := decide (sl.kind = .listen) || (match startFire pl (k * 16 + s.checkedCell k) sl.fires with | some f => f.suppressed | none => false)
  if s.checkRuns k && !silent then setBlk k { b with busy := addRun sl.tn (sl.tn + seqPeriod (shotTable pl) sl.seq) b.busy } s else s

/-- A new start's instant comes: it opens its window in every listening cell of the block (R119). In ACTIVE and STANDBY a slot at whose
instant an EMIT_FB has read low for 1 µs will not be counted (R453). -/
def execStartInstant (block : Fin 48) (dark : Bool) (s : State) : Out :=
  .next (let b := s.blk block
    match b.nextStart with
    | none => s
    | some sl =>
      if sl.instant ≤ s.now && !s.fenced (rxRegion block) then
        let off := dark && (s.pair = .active || s.pair = .standby)
        let s1 := setBlk block { b with slots := b.slots.map (fun x => if x = sl then { x with judged := x.judged + 2 ^ 16, dark := off } else x) } s
        forUp (openWindow block sl) 0 16 (addBusy block sl s1)
      else s)

/-! ### Attribution and pairing (R120, R122) -/

/-- rel of an edge against a start: corrected time, less the start and the block skew (R128). -/
def relOf (v : View) (e : Edge) (start : Nat) : Int :=
  (e.ns * 2048 : Int) + (nth (16 * e.phase + 8) v.tables.centre e.phase : Int) - start - v.skew

/-- The edge lies inside the window (R119, R120, R180). -/
def inWin (e : Edge) (w : Win) : Bool :=
  let rel := relOf w.view e w.start
  decide ((w.view.lo : Int) ≤ rel) && decide (rel < (w.view.hi : Int)) && (match w.closed with | some t => e.units < t | none => true)

/-- The walk law (R129), with division truncating toward zero. -/
def walkOf (w : List Int) (tot : Nat) : Int :=
  let k := min (tot / 32) 254
  let fr := min (tot - 32 * k) 32
  nth 0 w k + Int.tdiv ((nth 0 w (k + 1) - nth 0 w k) * fr) 32

/-- The corrected interval and the near bit (R128). -/
def intervalOf (v : View) (e : Edge) (start tot : Nat) : Nat × Bool :=
  let rel := relOf v e start
  if rel ≤ 16 then (0, true)
  else
    let walk := if v.walkEn then walkOf v.tables.walk tot else 0
    let i := rel - v.tables.offset - walk
    if i < 0 then (0, true) else (i.toNat, false)

/-- tot of a pulse in girdle LSB, halves up, saturating (R122), from the corrected times of its edges. -/
def totOf (v : View) (r f : Edge) : Nat :=
  let d := relOf v f 0 - relOf v r 0
  min 0x1FFF ((d.toNat + 8) / 16)

/-- The fields of the edge event word (R126). -/
def Ew.interval : Fld := ⟨0, 27⟩
def Ew.odd : Fld := ⟨27, 1⟩
def Ew.shot : Fld := ⟨0, 11⟩
def Ew.pulse : Fld := ⟨11, 2⟩
def Ew.tot : Fld := ⟨13, 13⟩
def Ew.high : Fld := ⟨26, 1⟩
def Ew.overload : Fld := ⟨27, 1⟩
def Ew.near : Fld := ⟨28, 1⟩
def Ew.prev : Fld := ⟨29, 1⟩
def Ew.totOpen : Fld := ⟨30, 1⟩
def Ew.dead : Fld := ⟨31, 1⟩

/-- The edge event word of a pulse (R126). -/
def Pulse.word (p : Pulse) (frame m done : Nat) : EdgeWord :=
  { frame := frame, m := m, done := done,
    w0 := setF Ew.odd (b2n p.odd) (setF Ew.interval p.interval 0),
    w1 := setF Ew.dead (b2n p.dead) (setF Ew.totOpen (b2n p.totOpen) (setF Ew.prev (b2n p.prev) (setF Ew.near (b2n p.near)
      (setF Ew.overload (b2n p.ovl) (setF Ew.high (b2n p.high) (setF Ew.tot p.tot (setF Ew.pulse p.pulse (setF Ew.shot p.shot 0)))))))) }

/-- What an edge event word says. -/
def EdgeWord.interval (e : EdgeWord) : Nat := getF Ew.interval e.w0
def EdgeWord.shot (e : EdgeWord) : Nat := getF Ew.shot e.w1
def EdgeWord.overload (e : EdgeWord) : Bool := getF Ew.overload e.w1 = 1

/-- Change a cell's window of a shot. -/
def mapWin (c frame m k : Nat) (f : Win → Win) (s : State) : State :=
  let x := s.cell c
  setCell c { x with wins := x.wins.map (fun v => if v.frame = frame ∧ v.m = m ∧ v.k = k then f v else v) } s

/-- Count a stop of a shot in girdle counter `n`. -/
def gdNote (c n frame m k : Nat) (s : State) : State := mapWin c frame m k (fun v => { v with notes := n :: v.notes }) (gdCount c n s)

/-- Take a count back, unless the counter has saturated or been cleared. -/
def gdTakeBack (c n : Nat) (s : State) : State :=
  let a := GD_CELL_CNT0 c + 4 * (n / 2)
  let f : Fld := ⟨16 * (n % 2), 16⟩
  if s.fget a f = 0 ∨ s.fget a f = 0xFFFF then s else fset a f (s.fget a f - 1) s

/-- A finished pulse leaves the pairing stage: to the slice, or to the census in a listen slot (R125, R165). It completes with its falling
edge, or at its ToT limit (R122, R130). -/
def emitPulse (c : Nat) (h : Held) (fall : Option Edge) (s : State) : State :=
  let k := c / 16
  let b := s.blk k
  let tot := match fall with | some f => totOf h.view h.rise f | none => 0x1FFF
  let high := h.rise.high || (match fall with | some f => f.high | none => false)
  match h.kind with
  | .check => s
  | .listen =>
    if s.fget (RX_CENSUS_CFG k) RX_CENSUS_CFG.tot_min ≤ tot || high then setBlk k { b with foreign := b.foreign + 1 } s
    else setBlk k { b with noise := b.noise + 1 } s
  | .fire =>
    let (iv, near) := intervalOf h.view h.rise h.start tot
    let x := s.cell c
    let pu : Pulse :=
      { interval := iv, odd := h.view.odd, shot := h.k, pulse := h.j,
        tot := tot, high := high, ovl := h.rise.ovl || (match fall with | some f => f.ovl | none => false), near := near,
        prev := h.prev, totOpen := fall.isNone, dead := h.rise.dead || (match fall with | some f => f.dead | none => false) }
    let done := match fall with | some f => f.units | none => h.rise.units + h.view.totLimit
    let s1 := setCell c { x with out := x.out ++ [pu.word h.frame h.m done] } s
    if near then gdNote c 0 h.frame h.m h.k s1 else s1

/-- The same shot. -/
def Held.of (h : Held) (w : Win) : Bool := h.frame = w.frame && h.m = w.m && h.k = w.k

/-- What an edge meant to one window: nothing, an attribution with its stop index, or a discard with its reason of R337. -/
inductive Mark where
  | outside | took (stop : Nat) | lost (reason : Nat)
  deriving DecidableEq, Repr

/-- A falling edge closes the pulse held for a window's shot (R122). -/
def closeHeld (c : Nat) (e : Edge) (w : Win) (h : Held) (s : State) : State × Mark :=
  let x := s.cell c
  let s1 := setCell c { x with held := x.held.filter (· ≠ h), wins := x.wins.map (fun v => if v = w then { v with used := 2 * h.j + 2 } else v) } s
  let late : Bool := decide (h.rise.units + h.view.totLimit < e.units)
  if h.openSent then (s1, .took (2 * h.j + 1))
  else (emitPulse c h (cond late none (some e)) s1, .took (2 * h.j + 1))

/-- The slot of a block that a window's shot belongs to. -/
def RxBlk.slotOf (b : RxBlk) (frame m k : Nat) : Option Slot :=
  b.slots.find? (fun sl => sl.own ∧ sl.frame = frame ∧ sl.m = m ∧ sl.k = k)

/-- The channel's starts after `t` among the slots its block holds. -/
def RxBlk.startsAfter (b : RxBlk) (pl : Option Plane) (c t : Nat) : List Nat :=
  (b.slots.filterMap (fun sl =>
    if !sl.own then none
    else if sl.kind = .listen then some sl.units
    else match startFire pl c sl.fires with | some f => if f.dead then none else some f.units | none => none)).filter (fun u => decide (t < u))

/-- When a window closes: at its end, or at the second start after its own where that comes first and finds both open (R119). -/
def State.winClose (s : State) (c : Nat) (w : Win) : Nat :=
  let b := s.blk (c / 16)
  let z := w.start + w.view.hi
  match w.closed with
  | some t => min t z
  | none =>
    match b.startsAfter (match b.pixel w.frame w.m with | some p => p.plane | none => s.planeOf (tgtRx (c / 16))) c w.start with
    | u :: v :: _ => if v < u + w.view.hi then min v z else z
    | _ => z

/-- By what its block knows, the shot of a window is not counted for a crosstalk window or an external interval (R89, R90). -/
def State.winBlanked (s : State) (c : Nat) (w : Win) : Bool :=
  let k := c / 16
  let b := s.blk k
  let pl := match b.pixel w.frame w.m with | some p => p.plane | none => s.planeOf (tgtRx k)
  let a := w.start + w.view.lo
  let z := s.winClose c w
  match b.slotOf w.frame w.m w.k with
  | some sl => s.extBlanked k a z sl.known || b.slots.any (slotCrosses pl k a z (startFire pl c sl.fires))
  | none => false

/-- One window takes the edge, or discards it with its count (R120). The stops of a blanked shot never reach the pairing stage (R125); the
manual gives no reason code for them, so theirs is a free value. A falling edge whose rising edge the queue has dropped takes the second
index of the next pulse. -/
def attributeTo (c : Nat) (e : Edge) (newest : Bool) (w : Win) (s : State) : State × Mark :=
  let x := s.cell c
  let mine := x.held.filter (fun h => h.of w)
  let isIn := inWin e w
  match w.kind with
  | .check => if isIn then (s, .lost 5) else (s, .outside)
  | _ =>
    if isIn && w.kind = .fire && s.winBlanked c w then (drawFree s, .lost (s.free.toNat % 8))
    else if !e.rising && mine ≠ [] then
      match mine.getLast? with
      | some h => closeHeld c e w h s
      | none => (s, .outside)
    else if !isIn then (s, .outside)
    else if 8 ≤ w.used then (gdNote c 4 w.frame w.m w.k s, .lost 2)
    else if e.rising then
      let idx := (w.used + 1) / 2 * 2
      if 8 ≤ idx then (gdNote c 4 w.frame w.m w.k s, .lost 2)
      else
        let h : Held := { view := w.view, m := w.m, k := w.k, frame := w.frame, kind := w.kind, start := w.start, j := idx / 2, rise := e, prev := !newest, openSent := false }
        let v' := { w with used := idx + 1, first := some (w.first.getD (relOf w.view e w.start).toNat) }
        (setCell c { x with held := x.held ++ [h], wins := x.wins.map (fun v => if v = w then v' else v) } s, .took idx)
    else if w.used = 0 then (gdNote c 3 w.frame w.m w.k s, .lost 1)
    else
      let idx := w.used / 2 * 2 + 1
      (setCell c { x with wins := x.wins.map (fun v => if v = w then { v with used := idx + 1 } else v) } s, .took idx)

/-- The edge precedes the first start of the frame in progress (R337). -/
def State.beforeFirst (s : State) (x : Cell) (e : Edge) : Bool :=
  decide (s.frameEdge * 2048 ≤ e.units) && !x.wins.any (fun w => decide (w.frame = s.frameNum) && decide (w.start ≤ e.units))

/-- The most recent start before an edge that precedes the first start of the frame, or 0xFFFF (R335, R337). -/
def Cell.startBefore (x : Cell) (e : Edge) : Nat :=
  match x.wins.find? (fun w => decide (w.start ≤ e.units)) with
  | some w => w.number
  | none => 0xFFFF

/-- The window took the edge, which so is attributed to a shot; a listen window's edges are attributed to none (R337). -/
def Mark.isTaken : Mark → Bool
  | .took _ => true
  | _ => false

/-- An edge reaches the pairing stage (R120, R125, R137, R337). -/
def execEdgeAttribute (cell : Fin 768) (s : State) : Out :=
  .next (let x := s.cell cell
    match x.queue with
    | [] => s
    | e :: rest =>
      let s0 := setCell cell { x with queue := rest } s
      match x.wins with
      | [] => deliverAq cell e 0xFFFF 3 6 s0
      | w0 :: older =>
        let n0 := w0.number
        let (s1, m0) := attributeTo cell e true w0 s0
        let (s2, ms) := older.foldl (fun (a : State × List (Win × Mark)) w => let (t, m) := attributeTo cell e false w a.1; (t, a.2 ++ [(w, m)])) (s1, [])
        let old := (ms.find? (fun p => p.2.isTaken)) <|> ms.find? (fun p => p.2 ≠ .outside)
        let listen := fun w : Win => w.kind = .listen
        let attr := if 2 ≤ (ms.filter (fun p => p.2.isTaken && !listen p.1)).length then 2 else 1
        match m0, old with
        | .took i, some (v, .took j) =>
          if listen w0 then (if listen v then deliverAq cell e n0 3 4 s2 else deliverAq cell e v.number attr j s2)
          else if listen v then deliverAq cell e n0 0 i s2 else deliverAq cell e n0 2 i s2
        | .took i, _ => if listen w0 then deliverAq cell e n0 3 4 s2 else deliverAq cell e n0 0 i s2
        | .lost r, some (v, .took i) => if listen v then deliverAq cell e n0 3 r s2 else deliverAq cell e v.number attr i s2
        | .lost r, _ => deliverAq cell e n0 3 r s2
        | .outside, some (v, .took i) => if listen v then deliverAq cell e n0 3 4 s2 else deliverAq cell e v.number attr i s2
        | .outside, some (_, .lost r) => deliverAq cell e n0 3 r s2
        | .outside, _ =>
          let s3 := if e.units < w0.start then gdCount cell 1 s2 else s2
          if s3.beforeFirst x e then deliverAq cell e (x.startBefore e) 3 6 s3
          else deliverAq cell e n0 3 (if e.units < w0.start then 0 else 3) s3)

/-- The ToT limit passes before the falling edge arrives: the pulse closes with TOT_OPEN (R122). -/
def execTotLimitExpiry (cell : Fin 768) (s : State) : Out :=
  .next (let x := s.cell cell
    match x.held.find? (fun h => !h.openSent && h.rise.units + h.view.totLimit ≤ s.now * 2048) with
    | none => s
    | some h => emitPulse cell h none (setCell cell { x with held := x.held.map (fun g => if g = h then { g with openSent := true } else g) } s))

/-! ### Judgement of a shot (R89, R90, R93) -/

/-- Take back what a shot placed in a slice, once it is known not to count (R89). -/
def CellPix.withdraw (x : CellPix) (shot : Nat) : CellPix :=
  x.placed.foldl (fun y p =>
    if p.1 ≠ shot then y
    else
      let (_, bin, counted, fine, l, ovl) := p
      let w := look (fun _ => 0) y.bins bin
      let y1 := if counted then { y with bins := put (fun _ => 0) y.bins bin (w32 ((w.toNat / 2 ^ 21 - 1) * 2 ^ 21 + (w.toNat % 2 ^ 21 - fine))) } else y
      let y2 := if l < 64 then { y1 with ledger := put (fun _ => 0) y1.ledger l (look (fun _ => 0) y1.ledger l - 1) } else y1
      if ovl then { y2 with ovlCount := y2.ovlCount - 1 } else y2)
    { x with placed := x.placed.filter (fun p => p.1 ≠ shot) }

/-- Mark slot (frame, m, k) as judged for cell `i`, and counted or not. -/
def RxBlk.judge (b : RxBlk) (w : Win) (i : Nat) (counted : Bool) : RxBlk :=
  { b with slots := b.slots.map (fun sl =>
      if sl.own ∧ sl.frame = w.frame ∧ sl.m = w.m ∧ sl.k = w.k ∧ sl.judged.testBit i = false then
        { sl with judged := sl.judged + 2 ^ i, counted := sl.counted + (if counted then 2 ^ i else 0) }
      else sl) }

/-- A shot's listening window closes, and the shot is judged (R81, R89, R90, R93, R149, R453). A shot that is found blanked takes back what its
stops counted in the pairing stage, which they are not to reach (R125). The window is answered where its shot counted. -/
def closeShot (cell : Nat) (s : State) : State × Option Win :=
  let k := cell / 16
  let x := s.cell cell
  let b := s.blk k
  match x.wins.reverse.find? (fun w => !w.judged && decide (s.winClose cell w ≤ s.now * 2048)) with
    | none => (s, none)
    | some w =>
      match b.pixel w.frame w.m with
      | none => (setCell cell { x with wins := x.wins.filter (· ≠ w) } s, none)
      | some p =>
          let a := w.start + w.view.lo
          let z := s.winClose cell w
          let i := sliceCell p.plane cell % 16
          let sl := b.slotOf w.frame w.m w.k
          let blanked := s.winBlanked cell w
          let settling := a < x.settleUntil * 2048
          let dark := match sl with | some t => t.dark | none => false
          let counted := w.kind = .fire && !blanked && !settling && !dark
          let partialBlank := w.kind = .fire && !blanked && s.obeysBlank k
            && (match sl with | some t => s.extPartial k z t.known | none => false)
          let b1 := b.judge w (cell % 16) counted
          let b2 := b1.mapPixel w.frame w.m (fun q =>
            let y := q.cell i
            let y1 := if w.kind = .fire && !counted && cell % 16 = i then y.withdraw w.k else y
            q.setCell i { y1 with blankCause := y1.blankCause || (w.kind = .fire && blanked), flags := y1.flags ||| (if partialBlank then 0x100 else 0) ||| (if dark && w.kind = .fire then 0x200 else 0) })
          let unpaired := w.kind = .fire && (blanked || settling)
          let x1 := { x with wins := x.wins.map (fun v => if v = w then { v with judged := true, notes := [] } else v),
                             held := if unpaired then x.held.filter (fun h => !h.of w) else x.held,
                             out := if w.kind = .fire && !counted then x.out.filter (fun u => !(u.frame = w.frame && u.m = w.m && u.shot = w.k)) else x.out }
          let s1 := if unpaired then w.notes.foldl (fun t n => gdTakeBack cell n t) s else s
          (flagIf partialBlank (RX_CELL_FLAGS cell) RX_CELL_FLAGS.blank_partial (setBlk k b2 (setCell cell x1 s1)),
            if counted then some w else none)

/-! ### Markers and skew (R117, R118) -/

/-- The rings, capture elements and markers of a block run (R137): in CONFIGURED, ARMED, RUN and SERVICE, where the block is enabled, its
domain good and its region not fenced. -/
def State.girdleOn (s : State) (k : Nat) : Bool :=
  blockOn (s.planeOf (tgtRx k)) (rxRegion k) (rxBlock k) && s.domGood k && !s.fenced (rxRegion k)
    && !s.startup.notReady.contains (rxRegion k)
    && (s.mode = .configured || s.mode = .armed || s.mode = .run || s.mode = .service)

/-- `GD_BLK_STATUS`.ring_locked follows the girdle loop of the block's region: a region that runs has it locked, or it would be fenced
(R138, R143). -/
def showRing (k : Nat) (s : State) : State := fset (GD_BLK_STATUS k) GD_BLK_STATUS.ring_locked (b2n (s.girdleOn k)) s

/-- A marker edge: it enters the mean, or departs by more than 64 units from the skew in force (R117, R118). Before the first refresh
there is no skew in force to depart from. The 256 markers of the mean are the last that agreed: the model's choice (log entry 56). -/
def execMarkerEdge (block : Fin 48) (departure : Int) (s : State) : Out :=
  .next (let b := s.blk block
    if !s.girdleOn block then s
    else
      let skew := sext 16 (s.fget (GD_BLK_SKEW block) GD_BLK_SKEW.skew)
      if 256 ≤ b.markersSeen ∧ 64 < (departure - skew).natAbs then
        let mark := fun p : Pixel => if p.inProgress then { p with flags := p.flags ||| 8 } else p
        flag (GD_BLK_STATUS block) GD_BLK_STATUS.marker_jump
          (setBlk block { b with markerBad := true, bufX := b.bufX.map mark, bufY := b.bufY.map mark } s)
      else
        setBlk block { b with markers := (departure :: b.markers).take 256, markersSeen := min 256 (b.markersSeen + 1), markerBad := false } s)

/-- The skew is refreshed from the mean of the last 256 markers, and applies from the block's next pixel boundary, at once where none
is scheduled (R117, R29). While fewer have been measured it is the mean of those: the model's choice (log entry 56). -/
def execSkewRefresh (block : Fin 48) (s : State) : Out :=
  .next (let b := s.blk block
    if b.markers = [] then s
    else
      let mean := divRoundI (b.markers.foldl (· + ·) 0) b.markers.length
      if s.scheduled block then setBlk block { b with skewNext := some mean } s
      else fset (GD_BLK_SKEW block) GD_BLK_SKEW.skew (toBits 16 mean) s)

/-- `GD_CELL_CMD`.clear_counts: the eight counters go to 0 at the cell's next pixel boundary, at once where none is scheduled (R141, R14). -/
def clearCounts (c : Nat) (s : State) : State := setRegs (GD_CELL_CNT0 c) [0, 0, 0, 0] s

def gdClear (c : Nat) (s : State) : State :=
  if s.scheduled (c / 16) then setCell c { s.cell c with clearNext := true } s else clearCounts c s

def execGdClearCounts (q : Requester) (cell : Fin 768) (s : State) : Out := .next (hostWrite q (GD_CELL_CMD cell) (gdClear cell) s)

end Sys2Proof.Machine
end

