-- ==== Sys2Proof/Machine/Slices.lean ====
section
/-!
DEFINITION. Histogram slices and range gates (chapter 06): the window of a pixel, placing a pulse in a bin, the close instant,
the gate law, the staging list, and the histogram window.
-/
namespace Sys2Proof.Machine

/-! ### Inclusion codes in force (R56, R163) -/

/-- The CODE frame of a plane: seed, dither_step, listen_period, hop_period. -/
def codeFrame (pl : Option Plane) : List Word := tableOf pl (regionCommon 4) 5

/-- The emitters that the first L entries of a sequence's pattern name, as a mask. -/
def seqEmitters (t : List Word) (q : Nat) : Nat := (List.range (seqPatternLen t q)).foldl (fun m j => m ||| seqPattern t q j) 0

/-- Dither applies to sequence `q` (R163). -/
def ditherOn (pl : Option Plane) (q : Nat) : Bool := codeFrame pl ≠ [] && seqCodeEn (shotTable pl) q

/-- The widest pulse plus largest fine delay of the emitters of a sequence, each in 7.8125 ps. -/
def seqMargin (t : List Word) (q : Nat) : Nat :=
  let m := seqEmitters t q
  (List.range 64).foldl (fun w e => if m.testBit e then max w (64 + 8 * emitterWidth t e) else w) 0
    + (List.range 64).foldl (fun d e => if m.testBit e then max d (emitterDelay t e) else d) 0

/-- The largest `k` up to `n` whose dither span fits the period, or 0 (R163), in 7.8125 ps. -/
def fitStep (margin period : Nat) : Nat → Nat
  | 0 => 0
  | k + 1 => if 255 * 64 * (k + 2) + margin + 10240 ≤ period * 128 then k + 1 else fitStep margin period k

/-- The step index in force for a sequence (R163). -/
def stepEff (pl : Option Plane) (q : Nat) : Nat :=
  fitStep (seqMargin (shotTable pl) q) (seqPeriod (shotTable pl) q) (tw (codeFrame pl) 1 % 16)

/-! ### Stage lists (R52) -/

/-- The stage codes of an RX region, in order, up to the first 0. -/
def stageCodes : Nat → Nat → List Nat
  | 0, _ => []
  | n + 1, w => if w % 16 = 0 then [] else w % 16 :: stageCodes n (w / 16)

/-- The stage list of an RX region under a plane. -/
def stageList (pl : Option Plane) (r : Nat) : List Nat := stageCodes 8 (tw (tableOf pl (regionCommon r) 1) 1)

/-! ### The gate map (R190 to R195) -/

def Gate.o : Fld := ⟨0, 18⟩
def Gate.up : Fld := ⟨18, 3⟩
def Gate.state : Fld := ⟨21, 2⟩
def Gate.miss : Fld := ⟨23, 4⟩
def Gate.sweep_pos : Fld := ⟨27, 5⟩

/-- A gate map entry from its fields (R190). -/
def gateWord (o up state miss pos : Nat) : Word :=
  setF Gate.sweep_pos pos (setF Gate.miss miss (setF Gate.state state (setF Gate.up up (setF Gate.o o 0))))

/-- The working entry `i` of region RX`n`. -/
def State.gate (s : State) (n i : Nat) : Word := look (fun _ => 0) s.rx.gates (n * 131072 + i)
def setGate (n i : Nat) (w : Word) (s : State) : State :=
  { s with rx := { s.rx with gates := put (fun _ => 0) s.rx.gates (n * 131072 + i) w } }

/-- k_top: the largest j ≤ 6 with 256 × 2^j ≤ reach (R191). -/
def kTopFrom (reach : Nat) : Nat → Nat
  | 0 => 0
  | j + 1 => if 256 * 2 ^ (j + 1) ≤ reach then j + 1 else kTopFrom reach j

def kTop (reach : Nat) : Nat := kTopFrom reach 6

/-- The window of pixel `m` of RX block `k`, cell `i`, under a plane and the working map (R180, R191). -/
def State.windowOf (s : State) (pl : Option Plane) (k m i : Nat) : CellWin :=
  let t := classTable pl (rxRegion k)
  let b := rxBlock k
  let j := classOf t b m
  let reach := clsReach t j
  let kk := clsK t j
  let e := gateBase t b i + m / 64
  if t ≠ [] && clsTrack t j && gateEn t b i && decide (e ≤ 131071) then
    let g := s.gate (k / 8) e
    if getF Gate.state g = 0 then { o := clsO0 t j, kEff := kk, reach := reach, tracked := true, sweep := false, entry := e }
    else
      let ke := kk + min (getF Gate.up g) (kTop reach - kk)
      { o := min (getF Gate.o g) (reach - 256 * 2 ^ ke), kEff := ke, reach := reach, tracked := true, sweep := getF Gate.state g = 2, entry := e }
  else { o := clsO0 t j, kEff := kk, reach := reach, tracked := false, sweep := false, entry := 0 }

/-- `x` limited to `0 .. hi`, for a difference that may be negative. -/
def clampDiff (a b hi : Nat) : Nat := min (a - b) hi

/-- The tracking law of R193 under class `j` of table `t`: the new entry, or none where there is no evidence. -/
def gateLaw (t : List Word) (j : Nat) (ev : GateEv) (g : Word) : Option Word :=
  let kk := clsK t j
  let reach := clsReach t j
  let top := kTop reach
  let st := getF Gate.state g
  let o := if st = 0 then clsO0 t j else getF Gate.o g
  let up := if st = 0 then 0 else getF Gate.up g
  if st = 3 ∨ ev.nPix = 0 then none
  else if 0 < ev.nRet then
    let c := (ev.sumC + ev.nRet / 2) / ev.nRet
    let up' := up - 1
    let w := 2 ^ (kk + up')
    let want := clampDiff c (clsTarget t j * w) (reach - 256 * w)
    let o' := if st = 1 ∧ (want - o) + (o - want) ≤ clsDeadband t j * w then o else want
    some (gateWord o' up' (if up' = 0 then 1 else 2) 0 0)
  else
    let miss := min (getF Gate.miss g + 1) 15
    if miss < clsMissLimit t j then some (gateWord o up st miss (getF Gate.sweep_pos g))
    else if kk + up < top then
      let mid := o + 128 * 2 ^ (kk + up)
      let up' := up + 1
      some (gateWord (clampDiff mid (128 * 2 ^ (kk + up')) (reach - 256 * 2 ^ (kk + up'))) up' 2 miss (getF Gate.sweep_pos g))
    else
      let span := reach - 256 * 2 ^ top
      let step := 192 * 2 ^ top
      let n := (span + step - 1) / step
      let pos := if n ≤ getF Gate.sweep_pos g then 0 else getF Gate.sweep_pos g + 1
      some (gateWord (min (pos * step) span) up 2 miss pos)

/-- The evidence gathered for an entry. -/
def State.evidence (s : State) (n i : Nat) : GateEv := look (fun _ => {}) s.rx.evidence (n * 131072 + i)
def setEvidence (n i : Nat) (e : GateEv) (s : State) : State :=
  { s with rx := { s.rx with evidence := put (fun _ => {}) s.rx.evidence (n * 131072 + i) e } }

/-- A pixel of frame `f` gives evidence: it contributes, and gates with its centre where it has a gating return (R192). -/
def addEvidence (n i f : Nat) (centre : Option Nat) (s : State) : State :=
  let e := s.evidence n i
  let e0 : GateEv := if e.frame = f then e else { frame := f }
  setEvidence n i (match centre with
    | none => { e0 with nPix := e0.nPix + 1 }
    | some c => { e0 with nPix := e0.nPix + 1, nRet := e0.nRet + 1, sumC := e0.sumC + c }) s

/-- An update of an entry takes effect, unless the entry is PINNED by then (R194). -/
def applyUpdate (e : Nat × (Nat × Word)) (s : State) : State :=
  let n := e.1 / 131072
  let i := e.1 % 131072
  if getF Gate.state (s.gate n i) = 3 then s else setGate n i e.2.2 s

/-- After a tile's last pixel of a frame the region computes its entry's update for the next frame; one that is ready in time takes effect
from that frame's boundary, at once where it has passed; one that is not is discarded and counted (R193, R194). A host value that replaced the
entry at that boundary stands in its place (R195). The class is that of the tile's first pixel in the named cell. -/
def execGateUpdate (rx : Fin 6) (entry : BitVec 17) (cell : Fin 128) (ready : Bool) (s : State) : Out :=
  .next (let i := entry.toNat
    let c : Nat := cell
    let k := rx.val * 8 + c / 16
    let t := classTable (s.planeOf (tgtRx k)) (8 + rx)
    let j := classOf t (c / 16) ((i - gateBase t (c / 16) (c % 16)) * 64)
    let ev := s.evidence rx i
    let host := decide (look (fun _ => 0) s.rx.hostGates (rx * 131072 + i) = (ev.frame + 1) % 2 ^ 32 + 1)
    match gateLaw t j ev (s.gate rx i) with
    | none => setEvidence rx i {} s
    | some w => if host then setEvidence rx i {} s else
      let s1 := setEvidence rx i {} s
      let late := decide ((s.reg FRAME_NUM).toNat ≠ ev.frame ∧ (s.reg FRAME_NUM).toNat ≠ (ev.frame + 1) % 2 ^ 32)
      if ready && !late then
        if (s.reg FRAME_NUM).toNat = ev.frame then
          { s1 with rx := { s1.rx with updates := put (fun _ => (0, 0)) s1.rx.updates (rx * 131072 + i) ((ev.frame + 1) % 2 ^ 32, w) } }
        else applyUpdate (rx * 131072 + i, (ev.frame + 1, w)) s1
      else
        let s2 := flag (HS_BLK_STATUS k) HS_BLK_STATUS.late_update s1
        bumpOvf (HS_BLK_CNT k) HS_BLK_CNT.late_update_count 1 (HS_BLK_STATUS k) HS_BLK_STATUS.cnt_ovf.lo s2)

/-- The staging list of RX`n`. -/
def State.staging (s : State) (n : Nat) : List (Nat × Word) := look (fun _ => []) s.rx.staged n

/-- Set the staging list, and `RX_GATE_STATUS`.staged with it. -/
def setStaging (n : Nat) (l : List (Nat × Word)) (s : State) : State :=
  fset (RX_GATE_STATUS n) RX_GATE_STATUS.staged l.length { s with rx := { s.rx with staged := put (fun _ => []) s.rx.staged n l } }

/-- The staging list with the value of an index added or replaced. -/
def stageIn (i : Nat) (w : Word) : List (Nat × Word) → List (Nat × Word)
  | [] => [(i, w)]
  | (j, v) :: l => if j = i then (i, w) :: l else (j, v) :: stageIn i w l

/-- A commit of RX`n` is pending. -/
def State.committing (s : State) (n : Nat) : Bool := s.fget (RX_GATE_STATUS n) RX_GATE_STATUS.pending = 1

/-- READ (R195). -/
def gateRead (n : Nat) (s : State) : State := setReg (RX_GATE_DATA n) (s.gate n ((s.reg (RX_GATE_IDX n)).toNat % 131072)) s

/-- STAGE: refused while a commit is pending, and where the list holds 64 other entries (R195). -/
def gateStage (n : Nat) (s : State) : State :=
  let i := (s.reg (RX_GATE_IDX n)).toNat % 131072
  let l := s.staging n
  if s.committing n then flag (RX_GATE_STATUS n) RX_GATE_STATUS.refused s
  else if l.length < 64 ∨ l.any (fun e => e.1 = i) then setStaging n (stageIn i (s.reg (RX_GATE_DATA n)) l) s
  else flag (RX_GATE_STATUS n) RX_GATE_STATUS.refused (flag (RX_GATE_STATUS n) RX_GATE_STATUS.stage_full s)

/-- COMMIT: refused while one is pending; a late frame also sets `TIME_STATUS`.late_instant (R195). -/
def gateCommit (n : Nat) (s : State) : State :=
  let f := (s.reg (RX_GATE_FRAME n)).toNat
  if s.committing n then flag (RX_GATE_STATUS n) RX_GATE_STATUS.refused s
  else if s.lateFrame f then flag TIME_STATUS TIME_STATUS.late_instant (flag (RX_GATE_STATUS n) RX_GATE_STATUS.refused s)
  else fset (RX_GATE_STATUS n) RX_GATE_STATUS.pending 1 (accept { s with rx := { s.rx with
    commits := put (fun _ => 0) s.rx.commits n f, commitOrder := put (fun _ => 0) s.rx.commitOrder n s.time.accepted } })

/-- DISCARD: a pending commit is cancelled while its frame is at least two ahead, and its list kept; else refused. With none
pending the list empties (R68, R195). -/
def gateDiscard (n : Nat) (s : State) : State :=
  if s.committing n then
    if s.frameNum + 2 ≤ look (fun _ => 0) s.rx.commits n then
      fset (RX_GATE_STATUS n) RX_GATE_STATUS.pending 0 { s with rx := { s.rx with commits := put (fun _ => 0) s.rx.commits n 0 } }
    else flag (RX_GATE_STATUS n) RX_GATE_STATUS.refused s
  else setStaging n [] s

/-- Any other command value (R200). -/
def gateBad (n : Nat) (s : State) : State := flag (RX_GATE_STATUS n) RX_GATE_STATUS.refused s

def execGateRead (q : Requester) (rx : Fin 6) (s : State) : Out := .next (hostWrite q (RX_GATE_CMD rx) (gateRead rx) s)
def execGateStage (q : Requester) (rx : Fin 6) (s : State) : Out := .next (hostWrite q (RX_GATE_CMD rx) (gateStage rx) s)
def execGateCommit (q : Requester) (rx : Fin 6) (s : State) : Out := .next (hostWrite q (RX_GATE_CMD rx) (gateCommit rx) s)
def execGateDiscard (q : Requester) (rx : Fin 6) (s : State) : Out := .next (hostWrite q (RX_GATE_CMD rx) (gateDiscard rx) s)

/-- A command value of `RX_GATE_CMD`, by its code (R200). -/
def gateCommand (n code : Nat) (s : State) : State :=
  match code with
  | 1 => gateRead n s
  | 2 => gateStage n s
  | 3 => gateCommit n s
  | 4 => gateDiscard n s
  | _ => gateBad n s

/-- The write of a value that names no command; a value that names one acts as that command. -/
def execGateBadCommand (q : Requester) (rx : Fin 6) (command : BitVec 3) (s : State) : Out :=
  .next (hostWrite q (RX_GATE_CMD rx) (gateCommand rx command.toNat) s)

/-- At a frame boundary the updates of its frame take effect, then a staging list committed for the frame, in place of an update of the
same entry (R194, R195). -/
def applyCommit (n : Nat) (s : State) : State :=
  if s.committing n && look (fun _ => 0) s.rx.commits n = s.frameNum then
    let s1 := (s.staging n).foldl (fun t e => setGate n e.1 e.2
      { t with rx := { t.rx with hostGates := put (fun _ => 0) t.rx.hostGates (n * 131072 + e.1) (s.frameNum + 1) } }) s
    let s2 := setStaging n [] { s1 with rx := { s1.rx with commits := put (fun _ => 0) s1.rx.commits n 0 } }
    flag (RX_GATE_STATUS n) RX_GATE_STATUS.applied (fset (RX_GATE_STATUS n) RX_GATE_STATUS.pending 0 s2)
  else s

def applyGates (s : State) : State :=
  let due := s.rx.updates.filter (fun e => decide (e.2.1 = s.frameNum))
  let s1 := due.foldl (fun t e => applyUpdate e t) s
  forUp applyCommit 0 6 { s1 with rx := { s1.rx with updates := s1.rx.updates.filter (fun e => decide (e.2.1 ≠ s.frameNum)) } }

/-- A staging list committed for a frame at which a plane with a seed is swapped in is overwritten by that seed where the commit was accepted
first (R44). -/
def commitBefore (order n : Nat) (s : State) : State :=
  if look (fun _ => 0) s.rx.commitOrder n < order then applyCommit n s else s

/-- Put a list of seed words from entry `i` on into a working map. -/
def seedGates (n : Nat) : Nat → List Word → Sparse Word → Sparse Word
  | _, [], m => m
  | i, w :: ws, m => seedGates n (i + 1) ws (put (fun _ => 0) m (n * 131072 + i) w)

/-- RX`n` reloads its working map from a plane's seed, or to zero without one (R191). Evidence and updates that wait are discarded
(R201). -/
def reloadGates (seed : List Word) (n : Nat) (s : State) : State :=
  let mine := fun e => e / 131072 = n
  { s with rx := { s.rx with gates := seedGates n 0 seed (clearWhere mine s.rx.gates),
                             evidence := clearWhere mine s.rx.evidence, updates := clearWhere mine s.rx.updates,
                             hostGates := clearWhere mine s.rx.hostGates } }

/-! ### Placing a pulse (R182 to R185, R202) -/

/-- The exponent g of R202: the least g with 64 × 2^g ≥ span. -/
def ledgerShift (span : Nat) : Nat → Nat → Nat
  | g, 0 => g
  | g, n + 1 => if span ≤ 64 * 2 ^ g then g else ledgerShift span (g + 1) n

/-- g for a channel of `n` bins at width code `k` and dither step `u` in units. -/
def ledgerG (n k u : Nat) : Nat := ledgerShift (n * 2 ^ (8 + k) + 255 * u) 0 32

/-- The dither step in units of the sequence of block `k`, where the plane's CODE frame applies to it (R163, R202). -/
def ditherStep (pl : Option Plane) (k : Nat) : Option Nat :=
  match binding (shotTable pl) k with
  | none => none
  | some q => if ditherOn pl q then some (1024 * (stepEff pl q + 1)) else none

/-- The fine position of offset `r` within a bin (R182). -/
def finePos (k r : Nat) : Nat := if 2 ≤ k then r / 2 ^ (k - 2) else r * 2 ^ (2 - k)

/-- A word of a closed or open bin: count and fine sum (R176). -/
def binCount (w : Word) : Nat := w.toNat / 2 ^ 21
def binFine (w : Word) : Nat := w.toNat % 2 ^ 21

/-- Place a word at offset `d` of a slice part (R182, R183, R202): `g` is the ledger's shift and `dith` the dither of its shot, none
where the ledger is not kept. -/
def CellPix.place (x : CellPix) (n k d shot : Nat) (ovl : Bool) (led : Option (Nat × Nat)) : CellPix :=
  let b := d / 2 ^ (8 + k)
  if n ≤ b then x
  else
    let f := finePos k (d % 2 ^ (8 + k))
    let w := look (fun _ => 0) x.bins b
    let counted := decide (binCount w < 2047)
    let li := match led with | some (g, dith) => min 63 ((d + dith) / 2 ^ g) | none => 64
    { x with
      bins := if counted then put (fun _ => 0) x.bins b (w32 ((binCount w + 1) * 2 ^ 21 + (binFine w + f))) else x.bins
      saturated := x.saturated || !counted || decide (binCount w = 2046)
      ovlCount := if ovl then min 2047 (x.ovlCount + 1) else x.ovlCount
      ledger := if li < 64 then put (fun _ => 0) x.ledger li (min 0xFFFF (look (fun _ => 0) x.ledger li + 1)) else x.ledger
      placed := x.placed ++ [(shot, b, counted, f, li, ovl)] }

/-- The shot has been judged for cell `i` and does not count (R89). -/
def RxBlk.uncounted (b : RxBlk) (frame m k i : Nat) : Bool :=
  match b.slotOf frame m k with
  | some sl => sl.judged.testBit i && !sl.counted.testBit i
  | none => false

/-- A bin of channel `c`'s slices, in the slice of cell `phys`, cannot be read: ecc_fatal, the cell masks itself, and the pixel yields no
return (R36, R184). What the bin then holds the manual does not say: a free value. -/
def sliceFatal (phys c bin : Nat) (frame m : Nat) (s : State) : State :=
  let k := c / 16
  let w := s.free
  let s1 := drawFree (flag (HS_CELL_FLAGS phys) HS_CELL_FLAGS.ecc_fatal s)
  maskCell phys (setBlk k ((s1.blk k).mapPixel frame m (fun p =>
    let x := p.cell (c % 16)
    p.setCell (c % 16) { x with eccFatal := true, flags := x.flags ||| 0x20000, bins := put (fun _ => 0) x.bins bin w })) s1)

/-- A read-modify-write of a bank of RX`n` counts for its load (R319). -/
def countRmw (n : Nat) (s : State) : State := { s with cal := { s.cal with rmw := put (fun _ => 0) s.cal.rmw n (look (fun _ => 0) s.cal.rmw n + 1) } }

/-- The edge event word of a pulse reaches its slice (R124, R180, R182 to R185). A bin that starts at or beyond reach stays empty, so a
pulse whose corrected interval falls there is out of the window. -/
def placePulse (c : Nat) (pu : EdgeWord) (eccCorrected eccFatal : Bool) (s : State) : State :=
  let k := c / 16
  let b := s.blk k
  match b.pixel pu.frame pu.m with
  | none => gdCount c 7 s
  | some p =>
    if p.closedAt.isSome then gdCount c 7 s
    else if b.uncounted pu.frame pu.m pu.shot (c % 16) || stageList p.plane (rxRegion k) = [] then s
    else
      let sc := sliceCell p.plane c
      let i := sc % 16
      let w := p.win c
      let n := nBins p.plane sc
      let bin := (pu.interval - 256 * w.o) / 2 ^ (8 + w.kEff)
      if pu.interval < 256 * w.o ∨ n ≤ bin ∨ w.reach * 256 ≤ 256 * w.o + bin * 2 ^ (8 + w.kEff) then
        bumpOvf (HS_CELL_CNT sc) HS_CELL_CNT.out_window_count 1 (HS_CELL_FLAGS sc) HS_CELL_FLAGS.out_window_ovf.lo s
      else
        let s := countRmw (k / 8) s
        let d := pu.interval - 256 * w.o
        let phys := if 256 ≤ bin then sc + 1 else sc
        if eccFatal then sliceFatal phys sc bin pu.frame pu.m s
        else
          let led := match ditherStep p.plane k, b.slotOf pu.frame pu.m pu.shot with
            | some u, some sl => some (ledgerG n w.kEff u, sl.code * u)
            | _, _ => none
          let x := p.cell i
          let y := x.place n w.kEff d pu.shot pu.overload led
          let s1 := flagIf eccCorrected (HS_CELL_FLAGS phys) HS_CELL_FLAGS.ecc_corrected s
          let s2 := setBlk k (b.mapPixel pu.frame pu.m (fun q => q.setCell i y)) s1
          if y.saturated && !x.saturated then
            let s3 := setBlk k ((s2.blk k).mapPixel pu.frame pu.m (fun q => q.addFlags i 4)) s2
            let s4 := flag (HS_CELL_FLAGS sc) HS_CELL_FLAGS.hist_sat s3
            bumpOvf (HS_CELL_CNT sc) HS_CELL_CNT.sat_pixel_count 1 (HS_CELL_FLAGS sc) HS_CELL_FLAGS.sat_ovf.lo s4
          else s2

/-- The cell whose pulse enters next: of a ganged pair that whose pulse completed first, cell 2k on a tie (R130). -/
def State.nextPulse (s : State) (c : Nat) : Nat :=
  if rxPairing (s.planeOf (tgtRx (c / 16))) c = 1 then
    let even := c / 2 * 2
    match (s.cell even).out, (s.cell (even + 1)).out with
    | a :: _, b :: _ => if b.done < a.done then even + 1 else even
    | [], _ :: _ => even + 1
    | _, [] => even
  else c

/-- An edge event word reaches the slice, oldest first (R126, R130, R182). -/
def execPulsePlace (cell : Fin 768) (eccCorrected eccFatal : Bool) (s : State) : Out :=
  .next (let c := s.nextPulse cell
    let x := s.cell c
    match x.out with
    | [] => s
    | pu :: rest => placePulse c pu eccCorrected eccFatal (setCell c { x with out := rest } s))

/-! ### The close instant (R187, R166) -/

/-- The largest start of a pixel's fired shots, in units, or 0. -/
def lastStart (pl : Option Plane) (k : Nat) (b : RxBlk) (p : Pixel) : Nat :=
  b.slots.foldl (fun a sl =>
    if sl.own && decide (sl.frame = p.frame) && decide (sl.m = p.m) then
      (List.range 16).foldl (fun a i => match startFire pl (k * 16 + i) sl.fires with
        | some f => if f.dead || f.suppressed then a else max a f.units
        | none => a) a
    else a) 0

/-- The greatest ToT limit of the enabled channels of a block, in units. -/
def blockTotLimit (pl : Option Plane) (k : Nat) : Nat :=
  (List.range 16).foldl (fun a i => if checkable pl k i then max a (totLimit pl (k * 16 + i)) else a) 0

/-- The close instant C_m in units before the cap, and after it (R187). -/
def closeAt (k : Nat) (b : RxBlk) (p : Pixel) : Nat × Nat :=
  let e := (p.start + p.shots * p.period) * 2048
  let l := lastStart p.plane k b p
  let reach := clsReach (classTable p.plane (rxRegion k)) p.cls * 256
  let c := if l = 0 then e else max e (l + reach + blockTotLimit p.plane k + 22 * 2048)
  match p.b2 with
  | none => (c, c)
  | some b2 => (c, min c ((b2 - 2048) * 2048))

/-- The pixel in progress that opened first, and whether it lies in buffer Y. -/
def RxBlk.oldest (b : RxBlk) : Option (Pixel × Bool) :=
  match b.bufX, b.bufY with
  | some p, some q =>
    if p.inProgress && q.inProgress then (if p.start ≤ q.start then some (p, false) else some (q, true))
    else if p.inProgress then some (p, false) else if q.inProgress then some (q, true) else none
  | some p, none => if p.inProgress then some (p, false) else none
  | none, some q => if q.inProgress then some (q, true) else none
  | none, none => none

/-- Is cell `i` a reporting cell (R216)? -/
def reporting (pl : Option Plane) (k i : Nat) : Bool := checkable pl k i && !(rxPairing pl (k * 16 + i) = 1 && i % 2 = 1)

/-- At its close instant a pixel's buffer becomes the closed buffer (R21, R166, R187). -/
def execPixelClose (block : Fin 48) (s : State) : Out :=
  .next (let b := s.blk block
    match b.oldest with
    | none => s
    | some (p, inY) =>
      let (full, capped) := closeAt block b p
      let close := match p.cutAt with | some t => t * 2048 | none => capped
      if s.now * 2048 < close then s
      else
        let isCapped := p.cutAt.isNone && decide (capped < full)
        let add := (if isCapped then 0x4000 else 0) + (if p.cutAt.isSome then 0x2000 else 0)
        let b1 := b.mapPixel p.frame p.m (fun q => { q with closedAt := some ((close + 2047) / 2048), flags := q.flags ||| add })
        let s1 := fset (HS_BLK_STATUS block) HS_BLK_STATUS.last_buffer (b2n inY) (setBlk block b1 s)
        let s2 := if isCapped then
            forUp (fun i t => if reporting p.plane block i then flag (HS_CELL_FLAGS (block * 16 + i)) HS_CELL_FLAGS.close_capped t else t) 0 16
              (bumpOvf (HS_BLK_CNT block) HS_BLK_CNT.close_cap_count 1 (HS_BLK_STATUS block) HS_BLK_STATUS.cnt_ovf.lo s1)
          else s1
        fgLeft block (if p.cutAt.isSome then bump (RX_BLK_SEQ_CNT block) RX_BLK_SEQ_CNT.frame_cut_count 1 s2 else s2))

/-! ### The histogram window (R189, R545) -/

/-- The word of a bin as the window shows it: a split channel's upper half is addressed at its odd cell (R186, R545). -/
def RxBlk.binWord (b : RxBlk) (k cell : Nat) (y : Bool) (bin : Nat) : Word :=
  match (if y then b.bufY else b.bufX) with
  | none => 0
  | some p =>
    if rxPairing p.plane (k * 16 + cell) = 2 && cell % 2 = 1 then look (fun _ => 0) (p.cell (cell - 1)).bins (256 + bin)
    else look (fun _ => 0) (p.cell cell).bins bin

/-- The bin cannot be read: what it then holds the manual does not say, a free value, and its pixel yields no return (R184). -/
def RxBlk.spoilBin (b : RxBlk) (k cell : Nat) (y : Bool) (bin : Nat) (w : Word) : RxBlk :=
  let f := fun p : Pixel =>
    let upper := rxPairing p.plane (k * 16 + cell) = 2 && cell % 2 = 1
    let i := if upper then cell - 1 else cell
    let x := p.cell i
    p.setCell i { x with eccFatal := true, flags := x.flags ||| 0x20000, bins := put (fun _ => 0) x.bins (if upper then 256 + bin else bin) w }
  if y then { b with bufY := b.bufY.map f } else { b with bufX := b.bufX.map f }

/-- The address word of a bin (R544). -/
def histAddr (n b cell bin : Nat) (y : Bool) : Nat :=
  0x10000000 + (8 + n) * 0x1000000 + b * 0x10000 + cell * 0x1000 + b2n y * 0x400 + bin * 4

/-- A read of the histogram window (R189, R544, R545). A corrected bin is flagged, and an uncorrectable one takes the cell-level reaction
(R184). -/
def histRead (q n b cell bin : Nat) (y : Bool) (ecc : Nat) (s : State) : State :=
  let k := n * 8 + b
  let a := histAddr n b cell bin y
  if !s.answers then s
  else if s.fenced (8 + n) then complete q 6 a 0 s
  else if !s.domGood k then complete q 5 a 0 s
  else if s.mode = .run ∨ s.mode = .service then complete q 1 a 0 s
  else if ecc = 2 then
    let w := s.free
    complete q 8 a 0xFFFFFFFF (maskCell (k * 16 + cell) (flag (HS_CELL_FLAGS (k * 16 + cell)) HS_CELL_FLAGS.ecc_fatal
      (drawFree (setBlk k ((s.blk k).spoilBin k cell y bin w) s))))
  else complete q 0 a ((s.blk k).binWord k cell y bin) (flagIf (decide (ecc = 1)) (HS_CELL_FLAGS (k * 16 + cell)) HS_CELL_FLAGS.ecc_corrected s)

def execHistWindowRead (q : Requester) (rx : Fin 6) (block : Fin 8) (cell : Fin 16) (bufferY : Bool) (bin : BitVec 8)
    (ecc : Fin 3) (s : State) : Out :=
  .next (histRead q rx block cell bin.toNat bufferY ecc s)

end Sys2Proof.Machine
end

