-- ==== Sys2Proof/Machine/Streams.lean ====
section
/-!
DEFINITION. Streams towards the lanes (chapter 12): assembly of packets, routes and rotation, lane queues, drops and their
accumulators. Every family whose content leaves the device uses these operations.
-/
namespace Sys2Proof.Machine

/-! ### Lanes -/

/-- The record of lane `l`. -/
def State.lane (s : State) (l : Nat) : Lane := look (fun _ => {}) s.lk.lanes l
def setLane (l : Nat) (x : Lane) (s : State) : State := { s with lk := { s.lk with lanes := put (fun _ => {}) s.lk.lanes l x } }

/-- The state code of lane `l` (R401), and whether it is UP. -/
def State.laneState (s : State) (l : Nat) : Nat := s.fget (LK_LANE_STATUS l) LK_LANE_STATUS.state
def State.laneUp (s : State) (l : Nat) : Bool := s.laneState l = 6

/-- A lane enters a state: `LK_LANE_STATUS` and `LK_UP` show it. -/
def setLaneState (l st : Nat) (s : State) : State :=
  let s1 := fset (LK_LANE_STATUS l) LK_LANE_STATUS.state st s
  let s2 := setReg LK_UP (if st = 6 then setBit l (s1.reg LK_UP) else clrBit l (s1.reg LK_UP)) s1
  setLane l { s2.lane l with since := s2.now } s2

/-- The lanes of a mask that are UP. -/
def State.upOf (s : State) (mask : Nat) : List Nat := (List.range 32).filter (fun l => mask.testBit l && s.laneUp l)

/-! ### Drops (R394, R395) -/

/-- The index of `LK_DROP_s` for a stream and source region (R399). -/
def dropIndex (stream source : Nat) : Nat := if stream ≤ 1 then 6 * stream + (source - 8) else 10 + stream

/-- The drop accumulator of a stream and source. -/
def State.dropAcc (s : State) (stream source : Nat) : DropAcc := look (fun _ => {}) s.lk.drops (stream * 16 + source)
def setDropAcc (stream source : Nat) (a : DropAcc) (s : State) : State :=
  { s with lk := { s.lk with drops := put (fun _ => {}) s.lk.drops (stream * 16 + source) a } }

/-- An accumulator with the units of a dropped packet added; a cause is its bit number in R394. -/
def DropAcc.add (a : DropAcc) (p : Packet) (cause : Nat) : DropAcc :=
  { causes := a.causes ||| 2 ^ cause, units := satAdd 0xFFFFFFFF a.units p.units,
    firstFrame := if a.units = 0 then p.frame else a.firstFrame, frame := p.frame, epoch := p.epoch, frag := p.frag,
    firstPix := if a.units = 0 then p.firstPix else a.firstPix, lastPix := p.lastPix }

/-- The units of a packet are dropped: with the common domain of LK on `LK_DROP_s` counts them and drop_seen sets (R489), and the accumulator keeps them for the next marker. -/
def dropPacket (p : Packet) (cause : Nat) (s : State) : State :=
  let s1 := setDropAcc p.stream p.source ((s.dropAcc p.stream p.source).add p cause) s
  if !s.domOn 59 then s1
  else
    flagIf (cause = 4) LK_FLAGS LK_FLAGS.no_lane (flag LK_FLAGS LK_FLAGS.drop_seen
      (bumpOvf (LK_DROP (dropIndex p.stream p.source)) whole p.units LK_FLAGS LK_FLAGS.drop_ovf.lo s1))

/-! ### Lane queues (R392, R394, R402, R403) -/

/-- Words a packet puts on a lane without SOP and fill: header, payload, CRC (R379). -/
def Packet.words (p : Packet) : Nat := 5 + p.payload.length

/-- Words queued on a lane. -/
def Lane.queued (x : Lane) : Nat := x.queue.foldl (fun n p => n + p.words) 0

/-- Is the packet a safety mirror, which goes ahead of every other packet (R403)? -/
def Packet.isMirror (p : Packet) : Bool := p.stream = 3 && p.kind = 2

/-- The priority of R35 at the crossbar to the lanes: safety mirror, then management, then streams. -/
def Packet.rank (p : Packet) : Nat := if p.isMirror then 0 else if p.stream = 4 then 1 else 2

/-- Put a packet behind the last one of its own or a higher priority. -/
def insertPacket (p : Packet) : List Packet → List Packet
  | [] => [p]
  | q :: l => if p.rank < q.rank then p :: q :: l else q :: insertPacket p l

/-- The wait limit of a stream in ns, by `LK_STREAM_CFG` as it stands when the packet closes (R394, R402). -/
def State.waitLimit (s : State) (stream : Nat) : Option Nat :=
  if stream ≤ 1 then some (max 1 (s.fget LK_STREAM_CFG LK_STREAM_CFG.point_wait) * 1000)
  else if stream = 2 then some (max 1 (s.fget LK_STREAM_CFG LK_STREAM_CFG.capt_timeout) * 10000000)
  else if stream = 4 then some 10000000
  else if stream = 5 then some 100000
  else none

/-- A packet joins the queue of lane `l`. A POINT or HIST packet that would take the queue above 16,384 words is dropped; a STAT packet
replaces a waiting one of its kind and source (R394). -/
def queueOn (l : Nat) (p : Packet) (s : State) : State :=
  let x := s.lane l
  if p.stream ≤ 1 ∧ 16384 < x.queued + p.words then dropPacket p 1 s
  else if p.stream = 3 then
    let stale := x.queue.filter (fun q => q.stream = 3 ∧ q.kind = p.kind ∧ q.source = p.source)
    let s1 := setLane l { x with queue := insertPacket p (x.queue.filter (fun q => !(q.stream = 3 ∧ q.kind = p.kind ∧ q.source = p.source))) } s
    stale.foldl (fun t q => dropPacket q 5 t) s1
  else setLane l { x with queue := insertPacket p x.queue } s

/-- The next UP lane of a list in rotation after lane `after - 1` (R392). -/
def nextLane (after : Nat) (up : List Nat) : Option Nat :=
  match up.find? (fun l => after ≤ l) with
  | some l => some l
  | none => up.head?

/-- A closed packet goes to its lane or lanes, or is dropped with NO_ROUTE or NO_LANE (R392, R394). The routes are those of the live
plane (R70). -/
def sendPacket (p : Packet) (s : State) : State :=
  let p := { p with deadline := (s.waitLimit p.stream).map (s.now + ·) }
  match laneMask s.cut.live p.stream (if p.stream ≤ 1 then p.source else 0) with
  | none => dropPacket p 3 s
  | some mask =>
    let up := s.upOf mask
    if p.stream = 3 ∨ p.stream = 5 then
      if up = [] then dropPacket p 4 s else up.foldl (fun t l => queueOn l p t) s
    else
      let key := p.stream * 16 + p.source
      match nextLane (look (fun _ => 0) s.lk.rot key) up with
      | none => dropPacket p 4 s
      | some l => queueOn l p { s with lk := { s.lk with rot := put (fun _ => 0) s.lk.rot key (l + 1) } }

/-! ### Assembly (R381, R382, R383) -/

/-- The packet that stands for none. -/
def noPacket : Packet := { stream := 0, kind := 0, source := 0, frame := 0, epoch := 0, frag := 0, payload := [], units := 0 }

/-- The packet under assembly for a stream and source, if any. -/
def State.assembling (s : State) (key : Nat) : Option Packet :=
  let p := look (fun _ => noPacket) s.lk.assembling key
  if p = noPacket then none else some p
def setAssembling (key : Nat) (p : Packet) (s : State) : State :=
  { s with lk := { s.lk with assembling := put (fun _ => noPacket) s.lk.assembling key p } }

/-- The packet under assembly closes. -/
def closePacket (key : Nat) (s : State) : State :=
  match s.assembling key with
  | none => s
  | some p => sendPacket p (setAssembling key noPacket s)

/-- Units a packet holds at most (R381). -/
def maxUnits (stream kind : Nat) : Nat := if stream = 1 then 4 else if kind = 1 then 128 else 384

/-- A POINT or HIST unit reaches the links: it joins the packet under assembly, which closes first where the unit belongs to another
frame, epoch or kind, and afterwards where it is full (R382). -/
def addUnit (p : Packet) (s : State) : State :=
  let key := p.stream * 16 + p.source
  let s1 := match s.assembling key with
    | none => s
    | some o => if o.frame = p.frame ∧ o.epoch = p.epoch ∧ o.frag = p.frag ∧ o.kind = p.kind then s else closePacket key s
  let o := match s1.assembling key with
    | none => { p with opened := s.now }
    | some o => { o with payload := o.payload ++ p.payload, units := o.units + p.units, lastPix := p.lastPix }
  let s2 := setAssembling key o s1
  if maxUnits p.stream p.kind ≤ o.units then closePacket key s2 else s2

/-! ### The region output (R4, R22, R35) -/

/-- The records that wait at block `k`, and those of a region's blocks. -/
def State.waitingAt (s : State) (k : Nat) : List Packet := look (fun _ => []) s.rx.output k
def setWaiting (k : Nat) (l : List Packet) (s : State) : State := { s with rx := { s.rx with output := put (fun _ => []) s.rx.output k l } }

/-- The time for which a record occupies the output of its region, in ns: 256 bits per 500 MHz cycle (R22). -/
def Packet.outTime (p : Packet) : Nat := (p.payload.length + 7) / 8 * 2

/-- The block that the output of RX`n` serves next: the one served last while its weight lasts, else the next in turn with a record (R35). -/
def State.nextBlock (s : State) (n : Nat) : Option Nat :=
  let (last, count) := look (fun _ => (7, 15)) s.rx.served n
  if count < outputWeight s.cut.live (8 + n) last ∧ s.waitingAt (n * 8 + last) ≠ [] then some last
  else ((List.range 8).map (fun i => (last + 1 + i) % 8)).find? (fun b => s.waitingAt (n * 8 + b) ≠ [])

/-- The output of RX`n`, once it is free, passes one record on. A fenced region passes none: what waits in it is lost (R36). -/
def serveOutput (n : Nat) (s : State) : State :=
  if s.now < look (fun _ => 0) s.rx.outBusy n then s
  else match s.nextBlock n with
    | none => s
    | some b =>
      match s.waitingAt (n * 8 + b) with
      | [] => s
      | p :: rest =>
        let (last, count) := look (fun _ => (7, 15)) s.rx.served n
        let s1 := setWaiting (n * 8 + b) rest s
        if s.fenced (8 + n) then s1
        else
          addUnit p { s1 with rx := { s1.rx with served := put (fun _ => (7, 15)) s1.rx.served n (b, if b = last then count + 1 else 1),
                                                  outBusy := put (fun _ => 0) s1.rx.outBusy n (s.now + p.outTime) } }

/-- A block's extractor hands a record to its region's output. -/
def offerUnit (k : Nat) (p : Packet) (s : State) : State := serveOutput (k / 8) (setWaiting k (s.waitingAt k ++ [p]) s)

/-- 2 µs after it opened a packet under assembly closes (R382). -/
def execPacketCloseTimer (stream : Fin 2) (rx : Fin 6) (s : State) : Out :=
  .next (let key := stream.val * 16 + 8 + rx.val
    match s.assembling key with
    | none => s
    | some p => if p.opened + 2000 ≤ s.now then closePacket key s else s)

/-- The packet of content that CF or another region sends whole: its frame, and the epoch and fragment of the live plane (R380,
R383). -/
def State.packet (s : State) (stream kind source : Nat) (payload : List Word) : Packet :=
  { stream := stream, kind := kind, source := source, frame := s.frameNum, epoch := s.reg LIVE_EPOCH, frag := s.reg (LIVE_DIGEST 0),
    payload := payload, opened := s.now }

/-- Epoch and fragment of the plane in force for a target (R63, R70). -/
def State.planeId (s : State) (t : Nat) : Word × Word :=
  if s.cut.waiting.contains t then (s.cut.oldEpoch, s.cut.oldFrag) else (s.reg LIVE_EPOCH, s.reg (LIVE_DIGEST 0))

end Sys2Proof.Machine
end

