-- ==== Sys2Proof/Machine/Loupe.lean ====
section
/-!
DEFINITION. Loupe's triggers (R504, R505): a source that is true fires an armed Loupe, or counts as an overrun.
-/
namespace Sys2Proof.Machine

/-- Loupe fires: it disarms, and the latch instant goes out; the snapshots of the trigger before are given up (R505 to R507). -/
def loupeStart (code tl : Nat) (s : State) : State :=
  let s1 := fsets LOUPE_STATUS [(LOUPE_STATUS.armed, 0), (LOUPE_STATUS.cause, 2 ^ code), (LOUPE_STATUS.fired, code),
    (LOUPE_STATUS.count, satAdd 0xFFFF (s.fget LOUPE_STATUS LOUPE_STATUS.count) 1)] s
  let s2 := setReg64 LOUPE_TIME_LO tl s1
  { s2 with mgmt := { s2.mgmt with loupe := { s2.mgmt.loupe with lastSlot := some (s2.now / 10), latchAt := some (tl + 1000), snaps := [] } } }

/-- A source is true in the evaluation in which Loupe has just fired: it enters cause, and the lowest code stands (R504). -/
def loupeJoin (code tl : Nat) (s : State) : State :=
  let s1 := fset LOUPE_STATUS LOUPE_STATUS.cause (s.fget LOUPE_STATUS LOUPE_STATUS.cause ||| 2 ^ code) s
  if code < s1.fget LOUPE_STATUS LOUPE_STATUS.fired then
    let s2 := setReg64 LOUPE_TIME_LO tl (fset LOUPE_STATUS LOUPE_STATUS.fired code s1)
    { s2 with mgmt := { s2.mgmt with loupe := { s2.mgmt.loupe with latchAt := some (tl + 1000) } } }
  else s1

/-- Source `code` is true with trigger instant `tl` (R504, R505). -/
def loupeSource (code tl : Nat) (s : State) : State :=
  if !(s.fget LOUPE_CFG LOUPE_CFG.src_en).testBit code then s
  else if s.mgmt.loupe.lastSlot = some (s.now / 10) then loupeJoin code tl s
  else if s.fget LOUPE_STATUS LOUPE_STATUS.armed = 1 then loupeStart code tl s
  else flag LOUPE_STATUS LOUPE_STATUS.overrun
    (fset LOUPE_STATUS LOUPE_STATUS.overruns (satAdd 0x3F (s.fget LOUPE_STATUS LOUPE_STATUS.overruns) 1) s)

/-- The arm command (R505). -/
def loupeArm (s : State) : State :=
  if s.mode = .configured ∨ s.mode = .armed ∨ s.mode = .run ∨ s.mode = .service then fset LOUPE_STATUS LOUPE_STATUS.armed 1 s
  else flag LOUPE_STATUS LOUPE_STATUS.cmd_refused s

/-- A write of `LOUPE_CMD`: arm in bit 0 is taken before fire in bit 1. -/
def loupeCommand (w : Word) (s : State) : State :=
  let s1 := if w.getLsbD 0 then loupeArm s else s
  if w.getLsbD 1 then loupeSource 3 s1.now s1 else s1

/-- The edge of LOUPE_IN that in_pol chooses, captured at its instant (R504). -/
def execLoupeInEdge (instant : BitVec 64) (rising : Bool) (s : State) : Out :=
  .next (if b2n rising = s.fget LOUPE_CFG LOUPE_CFG.in_pol then loupeSource 0 instant.toNat s else s)

/-- `LOUPE_CMD`.arm (R505). -/
def execLoupeArm (q : Requester) (s : State) : Out := .next (hostWrite q LOUPE_CMD (loupeCommand 1) s)

/-- `LOUPE_CMD`.fire (R504). -/
def execLoupeFire (q : Requester) (s : State) : Out := .next (hostWrite q LOUPE_CMD (loupeCommand 2) s)

end Sys2Proof.Machine
end

