-- ==== Sys2Proof/Machine/Acquisition.lean ====
section
/-!
DEFINITION. Trigger and capture (chapter 11): region FIFOs and merger, segments, triggers, masks, XLINE, the capture window, and
the close of a shot's window, which the SHOT_RANGE masks watch.
-/
namespace Sys2Proof.Machine

/-! ### Segments in memory (R341, R342) -/

/-- Event slots of one segment, its header's 8 slots included. -/
def State.segSlots (s : State) : Nat := 2097152 / min 4096 (max 1 ((s.reg AQ_SEG_CFG).toNat % 8192))

/-- The number of segments. -/
def State.segCount (s : State) : Nat := min 4096 (max 1 ((s.reg AQ_SEG_CFG).toNat % 8192))

/-- Capture runs (R357). -/
def State.aqOn (s : State) : Bool :=
  blockOn (s.planeOf tgtAq) 6 0 && s.domGood 63 && !s.fenced 6
    && (s.mode = .configured || s.mode = .armed || s.mode = .run || s.mode = .service)

/-- `AQ_STATUS`.state. -/
def State.aqState (s : State) : Nat := s.fget AQ_STATUS AQ_STATUS.state
def setAqState (n : Nat) (s : State) : State := fset AQ_STATUS AQ_STATUS.state n s

/-- Write one word, or consecutive words, of capture memory. -/
def putMem (off : Nat) (w : Word) (s : State) : State := { s with aq := { s.aq with mem := put (fun _ => 0) s.aq.mem off w } }
def putMems (off : Nat) : List Word → State → State
  | [], s => s
  | w :: ws, s => putMems (off + 1) ws (putMem off w s)

/-- The words of capture memory from an offset. -/
def State.memFrom (s : State) (off : Nat) : Nat → List Word
  | 0 => []
  | n + 1 => look (fun _ => 0) s.aq.mem off :: s.memFrom (off + 1) n

/-- The two words of an event (R335). -/
def AqEvent.words (e : AqEvent) (offset : Nat) : Word × Word :=
  (w32 offset, w32 (e.shot % 65536 + e.attr * 2 ^ 16 + e.stop % 8 * 2 ^ 18 + b2n e.pol * 2 ^ 21 + e.channel * 2 ^ 22))

/-- The header of a segment as it closes with a state code (R342). -/
def Segment.header (g : Segment) (st : Nat) (epochEnd fragEnd : Word) : List Word :=
  [w32 (g.seg + st * 2 ^ 12 + b2n g.wrapped * 2 ^ 16 + b2n g.swapSlot.isSome * 2 ^ 17), w32 g.stored, w32 g.oldest,
   (match g.trigSlot with | some t => w32 t | none => 0xFFFFFFFF), w32 g.start, w32 (g.start / 2 ^ 32),
   w32 (g.trig.getD 0), w32 (g.trig.getD 0 / 2 ^ 32), w32 (g.cause + g.fired * 2 ^ 16), w32 g.frameStart, w32 g.frameTrig,
   g.epochStart, epochEnd, g.fragStart, fragEnd, w32 g.lost]

/-! ### CAPT (R345, R386) -/

/-- Some CAPT packet waits in a lane's queue. -/
def State.captQueued (s : State) : Bool := s.lk.lanes.any (fun e => e.2.queue.any (fun p => p.stream = 2 && p.kind ≠ 15))

/-- A segment is waiting for, or in, CAPT transmission (R344). -/
def State.transmitting (s : State) (seg : Nat) : Bool :=
  s.aq.sending.any (fun p => p.seg = seg) || s.lk.lanes.any (fun e => e.2.queue.any (fun p => p.stream = 2 && p.kind ≠ 15 && p.seg = seg)
    || (e.2.flight.any (fun p => p.stream = 2 && p.kind ≠ 15 && p.seg = seg) && decide (s.now < e.2.flightEnd)))

/-- `AQ_STATUS`.transmitting: some segment is on CAPT. -/
def State.anyCapt (s : State) : Bool :=
  s.aq.sending ≠ [] || s.lk.lanes.any (fun e => e.2.queue.any (fun p => p.stream = 2 && p.kind ≠ 15)
    || (e.2.flight.any (fun p => p.stream = 2 && p.kind ≠ 15) && decide (s.now < e.2.flightEnd)))

/-- Hand the next CAPT packets to the lanes until one waits in a queue; `n` bounds the packets handed over. -/
def handCapt : Nat → State → State
  | 0, s => s
  | n + 1, s =>
    if s.captQueued then s
    else match s.aq.sending with
      | [] => s
      | p :: rest => handCapt n (sendPacket { p with opened := s.now } { s with aq := { s.aq with sending := rest } })

/-- Cut a list of event words into chunks of at most 1,023 events, the chunk index counted from `i`. -/
def chunks (seg : Nat) : Nat → Nat → List Word → List (List Word)
  | 0, _, _ => []
  | n + 1, i, ws => if ws = [] then [] else (w32 (seg + i * 4096) :: ws.take 2046) :: chunks seg n (i + 1) (ws.drop 2046)

/-- The packets of a closed segment: header, then its events in storage order; the final one carries last (R386). -/
def captPackets (seg frame : Nat) (epoch frag : Word) (header events : List Word) : List Packet :=
  let mk := fun (kind : Nat) (payload : List Word) (units : Nat) (last : Bool) =>
    ({ stream := 2, kind := kind, source := 6, last := last, frame := frame, epoch := epoch, frag := frag, payload := payload,
       units := units, seg := seg } : Packet)
  let cs := chunks seg (events.length / 2046 + 1) 0 events
  mk 0 header 0 (cs = []) :: cs.zipIdx.map (fun c => mk 1 c.1 ((c.1.length - 1) / 2) (c.2 + 1 = cs.length))

/-! ### Opening and closing a segment (R343, R344) -/

/-- A segment opens at the present instant, RECORDING. Items the merger holds from before it stay unstored. -/
def openSegment (seg : Nat) (s : State) : State :=
  let g : Segment := { seg := seg, start := s.now, slots := s.segSlots - 8, frameStart := s.frameNum, epochStart := s.reg LIVE_EPOCH,
                       fragStart := s.reg (LIVE_DIGEST 0) }
  fsets AQ_STATUS [(AQ_STATUS.state, 1), (AQ_STATUS.segment, seg)]
    { s with aq := { s.aq with seg := some g, gapTo := some s.now, masks := s.aq.masks.map (fun m => (m.1, { m.2 with seen := 0, lastRise := none })) } }

/-- The engine re-arms for segment `n`; a wait for its CAPT transmission is counted (R344). -/
def rearm (n : Nat) (s : State) : State :=
  let s1 := setAqState 3 { s with aq := { s.aq with nextSeg := n, gapFrom := some s.now, gapTo := none } }
  if s1.transmitting n then bumpOvf AQ_CNT AQ_CNT.rearm_wait 1 AQ_FLAGS AQ_FLAGS.cnt_ovf.lo s1 else s1

/-- The word offset of a segment's header. -/
def Segment.base (g : Segment) : Nat := g.seg * (g.slots + 8) * 2

/-- The CAPT packets of a closed segment: its header, and its events in storage order (R345). -/
def State.captOf (s : State) (g : Segment) (head : List Word) : List Packet :=
  let ev := s.memFrom (g.base + 16 + 2 * g.oldest) (2 * (min g.stored (g.slots - g.oldest)))
    ++ s.memFrom (g.base + 16) (2 * (g.stored - (g.slots - g.oldest)))
  captPackets g.seg (if g.trig.isSome then g.frameTrig else s.frameNum) (s.reg LIVE_EPOCH) (s.reg (LIVE_DIGEST 0)) head ev

/-- The open segment closes with a state code of R342: 3 COMPLETE, 4 STOPPED, 5 FULL, 6 ABORTED. -/
def closeSegment (st : Nat) (s : State) : State :=
  match s.aq.seg with
  | none => s
  | some g =>
    let head := g.header st (s.reg LIVE_EPOCH) (s.reg (LIVE_DIGEST 0))
    let s1 := putMems g.base head { s with aq := { s.aq with seg := none, closed := some (g, st), merger := s.aq.merger.filter (fun e => e.channel < 768) } }
    let s2 := fsets AQ_STATUS [(AQ_STATUS.closed, satAdd 4096 (s1.fget AQ_STATUS AQ_STATUS.closed) 1), (AQ_STATUS.segment, g.seg)] s1
    let s3 := if s2.fget AQ_CFG AQ_CFG.stream = 1 && (laneMask s2.cut.live 2 0).isSome && !s2.fenced 6 then
        let s3 := { s2 with aq := { s2.aq with sending := s2.aq.sending ++ s2.captOf g head } }
        handCapt s3.aq.sending.length s3
      else s2
    if st = 3 ∨ st = 5 then
      match s3.fget AQ_CFG AQ_CFG.seq_mode with
      | 1 => if g.seg + 1 < s3.segCount then rearm (g.seg + 1) s3 else setAqState 4 s3
      | 2 => rearm ((g.seg + 1) % s3.segCount) s3
      | _ => setAqState 4 s3
    else flagIf (st = 6) AQ_FLAGS AQ_FLAGS.aborted (setAqState 5 s3)

/-! ### Storing (R336, R338, R343) -/

/-- Set the open segment. -/
def setSeg (g : Segment) (s : State) : State := { s with aq := { s.aq with seg := some g } }

/-- The post value in force (R343). -/
def State.postOf (s : State) (g : Segment) : Nat := min ((s.reg AQ_POST).toNat % 2 ^ 21) (g.slots - 1)

/-- Segment `g` after an item has gone into its next slot. -/
def Segment.advance (g : Segment) (channel : Nat) : Segment :=
  let full := decide (g.stored = g.slots)
  { g with stored := if full then g.stored else g.stored + 1, next := (g.next + 1) % g.slots,
           oldest := if full then (g.next + 1) % g.slots else g.oldest, wrapped := g.wrapped || full,
           trigSlot := if channel = 0x3FE then some g.next else g.trigSlot,
           swapSlot := if channel = 0x3FC then some g.next else if g.swapSlot = some g.next then none else g.swapSlot,
           after := if g.trigSlot.isSome then g.after + 1 else g.after }

/-- Put the two words of an item into the next slot of the open segment `g`. -/
def putSlot (g : Segment) (e : AqEvent) (offset : Nat) (s : State) : State :=
  let (lo, hi) := e.words offset
  setSeg (g.advance e.channel) (putMems (g.base + 16 + 2 * g.next) [lo, hi] s)

/-- Put an item into the next slot. In POST a ring that has reached its TRIGGER marker closes FULL instead; a segment closes COMPLETE
once `post` events follow the marker. -/
def pushSlot (e : AqEvent) (offset : Nat) (s : State) : State :=
  match s.aq.seg with
  | none => s
  | some g =>
    if g.trigSlot = some g.next && g.stored = g.slots then closeSegment 5 s
    else
      let g1 := g.advance e.channel
      let s2 := putSlot g e offset s
      if g1.trigSlot.isSome && decide (s2.postOf g1 ≤ g1.after) then closeSegment 3 s2 else s2

/-- The SPAN marker of span `k`. -/
def spanMarker (t k : Nat) : AqEvent := { tLsb := t, shot := k, attr := 0, stop := 0, pol := false, channel := 0x3FF }

/-- Store an event or marker of time `e.tLsb`: a SPAN marker goes first where it opens a span, and a segment that would need span 65,536
closes FULL. Edges from before the segment's start are stored nowhere; the offset of a trigger instant before it is not stated. -/
def storeItem (e : AqEvent) (s : State) : State :=
  match s.aq.seg with
  | none => s
  | some g =>
    if e.tLsb < g.start * 128 then (if e.channel = 0x3FE then pushSlot e s.free.toNat (drawFree s) else s)
    else
      let k := (e.tLsb - g.start * 128) / 2 ^ 32
      let off := (e.tLsb - g.start * 128) % 2 ^ 32
      if k ≤ g.span then pushSlot e off s
      else if 65536 ≤ k then closeSegment 5 s
      else
        let s1 := pushSlot (spanMarker e.tLsb k) 0 (setSeg { g with span := k } s)
        match s1.aq.seg with
        | some g1 => if g1.seg = g.seg ∧ g1.start = g.start then pushSlot e off s1 else s1
        | none => s1

/-- Order of release: by time, markers first, then by channel, falling before rising (R339). -/
def AqEvent.before (a b : AqEvent) : Bool :=
  if a.tLsb ≠ b.tLsb then a.tLsb < b.tLsb
  else if (768 ≤ a.channel) ≠ (768 ≤ b.channel) then decide (768 ≤ a.channel)
  else if a.channel ≠ b.channel then a.channel < b.channel else !a.pol && b.pol

/-- Put an item into the merger at its place. -/
def insertItem (e : AqEvent) : List AqEvent → List AqEvent
  | [] => [e]
  | f :: l => if e.before f then e :: f :: l else f :: insertItem e l

/-- A marker takes its place by its time field. -/
def addMarker (e : AqEvent) (s : State) : State :=
  if s.aq.seg.isSome then { s with aq := { s.aq with merger := insertItem e s.aq.merger } } else s

/-- Markers that stand before an item leave the merger and are stored. -/
def flushMarkers (e : AqEvent) (s : State) : State :=
  let out := s.aq.merger.filter (fun f => 768 ≤ f.channel ∧ f.before e)
  out.foldl (fun t f => storeItem f t) { s with aq := { s.aq with merger := s.aq.merger.filter (fun f => !(768 ≤ f.channel ∧ f.before e)) } }

/-! ### Triggers (R346 to R350) -/

/-- The TRIGGER marker of a segment. -/
def Segment.marker (g : Segment) : AqEvent :=
  { tLsb := g.trig.getD 0 * 128, shot := g.cause, attr := 0, stop := g.fired, pol := false, channel := 0x3FE }

/-- `FRAME_NUM` at an instant of the last two frames. -/
def State.frameAt (s : State) (t : Nat) : Nat := if s.frameEdge ≤ t then s.frameNum else (s.frameNum + 0xFFFFFFFF) % 2 ^ 32

/-- The unit pulls XLINE for a trigger of this tick that fired from source `fired`, where xline_out asks for it: from any source but XLINE,
and the lowest code of the tick decides (R348, R349). -/
def settlePull (fired : Nat) (s : State) : State :=
  let mine := s.aq.pullUntil.isSome && s.aq.pullAt / 2 = s.now / 2
  if fired = 1 then (if mine then { s with aq := { s.aq with pullUntil := none } } else s)
  else if mine ∨ s.fget AQ_CFG AQ_CFG.xline_out = 0 then s
  else { s with aq := { s.aq with pullUntil := some (s.now + (s.fget AQ_XLINE AQ_XLINE.xline_len + 1) * 16), pullAt := s.now } }

/-- A trigger fires in a RECORDING segment: the state becomes POST, XLINE is pulled where it is asked for, and Loupe hears of it. -/
def fireTrigger (g : Segment) (code t : Nat) (s : State) : State :=
  let g1 := { g with trig := some t, tick := s.now / 2, cause := 2 ^ code, fired := code, frameTrig := s.frameAt t, triggered := true }
  let s1 := flag AQ_FLAGS AQ_FLAGS.triggered (setAqState 2 (setSeg g1 s))
  loupeSource 1 t (settlePull code (addMarker g1.marker s1))

/-- A segment's trigger with a further source of its tick: the cause bitmap takes it, and the lowest code stands with its instant (R349). -/
def State.joined (s : State) (g : Segment) (code t : Nat) : Segment :=
  let g1 := { g with cause := g.cause ||| 2 ^ code }
  if code < g.fired then { g1 with fired := code, trig := some t, frameTrig := s.frameAt t } else g1

/-- A stored TRIGGER marker is written anew. -/
def remark (g : Segment) (s : State) : State :=
  match g.trigSlot with
  | none => s
  | some slot =>
    let before : Bool := g.marker.tLsb < g.start * 128
    let (lo, hi) := g.marker.words (if before then s.free.toNat else (g.marker.tLsb - g.start * 128) % 2 ^ 32)
    putMems (g.base + 16 + 2 * slot) [lo, hi] (if before then drawFree s else s)

/-- A further source is true in the tick of the trigger (R349). -/
def joinTrigger (g : Segment) (code t : Nat) (s : State) : State :=
  let g1 := s.joined g code t
  settlePull g1.fired (match g.trigSlot with
  | none => addMarker g1.marker (setSeg g1 { s with aq := { s.aq with merger := s.aq.merger.filter (fun e => e.channel ≠ 0x3FE) } })
  | some _ => setSeg g1 (remark g1 s))

/-- A CAPT packet of a segment as its rewritten content gives it. -/
def Packet.renewed (ps : List Packet) (p : Packet) : Packet :=
  match ps.find? (fun r => p.stream = 2 && r.seg = p.seg && r.kind = p.kind && r.payload.head? = p.payload.head?) with
  | some r => { p with payload := r.payload }
  | none => p

/-- A further source is true in the tick of a trigger whose segment has closed in that tick: header, marker and what waits for CAPT take
it (R349). After the stop of a mask it is the first trigger of the tick (R362). -/
def joinClosed (g : Segment) (st code t : Nat) (s : State) : State :=
  let s := if g.triggered then s else loupeSource 1 t (flag AQ_FLAGS AQ_FLAGS.triggered s)
  let g1 := { s.joined g code t with triggered := true }
  let head := g1.header st (s.reg LIVE_EPOCH) (s.reg (LIVE_DIGEST 0))
  let s1 := putMems g.base head (remark g1 s)
  let ps := s1.captOf g1 head
  settlePull g1.fired { s1 with
    aq := { s1.aq with closed := some (g1, st), sending := s1.aq.sending.map (Packet.renewed ps) }
    lk := { s1.lk with lanes := s1.lk.lanes.map (fun e => (e.1, { e.2 with queue := e.2.queue.map (Packet.renewed ps) })) } }

/-- The segment that has closed in the tick of its trigger, where that tick is the present one. -/
def State.closedNow (s : State) : Option (Segment × Nat) :=
  s.aq.closed.filter (fun c => c.1.trig.isSome && c.1.tick = s.now / 2)

/-- A trigger source is true with its instant (R349, R350). -/
def triggerSource (code t : Nat) (s : State) : State :=
  if !s.aqOn then s
  else match s.closedNow, s.aq.seg with
    | some (g, st), _ => joinClosed g st code t s
    | none, none => bumpOvf AQ_CNT AQ_CNT.trig_ignored 1 AQ_FLAGS AQ_FLAGS.cnt_ovf.lo s
    | none, some g =>
      if g.trig.isNone then fireTrigger g code t s
      else if g.tick = s.now / 2 then joinTrigger g code t s
      else bumpOvf AQ_CNT AQ_CNT.trig_ignored 1 AQ_FLAGS AQ_FLAGS.cnt_ovf.lo s

/-- A mask with action stop is violated: its TRIGGER marker is stored, behind the SPAN marker of a span it opens, and the segment closes as
STOPPED; as FULL where it would need span 65,536 (R336, R338, R343, R356). -/
def stopByMask (s : State) : State :=
  match s.aq.seg with
  | none => s
  | some g =>
    let g1 := if g.trig.isNone then { g with trig := some s.now, tick := s.now / 2, cause := 4, fired := 2, frameTrig := s.frameNum }
              else s.joined g 2 s.now
    let s1 := { s with aq := { s.aq with merger := s.aq.merger.filter (fun e => e.channel ≠ 0x3FE), seg := some g1 } }
    let s2 := settlePull g1.fired s1
    match g1.trigSlot with
    | some _ => closeSegment 4 (remark g1 s2)
    | none =>
      let m := g1.marker
      let k := (m.tLsb - g.start * 128) / 2 ^ 32
      let off := (m.tLsb - g.start * 128) % 2 ^ 32
      if m.tLsb < g.start * 128 then closeSegment 4 (putSlot g1 m s2.free.toNat (drawFree s2))
      else if k ≤ g.span then closeSegment 4 (putSlot g1 m off s2)
      else if 65536 ≤ k then closeSegment 5 s2
      else
        let g2 : Segment := { g1 with span := k }
        closeSegment 4 (putSlot (g2.advance 0x3FF) m off (putSlot g2 (spanMarker m.tLsb k) 0 s2))

/-! ### Masks (R351 to R356) -/

/-- A mask of table 0x08 (R351). -/
structure Mask where
  kind : Nat
  stop : Bool
  persist : Nat
  channel : Nat
  first : Nat
  shift : Nat
  pixFirst : Nat
  pixLast : Nat
  points : List Nat
  deriving DecidableEq, Repr

/-- The next `n` masks of a table. -/
def masksFrom : Nat → List Word → List Mask
  | n + 1, h0 :: h1 :: h2 :: h3 :: ws =>
    let ne := h0.toNat / 2 ^ 16 % 1024
    { kind := h0.toNat % 4, stop := h0.getLsbD 2, persist := max 1 (h0.toNat / 256 % 256), channel := h1.toNat % 1024,
      first := h1.toNat / 2 ^ 16 % 512, shift := h1.toNat / 2 ^ 25 % 16, pixFirst := h2.toNat % 2 ^ 24, pixLast := h3.toNat % 2 ^ 24,
      points := (ws.take ne).map BitVec.toNat } :: masksFrom n (ws.drop ne)
  | _, _ => []

/-- The masks of a plane. -/
def masksOf (pl : Option Plane) : List Mask :=
  match tableOf pl (regionCommon 6) 0x0803 with
  | [] => []
  | w :: ws => masksFrom (w.toNat % 16) ws

/-- A mask is inactive (R353). -/
def Mask.inactive (m : Mask) (pl : Option Plane) : Bool :=
  !checkable pl (m.channel / 16) (m.channel % 16)
    || (m.kind = 0 && (rxPairing pl m.channel = 1 && m.channel % 2 = 1 || decide (nBins pl m.channel < m.first + m.points.length)))
    || (m.kind ≠ 0 && decide (nBins pl m.channel < m.first + m.points.length))

/-- Limits of envelope point `j`. -/
def Mask.lo (m : Mask) (j : Nat) : Nat := nth 0 m.points j % 65536
def Mask.hi (m : Mask) (j : Nat) : Nat := nth 0 m.points j / 65536

/-- What mask `i` has counted. -/
def State.maskRun (s : State) (i : Nat) : MaskRun := look (fun _ => {}) s.aq.masks i
def setMaskRun (i : Nat) (r : MaskRun) (s : State) : State := { s with aq := { s.aq with masks := put (fun _ => {}) s.aq.masks i r } }

/-- Masks test while a segment is RECORDING, and still in the tick of its trigger (R356, R362). -/
def State.recording (s : State) : Bool :=
  match s.aq.seg with
  | none => false
  | some g => g.trig.isNone || g.tick = s.now / 2

/-- A test of mask `i` ends, violating or passing (R356). -/
def maskTest (i : Nat) (m : Mask) (violating : Bool) (s : State) : State :=
  let r := s.maskRun i
  if !violating then setMaskRun i { r with run := 0 } s
  else if r.run + 1 < m.persist then setMaskRun i { r with run := r.run + 1 } s
  else
    let s1 := setFlag AQ_MASK_STATUS i (setMaskRun i { r with run := 0 } s)
    if m.stop then stopByMask s1 else triggerSource 2 s1.now s1

/-- The masks in force, each with its number, that are active and watch a channel. -/
def State.masksOn (s : State) (kind channel : Nat) : List (Mask × Nat) :=
  let pl := s.planeOf tgtAq
  (masksOf pl).zipIdx.filter (fun e => e.1.kind = kind && e.1.channel = channel && !e.1.inactive pl)

/-- A value of a stream arrives at mask `i` (R355). -/
def maskValue (i : Nat) (m : Mask) (v : Nat) (s : State) : State :=
  let r := s.maskRun i
  let j := r.seen % m.points.length
  maskTest i m (v < m.lo j || m.hi j < v) (setMaskRun i { r with seen := r.seen + 1 } s)

/-- A rising edge released by the merger is a value of the EDGE_GAP masks of its channel. -/
def edgeGap (e : AqEvent) (s : State) : State :=
  (s.masksOn 2 e.channel).foldl (fun t mi =>
    let r := t.maskRun mi.2
    let t1 := setMaskRun mi.2 { r with lastRise := some e.tLsb } t
    match r.lastRise with
    | none => t1
    | some p => if t1.recording then maskValue mi.2 mi.1 (min 0xFFFF ((e.tLsb - p) / 2 ^ mi.1.shift)) t1 else t1) s

/-- A counted shot of a channel is a value of its SHOT_RANGE masks, in RUN and SERVICE (R355, R356). -/
def shotRange (c : Nat) (w : Win) (s : State) : State :=
  if s.aqOn && (s.mode = .run || s.mode = .service) then
    (s.masksOn 1 c).foldl (fun t mi =>
      if t.recording then
        maskValue mi.2 mi.1 (match w.first with | some r => min 0xFFFE (r / 2 ^ (4 + mi.1.shift)) | none => 0xFFFF) t
      else t) s
  else s

/-- A HIST mask tests a closed pixel: its index, the counts of its bins, and its shots counted (R354). -/
def histMask (c pixel shots : Nat) (counts : List Nat) (s : State) : State :=
  if s.aqOn && (s.mode = .run || s.mode = .service) && decide (0 < shots) then
    (s.masksOn 0 c).foldl (fun t mi =>
      let m := mi.1
      if t.recording && decide (m.pixFirst ≤ pixel) && decide (pixel ≤ m.pixLast) then
        maskTest mi.2 m (anyBelow (fun j =>
          let v := min 65535 (nth 0 counts (m.first + j) * 1024 / shots)
          v < m.lo j || m.hi j < v) m.points.length) t
      else t) s
  else s

/-- A shot's window closes and the shot is judged; one that counts feeds the SHOT_RANGE masks. -/
def execShotWindowClose (cell : Fin 768) (s : State) : Out :=
  .next (match closeShot cell s with
    | (s1, some w) => shotRange cell w s1
    | (s1, none) => s1)

/-! ### The plane of AQ (R29, R357, R362) -/

/-- AQ stands under a plane: `AQ_MASK_STATUS` shows the masks that are inactive (R353), and where AQ is not enabled the open segment closes and
what it holds is lost. -/
def takeMasks (pl : Option Plane) (s : State) : State :=
  let ms := masksOf pl
  let s1 := fset AQ_MASK_STATUS AQ_MASK_STATUS.inactive (bitsBelow (fun i => (ms[i]?).any (fun m => m.inactive pl)) 8) s
  if blockOn pl 6 0 then s1
  else
    let s2 := closeSegment 6 s1
    { s2 with aq := { s2.aq with mem := [], fifos := [], merger := [], lost := [], sending := [] } }

/-- AQ takes the new plane at a stamp: masks restart under the new envelope, an open segment gets its SWAP marker at I; where the plane
has no AQ the segment is aborted and the memory lost. -/
def applyAq (stamp : Nat) (s : State) : State :=
  if s.cut.waiting.contains tgtAq then
    let s1 := markApplied tgtAq stamp s
    let pl := s1.cut.live
    let s2 := { s1 with aq := { s1.aq with masks := [] } }
    let s3 := addMarker { tLsb := s.cut.swapI * 128, shot := (s1.reg LIVE_EPOCH).toNat % 65536, attr := 0, stop := 0, pol := false, channel := 0x3FC } s2
    takeMasks pl s3
  else s

/-! ### Arrival and release (R339, R340) -/

/-- The FIFO of an RX region. -/
def State.fifo (s : State) (n : Nat) : List AqEvent := look (fun _ => []) s.aq.fifos n
def setFifo (n : Nat) (l : List AqEvent) (s : State) : State := { s with aq := { s.aq with fifos := put (fun _ => []) s.aq.fifos n l } }

/-- The merger accepts the oldest `k` entries of a region FIFO. -/
def mergeFrom (n k : Nat) (s : State) : State :=
  let l := s.fifo n
  let s1 := setFifo n (l.drop k) s
  { s1 with aq := { s1.aq with merger := (l.take k).foldl (fun m e => insertItem e m) s1.aq.merger } }

/-- An edge lies between a close and the next start, or in a re-arm still in progress, where it is stored nowhere and not counted as lost
(R344). -/
def State.inGap (s : State) (e : AqEvent) : Bool :=
  s.aq.gapFrom.any (fun c => decide (c * 128 ≤ e.tLsb))
    && (match s.aq.gapTo with
      | some a => decide (e.tLsb < a * 128)
      | none => s.aqState = 3)

/-- A delivered edge enters its region FIFO, or is lost when the FIFO is full. `taken` is how many entries the merger has accepted from
it since the arrival before. -/
def execCaptureEdgeArrival (rx : Fin 6) (taken : Nat) (s : State) : Out :=
  .next (match look (fun _ => []) s.rx.toAq rx with
    | [] => mergeFrom rx taken s
    | e :: rest =>
      let s1 := { s with rx := { s.rx with toAq := put (fun _ => []) s.rx.toAq rx rest } }
      if !s1.aqOn then s1
      else
        let s2 := mergeFrom rx taken s1
        if (s2.fifo rx).length < 64 then setFifo rx (s2.fifo rx ++ [e]) s2
        else if s2.inGap e then s2
        else
          let (n, t) := look (fun _ => (0, 0)) s2.aq.lost rx
          let s3 := { s2 with aq := { s2.aq with
            lost := put (fun _ => (0, 0)) s2.aq.lost rx (satAdd 0xFFFFFFFF n 1, if n = 0 then e.tLsb else t),
            seg := s2.aq.seg.map (fun g => { g with lost := satAdd 0xFFFFFFFF g.lost 1 }) } }
          flag AQ_FLAGS AQ_FLAGS.ingress_loss (bumpOvf AQ_LOST whole 1 AQ_FLAGS AQ_FLAGS.cnt_ovf.lo s3))

/-- A GAP marker reports lost edges of a region once its FIFO holds fewer than 48 (R340). -/
def execGapMarker (rx : Fin 6) (taken : Nat) (s : State) : Out :=
  .next (let s1 := mergeFrom rx taken s
    let (n, t) := look (fun _ => (0, 0)) s1.aq.lost rx
    if n = 0 ∨ 48 ≤ (s1.fifo rx).length then s1
    else
      addMarker { tLsb := t, shot := min n 0xFFFF, attr := 0, stop := rx, pol := false, channel := 0x3FD }
        { s1 with aq := { s1.aq with lost := put (fun _ => (0, 0)) s1.aq.lost rx (0, 0) } })

/-- The earliest item the merger or a region FIFO holds. -/
def State.earliest (s : State) : Option AqEvent :=
  let all := s.aq.merger ++ s.aq.fifos.flatMap (·.2)
  match all with
  | [] => none
  | e :: l => some (l.foldl (fun a b => if b.before a then b else a) e)

/-- Take an item out of the merger and the FIFOs. -/
def takeItem (e : AqEvent) (s : State) : State :=
  if s.aq.merger.contains e then { s with aq := { s.aq with merger := s.aq.merger.erase e } }
  else { s with aq := { s.aq with fifos := (s.aq.fifos.map (fun p => (p.1, p.2.erase e))).filter (fun p => p.2 ≠ []) } }

/-- The polarity that EDGE and RATE want (R346, R360). -/
def edgeWanted (sel : Nat) (rising : Bool) : Bool := match sel with | 0 => rising | 1 => !rising | _ => true

/-- EDGE and RATE see a released edge (R346). -/
def edgeSources (e : AqEvent) (s : State) : State :=
  let c := e.channel
  if s.rbit (AQ_TRIG (c / 32)) (c % 32) && s.captureSel c && edgeWanted (s.fget AQ_CFG AQ_CFG.edge_pol) e.pol then
    let s1 := if s.fget AQ_CFG AQ_CFG.edge_en = 1 then triggerSource 3 (e.tLsb / 128) s else s
    if s1.fget AQ_CFG AQ_CFG.rate_en = 1 then
      let n := max 1 (s1.fget AQ_RATE AQ_RATE.rate_n)
      let win := s1.fget AQ_RATE AQ_RATE.rate_win * 8 * 128
      let l := (e.tLsb :: s1.aq.rate).filter (fun t => e.tLsb ≤ t + win) |>.take n
      let s2 := { s1 with aq := { s1.aq with rate := l } }
      if l.length = n then triggerSource 4 (e.tLsb / 128) s2 else s2
    else s1
  else s

/-- The merger releases the earliest item 256 ns after its time; an edge feeds the masks and the EDGE and RATE sources, and is stored
behind the markers that precede it (R29, R336, R339, R346, R355). -/
def execEventRelease (s : State) : Out :=
  .next (match s.earliest with
    | none => s
    | some e =>
      if s.now * 128 < e.tLsb + 256 * 128 ∨ !s.aqOn then s
      else
        let s1 := takeItem e s
        if 768 ≤ e.channel then storeItem e s1
        else
          let s2 := if s1.cut.swapI * 128 ≤ e.tLsb then applyAq (e.tLsb / 128) s1 else s1
          let s3 := if e.pol then edgeGap e s2 else s2
          storeItem e (flushMarkers e (edgeSources e s3)))

/-- post_time after the trigger has passed, and every event up to it has been released: the segment closes COMPLETE (R343). -/
def execPostTimeExpiry (s : State) : Out :=
  .next (let pt := (s.reg AQ_POST_TIME).toNat
    match s.aq.seg with
    | some g =>
      match g.trig with
      | some t =>
        let due := (s.aq.merger ++ s.aq.fifos.flatMap (·.2)).any (fun e => decide (e.tLsb ≤ (t + pt) * 128 ∧ e.channel < 768))
        if pt ≠ 0 ∧ t + pt + 256 ≤ s.now ∧ !due then
          let s1 := flushMarkers { tLsb := (t + pt) * 128 + 128, shot := 0, attr := 0, stop := 0, pol := false, channel := 0 } s
          closeSegment 3 s1
        else s
      | none => s
    | none => s)

/-- The next segment opens within 640 ns of a close, or after the CAPT transmission of that segment ends (R344). -/
def execSegmentOpen (s : State) : Out :=
  .next (if s.aqOn && s.aqState = 3 && !s.transmitting s.aq.nextSeg then openSegment s.aq.nextSeg s else s)

/-! ### Commands (R343, R346, R350, R360) -/

/-- Set the header of every segment to EMPTY. -/
def emptyHeaders (s : State) : State :=
  forUp (fun g t => putMem (g * t.segSlots * 2) (w32 g) t) 0 s.segCount s

/-- ARM. -/
def aqArm (s : State) : State :=
  if s.aqState = 0 ∨ s.aqState = 4 ∨ s.aqState = 5 then
    let s1 := fset AQ_STATUS AQ_STATUS.closed 0 (setReg AQ_LOST 0 (emptyHeaders s))
    let s2 := { s1 with aq := { s1.aq with undefinedSeg := none, gapFrom := none } }
    if s2.transmitting 0 then { rearm 0 s2 with aq := { (rearm 0 s2).aq with gapFrom := none } } else openSegment 0 s2
  else flag AQ_FLAGS AQ_FLAGS.cmd_refused s

/-- ABORT: an open segment closes as ABORTED; a re-arm in progress ends. It has no effect in IDLE, DONE or STOPPED. -/
def aqAbort (s : State) : State :=
  match s.aq.seg with
  | some _ => closeSegment 6 s
  | none => if s.aqState = 3 then setAqState 5 s else s

/-- FORCE: a trigger source, refused where no segment is RECORDING. -/
def aqForce (s : State) : State :=
  let s1 := if s.aqState = 1 then s else flag AQ_FLAGS AQ_FLAGS.cmd_refused s
  triggerSource 5 s1.now s1

/-- CLEAR_CNT. -/
def aqClear (s : State) : State := setReg AQ_CNT 0 (setReg AQ_LOST 0 s)

/-- A write of `AQ_CTRL` (R360). -/
def aqCommand (code : Nat) (s : State) : State :=
  match code with
  | 1 => aqArm s
  | 2 => aqAbort s
  | 3 => aqForce s
  | 4 => aqClear s
  | _ => flag AQ_FLAGS AQ_FLAGS.cmd_refused s

def execCaptureArm (q : Requester) (s : State) : Out := .next (hostWrite q AQ_CTRL aqArm s)
def execCaptureAbort (q : Requester) (s : State) : Out := .next (hostWrite q AQ_CTRL aqAbort s)
def execForce (q : Requester) (s : State) : Out := .next (hostWrite q AQ_CTRL aqForce s)
def execClearCnt (q : Requester) (s : State) : Out := .next (hostWrite q AQ_CTRL aqClear s)

/-- The write of a value that names no command; a value that names one acts as that command. -/
def execAqBadCommand (q : Requester) (command : BitVec 3) (s : State) : Out := .next (hostWrite q AQ_CTRL (aqCommand command.toNat) s)

/-! ### External triggers (R347, R348) -/

/-- An edge of EXT_TRIG reaches AQ; the active one is a source. A pulse shorter than 10 ns is
ignored, with the edge that begins it and the one that ends it. -/
def execExtTrigEdge (instant : BitVec 64) (edge : TrigEdge) (s : State) : Out :=
  .next (let t := instant.toNat
    let short := decide (edge.lasts < 10) || s.aq.extAt.any (fun e => decide (t < e + 10))
    let s1 := { s with aq := { s.aq with extAt := some t } }
    if s.fget AQ_CFG AQ_CFG.ext_en = 1 ∧ b2n edge.rising = s.fget AQ_CFG AQ_CFG.ext_pol ∧ ¬ short then triggerSource 0 t s1 else s1)

/-- The unit is pulling XLINE, by a decision of an earlier tick, or released it less than 100 ns before. -/
def State.ownXline (s : State) (t : Nat) : Bool :=
  (s.aq.pullUntil.isSome && s.aq.pullAt / 2 ≠ s.now / 2) || (match s.aq.released with | some r => t < r + 100 | none => false)

/-- XLINE falls without being driven by this unit; a pulse shorter than 10 ns is ignored as on EXT_TRIG (R346 to R348). -/
def execXlineEdge (instant : BitVec 64) (fall : LineFall) (s : State) : Out :=
  .next (let t := instant.toNat
    let s1 := if 1000 ≤ fall.highFor then { s with aq := { s.aq with stuck := false } } else s
    if s1.fget AQ_CFG AQ_CFG.xline_in = 1 && !s1.ownXline t && !s1.aq.stuck && decide (10 ≤ fall.highFor ∧ 10 ≤ fall.lasts) then triggerSource 1 t s1 else s1)

/-- (xline_len + 1) × 16 ns after the pull the unit releases XLINE (R348). -/
def execXlineRelease (s : State) : Out :=
  .next (match s.aq.pullUntil with
    | some t => if t ≤ s.now then { s with aq := { s.aq with pullUntil := none, released := some s.now } } else s
    | none => s)

/-- Another party has held XLINE low for `lowFor` ns, beyond its limit (R348). -/
def execXlineStuck (lowFor : Nat) (s : State) : Out :=
  .next (if (s.fget AQ_XLINE AQ_XLINE.xline_stuck + 1) * 1000000 < lowFor then
      flag AQ_FLAGS AQ_FLAGS.xline_stuck { s with aq := { s.aq with stuck := true } }
    else s)

/-! ### The capture window (R345, R546) -/

/-- A read of the capture window at a word offset; `ecc` is 1 for a corrected error and 2 for an uncorrectable one. -/
def captRead (q off ecc : Nat) (s : State) : State :=
  let a := 0x20000000 + off * 4
  let seg := off / 2 / s.segSlots
  if !s.answers then s
  else if s.fenced 6 then complete q 6 a 0 s
  else if !blockOn (s.planeOf tgtAq) 6 0 || !s.domGood 63 then complete q 5 a 0 s
  else if s.aq.seg.any (fun g => g.seg = seg) && decide (seg < s.segCount) then complete q 1 a 0 s
  else if ecc = 2 then complete q 8 a 0xFFFFFFFF (flag AQ_FLAGS AQ_FLAGS.ecc_fatal s)
  else
    let s1 := flagIf (ecc = 1) AQ_FLAGS AQ_FLAGS.ecc_corrected s
    if s1.aq.undefinedSeg = some seg then complete q 0 a s1.free (drawFree s1)
    else complete q 0 a (look (fun _ => 0) s1.aq.mem off) s1

def execCaptureWindowRead (q : Requester) (offset : BitVec 22) (ecc : Fin 3) (s : State) : Out :=
  .next (captRead q offset.toNat ecc s)

/-! ### Fences (R36, R37, R358) -/

/-- A region is fenced: a fence of AQ aborts the open segment, whose content is undefined, and a fence of an RX region puts a GAP marker
into it (R358). -/
def fence (r : Nat) (s : State) : State :=
  if s.fenced r || !fenceable r then s
  else
    let s1 := fenceRegion r s
    if r = 6 then
      match s1.aq.seg with
      | some g => let s2 := setAqState 0 (closeSegment 6 s1); { s2 with aq := { s2.aq with undefinedSeg := some g.seg } }
      | none => setAqState 0 s1
    else if 8 ≤ r then
      addMarker { tLsb := s1.now * 128, shot := 0, attr := 1, stop := r - 8, pol := false, channel := 0x3FD } s1
    else s1

/-- A girdle loop loses lock: an island clock monitor fault of its region (R138). -/
def execGirdleLockLoss (rx : Fin 6) (s : State) : Out :=
  .next (fence (8 + rx) (forUp (fun b t => fset (GD_BLK_STATUS (rx * 8 + b)) GD_BLK_STATUS.ring_locked 0
    (setBlk (rx * 8 + b) { t.blk (rx * 8 + b) with markers := [], markersSeen := 0 } t)) 0 8 s))

end Sys2Proof.Machine
end

