-- ==== Sys2Proof/Machine/Extract.lean ====
section
/-!
DEFINITION. Return extraction and point records (chapter 07): background, candidates, centroid, residual walk, range, intensity,
width, confidence, class, selection, records, and what a pixel tells its range gate (R192).
-/
namespace Sys2Proof.Machine

/-! ### Background (R205) -/

/-- The least `v` from `v` on with `p v`, within `n` steps. -/
def leastFrom (p : Nat → Bool) : Nat → Nat → Nat
  | v, 0 => v
  | v, n + 1 => if p v then v else leastFrom p (v + 1) n

/-- How many numbers of a list satisfy `p`. -/
def countIf (p : Nat → Bool) (l : List Nat) : Nat := (l.filter p).length

/-- The least value that at least `r` of the numbers do not exceed. -/
def rankValue (l : List Nat) (r : Nat) : Nat := leastFrom (fun v => decide (r ≤ countIf (· ≤ v) l)) 0 2048

/-- The bins of R205 that are not marked: those with no count above `t1` within `guard` bins. -/
def unmarked (n : List Nat) (t1 guard : Nat) : List Nat :=
  (List.range n.length).filterMap (fun i =>
    if ((n.drop (i - guard)).take (min i guard + guard + 1)).any (fun x => decide (t1 < x)) then none else some (nth 0 n i))

/-- bg16, the background in sixteenths of a count per bin. -/
def background (n : List Nat) (guard : Nat) : Nat :=
  let m1 := rankValue n (n.length / 2)
  let t1 := m1 + 2 + 3 * isqrt m1
  let u := unmarked n t1 guard
  if u.length < 32 then 16 * m1
  else
    let v := rankValue u ((u.length + 1) / 2)
    let below := countIf (· < v) u
    let f := countIf (· = v) u
    (16 * (v : Int) - 8 + Int.tdiv (8 * (u.length : Int) - 16 * below + (f / 2 : Nat)) f).toNat

/-! ### Candidates (R206) -/

/-- The maximal runs of true values, as (first, last), counting from `i`; `st` is where the present run began. -/
def runsOf : Nat → Option Nat → List Bool → List (Nat × Nat)
  | _, none, [] => []
  | i, some a, [] => [(a, i - 1)]
  | i, none, true :: l => runsOf (i + 1) (some i) l
  | i, none, false :: l => runsOf (i + 1) none l
  | i, some a, true :: l => runsOf (i + 1) (some a) l
  | i, some a, false :: l => (a, i - 1) :: runsOf (i + 1) none l

/-- The nets of bins `a` to `b`. -/
def span (ns : List Int) (a b : Nat) : List Int := (ns.drop a).take (b + 1 - a)

/-- The largest of a list of integers. -/
def maxI : List Int → Option Int
  | [] => none
  | x :: l => some (l.foldl max x)

/-- The bins at which the run from `a` to `b` may split. -/
def valleys (ns : List Int) (a b : Nat) : List Nat :=
  (List.range (b + 1 - a)).filterMap (fun j =>
    let v := a + j
    let nv := nth 0 ns v
    match maxI (span ns a (v - 1)), maxI (span ns (v + 1) b) with
    | some x, some y => if a < v ∧ v < b ∧ 2 * nv ≤ x ∧ 2 * nv ≤ y then some v else none
    | _, _ => none)

/-- The lowest valley, the lower-numbered bin first. -/
def lowest (ns : List Int) : List Nat → Option Nat
  | [] => none
  | v :: l => match lowest ns l with
    | some w => if nth 0 ns w < nth 0 ns v then some w else some v
    | none => some v

/-- Split a run at its valleys; a part shrinks by a bin at least, so `n` above its length is enough. -/
def splitRun (ns : List Int) : Nat → Nat → Nat → List (Nat × Nat)
  | 0, a, b => [(a, b)]
  | n + 1, a, b =>
    match lowest ns (valleys ns a b) with
    | none => [(a, b)]
    | some v => splitRun ns n a v ++ splitRun ns n (v + 1) b

/-- A candidate return: its bins, its signal, its highest bin and that bin's net. -/
structure Cand where
  a : Nat
  b : Nat
  s16 : Nat
  hi : Nat
  peak : Int
  deriving DecidableEq, Repr

/-- The first bin of `a` to `b` with the largest net. -/
def highest (ns : List Int) (a b : Nat) : Nat :=
  (List.range (b + 1 - a)).foldl (fun h j => if nth 0 ns h < nth 0 ns (a + j) then a + j else h) a

/-- The candidate of a part, where its signal is positive. -/
def candOf (ns : List Int) (p : Nat × Nat) : Option Cand :=
  let sum := (span ns p.1 p.2).foldl (· + ·) 0
  if 0 < sum then
    let h := highest ns p.1 p.2
    some { a := p.1, b := p.2, s16 := sum.toNat, hi := h, peak := nth 0 ns h }
  else none

/-- Insert by falling signal; candidates come in rising order of bins, and equal signal keeps that order. -/
def insertCand (c : Cand) : List Cand → List Cand
  | [] => [c]
  | d :: l => if d.s16 < c.s16 then c :: d :: l else d :: insertCand c l

/-- Every candidate of a pixel, strongest first. -/
def candidates (ns : List Int) (thr : Int) : List Cand :=
  let parts := (runsOf 0 none (ns.map (fun x => decide (thr ≤ x)))).flatMap (fun r => splitRun ns (r.2 + 1 - r.1) r.1 r.2)
  (parts.filterMap (candOf ns)).foldl (fun l c => insertCand c l) []

/-! ### What a return carries (R207 to R214) -/

/-- A return. -/
structure Ret where
  cand : Cand
  /-- Centroid, or the centre of the highest bin, in units. -/
  centroid : Int
  range : Nat
  intensity : Nat
  width : Nat
  conf : Nat
  cls : Nat
  deriving DecidableEq, Repr

/-- What the extractor needs of a pixel and its plane. -/
structure Ctx where
  stages : List Nat
  rec_ : Word
  peak : Word
  class_ : Word
  scale : Nat
  win : CellWin
  bins : List Word
  bg : Nat
  nets : List Int
  ovl : Nat
  shots : Nat
  rtable : List Int
  /-- Dither step and ledger where the ledger is kept. -/
  ledger : Option (Nat × Sparse Nat)
  deriving DecidableEq, Repr

/-- A stage of R52 is present. -/
def Ctx.has (c : Ctx) (stage : Nat) : Bool := c.stages.contains stage

/-- Bin width in units. -/
def Ctx.u (c : Ctx) : Nat := 2 ^ (8 + c.win.kEff)

/-- The centroid of a candidate (R207), or its substitute (R204). -/
def Ctx.centroid (c : Ctx) (d : Cand) : Int :=
  let o : Int := 256 * c.win.o
  if c.has 3 then
    let sums := (List.range (d.b + 1 - d.a)).foldl (fun (acc : Int × Int) j =>
      let i := d.a + j
      let w := nth 0 c.bins i
      let si : Int := o + i * c.u
      let cnt : Int := binCount w
      (acc.1 + 16 * (1024 * cnt * si + (binFine w : Int) * c.u) - 1024 * (c.bg : Int) * (si + c.u / 2), acc.2 + 16 * cnt - c.bg)) (0, 0)
    divRoundI sums.1 (1024 * sums.2.toNat)
  else o + d.hi * c.u + c.u / 2

/-- The residual walk of a candidate (R208). -/
def Ctx.residual (c : Ctx) (d : Cand) : Int :=
  if c.has 4 then
    let rho := min 1024 (64 * d.s16 / c.shots)
    let j := min (rho / 32) 31
    let frac : Nat := rho - 32 * j
    nth 0 c.rtable j + Int.tdiv ((nth 0 c.rtable (j + 1) - nth 0 c.rtable j) * frac) 32
  else 0

/-- The range of a candidate (R208, R209). -/
def Ctx.range (c : Ctx) (d : Cand) : Nat := ((c.centroid d - c.residual d).toNat * c.scale + 2 ^ 27) / 2 ^ 28

/-- Width at half maximum, in bins, before its limit (R211). -/
def Ctx.width (c : Ctx) (d : Cand) : Nat := min 63 ((span c.nets d.a d.b).filter (fun x => decide (d.peak ≤ 2 * x))).length

/-- A candidate touches the edge of the window (R211). -/
def Ctx.edge (c : Ctx) (d : Cand) : Bool := d.a = 0 || d.b + 1 = c.bins.length

/-- Confidence (R211), or 255 without the stage (R204). -/
def Ctx.conf (c : Ctx) (d : Cand) : Nat :=
  if c.has 5 then
    let v := min 255 (getF EX_CLASS.conf_gain c.class_ * d.s16 / (16 * isqrt (d.s16 + c.bg * (d.b - d.a + 1))))
    if c.edge d then v / 2 else v
  else 255

/-- The alignment test applies and fails (R213). -/
def Ctx.foreign (c : Ctx) (d : Cand) : Bool :=
  match c.ledger with
  | none => false
  | some (step, led) =>
    let g := ledgerG c.bins.length c.win.kEff step
    if 8 ≤ c.shots ∧ 16 * 2 ^ g ≤ 255 * step then
      let lo := d.a * c.u / 2 ^ g
      let hi := min 63 (((d.b + 1) * c.u - 1 + 255 * step) / 2 ^ g)
      let top := led.foldl (fun m e => if lo ≤ e.1 ∧ e.1 ≤ hi then max m e.2 else m) 0
      decide ((d.s16 : Int) ≤ 2 * (16 * (top : Int) - (c.bg : Int) * 2 ^ (g - 8 - c.win.kEff)))
    else false

/-- The three tests of R214. -/
def Ctx.diffuse (c : Ctx) (d : Cand) : Bool :=
  decide (getF EX_CLASS.diff_width c.class_ * 250 ≤ c.width d * 2 ^ c.win.kEff * 125)
    && decide (256 * d.peak ≤ getF EX_CLASS.diff_rho c.class_ * 16 * c.shots)
    && (getF EX_CLASS.diff_range c.class_ = 0xFF || decide (c.range d ≤ getF EX_CLASS.diff_range c.class_ * 16000))

/-- The class of a kept candidate (R212): 3 SATURATED, 2 FOREIGN-SUSPECT, 1 DIFFUSE, 0 SOLID. -/
def Ctx.cls (c : Ctx) (strongest : Bool) (d : Cand) : Nat :=
  if c.has 6 then
    if ((c.bins.drop d.a).take (d.b + 1 - d.a)).any (fun w => binCount w = 2047) || (strongest && decide (d.s16 ≤ 64 * c.ovl)) then 3
    else if c.foreign d then 2
    else if c.diffuse d then 1
    else 0
  else 0

/-- The return that a kept candidate becomes. -/
def Ctx.ret (c : Ctx) (strongest : Bool) (d : Cand) : Ret :=
  { cand := d, centroid := c.centroid d, range := c.range d, intensity := min 65535 (d.s16 * 1024 / c.shots), width := c.width d,
    conf := c.conf d, cls := c.cls strongest d }

/-- The kept candidates as returns, strongest first. -/
def Ctx.returns (c : Ctx) (cs : List Cand) : List Ret :=
  match cs.take 4 with
  | [] => []
  | d :: ds => c.ret true d :: ds.map (c.ret false)

/-! ### Selection (R215) -/

/-- Insert by rising range; equal ranges go by bin. -/
def insertRet (r : Ret) : List Ret → List Ret
  | [] => [r]
  | x :: l => if r.range < x.range ∨ (r.range = x.range ∧ r.cand.a < x.cand.a) then r :: x :: l else x :: insertRet r l

/-- Returns in increasing range. -/
def byRange (l : List Ret) : List Ret := l.foldl (fun acc r => insertRet r acc) []

/-- The strongest of a list; equal signal goes to the nearer. -/
def strongest : List Ret → Option Ret
  | [] => none
  | r :: l => some (l.foldl (fun m x => if m.cand.s16 < x.cand.s16 ∨ (m.cand.s16 = x.cand.s16 ∧ x.range < m.range) then x else m) r)

/-- The returns a mode reports. -/
def modePick (mode : Nat) (l : List Ret) : List Ret :=
  match mode with
  | 0 => (strongest l).toList
  | 1 => (byRange l).take 1
  | 2 => match (byRange l).getLast? with
    | none => []
    | some r => ((byRange l).find? (fun x => x.range = r.range)).toList
  | _ => byRange l

/-- SELECT: what it reports, and whether it dropped or left out any return. -/
def Ctx.select (c : Ctx) (l : List Ret) : List Ret × Bool :=
  let keep := l.filter (fun r => !(getF EX_REC.skip c.rec_).testBit r.cls && decide (getF EX_REC.report_conf c.rec_ ≤ r.conf))
  let out := modePick (getF EX_REC.mode c.rec_) keep
  (out, decide (out.length < l.length))

/-! ### Records (R216 to R219) -/

/-- Flags of R219 by bit. -/
def pfNoReturn : Nat := 0x1
def pfMore : Nat := 0x2
def pfSat : Nat := 0x4
def pfTime : Nat := 0x8
def pfMasked : Nat := 0x10
def pfAbsent : Nat := 0x20
def pfCalAbsent : Nat := 0x40
def pfBlanked : Nat := 0x80
def pfPartial : Nat := 0x100
def pfEmitter : Nat := 0x200
def pfSuspect : Nat := 0x400
def pfAmbOver : Nat := 0x800
def pfGang : Nat := 0x1000
def pfSweep : Nat := 0x8000
def pfEdge : Nat := 0x10000
def pfEcc : Nat := 0x20000
def pfSlew : Nat := 0x40000
def pfService : Nat := 0x80000
def pfStandby : Nat := 0x100000

/-- Any of the flags of a mask, as a bit at a position. -/
def anyAt (flags mask pos : Nat) : Nat := if flags &&& mask = 0 then 0 else 2 ^ pos

/-- Word 3 of a compact record (R217). -/
def compactWord3 (channel shots cls flags : Nat) : Word :=
  w32 (channel + shots % 2048 * 2 ^ 10 + cls * 2 ^ 21 + anyAt flags pfNoReturn 23 + anyAt flags pfMore 24 + anyAt flags pfSat 25
    + anyAt flags pfTime 26 + anyAt flags (pfMasked + pfAbsent + pfCalAbsent + pfBlanked + pfEcc) 27
    + anyAt flags (pfSuspect + pfAmbOver + pfGang + pfEmitter) 28 + anyAt flags (pfPartial + 0x2000 + 0x4000) 29
    + anyAt flags pfSweep 30 + anyAt flags pfEdge 31)

/-- A compact record (R217). -/
def compactRec (pixel channel shots amb flags : Nat) (r : Option Ret) : List Word :=
  match r with
  | none => [w32 (pixel % 2 ^ 24), 0, w32 (amb * 2 ^ 16), compactWord3 channel shots 0 flags]
  | some r => [w32 (pixel % 2 ^ 24 + r.conf * 2 ^ 24), w32 r.range, w32 (r.intensity + amb * 2 ^ 16), compactWord3 channel shots r.cls flags]

/-- The words of one return slot of a full record. -/
def retWords (r : Ret) : List Word := [w32 r.range, w32 (r.intensity + r.conf * 2 ^ 16 + r.cls * 2 ^ 24 + r.width * 2 ^ 26)]

/-- A full record (R218). -/
def fullRec (pixel channel shots kEff amb bg flags : Nat) (rs : List Ret) : List Word :=
  ([w32 (pixel % 2 ^ 24 + rs.length * 2 ^ 24), w32 (channel + shots % 2048 * 2 ^ 10 + kEff * 2 ^ 21), w32 (amb + bg * 2 ^ 16), w32 flags]
    ++ rs.flatMap retWords ++ List.replicate 8 0).take 12

/-- A histogram with its descriptor (R385). -/
def histUnit (pixel : Nat) (upper : Bool) (kEff channel shots o flags amb ovl : Nat) (bins : List Word) : List Word :=
  [w32 (pixel % 2 ^ 24 + b2n upper * 2 ^ 24 + kEff * 2 ^ 25), w32 (channel + shots % 2048 * 2 ^ 10), w32 o, w32 flags,
   w32 (amb + ovl * 2 ^ 16)] ++ bins

/-! ### Reading a pixel (R21, R186, R188, R220) -/

/-- The shots of a pixel that counted for cell `i` (R89). -/
def shotsCounted (b : RxBlk) (p : Pixel) (i : Nat) : Nat :=
  (b.slots.filter (fun sl => sl.own && decide (sl.frame = p.frame) && decide (sl.m = p.m) && sl.judged.testBit i && sl.counted.testBit i)).length

/-- INPUT_SUSPECT (R99): the pixel closed after the last committed reading of a cell under suspicion. -/
def State.suspectPixel (s : State) (c : Nat) (p : Pixel) : Bool :=
  match (s.cell c).suspectFrom, p.closedAt with
  | some t, some z => decide (t < z)
  | _, _ => false

/-- The flags that a channel's state adds to its pixel when it is read (R98 to R101, R219). `i` is the reporting cell. -/
def State.readFlags (s : State) (k i shots : Nat) (p : Pixel) : Nat :=
  let c := k * 16 + i
  let x := p.cell i
  let pr := rxPairing p.plane c
  let two := pr = 1 && checkable p.plane k (i + 1)
  let m0 := s.masked c
  let m1 := if pr = 0 then m0 else s.masked (c + 1)
  let masked : Bool := cond two (m0 && m1) (cond (decide (pr = 2)) (m0 || m1) m0)
  let any := fun f : Nat → Bool => f c || (two && f (c + 1))
  p.flags ||| x.flags
    ||| (if masked then pfMasked else 0)
    ||| (if two && (m0 || m1) && !masked then pfGang else 0)
    ||| (if any (fun d => s.suspectPixel d p) then pfSuspect else 0)
    ||| (if any (fun d => (s.cell d).ambOver) then pfAmbOver else 0)
    ||| (if shots = 0 && x.blankCause then pfBlanked else 0)
    ||| (if x.eccFatal then pfEcc else 0)
    ||| (if (p.win c).sweep then pfSweep else 0)
    ||| (if p.slew then pfSlew else 0)
    ||| (if s.isolated (rxRegion k) (rxBlock k) || !s.domGood k then pfAbsent else 0)
    ||| (if s.mode = .service then pfService else 0)
    ||| (if s.pair = .standby || s.pair = .withdrawn then pfStandby else 0)

/-- The cell whose ambient code, shots and channel stand for a reporting cell: the surviving one of a ganged pair whose cell 2k is
masked (R101, R216). -/
def State.survivor (s : State) (k i : Nat) (p : Pixel) : Nat :=
  let c := k * 16 + i
  if rxPairing p.plane c = 1 && s.masked c && checkable p.plane k (i + 1) && !s.masked (c + 1) then i + 1 else i

/-- The context of a pixel of channel `c`, with the background and nets that its stages form. -/
def pixelCtx (p : Pixel) (k i shots : Nat) : Ctx :=
  let c := k * 16 + i
  let r := rxRegion k
  let n := r - 8
  let x := p.cell i
  let bins := (List.range (nBins p.plane c)).map (fun j => look (fun _ => 0) x.bins j)
  let peak := cutReg p.plane (EX_PEAK n)
  let stages := stageList p.plane r
  let bg := if stages.contains 1 then background (bins.map binCount) (getF EX_PEAK.bg_guard peak) else 0
  { stages := stages, rec_ := cutReg p.plane (EX_REC n), peak := peak, class_ := cutReg p.plane (EX_CLASS n),
    scale := (cutReg p.plane (EX_RANGE_SCALE n)).toNat, win := p.win c, bins := bins, bg := bg,
    nets := bins.map (fun w => 16 * (binCount w : Int) - bg), ovl := x.ovlCount, shots := shots, rtable := p.rtable,
    ledger := (ditherStep p.plane k).map (fun u => (u, x.ledger)) }

/-- Every candidate of a pixel, strongest first (R206). -/
def Ctx.cands (c : Ctx) : List Cand :=
  if c.has 2 then
    candidates c.nets (max (16 * getF EX_PEAK.peak_min c.peak) (getF EX_PEAK.peak_k c.peak * isqrt (16 * c.bg) / 4))
  else []

/-- The evidence a pixel gives its gate entry (R192). -/
def gateEvidence (k i flags : Nat) (p : Pixel) (cx : Ctx) (rs : List Ret) (s : State) : State :=
  let w := cx.win
  if w.tracked && decide (0 < cx.shots) && flags &&& (pfMasked + pfCalAbsent + pfBlanked + pfEmitter) = 0 && cx.has 2 then
    let conf := clsGateConf (classTable p.plane (rxRegion k)) p.cls
    let centre := match rs with
      | r :: _ => if (r.cls = 0 ∨ r.cls = 3) ∧ conf ≤ r.conf then some ((r.centroid + 128) / 256).toNat else none
      | [] => none
    addEvidence (k / 8) w.entry p.frame centre s
  else s

/-- The unit of a stream that a pixel's cell sends. -/
def Pixel.unit (p : Pixel) (stream kind source : Nat) (payload : List Word) : Packet :=
  { stream := stream, kind := kind, source := source, frame := p.frame, epoch := p.epoch, frag := p.frag, payload := payload,
    units := 1, firstPix := p.index, lastPix := p.index }

/-- The point records of a pixel's cell (R216). -/
def sendRecords (k i amb flags : Nat) (p : Pixel) (cx : Ctx) (rs : List Ret) (bg : Nat) (s : State) : State :=
  let c := k * 16 + i
  let r := rxRegion k
  if getF EX_REC.kind cx.rec_ = 1 then offerUnit k (p.unit 0 1 r (fullRec p.index c cx.shots cx.win.kEff amb bg flags rs)) s
  else match rs with
    | [] => offerUnit k (p.unit 0 0 r (compactRec p.index c cx.shots amb flags none)) s
    | _ => rs.foldl (fun t x => offerUnit k (p.unit 0 0 r (compactRec p.index c cx.shots amb flags (some x))) t) s

/-- The histograms of a pixel's cell (R385). -/
def sendHists (k i amb flags : Nat) (p : Pixel) (cx : Ctx) (s : State) : State :=
  let c := k * 16 + i
  let r := rxRegion k
  let half := fun (up : Bool) (bins : List Word) (t : State) =>
    offerUnit k (p.unit 1 0 r (histUnit p.index up cx.win.kEff c cx.shots cx.win.o flags amb cx.ovl bins)) t
  let s1 := half false (cx.bins.take 256) s
  if cx.bins.length = 512 then half true (cx.bins.drop 256) s1 else s1

/-- Counters of extraction (R223). -/
def countPixel (k flags : Nat) (rs : List Ret) (s : State) : State :=
  let f := EX_BLK_FLAGS k
  let s1 := if flags &&& pfNoReturn = 0 then s else bumpOvf (EX_BLK_CNT0 k) EX_BLK_CNT0.no_return_count 1 f EX_BLK_FLAGS.cnt0_ovf.lo s
  let s2 := if flags &&& pfMore = 0 then s1 else bumpOvf (EX_BLK_CNT0 k) EX_BLK_CNT0.more_count 1 f EX_BLK_FLAGS.cnt0_ovf.lo s1
  let nf := (rs.filter (fun r => r.cls = 2)).length
  let nd := (rs.filter (fun r => r.cls = 1)).length
  let s3 := if nf = 0 then s2 else bumpOvf (EX_BLK_CNT1 k) EX_BLK_CNT1.foreign_count nf f EX_BLK_FLAGS.cnt1_ovf.lo s2
  let s4 := if nd = 0 then s3 else bumpOvf (EX_BLK_CNT1 k) EX_BLK_CNT1.diffuse_count nd f EX_BLK_FLAGS.cnt1_ovf.lo s3
  let s5 := flagIf (nf ≠ 0) f EX_BLK_FLAGS.foreign_seen s4
  let s6 := flagIf (rs.any (fun r => r.cls = 3)) f EX_BLK_FLAGS.saturated_seen s5
  flagIf (flags &&& pfEcc ≠ 0) f EX_BLK_FLAGS.ecc_pixel s6

/-- What a pixel without a flag of R220 adds to the SUMMARY of its frame (R458). -/
def tallyPixel (k frame : Nat) (rs : List Ret) (s : State) : State :=
  if cutF s.cut.live PAIR_CFG PAIR_CFG.pair_en = 0 then s
  else
    let key := frame * 8 + k / 8
    let (n, solid, sum) := look (fun _ => (0, 0, 0)) s.pairSt.tally key
    let v := match rs with
      | r :: _ => if r.cls = 0 then (n + 1, solid + 1, sum + r.range / 64) else (n + 1, solid, sum)
      | [] => (n + 1, solid, sum)
    { s with pairSt := { s.pairSt with tally := put (fun _ => (0, 0, 0)) s.pairSt.tally key v } }

/-- Extract the pixel of reporting cell `i`: stages, selection, records, histograms, masks and gate evidence. No stage runs on a pixel that
R220 names, and no mask tests it (R354). WINDOW_EDGE is told from the candidates that are kept, not from those that R206 drops (DESIGN CHOICE,
log entry 57). `before` is the state at
the start of the cell's read, whose masks and suspicions the flags report. -/
def extract (before : State) (k i : Nat) (p : Pixel) (s : State) : State :=
  let live := before.survivor k i p
  let shots := shotsCounted (s.blk k) p live
  let amb := nth 0 p.amb live
  let cx := pixelCtx p k i shots
  let f0 := before.readFlags k i shots p
  let dead := f0 &&& (pfMasked + pfAbsent + pfCalAbsent + pfBlanked + pfEcc) ≠ 0 || shots = 0
  let cs := if dead then [] else cx.cands
  let rs := cx.returns cs
  let edge := if rs.any (fun r => cx.edge r.cand) then pfEdge else 0
  let more := if 4 < cs.length then pfMore else 0
  let (out, left) := if cx.has 7 then cx.select rs else ([], false)
  let none_ := if dead || (cx.has 7 && out = []) then pfNoReturn else 0
  let flags := f0 ||| edge ||| more ||| (if left then pfMore else 0) ||| none_
  let s1 := if cx.has 7 then sendRecords k i amb flags p cx out (if dead then 0 else cx.bg) s else s
  let s2 := if cx.has 8 && !dead then sendHists k i amb flags p cx s1 else s1
  let s3 := if cx.stages = [] then s2 else countPixel k flags rs s2
  let s4 := if dead then s3 else histMask (k * 16 + i) p.index shots (cx.bins.map binCount) s3
  gateEvidence k i flags p cx rs (if dead then s4 else tallyPixel k p.frame rs s4)

/-- The closed pixel whose cells are being read, with the buffer's order: the one that closed first. -/
def RxBlk.reading (b : RxBlk) : Option Pixel :=
  let due := (b.bufX.toList ++ b.bufY.toList).filter (fun p => p.closedAt.isSome && decide (p.read < 16))
  match due with
  | [p, q] => if q.closedAt.getD 0 < p.closedAt.getD 0 then some q else some p
  | p :: _ => some p
  | [] => none

/-- Slots that no unread pixel can need: own slots of the pixel just read, and foreign ones from before it. -/
def pruneSlots (p : Pixel) (l : List Slot) : List Slot :=
  l.filter (fun sl => if sl.own then !(sl.frame = p.frame && sl.m = p.m) else decide (p.start ≤ sl.tn))

/-- An uncorrectable error met in the read of cell `i`'s slice: the bin that failed, and what it reads, are not known. -/
def readFatal (k i : Nat) (p : Pixel) (s : State) : State :=
  let own := if rxPairing p.plane (k * 16 + i) = 2 then i / 2 * 2 else i
  sliceFatal (k * 16 + i) (k * 16 + own) ((if own = i then 0 else 256) + s.free.toNat % 256) p.frame p.m (drawFree s)

/-- In its read slot the extractor reads cell `cell`'s slice of the closed buffer (R21, R186, R188, R220, R222). A block whose bank or
extractor state has an uncorrectable error, or whose extractor fails its self-check, isolates itself (R36). -/
def execCellExtract (cell : Fin 768) (eccCorrected : Bool) (fault : Fin 3) (s : State) : Out :=
  .next (let k := cell.val / 16
    let i := cell.val % 16
    let s := if fault = 2 then isolateBlock (rxRegion k) (rxBlock k) s else s
    match (s.blk k).reading with
    | none => s
    | some p =>
      if p.read ≠ i ∨ s.now < p.closedAt.getD 0 + 128 * i then s
      else
        let b := (s.blk k).mapPixel p.frame p.m (fun q => { q with read := i + 1 })
        let s1 := setBlk k b s
        let s2 :=
          if s.fenced (rxRegion k) || !checkable p.plane k (i / 2 * 2) && !checkable p.plane k i then s1
          else
            let slice := rxCellOn p.plane cell && !(rxPairing p.plane cell = 1 && i % 2 = 1)
            let split : Bool := rxPairing p.plane cell = 2
            let s3 := if slice && fault = 1 then readFatal k i p s1
                      else flagIf (slice && eccCorrected) (HS_CELL_FLAGS cell) HS_CELL_FLAGS.ecc_corrected s1
            let due : Option Nat := cond split (cond (decide (i % 2 = 1)) (some (i - 1)) none) (cond (reporting p.plane k i) (some i) none)
            match due with
            | none => s3
            | some j =>
              match (s3.blk k).pixel p.frame p.m with
              | none => s3
              | some q => if s.mode = .off ∨ s.mode = .loader then s3 else extract s1 k j q s3
        if i = 15 then
          let c := s2.blk k
          setBlk k { c with slots := pruneSlots p c.slots } s2
        else s2)

end Sys2Proof.Machine
end

