-- ==== Sys2Proof/Machine/Shots.lean ====
section
/-!
DEFINITION. The shot scheduler and the emitter ports (chapter 05): inclusion codes, placing and posting of slots, frame boundaries
that cut pixels short, fires, monitors, and the extra hop.
-/
namespace Sys2Proof.Machine

/-! ### Inclusion codes (R160, R161) -/

/-- One step of the 24-bit generator (R160). -/
def lfsrStep (st : Nat) : Nat :=
  st * 2 % 2 ^ 24 + (b2n (st.testBit 23) ^^^ b2n (st.testBit 22) ^^^ b2n (st.testBit 21) ^^^ b2n (st.testBit 16))

/-- `n` steps. -/
def lfsrSteps : Nat → Nat → Nat
  | 0, st => st
  | n + 1, st => lfsrSteps n (lfsrStep st)

/-- A linear map over GF(2), given by its columns, applied to a vector. -/
def gfApply : List Nat → Nat → Nat
  | [], _ => 0
  | c :: cs, v => (if v % 2 = 1 then c else 0) ^^^ gfApply cs (v / 2)

/-- Apply the `n`-th power of a map, by squaring; `b` bounds the bits of `n`. -/
def gfJump : Nat → List Nat → Nat → Nat → Nat
  | 0, _, _, st => st
  | b + 1, m, n, st => gfJump b (m.map (gfApply m)) (n / 2) (if n % 2 = 1 then gfApply m st else st)

/-- A state advanced by `n` steps; the period is 16,777,215 (R160). -/
def lfsrAdvance (n st : Nat) : Nat := gfJump 24 ((List.range 24).map (fun i => lfsrStep (2 ^ i))) (n % 16777215) st

/-- The seed of a CODE frame, or none without one. -/
def seedOf (code : List Word) : Option Nat := match code with | [] => none | w :: _ => some (w.toNat % 2 ^ 24)

/-- The hop count at the boundary of a frame, and the restart of every generator from it (R161). `pl` is the plane in force for the
frame. Where a swap at this frame sets h to 0, an extra hop accepted before the swap has passed by then (R44). -/
def hopBoundary (pl : Option Plane) (frame : Nat) (swapped : Bool) (s : State) : State :=
  let code := codeFrame pl
  let h0 := if s.tx.hZero then 0 else (s.reg TX_CODE_HOPS).toNat
  let fresh := s.tx.hFresh || s.tx.hZero
  let extra := decide ((s.reg TX_HOP_FRAME).toNat ≠ 0 ∧ (s.reg TX_HOP_FRAME).toNat = frame)
  let per := tw code 3
  let periodic := decide (per ≠ 0 ∧ frame ≠ 0 ∧ frame % per = 0) && !fresh
  let passed := swapped && s.tx.hZero && decide (s.tx.hopOrder < s.cut.order)
  let h := if code ≠ [] && ((extra && !passed) || periodic) then h0 + 1 else h0
  let s1 := setReg TX_CODE_HOPS (w32 h) s
  let s2 := if extra then setReg TX_HOP_FRAME 0 s1 else s1
  let s3 := { s2 with tx := { s2.tx with hFresh := false, hZero := false, code := code } }
  match seedOf code with
  | none => s3
  | some seed => forUp (fun q t => setSeq q { t.seq q with lfsr := lfsrAdvance (24 * h + 65536 * q) seed } t) 0 64 s3

/-- A new plane takes effect at a swap: a change of seed sets h to 0 at the next frame boundary (R161). -/
def noteSeed (old new : Option Plane) (s : State) : State :=
  if seedOf (codeFrame old) = seedOf (codeFrame new) then s else { s with tx := { s.tx with hZero := true } }

/-- A write of `TX_HOP_FRAME` (R162). -/
def hopWrite (w : Word) (s : State) : State :=
  if w ≠ 0 ∧ s.lateFrame w.toNat then
    flag TX_SCHED_STATUS TX_SCHED_STATUS.hop_refused (flag TIME_STATUS TIME_STATUS.late_instant s)
  else setReg TX_HOP_FRAME w (accept { s with tx := { s.tx with hopOrder := s.time.accepted } })

def execHopFrameWrite (q : Requester) (frame : Word) (s : State) : Out := .next (hostWrite q TX_HOP_FRAME (hopWrite frame) s)

/-! ### What a block shows of its sequence (R154, R163, R174) -/

/-- The emitters of a pattern that have an enabled cell. -/
def emitterOn (pl : Option Plane) (e : Nat) : Bool := cellOn pl 4 (e / 16) (e % 16)

/-- A block takes a plane: `RX_BLK_SEQ` shows its binding, the step in force, and what the plane does to them. -/
def showSeq (pl : Option Plane) (k : Nat) (s : State) : State :=
  let t := shotTable pl
  match binding t k with
  | none => fsets (RX_BLK_SEQ k) [(RX_BLK_SEQ.sequence, 0), (RX_BLK_SEQ.bound, 0), (RX_BLK_SEQ.step_eff, 0)] s
  | some q =>
    let step := if ditherOn pl q then stepEff pl q else 0
    let s1 := fsets (RX_BLK_SEQ k) [(RX_BLK_SEQ.sequence, q), (RX_BLK_SEQ.bound, 1), (RX_BLK_SEQ.step_eff, step)] s
    let s2 := flagIf (ditherOn pl q && decide (step < tw (codeFrame pl) 1 % 16)) (RX_BLK_SEQ k) RX_BLK_SEQ.step_clamped s1
    let em := seqEmitters t q
    flagIf ((List.range 64).any (fun e => em.testBit e && !emitterOn pl e)) (RX_BLK_SEQ k) RX_BLK_SEQ.dead_emitter s2

/-! ### Placing a slot (R155 to R159, R164) -/

/-- The blocks of a plane bound to sequence `q`. -/
def boundTo (t : List Word) (q : Nat) : List Nat := (List.range 48).filter (fun k => binding t k = some q)

/-- A standby adds the skew of the pair to every start, and the active unit its fire offset to every fire (R452). -/
def State.pairLag (s : State) : Int := if s.pair = .standby then sext 16 (s.fget PAIR_SKEW PAIR_SKEW.skew) else 0
def State.pairOffset (s : State) : Int := if s.pair = .active then s.pairSt.fireOffset else 0

/-- A standby does not count the slots of ports that the partner's STATUS lists as masked (R452). -/
def State.partnerMasked (s : State) (e : Nat) : Bool :=
  s.pair = .standby && (nth 0 s.pairSt.status (6 + e / 32)).getLsbD (e % 32)

/-- The fires of a slot, before any check suppresses one (R154, R157). A masked port, one of an isolated block (R36), and one without power
fires nothing. -/
def slotFires (pl : Option Plane) (s : State) (mask base : Nat) : List Fire :=
  (List.range 64).filterMap (fun e =>
    if mask.testBit e then
      let f := ((base + emitterDelay (shotTable pl) e : Nat) + s.pairOffset).toNat
      some { emitter := e, ns := f / 128, q := f % 128, suppressed := false,
             dead := !emitterOn pl e || (s.port e).masked || s.isolated 4 (e / 16) || s.partnerMasked e || !s.domGood (54 + e / 16), lag := s.pairLag }
    else none)

/-- The blocks whose crosstalk mask names an emitter that fires in the slot (R89). -/
def crossed (s : State) (q : Nat) (t : List Word) (fires : List Fire) : List Nat :=
  (List.range 48).filter (fun k => binding t k ≠ some q
    && fires.any (fun f => !f.dead && !f.suppressed && (xtMask (s.planeOf (tgtRx k)) k).testBit f.emitter))

/-- The lead with which a slot's starts are posted, in ns (R158). -/
def postLead (pl : Option Plane) (s : State) (q : Nat) (fires : List Fire) : Nat :=
  (crossed s q (shotTable pl) fires ++ boundTo (shotTable pl) q).foldl
    (fun m k => if fires.any (fun f => (xtMask (s.planeOf (tgtRx k)) k).testBit f.emitter)
      then max m (cutF (s.planeOf (tgtRx k)) (RX_BLK_WIN k) RX_BLK_WIN.xt_pre + 100) else m)
    (longestWindow pl + 100)

/-- A check slot is taken from a channel's shot slot at `tn`: the slots asked for are spread over the time they lie in (R96). -/
def CheckReq.takes (r : CheckReq) (tn : Nat) : Bool :=
  decide (r.start ≤ tn) && decide (tn < r.stop) && decide (r.used < r.need) && decide (r.used * (r.stop - r.start) ≤ (tn - r.start) * r.need)

/-- The requests that take the slot at `tn` of sequence `q`, each where its channel has a start in it, or where it is a listen slot, which is
silent once and serves both purposes (R96, R175). -/
def takers (pl : Option Plane) (q tn : Nat) (listen : Bool) (fires : List Fire) (checks : List CheckReq) : List CheckReq :=
  checks.filter (fun r => binding (shotTable pl) (r.channel / 16) = some q && r.takes tn && (listen || (startFire pl r.channel fires).isSome))

/-- The emitters whose fire a check slot suppresses in this slot (R96, R159). -/
def suppressedBy (pl : Option Plane) (q tn : Nat) (fires : List Fire) (checks : List CheckReq) : List Nat :=
  (takers pl q tn false fires checks).filterMap (fun r => (startFire pl r.channel fires).map Fire.emitter)

/-- The slot at `tn` of sequence `q` is used by the requests that take it: each window that used one says so (R96). -/
def useChecks (pl : Option Plane) (q tn : Nat) (listen : Bool) (fires : List Fire) (s : State) : State :=
  let used := takers pl q tn listen fires s.tx.checks
  if used = [] then s
  else
    used.foldl (fun t r => flag (RX_CELL_FLAGS r.channel) RX_CELL_FLAGS.check_inserted t)
      { s with tx := { s.tx with checks := (s.tx.checks.map (fun r => if used.contains r then { r with used := r.used + 1 } else r)).filter (fun r => decide (r.used < r.need)) } }

/-- A port holds a fire until its instant; a suppressed or dead one never reaches it. -/
def loadPort (pl : Option Plane) (q pix slot : Nat) (f : Fire) (s : State) : State :=
  if f.dead || f.suppressed then s
  else
    let x := s.port f.emitter
    setPort f.emitter { x with fires := x.fires ++ [{ pix := pix, slot := slot, ns := f.ns, q := f.q, width := emitterWidth (shotTable pl) f.emitter, seq := q }] } s

/-- A port returns to service (R149). -/
def restorePort (p : Nat) (s : State) : State :=
  fset (TX_PORT_STATUS p) TX_PORT_STATUS.state 0 (setPort p { s.port p with masked := false, rearm := false, low := 0, high := 0 } s)

/-- At a pixel boundary of a sequence its ports that were re-armed return to service. -/
def restorePorts (em : Nat) (s : State) : State :=
  forUp (fun p t => if em.testBit p && (t.port p).rearm then restorePort p t else t) 0 64 s

/-- A re-arm that waits for a port which the plane powers down is dropped (R44). -/
def dropRearms (pl : Option Plane) (s : State) : State :=
  forUp (fun p t =>
    if (t.port p).rearm && !cellOn pl 4 (p / 16) (p % 16) then dropWrite 4 (p / 16) (setPort p { t.port p with rearm := false } t) else t) 0 64 s

/-- Does any sequence still place shots? -/
def State.placing (s : State) : Bool := s.tx.seqs.any (fun e => e.2.placing)

/-- A sequence has placed its last pixel: it waits for the next frame boundary, and for an edge where FRAME_SYNC has stopped (R155,
R168). -/
def endSeq (q : Nat) (s : State) : State :=
  let s1 := setSeq q { s.seq q with placing := false } s
  let on := s1.placing
  fsets TX_SCHED_STATUS [(TX_SCHED_STATUS.running, b2n on),
    (TX_SCHED_STATUS.frame_wait, if on || s1.rbit TIME_STATUS TIME_STATUS.frame_sync_present.lo then s1.fget TX_SCHED_STATUS TX_SCHED_STATUS.frame_wait else 1)] s1

/-- Sequence `q` comes to a pixel boundary: it takes the plane of that pixel (R28, R29, R175). A table that divides the frame into other
pixels goes on with the first of its own at or after the boundary, and every slot keeps the code of its number in the frame. -/
def startPixel (q : Nat) (s : State) : State :=
  let sq := s.seq q
  let t := shotTable sq.plane
  let b := sq.edge + seqOffset t q + sq.n * seqPeriod t q
  let pl := s.pixelPlane q b
  let u := shotTable pl
  let stamp := if s.seqScheduled q then b else s.cut.swapI
  let s0 := stampChanges (· = tgtSeq q) b s
  let s1 := if s0.cut.waiting.contains (tgtSeq q) && s0.cut.swapI ≤ b then dropRearms s0.cut.live (markApplied tgtTx stamp (markApplied (tgtSeq q) stamp s0)) else s0
  let ahead : Bool := !s.cut.waiting.contains (tgtSeq q) && (match s.cut.swapAt with | some (.atTime i) => decide (i ≤ b) | _ => false)
  let early := if ahead then some (sq.early.getD b) else none
  if u = t then setSeq q { sq with plane := pl, early := early } s1
  else
    let n := pixelFrom u q sq.edge b * seqShots u q
    setSeq q { sq with plane := pl, early := early, n := n, lfsr := lfsrAdvance (8 * n + 8 * sq.n * 16777214) sq.lfsr } s1

/-- The next slot of sequence `q` begins a pixel. -/
def Seq.atPixel (x : Seq) (q : Nat) : Bool := decide (x.n % max 1 (seqShots (shotTable x.plane) q) = 0)

/-- The scheduler places the next slot of sequence `q` and posts it to the blocks that listen and to those whose crosstalk mask names
one of its emitters (R18, R155 to R159, R164, R175). -/
def placeSlot (q : Nat) (s : State) : State :=
  if !(s.seq q).placing || !s.shooting then s
  else
    let s0 := if (s.seq q).atPixel q then startPixel q s else s
    let sq := s0.seq q
    let pl := sq.plane
    let t := shotTable pl
    let shots := seqShots t q
    if shots = 0 ∨ seqPixels t q * shots ≤ sq.n then endSeq q s0
    else
      let n := sq.n
      let period := seqPeriod t q
      let tn := sq.edge + seqOffset t q + n * period
      let m := n / shots
      let start := decide (n % shots = 0)
      let own := boundTo t q
      let s1 := if start then restorePorts (seqEmitters t q) s0 else s0
      let lp := tw (codeFrame pl) 2 % 65536
      let listen := seqListenEn t q && decide (lp ≠ 0) && decide (n % lp + 1 = lp)
      let lfsr := lfsrSteps 8 sq.lfsr
      let code := lfsr % 256
      let dith := if ditherOn pl q && s.tx.code ≠ [] then code * 64 * (stepEff pl q + 1) else 0
      let fires0 := slotFires pl s1 (if listen then 0 else seqPattern t q (n % seqPatternLen t q)) (tn * 128 + dith)
      let sup := suppressedBy pl q tn fires0 s1.tx.checks
      let fires := fires0.map (fun f => { f with suppressed := sup.contains f.emitter })
      let slot : Slot := { seq := q, frame := sq.frame, n := n, m := m, k := n % shots, kind := if listen then .listen else .fire, tn := tn,
                           code := code, lag := s.pairLag, fires := fires, own := true, known := [], dark := false, judged := 0, counted := 0 }
      let late := decide (slot.lsb < (s1.now + postLead pl s1 q fires) * 128)
      let s3 := useChecks pl q tn listen fires0 s1
      let s4 := if start then
          own.foldl (fun u k => setBlk k { u.blk k with opens := (u.blk k).opens ++ [{ seq := q, frame := sq.frame, m := m, start := tn, shots := shots, period := period, index := seqBase t q + m }] } u) s3
        else s3
      let s5 := if late then flag TX_SCHED_STATUS TX_SCHED_STATUS.late_slot s4
        else
          let u1 := own.foldl (fun u k => setBlk k { u.blk k with posts := (u.blk k).posts ++ [slot] } u) s4
          let u2 := (crossed u1 q t fires).foldl (fun u k => setBlk k { u.blk k with posts := (u.blk k).posts ++ [{ slot with own := false }] } u) u1
          fires.foldl (fun u f => loadPort pl q (sq.edge + seqOffset t q + m * shots * period) slot.lsb f u) u2
      let s6 := setSeq q { sq with n := n + 1, lfsr := lfsr } s5
      if n + 1 < seqPixels t q * shots then s6 else endSeq q s6

def execSlotPlace (seq : Fin 64) (s : State) : Out := .next (placeSlot seq s)

/-! ### A frame boundary and the scheduler (R155, R166, R167, R168) -/

/-- Place the slots that remain of the pixel in progress and come before the cut (R166); `n` bounds them, `m` is the pixel. -/
def placeRest (q cut m : Nat) : Nat → State → State
  | 0, s => s
  | n + 1, s =>
    let sq := s.seq q
    let t := shotTable sq.plane
    if !sq.placing || sq.n / max 1 (seqShots t q) ≠ m || cut ≤ sq.edge + seqOffset t q + sq.n * seqPeriod t q then s
    else placeRest q cut m n (placeSlot q s)

/-- A block's part in a frame cut: its pixel in progress, the one before pixel `first`, closes at the cut; the later ones of `total` are
missed (R166). -/
def cutBlock (q frame cut first total : Nat) (k : Nat) (s : State) : State :=
  let b := s.blk k
  let gone := fun sl : Slot => decide (sl.seq = q) && decide (sl.frame = frame) && (decide (first ≤ sl.m) || (decide (cut * 128 ≤ sl.lsb) && !sl.judged.testBit 16))
  let b1 := { b with opens := b.opens.filter (fun o => !(o.seq = q && o.frame = frame)),
                     posts := b.posts.filter (fun sl => !gone sl), slots := b.slots.filter (fun sl => !gone sl) }
  let b2 := if first = 0 then b1 else b1.mapPixel frame (first - 1) (fun x => if x.inProgress then { x with cutAt := some cut } else x)
  let s1 := setBlk k b2 s
  let s2 := if total ≤ first then s1 else bump (RX_BLK_SEQ_CNT k) RX_BLK_SEQ_CNT.pixels_missed (total - first) s1
  flag (RX_BLK_SEQ k) RX_BLK_SEQ.overrun s2

/-- A frame boundary at `edge` finds sequence `q` with pixels of the old frame to place (R166). `new` is the table in force for the new
frame. -/
def cutSeq (new : List Word) (edge q : Nat) (s : State) : State :=
  let sq := s.seq q
  if !sq.placing then s
  else
    let t := shotTable sq.plane
    let shots := seqShots t q
    let dwell := max 1 (shots * seqPeriod t q)
    let t0 := sq.edge + seqOffset t q
    let first := if edge < t0 then 0 else min (seqPixels t q) ((edge - t0) / dwell + 1)
    let seqCut := if q < seqCount new then edge + seqOffset new q else edge + 2000
    let s1 := if first = 0 then s else placeRest q seqCut (first - 1) shots s
    let s2 := { s1 with tx := { s1.tx with ports := (s1.tx.ports.map (fun e => (e.1, { e.2 with fires := e.2.fires.filter (fun f => !(f.seq = q && (decide (seqCut * 128 ≤ f.slot) || decide (t0 + first * dwell ≤ f.pix)))) }))).filter (fun e => e.2 ≠ {}) } }
    let s3 := (boundTo t q).foldl (fun u k =>
      cutBlock q sq.frame (if binding new k = some q then edge + seqOffset new q else edge + 2000) first (seqPixels t q) k u) s2
    setSeq q { s3.seq q with placing := false } s3

/-- Every sequence of the table starts the frame. -/
def startSeq (pl : Option Plane) (frame edge q : Nat) (s : State) : State :=
  if q < seqCount (shotTable pl) ∧ shotTable pl ≠ [] then
    setSeq q { s.seq q with placing := true, frame := frame, edge := edge, n := 0, plane := pl, early := none } s
  else s

/-- The boundaries of the new frame are the second boundary of the last pixels of the old one (R187). -/
def tailB2 (new : List Word) (edge k : Nat) (s : State) : State :=
  match binding new k with
  | none => s
  | some q =>
    let e0 := edge + seqOffset new q
    let d := seqShots new q * seqPeriod new q
    let b := s.blk k
    let fix := fun p : Pixel =>
      if !p.inProgress || p.b2.isSome then p
      else
        let count := match binding (shotTable p.plane) k with | some r => seqPixels (shotTable p.plane) r | none => 0
        if p.m + 2 = count then { p with b2 := some e0 }
        else if p.m + 1 = count ∧ 2 ≤ seqPixels new q then { p with b2 := some (e0 + d) } else p
    if b.bufX.isNone && b.bufY.isNone then s else setBlk k { b with bufX := b.bufX.map fix, bufY := b.bufY.map fix } s

/-- A hop at a frame boundary is a change of the inclusion codes, which each sequence applies at its first pixel (R28, R31). -/
def noteHop (before : State) (waits applied : List Nat) (s : State) : State :=
  if before.reg TX_CODE_HOPS = s.reg TX_CODE_HOPS then s else noteChange .codes s.now waits applied s

/-- The scheduler's part in a frame boundary: `pl` is the plane in force for the frame, and `swapped` says that it is swapped in at it. What
remains of the old frame is placed with the old frame's codes, before the generators restart (R161, R166). -/
def frameShots (pl : Option Plane) (frame edge : Nat) (swapped : Bool) (s : State) : State :=
  let t := shotTable pl
  let s1 := hopBoundary pl frame swapped (if s.shooting then forUp (cutSeq t edge) 0 64 s else s)
  if !s1.shooting then noteHop s [] [tgtTx] s1
  else
    let s3 := forUp (tailB2 t edge) 0 48 s1
    let s4 := forUp (startSeq pl frame edge) 0 64 s3
    let s5 := noteHop s (((List.range 64).filter s4.seqScheduled).map tgtSeq) (if s4.placing then [] else [tgtTx]) s4
    fsets TX_SCHED_STATUS [(TX_SCHED_STATUS.running, b2n s5.placing), (TX_SCHED_STATUS.frame_wait, 0)]
      { s5 with tx := { s5.tx with shooting := true }, pairSt := { s5.pairSt with shotFrames := (frame :: s5.pairSt.shotFrames).take 2 } }

/-- The device begins to shoot: the scheduler starts at the next frame boundary (R167). Where FRAME_SYNC has stopped by then, frame_wait reads 1
from now on: the model's choice (log entry 44). -/
def startShooting (s : State) : State :=
  fset TX_SCHED_STATUS TX_SCHED_STATUS.frame_wait (b2n (!s.rbit TIME_STATUS TIME_STATUS.frame_sync_present.lo)) { s with tx := { s.tx with shooting := true } }

/-! ### Fires and monitors (R145 to R150) -/

/-- A placed fire's instant comes: it is driven while the device shoots in pair state SOLO or ACTIVE, counted, measured, and reported to
channel B (R145, R147, R150, R167). A masked port drives the off state (R148, R149). -/
def firePort (p : Nat) (s : State) : State :=
  let x := s.port p
  match x.fires with
  | [] => s
  | f :: rest =>
    if s.now < f.ns then s
    else
      let s1 := setPort p { x with fires := rest } s
      if !s.driving || x.masked || s.isolated 4 (p / 16) || (s.pair = .active && s.pairSt.handover.any (fun h => decide (f.pix < h))) then s1
      else
        let s2 := setPort p { x with fires := rest, gates := x.gates ++ [f] } s1
        let n := s2.reg64 (TX_PORT_FIRES_LO p)
        let s3 := if n + 1 < 2 ^ 64 then setReg64 (TX_PORT_FIRES_LO p) (n + 1) s2 else s2
        let s4 := flagIf (decide (n + 2 = 2 ^ 64)) (TX_PORT_FLAGS p) TX_PORT_FLAGS.fires_ovf s3
        { s4 with tx := { s4.tx with tapB := s4.tx.tapB ++ [(p, f.width, f.ns)] } }

def execFire (port : Fin 64) (s : State) : Out := .next (firePort port s)

/-- The shots that port `p` was to start, and that have not started, are not counted (R149). -/
def deadSlots (p : Nat) (s : State) : State :=
  let dead := fun sl : Slot => if sl.judged.testBit 16 then sl else { sl with fires := sl.fires.map (fun x => if x.emitter = p then { x with dead := true } else x) }
  forUp (fun k t => let b := t.blk k
    if b.posts = [] ∧ b.slots = [] then t else setBlk k { b with posts := b.posts.map dead, slots := b.slots.map dead } t) 0 48 s

/-- A port masks itself (R148, R149). -/
def maskPort (p : Nat) (f : Fld) (s : State) : State :=
  deadSlots p (fset (TX_PORT_STATUS p) TX_PORT_STATUS.state 1 (flag (TX_PORT_FLAGS p) f (setPort p { s.port p with masked := true, fires := [] } s)))

/-- The monitor of port `p` is judged against its limits (R148). With limits that cross, one fire can complete both counts: it sets mon_low alone,
the model's choice (log entry 54). -/
def judgeCharge (p code : Nat) (s : State) : State :=
  let pl := s.planeOf tgtTx
  let b := p / 16
  let lo := cutF pl (TX_BLK_MON_LIM b) TX_BLK_MON_LIM.mon_min
  let hi := cutF pl (TX_BLK_MON_LIM b) TX_BLK_MON_LIM.mon_max
  let n := max 1 (cutF pl (TX_BLK_MON_CFG b) TX_BLK_MON_CFG.mon_persist)
  let x := s.port p
  let low := if lo ≠ 0 ∧ code < lo then x.low + 1 else 0
  let high := if hi ≠ 0xFFF ∧ hi < code then x.high + 1 else 0
  let s1 := setPort p { x with low := low, high := high } s
  if n ≤ low then maskPort p TX_PORT_FLAGS.mon_low s1
  else if n ≤ high then maskPort p TX_PORT_FLAGS.mon_high s1
  else s1

/-- A monitor integrator returns the charge code of the oldest fire that waits for one (R147, R148, R150). -/
def execMonitorCharge (port : Fin 64) (charge : BitVec 12) (evaluated : Bool) (s : State) : Out :=
  .next (let x := s.port port
    match x.gates with
    | [] => s
    | f :: rest =>
      let s1 := fset (TX_PORT_STATUS port) TX_PORT_STATUS.last_charge charge.toNat (setPort port { x with gates := rest } s)
      let s2 := { s1 with tx := { s1.tx with tapA := s1.tx.tapA ++ [(port.val, charge.toNat, f.ns, evaluated)] } }
      if evaluated && !x.masked then judgeCharge port charge.toNat s2 else s2)

/-- `TX_PORT_CMD`.rearm: at the next pixel boundary of the port's sequence, at once where none is scheduled (R14, R149). -/
def portRearm (p : Nat) (s : State) : State :=
  if !(s.port p).masked then s
  else if s.tx.seqs.any (fun e => e.2.placing && (seqEmitters (shotTable e.2.plane) e.1).testBit p) then
    setPort p { s.port p with rearm := true } s
  else restorePort p s

def execPortRearm (q : Requester) (port : Fin 64) (s : State) : Out := .next (hostWrite q (TX_PORT_CMD port) (portRearm port) s)

end Sys2Proof.Machine
end

