-- ==== Sys2Proof/Machine/Calibration.lean ====
section
/-!
DEFINITION. Code-density calibration and the calibration commands (chapter 10, R133 to R135): foreground and rolling runs, background
runs of the reference cell, the load, and the window on the working copies.
-/
namespace Sys2Proof.Machine

/-! ### A code-density run (R133) -/

/-- Bin centres from the hits per code, the sum so far and the codes left. -/
def centresFrom (hits : List Nat) (n : Nat) : Nat → Nat → Nat → List Nat
  | _, _, 0 => []
  | acc, i, c + 1 => let h := nth 0 hits i; divRound ((2 * acc + h) * 1024) n :: centresFrom hits n (acc + h) (i + 1) c

/-- The table that a run of `n` edges produces, or none where it fails. -/
def codeDensity (hits : List Nat) (n : Nat) : Option (List Nat) :=
  if allBelow (fun i => decide (0 < nth 0 hits i ∧ nth 0 hits i ≤ 4 * n / 128)) 128 then some (centresFrom hits n 0 0 128) else none

/-- dnl_max: the largest departure of a width from 16 units, halves up. -/
def dnlMax (hits : List Nat) (n : Nat) : Nat :=
  (List.range 128).foldl (fun m i => let w := nth 0 hits i * 2048; max m (divRound ((w - 16 * n) + (16 * n - w)) n)) 0

/-- inl_max: the largest departure of a centre from 16 i + 8. -/
def inlMax (t : List Nat) : Nat := (List.range 128).foldl (fun m i => let c := nth 0 t i; max m ((c - (16 * i + 8)) + ((16 * i + 8) - c))) 0

/-- Shift every stored point of a set by what a run measured against the value at the run's start (R326). -/
def CalSet.shift (c : CalSet) (run : List Nat) (now : List Int) : CalSet :=
  { c with points := c.points.map (fun ws => packHalves ((halves ws).zipIdx.map (fun p =>
      (clampI 0 2047 ((p.1 : Int) + (nth 0 run p.2 : Int) - nth 0 now p.2)).toNat))) }

/-! ### Foreground requests (R324, R325) -/

/-- Start blocks of the request: in RUN the next one, at its first pixel boundary at or after `t`; else as many as may run at once. `n`
bounds the blocks started. -/
def fgAdvance (t : Nat) : Nat → State → State
  | 0, s => s
  | n + 1, s =>
    match s.cal.fgLeft with
    | [] => if s.fgBusy = 0 && s.fget CAL_FG_STATUS CAL_FG_STATUS.state = 1 then fset CAL_FG_STATUS CAL_FG_STATUS.state 2 s else s
    | k :: rest =>
      let par := (s.reg CAL_FG_CFG).toNat % 64
      let cap := if s.mode = .run then 1 else if par = 0 then 48 else par
      if cap ≤ s.fgBusy then s
      else
        let s1 := { s with cal := { s.cal with fgLeft := rest } }
        let s2 := if !blockOn (s.planeOf (tgtRx k)) (rxRegion k) (rxBlock k) then fgSkip s1
          else if s.scheduled k then setBlk k { s1.blk k with fgWait := some t } (fset CAL_FG_STATUS CAL_FG_STATUS.port k s1) else fgBegin k s1
        fgAdvance t n s2

/-- FG_START (R324). -/
def fgStart (s : State) : State :=
  if (s.mode = .configured ∨ s.mode = .armed ∨ s.mode = .run) ∧ s.fget CAL_FG_STATUS CAL_FG_STATUS.state ≠ 1 then
    let mask := (s.reg CAL_FG_MASK_LO).toNat + (s.reg CAL_FG_MASK_HI).toNat % 65536 * 2 ^ 32
    let ports := (List.range 48).filter (fun k => mask.testBit k)
    let run := ports.filter (fun k => blockOn s.cut.live (rxRegion k) (rxBlock k))
    let s1 := fsets CAL_FG_STATUS [(CAL_FG_STATUS.state, 1), (CAL_FG_STATUS.passed, 0), (CAL_FG_STATUS.failed, 0),
      (CAL_FG_STATUS.skipped, ports.length - run.length)] s
    fgAdvance (s.now + 10000) 49 { s1 with cal := { s1.cal with fgLeft := run } }
  else flag CAL_STATUS CAL_STATUS.fg_refused s

/-- A block gives up its run: in RUN it returns at its next pixel boundary. -/
def fgDrop (k : Nat) (s : State) : State :=
  let b := s.blk k
  if b.fgWait.isSome || b.calAbsent then
    setBlk k { b with fgWait := none, fgLeave := false, fgRunning := false, fgBack := b.calAbsent && s.scheduled k } s
  else s

/-- FG_ABORT: the run in progress stops without result, and no further block starts (R324). -/
def fgAbort (s : State) : State :=
  if s.fget CAL_FG_STATUS CAL_FG_STATUS.state = 1 then
    let s1 := forUp fgDrop 0 48 { s with cal := { s.cal with fgLeft := [] } }
    fset CAL_FG_STATUS CAL_FG_STATUS.state 3 s1
  else s

/-- A block that has left a request and returns at no boundary of its own makes room for the next. -/
def fgGone (k t : Nat) (s : State) : State := if (s.blk k).fgBack then s else fgAdvance t 49 s

/-- A swap meets a run on a block that it disables or re-pairs: the run is abandoned, and later blocks run under the new plane (R333). -/
def fgAbandon (k stamp : Nat) (s : State) : State :=
  let b := s.blk k
  if b.fgWait.isSome || b.fgLeave || b.fgRunning then
    fgGone k stamp (fgSkip (flag CAL_STATUS CAL_STATUS.fg_abandoned (fgDrop k s)))
  else s

/-- One cell's result of a foreground run (R133, R134, R142). -/
def cellResult (k i : Nat) (hits : List Nat) (s : State) : State :=
  let c := k * 16 + i
  if !checkable (s.planeOf (tgtRx k)) k i then s
  else match codeDensity hits 2097152 with
    | some t =>
      setCell c { s.cell c with needsForeground := false }
        (fsets (GD_CELL_CAL c) [(GD_CELL_CAL.fg_result, 1), (GD_CELL_CAL.dnl_max, min 0xFF (dnlMax hits 2097152)), (GD_CELL_CAL.inl_max, min 0xFFFF (inlMax t))] s)
    | none =>
      maskCell c (setCell c { s.cell c with needsForeground := true } (fset (GD_CELL_CAL c) GD_CELL_CAL.fg_result 2 s))

/-- The set of one element is shifted to the result of its run (R326). -/
def shiftCell (k cell : Nat) (hits : List Nat) (s : State) : State :=
  let key := calKey (8 + k / 8) (k % 8) cell 1
  let x := s.section_ key
  let base := x.next.getD x.set
  let (t, lam) := look (fun _ => ((2500 : Int), 0)) s.cal.fgAt k
  match codeDensity hits 2097152 with
  | some run => bringIn key (some (base.shift run (base.value 1 t lam))) none s
  | none => s

/-- A foreground run ends: with every enabled cell and the reference passing, the block's sets are updated (R134, R326). The block
returns at its next pixel boundary, at once where none is scheduled (R325). -/
def execForegroundRunEnd (block : Fin 48) (cellHits : List (List Nat)) (refHits : List Nat) (s : State) : Out :=
  .next (let b := s.blk block
    if !b.fgRunning then s
    else
      let k : Nat := block
      let pl := s.planeOf (tgtRx k)
      let s1 := forUp (fun i t => cellResult k i (nth [] cellHits i) t) 0 16 s
      let ok := (codeDensity refHits 2097152).isSome
        && allBelow (fun i => !checkable pl k i || (codeDensity (nth [] cellHits i) 2097152).isSome) 16
      let s2 := if ok then
          let t := forUp (fun i t => if checkable pl k i then shiftCell k i (nth [] cellHits i) t else t) 0 16 s1
          bump CAL_FG_STATUS CAL_FG_STATUS.passed 1 (bringDrift (8 + k / 8) (k % 8) (checkable pl k) (shiftCell k 16 refHits t))
        else bump CAL_FG_STATUS CAL_FG_STATUS.failed 1 s1
      let back := s2.scheduled k
      let s3 := setBlk k { s2.blk k with fgRunning := false, fgBack := back } s2
      if back then s3 else fgAdvance s3.now 49 s3)

/-- A background run of the reference cell ends (R135, R143, R327). -/
def execBackgroundRunEnd (block : Fin 48) (hits : List Nat) (s : State) : Out :=
  .next (let k : Nat := block
    let r := rxRegion k
    if !s.girdleOn k then s
    else
      let b := s.blk k
      let s0 := fset (GD_BLK_REF k) GD_BLK_REF.runs (satAdd 0x3FFFF (s.fget (GD_BLK_REF k) GD_BLK_REF.runs) 1) s
      match codeDensity hits 1048576 with
      | none =>
        let n := min 8 (s0.fget (GD_BLK_STATUS k) GD_BLK_STATUS.ref_fail_run + 1)
        let s1 := flag (GD_BLK_STATUS k) GD_BLK_STATUS.ref_fail (fset (GD_BLK_REF k) GD_BLK_REF.last_result 2 s0)
        let s2 := fset (GD_BLK_STATUS k) GD_BLK_STATUS.ref_fail_run n s1
        if n = 8 then isolateBlock r (rxBlock k) s2 else s2
      | some run =>
        let now : List Int := match b.refNow with
          | some l => l.map (fun (x : Nat) => (x : Int))
          | none => s0.inForce (calKey r (rxBlock k) 16 1)
        let div := (run.zipIdx).foldl (fun m p => max m ((p.1 : Int) - nth 0 now p.2).natAbs) 0
        let s1 := fset (GD_BLK_STATUS k) GD_BLK_STATUS.ref_fail_run 0
          (fsets (GD_BLK_REF k) [(GD_BLK_REF.last_result, 1), (GD_BLK_REF.divergence, min 0xFFF div)] s0)
        if div ≤ 8 then s1
        else
          let s2 := flag (GD_BLK_STATUS k) GD_BLK_STATUS.cal_drift (setBlk k { b with refNow := some run } s1)
          bringIn (calKey r (rxBlock k) 16 1) none none
            (forUp (fun i t => bringIn (calKey r (rxBlock k) i 1) none (some run) t) 0 16 s2))

/-- Every 1 ms an RX region refreshes its load (R319). -/
def execLoadRefresh (rx : Fin 6) (s : State) : Out :=
  .next (let n := look (fun _ => 0) s.cal.rmw rx
    { s with cal := { s.cal with load := put (fun _ => 0) s.cal.load (8 + rx.val) (min 1024 (n * 1024 / 2048000)), rmw := put (fun _ => 0) s.cal.rmw rx 0 } })

/-! ### The window (R329) -/

/-- WIN_READ. -/
def winRead (s : State) : State :=
  let region := s.fget CAL_SEL CAL_SEL.region
  let block := s.fget CAL_SEL CAL_SEL.block
  let cell := s.fget CAL_SEL CAL_SEL.cell
  let kind := s.fget CAL_SEL CAL_SEL.kind
  let key := calKey region block cell kind
  let set := (s.section_ key).set
  let j := s.fget CAL_SEL2 CAL_SEL2.point
  let l := s.fget CAL_SEL2 CAL_SEL2.load_point
  let i := s.fget CAL_SEL2 CAL_SEL2.word
  let force := s.fget CAL_SEL2 CAL_SEL2.in_force = 1
  let named := sectionAt region block cell kind && decide (i < pointWords kind) && (force || (decide (j < set.keys.length) && (l = 0 || set.load)))
  if named then
    let w := if force then nth 0 (packEntries kind (s.inForce key)) i else nth 0 (nth [] set.points (l * set.keys.length + j)) i
    setReg CAL_WIN_DATA w (setReg CAL_INFO_COUNT (w32 (s.calCount key).1) (setReg CAL_INFO_TIME (s.calCount key).2 s))
  else flag CAL_STATUS CAL_STATUS.sel_bad (setRegs CAL_WIN_DATA [0, 0, 0] s)

/-- A write of `CAL_CMD` (R330). -/
def calCommand (code : Nat) (s : State) : State :=
  match code with
  | 1 => fgStart s
  | 2 => fgAbort s
  | 3 => winRead s
  | _ => flag CAL_STATUS CAL_STATUS.fg_refused s

def execFgStart (q : Requester) (s : State) : Out := .next (hostWrite q CAL_CMD fgStart s)
def execFgAbort (q : Requester) (s : State) : Out := .next (hostWrite q CAL_CMD fgAbort s)
def execWinRead (q : Requester) (s : State) : Out := .next (hostWrite q CAL_CMD winRead s)

/-- The write of a value that names no command; a value that names one acts as that command. -/
def execCalBadCommand (q : Requester) (command : BitVec 4) (s : State) : Out := .next (hostWrite q CAL_CMD (calCommand command.toNat) s)

end Sys2Proof.Machine
end

