-- ==== Sys2Proof/Machine/AdcSeq.lean ====
section
/-!
DEFINITION. Converter sequences, banks and scan masks as a plane gives them (R227 to R241, R252), and the loop parameter sets and
the reasons for which a loop does not run (R281, R283).
-/
namespace Sys2Proof.Machine

/-! ### Converters (R227 to R231) -/

/-- Scanner-sensor converters are 18 bits wide and bipolar; all others 16 bits and unipolar. -/
def adcSensor (k : Nat) : Bool := 48 ≤ k && k < 52
def adcBits (k : Nat) : Nat := if adcSensor k then 18 else 16
/-- The raw code of a conversion: 16 bits, and on an 18-bit converter two further low bits. -/
def rawCode (k : Nat) (code : BitVec 16) (fine : BitVec 2) : Nat := if adcSensor k then code.toNat * 4 + fine.toNat else code.toNat

/-- The plane-change target whose island a converter belongs to. -/
def adcTarget (k : Nat) : Nat := if k < 48 then tgtRx k else if k < 52 then tgtSc else tgtHk

/-- The epoch of the plane in force for a target. -/
def State.epochOf (s : State) (t : Nat) : Word := if s.cut.waiting.contains t then s.cut.oldEpoch else s.reg LIVE_EPOCH

/-- An input exists on a converter (R227, R228). -/
def inputExists (k i : Nat) : Bool :=
  i = 30 || i = 31 || (if k < 48 then i ≤ 16 else if k < 52 then i < 4 else i < 16)

/-- The bit of `ADC_REF` that a reference choice uses on an input (R231, R263). -/
def refBit (k input ref : Nat) : Nat :=
  if ref = 0 then 0 else if ref = 2 then 3 else if adcSensor k then 1 + input % 2 else 1

/-- The time from the sampling instant to the end of the slot, and the sampling phase of a sampling code, in ns (R229). -/
def convPhase (k : Nat) : Nat := if adcSensor k then 375 else 750
def sampPhase (k samp : Nat) : Nat := (samp + 1) * (if adcSensor k then 125 else 250)

/-! ### Sequences (R234, R235, R237) -/

/-- Cut a list of words into entries of four. -/
def entries4 : List Word → List (List Word)
  | a :: b :: c :: d :: ws => [a, b, c, d] :: entries4 ws
  | _ => []

/-- The default sequence of a converter (R237). -/
def defaultSeq (pl : Option Plane) (k : Nat) : List (List Word) :=
  if k < 48 then ((List.range 16).filter (fun c => cellOn pl (8 + k / 8) (k % 8) c)).map (fun c => [w32 c, 0, 0, 0])
  else if k < 52 then (List.range 2).map (fun i => [w32 (i + 2 ^ 11 + 2 * 2 ^ 13), 0, 0, 0])
  else (List.range 16).map (fun i => [w32 (i + 2 ^ 13), 0, 0, 0])

/-- The frame address of a converter's tables. -/
def adcFrame (k : Nat) : Nat := let (r, b, c) := adcCell k; r * 2 ^ 24 + b * 2 ^ 16 + c * 2 ^ 8

/-- The sequence of converter `k` under a plane. -/
def adcSeq (pl : Option Plane) (k : Nat) : List (List Word) :=
  match tableOf pl (adcFrame k) 0x0503 with
  | [] => defaultSeq pl k
  | w :: ws => (entries4 ws).take (w.toNat % 32)

/-- The fields of an entry's control word (R235). -/
def Ent.ctl (e : List Word) : Nat := (nth 0 e 0).toNat
def Ent.input (c : Nat) : Nat := c % 32
def Ent.gain (c : Nat) : Nat := c / 32 % 4
def Ent.samp (c : Nat) : Nat := c / 128 % 16
def Ent.ref (c : Nat) : Nat := c / 2048 % 4
def Ent.filt (c : Nat) : Nat := c / 8192 % 4
def Ent.dcb (c : Nat) : Bool := c.testBit 15
def Ent.curve (c : Nat) : Nat := c / 65536 % 16

/-- Entry `e` of a sequence: its control word. -/
def seqCtl (sq : List (List Word)) (e : Nat) : Nat := Ent.ctl (nth [] sq e)

/-- The inputs of the scan mask in ascending order (R241). -/
def scanInputs (pl : Option Plane) (k : Nat) : List Nat :=
  (List.range 32).filter (fun i => inputExists k i && (i = 30 || i = 31 || (cutReg pl (ADC_INPUT_EN k)).getLsbD i))

/-- The coefficient bank table (R252), and a tap of bank `b`; the default passes the newest sample. -/
def bankTable (pl : Option Plane) (k : Nat) : List Word := tableOf pl (adcFrame k) 0x0603
def tap (t : List Word) (b i : Nat) : Int :=
  if t = [] then (if i = 0 then 0x10000 else 0) else sext 18 (nth 0 t (1 + 32 * b + i)).toNat

/-! ### Loop parameter sets (R281) -/

/-- The parameter set of loop `l` under a plane; empty where it has none. -/
def loopSet (pl : Option Plane) (l : Nat) : List Word := tableOf pl (0x03000000 + (0x40 + l) * 256) 0x0903

def LSet.kind (t : List Word) : Nat := tw t 0 % 4
def LSet.invert (t : List Word) : Bool := (tw t 0).testBit 2
def LSet.nProf (t : List Word) : Nat := tw t 0 / 256 % 32
def LSet.conv (t : List Word) : Nat := tw t 1 % 64
def LSet.entry (t : List Word) : Nat := tw t 1 / 64 % 16
def LSet.inject (t : List Word) : Bool := (tw t 1).testBit 10
def LSet.req (t : List Word) : Nat := tw t 1 / 2048 % 8192
def LSet.period (t : List Word) : Nat := tw t 2 % 2 ^ 24
def LSet.kp (t : List Word) : Int := sext 32 (tw t 3)
def LSet.ki (t : List Word) : Int := sext 32 (tw t 4)
def LSet.kd (t : List Word) : Int := sext 32 (tw t 5)
def LSet.uMin (t : List Word) : Int := sext 24 (tw t 6)
def LSet.uMax (t : List Word) : Int := sext 24 (tw t 7)
def LSet.fbMin (t : List Word) : Int := sext 24 (tw t 8)
def LSet.fbMax (t : List Word) : Int := sext 24 (tw t 9)
def LSet.rateLim (t : List Word) : Nat := tw t 10
def LSet.accLim (t : List Word) : Nat := tw t 11
def LSet.frzN (t : List Word) : Nat := tw t 12 % 4096
def LSet.frzDrive (t : List Word) : Nat := tw t 13 % 2 ^ 24
def LSet.target (t : List Word) : Nat := tw t 14 % 4
def LSet.tAxis (t : List Word) : Nat := tw t 14 / 4 % 8
def LSet.tLoop (t : List Word) : Nat := tw t 14 / 256 % 64
def LSet.perFrame (t : List Word) : Nat := tw t 15 % 65536
def LSet.gd (t : List Word) : Nat := tw t 15 / 65536
def LSet.phaseOff (t : List Word) : Nat := tw t 16 % 2 ^ 26
def LSet.lockTol (t : List Word) : Nat := tw t 17 % 65536
def LSet.ampMin (t : List Word) : Nat := tw t 18 % 2 ^ 24
def LSet.v0 (t : List Word) : Nat := tw t 19 % 65536
def LSet.vMax (t : List Word) : Nat := tw t 19 / 65536
def LSet.tc (t : List Word) : Int := sext 16 (tw t 20)
def LSet.t0 (t : List Word) : Int := sext 16 (tw t 20 / 65536)
def LSet.tConv (t : List Word) : Nat := tw t 21 % 64
def LSet.tEntry (t : List Word) : Nat := tw t 21 / 64 % 16
def LSet.tDie (t : List Word) : Bool := (tw t 21).testBit 16
def LSet.profTime (t : List Word) (i : Nat) : Nat := tw t (32 + 2 * i)
def LSet.profPos (t : List Word) (i : Nat) : Int := sext 24 (tw t (33 + 2 * i))

/-- The kind that a loop's number gives: kind codes 0 and 1 for axes, 2 for bias, 3 for generic loops (R277). -/
def loopBias (l : Nat) : Bool := 8 ≤ l && l < 56

/-- The converter that serves a loop, whether it injects, and its request (R277, R281). -/
def loopConv (l : Nat) (t : List Word) : Nat := if loopBias l then l - 8 else LSet.conv t
def loopInjects (l : Nat) (t : List Word) : Bool := loopBias l || LSet.inject t
def loopReq (l : Nat) (t : List Word) : Nat := if loopBias l ∧ ¬ LSet.inject t then 16 else LSet.req t

/-- Is a converter present under a plane? -/
def adcPresent (pl : Option Plane) (k : Nat) : Bool :=
  if k < 48 then blockOn pl (8 + k / 8) (k % 8) else if k < 52 then blockOn pl 3 0 else k < 54

/-- Following set-point targets from loop `m`, is loop `l` met again within `n` steps? -/
def cascadeMeets (pl : Option Plane) (l : Nat) : Nat → Nat → Bool
  | 0, _ => false
  | n + 1, m =>
    let t := loopSet pl m
    if 56 ≤ m ∧ t ≠ [] ∧ LSet.target t = 1 then LSet.tLoop t = l || cascadeMeets pl l n (LSet.tLoop t) else false

/-- Why loop `l` does not run under a plane: the cause of R283 and R309, 0 where it runs. -/
def loopCause (pl : Option Plane) (l : Nat) : Nat :=
  let t := loopSet pl l
  let k := loopConv l t
  if t = [] then 1
  else if !adcPresent pl k || (l < 8 && !cellOn pl 3 0 l) || !inputExists k (Ent.input (loopReq l t)) && loopInjects l t
      || (!loopInjects l t && (adcSeq pl k).length ≤ LSet.entry t)
      || (loopBias l && !LSet.tDie t && (adcSeq pl (LSet.tConv t)).length ≤ LSet.tEntry t)
      || (56 ≤ l && LSet.target t ≠ 1 && !cellOn pl 3 0 (LSet.tAxis t))
      || (56 ≤ l && LSet.target t = 1 && loopSet pl (LSet.tLoop t) = []) then 2
  else if (l < 8 && LSet.kind t = 0 && cutF pl (SC_AXIS_CFG l) SC_AXIS_CFG.mode ≠ 1)
      || (l < 8 && LSet.kind t = 1 && cutF pl (SC_AXIS_CFG l) SC_AXIS_CFG.mode ≠ 2)
      || (56 ≤ l && LSet.target t = 2 && cutF pl (SC_AXIS_CFG (LSet.tAxis t)) SC_AXIS_CFG.mode ≠ 2) then 3
  else if cascadeMeets pl l 9 l then 4
  else if loopBias l && (cutReg pl (RX_BLK_BIAS_CFG (l - 8))).toNat % 65536 = 0 then 5
  else 0

/-- The record of converter `k`, loop `l` and axis `a`. -/
def State.adc (s : State) (k : Nat) : Adc := look (fun _ => {}) s.adcs k
def setAdc (k : Nat) (x : Adc) (s : State) : State := { s with adcs := put (fun _ => {}) s.adcs k x }
def State.loop_ (s : State) (l : Nat) : Loop := look (fun _ => {}) s.sc.loops l
def setLoop (l : Nat) (x : Loop) (s : State) : State := { s with sc := { s.sc with loops := put (fun _ => {}) s.sc.loops l x } }
def State.axis (s : State) (a : Nat) : Axis := look (fun _ => {}) s.sc.axes a
def setAxis (a : Nat) (x : Axis) (s : State) : State := { s with sc := { s.sc with axes := put (fun _ => {}) s.sc.axes a x } }

/-- The state code of a loop, and whether it takes part in the engine's work. -/
def State.loopState (s : State) (l : Nat) : Nat := s.fget (SC_LOOP_STATUS l) SC_LOOP_STATUS.state
def setLoopState (l st : Nat) (s : State) : State := fset (SC_LOOP_STATUS l) SC_LOOP_STATUS.state st s

end Sys2Proof.Machine
end

