-- ==== Sys2Proof/Machine/Curve.lean ====
section
/-!
DEFINITION. The curve unit (R257, R258): binary32 arithmetic rounded to nearest even, the resistance curves, and the two-point diode.
-/
namespace Sys2Proof.Machine

/-! ### Finite binary32 numbers -/

/-- A finite number m × 2^e. -/
structure F32 where
  m : Int
  e : Int
  deriving DecidableEq, Repr

/-- The exact quotient n ÷ d, d > 0, with its sign, rounded to 24 bits or to a multiple of 2^−149; none beyond the largest finite
number. -/
def roundQuot (neg : Bool) (n d : Nat) : Option F32 :=
  if n = 0 then some ⟨0, 0⟩
  else
    let k0 : Int := (n.log2 : Int) - d.log2 - 23
    let below := if 0 ≤ k0 then decide (n < d * 2 ^ (k0.toNat + 23)) else decide (n * 2 ^ (-k0).toNat < d * 2 ^ 23)
    let k : Int := max (-149) (if below then k0 - 1 else k0)
    let n' := n * 2 ^ (-k).toNat
    let d' := d * 2 ^ k.toNat
    let q := n' / d'
    let r := n' % d'
    let m := if d' < 2 * r ∨ (2 * r = d' ∧ q % 2 = 1) then q + 1 else q
    if 104 < k ∨ (k = 104 ∧ 2 ^ 24 ≤ m) then none else some ⟨if neg then -(m : Int) else m, k⟩

/-- The number m × 2^e, rounded. -/
def roundF (m e : Int) : Option F32 := roundQuot (decide (m < 0)) (m.natAbs * 2 ^ e.toNat) (2 ^ (-e).toNat)

/-- The quotient of two integers, rounded. -/
def quotF (a : Int) (d : Nat) : Option F32 := roundQuot (decide (a < 0)) a.natAbs d

/-- The arithmetic of the unit: each operation takes rounded numbers and rounds its result. -/
def addF (a b : F32) : Option F32 :=
  let e : Int := min a.e b.e
  roundF (a.m * 2 ^ Int.toNat (a.e - e) + b.m * 2 ^ Int.toNat (b.e - e)) e
def negF (a : F32) : F32 := { a with m := -a.m }
def subF (a b : F32) : Option F32 := addF a (negF b)
def mulF (a b : F32) : Option F32 := roundF (a.m * b.m) (a.e + b.e)
def divF (a b : F32) : Option F32 :=
  let e := a.e - b.e
  if b.m = 0 then none
  else roundQuot (decide (a.m < 0) != decide (b.m < 0)) (a.m.natAbs * 2 ^ e.toNat) (b.m.natAbs * 2 ^ (-e).toNat)
def sqrtF (a : F32) : Option F32 :=
  if a.m < 0 then none
  else
    let up : Nat := if a.e % 2 = 0 then 80 else 81
    let n := a.m.natAbs * 2 ^ up
    let r := isqrt n
    roundF ((2 * r + if r * r = n then 0 else 1 : Nat) : Int) ((a.e - up) / 2 - 1)

/-- Terms z^(2i+1) ÷ (2i+1) of the inverse hyperbolic tangent, from term `z` with index `i`, in units of 2^−96. -/
def atanhTerms (z2 : Int) : Nat → Nat → Int → Int
  | 0, _, _ => 0
  | n + 1, i, z => z / (2 * i + 1 : Nat) + atanhTerms z2 n (i + 1) (z * z2 / 2 ^ 96)

/-- ln of (n ÷ d) in 2^−96, for a quotient between 1 and 2: twice the inverse hyperbolic tangent of (n − d) ÷ (n + d). -/
def lnNear (n d : Nat) : Int :=
  let z : Int := (((n : Int) - d) * 2 ^ 96) / (n + d : Nat)
  2 * atanhTerms (z * z / 2 ^ 96) 34 0 z

/-- ln of m × 2^e, m > 0, in 2^−96: the exponent's share and that of the significand between 1 and 2. -/
def lnFixed (m : Nat) (e : Int) : Int := (e + m.log2) * lnNear 2 1 + lnNear m (2 ^ m.log2)

/-- The natural logarithm of a positive number in binary32 (R258): the nearest number, or a neighbour of it. -/
def lnF (a : F32) : Option F32 :=
  if a.m ≤ 0 then none
  else (roundF (lnFixed a.m.toNat a.e) (-96)).map (fun r => { r with m := r.m + clampI (-1) 1 (Config.lnRound a.m a.e) })

/-- The number a word spells in binary32; none for an infinity or a NaN. -/
def bitsF (w : Nat) : Option F32 :=
  let e := w / 2 ^ 23 % 256
  let f : Nat := w % 2 ^ 23
  let m : Nat := if e = 0 then f else 2 ^ 23 + f
  if e = 255 then none else some ⟨if w.testBit 31 then -(m : Int) else m, (max 1 e : Nat) - 150⟩

/-- Is a number negative, or less than another? -/
def ltF (a b : F32) : Bool := match subF a b with
  | some d => decide (d.m < 0)
  | none => false

/-- The temperature in 0.001 °C of a number in °C, rounded to nearest. -/
def milliF (t : F32) : Int := if 0 ≤ t.e then t.m * 1000 * 2 ^ t.e.toNat else divRoundI (t.m * 1000) (2 ^ (-t.e).toNat)

/-! ### The curves (R257, R258) -/

/-- R in Ω: rref in mΩ × x_n ÷ gain. -/
def curveR (rref g : Nat) (x : Int) : Option F32 := do
  let r ← mulF (← quotF rref 1) ⟨x, -23⟩
  divF (← divF r ⟨2 ^ g, 0⟩) ⟨1000, 0⟩

/-- V, and E of a thermocouple, in µV: x_n × 1,250,000 ÷ gain. -/
def curveV (g : Nat) (x : Int) : Option F32 := do
  divF (← mulF ⟨x, -23⟩ ⟨1250000, 0⟩) ⟨2 ^ g, 0⟩

/-- One Newton step from `t` on R0(1 + AT + BT² + C(T − 100)T³) − R. -/
def newtonF (a b c r0 r t : F32) : Option F32 := do
  let t2 ← mulF t t
  let t3 ← mulF t2 t
  let poly ← addF (← addF (← addF ⟨1, 0⟩ (← mulF a t)) (← mulF b t2)) (← mulF (← mulF c (← subF t ⟨100, 0⟩)) t3)
  let f ← subF (← mulF r0 poly) r
  let slope ← addF (← addF a (← mulF ⟨2, 0⟩ (← mulF b t)))
    (← mulF c (← subF (← mulF ⟨4, 0⟩ t3) (← mulF ⟨300, 0⟩ t2)))
  subF t (← divF f (← mulF r0 slope))

/-- Curves 1 and 2: T from R with R0 ohms at 0 °C. A resistance that the expression gives no temperature lies above the range. -/
def platinumF (r0n : Nat) (r : F32) : Option F32 := do
  let a ← quotF 39083 10000000
  let b ← quotF (-5775) 10000000000
  let c ← quotF (-4183) 1000000000000000
  let r0 : F32 := ⟨r0n, 0⟩
  let disc ← subF (← mulF a a) (← mulF (← mulF ⟨4, 0⟩ b) (← subF ⟨1, 0⟩ (← divF r r0)))
  if disc.m < 0 then return ⟨1000, 0⟩
  let t ← divF (← addF (negF a) (← sqrtF disc)) (← mulF ⟨2, 0⟩ b)
  if ltF r r0 then
    newtonF a b c r0 r (← newtonF a b c r0 r (← newtonF a b c r0 r (← newtonF a b c r0 r t)))
  else pure t

/-- Kelvin to °C. -/
def celsiusF (t : F32) : Option F32 := do subF t (← quotF 27315 100)

/-- Curve 3: β thermistor with R0 in mΩ, T0 in 0.01 K. -/
def betaF (r0 t0 beta : Nat) (r : F32) : Option F32 := do
  let l ← lnF (← divF r (← quotF r0 1000))
  let d ← addF (← divF ⟨1, 0⟩ (← quotF t0 100)) (← divF l ⟨beta, 0⟩)
  celsiusF (← divF ⟨1, 0⟩ d)

/-- Curve 4: Steinhart–Hart. -/
def steinhartF (a b c : Nat) (r : F32) : Option F32 := do
  let l ← lnF r
  let d ← addF (← addF (← bitsF a) (← mulF (← bitsF b) l)) (← mulF (← bitsF c) (← mulF (← mulF l l) l))
  celsiusF (← divF ⟨1, 0⟩ d)

/-- Curve 7: two points of a diode, voltages in 0.1 µV and temperatures in 0.01 K. -/
def diodeF (v1 v2 t1 t2 : Nat) (v : F32) : Option F32 := do
  let va ← quotF v1 10
  let vb ← quotF v2 10
  let ta ← quotF t1 100
  let tb ← quotF t2 100
  celsiusF (← addF ta (← divF (← mulF (← subF v va) (← subF tb ta)) (← subF vb va)))

/-- Curves 5 and 6: E with the EMF of the cold junction at `cj` 0.001 °C added, through the inverse reference function, to within 0.01 °C; the
temperature in 0.001 °C. -/
def thermoMilli (c : Nat) (cj : Int) (e : F32) : Option Int := do
  let r := Config.thermoEmf c cj
  let sum ← addF e (← roundF r.1 r.2)
  return Config.thermoTemp c sum.m sum.e + clampI (-10) 10 (Config.thermoError c sum.m sum.e)

/-- The range of a curve in 0.001 °C. -/
def curveRange (c : Nat) : Int × Int :=
  match c with
  | 1 | 2 => (-200000, 850000)
  | 3 | 4 => (-80000, 300000)
  | 5 => (-200000, 1372000)
  | _ => (-200000, 400000)

/-- The temperature in 0.001 °C that a curve gives before it is limited; none where the arithmetic meets no finite number. `p i` is word
`i` of the entry, `cj` the cold junction in 0.001 °C. -/
def curveTemp (c : Nat) (p : Nat → Nat) (x : Int) (g rref : Nat) (cj : Int) : Option Int :=
  match c with
  | 1 => ((curveR rref g x).bind (platinumF 100)).map milliF
  | 2 => ((curveR rref g x).bind (platinumF 1000)).map milliF
  | 3 => ((curveR rref g x).bind (betaF (p 1) (p 2 / 65536) (p 2 % 65536))).map milliF
  | 4 => ((curveR rref g x).bind (steinhartF (p 1) (p 2) (p 3))).map milliF
  | 5 | 6 => (curveV g x).bind (thermoMilli c cj)
  | 7 => ((curveV g x).bind (diodeF (p 1) (p 2) (p 3 % 65536) (p 3 / 65536))).map milliF
  | _ => none

end Sys2Proof.Machine
end

