-- ==== Sys2Proof/Machine/Converter.lean ====
section
/-!
DEFINITION. The converters (chapter 08): conversion slots, the filter chain, settle events, references, injected conversions, the
self-check, system calibration, the scan mask and linearisation.
-/
namespace Sys2Proof.Machine

/-! ### Result words (R266) -/

def resUnsettled : Nat := 24
def resSettling : Nat := 25
def resStale : Nat := 26
def resInvalid : Nat := 27
def resOver : Nat := 28
def resCurve : Nat := 29
def resScan : Nat := 30
def resFading : Nat := 31

/-- A result word from a value and a sum of flag bits. -/
def resWord (value : Int) (flags : Nat) : Word := w32 (toBits 24 value + flags)

/-- The value of a result word as a signed number. -/
def resValue (w : Word) : Int := sext 24 w.toNat

/-- A flag bit of the result word where a condition holds. -/
def resBit (c : Bool) (n : Nat) : Nat := if c then 2 ^ n else 0

/-- The result registers of an entry (R261). -/
def ADC_RES_VAL (k e : Nat) : Nat := ADC_RES k (2 * e)
def ADC_RES_TIME (k e : Nat) : Nat := ADC_RES k (2 * e + 1)

/-! ### State of a converter -/

/-- The converter is powered and runs (R260): ambient ones not in LOADER, none under a fence of its region. -/
def State.adcRuns (s : State) (k : Nat) : Bool :=
  let (r, _, _) := adcCell k
  !s.fenced r && s.domGood (domainAt (baseAdc k)) && s.mode ≠ .off && (48 ≤ k || s.mode ≠ .loader)

/-- The references in use by a converter's sequence, as a mask of `ADC_REF` bits (R240). -/
def seqRefs (pl : Option Plane) (k : Nat) : Nat :=
  (adcSeq pl k).foldl (fun m e => m ||| 2 ^ refBit k (Ent.input (Ent.ctl e)) (Ent.ref (Ent.ctl e))) 0

/-- The settled flags of a converter. -/
def State.settledRefs (s : State) (k : Nat) : Nat := (s.reg (ADC_REF k)).toNat % 16

/-- The references that a converter on its scan mask waits for: before its release, external references aside (R566). -/
def Adc.waitsFor (x : Adc) (k : Nat) : Nat := if x.released then seqRefs x.pl k else seqRefs x.pl k &&& 9

/-- Every reference the converter waits for is settled. -/
def State.refsSettled (s : State) (k : Nat) : Bool := ((s.adc k).waitsFor k) &&& (15 ^^^ s.settledRefs k) = 0

/-- The scan mask is called for (R240, R259). -/
def State.wantsScan (s : State) (k : Nat) : Bool :=
  let x := s.adc k
  !x.released || x.hostScan || x.refWait || x.rearm || s.mode = .loader

/-- `ADC_STATUS` shows what the converter does. -/
def showAdc (k : Nat) (s : State) : State :=
  let x := s.adc k
  let st := if !s.adcRuns k then 0 else if x.calRun.isSome then 3 else if x.scanning then 1 else 2
  fsets (ADC_STATUS k) [(ADC_STATUS.state, st), (ADC_STATUS.fading, b2n x.fade.isSome), (ADC_STATUS.entry, if x.scanning then 0 else x.pos)] s

/-! ### Delivery to loops (R278) -/

/-- The loops fed by entry `e` of converter `k`, with inject = 0, take an item. -/
def feedLoops (k e : Nat) (item : LoopIn) (s : State) : State :=
  forUp (fun l t =>
    let ps := loopSet (t.planeOf tgtSc) l
    if ps ≠ [] ∧ ¬ loopInjects l ps ∧ LSet.conv ps = k ∧ LSet.entry ps = e ∧ 0 < t.loopState l then
      let x := t.loop_ l
      setLoop l { x with inbox := x.inbox ++ [item] } t
    else t) 0 64 s

/-- The loops fed by the entries that `p` picks take a sample that only says INVALID (R259, R298, R311). -/
def feedLost (k : Nat) (p : Nat → Bool) (s : State) : State :=
  (adcSeq (s.adc k).pl k).zipIdx.foldl (fun t e =>
    if p (Ent.ctl e.1) then feedLoops k e.2 { word := w32 (2 ^ resInvalid), time := t.now, held := false, lost := true } t else t) s

/-- The loops that inject requests for a reference of converter `k` that is lost take such a sample too (R298, R311). -/
def feedLostInjected (k r : Nat) (s : State) : State :=
  forUp (fun l t =>
    let ps := loopSet (t.planeOf tgtSc) l
    let c := loopReq l ps
    if ps ≠ [] ∧ loopInjects l ps ∧ loopConv l ps = k ∧ refBit k (Ent.input c) (Ent.ref c) = r ∧ 0 < t.loopState l then
      let x := t.loop_ l
      setLoop l { x with inbox := x.inbox ++ [{ word := w32 (2 ^ resInvalid), time := t.now, held := false, lost := true }] } t
    else t) 0 64 s

/-- The result of entry `e` and its sampling instant. -/
def putRes (k e : Nat) (w : Word) (t : Nat) (s : State) : State :=
  let x := s.adc k
  setAdc k { x with times := put (fun _ => 0) x.times e t } (setReg (ADC_RES_TIME k e) (w32 t) (setReg (ADC_RES_VAL k e) w s))

/-- The age of entry `e`'s result in ns. -/
def State.resAge (s : State) (k e : Nat) : Nat := s.now - look (fun _ => 0) (s.adc k).times e

/-- Is the converter in fault? -/
def State.adcFault (s : State) (k : Nat) : Bool := s.fget (ADC_STATUS k) ADC_STATUS.fault = 1

/-- The converter enters fault (R259). -/
def converterFault (k : Nat) (s : State) : State :=
  if s.adcFault k then s
  else
    let s1 := fset (ADC_STATUS k) ADC_STATUS.fault 1 (flag (ADC_FLAGS k) ADC_FLAGS.fault s)
    if k < 48 then isolateBlock (8 + k / 8) (k % 8) s1
    else if k < 52 then feedLost k (fun _ => true) s1
    else chipReaction (.converter k) 1 (ADC_FLAGS k) s1

/-! ### Samples (R230, R233, R248) -/

/-- The sample x of a trimmed code (R230). -/
def sampleOf (k c : Nat) : Int :=
  if adcSensor k then ((c : Int) - 2 ^ 17) * 2 ^ 6 else (c : Int) * 2 ^ 7

/-- A conversion is OVER_RANGE (R230). -/
def overRange (k c : Nat) : Bool := 2 ^ adcBits k - 64 ≤ c || (adcSensor k && c ≤ 63)

/-- A sample under system calibration coefficients (R248). -/
def sysCal (co : Int × Nat) (x : Int) : Int := clampI (-(2 ^ 23)) (2 ^ 23 - 1) (((x - co.1) * co.2 + 2 ^ 21) / 2 ^ 22)

/-- The coefficients of entry `e`: offset 0 and gain 1.0 from power-on (R248). -/
def Adc.coef (x : Adc) (e : Nat) : Int × Nat := look (fun _ => (0, 2 ^ 22)) x.coefs e

/-- The flags of a conversion of an input under a reference: REF_UNSETTLED, INVALID, OVER_RANGE (R230, R233, R259). -/
def State.convFlags (s : State) (k input ref c : Nat) : Nat :=
  let b := refBit k input ref
  let lost := (s.adc k).lostNow
  resBit (!(s.settledRefs k).testBit b) resUnsettled
    + resBit (lost.testBit b || lost.testBit 4 || s.hk.bad.testBit 3 || s.adcFault k) resInvalid + resBit (overRange k c) resOver

/-- The sticky flags that a conversion's flags set. -/
def noteFlags (k fl : Nat) (s : State) : State :=
  flagIf (fl.testBit resInvalid) (ADC_FLAGS k) ADC_FLAGS.invalid_seen (flagIf (fl.testBit resOver) (ADC_FLAGS k) ADC_FLAGS.over_range_seen s)

/-- A result of an input that carries neither INVALID nor REF_UNSETTLED is kept for answers during calibration (R249). -/
def keepGood (k input : Nat) (w : Word) (s : State) : State :=
  if w.getLsbD resInvalid || w.getLsbD resUnsettled then s
  else let x := s.adc k; setAdc k { x with lastGood := put (fun _ => w32 (2 ^ resInvalid)) x.lastGood input w } s

/-! ### Settle events (R254) -/

/-- Outputs suppressed after an event, by filter choice. -/
def settleLen (filt : Nat) : Nat := match filt with | 1 => 3 | 2 => 34 | _ => 0

/-- The chain of entry `e`. -/
def Adc.chain (x : Adc) (e : Nat) : Chain := look (fun _ => {}) x.chains e
def Adc.setChain (x : Adc) (e : Nat) (c : Chain) : Adc := { x with chains := put (fun _ => {}) x.chains e c }

/-- A settle event of entry `e`; `dc` says that the DC estimate resets with it (R255: events a, d, e, f). -/
def settleEvent (k e : Nat) (dc : Bool) (s : State) : State :=
  let x := s.adc k
  let f := Ent.filt (seqCtl (adcSeq x.pl k) e)
  let ch := x.chain e
  flag (ADC_FLAGS k) ADC_FLAGS.settle_restart
    (setAdc k (x.setChain e { ch with settle := settleLen f, dcReset := ch.dcReset || (dc && f ≠ 0) }) s)

/-- A converter begins to run: its first slot begins now, and `ADC_STATUS` shows it (R244, R263). -/
def startAdc (k : Nat) (s : State) : State := showAdc k (setAdc k { s.adc k with slotAt := s.now } s)

/-- The power-on of a domain enables the internal references of its converters, which begin to run (R232, R260). -/
def enableAdcs (d : Nat) (s : State) : State :=
  forUp (fun k t => if domainAt (baseAdc k) = d then startAdc k (setAdc k { t.adc k with enabledAt := t.now } t) else t) 0 54 s

/-- A settle event of every entry that `p` picks by its control word. -/
def settleWhere (k : Nat) (dc : Bool) (p : Nat → Bool) (s : State) : State :=
  (adcSeq (s.adc k).pl k).zipIdx.foldl (fun t e => if p (Ent.ctl e.1) then settleEvent k e.2 dc t else t) s

/-- SC reports a change of an axis's excitation at instant `t` to its sensor converter (R254 c, R272); a raw entry has no settle count. -/
def reportExcitation (a t : Nat) (s : State) : State :=
  let k := 48 + a / 2
  let x := s.adc k
  let hit := (adcSeq x.pl k).zipIdx.filter (fun e =>
    let c := Ent.ctl e.1
    Ent.filt c ≠ 0 ∧ (Ent.input c < 4 ∧ Ent.input c % 2 = a % 2) ∧ (Ent.input c < 2 ∨ Ent.ref c = 1))
  setAdc k { x with excAt := x.excAt ++ hit.map (fun e => (e.2, t)) } s

/-! ### Excitation (R269 to R272) -/

/-- A change of an axis's excitation falls 100 ns after the sampling instant of the last sample of an output (R271, R272): a level or
switch written to `SC_AXIS_EXC` takes effect there. An enabled axis is excited once its converter is released (R303, R566), and after a
current limit once exc_on has been written again (R269). -/
def applyExcitation (a at_ : Nat) (s : State) : State :=
  let x := s.axis a
  let w := s.reg (SC_AXIS_EXC a)
  let mode := cutF (s.planeOf tgtSc) (SC_AXIS_CFG a) SC_AXIS_CFG.mode
  let on := getF SC_AXIS_EXC.exc_on w = 1 && !x.fault && cellOn (s.planeOf tgtSc) 3 0 a && (s.adc (48 + a / 2)).released && (mode = 1 || mode = 2) && s.pair ≠ .standby && s.pair ≠ .withdrawn
  let level := min 150 (getF SC_AXIS_EXC.level w)
  let changed := decide (on ≠ x.on ∨ level ≠ x.level)
  let s1 := setAxis a { x with on := on, level := level, excWrite := false } s
  let s2 := fset (SC_AXIS_STATUS a) SC_AXIS_STATUS.exc_state (if x.fault then 3 else if !on then 0 else if x.reversed then 2 else 1) s1
  if changed then reportExcitation a at_ s2 else s2

/-- An output boundary of the feedback entry of an axis: outputs count towards a reversal, and a waiting write takes effect (R271). -/
def axisOutput (k e t : Nat) (s : State) : State :=
  forUp (fun a u =>
    let ps := loopSet (u.planeOf tgtSc) a
    if ps ≠ [] ∧ LSet.conv ps = k ∧ LSet.entry ps = e ∧ ¬ loopInjects a ps then
      let x := u.axis a
      let u1 := setAxis a { x with outputs := x.outputs + 1, outAt := t } u
      if x.excWrite then applyExcitation a (t + 100) u1 else u1
    else u) 0 8 s

/-! ### Detectors (R256) -/

/-- The BN192 detectors take an output `y` of the entry they serve. The shift of the `ms` line is taken of the difference alone, as in the
`env` line (DESIGN CHOICE, log entry 122). -/
def detect (k e : Nat) (y : Int) (s : State) : State :=
  let w := s.reg (ADC_BN_CFG k)
  let sel := getF ADC_BN_CFG.entry w
  if getF ADC_BN_CFG.en w = 0 ∨ sel ≠ e then s
  else
    let x := s.adc k
    let a := y.natAbs
    let peak := max a (x.peak - x.peak / 2 ^ getF ADC_BN_CFG.k_p w)
    let ms := ((x.ms : Int) + ((a * a / 2 ^ 23 : Nat) - (x.ms : Int)) / 2 ^ getF ADC_BN_CFG.k_r w).toNat
    let sh := if x.env < a then getF ADC_BN_CFG.k_a w else getF ADC_BN_CFG.k_d w
    let env := ((x.env : Int) + ((a : Int) - (x.env : Int)) / 2 ^ sh).toNat
    setReg (ADC_BN_PEAK k) (w32 peak) (setReg (ADC_BN_RMS k) (w32 (isqrt (ms * 2 ^ 23))) (setReg (ADC_BN_ENV k) (w32 env)
      (setAdc k { x with peak := peak, ms := ms, env := env } s)))

/-! ### Linearisation (R257, R258) -/

/-- The cold junction of a thermocouple entry: its temperature in 0.001 °C, and whether it is usable. -/
def State.coldJunction (s : State) (e : List Word) : Int × Bool :=
  let w := tw e 1
  if w.testBit 31 then (sext 32 (tw e 2), true)
  else
    let r := s.reg (ADC_RES_VAL (w / 256 % 64) (w % 16))
    (resValue r, !(r.getLsbD resStale || r.getLsbD resInvalid || r.getLsbD resSettling || r.getLsbD resCurve))

/-- The value and the added flags of a linearised output. A resistance that is not positive lies at the low end of a platinum curve; at
which end of a thermistor's it lies, the manual does not say. -/
def State.linear (s : State) (k : Nat) (e : List Word) (x : Int) : Int × Nat :=
  let c := Ent.curve (Ent.ctl e)
  let g := Ent.gain (Ent.ctl e)
  let rref := (cutReg (s.adc k).pl (ADC_RREF k)).toNat
  let (cj, good) := if c = 5 ∨ c = 6 then s.coldJunction e else (0, true)
  let free := Config.curve c (e.drop 1) x g rref
  let (lo, hi) := curveRange c
  if c ≤ 4 ∧ (x ≤ 0 ∨ rref = 0) then (if c ≤ 2 ∨ free < 0 then lo else hi, 2 ^ resCurve)
  else
    let t := (curveTemp c (tw e) x g rref cj).getD free
    (clampI lo hi t, resBit (decide (t < lo ∨ hi < t)) resCurve + resBit (!good) resStale)

/-! ### The chain (R250 to R255) -/

/-- A CIC step of order 3 modulo 2^48; the output, if this sample completes one (R251). -/
def cicStep (r : Nat) (x : Int) (c : Chain) : Chain × Option Int :=
  let m := 2 ^ 48
  let i1 := (c.i1 + toBits 48 x) % m
  let i2 := (c.i2 + i1) % m
  let i3 := (c.i3 + i2) % m
  let cnt := c.cnt + 1
  if cnt < r then ({ c with i1 := i1, i2 := i2, i3 := i3, cnt := cnt }, none)
  else
    let c1 := (i3 + m - c.d1) % m
    let c2 := (c1 + m - c.d2) % m
    let c3 := (c2 + m - c.d3) % m
    let y := divRoundI (sext 48 c3) (r ^ 3)
    ({ c with i1 := i1, i2 := i2, i3 := i3, cnt := 0, d1 := i3, d2 := c1, d3 := c2, lastCic := some y }, some y)

/-- Σ h[i] × y[n − i] over a line, newest first (R252). -/
def firSum (t : List Word) (b : Nat) (line : List Int) : Int := line.zipIdx.foldl (fun v p => v + tap t b p.2 * p.1) 0

/-- The FIR output with the cross-fade in progress, and whether it carries FADING (R252, R253). -/
def firStep (t : List Word) (active target : Nat) (fade : Option Nat) (y : Int) (c : Chain) : Chain × Int × Bool :=
  let line := (y :: c.line).take 32
  let lim := clampI (-(2 ^ 23)) (2 ^ 23 - 1)
  match fade with
  | none => ({ c with line := line }, lim (divRoundI (firSum t active line) (2 ^ 16)), false)
  | some l =>
    if l ≤ c.fadeJ then ({ c with line := line }, lim (divRoundI (firSum t target line) (2 ^ 16)), false)
    else
      let j := c.fadeJ + 1
      ({ c with line := line, fadeJ := j },
        lim (divRoundI (firSum t active line * ((l : Int) - j) + firSum t target line * j) (l * 2 ^ 16)), true)

/-- The fade is over once every FIR entry has reached its output L: the target becomes the active bank (R253). -/
def fadeCheck (k : Nat) (s : State) : State :=
  let x := s.adc k
  match x.fade with
  | none => s
  | some l =>
    if (adcSeq x.pl k).zipIdx.all (fun e => Ent.filt (Ent.ctl e.1) ≠ 2 || l ≤ (x.chain e.2).fadeJ) then
      fset (ADC_BANK k) ADC_BANK.active (s.fget (ADC_BANK k) ADC_BANK.target) (setAdc k { x with fade := none } s)
    else s

/-- The output of an entry that is not suppressed reaches its registers and its loops: detectors, curve, result (R250, R258). -/
def putResult (k e : Nat) (ent : List Word) (y : Int) (fl t : Nat) (s : State) : State :=
  let s1 := detect k e y s
  let (v, cf, s2) :=
    if Ent.curve (Ent.ctl ent) = 0 then (y, 0, s1)
    else if fl.testBit resInvalid then (sext 24 s1.free.toNat, 0, drawFree s1)
    else let (v, cf) := s1.linear k ent y; (v, cf, s1)
  let x := s2.adc k
  let cal := decide (x.calSettle = some e)
  let s3 := flagIf (cf.testBit resCurve) (ADC_FLAGS k) ADC_FLAGS.curve_range_seen s2
  let w := resWord v (fl + cf + resBit cal resSettling)
  feedLoops k e { word := w, time := t, held := false } (putRes k e w t s3)

/-- A suppressed output leaves value and time and sets SETTLING (R254). -/
def holdResult (k e t : Nat) (s : State) : State :=
  feedLoops k e { word := s.reg (ADC_RES_VAL k e), time := t, held := true }
    (setReg (ADC_RES_VAL k e) (setBit resSettling (s.reg (ADC_RES_VAL k e))) s)

/-- An output of the stage before the DC block: suppression, DC estimate, result (R254, R255). -/
def finishOutput (k e : Nat) (ent : List Word) (x : Int) (fl t : Nat) (s : State) : State :=
  let a := s.adc k
  let ch := a.chain e
  if 0 < ch.settle then holdResult k e t (setAdc k (a.setChain e { ch with settle := ch.settle - 1 }) s)
  else if Ent.dcb (Ent.ctl ent) then
    let m := cutF a.pl (ADC_CTRL k) ADC_CTRL.dc_shift + 4
    let d := if ch.dcReset then x else ch.dc
    let y := x - d
    let d' := if s.rbit (ADC_DCB k) e then d else d + (x - d) / 2 ^ m
    let s1 := setAdc k (a.setChain e { ch with dc := d', dcReset := false }) s
    if -(2 ^ 23) ≤ y ∧ y < 2 ^ 23 then putResult k e ent y fl t s1 else putResult k e ent (sext 24 s1.free.toNat) fl t (drawFree s1)
  else putResult k e ent x fl t s

/-- New coefficients have settled, so results of the entry carry SETTLING no longer (R249). -/
def calSettled (k e : Nat) (s : State) : State :=
  let x := s.adc k
  if x.calSettle = some e ∧ x.calAsk = none ∧ x.calRun = none ∧ x.zero = none ∧ (x.chain e).settle = 0 then setAdc k { x with calSettle := none } s else s

/-- A conversion of sequence entry `e` enters its chain (R250). -/
def seqSample (k e : Nat) (ent : List Word) (raw : Int) (fl t : Nat) (s : State) : State :=
  let ctl := Ent.ctl ent
  let a := s.adc k
  let xc := sysCal (a.coef e) raw
  let s0 := keepGood k (Ent.input ctl) (resWord xc fl) (calSettled k e s)
  if Ent.filt ctl = 0 then putResult k e ent xc fl t (axisOutput k e t s0)
  else
    let exc := a.excAt.any (fun p => p.1 = e && p.2 ≤ t)
    let s1 := if exc then settleEvent k e false (setAdc k { s0.adc k with excAt := a.excAt.filter (fun p => !(p.1 = e && p.2 ≤ t)) } s0) else s0
    let thr := cutF a.pl (ADC_CTRL k) ADC_CTRL.step_thr
    let step := decide (thr ≠ 0) && (match (a.chain e).lastCic with
      | some y => decide (thr * 2 ^ 15 < (xc - y).natAbs)
      | none => false)
    let s2 := if step then flag (ADC_FLAGS k) ADC_FLAGS.step_seen (settleEvent k e false s1) else s1
    let b := s2.adc k
    let (c1, out) := cicStep (max 3 (cutF b.pl (ADC_CTRL k) ADC_CTRL.cic_r) + 1) xc (b.chain e)
    let c2 := { c1 with flags := c1.flags ||| fl }
    match out with
      | none => setAdc k (b.setChain e c2) s2
      | some y =>
        let fl2 := c2.flags
        let c3 := { c2 with flags := 0 }
        if Ent.filt ctl = 1 then finishOutput k e ent y fl2 t (axisOutput k e t (setAdc k (b.setChain e c3) s2))
        else
          let bank := s2.reg (ADC_BANK k)
          let (c4, v, fading) := firStep (bankTable b.pl k) (getF ADC_BANK.active bank) (getF ADC_BANK.target bank) b.fade y c3
          fadeCheck k (finishOutput k e ent v (fl2 + resBit fading resFading) t (axisOutput k e t (setAdc k (b.setChain e c4) s2)))

/-- A scan result goes to every sequence entry that names the input, with SCAN set, and with SETTLING to the entry that is calibrated
(R241, R249). -/
def scanResult (k input : Nat) (raw : Int) (fl t : Nat) (s : State) : State :=
  (adcSeq (s.adc k).pl k).zipIdx.foldl (fun u e =>
    if Ent.input (Ent.ctl e.1) = input then
      putRes k e.2 (resWord raw (fl + 2 ^ resScan + resBit ((s.adc k).calSettle = some e.2) resSettling)) t u
    else u) (keepGood k input (resWord raw fl) s)

/-- An ambient reading of a cell (R83, R84, R233): one that carries REF_UNSETTLED or INVALID judges the reading before it and is itself
never used. -/
def cellReading (k i c fl samp : Nat) (s : State) : State :=
  let ch := 16 * k + i
  let t := s.now - 750
  let blanked := s.obeysBlank k && s.extOverlaps k ((t - sampPhase k samp) * 2048) (t * 2048)
  let s1 := ambientReading ch c blanked s
  if blanked ∨ ¬ (fl.testBit resUnsettled || fl.testBit resInvalid) ∨ 0xFFC0 ≤ c then s1
  else flag (RX_CELL_FLAGS ch) RX_CELL_FLAGS.conv_invalid (setCell ch { s1.cell ch with lastReading := none } s1)

/-! ### The slot boundary (R239, R242, R253, R265) -/

/-- A channel switch between scan mask and sequence (R242, R254 a); the pass begins anew. -/
def switchMode (k : Nat) (scan : Bool) (s : State) : State :=
  let x := s.adc k
  settleWhere k true (fun c => Ent.filt c ≠ 0)
    (setAdc k { x with scanning := scan, pos := 0, scanned := false, scanClean := s.refsSettled k } s)

/-- BN_RESET (R256). -/
def bnReset (k : Nat) (s : State) : State :=
  setReg (ADC_BN_PEAK k) 0 (setReg (ADC_BN_RMS k) 0 (setReg (ADC_BN_ENV k) 0 (setAdc k { s.adc k with peak := 0, ms := 0, env := 0 } s)))

/-- A run-time write takes effect at the slot boundary (R239, R265): an offset or a gain for the entry that `ADC_SYSCAL_IDX` names then
(R248); another entry resets the detectors (R256). -/
def applyAdcWrite (k : Nat) (w : Nat × Word) (s : State) : State :=
  let x := s.adc k
  let e := s.fget (ADC_SYSCAL_IDX k) ADC_SYSCAL_IDX.entry
  let co := x.coef e
  if w.1 = ADC_SYSCAL_OFS k then
    settleEvent k e true (setAdc k { x with coefs := put (fun _ => (0, 2 ^ 22)) x.coefs e (sext 24 w.2.toNat, co.2) } s)
  else if w.1 = ADC_SYSCAL_GAIN k then
    settleEvent k e true (setAdc k { x with coefs := put (fun _ => (0, 2 ^ 22)) x.coefs e (co.1, w.2.toNat % 2 ^ 24) } s)
  else if w.1 ≠ ADC_BANK k then
    setReg w.1 w.2 (if w.1 = ADC_BN_CFG k ∧ getF ADC_BN_CFG.entry w.2 ≠ s.fget (ADC_BN_CFG k) ADC_BN_CFG.entry then bnReset k s else s)
  else
    let bank := s.reg (ADC_BANK k)
    if x.fade.isSome then flag (ADC_FLAGS k) ADC_FLAGS.bank_refused s
    else if getF ADC_BANK.target w.2 = getF ADC_BANK.active bank then s
    else
      let len := min 1024 (max 16 (getF ADC_BANK.fade_len w.2))
      let s1 := fsets (ADC_BANK k) [(ADC_BANK.target, getF ADC_BANK.target w.2), (ADC_BANK.fade_len, getF ADC_BANK.fade_len w.2)] s
      fadeCheck k (setAdc k { x with fade := some len, chains := x.chains.map (fun c => (c.1, { c.2 with fadeJ := 0 })) } s1)

/-- The chain and the result an entry of a new sequence takes over: those of the entry with its control word, at its own place first
(R239). -/
def takeOver (old : List (List Word)) (ctl e : Nat) : Option Nat :=
  if e < old.length ∧ seqCtl old e = ctl then some e
  else ((old.zipIdx).find? (fun p => Ent.ctl p.1 = ctl)).map (·.2)

/-- A cell whose enable changes: a disabled cell drops its reading, value and average, and a new one starts without them (R239). -/
def dropReadings (k : Nat) (old new : Option Plane) (s : State) : State :=
  forUp (fun i t =>
    if cellOn old (8 + k / 8) (k % 8) i = cellOn new (8 + k / 8) (k % 8) i then t
    else setCell (16 * k + i) { t.cell (16 * k + i) with lastReading := none, committed := none, ambAvg := 0 } t) 0 16 s

/-- The calibration in progress ends with a code (R249): state FAILED. -/
def calFail (k code : Nat) (s : State) : State :=
  let x := s.adc k
  fsets (ADC_SYSCAL_STATUS k) [(ADC_SYSCAL_STATUS.state, 3), (ADC_SYSCAL_STATUS.calibrating, 0), (ADC_SYSCAL_STATUS.code, code)]
    (setAdc k { x with calRun := none, calAsk := none, zero := none, calSettle := none } s)

/-- A calibration command that fails at once: state FAILED with its code; a zero that stands and a run in progress stay (R249). -/
def calRefuse (k code : Nat) (s : State) : State :=
  fsets (ADC_SYSCAL_STATUS k) [(ADC_SYSCAL_STATUS.state, 3), (ADC_SYSCAL_STATUS.code, code)] s

/-- The converter takes a new plane at the slot boundary (R239, R249, R253, R254 f). -/
def adcNewPlane (k : Nat) (s : State) : State :=
  let x := s.adc k
  let pl := s.planeOf (adcTarget k)
  let old := adcSeq x.pl k
  let new := adcSeq pl k
  let changed := decide (old ≠ new ∨ cutReg x.pl (ADC_CTRL k) ≠ cutReg pl (ADC_CTRL k))
  let s1 := if changed ∧ (x.calRun.isSome ∨ x.calAsk.isSome ∨ x.zero.isSome) then calFail k 5 s else s
  let from_ := new.zipIdx.map (fun e => takeOver old (Ent.ctl e.1) e.2)
  let vals := from_.map (fun o => match o with
    | some j => (s1.reg (ADC_RES_VAL k j), look (fun _ => 0) x.times j)
    | none => (0x02000000, 0))
  let chains := (from_.zipIdx).foldl (fun m p => match p.1 with
    | some j => put (fun _ => ({} : Chain)) m p.2 (x.chain j)
    | none => m) []
  let x1 := s1.adc k
  let exc := from_.zipIdx.flatMap (fun p => (x.excAt.filter (fun q => p.1 = some q.1)).map (fun q => (p.2, q.2)))
  let s2 := setAdc k { x1 with excAt := if old = new then x1.excAt else exc, pl := pl, epoch := s.epochOf (adcTarget k), chains := if old = new then x1.chains else chains,
                               pos := if old = new then x1.pos else 0 } s1
  let s3 := if old = new then s2
    else vals.zipIdx.foldl (fun t p => putRes k p.2 p.1.1 p.1.2 t) s2
  let s4 := from_.zipIdx.foldl (fun t p => if p.1.isNone then settleEvent k p.2 true t else t) s3
  let s5 := if k < 48 then dropReadings k x.pl pl s4 else s4
  let s5 := setAdc k { s5.adc k with bankDue := false } s5
  match bankTable pl k with
  | [] =>
    if bankTable x.pl k = [] then s5
    else fsets (ADC_BANK k) [(ADC_BANK.target, 0), (ADC_BANK.active, 0)] (setAdc k { s5.adc k with fade := none } s5)
  | w :: t =>
    if !x.bankDue && w :: t = bankTable x.pl k then s5
    else settleWhere k true (fun c => Ent.filt c = 2)
      (fsets (ADC_BANK k) [(ADC_BANK.target, w.toNat % 2), (ADC_BANK.active, w.toNat % 2)] (setAdc k { s5.adc k with fade := none } s5))

/-- A swap's Cut carries bank tables: their converters apply start_bank with the plane (R253, R254 f). -/
def markBanks (keys : List (Nat × Nat)) (s : State) : State :=
  forUp (fun k t => if keys.contains (adcFrame k, 0x0603) then setAdc k { t.adc k with bankDue := true } t else t) 0 54 s

/-- A calibration run that was accepted begins, once no injected conversion and no reconversion stands ahead of it (R247). -/
def calStart (k : Nat) (s : State) : State :=
  let x := s.adc k
  match (if x.active.isSome || x.resumeAt.isSome || !x.waiting.isEmpty then none else x.calAsk) with
  | some r => fset (ADC_SYSCAL_STATUS k) ADC_SYSCAL_STATUS.calibrating 1 (setAdc k { x with calAsk := none, calRun := some r } s)
  | none => s

/-- Everything a slot boundary does: the plane, run-time writes, the choice between scan mask and sequence, and a calibration run that
has waited for it. -/
def adcBoundary (k : Nat) (s : State) : State :=
  let x := s.adc k
  let s1 := setAdc k { x with lostNow := 0, slotAt := s.now } s
  let s2 := if x.epoch = s.epochOf (adcTarget k) ∧ x.pl = s.planeOf (adcTarget k) then s1 else adcNewPlane k s1
  let s3 := x.due.foldl (fun t w => applyAdcWrite k w t) (setAdc k { s2.adc k with due := [] } s2)
  let y := s3.adc k
  let s4 := if y.refWait && y.scanned && s3.refsSettled k then setAdc k { y with refWait := false } s3 else s3
  let s5 := if (s4.adc k).scanning = s4.wantsScan k then s4 else switchMode k (s4.wantsScan k) s4
  showAdc k (calStart k s5)

/-- The entry or scan input after the one that has ended; a completed pass counts (R238, R241). -/
def advance (k n : Nat) (s : State) : State :=
  let x := s.adc k
  if x.pos + 1 < n then setAdc k { x with pos := x.pos + 1 } s
  else
    let done := x.scanning && x.scanClean
    setAdc k { x with pos := 0, passes := x.passes + 1, scanned := x.scanned || done, scanClean := s.refsSettled k } s

/-- The slot of the entry or scan input being converted, and of a control word, in ns (R229). -/
def ctlSlot (k ctl : Nat) : Nat := sampPhase k (Ent.samp ctl) + convPhase k
def State.slotNs (s : State) (k : Nat) : Nat :=
  let x := s.adc k
  ctlSlot k (if x.scanning then 0 else seqCtl (adcSeq x.pl k) x.pos)

/-- The instant of the reconversion has come: the waiting request of highest priority interrupts it (R244). -/
def adcResume (k : Nat) (s : State) : State :=
  let x := s.adc k
  match x.resumeAt with
  | some t =>
    if t ≤ s.now then
      setAdc k { x with resumeAt := none, slotAt := t, lostNow := 0, active := x.waiting.head?, waiting := x.waiting.drop 1 } s
    else s
  | none => s

/-- The converter idles after an injected conversion of slot `len` that has interrupted the entry in its slot (R244). -/
def adcIdle (k len : Nat) (s : State) : State :=
  let x := s.adc k
  setAdc k { x with active := none, lostNow := 0, resumeAt := some (x.slotAt + s.slotNs k + len) } s

/-- A conversion slot ends (R229, R238, R241). During an injected conversion and the idle time after it no slot of the sequence ends
(R244); during a calibration run the slots belong to it (R247). -/
def execConversionSlotEnd (converter : Fin 54) (code : BitVec 16) (fine : BitVec 2) (s : State) : Out :=
  .next (let k := converter.val
    let s := adcResume k s
    let x := s.adc k
    if !s.adcRuns k || x.active.isSome || x.resumeAt.isSome then s
    else match x.calRun with
    | some (e, _, _) =>
      let ctl := seqCtl (adcSeq x.pl k) e
      let c := s.trim k (Ent.gain ctl) (adcBits k) (rawCode k code fine)
      adcBoundary k (noteFlags k (s.convFlags k (Ent.input ctl) (Ent.ref ctl) c) s)
    | none =>
      let t := s.now - convPhase k
      let raw := rawCode k code fine
      if x.scanning then
        let ins := scanInputs x.pl k
        let i := nth 31 ins x.pos
        let c := s.trim k 0 (adcBits k) raw
        let fl := s.convFlags k i 0 c
        let s1 := scanResult k i (sampleOf k c) fl t (noteFlags k fl s)
        let s2 := if k < 48 ∧ i < 16 ∧ cellOn x.pl (8 + k / 8) (k % 8) i then cellReading k i c fl 0 s1 else s1
        adcBoundary k (advance k ins.length s2)
      else
        let sq := adcSeq x.pl k
        if sq = [] then adcBoundary k s
        else
          let ent := nth [] sq x.pos
          let ctl := Ent.ctl ent
          let c := s.trim k (Ent.gain ctl) (adcBits k) raw
          let fl := s.convFlags k (Ent.input ctl) (Ent.ref ctl) c
          let s1 := seqSample k x.pos ent (sampleOf k c) fl t (noteFlags k fl s)
          let s2 := if k < 48 ∧ Ent.input ctl < 16 then cellReading k (Ent.input ctl) c fl (Ent.samp ctl) s1 else s1
          adcBoundary k (advance k sq.length s2))

/-! ### References (R232) -/

/-- A reference exists on a converter (R231, R263). -/
def refExists (k r : Nat) : Bool := r = 0 || r = 3 || (r = 1 && 48 ≤ k) || (r = 2 && adcSensor k)

/-- The control word of the conversion in its slot. -/
def Adc.inSlot (x : Adc) (k : Nat) : Nat :=
  match x.active with
  | some r => r.ctl
  | none => if x.scanning then 0 else seqCtl (adcSeq x.pl k) x.pos

/-- VREF_HK can be judged now: at a conversion that uses it (R466). On the scan mask none does, and it settles there from its level alone
(DESIGN CHOICE, log entry 124). -/
def State.vrefJudged (s : State) (k r : Nat) (settles : Bool) : Bool :=
  decide (k < 52) || r ≠ 1 || Ent.ref ((s.adc k).inSlot k) = 1 || (settles && (s.adc k).scanning)

/-- The excitation current into TEMP_IN_t, in nA (R466): it flows throughout the slots of converter 52's entries with a resistive or diode
curve that name the input. -/
def State.tempCurrent (s : State) (t : Nat) : Nat :=
  let x := s.adc 52
  let c := x.inSlot 52
  if s.adcRuns 52 && x.active.isNone && !x.scanning && Ent.input c = t && [1, 2, 3, 4, 7].contains (Ent.curve c) then
    nth 0 [0, 10000, 100000, 1000000] (cutF x.pl HK_EXC HK_EXC.exc_cur)
  else 0

/-- `a` and `b` agree to within 1/`d` of `b`. -/
def agrees (a b d : Nat) : Bool := decide (((a : Int) - b).natAbs * d ≤ b)

/-- The settling condition of a reference at `level`, in µV (R232): the internal one 200 µs after its domain's power-on, in agreement with
the housekeeping bandgap `mean` to 0.2 %; an external one after `held` ns within 0.1 % of its running mean; the supply reference 100 µs
after the VDD_ADC monitor has reported good. -/
def State.refSettles (s : State) (k r level mean held : Nat) : Bool :=
  if r = 0 then decide ((s.adc k).enabledAt + 200000 ≤ s.now) && agrees level mean 500
  else if r = 3 then !s.hk.bad.testBit 3 && decide (s.hk.adcGoodAt + 100000 ≤ s.now)
  else decide (64000 ≤ held) && agrees level mean 1000

/-- The condition under which a reference is lost (R232): an external one beyond 1 % of its running mean or below 0.5 V, the supply
reference while the VDD_ADC monitor reports bad, the internal one out of its agreement. -/
def State.refLost (s : State) (r level mean : Nat) : Bool :=
  if r = 0 then !agrees level mean 500
  else if r = 3 then s.hk.bad.testBit 3
  else !agrees level mean 100 || decide (level < 500000)

/-- A reference settles; after a loss that is a settle event of the entries that use it (R232, R254 d). -/
def execReferenceSettled (converter : Fin 54) (reading : RefReading) (s : State) : Out :=
  .next (let k := converter.val
    let r := reading.ref.val
    if !refExists k r || !s.adcRuns k || !s.vrefJudged k r true || !s.refSettles k r reading.level reading.mean reading.held then s
    else
      let x := s.adc k
      let s1 := setReg (ADC_REF k) (setBit r (s.reg (ADC_REF k))) s
      if x.lostRefs.testBit r then
        settleWhere k true (fun c => Ent.filt c ≠ 0 && refBit k (Ent.input c) (Ent.ref c) = r)
          (setAdc k { x with lostRefs := x.lostRefs &&& (15 ^^^ 2 ^ r) } s1)
      else s1)

/-- A reference drops its flag: lost sets, the conversion in its slot becomes INVALID, and a reference in use sends the converter to its
scan mask (R232, R233, R240); the loops that its entries feed see an INVALID sample (R311). -/
def loseRef (k r : Nat) (s : State) : State :=
  if !(s.settledRefs k).testBit r then s
  else
    let x := s.adc k
    let s1 := setFlag (ADC_REF k) (8 + r) (setReg (ADC_REF k) (clrBit r (s.reg (ADC_REF k))) s)
    let used := (seqRefs x.pl k).testBit r
    feedLostInjected k r <| feedLost k (fun c => refBit k (Ent.input c) (Ent.ref c) = r)
      (setAdc k { x with lostNow := x.lostNow ||| 2 ^ r, lostRefs := x.lostRefs ||| 2 ^ r, refWait := x.refWait || used,
                         scanned := x.scanned && !used, scanClean := x.scanClean && !used } s1)

def execReferenceLost (converter : Fin 54) (reading : RefReading) (s : State) : Out :=
  .next (if s.vrefJudged converter reading.ref false && s.refLost reading.ref reading.level reading.mean then loseRef converter reading.ref s else s)

/-- The VDD_ADC monitor reports bad: the conversions in their slots become INVALID, and the supply references are lost (R232, R233). -/
def adcSupplyBad (s : State) : State :=
  forUp (fun k t =>
    if t.adcRuns k then
      let t1 := loseRef k 3 t
      setAdc k { t1.adc k with lostNow := (t1.adc k).lostNow ||| 16 } t1
    else t) 0 54 s

/-! ### Injected conversions (R243 to R245) -/

/-- The rank of a request among those that wait. -/
def InjSource.rank : InjSource → Nat
  | .sf c => c
  | .loop l => 2 + l
  | .bias => 100

/-- Put a request among those that wait, by priority. -/
def insertReq (r : InjReq) : List InjReq → List InjReq
  | [] => [r]
  | q :: l => if r.src.rank < q.src.rank then r :: q :: l else q :: insertReq r l

/-- A request leaves for its converter; of requests on their way together the one of highest priority arrives first (R244). -/
def sendReq (k : Nat) (r : InjReq) (s : State) : State :=
  let x := s.adc k
  setAdc k { x with incoming := insertReq r x.incoming } s

/-- The bias of a head port in 0.01 V from its sensed voltage (R94). -/
def reportBias (k : Nat) (w : Word) (s : State) : State :=
  let div := (cutReg (s.planeOf (tgtRx k)) (RX_BLK_BIAS_CFG k)).toNat % 65536
  let v := (resValue w * 125 * div / (64 * 2 ^ 23)).toNat
  fsets (RX_BLK_BIAS_SNS k) [(RX_BLK_BIAS_SNS.bias, min 65535 v), (RX_BLK_BIAS_SNS.valid, b2n (div ≠ 0 && !w.getLsbD resInvalid))] s

/-- An answer goes to the requester only (R243). -/
def deliver (k : Nat) (r : InjReq) (w : Word) (t : Nat) (s : State) : State :=
  let s1 := if k < 48 ∧ Ent.input r.ctl = 16 then reportBias k w s else s
  match r.src with
  | .sf c =>
    if 30 ≤ Ent.input r.ctl then { s1 with testIn := s1.testIn ++ [(k, Ent.input r.ctl, w)] }
    else if k < 52 then { s1 with motionIn := s1.motionIn ++ [(c, 2 * (k - 48) + Ent.input r.ctl % 2, w, t)] }
    else { s1 with supplyIn := s1.supplyIn ++ [(c, w)] }
  | .loop l => let x := s1.loop_ l; setLoop l { x with inbox := x.inbox ++ [{ word := w, time := t, held := false }] } s1
  | .bias => s1

/-- An injected request arrives: it interrupts the entry in its slot, or waits (R244); during a calibration run it is answered STALE
(R249), and with INVALID by a converter in fault (R259). The manual gives such an answer no sampling instant: it carries the time of the
answer (DESIGN CHOICE, log entry 123). -/
def execInjectedRequest (converter : Fin 54) (s : State) : Out :=
  .next (let k := converter.val
    let s := adcResume k s
    let x := s.adc k
    match x.incoming with
    | [] => s
    | r :: rest =>
      let s1 := setAdc k { x with incoming := rest } s
      if !s.adcRuns k then s1
      else if x.calRun.isSome then
        let s2 := flag (ADC_FLAGS k) ADC_FLAGS.inj_stale s1
        match x.lastGood.find? (fun e => e.1 = Ent.input r.ctl) with
        | some e => deliver k r (setBit resStale e.2 ||| w32 (resBit (s.adcFault k) resInvalid)) s.now s2
        | none => deliver k r (resWord (sext 24 s2.free.toNat) (2 ^ resStale + resBit (s.adcFault k) resInvalid)) s.now (drawFree s2)
      else if x.active.isSome || x.resumeAt.isSome then setAdc k { x with incoming := rest, waiting := insertReq r x.waiting } s1
      else setAdc k { x with incoming := rest, active := some r, lostNow := 0 } s1)

/-- The coefficients of the lowest-numbered entry with the input, gain and reference of a request (R243). -/
def Adc.reqCoef (x : Adc) (k ctl : Nat) : Int × Nat :=
  match (adcSeq x.pl k).zipIdx.find? (fun e =>
    let c := Ent.ctl e.1
    Ent.input c = Ent.input ctl ∧ Ent.gain c = Ent.gain ctl ∧ Ent.ref c = Ent.ref ctl) with
  | some e => x.coef e.2
  | none => (0, 2 ^ 22)

/-- An injected conversion completes: its result is delivered, and the converter idles until the reconversion (R244, R245). -/
def execInjectedResult (converter : Fin 54) (code : BitVec 16) (fine : BitVec 2) (s : State) : Out :=
  .next (let k := converter.val
    let s := adcResume k s
    let x := s.adc k
    match x.active with
    | none => s
    | some r =>
      let c := s.trim k (Ent.gain r.ctl) (adcBits k) (rawCode k code fine)
      let fl := s.convFlags k (Ent.input r.ctl) (Ent.ref r.ctl) c
      let w := resWord (sysCal (x.reqCoef k r.ctl) (sampleOf k c)) fl
      let s1 := keepGood k (Ent.input r.ctl) w (noteFlags k fl s)
      showAdc k (deliver k r w (s.now - convPhase k) (adcIdle k (ctlSlot k r.ctl) s1)))

/-- Every 1 ms, where no bias loop runs and the divider is not 0, the block asks for one conversion of BIAS_SNS (R94, R283). -/
def execBiasConversionRequest (block : Fin 48) (s : State) : Out :=
  .next (let k := block.val
    let b := s.blk k
    let div := (cutReg (s.planeOf (tgtRx k)) (RX_BLK_BIAS_CFG k)).toNat % 65536
    if div = 0 then fset (RX_BLK_BIAS_SNS k) RX_BLK_BIAS_SNS.valid 0 s
    else if s.loopState (8 + k) ≠ 0 ∨ s.now < b.biasAt + 1000000 ∨ ¬ s.adcRuns k then s
    else sendReq k { src := .bias, ctl := 16 } (setBlk k { b with biasAt := s.now } s))

/-! ### Self-check and faults (R246, R259) -/

/-- A self-check of input 30 fails above 256 LSB; one of input 31 outside half scale ± 1 %, or 0 ± 1 % of full scale. -/
def checkFails (k : Nat) (full : Bool) (x : Int) : Bool :=
  if full then (if adcSensor k then 2 ^ 23 < x.natAbs * 100 else 2 ^ 22 < (x - 2 ^ 22).natAbs * 100)
  else decide (256 * 2 ^ (23 - adcBits k) < x)

/-- A self-check (R246), one injected conversion that interrupts the entry in its slot: two failures of one input running put the converter
in fault; under REARM two passes of each clear it (R259). -/
def execSelfCheck (converter : Fin 54) (code : BitVec 18) (s : State) : Out :=
  .next (let k := converter.val
    if !s.adcRuns k || (s.adc k).passes < 2048 || (s.adc k).calRun.isSome then s
    else
    let s := adcResume k s
    let x := s.adc k
    if x.active.isSome || x.resumeAt.isSome then s
    else
      let c := s.trim k 0 (adcBits k) (code.toNat % 2 ^ adcBits k)
      let bad := checkFails k x.checkFull (sampleOf k c)
      let x1 := { x with passes := 0, checkFull := !x.checkFull }
      let x2 := if x.checkFull then { x1 with fail31 := if bad then x.fail31 + 1 else 0, pass31 := if bad then 0 else x.pass31 + 1 }
        else { x1 with fail30 := if bad then x.fail30 + 1 else 0, pass30 := if bad then 0 else x.pass30 + 1 }
      let fl := s.convFlags k (if x.checkFull then 31 else 30) 0 c
      let s1 := noteFlags k fl (flagIf bad (ADC_FLAGS k) ADC_FLAGS.selfcheck_fail (adcIdle k (ctlSlot k 0) (setAdc k x2 s)))
      if 2 ≤ x2.fail30 ∨ 2 ≤ x2.fail31 then converterFault k s1
      else if x.rearm ∧ 2 ≤ x2.pass30 ∧ 2 ≤ x2.pass31 then
        endCause (.converter k) (fset (ADC_STATUS k) ADC_STATUS.fault 0 (setAdc k { s1.adc k with rearm := false } s1))
      else s1)


/-! ### Commands (R242, R247 to R249, R253, R256, R259) -/

/-- A command is refused. -/
def adcRefuse (k : Nat) (s : State) : State := flag (ADC_FLAGS k) ADC_FLAGS.cmd_refused s

/-- The word of a converter's register with the writes that wait for it (R14, R239). -/
def State.adcWritten (s : State) (k a : Nat) : Word :=
  match ((s.adc k).due ++ s.rx.rtWrites ++ s.hk.writes).reverse.find? (fun w => w.1 = a) with
  | some w => w.2
  | none => s.reg a

/-- CAL_ZERO or CAL_FULL (R247, R249): the run begins at the slot boundary, with the injected conversions and their reconversion
done. It takes `ADC_SYSCAL_IDX` with a write that still waits, which precedes the command. One given while a run is asked for or in progress is
refused with cmd_refused (DESIGN CHOICE, log entry 123). -/
def calBegin (k : Nat) (full : Bool) (s : State) : State :=
  let x := s.adc k
  let idx := s.adcWritten k (ADC_SYSCAL_IDX k)
  let e := getF ADC_SYSCAL_IDX.entry idx
  let a := min 12 (max 4 (getF ADC_SYSCAL_IDX.avg idx))
  let sq := adcSeq x.pl k
  if s.mode = .run then calRefuse k 4 s
  else if x.calRun.isSome ∨ x.calAsk.isSome ∨ ¬ (s.mode = .configured ∨ s.mode = .armed ∨ s.mode = .service) then adcRefuse k s
  else if sq.length ≤ e ∨ (k < 48 ∧ Ent.input (seqCtl sq e) < 16) then calRefuse k 6 s
  else if full ∧ x.zero.map (·.1) ≠ some e then calRefuse k 3 s
  else
    fset (ADC_SYSCAL_STATUS k) ADC_SYSCAL_STATUS.code 0
      (setAdc k { x with calAsk := some (e, full, a), calSettle := some e, zero := if full then x.zero else none } s)

def execCalZero (q : Requester) (converter : Fin 54) (s : State) : Out := .next (hostWrite q (ADC_CMD converter) (calBegin converter false) s)
def execCalFull (q : Requester) (converter : Fin 54) (s : State) : Out := .next (hostWrite q (ADC_CMD converter) (calBegin converter true) s)

/-- The zero conversions of a run are done, at a slot boundary (R247, R248). -/
def execCalZeroDone (converter : Fin 54) (sum : Int) (s : State) : Out :=
  .next (let k := converter.val
    let s := if (s.adc k).calRun.isSome then adcBoundary k s else s
    let x := s.adc k
    match x.calRun with
    | some (e, false, a) =>
        showAdc k (fsets (ADC_SYSCAL_STATUS k) [(ADC_SYSCAL_STATUS.calibrating, 0), (ADC_SYSCAL_STATUS.state, 1)]
          (setAdc k { x with calRun := none, zero := some (e, divRoundI sum (2 ^ a)) } s))
    | _ => s)

/-- The full-scale conversions are done, and the coefficients follow (R248). -/
def execCalFullDone (converter : Fin 54) (sum : Int) (s : State) : Out :=
  .next (let k := converter.val
    let s := if (s.adc k).calRun.isSome then adcBoundary k s else s
    let x := s.adc k
    match x.calRun, x.zero with
    | some (e, true, a), some (_, z) =>
        let f := divRoundI sum (2 ^ a)
        if f - z < 2 ^ 19 then showAdc k (calFail k 1 s)
        else
          let g := divRoundI ((s.reg (ADC_SYSCAL_TARGET k)).toNat * 2 ^ 22 : Nat) (f - z).toNat
          if 2 ^ 24 ≤ g then showAdc k (calFail k 2 s)
          else
            let s1 := setAdc k { x with calRun := none, zero := none, coefs := put (fun _ => (0, 2 ^ 22)) x.coefs e (z, g.toNat) } s
            showAdc k (settleEvent k e true
              (fsets (ADC_SYSCAL_STATUS k) [(ADC_SYSCAL_STATUS.calibrating, 0), (ADC_SYSCAL_STATUS.state, 2)] s1))
    | _, _ => s)

/-- SCAN_ON and SCAN_OFF: the switch comes at the slot boundary (R242). -/
def scanCommand (k : Nat) (on : Bool) (s : State) : State :=
  if s.mode = .configured ∨ s.mode = .armed then setAdc k { s.adc k with hostScan := on } s else adcRefuse k s

def execScanOn (q : Requester) (converter : Fin 54) (s : State) : Out := .next (hostWrite q (ADC_CMD converter) (scanCommand converter true) s)
def execScanOff (q : Requester) (converter : Fin 54) (s : State) : Out := .next (hostWrite q (ADC_CMD converter) (scanCommand converter false) s)

def execBnReset (q : Requester) (converter : Fin 54) (s : State) : Out := .next (hostWrite q (ADC_CMD converter) (bnReset converter) s)

/-- REARM, in CONFIGURED only (R259). -/
def adcRearm (k : Nat) (s : State) : State :=
  if s.mode = .configured then setAdc k { s.adc k with rearm := true, pass30 := 0, pass31 := 0, fail30 := 0, fail31 := 0 } s
  else adcRefuse k s

def execAdcRearm (q : Requester) (converter : Fin 54) (s : State) : Out := .next (hostWrite q (ADC_CMD converter) (adcRearm converter) s)

/-- A write of `ADC_CMD` by its command (R264). -/
def adcCommand (k command : Nat) (s : State) : State :=
  match command with
  | 1 => calBegin k false s
  | 2 => calBegin k true s
  | 3 => scanCommand k true s
  | 4 => scanCommand k false s
  | 5 => bnReset k s
  | 6 => adcRearm k s
  | _ => adcRefuse k s

def execAdcBadCommand (q : Requester) (converter : Fin 54) (command : BitVec 4) (s : State) : Out :=
  .next (hostWrite q (ADC_CMD converter) (adcCommand converter command.toNat) s)

/-- A write waits for the slot boundary of its converter; the instant at which the island applies it is stamped (R14, R239). -/
def adcDue (k a stamp : Nat) (w : Word) (s : State) : State :=
  let s1 := setAdc k { s.adc k with due := (s.adc k).due ++ [(a, w)] } s
  { s1 with rx := { s1.rx with stamps := put (fun _ => 0) s1.rx.stamps a stamp } }

/-- A run-time write of a converter register (R14, R239, R265): on an ambient converter it waits for a pixel boundary of its block that is
scheduled, on a housekeeping converter for the next round (R467); then for the slot boundary. -/
def adcRunWrite (k a : Nat) (w : Word) (s : State) : State :=
  if k < 48 ∧ s.scheduled k then { s with rx := { s.rx with rtWrites := s.rx.rtWrites ++ [(a, w)] } }
  else if 52 ≤ k then { s with hk := { s.hk with writes := s.hk.writes ++ [(a, w)] } }
  else adcDue k a s.now w s

/-- A write of `ADC_BANK` (R253): refused during a fade and while a write that starts one waits for its boundary, without effect where the
target is the active bank. -/
def bankWrite (k : Nat) (w : Word) (s : State) : State :=
  if (s.adc k).fade.isSome || ((s.adc k).due ++ s.rx.rtWrites ++ s.hk.writes).any (fun p => p.1 = ADC_BANK k) then flag (ADC_FLAGS k) ADC_FLAGS.bank_refused s
  else if getF ADC_BANK.target w = s.fget (ADC_BANK k) ADC_BANK.active then s
  else adcRunWrite k (ADC_BANK k) w s

def execBankWrite (q : Requester) (converter : Fin 54) (data : Word) (s : State) : Out :=
  .next (hostWrite q (ADC_BANK converter) (bankWrite converter data) s)

end Sys2Proof.Machine
end

