-- ==== Sys2Proof/Machine/Scanner.lean ====
section
/-!
DEFINITION. Scanner ports and the control engine (chapter 09): loops, set-points, HOLD, resonant axes, excitation, the drive link; and
the release of the converters (R566).
-/
namespace Sys2Proof.Machine

/-! ### Where SC works (R303) -/

/-- Loops run, and excitation and drive words follow the plane. -/
def State.scRuns (s : State) : Bool :=
  !s.fenced 3 && s.domGood 64 && !s.isolated 3 0 && (s.mode = .configured || s.mode = .armed || s.mode = .run || s.mode = .service)

/-- The unit's own carat (R441). -/
def State.carat (s : State) : Nat :=
  let rank := cutF s.cut.live PAIR_CFG PAIR_CFG.rank
  match s.pair with
  | .solo | .active => s.pairSt.won.getD rank
  | .standby | .withdrawn => (s.fget PAIR_STATUS PAIR_STATUS.bus_carat / 8 + 1) * 8 % 65536 + rank

/-! ### HOLD (R298 to R302) -/

/-- The scan fault of an axis changes: it is shown and goes to channels A and B (R300, R308, R310). -/
def scanFault (a : Nat) (raised : Bool) (s : State) : State :=
  if (s.fget (SC_AXIS_STATUS a) SC_AXIS_STATUS.scan_fault = 1) = raised then s
  else
    let s1 := fset (SC_AXIS_STATUS a) SC_AXIS_STATUS.scan_fault (b2n raised) s
    let f := s1.fget SC_ENG_STATUS SC_ENG_STATUS.scan_faults
    let s2 := fset SC_ENG_STATUS SC_ENG_STATUS.scan_faults (if raised then f ||| 2 ^ a else f &&& (255 ^^^ 2 ^ a)) s1
    let s3 := flagIf raised SC_ENG_FLAGS SC_ENG_FLAGS.scan_fault_raised s2
    { s3 with sc := { s3.sc with toA := s3.sc.toA ++ [(a, raised)], toB := s3.sc.toB ++ [(a, raised)] } }

/-- A loop enters HOLD with the flag of its cause; from REARM_CHECK that is a failed re-arm (R300, R302). -/
def enterHold (l : Nat) (cause : Fld) (s : State) : State :=
  let s1 := flagIf (s.loopState l = 4) (SC_LOOP_FLAGS l) SC_LOOP_FLAGS.rearm_failed s
  let s2 := setLoopState l 2 (flag (SC_LOOP_FLAGS l) cause s1)
  if l < 8 then scanFault l true s2 else s2

/-- An axis is in WAIT_FRAME: resonant, with no frame period measured (R292, R308). -/
def State.waitsFrame (s : State) (a : Nat) : Bool :=
  s.loopState a ≠ 0 && LSet.kind (s.loop_ a).set = 1 && s.time.period.isNone
def showWait (a : Nat) (s : State) : State := fset (SC_AXIS_STATUS a) SC_AXIS_STATUS.wait_frame (b2n (s.waitsFrame a)) s

/-- The loop of an axis starts or stops: its words, its oscillator, its lock and its scan fault begin anew (R292 to R294, R300, R308). -/
def freshAxis (a : Nat) (s : State) : State :=
  let s1 := setAxis a { s.axis a with drive := none, osc := none } s
  showWait a (scanFault a false (fsets (SC_AXIS_STATUS a) [(SC_AXIS_STATUS.locked, 0), (SC_AXIS_STATUS.amplitude, 0)] s1))

/-- The status of a loop that starts or stops (R309). -/
def freshLoop (l state cause : Nat) (s : State) : State :=
  fsets (SC_LOOP_STATUS l) [(SC_LOOP_STATUS.state, state), (SC_LOOP_STATUS.ramp_limited, 0), (SC_LOOP_STATUS.sat_hi, 0),
    (SC_LOOP_STATUS.sat_lo, 0), (SC_LOOP_STATUS.cause, cause)] s

/-- A loop becomes INACTIVE with a cause, and what was issued for it ends; a bias loop holds its output at 0 V, which is then the output in
force (R283, R285, R297). -/
def deactivate (l cause : Nat) (s : State) : State :=
  let s1 := freshLoop l 0 cause { s with sc := { s.sc with issued := s.sc.issued.filter (fun i => i.loop ≠ l) } }
  let s2 := if l < 8 then freshAxis l s1 else s1
  if loopBias l then
    let s3 := setLoop l { s2.loop_ l with uPrev := 0 } s2
    { s3 with sc := { s3.sc with biasCtl := put (fun _ => 0) s3.sc.biasCtl (l - 8) 0 } }
  else s2

/-- A loop starts under a set: its first evaluation is bumpless from the output in force (R285). -/
def startLoop (l : Nat) (t : List Word) (s : State) : State :=
  let x := s.loop_ l
  let s1 := freshLoop l 1 0
    (setLoop l { ({} : Loop) with set := t, uPrev := x.uPrev, ran := x.ran, spNow := x.spNow, spNext := x.spNext, arrived := s.now,
                                  delayFresh := x.delayFresh, temp := x.temp } s)
  if l < 8 then freshAxis l s1 else s1

/-- The converter that feeds a loop has been released, or will never be (R303, R566). -/
def State.fedReady (s : State) (k : Nat) : Bool := (s.adc k).released || s.adcFault k

/-- Start the loops that the release of converter `k` lets run (R303, R566). -/
def startFed (k : Nat) (s : State) : State :=
  let pl := s.planeOf tgtSc
  if s.scRuns && pl.isSome then
    forUp (fun l t => if t.loopState l = 0 ∧ loopCause pl l = 0 ∧ loopConv l (loopSet pl l) = k then startLoop l (loopSet pl l) t else t) 0 64 s
  else s

/-- A write of an axis's excitation waits for the next output of its feedback entry; where no output will come it takes effect at once
(R271). -/
def excitationDue (a : Nat) (s : State) : State :=
  let ps := loopSet (s.planeOf tgtSc) a
  let k := LSet.conv ps
  if ps ≠ [] ∧ ¬ loopInjects a ps ∧ ¬ (s.adc k).scanning ∧ s.adcRuns k then
    setAxis a { s.axis a with excWrite := true } s
  else applyExcitation a s.now s

/-- Writes of SC registers that wait, and whose axis or head block the plane powers down, are dropped (R44). -/
def dropScWrites (pl : Option Plane) (s : State) : State :=
  let s1 := forUp (fun a t =>
    if (t.axis a).excWrite && !cellOn pl 3 0 a then dropWrite 3 0 (setAxis a { t.axis a with excWrite := false } t) else t) 0 8 s
  forUp (fun l t =>
    let off := if l < 8 then !cellOn pl 3 0 l else !blockOn pl (rxRegion (l - 8)) (rxBlock (l - 8))
    if off && (t.loop_ l).spNext ≠ [] then dropWrite 3 0 (setLoop l { t.loop_ l with spNext := [] } t) else t) 0 56 s1

/-- SC takes a plane up: correction tables, loops that stop or start, and excitation. A loop starts once the converter that feeds it has
been released. -/
def takeSc (cd : Carried) (s : State) : State :=
  let pl := s.planeOf tgtSc
  let s2 := dropScWrites pl (installSc pl cd s)
  let s3 := forUp (fun l t =>
    let c := loopCause pl l
    if c ≠ 0 then (if t.loopState l = 0 then fset (SC_LOOP_STATUS l) SC_LOOP_STATUS.cause c t else deactivate l c t)
    else if t.loopState l ≠ 0 then t
    else if t.fedReady (loopConv l (loopSet pl l)) then startLoop l (loopSet pl l) t
    else fset (SC_LOOP_STATUS l) SC_LOOP_STATUS.cause 0 t) 0 64 s2
  forUp (fun a t => if cellOn pl 3 0 a || (t.axis a).on then excitationDue a t else t) 0 8 s3

/-- SC applies the plane change. A loop that runs on takes its new set at its own first evaluation whose sampling instant is at or after I
(R29, R283, R285, R305). -/
def applySc (stamp : Nat) (s : State) : State := takeSc (some s.cut.swapKeys) (markApplied tgtSc stamp s)

/-! ### Set-points (R286, R287, R296) -/

/-- The set-point target of a bias loop in Q1.23 from its temperature in 0.001 °C (R296). -/
def biasTarget (t : List Word) (divider : Nat) (temp : Int) : Int :=
  let dt := temp - 10 * LSet.t0 t
  let mv := clampI 0 (10 * (LSet.vMax t : Int)) (10 * (LSet.v0 t : Int) + (LSet.tc t * dt) / 10000)
  (mv * 64 * 2 ^ 23) / ((divider : Int) * 1250)

/-- The temperature result of a bias loop, and its age in ns (R296). -/
def State.biasTemp (s : State) (l : Nat) (t : List Word) : Word × Nat :=
  if LSet.tDie t then
    let r := 8 + (l - 8) / 8
    (s.reg (HK_T_VAL (15 + r)), s.now - (look (fun _ => {}) s.hk.chans (15 + r)).readAt)
  else
    let k := LSet.tConv t
    let e := LSet.tEntry t
    (s.reg (ADC_RES_VAL k e), s.resAge k e)

/-- A bias loop reads its temperature; an unusable result leaves the last valid one in use and sets temp_stale (R296). -/
def readBiasTemp (l : Nat) (t : List Word) (s : State) : State :=
  let (w, age) := s.biasTemp l t
  let x := s.loop_ l
  if w.getLsbD resInvalid || w.getLsbD resStale || w.getLsbD resSettling || w.getLsbD resCurve || 1000000000 < age then
    flag (SC_LOOP_FLAGS l) SC_LOOP_FLAGS.temp_stale s
  else setLoop l { x with temp := some (resValue w) } s

/-- The segment of a profile that holds τ, from point `i`, and the position there (R286). -/
def profileAt (t : List Word) (tau : Int) : Nat → Nat → Int
  | 0, i => LSet.profPos t i
  | n + 1, i =>
    let t0 : Int := LSet.profTime t i
    let t1 : Int := LSet.profTime t (i + 1)
    if tau ≤ t0 then LSet.profPos t i
    else if t1 ≤ tau then profileAt t tau n (i + 1)
    else LSet.profPos t i + divRoundI ((LSet.profPos t (i + 1) - LSet.profPos t i) * (tau - t0)) (t1 - t0).toNat

/-- The last frame boundary instant at or before `t`. -/
def State.edgeBefore (s : State) (t : Nat) : Nat := if s.frameEdge ≤ t then s.frameEdge else s.frameEdge - s.time.period.getD 0

/-- The generic loop that drives loop `l`'s set-point, if one runs (R286). -/
def State.cascadeOf (s : State) (l : Nat) : Option Nat :=
  (List.range 8).map (· + 56) |>.find? (fun g =>
    let t := (s.loop_ g).set
    t ≠ [] ∧ LSet.target t = 1 ∧ LSet.tLoop t = l ∧ s.loopState g ≠ 0)

/-- The target of loop `l` at sampling instant `time`, by the first source of R286 that applies. -/
def State.loopTarget (s : State) (l time : Nat) : Int :=
  let x := s.loop_ l
  let t := x.set
  match s.cascadeOf l with
  | some g => (s.loop_ g).uPrev
  | none =>
    if loopBias l then
      biasTarget t ((cutReg (s.planeOf (tgtRx (l - 8))) (RX_BLK_BIAS_CFG (l - 8))).toNat % 65536) (x.temp.getD (10 * LSet.t0 t))
    else if LSet.kind t = 0 ∧ l < 8 ∧ 0 < LSet.nProf t then
      profileAt t ((time : Int) - (s.edgeBefore time : Int)) (LSet.nProf t - 1) 0
    else x.spNow

/-- Braking distance of a rate (R287). -/
def brake (a : Nat) (c : Int) : Int :=
  let m := c.natAbs
  let q := m / a
  (q * m : Int) - (a * q * (q + 1) / 2 : Nat)

/-- One step of the ramp limiter in 2^−16 Q1.23 units: set-point, rate, and whether it is limited (R287). -/
def limiter (r a : Nat) (sp v tgt tgtPrev : Int) : Int × Int × Bool :=
  let dist := tgt - sp
  let vt := tgt - tgtPrev
  if dist.natAbs ≤ a ∧ (v - vt).natAbs ≤ a ∧ vt.natAbs ≤ r then (tgt, vt, false)
  else
    let s : Int := if dist ≠ 0 then dist.sign else -v.sign
    let fits := fun c : Int => decide (s * c ≤ 0 ∨ brake a c ≤ (dist.natAbs : Int) - c.natAbs)
    let c1 := clampI (-(r : Int)) r (v + s * a)
    let c2 := clampI (-(r : Int)) r v
    let w := clampI (-(r : Int)) r (if fits c1 then c1 else if fits c2 then c2 else v - s * a)
    (sp + w, w, true)

/-! ### The loop law (R284, R285) -/

/-- What one evaluation of a loop law computes. -/
structure Law where
  x : Loop
  u : Int
  limited : Bool
  deriving DecidableEq, Repr

/-- One evaluation on feedback `fb` (after invert) towards target `tgt`; `held` for suppressed feedback (R284, R285, R287, R301). -/
def loopLaw (x : Loop) (resonant held : Bool) (fb tgt0 : Int) : Law :=
  let t := x.set
  let fresh := x.first && !x.keepSp
  let sp0 := if fresh then fb * 2 ^ 16 else x.sp
  let v0 := if fresh then 0 else x.v
  let tgt := if resonant then 0 else tgt0 * 2 ^ 16
  let tgtPrev := if fresh then tgt else x.tgtPrev
  let (sp, v, limited) :=
    if resonant ∨ LSet.rateLim t = 0 then (tgt, (0 : Int), false)
    else limiter (LSet.rateLim t * 256) (LSet.accLim t) sp0 v0 tgt tgtPrev
  let fbPrev := if fresh then fb else x.fbPrev
  let e := (sp + 2 ^ 15) / 2 ^ 16 - fb
  let p := (LSet.kp t * e) / 2 ^ 16
  let d := if held then 0 else (LSet.kd t * (fbPrev - fb)) / 2 ^ 16
  let i0 := if x.first then (x.uPrev - p - d) * 2 ^ 16 else x.iAcc
  let raw := p + i0 / 2 ^ 16 + d
  let ki := LSet.ki t
  let blocked := decide ((LSet.uMax t ≤ raw ∧ 0 < ki * e) ∨ (raw ≤ LSet.uMin t ∧ ki * e < 0))
  let i1 := if x.first || held || blocked then i0 else clampI (-(2 ^ 39)) (2 ^ 39 - 1) (i0 + ki * e)
  let u := clampI (LSet.uMin t) (LSet.uMax t) (p + i1 / 2 ^ 16 + d)
  { x := { x with sp := sp, v := v, tgtPrev := tgt, fbPrev := fb, iAcc := i1, uPrev := u, first := false, keepSp := false, ran := true },
    u := u, limited := limited }

/-- The span of a list of numbers. -/
def spanOf : List Int → Int
  | [] => 0
  | a :: l => l.foldl max a - l.foldl min a

/-- The frozen test (R299). -/
def Loop.frozen (x : Loop) (k : Nat) : Bool :=
  let n := LSet.frzN x.set
  n ≠ 0 && n ≤ x.hist.length && decide ((LSet.frzDrive x.set : Int) < spanOf ((x.hist.take n).map (·.2)))
    && decide (spanOf ((x.hist.take n).map (·.1)) < if adcSensor k then 128 else 256)

/-! ### Outputs (R286, R289, R295, R297) -/

/-- The delay of an output in 16 ns units, rounded up; 0xFF for held feedback and 4,064 ns and more (R274). -/
def delayCode (end_ time : Nat) (held : Bool) : Nat := if held ∨ 4064 ≤ end_ - time then 0xFF else (end_ - time + 15) / 16

/-- `SC_LOOP_DELAY` takes a delay (R289). -/
def noteDelay (l d : Nat) (s : State) : State :=
  let x := s.loop_ l
  let a := SC_LOOP_DELAY l
  let least := if x.delayFresh then d else min d (s.fget a SC_LOOP_DELAY.least)
  let greatest := if x.delayFresh then d else max d (s.fget a SC_LOOP_DELAY.greatest)
  fsets a [(SC_LOOP_DELAY.last, d), (SC_LOOP_DELAY.least, least), (SC_LOOP_DELAY.greatest, greatest)] (setLoop l { x with delayFresh := false } s)

/-- The output of a loop leaves for where it goes; a newer one replaces that of the same loop which still waits for the link. While
FRAME_SYNC is absent an oscillator keeps its frequency (R292). BIAS_CTL reaches its code one crossing and 100 to 250 ns after the evaluation. -/
def emitOutput (l : Nat) (u : Int) (time : Nat) (held : Bool) (s : State) : State :=
  let s1 := setReg (SC_LOOP_OUT l) (w32 (toBits 24 u)) s
  let t := (s1.loop_ l).set
  let dv : DriveVal := { value := u, time := time, held := held, loop := l }
  if l < 8 then
    (if LSet.kind t = 1 ∧ (s1.axis l).osc.isSome ∧ s1.fget TIME_STATUS TIME_STATUS.frame_sync_present = 0 then s1
     else setAxis l { s1.axis l with drive := some dv } s1)
  else if loopBias l then
    let s2 := { s1 with sc := { s1.sc with biasCtl := put (fun _ => 0) s1.sc.biasCtl (l - 8) (u / 2 ^ 7).toNat } }
    noteDelay l (delayCode (s.now + 106 + s2.free.toNat % 159) time held) (drawFree s2)
  else if LSet.target t = 0 then
    let x := s1.axis (LSet.tAxis t)
    setAxis (LSet.tAxis t) { x with aux := x.aux.filter (fun d => d.loop ≠ l) ++ [dv] } s1
  else if LSet.target t = 2 then setReg (SC_AXIS_AMP (LSet.tAxis t)) (w32 (clampI 0 (2 ^ 24 - 1) u).toNat) s1
  else s1

/-- An evaluation in RUN or SETTLE_HOLD: set-point, law, status, output, frozen test (R284 to R288, R299, R301). -/
def evaluate (l : Nat) (fb0 : Int) (time : Nat) (held : Bool) (s : State) : State :=
  let s0 := if loopBias l then readBiasTemp l (s.loop_ l).set s else s
  let x := s0.loop_ l
  let t := x.set
  let k := loopConv l t
  let resonant := decide (l < 8 ∧ LSet.kind t = 1)
  let fb := if LSet.invert t then -fb0 else fb0
  let law := loopLaw x resonant held fb (s0.loopTarget l time)
  let hist := if held then [] else ((fb, law.u) :: x.hist).take (max 1 (LSet.frzN t))
  let y := { law.x with hist := hist, lastFb := some (fb0, time) }
  let s1 := fsets (SC_LOOP_STATUS l) [(SC_LOOP_STATUS.ramp_limited, b2n law.limited), (SC_LOOP_STATUS.sat_hi, b2n (decide (law.u = LSet.uMax t))),
    (SC_LOOP_STATUS.sat_lo, b2n (decide (law.u = LSet.uMin t)))] (setLoop l y s0)
  let s2 := flagIf law.limited (SC_LOOP_FLAGS l) SC_LOOP_FLAGS.ramp_limited_seen s1
  let s3 := setReg (SC_LOOP_FB l) (w32 (toBits 24 fb)) s2
  let s4 := emitOutput l law.u time held s3
  if !held && !resonant && y.frozen k then enterHold l SC_LOOP_FLAGS.frozen s4 else s4

/-! ### Samples (R270, R278, R279, R293, R294, R298) -/

/-- The axis whose bridge a loop's feedback converts, if any (R270). -/
def State.bridgeOf (s : State) (l : Nat) : Option Nat :=
  let t := (s.loop_ l).set
  let k := loopConv l t
  let i := Ent.input (if loopInjects l t then loopReq l t else seqCtl (adcSeq (s.adc k).pl k) (LSet.entry t))
  if l < 8 then some l else if 48 ≤ k ∧ k < 52 ∧ i < 2 then some (2 * (k - 48) + i) else none

/-- The feedback of a sample: bridge offset and polarity at the sampling instant for a bridge (R270, R317). -/
def State.feedback (s : State) (l : Nat) (v : Int) (time : Nat) : Int :=
  match s.bridgeOf l with
  | some a =>
    let x := s.axis a
    let y := v - nth 0 (s.inForce (calKey 3 0 a 7)) 0
    if (if x.revAt ≤ time then x.reversed else x.wasReversed) then -y else y
  | none => v

/-- When an evaluation of loop `l` became ready: at the arrival of its pending sample, or where it is suppressed a period after the evaluation
before (R279, R301). -/
def State.readyAt (s : State) (l : Nat) : Option Nat :=
  let x := s.loop_ l
  if s.loopState l = 0 then none
  else if x.pend.isSome then some x.pendAt
  else if s.loopState l = 3 && s.sc.issued.all (fun i => i.loop ≠ l || i.sample.isSome) then some (x.heldAt + LSet.period x.set)
  else none

/-- Evaluation `a` is served before `b`, each given as loop and instant at which it became ready: axes first, each group in the order of
arrival (R279). -/
def servedFirst (a b : Nat × Nat) : Bool :=
  decide (a.1 < 8 ∧ 8 ≤ b.1) || (decide (a.1 < 8 ↔ b.1 < 8) && (decide (a.2 < b.2) || decide (a.2 = b.2 ∧ a.1 < b.1)))

/-- The evaluations that are ready, with their instants. -/
def State.readyLoops (s : State) : List (Nat × Nat) := (List.range 64).filterMap (fun l => (s.readyAt l).map (fun t => (l, t)))

/-- The next issue, if its instant has come: 250 ns or more after the one before, and once an evaluation is ready (R279). -/
def State.nextIssue (s : State) : Option (Nat × Nat) :=
  let rs := s.readyLoops
  match rs with
  | [] => none
  | r :: _ =>
    let first := rs.foldl (fun m q => min m q.2) r.2
    let t := match s.sc.issueAt with | some b => max (b + 250) first | none => first
    let best := (rs.filter (fun q => q.2 ≤ t)).foldl (fun m q => match m with
      | some p => some (if servedFirst q p then q else p)
      | none => some q) (none : Option (Nat × Nat))
    if t ≤ s.now then best.map (fun q => (q.1, t)) else none

/-- The engine issues an evaluation: it takes the pending sample, which nothing replaces from then on (R279). -/
def issue (l t : Nat) (s : State) : State :=
  let x := s.loop_ l
  let s1 := setLoop l (if x.pend.isSome then { x with pend := none } else { x with heldAt := t }) s
  { s1 with sc := { s1.sc with issued := s1.sc.issued ++ [{ loop := l, sample := x.pend, at_ := t }], issueAt := some t } }

/-- Issue everything that was to be issued by now. -/
def issueAll : Nat → State → State
  | 0, s => s
  | n + 1, s => match s.nextIssue with
    | some (l, t) => issueAll n (issue l t s)
    | none => s
def engineRun (s : State) : State := if s.scRuns then issueAll 128 s else s

/-- A sample becomes the loop's pending one; a replaced sample counts (R279). -/
def pendSample (l : Nat) (fb : Int) (w : Word) (time : Nat) (s : State) : State :=
  let s := engineRun s
  let x := s.loop_ l
  let s1 := setLoop l { x with pend := some (fb, w, time), pendAt := s.now, arrived := s.now } s
  if x.pend.isSome then
    flag SC_ENG_FLAGS SC_ENG_FLAGS.overrun_any (flag (SC_LOOP_FLAGS l) SC_LOOP_FLAGS.overrun
      (bumpOvf (SC_LOOP_FLAGS l) SC_LOOP_FLAGS.overrun_count 1 (SC_LOOP_FLAGS l) SC_LOOP_FLAGS.overrun_ovf.lo s1))
  else s1

/-- Lock of a resonant axis from one crossing (R294). -/
def noteLock (l : Nat) (within : Bool) (s : State) : State :=
  let x := s.loop_ l
  let good := if within then x.good + 1 else 0
  let bad := if within then 0 else x.bad + 1
  let locked := s.fget (SC_AXIS_STATUS l) SC_AXIS_STATUS.locked = 1
  let s1 := setLoop l { x with good := min 16 good, bad := min 4 bad } s
  if !locked && 16 ≤ good then fset (SC_AXIS_STATUS l) SC_AXIS_STATUS.locked 1 s1
  else if locked && 4 ≤ bad then flag (SC_AXIS_FLAGS l) SC_AXIS_FLAGS.unlocked (fset (SC_AXIS_STATUS l) SC_AXIS_STATUS.locked 0 s1)
  else s1

/-- A rising crossing of a resonant axis at `tc` ns: the phase error becomes the sample (R293). -/
def crossing (l : Nat) (tc : Int) (w : Word) (time : Nat) (s : State) : State :=
  match s.time.period with
  | none => s
  | some tf =>
    let t := (s.loop_ l).set
    let m : Int := LSet.perFrame t
    let rel := tc - (s.frameEdge : Int) - (LSet.phaseOff t : Int)
    let n := divRoundI (rel * m) tf
    let num := rel * m - n * tf
    let fb := clampI (-(2 ^ 23)) (2 ^ 23 - 1) (divRoundI (num * 2 ^ 24) tf)
    let s1 := setReg (SC_AXIS_PHASE l) (w32 (toBits 32 (divRoundI num m.toNat))) s
    pendSample l fb w time (noteLock l (decide (num.natAbs ≤ LSet.lockTol t * m.toNat)) s1)

/-- An output of a resonant axis's feedback entry: span, crossing, amplitude of the period that ends (R293, R299). -/
def resonantOutput (l : Nat) (y : Int) (w : Word) (time : Nat) (s : State) : State :=
  let x := s.loop_ l
  let cross := match x.lastY with
    | some (y0, _) => decide (y0 < 0 ∧ 0 ≤ y)
    | none => false
  let amp := ((x.hi - x.lo) / 2).toNat
  let whole := cross && x.crossed
  let low := if LSet.ampMin x.set ≠ 0 ∧ amp < LSet.ampMin x.set then x.lowPeriods + 1 else 0
  let x1 := { x with lastY := some (y, time), lo := if cross then y else min x.lo y, hi := if cross then y else max x.hi y,
                     crossed := x.crossed || cross, lowPeriods := if whole then low else x.lowPeriods,
                     rearmPeriods := if whole then (if low = 0 then x.rearmPeriods + 1 else 0) else x.rearmPeriods }
  let s1 := setLoop l x1 s
  let s2 := if whole then fset (SC_AXIS_STATUS l) SC_AXIS_STATUS.amplitude amp s1 else s1
  match x.lastY with
  | some (y0, t0) =>
    if cross then crossing l ((t0 : Int) + divRoundI (((time : Int) - t0) * (-y0)) (y - y0).toNat - (LSet.gd x.set : Int)) w time s2 else s2
  | none => s2

/-- The oldest item on its way to a loop arrives (R278, R279, R301). -/
def execLoopSample (loop : Fin 64) (s : State) : Out :=
  .next (let l := loop.val
    let x := s.loop_ l
    match x.inbox with
    | [] => s
    | it :: rest =>
      let s1 := setLoop l { x with inbox := rest } s
      if !s.scRuns || s.loopState l = 0 then s1
      else
        let resonant := decide (l < 8 ∧ LSet.kind x.set = 1)
        if it.held then
          let s2 := setLoop l { x with inbox := rest, arrived := s.now, hist := [], lastY := none, crossed := false, lowPeriods := 0 } s1
          if !resonant && s.loopState l = 1 then
            setLoopState l 3 (setLoop l { s2.loop_ l with heldAt := s.now - LSet.period x.set } s2)
          else s2
        else if it.lost then pendSample l 0 it.word it.time s1
        else
          let fb := s.feedback l (resValue it.word) it.time
          if resonant then resonantOutput l fb it.word it.time s1 else pendSample l fb it.word it.time s1)

/-- A loop takes a new set (R285, R305): one of another kind restarts it, another runs on without a bump. -/
def changeSet (l : Nat) (t : List Word) (s : State) : State :=
  let x := s.loop_ l
  if x.set = t then s
  else if LSet.kind x.set ≠ LSet.kind t then
    let s1 := freshLoop l 1 0 (setLoop l { ({} : Loop) with
      set := t, pend := x.pend, pendAt := x.pendAt, inbox := x.inbox, arrived := x.arrived, spNow := x.spNow, spNext := x.spNext } s)
    if l < 8 then freshAxis l s1 else s1
  else setLoop l { x with set := t, first := true, keepSp := x.keepSp || !x.first } s

/-- The evaluation that completes now, 300 ns after its issue, if it is of loop `l` and on a sample or not as `sampled` says; it leaves the
engine (R279). -/
def State.completes (s : State) (l : Nat) (sampled : Bool) : Option Issue :=
  match s.sc.issued with
  | i :: _ => if i.loop = l && i.sample.isSome = sampled && decide (i.at_ + 300 ≤ s.now) then some i else none
  | [] => none
def takeIssue (s : State) : State := { s with sc := { s.sc with issued := s.sc.issued.drop 1, evals := s.sc.evals + 1 } }

/-- The engine evaluates a loop's sample (R279, R284, R298, R300, R302, R305). -/
def execLoopEvaluation (loop : Fin 64) (s : State) : Out :=
  .next (let l := loop.val
    let e := engineRun s
    match (if s.scRuns then e.completes l true else none).bind (·.sample) with
    | none => e
    | some (fb, w, time) =>
        let s := stampChanges (· = tgtSc) time (takeIssue e)
        let s1 := if s.cut.waiting.contains tgtSc ∧ s.cut.swapI ≤ time then applySc time s else s
        let s2 := if s1.loopState l ≠ 0 ∧ ¬ s1.cut.waiting.contains tgtSc ∧ s1.cut.swapI ≤ time then changeSet l (loopSet (s1.planeOf tgtSc) l) s1 else s1
        let y := s2.loop_ l
        let due := y.spNext.filter (fun p => p.2 < time)
        let y := { y with spNow := (due.getLast?.map (·.1)).getD y.spNow, spNext := y.spNext.filter (fun p => ¬ p.2 < time) }
        let s3 := setReg (SC_LOOP_TIME l) (w32 time) (setLoop l y s2)
        let t := y.set
        let v := if LSet.invert t then -fb else fb
        let bad := w.getLsbD resInvalid || w.getLsbD resOver || decide (v < LSet.fbMin t ∨ LSet.fbMax t < v)
        let still := decide (l < 8 ∧ LSet.kind t = 1 ∧ 4 ≤ y.lowPeriods)
        match s3.loopState l with
        | 0 => s3
        | 2 => setReg (SC_LOOP_FB l) (w32 (toBits 24 v)) s3
        | 4 =>
          let s4 := setReg (SC_LOOP_FB l) (w32 (toBits 24 v)) s3
          if bad then enterHold l SC_LOOP_FLAGS.out_of_range s4
          else if still then enterHold l SC_LOOP_FLAGS.motion_lost s4
          else
            let n := y.rearmGood + 1
            let ok := 16 ≤ n && (!(decide (l < 8 ∧ LSet.kind t = 1)) || 4 ≤ y.rearmPeriods)
            if ok then setLoopState l 1 (setLoop l { y with rearmGood := 0, first := true, keepSp := false, hist := [] } s4)
            else setLoop l { y with rearmGood := n } s4
        | _ =>
          if bad then enterHold l SC_LOOP_FLAGS.out_of_range s3
          else if still then enterHold l SC_LOOP_FLAGS.motion_lost s3
          else evaluate l fb time false (setLoopState l 1 s3))

/-- The feedback of a loop is suppressed: the chain of its entry still has outputs to suppress (R254, R301). -/
def State.loopSuppressed (s : State) (l : Nat) : Bool :=
  let t := (s.loop_ l).set
  !loopInjects l t && (s.loopState l = 3 || 0 < ((s.adc (LSet.conv t)).chain (LSet.entry t)).settle)

/-- No sample for 2 × period, or 4 × T_f ÷ M of a resonant loop (R298): HOLD. -/
def execLoopTimeout (loop : Fin 64) (s : State) : Out :=
  .next (let l := loop.val
    let x := s.loop_ l
    let t := x.set
    let resonant := decide (l < 8 ∧ LSet.kind t = 1)
    let late := if resonant then
        (match s.time.period with
         | some tf => decide ((s.now - x.arrived) * LSet.perFrame t ≥ 4 * tf)
         | none => false)
      else decide (s.now ≥ x.arrived + 2 * LSet.period t)
    let st := s.loopState l
    if !s.scRuns || (st ≠ 1 && st ≠ 4) || s.loopSuppressed l || !late then s
    else flagIf resonant (SC_LOOP_FLAGS l) SC_LOOP_FLAGS.motion_lost (enterHold l SC_LOOP_FLAGS.timeout s))

/-- While its feedback is suppressed a loop is evaluated every period on the last valid sample; the engine issues that evaluation in its turn
(R279, R301). -/
def execSettleHoldEvaluation (loop : Fin 64) (s : State) : Out :=
  .next (let l := loop.val
    let e := engineRun s
    if !s.scRuns || (e.completes l false).isNone then e
    else
      let s1 := takeIssue e
      if s1.loopState l ≠ 3 then s1
      else
        let s2 := flag (SC_LOOP_FLAGS l) SC_LOOP_FLAGS.settle_held s1
        match (s2.loop_ l).lastFb with
        | none => s2
        | some (fb, time) => evaluate l fb time true s2)

/-- An injecting loop issues its request every period (R278). -/
def execLoopRequest (loop : Fin 64) (s : State) : Out :=
  .next (let l := loop.val
    let x := s.loop_ l
    let t := x.set
    let k := loopConv l t
    let a := s.adc k
    let mine := fun r : InjReq => r.src = .loop l
    if !s.scRuns || s.loopState l = 0 || !loopInjects l t || s.now < x.lastReq + LSet.period t
        || a.incoming.any mine || a.waiting.any mine || a.active.any mine then s
    else sendReq k { src := .loop l, ctl := loopReq l t } (setLoop l { x with lastReq := s.now } s))

/-- `SC_ENG_STATUS`.load each millisecond (R280). -/
def execEngineLoadUpdate (s : State) : Out :=
  .next (let n := s.sc.evals
    let s1 := fset SC_ENG_STATUS SC_ENG_STATUS.load (min 8191 n) { s with sc := { s.sc with evals := 0 } }
    flagIf (4000 ≤ n) SC_ENG_FLAGS SC_ENG_FLAGS.overload s1)

/-! ### Host writes (R286, R289, R295, R302) -/

/-- `SC_LOOP_CMD`.rearm: a loop in HOLD enters REARM_CHECK (R302). -/
def loopRearm (l : Nat) (s : State) : State :=
  if s.loopState l = 2 then
    let s1 := setLoopState l 4 (setLoop l { s.loop_ l with rearmGood := 0, rearmPeriods := 0, hist := [], lowPeriods := 0, crossed := false, arrived := s.now } s)
    if l < 8 then scanFault l false s1 else s1
  else s

/-- `SC_LOOP_CMD`.clear_delay (R289). -/
def clearDelay (l : Nat) (s : State) : State :=
  fsets (SC_LOOP_DELAY l) [(SC_LOOP_DELAY.least, 0), (SC_LOOP_DELAY.greatest, 0)] (setLoop l { s.loop_ l with delayFresh := true } s)

/-- A write of `SC_LOOP_CMD`. -/
def loopCommand (l : Nat) (w : Word) (s : State) : State :=
  let s1 := if w.getLsbD 0 then loopRearm l s else s
  if w.getLsbD 1 then clearDelay l s1 else s1

def execLoopRearm (q : Requester) (loop : Fin 64) (s : State) : Out := .next (hostWrite q (SC_LOOP_CMD loop) (loopRearm loop) s)
def execClearDelay (q : Requester) (loop : Fin 64) (s : State) : Out := .next (hostWrite q (SC_LOOP_CMD loop) (clearDelay loop) s)

/-- A write of `SC_LOOP_SP` (R286). -/
def setpointWrite (l : Nat) (w : Word) (s : State) : State :=
  let v := w.toNat % 2 ^ 24
  setReg (SC_LOOP_SP l) (w32 v) (setLoop l { s.loop_ l with spNext := (s.loop_ l).spNext ++ [(sext 24 v, s.now)] } s)

def execSetpointWrite (q : Requester) (loop : Fin 64) (data : Word) (s : State) : Out :=
  .next (hostWrite q (SC_LOOP_SP loop) (setpointWrite loop data) s)

/-- A generic loop drives the axis's amplitude (R286). -/
def State.ampDriven (s : State) (a : Nat) : Bool :=
  (List.range 8).any (fun g =>
    let t := (s.loop_ (56 + g)).set
    t ≠ [] && LSet.target t = 2 && LSet.tAxis t = a && s.loopState (56 + g) ≠ 0)

def ampWrite (a : Nat) (w : Word) (s : State) : State := setReg (SC_AXIS_AMP a) (w32 (w.toNat % 2 ^ 24)) s

/-- A write of `SC_AXIS_AMP`, discarded where a generic loop drives it (R286, R295). -/
def execAmplitudeWrite (q : Requester) (axis : Fin 8) (data : Word) (s : State) : Out :=
  .next (hostWriteIf (!s.ampDriven axis) q (SC_AXIS_AMP axis) (ampWrite axis data) s)

/-! ### Excitation (R269, R271, R272) -/

/-- A write of `SC_AXIS_EXC`; one of exc_on = 1 with exc_fault cleared ends a current limit (R269). -/
def excWrite (a : Nat) (w : Word) (s : State) : State :=
  let x := s.axis a
  let again := w.getLsbD 8 && !s.rbit (SC_AXIS_FLAGS a) 0
  let s1 := setReg (SC_AXIS_EXC a) (w32 (w.toNat % 512)) (if x.fault && again then setAxis a { x with fault := false } s else s)
  if s1.scRuns then excitationDue a s1 else s1

def execExcWrite (q : Requester) (axis : Fin 8) (data : Word) (s : State) : Out :=
  .next (hostWrite q (SC_AXIS_EXC axis) (excWrite axis data) s)

/-- 10 µs at the current limit switch the excitation off (R269). -/
def execExcCurrentLimit (axis : Fin 8) (s : State) : Out :=
  .next (let a := axis.val
    let x := s.axis a
    if !x.on then s
    else
      let s1 := flag (SC_AXIS_FLAGS a) SC_AXIS_FLAGS.exc_fault (setAxis a { x with on := false, fault := true } s)
      reportExcitation a s.now (fset (SC_AXIS_STATUS a) SC_AXIS_STATUS.exc_state 3 s1))

/-- A reversal at instant `t` (R271, R272, R454). -/
def reverse (a t : Nat) (s : State) : State :=
  let x := s.axis a
  let s1 := setAxis a { x with wasReversed := x.reversed, reversed := !x.reversed, revAt := t, outputs := 0 } s
  reportExcitation a t (if x.on then fset (SC_AXIS_STATUS a) SC_AXIS_STATUS.exc_state (if x.reversed then 1 else 2) s1 else s1)

/-- chop_n outputs after the last reversal the polarity reverses, 100 ns after the last sample of the output (R271). -/
def execChopReversal (axis : Fin 8) (s : State) : Out :=
  .next (let a := axis.val
    let x := s.axis a
    let pl := s.planeOf tgtSc
    if !s.scRuns || !x.on || cutF pl (SC_AXIS_CFG a) SC_AXIS_CFG.chop_en = 0
        || x.outputs < max 16 (cutF pl (SC_AXIS_CFG a) SC_AXIS_CFG.chop_n) then s
    else reverse a (x.outAt + 100) s)

/-- The comparator on SCN_EXS of a unit that does not excite detects a reversal, stamped 100 ns before (R454). -/
def execExcitationReversalSensed (axis : Fin 8) (s : State) : Out :=
  .next (if s.scRuns && (s.pair = .standby || s.pair = .withdrawn) then reverse axis (s.now - 100) s else s)

/-! ### Release of the converters (R566) -/

/-- At a slot boundary a converter leaves the scan mask once the references its sequence uses, external ones aside, have settled and a scan pass has run
since; a sensor converter's release switches on the excitation of its axes, and the loops that a converter feeds start with its release.
After 5 ms without release it enters fault, which those loops see. -/
def execConverterRelease (converter : Fin 54) (s : State) : Out :=
  .next (let k := converter.val
    let x := s.adc k
    if !s.adcRuns k || x.released || s.mode = .loader || s.adcFault k then s
    else if s.refsSettled k && x.scanned && x.slotAt = s.now then
      let s1 := startFed k (adcBoundary k (setAdc k { x with released := true } s))
      if 48 ≤ k ∧ k < 52 then
        forUp (fun a t => if cellOn (t.planeOf tgtSc) 3 0 a then applyExcitation a t.now t else t) (2 * (k - 48)) 2 s1
      else s1
    else if max s.cut.swapI x.enabledAt + 5000000 ≤ s.now then
      converterFault k (startFed k s)
    else s)

/-! ### The drive link (R273 to R275, R289, R292, R295) -/

/-- 2π in 2^−160 units. -/
def twoPi : Nat := 2 * (2 ^ 160 * 31415926535897932384626433832795028841971693993751058209749445923 / 10 ^ 64)

/-- Terms of the sine series on x in 2^−160 units, from term `term` with index `i`. -/
def sinTerms (x2 : Int) : Nat → Nat → Int → Int
  | 0, _, _ => 0
  | n + 1, i, term => term + sinTerms x2 n (i + 1) (-(term * x2 / 2 ^ 160) / ((2 * i + 2) * (2 * i + 3) : Nat))

/-- round_half_up(A × sin(2π × φ ÷ 2^32)), the sine summed from its series well beyond the rounding (R295). -/
def sineValue (a phi : Nat) : Int :=
  let quarter := phi % 2 ^ 30
  let q := phi / 2 ^ 30 % 4
  let f := if q % 2 = 0 then quarter else 2 ^ 30 - quarter
  let x : Int := (twoPi * f / 2 ^ 32 : Nat)
  let y := sinTerms (x * x / 2 ^ 160) 30 0 x
  let y := if q < 2 then y else -y
  divRoundI ((a : Int) * y) (2 ^ 160)

/-- The phase of the oscillator at `t`, from an anchor, under trim `u` and frame period `tf` (R292). -/
def oscPhase (m t0 phi0 : Nat) (u : Int) (tf t : Nat) : Nat :=
  let num : Int := ((t : Int) - t0) * m * (2 ^ 29 + u) * 2 ^ 3
  ((phi0 : Int) + num / (tf : Int)).toNat % 2 ^ 32

/-- A CRC-8 step over a byte: polynomial 0x07, not reflected. -/
def crc8Bits : Nat → Nat → Nat
  | 0, c => c
  | n + 1, c => crc8Bits n (if 128 ≤ c then (c * 2 % 256) ^^^ 7 else c * 2 % 256)

/-- CRC-8 over bytes, initial value 0 (R274, R442). -/
def crc8 (bs : List Nat) : Nat := bs.foldl (fun c b => crc8Bits 8 (c ^^^ b)) 0

/-- The two words of a drive word (R274). -/
def driveWord (value : Int) (kind hold seq carat delay : Nat) : Word × Word :=
  let w0 := toBits 24 value + kind * 2 ^ 24 + hold * 2 ^ 27 + seq % 16 * 2 ^ 28
  let c := crc8 [w0 % 256, w0 / 256 % 256, w0 / 65536 % 256, w0 / 2 ^ 24 % 256, carat % 256, carat / 256 % 256, delay]
  (w32 w0, w32 (carat % 65536 + delay * 2 ^ 16 + c * 2 ^ 24))

/-- A word starts on an axis's link. -/
def sendDrive (a : Nat) (value : Int) (kind delay : Nat) (s : State) : State :=
  let x := s.axis a
  let w := driveWord value kind (b2n (s.loopState a = 2)) x.seq s.carat delay
  setAxis a { x with seq := (x.seq + 1) % 16, startedAt := s.now, busyUntil := s.now + 525, sent := some w } s

/-- The oscillator of a resonant axis at the end of the next word: its phase, under a new frequency from the end of the last word on, and a
new amplitude from the rising zero crossing of the waveform; in HOLD neither changes (R295, R300). Its phase when it starts is free. -/
def oscStep (a tf m : Nat) (u : Int) (s : State) : State :=
  let x := s.axis a
  let end_ := s.now + 400
  match x.osc with
  | none =>
    setAxis a { x with osc := some (end_, s.free.toNat, u, tf, m), phase := s.free.toNat, amp := (s.reg (SC_AXIS_AMP a)).toNat % 2 ^ 24 } (drawFree s)
  | some (t0, p0, u0, tf0, m0) =>
    let last := x.startedAt + 400
    let o := if u0 = u ∧ tf0 = tf ∧ m0 = m then (t0, p0, u0, tf0, m0) else (last, oscPhase m0 t0 p0 u0 tf0 last, u, tf, m)
    let phi := oscPhase m o.1 o.2.1 u tf end_
    let amp := if phi < x.phase ∧ s.loopState a ≠ 2 then (s.reg (SC_AXIS_AMP a)).toNat % 2 ^ 24 else x.amp
    setAxis a { x with osc := some o, phase := phi, amp := amp } s

/-- A DRIVE or AUX word starts once the word in flight and its gap have passed (R275, R295). An axis whose kind a swap changes goes on as it was
until its own evaluation takes the new set (R305). -/
def execDriveWord (axis : Fin 8) (s : State) : Out :=
  .next (let a := axis.val
    let x := s.axis a
    let ps := (s.loop_ a).set
    if !s.scRuns || s.now < x.busyUntil || !cellOn (s.planeOf tgtSc) 3 0 a then s
    else if LSet.kind ps = 1 ∧ s.loopState a ≠ 0 then
      match s.time.period with
      | none =>
        sendDrive a 0 0 0xFF (setAxis a { x with lastDrive := 0 } (showWait a s))
      | some tf =>
        let (u, time, held) := match x.drive with
          | some d => (d.value, d.time, d.held)
          | none => (0, 0, true)
        let (tf', m) := match x.osc with
          | some o => if s.fget TIME_STATUS TIME_STATUS.frame_sync_present = 1 ∧ s.loopState a ≠ 2 then (tf, LSet.perFrame ps) else o.2.2.2
          | none => (tf, LSet.perFrame ps)
        let s1 := oscStep a tf' m u (showWait a s)
        let y := s1.axis a
        let v := sineValue y.amp y.phase
        let d := delayCode (s.now + 400) time held
        sendDrive a v 0 d (noteDelay a d (setAxis a { y with lastDrive := v } s1))
    else match x.drive with
      | some dv =>
        let d := delayCode (s.now + 400) dv.time dv.held
        sendDrive a dv.value 0 d (noteDelay dv.loop d (setAxis a { x with drive := none, lastDrive := dv.value } s))
      | none => match x.aux with
        | dv :: rest =>
          let d := delayCode (s.now + 400) dv.time dv.held
          sendDrive a dv.value 2 d (noteDelay dv.loop d (setAxis a { x with aux := rest } s))
        | [] => s)

/-- After 10 µs without a word the last DRIVE value is repeated, on an enabled port where no DRIVE or AUX word waits; where loops do not run
the value is 0, and with no plane every port sends it (R268, R275, R303). -/
def execKeepalive (axis : Fin 8) (s : State) : Out :=
  .next (let a := axis.val
    let x := s.axis a
    let pl := s.planeOf tgtSc
    if s.fenced 3 || !s.domGood 64 || (pl.isSome && !cellOn pl 3 0 a) || s.now < x.startedAt + 10000 || s.now < x.busyUntil
        || (s.scRuns && (x.drive.isSome || x.aux ≠ [])) then s
    else sendDrive a (if s.scRuns then x.lastDrive else 0) 1 0 s)

end Sys2Proof.Machine
end

