-- ==== Sys2Proof/Machine/Pixels.lean ====
section
/-!
DEFINITION. Pixel boundaries: what a receive block does when it takes a new plane, and what a boundary opens, applies and fixes
(R14, R20, R28, R29, R44, R88, R117, R131, R180, R187, R325).
-/
namespace Sys2Proof.Machine

/-! ### Run-time writes of a receive block (R14, R44) -/

/-- The block of RX registers that an address lies in, 0 to 47. -/
def rxOf (a : Nat) : Nat := (a / 0x1000000 % 16 - 8) * 8 + a / 0x10000 % 256

/-- A run-time write of a block or cell register takes effect: its writable bits change, and the instant is stamped. A cell's thresholds
follow at once where its block has no boundary scheduled (R88). -/
def rtApply (a : Nat) (w : Word) (stamp : Nat) (s : State) : State :=
  let m := w32 (match regRow a with | some r => r.rw | none => 0)
  let s1 := setReg a ((s.reg a &&& (m ^^^ 0xFFFFFFFF)) ||| (w &&& m)) s
  let s2 := { s1 with rx := { s1.rx with stamps := put (fun _ => 0) s1.rx.stamps a stamp } }
  let c := rxOf a * 16 + a / 0x100 % 256
  if a / 0x100 % 256 < 16 ∧ a = RX_CELL_THR c then applyThresholdNow c s2 else s2

/-- A waiting write takes effect at a boundary, which is stamped on it; a converter register goes on to wait for its slot boundary (R239). -/
def rtDue (stamp : Nat) (w : Nat × Word) (s : State) : State :=
  if w.1 / 0x100 % 256 = 0x20 then
    adcDue (rxOf w.1) w.1 stamp w.2 s
  else rtApply w.1 w.2 stamp s

/-- The resource that a register belongs to is powered under the plane: its block, and for a cell register its cell. -/
def rtPowered (pl : Option Plane) (a : Nat) : Bool :=
  let r := a / 0x1000000 % 16
  let b := a / 0x10000 % 256
  let c := a / 0x100 % 256
  blockOn pl r b && (decide (16 ≤ c) || cellOn pl r b c)

/-- The writes that fall due at a boundary of block `k`, in order; one whose resource the plane powers down is dropped. -/
def rtBoundary (pl : Option Plane) (k stamp : Nat) (s : State) : State :=
  let due := s.rx.rtWrites.filter (fun w => rxOf w.1 = k)
  let s1 := { s with rx := { s.rx with rtWrites := s.rx.rtWrites.filter (fun w => rxOf w.1 ≠ k) } }
  due.foldl (fun t w => if rtPowered pl w.1 then rtDue stamp w t else dropWrite (rxRegion k) (rxBlock k) t) s1

/-- A run-time write arrives: it waits for the pixel boundary of its block, or is applied at once where none is scheduled, after those that
still wait for a boundary withdrawn since. -/
def rtWrite (a : Nat) (w : Word) (s : State) : State :=
  if s.scheduled (rxOf a) then { s with rx := { s.rx with rtWrites := s.rx.rtWrites ++ [(a, w)] } }
  else rtApply a w s.now (rtBoundary (s.planeOf (tgtRx (rxOf a))) (rxOf a) s.now s)

/-! ### A block takes a plane (R28, R29, R81, R106, R333) -/

/-- Cell `c` under the new plane: not enabled, or in service again where it was not enabled, or masked again where it was masked before (R100);
a change of gain settles for 200 ns. -/
def applyCell (old new : Option Plane) (stamp c : Nat) (s : State) : State :=
  let st := s.fget (RX_CELL_STATUS c) RX_CELL_STATUS.state
  let x := s.cell c
  let s1 := if !rxCellOn new c then fset (RX_CELL_STATUS c) RX_CELL_STATUS.state 3 (setCell c { x with maskedBefore := x.maskedBefore || decide (st = 2) } s)
            else if st = 3 then fset (RX_CELL_STATUS c) RX_CELL_STATUS.state (if x.maskedBefore then 2 else 0) (setCell c { x with maskedBefore := false } s)
            else s
  if cutF old (RX_CELL_CTRL c) RX_CELL_CTRL.gain = cutF new (RX_CELL_CTRL c) RX_CELL_CTRL.gain then s1
  else setCell c { s1.cell c with settleUntil := stamp + 200 } s1

/-- What else a block shows or runs under the plane it has taken: the connection check (R95, R98), the bias reading, which a divider of 0
makes invalid (R94), and the girdle loop. -/
def settleBlock (new : Option Plane) (k stamp : Nat) (s : State) : State :=
  let s0 := setBlk k { s.blk k with outOfTurn := (s.blk k).outOfTurn.filter (checkable new k) } s
  let s1 := if (s0.blk k).outNow.any (fun i => !checkable new k i) then nextWindow k s0 else s0
  let s2 := if (cutReg new (RX_BLK_BIAS_CFG k)).toNat % 65536 = 0 then fset (RX_BLK_BIAS_SNS k) RX_BLK_BIAS_SNS.valid 0 s1 else s1
  showRing k (noteCheck k stamp s2)

/-- Block `k` takes the plane of the swap in progress at a stamp. -/
def applyRx (k stamp : Nat) (s : State) : State :=
  if s.cut.waiting.contains (tgtRx k) then
    let old := s.cut.old
    let new := s.cut.live
    let s1 := markApplied (tgtRx k) stamp s
    let s2 := if blockOn new (rxRegion k) (rxBlock k) && cellStruct old (rxRegion k) (rxBlock k) = cellStruct new (rxRegion k) (rxBlock k)
              then s1 else fgAbandon k stamp s1
    let s3 := installBlock new (some s.cut.swapKeys) k (showSeq new k s2)
    let s4 := forUp (fun i t => applyCell old new stamp (k * 16 + i) t) 0 16 s3
    settleBlock new k stamp s4
  else s

/-- What a command register of cell `c` has left waiting is dropped where the plane powers the cell down (R44). -/
def dropWaiting (pl : Option Plane) (c : Nat) (s : State) : State :=
  let x := s.cell c
  if (x.unmaskNext || x.clearNext || x.rearmAsked) && !rtPowered pl (RX_CELL_CMD c) then
    dropWrite (8 + c / 128) (c / 16 % 8) (setCell c { x with unmaskNext := false, clearNext := false, rearmAsked := false } s)
  else s

/-- The block applies what waits for it where no boundary is scheduled: the plane, run-time writes, thresholds, re-armed cells,
cleared counters, and the new skew (R14, R29, R88). -/
def applyWaiting (k stamp : Nat) (s : State) : State :=
  let pl := s.planeOf (tgtRx k)
  let s1 := rtBoundary pl k stamp s
  let s2 := match (s1.blk k).skewNext with
    | some v => setBlk k { s1.blk k with skewNext := none } (fset (GD_BLK_SKEW k) GD_BLK_SKEW.skew (toBits 16 v) s1)
    | none => s1
  forUp (fun i t0 =>
    let c := k * 16 + i
    let t := dropWaiting pl c t0
    let x := t.cell c
    let t1 := if x.unmaskNext then fset (RX_CELL_STATUS c) RX_CELL_STATUS.state 0 (setCell c { x with unmaskNext := false } t) else t
    let t2 := if x.clearNext then clearCounts c (setCell c { t1.cell c with clearNext := false } t1) else t1
    if checkable pl k i then applyThreshold pl c t2 else t2) 0 16 s2

/-! ### A pixel opens (R20, R180, R187) -/

/-- The tables of a cell as they stand (R128, R129, R131). -/
def State.tablesOf (s : State) (k i : Nat) : Tables :=
  let key := calKey (rxRegion k) (rxBlock k) i
  { centre := s.inForce (key 1), offset := nth 0 (s.inForce (key 2)) 0, walk := s.inForce (key 3) }

/-- One of a cell's girdle tables slews (R322). -/
def State.slewing (s : State) (key : Nat) : Bool := let x := s.section_ key; decide (x.k < x.n)
def State.cellSlew (s : State) (k i : Nat) : Bool :=
  let key := calKey (rxRegion k) (rxBlock k) i
  s.slewing (key 1) || s.slewing (key 2) || s.slewing (key 3)

/-- Pixel flags that a reporting cell has from the boundary on: masked, or its ganged pair degraded, and slewing tables. -/
def State.openFlags (s : State) (pl : Option Plane) (k i : Nat) : Nat :=
  let c := k * 16 + i
  let gang : Bool := rxPairing pl c = 1
  let m0 := s.masked c
  let m1 := gang && s.masked (c + 1)
  let masked := if gang then m0 && m1 else m0
  (if masked then pfMasked else 0) + (if gang && (m0 || m1) && !masked then pfGang else 0)
    + (if s.cellSlew k i || (gang && s.cellSlew k (i + 1)) then pfSlew else 0)

/-- The pixel that an announced boundary opens. -/
def State.openPixel (s : State) (k : Nat) (o : PixOpen) : Pixel :=
  let pl := s.planeOf (tgtRx k)
  let r := rxRegion k
  let b := s.blk k
  let (epoch, frag) := s.planeId (tgtRx k)
  let count := match binding (shotTable pl) k with | some q => seqPixels (shotTable pl) q | none => 0
  let suspect := b.markerBad
    || (s.pair = .standby && (s.pairSt.skewBad || decide (s.fget PAIR_SKEW PAIR_SKEW.valid = 0)))
  { frame := o.frame, m := o.m, start := o.start, shots := o.shots, period := o.period, index := o.index,
    cls := classOf (classTable pl r) (rxBlock k) o.m, plane := pl, epoch := epoch, frag := frag,
    skew := sext 16 (s.fget (GD_BLK_SKEW k) GD_BLK_SKEW.skew),
    tables := (List.range 16).map (s.tablesOf k), rtable := s.inForce (calKey r (rxBlock k) 0xFF 4),
    wins := (List.range 16).map (fun i => s.windowOf pl k o.m (sliceCell pl (k * 16 + i) % 16)),
    amb := (List.range 16).map (fun i => s.fget (RX_CELL_STATUS (k * 16 + i)) RX_CELL_STATUS.amb_code),
    flags := (if suspect then pfTime else 0) + (if b.calAbsent then pfCalAbsent else 0),
    slew := s.slewing (calKey r (rxBlock k) 0xFF 4),
    cells := (List.range 16).foldl (fun m i =>
      if reporting pl k i then put (fun _ => ({} : CellPix)) m i { flags := s.openFlags pl k i } else m) [],
    b2 := if o.m + 2 < count then some (o.start + 2 * (o.shots * o.period)) else none,
    cutAt := none, closedAt := none, read := 0 }

/-- The buffer a new pixel opens in is the one that did not open last (R187): true for Y. -/
def RxBlk.nextBuffer (b : RxBlk) : Bool :=
  match b.bufX, b.bufY with
  | some p, some q => decide (q.start < p.start)
  | some _, none => true
  | _, _ => false

/-- `HS_CELL_WIN` shows the windows of the pixel in progress (R198). -/
def showWins (k : Nat) (p : Pixel) (s : State) : State :=
  forUp (fun i t =>
    if checkable p.plane k i then
      let w := nth {} p.wins i
      fsets (HS_CELL_WIN (k * 16 + i)) [(HS_CELL_WIN.offset, w.o), (HS_CELL_WIN.k_eff, w.kEff), (HS_CELL_WIN.tracked, b2n w.tracked),
        (HS_CELL_WIN.sweep, b2n w.sweep), (HS_CELL_WIN.class_, p.cls)] t
    else t) 0 16 s

/-- A boundary meets foreground calibration: a block that waits leaves service, one that has run returns, and the next block of the
request may start (R325). -/
def fgBoundary (k start : Nat) (s : State) : State :=
  let b := s.blk k
  if b.fgBack then fgAdvance start 49 (setBlk k { b with fgBack := false } s)
  else match b.fgWait with
    | some t => if t ≤ start then setBlk k { b with fgWait := none, fgLeave := true } s else s
    | none => s

/-- May block `k` open a pixel? A fenced region, or one not yet ready, takes no part (R41), nor does a block before its first 256
markers (R117). An isolated or powered-down block keeps its schedule, with its records flagged absent (R36). -/
def State.takesPart (s : State) (k : Nat) : Bool :=
  let r := rxRegion k
  !s.fenced r && !s.startup.notReady.contains r
    && (s.isolated r (rxBlock k) || !s.domGood k || decide (256 ≤ (s.blk k).markersSeen))

/-- The boundary of pixel `o` at block `k`. -/
def openBoundary (k : Nat) (o : PixOpen) (s : State) : State :=
  let s1 := if s.cut.swapI ≤ o.start then applyRx k o.start s else s
  let s2 := stampChanges (· = tgtRx k) o.start (applyWaiting k o.start s1)
  if s2.takesPart k then
    let s3 := fgBoundary k o.start s2
    let p := s3.openPixel k o
    let b := s3.blk k
    let s4 := setBlk k (if b.nextBuffer then { b with bufY := some p } else { b with bufX := some p }) s3
    fgLeft k (showWins k p s4)
  else s2

/-- A block reaches the shot time of its next pixel. -/
def execPixelBoundary (block : Fin 48) (s : State) : Out :=
  .next (let b := s.blk block
    match b.opens with
    | [] => s
    | o :: rest =>
      if s.now < o.start || !s.shooting then s
      else openBoundary block o (setBlk block { b with opens := rest } s))

end Sys2Proof.Machine
end

