-- ==== Sys2Proof/Machine/Hash.lean ====
section
/-!
DEFINITION. The checks the manual computes over words and bytes: CRC-32 (R47), and the SHA-256 digest that R61 names, as FIPS 180-4
lays it down.
-/
namespace Sys2Proof.Machine

/-- The bytes of words, little-endian, in address order (R10). -/
def bytesOf : List Word → List Nat
  | [] => []
  | w :: ws => w.toNat % 256 :: w.toNat / 256 % 256 :: w.toNat / 65536 % 256 :: w.toNat / 16777216 :: bytesOf ws

/-! ### CRC-32 (R47) -/

/-- One bit of the reflected register of polynomial 0x04C1_1DB7. -/
def crc32Bit (c : Nat) : Nat := if c % 2 = 1 then c / 2 ^^^ 0xEDB88320 else c / 2

/-- `n` bits. -/
def crc32Bits : Nat → Nat → Nat
  | 0, c => c
  | n + 1, c => crc32Bits n (crc32Bit c)

/-- The CRC-32 of bytes. -/
def crc32Bytes (bs : List Nat) : Word := w32 (bs.foldl (fun c b => crc32Bits 8 (c ^^^ b)) 0xFFFFFFFF ^^^ 0xFFFFFFFF)

/-- The CRC-32 of words. -/
def crc32 (ws : List Word) : Word := crc32Bytes (bytesOf ws)

/-! ### SHA-256 (R61) -/

/-- The round constants. -/
def shaK0 : List Word :=
  [0x428A2F98, 0x71374491, 0xB5C0FBCF, 0xE9B5DBA5, 0x3956C25B, 0x59F111F1, 0x923F82A4, 0xAB1C5ED5,
   0xD807AA98, 0x12835B01, 0x243185BE, 0x550C7DC3, 0x72BE5D74, 0x80DEB1FE, 0x9BDC06A7, 0xC19BF174,
   0xE49B69C1, 0xEFBE4786, 0x0FC19DC6, 0x240CA1CC, 0x2DE92C6F, 0x4A7484AA, 0x5CB0A9DC, 0x76F988DA,
   0x983E5152, 0xA831C66D, 0xB00327C8, 0xBF597FC7, 0xC6E00BF3, 0xD5A79147, 0x06CA6351, 0x14292967]
def shaK1 : List Word :=
  [0x27B70A85, 0x2E1B2138, 0x4D2C6DFC, 0x53380D13, 0x650A7354, 0x766A0ABB, 0x81C2C92E, 0x92722C85,
   0xA2BFE8A1, 0xA81A664B, 0xC24B8B70, 0xC76C51A3, 0xD192E819, 0xD6990624, 0xF40E3585, 0x106AA070,
   0x19A4C116, 0x1E376C08, 0x2748774C, 0x34B0BCB5, 0x391C0CB3, 0x4ED8AA4A, 0x5B9CCA4F, 0x682E6FF3,
   0x748F82EE, 0x78A5636F, 0x84C87814, 0x8CC70208, 0x90BEFFFA, 0xA4506CEB, 0xBEF9A3F7, 0xC67178F2]

/-- The initial hash value. -/
def shaInit : List Word :=
  [0x6A09E667, 0xBB67AE85, 0x3C6EF372, 0xA54FF53A, 0x510E527F, 0x9B05688C, 0x1F83D9AB, 0x5BE0CD19]

/-- Words of a message block, most significant byte first. -/
def shaWords : List Nat → List Word
  | a :: b :: c :: d :: bs => w32 (a * 16777216 + b * 65536 + c * 256 + d) :: shaWords bs
  | _ => []

/-- The next `n` words of a message schedule whose words stand newest first. -/
def shaSchedule : Nat → List Word → List Word
  | 0, l => l
  | n + 1, l =>
    let x := nth 0 l 1
    let y := nth 0 l 14
    shaSchedule n ((((x.rotateRight 17 ^^^ x.rotateRight 19 ^^^ (x >>> 10)) + nth 0 l 6)
      + ((y.rotateRight 7 ^^^ y.rotateRight 18 ^^^ (y >>> 3)) + nth 0 l 15)) :: l)

/-- One round on the eight working variables. -/
def shaRound (v : List Word) (kw : Word × Word) : List Word :=
  match v with
  | [a, b, c, d, e, f, g, h] =>
    let t1 := h + (e.rotateRight 6 ^^^ e.rotateRight 11 ^^^ e.rotateRight 25) + ((e &&& f) ^^^ ((e ^^^ 0xFFFFFFFF) &&& g)) + kw.1 + kw.2
    let t2 := (a.rotateRight 2 ^^^ a.rotateRight 13 ^^^ a.rotateRight 22) + ((a &&& b) ^^^ (a &&& c) ^^^ (b &&& c))
    [t1 + t2, a, b, c, d + t1, e, f, g]
  | _ => v

/-- The compression of one block of 64 bytes. -/
def shaBlock (h : List Word) (bs : List Nat) : List Word :=
  let w := (shaSchedule 48 (shaWords bs).reverse).reverse
  let v := ((shaK0 ++ shaK1).zip w).foldl shaRound h
  (h.zip v).map (fun p => p.1 + p.2)

/-- The blocks of a padded message, at most `n`. -/
def shaBlocks : Nat → List Nat → List Word → List Word
  | 0, _, h => h
  | n + 1, bs, h => if bs = [] then h else shaBlocks n (bs.drop 64) (shaBlock h (bs.take 64))

/-- A number's eight bytes, most significant first. -/
def bytesBE8 (n : Nat) : List Nat := (List.range 8).map (fun i => n / 256 ^ (7 - i) % 256)

/-- Reverse the bytes of a word. -/
def swapBytes (w : Word) : Word :=
  w32 (w.toNat % 256 * 16777216 + w.toNat / 256 % 256 * 65536 + w.toNat / 65536 % 256 * 256 + w.toNat / 16777216)

/-- The SHA-256 digest of bytes, as 8 words whose little-endian bytes are the digest's bytes in order (R63, R72). -/
def sha256Bytes (bs : List Nat) : List Word :=
  let n := bs.length
  let p := bs ++ 0x80 :: (List.replicate ((119 - n % 64) % 64) 0 ++ bytesBE8 (8 * n))
  (shaBlocks (n / 64 + 2) p shaInit).map swapBytes

/-- The digest of words. -/
def sha256 (ws : List Word) : List Word := sha256Bytes (bytesOf ws)

end Sys2Proof.Machine
end

