-- ==== Sys2Proof/Machine/Emission.lean ====
section
/-!
DEFINITION. The emission safety function (chapter 13): channels A (0) and B (1), their energy windows, scan-stop, cross-comparison,
output tests, restart, self-test, password, run-time changes and change log.
-/
namespace Sys2Proof.Machine

/-! ### Channels -/

/-- The record of a channel. -/
def State.sfc (s : State) (x : Nat) : SfChan := look (fun _ => {}) s.sf.chans x
def setSfc (x : Nat) (c : SfChan) (s : State) : State := { s with sf := { s.sf with chans := put (fun _ => {}) s.sf.chans x c } }

/-- The state code of a channel (R407): 0 INIT, 1 SELFTEST, 2 TRIPPED, 3 READY, 4 PERMIT, 5 HOT, 6 FAULT. -/
def sfField (x : Nat) : Fld := if x = 0 then SF_STATUS.state_a else SF_STATUS.state_b
def State.sfState (s : State) (x : Nat) : Nat := s.fget SF_STATUS (sfField x)

/-- The channel's program runs: its domain is good and TBASE counts. -/
def State.sfOn (s : State) (x : Nat) : Bool := s.time.running && s.domGood (67 + x)

/-- The word of the set in force; 0 where none is. -/
def State.sfWord (s : State) (i : Nat) : Nat := (nth 0 (s.sf.set.getD []) i).toNat

/-- Bit `n` of a channel's conditions (R408, R435). -/
def State.sfHas (s : State) (x n : Nat) : Bool := (s.sfc x).cause.testBit n

/-- `SF_CAUSE` shows the conditions present in either channel (R433). -/
def showCause (s : State) : State := setReg SF_CAUSE (w32 ((s.sfc 0).cause ||| (s.sfc 1).cause)) s

/-- A condition of a channel appears or ends. -/
def setCause (x n : Nat) (on : Bool) (s : State) : State :=
  let c := s.sfc x
  if c.cause.testBit n = on then s else showCause (setSfc x { c with cause := c.cause ^^^ 2 ^ n } s)

/-- The device is ARMED once both channels are in PERMIT, or in HOT for a standby, and it was in CONFIGURED (R408, R446, R570). -/
def armIfReady (s : State) : State :=
  let both := fun n : Nat => s.sfState 0 = n && s.sfState 1 = n
  if s.mode = .configured && (both 4 || (s.pair = .standby && both 5)) then { s with mode := .armed } else s

/-- A channel changes its state: EMIT_EN is high in PERMIT alone, cross-off is asserted with a turn-off for a trip or fault and released
on leaving TRIPPED or FAULT, and a channel that leaves PERMIT or HOT takes the device out of ARMED and RUN (R405, R407, R408, R424). -/
def enterSf (x st : Nat) (s : State) : State :=
  let old := s.sfState x
  if old = st then s
  else
    let c := s.sfc x
    let en : Bool := st = 4
    let s1 := fset SF_STATUS (sfField x) st (setSfc x { c with
      en := en, enAt := if c.en = en then c.enAt else s.now, pulse := none, fbBad := 0, move := none,
      crossOff := (decide (st = 2) || decide (st = 6)) && (c.crossOff || decide (old = 4)) } s)
    let s2 := flagIf (st = 2) SF_FLAGS SF_FLAGS.tripped (flagIf (st = 6) SF_FLAGS SF_FLAGS.fault s1)
    if (old = 4 ∨ old = 5) ∧ st ≠ 4 ∧ st ≠ 5 then toConfigured s2 else armIfReady s2

/-- A fault moves a channel from any state but INIT to FAULT, a trip cause one in READY, PERMIT or HOT to TRIPPED (R408). DEDUCED (log entry
128): the recorder entry of a trip or fault is that of the flag tripped or fault, which R495 writes as the flag changes from 0. -/
def judgeSf (x : Nat) (s : State) : State :=
  let c := (s.sfc x).cause
  let st := s.sfState x
  if c / 256 ≠ 0 ∧ st ≠ 0 ∧ st ≠ 6 then enterSf x 6 s
  else if c % 64 ≠ 0 ∧ (st = 3 ∨ st = 4 ∨ st = 5) then enterSf x 2 s
  else s

/-- A condition arises in a channel, which reacts. -/
def raiseSf (x n : Nat) (s : State) : State := judgeSf x (setCause x n true s)

/-- A fault arises; in INIT no diagnostic runs. -/
def faultSf (x n : Nat) (s : State) : State := if s.sfState x = 0 then s else raiseSf x n s

/-! ### Energy windows (R412, R413, R426, R455) -/

/-- The present tick of 100 µs (R412). -/
def State.tick (s : State) : Nat := s.now / 100000

/-- Bucket length of window `w` in ticks, 0 where it is disabled (R409). -/
def windowLen (set : List Word) (w : Nat) : Nat :=
  let a := (nth 0 set 3).toNat
  if w = 0 then a % 65536 else if w = 1 then a / 65536 else (nth 0 set 4).toNat % 65536

/-- The limit of emitter `e`, or of the aggregate for 64, in window `w`, as written, and its unit in 1/16 pJ (R409, R413). -/
def limitWord (set : List Word) (w e : Nat) : Nat := (if e < 64 then nth 0 set (144 + 3 * e + w) else nth 0 set (5 + w)).toNat
def limitUnit (e : Nat) : Nat := if e < 64 then 4096 else 65536
def limitOff (set : List Word) (w e : Nat) : Bool := limitWord set w e = 0xFFFFFFFF

/-- The sum of a window at a tick: the current bucket and the 31 before it (R413); every sum is its limit while no budget state is known
(R426). -/
def SfChan.sum (c : SfChan) (set : List Word) (tick w e : Nat) : Nat :=
  let d := windowLen set w
  if d = 0 then 0
  else if c.atLimit then limitWord set w e * limitUnit e
  else ((look (fun _ => []) c.buckets (w * 65 + e)).filter (fun b => decide (tick / d < b.1 + 32))).foldl (fun n b => n + b.2) 0

/-- Some sum of emitters `es` lies above its limit (R413). -/
def SfChan.over (c : SfChan) (set : List Word) (tick : Nat) (es : List Nat) : Bool :=
  es.any (fun e => anyBelow (fun w => windowLen set w ≠ 0 && !limitOff set w e && decide (limitWord set w e * limitUnit e < c.sum set tick w e)) 3)

/-- Every sum stands at or below 7/8 of its limit (R408). -/
def SfChan.low (c : SfChan) (set : List Word) (tick : Nat) : Bool :=
  allBelow (fun e => allBelow (fun w => limitOff set w e || decide (c.sum set tick w e * 8 ≤ limitWord set w e * limitUnit e * 7)) 3) 65

/-- Add energy to the bucket of a number, newest first. -/
def addBucket (j v : Nat) : List (Nat × Nat) → List (Nat × Nat)
  | [] => [(j, v)]
  | (i, u) :: l => if i = j then (i, u + v) :: l else if i < j then (j, v) :: (i, u) :: l else (i, u) :: addBucket j v l

/-- The energy of a fire enters the buckets of its emitter and of the aggregate. -/
def SfChan.account (c : SfChan) (set : List Word) (e v tick : Nat) : SfChan :=
  { c with buckets := [0, 1, 2].foldl (fun m w =>
      let d := windowLen set w
      if d = 0 then m
      else [e, 64].foldl (fun m e => put (fun _ => []) m (w * 65 + e)
        ((addBucket (tick / d) v (look (fun _ => []) m (w * 65 + e))).take 32)) m) c.buckets }

/-- Every sum becomes one lump in the bucket of a tick (R455). -/
def SfChan.lump (c : SfChan) (set : List Word) (tick : Nat) (sum : Nat → Nat → Nat) : SfChan :=
  { c with atLimit := false, buckets := (List.range 3).foldl (fun m w => (List.range 65).foldl (fun m e =>
      put (fun _ => []) m (w * 65 + e) (if windowLen set w = 0 ∨ sum w e = 0 then [] else [(tick / windowLen set w, sum w e)])) m) c.buckets }

/-- The carried sums of a channel become lumps at tick `k`. -/
def lumpSf (x k : Nat) (s : State) : State :=
  let c := s.sfc x
  let set := s.sf.set.getD []
  setSfc x (c.lump set k (fun w e => c.sum set k w e)) s

/-! ### Scan-stop (R416, R417) -/

/-- Scan-stop begins or ends with the first and last axis in it. -/
def updateStop (x : Nat) (s : State) : State :=
  let c := s.sfc x
  if c.stopped = 0 then
    if c.stopAt.isSome then setCause x 2 false (setSfc x { c with stopAt := none, stopSum := 0 } s) else s
  else if c.stopAt.isNone then
    let s1 := setSfc x { c with stopAt := some s.now, stopSum := 0 } s
    if s.sfWord 9 = 0 then raiseSf x 2 s1 else s1
  else s

/-- Set or clear an axis in scan-stop. -/
def stopAxis (x a : Nat) (on : Bool) (s : State) : State :=
  let c := s.sfc x
  if c.stopped.testBit a = on then s else updateStop x (setSfc x { c with stopped := c.stopped ^^^ 2 ^ a } s)

/-- Axis `a` must move while emission is permitted. -/
def State.scanReq (s : State) (a : Nat) : Bool := s.sf.set.isSome && (s.sfWord 8).testBit a

/-- The motion window of an axis is complete, and whether it shows motion. -/
def State.motionOf (s : State) (x a : Nat) : Option Bool :=
  match look (fun _ => []) (s.sfc x).motion a with
  | [] => none
  | v :: rest =>
    let n := s.sfWord 10 / 1024 % 1024
    let l := rest.take (n - 1)
    if rest.length + 1 < n then none
    else some (decide (((s.sfWord 11 % 2 ^ 24 : Nat) : Int) ≤ l.foldl max v - l.foldl min v))

/-- Motion of an axis is lost, or seen again: losing it sets motion_lost, whatever the scan fault (R416, R435). -/
def setLost (x a : Nat) (on : Bool) (s : State) : State :=
  let c := s.sfc x
  if c.lost.testBit a = on then s
  else flagIf on SF_FLAGS SF_FLAGS.motion_lost (setSfc x { c with lost := c.lost ^^^ 2 ^ a } s)

/-- A scan fault of a required axis trips the channels of a STANDBY unit, which sees no fires of its own to count (R454). -/
def State.haltsStandby (s : State) (x : Nat) : Bool :=
  s.pair = .standby && decide ((s.sfc x).stopped &&& (s.sfc x).scanFault ≠ 0)

/-- What the scan fault and the motion window of an axis say now. -/
def judgeAxis (x a : Nat) (s : State) : State :=
  if !s.scanReq a then stopAxis x a false (setLost x a false s)
  else
    let found := s.motionOf x a
    let s1 := match found with
      | some moves => setLost x a (!moves) s
      | none => s
    if (s1.sfc x).scanFault.testBit a || found = some false then
      let s2 := stopAxis x a true s1
      if s2.haltsStandby x then raiseSf x 2 s2 else s2
    else if found = some true then stopAxis x a false s1
    else s1

/-- A scan fault raised or cleared by SC arrives (R300, R416). -/
def execScanFault (channel : Fin 2) (s : State) : Out :=
  .next (let x := channel.val
    match (if x = 0 then s.sc.toA else s.sc.toB) with
    | [] => s
    | (a, raised) :: rest =>
      let s1 := { s with sc := if x = 0 then { s.sc with toA := rest } else { s.sc with toB := rest } }
      let c := s1.sfc x
      judgeAxis x a (if c.scanFault.testBit a = raised then s1 else setSfc x { c with scanFault := c.scanFault ^^^ 2 ^ a } s1))

/-- The control word of the request for an axis's bridge input: that of the bridge entry of the axis, the lowest entry of its converter
that names the input. -/
def State.bridgeCtl (s : State) (a : Nat) : Nat :=
  let k := 48 + a / 2
  match (adcSeq (s.adc k).pl k).find? (fun e => Ent.input (Ent.ctl e) = a % 2) with
  | some e => Ent.ctl e % 8192
  | none => a % 2

/-- The instant of a channel's last request for an axis, if any. -/
def State.askedAt (s : State) (x a : Nat) : Option Nat := ((s.sfc x).asked.find? (fun e => e.1 = a)).map Prod.snd

/-- A motion sample is due: every mot_per µs in A, and in B half a period after each request of A; without A by B's own time (R416). -/
def State.motionDue (s : State) (x a : Nat) : Bool :=
  let per := s.sfWord 10 % 1024 * 1000
  let own := (s.askedAt x a).all (fun t => decide (t + per ≤ s.now))
  if x = 0 ∨ !s.sfOn 0 then own
  else match s.askedAt 0 a with
    | some t => decide (t + per / 2 ≤ s.now) && (s.askedAt 1 a).all (fun u => decide (u < t + per / 2))
    | none => false

/-- A channel asks for a sample of a required axis when one is due (R416). -/
def execMotionSampleRequest (channel : Fin 2) (axis : Fin 8) (s : State) : Out :=
  .next (let x := channel.val
    let a := axis.val
    if s.sfOn x && s.scanReq a && s.motionDue x a then
      let c := s.sfc x
      sendReq (48 + a / 2) { src := .sf x, ctl := s.bridgeCtl a } (setSfc x { c with asked := put (fun _ => 0) c.asked a s.now } s)
    else s)

/-- Take the first motion sample addressed to channel `x` out of those on their way. -/
def takeMotion (x : Nat) : List (Nat × Nat × Word × Nat) → Option ((Nat × Word × Nat) × List (Nat × Nat × Word × Nat))
  | [] => none
  | m :: l => if m.1 = x then some (m.2, l) else (takeMotion x l).map (fun r => (r.1, m :: r.2))

/-- The excitation polarity of an axis at an instant, as SC reports it. -/
def State.polarityAt (s : State) (a t : Nat) : Int :=
  let x := s.axis a
  if (if x.revAt ≤ t then x.reversed else x.wasReversed) then -1 else 1

/-- A motion sample arrives: one that carries INVALID or OVER_RANGE counts as the sample before it (R416). -/
def execMotionSample (channel : Fin 2) (s : State) : Out :=
  .next (let x := channel.val
    match takeMotion x s.motionIn with
    | none => s
    | some ((a, w, t), rest) =>
      let s1 := { s with motionIn := rest }
      let c := s1.sfc x
      let old := look (fun _ => []) c.motion a
      let v := resValue w * s1.polarityAt a t
      let v := if w.getLsbD resInvalid || w.getLsbD resOver then (match old with | p :: _ => p | [] => v) else v
      judgeAxis x a (setSfc x { c with motion := put (fun _ => []) c.motion a ((v :: old).take (max 1 (s1.sfWord 10 / 1024 % 1024))) } s1))

/-! ### Fires (R412 to R417) -/

/-- A fire of emitter `e` with energy `v` at instant `ns` reaches channel `x`. -/
def sfFire (x e v ns : Nat) (compared : Bool) (s : State) : State :=
  let set := s.sf.set.getD []
  let tick := ns / 100000
  let s0 := if (s.sfc x).atLimit then lumpSf x s.tick s else s
  let c := (s0.sfc x).account set e v tick
  let key := tick * 64 + e
  let old := look (fun _ => (0, 0)) c.compared key
  let c := if compared then { c with compared := put (fun _ => (0, 0)) c.compared key (old.1 + 1, old.2 + v) } else c
  let late := c.stopAt.any (fun t => decide (t ≤ ns))
  let c := if late then { c with stopSum := c.stopSum + v } else c
  let s1 := setSfc x c s0
  let s2 := if late && decide (s1.sfWord 9 * 4096 < c.stopSum) then raiseSf x 2 s1 else s1
  if c.over set s2.tick [e, 64] then raiseSf x 1 s2 else s2

/-- A fire of an emitter outside emitter_en trips the channel that sees it (R414). -/
def sfKnown (x e : Nat) (s : State) : State :=
  if (s.sfWord (1 + e / 32)).testBit (e % 32) then s else raiseSf x 5 s

/-- Channel B takes the oldest record of the count tap. -/
def execFireReport (fb compared : Bool) (s : State) : Out :=
  .next (match s.tx.tapB with
    | [] => s
    | (e, w, ns) :: rest =>
      let s1 := { s with tx := { s.tx with tapB := rest } }
      if !s1.sfOn 1 || s1.sf.set.isNone then s1
      else
        let s2 := sfKnown 1 e s1
        if fb then sfFire 1 e (s2.sfWord (80 + e) % 65536 * (8 + w)) ns compared s2 else s2)

/-- Channel A takes the oldest charge code. -/
def execChargeReport (s : State) : Out :=
  .next (match s.tx.tapA with
    | [] => s
    | (e, q, ns, compared) :: rest =>
      let s1 := { s with tx := { s.tx with tapA := rest } }
      if !s1.sfOn 0 || s1.sf.set.isNone then s1
      else
        let s2 := sfKnown 0 e s1
        sfFire 0 e (s2.sfWord (16 + e) % 65536 * q) ns compared s2)

/-! ### Emergency stop and demands (R405, R418, R419) -/

/-- The ESTOP input of a channel changes. -/
def execEstopChange (channel : Fin 2) (asserted : Bool) (s : State) : Out :=
  .next (let x := channel.val
    let s1 := fset SF_STATUS (if x = 0 then SF_STATUS.estop_a else SF_STATUS.estop_b) (b2n asserted) s
    let s2 := judgeSf x (setCause x 0 asserted s1)
    let differ := decide (s2.fget SF_STATUS SF_STATUS.estop_a ≠ s2.fget SF_STATUS SF_STATUS.estop_b)
    { s2 with sf := { s2.sf with estopDiff := if differ then (s2.sf.estopDiff <|> some s2.now) else none } })

/-- The inputs have differed for longer than estop_disc. -/
def execEstopDiscrepancy (s : State) : Out :=
  .next (match s.sf.estopDiff with
    | some t => if s.sf.set.isSome && decide (t + s.sfWord 12 % 65536 * 1000000 < s.now) then faultSf 1 12 (faultSf 0 12 s) else s
    | none => s)

/-- The off-demand of CF, or its withdrawal, reaches a channel. -/
def execOffDemand (channel : Fin 2) (s : State) : Out :=
  .next (if s.sfOn channel then judgeSf channel (setCause channel 3 s.chipFault s) else s)

/-- The peer's cross-off line drives EMIT_EN low. -/
def execCrossOff (channel : Fin 2) (s : State) : Out :=
  .next (if s.sfOn channel && (s.sfc (1 - channel.val)).crossOff then raiseSf channel 4 s else s)

/-- Both channels go from PERMIT or HOT to READY without a trip (R408). -/
def sfStandDown (s : State) : State :=
  forUp (fun x t => if t.sfState x = 4 ∨ t.sfState x = 5 then enterSf x 3 t else t) 0 2 s

/-! ### Start of the self-test, and its end (R427, R564 to R567) -/

/-- The self-test runs: it asks for the conversions of each channel's own supply and of the internal inputs of converters 48 to 53
(R427). -/
def beginSelftest (s : State) : State :=
  let s1 := fsets SF_RESULT [(SF_RESULT.test, 3), (SF_RESULT.item, 0)] (enterSf 1 1 (enterSf 0 1 { s with supplyIn := [], testIn := [] }))
  forUp (fun i t => sendReq (48 + i) { src := .sf 0, ctl := 31 } (sendReq (48 + i) { src := .sf 0, ctl := 30 } t)) 0 6
    (sendReq 53 { src := .sf 1, ctl := 8 } (sendReq 53 { src := .sf 0, ctl := 7 } s1))

/-- Milliseconds from the start reference (R575). -/
def State.sinceStart (s : State) : Nat := min 0xFFFF ((s.startup.lockNs + s.now) / 1000000)

/-- Start-up ends with its self-test (R567). -/
def finishStartup (pass : Bool) (s : State) : State :=
  if s.fget MODE_STATUS MODE_STATUS.phase = 5 then
    (if s.fget STARTUP_TIME ⟨16, 16⟩ = 0xFFFF then fset STARTUP_TIME ⟨16, 16⟩ s.sinceStart else id)
      (fsets MODE_STATUS [(MODE_STATUS.phase, 6), (MODE_STATUS.startup_done, 1), (MODE_STATUS.selftest_pass, b2n pass)] s)
  else s

/-- A pass: READY, or TRIPPED while a condition blocks; the diagnostics and the peer's fault are lifted. -/
def passSf (x : Nat) (s : State) : State :=
  let c := s.sfc x
  let cause := c.cause &&& 0xEF
  enterSf x (if cause = 0 then 3 else 2) (showCause (setSfc x { c with cause := cause, before := none } s))

/-- What the self-test leaves of a channel that is still in it: a channel that has gone to FAULT meanwhile stays there. -/
def endSf (pass : Bool) (x : Nat) (s : State) : State :=
  if s.sfState x = 1 then (if pass then passSf x s else enterSf x 6 s) else s

/-- A result of a housekeeping supply input, through its divider, lies within 1.14 V to 1.26 V (R227, R427). -/
def supplyInside (w : Word) : Bool :=
  decide (1140000 * 2 ^ 23 ≤ resValue w * 2500000 ∧ resValue w * 2500000 ≤ 1260000 * 2 ^ 23)

/-- Item `i` of R427 fails: memories and program image, cross link, cross-off lines and cycle timing as the channels report it; EMIT_EN or
EMIT_FB high; an own supply, or an internal input of a converter, outside its bounds or without a valid result. -/
def State.selftestFails (s : State) (reported i : Nat) : Bool :=
  match i with
  | 4 => (s.sfc 0).en || (s.sfc 1).en || s.rbit SF_STATUS SF_STATUS.fb_a.lo || s.rbit SF_STATUS SF_STATUS.fb_b.lo
  | 6 => !allBelow (fun x => s.supplyIn.any (fun p => p.1 = x && supplyInside p.2 && !p.2.getLsbD resInvalid)) 2
  | 7 => !allBelow (fun j => !adcPresent s.cut.live (48 + j) || allBelow (fun f => s.testIn.any (fun p =>
      p.1 = 48 + j && p.2.1 = 30 + f && !p.2.2.getLsbD resInvalid && !checkFails (48 + j) (f = 1) (resValue p.2.2))) 2) 6
  | _ => reported = i

/-- The failed item, the first in the order of R427; 0 where all pass. -/
def State.selftestItem (s : State) (reported : Nat) : Nat := ([1, 2, 3, 4, 5, 6, 7].find? (s.selftestFails reported)).getD 0

/-- The self-test ends: a pass, or a failure that names the first failed item (R427, R436). -/
def execSelftestDone (item : BitVec 6) (s : State) : Out :=
  .next (if s.fget SF_RESULT SF_RESULT.test = 3 ∨ (s.sfState 0 = 1 ∧ s.sfState 1 = 1) then
      let n := s.selftestItem item.toNat
      let pass := decide (n = 0)
      finishStartup pass (fsets SF_RESULT [(SF_RESULT.test, if pass then 1 else 2), (SF_RESULT.item, n)] (endSf pass 1 (endSf pass 0 s)))
    else s)

/-- Start-up's self-test begins when converters 48 to 53 have been released or have faulted. -/
def startSelftest (s : State) : State :=
  if s.fget MODE_STATUS MODE_STATUS.phase = 4 && (List.range 6).all (fun i => (s.adc (48 + i)).released || s.adcFault (48 + i) || !adcPresent s.cut.live (48 + i)) then
    beginSelftest (fset MODE_STATUS MODE_STATUS.phase 5 s)
  else s

/-! ### The cycle (R405, R408, R423, R424) -/

/-- A cycle outside 19 µs to 21 µs is a cycle fault. -/
def cycleTime (x : Nat) (s : State) : State :=
  let c := s.sfc x
  let s1 := setSfc x { c with cycleAt := some s.now } s
  match c.cycleAt with
  | some t => if s.now < t + 19000 ∨ t + 21000 < s.now then faultSf x 10 s1 else s1
  | none => s1

/-- Each EMIT_FB equals its EMIT_EN as driven for the past 2 µs, outside pulses; two cycles running are a readback fault. A standby or
withdrawn unit does not check (R455). -/
def readback (x : Nat) (fbA fbB : Bool) (s : State) : State :=
  let differs := fun (y : Nat) (fb : Bool) =>
    let p := s.sfc y
    p.pulse.isNone && decide (p.enAt + 2000 ≤ s.now) && (p.en != fb)
  if s.sfState x = 0 ∨ s.pair = .standby ∨ s.pair = .withdrawn then s
  else
    let n := if differs 0 fbA || differs 1 fbB then (s.sfc x).fbBad + 1 else 0
    let s1 := setSfc x { s.sfc x with fbBad := n } s
    if 2 ≤ n then faultSf x 8 s1 else s1

/-- Whether the peer holds this channel: it is lifted once the peer is in READY, or in TRIPPED with no condition but peer_trip. -/
def peerTrip (x : Nat) (s : State) : State :=
  let p := s.sfc (1 - x)
  let st := s.sfState (1 - x)
  if st = 3 ∨ (st = 2 ∧ p.cause ||| 16 = 16) then setCause x 4 false s
  else if st = 2 ∨ st = 6 ∨ p.crossOff then setCause x 4 true s
  else s

/-- Conditions that end by themselves: sums at or below 7/8 of their limits, and budget_stale outside STANDBY. -/
def easeSf (x : Nat) (s : State) : State :=
  let s1 := if s.sfHas x 7 && s.pair ≠ .standby then lumpSf x s.tick (setCause x 7 false s) else s
  if s1.sfHas x 1 && (s1.sfc x).low (s1.sf.set.getD []) s1.tick then setCause x 1 false s1 else s1

/-- The pair state in which a verdict may move a channel to a state: PERMIT in SOLO and ACTIVE, HOT in STANDBY (R425, R426). -/
def State.moveAllowed (s : State) (st : Nat) : Bool := if st = 4 then s.pair = .solo || s.pair = .active else s.pair = .standby

/-- The move of a verdict, at the first cycle start after its instant (R425). A change of the pair state that bars it ends it (R426). -/
def verdictMove (x : Nat) (s : State) : State :=
  match (s.sfc x).move with
  | some (t, st) =>
    let s1 := setSfc x { s.sfc x with move := none } s
    if !s.moveAllowed st then s1 else if t < s.now ∧ s.sfState x = 3 then enterSf x st s1 else s
  | none => s

/-- A sum above its limit, a scan-stop sum above stop_energy, and in STANDBY a scan fault, are causes at every cycle (R405, R413, R417,
R454). -/
def judgeSums (x : Nat) (s : State) : State :=
  let c := s.sfc x
  let s1 := if c.over (s.sf.set.getD []) s.tick (List.range 65) then setCause x 1 true s else s
  if (c.stopAt.isSome && decide (s.sfWord 9 * 4096 < c.stopSum)) || s.haltsStandby x then setCause x 2 true s1 else s1

/-- One cycle of a channel. -/
def execSafetyCycle (channel : Fin 2) (fbA fbB rst : Bool) (s : State) : Out :=
  .next (let x := channel.val
    if !s.sfOn x then s
    else
      let s1 := startSelftest s
      let s2 := fsets SF_STATUS [(SF_STATUS.fb_a, b2n fbA), (SF_STATUS.fb_b, b2n fbB), (SF_STATUS.rst_level, b2n rst)] s1
      let s3 := judgeSf x (peerTrip x (judgeSums x (easeSf x (readback x fbA fbB (cycleTime x s2)))))
      let s4 := if s3.sfState x = 2 ∧ (s3.sfc x).cause = 0 then enterSf x 3 s3 else s3
      verdictMove x s4)

/-! ### Output tests and supplies (R422, R423, R427) -/

/-- The grid instant of a channel's pulses at or before now (R422). -/
def State.pulseGrid (s : State) (x : Nat) : Nat := (s.now + 5000000 * x) / 10000000 * 10000000 - 5000000 * x

/-- The off-pulse of a channel in PERMIT. -/
def execTestPulseStart (channel : Fin 2) (s : State) : Out :=
  .next (let x := channel.val
    let g := s.pulseGrid x
    let c := s.sfc x
    if s.sfOn x && s.sfState x = 4 && c.en && c.pulse.isNone && c.pulseAt ≠ some g && decide (s.now ≤ g + 21000)
        && (s.pair = .solo || s.pair = .active) then
      setSfc x { c with en := false, enAt := s.now, pulse := some s.now, pulseLow := false, pulseAt := some g } s
    else s)

/-- Both channels sample EMIT_FB of the pulsing channel: low at P + 200 ns, high at P + 2.25 µs. A pulse that a trip, fault or demand cut
short is not evaluated. -/
def execTestPulseSample (channel : Fin 2) (seenA seenB : Bool) (s : State) : Out :=
  .next (let x := channel.val
    let c := s.sfc x
    match c.pulse with
    | none => s
    | some p =>
      if !c.pulseLow then
        if s.now < p + 200 then s
        else
          let s1 := setSfc x { c with pulseLow := true } s
          let s2 := if seenA then faultSf 0 8 s1 else s1
          if seenB then faultSf 1 8 s2 else s2
      else if s.now < p + 2250 then s
      else
        let s1 := setSfc x { c with pulse := none } s
        let s2 := if seenA then s1 else faultSf 0 8 s1
        if seenB then s2 else faultSf 1 8 s2)

/-- P + 250 ns: EMIT_EN is driven high again. -/
def execTestPulseEnd (channel : Fin 2) (s : State) : Out :=
  .next (let x := channel.val
    let c := s.sfc x
    match c.pulse with
    | some p => if p + 250 ≤ s.now ∧ s.sfState x = 4 ∧ ¬c.en then setSfc x { c with en := true, enAt := s.now } s else s
    | none => s)

/-- Every 10 ms outside the self-test a channel converts its own supply, by a request to converter 53 (R243); the answer decides. -/
def execSafetySupplyCheck (channel : Fin 2) (judge : Bool) (s : State) : Out :=
  .next (let x := channel.val
    let c := s.sfc x
    if judge then
      if s.sfState x = 1 then s else match s.supplyIn.find? (fun p => p.1 = x) with
      | some p =>
        let s1 := { s with supplyIn := s.supplyIn.filter (fun p => p.1 ≠ x) }
        if s.sfOn x && !supplyInside p.2 then faultSf x 11 s1 else s1
      | none => s
    else if s.sfOn x && s.sfState x ≠ 1 && (c.supplyAt = 0 || decide (c.supplyAt + 10000000 ≤ s.now)) then
      sendReq 53 { src := .sf x, ctl := 7 + x } (setSfc x { c with supplyAt := s.now } s)
    else s)

/-! ### The safety set (R409 to R411, R429, R430) -/

/-- The rules of R410 on a set's content, under the plane it is to run with. DEDUCED (log entry 127): the emitter whose range must match
is one in emitter_en, as in the rule's item before it. -/
def setOk (pl : Option Plane) (set : List Word) : Bool :=
  let w := fun i => (nth 0 set i).toNat
  w 0 = 1 && w 4 < 65536 && w 10 < 2 ^ 20 && w 11 < 2 ^ 24 && w 12 < 65536 && w 13 = 0 && w 14 = 0 && w 15 = 0
    && allBelow (fun e => w (16 + e) < 2 ^ 18 && w (80 + e) < 65536) 64
    && decide (10 ≤ w 10 % 1024 ∧ w 10 % 1024 ≤ 1000 ∧ 4 ≤ w 10 / 1024 ∧ 1 ≤ w 12 ∧ w 12 ≤ 10000)
    && allBelow (fun e => !(w (1 + e / 32)).testBit (e % 32) || (w (16 + e) % 65536 ≠ 0 && w (80 + e) ≠ 0
        && w (16 + e) / 65536 = cutF pl (TX_BLK_MON_CFG (e / 16)) TX_BLK_MON_CFG.mon_range)) 64
    && anyBelow (fun i => windowLen set i ≠ 0) 3

/-- The requester code of a change log entry; the manual gives none for the management processor. -/
def logRequester (q : Nat) (s : State) : Nat × State :=
  if q = 0 then (1, s) else if q = 1 then (s.free.toNat % 16, drawFree s) else (2, s)

/-- A change log entry is written, for a change at an instant (R430). -/
def logSf (kind requester time : Nat) (after before : Word) (s : State) : State :=
  let e : SfLog := { kind := kind, requester := requester, seq := s.sf.logSeq, time := time, hours := s.mgmt.chip.hours,
                     epoch := s.reg LIVE_EPOCH, after := after, before := before }
  let next := s.sf.logSeq + 1
  let s1 := setReg SF_LOG_HEAD next { s with sf := { s.sf with log := pushRing 256 s.sf.log e, logSeq := next } }
  flag SF_FLAGS SF_FLAGS.log_written (if next = 0 then wrapRecord 0 3 0 s1 else s1)

/-- The words of an entry. -/
def SfLog.words (e : SfLog) : List Word :=
  [w32 (e.kind + e.requester * 256), e.seq, w32 e.time, w32 (e.time / 2 ^ 32), e.hours, e.epoch, e.after, e.before]

/-- A channel under a new set: a window whose bucket length changes holds sums that the manual does not state, requests for motion samples
begin anew where the set changes them, every axis is judged for scan-stop under it, and sums above its limits trip at once (R429). -/
def resetSf (old new : List Word) (x : Nat) (s : State) : State :=
  let keys := (s.sfc x).buckets.map Prod.fst
  let s1 := keys.foldl (fun t k =>
    let d := windowLen new (k / 65)
    if windowLen old (k / 65) = d then t
    else
      let v := t.free.toNat
      let t1 := drawFree t
      let v := v + t1.free.toNat * 2 ^ 32
      let c := t1.sfc x
      setSfc x { c with buckets := put (fun _ => []) c.buckets k (if d = 0 then [] else [(t1.tick / d, v)]) } (drawFree t1)) s
  let again := nth 0 old 8 % 256#32 ≠ nth 0 new 8 % 256#32 || nth 0 old 10 % 1024#32 ≠ nth 0 new 10 % 1024#32
  let s2 := if again then setSfc x { s1.sfc x with asked := [] } s1 else s1
  judgeSf x (judgeSums x (setCause x 6 s.sf.set.isNone (forUp (judgeAxis x) 0 8 s2)))

/-- A set comes into force at a C_k, or none is (R411, R429, R430): kind and requester of its log entry, which a set with another digest than
the one before writes. -/
def putSet (set : Option (List Word)) (kind requester stamp : Nat) (s : State) : State :=
  let before := s.reg SF_SET_DIGEST
  let old := s.sf.set.getD []
  let after := match set with | some ws => nth 0 (sha256 ws) 0 | none => 0
  let s1 := setReg SF_SET_DIGEST after { s with sf := { s.sf with set := set } }
  let s2 := if set.isSome && set.map sha256 ≠ s.sf.set.map sha256 then logSf kind requester stamp after before s1 else s1
  resetSf old (set.getD []) 1 (resetSf old (set.getD []) 0 s2)

/-- The safety set that a plane carries (R58, R61). -/
def planeSet (pl : Option Plane) : Option (List Word) :=
  match pl with
  | some p => frameWords p 0x02FFFF00 7
  | none => none

/-- A commit that a swap overtakes is dropped (R429). -/
def dropCommit (s : State) : State :=
  if s.sf.commit.isSome then flag SF_FLAGS SF_FLAGS.commit_dropped { s with sf := { s.sf with commit := none } } else s

/-- SF takes the plane of the swap in progress at a C_k; the set of the Cut wins over a commit due there (R29, R411, R429). In SERVICE the
last set from a Cut stands, and no commit comes into force. -/
def applySf (stamp : Nat) (s : State) : State :=
  let s1 := markApplied tgtSf stamp s
  if s1.cut.romLive then
    let s2 := dropCommit s1
    if s2.sf.set = s2.sf.stored then s2 else putSet s2.sf.stored 1 0 stamp s2
  else if s1.cut.swapKeys.contains (0x02FFFF00, 7) || s1.sf.set.isNone then
    match planeSet s1.cut.live with
    | none => s1
    | some ws =>
      let s2 := if s1.sf.commit.any (fun c => decide (c.1 * 100000 ≤ stamp)) then dropCommit s1 else s1
      putSet (some ws) 1 0 stamp { s2 with sf := { s2.sf with stored := some ws } }
  else s1

/-- A commit falls due at a C_k. -/
def commitDue (k : Nat) (s : State) : State :=
  match s.sf.commit with
  | some (d, ws, q) =>
    if d ≤ k then
      let (code, s1) := logRequester q { s with sf := { s.sf with commit := none } }
      putSet (some ws) 2 code (k * 100000) s1
    else s
  | none => s

/-! ### Cross-comparison and restart (R420, R425, R426) -/

/-- No budget state for 300 µs: every sum of a channel stands at its limit, with budget_stale, and HOT gives way to READY (R426). -/
def staleSf (x : Nat) (s : State) : State :=
  let s1 := setCause x 7 true (setSfc x { s.sfc x with atLimit := true } s)
  if s1.sfState x = 5 then enterSf x 3 s1 else s1

/-- At the first C_k after its unit became ACTIVE a HOT channel with fresh sums enters PERMIT, carrying them on; without them it falls to
READY with the sums at their limits (R426, R437, R455, R459). -/
def promoteSf (k x : Nat) (s : State) : State :=
  if s.pair = .active && s.sfState x = 5 && s.pairSt.handover.any (fun h => decide (h ≤ k * 100000)) then
    if s.pairSt.budgetAt.any (fun t => decide (k * 100000 ≤ t + 300000)) then enterSf x 4 s else staleSf x s
  else s

/-- Where a SAFE_RST edge judged now would lead. -/
def State.rstTarget (s : State) : Nat :=
  if s.mode = .configured ∨ s.mode = .service then
    (match s.pair with | .solo | .active => 4 | .standby => 5 | .withdrawn => 0)
  else 0

/-- At C_k both channels close tick k − 1, and changes fall due. -/
def execTickClose (s : State) : Out :=
  .next (let k := s.tick
    if !s.time.running || s.sf.tick = some k || !(s.domGood 67 || s.domGood 68) then s
    else
      let s1 := { s with sf := { s.sf with tick := some k, rstEdge := s.sf.rstEdge.filter (fun j => decide (k ≤ j)) } }
      let s2 := if s1.cut.waiting.contains tgtSf && decide (s1.cut.swapI ≤ k * 100000) then applySf (k * 100000) s1 else s1
      let s3 := commitDue k s2
      let s4 := promoteSf k 1 (promoteSf k 0 s3)
      let s5 := { s4 with sf := { s4.sf with rstTo := if s4.sf.rstEdge = some k then s4.rstTarget else 0 } }
      forUp (fun x t =>
        let c := t.sfc x
        let keep := fun e : Nat × (Nat × Nat) => decide (k ≤ e.1 / 64 + 33)
        setSfc x { c with stateK := t.sfState x, compared := c.compared.filter keep, heard := c.heard.filter keep } t) 0 2 s5)

/-- C_k + 5 µs: the message to the peer. -/
def execXcSend (channel : Fin 2) (s : State) : Out :=
  .next (let x := channel.val
    let c := s.sfc x
    match s.sf.tick with
    | none => s
    | some k =>
      if !s.sfOn x || k = 0 || c.sentK = some k || s.now < k * 100000 + 5000 then s
      else
        let set := s.sf.set.getD []
        let m : XcMsg := { tick := k - 1, state := c.stateK, cause := c.cause, digest := s.reg SF_SET_DIGEST,
                           fires := (c.compared.filter (fun e => e.1 / 64 = k - 1)).map (fun e => (e.1 % 64, e.2.1, e.2.2)),
                           sums := (List.range 195).foldl (fun m i => put (fun _ => 0) m i (c.sum set (k - 1) (i / 65) (i % 65))) [] }
        setSfc x { c with out := some m, sentK := some k } s)

/-- The peer's message arrives. -/
def execXcMessage (channel : Fin 2) (s : State) : Out :=
  .next (let x := channel.val
    let p := s.sfc (1 - x)
    match p.out with
    | none => s
    | some m =>
      let s1 := setSfc (1 - x) { p with out := none } s
      let c := s1.sfc x
      if !s.sfOn x then s1
      else setSfc x { c with peer := some m, heard := m.fires.foldl (fun h f => put (fun _ => (0, 0)) h (m.tick * 64 + f.1) f.2) c.heard } s1)

/-- Energy of an emitter's compared fires over the 32 ticks up to `tick`. -/
def recent (tick e : Nat) (l : Sparse (Nat × Nat)) : Nat :=
  (l.filter (fun f => f.1 % 64 = e ∧ f.1 / 64 ≤ tick ∧ tick < f.1 / 64 + 32)).foldl (fun n f => n + f.2.2) 0

/-- The energies of an emitter differ by more than the tolerance (R420). -/
def State.energyDiffers (s : State) (c : SfChan) (tick e : Nat) : Bool :=
  let a := recent tick e c.compared
  let b := recent tick e c.heard
  decide (s.sfWord 8 / 256 % 256 * max a b / 256 + 256 * (s.sfWord 8 / 65536) < max a b - min a b)

/-- Some test of R420 other than the first fails. -/
def State.xcFails (s : State) (c : SfChan) (m : XcMsg) (bad : Sparse Nat) : Bool :=
  let count := fun l : Sparse (Nat × Nat) => (List.range 64).map (fun e => (look (fun _ => (0, 0)) l (m.tick * 64 + e)).1)
  let states := match c.before with
    | some (own, peer) => c.stateK ≠ m.state && own ≠ peer && c.stateK ≠ peer && m.state ≠ own
    | none => false
  m.digest ≠ s.reg SF_SET_DIGEST || states || count c.compared ≠ count c.heard || bad.any (fun e => decide (3 ≤ e.2))

/-- The verdict on a SAFE_RST edge: a valid edge lifts unknown_emitter, and moves READY channels (R408, R425). -/
def judgeEdge (x k : Nat) (peerReady : Bool) (s : State) : State :=
  if s.sf.rstEdge = some k then
    let s1 := setCause x 5 false s
    if s1.sf.rstTo ≠ 0 ∧ (s1.sfc x).stateK = 3 ∧ peerReady then
      setSfc x { s1.sfc x with move := some (k * 100000 + 40000, s1.sf.rstTo) } s1
    else flag SF_FLAGS SF_FLAGS.rst_ignored s1
  else s

/-- C_k + 40 µs: the tests of R420, and the verdict on an edge. In INIT nothing is tested, and an edge is ignored (R425). -/
def execXcDecide (channel : Fin 2) (s : State) : Out :=
  .next (let x := channel.val
    let c := s.sfc x
    match s.sf.tick with
    | none => s
    | some k =>
      if !s.sfOn x || k = 0 || c.decidedK = some k || s.now < k * 100000 + 40000 then s
      else if s.sfState x = 0 then judgeEdge x k false (setSfc x { c with decidedK := some k, before := none } s)
      else
        match c.peer.filter (fun m => decide (m.tick + 1 = k)) with
        | none => judgeEdge x k false (faultSf x 10 (setSfc x { c with decidedK := some k, before := none } s))
        | some m =>
          let bad := (List.range 64).foldl (fun l e => put (fun _ => 0) l e
            (if s.energyDiffers c m.tick e then look (fun _ => 0) c.energyBad e + 1 else 0)) []
          let s1 := setSfc x { c with decidedK := some k, before := some (c.stateK, m.state), energyBad := bad } s
          judgeEdge x k (m.state = 3) (if s.xcFails c m bad then faultSf x 9 s1 else s1))

/-- A valid SAFE_RST edge waits for the next C_k (R425). -/
def execSafeRstEdge (s : State) : Out :=
  .next (if s.sf.rstStuck || !s.time.running || !(s.domGood 67 || s.domGood 68) then s
    else { s with sf := { s.sf with rstEdge := (s.sf.rstEdge <|> some ((s.now + 99999) / 100000)) } })

/-- SAFE_RST is stuck high, or has been low for 100 ms again. -/
def execSafeRstStuck (stuck : Bool) (s : State) : Out :=
  .next (if !s.time.running || !(s.domGood 67 || s.domGood 68) then s
    else
      let s1 := { s with sf := { s.sf with rstStuck := stuck } }
      flagIf stuck SF_FLAGS SF_FLAGS.rst_stuck s1)

/-- A standby without a budget state for 300 µs: sums at their limits, budget_stale, and HOT gives way to READY (R426). -/
def execBudgetStale (s : State) : Out :=
  .next (if s.pair = .standby && s.pairSt.budgetAt.all (fun t => decide (t + 300000 ≤ s.now)) then
      forUp (fun x t => if t.sfOn x then staleSf x t else t) 0 2 s
    else s)

/-! ### Commands (R427 to R429, R433) -/

/-- A command is refused with a code, or taken (R436). -/
def sfRefuse (code : Nat) (s : State) : State :=
  flag SF_FLAGS SF_FLAGS.cmd_refused (fset SF_RESULT SF_RESULT.refusal code s)
def sfAccept (s : State) : State := fset SF_RESULT SF_RESULT.refusal 0 s

/-- The password session is unlocked (R428). -/
def State.unlocked (s : State) : Bool := s.sf.unlockedUntil.any (fun t => decide (s.now < t))

/-- A physical-presence window is open (R529). -/
def State.presence (s : State) : Bool := s.fget FW_STATUS FW_STATUS.presence = 1

/-- A PWD write extends an unlocked session to 60 s from now (R428). -/
def pwdWritten (s : State) : State :=
  { s with sf := { s.sf with pwdAt := s.now, unlockedUntil := if s.unlocked then some (s.now + 60000000000) else s.sf.unlockedUntil } }

/-- A write of `SF_PWD_i`. -/
def pwdWrite (i : Nat) (w : Word) (s : State) : State :=
  pwdWritten { s with sf := { s.sf with pwdWords := put (fun _ => 0) s.sf.pwdWords i w } }

/-- The password that has been written. -/
def State.pwdBytes (s : State) : List Byte :=
  (List.range (s.reg SF_PWD_LEN).toNat).map (fun i => BitVec.ofNat 8 ((look (fun _ => 0) s.sf.pwdWords (i / 4)).toNat / 256 ^ (i % 4)))

/-- UNLOCK. -/
def sfUnlock (q : Nat) (s : State) : State :=
  if s.sf.lockedUntil.isSome then sfRefuse 8 s
  else if s.sf.pwdA = some s.pwdBytes ∧ s.sf.pwdB = some s.pwdBytes then
    sfAccept { s with sf := { s.sf with failures := 0, unlockedUntil := some (s.sf.pwdAt + 60000000000) } }
  else
    let n := s.sf.failures + 1
    let s1 := sfRefuse 9 { s with sf := { s.sf with failures := n } }
    if n < 5 then s1
    else
      let (code, s2) := logRequester q { s1 with sf := { s1.sf with lockedUntil := some (s1.now + 600000000000) } }
      logSf 4 code s2.now (s2.reg SF_SET_DIGEST) (s2.reg SF_SET_DIGEST) (flag SF_FLAGS SF_FLAGS.lockout s2)

/-- LOCK. -/
def sfLock (s : State) : State := sfAccept { s with sf := { s.sf with unlockedUntil := none } }

/-- A password has 8 to 16 bytes from 0x21 to 0x7E. -/
def pwdOk (bs : List Byte) : Bool :=
  decide (8 ≤ bs.length ∧ bs.length ≤ 16) && bs.all (fun b => decide (0x21 ≤ b.toNat ∧ b.toNat ≤ 0x7E))

/-- SET_PWD. -/
def sfSetPwd (q : Nat) (s : State) : State :=
  if !s.unlocked && s.sf.pwdA.isSome then sfRefuse 4 s
  else if !s.presence then sfRefuse 5 s
  else if !pwdOk s.pwdBytes then sfRefuse 9 s
  else
    let (code, s1) := logRequester q (sfAccept { s with sf := { s.sf with pwdA := some s.pwdBytes, pwdB := some s.pwdBytes } })
    logSf 3 code s1.now (s1.reg SF_SET_DIGEST) (s1.reg SF_SET_DIGEST) s1

/-- STAGE_LOAD. -/
def sfStageLoad (s : State) : State := sfAccept { s with sf := { s.sf with staging := s.sf.set.getD s.sf.staging } }

/-- The staging copy, 336 words. -/
def State.stagingWords (s : State) : List Word := (List.range 336).map (nth 0 s.sf.staging)

/-- A write of `SF_PARAM_DATA`. -/
def sfParamWrite (w : Word) (s : State) : State :=
  pwdWritten { s with sf := { s.sf with staging := setNth s.stagingWords (s.reg SF_PARAM_IDX).toNat w } }

/-- The write is accepted: unlocked session and open window (R12). -/
def State.pwdPrs (s : State) : Bool := s.unlocked && s.presence

/-- COMMIT. -/
def sfCommit (q : Nat) (s : State) : State :=
  if !s.unlocked || s.sf.pwdA.isNone then sfRefuse 4 s
  else if !s.presence then sfRefuse 5 s
  else if s.mode ≠ .configured then sfRefuse 6 s
  else if !setOk s.cut.live s.stagingWords then sfRefuse 7 s
  else sfAccept { s with sf := { s.sf with commit := some ((s.now + 10000 + 99999) / 100000, s.stagingWords, q) } }

/-- SELFTEST. -/
def sfSelftest (s : State) : State :=
  match s.mode with
  | .configured => beginSelftest (sfAccept s)
  | .service => if s.sfState 0 = 4 ∨ s.sfState 1 = 4 then sfRefuse 3 s else beginSelftest (sfAccept s)
  | .run => sfRefuse 1 s
  | .armed => sfRefuse 2 s
  | _ => sfRefuse 6 s

/-- DISARM. -/
def sfDisarm (s : State) : State := sfStandDown (sfAccept s)

/-- A write of `SF_CMD`. -/
def sfCommand (q command : Nat) (s : State) : State :=
  match command with
  | 1 => sfUnlock q s
  | 2 => sfLock s
  | 3 => sfSetPwd q s
  | 4 => sfStageLoad s
  | 5 => sfCommit q s
  | 6 => sfSelftest s
  | 7 => sfDisarm s
  | _ => sfRefuse 10 s

def execUnlock (q : Requester) (s : State) : Out := .next (hostWrite q SF_CMD (sfUnlock q) s)
def execLock (q : Requester) (s : State) : Out := .next (hostWrite q SF_CMD sfLock s)
def execSetPwd (q : Requester) (s : State) : Out := .next (hostWrite q SF_CMD (sfSetPwd q) s)
def execStageLoad (q : Requester) (s : State) : Out := .next (hostWrite q SF_CMD sfStageLoad s)
def execSfParamDataWrite (q : Requester) (data : Word) (s : State) : Out :=
  .next (hostWriteIf s.pwdPrs q SF_PARAM_DATA (sfParamWrite data) s)
def execSafetyCommit (q : Requester) (s : State) : Out := .next (hostWrite q SF_CMD (sfCommit q) s)
def execSelftest (q : Requester) (s : State) : Out := .next (hostWrite q SF_CMD sfSelftest s)
def execDisarm (q : Requester) (s : State) : Out := .next (hostWrite q SF_CMD sfDisarm s)

/-- A value of `SF_CMD` that names no command. -/
def execSfBadCommand (q : Requester) (command : BitVec 4) (s : State) : Out :=
  .next (if 1 ≤ command.toNat ∧ command.toNat ≤ 7 then s else hostWrite q SF_CMD (sfRefuse 10) s)

/-- The session ends 60 s after the last PWD write. -/
def execSessionExpiry (s : State) : Out :=
  .next (if s.sf.unlockedUntil.any (fun t => decide (t ≤ s.now)) then { s with sf := { s.sf with unlockedUntil := none } } else s)

/-- The lockout ends after 600 s. -/
def execLockoutExpiry (s : State) : Out :=
  .next (if s.sf.lockedUntil.any (fun t => decide (t ≤ s.now)) then { s with sf := { s.sf with lockedUntil := none, failures := 0 } } else s)

/-- A sum as `SF_ENERGY_IDX` selects it. -/
def State.sfEnergy (s : State) : Nat :=
  let i := s.reg SF_ENERGY_IDX
  let w := getF SF_ENERGY_IDX.window i
  if 3 ≤ w then 0
  else (s.sfc (getF SF_ENERGY_IDX.channel_b i)).sum (s.sf.set.getD []) s.tick w (if getF SF_ENERGY_IDX.aggregate i = 1 then 64 else getF SF_ENERGY_IDX.emitter i)

end Sys2Proof.Machine
end

