-- ==== Sys2Proof/Machine/Links.lean ====
section
/-!
DEFINITION. The lanes (chapter 12): training, retraining, loopback, reception and transmission of packets, credit, the contents that
STAT sends of itself, and a swap of the routes.
-/
namespace Sys2Proof.Machine

/-! ### A lane leaves UP (R394) -/

/-- A CAPT or STAT packet moves to lane `j`. A STAT packet that waits there too, as that lane's own copy, is not queued twice, and one that
is older than the one waiting there is stale. -/
def moveTo (j : Nat) (p : Packet) (s : State) : State :=
  match (s.lane j).queue.find? (fun q => p.stream = 3 ∧ q.stream = 3 ∧ q.kind = p.kind ∧ q.source = p.source) with
  | some q => if q = p then s else if p.opened < q.opened then dropPacket p 5 s else queueOn j p s
  | none => queueOn j p s

/-- A CAPT packet that cannot leave takes the rest of its segment with it, whose transmission ends; the next segment is handed on
(R394, R403). -/
def abandonSegment (cause : Nat) (p : Packet) (s : State) : State :=
  let rest := s.aq.sending.filter (fun c => c.seg = p.seg)
  let s1 := (p :: rest).foldl (fun t c => dropPacket c cause t) { s with aq := { s.aq with sending := s.aq.sending.filter (fun c => c.seg ≠ p.seg) } }
  handCapt s1.aq.sending.length s1

/-- A packet that cannot leave is dropped, one of CAPT with the rest of its segment. -/
def giveUpPacket (cause : Nat) (p : Packet) (s : State) : State := if p.stream = 2 then abandonSegment cause p s else dropPacket p cause s

/-- A queued packet of a lane that has left UP: POINT, HIST, MGMT and PAIR copies are dropped, CAPT and STAT move to the next UP lane
of the rotation. -/
def displace (l : Nat) (p : Packet) (s : State) : State :=
  if p.kind = 15 then s
  else if p.stream = 2 ∨ p.stream = 3 then
    match laneMask s.cut.live p.stream 0 with
    | none => giveUpPacket 3 p s
    | some mask =>
      match nextLane (l + 1) (s.upOf mask) with
      | none => giveUpPacket 4 p s
      | some j => moveTo j p s
  else dropPacket p 2 s

/-- The units an unfinished drop marker reported go back to the accumulator: a marker is never dropped itself (R395). -/
def restoreMarker (p : Packet) (s : State) : State :=
  match p.payload with
  | [m0, m1, m2, m3, m4] =>
    let a := s.dropAcc p.stream p.source
    setDropAcc p.stream p.source
      { causes := a.causes ||| m0.toNat % 64, units := satAdd 0xFFFFFFFF a.units m1.toNat, firstFrame := m2.toNat,
        frame := if a.units = 0 then p.frame else a.frame, epoch := if a.units = 0 then p.epoch else a.epoch,
        frag := if a.units = 0 then p.frag else a.frag, firstPix := m3.toNat, lastPix := if a.units = 0 then m4.toNat else a.lastPix } s
  | _ => s

/-- Lane `l` leaves UP: its packet in flight is dropped with LANE_DOWN, and its queue is emptied (R394). -/
def flushLane (l : Nat) (s : State) : State :=
  let x := s.lane l
  let s1 := setLane l { x with queue := [], flight := none } s
  let s2 := match x.flight with
    | some p => if s.now < x.flightEnd then (if p.kind = 15 then restoreMarker p s1 else dropPacket p 2 s1) else s1
    | none => s1
  x.queue.foldl (fun t p => displace l p t) s2

/-- A lane goes from any state to another; leaving UP flushes it. -/
def moveLane (l st : Nat) (s : State) : State :=
  if s.laneUp l && st ≠ 6 then flushLane l (setLaneState l st s) else setLaneState l st s

/-! ### Lane records -/

/-- The lane is enabled under the plane in force in its block (R397). -/
def State.laneEnabled (s : State) (l : Nat) : Bool := cellOn (s.planeOf (tgtLk (l / 8))) 5 (l / 8) (l % 8)

/-- Fields of `LK_LANE_CFG` and `LK_LANE_PRE` in force. -/
def State.laneCfg (s : State) (l : Nat) (f : Fld) : Nat := cutF (s.planeOf (tgtLk (l / 8))) (LK_LANE_CFG l) f
def State.lanePre (s : State) (l : Nat) (f : Fld) : Nat := cutF (s.planeOf (tgtLk (l / 8))) (LK_LANE_PRE l) f

/-- The rate in force, and the partner's capabilities. -/
def State.laneRate (s : State) (l : Nat) : Nat := s.fget (LK_LANE_STATUS l) LK_LANE_STATUS.rate
def setRate (l r : Nat) (s : State) : State := fset (LK_LANE_STATUS l) LK_LANE_STATUS.rate r s
def State.partnerEq (s : State) (l : Nat) : Bool := s.fget (LK_LANE_STATUS l) LK_LANE_STATUS.partner_eq = 1
def State.partnerCredits (s : State) (l : Nat) : Bool := s.fget (LK_LANE_STATUS l) LK_LANE_STATUS.partner_credits = 1

/-- A control word: code, sub-code and argument (R368). -/
def ctlWord (code sub arg : Nat) : Word := w32 (code + sub * 256 + arg * 4096)

/-- The control words of fill and of a packet's start (R368). -/
def idleWord : Word := ctlWord 0xBC 0 0
def sopWord : Word := ctlWord 0xFB 0 0

/-- A word in a control position is valid with one of the codes IDLE, SOP, CREDIT and TRAIN (R368). -/
def ctlValid (w : Word) : Bool := [0xBC, 0xFB, 0x7C, 0x3C].contains (w.toNat % 256)

/-- A TRAIN message by sub-code and argument bits as they stand in the word (R370). -/
def trainWord (sub bits : Nat) : Word := w32 (0x3C + sub * 256 + bits)

/-- The lane sends a control word. -/
def sendCtl (l : Nat) (w : Word) (s : State) : State := setLane l { s.lane l with ctl := some w } s

/-- The loopback that the lane is in, 0 none. -/
def State.loopOf (s : State) (l : Nat) : Nat := if s.laneState l = 8 then s.fget (LK_LANE_TEST l) LK_LANE_TEST.loop else 0

/-- The own receiver hears the lane's own words, not the partner's: near-end loopback. -/
def State.nearLoop (s : State) (l : Nat) : Bool := s.loopOf l = 1 || s.loopOf l = 2

/-- A TRAIN message is ignored (R396). In near-end loopback none is heard. -/
def trainBad (l : Nat) (s : State) : State := if s.nearLoop l then s else flag (LK_LANE_FLAGS l) LK_LANE_FLAGS.train_bad s

/-! ### The speed ladder (R370 to R375) -/

/-- The HELLO the lane sends (R370). -/
def State.ownHello (s : State) (l : Nat) : Word :=
  trainWord 0 (0x1F * 2 ^ 12 + 2 ^ 17 + 2 ^ 18 + s.laneCfg l LK_LANE_CFG.far_loop_allow * 2 ^ 19
    + (if 3 ≤ (s.lane l).hellos then 2 ^ 20 else 0) + l * 2 ^ 21 + 2 ^ 26)

/-- The highest rate code in a mask of rates. -/
def topRate (mask : Nat) : Nat := (List.range 5).foldl (fun m r => if mask.testBit r then r else m) 0

/-- The target rate of R371, no higher than a failed rung has left it (R375). -/
def State.laneTarget (s : State) (l : Nat) : Nat :=
  min (s.lane l).cap (min (min 4 (s.laneCfg l LK_LANE_CFG.max_rate)) (topRate (s.fget (LK_LANE_STATUS l) LK_LANE_STATUS.partner_rates)))

/-- The fixed taps come into force (R374). -/
def presetTaps (l : Nat) (s : State) : State :=
  fsets (LK_LANE_STATUS l) [(LK_LANE_STATUS.preset_used, 1), (LK_LANE_STATUS.c_pre, s.lanePre l LK_LANE_PRE.c_pre),
    (LK_LANE_STATUS.c_post, s.lanePre l LK_LANE_PRE.c_post)] s

/-- The lane needs the fixed taps from the start (R374). -/
def State.fixedTaps (s : State) (l : Nat) : Bool := !s.partnerEq l || s.laneCfg l LK_LANE_CFG.pre_fixed = 1

/-- The lane enters DETECT (R371). -/
def enterDetect (l : Nat) (s : State) : State :=
  let s1 := setRate l 0 (moveLane l 1 s)
  setLane l { s1.lane l with hellos := 0, partnerSeen := false, helloWord := none, retraining := false, burstAt := 0, ctl := none } s1

/-- The LK block of a lane has isolated itself: its lanes stay DOWN (R36). -/
def State.laneBarred (s : State) (l : Nat) : Bool := s.isolated 5 (l / 8)

/-- A lane that may train enters DETECT; one of an isolated block goes DOWN. -/
def bringLane (l : Nat) (s : State) : State := if s.laneBarred l then moveLane l 0 s else enterDetect l s

/-- The lane enters VERIFY at its rate (R375). -/
def enterVerify (l : Nat) (s : State) : State :=
  let s1 := moveLane l 5 s
  setLane l { s1.lane l with ownErr := none, partnerErr := none } s1

/-- The receiver makes a tap request of a partner that obeys one (R373). -/
def askTap (l : Nat) (ask : Option (BitVec 4)) (s : State) : State :=
  match ask with
  | none => s
  | some a =>
    if s.partnerEq l then
      let x := s.lane l
      let w := trainWord 2 (a.toNat % 4 * 2 ^ 12 + a.toNat / 4 * 2 ^ 14 + x.tapNext * 2 ^ 16)
      setLane l { x with tapOut := some (w, s.now), tapNext := (x.tapNext + 1) % 16, ctl := some w } s
    else s

/-- The lane starts equalisation (R373, R374). -/
def startEq (l : Nat) (s : State) : State :=
  let s1 := if s.fixedTaps l then presetTaps l s else fset (LK_LANE_STATUS l) LK_LANE_STATUS.preset_used 0 s
  setLane l { s1.lane l with tapOut := none, tapSeen := none, eqSent := false, eqGot := false, since := s1.now } s1

/-- The lane enters UP: credit starts anew (R393). -/
def enterUp (l : Nat) (s : State) : State :=
  let s1 := moveLane l 6 s
  setLane l { s1.lane l with limits := [0, 0, 0, 0, 0, 0], used := [0, 0, 0, 0, 0, 0], retraining := false, heldMgmt := 0, heldPair := 0,
                             consumedMgmt := 0, consumedPair := 0, creditAt := s1.now, crcFails := [], inbox := [], flightEnd := s1.now, flight := none } s1

/-- The lane enters FAILED: the cell-level reaction (R377). -/
def failLane (l : Nat) (s : State) : State := flag (LK_LANE_FLAGS l) LK_LANE_FLAGS.failed (moveLane l 9 s)

/-- The rate a step goes to: one rung up, or down after a failed retrain (R372, R376). -/
def State.stepTo (s : State) (l : Nat) : Nat :=
  let r := s.laneRate l
  if (s.lane l).target < r then r - 1 else r + 1

/-- The lane enters STEP and sends RATE (R372). -/
def enterStep (l : Nat) (s : State) : State :=
  let s1 := moveLane l 3 s
  setLane l { s1.lane l with switched := false, ctl := some (trainWord 1 (s1.stepTo l * 2 ^ 12)) } s1

/-- A rung failed (R375, R376): the lane falls back one rate and enters UP there, or after a retrain verifies there; at rate 0 it fails. -/
def rungFailed (l : Nat) (s : State) : State :=
  let r := s.laneRate l
  if r = 0 then failLane l s
  else
    let s1 := setLane l { s.lane l with target := r - 1, cap := r - 1 } s
    if (s.lane l).retraining then enterStep l s1 else enterUp l (setRate l (r - 1) s1)

/-- Both error counts of VERIFY are known (R375). -/
def rungDecided (l : Nat) (s : State) : State :=
  let x := s.lane l
  match x.ownErr, x.partnerErr with
  | some a, some b =>
    if a = 0 ∧ b = 0 then
      if s.laneRate l < x.target then enterStep l (setLane l { x with retraining := false } s) else enterUp l s
    else rungFailed l s
  | _, _ => s

/-- An enabled lane leaves DOWN (R371, R397). -/
def execLaneEnable (lane : Fin 32) (s : State) : Out :=
  .next (if s.laneEnabled lane && s.laneState lane = 0 && s.domGood (59 + lane / 8) && !s.fenced 5 && !s.laneBarred lane then enterDetect lane s else s)

/-- A burst of HELLO every 100 ms in DETECT. -/
def execHelloBurst (lane : Fin 32) (s : State) : Out :=
  .next (let x := s.lane lane
    if s.laneState lane = 1 && (x.burstAt = 0 || decide (x.burstAt + 100000000 ≤ s.now)) then
      setLane lane { x with burstAt := s.now, ctl := some (s.ownHello lane) } s
    else s)

/-- A HELLO is valid: TRAIN, sub-code 0, version 1, unnamed bits 0 (R370). -/
def helloValid (w : Word) : Bool := w.toNat % 4096 = 0x3C && w.toNat / 2 ^ 26 = 1

/-- What the partner's HELLO says of it (R370, R401). -/
def noteHello (l : Nat) (w : Word) (s : State) : State :=
  let n := w.toNat
  let s1 := fsets (LK_LANE_STATUS l) [(LK_LANE_STATUS.partner_rates, n / 2 ^ 12 % 32), (LK_LANE_STATUS.partner_credits, n / 2 ^ 17 % 2),
    (LK_LANE_STATUS.partner_eq, n / 2 ^ 18 % 2), (LK_LANE_STATUS.partner_lane, n / 2 ^ 21 % 32)] s
  let x := s1.lane l
  let s2 := setLane l { x with hellos := min 3 (x.hellos + 1), partnerSeen := w.getLsbD 20, partnerFar := w.getLsbD 19, helloWord := some w } s1
  sendCtl l (s2.ownHello l) s2

/-- A HELLO arrives (R370, R371, R396). A word whose code is none of R368 is no message; the HELLO are then not consecutive. -/
def execHello (lane : Fin 32) (word : Word) (s : State) : Out :=
  .next (let st := s.laneState lane
    if !ctlValid word then (if st = 1 ∨ st = 2 then setLane lane { s.lane lane with hellos := 0 } s else s)
    else if st = 1 ∨ st = 2 then
      if helloValid word then
        let s1 := noteHello lane word (if st = 1 then moveLane lane 2 s else s)
        if 3 ≤ (s1.lane lane).hellos ∧ (s1.lane lane).partnerSeen then
          let s2 := setLane lane { s1.lane lane with target := s1.laneTarget lane } s1
          enterVerify lane (if s2.fixedTaps lane then presetTaps lane s2 else s2)
        else s1
      else trainBad lane (setLane lane { s.lane lane with hellos := 0 } s)
    else if st = 6 ∧ ((s.lane lane).helloWord.map (setBit 20)) = some (setBit 20 word) then s
    else trainBad lane s)

/-- CAPS lasts at most 10 ms. -/
def execCapsTimeout (lane : Fin 32) (s : State) : Out :=
  .next (if s.laneState lane = 2 && decide ((s.lane lane).since + 10000000 ≤ s.now) then enterDetect lane s else s)

/-- The partner's RATE, once 16 own words have been sent: both switch (R372). -/
def execRate (lane : Fin 32) (code : BitVec 3) (s : State) : Out :=
  .next (if s.laneState lane = 3 && !(s.lane lane).switched && code.toNat = s.stepTo lane && code.toNat ≤ 4 then
      let s1 := setRate lane code.toNat s
      setLane lane { s1.lane lane with switched := true, since := s1.now } s1
    else trainBad lane s)

/-- The receiver aligns at the new rate: EQ at rates 2 to 4, else VERIFY (R371, R372). -/
def execLaneAligned (lane : Fin 32) (ask : Option (BitVec 4)) (s : State) : Out :=
  .next (if s.laneState lane = 3 && (s.lane lane).switched then
      if 2 ≤ s.laneRate lane then askTap lane ask (startEq lane (moveLane lane 4 s)) else enterVerify lane s
    else s)

/-- No alignment within 1 ms is a failure of VERIFY at the new rate (R372). -/
def execAlignmentTimeout (lane : Fin 32) (s : State) : Out :=
  .next (if s.laneState lane = 3 && (s.lane lane).switched && decide ((s.lane lane).since + 1000000 ≤ s.now) then rungFailed lane s else s)

/-- The lane equalises: EQ, or RETRAIN at rates 2 to 4, which goes on as EQ (R371). -/
def State.equalising (s : State) (l : Nat) : Bool := s.laneState l = 4 || (s.laneState l = 7 && decide (2 ≤ s.laneRate l))

/-- The taps a request asks for, or none where it would leave their range (R373). -/
def tapRequest (pre post pre0 post0 tap action : Nat) : Option (Nat × Nat) :=
  let move := fun (v v0 : Nat) => if action = 1 then some (v + 1) else if action = 2 then (if v = 0 then none else some (v - 1)) else some v0
  let a := if tap = 0 ∨ tap = 3 then move pre pre0 else some pre
  let b := if tap = 2 ∨ tap = 3 then move post post0 else some post
  match a, b with
  | some x, some y => if x ≤ 7 ∧ y ≤ 15 ∧ x + y ≤ 20 then some (x, y) else none
  | _, _ => none

/-- A tap request of a new number is applied and answered. A lane on the fixed taps supports none (R373, R374). -/
def newTapReq (l tap action number : Nat) (s : State) : State :=
  let answer := fun (status : Nat) (t : State) =>
    let w := trainWord 3 (tap * 2 ^ 12 + status * 2 ^ 14 + number * 2 ^ 16)
    setLane l { t.lane l with tapSeen := some (number, w), ctl := some w } t
  let st := LK_LANE_STATUS l
  if s.fixedTaps l ∨ tap = 1 ∨ action = 0 then answer 2 s
  else match tapRequest (s.fget st LK_LANE_STATUS.c_pre) (s.fget st LK_LANE_STATUS.c_post) (s.lanePre l LK_LANE_PRE.c_pre)
      (s.lanePre l LK_LANE_PRE.c_post) tap action with
    | some (p, q) => answer 0 (fsets st [(LK_LANE_STATUS.c_pre, p), (LK_LANE_STATUS.c_post, q)] s)
    | none => answer 1 s

/-- A tap request is applied once per number, and answered (R373, R374). -/
def execTapReq (lane : Fin 32) (tap action : BitVec 2) (number : BitVec 4) (s : State) : Out :=
  .next (if !s.equalising lane then trainBad lane s
    else match (s.lane lane).tapSeen.filter (fun a => a.1 = number.toNat) with
      | some (_, w) => sendCtl lane w s
      | none => newTapReq lane tap.toNat action.toNat number.toNat s)

/-- A TAP_ACK answers the own request of its number. -/
def execTapAck (lane : Fin 32) (number : BitVec 4) (ask : Option (BitVec 4)) (s : State) : Out :=
  .next (match (s.lane lane).tapOut with
    | some (w, _) =>
      if s.equalising lane && w.toNat / 2 ^ 16 % 16 = number.toNat then askTap lane ask (setLane lane { s.lane lane with tapOut := none } s)
      else trainBad lane s
    | none => trainBad lane s)

/-- A request unanswered for 10 µs is resent. -/
def execTapReqResend (lane : Fin 32) (s : State) : Out :=
  .next (match (s.lane lane).tapOut with
    | some (w, t) =>
      if s.equalising lane && decide (t + 10000 ≤ s.now) then setLane lane { s.lane lane with tapOut := some (w, s.now), ctl := some w } s else s
    | none => s)

/-- The own receiver has nothing more to ask: EQ_DONE goes out, and with the partner's received equalisation ends (R370, R373). -/
def sendEqDone (l : Nat) (s : State) : State :=
  let s1 := setLane l { s.lane l with eqSent := true, ctl := some (trainWord 4 0) } s
  if (s1.lane l).eqGot then enterVerify l s1 else s1

/-- EQ_DONE arrives; with the own one sent, which may go out at this instant, equalisation ends (R373). -/
def execEqDone (lane : Fin 32) (ownSent : Bool) (s : State) : Out :=
  .next (if s.equalising lane then
      let s1 := setLane lane { s.lane lane with eqGot := true } s
      if ownSent && !(s.lane lane).eqSent then sendEqDone lane s1
      else if (s1.lane lane).eqSent then enterVerify lane s1 else s1
    else trainBad lane s)

/-- 50 ms after its entry equalisation ends with the fixed taps (R373, R374). -/
def execEqTimeout (lane : Fin 32) (s : State) : Out :=
  .next (if s.equalising lane && decide ((s.lane lane).since + 50000000 ≤ s.now) then enterVerify lane (presetTaps lane s) else s)

/-- After 2 ms the own pattern ends: VERIFY_END goes out with the own count (R375). -/
def execVerifyPatternEnd (lane : Fin 32) (errors : Nat) (s : State) : Out :=
  .next (if s.laneState lane = 5 && decide ((s.lane lane).since + 2000000 ≤ s.now) then
      rungDecided lane (setLane lane { s.lane lane with ownErr := some (min 0xFF errors), ctl := some (trainWord 5 (min 0xFF errors * 2 ^ 12)) } s)
    else s)

/-- The partner's count arrives (R375). -/
def execVerifyEnd (lane : Fin 32) (errors : Byte) (s : State) : Out :=
  .next (if s.laneState lane = 5 then rungDecided lane (setLane lane { s.lane lane with partnerErr := some errors.toNat } s) else trainBad lane s)

/-! ### Retraining and loss (R376, R377) -/

/-- Bump a lane counter. -/
def laneCount (a : Nat) (f : Fld) (l n : Nat) (s : State) : State := bumpOvf a f n (LK_LANE_FLAGS l) LK_LANE_FLAGS.cnt_ovf.lo s

/-- A lane in UP enters RETRAIN and sends the message, the eighth time within 1 s FAILED (R376, R377). -/
def enterRetrain (l : Nat) (s : State) : State :=
  let s1 := flag (LK_LANE_FLAGS l) LK_LANE_FLAGS.retrained (laneCount (LK_LANE_CNT1 l) LK_LANE_CNT1.retrain_count l 1 s)
  let x := s1.lane l
  let recent := s1.now :: x.retrains.filter (fun t => decide (s1.now < t + 1000000000))
  let s2 := setLane l { x with retrains := recent.take 8, retraining := true } s1
  if 8 ≤ recent.length then failLane l s2
  else
    let s3 := moveLane l 7 s2
    sendCtl l (trainWord 6 0) (if 2 ≤ s3.laneRate l then startEq l s3 else s3)

/-- After its 16 RETRAIN words the lane goes on to EQ at rates 2 to 4, and to VERIFY at rates 0 and 1 (R371, R376). -/
def leaveRetrain (l : Nat) (s : State) : State := if 2 ≤ s.laneRate l then moveLane l 4 s else enterVerify l s

/-- The partner asks for retraining. -/
def execRetrain (lane : Fin 32) (s : State) : Out := .next (if s.laneUp lane then enterRetrain lane s else trainBad lane s)

/-- 8 packets failed their CRC within 1 ms, or 16 blocks or symbols were in error within their window (R376). -/
def execLineErrorRetrain (e : LineErrors) (s : State) : Out :=
  .next (let recent := (s.lane e.lane).crcFails.filter (fun t => decide (s.now < t + 1000000))
    if s.laneUp e.lane && (decide (8 ≤ recent.length) || decide (16 ≤ e.errors)) then enterRetrain e.lane s else s)

/-- No valid word for 1 ms. -/
def execPartnerLost (lane : Fin 32) (s : State) : Out :=
  .next (let st := s.laneState lane
    if 2 ≤ st ∧ st ≤ 7 then enterDetect lane (flag (LK_LANE_FLAGS lane) LK_LANE_FLAGS.partner_lost s) else s)

/-- `LK_LANE_CMD`.retrain. -/
def laneRetrain (l : Nat) (s : State) : State :=
  let s0 := setLane l { s.lane l with cap := 4 } s
  let s1 := setLane l { s0.lane l with target := s0.laneTarget l } s0
  if s1.laneUp l then enterRetrain l s1 else s1

/-- `LK_LANE_CMD`.rearm. -/
def laneRearm (l : Nat) (s : State) : State :=
  if s.laneState l = 9 then (if s.laneEnabled l then bringLane l s else moveLane l 0 s) else s

/-- `LK_LANE_CMD`.clear_counts. -/
def laneClear (l : Nat) (s : State) : State := setReg (LK_LANE_PRBS_ERR l) 0 (setReg (LK_LANE_CNT1 l) 0 (setReg (LK_LANE_CNT0 l) 0 s))

def execLaneRetrainCmd (q : Requester) (lane : Fin 32) (s : State) : Out := .next (hostWrite q (LK_LANE_CMD lane) (laneRetrain lane) s)
def execLaneRearm (q : Requester) (lane : Fin 32) (s : State) : Out := .next (hostWrite q (LK_LANE_CMD lane) (laneRearm lane) s)
def execLaneClearCounts (q : Requester) (lane : Fin 32) (s : State) : Out := .next (hostWrite q (LK_LANE_CMD lane) (laneClear lane) s)

/-- A write of `LK_LANE_CMD`. -/
def laneCommand (l : Nat) (w : Word) (s : State) : State :=
  let s1 := if w.getLsbD 0 then laneRetrain l s else s
  let s2 := if w.getLsbD 1 then laneRearm l s1 else s1
  if w.getLsbD 2 then laneClear l s2 else s2

/-! ### Loopback (R378) -/

/-- The mode lets a loopback or a PRBS bit be set. -/
def State.testMode (s : State) : Bool := s.mode = .configured || s.mode = .armed

/-- The loopback selection changes. -/
def setLoop_ (l new : Nat) (s : State) : State :=
  let old := s.fget (LK_LANE_TEST l) LK_LANE_TEST.loop
  let s1 := fset (LK_LANE_TEST l) LK_LANE_TEST.loop new s
  if old = 0 ∧ new ≠ 0 ∧ !s.laneBarred l then moveLane l 8 s1
  else if old ≠ 0 ∧ new = 0 ∧ s1.laneState l = 8 then (if s1.laneEnabled l then bringLane l s1 else moveLane l 0 s1)
  else s1

/-- A write of `LK_LANE_TEST`: what it would set outside CONFIGURED and ARMED keeps its value. -/
def laneTest (l : Nat) (w : Word) (s : State) : State :=
  let t := LK_LANE_TEST l
  let part := fun (f : Fld) (u : State) =>
    let new := getF f w
    if new ≠ 0 ∧ new ≠ u.fget t f ∧ !u.testMode then flag (LK_LANE_FLAGS l) LK_LANE_FLAGS.loop_refused u
    else if f = LK_LANE_TEST.loop then setLoop_ l new u else fset t f new u
  part LK_LANE_TEST.prbs_chk (part LK_LANE_TEST.prbs_tx (part LK_LANE_TEST.loop s))

def execLaneTestWrite (q : Requester) (block : Fin 4) (lane : Fin 8) (data : Word) (s : State) : Out :=
  .next (let l := block.val * 8 + lane.val
    hostWrite q (LK_LANE_TEST l) (laneTest l data) s)

/-- Bit errors that the receiver counts now against PRBS31: none in what the lane itself sends before the serialiser, else a free value. -/
def State.prbsErrors (s : State) (l : Nat) : Nat :=
  if s.loopOf l = 2 ∧ s.fget (LK_LANE_TEST l) LK_LANE_TEST.prbs_tx = 1 then 0 else Config.prbsErrors l s.now

/-- The partner's LOOP: it enters or leaves far-end loopback, or is refused. A refusal answers a request that the lane never makes, and
leaving is out of state outside far-end loopback: both set train_bad (R396). -/
def execLoop (lane : Fin 32) (enter refused : Bool) (s : State) : Out :=
  .next (if s.nearLoop lane then s
    else if refused then trainBad lane s
    else if enter then
      if s.laneCfg lane LK_LANE_CFG.far_loop_allow = 1 && s.testMode && s.laneUp lane then setLoop_ lane 3 s
      else sendCtl lane (trainWord 7 (2 ^ 12 + 2 ^ 13)) (flag (LK_LANE_FLAGS lane) LK_LANE_FLAGS.loop_refused s)
    else if s.loopOf lane = 3 then setLoop_ lane 0 s else trainBad lane s)

/-! ### Reception (R379 to R381, R390, R393, R396) -/

/-- Words of a packet with its fill, of `n` payload words at a rate (R379, R393). -/
def packetLen (rate n : Nat) : Nat := if 2 ≤ rate then (n + 6) / 2 * 2 else n + 5

/-- Credit units a packet needs. -/
def packetUnits (rate n : Nat) : Nat := (packetLen rate n + 63) / 64

/-- The 4 header words of a packet (R380). -/
def Packet.header (p : Packet) : List Word :=
  [w32 (p.stream + p.kind * 16 + p.source * 256 + b2n p.last * 2 ^ 12 + p.payload.length * 2 ^ 16), w32 p.frame, p.epoch, p.frag]

/-- The words of a packet on the lane: SOP, with IDLE beside it under 64b/66b, the header, the payload, the CRC over both, and the word that
fills the last data block (R379). -/
def Packet.wire (rate : Nat) (p : Packet) : List Word :=
  let body := p.header ++ p.payload
  (if 2 ≤ rate then [sopWord, idleWord] else [sopWord]) ++ body ++ [crc32 body] ++ (if 2 ≤ rate ∧ body.length % 2 = 0 then [0] else [])

/-- What the lane puts out in UP: the packet in flight, else IDLE (R371). -/
def State.laneWire (s : State) (l : Nat) : List Word :=
  match (s.lane l).flight with
  | some p => if s.now < (s.lane l).flightEnd then p.wire (s.laneRate l) else [idleWord]
  | none => [idleWord]

/-- The lane is named in the route of a stream in force. -/
def State.laneRouted (s : State) (stream l : Nat) : Bool :=
  match laneMask s.cut.live stream 0 with
  | some m => m.testBit l
  | none => false

/-- A packet is discarded whole (R396). -/
def malformed (l : Nat) (s : State) : State :=
  flag (LK_LANE_FLAGS l) LK_LANE_FLAGS.malformed (laneCount (LK_LANE_CNT0 l) LK_LANE_CNT0.malformed_count l 1 s)

/-- The MGMT rate limit lets `n` transactions pass in this millisecond (R396). -/
def mgmtLimit (l n : Nat) (s : State) : State × Bool :=
  let x := s.lane l
  let ms := s.now / 1000000
  let used := if x.mgmtMs = ms then x.mgmtCount else 0
  if used + n ≤ s.fget LK_STREAM_CFG LK_STREAM_CFG.mgmt_rate * 64 then
    (setLane l { x with mgmtMs := ms, mgmtCount := used + n } s, true)
  else (flag (LK_LANE_FLAGS l) LK_LANE_FLAGS.mgmt_limited (laneCount (LK_LANE_CNT1 l) LK_LANE_CNT1.mgmt_limited_count l 1 s), false)

/-- A packet of MGMT or PAIR fits what has been granted, and waits to be consumed. -/
def acceptPacket (l stream need : Nat) (payload : List Word) (s : State) : State :=
  let x := s.lane l
  if stream = 4 then setLane l { x with heldMgmt := x.heldMgmt + need, inbox := x.inbox ++ [(4, payload)] } s
  else setLane l { x with heldPair := x.heldPair + need, inbox := x.inbox ++ [(5, payload)] } s

/-- A packet fails its CRC: it counts, and towards the threshold of R376. -/
def crcFailed (l : Nat) (s : State) : State :=
  let s1 := flag (LK_LANE_FLAGS l) LK_LANE_FLAGS.crc_in (laneCount (LK_LANE_CNT0 l) LK_LANE_CNT0.crc_count l 1 s)
  let x := s1.lane l
  setLane l { x with crcFails := (s1.now :: x.crcFails).take 8 } s1

/-- A packet arrives whole (R396). Far-end loopback sends its words back (R378). -/
def receivePacket (l : Nat) (words : List Word) (sopInside : Bool) (s : State) : State :=
  let n := words.length - 5
  let body := words.take (n + 4)
  let head := (nth 0 words 0).toNat
  let payload := body.drop 4
  let rate := s.laneRate l
  let stream := head % 16
  let need := packetUnits rate n
  if s.loopOf l = 3 then setLane l { s.lane l with returned := sopWord :: words } s
  else if !s.laneUp l then s
  else if words.length < 5 ∨ sopInside ∨ nth 0 words (n + 4) ≠ crc32 body then
    malformed l (if words.length < 5 ∨ sopInside then s else crcFailed l s)
  else if head / 2 ^ 16 % 4096 ≠ n ∨ 2048 < n ∨ head / 16 % 16 ≠ 0 then malformed l s
  else if stream = 4 ∧ s.laneRouted 4 l then
    if n = 0 ∨ n % 2 = 1 ∨ 128 < n ∨ 8 < (s.lane l).heldMgmt + need then malformed l s
    else
      let (s1, ok) := mgmtLimit l (n / 2) s
      if ok then acceptPacket l 4 need payload s1 else s1
  else if stream = 5 ∧ s.laneRouted 5 l then
    if 32 < (s.lane l).heldPair + need then malformed l s else acceptPacket l 5 need payload s
  else malformed l s

def execPacketReceived (lane : Fin 32) (words : List Word) (sopInside : Bool) (s : State) : Out :=
  .next (receivePacket lane words sopInside s)

/-- Credit words for MGMT and PAIR go out (R393). -/
def grantCredit (l : Nat) (s : State) : State :=
  let x := s.lane l
  setLane l { x with creditAt := s.now, granted := [ctlWord 0x7C 4 ((x.consumedMgmt + 8) % 2 ^ 20), ctlWord 0x7C 5 ((x.consumedPair + 32) % 2 ^ 20)] } s

/-- The oldest accepted packet of a stream on a lane is consumed: its credit goes back to the partner. -/
def takePacket (l stream : Nat) (s : State) : State × Option (List Word) :=
  let x := s.lane l
  match x.inbox.find? (fun p => p.1 = stream) with
  | none => (s, none)
  | some p =>
    let need := packetUnits (s.laneRate l) p.2.length
    let y := { x with inbox := x.inbox.erase p }
    let z := if stream = 4 then { y with heldMgmt := y.heldMgmt - need, consumedMgmt := y.consumedMgmt + need }
             else { y with heldPair := y.heldPair - need, consumedPair := y.consumedPair + need }
    (grantCredit l (setLane l z s), some p.2)

/-- CREDIT is sent at least every 10 µs. -/
def execCreditGrant (lane : Fin 32) (s : State) : Out := .next (if s.laneUp lane then grantCredit lane s else s)

/-- Replace entry `i` of a list. -/
def setAt {α : Type} (i : Nat) (v : α) : List α → List α
  | [] => []
  | x :: xs => match i with
    | 0 => v :: xs
    | j + 1 => x :: setAt j v xs

/-- A CREDIT word sets the limit of its stream (R393). -/
def execCredit (lane : Fin 32) (stream : BitVec 4) (limit : BitVec 20) (s : State) : Out :=
  .next (if s.laneUp lane then setLane lane { s.lane lane with limits := setAt stream.toNat limit.toNat (s.lane lane).limits } s else s)

/-! ### Transmission (R379, R393, R395) -/

/-- Word times in units of 10 ps, by rate (R365). -/
def wordTime (rate : Nat) : Nat := nth 128 [3200, 1280, 528, 264, 128] rate

/-- The time a packet of `n` payload words occupies a lane, in ns, rounded up. -/
def packetTime (rate n : Nat) : Nat := ((packetLen rate n + (if 2 ≤ rate then 2 else 1)) * wordTime rate + 99) / 100

/-- The lane may start a packet of a stream that needs some units (R393). -/
def State.hasCredit (s : State) (l stream need : Nat) : Bool :=
  !s.partnerCredits l ||
    (let d := (nth 0 (s.lane l).limits stream + 2 ^ 20 - nth 0 (s.lane l).used stream) % 2 ^ 20
     decide (need ≤ d ∧ d < 2 ^ 19))

/-- A packet starts on a lane. -/
def startPacket (l : Nat) (p : Packet) (s : State) : State :=
  let x := s.lane l
  let n := p.payload.length
  let rate := s.laneRate l
  setLane l { x with flight := some p, flightEnd := s.now + packetTime rate n,
                     used := setAt p.stream ((nth 0 x.used p.stream + packetUnits rate n) % 2 ^ 20) x.used } s

/-- The drop marker of a stream and source (R395). -/
def DropAcc.marker (a : DropAcc) (stream source : Nat) : Packet :=
  { stream := stream, kind := 15, source := source, frame := a.frame, epoch := a.epoch, frag := a.frag,
    payload := [w32 (a.causes + source * 256), w32 a.units, w32 a.firstFrame, w32 (if stream ≤ 1 then a.firstPix else 0),
                w32 (if stream ≤ 1 then a.lastPix else 0)] }

/-- A queued packet is given up with a cause. A PAIR message is dropped once its copy on the other lane is gone too; a CAPT packet takes the
rest of its segment with it (R394). -/
def giveUp (cause l : Nat) (p : Packet) (s : State) : State :=
  let x := s.lane l
  let s1 := setLane l { x with queue := x.queue.erase p } s
  if p.stream = 5 then
    let o := if l = 30 then 31 else 30
    let y := s1.lane o
    if y.queue.contains p then dropPacket p cause (setLane o { y with queue := y.queue.erase p } s1)
    else if s1.laneUp o then s1 else dropPacket p cause s1
  else giveUpPacket cause p s1

/-! ### A swap (R398) -/

/-- The plane routes the stream of a packet nowhere (R55). -/
def unrouted (pl : Option Plane) (p : Packet) : Bool := (laneMask pl p.stream (if p.stream ≤ 1 then p.source else 0)).isNone

/-- A lane that the plane disables finishes the packet in flight and goes DOWN; what is queued on it is dropped or moved (R398). -/
def closeLane (l : Nat) (s : State) : State :=
  let x := s.lane l
  let gone := x.queue.filter (fun p => p.stream ≤ 1)
  let kept := x.queue.filter (fun p => ¬ p.stream ≤ 1)
  let s1 := gone.foldl (fun t p => dropPacket p 3 t) (setLane l { x with queue := [] } s)
  let s2 := kept.foldl (fun t p => displace l p t) s1
  let y := s2.lane l
  if s2.laneUp l && y.flight.isSome && s2.now < y.flightEnd then setLane l { y with closing := true } s2 else moveLane l 0 s2

/-- A lane under the new plane. On a lane that stays enabled the packets of a stream that is routed nowhere any more are dropped (R70). -/
def applyLane (old new : Option Plane) (l : Nat) (s : State) : State :=
  let was := cellOn old 5 (l / 8) (l % 8)
  let on := cellOn new 5 (l / 8) (l % 8)
  if was ∧ on then ((s.lane l).queue.filter (unrouted new)).foldl (fun t p => giveUp 3 l p t) s
  else if on ∧ ¬was then (if s.laneState l = 9 then s else bringLane l s)
  else if was ∧ ¬on then closeLane l s
  else s

/-- LK block `b` takes the plane of the swap in progress at a stamp. -/
def applyLk (b stamp : Nat) (s : State) : State :=
  if s.cut.waiting.contains (tgtLk b) then
    forUp (fun c t => applyLane s.cut.old s.cut.live (b * 8 + c) t) 0 8 (markApplied (tgtLk b) stamp s)
  else s

/-- The lanes of LK block `b` under the plane in force, as the block takes part again: an enabled one enters DETECT, another is DOWN (R41,
R398). -/
def joinLanes (pl : Option Plane) (b : Nat) (s : State) : State :=
  if pl.isNone then s
  else forUp (fun c t =>
    let l := b * 8 + c
    if cellOn pl 5 b c then (if t.laneState l = 0 then bringLane l t else ((t.lane l).queue.filter (unrouted pl)).foldl (fun u p => giveUp 3 l p u) t)
    else if t.laneState l = 0 then t else closeLane l t) 0 8 s

/-! ### A packet starts (R379, R392 to R395) -/

/-- A lane that is UP, not under test and with nothing in flight may start its next packet. -/
def State.laneMayStart (s : State) (l : Nat) : Bool :=
  s.laneUp l && decide ((s.lane l).flightEnd ≤ s.now) && decide (s.fget (LK_LANE_TEST l) LK_LANE_TEST.prbs_tx ≠ 1)

/-- The next packet of a lane starts, after the marker that waits for its stream and source. A stream without a route sends no marker
(R55). -/
def startNext (l : Nat) (s : State) : State :=
  let x := s.lane l
  if !s.laneUp l || s.now < x.flightEnd || s.fget (LK_LANE_TEST l) LK_LANE_TEST.prbs_tx = 1 then s
  else if x.closing then moveLane l 0 (setLane l { x with closing := false, flight := none } s)
  else match x.queue with
    | [] => s
    | p :: rest =>
      let rate := s.laneRate l
      let acc := s.dropAcc p.stream p.source
      if 0 < acc.units && !unrouted (s.planeOf (tgtLk (l / 8))) p then
        let m := acc.marker p.stream p.source
        if s.hasCredit l p.stream (packetUnits rate 5) then startPacket l m (setDropAcc p.stream p.source {} s) else s
      else if s.hasCredit l p.stream (packetUnits rate p.payload.length) then
        let s1 := startPacket l p (setLane l { x with queue := rest } s)
        if p.stream = 2 then handCapt s1.aq.sending.length s1 else s1
      else s

/-- A packet's header would start on the lane now: the marker of its stream, or the packet itself, has credit (R393, R395). -/
def State.startsNow (s : State) (l : Nat) : Bool :=
  s.laneMayStart l && !(s.lane l).closing && (match (s.lane l).queue with
    | [] => false
    | p :: _ => s.hasCredit l p.stream (packetUnits (s.laneRate l) (if 0 < (s.dropAcc p.stream p.source).units then 5 else p.payload.length)))

/-- The block of a lane takes a pending plane at its first packet started at or after I (R29, R70). -/
def transmit (l : Nat) (s : State) : State :=
  if s.cut.waiting.contains (tgtLk (l / 8)) && s.cut.swapI ≤ s.now && s.startsNow l then startNext l (applyLk (l / 8) s.now s)
  else startNext l s

def execPacketTransmit (lane : Fin 32) (s : State) : Out := .next (transmit lane s)

def execStreamWaitExpiry (lane : Fin 32) (s : State) : Out :=
  .next (((s.lane lane).queue.filter (fun p => p.deadline.any (fun d => decide (d ≤ s.now)))).foldl (fun t p => giveUp 0 lane p t) s)

/-! ### STAT (R387 to R389) -/

/-- The beacon of the current second of TBASE is due: it has not gone out, and 20 µs have not passed. -/
def State.beaconDue (s : State) : Bool :=
  s.time.running && decide (s.now % 1000000000 < 20000) && decide (s.lk.beaconOf ≠ some (s.now / 1000000000))

/-- The beacon goes out. -/
def sendBeacon (s : State) : State :=
  let t := s.now - s.now % 1000000000
  let st := s.fget CUT_STATUS CUT_STATUS.shadow_state
  let s1 := { s with lk := { s.lk with beaconOf := some (s.now / 1000000000) } }
  sendPacket (s1.packet 3 0 0 ([w32 t, w32 (t / 2 ^ 32), s1.reg LIVE_EPOCH] ++ s1.regsFrom (LIVE_DIGEST 0) 8
    ++ [w32 (s1.mode.code + s1.pair.code * 16 + st * 256), s1.reg (SHADOW_DIGEST 0), if st = 5 then s1.reg CUT_SWAP_FRAME else 0])) s1

/-- The beacon at a whole second of TBASE, once. -/
def execStatBeacon (s : State) : Out := .next (if s.beaconDue then sendBeacon s else s)

/-- The block shows a bound sequence. -/
def State.boundNow (s : State) (k : Nat) : Bool := s.fget (RX_BLK_SEQ k) RX_BLK_SEQ.bound = 1

/-- The census payload of RX`n` (R388). -/
def State.censusWords (s : State) (n : Nat) : List Word :=
  let bs := List.range 8
  w32 (8 + n + bs.foldl (fun v b => v + (if s.boundNow (n * 8 + b) then 2 ^ (8 + b) + (if (s.blk (n * 8 + b)).foreignHigh then 2 ^ (16 + b) else 0) else 0)) 0)
    :: bs.flatMap (fun b =>
      let k := n * 8 + b
      if s.boundNow k then [s.reg (RX_CENSUS_SLOTS k), s.reg (RX_CENSUS_FOREIGN k), s.reg (RX_CENSUS_NOISE k)] else [0, 0, 0])

/-- Epoch and fragment of the plane under which the census of RX`n` was counted: those of its first bound block (R63, R380). -/
def State.censusOf (s : State) (n : Nat) : Word × Word :=
  match (List.range 8).find? (fun b => s.boundNow (n * 8 + b)) with
  | some b => (s.blk (n * 8 + b)).censusId
  | none => (0, 0)

/-- One census packet per RX region with a bound block, for the frame that has just ended, once a boundary; a beacon due goes first
(R403). -/
def execStatCensus (s : State) : Out :=
  .next (if s.time.edgeSeen && s.now ≤ s.frameEdge + 100000 && decide (s.lk.censusOf ≠ some s.frameEdge) then
      let s0 := if s.beaconDue then sendBeacon s else s
      forUp (fun n t =>
        if (List.range 8).any (fun b => t.boundNow (n * 8 + b)) then
          let id := t.censusOf n
          sendPacket { t.packet 3 1 (8 + n) (t.censusWords n) with epoch := id.1, frag := id.2, frame := (t.frameNum + 2 ^ 32 - 1) % 2 ^ 32 } t
        else t) 0 6 { s0 with lk := { s0.lk with censusOf := some s0.frameEdge } }
    else s)

/-- Word 0 of the safety mirror, as read at the balls (R389). SAFE_OK is high in HOT and PERMIT (R407). -/
def State.mirror (s : State) : Nat :=
  let st := s.reg SF_STATUS
  let a := s.fget SF_STATUS SF_STATUS.state_a
  let b := s.fget SF_STATUS SF_STATUS.state_b
  let en := fun (x : Nat) => (look (fun _ => ({} : SfChan)) s.sf.chans x).en
  b2n (a = 4 ∨ a = 5) + 2 * b2n (b = 4 ∨ b = 5) + 4 * b2n (en 0) + 8 * b2n (en 1) + 16 * bitN 8 st + 32 * bitN 9 st
    + 64 * bitN 10 st + 128 * bitN 11 st + a * 256 + b * 4096

/-- A change of word 0 is noted at its TBASE. -/
def noteMirror (s : State) : State :=
  if s.mirror = s.lk.mirrorWord then s
  else { s with lk := { s.lk with mirrorWord := s.mirror, mirrorChange := s.now, mirrorDue := true } }

/-- The safety mirror goes out after any change of its word 0, and otherwise every 10 ms. -/
def execStatSafetyMirror (s : State) : Out :=
  .next (let s0 := noteMirror s
    if s0.lk.mirrorDue || decide (s0.lk.mirrorAt + 10000000 ≤ s0.now) then
      let s1 := { s0 with lk := { s0.lk with mirrorDue := false, mirrorAt := s0.now } }
      sendPacket (s1.packet 3 2 2 [w32 s1.lk.mirrorWord, w32 s1.lk.mirrorChange]) s1
    else s0)

/-! ### What passes on a lane as time does (R371, R373, R378) -/

/-- The 16 RETRAIN words end, the own receiver has finished in equalisation, PRBS31 is checked, and the copy of `LK_LANE_STATUS` in the
timebase domain follows (R506). -/
def tickLane (l : Nat) (s : State) : State :=
  let x := s.lane l
  let s1 := if s.laneState l = 7 && decide (x.since * 100 + 16 * wordTime (s.laneRate l) ≤ s.now * 100) then leaveRetrain l s else s
  let s2 := if s1.equalising l && !(s1.lane l).eqSent && (s1.lane l).tapOut.isNone && Config.eqReady l s1.now then sendEqDone l s1 else s1
  let s3 := if s2.fget (LK_LANE_TEST l) LK_LANE_TEST.prbs_chk = 1 then laneCount (LK_LANE_PRBS_ERR l) whole l (s2.prbsErrors l) s2 else s2
  { s3 with lk := { s3.lk with copies := put (fun _ => 0) s3.lk.copies l (s3.reg (LK_LANE_STATUS l)) } }

/-- Every lane, while LK has power. -/
def tickLanes (s : State) : State := if s.domOn 59 then forUp tickLane 0 32 s else s

end Sys2Proof.Machine
end

