-- ==== Sys2Proof/Machine/Pair.lean ====
section
/-!
DEFINITION. Active and standby pairs (chapter 14): claim frames, pair states, promotion and handover, the heartbeat, the PAIR stream,
skew, and the comparison of the two units' summaries.
-/
namespace Sys2Proof.Machine

/-- Change what the manual keeps for a pair beyond its registers. -/
def setPair (p : PairSt) (s : State) : State := { s with pairSt := p }

/-- The plane in force makes the unit one of a pair (R445). -/
def State.paired (s : State) : Bool := cutF s.cut.live PAIR_CFG PAIR_CFG.pair_en = 1

/-! ### Canonical content (R61) -/

/-- The words of the canonical content of frames that stand in ascending order of key. -/
def canonWords (p : Plane) : List Word :=
  w32 0x43544B43 :: w32 0x768 :: p.flatMap (fun f => w32 f.f0 :: w32 f.f1 :: w32 f.words.length :: f.words)

/-- The schedule digest fragment of a plane (R451). -/
def schedOf (pl : Option Plane) : Word :=
  nth 0 (sha256 (canonWords ((pl.getD []).filter (fun f => f.f0 / 2 ^ 24 % 16 = 2 ∨ f.f0 / 2 ^ 24 % 16 = 4)))) 0

/-! ### Pair states (R441, R445, R446) -/

/-- The unit enters a pair state; nothing of a promotion is left. -/
def enterPair (st : Nat) (won : Option Nat) (s : State) : State :=
  fsets PAIR_STATUS [(PAIR_STATUS.state, st), (PAIR_STATUS.promoting, 0)]
    (setPair { s.pairSt with won := won, unproven := false, promoteAt := none, handover := none, fireOffset := 0 } s)

/-- The ports' excitation follows the pair state: off in STANDBY and WITHDRAWN (R446, R454). -/
def followExcitation (s : State) : State :=
  forUp (fun a t => if (t.axis a).on || (t.scRuns && cellOn (t.planeOf tgtSc) 3 0 a) then applyExcitation a t.now t else t) 0 8 s

/-- The unit becomes WITHDRAWN. -/
def enterWithdrawn (s : State) : State :=
  let s1 := enterPair 3 none s
  let s2 := setPair { s1.pairSt with slot := none, claims := false } s1
  toConfigured (sfStandDown (followExcitation (flag PAIR_FLAGS PAIR_FLAGS.withdrawn s2)))

/-- The unit becomes STANDBY. A claim frame in progress runs to its end (R442). -/
def enterStandby (s : State) : State := followExcitation (sfStandDown (enterPair 2 none s))

/-- The unit becomes ACTIVE at a swap, with its SOLO carat, and has won no frame since. -/
def enterActive (s : State) : State :=
  let s1 := enterPair 1 s.pairSt.won s
  flag PAIR_FLAGS PAIR_FLAGS.promoted (setPair { s1.pairSt with unproven := true } s1)

/-- The unit becomes SOLO; from ACTIVE it keeps its carat, here with the rank `rank` of the plane it claimed under. -/
def enterSolo (rank : Nat) (s : State) : State :=
  match s.pair with
  | .solo => s
  | .active => enterPair 0 (some (s.pairSt.won.getD rank)) s
  | .standby | .withdrawn => followExcitation (sfStandDown (enterPair 0 none s))

/-- What a swap does to the pair state (R445); `old` is the plane it replaces. In SERVICE the unit is SOLO. -/
def pairSwap (old : Option Plane) (s : State) : State :=
  let sched := schedOf s.cut.live
  let s1 := fset PAIR_STATUS PAIR_STATUS.sched_match (b2n (s.pairSt.partnerSched = some sched)) (setReg PAIR_SCHED sched s)
  if s.cut.romLive || !s.paired then enterSolo (cutF old PAIR_CFG PAIR_CFG.rank) s1
  else if s.pair = .solo then
    if s.pairSt.higherAt.any (fun t => decide (s.now ≤ t + 1000000)) then enterStandby s1 else enterActive s1
  else s1

/-! ### Claim frames (R442 to R444) -/

/-- The start of the slot at or before now: 20,000 + 50,000 j ns after the last frame boundary, shifted in ACTIVE by the fire offset. -/
def State.slotStart (s : State) : Option Nat :=
  let base : Int := (s.frameEdge : Int) + 20000 + (s.pairOffset * 16) / 2048
  if (s.now : Int) < base then none else some (base + ((s.now : Int) - base) / 50000 * 50000).toNat

/-- The unit claims in a slot that starts at `t`. -/
def State.claimsAt (s : State) (t : Nat) : Bool :=
  match s.pair with
  | .solo | .active => s.mode ≠ .loader && s.mode ≠ .off
  | .standby => s.pairSt.promoteAt.any (fun e => decide (e + 3000 ≤ t) && decide (t < e + 1800000))
  | .withdrawn => false

/-- A slot of the unit comes, and it pulls CLAIM_SYN. -/
def execClaimFrame (s : State) : Out :=
  .next (match s.slotStart with
    | none => s
    | some t =>
      if s.time.running && s.claimsAt t && decide (s.now < t + 12500) && s.pairSt.slot ≠ some t then
        setPair { s.pairSt with slot := some t, claims := true, claimCarat := s.carat } s
      else s)

/-- The 24 bits of a claim frame with a carat. -/
def claimBits (carat : Nat) : Nat := carat * 256 + crc8 [carat / 256 % 256, carat % 256]

/-- A promotion ends without a win (R447). -/
def refusePromotion (code : Nat) (s : State) : State :=
  flag PAIR_FLAGS PAIR_FLAGS.promote_refused
    (fsets PAIR_STATUS [(PAIR_STATUS.refusal, code), (PAIR_STATUS.promoting, 0)] (setPair { s.pairSt with promoteAt := none } s))

/-- A fire of a port, and one of a slot, moved by an offset in girdle LSB. -/
def PortFire.shift (d : Int) (f : PortFire) : PortFire :=
  let v := ((f.ns * 128 + f.q : Nat) + d).toNat
  { f with ns := v / 128, q := v % 128 }
def Fire.shift (d : Int) (f : Fire) : Fire :=
  let v := ((f.ns * 128 + f.q : Nat) + d).toNat
  { f with ns := v / 128, q := v % 128, lag := 0 }

/-- The slot belongs to a pixel that begins at or after `h`. -/
def State.slotFrom (s : State) (h : Nat) (sl : Slot) : Bool := decide (h + sl.k * seqPeriod (shotTable (s.seq sl.seq).plane) sl.seq ≤ sl.tn)

/-- What has been placed of the pixels that the promoted unit drives gains the fire offset (R452, R459). -/
def offsetPlaced (d : Int) (h : Nat) (s : State) : State :=
  let move := fun sl : Slot => if s.slotFrom h sl then { sl with fires := sl.fires.map (Fire.shift d) } else sl
  let s1 := { s with tx := { s.tx with ports := s.tx.ports.map (fun e =>
    (e.1, { e.2 with fires := e.2.fires.map (fun f => if h ≤ f.pix then f.shift d else f) })) } }
  forUp (fun k t => let b := t.blk k
    if b.posts = [] ∧ b.slots = [] then t else setBlk k { b with posts := b.posts.map move, slots := b.slots.map move } t) 0 48 s1

/-- The promoted unit has won its frame: the handover instant H is now (R447, R452, R455, R459). -/
def promoted (carat : Nat) (s : State) : State :=
  let offset := divRoundI (sext 16 (s.fget PAIR_SKEW PAIR_SKEW.skew)) 16
  let s1 := enterPair 1 (some carat) s
  let s2 := offsetPlaced offset s.now (setPair { s1.pairSt with handover := some s.now, fireOffset := offset } s1)
  let s3 := lumpSf 1 s.tick (lumpSf 0 s.tick s2)
  flag PAIR_FLAGS PAIR_FLAGS.promoted s3

/-- A claiming unit has lost its frame, or has read a higher carat (R444, R445, R447). -/
def outclaimed (s : State) : State :=
  match s.pair with
  | .standby => if s.pairSt.promoteAt.isSome then refusePromotion 5 s else s
  | .active => if s.pairSt.unproven then enterStandby s else enterWithdrawn s
  | .solo => enterWithdrawn s
  | .withdrawn => s

/-- The unit's own claim frame has reached its latch instant, 12.5 µs after its slot (R443). -/
def State.ownLatch (s : State) : Bool := s.pairSt.claims && s.pairSt.slot.any (fun t => decide (t + 12500 ≤ s.now))

/-- The latch instant of a claim frame whose bits read as `bus`. The unit's own frame stands for the carat with which it began; an ACTIVE unit
keeps the carat with which it has won (R441, R442). -/
def execClaimLatch (bus : BitVec 24) (s : State) : Out :=
  .next (let b := bus.toNat
    let mine := s.ownLatch
    let own := if mine then s.pairSt.claimCarat else s.carat
    let c := b / 256
    let ok := decide (claimBits c = b)
    let lost := mine && decide (b ||| claimBits own ≠ claimBits own)
    let s1 := setPair { s.pairSt with
      claims := s.pairSt.claims && !mine, validAt := if ok then some s.now else s.pairSt.validAt, higherAt := if ok ∧ own < c then some s.now else s.pairSt.higherAt } s
    let s2 := if ok then fset PAIR_STATUS PAIR_STATUS.bus_carat c s1 else s1
    if mine && !lost && !ok then
      flag PAIR_FLAGS PAIR_FLAGS.claim_crc (bumpOvf PAIR_CNT PAIR_CNT.claim_crc_count 1 PAIR_FLAGS PAIR_FLAGS.cnt_ovf.lo s2)
    else if mine && decide (b = claimBits own) then
      if s.pair = .standby then (if s.pairSt.promoteAt.isSome then promoted own s2 else s2)
      else setPair { s2.pairSt with unproven := false, won := if s.pair = .active then some own else s2.pairSt.won } s2
    else if lost then outclaimed s2
    else if ok && decide (own < c) && (s.pair = .solo || s.pair = .active) && s.claimsAt s.now then outclaimed s2
    else s2)

/-- No valid claim frame for 1 ms. -/
def execClaimSilent (s : State) : Out :=
  .next (flagIf (s.paired && decide (s.pairSt.validAt.getD 0 + 1000000 ≤ s.now)) PAIR_FLAGS PAIR_FLAGS.claim_silent s)

/-! ### Promotion (R447) -/

/-- PROMOTE_N has been low for 2 µs. -/
def execPromoteRequest (s : State) : Out :=
  .next (let bus := s.fget PAIR_STATUS PAIR_STATUS.bus_carat
    if s.pair ≠ .standby then refusePromotion 1 s
    else if s.pairSt.statusAt.isSome ∧ (nth 0 s.pairSt.status 0).toNat / 2 ^ 10 % 8 = cutF s.cut.live PAIR_CFG PAIR_CFG.rank then
      refusePromotion 2 (flag PAIR_FLAGS PAIR_FLAGS.rank_conflict s)
    else if bus / 8 = 8191 then refusePromotion 3 s
    else fset PAIR_STATUS PAIR_STATUS.promoting 1 (setPair { s.pairSt with promoteAt := some (s.now - 2000) } s))

/-- 1.8 ms after the edge without a win; a frame in progress then runs to its end (R442, R459). -/
def execPromoteTimeout (s : State) : Out :=
  .next (if s.pairSt.promoteAt.any (fun e => decide (e + 1800000 ≤ s.now)) && !(s.pairSt.claims && s.pairSt.slot.any (fun t => decide (s.now ≤ t + 12500)))
    then refusePromotion 4 s else s)

/-- The promoted unit drives SCN_EXC of an axis from H + 1 µs at the level and polarity it last sensed (R459). -/
def execExcitationTakeover (axis : Fin 8) (level : BitVec 8) (s : State) : Out :=
  .next (let a := axis.val
    let x := s.axis a
    let w := s.reg (SC_AXIS_EXC a)
    let mode := cutF (s.planeOf tgtSc) (SC_AXIS_CFG a) SC_AXIS_CFG.mode
    if s.pair = .active && s.pairSt.handover.any (fun h => decide (h + 1000 ≤ s.now)) && s.scRuns && cellOn (s.planeOf tgtSc) 3 0 a
        && !x.on && !x.fault && getF SC_AXIS_EXC.exc_on w = 1 && (mode = 1 || mode = 2) then
      reportExcitation a s.now (fset (SC_AXIS_STATUS a) SC_AXIS_STATUS.exc_state (if x.reversed then 2 else 1)
        (setAxis a { x with on := true, level := min 150 level.toNat } s))
    else s)

/-! ### Skew and hops (R452) -/

/-- Every pixel in progress carries TIME_SUSPECT. -/
def suspectOpen (s : State) : State :=
  let mark := fun p : Pixel => if p.inProgress then { p with flags := p.flags ||| pfTime } else p
  forUp (fun k t => let b := t.blk k
    if b.bufX.isNone && b.bufY.isNone then t else setBlk k { b with bufX := b.bufX.map mark, bufY := b.bufY.map mark } t) 0 48 s

/-- A standby times the falling edge of CLAIM_SYN. A jump reaches the pixels in progress. -/
def execClaimSynEdge (units : BitVec 11) (s : State) : Out :=
  .next (if s.pair ≠ .standby then s
    else
      let delay := sext 16 (cutReg s.cut.live PAIR_DELAY).toNat
      let rel : Int := ((s.now * 2048 + units.toNat : Nat) : Int) - ((s.frameEdge + 20000) * 2048 : Nat) - delay
      let raw := rel - max 0 (divRoundI rel 102400000) * 102400000
      let skew := sext 16 (s.fget PAIR_SKEW PAIR_SKEW.skew)
      if s.fget PAIR_SKEW PAIR_SKEW.valid = 1 ∧ 512 < (raw - skew).natAbs then
        flag PAIR_FLAGS PAIR_FLAGS.skew_jump (suspectOpen (setPair { s.pairSt with skewBad := true } s))
      else setPair { s.pairSt with skewBad := false, raws := (raw :: s.pairSt.raws).take 64 } s)

/-- A frame boundary refreshes the skew in force. A mean that its 16 bits do not hold is free. -/
def refreshSkew (s : State) : State :=
  if s.pairSt.raws.length < 64 then s
  else
    let m := divRoundI (s.pairSt.raws.foldl (· + ·) 0) 64
    if -32768 ≤ m ∧ m < 32768 then fsets PAIR_SKEW [(PAIR_SKEW.skew, toBits 16 m), (PAIR_SKEW.valid, 1)] s
    else fsets PAIR_SKEW [(PAIR_SKEW.skew, s.free.toNat), (PAIR_SKEW.valid, 1)] (drawFree s)

/-- A standby takes the partner's hop count at its next frame boundary, before the rules of that boundary. -/
def takeHop (s : State) : State :=
  match s.pairSt.hop with
  | some h => if s.pair = .standby then setReg TX_CODE_HOPS (w32 h) (setPair { s.pairSt with hop := none } s) else s
  | none => s

/-! ### The heartbeat (R449) -/

/-- C_k + 5 µs: HEARTBEAT toggles while the unit is well. -/
def execHeartbeatToggle (s : State) : Out :=
  .next (match s.sf.tick with
    | none => s
    | some k =>
      if !s.time.running || s.pairSt.beatK = some k || s.now < k * 100000 + 5000 then s
      else
        let both := fun n : Nat => s.sfState 0 = n && s.sfState 1 = n
        let well := !s.pairSt.chipSince && !s.chipFault && (match s.pair with
          | .solo => both 4
          | .active => both 4 && s.pairSt.budgetTick = some k
          | .standby => both 5
          | .withdrawn => false)
        setPair { s.pairSt with beatK := some k, chipSince := s.chipFault,
                                heartbeat := if well then !s.pairSt.heartbeat else s.pairSt.heartbeat } s)

/-! ### Messages out (R450, R451) -/

/-- Word 0 of a message of a type: pair state and rank. -/
def State.messageHead (s : State) (type : Nat) : Word := w32 (type + s.pair.code * 256 + cutF s.cut.live PAIR_CFG PAIR_CFG.rank * 1024)

/-- A message of a type: header words, then the body. -/
def sendMessage (type : Nat) (body : List Word) (s : State) : State :=
  let n := look (fun _ => 0) s.pairSt.sent type
  let head := [s.messageHead type, w32 n, s.reg PAIR_SCHED, s.reg SF_SET_DIGEST]
  let next := (n + 1) % 2 ^ 32
  let s1 := setPair { s.pairSt with sent := put (fun _ => 0) s.pairSt.sent type next } s
  let s2 := if next = 0 then wrapRecord 0 4 0 s1 else s1
  sendPacket (s2.packet 5 0 0 (head ++ body)) s2

/-- Some lane of the route of PAIR is UP, so that a message of it is queued and not dropped. -/
def State.pairQueues (s : State) : Bool :=
  match laneMask s.cut.live 5 0 with
  | some m => s.upOf m ≠ []
  | none => false

/-- BUDGET: every sum of both channels at C_k. -/
def execBudgetSend (s : State) : Out :=
  .next (match s.sf.tick with
    | none => s
    | some k =>
      if s.pair ≠ .active || s.pairSt.budgetSent = some k then s
      else
        let set := s.sf.set.getD []
        let body := (List.range 2).flatMap (fun x => (List.range 65).flatMap (fun e => (List.range 3).flatMap (fun w =>
          let v := (s.sfc x).sum set k w e
          [w32 v, w32 (v / 2 ^ 32)])))
        sendMessage 1 body (setPair { s.pairSt with budgetSent := some k, budgetTick := if s.pairQueues then some k else s.pairSt.budgetTick } s))

/-- The loop of slot `i` of a LOOPS message. -/
def loopSlot (i : Nat) : Nat := if i < 8 then i else 48 + i

/-- The loop controls a resonant axis. -/
def State.loopResonant (s : State) (l : Nat) : Bool := l < 8 && LSet.kind (s.loop_ l).set = 1

/-- LOOPS. -/
def execLoopsSend (s : State) : Out :=
  .next (if s.pair ≠ .active || s.now < s.pairSt.loopsAt + 20000 then s
    else
      let body := (List.range 16).flatMap (fun i =>
        let l := loopSlot i
        let x := s.loop_ l
        let sp := toBits 40 x.sp
        let st := s.loopState l
        let r := s.loopResonant l
        [w32 (toBits 24 x.uPrev), if r then w32 ((s.reg (SC_AXIS_AMP l)).toNat % 2 ^ 24) else w32 sp, w32 (toBits 32 x.v),
         w32 ((if r then 0 else sp / 2 ^ 32) + st * 256 + b2n (st ≠ 0) * 2048)])
      sendMessage 2 body (setPair { s.pairSt with loopsAt := s.now } s))

/-- Words 4 to 11 of a STATUS. -/
def State.statusBody (s : State) : List Word :=
  let masked := fun (i : Nat) => w32 (bitsBelow (fun e => (s.port (32 * i + e)).masked) 32)
  [w32 (s.carat % 65536 + s.fget PAIR_STATUS PAIR_STATUS.bus_carat * 65536), s.reg TX_CODE_HOPS, masked 0, masked 1,
   w32 (s.sfState 0 + s.sfState 1 * 16 + b2n s.chipFault * 256), s.reg PAIR_SKEW, w32 s.mode.code, s.reg FRAME_NUM]

/-- The content of a STATUS but for its sequence number: words 0, 2 and 3, and its body. -/
def State.statusContent (s : State) : List Word := [s.messageHead 3, s.reg PAIR_SCHED, s.reg SF_SET_DIGEST] ++ s.statusBody

/-- STATUS: every 1 ms, and on any change of its content. -/
def execStatusSend (s : State) : Out :=
  .next (if s.paired && (decide (s.pairSt.statusSentAt + 1000000 ≤ s.now) || decide (s.statusContent ≠ s.pairSt.statusSent)) then
      sendMessage 3 s.statusBody (setPair { s.pairSt with statusSentAt := s.now, statusSent := s.statusContent } s)
    else s)

/-! ### Summaries (R457, R458) -/

/-- Region `r` of two summaries disagrees. -/
def summaryDiffers (tol frac : Nat) (a b : List Word) (r : Nat) : Bool :=
  let n := fun (l : List Word) => (nth 0 l (4 * r + 1)).toNat
  let sum := fun (l : List Word) => (nth 0 l (4 * r + 2)).toNat + (nth 0 l (4 * r + 3)).toNat * 2 ^ 32
  let far := fun (x y : Nat) => max x y - min x y
  decide (frac * max (n a) (n b) < far (n a) (n b) * 256)
    || (0 < n a && 0 < n b && decide (tol < far (sum a / n a) (sum b / n b)))

/-- The own summary of frame `f` is compared with the partner's of frame f + frame_delta once both are held. -/
def compareSummary (f : Nat) (s : State) : State :=
  match s.pairSt.frameDelta with
  | none => s
  | some d =>
    let g := toBits 32 ((f : Int) + d)
    let own := look (fun _ => (0, [])) s.pairSt.own f
    let other := look (fun _ => (0, [])) s.pairSt.theirs g
    if own.2 = [] ∨ other.2 = [] then s
    else
      let cfg := cutReg s.cut.live PAIR_CFG
      let bits := bitsBelow (summaryDiffers (getF PAIR_CFG.cmp_tol cfg) (getF PAIR_CFG.cmp_frac cfg) own.2 other.2) 6
      flagIf (bits ≠ 0) PAIR_FLAGS PAIR_FLAGS.cmp_disagree (fsets PAIR_CMP [(PAIR_CMP.regions, bits), (PAIR_CMP.frame, f)] s)

/-- No pixel of a frame is still to be closed or read, nor to be placed. -/
def State.frameDone (s : State) (f : Nat) : Bool :=
  allBelow (fun k =>
      let b := s.blk k
      (b.bufX.toList ++ b.bufY.toList).all (fun p => p.frame ≠ f || (p.closedAt.isSome && decide (16 ≤ p.read)))
        && b.opens.all (fun o => o.frame ≠ f)) 48
    && allBelow (fun q => !(s.seq q).placing || (s.seq q).frame ≠ f) 64

/-- SUMMARY of a frame of pixels whose last has closed in every region, whether or not the device still shoots. -/
def execSummarySend (frame : Word) (s : State) : Out :=
  .next (let f := frame.toNat
    let recent := f = s.frameNum ∨ (f + 1) % 2 ^ 32 = s.frameNum
    if s.paired && s.pairSt.shotFrames.contains f && decide recent && s.frameDone f && (look (fun _ => (0, [])) s.pairSt.own f).2 = [] then
      let words := (List.range 6).flatMap (fun r =>
        let (n, solid, sum) := look (fun _ => (0, 0, 0)) s.pairSt.tally (f * 8 + r)
        [w32 n, w32 solid, w32 sum, w32 (sum / 2 ^ 32)])
      let s1 := setPair { s.pairSt with own := put (fun _ => (0, [])) s.pairSt.own f (s.now, words),
                                        tally := clearWhere (fun k => k / 8 = f) s.pairSt.tally } s
      compareSummary f (sendMessage 4 (frame :: words) s1)
    else s)

/-- A summary that has waited 10 ms for its counterpart is not compared any more. -/
def execSummaryCompareTimeout (frame : Word) (s : State) : Out :=
  .next (let old := fun (l : Sparse (Nat × List Word)) => l.filter (fun e => !(e.1 = frame.toNat && decide (e.2.1 + 10000000 ≤ s.now)))
    setPair { s.pairSt with own := old s.pairSt.own, theirs := old s.pairSt.theirs } s)

/-! ### Messages in (R450, R454, R455) -/

/-- A channel of a standby takes the sums of a BUDGET, each as one lump, and its budget state is fresh again (R426, R455). -/
def takeBudget (x : Nat) (ws : List Word) (s : State) : State :=
  if !s.sfOn x then s
  else
    let set := s.sf.set.getD []
    let sum := fun (w e : Nat) => (nth 0 ws (4 + 390 * x + 6 * e + 2 * w)).toNat + (nth 0 ws (5 + 390 * x + 6 * e + 2 * w)).toNat * 2 ^ 32
    let s1 := setCause x 7 false (setSfc x ((s.sfc x).lump set s.tick sum) s)
    if (s1.sfc x).over set s1.tick (List.range 65) then raiseSf x 1 s1 else s1

/-- BUDGET arrives. -/
def onBudget (ws : List Word) (s : State) : State :=
  if s.pair ≠ .standby then s
  else if nth 0 ws 2 ≠ s.reg PAIR_SCHED ∨ nth 0 ws 3 ≠ s.reg SF_SET_DIGEST then flag PAIR_FLAGS PAIR_FLAGS.sched_mismatch s
  else if (nth 0 ws 0).toNat / 256 % 4 ≠ 1 then s
  else takeBudget 1 ws (takeBudget 0 ws (setPair { s.pairSt with budgetAt := some s.now } s))

/-- A loop follows the active unit's. -/
def followLoop (i : Nat) (ws : List Word) (s : State) : State :=
  let l := loopSlot i
  let w := fun (j : Nat) => (nth 0 ws (4 + 4 * i + j)).toNat
  if s.loopState l = 0 then s
  else
    let x := { s.loop_ l with uPrev := sext 24 (w 0), first := true, keepSp := true }
    if s.loopResonant l then setReg (SC_AXIS_AMP l) (w32 (w 1 % 2 ^ 24)) (setLoop l x s)
    else setLoop l { x with sp := sext 40 (w 1 + w 3 % 256 * 2 ^ 32), v := sext 32 (w 2) } s

/-- LOOPS arrives. -/
def onLoops (ws : List Word) (s : State) : State :=
  if s.pair = .standby ∨ s.pair = .withdrawn then forUp (fun i t => followLoop i ws t) 0 16 s else s

/-- STATUS arrives. A frame_delta that it makes known, or changes, lets the summaries held be compared (R457). -/
def onStatus (ws : List Word) (s : State) : State :=
  let s1 := setPair { s.pairSt with
    status := ws, statusAt := some s.now, hop := some (nth 0 ws 5).toNat,
    frameDelta := if s.time.edgeSeen ∧ s.now ≤ s.frameEdge + 100000 then some ((nth 0 ws 11).toNat - (s.frameNum : Int)) else s.pairSt.frameDelta } s
  let s1 := if s1.pairSt.frameDelta = s.pairSt.frameDelta then s1 else (s.pairSt.own.map Prod.fst).foldl (fun t f => compareSummary f t) s1
  flagIf (s1.paired && (nth 0 ws 0).toNat / 2 ^ 10 % 8 = cutF s1.cut.live PAIR_CFG PAIR_CFG.rank) PAIR_FLAGS PAIR_FLAGS.rank_conflict s1

/-- SUMMARY arrives. -/
def onSummary (ws : List Word) (s : State) : State :=
  let g := (nth 0 ws 4).toNat
  let s1 := setPair { s.pairSt with theirs := put (fun _ => (0, [])) s.pairSt.theirs g (s.now, ws.drop 5) } s
  match s1.pairSt.frameDelta with
  | some d => compareSummary (toBits 32 ((g : Int) - d)) s1
  | none => s1

/-- A message whose number is new is taken; a number skipped counts. -/
def onMessage (ws : List Word) (s : State) : State :=
  let type := (nth 0 ws 0).toNat % 256
  let seq := (nth 0 ws 1).toNat
  let last := look (fun _ => 0) s.pairSt.accepted type
  let diff := (seq + 2 ^ 32 + 1 - last) % 2 ^ 32
  if ws.length < 4 ∨ type = 0 ∨ 4 < type then s
  else if last ≠ 0 ∧ (diff = 0 ∨ 2 ^ 31 < diff) then s
  else
    let s1 := setPair { s.pairSt with accepted := put (fun _ => 0) s.pairSt.accepted type (seq + 1), partnerSched := some (nth 0 ws 2) } s
    let s2 := fset PAIR_STATUS PAIR_STATUS.sched_match (b2n (nth 0 ws 2 = s1.reg PAIR_SCHED)) s1
    let s3 := if last ≠ 0 ∧ 1 < diff then
        flag PAIR_FLAGS PAIR_FLAGS.seq_gap (bumpOvf PAIR_CNT PAIR_CNT.seq_gap_count 1 PAIR_FLAGS PAIR_FLAGS.cnt_ovf.lo s2)
      else s2
    match type with
    | 1 => onBudget ws s3
    | 2 => onLoops ws s3
    | 3 => onStatus ws s3
    | _ => onSummary ws s3

/-- The oldest PAIR packet accepted on a lane is taken. -/
def execPairMessage (lane : Fin 32) (s : State) : Out :=
  .next (let r := takePacket lane 5 s
    match r.2 with
    | some ws => onMessage ws r.1
    | none => r.1)

/-! ### Host writes (R446, R460) -/

/-- `PAIR_CMD`.rejoin and withdraw. -/
def pairRejoin (s : State) : State := if s.pair = .withdrawn then enterStandby s else s
def pairWithdraw (s : State) : State := if s.mode ≠ .loader ∧ (s.pair = .solo ∨ s.pair = .active) then enterWithdrawn s else s

/-- A write of `PAIR_CMD`; rejoin is accepted in CONFIGURED only. -/
def pairCommand (w : Word) (s : State) : State :=
  let s1 := if w.getLsbD 0 && s.mode = .configured then pairRejoin s else s
  if w.getLsbD 1 then pairWithdraw s1 else s1

def execRejoin (q : Requester) (s : State) : Out := .next (hostWriteIf (s.mode = .configured) q PAIR_CMD pairRejoin s)
def execWithdraw (q : Requester) (s : State) : Out := .next (hostWrite q PAIR_CMD pairWithdraw s)

/-- `PAIR_STATUS` as it reads (R461). -/
def State.pairStatus (s : State) : Word :=
  let recent := fun (t : Option Nat) (d : Nat) => t.any (fun t => decide (s.now ≤ t + d))
  setF PAIR_STATUS.claiming (b2n (s.claimsAt s.now)) (setF PAIR_STATUS.partner_seen (b2n (recent s.pairSt.statusAt 10000000))
    (setF PAIR_STATUS.budget_fresh (b2n (recent s.pairSt.budgetAt 300000)) (s.reg PAIR_STATUS)))

end Sys2Proof.Machine
end

