-- ==== Sys2Proof/Machine/Recorder.lean ====
section
/-!
DEFINITION. The event recorders at work (chapter 16): region rings, copies to the chip recorder, the mirror in flash, reading by cursor,
and CLEAR.
-/
namespace Sys2Proof.Machine

/-- Change the chip recorder. -/
def setChip (c : ChipRecorder) (s : State) : State := { s with mgmt := { s.mgmt with chip := c } }

/-! ### Writing (R498 to R501) -/

/-- A copy of a record reaches the chip recorder: it is stamped with the chip sequence, and waits for its mirror in flash. -/
def chipWrite (e : Rec) (s : State) : State :=
  let c := s.mgmt.chip
  let r := { e with w7 := c.seq }
  let waiting := c.unmirrored ++ [r]
  let lost := 4096 < waiting.length
  let next := c.seq + 1
  let s1 := setChip { c with ring := pushRing 4096 c.ring r, seq := next, unmirrored := if lost then waiting.drop 1 else waiting } s
  let s2 := flagIf lost REC_STATUS REC_STATUS.flash_lost s1
  if next = 0 then wrapRecord 0 1 0 s2 else s2

/-- The entry that leaves the FIFO of a region frees its place for a LOST record (R499). -/
def Recorder.next (x : Recorder) (lost : Rec) : Recorder :=
  match x.fifo with
  | [] => { x with writing := none }
  | e :: rest =>
    if x.dropped = 0 then { x with writing := some e, fifo := rest }
    else { x with writing := some e, fifo := rest ++ [lost], dropped := 0 }

/-- The write in progress in a region's recorder ends, and the recorder goes on as `next` says. -/
def endWrite (r : Nat) (next : Recorder → Recorder) (s : State) : State :=
  let x := s.recorder r
  match x.writing with
  | none => s
  | some e =>
    let copy := s.propagates e
    let e1 := { e with w7 := x.seq, w6 := if copy then setBit 25 e.w6 else e.w6 }
    let y := { x with ring := pushRing 64 x.ring e1, seq := x.seq + 1 }
    let s1 := setRecorder r (next y) s
    let s2 := if copy then setChip { s1.mgmt.chip with copies := s1.mgmt.chip.copies ++ [e1] } s1 else s1
    if x.seq + 1 = 0 then wrapRecord r 2 r s2 else s2

/-- The write in progress ends, and the next entry leaves the FIFO; what was dropped since becomes a LOST record (R499). -/
def recordWritten (r : Nat) (s : State) : State :=
  endWrite r (fun y => y.next (s.mkRec (2 ^ 31 + r * 2 ^ 27 + 1) y.dropped r)) s

def execRecordWrite (region : Fin 16) (s : State) : Out := .next (recordWritten region s)

/-- The oldest copy on its way reaches the chip recorder (R500). -/
def execRecordCopy (s : State) : Out :=
  .next (match s.mgmt.chip.copies with
    | [] => s
    | e :: rest => chipWrite e (setChip { s.mgmt.chip with copies := rest } s))

/-- The firmware mirrors the oldest record not yet in flash; it rests during a pause (R501, R522). -/
def execFlashMirror (s : State) : Out :=
  .next (let c := s.mgmt.chip
    match c.unmirrored with
    | [] => s
    | e :: rest => if s.fget FW_STATUS FW_STATUS.pausing = 1 then s else setChip { c with unmirrored := rest, flash := pushRing 65536 c.flash e, flashSeq := e.w7 + 1 } s)

/-- The firmware saves the operating hours. -/
def execHoursSave (s : State) : Out := .next (setChip { s.mgmt.chip with hoursSaved := s.mgmt.chip.hours } s)

/-! ### Reading (R502) -/

/-- The store a requester has selected: its records, oldest first, and its next sequence. -/
def State.store (s : State) (src : Nat) : List Rec × Word :=
  if src = 0xE then (s.mgmt.chip.ring, s.mgmt.chip.seq)
  else if src = 0xF then (s.mgmt.chip.flash, s.mgmt.chip.flashSeq)
  else ((s.recorder src).ring, (s.recorder src).seq)

/-- `REC_HEAD` and `REC_OLDEST` of a store. -/
def storeOldest (st : List Rec × Word) : Word := match st.1 with | e :: _ => e.w7 | [] => st.2

/-- What a cursor finds: the record, and whether the cursor lay behind the store. A cursor in a gap of the flash ring finds the next
record held. -/
def recFind (st : List Rec × Word) (cursor : Word) : Option (Rec × Bool) :=
  let d := (st.2 - cursor).toNat
  let h := (st.2 - storeOldest st).toNat
  if d = 0 ∨ 2 ^ 31 < d then none
  else if d ≤ h then (st.1.find? (fun e => decide ((e.w7 - cursor).toNat < d))).map (fun e => (e, false))
  else st.1.head?.map (fun e => (e, true))

/-- The words of a record. -/
def Rec.words (e : Rec) : List Word := [e.w0, e.w1, e.w2, e.w3, e.w4, e.w5, e.w6, e.w7]

/-- A read of `REC_DATA_0` latches a record and moves the cursor past it; at or beyond the head it latches zeros. -/
def recDataRead (q : Nat) (s : State) : State :=
  let r := s.req q
  let zeros := List.replicate 8 (0 : Word)
  if r.recSel = 0xF then
    match r.fetched with
    | some e => setReq q { r with fetched := none, recData := e.words, recCursor := e.w7 + 1 } s
    | none => setReq q { r with recData := zeros } s
  else
    match recFind (s.store r.recSel) r.recCursor with
    | none => setReq q { r with recData := zeros } s
    | some (e, behind) =>
      flagIf behind REC_STATUS REC_STATUS.skipped (setReq q { r with recData := e.words, recCursor := e.w7 + 1 } s)

/-- A read of `REC_DATA_0` completes with its word. -/
def execRecDataRead (q : Requester) (s : State) : Out :=
  .next (if !s.answers then s
    else
      let s1 := recDataRead q s
      complete q 0 (REC_DATA 0) (nth 0 (s1.req q).recData 0) s1)

/-- What the firmware serves is refused with BUSY during a pause (R522). -/
def notPausing (f : State → State) (s : State) : State :=
  if s.fget FW_STATUS FW_STATUS.pausing = 1 then flag FW_FLAGS FW_FLAGS.cmd_refused (fset FW_RESULT FW_RESULT.refusal 1 s) else f s

/-- `REC_CMD`.fetch. -/
def recFetch (q : Nat) (s : State) : State :=
  notPausing (fun s => fset REC_STATUS REC_STATUS.busy 1 { s with mgmt := { s.mgmt with fetching := s.mgmt.fetching ++ [(q, (s.req q).recCursor)] } }) s

def execFetch (q : Requester) (s : State) : Out := .next (hostWrite q REC_CMD (recFetch q) s)

/-- The oldest FETCH is answered from flash. -/
def execFetchDone (s : State) : Out :=
  .next (match s.mgmt.fetching with
    | [] => s
    | (q, cursor) :: rest =>
      let s1 := fset REC_STATUS REC_STATUS.busy (b2n (rest ≠ [])) { s with mgmt := { s.mgmt with fetching := rest } }
      match recFind (s1.store 0xF) cursor with
      | none => setReq q { s1.req q with fetched := none } s1
      | some (e, behind) => flagIf behind REC_STATUS REC_STATUS.skipped (setReq q { s1.req q with fetched := some e } s1))

/-! ### CLEAR (R503) -/

/-- A region's recorder is emptied once its write in progress has completed; the CLEARED record is the next it writes, and frees no entry of
the FIFO. -/
def clearRegion (code src r : Nat) (s : State) : State :=
  if isRegion r && s.domGood (domainAt (r * 0x1000000 + 0xFF0000)) then
    let cleared := s.mkRec (2 ^ 31 + r * 2 ^ 27 + 4) code src
    let s1 := if (s.recorder r).writing.isSome then s else setRecorder r { s.recorder r with writing := some cleared } s
    let s2 := if (s.recorder r).writing.isSome then endWrite r (fun y => { y with writing := some cleared }) s else s1
    setRecorder r { s2.recorder r with ring := [] } s2
  else s

/-- The chip recorder is emptied. -/
def clearChip (code src : Nat) (s : State) : State :=
  chipWrite (s.mkRec (2 ^ 31 + 4) code src) (setChip { s.mgmt.chip with ring := [], unmirrored := [] } s)

/-- `REC_CMD`.clear. -/
def recClear (q : Nat) (s : State) : State :=
  notPausing (fun s =>
    let src := (s.req q).recSel
    let code := ownerCode q
    if src = 0xF then
      forUp (clearRegion code src) 0 14 (clearChip code src (setChip { s.mgmt.chip with flash := [] } s))
    else if src = 0xE then clearChip code src s
    else clearRegion code src src s) s

/-- CLEAR needs an open presence window (R12, R503). -/
def execClear (q : Requester) (s : State) : Out := .next (hostWriteIf (s.fget FW_STATUS FW_STATUS.presence = 1) q REC_CMD (recClear q) s)

end Sys2Proof.Machine
end

