-- ==== Sys2Proof/Machine/Thermal.lean ====
section
/-!
DEFINITION. The housekeeping round (chapter 15): temperature channels and their crossings, junction protection, and the measurement of
the rails.
-/
namespace Sys2Proof.Machine

/-! ### Channels (R464, R465) -/

/-- Channel `t` counts the remote inputs 0 to 15 first, then the on-die sensors in order of region. The region of an on-die channel. -/
def dieRegion (t : Nat) : Nat := if t < 23 then t - 16 else t - 15

/-- The record of a channel. -/
def State.hkChan (s : State) (t : Nat) : HkChan := look (fun _ => {}) s.hk.chans t
def setHkChan (t : Nat) (x : HkChan) (s : State) : State := { s with hk := { s.hk with chans := put (fun _ => {}) s.hk.chans t x } }

/-- The power domain of an on-die sensor. -/
def sensorDomain (r : Nat) : Nat :=
  match r with
  | 0 => 66 | 1 => 65 | 2 => 67 | 3 => 64 | 4 => 58 | 5 => 59 | 6 => 63 | _ => 40 + r

/-- A result word that only says INVALID. -/
def invalidWord : Word := BitVec.ofNat 32 (2 ^ resInvalid)

/-- A result that a limit, a table and junction protection may use (R318, R467). -/
def usable (w : Word) : Bool := !(w.getLsbD resInvalid || w.getLsbD resStale || w.getLsbD resSettling || w.getLsbD resCurve)

/-- The lowest-numbered entry of converter `k` that satisfies `p`, by its control word. -/
def State.entryOf (s : State) (k : Nat) (p : Nat → Bool) : Option Nat := (adcSeq (s.adc k).pl k).findIdx? (fun e => p (Ent.ctl e))

/-- The result of an entry whose sampling instant lies within the last 10 ms. -/
def State.freshResult (s : State) (k e : Nat) : Option Word :=
  if s.resAge k e ≤ 10000000 then some (s.reg (ADC_RES_VAL k e)) else none

/-- The result word of an on-die sensor from what it converted: its value, INVALID where its own check failed, and curve_range outside
−55 °C to +150 °C (R465). -/
def dieWord (w : Word) : Word :=
  resWord (resValue w) (resBit (w.getLsbD resInvalid) resInvalid + resBit (decide (resValue w < -55000 ∨ 150000 < resValue w)) resCurve)

/-- What a channel reads in this round: none while it is inactive, else a word, INVALID where there is no result. `die` holds what the
on-die sensors converted. -/
def State.channelWord (s : State) (die : List (Fin 14 × Word)) (t : Nat) : Option Word :=
  if t < 16 then
    match s.entryOf 52 (fun c => Ent.input c = t && decide (1 ≤ Ent.curve c ∧ Ent.curve c ≤ 7)) with
    | none => none
    | some e => some ((s.freshResult 52 e).getD invalidWord)
  else
    let r := dieRegion t
    if !s.domOn (sensorDomain r) then none
    else if s.fenced r then some invalidWord
    else some (((die.find? (fun d => d.1.val = r)).map (fun d => dieWord d.2)).getD invalidWord)

/-! ### Crossings (R468 to R470) -/

/-- Flag, active bit and action bit of a crossing: 0 low, 1 high, 2 rate. -/
def crossFlag (kind : Nat) : Fld := ⟨kind, 1⟩
def crossActive (kind : Nat) : Fld := ⟨4 + kind, 1⟩
def crossAction (kind : Nat) : Fld := ⟨1 + kind, 1⟩

/-- The count of a crossing. -/
def HkChan.count (x : HkChan) (kind : Nat) : Nat := if kind = 0 then x.low else if kind = 1 then x.high else x.rate
def HkChan.setCount (x : HkChan) (kind n : Nat) : HkChan :=
  if kind = 0 then { x with low := n } else if kind = 1 then { x with high := n } else { x with rate := n }

/-- A crossing releases, and an action it holds ends. -/
def releaseCross (t kind : Nat) (s : State) : State :=
  let x := s.hkChan t
  let s1 := fset (HK_T_FLAGS t) (crossActive kind) 0 (setHkChan t ((x.setCount kind 0)) s)
  if x.held.testBit kind then
    endCause (.temp t kind) (setHkChan t { s1.hkChan t with held := x.held ^^^ 2 ^ kind } s1)
  else s1

/-- A crossing sets: its flag, and with its action bit the chip-level reaction. -/
def setCross (t kind : Nat) (s : State) : State :=
  let s1 := flag (HK_T_FLAGS t) (crossFlag kind) (fset (HK_T_FLAGS t) (crossActive kind) 1 (setHkChan t ((s.hkChan t).setCount kind 0) s))
  if s1.fget (HK_T_CFG t) (crossAction kind) = 1 then
    let x := s1.hkChan t
    chipReaction (.temp t kind) 1 (HK_T_FLAGS t) (setHkChan t { x with held := x.held ||| 2 ^ kind } s1)
  else s1

/-- One reading counts towards a crossing that is not active, or towards the release of one that is; three running decide. -/
def countCross (t kind : Nat) (beyond back : Bool) (s : State) : State :=
  let x := s.hkChan t
  let active := s.fget (HK_T_FLAGS t) (crossActive kind) = 1
  let n := if (if active then back else beyond) then x.count kind + 1 else 0
  if n < 3 then setHkChan t (x.setCount kind n) s
  else if active then releaseCross t kind s else setCross t kind s

/-- A test is turned off by its limit. -/
def State.crossOff (s : State) (t kind : Nat) : Bool :=
  if kind = 0 then s.fget (HK_T_LIM t) HK_T_LIM.low = 0x8000
  else if kind = 1 then s.fget (HK_T_LIM t) HK_T_LIM.high = 0x7FFF
  else s.fget (HK_T_CFG t) HK_T_CFG.rate_lim = 0

/-- A used reading of `v` in 0.001 °C goes through the tests in the order low, high, rate. -/
def judgeReading (t : Nat) (v : Int) (s : State) : State :=
  let lim := s.reg (HK_T_LIM t)
  let cfg := s.reg (HK_T_CFG t)
  let lo := sext 16 (getF HK_T_LIM.low lim) * 10
  let hi := sext 16 (getF HK_T_LIM.high lim) * 10
  let h : Int := (getF HK_T_CFG.hyst cfg * 100 : Nat)
  let past := (s.hkChan t).hist.find? (fun p => p.1 + 100 = s.now / 10000000)
  let s1 := if s.crossOff t 0 then s else countCross t 0 (decide (v < lo)) (decide (lo + h ≤ v)) s
  let s2 := if s1.crossOff t 1 then s1 else countCross t 1 (decide (hi < v)) (decide (v ≤ hi - h)) s1
  match past with
  | none => setReg (HK_T_RATE t) 0 s2
  | some p =>
    let d := v - p.2
    let r : Int := (getF HK_T_CFG.rate_lim cfg * 10 : Nat)
    let s3 := fsets (HK_T_RATE t) [(HK_T_RATE.rate, toBits 16 (clampI (-32768) 32767 (divRoundI d 10))), (HK_T_RATE.valid, 1)] s2
    if s3.crossOff t 2 then s3 else countCross t 2 (decide (r < d)) (decide (d ≤ r - h)) s3

/-- A skipped reading: a hundred running set stale (R467). -/
def skipReading (t : Nat) (s : State) : State :=
  let x := s.hkChan t
  let n := x.skipped + 1
  let s1 := setReg (HK_T_RATE t) 0 (setHkChan t { x with skipped := if n < 100 then n else 0 } s)
  flagIf (100 ≤ n) (HK_T_FLAGS t) HK_T_FLAGS.stale s1

/-- What a channel adds to the history of its rate test in this round. -/
def pushReading (t : Nat) (v : Int) (s : State) : State :=
  let x := s.hkChan t
  let n := s.now / 10000000
  setHkChan t { x with hist := (n, v) :: x.hist.filter (fun p => decide (n < p.1 + 100)) } s

/-- A round of one channel. One that is inactive or not evaluated has no valid rate; `HK_T_VAL` of an on-die channel reads INVALID while its
region is off or fenced (R465). -/
def roundChannel (die : List (Fin 14 × Word)) (t : Nat) (s : State) : State :=
  match s.channelWord die t with
  | none => setReg (HK_T_RATE t) 0 (if t < 16 then s else setReg (HK_T_VAL t) invalidWord s)
  | some w =>
    if s.fget (HK_T_CFG t) HK_T_CFG.en = 0 then
      setReg (HK_T_RATE t) 0 (if 16 ≤ t ∧ s.fenced (dieRegion t) then setReg (HK_T_VAL t) w s else s)
    else
      let s1 := setReg (HK_T_VAL t) w (setHkChan t { s.hkChan t with readAt := s.now } s)
      if usable w then
        pushReading t (resValue w) (judgeReading t (resValue w) (setHkChan t { s1.hkChan t with skipped := 0 } s1))
      else skipReading t s1

/-! ### Junction protection and the tables' temperature (R318, R471) -/

/-- The usable readings of the on-die channels, with their channels. -/
def State.dieReadings (s : State) (die : List (Fin 14 × Word)) : List (Nat × Int) :=
  ((List.range 13).map (· + 16)).filterMap (fun t =>
    match s.channelWord die t with
    | some w => if usable w then some (t, resValue w) else none
    | none => none)

/-- The hottest of the readings; the lowest channel of equals. -/
def hottestOf : List (Nat × Int) → Option (Nat × Int)
  | [] => none
  | x :: l => match hottestOf l with
    | some y => if x.2 < y.2 then some y else some x
    | none => some x

/-- The consecutive readings of each on-die channel that satisfy `p`: a skipped one neither counts nor breaks, and an inactive channel counts
nothing (R465, R467). -/
def State.countDie (s : State) (rs : List (Nat × Int)) (p : Int → Bool) (m : Sparse Nat) : Sparse Nat :=
  ((List.range 13).map (· + 16)).foldl (fun m t =>
    match rs.find? (fun r => r.1 = t) with
    | some r => put (fun _ => 0) m t (if p r.2 then look (fun _ => 0) m t + 1 else 0)
    | none => if s.domOn (sensorDomain (dieRegion t)) then m else put (fun _ => 0) m t 0) m

/-- Junction protection: three readings of a channel at or above 120.00 °C set it, three readings of every active channel at or below
115.00 °C release it. -/
def junction (rs : List (Nat × Int)) (s : State) : State :=
  let hot := s.countDie rs (fun v => decide (120000 ≤ v)) s.hk.hot
  let cool := s.countDie rs (fun v => decide (v ≤ 115000)) s.hk.cool
  let s1 := { s with hk := { s.hk with hot := hot, cool := cool } }
  let s2 := match hottestOf rs with
    | some h => fsets HK_STATUS [(HK_STATUS.hottest, dieRegion h.1), (HK_STATUS.hottest_val, toBits 16 (divRoundI h.2 10))] s1
    | none => s1
  if s2.fget HK_STATUS HK_STATUS.junction_hot = 0 then
    if hot.any (fun e => decide (3 ≤ e.2)) then
      chipReaction .junction 1 HK_FLAGS (flag HK_FLAGS HK_FLAGS.junction_hot_seen
        (fset HK_STATUS HK_STATUS.junction_hot 1 s2))
    else s2
  else if (List.range 13).all (fun i => !s2.domOn (sensorDomain (dieRegion (i + 16))) || decide (3 ≤ look (fun _ => 0) cool (i + 16))) then
    endCause .junction (fset HK_STATUS HK_STATUS.junction_hot 0 s2)
  else s2

/-- The regions that hold correction tables take the temperature of their sensor (R318). -/
def takeTemps (rs : List (Nat × Int)) (s : State) : State :=
  [1, 3, 8, 9, 10, 11, 12, 13].foldl (fun t r =>
    if !t.domOn (sensorDomain r) then t
    else match rs.find? (fun x => dieRegion x.1 = r) with
      | some x => { t with cal := { t.cal with temp := put (fun _ => 2500) t.cal.temp r (divRoundI x.2 10) } }
      | none => flag CAL_STATUS CAL_STATUS.temp_stale t) s

/-! ### Rails (R472, R474) -/

/-- Nominal voltage of a rail in mV, and its operating range in per mille of it. -/
def railNominal (r : Nat) : Nat := nth 1800 [750, 850, 1800, 1800, 900, 1200, 1800, 1200, 1200, 1800] r
def railRange (r : Nat) : Nat := if r < 2 then 30 else 50

/-- A voltage of `mv` lies within the range less a margin, both in per mille. -/
def railWithin (r mv margin : Nat) : Bool :=
  decide (railNominal r * (1000 - railRange r + margin) ≤ mv * 1000 ∧ mv * 1000 ≤ railNominal r * (1000 + railRange r - margin))

/-- A round of one rail. -/
def roundRail (r : Nat) (s : State) : State :=
  let res := (s.entryOf 53 (fun c => Ent.input c = r && Ent.gain c = 0 && Ent.ref c = 0)).map (fun e => s.reg (ADC_RES_VAL 53 e))
  let good := b2n (!s.hk.bad.testBit r)
  match res.filter usable with
  | none => fsets (HK_SUP r) [(HK_SUP.good, good), (HK_SUP.valid, 0)] s
  | some w =>
    let mv := (divRoundI (resValue w * 2500) (2 ^ 23)).toNat
    let out := look (fun _ => 0) s.hk.outside r
    let back := look (fun _ => 0) s.hk.inside r
    let left := decide (3 ≤ out)
    let out' := if left then (if railWithin r mv 5 ∧ 2 ≤ back then 0 else out) else if railWithin r mv 0 then 0 else out + 1
    let back' := if left ∧ railWithin r mv 5 ∧ back < 2 then back + 1 else 0
    let s1 := { s with hk := { s.hk with outside := put (fun _ => 0) s.hk.outside r out', inside := put (fun _ => 0) s.hk.inside r back' } }
    let s2 := fsets (HK_SUP r) [(HK_SUP.mv, mv), (HK_SUP.good, good), (HK_SUP.in_window, b2n (out' < 3)), (HK_SUP.valid, 1)] s1
    if !left && 3 ≤ out' then setFlag HK_SUP_FLAGS (16 + r) s2 else s2

end Sys2Proof.Machine
end

