-- ==== Sys2Proof/Machine/Reset.lean ====
section
/-!
DEFINITION. The resets of the whole device (R560 to R562): what survives them, and how RESET_N and VDD_AON hold it.
-/
namespace Sys2Proof.Machine

/-- The always-on count of operating hours goes on by `n` ns: 1/256 h is 14.0625 s (R492, R501). -/
def countHours (n : Nat) (s : State) : State :=
  let c := s.mgmt.chip
  let v := c.hoursNs + n
  setChip { c with hoursNs := v % 14062500000, hours := w32 (satAdd 0xFFFFFFFF c.hours.toNat (v / 14062500000)) } s

/-- A channel reads its ESTOP input, whose level no reset changes. -/
def keepEstop (x : Nat) (old s : State) : State :=
  let f := if x = 0 then SF_STATUS.estop_a else SF_STATUS.estop_b
  if old.fget SF_STATUS f = 1 then setCause x 0 true (fset SF_STATUS f 1 s) else s

/-! ### The control block (R514) -/

/-- The 16 words of a copy: magic, fields, and the CRC-32 over bytes 0 to 59. -/
def Ctl.words (c : Ctl) : List Word :=
  let ws := [0x54434B43, c.seq, w32 (c.imageState % 8), w32 (c.trialStarts % 4), w32 (c.settings % 2), w32 (c.bootCut % 4), w32 (c.confirm % 1024)]
    ++ (List.range 8).map (nth 0 c.digest)
  ws ++ [crc32 ws]

/-- A copy is valid where its magic and CRC match. -/
def readCopy (ws : List Word) : Option Ctl :=
  let w := fun i => (nth 0xFFFFFFFF ws i).toNat
  if nth 0xFFFFFFFF ws 0 = 0x54434B43 ∧ nth 0xFFFFFFFF ws 15 = crc32 (ws.take 15) then
    some { seq := nth 0 ws 1, imageState := w 2 % 8, trialStarts := w 3 % 4, settings := w 4 % 2, bootCut := w 5 % 4, confirm := w 6 % 1024,
           digest := (List.range 8).map (fun i => nth 0 ws (7 + i)) }
  else none

/-- `b` is the newer of two copies, their sequences compared modulo 2^32. -/
def Ctl.newer (b a : Ctl) : Bool := let d := (b.seq - a.seq).toNat; decide (0 < d) && decide (d < 2 ^ 31)

/-- Copy 1 is the one in use. -/
def Fw.second (f : Fw) : Bool :=
  match readCopy f.ctl0, readCopy f.ctl1 with
  | some a, some b => b.newer a
  | none, some _ => true
  | _, _ => false

/-- The control block in use; with no valid copy image_state EMPTY, settings_active 0 and boot_cut_slot 0. -/
def State.ctl (s : State) : Ctl := ((readCopy (if s.fw.second then s.fw.ctl1 else s.fw.ctl0)).getD {})

/-! ### A reset during a flash write (R579) -/

/-- A page program that began at an instant may still be in progress: it lasts at most 3 ms (R520). Whether it is lost the manual leaves
open. -/
def State.tears (s : State) (t : Nat) : Bool := decide (s.now < t + 3000000) && Config.torn t

/-- A half whose write is lost fails its CRC. -/
def tearHalf (ws : List Word) : List Word := ws.zipIdx.map (fun e => if e.2 = 4 then ~~~e.1 else e.1)

/-- What a reset leaves of the control block copy and the settings half being written: the write is lost, and the other stays in force. -/
def State.tornFw (s : State) : Fw :=
  let f := match s.fw.ctlAt with
    | some (second, t) => if s.tears t then (if second then { s.fw with ctl1 := [] } else { s.fw with ctl0 := [] }) else s.fw
    | none => s.fw
  match f.halfAt with
  | some (key, t) => if s.tears t then { f with settings := put (fun _ => []) f.settings key (tearHalf (look (fun _ => []) f.settings key)) } else f
  | none => f

/-! ### Resets -/

/-- The rails without which the device is unpowered: those of the always-on domain and of domains 66 and 69 (R477). -/
def deadRails (bad : Nat) : Bool := [0, 1, 6, 9].any (fun r => bad.testBit r)

/-- The mode in which a reset leaves the device: OFF while it is unpowered, else LOADER (R7). -/
def resetMode (bad : Nat) : Mode := if deadRails bad then .off else .loader

/-- What a reset leaves: flash content, the non-volatile store of SF, the key store, the always-on counters, and the levels of inputs
survive it; everything else is as after power-on. `held` says that RESET_N or VDD_AON goes on holding it. -/
def resetDevice (cause : Nat) (held : Bool) (s : State) : State :=
  let c := s.mgmt.chip
  let f := s.tornFw
  let s1 : State :=
    { pending := s.pending
      fresh := s.fresh
      mode := resetMode s.hk.bad
      tap := s.tap
      mgmt := { chip := { flash := c.flash, flashSeq := c.flashSeq, seq := c.flashSeq, hours := c.hours, hoursSaved := c.hoursSaved, hoursNs := c.hoursNs,
                          cycles := c.cycles } }
      startup := { inReset := held, cause := cause, ready := !held }
      rx := { blankLow := s.rx.blankLow.map (fun _ => 0) }
      sf := { stored := s.sf.stored, pwdA := s.sf.pwdA, pwdB := s.sf.pwdB, log := s.sf.log, logSeq := s.sf.logSeq }
      hk := { bad := s.hk.bad }
      fw := { ctl0 := f.ctl0, ctl1 := f.ctl1, image := f.image, cuts := f.cuts, settings := f.settings,
              counts := if f.header = [] then f.counts else put (fun _ => []) f.counts s.ctl.settings s.cal.counts, keys := f.keys,
              revoked := f.revoked, minSec := f.minSec, reach := f.reach, presenceLow := f.presenceLow } }
  keepEstop 1 s (keepEstop 0 s (setReg SF_LOG_HEAD s.sf.logSeq (fset RESET_CAUSE RESET_CAUSE.cause cause s1)))

/-- Four consecutive low samples of RESET_N (R561). -/
def execResetNAssert (s : State) : Out := .next (resetDevice 2 true s)

/-- RESET_N rises: the start reference, unless VDD_AON holds the device still (R475, R562). -/
def execResetNRelease (s : State) : Out :=
  .next (if s.startup.inReset && s.startup.cause = 2 then
      (if s.hk.bad.testBit 9 then { s with startup := { s.startup with cause := 1 } }
       else { s with startup := { s.startup with inReset := false, ready := true } })
    else s)

/-- VDD_AON fails: the device is held as with RESET_N low, and hours not yet saved are lost (R475, R501). -/
def aonLost (s : State) : State :=
  if s.startup.inReset && s.startup.cause = 2 then setChip { s.mgmt.chip with hours := s.mgmt.chip.hoursSaved, hoursNs := 0 } s
  else
    let s1 := resetDevice 1 true s
    setChip { s1.mgmt.chip with hours := s1.mgmt.chip.hoursSaved, hoursNs := 0 } s1

/-- The mode follows the rails into OFF and out of it (R7). -/
def showPower (s : State) : State :=
  if deadRails s.hk.bad then { s with mode := .off } else if s.mode = .off then { s with mode := .loader } else s

/-- VDD_AON is good again. -/
def aonBack (s : State) : State :=
  if s.startup.inReset && s.startup.cause ≠ 2 then { s with startup := { s.startup with inReset := false, ready := true } } else s

end Sys2Proof.Machine
end

