-- ==== Sys2Proof/Machine/Power.lean ====
section
/-!
DEFINITION. Power domains and rails (R473 to R479): what a domain holds, its faults and their reactions, restart, and switching for a
plane; and the round of HK (R467).
-/
namespace Sys2Proof.Machine

/-! ### Domains (R477) -/

/-- The rails a domain uses. -/
def domRails (d : Nat) : List Nat :=
  if d < 48 then [0, 1, 2, 3] else if d < 54 then [0, 1] else if d < 58 then [0, 2, 6] else if d = 58 then [0, 1]
  else if d < 63 then [0, 4, 5] else if d = 63 then [0] else if d = 64 then [0, 2, 3, 6] else if d = 65 then [0, 3]
  else if d = 66 then [0, 6] else if d = 67 then [6, 7] else if d = 68 then [6, 8] else [0, 1]

/-- Every rail of the domain has reported good. -/
def State.railsGood (s : State) (d : Nat) : Bool := (domRails d).all (fun r => !s.hk.bad.testBit r)

/-- The domain's bits of `PWR_DOM_ON` and `PWR_DOM_GOOD`. -/
def setDomain (d : Nat) (on good : Bool) (s : State) : State :=
  let put1 := fun (a : Nat) (v : Bool) (t : State) => setReg a (if v then setBit (d % 32) (t.reg a) else clrBit (d % 32) (t.reg a)) t
  put1 (PWR_DOM_GOOD (d / 32)) good (put1 (PWR_DOM_ON (d / 32)) on s)

/-- The domain is in fault. -/
def State.domFault (s : State) (d : Nat) : Bool := s.hk.faulted.contains d

/-- The domains that a plane's enabled regions and blocks lie in (R57); domain 59 is the common domain of LK (R465). -/
def neededDomains (pl : Option Plane) : List Nat :=
  (List.range 70).filter (fun d =>
    if d < 48 then blockOn pl (rxRegion d) (rxBlock d)
    else if d < 54 then regionPresent pl (d - 40)
    else if d < 58 then blockOn pl 4 (d - 54)
    else if d = 58 then regionPresent pl 4
    else if d = 59 then regionPresent pl 5
    else if d < 63 then blockOn pl 5 (d - 59)
    else if d = 63 then regionPresent pl 6
    else if d = 64 then regionPresent pl 3
    else true)

/-- The domain map of a plane's POWER frame as a number, if it has one (R57). -/
def powerMap (pl : Option Plane) : Option Nat :=
  match tableOf pl 0x00FFFF00 6 with
  | [a, b, c] => some (a.toNat + b.toNat * 2 ^ 32 + c.toNat * 2 ^ 64)
  | _ => none

/-- The domains that are on under a plane (R57, R478). -/
def planeDomains (pl : Option Plane) : List Nat :=
  match powerMap pl with
  | some m => (List.range 70).filter (fun d => m.testBit d)
  | none => neededDomains pl

/-- A domain of one block. -/
def oneBlock (d : Nat) : Bool := decide (d < 48) || (decide (54 ≤ d) && decide (d < 58)) || (decide (59 ≤ d) && decide (d < 63))

/-! ### Outputs (R476) -/

/-- How the I/O ring holds the output balls of a domain: high impedance while VDD_IO is not good; else in their off state while the domain is
not good (FIRE off as R145 says, DRV and BIAS_CTL low, SCN_EXC high impedance, lane transmitters in electrical idle); else as driven. -/
inductive Hold where
  | highZ | off | driven
  deriving DecidableEq, Repr

def State.outputs (s : State) (d : Nat) : Hold := if s.hk.bad.testBit 6 then .highZ else if s.domGood d then .driven else .off

/-- The level of EMIT_EN of a channel and of HEARTBEAT at the ball; none is high impedance. -/
def State.atBall (s : State) (d : Nat) (level : Bool) : Option Bool :=
  match s.outputs d with
  | .highZ => none
  | .off => some false
  | .driven => some level
def State.emitEnBall (s : State) (x : Nat) : Option Bool := s.atBall (67 + x) (s.sfc x).en
def State.heartbeatBall (s : State) : Option Bool := s.atBall 66 s.pairSt.heartbeat

/-! ### What a domain loses -/

/-- The records of a switched-off region recorder and the snapshots of its region are lost (R498, R508). -/
def loseRecorder (r : Nat) (s : State) : State :=
  { s with mgmt := { s.mgmt with
      recorders := put (fun _ => {}) s.mgmt.recorders r {}
      loupe := { s.mgmt.loupe with snaps := clearWhere (fun i => i / 256 = r) s.mgmt.loupe.snaps } } }

/-- A receive block loses its content. In a fault its schedule and the pixels in it stay, and their records are flagged absent (R36). -/
def loseRx (fault : Bool) (k : Nat) (s : State) : State :=
  let b := s.blk k
  let s1 := { s with
    rx := { s.rx with
      cells := clearWhere (fun c => c / 16 = k) s.rx.cells
      rtWrites := s.rx.rtWrites.filter (fun w => rxOf w.1 ≠ k)
      stamps := clearWhere (fun a => rxOf a = k) s.rx.stamps }
    adcs := clearWhere (fun c => c = k) s.adcs
    cal := { s.cal with sections := clearWhere (fun key => key / 2 ^ 16 = rxRegion k * 256 + rxBlock k) s.cal.sections } }
  let s2 := setBlk k (if fault then { bufX := b.bufX, bufY := b.bufY, opens := b.opens, posts := b.posts, slots := b.slots } else {}) s1
  if b.fgWait.isSome || b.calAbsent then fgAdvance s.now 49 s2 else s2

/-- The shared part of RX region `n` loses its content. -/
def loseRxCommon (n : Nat) (s : State) : State :=
  loseRecorder (8 + n) { s with rx := { s.rx with
    toAq := clearWhere (fun i => i = n) s.rx.toAq
    output := clearWhere (fun k => k / 8 = n) s.rx.output
    served := clearWhere (fun i => i = n) s.rx.served
    outBusy := clearWhere (fun i => i = n) s.rx.outBusy
    commitOrder := clearWhere (fun i => i = n) s.rx.commitOrder
    gates := clearWhere (fun i => i / 131072 = n) s.rx.gates
    evidence := clearWhere (fun i => i / 131072 = n) s.rx.evidence
    updates := clearWhere (fun i => i / 131072 = n) s.rx.updates
    staged := clearWhere (fun i => i = n) s.rx.staged
    commits := clearWhere (fun i => i = n) s.rx.commits } }

/-- A port that has lost its power holds its emitter off: shots it was to start and that have not started are not counted (R149, R477). -/
def killPort (p : Nat) (s : State) : State := deadSlots p (setPort p {} s)

/-- A block isolates itself, and its outputs with it (R36): the lanes of an LK block leave UP, the shots that ports of a TX block were to start
are not counted, and the axes of SC report scan faults. -/
def isolateHere (r b : Nat) (s : State) : State :=
  let s1 := isolateBlock r b s
  if r = 5 then forUp (fun l t => moveLane l 0 t) (b * 8) 8 s1
  else if r = 4 then forUp deadSlots (b * 16) 16 s1
  else if r = 3 then forUp (fun a t => scanFault a true t) 0 8 s1
  else s1

/-- The registers of a domain read their reset words again. What CF answers itself and the domain maps are not among them. -/
def loseRegs (d : Nat) (s : State) : State :=
  { s with regs := clearWhere (fun a => domainAt a = d && !answeredByCf a && !(decide (PWR_DOM_ON 0 ≤ a) && decide (a ≤ PWR_DOM_FAULT 2))) s.regs }

/-- A safety channel loses its power: it is in INIT, with the level of its ESTOP input (R404). -/
def loseSf (x : Nat) (s : State) : State :=
  let old := s
  let s1 := setSfc x {} s
  let s2 := if x = 0 then
      let t := loseRegs 67 s1
      fsets SF_STATUS [(SF_STATUS.state_b, old.fget SF_STATUS SF_STATUS.state_b), (SF_STATUS.fb_b, old.fget SF_STATUS SF_STATUS.fb_b),
        (SF_STATUS.estop_b, old.fget SF_STATUS SF_STATUS.estop_b)] (setReg SF_LOG_HEAD t.sf.logSeq t)
    else fset SF_STATUS SF_STATUS.state_b 0 (loseRegs 68 s1)
  showCause (keepEstop x old s2)

/-- The block that a block domain hosts, as region × 256 + block. -/
def domBlock (d : Nat) : Nat :=
  if d < 48 then rxRegion d * 256 + rxBlock d else if d < 58 then 4 * 256 + (d - 54) else 5 * 256 + (d - 59)

/-- A block whose domain is off keeps no snapshot, and one switched off rather than in fault no source of the summary tree (R489, R508). -/
def loseBlock (fault : Bool) (d : Nat) (s : State) : State :=
  let off := fun x => x = domBlock d
  if !oneBlock d then s
  else
    let s1 := { s with mgmt := { s.mgmt with loupe := { s.mgmt.loupe with snaps := clearWhere (fun i => i = domBlock d) s.mgmt.loupe.snaps } } }
    if fault then s1
    else { s1 with startup := { s1.startup with isolated := s1.startup.isolated.filter (fun x => !off x), rtDropped := s1.startup.rtDropped.filter (fun x => !off x) } }

/-- A domain loses its content. -/
def loseDomain (fault : Bool) (d : Nat) (s : State) : State :=
  let s := loseBlock fault d s
  if d < 48 then loseRx fault d (loseRegs d s)
  else if d < 54 then loseRxCommon (d - 48) (loseRegs d s)
  else if d < 58 then forUp killPort ((d - 54) * 16) 16 (loseRegs d s)
  else if d = 58 then
    loseRecorder 4 (loseRegs 58 { s with tx := { ports := s.tx.ports, tapA := s.tx.tapA, tapB := s.tx.tapB } })
  else if d < 63 then
    let s1 := loseRegs d { s with lk := { s.lk with lanes := clearWhere (fun l => l / 8 = d - 59) s.lk.lanes } }
    if d = 59 then loseRecorder 5 s1 else s1
  else if d = 63 then loseRecorder 6 (loseRegs 63 { s with aq := {} })
  else if d = 64 then
    loseRecorder 3 (loseRegs 64 { s with
      sc := {}
      adcs := clearWhere (fun k => 48 ≤ k && k < 52) s.adcs
      cal := { s.cal with sections := clearWhere (fun key => key / 2 ^ 24 = 3) s.cal.sections } })
  else if d = 65 then
    loseRecorder 1 (loseRegs 65 { s with
      hk := { bad := s.hk.bad, adcGoodAt := s.hk.adcGoodAt, faulted := s.hk.faulted, forShadow := s.hk.forShadow, toSwitchOff := s.hk.toSwitchOff }
      adcs := clearWhere (fun k => 52 ≤ k) s.adcs
      cal := { s.cal with sections := clearWhere (fun key => key / 2 ^ 24 = 1) s.cal.sections } })
  else if d = 67 then loseRecorder 2 (loseSf 0 s)
  else if d = 68 then loseSf 1 s
  else s

/-! ### Faults (R477, R479) -/

/-- The reaction of R477 to a fault of a domain other than 66 and 69. -/
def domReaction (d : Nat) (s : State) : State :=
  if d < 48 then leaveSwap (fun t => t = tgtRx d) (isolateBlock (rxRegion d) (rxBlock d) s)
  else if d < 54 then fence (d - 40) s
  else if d < 58 then isolateHere 4 (d - 54) s
  else if d = 58 then fence 4 s
  else if d < 63 then
    leaveSwap (fun t => t = tgtLk (d - 59)) (isolateHere 5 (d - 59) s)
  else if d = 63 then fence 6 s
  else if d = 64 then fence 3 s
  else if d = 65 then fence 1 s
  else
    let s1 := enterSf (d - 67) 0 s
    if s1.domGood 67 && s1.domGood 68 then s1 else leaveSwap (fun t => t = tgtSf) s1

/-- Power good of a domain drops while it is switched on. -/
def faultDomain (d : Nat) (s : State) : State :=
  if d = 66 then resetDevice 4 false s
  else if d = 69 then resetDevice 5 false s
  else
    let s1 := setFlag (PWR_DOM_FAULT (d / 32)) (d % 32) { s with hk := { s.hk with faulted := insertNat d s.hk.faulted } }
    loseDomain true d (setDomain d false false (domReaction d s1))

def execDomainFault (domain : Fin 70) (s : State) : Out :=
  .next (if s.domOn domain && s.domGood domain then faultDomain domain s else s)

/-- A rail that has gone bad faults every domain on it. A domain of step 1 takes the start-up back to its beginning until startup_done
(R579). -/
def railFault (r : Nat) (s : State) : State :=
  if !s.time.running then s
  else if s.fget MODE_STATUS MODE_STATUS.startup_done = 0 && [59, 64, 65, 66, 67, 68, 69].any (fun d => (domRails d).contains r) then
    resetDevice 0 false s
  else if (domRails 66).contains r then faultDomain 66 s
  else if (domRails 69).contains r then faultDomain 69 s
  else forUp (fun d t => if (domRails d).contains r && t.domOn d && t.domGood d then faultDomain d t else t) 0 70 s

/-- A fast monitor changes its report (R232, R473, R475). -/
def execSupplyMonitorChange (rail : Fin 10) (good : Bool) (s : State) : Out :=
  .next (let r := rail.val
    let was := !s.hk.bad.testBit r
    if good = was then s
    else
      let s1 := fset (HK_SUP r) (HK_SUP.good) (b2n good) { s with hk := { s.hk with bad := s.hk.bad ^^^ 2 ^ r } }
      showPower (if good then (if r = 9 then aonBack s1 else if r = 3 then { s1 with hk := { s1.hk with adcGoodAt := s1.now } } else s1)
        else
          let s2 := setFlag HK_SUP_FLAGS r (if r = 3 then adcSupplyBad s1 else s1)
          if r = 9 then aonLost s2 else railFault r s2))

/-! ### A domain comes back (R41, R478, R479) -/

/-- A block takes part again. -/
def rejoinBlock (r b : Nat) (s : State) : State :=
  { s with startup := { s.startup with isolated := s.startup.isolated.filter (· ≠ r * 256 + b) } }

/-- A receive block takes the live plane up, with the calibration tables it has missed. -/
def takePlane (cd : Carried) (k : Nat) (s : State) : State :=
  if blockOn s.cut.live (rxRegion k) (rxBlock k) then
    settleBlock s.cut.live k s.now
      (forUp (fun i t => applyCell none s.cut.live s.now (k * 16 + i) t) 0 16 (installBlock s.cut.live cd k (showSeq s.cut.live k s)))
  else s

/-- What a domain hosts takes part under the live plane: from its power-on, with every calibration table of the plane, or as its region
becomes ready, with those of the swaps it missed (R41, R312). -/
def joinDomain (cd : Carried) (d : Nat) (s : State) : State :=
  if d < 48 then takePlane cd d (rejoinBlock (rxRegion d) (rxBlock d) s)
  else if 54 ≤ d ∧ d < 58 then rejoinBlock 4 (d - 54) s
  else if 59 ≤ d ∧ d < 63 then joinLanes s.cut.live (d - 59) (rejoinBlock 5 (d - 59) s)
  else if d = 63 ∧ s.cut.live.isSome ∧ ¬ s.fenced 6 then takeMasks s.cut.live s
  else if d = 64 ∧ s.cut.live.isSome ∧ ¬ s.fenced 3 then takeSc cd s
  else if d = 65 ∧ ¬ s.fenced 1 then installHk s.cut.live cd s
  else s

/-- A domain that has been switched on reports good. -/
def execDomainGood (domain : Fin 70) (s : State) : Out :=
  .next (let d := domain.val
    if s.time.running && s.domOn d && !s.domGood d && s.railsGood d then joinDomain none d (enableAdcs d (setDomain d true true s)) else s)

/-- A write of 1 clears the flag of a domain, and restarts a faulted block domain under the live plane. -/
def restartDomain (d : Nat) (s : State) : State :=
  let s1 := setReg (PWR_DOM_FAULT (d / 32)) (clrBit (d % 32) (s.reg (PWR_DOM_FAULT (d / 32)))) s
  if s.domFault d && oneBlock d then
    let s2 := { s1 with hk := { s1.hk with faulted := s1.hk.faulted.filter (· ≠ d) } }
    if (planeDomains s.cut.live).contains d then setDomain d true false s2 else s2
  else s1

/-- The bits of a word of `PWR_DOM_FAULT`. -/
def restartDomains (i : Nat) (w : Word) (s : State) : State :=
  forUp (fun b t => if w.getLsbD b then restartDomain (32 * i + b) t else t) 0 32 s

/-- A word of `PWR_DOM_FAULT`. -/
def isDomFault (a : Nat) : Bool := PWR_DOM_FAULT 0 ≤ a && a ≤ PWR_DOM_FAULT 2

/-- A write of an HK register waits for the next round (R467). -/
def hkWrite (a : Nat) (w : Word) (s : State) : State := { s with hk := { s.hk with writes := s.hk.writes ++ [(a, w)] } }

/-- A write of `PWR_DOM_FAULT`, accepted in CONFIGURED only. -/
def execDomainRestart (q : Requester) (word : Fin 3) (data : Word) (s : State) : Out :=
  .next (hostWriteIf (s.mode = .configured) q (PWR_DOM_FAULT word) (hkWrite (PWR_DOM_FAULT word) data) s)

/-! ### Switching for a plane (R478) -/

/-- The domains that the staged plane needs are switched on, and idle until the swap. A faulted domain stays off. -/
def switchOnFor (pl : Option Plane) (s : State) : State :=
  let ds := (planeDomains pl).filter (fun d => !s.domOn d && !s.domFault d)
  let s1 := ds.foldl (fun t d => setDomain d true false t) s
  { s1 with hk := { s1.hk with forShadow := s1.hk.forShadow ++ ds } }

/-- The shadow plane is given up: what was switched on for it is switched off. -/
def switchOffShadow (s : State) : State :=
  let s1 := s.hk.forShadow.foldl (fun t d => loseDomain false d (setDomain d false false t)) s
  { s1 with hk := { s1.hk with forShadow := [] } }

/-- Records of the domain are still on their way. -/
def State.domDrained (s : State) (d : Nat) : Bool :=
  if d < 48 then
    let b := s.blk d
    let done := fun p : Pixel => !p.inProgress && decide (16 ≤ p.read)
    b.bufX.all done && b.bufY.all done && (s.waitingAt d).isEmpty
  else if d < 54 then
    let n := d - 48
    s.rx.output.all (fun o => o.1 / 8 ≠ n) && (s.recorder (8 + n)).writing.isNone
  else if 59 ≤ d ∧ d < 63 then
    (List.range 8).all (fun c => let x := s.lane ((d - 59) * 8 + c); x.queue.isEmpty && (x.flight.isNone || decide (x.flightEnd ≤ s.now)))
      && (d ≠ 59 || (s.recorder 5).writing.isNone)
  else if d = 63 then s.aq.sending.isEmpty && (s.recorder 6).writing.isNone
  else if d = 58 then (s.recorder 4).writing.isNone
  else if d = 64 then (s.recorder 3).writing.isNone
  else true

/-- A domain that the new plane disables is switched off. -/
def execDomainSwitchOff (domain : Fin 70) (s : State) : Out :=
  .next (let d := domain.val
    if s.hk.toSwitchOff.contains d && s.cut.waiting.isEmpty && s.domDrained d then
      let s1 := loseDomain false d (setDomain d false false s)
      { s1 with hk := { s1.hk with toSwitchOff := s1.hk.toSwitchOff.filter (· ≠ d) } }
    else s)

/-! ### The round of HK (R467, R485) -/

/-- A register write of HK takes effect: one of a converter goes on to wait for its slot boundary (R239); counts of its channel start anew, and
a test it turns off gives up its crossing. -/
def applyHkWrite (a : Nat) (w : Word) (s : State) : State :=
  let s1 := if isDomFault a then restartDomains ((a - PWR_DOM_FAULT 0) / 4) w s else match regRow a, adcOf a with
    | some row, some k => if row.rw ≠ 0 then adcDue k a s.now w s else plainWrite row a w s
    | some row, none => plainWrite row a w s
    | none, _ => s
  match (List.range 29).find? (fun t => a = HK_T_CFG t ∨ a = HK_T_LIM t) with
  | none => s1
  | some t =>
    let s2 := setHkChan t { s1.hkChan t with low := 0, high := 0, rate := 0 } s1
    forUp (fun kind u => if u.crossOff t kind && u.fget (HK_T_FLAGS t) (crossActive kind) = 1 then releaseCross t kind u else u) 0 3 s2

/-- HK works: its domain is good, it is not fenced, and TBASE counts. -/
def State.hkRuns (s : State) : Bool := s.time.running && s.domGood 65 && !s.fenced 1

/-- HK takes the plane of the swap in progress at a stamp. -/
def applyHk (stamp : Nat) (s : State) : State :=
  if s.cut.waiting.contains tgtHk then let s1 := markApplied tgtHk stamp s; installHk s1.cut.live (some s1.cut.swapKeys) s1 else s

/-- A round of 10 ms. It takes a pending plane up first (R29, R44). -/
def execHkRound (die : List (Fin 14 × Word)) (s : State) : Out :=
  .next (let n := s.now / 10000000
    if !s.hkRuns || s.hk.round = some n || 100000 < s.now % 10000000 then s
    else
      let s0 := stampChanges (· = tgtHk) (n * 10000000) (if s.cut.swapI ≤ n * 10000000 then applyHk (n * 10000000) s else s)
      let s1 := s0.hk.writes.foldl (fun t w => applyHkWrite w.1 w.2 t) { s0 with hk := { s0.hk with round := some n, writes := [] } }
      let rs := s1.dieReadings die
      let s2 := forUp (roundChannel die) 0 29 s1
      forUp roundRail 0 10 (takeTemps rs (junction rs s2)))

end Sys2Proof.Machine
end

