-- ==== Sys2Proof/Machine/FwImage.lean ====
section
/-!
DEFINITION. The control block, the application image and the settings slots in external flash, the key store, and the choice and start of
a program (R513 to R518, R523, R527, R528, R530).
-/
namespace Sys2Proof.Machine

/-- Change what the manual keeps for the firmware. -/
def setFw (f : Fw) (s : State) : State := { s with fw := f }

/-! ### The control block (R514) -/

/-- `FW_STATUS`.image_state shows the control block. -/
def showImage (s : State) : State := fset FW_STATUS FW_STATUS.image_state s.ctl.imageState s

/-- An update writes the copy that is not in use, with sequence + 1. -/
def writeCtl (c : Ctl) (s : State) : State :=
  let n := ({ c with seq := s.ctl.seq + 1 } : Ctl).words
  let first : Bool := s.fw.second || (readCopy s.fw.ctl0).isNone
  showImage (setFw (if first then { s.fw with ctl0 := n, ctlAt := some (false, s.now) } else { s.fw with ctl1 := n, ctlAt := some (true, s.now) }) s)

/-- The loader reads both copies: an invalid one beside a valid one is rewritten from it; with none valid copy 0 is written. -/
def readCtl (s : State) : State :=
  match readCopy s.fw.ctl0, readCopy s.fw.ctl1 with
  | none, none => showImage (setFw { s.fw with ctl0 := ({} : Ctl).words, ctlAt := some (false, s.now) } s)
  | some _, none => flag FW_FLAGS FW_FLAGS.control_repaired (showImage (setFw { s.fw with ctl1 := s.fw.ctl0, ctlAt := some (true, s.now) } s))
  | none, some _ => flag FW_FLAGS FW_FLAGS.control_repaired (showImage (setFw { s.fw with ctl0 := s.fw.ctl1, ctlAt := some (false, s.now) } s))
  | some _, some _ => showImage s

/-! ### Keys (R530) -/

/-- State and key of a slot: 0 EMPTY, 1 ENROLLED, 2 REVOKED. Slot 4 is the Llyntex image key. -/
def State.keySlot (s : State) (k : Nat) : Nat × List Word :=
  if k = 4 then (1, (List.range 8).map Config.llyntexKey) else look (fun _ => (0, [])) s.fw.keys k

/-- A signature in the pure form of R49 under a slot's key: header words 0 to 14 and a digest. -/
def State.signed (s : State) (slot : Nat) (header digest sig : List Word) : Bool :=
  Config.slhVerify 0 (s.keySlot slot).2 ((bytesOf (header.take 15 ++ digest)).map (BitVec.ofNat 8)) sig

/-! ### The image (R516 to R518) -/

/-- Word `i` of the image slot. -/
def State.imageWord (s : State) (i : Nat) : Word := look (fun _ => 0xFFFFFFFF) s.fw.image i
def State.imageWords (s : State) (i n : Nat) : List Word := (List.range n).map (fun j => s.imageWord (i + j))

/-- Header, body and trailer digest of the image in the slot. -/
def State.imageHeader (s : State) : List Word := s.imageWords 0 16
def State.imageBodyLen (s : State) : Nat := (s.imageWord 5).toNat
def State.imageBody (s : State) : List Word := s.imageWords 16 s.imageBodyLen
def State.imageDigest (s : State) : List Word := s.imageWords (16 + s.imageBodyLen) 8

/-- VERIFY's checks in order: 0 for a pass, else the code of the first that fails (R517). -/
def State.imageCheck (s : State) : Nat :=
  let h := s.imageHeader
  let w := fun i => (nth 0 h i).toNat
  if w 0 ≠ 0x4D494B43 then 1
  else if w 1 / 65536 ≠ 1 then 2
  else if w 2 ≠ 0x768 then 3
  else if crc32 (h.take 15) ≠ nth 0 h 15 then 4
  else if w 4 / 65536 ≠ 0 ∨ w 7 ≠ 0 ∨ w 8 / 8 ≠ 0 ∨ w 10 + w 11 + w 12 + w 13 + w 14 ≠ 0 ∨ w 5 = 0 ∨ 1046588 < w 5
      ∨ s.fw.reach < (16 + w 5 + 1972) * 4 then 5
  else if sha256 s.imageBody ≠ s.imageDigest then 9
  else if w 8 < 4 ∨ (s.keySlot (w 8)).1 ≠ 1 then 0xA
  else if !s.signed (w 8) h s.imageDigest (s.imageWords (16 + w 5 + 8) 1964) then 0xB
  else if w 4 < s.fw.minSec then 0x30
  else 0

/-- The image in the slot comes into image memory; `trial` says how it is to run. -/
def loadImage (trial : Bool) (s : State) : State :=
  setFw { s.fw with header := s.imageHeader, digest := s.imageDigest, trial := trial } s

/-- The ROM service image takes the place of an image that the control block names, if it names one (R518). -/
def chooseRom (s : State) : State :=
  flagIf (s.ctl.imageState ≠ 0) FW_FLAGS FW_FLAGS.fallback (setFw { s.fw with header := [], digest := [], trial := false, romPending := true } s)

/-- The loader's choice (R518). -/
def chooseProgram (s : State) : State :=
  let c := s.ctl
  let pass : Bool := s.imageCheck = 0 && s.imageDigest = c.digest
  if c.imageState = 4 then (if pass then loadImage false s else chooseRom (writeCtl { c with imageState := 5 } s))
  else if c.imageState = 2 ∨ (c.imageState = 3 ∧ c.trialStarts < 3) then
    (if pass then loadImage true (writeCtl { c with imageState := 3, trialStarts := min 3 (c.trialStarts + 1) } s)
     else chooseRom (writeCtl { c with imageState := 5 } s))
  else if c.imageState = 3 then chooseRom (writeCtl { c with imageState := 5 } s)
  else chooseRom s

/-! ### Settings (R527, R528) -/

/-- A half as it stands in flash: header and payload; empty where it is erased. -/
def State.half (s : State) (slot h : Nat) : List Word := look (fun _ => []) s.fw.settings (slot * 2 + h)

/-- The half's magic stands, and its CRC matches. -/
def halfMagic (ws : List Word) : Bool := ws.length ≥ 8 && nth 0 ws 0 = 0x53544B43
def halfValid (ws : List Word) : Bool :=
  let n := (nth 0 ws 3).toNat
  halfMagic ws && decide (n ≤ 65504) && crc32Bytes ((bytesOf (ws.drop 8)).take n) = nth 0 ws 4

/-- The current half of a slot: its valid half with the higher sequence, compared modulo 2^32; none where the slot holds no settings. -/
def State.currentHalf (s : State) (slot : Nat) : Option Nat :=
  let a := s.half slot 0
  let b := s.half slot 1
  let d := (nth 0 b 2 - nth 0 a 2).toNat
  if halfValid a && halfValid b then some (b2n (decide (0 < d) && decide (d < 2 ^ 31)))
  else if halfValid a then some 0 else if halfValid b then some 1 else none

/-- The current settings of a slot, empty where it holds none. -/
def State.current (s : State) (slot : Nat) : List Word := match s.currentHalf slot with | some h => s.half slot h | none => []

/-- A slot is read: its current half, or defaults, goes to the image, and a half whose CRC fails sets settings_bad. At start-up the calibration
counts and times that the slot keeps are restored (R327). -/
def readSettings (slot : Nat) (s : State) : State :=
  let bad := fun ws => halfMagic ws && !halfValid ws
  let s := setFw { s.fw with loaded := s.current slot } s
  let s1 := if s.cal.counts = [] then { s with cal := { s.cal with counts := look (fun _ => []) s.fw.counts slot } } else s
  flagIf (bad (s.half slot 0) || bad (s.half slot 1)) FW_FLAGS FW_FLAGS.settings_bad s1

/-- The half is laid out as R527 says. -/
def halfFormed (ws : List Word) : Bool :=
  halfValid ws && decide ((nth 0 ws 1).toNat < 65536) && nth 0 ws 5 = 0 && nth 0 ws 6 = 0 && nth 0 ws 7 = 0

/-- A write of a half that the running image may make (R528): in trial to the slot that is not active, once confirmed to the half of the active
slot that is not current; with the sequence after that of the current half of the active slot. The ROM service image makes none. -/
def State.saveOk (s : State) (key : Nat) (ws : List Word) : Bool :=
  let act := s.ctl.settings
  s.fget FW_STATUS FW_STATUS.in_control = 1 && halfFormed ws && ((s.currentHalf act).isNone || nth 0 ws 2 = nth 0 (s.current act) 2 + 1)
    && (if s.fw.trial then key / 2 ≠ act else key / 2 = act && s.currentHalf act ≠ some (key % 2))

/-- A half is written. -/
def writeHalf (key : Nat) (ws : List Word) (s : State) : State :=
  if s.saveOk key ws then setFw { s.fw with settings := put (fun _ => []) s.fw.settings key ws, halfAt := some (key, s.now) } s else s

/-- The running image writes halves of its settings slots. -/
def writeSettings (l : List (Fin 4 × List Word)) (s : State) : State := l.foldl (fun t e => writeHalf e.1 e.2 t) s

/-! ### A program starts (R524, R564, R574) -/

/-- The program in image memory, or the ROM service image, starts: `FW_STATUS`.in_control and `FW_IMAGE` show it. The ROM service image
reads no settings (R525). -/
def startProgram (s : State) : State :=
  let app : Bool := s.fw.header ≠ []
  let s1 := fset FW_STATUS FW_STATUS.in_control (if app then 1 else 2) (setReg FW_IMAGE (nth 0 s.fw.header 3) (setFw { s.fw with startedAt := s.now } s))
  if app then readSettings s1.ctl.settings s1 else s1

/-- A session ends (R519). -/
def endSession (s : State) : State :=
  fsets FW_STATUS [(FW_STATUS.session, 0), (FW_STATUS.owner, 0), (FW_STATUS.owner_lane, 0)]
    (setFw { s.fw with sectors := [], wrote := false } s)

/-- A pause is in progress (R521, R522). -/
def State.pausing (s : State) : Bool := s.fget FW_STATUS FW_STATUS.pausing = 1

end Sys2Proof.Machine
end

