-- ==== Sys2Proof/Machine/Swap.lean ====
section
/-!
DEFINITION. The swap of planes (R28, R29, R31, R69 to R71, R525, R564): what happens at the swap instant, which islands and blocks apply it
later, and its end.
-/
namespace Sys2Proof.Machine

/-- `CUT_STATUS`.shadow_state: 0 EMPTY, 1 WRITING, 2 VALIDATING, 3 VALID, 4 INVALID, 5 SCHEDULED, 6 SWAPPING. -/
def State.shadowState (s : State) : Nat := s.fget CUT_STATUS CUT_STATUS.shadow_state
def setShadow (n : Nat) (s : State) : State := fset CUT_STATUS CUT_STATUS.shadow_state n s

/-- The regions present in a plane, in region_mask order; none while no Cut is live (R72). -/
def regionMask (pl : Option Plane) : Nat :=
  match pl with
  | none => 0
  | some _ => bitsBelow (fun r => isRegion r && regionPresent pl r) 14

/-! ### The swap instant (R69) -/

/-- Islands, blocks and sequences that apply the swap at a boundary of their own. What is fenced, not ready or without power takes the plane
up when it comes back (R41, R478). -/
def swapTargets (old new : Option Plane) (s : State) : List Nat :=
  let up := fun r d => !s.fenced r && !s.startup.notReady.contains r && s.domGood d
  let one := fun r d t => if (regionPresent old r || regionPresent new r) && up r d then [t] else []
  let on := fun r b => blockOn old r b || blockOn new r b
  one 1 65 tgtHk ++ (if s.domGood 67 || s.domGood 68 then [tgtSf] else []) ++ one 3 64 tgtSc ++ one 4 58 tgtTx ++ one 6 63 tgtAq
    ++ ((List.range 4).filter (fun b => on 5 b && up 5 (59 + b))).map tgtLk
    ++ ((List.range 48).filter (fun k => on (rxRegion k) (rxBlock k) && up (rxRegion k) k)).map tgtRx
    ++ (if s.shooting && up 4 58 then
          ((List.range 64).filter (fun q => (s.seq q).placing || decide (q < seqCount (shotTable new)))).map tgtSeq
        else [])

/-- The mode at a swap: the first swap of start-up enters CONFIGURED, the plane of the ROM service image brings SERVICE, and the swap of the
boot Cut after ACTIVATE in SERVICE brings CONFIGURED; the program chosen starts there (R69, R521, R525, R564). -/
def swapMode (rom : Bool) (s : State) : State :=
  let boot : Bool := s.mode = .loader || s.startup.boot
  let s1 : State :=
    if rom then forUp (fun k t => noteCheck k t.now t) 0 48 { toConfigured s with mode := .service }
    else if s.mode = .loader then forUp startAdc 0 48 { s with mode := .configured }
    else if s.mode = .service ∧ s.startup.boot then { s with mode := .configured } else s
  let s2 := if rom then endCause .watchdog (endCause .fallback s1) else s1
  if boot then
    let s3 := if s2.fget STARTUP_TIME ⟨0, 16⟩ = 0xFFFF then fset STARTUP_TIME ⟨0, 16⟩ s2.sinceStart s2 else s2
    startProgram (fset MODE_STATUS MODE_STATUS.phase 4 { s3 with startup := { s3.startup with boot := false } })
  else if rom then startProgram s2
  else s2

/-- A sequence has already placed a pixel with its shot time at or after the swap's instant (R28, R29). -/
def markEarly (q : Nat) (s : State) : State :=
  match (s.seq q).early with
  | none => s
  | some b => dropRearms s.cut.live (setSeq q { s.seq q with early := none } (markApplied tgtTx b (markApplied (tgtSeq q) b s)))

/-- The instant of a swap has come: CF applies it, and every other island and block at its own boundary. -/
def beginSwap (i : Nat) (s : State) : State :=
  let rom := s.cut.romNext
  let old := s.cut.live
  let new := if rom then some romPlane else s.cut.staged
  let digest := if rom then sha256 (canonWords romPlane) else s.regsFrom (SHADOW_DIGEST 0) 8
  let keys := if rom then romPlane.map (fun f => (f.f0, f.f1)) else s.cut.stagedKeys
  let s1 := { s with cut := { s.cut with
    live := new, old := old, oldEpoch := s.reg LIVE_EPOCH, oldFrag := s.reg (LIVE_DIGEST 0), swapAt := none, swapI := i, firstStamp := i,
    lastStamp := i, stamps := [(0, i)], romNext := false, romLive := rom, upsets := [], swapKeys := keys, inSwap := true, waiting := swapTargets old new s } }
  let s2 := setReg CUT_REGION_MASK (w32 (regionMask new)) (fset CUT_STATUS CUT_STATUS.live_present 1
    (setRegs (LIVE_DIGEST 0) digest (setReg LIVE_EPOCH (s1.reg LIVE_EPOCH + 1) s1)))
  let s3 := if rom then forUp (fun k t => setBlk k { t.blk k with refNow := none } t) 0 48 { s2 with cal := { s2.cal with sections := [] } }
    else setShadow 6 (setRegs (SHADOW_DIGEST 0) (List.replicate 8 0) (setFw { s2.fw with signer := s2.fw.stagedSigner } s2))
  let on := planeDomains new
  let keep := if rom then s3.hk.forShadow else []
  let s4 := { s3 with hk := { s3.hk with
    forShadow := keep, toSwitchOff := (List.range 70).filter (fun d => s3.domOn d && !on.contains d && !keep.contains d) } }
  let s5 := if keys.contains (0x00FFFF00, 0x0303) then forUp (reloadGates (tableOf new 0x00FFFF00 0x0303)) 0 6 s4 else s4
  let away := (List.range 14).filter (fun r => s.fenced r || s.startup.notReady.contains r)
  pairSwap old (swapMode rom (noteSeed old new (markBanks keys (forUp markEarly 0 64 (away.foldl (fun t r => missSwap keys r t) s5)))))

/-- The swap of the ROM service image's plane is ordered: it comes as an immediate swap does, after a swap that has begun; a Cut that was
scheduled stays VALID (R68, R71, R525). -/
def orderRom (s : State) : State :=
  if s.cut.inSwap then setFw { s.fw with romPending := true } s
  else
    let s1 := if s.shadowState = 5 then setShadow 3 s else s
    let s2 := ((planeDomains (some romPlane)).filter (fun d => !s1.domOn d && !s1.domFault d)).foldl (fun t d => setDomain d true false t) s1
    { s2 with cut := { s2.cut with romNext := true, swapAt := some (.atTime (s2.now + 10000)) }, fw := { s2.fw with romPending := false } }

/-- A swap with a TBASE instant falls due. The epoch does not pass 0xFFFF_FFFF (R65). -/
def execSwapApply (s : State) : Out :=
  .next (match s.cut.swapAt with
    | some (.atTime t) => if t ≤ s.now && !s.cut.inSwap && s.reg LIVE_EPOCH ≠ 0xFFFFFFFF then beginSwap t s else s
    | _ => s)

/-! ### The end of a swap (R31, R69) -/

/-- The shadow plane becomes EMPTY. -/
def emptyShadow (s : State) : State :=
  let s1 := setRegs (SHADOW_DIGEST 0) (List.replicate 8 0)
    (fsets CUT_STATUS [(CUT_STATUS.shadow_state, 0), (CUT_STATUS.owner, 0), (CUT_STATUS.owner_lane, 0)] s)
  { s1 with cut := { s1.cut with shadow := [], staged := none, stagedKeys := [], copying := none } }

def execSwapDone (s : State) : Out :=
  .next (if s.cut.inSwap && s.cut.waiting.isEmpty then
      let s1 := setReg64 CUT_SWAP_LAST_LO s.cut.lastStamp (setReg64 CUT_SWAP_FIRST_LO s.cut.firstStamp s)
      let s2 := flag CUT_STATUS CUT_STATUS.swap_done { s1 with cut := { s1.cut with inSwap := false, old := none } }
      let s3 := if s2.shadowState = 6 then emptyShadow s2 else s2
      if s3.fw.romPending then orderRom s3 else s3
    else s)

/-! ### Islands and blocks without a boundary of their own to come (R29) -/

/-- No loop of SC is evaluated. -/
def State.loopsIdle (s : State) : Bool := (List.range 64).all (fun l => s.loopState l = 0 || s.loopState l = 2)

/-- A target applies the swap at I by its local copy of TBASE, where no boundary of its own is to come. -/
def applyAtInstant (t : Nat) (s : State) : State :=
  let i := s.cut.swapI
  if t = tgtHk then (if s.hkRuns then s else applyHk i s)
  else if t = tgtSc then (if s.loopsIdle || !s.scRuns then applySc i s else s)
  else if t = tgtTx then (if (List.range 64).any s.seqScheduled then s else dropRearms s.cut.live (markApplied tgtTx i s))
  else if t = tgtAq then (if s.earliest.isNone || !s.aqOn then applyAq i s else s)
  else if 0x50 ≤ t ∧ t < 0x54 then
    (if (List.range 8).all (fun c => (s.lane ((t - 0x50) * 8 + c)).queue.isEmpty) then applyLk (t - 0x50) i s else s)
  else if 0x80 ≤ t ∧ t < 0xB0 then (let k := t - 0x80; if s.scheduled k then s else applyWaiting k i (applyRx k i s))
  else if 0xC0 ≤ t ∧ t < 0x100 then (if s.seqScheduled (t - 0xC0) then s else markApplied t i s)
  else s

def execChangeAtInstant (target : Fin 256) (s : State) : Out :=
  .next (if s.cut.waiting.contains target.val && s.cut.swapI ≤ s.now then applyAtInstant target s else s)

end Sys2Proof.Machine
end

