-- ==== Sys2Proof/Machine/CutImage.lean ====
section
/-!
DEFINITION. The Cut image in the shadow plane (R45 to R49, R613), its canonical content (R61) and the merge (R62); and the lengths and
contents of its frames, steps 15 to 20 of R59 with R50, R53, R54, R56, R153, R178, R190, R236, R252, R257, R282, R316, R352, R410, R614.
-/
namespace Sys2Proof.Machine

/-! ### Frames (R48) -/

/-- A frame of an image: its index, its address, type and sequence words, its payload, and whether its CRC matches. -/
structure IFrame where
  idx : Nat
  f0 : Nat
  f1 : Nat
  f3 : Nat
  words : List Word
  crc : Bool
  deriving DecidableEq, Repr

/-- The key of a frame, as one number that orders like (F0, F1) (R61). -/
def fkey (f0 f1 : Nat) : Nat := f0 * 2 ^ 32 + f1
def Frame.key (f : Frame) : Nat := fkey f.f0 f.f1
def IFrame.key (f : IFrame) : Nat := fkey f.f0 f.f1

/-- Frame type and table identifier; region, block and cell of the address, and the first register index. -/
def IFrame.type (f : IFrame) : Nat := f.f1 % 256
def IFrame.tid (f : IFrame) : Nat := f.f1 / 256 % 256
def IFrame.region (f : IFrame) : Nat := f.f0 / 2 ^ 24 % 16
def IFrame.block (f : IFrame) : Nat := f.f0 / 2 ^ 16 % 256
def IFrame.cell (f : IFrame) : Nat := f.f0 / 2 ^ 8 % 256
def IFrame.first (f : IFrame) : Nat := f.f0 / 4 % 64

/-- The payload that enters the canonical content: a SAFETY frame's less its proof (R61). -/
def IFrame.body (f : IFrame) : List Word := if f.type = 7 then f.words.take (f.words.length - 8) else f.words

/-- Words of the shadow plane. -/
def State.shadowWord (s : State) (i : Nat) : Word := look (fun _ => 0) s.cut.shadow i
def State.shadowWords (s : State) (i n : Nat) : List Word := (List.range n).map (fun j => s.shadowWord (i + j))

/-- The frame walk from word `pos` to the trailer at `stop` (R613), at most `n` frames; the index of a frame that does not fit, if one does
not. -/
def frameWalk (s : State) (stop : Nat) : Nat → Nat → Nat → List IFrame × Option Nat
  | 0, _, _ => ([], none)
  | n + 1, pos, idx =>
    let len := (s.shadowWord (pos + 2)).toNat
    if pos = stop then ([], none)
    else if stop < pos + 4 ∨ stop < pos + len + 5 then ([], some idx)
    else
      let f : IFrame :=
        { idx := idx, f0 := (s.shadowWord pos).toNat, f1 := (s.shadowWord (pos + 1)).toNat, f3 := (s.shadowWord (pos + 3)).toNat,
          words := s.shadowWords (pos + 4) len, crc := crc32 (s.shadowWords pos (len + 4)) = s.shadowWord (pos + len + 4) }
      let r := frameWalk s stop n (pos + len + 5) (idx + 1)
      (f :: r.1, r.2)

/-! ### Canonical content and merge (R61, R62) -/

/-- A frame takes its place in ascending order of key. -/
def insFrame (f : Frame) : Plane → Plane
  | [] => [f]
  | g :: l => if f.key < g.key then f :: g :: l else g :: insFrame f l

/-- Frames other than COMMENT are added to a plane. -/
def addFrames (fs : List IFrame) (p : Plane) : Plane :=
  fs.foldl (fun p f => if f.type = 8 then p else insFrame { f0 := f.f0, f1 := f.f1, words := f.body } p) p

/-- The prospective plane: a full Cut replaces the live plane, a partial one the frames of its own keys. -/
def mergePlane (partial_ : Bool) (live : Option Plane) (fs : List IFrame) : Plane :=
  let keys := fs.map IFrame.key
  addFrames fs (if partial_ then (live.getD []).filter (fun f => !keys.contains f.key) else [])

/-! ### Types, addresses and parameter ranges (steps 15 to 18) -/

/-- A word has no bit outside a mask. -/
def within (mask : Nat) (w : Word) : Bool := w &&& ~~~ w32 mask = 0

/-- Step 15: type code and table identifier. -/
def IFrame.typeOk (f : IFrame) : Bool :=
  decide (f.f1 < 65536) && decide (1 ≤ f.type ∧ f.type ≤ 8) && (if f.type = 3 then decide (1 ≤ f.tid ∧ f.tid ≤ 9) else f.tid = 0)

/-- A converter has this address (R227). -/
def converterAt (r b c : Nat) : Bool :=
  (8 ≤ r && r < 14 && b < 8 && c = 0x20) || (r = 3 && b = 0 && 0x20 ≤ c && c < 0x24) || (r = 1 && b = 0xFF && (c = 0x20 || c = 0x21))

/-- The number of the converter at an address. -/
def converterNo (r b c : Nat) : Nat := if r = 1 then 52 + (c - 0x20) else if r = 3 then 48 + (c - 0x20) else (r - 8) * 8 + b

/-- The region has RX cells. -/
def isRx (r : Nat) : Bool := 8 ≤ r && r < 14

/-- The address of a table (R54). -/
def tableAddr (tid r b c : Nat) : Bool :=
  let common : Bool := b = 0xFF && c = 0xFF
  match tid with
  | 1 | 2 => r = 4 && common
  | 3 => r = 0 && common
  | 4 => isRx r && common
  | 5 | 6 => converterAt r b c
  | 7 => anyBelow (sectionAt r b c) 8
  | 8 => r = 6 && common
  | _ => r = 3 && b = 0 && 0x40 ≤ c && c < 0x80

/-- Step 16: the address is allowed for the type, and lies in a region of region_mask. -/
def IFrame.addrOk (mask : Nat) (f : IFrame) : Bool :=
  let r := f.region
  let b := f.block
  let c := f.cell
  let common : Bool := b = 0xFF && c = 0xFF
  decide (f.f0 < 2 ^ 28) && f.f0 % 4 = 0 && (f.type = 2 || f.first = 0) && mask.testBit r && isRegion r
    && (match f.type with
      | 1 => if common then 3 ≤ r else c = 0xFF && (((r = 4 || r = 5) && b < 4) || (isRx r && b < 8) || (r = 3 && b = 0))
      | 2 => (classRows r b c).any (fun w => w.cut ≠ 0)
      | 3 => tableAddr f.tid r b c
      | 4 | 6 => r = 0 && common
      | 5 => r = 4 && common
      | 7 => r = 2 && common
      | _ => true)

/-- Step 17: the first frame whose key an earlier one has. -/
def dupFrame : List Nat → List IFrame → Option Nat
  | _, [] => none
  | seen, f :: fs => if seen.contains f.key then some f.idx else dupFrame (f.key :: seen) fs

/-- The register is a CUT register. -/
def isCut (a : Nat) : Bool := (regRow a).any (fun r => r.cut ≠ 0)

/-- Two PARAMETER frames set a register both. -/
def overlap (a0 an b0 bn : Nat) : Bool :=
  a0 / 256 = b0 / 256 && decide (0 < an ∧ 0 < bn ∧ a0 / 4 % 64 < b0 / 4 % 64 + bn ∧ b0 / 4 % 64 < a0 / 4 % 64 + an)

/-- Step 18: the first PARAMETER frame whose range holds other than CUT registers, or that sets what an earlier frame of the image or a
frame of `kept` sets. -/
def paramFault (kept : Plane) : List IFrame → List IFrame → Option Nat
  | _, [] => none
  | seen, f :: fs =>
    if f.type ≠ 2 then paramFault kept seen fs
    else
      let n := f.words.length
      if 64 < f.first + n || !(List.range n).all (fun j => isCut (f.f0 + 4 * j))
          || seen.any (fun g => overlap f.f0 n g.f0 g.words.length)
          || kept.any (fun g => g.f1 % 256 = 2 && overlap f.f0 n g.f0 g.words.length) then some f.idx
      else paramFault kept (f :: seen) fs

/-! ### Lengths (step 19) -/

/-- Cut a calibration table into its sections (R314); none where the lengths do not follow or do not add up. -/
def calSections : Nat → List Word → Option (List (List Word))
  | _, [] => some []
  | 0, _ => none
  | n + 1, w :: ws =>
    let p := pointWords (w.toNat % 256)
    let nt := w.toNat / 256 % 16
    let len := 5 + (if w.getLsbD 12 then 2 else 1) * nt * p
    if p = 0 ∨ nt = 0 ∨ 8 < nt ∨ ws.length + 1 < len then none
    else (calSections n (ws.drop (len - 1))).map (fun l => (w :: ws).take len :: l)

/-- Cut `n` capture masks off the words after word 0 (R351); none where the lengths do not follow or do not add up. -/
def maskParts : Nat → List Word → Option (List (List Word))
  | 0, ws => if ws = [] then some [] else none
  | n + 1, ws =>
    let ne := tw ws 0 / 65536 % 1024
    if ws = [] ∨ ne = 0 ∨ 512 < ne ∨ ws.length < 4 + ne then none
    else (maskParts n (ws.drop (4 + ne))).map (fun l => ws.take (4 + ne) :: l)

/-- A table has the length of R614. -/
def tableLenOk (tid : Nat) (ws : List Word) : Bool :=
  let n := ws.length
  match tid with
  | 1 => let q := tw ws 0 % 128; decide (1 ≤ q ∧ q ≤ 64 ∧ n = 80 + 40 * q)
  | 2 => n = 1536
  | 3 => n = 131072
  | 4 => n = 176
  | 5 => let q := tw ws 0 % 32; decide (1 ≤ q ∧ q ≤ 16 ∧ n = 1 + 4 * q)
  | 6 => n = 65
  | 7 => ws ≠ [] && (calSections n ws).isSome
  | 8 => let q := tw ws 0 % 16; decide (1 ≤ q ∧ q ≤ 8) && (maskParts q (ws.drop 1)).isSome
  | _ => n = 64

/-- Step 19. -/
def IFrame.lenOk (f : IFrame) : Bool :=
  let n := f.words.length
  match f.type with
  | 1 => n = 2
  | 2 => decide (1 ≤ n ∧ n ≤ 64)
  | 3 => tableLenOk f.tid f.words
  | 4 => n % 2 = 0 && decide (2 ≤ n ∧ n ≤ 2048)
  | 5 => n = 4
  | 6 => n = 3
  | 7 => n = 344
  | _ => decide (n ≤ 1024)

/-! ### Contents (step 20) -/

/-- A CODE frame (R56). -/
def codeOk (ws : List Word) : Bool :=
  tw ws 0 ≠ 0 && within 0xFFFFFF (nth 0 ws 0) && within 0xF (nth 0 ws 1) && within 0xFFFF (nth 0 ws 2) && within 0xFFFF (nth 0 ws 3)
    && tw ws 2 ≠ 1

/-- The emitters that a sequence's first L entries name, and those of all its entries. -/
def patternOf (t : List Word) (q n : Nat) : Nat :=
  (List.range n).foldl (fun m j => m ||| (seqWord t q (8 + 2 * j) + seqWord t q (9 + 2 * j) * 2 ^ 32)) 0

/-- A sequence of a shot table (R152, R153). -/
def seqFieldsOk (t : List Word) (q : Nat) : Bool :=
  let w := seqWord t q
  let l := w 2 / 65536 % 32
  decide (2000 ≤ w 0 ∧ w 0 < 2 ^ 26 ∧ 250 ≤ w 1 ∧ w 1 ≤ 16384 ∧ 1 ≤ w 2 % 2048 ∧ 1 ≤ l ∧ l ≤ 16 ∧ 1 ≤ w 3 ∧ w 3 < 2 ^ 24
      ∧ w 4 < 2 ^ 24 ∧ w 4 + w 3 - 1 ≤ 0xFFFFFF ∧ w 5 ≤ 3 ∧ w 6 = 0 ∧ w 7 = 0)
    && within 0x1F07FF (w32 (w 2)) && (List.range 16).all (fun j => j < l || (w (8 + 2 * j) = 0 && w (9 + 2 * j) = 0))
    && patternOf t q l ≠ 0

/-- A shot table (R153). -/
def shotOk (t : List Word) : Bool :=
  let n := seqCount t
  within 0x7F (nth 0 t 0) && (List.range 48).all (fun k => let b := tw t (1 + k / 4) / 2 ^ (8 * (k % 4)) % 256; b < n || b = 0xFF)
    && tw t 13 + tw t 14 + tw t 15 = 0
    && (List.range 64).all (fun e => within 0x1FF03FF (nth 0 t (16 + e)) && emitterWidth t e ≤ 312)
    && (List.range n).all (fun q => seqFieldsOk t q && (List.range q).all (fun p => patternOf t q 16 &&& patternOf t p 16 = 0))

/-- A pixel class table (R178). -/
def classOk (t : List Word) : Bool :=
  (List.range 8).all (fun j =>
      let w := fun i => nth 0 t (4 * j + i)
      within 0xFFFFFF (w 0) && within 0x3FFFF (w 1) && within 0x3FFFF (w 2) && within 0xFF (w 3) && clsK t j ≠ 7
        && decide (clsO0 t j + 256 * 2 ^ clsK t j ≤ clsReach t j)
        && within 0x77 (nth 0 t (32 + 2 * j)) && within 0xFFFFFF (nth 0 t (33 + 2 * j)))
    && ((t.drop 48).all (within 0x8001FFFF))

/-- A converter allows a reference (R231). -/
def refAllowed (k ref : Nat) : Bool := ref = 0 || ref = 2 || (ref = 1 && 48 ≤ k)

/-- The curve parameters of an entry (R257); a cold junction is looked up under the merged plane. -/
def curveOk (pl : Option Plane) (e : List Word) : Bool :=
  let c := Ent.ctl e
  let ref := Ent.ref c
  let p := tw e
  match Ent.curve c with
  | 0 => p 1 + p 2 + p 3 = 0
  | 1 | 2 => p 1 + p 2 + p 3 = 0 && ref = 1
  | 3 => p 1 ≠ 0 && p 3 = 0 && ref = 1
  | 4 => ref = 1
  | 5 | 6 =>
    let j := seqCtl (adcSeq pl (p 1 / 256 % 64)) (p 1 % 16)
    within 0x80003F0F (nth 0 e 1) && p 3 = 0 && ref = 0
      && (if (p 1).testBit 31 then true
          else p 2 = 0 && p 1 / 256 % 64 < 54 && p 1 % 16 < (adcSeq pl (p 1 / 256 % 64)).length
            && (1 ≤ Ent.curve j && Ent.curve j ≤ 4 || Ent.curve j = 7))
  | 7 => p 1 ≠ p 2 && ref = 0
  | _ => false

/-- A converter sequence (R236). -/
def seqOk (pl : Option Plane) (k : Nat) (t : List Word) : Bool :=
  let es := entries4 (t.drop 1)
  within 0x1F (nth 0 t 0)
    && es.all (fun e =>
      let c := Ent.ctl e
      c < 2 ^ 20 && inputExists k (Ent.input c) && refAllowed k (Ent.ref c) && Ent.filt c ≠ 3 && !(Ent.dcb c && Ent.filt c = 0)
        && curveOk pl e && !(k < 48 && Ent.input c < 16 && c ≠ Ent.input c))
    && (48 ≤ k || (List.range 16).all (fun i => decide ((es.filter (fun e => Ent.input (Ent.ctl e) = i)).length ≤ 1)))

/-- A coefficient bank (R252). -/
def bankOk (t : List Word) : Bool :=
  let gain := fun b => (List.range 32).foldl (fun n i => n + (tap t b i).natAbs) 0
  within 1 (nth 0 t 0) && (t.drop 1).all (within 0x3FFFF) && gain 0 ≤ 262144 && gain 1 ≤ 262144

/-- Numbers strictly rise. -/
def rising : List Int → Bool
  | a :: b :: l => a < b && rising (b :: l)
  | _ => true

/-- A point of a calibration section (R315, R316). -/
def pointOk (kind : Nat) (ws : List Word) : Bool :=
  match kind with
  | 1 => let v := entriesOf 1 ws; rising v && v.all (fun x => x ≤ 2047)
  | 4 => within 0xFFFF (nth 0 ws 16)
  | 5 => within 0xFFFF (nth 0 ws 0)
  | 6 => ws.zipIdx.all (fun p => within 0xFFFFFF p.1 && (p.2 % 2 = 0 || p.1 ≠ 0))
  | 7 => ws.all (within 0xFFFFFF)
  | _ => true

/-- A calibration section at an address (R316). -/
def calSectionOk (r b c : Nat) (ws : List Word) : Bool :=
  let h := nth 0 ws 0
  let kind := h.toNat % 256
  let nt := h.toNat / 256 % 16
  let keys := (halves ((ws.drop 1).take 4)).map (sext 16)
  let p := pointWords kind
  within 0x1FFF h && (!h.getLsbD 12 || kind = 1) && sectionAt r b c kind
    && rising (keys.take nt) && (keys.take nt).all (fun k => -5500 ≤ k && k ≤ 12500) && (keys.drop nt).all (fun k => k = 0)
    && (takePoints p ((ws.length - 5) / p) (ws.drop 5)).all (pointOk kind)

/-- A calibration table (R316). -/
def calOk (r b c : Nat) (t : List Word) : Bool :=
  match calSections t.length t with
  | none => false
  | some l =>
    let kinds := l.map (fun ws => tw ws 0 % 256)
    l.all (calSectionOk r b c) && kinds.all (fun k => (kinds.filter (· = k)).length = 1)

/-- A mask of a capture mask envelope (R352). -/
def maskOk (ws : List Word) : Bool :=
  let h := nth 0 ws
  let hist : Bool := (h 0).toNat % 4 = 0
  let ne := (h 0).toNat / 65536 % 1024
  within 0x3FFFF07 (h 0) && (h 0).toNat % 4 ≠ 3 && within (if hist then 0x1FF03FF else 0x1E0003FF) (h 1)
    && within (if hist then 0xFFFFFF else 0) (h 2) && within (if hist then 0xFFFFFF else 0) (h 3)
    && (h 1).toNat % 1024 ≤ 767 && (h 1).toNat / 65536 % 512 + ne ≤ 512 && (h 2).toNat ≤ (h 3).toNat
    && (ws.drop 4).all (fun e => e.toNat % 65536 ≤ e.toNat / 65536)

/-- A capture mask envelope (R352). -/
def masksOk (t : List Word) : Bool :=
  within 0xF (nth 0 t 0) && (match maskParts (tw t 0) (t.drop 1) with | none => false | some l => l.all maskOk)

/-- The named bits of word `i` of a loop parameter set (R281). -/
def loopMask (i : Nat) : Nat :=
  nth (if i % 2 = 0 then 0xFFFFFFFF else 0xFFFFFF)
    [0x1F07, 0xFFFFFF, 0xFFFFFF, 0xFFFFFFFF, 0xFFFFFFFF, 0xFFFFFFFF, 0xFFFFFF, 0xFFFFFF, 0xFFFFFF, 0xFFFFFF, 0xFFFFFFFF, 0xFFFFFFFF, 0xFFF,
     0xFFFFFF, 0x3F1F, 0xFFFFFFFF, 0x3FFFFFF, 0xFFFF, 0xFFFFFF, 0xFFFFFFFF, 0xFFFFFFFF, 0x103FF, 0, 0, 0, 0, 0, 0, 0, 0, 0, 0] i

/-- A loop parameter set (R282); a feedback entry is looked up under the merged plane. -/
def loopOk (pl : Option Plane) (l : Nat) (t : List Word) : Bool :=
  let kind := LSet.kind t
  let req := LSet.req t
  t.zipIdx.all (fun p => within (loopMask p.2) p.1)
    && (if l < 8 then kind ≤ 1 else if l < 56 then kind = 2 else kind = 3)
    && (LSet.inject t || (48 ≤ LSet.conv t && LSet.conv t < 54 && LSet.entry t < (adcSeq pl (LSet.conv t)).length))
    && (if kind = 2 then 20000 else 2000) ≤ LSet.period t
    && LSet.uMin t ≤ LSet.uMax t && LSet.fbMin t < LSet.fbMax t && !(kind = 2 && LSet.uMin t < 0)
    && !(LSet.rateLim t ≠ 0 && LSet.accLim t = 0) && (LSet.frzN t = 0 || 8 ≤ LSet.frzN t)
    && LSet.nProf t ≤ 16 && rising ((List.range (LSet.nProf t)).map (fun i => (LSet.profTime t i : Int)))
    && !((kind = 1 || kind = 2) && LSet.nProf t ≠ 0)
    && !(kind = 1 && (LSet.inject t || LSet.perFrame t = 0 || LSet.lockTol t = 0))
    && !(kind = 2 && (Ent.input req ≠ 16 || Ent.ref req ≠ 0 || (!LSet.tDie t && LSet.tConv t ≠ 52 && LSet.tConv t ≠ 53)))
    && !(kind = 3 && LSet.target t = 1 && LSet.tLoop t = l)

/-- Step 20 of one frame, under the merged plane. -/
def IFrame.contentOk (pl : Option Plane) (f : IFrame) : Bool :=
  let k := converterNo f.region f.block f.cell
  match f.type, f.tid with
  | 5, _ => codeOk f.words
  | 7, _ => setOk pl f.body
  | 3, 1 => shotOk f.words
  | 3, 3 => f.words.all (fun w => getF Gate.up w ≤ 6)
  | 3, 4 => classOk f.words
  | 3, 5 => seqOk pl k f.words
  | 3, 6 => bankOk f.words
  | 3, 7 => calOk f.region f.block f.cell f.words
  | 3, 8 => masksOk f.words
  | 3, 9 => loopOk pl (f.cell - 0x40) f.words
  | _, _ => true

end Sys2Proof.Machine
end

