-- ==== Sys2Proof/Machine/CutPlane.lean ====
section
/-!
DEFINITION. The merged plane: capacity, STRUCTURE, matrix, ROUTE and POWER rules and the combination matrix, steps 21 to 26 of R59
with R51, R52, R54, R55, R57, R66, R181, R221, R615.
-/
namespace Sys2Proof.Machine

/-! ### Breaches -/

/-- The frames that carry a breach: their keys. A rule that is broken gives at least one entry, be it empty. -/
abbrev Breach := List (List Nat)

/-- The index that `CUT_ERROR`.frame gives for breaches in the merged plane: the lowest of an image frame whose key carries one (R59). -/
def carrier (fs : List IFrame) (b : Breach) : Nat :=
  match fs.find? (fun f => b.any (fun ks => ks.contains f.key)) with
  | some f => f.idx
  | none => 0xFFFF

/-- Keys of the region-common and the block-common STRUCTURE frame. -/
def regionKey (r : Nat) : Nat := fkey (regionCommon r) 1
def blockKey (r b : Nat) : Nat := fkey (r * 2 ^ 24 + b * 2 ^ 16 + 0xFF00) 1
def channelKeys (c : Nat) : List Nat := [regionKey (8 + c / 128), blockKey (8 + c / 128) (c / 16 % 8)]
def lkKeys : List Nat := [regionKey 5]
def routeKey : Nat := fkey 0x00FFFF00 4
def powerKey : Nat := fkey 0x00FFFF00 6
def matrixKey : Nat := fkey 0x04FFFF00 0x0203

/-! ### STRUCTURE (step 22) -/

/-- Blocks of a region, and cells of its blocks, that STRUCTURE frames decide (R16, R51). -/
def regionBlocks (r : Nat) : Nat := if r = 3 ∨ r = 6 then 1 else if r < 8 then 4 else 8
def blockCells (r : Nat) : Nat := if r = 3 ∨ r = 5 then 8 else 16

/-- Stage `a` stands behind stage `b`, if it stands at all. -/
def follows (l : List Nat) (a b : Nat) : Bool := !l.contains a || (l.takeWhile (· ≠ a)).contains b

/-- A stage list obeys R52. -/
def stagesOk (w : Nat) : Bool :=
  let l := stageCodes 8 w
  l.all (· ≤ 8) && l.all (fun c => (l.filter (· = c)).length = 1) && follows l 2 1 && follows l 3 2 && follows l 4 3 && follows l 5 3
    && follows l 6 5 && follows l 7 2 && (List.range 7).all (fun c => c = 0 || !l.contains c || follows l 7 c)

/-- Pairing codes obey R51. -/
def pairsOk (w : Nat) : Bool := (List.range 8).all (fun k => w / 16 ^ k % 4 ≠ 3 && w / 16 ^ k % 4 = w / 16 ^ k / 4 % 4)

/-- A STRUCTURE frame obeys R51 and R52. Bits 8 to 15 of cell_enable stand for no cell of an LK or SC block and must be 0, as bits of absent
blocks must: the model's choice (log entry 22). -/
def structOk (f : Frame) : Bool :=
  let r := f.f0 / 2 ^ 24 % 16
  let w0 := tw f.words 0 % 65536
  let w1 := tw f.words 1
  if f.f0 / 2 ^ 16 % 256 = 0xFF then w0 < 2 ^ regionBlocks r && (if isRx r then stagesOk w1 else w1 = 0)
  else w0 < 2 ^ blockCells r && (if isRx r then pairsOk w1 else w1 = 0)

/-- Each enabled cell's input stands in the ambient sequence of its block (R236). -/
def ambientOk (pl : Option Plane) (k : Nat) : Bool :=
  !blockOn pl (rxRegion k) (rxBlock k) || (List.range 16).all (fun c =>
    !cellOn pl (rxRegion k) (rxBlock k) c || (adcSeq pl k).any (fun e => Ent.input (Ent.ctl e) = c))

def structBreach (p : Plane) : Breach :=
  ((p.filter (fun f => f.f1 = 1 && !structOk f)).map (fun f => [f.key]))
    ++ ((List.range 48).filter (fun k => !ambientOk (some p) k)).map (fun k =>
        [fkey (adcFrame k) 0x0503, regionKey (rxRegion k), blockKey (rxRegion k) (rxBlock k)])

/-! ### The shot–channel matrix (step 23) -/

/-- A channel may stand in the matrix: enabled, and not the idle half of a split pair. -/
def mayListen (pl : Option Plane) (c : Nat) : Bool := rxCellOn pl c && !(rxPairing pl c = 2 && c % 2 = 1)

/-- A channel's place in the matrix breaks R54. -/
def matrixBad (pl : Option Plane) (c : Nat) : Bool :=
  let any : Bool := anyBelow (fun e => listens pl e c) 64
  (any && !mayListen pl c) || (!any && mayListen pl c)
    || (rxCellOn pl c && rxPairing pl c = 1 && anyBelow (fun e => listens pl e c != listens pl e (c ^^^ 1)) 64)

def matrixBreach (p : Plane) : Breach :=
  if regionPresent (some p) 4 then ((List.range 768).filter (matrixBad (some p))).map (fun c => matrixKey :: channelKeys c) else []

/-! ### Routes (step 24) -/

/-- A summary word that a kind 0x3 entry may name exists (R487, R490). -/
def summaryAt (r b c : Nat) : Bool :=
  isRegion r && (if b = 0xFF then c = 0xFF || (r = 1 && c = 0xFE)
    else if r = 2 then b < 2 && c = 0xFF
    else if r = 3 then b = 0 && 0xFC ≤ c && c ≤ 0xFF
    else (if r = 4 ∨ r = 5 then b < 4 else isRx r && b < 8) && (c = 0xFE || c = 0xFF))

/-- The kind and the stream and source fields of an entry. -/
def Route.kind (e : Nat × Nat) : Nat := e.1 / 2 ^ 28
def Route.stream (e : Nat × Nat) : Nat := e.1 / 2 ^ 24 % 16
def Route.source (e : Nat × Nat) : Nat := e.1 / 2 ^ 20 % 16

/-- Lanes in enabled LK blocks, as a mask. -/
def enabledLanes (pl : Option Plane) : Nat := bitsBelow (fun l => blockOn pl 5 (l / 8)) 32

/-- An entry obeys the rules of R55 that concern it alone. -/
def routeOk (pl : Option Plane) (e : Nat × Nat) : Bool :=
  let a := e.1
  match Route.kind e with
  | 1 => a % 2 ^ 20 = 0 && Route.stream e ≤ 5 && (if Route.stream e ≤ 1 then isRx (Route.source e) else Route.source e = 0)
      && e.2 &&& enabledLanes pl = e.2 && (Route.stream e ≠ 5 || e.2 = 0xC0000000)
  | 2 => a / 2 ^ 24 % 16 = 0 && a / 2 ^ 16 % 16 = 0 && a / 16 % 16 = 0 && isRx (Route.source e) && a / 256 % 256 < 8 && a % 16 ≠ 0 && e.2 = 0
  | 3 => a % 256 = 0 && summaryAt (a / 2 ^ 24 % 16) (a / 2 ^ 16 % 256) (a / 256 % 256)
  | _ => false

/-- Two entries are for one stream and source, or give one block's weight. -/
def routeTwice (e g : Nat × Nat) : Bool :=
  (Route.kind e = 1 && Route.kind g = 1 && e.1 / 2 ^ 20 = g.1 / 2 ^ 20)
    || (Route.kind e = 2 && Route.kind g = 2 && Route.source e = Route.source g && e.1 / 256 % 256 = g.1 / 256 % 256)

def routeBreach (p : Plane) : Breach :=
  let rs := routes (some p)
  let pair : Bool := rs.any (fun e => Route.kind e = 1 && Route.stream e = 5)
  let lanes : Bool := rs.any (fun e => Route.kind e = 1 && e.2 &&& enabledLanes (some p) ≠ e.2)
  let bad := rs.any (fun e => !routeOk (some p) e || (rs.filter (routeTwice e)).length > 1
    || (pair && Route.kind e = 1 && Route.stream e ≠ 5 && e.2 / 2 ^ 30 ≠ 0))
  if bad then [routeKey :: (if lanes then lkKeys else [])] else []

/-! ### Power (step 25) -/

/-- The STRUCTURE frames by which a domain is needed (R57). -/
def domainKeys (d : Nat) : List Nat :=
  if d < 48 then [regionKey (8 + d / 8)]
  else if d < 54 then [regionKey (d - 40)]
  else if d < 59 then [regionKey 4]
  else if d < 63 then [regionKey 5]
  else if d = 63 then [regionKey 6] else if d = 64 then [regionKey 3] else []

def powerBreach (p : Plane) : Breach :=
  match powerMap (some p) with
  | none => []
  | some m =>
    (if m / 2 ^ 70 ≠ 0 then [[powerKey]] else [])
      ++ ((neededDomains (some p)).filter (fun d => !m.testBit d)).map (fun d => powerKey :: domainKeys d)

/-! ### The combination matrix (step 26, R66) -/

/-- The enabled blocks that a plane binds, with their sequences. -/
def boundBlocks (pl : Option Plane) : List (Nat × Nat) :=
  (List.range 48).filterMap (fun k => if blockOn pl (rxRegion k) (rxBlock k) then (binding (shotTable pl) k).map (fun q => (k, q)) else none)

/-- The classes that a bound block selects (R179, R181). -/
def classesOf (pl : Option Plane) (k q : Nat) : List Nat :=
  let t := classTable pl (rxRegion k)
  let sel := tw t (32 + 2 * rxBlock k)
  let split := tw t (33 + 2 * rxBlock k) % 2 ^ 24
  if t = [] then [0]
  else (if 0 < split then [sel % 8] else []) ++ (if split < seqPixels (shotTable pl) q then [sel / 16 % 8] else [])

/-- Dither applies to a sequence (R163). -/
def dithers (pl : Option Plane) (q : Nat) : Bool := codeFrame pl ≠ [] && (seqWord (shotTable pl) q 5).testBit 0

/-- A class that a bound block selects reaches beyond the slot period of a sequence without dither. As for the longest window, every block
with a binding is bound, be it enabled or not (R151, R181). -/
def ambiguous (pl : Option Plane) : Bool :=
  (List.range 48).any (fun k => (binding (shotTable pl) k).any (fun q => !dithers pl q && (classesOf pl k q).any (fun j =>
    decide (8 * seqPeriod (shotTable pl) q < clsReach (classTable pl (rxRegion k)) j))))

/-- A dwell is below 2,048 ns in a block that extracts. -/
def dwellShort (pl : Option Plane) : Bool :=
  (boundBlocks pl).any (fun e => stageList pl (rxRegion e.1) ≠ [] && seqShots (shotTable pl) e.2 * seqPeriod (shotTable pl) e.2 < 2048)

/-- A frame offset is below the longest listening window + 300 ns. -/
def offsetShort (pl : Option Plane) : Bool :=
  (List.range (seqCount (shotTable pl))).any (fun q => seqOffset (shotTable pl) q < longestWindow pl + 300)

/-- Point traffic of a cell per pixel, in bytes (R221). -/
def pointBytes (pl : Option Plane) (r : Nat) : Nat :=
  let w := cutReg pl (EX_REC (r - 8))
  if getF EX_REC.kind w = 1 then 48 else if getF EX_REC.mode w = 3 then 64 else 16

/-- Point records' bytes, and histograms, of a block per pixel (R615). -/
def blockPoints (pl : Option Plane) (k : Nat) : Nat := countBelow (reporting pl k) 16 * pointBytes pl (rxRegion k)
def blockHists (pl : Option Plane) (k : Nat) : Nat :=
  countBelow (reporting pl k) 16 + countBelow (fun i => reporting pl k i && rxPairing pl (k * 16 + i) = 2) 16

/-- What a route carries per ns: bytes of POINT (stream 0) or histograms of HIST (stream 1) of a region. -/
def offered (pl : Option Plane) (stream r : Nat) : Rat :=
  if (stageList pl r).contains (if stream = 0 then 7 else 8) then
    (boundBlocks pl).foldl (fun x e => if rxRegion e.1 = r then
      x + (((if stream = 0 then blockPoints pl e.1 else blockHists pl e.1) : Nat) : Rat)
        / ((seqShots (shotTable pl) e.2 * seqPeriod (shotTable pl) e.2 : Nat) : Rat) else x) 0
  else 0

/-- The lane budget of R615. A load of 25 Gb/s is 25/8 bytes in 1 ns; 80 M histograms/s are 0.08 in 1 ns. A stream with an entry whose lane mask
is 0 counts as routed, so its histograms enter the second limit: the model's choice (log entry 20). -/
def laneBudget (pl : Option Plane) : Bool :=
  let rs := (routes pl).filter (fun e => Route.kind e = 1 && Route.stream e ≤ 1)
  let shares := rs.map (fun e => (e, (if Route.stream e = 0 then (1 : Rat) else 1044) * offered pl (Route.stream e) (Route.source e)
    / ((max 1 (countBelow (fun l => e.2.testBit l) 32) : Nat) : Rat)))
  let hists := (rs.filter (fun e => Route.stream e = 1)).foldl (fun x e => x + offered pl 1 (Route.source e)) 0
  (hists ≤ 8 / 100) && (List.range 32).all (fun l =>
    decide ((shares.filter (fun p => p.1.2.testBit l)).foldl (fun x p => x + p.2) 0 ≤ 25 / 8))

/-- A region, or a block of it, is absent from a plane. -/
def absentAt (pl : Option Plane) (r b : Nat) : Bool :=
  3 ≤ r && (!regionPresent pl r || (b ≠ 0xFF && !blockOn pl r b))

/-- Something in the plane is addressed to what is absent. -/
def addressAbsent (p : Plane) : Bool :=
  p.any (fun f => (f.f1 = 2 || f.f1 % 256 = 3) && absentAt (some p) (f.f0 / 2 ^ 24 % 16) (f.f0 / 2 ^ 16 % 256))
    || (routes (some p)).any (fun e => Route.kind e = 3 && absentAt (some p) (e.1 / 2 ^ 24 % 16) (e.1 / 2 ^ 16 % 256))

/-- A stream is routed. -/
def routed (pl : Option Plane) (stream : Nat) : Bool := (routes pl).any (fun e => Route.kind e = 1 && Route.stream e = stream)

/-- Step 26: the code of the first row of R66 that the plane breaks, 0 if it breaks none. PAIR needs lanes 30 and 31 both: with one of them
disabled the plane is refused, the model's choice (log entry 20). -/
def combination (p : Plane) : Nat :=
  let pl := some p
  if ambiguous pl then 0x1A
  else if dwellShort pl then 0x1B
  else if offsetShort pl then 0x10
  else if !laneBudget pl then 0x18
  else if routed pl 5 && !(cellOn pl 5 3 6 && cellOn pl 5 3 7) then 0x17
  else if addressAbsent p then 0x0F
  else if !regionPresent pl 4 && (List.range 48).any (fun k => blockOn pl (rxRegion k) (rxBlock k) && stageList pl (rxRegion k) ≠ []) then 0x19
  else if !regionPresent pl 6 && routed pl 2 then 0x17
  else 0

/-- Words of the canonical content of a plane (R61). -/
def canonLen (p : Plane) : Nat := p.foldl (fun n f => n + 3 + f.words.length) 2

end Sys2Proof.Machine
end

