-- ==== Sys2Proof/Machine/Cut.lean ====
section
/-!
DEFINITION. The shadow plane's writes, commands and validation (R58 to R60, R64, R65, R67, R68, R71, R73, R565, R616).
-/
namespace Sys2Proof.Machine

/-! ### Validation (R59) -/

/-- A word of the image's header as a number (R46). -/
def State.headerWord (s : State) (i : Nat) : Nat := (s.shadowWord i).toNat
def State.partialCut (s : State) : Bool := s.headerWord 5 = 1

/-- The image's frames as the walk reads them, and the index of one that does not fit (R613). -/
def State.walk (s : State) : List IFrame × Option Nat := frameWalk s (s.headerWord 7 - 1972) (s.headerWord 4 + 1) 16 0

/-- Steps 1 to 5: 0, or the code of the first that fails. -/
def State.headerFault (s : State) : Nat :=
  let w := s.headerWord
  if w 0 ≠ 0x43544B43 then 1
  else if w 1 / 65536 ≠ 1 then 2
  else if w 2 ≠ 0x768 then 3
  else if crc32 (s.shadowWords 0 15) ≠ s.shadowWord 15 then 4
  else if 1 < w 5 ∨ w 11 + w 12 + w 13 + w 14 ≠ 0 ∨ 3 < w 8 ∨ w 4 = 0 ∨ 65535 < w 4 ∨ w 6 &&& 0x3F7F ≠ w 6
      ∨ (w 5 = 0 ∧ (w 6 ≠ 0x3F7F ∨ w 10 ≠ 0)) ∨ w 7 * 4 ≠ (s.reg CUT_SHADOW_LEN).toNat ∨ 2097152 < w 7 * 4 ∨ w 7 < 1988 then 5
  else 0

/-- Steps 6 to 9: the code and index of the first failure. -/
def State.framesFault (s : State) : Option (Nat × Nat) :=
  let (fs, short) := s.walk
  match short with
  | some i => some (5, i)
  | none =>
    match fs.find? (fun f => !f.crc) with
    | some f => some (6, f.idx)
    | none =>
      match fs.find? (fun f => f.f3 ≠ f.idx) with
      | some f => some (7, f.idx)
      | none => if fs.length = s.headerWord 4 then none else some (8, min fs.length (s.headerWord 4))

/-- Steps 10 to 14. -/
def State.trustFault (s : State) : Nat :=
  let fs := s.walk.1
  let at_ := s.headerWord 7 - 1972
  let digest := s.shadowWords at_ 8
  let epoch := s.headerWord 3
  let live := (s.reg LIVE_EPOCH).toNat
  if sha256 (canonWords (addFrames fs [])) ≠ digest then 9
  else if (s.keySlot (s.headerWord 8)).1 ≠ 1 then 0xA
  else if !s.signed (s.headerWord 8) (s.shadowWords 0 16) digest (s.shadowWords (at_ + 8) 1964) then 0xB
  else if live = 0xFFFFFFFF ∨ ¬((epoch = 0 ∧ ¬s.partialCut) ∨ epoch = live + 1) then 0xC
  else if s.partialCut ∧ s.shadowWord 10 ≠ s.reg (LIVE_DIGEST 0) then 0xD
  else 0

/-- The prospective plane of the image (R62). -/
def State.prospective (s : State) : Plane := mergePlane s.partialCut s.cut.live s.walk.1

/-- Steps 15 to 20: the code and index of the first failure. -/
def State.contentFault (s : State) : Option (Nat × Nat) :=
  let fs := s.walk.1
  let keys := fs.map IFrame.key
  let kept := if s.partialCut then (s.cut.live.getD []).filter (fun f => !keys.contains f.key) else []
  let bad := fun (p : IFrame → Bool) => (fs.find? (fun f => !p f)).map IFrame.idx
  match bad IFrame.typeOk with
  | some i => some (0xE, i)
  | none =>
    match bad (IFrame.addrOk (s.headerWord 6)) with
    | some i => some (0xF, i)
    | none =>
      match dupFrame [] fs with
      | some i => some (0x11, i)
      | none =>
        match paramFault kept [] fs with
        | some i => some (0x12, i)
        | none =>
          match bad IFrame.lenOk with
          | some i => some (0x13, i)
          | none => (bad (IFrame.contentOk (some s.prospective))).map (fun i => (0x14, i))

/-- Steps 21 to 26: the code, 0 for a pass, and the index. -/
def State.planeFault (s : State) : Nat × Nat :=
  let p := s.prospective
  let fs := s.walk.1
  let by_ := fun (code : Nat) (b : Breach) (k : Nat × Nat) => if b = [] then k else (code, carrier fs b)
  if 524288 < canonLen p then (0x1F, 0xFFFF)
  else by_ 0x15 (structBreach p) (by_ 0x19 (matrixBreach p) (by_ 0x17 (routeBreach p) (by_ 0x16 (powerBreach p) (combination p, 0xFFFF))))

/-- Steps 27 to 29 (R58): 0, or the code of the first that fails. -/
def State.safetyFault (s : State) : Nat :=
  match s.walk.1.find? (fun f => f.type = 7) with
  | none => if s.partialCut then 0 else 0x1C
  | some f =>
    let pwd := (s.sf.pwdA.getD []).map BitVec.toNat
    if sha256Bytes (pwd ++ bytesOf (f.body ++ [s.shadowWord 3])) ≠ f.words.drop 336 then 0x1D
    else if (s.sf.set <|> s.sf.stored) = some f.body then 0
    else if s.headerWord 3 = 0 then 0xC
    else if !s.cut.presenceAtValidate then 0x1E
    else 0

/-- The verdict on the shadow plane: code 0 for a pass, else the error code and frame of `CUT_ERROR` (R59, R75). -/
def State.verdict (s : State) : Nat × Nat :=
  if s.headerFault ≠ 0 then (s.headerFault, 0xFFFF)
  else match s.framesFault with
    | some e => e
    | none =>
      if s.trustFault ≠ 0 then (s.trustFault, 0xFFFF)
      else match s.contentFault with
        | some e => e
        | none => if s.planeFault.1 ≠ 0 then s.planeFault else (s.safetyFault, 0xFFFF)

/-! ### Ownership and refusal (R67, R616) -/

/-- The requester may act on the shadow plane. -/
def State.ownsShadow (s : State) (q : Nat) : Bool :=
  s.shadowState = 0 || (s.fget CUT_STATUS CUT_STATUS.owner = ownerCode q && s.fget CUT_STATUS CUT_STATUS.owner_lane = ownerLane q)

/-- The requester becomes owner of a plane that is EMPTY. -/
def takeShadow (q : Nat) (s : State) : State :=
  if s.shadowState = 0 then fsets CUT_STATUS [(CUT_STATUS.owner, ownerCode q), (CUT_STATUS.owner_lane, ownerLane q)] s else s

/-- A refused command changes nothing but cmd_refused and `CUT_ERROR`. -/
def cutRefuse (code : Nat) (s : State) : State :=
  flag CUT_STATUS CUT_STATUS.cmd_refused (fsets CUT_ERROR [(CUT_ERROR.code, code), (CUT_ERROR.frame, 0xFFFF)] s)

/-- A plane that was VALID is no more: nothing stays staged, and the domains that were switched on for it go off (R67, R478). -/
def unstage (s : State) : State :=
  let s1 := setRegs (SHADOW_DIGEST 0) (List.replicate 8 0) s
  switchOffShadow { s1 with cut := { s1.cut with staged := none, stagedKeys := [] } }

/-- DISCARD empties the plane. -/
def discardShadow (s : State) : State := emptyShadow (switchOffShadow s)

/-! ### The window (R67, R547) -/

/-- The status with which a write to the shadow plane completes. -/
def State.cutWindowStatus (s : State) (q : Nat) : Nat :=
  let st := s.shadowState
  if !s.ownsShadow q then 7 else if st = 2 ∨ st = 5 ∨ st = 6 then 1 else 0

/-- A write is stored. -/
def storeShadow (q off : Nat) (w : Word) (s : State) : State :=
  let s1 := setShadow 1 (takeShadow q (if s.shadowState = 3 then unstage s else s))
  { s1 with cut := { s1.cut with shadow := put (fun _ => 0) s1.cut.shadow off w } }

/-- A window transaction completes with a status; with OK its effect happens. -/
def windowWrite (q a status : Nat) (f : State → State) (s : State) : State :=
  if !s.answers then s else if status = 0 then completeOk q (a + 1) (f s) else complete q status (a + 1) 0 s

def execCutWindowWrite (q : Requester) (offset : BitVec 19) (data : Word) (s : State) : Out :=
  .next (windowWrite q (0x30000000 + 4 * offset.toNat) (s.cutWindowStatus q) (storeShadow q offset.toNat data) s)

/-! ### Commands (R616) -/

/-- Validation begins: presence is noted for R58, and `SHADOW_DIGEST` reads 0 until the verdict. -/
def beginValidate (s : State) : State :=
  let s1 := setShadow 2 (setRegs (SHADOW_DIGEST 0) (List.replicate 8 0) s)
  { s1 with cut := { s1.cut with presenceAtValidate := s.presence, staged := none, stagedKeys := [], copying := none } }

/-- LOAD_SLOT; the management processor serves it, so a pause refuses it (R522). -/
def loadSlot (q slot : Nat) (s : State) : State :=
  let st := s.shadowState
  if s.pausing ∨ st = 2 then cutRefuse 0x24 s
  else if 5 ≤ st then cutRefuse 0x20 s
  else
    let s1 := setShadow 1 (takeShadow q (if st = 3 then unstage s else s))
    { s1 with cut := { s1.cut with copying := some slot } }

/-- VALIDATE. -/
def validate (s : State) : State :=
  match s.shadowState with
  | 0 => cutRefuse 0x22 s
  | 2 => cutRefuse 0x24 s
  | 5 | 6 => cutRefuse 0x20 s
  | _ => beginValidate s

/-- The swap is scheduled: CF has accepted it (R44, R68). -/
def scheduleAt (i : Inst) (s : State) : State :=
  let t := setShadow 5 s
  accept { t with cut := { t.cut with swapAt := some i, order := t.time.accepted } }

/-- SCHEDULE (R68, R71). The epoch does not pass 0xFFFF_FFFF (R65). -/
def schedule (s : State) : State :=
  let st := s.shadowState
  let f := (s.reg CUT_SWAP_FRAME).toNat
  if 5 ≤ st then cutRefuse 0x20 s
  else if st ≠ 3 then cutRefuse 0x22 s
  else if s.mode = .service then cutRefuse 0x23 s
  else if s.cut.swapAt.isSome ∨ s.cut.inSwap then cutRefuse 0x20 s
  else if s.reg LIVE_EPOCH = 0xFFFFFFFF then cutRefuse 0xC s
  else if f = 0 then
    (if s.mode = .loader ∨ s.mode = .configured then scheduleAt (.atTime (s.now + 10000)) s else cutRefuse 0x23 s)
  else if s.lateFrame f then cutRefuse 0x21 (flag TIME_STATUS TIME_STATUS.late_instant s)
  else scheduleAt (.atFrame f) s

/-- The condition under which a scheduled swap can be cancelled; an immediate one, scheduled with 0, never can (R68). -/
def State.cancellable (s : State) : Bool := decide (s.frameNum + 2 ≤ (s.reg CUT_SWAP_FRAME).toNat)

/-- The scheduled swap is given up. -/
def cancelSwap (s : State) : State := let s1 := setShadow 3 s; { s1 with cut := { s1.cut with swapAt := none } }

/-- CANCEL. -/
def cancel (s : State) : State :=
  match s.shadowState with
  | 5 => if s.cancellable then cancelSwap s else cutRefuse 0x21 s
  | 6 => cutRefuse 0x21 s
  | _ => cutRefuse 0x22 s

/-- DISCARD. -/
def discard (s : State) : State :=
  match s.shadowState with
  | 0 => s
  | 5 => if s.cancellable then discardShadow (cancelSwap s) else cutRefuse 0x21 s
  | 6 => cutRefuse 0x21 s
  | _ => discardShadow s

/-- A command from a requester other than the owner of a plane that is not EMPTY is refused with BUSY. -/
def byOwner (q : Nat) (f : State → State) (s : State) : State := if s.ownsShadow q then f s else cutRefuse 0x24 s

/-- A write of `CUT_CTRL` (R73). -/
def cutCommand (q : Nat) (w : Word) (s : State) : State :=
  match getF CUT_CTRL.command w with
  | 1 => byOwner q (loadSlot q (getF CUT_CTRL.slot w)) s
  | 2 => byOwner q validate s
  | 3 => byOwner q schedule s
  | 4 => byOwner q cancel s
  | 5 => byOwner q discard s
  | _ => cutRefuse 0x25 s

def execLoadSlot (q : Requester) (slot : BitVec 2) (s : State) : Out := .next (hostWrite q CUT_CTRL (byOwner q (loadSlot q slot.toNat)) s)
def execValidate (q : Requester) (s : State) : Out := .next (hostWrite q CUT_CTRL (byOwner q validate) s)
def execSchedule (q : Requester) (s : State) : Out := .next (hostWrite q CUT_CTRL (byOwner q schedule) s)
def execCancel (q : Requester) (s : State) : Out := .next (hostWrite q CUT_CTRL (byOwner q cancel) s)
def execDiscard (q : Requester) (s : State) : Out := .next (hostWrite q CUT_CTRL (byOwner q discard) s)

/-- A value of `CUT_CTRL` that names no command. -/
def execCutBadCommand (q : Requester) (command : BitVec 4) (s : State) : Out :=
  .next (if 1 ≤ command.toNat ∧ command.toNat ≤ 5 then s else hostWrite q CUT_CTRL (cutRefuse 0x25) s)

/-! ### The copy of a slot, and the verdict -/

/-- Word `i` of Cut slot `k` in flash; what was never written reads erased (R616). -/
def State.slotWord (s : State) (k i : Nat) : Word := look (fun _ => 0xFFFFFFFF) s.fw.cuts (k * 524288 + i)

/-- Flash cannot read the header of the slot; what decides that the manual does not say, so a free value does. -/
def State.headerLost (s : State) : Bool := s.free.getLsbD 0

/-- The words that LOAD_SLOT copies: the whole slot where the header's image_words is too large or the header cannot be read (R616). -/
def State.slotLen (s : State) (k : Nat) : Nat :=
  let n := (s.slotWord k 7).toNat
  if s.headerLost || decide (524288 < n) then 524288 else n

def execLoadSlotCopyDone (s : State) : Out :=
  .next (match s.cut.copying with
    | some k =>
      if s.shadowState = 1 then
        let n := s.slotLen k
        let ws := (List.range n).filterMap (fun i => let w := s.slotWord k i; if w = 0 then none else some (i, w))
        beginValidate (drawFree (flagIf s.headerLost FW_FLAGS FW_FLAGS.flash_error <| setReg CUT_SHADOW_LEN (w32 (n * 4)) { s with cut := { s.cut with shadow := ws } }))
      else s
    | none => s)

/-- The boot Cut has failed: the loader discards the plane and waits for one (R565). -/
def bootFailed (code : Nat) (s : State) : State :=
  let s1 := discardShadow (fsets MODE_STATUS [(MODE_STATUS.phase, 7), (MODE_STATUS.boot_cut_code, code)] s)
  { s1 with startup := { s1.startup with boot := false } }

/-- A validation that passes: the merged plane is staged, and the domains it needs go on (R60, R478). -/
def passed (s : State) : State :=
  let p := s.prospective
  let keys := ((s.walk.1.filter (fun f => f.type ≠ 8)).map (fun f => (f.f0, f.f1)))
  let s1 := setShadow 3 (setRegs (SHADOW_DIGEST 0) (sha256 (canonWords p))
    { s with cut := { s.cut with staged := some p, stagedKeys := keys }, fw := { s.fw with stagedSigner := some (s.headerWord 8) } })
  switchOnFor (some p) (flag CUT_STATUS CUT_STATUS.validated s1)

/-- A validation that fails: the plane is INVALID and nothing is staged. -/
def failed (e : Nat × Nat) (s : State) : State :=
  let s1 := setShadow 4 (fsets CUT_ERROR [(CUT_ERROR.code, e.1), (CUT_ERROR.frame, e.2)] (unstage s))
  flag CUT_STATUS CUT_STATUS.validate_failed s1

/-- The end of a validation. The loader's boot Cut goes on to an immediate swap (R563, R565). -/
def execValidationComplete (s : State) : Out :=
  .next (if s.shadowState = 2 then
      let e := s.verdict
      if e.1 = 0 then
        (let s1 := passed s
         if s.startup.boot && s.ownsShadow 1 then scheduleAt (.atTime (s1.now + 10000)) (setReg CUT_SWAP_FRAME 0 s1) else s1)
      else (let s1 := failed e s; if s.startup.boot && s.ownsShadow 1 then bootFailed e.1 s1 else s1)
    else s)

/-! ### The live plane (R64) -/

/-- The stored content of the live plane, with the bits that have flipped in it. -/
def State.storedLive (s : State) (p : Plane) : List Word :=
  (canonWords p).zipIdx.map (fun e => e.1 ^^^ look (fun _ => 0) s.cut.upsets e.2)

/-- Every second CF recomputes the live digest over the stored plane; `upset` is an SRAM error found there. -/
def execLiveRedigest (upset : Option (Nat × Word)) (s : State) : Out :=
  .next (match s.cut.live with
    | none => s
    | some p =>
      let s1 : State := match upset with
        | some (i, m) => { s with cut := { s.cut with upsets := put (fun _ => 0) s.cut.upsets i (look (fun _ => 0) s.cut.upsets i ^^^ m) } }
        | none => s
      if sha256 (s1.storedLive p) = s1.regsFrom (LIVE_DIGEST 0) 8 then s1
      else
        let s2 := flag CUT_STATUS CUT_STATUS.digest_fault s1
        chipReaction .digest 0 CUT_STATUS s2)

end Sys2Proof.Machine
end

