-- ==== Sys2Proof/Machine/Firmware.lean ====
section
/-!
DEFINITION. Update and key sessions, activation, confirmation and fallback, keys, attestation, and the presence window (R515, R519 to R526,
R529, R531, R533, R535, R536).
-/
namespace Sys2Proof.Machine

/-! ### Commands and sessions (R519, R535, R536) -/

/-- A command is accepted: `FW_RESULT` names it. -/
def fwAccept (command : Nat) (s : State) : State := fsets FW_RESULT [(FW_RESULT.command, command), (FW_RESULT.refusal, 0)] s

/-- A command is refused with a code of `FW_RESULT`. -/
def fwRefuse (command refusal : Nat) (s : State) : State :=
  flag FW_FLAGS FW_FLAGS.cmd_refused (fsets FW_RESULT [(FW_RESULT.command, command), (FW_RESULT.refusal, refusal)] s)

/-- The kind of session that is open: 0 none, 1 update, 2 keys; the requester owns the session of a kind. -/
def State.session (s : State) : Nat := s.fget FW_STATUS FW_STATUS.session
def State.ownsSession (s : State) (q : Nat) : Bool :=
  s.session ≠ 0 && s.fget FW_STATUS FW_STATUS.owner = ownerCode q && s.fget FW_STATUS FW_STATUS.owner_lane = ownerLane q

/-- An access of the owner to an `FW_` or `KEY_` register. -/
def touchSession (q : Nat) (s : State) : State := if s.ownsSession q then setFw { s.fw with sessionAt := s.now } s else s

/-- Words of a list go into the image slot. -/
def storeWords (l : List (Nat × Word)) (s : State) : State :=
  setFw { s.fw with image := l.foldl (fun m e => put (fun _ => 0xFFFFFFFF) m e.1 e.2) s.fw.image } s

/-- An erase or a page program is in progress. -/
def State.flashBusy (s : State) : Bool := s.fw.busyPage ≠ [] || s.fw.busySector.isSome

/-- What is left in the page buffer goes into the slot, after an erase or a page program in progress. -/
def flushPage (s : State) : State :=
  if s.flashBusy then s else let s1 := storeWords s.fw.page s; setFw { s1.fw with page := [] } s1

/-- OPEN_UPDATE and OPEN_KEYS: a window, the mode and the lock are asked for in this order. -/
def openSession (q kind : Nat) (s : State) : State :=
  if s.pausing then flag FW_FLAGS FW_FLAGS.session_busy (fwRefuse kind 1 s)
  else if !s.presence then fwRefuse kind 2 s
  else if s.mode = .loader ∨ s.mode = .off then fwRefuse kind 4 s
  else if s.session ≠ 0 then flag FW_FLAGS FW_FLAGS.session_busy (fwRefuse kind 1 s)
  else
    setFw { s.fw with owner := q, sessionAt := s.now, sectors := [], wrote := false }
      (fsets FW_STATUS [(FW_STATUS.session, kind), (FW_STATUS.owner, ownerCode q), (FW_STATUS.owner_lane, ownerLane q)] (fwAccept kind s))

/-- CLOSE. -/
def closeSession (q : Nat) (s : State) : State :=
  if s.pausing then fwRefuse 3 1 s else if !s.ownsSession q then fwRefuse 3 3 s else endSession (flushPage (fwAccept 3 s))

/-- The lock frees 60 s after the owner's last access. -/
def execUpdateSessionExpiry (s : State) : Out :=
  .next (if s.session ≠ 0 && decide (s.fw.sessionAt + 60000000000 ≤ s.now) then
      flag FW_FLAGS FW_FLAGS.session_expired (endSession (flushPage s))
    else s)

/-! ### Writing the slot (R520) -/

/-- A write of `FW_DATA` is taken. -/
def State.fwDataOk (s : State) (q : Nat) : Bool :=
  s.session = 1 && s.ownsSession q && s.fget FW_STATUS FW_STATUS.ready = 1 && decide ((s.reg FW_ADDR).toNat < 0x400000)

/-- A page buffer that holds the page's last word, or that a session has left, is programmed once the flash is free; `ready` shows whether
an operation is in progress. -/
def flashStep (s : State) : State :=
  let f := s.fw
  let s1 := if !s.flashBusy && f.page.any (fun e => e.1 % 1024 = 1023 || s.session = 0)
    then setFw { f with busyPage := f.page, page := [] } s else s
  fset FW_STATUS FW_STATUS.ready (b2n (!s1.flashBusy)) s1

/-- The write itself: the word joins the page buffer, a buffer for another page is programmed first, and a sector that the session has not
touched is erased first. -/
def fwData (w : Word) (s : State) : State :=
  let a := (s.reg FW_ADDR).toNat
  let i := a / 4
  let s1 := if s.fw.wrote then s else
    let t := writeCtl { s.ctl with imageState := 1 } s
    setFw { t.fw with wrote := true, reach := 0 } t
  let f := s1.fw
  let other : Bool := f.page.any (fun e => e.1 / 1024 ≠ i / 1024)
  let new : Bool := !f.sectors.contains (a / 65536)
  let f1 := if other then { f with busyPage := f.page, page := [] } else f
  let f2 := if new then { f1 with busySector := some (a / 65536), sectors := insertNat (a / 65536) f1.sectors } else f1
  flashStep (setReg FW_ADDR (w32 (a + 4)) (setFw { f2 with page := f2.page.filter (fun e => e.1 ≠ i) ++ [(i, w)], reach := max f2.reach (a + 4) } s1))

def execFwDataWrite (q : Requester) (data : Word) (s : State) : Out :=
  .next (hostWriteIf (s.fwDataOk q) q FW_DATA (fun t => fwData data (touchSession q t)) (if s.answers then touchSession q s else s))

/-- Words whose erase or program failed hold what the manual does not state. -/
def spoilWords (l : List Nat) (s : State) : State := l.foldl (fun t i => drawFree (storeWords [(i, t.free)] t)) s

/-- A page program or, after it, a sector erase completes, or fails. -/
def execFlashProgramDone (failed : Bool) (s : State) : Out :=
  .next (let f := s.fw
    let err := fun t => flagIf failed FW_FLAGS FW_FLAGS.flash_error t
    if f.busyPage ≠ [] then
      let t := setFw { f with busyPage := [] } s
      flashStep (err (if failed then spoilWords (f.busyPage.map Prod.fst) t else storeWords f.busyPage t))
    else match f.busySector with
      | some k =>
        let t := setFw { f with busySector := none, image := clearWhere (fun i => i / 16384 = k) f.image } s
        flashStep (err (if failed then spoilWords ((List.range 16384).map (fun i => k * 16384 + i)) t else t))
      | none => s)

/-! ### Verification (R517) -/

/-- VERIFY, in an update session, while no flash operation and no other verification runs. -/
def verify (q : Nat) (s : State) : State :=
  if s.pausing then fwRefuse 4 1 s
  else if !s.ownsSession q ∨ s.session ≠ 1 then fwRefuse 4 3 s
  else if s.fw.verifying ∨ s.fget FW_STATUS FW_STATUS.ready = 0 then fwRefuse 4 1 s
  else let t := flushPage (fwAccept 4 s); setFw { t.fw with verifying := true } t

/-- Verification ends: a pass is held in the control block as VERIFIED, with no trial start yet; a failure leaves image_state WRITING. -/
def execVerifyDone (s : State) : Out :=
  .next (if s.fw.verifying then
      let code := s.imageCheck
      let s1 := fset FW_RESULT FW_RESULT.verify_code code (setFw { s.fw with verifying := false } s)
      if code = 0 then
        flag FW_FLAGS FW_FLAGS.verified (writeCtl { s1.ctl with imageState := 2, trialStarts := 0, digest := s1.imageDigest } s1)
      else flag FW_FLAGS FW_FLAGS.verify_failed (if s1.ctl.imageState = 1 then s1 else writeCtl { s1.ctl with imageState := 1 } s1)
    else s)

/-! ### The image step of start-up, and fallback (R518, R521, R525, R563) -/

/-- The loader is in control, and notes why the processor restarted (R578): 1 fallback, 2 watchdog, 3 activation. -/
def loaderRuns (proc : Nat) (s : State) : State :=
  fset RESET_CAUSE RESET_CAUSE.proc proc (fset FW_STATUS FW_STATUS.in_control 0 s)

/-- Start-up from its image step: an application image is loaded, or the ROM service image's plane is swapped in. -/
def imageStep (s : State) : State :=
  let s1 := chooseProgram s
  let s2 := { s1 with startup := { s1.startup with boot := true } }
  if s2.fw.header ≠ [] then fset MODE_STATUS MODE_STATUS.phase 2 (setFw { s2.fw with restarting := true } s2)
  else orderRom (fset MODE_STATUS MODE_STATUS.phase 3 s2)

/-- Start-up goes on to the boot Cut: the loader owns the shadow plane (R67, R563, R579). -/
def bootCut (s : State) : State :=
  let s1 := if s.shadowState = 0 then s else discardShadow s
  loadSlot 1 s1.ctl.bootCut (fset MODE_STATUS MODE_STATUS.phase 3 (setFw { s1.fw with restarting := false } s1))

/-- Fallback. -/
def fallback (s : State) : State :=
  let s1 := chipReaction .fallback 0 FW_FLAGS s
  let s2 := flag FW_FLAGS FW_FLAGS.fallback (writeCtl { s1.ctl with imageState := 5 } s1)
  let s3 := setFw { s2.fw with header := [], digest := [], trial := false, waitReady := false, backToRun := false, restarting := false } s2
  orderRom (fset FW_STATUS FW_STATUS.pausing 0 (loaderRuns 1 s3))

/-! ### Activation (R521, R522) -/

/-- ACTIVATE. In SERVICE it runs start-up from the image step; elsewhere the pause begins. -/
def activate (q : Nat) (s : State) : State :=
  if s.pausing then fwRefuse 5 1 s
  else if !s.ownsSession q ∨ s.session ≠ 1 then fwRefuse 5 3 s
  else if s.ctl.imageState ≠ 2 then fwRefuse 5 5 s
  else if s.cut.swapAt.isSome ∨ s.cut.inSwap then fwRefuse 5 1 s
  else
    let confirm := (s.reg FW_CFG).toNat % 1024
    let s1 := endSession (flushPage (fwAccept 5 s))
    if s.mode = .service then
      let s2 := if s1.shooting then fset MODE_STATUS MODE_STATUS.service_shooting 0 (stopShooting s1) else s1
      imageStep (loaderRuns 3 (writeCtl { s2.ctl with trialStarts := 0, confirm := confirm } s2))
    else
      let run : Bool := s.mode = .run
      let s2 : State := if run then { stopShooting s1 with mode := .armed } else s1
      let s3 := writeCtl { s2.ctl with imageState := 3, trialStarts := 1, confirm := confirm } s2
      loaderRuns 3 (fset FW_STATUS FW_STATUS.pausing 1 (setFw { s3.fw with pauseAt := s3.now, wasRun := run, waitReady := false, backToRun := false } s3))

/-- The loader has read the image: in a pause, at start-up, or after a watchdog expiry. -/
def execImageLoaded (s : State) : Out :=
  .next (if s.pausing && !s.fw.waitReady then
      if sha256 s.imageBody = s.ctl.digest then
        let t := startProgram (loadImage true s)
        setFw { t.fw with waitReady := true } t
      else fallback (fset FW_RESULT FW_RESULT.verify_code 0x31 s)
    else if s.fw.restarting then
      if s.startup.boot then bootCut s
      else
        let s1 := chooseProgram s
        let s2 := setFw { s1.fw with restarting := false } s1
        if s2.fw.header ≠ [] then endCause .watchdog (startProgram s2) else orderRom s2
    else s)

/-- READY, which only the management processor gives. -/
def ready (q : Nat) (l : List (Fin 4 × List Word)) (s : State) : State :=
  if q ≠ 1 then fwRefuse 12 6 s
  else
    let s1 := writeSettings l (fwAccept 12 s)
    if s1.pausing && s1.fw.waitReady then
      let s2 := setReg FW_PAUSE (w32 ((s1.now - s1.fw.pauseAt) / 1000)) (fset FW_STATUS FW_STATUS.pausing 0 s1)
      flag FW_FLAGS FW_FLAGS.activated (setFw { s2.fw with waitReady := false, backToRun := s2.fw.wasRun && s2.mode = .armed } s2)
    else s1

/-- No READY within 100 ms of the image's start. -/
def execReadyTimeout (s : State) : Out :=
  .next (if s.pausing && s.fw.waitReady && decide (s.fw.startedAt + 100000000 ≤ s.now) then fallback s else s)

/-! ### Confirmation and the watchdog (R523, R524, R526) -/

/-- CONFIRM, which only the management processor gives, for the application image that runs. -/
def confirm (q : Nat) (switch : Bool) (l : List (Fin 4 × List Word)) (s : State) : State :=
  if q ≠ 1 then fwRefuse 6 6 s
  else
    let s1 := writeSettings l s
    let c := s1.ctl
    let slot := if switch then 1 - c.settings else c.settings
    if s1.fget FW_STATUS FW_STATUS.in_control ≠ 1 then fwRefuse 6 13 s1
    else if switch && !halfValid (s1.half slot 0) && !halfValid (s1.half slot 1) then fwRefuse 6 12 s1
    else
      let s2 := writeCtl { c with imageState := 4, trialStarts := 0, settings := slot } (fwAccept 6 s1)
      let s3 := setFw { s2.fw with trial := false, minSec := max s2.fw.minSec (tw s2.fw.header 4 % 65536) } s2
      flagIf switch FW_FLAGS FW_FLAGS.settings_switched s3

/-- The trial's deadline passes. -/
def execConfirmDeadline (s : State) : Out :=
  .next (if s.fw.trial && s.fget FW_STATUS FW_STATUS.in_control = 1 && decide (s.fw.startedAt + max 5 s.ctl.confirm * 1000000000 ≤ s.now)
    then fallback s else s)

/-- The watchdog expires: in trial that is fallback; a confirmed image restarts from the loader. -/
def execWatchdogExpiry (s : State) : Out :=
  .next (if s.fget FW_STATUS FW_STATUS.in_control ≠ 1 then s
    else if s.fw.trial then fallback s
    else
      let s1 := loaderRuns 2 (chipReaction .watchdog 0 0 s)
      setFw { s1.fw with restarting := true } s1)

/-! ### Keys (R531) -/

/-- The digest of a slot's key. -/
def State.keyDigest (s : State) (k : Nat) : List Word := sha256 ((List.range 8).map (nth 0 (s.keySlot k).2))

/-- ENROL and REVOKE are refused. -/
def keyRefuse (command refusal : Nat) (s : State) : State := flag FW_FLAGS FW_FLAGS.key_refused (fwRefuse command refusal s)

/-- A slot changes. -/
def setKey (k state : Nat) (key : List Word) (s : State) : State :=
  flag FW_FLAGS FW_FLAGS.key_changed (setFw { s.fw with keys := put (fun _ => (0, [])) s.fw.keys k (state, key) } s)

/-- ENROL. -/
def enrol (q : Nat) (s : State) : State :=
  let k := (s.reg KEY_SEL).toNat % 8
  let key := s.regsFrom (KEY_DATA 0) 8
  if s.pausing then keyRefuse 7 1 s
  else if !s.ownsSession q ∨ s.session ≠ 2 then keyRefuse 7 3 s
  else if (s.keySlot k).1 = 1 then keyRefuse 7 7 s
  else if s.fw.revoked.contains (sha256 key) then keyRefuse 7 10 s
  else setKey k 1 key (fwAccept 7 s)

/-- REVOKE. -/
def revoke (q : Nat) (s : State) : State :=
  let k := (s.reg KEY_SEL).toNat % 8
  if s.pausing then keyRefuse 8 1 s
  else if !s.ownsSession q ∨ s.session ≠ 2 then keyRefuse 8 3 s
  else if k = 4 then keyRefuse 8 8 s
  else if 32 ≤ s.fw.revoked.length then keyRefuse 8 11 s
  else if s.fw.signer = some k ∨ (s.fw.header ≠ [] ∧ ¬s.fw.trial ∧ tw s.fw.header 8 = k) then keyRefuse 8 9 s
  else
    let d := s.keyDigest k
    let s1 := setKey k 2 (s.keySlot k).2 (fwAccept 8 s)
    if s1.fw.revoked.contains d then s1 else setFw { s1.fw with revoked := s1.fw.revoked ++ [d] } s1

/-! ### Attestation (R532, R533) -/

/-- ATTEST. -/
def attest (s : State) : State :=
  if s.pausing ∨ s.fw.attesting then fwRefuse 9 1 s else let t := fwAccept 9 s; setFw { t.fw with attesting := true } t

/-- The running image's security version; 0 under the ROM service image. -/
def State.secVersion (s : State) : Nat := tw s.fw.header 4 % 65536

/-- Words 0 to 47 of the report. -/
def State.reportHead (s : State) : List Word :=
  let slots := (List.range 8).flatMap (fun k => w32 (s.keySlot k).1 :: (List.range 8).map (fun i => if (s.keySlot k).1 = 0 then 0 else nth 0 (s.keySlot k).2 i))
  let digest := if s.fw.header = [] then (List.range 8).map Config.romDigest else s.fw.digest
  [0x54414B43, 0x00010000, 0x768, w32 (s.fget FW_STATUS FW_STATUS.in_control + 4 * b2n s.fw.trial + 8 * b2n s.presence),
    Config.serial 0, Config.serial 1] ++ s.regsFrom (ATT_NONCE 0) 8 ++ (List.range 8).map (nth 0 digest) ++ s.regsFrom (LIVE_DIGEST 0) 8
    ++ [s.reg LIVE_EPOCH, w32 (s.secVersion + s.fw.minSec * 65536)] ++ sha256 slots
    ++ [w32 s.now, w32 (s.now / 2 ^ 32), s.mgmt.chip.hours, w32 s.mgmt.chip.cycles, 0, 0, 0, 0]

/-- The report is signed. -/
def execAttestDone (s : State) : Out :=
  .next (if s.fw.attesting then
      let h := s.reportHead
      flag FW_FLAGS FW_FLAGS.attest_done
        (setFw { s.fw with attesting := false, report := h ++ (List.range 4272).map (Config.attestSign h) } s)
    else s)

/-- The endorsement: serial, public key, signature. -/
def endorsementWords : List Word :=
  [Config.serial 0, Config.serial 1] ++ (List.range 8).map Config.identityKey ++ (List.range 1964).map Config.endorsement

/-! ### Cut slots (R515) -/

/-- STORE_CUT: the shadow owner's VALID image goes into a slot; what it does not fill is erased. -/
def storeCut (q slot : Nat) (s : State) : State :=
  if s.pausing then fwRefuse 10 1 s
  else if s.shadowState ≠ 3 then fwRefuse 10 13 s
  else if !s.ownsShadow q then fwRefuse 10 6 s
  else
    let lo := slot * 524288
    let ws := (List.range (min (s.headerWord 7) 524288)).filterMap (fun i => let w := s.shadowWord i; if w = 0xFFFFFFFF then none else some (lo + i, w))
    let m := s.fw.cuts
    let t := fwAccept 10 s
    setFw { t.fw with cuts := m.filter (fun e => e.1 < lo) ++ ws ++ m.filter (fun e => lo + 524288 ≤ e.1) } t

/-- SET_BOOT_CUT. -/
def setBootCut (slot : Nat) (s : State) : State := writeCtl { s.ctl with bootCut := slot } (fwAccept 11 s)

/-! ### A write of `FW_CMD` -/

/-- What a write of `FW_CMD` does. -/
def fwCommand (q : Nat) (w : Word) (s : State) : State :=
  let s1 := touchSession q s
  match getF FW_CMD.command w with
  | 1 => openSession q 1 s1
  | 2 => openSession q 2 s1
  | 3 => closeSession q s1
  | 4 => verify q s1
  | 5 => activate q s1
  | 6 => confirm q (getF FW_CMD.switch w = 1) [] s1
  | 7 => enrol q s1
  | 8 => revoke q s1
  | 9 => attest s1
  | 10 => storeCut q (getF FW_CMD.slot w) s1
  | 11 => setBootCut (getF FW_CMD.slot w) s1
  | 12 => ready q [] s1
  | n => fwRefuse n 14 s1

/-- A write of `FW_CMD` by requester `q`, of effect `f`. -/
def fwWrite (q : Nat) (f : State → State) (s : State) : Out := .next (hostWrite q FW_CMD (fun t => f (touchSession q t)) s)

def execOpenUpdate (q : Requester) (s : State) : Out := fwWrite q (openSession q 1) s
def execOpenKeys (q : Requester) (s : State) : Out := fwWrite q (openSession q 2) s
def execClose (q : Requester) (s : State) : Out := fwWrite q (closeSession q) s
def execVerify (q : Requester) (s : State) : Out := fwWrite q (verify q) s
def execActivate (q : Requester) (s : State) : Out := fwWrite q (activate q) s
def execConfirm (q : Requester) (switch : Bool) (settings : List (Fin 4 × List Word)) (s : State) : Out := fwWrite q (confirm q switch settings) s
def execEnrol (q : Requester) (s : State) : Out := fwWrite q (enrol q) s
def execRevoke (q : Requester) (s : State) : Out := fwWrite q (revoke q) s
def execAttest (q : Requester) (s : State) : Out := fwWrite q attest s
def execStoreCut (q : Requester) (slot : BitVec 2) (s : State) : Out := fwWrite q (storeCut q slot.toNat) s
def execSetBootCut (q : Requester) (slot : BitVec 2) (s : State) : Out := fwWrite q (setBootCut slot.toNat) s
def execReady (q : Requester) (settings : List (Fin 4 × List Word)) (s : State) : Out := fwWrite q (ready q settings) s

/-- A value of `FW_CMD` that names no command. -/
def execFwBadCommand (q : Requester) (command : BitVec 4) (s : State) : Out :=
  if 1 ≤ command.toNat ∧ command.toNat ≤ 12 then .next s else fwWrite q (fwRefuse command.toNat 14) s

/-! ### The presence window (R529) -/

/-- PRESENCE_N has been low for 100 ms. -/
def execPresenceOpen (s : State) : Out :=
  .next (if s.startup.inReset then s
    else
      let s1 := setFw { s.fw with presenceLow := true } s
      if s1.presence then s1 else flag FW_FLAGS FW_FLAGS.presence_opened (fset FW_STATUS FW_STATUS.presence 1 s1))

/-- PRESENCE_N rises, or 60 s have passed since it did. -/
def execPresenceClose (rose : Bool) (s : State) : Out :=
  .next (if rose then setFw { s.fw with presenceLow := false, presenceRose := s.now } s
    else if s.presence && !s.fw.presenceLow && decide (s.fw.presenceRose + 60000000000 ≤ s.now) then fset FW_STATUS FW_STATUS.presence 0 s
    else s)

/-- Seconds left of the window, rounded up; 0 while PRESENCE_N holds it open (R536). -/
def State.presenceLeft (s : State) : Nat :=
  if s.presence && !s.fw.presenceLow then (s.fw.presenceRose + 60000000000 - s.now + 999999999) / 1000000000 else 0

end Sys2Proof.Machine
end

