-- ==== Sys2Proof/Machine/Startup.lean ====
section
/-!
DEFINITION. The start-up sequence up to the choice of a program, and the mode commands (R501, R562, R563, R570 to R572, R576, R577).
-/
namespace Sys2Proof.Machine

/-- Start-up may begin: the start reference is set and no rail is bad. -/
def State.mayStart (s : State) : Bool := s.startup.ready && !s.startup.inReset && s.hk.bad = 0

/-- Steps 1 and 2: the timebase locks and TBASE starts at 0; the counters are restored from flash, the power-cycle count rises, POWER_ON is
written, and the control block is read. Step 3 follows. -/
def execStartupStart (lockNs : Nat) (s : State) : Out :=
  .next (if s.mayStart then
      let c := s.mgmt.chip
      let hours := if c.hours.toNat < c.hoursSaved.toNat then c.hoursSaved else c.hours
      let s1 := countHours lockNs <| fset TIME_STATUS TIME_STATUS.locked 1
        (setChip { c with hours := hours, cycles := satAdd 65535 c.cycles 1, seq := c.flashSeq }
          { s with time := { s.time with tbase := 0, running := true, limitFrom := 0 },
                   startup := { s.startup with ready := false, lockNs := lockNs } })
      let program := if (chooseProgram (readCtl s1)).fw.header = [] then 2 else 1
      imageStep (readCtl (forUp startAdc 48 6 (kindOne 0 3 s1.mgmt.chip.cycles program s1)))
    else s)

/-! ### Mode commands (R571, R572, R576) -/

/-- refusal and command of `MODE_STATUS` change at every write of `MODE_CMD`. -/
def modeResult (command refusal : Nat) (s : State) : State :=
  fsets MODE_STATUS [(MODE_STATUS.command, command), (MODE_STATUS.refusal, refusal)] s

/-- RUN. -/
def runCommand (s : State) : State :=
  let s1 := modeResult 1 0 s
  if s.mode = .armed then startShooting { s1 with mode := .run }
  else if s.mode = .service ∧ s.sfState 0 = 4 ∧ s.sfState 1 = 4 then
    (if s.shooting then s1 else startShooting (fset MODE_STATUS MODE_STATUS.service_shooting 1 s1))
  else modeResult 1 1 s

/-- STOP. -/
def stopCommand (s : State) : State :=
  let s1 := modeResult 2 0 s
  if s.mode = .run then { stopShooting s1 with mode := .armed }
  else if s.mode = .service ∧ s.shooting then fset MODE_STATUS MODE_STATUS.service_shooting 0 (stopShooting s1)
  else modeResult 2 1 s

/-- RESET_CHIP: the reset begins 5 µs later. -/
def resetCommand (key : Nat) (s : State) : State :=
  if key ≠ 0x5253 then modeResult 3 3 s
  else if s.mode = .armed ∨ s.mode = .run ∨ s.shooting then modeResult 3 1 s
  else let s1 := modeResult 3 0 s; { s1 with startup := { s1.startup with resetAt := some (s1.now + 5000) } }

/-- A write of `MODE_CMD`. -/
def modeCommand (command key : Nat) (s : State) : State :=
  match command with
  | 1 => runCommand s
  | 2 => stopCommand s
  | 3 => resetCommand key s
  | n => modeResult n 2 s

def execRun (q : Requester) (s : State) : Out := .next (hostWrite q MODE_CMD runCommand s)
def execStop (q : Requester) (s : State) : Out := .next (hostWrite q MODE_CMD stopCommand s)
def execResetChip (q : Requester) (key : BitVec 16) (s : State) : Out := .next (hostWrite q MODE_CMD (resetCommand key.toNat) s)

/-- A value of `MODE_CMD` that names no command, or RESET_CHIP with a wrong key. -/
def execModeBadCommand (q : Requester) (command : BitVec 4) (key : BitVec 16) (s : State) : Out :=
  .next (if command.toNat = 1 ∨ command.toNat = 2 ∨ (command.toNat = 3 ∧ key = 0x5253) then s
    else hostWrite q MODE_CMD (modeCommand command.toNat key.toNat) s)

end Sys2Proof.Machine
end

