-- ==== Sys2Proof/Machine/ReadOut.lean ====
section
/-!
DEFINITION. What a register reads (R12, R72, R172, R434, R461, R486, R509, R534, R555, R556, R558): the register file, the live plane for CUT
fields, and what is computed when it is read.
-/
namespace Sys2Proof.Machine

/-! ### Computed words -/

/-- Whole seconds until an instant, rounded up. -/
def State.secondsTo (s : State) (t : Option Nat) : Nat :=
  match t with
  | some t => (t - s.now + 999999999) / 1000000000
  | none => 0

/-- `CHIP_MODE` (R556). -/
def State.chipMode (s : State) : Word := w32 (s.mode.code + s.pair.code * 16 + b2n s.chipFault * 256)

/-- The blocks that `REGION_INFO` shows as enabled (R558). -/
def State.infoBlocks (s : State) (r : Nat) : Nat :=
  if r = 2 then 3 else if r < 2 then 0 else if r = 3 then b2n (regionPresent s.cut.live 3) else blockEnable s.cut.live r % 256

/-- The common domains of a region (R465). -/
def commonDomains (r : Nat) : List Nat :=
  if r = 0 then [66] else if r = 1 then [65] else if r = 2 then [67, 68] else if r = 3 then [64] else if r = 4 then [58]
  else if r = 5 then [] else if r = 6 then [63] else [r + 40]

/-- The domain of a block. -/
def blockDomain (r b : Nat) : Nat := domainAt (r * 0x1000000 + b * 0x10000)

/-- The region is ready (R558). -/
def State.regionReady (s : State) (r : Nat) : Bool :=
  regionPresent s.cut.live r && !s.fenced r && !s.startup.notReady.contains r && (commonDomains r).all s.domGood
    && (List.range 8).all (fun b => r = 2 || !(s.infoBlocks r).testBit b || s.domGood (blockDomain r b))

/-- `REGION_INFO` (R558). -/
def State.regionInfo (s : State) (r : Nat) : Word :=
  w32 (r + 16 * b2n (regionPresent s.cut.live r) + 32 * b2n (s.fenced r) + 64 * b2n (s.regionReady r) + 256 * s.infoBlocks r)

/-- `TX_CODE_CFG`: the live CODE frame except its seed (R172). -/
def State.codeCfg (s : State) : Word :=
  let c := codeFrame s.cut.live
  if c = [] then 0 else w32 (1 + tw c 1 % 16 * 2 + tw c 2 % 65536 * 65536)

/-- `TX_PORT_STATUS`: not enabled, masked, held off by mode or pair state, or in service (R173). -/
def State.portStatus (s : State) (p : Nat) : Word :=
  let st := if !cellOn s.cut.live 4 (p / 16) (p % 16) then 2 else if (s.port p).masked then 1 else if !s.driving then 3 else 0
  setF TX_PORT_STATUS.state st (s.reg (TX_PORT_STATUS p))

/-- `KEY_STATUS` (R534). -/
def State.keyStatus (s : State) : Word :=
  w32 ((List.range 8).foldl (fun v k => v + (s.keySlot k).1 % 4 * 4 ^ k) 0 + s.fw.revoked.length * 65536)

/-- `SF_PWD_STATUS` (R434). -/
def State.pwdStatus (s : State) : Word :=
  w32 (b2n s.sf.pwdA.isSome + 2 * b2n s.unlocked + 256 * (if s.unlocked then s.secondsTo s.sf.unlockedUntil else 0)
    + 2 ^ 16 * (s.sf.failures % 8) + 2 ^ 20 * s.secondsTo s.sf.lockedUntil)

/-! ### One register -/

/-- A CF register at block 0xFF, cell 0xFF. -/
def State.commonWord (s : State) (a : Nat) : Word :=
  if a = CHIP_MODE then s.chipMode
  else if a = TBASE_LO then w32 s.now
  else if a = TBASE_HI then w32 (s.now / 2 ^ 32)
  else if a = PAIR_STATUS then s.pairStatus
  else if a = CAL_STATUS then setF CAL_STATUS.slew_active (b2n s.slewActive) (s.reg a)
  else s.reg a

/-- A recorder or Loupe register, as requester `q` sees it. -/
def State.recWord (s : State) (q a : Nat) : Word :=
  let r := s.req q
  if a = REC_SEL then w32 r.recSel
  else if a = REC_CURSOR then r.recCursor
  else if a = REC_HEAD then (s.store r.recSel).2
  else if a = REC_OLDEST then storeOldest (s.store r.recSel)
  else if a = OP_HOURS then s.mgmt.chip.hours
  else if a = POWER_CYCLES then w32 s.mgmt.chip.cycles
  else if a = LOUPE_SEL then r.loupeSel
  else s.reg a

/-- A firmware register. -/
def State.fwWord (s : State) (a : Nat) : Word :=
  if a = FW_STATUS then setF FW_STATUS.presence_s s.presenceLeft (s.reg a)
  else if a = FW_SECVER then w32 (s.secVersion + s.fw.minSec * 65536)
  else if a = KEY_STATUS then s.keyStatus
  else if KEY_DATA 0 ≤ a ∧ a < KEY_DATA 8 then nth 0 (s.keySlot ((s.reg KEY_SEL).toNat % 8)).2 ((a - KEY_DATA 0) / 4)
  else if ATT_PUBKEY 0 ≤ a ∧ a < ATT_PUBKEY 8 then Config.identityKey ((a - ATT_PUBKEY 0) / 4)
  else if a = DEV_SERIAL_LO then Config.serial 0
  else if a = DEV_SERIAL_HI then Config.serial 1
  else s.reg a

/-- A safety register; what an index outside the staging copy, or the window code 3, selects is not stated. -/
def State.sfRead (s : State) (a : Nat) : Option Word :=
  if a = SF_PWD_STATUS then some s.pwdStatus
  else if a = SF_PARAM_DATA then s.stagingWords[(s.reg SF_PARAM_IDX).toNat]?
  else if a = SF_ENERGY_LO ∨ a = SF_ENERGY_HI then
    (if getF SF_ENERGY_IDX.window (s.reg SF_ENERGY_IDX) = 3 then none
     else some (w32 (if a = SF_ENERGY_LO then s.sfEnergy else s.sfEnergy / 2 ^ 32)))
  else some (s.reg a)

/-- A converter register: the coefficients of the indexed entry, else the register file. -/
def State.adcWord (s : State) (k a : Nat) : Word :=
  let co := (s.adc k).coef (s.fget (ADC_SYSCAL_IDX k) ADC_SYSCAL_IDX.entry)
  if a = ADC_SYSCAL_OFS k then w32 (toBits 24 co.1)
  else if a = ADC_SYSCAL_GAIN k then w32 co.2
  else s.reg a

/-- A register whose bits are all WO reads 0 (R12). -/
def RegRow.writeOnly (r : RegRow) : Bool := r.rw = 0 && r.w1c = 0 && r.cut = 0 && r.pwdPrs = 0 && (r.wo ≠ 0 || r.prs ≠ 0)

/-- A register without CUT fields, as requester `q` reads it; none where the manual does not state the value. -/
def State.plainWord (s : State) (q a : Nat) : Option Word :=
  let r := a / 0x1000000
  let block := a / 0x10000 % 256
  let cell := a / 0x100 % 256
  if a = REGION_INFO r then some (s.regionInfo r)
  else if a = SUM_CF_REGION ∨ (summaryAddrs r).contains a then some (s.sumWord a)
  else if r = 0 then
    (if cell = 0xFF then some (s.commonWord a) else if cell = 0x10 then some (s.recWord q a) else if cell = 0x20 then some (s.fwWord a)
     else some (s.reg a))
  else if r = 2 then s.sfRead a
  else if r = 4 then
    (if a = TX_CODE_CFG then some s.codeCfg
     else if a = TX_PORT_STATUS (block * 16 + cell) ∧ cell < 16 then some (s.portStatus (block * 16 + cell)) else some (s.reg a))
  else if a = AQ_STATUS then some (setF AQ_STATUS.transmitting (b2n s.anyCapt) (s.reg a))
  else match adcOf a with
    | some k => some (s.adcWord k a)
    | none => some (s.reg a)

/-- The word of the register at `a` as requester `q` reads it: CUT fields from the live plane (R12), WO registers 0. -/
def State.word (s : State) (q a : Nat) : Option Word :=
  match regRow a with
  | none => some 0
  | some row =>
    if row.writeOnly then some 0
    else if row.cut = 0 then s.plainWord q a
    else (s.plainWord q a).map (fun w => (w &&& (w32 row.cut ^^^ 0xFFFFFFFF)) ||| (cutReg s.cut.live a &&& w32 row.cut) ||| w32 row.ones)

/-- The word of a register that every requester reads alike. -/
def State.live (s : State) (a : Nat) : Word := (s.word 0 a).getD s.free

/-! ### Latched windows (R494) -/

/-- The snapshot that a requester's `LOUPE_SEL` names. -/
def State.snapOf (s : State) (q : Nat) : List Word :=
  let w := (s.req q).loupeSel
  look (fun _ => []) s.mgmt.loupe.snaps (getF LOUPE_SEL.region w * 256 + getF LOUPE_SEL.block w)

/-- The latched window in which a register lies, and the word it shows. -/
def State.windowAt (s : State) (q a : Nat) : Option (Nat × Nat) :=
  if LIVE_DIGEST 0 ≤ a ∧ a < LIVE_DIGEST 8 then some (LIVE_DIGEST 0, (a - LIVE_DIGEST 0) / 4)
  else if SHADOW_DIGEST 0 ≤ a ∧ a < SHADOW_DIGEST 8 then some (SHADOW_DIGEST 0, (a - SHADOW_DIGEST 0) / 4)
  else if SF_LOG_DATA 0 ≤ a ∧ a < SF_LOG_DATA 8 then some (SF_LOG_DATA 0, (a - SF_LOG_DATA 0) / 4)
  else if a = LOUPE_DATA then some (LOUPE_DATA, getF LOUPE_SEL.word (s.req q).loupeSel)
  else if a = ATT_DATA then
    some (ATT_DATA + getF ATT_SEL.endorsement (s.reg ATT_SEL), getF ATT_SEL.word (s.reg ATT_SEL))
  else none

/-- The words a window holds now; none are listed where there is no content. -/
def State.windowLive (s : State) (q key : Nat) : List Word :=
  if key = LIVE_DIGEST 0 ∨ key = SHADOW_DIGEST 0 then s.regsFrom key 8
  else if key = SF_LOG_DATA 0 then
    (match s.sf.log.find? (fun e => e.seq = s.reg SF_LOG_IDX) with
     | some e => e.words
     | none => [])
  else if key = LOUPE_DATA then s.snapOf q
  else if key = ATT_DATA then s.fw.report
  else endorsementWords

/-- A 64-bit value, or a value with its time, that reads as two words: the address of its low word, for either word (R493). -/
def splitLow (a : Nat) : Option Nat :=
  let pair := fun (lo : Nat) => a = lo ∨ a = lo + 4
  if pair TBASE_LO then some TBASE_LO
  else if pair FRAME_EDGE_LO then some FRAME_EDGE_LO
  else if pair CUT_SWAP_FIRST_LO then some CUT_SWAP_FIRST_LO
  else if pair CUT_SWAP_LAST_LO then some CUT_SWAP_LAST_LO
  else if pair LOUPE_TIME_LO then some LOUPE_TIME_LO
  else if pair DEV_SERIAL_LO then some DEV_SERIAL_LO
  else if pair SF_ENERGY_LO then some SF_ENERGY_LO
  else
    let r := a / 0x1000000
    let i := a / 4 % 64
    if r = 4 ∧ a / 0x100 % 256 < 16 ∧ (i = 2 ∨ i = 3) then some (a - (a / 4 % 2) * 4)
    else if (adcOf a).isSome ∧ 16 ≤ i ∧ i < 48 then some (a - (a / 4 % 2) * 4)
    else none

end Sys2Proof.Machine
end

