-- ==== Sys2Proof/Machine/Snapshot.lean ====
section
/-!
DEFINITION. Loupe's snapshots (R506, R507).
-/
namespace Sys2Proof.Machine

/-- The blocks that take part, as region × 256 + block: those whose region is not fenced and whose domain is good; SF takes none. -/
def State.loupeBlocks (s : State) : List Nat :=
  let all := [0xFF, 0x1FF, 0x300] ++ (List.range 4).map (0x400 + ·) ++ [0x4FF] ++ (List.range 4).map (0x500 + ·) ++ [0x6FF]
    ++ (List.range 48).map (fun k => (8 + k / 8) * 256 + k % 8)
  all.filter (fun i => !s.fenced (i / 256) && s.domGood (domainAt (i / 256 * 0x1000000 + i % 256 * 0x10000)))

/-- The watched event bit of Loupe (R504). -/
def State.eventBit (s : State) : Bool := (s.live (s.reg LOUPE_EVT_ADDR).toNat).getLsbD (s.fget LOUPE_CFG LOUPE_CFG.evt_bit)

/-- A write of `LOUPE_CFG` or `LOUPE_EVT_ADDR` that points the event source elsewhere begins from the bit as it is there: only a change of it
fires (R504). -/
def repointEvent (old s : State) : State :=
  if s.reg LOUPE_EVT_ADDR = old.reg LOUPE_EVT_ADDR ∧ s.fget LOUPE_CFG LOUPE_CFG.evt_bit = old.fget LOUPE_CFG LOUPE_CFG.evt_bit then s
  else { s with mgmt := { s.mgmt with loupe := { s.mgmt.loupe with evtPrev := s.eventBit } } }

/-- The period of the latch clock of a block, in 0.1 ns: its own clock, and for an LK block the timebase clock (R4, R506). -/
def latchPeriod (r b : Nat) : Nat :=
  if r = 0 then 25 else if r = 1 then 100 else if r = 3 then 50 else if r = 4 ∧ b = 0xFF then 40 else if r = 6 then 20 else 10

/-- The TBASE of the first edge of a block's latch clock at or after `l`. DESIGN CHOICE (log entry 131): every clock has an edge at TBASE 0. -/
def latchEdge (i l : Nat) : Nat :=
  let p := latchPeriod (i / 256) (i % 256)
  (l * 10 + p - 1) / p * p / 10

/-- The index of the pixel in progress in a block; where there is none it is not known. -/
def State.indexNow (s : State) (k : Nat) : Word × State :=
  let b := s.blk k
  match (b.bufX.toList ++ b.bufY.toList).find? Pixel.inProgress with
  | some p => (w32 (p.index % 2 ^ 24), s)
  | none => (w32 (s.free.toNat % 2 ^ 24), drawFree s)

/-- The content of a block's snapshot from word 5 on. -/
def State.snapWords (s : State) (r b : Nat) : List Word :=
  match r with
  | 0 => [s.live TIME_STATUS, s.live CUT_STATUS, s.live PAIR_STATUS]
  | 1 => (List.range 29).map (fun t => s.live (HK_T_VAL t))
  | 3 => (List.range 8).flatMap (fun a => [s.live (SC_AXIS_STATUS a), s.live (SC_AXIS_PHASE a)])
      ++ (List.range 64).flatMap (fun l => [s.live (SC_LOOP_FB l), s.live (SC_LOOP_OUT l)])
  | 4 => if b = 0xFF then [s.live TX_SCHED_STATUS, s.live TX_CODE_HOPS] else (List.range 16).map (fun c => s.live (TX_PORT_STATUS (16 * b + c)))
  | 5 => (List.range 8).map (fun c => look (fun _ => 0) s.lk.copies (8 * b + c))
  | 6 => [s.live AQ_STATUS, s.live AQ_LOST]
  | _ =>
    let k := (r - 8) * 8 + b
    s.live (GD_BLK_SKEW k) :: (List.range 16).map (fun c => s.live (RX_CELL_STATUS (16 * k + c)))
      ++ (List.range 16).map (fun c => s.live (HS_CELL_WIN (16 * k + c)))

/-- A block latches its snapshot at its edge, whose TBASE is `at_`. -/
def latchBlock (l : Nat) (s : State) (i : Nat) : State :=
  let at_ := latchEdge i l
  let r := i / 256
  let b := i % 256
  let head := [w32 (1 + r * 16 + b * 256 + s.fget LOUPE_STATUS LOUPE_STATUS.count * 65536), w32 at_, w32 (at_ / 2 ^ 32), s.reg FRAME_NUM,
    if s.cut.waiting.contains (if 8 ≤ r then tgtRx ((r - 8) * 8 + b) else if r = 5 then tgtLk b else if r = 0 then 0 else if r = 1 then tgtHk
      else if r = 3 then tgtSc else if r = 4 then tgtTx else tgtAq) then s.cut.oldEpoch else s.reg LIVE_EPOCH]
  let (first, s1) := if 8 ≤ r then (fun x => ([x.1], x.2)) (s.indexNow ((r - 8) * 8 + b)) else ([], s)
  { s1 with mgmt := { s1.mgmt with loupe := { s1.mgmt.loupe with
      snaps := put (fun _ => []) s1.mgmt.loupe.snaps i (head ++ first ++ s1.snapWords r b) } } }

/-- The block has latched for the present trigger. -/
def State.latched (s : State) (i : Nat) : Bool := look (fun _ => []) s.mgmt.loupe.snaps i ≠ []

/-- The participating blocks whose edge has come latch; with the last of them Loupe is done. -/
def latchDue (s : State) : State :=
  match s.mgmt.loupe.latchAt with
  | none => s
  | some l =>
    if s.now < l then s
    else
      let s1 := (s.loupeBlocks.filter (fun i => decide (latchEdge i l ≤ s.now) && !s.latched i)).foldl (latchBlock l) s
      if s1.loupeBlocks.all s1.latched then
        flag LOUPE_STATUS LOUPE_STATUS.done { s1 with mgmt := { s1.mgmt with loupe := { s1.mgmt.loupe with latchAt := none } } }
      else s1

/-- The latch instant has come. -/
def execLoupeLatch (s : State) : Out := .next (latchDue s)

end Sys2Proof.Machine
end

