-- ==== Sys2Proof/Machine/Time.lean ====
section
/-!
DEFINITION. The timebase and its alarms, frames (R23 to R27, R161 to R166, R194), and the commands of containment: handshakes, clock
monitors, escalation, and the lift of a fence (R34 to R41).
-/
namespace Sys2Proof.Machine

/-! ### The timebase (R24, R25) -/

/-- The pixels of RX region `r` whose boundary fell within the last `ns` carry TIME_SUSPECT. -/
def suspectSince (r ns : Nat) (s : State) : State :=
  if 8 ≤ r ∧ r < 14 then
    let mark := fun p : Pixel => if p.inProgress && decide (s.now ≤ p.start + ns) then { p with flags := p.flags ||| pfTime } else p
    forUp (fun k t => let b := t.blk k
      if b.bufX.isNone && b.bufY.isNone then t else setBlk k { b with bufX := b.bufX.map mark, bufY := b.bufY.map mark } t) ((r - 8) * 8) 8 s
  else s

/-- An alignment word: an island that departs realigns. -/
def execAlignmentWord (departed : List (Fin 16 × BitVec 10)) (s : State) : Out :=
  .next (if !s.time.running then s
    else departed.foldl (fun t d =>
      if isRegion d.1 then
        suspectSince d.1 d.2.toNat (fset TIME_STATUS TIME_STATUS.skew_region d.1 (flag TIME_STATUS TIME_STATUS.skew_event t))
      else t) s)

/-- REFCLK_T shows no edge for 100 ns: holdover. -/
def execRefclkLoss (s : State) : Out :=
  .next (if s.time.running && s.fget TIME_STATUS TIME_STATUS.holdover = 0 then
      chipReaction .refclk 0 TIME_STATUS (flag TIME_STATUS TIME_STATUS.refclk_lost
        (fsets TIME_STATUS [(TIME_STATUS.holdover, 1), (TIME_STATUS.locked, 0)] s))
    else s)

/-- REFCLK_T is back: TBASE goes on without a step. -/
def execRefclkReturn (s : State) : Out :=
  .next (if s.fget TIME_STATUS TIME_STATUS.holdover = 1 then
      endCause .refclk (fsets TIME_STATUS [(TIME_STATUS.holdover, 0), (TIME_STATUS.locked, 1)] s)
    else s)

/-! ### Frames (R26, R27) -/

/-- A block latches the census of the frame that has ended, each count saturating, with the epoch and fragment of the plane it was counted
under (R63, R165, R171). -/
def latchCensus (ids : List (Word × Word)) (k : Nat) (s : State) : State :=
  let b := s.blk k
  let level := s.fget (RX_CENSUS_CFG k) RX_CENSUS_CFG.alarm_level
  let high := decide (level ≠ 0 ∧ level < b.foreign)
  let sat := fun n : Nat => w32 (min 0xFFFFFFFF n)
  let s1 := setReg (RX_CENSUS_NOISE k) (sat b.noise) (setReg (RX_CENSUS_FOREIGN k) (sat b.foreign) (setReg (RX_CENSUS_SLOTS k) (sat b.windows) s))
  let s2 := setBlk k { b with censusId := nth (0, 0) ids k, foreign := 0, noise := 0, windows := 0, foreignHigh := high } s1
  flagIf high (RX_BLK_SEQ k) RX_BLK_SEQ.foreign_high s2

/-- Sequences that have no frame to start under the new plane take it at I. -/
def idleSeqs (i : Nat) (s : State) : State :=
  forUp (fun q t => if t.cut.waiting.contains (tgtSeq q) && !t.seqScheduled q then markApplied (tgtSeq q) i t else t) 0 64 s

/-- The block, engine or region that applies a section of the working copies. -/
def sectionTarget (key : Nat) : Nat :=
  let r := key / 2 ^ 24
  if r = 3 then tgtSc else if r = 1 then tgtHk else tgtRx ((r - 8) * 8 + key / 2 ^ 16 % 256 % 8)

/-- Targets that have a boundary of their own to come, and those that apply a change at its instant (R29). -/
def State.boundaryToCome (s : State) (t : Nat) : Bool :=
  if t = tgtHk then s.hkRuns else if t = tgtSc then !s.loopsIdle && s.scRuns else s.scheduled (t - 0x80)

/-- A facility's change at a frame boundary (R28, R31). -/
def noteAt (f : Facility) (ts : List Nat) (s : State) : State :=
  noteChange f s.now (ts.filter s.boundaryToCome) (ts.filter (fun t => !s.boundaryToCome t)) s

/-- The gate maps and the sections of working copies that change at a frame boundary are changes of their facilities. -/
def noteGates (before : State) (s : State) : State :=
  forUp (fun n t =>
    if (before.committing n && look (fun _ => 0) before.rx.commits n = before.frameNum) || before.rx.updates.any (fun e => e.1 / 131072 = n ∧ e.2.1 = before.frameNum) then
      noteAt (.gates n) (((List.range 8).filter (fun b => blockOn t.cut.live (8 + n) b && !t.fenced (8 + n))).map (fun b => tgtRx (n * 8 + b))) t
    else t) 0 6 s

def noteSlews (before : State) (s : State) : State :=
  before.cal.sections.foldl (fun t e => if e.2.any CalSection.busy then noteAt (.bringIn e.1) [sectionTarget e.1] t else t) s

/-- A frame boundary: the count of frames, a swap scheduled for it, the return to RUN after a pause, the scheduler, gates, bring-in,
the end of WAIT_FRAME and the census. Of the changes for one frame each is applied after those that CF accepted before it (R44). -/
def frameBoundary (s : State) : State :=
  let i := s.now
  let n := s.reg FRAME_NUM + 1
  let period := if s.time.edgeSeen then some (i - s.frameEdge) else s.time.period
  let s1 := { s with time := { s.time with limitFrom := i, period := period, edgeSeen := true } }
  let s2 := fset TIME_STATUS TIME_STATUS.frame_sync_present 1 (setReg64 FRAME_EDGE_LO i (setReg FRAME_NUM n s1))
  let s3 := if n = 0 then wrapRecord 0 0 0 s2 else s2
  let ids := (List.range 48).map (fun k => s.planeId (tgtRx k))
  let swapped := decide (s3.cut.swapAt = some (.atFrame n.toNat)) && !s3.cut.inSwap
  let reload := s3.cut.stagedKeys.contains (0x00FFFF00, 0x0303)
  let s4 := if swapped then beginSwap i (if reload then forUp (commitBefore s3.cut.order) 0 6 s3 else s3) else s3
  let s5 := if s4.fw.backToRun then
      let t := setFw { s4.fw with backToRun := false } s4
      if t.mode = .armed then startShooting { t with mode := .run } else t
    else s4
  let s6 := idleSeqs i (frameShots s5.cut.live n.toNat i swapped (takeHop s5))
  let s7 := noteGates s6 (applyGates s6)
  let s8 := if s7.shooting then noteSlews s7 (slewFrame s7) else s7
  let s9 := forUp (fun a t => if t.rbit (SC_AXIS_STATUS a) 3 then showWait a t else t) 0 8 s8
  refreshSkew (forUp (latchCensus ids) 0 48 s9)

/-- A rising edge of FRAME_SYNC; before the timebase has locked it is ignored. -/
def execFrameSyncEdge (s : State) : Out := .next (if s.time.running then frameBoundary s else s)

/-- The frame limit: twice the last period, or 1 s. -/
def State.frameLimit (s : State) : Nat := match s.time.period with | some p => 2 * p | none => 1000000000

/-- The limit elapses without an edge. -/
def execFrameLimitExpiry (s : State) : Out :=
  .next (if s.time.running && s.time.limitFrom + s.frameLimit ≤ s.now then
      let s1 := { s with time := { s.time with limitFrom := s.time.limitFrom + s.frameLimit } }
      let s2 := flag TIME_STATUS TIME_STATUS.frame_sync_lost (fset TIME_STATUS TIME_STATUS.frame_sync_present 0 s1)
      if s2.shooting && !s2.placing then fset TX_SCHED_STATUS TX_SCHED_STATUS.frame_wait 1 s2 else s2
    else s)

/-! ### Containment (R34, R36, R37) -/

/-- A handshake time-out is charged to the region that did not respond. SF has no fence: the transaction that it did not acknowledge completes
with FENCED (R37, R540). -/
def execHandshakeTimeout (region : Fin 16) (s : State) : Out :=
  .next (if region.val = 2 then { s with mgmt := { s.mgmt with sfSilent := true } } else fence region s)

/-- An island clock monitor reports a fault. -/
def execIslandClockMonitorFault (region : Fin 16) (s : State) : Out := .next (fence region s)

/-- A crossbar fault, and an uncorrectable error in CF. -/
def execCrossbarFault (s : State) : Out := .next (chipReaction .crossbar 0 0 s)
def execCfUncorrectableError (s : State) : Out := .next (chipReaction .cfError 0 0 s)

/-- A reaction that has not completed within its bound: of a cell, a block, or a region where neither is given. -/
def execFaultEscalation (region : Fin 16) (block : Option (Fin 8)) (cell : Option (Fin 16)) (s : State) : Out :=
  .next (if !fenceable region then s
    else match block, cell with
      | some b, some _ => isolateHere region b s
      | some _, none => fence region s
      | none, _ => chipReaction (.fence region) region REGION_FENCE (fence region s))

/-! ### A fence is lifted (R40, R41, R479) -/

/-- The domains of a region. -/
def regionDomains (r : Nat) : List Nat :=
  if 8 ≤ r then (r + 40) :: (List.range 8).map (fun b => (r - 8) * 8 + b)
  else if r = 4 then [54, 55, 56, 57, 58] else if r = 5 then [59, 60, 61, 62] else if r = 6 then [63] else if r = 3 then [64]
  else if r = 1 then [65] else []

/-- The fence of a region is lifted: its handshakes and faulted domains restart, and it comes up. -/
def liftFence (r : Nat) (s : State) : State :=
  if s.fenced r then
    let s1 := unfreeze r (setReg REGION_FENCE (clrBit r (s.reg REGION_FENCE)) s)
    let s2 := { s1 with startup := { s1.startup with notReady := insertNat r s1.startup.notReady } }
    let s3 := (regionDomains r).foldl (fun t d =>
      if t.domFault d then
        let u := setReg (PWR_DOM_FAULT (d / 32)) (clrBit (d % 32) (t.reg (PWR_DOM_FAULT (d / 32))))
          { t with hk := { t.hk with faulted := t.hk.faulted.filter (· ≠ d) } }
        if (planeDomains u.cut.live).contains d then setDomain d true false u else u
      else t) s2
    endCause (.fence r) s3
  else s

/-- A write of `REGION_FENCE`, accepted in CONFIGURED only. -/
def execRegionFenceLift (q : Requester) (regions : BitVec 16) (s : State) : Out :=
  .next (hostWriteIf (s.mode = .configured) q REGION_FENCE
    (forUp (fun r t => if regions.getLsbD r then liftFence r t else t) 0 14) s)

/-- A region that has come up reports ready, under the live plane and with its gate map reloaded (R41, R191). -/
def execRegionReady (region : Fin 16) (s : State) : Out :=
  .next (let r := region.val
    if s.startup.notReady.contains r && (regionDomains r).all (fun d => !s.domOn d || s.domGood d) then
      let s1 := { s with startup := { s.startup with notReady := s.startup.notReady.filter (· ≠ r) } }
      let s2 := if 8 ≤ r then reloadGates (tableOf s1.cut.live 0x00FFFF00 0x0303) (r - 8) s1 else s1
      let cd : Carried := some (look (fun _ => []) s2.cal.missed r)
      let s3 := (regionDomains r).foldl (fun t d => if t.domGood d then joinDomain cd d t else t) s2
      { s3 with cal := { s3.cal with missed := put (fun _ => []) s3.cal.missed r [] } }
    else s)

end Sys2Proof.Machine
end

