-- ==== Sys2Proof/Machine/Management.lean ====
section
/-!
DEFINITION. Management transactions (R493, R494, R539 to R550, R552 to R554): reads and writes of every register and memory window, over the
SPI port and the MGMT channels.
-/
namespace Sys2Proof.Machine

/-! ### Reads -/

/-- An access of a session's owner to a firmware or key register keeps the session (R519). -/
def touchFw (q a : Nat) (s : State) : State := if FW_CMD ≤ a ∧ a < KEY_DATA 8 then touchSession q s else s

/-- A word is returned; one that the manual does not state is free. -/
def answer (q a : Nat) (w : Option Word) (s : State) : State :=
  match w with
  | some v => complete q 0 a v s
  | none => complete q 0 a s.free (drawFree s)

/-- A read of a word of a latched window (R494). A selected snapshot that is not there has valid 0. -/
def windowRead (q a key i : Nat) (s : State) : State :=
  let r := s.req q
  let latched := look (fun _ => []) r.windows key
  if i = 0 then
    let ws := s.windowLive q key
    let s1 := setReq q { r with windows := put (fun _ => []) r.windows key ws } s
    match ws with
    | w :: _ => answer q a (some w) s1
    | [] => if key = LOUPE_DATA then complete q 0 a (clrBit 0 s1.free) (drawFree s1) else answer q a none s1
  else answer q a (if latched = [] then s.windowLive q key else latched)[i]? s

/-- A read of `REC_DATA_i`: word 0 latches a record; a later word without one is that of the record at the cursor (R494, R502). -/
def recRead (q a i : Nat) (s : State) : State :=
  if i = 0 then
    let s1 := recDataRead q s
    complete q 0 a (nth 0 (s1.req q).recData 0) s1
  else
    let r := s.req q
    let ws := if r.recData ≠ [] then r.recData
      else match recFind (s.store r.recSel) r.recCursor with
        | some (e, _) => e.words
        | none => []
    complete q 0 a (nth 0 ws i) s

/-- A read of a word of a 64-bit value (R493). -/
def splitRead (q a lo : Nat) (s : State) : State :=
  let r := s.req q
  if a = lo then
    let s1 := setReq q { r with shadowOf := lo, shadow := (s.word q (lo + 4)).getD s.free } s
    answer q a (s.word q a) s1
  else if r.lastAccess = some lo ∧ r.shadowOf = lo then complete q 0 a r.shadow s
  else answer q a (s.word q a) s

/-- A register that its target answers is read. -/
def readOk (q a : Nat) (s : State) : State :=
  let s1 := touchFw q a s
  if REC_DATA 0 ≤ a ∧ a < REC_DATA 8 then recRead q a ((a - REC_DATA 0) / 4) s1
  else match s1.windowAt q a with
    | some (key, i) => windowRead q a key i s1
    | none =>
      match splitLow a with
      | some lo => splitRead q a lo s1
      | none => answer q a (s1.word q a) s1

/-- A READ of the register at byte address `a` (R542, R548). -/
def readReg (q a : Nat) (s : State) : State :=
  if !s.answers then s
  else match regRow a with
    | none => complete q 2 a 0 s
    | some _ =>
      match s.targetStatus a with
      | 0 => readOk q a s
      | st => complete q st a 0 s

/-! ### Writes -/

/-- The write has a bit that the access codes let it change (R12). -/
def RegRow.writable (r : RegRow) : Bool := r.rw ≠ 0 || r.w1c ≠ 0 || r.wo ≠ 0 || r.prs ≠ 0 || r.pwdPrs ≠ 0

/-- A capture register that accepts writes in IDLE, DONE and STOPPED only (R359). -/
def aqConfig (a : Nat) : Bool :=
  (AQ_SEL 0 ≤ a && a < AQ_SEL 24) || (AQ_TRIG 0 ≤ a && a < AQ_TRIG 24) || (AQ_CFG ≤ a && a ≤ AQ_XLINE)

/-- The axis whose register `f` lies at an address. -/
def axisOf (a : Nat) : Nat := a / 0x100 % 256

/-- No rule discards the write with ACCESS (R12, R13). -/
def State.writeOk (s : State) (q a : Nat) (w : Word) : Bool :=
  if a = REC_CMD then !w.getLsbD 1 || s.presence
  else if a = SF_PARAM_DATA then s.pwdPrs
  else if a = FW_DATA then s.fwDataOk q
  else if a = CUT_SWAP_FRAME then s.shadowState < 5
  else if a = PAIR_CMD then !w.getLsbD 0 || s.mode = .configured
  else if a = REGION_FENCE ∨ isDomFault a then s.mode = .configured
  else if aqConfig a then s.aqState = 0 || s.aqState = 4 || s.aqState = 5
  else if axisOf a < 8 ∧ a = SC_AXIS_AMP (axisOf a) then !s.ampDriven (axisOf a)
  else true

/-- A write of a recorder or Loupe register. -/
def writeRec (q : Nat) (row : RegRow) (a : Nat) (w : Word) (s : State) : State :=
  let r := s.req q
  if a = REC_SEL then setReq q { r with recSel := w.toNat % 16 } s
  else if a = REC_CURSOR then setReq q { r with recCursor := w } s
  else if a = LOUPE_SEL then setReq q { r with loupeSel := w &&& w32 row.rw } s
  else if a = REC_CMD then
    let s1 := if w.getLsbD 0 then recFetch q s else s
    if w.getLsbD 1 then recClear q s1 else s1
  else if a = LOUPE_CMD then loupeCommand w s
  else repointEvent s (plainWrite row a w s)

/-- A write of a firmware register. -/
def writeFw (q : Nat) (row : RegRow) (a : Nat) (w : Word) (s : State) : State :=
  let s1 := touchFw q a s
  if a = FW_CMD then fwCommand q w s1
  else if a = FW_DATA then fwData w s1
  else if a = FW_ADDR then setReg FW_ADDR (w32 (min 0x400000 (w &&& w32 row.rw).toNat)) s1
  else plainWrite row a w s1

/-- A write of a CF register. -/
def writeCf (q : Nat) (row : RegRow) (a : Nat) (w : Word) (s : State) : State :=
  let cell := a / 0x100 % 256
  if cell = 0x10 then writeRec q row a w s
  else if cell = 0x20 then writeFw q row a w s
  else if a = MODE_CMD then modeCommand (getF MODE_CMD.command w) (getF MODE_CMD.key w) s
  else if a = CUT_CTRL then cutCommand q w s
  else if a = PAIR_CMD then pairCommand w s
  else if a = CAL_CMD then calCommand (getF CAL_CMD.command w) s
  else if a = REGION_FENCE then forUp (fun r t => if w.getLsbD r then liftFence r t else t) 0 14 s
  else plainWrite row a w s

/-- A write of an SF register. -/
def writeSf (q : Nat) (row : RegRow) (a : Nat) (w : Word) (s : State) : State :=
  if a = SF_CMD then sfCommand q (w.toNat % 16) s
  else if SF_PWD 0 ≤ a ∧ a < SF_PWD 4 then pwdWrite ((a - SF_PWD 0) / 4) w s
  else if a = SF_PARAM_DATA then sfParamWrite w s
  else plainWrite row a w s

/-- A write of a converter register (R14, R253, R261, R265). -/
def writeAdc (k : Nat) (row : RegRow) (a : Nat) (w : Word) (s : State) : State :=
  if a = ADC_CMD k then adcCommand k (getF ADC_CMD.command w) s
  else if a = ADC_BANK k then bankWrite k w s
  else if row.rw ≠ 0 then adcRunWrite k a (w &&& w32 row.rw) s
  else if 52 ≤ k then hkWrite a w s
  else plainWrite row a w s

/-- A write of an SC register. -/
def writeSc (row : RegRow) (a : Nat) (w : Word) (s : State) : State :=
  let cell := a / 0x100 % 256
  let i := a / 4 % 64
  if cell < 8 then
    (if i = 1 then excWrite cell w s else if i = 2 then ampWrite cell w s else plainWrite row a w s)
  else if 0x40 ≤ cell ∧ cell < 0x80 then
    (if i = 0 then setpointWrite (cell - 0x40) w s else if i = 7 then loopCommand (cell - 0x40) w s else plainWrite row a w s)
  else plainWrite row a w s

/-- A write of a TX register. -/
def writeTx (row : RegRow) (a : Nat) (w : Word) (s : State) : State :=
  let p := a / 0x10000 % 256 * 16 + a / 0x100 % 256
  if a = TX_HOP_FRAME then hopWrite w s
  else if a / 0x100 % 256 < 16 ∧ a = TX_PORT_CMD p then (if w.getLsbD 0 then portRearm p s else s)
  else plainWrite row a w s

/-- A write of an LK register. -/
def writeLk (row : RegRow) (a : Nat) (w : Word) (s : State) : State :=
  let l := a / 0x10000 % 256 * 8 + a / 0x100 % 256
  if a / 0x100 % 256 < 8 ∧ a = LK_LANE_CMD l then laneCommand l w s
  else if a / 0x100 % 256 < 8 ∧ a = LK_LANE_TEST l then laneTest l w s
  else plainWrite row a w s

/-- A write of an RX register: commands, run-time writes of a block or cell, and the gate staging (R14, R193). -/
def writeRx (row : RegRow) (a : Nat) (w : Word) (s : State) : State :=
  let n := a / 0x1000000 - 8
  let block := a / 0x10000 % 256
  let cell := a / 0x100 % 256
  let c := n * 128 + block * 16 + cell
  if block = 0xFF then (if a = RX_GATE_CMD n then gateCommand n (w.toNat % 8) s else plainWrite row a w s)
  else if cell < 16 ∧ a = RX_CELL_CMD c then cellCommand c w s
  else if cell < 16 ∧ a = GD_CELL_CMD c then (if w.getLsbD 0 then gdClear c s else s)
  else if row.rw ≠ 0 then rtWrite a w s
  else plainWrite row a w s

/-- What a write that is applied does. -/
def writeEffect (q : Nat) (row : RegRow) (a : Nat) (w : Word) (s : State) : State :=
  match adcOf a with
  | some k => writeAdc k row a w s
  | none =>
    match a / 0x1000000 with
    | 0 => writeCf q row a w s
    | 1 => hkWrite a w s
    | 2 => writeSf q row a w s
    | 3 => writeSc row a w s
    | 4 => writeTx row a w s
    | 5 => writeLk row a w s
    | 6 => if a = AQ_CTRL then aqCommand (w.toNat % 8) s else plainWrite row a w s
    | _ => writeRx row a w s

/-- A WRITE of the register at byte address `a` (R12, R13, R542, R548). -/
def writeReg (q a : Nat) (w : Word) (s : State) : State :=
  if !s.answers then s
  else match regRow a with
    | none => complete q 2 (a + 1) 0 s
    | some row => hostWriteIf (row.writable && s.writeOk q a w) q a (writeEffect q row a w) (touchFw q a s)

/-! ### Memory windows (R544 to R547) -/

/-- Space 1: the histogram slices. -/
def histSpace (q : Nat) (w : Word) (write : Bool) (ecc : Nat) (s : State) : State :=
  let v := w.toNat
  let r := v / 2 ^ 24 % 16
  let b := v / 2 ^ 16 % 256
  if r < 8 ∨ 14 ≤ r ∨ 8 ≤ b ∨ w.getLsbD 11 then complete q 2 v 0 s
  else if write then complete q 1 v 0 s
  else histRead q (r - 8) b (v / 2 ^ 12 % 16) (v / 4 % 256) (w.getLsbD 10) ecc s

/-- Space 2: the capture memory. -/
def captSpace (q : Nat) (w : Word) (write : Bool) (ecc : Nat) (s : State) : State :=
  let v := w.toNat
  if v / 2 ^ 24 % 16 ≠ 0 then complete q 2 v 0 s
  else if write then complete q 1 v 0 s
  else captRead q (v / 4 % 2 ^ 22) ecc s

/-- The words of the live plane's canonical content; flipped bits read as they are stored (R61, R64). -/
def State.liveWord (s : State) (i : Nat) : Word :=
  match s.cut.live with
  | none => 0
  | some p => nth 0 (canonWords p) i ^^^ look (fun _ => 0) s.cut.upsets i

/-- Space 3: the Cut planes. A word with an uncorrectable error reads 0xFFFFFFFF (R548). -/
def cutSpace (q : Nat) (w data : Word) (write : Bool) (ecc : Nat) (s : State) : State :=
  let v := w.toNat
  let off := v / 4 % 2 ^ 19
  if v / 2 ^ 21 % 64 ≠ 0 then complete q 2 v 0 s
  else if !write ∧ ecc = 2 then complete q 8 v 0xFFFFFFFF s
  else if w.getLsbD 27 then (if write then complete q 1 v 0 s else complete q 0 v (s.liveWord off) s)
  else if write then windowWrite q (v / 4 * 4) (s.cutWindowStatus q) (storeShadow q off data) s
  else complete q 0 v (s.shadowWord off) s

/-! ### Transactions (R540, R541) -/

/-- ECHO returns its data word and accesses nothing. -/
def echo (q : Nat) (data : Word) (s : State) : State :=
  if s.answers then setReq q { s.req q with status := 0, data := data } s else s

/-- A transaction that is not executed completes with a status; it is no access (R493). -/
def notExecuted (q status addr : Nat) (s : State) : State :=
  if s.answers then
    let s1 := mgmtError q status addr s
    setReq q { s1.req q with status := BitVec.ofNat 8 status, data := 0 } s1
  else s

/-- One transaction of a requester. -/
def transact (q : Nat) (addr data : Word) (ecc : Nat) (s : State) : State :=
  let v := addr.toNat
  let write : Bool := v % 4 = 1
  if !s.answers then s
  else if v % 4 = 3 then notExecuted q 4 v s
  else if v % 4 = 2 then echo q data s
  else match v / 2 ^ 28 with
    | 0 => if write then writeReg q (v / 4 * 4) data s else readReg q (v / 4 * 4) s
    | 1 => histSpace q addr write ecc s
    | 2 => captSpace q addr write ecc s
    | 3 => cutSpace q addr data write ecc s
    | _ => complete q 2 v 0 s

/-- A READ or WRITE transaction (and whatever else its address word asks for). -/
def execMgmtTransaction (q : Requester) (addr : Word) (data : Word) (ecc : Fin 3) (s : State) : Out := .next (transact q addr data ecc s)

/-- An ECHO transaction (R541). -/
def execEcho (q : Requester) (_addr : Word) (data : Word) (s : State) : Out := .next (echo q data s)

/-- A transaction with op 0b11 (R548). -/
def execBadOp (q : Requester) (addr : Word) (s : State) : Out := .next (notExecuted q 4 (addr.toNat / 4 * 4 + 3) s)

/-- A write to a register that has no command of its own (R12); the others act as their commands. -/
def execRegisterWrite (q : Requester) (addr : BitVec 28) (data : Word) (s : State) : Out := .next (writeReg q (addr.toNat / 4 * 4) data s)

/-- A read of the low word of a 64-bit value (R493). -/
def execSplitReadLow (q : Requester) (addr : BitVec 28) (s : State) : Out := .next (readReg q (addr.toNat / 4 * 4) s)

/-- A read of word 0 of a multi-word window (R494). -/
def execWindowLatchRead (q : Requester) (addr : BitVec 28) (s : State) : Out := .next (readReg q (addr.toNat / 4 * 4) s)

/-! ### The SPI port (R551 to R553) -/

def setSpi (p : SpiPhase) (s : State) : State := { s with mgmt := { s.mgmt with spi := p } }

/-- MGMT_CS_N falls. A port that does not answer ignores the frame. -/
def execSpiFrameStart (s : State) : Out := .next (if s.answers then setSpi .request s else s)

/-- The bytes of a word in the order in which they are sent. -/
def wordBytes (w : Word) : List Nat := bytesOf [w]

/-- The nine bytes of a request have arrived. A wrong CRC is counted, and the request is not executed (R552, R555). -/
def execSpiRequest (addr : Word) (data : Word) (crc : Byte) (ecc : Fin 3) (s : State) : Out :=
  .next (if s.mgmt.spi = .idle then s
    else
      let s1 := setSpi .response s
      if crc8 (wordBytes addr ++ wordBytes data) = crc.toNat then transact 0 addr data ecc s1
      else notExecuted 0 3 addr.toNat (bumpOvf MGMT_SPI_CRC whole 1 MGMT_FLAGS MGMT_FLAGS.err_ovf.lo s1))

/-- MGMT_CS_N rises: `inside` says that it falls inside a request, or before the last byte of a response. -/
def execSpiFrameEnd (inside : Bool) (s : State) : Out :=
  .next (if s.mgmt.spi = .idle then s
    else flagIf inside MGMT_FLAGS MGMT_FLAGS.frame_abort (setSpi .idle s))

/-- The response of the port's last transaction: status, data word and CRC-8 (R552). -/
def State.spiResponse (s : State) : List Nat :=
  let r := s.req 0
  let bs := r.status.toNat :: wordBytes r.data
  bs ++ [crc8 bs]

/-! ### MGMT channels (R390, R554) -/

/-- The transactions of a packet run in order; their results follow in the same order. -/
def runPacket (q : Nat) (ecc : List Nat) : List Word → State → State × List Word
  | addr :: data :: ws, s =>
    let s1 := transact q addr data (ecc.headD 0) s
    let r := s1.req q
    let rest := runPacket q ecc.tail ws s1
    (rest.1, w32 (r.status.toNat + addr.toNat % 4 * 256) :: r.data :: rest.2)
  | _, s => (s, [])

/-- The response leaves on the lane of its request, or is dropped with its transactions counted (R390, R394). -/
def sendResponse (l : Nat) (ws : List Word) (s : State) : State :=
  let p := { s.packet 4 1 0 ws with units := ws.length / 2, deadline := (s.waitLimit 4).map (s.now + ·) }
  if !s.laneRouted 4 l then dropPacket p 3 s
  else if !s.laneUp l then dropPacket p 2 s
  else queueOn l p s

/-- The oldest request packet that a lane has accepted is executed. -/
def execMgmtRequestPacket (lane : Fin 32) (ecc : List (Fin 3)) (s : State) : Out :=
  .next (if !s.answers then s
    else
      let r := takePacket lane 4 s
      match r.2 with
      | none => s
      | some ws =>
        let t := runPacket (2 + lane) (ecc.map (·.val)) ws r.1
        sendResponse lane t.2 t.1)

end Sys2Proof.Machine
end

