-- ==== Sys2Proof/Machine/Dispatch.lean ====
section
/-! DEFINITION. What each command does to everything but the queue: one arm per row of the table, one direct call each. -/

namespace Sys2Proof.Machine

def exec (i : Instr) (s : State) : Host.Outcome State Fault Refusal :=
  match i with
  | .registerWrite q addr data => Sys2Proof.Machine.execRegisterWrite q addr data s
  | .alignmentWord departed => Sys2Proof.Machine.execAlignmentWord departed s
  | .refclkLoss => Sys2Proof.Machine.execRefclkLoss s
  | .refclkReturn => Sys2Proof.Machine.execRefclkReturn s
  | .frameSyncEdge => Sys2Proof.Machine.execFrameSyncEdge s
  | .frameLimitExpiry => Sys2Proof.Machine.execFrameLimitExpiry s
  | .pixelBoundary block => Sys2Proof.Machine.execPixelBoundary block s
  | .changeAtInstant target => Sys2Proof.Machine.execChangeAtInstant target s
  | .handshakeTimeout region => Sys2Proof.Machine.execHandshakeTimeout region s
  | .faultEscalation region block cell => Sys2Proof.Machine.execFaultEscalation region block cell s
  | .regionFenceLift q regions => Sys2Proof.Machine.execRegionFenceLift q regions s
  | .regionReady region => Sys2Proof.Machine.execRegionReady region s
  | .cutWindowWrite q offset data => Sys2Proof.Machine.execCutWindowWrite q offset data s
  | .loadSlot q slot => Sys2Proof.Machine.execLoadSlot q slot s
  | .loadSlotCopyDone => Sys2Proof.Machine.execLoadSlotCopyDone s
  | .validate q => Sys2Proof.Machine.execValidate q s
  | .validationComplete => Sys2Proof.Machine.execValidationComplete s
  | .schedule q => Sys2Proof.Machine.execSchedule q s
  | .cancel q => Sys2Proof.Machine.execCancel q s
  | .discard q => Sys2Proof.Machine.execDiscard q s
  | .cutBadCommand q command => Sys2Proof.Machine.execCutBadCommand q command s
  | .swapApply => Sys2Proof.Machine.execSwapApply s
  | .swapDone => Sys2Proof.Machine.execSwapDone s
  | .liveRedigest upset => Sys2Proof.Machine.execLiveRedigest upset s
  | .discriminatorEdge cell taps copyA copyB rising high overload newPulse => Sys2Proof.Machine.execDiscriminatorEdge cell taps copyA copyB rising high overload newPulse s
  | .deadTimeEnd cell level high overload => Sys2Proof.Machine.execDeadTimeEnd cell level high overload s
  | .edgeAttribute cell => Sys2Proof.Machine.execEdgeAttribute cell s
  | .totLimitExpiry cell => Sys2Proof.Machine.execTotLimitExpiry cell s
  | .pulsePlace cell eccCorrected eccFatal => Sys2Proof.Machine.execPulsePlace cell eccCorrected eccFatal s
  | .startPost block => Sys2Proof.Machine.execStartPost block s
  | .startInstant block dark => Sys2Proof.Machine.execStartInstant block dark s
  | .shotWindowClose cell => Sys2Proof.Machine.execShotWindowClose cell s
  | .blankNFall instant => Sys2Proof.Machine.execBlankNFall instant s
  | .blankNRise instant => Sys2Proof.Machine.execBlankNRise instant s
  | .blankIntervalStart block => Sys2Proof.Machine.execBlankIntervalStart block s
  | .blankIntervalEnd block => Sys2Proof.Machine.execBlankIntervalEnd block s
  | .blankStuck block => Sys2Proof.Machine.execBlankStuck block s
  | .checkSlotInsert block => Sys2Proof.Machine.execCheckSlotInsert block s
  | .checkWindowEnd block cap => Sys2Proof.Machine.execCheckWindowEnd block cap s
  | .cellRearm q cell => Sys2Proof.Machine.execCellRearm q cell s
  | .checkNow q cell => Sys2Proof.Machine.execCheckNow q cell s
  | .biasConversionRequest block => Sys2Proof.Machine.execBiasConversionRequest block s
  | .markerEdge block departure => Sys2Proof.Machine.execMarkerEdge block departure s
  | .skewRefresh block => Sys2Proof.Machine.execSkewRefresh block s
  | .foregroundRunEnd block cellHits refHits => Sys2Proof.Machine.execForegroundRunEnd block cellHits refHits s
  | .backgroundRunEnd block hits => Sys2Proof.Machine.execBackgroundRunEnd block hits s
  | .girdleLockLoss rx => Sys2Proof.Machine.execGirdleLockLoss rx s
  | .gdClearCounts q cell => Sys2Proof.Machine.execGdClearCounts q cell s
  | .slotPlace seq => Sys2Proof.Machine.execSlotPlace seq s
  | .fire port => Sys2Proof.Machine.execFire port s
  | .monitorCharge port charge evaluated => Sys2Proof.Machine.execMonitorCharge port charge evaluated s
  | .portRearm q port => Sys2Proof.Machine.execPortRearm q port s
  | .hopFrameWrite q frame => Sys2Proof.Machine.execHopFrameWrite q frame s
  | .pixelClose block => Sys2Proof.Machine.execPixelClose block s
  | .cellExtract cell eccCorrected fault => Sys2Proof.Machine.execCellExtract cell eccCorrected fault s
  | .gateUpdate rx entry cell ready => Sys2Proof.Machine.execGateUpdate rx entry cell ready s
  | .gateRead q rx => Sys2Proof.Machine.execGateRead q rx s
  | .gateStage q rx => Sys2Proof.Machine.execGateStage q rx s
  | .gateCommit q rx => Sys2Proof.Machine.execGateCommit q rx s
  | .gateDiscard q rx => Sys2Proof.Machine.execGateDiscard q rx s
  | .histWindowRead q rx block cell bufferY bin ecc => Sys2Proof.Machine.execHistWindowRead q rx block cell bufferY bin ecc s
  | .conversionSlotEnd converter code fine => Sys2Proof.Machine.execConversionSlotEnd converter code fine s
  | .injectedRequest converter => Sys2Proof.Machine.execInjectedRequest converter s
  | .injectedResult converter code fine => Sys2Proof.Machine.execInjectedResult converter code fine s
  | .selfCheck converter code => Sys2Proof.Machine.execSelfCheck converter code s
  | .referenceSettled converter reading => Sys2Proof.Machine.execReferenceSettled converter reading s
  | .referenceLost converter reading => Sys2Proof.Machine.execReferenceLost converter reading s
  | .calZero q converter => Sys2Proof.Machine.execCalZero q converter s
  | .calZeroDone converter sum => Sys2Proof.Machine.execCalZeroDone converter sum s
  | .calFull q converter => Sys2Proof.Machine.execCalFull q converter s
  | .calFullDone converter sum => Sys2Proof.Machine.execCalFullDone converter sum s
  | .scanOn q converter => Sys2Proof.Machine.execScanOn q converter s
  | .scanOff q converter => Sys2Proof.Machine.execScanOff q converter s
  | .bnReset q converter => Sys2Proof.Machine.execBnReset q converter s
  | .adcRearm q converter => Sys2Proof.Machine.execAdcRearm q converter s
  | .adcBadCommand q converter command => Sys2Proof.Machine.execAdcBadCommand q converter command s
  | .bankWrite q converter data => Sys2Proof.Machine.execBankWrite q converter data s
  | .converterRelease converter => Sys2Proof.Machine.execConverterRelease converter s
  | .excCurrentLimit axis => Sys2Proof.Machine.execExcCurrentLimit axis s
  | .excWrite q axis data => Sys2Proof.Machine.execExcWrite q axis data s
  | .chopReversal axis => Sys2Proof.Machine.execChopReversal axis s
  | .driveWord axis => Sys2Proof.Machine.execDriveWord axis s
  | .keepalive axis => Sys2Proof.Machine.execKeepalive axis s
  | .loopRequest loop => Sys2Proof.Machine.execLoopRequest loop s
  | .loopSample loop => Sys2Proof.Machine.execLoopSample loop s
  | .loopEvaluation loop => Sys2Proof.Machine.execLoopEvaluation loop s
  | .loopTimeout loop => Sys2Proof.Machine.execLoopTimeout loop s
  | .settleHoldEvaluation loop => Sys2Proof.Machine.execSettleHoldEvaluation loop s
  | .loopRearm q loop => Sys2Proof.Machine.execLoopRearm q loop s
  | .clearDelay q loop => Sys2Proof.Machine.execClearDelay q loop s
  | .setpointWrite q loop data => Sys2Proof.Machine.execSetpointWrite q loop data s
  | .amplitudeWrite q axis data => Sys2Proof.Machine.execAmplitudeWrite q axis data s
  | .engineLoadUpdate => Sys2Proof.Machine.execEngineLoadUpdate s
  | .excitationReversalSensed axis => Sys2Proof.Machine.execExcitationReversalSensed axis s
  | .loadRefresh rx => Sys2Proof.Machine.execLoadRefresh rx s
  | .fgStart q => Sys2Proof.Machine.execFgStart q s
  | .fgAbort q => Sys2Proof.Machine.execFgAbort q s
  | .winRead q => Sys2Proof.Machine.execWinRead q s
  | .captureEdgeArrival rx taken => Sys2Proof.Machine.execCaptureEdgeArrival rx taken s
  | .eventRelease => Sys2Proof.Machine.execEventRelease s
  | .gapMarker rx taken => Sys2Proof.Machine.execGapMarker rx taken s
  | .postTimeExpiry => Sys2Proof.Machine.execPostTimeExpiry s
  | .segmentOpen => Sys2Proof.Machine.execSegmentOpen s
  | .captureArm q => Sys2Proof.Machine.execCaptureArm q s
  | .captureAbort q => Sys2Proof.Machine.execCaptureAbort q s
  | .force q => Sys2Proof.Machine.execForce q s
  | .clearCnt q => Sys2Proof.Machine.execClearCnt q s
  | .extTrigEdge instant edge => Sys2Proof.Machine.execExtTrigEdge instant edge s
  | .xlineEdge instant fall => Sys2Proof.Machine.execXlineEdge instant fall s
  | .xlineRelease => Sys2Proof.Machine.execXlineRelease s
  | .xlineStuck lowFor => Sys2Proof.Machine.execXlineStuck lowFor s
  | .captureWindowRead q offset ecc => Sys2Proof.Machine.execCaptureWindowRead q offset ecc s
  | .laneEnable lane => Sys2Proof.Machine.execLaneEnable lane s
  | .helloBurst lane => Sys2Proof.Machine.execHelloBurst lane s
  | .hello lane word => Sys2Proof.Machine.execHello lane word s
  | .capsTimeout lane => Sys2Proof.Machine.execCapsTimeout lane s
  | .rate lane code => Sys2Proof.Machine.execRate lane code s
  | .alignmentTimeout lane => Sys2Proof.Machine.execAlignmentTimeout lane s
  | .tapReq lane tap action number => Sys2Proof.Machine.execTapReq lane tap action number s
  | .tapAck lane number ask => Sys2Proof.Machine.execTapAck lane number ask s
  | .tapReqResend lane => Sys2Proof.Machine.execTapReqResend lane s
  | .eqDone lane ownSent => Sys2Proof.Machine.execEqDone lane ownSent s
  | .eqTimeout lane => Sys2Proof.Machine.execEqTimeout lane s
  | .verifyEnd lane errors => Sys2Proof.Machine.execVerifyEnd lane errors s
  | .verifyPatternEnd lane errors => Sys2Proof.Machine.execVerifyPatternEnd lane errors s
  | .retrain lane => Sys2Proof.Machine.execRetrain lane s
  | .lineErrorRetrain errors => Sys2Proof.Machine.execLineErrorRetrain errors s
  | .partnerLost lane => Sys2Proof.Machine.execPartnerLost lane s
  | .loop lane enter refused => Sys2Proof.Machine.execLoop lane enter refused s
  | .laneRetrainCmd q lane => Sys2Proof.Machine.execLaneRetrainCmd q lane s
  | .laneRearm q lane => Sys2Proof.Machine.execLaneRearm q lane s
  | .laneClearCounts q lane => Sys2Proof.Machine.execLaneClearCounts q lane s
  | .laneTestWrite q block lane data => Sys2Proof.Machine.execLaneTestWrite q block lane data s
  | .packetReceived lane words sopInside => Sys2Proof.Machine.execPacketReceived lane words sopInside s
  | .mgmtRequestPacket lane ecc => Sys2Proof.Machine.execMgmtRequestPacket lane ecc s
  | .credit lane stream limit => Sys2Proof.Machine.execCredit lane stream limit s
  | .creditGrant lane => Sys2Proof.Machine.execCreditGrant lane s
  | .packetCloseTimer stream rx => Sys2Proof.Machine.execPacketCloseTimer stream rx s
  | .packetTransmit lane => Sys2Proof.Machine.execPacketTransmit lane s
  | .streamWaitExpiry lane => Sys2Proof.Machine.execStreamWaitExpiry lane s
  | .statBeacon => Sys2Proof.Machine.execStatBeacon s
  | .statCensus => Sys2Proof.Machine.execStatCensus s
  | .statSafetyMirror => Sys2Proof.Machine.execStatSafetyMirror s
  | .safetyCycle channel fbA fbB rst => Sys2Proof.Machine.execSafetyCycle channel fbA fbB rst s
  | .crossOff channel => Sys2Proof.Machine.execCrossOff channel s
  | .estopChange channel asserted => Sys2Proof.Machine.execEstopChange channel asserted s
  | .estopDiscrepancy => Sys2Proof.Machine.execEstopDiscrepancy s
  | .fireReport fb compared => Sys2Proof.Machine.execFireReport fb compared s
  | .chargeReport => Sys2Proof.Machine.execChargeReport s
  | .scanFault channel => Sys2Proof.Machine.execScanFault channel s
  | .motionSampleRequest channel axis => Sys2Proof.Machine.execMotionSampleRequest channel axis s
  | .motionSample channel => Sys2Proof.Machine.execMotionSample channel s
  | .offDemand channel => Sys2Proof.Machine.execOffDemand channel s
  | .tickClose => Sys2Proof.Machine.execTickClose s
  | .xcSend channel => Sys2Proof.Machine.execXcSend channel s
  | .xcMessage channel => Sys2Proof.Machine.execXcMessage channel s
  | .xcDecide channel => Sys2Proof.Machine.execXcDecide channel s
  | .testPulseStart channel => Sys2Proof.Machine.execTestPulseStart channel s
  | .testPulseSample channel seenA seenB => Sys2Proof.Machine.execTestPulseSample channel seenA seenB s
  | .testPulseEnd channel => Sys2Proof.Machine.execTestPulseEnd channel s
  | .safetySupplyCheck channel judge => Sys2Proof.Machine.execSafetySupplyCheck channel judge s
  | .safeRstEdge => Sys2Proof.Machine.execSafeRstEdge s
  | .safeRstStuck stuck => Sys2Proof.Machine.execSafeRstStuck stuck s
  | .unlock q => Sys2Proof.Machine.execUnlock q s
  | .lock q => Sys2Proof.Machine.execLock q s
  | .setPwd q => Sys2Proof.Machine.execSetPwd q s
  | .stageLoad q => Sys2Proof.Machine.execStageLoad q s
  | .sfParamDataWrite q data => Sys2Proof.Machine.execSfParamDataWrite q data s
  | .safetyCommit q => Sys2Proof.Machine.execSafetyCommit q s
  | .selftest q => Sys2Proof.Machine.execSelftest q s
  | .selftestDone item => Sys2Proof.Machine.execSelftestDone item s
  | .disarm q => Sys2Proof.Machine.execDisarm q s
  | .sfBadCommand q command => Sys2Proof.Machine.execSfBadCommand q command s
  | .sessionExpiry => Sys2Proof.Machine.execSessionExpiry s
  | .lockoutExpiry => Sys2Proof.Machine.execLockoutExpiry s
  | .budgetStale => Sys2Proof.Machine.execBudgetStale s
  | .claimFrame => Sys2Proof.Machine.execClaimFrame s
  | .claimSynEdge units => Sys2Proof.Machine.execClaimSynEdge units s
  | .claimLatch bus => Sys2Proof.Machine.execClaimLatch bus s
  | .claimSilent => Sys2Proof.Machine.execClaimSilent s
  | .promoteRequest => Sys2Proof.Machine.execPromoteRequest s
  | .promoteTimeout => Sys2Proof.Machine.execPromoteTimeout s
  | .excitationTakeover axis level => Sys2Proof.Machine.execExcitationTakeover axis level s
  | .heartbeatToggle => Sys2Proof.Machine.execHeartbeatToggle s
  | .budgetSend => Sys2Proof.Machine.execBudgetSend s
  | .loopsSend => Sys2Proof.Machine.execLoopsSend s
  | .statusSend => Sys2Proof.Machine.execStatusSend s
  | .summarySend frame => Sys2Proof.Machine.execSummarySend frame s
  | .pairMessage lane => Sys2Proof.Machine.execPairMessage lane s
  | .summaryCompareTimeout frame => Sys2Proof.Machine.execSummaryCompareTimeout frame s
  | .rejoin q => Sys2Proof.Machine.execRejoin q s
  | .withdraw q => Sys2Proof.Machine.execWithdraw q s
  | .hkRound die => Sys2Proof.Machine.execHkRound die s
  | .supplyMonitorChange rail good => Sys2Proof.Machine.execSupplyMonitorChange rail good s
  | .domainFault domain => Sys2Proof.Machine.execDomainFault domain s
  | .domainRestart q word data => Sys2Proof.Machine.execDomainRestart q word data s
  | .domainGood domain => Sys2Proof.Machine.execDomainGood domain s
  | .domainSwitchOff domain => Sys2Proof.Machine.execDomainSwitchOff domain s
  | .recordWrite region => Sys2Proof.Machine.execRecordWrite region s
  | .recordCopy => Sys2Proof.Machine.execRecordCopy s
  | .flashMirror => Sys2Proof.Machine.execFlashMirror s
  | .hoursSave => Sys2Proof.Machine.execHoursSave s
  | .recDataRead q => Sys2Proof.Machine.execRecDataRead q s
  | .fetch q => Sys2Proof.Machine.execFetch q s
  | .fetchDone => Sys2Proof.Machine.execFetchDone s
  | .clear q => Sys2Proof.Machine.execClear q s
  | .splitReadLow q addr => Sys2Proof.Machine.execSplitReadLow q addr s
  | .windowLatchRead q addr => Sys2Proof.Machine.execWindowLatchRead q addr s
  | .loupeInEdge instant rising => Sys2Proof.Machine.execLoupeInEdge instant rising s
  | .loupeArm q => Sys2Proof.Machine.execLoupeArm q s
  | .loupeFire q => Sys2Proof.Machine.execLoupeFire q s
  | .loupeLatch => Sys2Proof.Machine.execLoupeLatch s
  | .storeCut q slot => Sys2Proof.Machine.execStoreCut q slot s
  | .setBootCut q slot => Sys2Proof.Machine.execSetBootCut q slot s
  | .openUpdate q => Sys2Proof.Machine.execOpenUpdate q s
  | .openKeys q => Sys2Proof.Machine.execOpenKeys q s
  | .close q => Sys2Proof.Machine.execClose q s
  | .updateSessionExpiry => Sys2Proof.Machine.execUpdateSessionExpiry s
  | .fwDataWrite q data => Sys2Proof.Machine.execFwDataWrite q data s
  | .flashProgramDone failed => Sys2Proof.Machine.execFlashProgramDone failed s
  | .verify q => Sys2Proof.Machine.execVerify q s
  | .verifyDone => Sys2Proof.Machine.execVerifyDone s
  | .activate q => Sys2Proof.Machine.execActivate q s
  | .imageLoaded => Sys2Proof.Machine.execImageLoaded s
  | .ready q settings => Sys2Proof.Machine.execReady q settings s
  | .readyTimeout => Sys2Proof.Machine.execReadyTimeout s
  | .confirm q switch settings => Sys2Proof.Machine.execConfirm q switch settings s
  | .confirmDeadline => Sys2Proof.Machine.execConfirmDeadline s
  | .watchdogExpiry => Sys2Proof.Machine.execWatchdogExpiry s
  | .enrol q => Sys2Proof.Machine.execEnrol q s
  | .revoke q => Sys2Proof.Machine.execRevoke q s
  | .attest q => Sys2Proof.Machine.execAttest q s
  | .attestDone => Sys2Proof.Machine.execAttestDone s
  | .fwBadCommand q command => Sys2Proof.Machine.execFwBadCommand q command s
  | .presenceOpen => Sys2Proof.Machine.execPresenceOpen s
  | .presenceClose rose => Sys2Proof.Machine.execPresenceClose rose s
  | .mgmtTransaction q addr data ecc => Sys2Proof.Machine.execMgmtTransaction q addr data ecc s
  | .echo q addr data => Sys2Proof.Machine.execEcho q addr data s
  | .badOp q addr => Sys2Proof.Machine.execBadOp q addr s
  | .spiFrameStart => Sys2Proof.Machine.execSpiFrameStart s
  | .spiRequest addr data crc ecc => Sys2Proof.Machine.execSpiRequest addr data crc ecc s
  | .spiFrameEnd inside => Sys2Proof.Machine.execSpiFrameEnd inside s
  | .resetNAssert => Sys2Proof.Machine.execResetNAssert s
  | .resetNRelease => Sys2Proof.Machine.execResetNRelease s
  | .startupStart lockNs => Sys2Proof.Machine.execStartupStart lockNs s
  | .run q => Sys2Proof.Machine.execRun q s
  | .stop q => Sys2Proof.Machine.execStop q s
  | .resetChip q key => Sys2Proof.Machine.execResetChip q key s
  | .modeBadCommand q command key => Sys2Proof.Machine.execModeBadCommand q command key s
  | .laneAligned lane ask => Sys2Proof.Machine.execLaneAligned lane ask s
  | .aqBadCommand q command => Sys2Proof.Machine.execAqBadCommand q command s
  | .gateBadCommand q rx command => Sys2Proof.Machine.execGateBadCommand q rx command s
  | .calBadCommand q command => Sys2Proof.Machine.execCalBadCommand q command s
  | .islandClockMonitorFault region => Sys2Proof.Machine.execIslandClockMonitorFault region s
  | .crossbarFault => Sys2Proof.Machine.execCrossbarFault s
  | .cfUncorrectableError => Sys2Proof.Machine.execCfUncorrectableError s

end Sys2Proof.Machine
end

