-- ==== Sys2Proof/Machine/Tick.lean ====
section
/-!
DEFINITION. Time passes: one nanosecond of TBASE, and what the clocks alone bring about (R23, R501, R504, R572). DESIGN CHOICE: an idle
step is one nanosecond.
-/
namespace Sys2Proof.Machine

/-- Operating hours are counted while VDD_AON is good, the device running or held in reset; the time from the start reference to the lock is
counted at the start (R501). -/
def tickHours (s : State) : State :=
  if (s.time.running || s.startup.inReset) && !s.hk.bad.testBit 9 then countHours 1 s else s

/-- HK looks at the watched bit every 10 ns, whether or not the source is enabled. -/
def tickLoupe (s : State) : State :=
  if s.now % 10 = 0 then
    let b := s.eventBit
    let s1 := { s with mgmt := { s.mgmt with loupe := { s.mgmt.loupe with evtPrev := b } } }
    if b && !s.mgmt.loupe.evtPrev then loupeSource 2 s.now s1 else s1
  else s

/-- An accepted RESET_CHIP takes effect (R572). -/
def tickReset (s : State) : State :=
  if s.startup.resetAt.any (fun t => decide (t ≤ s.now)) then resetDevice 3 false s else s

/-- Each region output that is free passes a waiting record on (R22, R35). -/
def tickOutputs (s : State) : State := if s.rx.output = [] then s else forUp serveOutput 0 6 s

/-- One nanosecond passes: the always-on count goes on, and TBASE once it counts. What falls due in the present nanosecond comes before it
ends. -/
def tick (s : State) : State :=
  let s0 := tickHours s
  if s0.time.running then
    let s1 := latchDue (tickLanes (noteMirror s0))
    tickReset (tickLoupe (tickOutputs { s1 with time := { s1.time with tbase := s1.time.tbase + 1 } }))
  else s0

end Sys2Proof.Machine
end

