-- ==== Sys2Proof/Safety.lean ====
section
/-!
DEFINITION. What claims about runs are stated in: the canonical form of the model's memories, and the content that only named commands may
change.
-/
namespace Sys2Proof

open Sys2Proof.Machine

/-- The register file, the capture memory (R341), the shadow plane (R62, R547) and the image and Cut slots in flash (R513, R515) are in
canonical form. -/
abbrev Memory.wf (s : State) : Prop :=
  Canon regReset s.regs ∧ Canon (fun _ => 0) s.aq.mem ∧ Canon (fun _ => 0) s.cut.shadow ∧ Canon (fun _ => 0xFFFFFFFF) s.fw.image
    ∧ Canon (fun _ => 0xFFFFFFFF) s.fw.cuts

/-- What guards the device against its own requesters: the two copies of the safety password (R428), the key slots and the list of revoked
keys (R530, R531), and the minimum security version (R524). -/
structure Guard where
  pwdA : Option (List Byte)
  pwdB : Option (List Byte)
  keys : Sparse (Nat × List Word)
  revoked : List (List Word)
  minSec : Nat
  deriving DecidableEq, Repr

/-- The guard of a state. -/
def Machine.State.guard (s : State) : Guard :=
  { pwdA := s.sf.pwdA, pwdB := s.sf.pwdB, keys := s.fw.keys, revoked := s.fw.revoked, minSec := s.fw.minSec }

/-- Both copies of the password agree (R428), and the list of revoked keys holds at most 32 digests (R530). -/
def Guard.sound (g : Guard) : Prop := g.pwdA = g.pwdB ∧ g.revoked.length ≤ 32

namespace Machine

/-! ### Frames -/

/-- The parts of a state: its fields (motion samples and supply results on their way as one), some of the fields inside them, and the promises. -/
inductive Part where
  | pending | mode | regs | time | cut | mgmt | startup | cal | rx | tx | lk | aq | adcs | sc | motionIn | pairSt | sf | hk | fw | tap | fresh
  /-- TBASE; the live plane; the shadow plane; the capture memory; the flash slots; the password; key slots, revocations and versions. -/
  | tbase | live | shadow | aqMem | image | pwd | keys
  /-- The memories stay in canonical form; the guard stays sound; the minimum version does not fall. -/
  | canon | sound | minSec
  deriving DecidableEq, Repr

/-- `s` agrees with `b` on the part. -/
def Kept (p : Part) (b s : State) : Prop :=
  match p with
  | .pending => s.pending = b.pending
  | .mode => s.mode = b.mode
  | .regs => s.regs = b.regs
  | .time => s.time = b.time
  | .cut => s.cut = b.cut
  | .mgmt => s.mgmt = b.mgmt
  | .startup => s.startup = b.startup
  | .cal => s.cal = b.cal
  | .rx => s.rx = b.rx
  | .tx => s.tx = b.tx
  | .lk => s.lk = b.lk
  | .aq => s.aq = b.aq
  | .adcs => s.adcs = b.adcs
  | .sc => s.sc = b.sc
  | .motionIn => s.motionIn = b.motionIn ∧ s.supplyIn = b.supplyIn ∧ s.testIn = b.testIn
  | .pairSt => s.pairSt = b.pairSt
  | .sf => s.sf = b.sf
  | .hk => s.hk = b.hk
  | .fw => s.fw = b.fw
  | .tap => s.tap = b.tap
  | .fresh => s.fresh = b.fresh
  | .tbase => s.time.tbase = b.time.tbase
  | .live => s.cut.live = b.cut.live
  | .shadow => s.cut.shadow = b.cut.shadow
  | .aqMem => s.aq.mem = b.aq.mem
  | .image => s.fw.image = b.fw.image ∧ s.fw.cuts = b.fw.cuts
  | .pwd => s.sf.pwdA = b.sf.pwdA ∧ s.sf.pwdB = b.sf.pwdB
  | .keys => s.fw.keys = b.fw.keys ∧ s.fw.revoked = b.fw.revoked ∧ s.fw.minSec = b.fw.minSec
  | .canon => Memory.wf b → Memory.wf s
  | .sound => b.guard.sound → s.guard.sound
  | .minSec => b.fw.minSec ≤ s.fw.minSec

/-- Nothing but the parts listed may differ between `b` and `s`. -/
def OnlyParts (l : List Part) (b s : State) : Prop := ∀ p, p ∉ l → Kept p b s

/-- No register but those listed may differ. -/
def OnlyRegs (l : List Nat) (b s : State) : Prop := ∀ a, a ∉ l → s.reg a = b.reg a

/-- The parts of the state that a command may change; it changes no other (each command's own rule, and R37, R36, R495 for the records and
reactions that a flag brings about). -/
def touches : Instr → List Part
  | .registerWrite _ _ _ | .mgmtRequestPacket _ _ | .mgmtTransaction _ _ _ _ | .spiRequest _ _ _ _
    => [.mode, .regs, .time, .cut, .mgmt, .startup, .cal, .rx, .tx, .lk, .aq, .adcs, .sc, .motionIn, .pairSt, .sf, .hk, .fw, .fresh, .shadow, .aqMem, .image, .pwd, .keys]
  | .alignmentWord _ | .totLimitExpiry _ | .startInstant _ _ | .cellRearm _ _ | .checkNow _ _ | .markerEdge _ _ | .gdClearCounts _ _
    | .gateUpdate _ _ _ _ | .gateStage _ _ | .gateDiscard _ _
    => [.regs, .mgmt, .rx]
  | .refclkLoss | .crossbarFault | .cfUncorrectableError
    => [.mode, .regs, .time, .mgmt, .startup, .cal, .rx, .tx, .pairSt, .fw]
  | .refclkReturn
    => [.regs, .startup]
  | .frameSyncEdge
    => [.mode, .regs, .time, .cut, .mgmt, .startup, .cal, .rx, .tx, .adcs, .sc, .pairSt, .sf, .hk, .fw, .fresh, .live]
  | .frameLimitExpiry
    => [.regs, .time, .mgmt]
  | .pixelBoundary _
    => [.regs, .time, .cut, .mgmt, .startup, .cal, .rx, .tx, .adcs]
  | .changeAtInstant _
    => [.regs, .cut, .mgmt, .startup, .cal, .rx, .tx, .lk, .aq, .adcs, .sc, .aqMem]
  | .handshakeTimeout _ | .girdleLockLoss _ | .islandClockMonitorFault _
    => [.mode, .regs, .time, .cut, .mgmt, .startup, .cal, .rx, .tx, .lk, .aq, .pairSt, .fw, .aqMem]
  | .faultEscalation _ _ _
    => [.mode, .regs, .time, .cut, .mgmt, .startup, .cal, .rx, .tx, .lk, .aq, .sc, .pairSt, .fw, .aqMem]
  | .regionFenceLift _ _
    => [.regs, .mgmt, .startup, .hk]
  | .regionReady _ | .domainGood _
    => [.regs, .mgmt, .startup, .cal, .rx, .tx, .lk, .aq, .adcs, .sc, .aqMem]
  | .cutWindowWrite _ _ _ | .discard _
    => [.regs, .cut, .mgmt, .startup, .cal, .rx, .tx, .lk, .aq, .adcs, .sc, .sf, .hk, .shadow, .aqMem]
  | .loadSlot _ _
    => [.regs, .cut, .mgmt, .startup, .cal, .rx, .tx, .lk, .aq, .adcs, .sc, .sf, .hk, .aqMem]
  | .loadSlotCopyDone
    => [.regs, .cut, .mgmt, .fresh, .shadow]
  | .validate _ | .cancel _
    => [.regs, .cut, .mgmt]
  | .validationComplete
    => [.regs, .time, .cut, .mgmt, .startup, .cal, .rx, .tx, .lk, .aq, .adcs, .sc, .sf, .hk, .fw, .shadow, .aqMem]
  | .schedule _
    => [.regs, .time, .cut, .mgmt]
  | .cutBadCommand _ _ | .blankStuck _ | .gateRead _ _ | .amplitudeWrite _ _ _ | .winRead _ | .clearCnt _ | .laneClearCounts _ _
    | .sfBadCommand _ _ | .claimSilent | .recordWrite _ | .recordCopy | .recDataRead _ | .fetch _ | .fetchDone | .clear _ | .loupeInEdge _ _
    | .loupeArm _ | .loupeFire _ | .badOp _ _ | .spiFrameEnd _
    => [.regs, .mgmt]
  | .swapApply
    => [.mode, .regs, .time, .cut, .mgmt, .startup, .cal, .rx, .tx, .adcs, .sc, .pairSt, .sf, .hk, .fw, .live]
  | .swapDone
    => [.regs, .cut, .mgmt, .fw, .shadow]
  | .liveRedigest _ | .readyTimeout | .confirmDeadline | .watchdogExpiry
    => [.mode, .regs, .time, .cut, .mgmt, .startup, .cal, .rx, .tx, .pairSt, .fw]
  | .discriminatorEdge _ _ _ _ _ _ _ _ | .deadTimeEnd _ _ _ _ | .edgeAttribute _ | .histWindowRead _ _ _ _ _ _ _
    => [.regs, .mgmt, .rx, .fresh]
  | .pulsePlace _ _ _
    => [.regs, .mgmt, .cal, .rx, .fresh]
  | .startPost _ | .blankNFall _ | .blankNRise _
    => [.rx]
  | .shotWindowClose _
    => [.regs, .mgmt, .rx, .lk, .aq, .fresh, .aqMem]
  | .blankIntervalStart _
    => [.regs]
  | .blankIntervalEnd _ | .skewRefresh _
    => [.regs, .rx]
  | .checkSlotInsert _
    => [.tx]
  | .checkWindowEnd _ _ | .monitorCharge _ _ _
    => [.regs, .mgmt, .rx, .tx]
  | .biasConversionRequest _
    => [.regs, .rx, .adcs]
  | .foregroundRunEnd _ _ _
    => [.regs, .cal, .rx]
  | .backgroundRunEnd _ _
    => [.regs, .mgmt, .startup, .cal, .rx]
  | .slotPlace _
    => [.regs, .time, .cut, .mgmt, .startup, .rx, .tx]
  | .fire _ | .portRearm _ _
    => [.regs, .mgmt, .tx]
  | .hopFrameWrite _ _
    => [.regs, .time, .mgmt, .tx]
  | .pixelClose _ | .fgStart _ | .fgAbort _ | .calBadCommand _ _
    => [.regs, .mgmt, .cal, .rx]
  | .cellExtract _ _ _
    => [.regs, .mgmt, .startup, .rx, .lk, .aq, .pairSt, .fresh, .aqMem]
  | .gateCommit _ _ | .gateBadCommand _ _ _
    => [.regs, .time, .mgmt, .rx]
  | .conversionSlotEnd _ _ _
    => [.regs, .mgmt, .rx, .adcs, .sc, .fresh]
  | .injectedRequest _
    => [.regs, .mgmt, .adcs, .sc, .motionIn, .fresh]
  | .injectedResult _ _ _
    => [.regs, .mgmt, .adcs, .sc, .motionIn]
  | .selfCheck _ _ | .converterRelease _
    => [.mode, .regs, .time, .mgmt, .startup, .cal, .rx, .tx, .adcs, .sc, .pairSt, .fw]
  | .referenceSettled _ _ | .calZero _ _ | .calFull _ _ | .scanOn _ _ | .scanOff _ _ | .bnReset _ _ | .adcRearm _ _ | .adcBadCommand _ _ _
    => [.regs, .mgmt, .adcs]
  | .referenceLost _ _ | .excCurrentLimit _ | .excWrite _ _ _
    => [.regs, .mgmt, .adcs, .sc]
  | .calZeroDone _ _ | .calFullDone _ _
    => [.regs, .mgmt, .rx, .adcs]
  | .bankWrite _ _ _
    => [.regs, .mgmt, .rx, .adcs, .hk]
  | .chopReversal _ | .excitationReversalSensed _ | .excitationTakeover _ _
    => [.regs, .adcs, .sc]
  | .driveWord _
    => [.regs, .sc, .fresh]
  | .keepalive _
    => [.sc]
  | .loopRequest _
    => [.adcs, .sc]
  | .loopSample _ | .loopTimeout _ | .loopRearm _ _ | .clearDelay _ _ | .setpointWrite _ _ _ | .engineLoadUpdate
    => [.regs, .mgmt, .sc]
  | .loopEvaluation _
    => [.regs, .time, .cut, .mgmt, .startup, .cal, .adcs, .sc, .fresh]
  | .settleHoldEvaluation _
    => [.regs, .mgmt, .sc, .fresh]
  | .loadRefresh _
    => [.cal]
  | .captureEdgeArrival _ _
    => [.regs, .mgmt, .rx, .aq]
  | .eventRelease
    => [.regs, .cut, .mgmt, .lk, .aq, .fresh, .aqMem]
  | .gapMarker _ _ | .xlineRelease
    => [.aq]
  | .postTimeExpiry | .force _ | .extTrigEdge _ _ | .xlineEdge _ _ | .aqBadCommand _ _
    => [.regs, .mgmt, .lk, .aq, .fresh, .aqMem]
  | .segmentOpen
    => [.regs, .aq]
  | .captureArm _
    => [.regs, .mgmt, .aq, .aqMem]
  | .captureAbort _
    => [.regs, .mgmt, .lk, .aq, .aqMem]
  | .xlineStuck _
    => [.regs, .mgmt, .aq]
  | .captureWindowRead _ _ _ | .loupeLatch
    => [.regs, .mgmt, .fresh]
  | .laneEnable _ | .hello _ _ | .capsTimeout _ | .alignmentTimeout _ | .eqDone _ _ | .eqTimeout _ | .verifyEnd _ _ | .verifyPatternEnd _ _
    | .retrain _ | .lineErrorRetrain _ | .partnerLost _ | .loop _ _ _ | .laneRetrainCmd _ _ | .laneRearm _ _ | .laneTestWrite _ _ _ _
    | .streamWaitExpiry _ | .laneAligned _ _
    => [.regs, .mgmt, .lk, .aq]
  | .helloBurst _ | .tapReqResend _ | .credit _ _ _ | .creditGrant _
    => [.lk]
  | .rate _ _ | .tapReq _ _ _ _ | .tapAck _ _ _ | .packetReceived _ _ _ | .packetCloseTimer _ _ | .statBeacon | .statCensus | .statSafetyMirror
    => [.regs, .mgmt, .lk]
  | .packetTransmit _
    => [.regs, .cut, .mgmt, .lk, .aq]
  | .safetyCycle _ _ _ _ | .safetySupplyCheck _ _ | .selftest _
    => [.mode, .regs, .time, .mgmt, .cal, .rx, .tx, .adcs, .motionIn, .sf, .fw]
  | .crossOff _ | .estopChange _ _ | .estopDiscrepancy | .fireReport _ _ | .chargeReport | .offDemand _ | .xcDecide _ | .testPulseSample _ _ _
    | .selftestDone _ | .disarm _ | .budgetStale
    => [.mode, .regs, .time, .mgmt, .cal, .rx, .tx, .sf, .fw]
  | .scanFault _
    => [.mode, .regs, .time, .mgmt, .cal, .rx, .tx, .sc, .sf, .fw]
  | .motionSampleRequest _ _
    => [.adcs, .sf]
  | .motionSample _
    => [.mode, .regs, .time, .mgmt, .cal, .rx, .tx, .motionIn, .sf, .fw]
  | .tickClose
    => [.mode, .regs, .time, .cut, .mgmt, .cal, .rx, .tx, .sf, .fw, .fresh]
  | .xcSend _ | .xcMessage _ | .testPulseStart _ | .testPulseEnd _ | .safeRstEdge | .sessionExpiry | .lockoutExpiry
    => [.sf]
  | .safeRstStuck _ | .lock _ | .stageLoad _ | .sfParamDataWrite _ _ | .safetyCommit _
    => [.regs, .mgmt, .sf]
  | .unlock _
    => [.regs, .mgmt, .sf, .fresh]
  | .setPwd _
    => [.regs, .mgmt, .sf, .fresh, .pwd]
  | .claimFrame | .heartbeatToggle | .summaryCompareTimeout _
    => [.pairSt]
  | .claimSynEdge _
    => [.regs, .mgmt, .rx, .pairSt]
  | .claimLatch _ | .rejoin _ | .withdraw _
    => [.mode, .regs, .time, .mgmt, .cal, .rx, .tx, .adcs, .sc, .pairSt, .sf, .fw]
  | .promoteRequest | .promoteTimeout
    => [.regs, .mgmt, .pairSt]
  | .budgetSend | .loopsSend | .statusSend | .summarySend _
    => [.regs, .mgmt, .lk, .pairSt]
  | .pairMessage _
    => [.mode, .regs, .time, .mgmt, .cal, .rx, .tx, .lk, .sc, .pairSt, .sf, .fw]
  | .hkRound _
    => [.mode, .regs, .time, .cut, .mgmt, .startup, .cal, .rx, .tx, .adcs, .pairSt, .hk, .fw]
  | .supplyMonitorChange _ _ | .domainFault _ | .resetNAssert
    => [.mode, .regs, .time, .cut, .mgmt, .startup, .cal, .rx, .tx, .lk, .aq, .adcs, .sc, .motionIn, .pairSt, .sf, .hk, .fw, .tbase, .live, .shadow, .aqMem]
  | .domainRestart _ _ _
    => [.regs, .mgmt, .hk]
  | .domainSwitchOff _
    => [.regs, .mgmt, .startup, .cal, .rx, .tx, .lk, .aq, .adcs, .sc, .sf, .hk, .aqMem]
  | .flashMirror | .hoursSave | .echo _ _ _ | .spiFrameStart
    => [.mgmt]
  | .splitReadLow _ _ | .windowLatchRead _ _
    => [.regs, .mgmt, .fw, .fresh]
  | .storeCut _ _ | .close _ | .updateSessionExpiry | .verify _
    => [.regs, .mgmt, .fw, .image]
  | .setBootCut _ _ | .openUpdate _ | .openKeys _ | .fwDataWrite _ _ | .verifyDone | .ready _ _ | .attest _ | .attestDone | .fwBadCommand _ _
    | .presenceOpen
    => [.regs, .mgmt, .fw]
  | .flashProgramDone _
    => [.regs, .mgmt, .fw, .fresh, .image]
  | .activate _
    => [.mode, .regs, .time, .cut, .mgmt, .startup, .cal, .rx, .tx, .fw, .image]
  | .imageLoaded
    => [.mode, .regs, .time, .cut, .mgmt, .startup, .cal, .rx, .tx, .lk, .aq, .adcs, .sc, .pairSt, .sf, .hk, .fw, .shadow, .aqMem]
  | .confirm _ _ _ | .enrol _ | .revoke _
    => [.regs, .mgmt, .fw, .keys]
  | .presenceClose _
    => [.regs, .fw]
  | .resetNRelease
    => [.startup]
  | .startupStart _
    => [.regs, .time, .cut, .mgmt, .startup, .adcs, .fw, .tbase]
  | .run _
    => [.mode, .regs, .mgmt, .tx]
  | .stop _
    => [.mode, .regs, .time, .mgmt, .cal, .rx, .tx]
  | .resetChip _ _
    => [.regs, .mgmt, .startup]
  | .modeBadCommand _ _ _
    => [.mode, .regs, .time, .mgmt, .startup, .cal, .rx, .tx]

/-- A register whose write does something other than change its own bits: it carries a command, belongs to its requester, stages, waits
for a round or a boundary, or points Loupe's watch (R12, R14, R73, R193, R256, R261, R467, R494, R504, R535). -/
def ownEffect (a : Nat) (row : RegRow) : Bool :=
  match adcOf a with
  | some k => [ADC_CMD k, ADC_BANK k].contains a || row.rw ≠ 0 || decide (52 ≤ k)
  | none =>
    let cell := a / 0x100 % 256
    let i := a / 4 % 64
    match a / 0x1000000 with
    | 0 => [REC_SEL, REC_CURSOR, LOUPE_SEL, REC_CMD, LOUPE_CMD, LOUPE_CFG, LOUPE_EVT_ADDR, FW_CMD, FW_DATA, FW_ADDR, MODE_CMD, CUT_CTRL, PAIR_CMD, CAL_CMD,
        REGION_FENCE].contains a
    | 1 => true
    | 2 => [SF_CMD, SF_PWD 0, SF_PWD 1, SF_PWD 2, SF_PWD 3, SF_PARAM_DATA].contains a
    | 3 => (cell < 8 && (i = 1 || i = 2)) || (0x40 ≤ cell && cell < 0x80 && (i = 0 || i = 7))
    | 4 => a = TX_HOP_FRAME || (cell < 16 && a = TX_PORT_CMD (a / 0x10000 % 256 * 16 + cell))
    | 5 => cell < 8 && (a = LK_LANE_CMD (a / 0x10000 % 256 * 8 + cell) || a = LK_LANE_TEST (a / 0x10000 % 256 * 8 + cell))
    | 6 => a = AQ_CTRL
    | _ =>
      let c := (a / 0x1000000 - 8) * 128 + a / 0x10000 % 256 * 16 + cell
      if a / 0x10000 % 256 = 0xFF then a = RX_GATE_CMD (a / 0x1000000 - 8)
      else (cell < 16 && (a = RX_CELL_CMD c || a = GD_CELL_CMD c)) || row.rw ≠ 0

/-- The chip-level reaction of a cause has been taken (R36, R573, R617): the cause stands, so an off-demand stands at both safety channels, and
ARMED and RUN have given way to CONFIGURED. -/
def Reacted (cause : ChipCause) (b s : State) : Prop :=
  cause ∈ s.startup.chip ∧ (∀ c ∈ b.startup.chip, c ∈ s.startup.chip) ∧ s.pairSt.chipSince = true ∧
    s.mode = (if b.mode = .armed ∨ b.mode = .run then .configured else b.mode)

/-- Every lane but `l` is as before. -/
def OtherLanes (l : Nat) (b s : State) : Prop := ∀ j, j ≠ l → s.lane j = b.lane j

/-- The state after `n` steps, if each of them answers a next state. -/
def after : Nat → State → Option State
  | 0, s => some s
  | n + 1, s =>
    match step s with
    | .next t => after n t
    | _ => none

/-- Commands that may change the password, the keys, the revocations or the minimum security version, and the general management
transactions that can carry one of them. -/
def changesGuard : Instr → Prop
  | .setPwd _ | .enrol _ | .revoke _ | .confirm _ _ _ | .registerWrite _ _ _ | .mgmtTransaction _ _ _ _ | .spiRequest _ _ _ _
  | .mgmtRequestPacket _ _ => True
  | _ => False

/-- A transaction of requester `q` at address word `addr` has ended with the failing status `st`: the requester reads it with a data word of 0,
it is counted, flagged and recorded (R550), and nothing else has changed. -/
def Reported (q st addr : Nat) (s t : State) : Prop :=
  (t.req q).status = BitVec.ofNat 8 st ∧ (t.req q).data = 0 ∧
    t.fget (MGMT_ERR q) MGMT_ERR.count = satAdd (2 ^ MGMT_ERR.count.width - 1) (s.fget (MGMT_ERR q) MGMT_ERR.count) 1 ∧
    t.rbit MGMT_FLAGS (st - 1) = true ∧ t.reg MGMT_ERR_ADDR = BitVec.ofNat 32 addr ∧
    t.fget MGMT_ERR_INFO MGMT_ERR_INFO.status = st ∧ t.fget MGMT_ERR_INFO MGMT_ERR_INFO.requester = q ∧
    OnlyParts [.regs, .mgmt] s t ∧
    OnlyRegs [MGMT_ERR q, MGMT_FLAGS, MGMT_ERR_ADDR, MGMT_ERR_INFO, REC_LOST, REC_STATUS] s t

/-- The register at `a` takes accesses: the device answers, and its region is neither fenced nor without power (R548, R549). -/
def State.takes (s : State) (a : Nat) : Prop := s.answers = true ∧ s.targetStatus a = 0

end Machine

end Sys2Proof
end

