-- ==== Sys2Proof/WellFormed.lean ====
section
/-!
DEFINITION. Which command terms stand for something that can arrive: what the operand types alone do not say.
-/
namespace Sys2Proof

/-- A register address is word-aligned (R541). -/
def wordAligned (a : BitVec 28) : Bool := a.toNat % 4 = 0

/-- The value is one of the named commands 1 to `n`. -/
def named (n v : Nat) : Bool := 1 ≤ v && v ≤ n

/-- No number occurs twice. -/
def distinct : List Nat → Bool
  | [] => true
  | x :: xs => !xs.contains x && distinct xs

/-- The counts of a code-density run: 128 codes, `n` edges in all (R133). -/
def isRun (n : Nat) (hits : List Nat) : Bool := hits.length = 128 && hits.foldl (· + ·) 0 = n

/-- Settings halves: each at most once, and no longer than its 64 KiB (R527). -/
def settingsShape (l : List (Fin 4 × List Word)) : Bool := distinct (l.map (fun e => e.1.val)) && l.all (fun e => e.2.length ≤ 16384)

/-- The command can arrive as it stands. -/
def Instr.wellFormed : Instr → Bool
  | .registerWrite _ addr _ => wordAligned addr
  | .alignmentWord departed => distinct (departed.map (fun e => e.1.val))
  | .refclkLoss => true
  | .refclkReturn => true
  | .frameSyncEdge => true
  | .frameLimitExpiry => true
  | .pixelBoundary _ => true
  | .changeAtInstant _ => true
  | .handshakeTimeout _ => true
  | .faultEscalation _ block cell => block.isSome || cell.isNone
  | .regionFenceLift _ _ => true
  | .regionReady _ => true
  | .cutWindowWrite _ _ _ => true
  | .loadSlot _ _ => true
  | .loadSlotCopyDone => true
  | .validate _ => true
  | .validationComplete => true
  | .schedule _ => true
  | .cancel _ => true
  | .discard _ => true
  | .cutBadCommand _ command => !named 5 command.toNat
  | .swapApply => true
  | .swapDone => true
  | .liveRedigest _ => true
  | .discriminatorEdge _ _ _ _ _ _ _ _ => true
  | .deadTimeEnd _ _ _ _ => true
  | .edgeAttribute _ => true
  | .totLimitExpiry _ => true
  | .pulsePlace _ _ _ => true
  | .startPost _ => true
  | .startInstant _ _ => true
  | .shotWindowClose _ => true
  | .blankNFall _ => true
  | .blankNRise _ => true
  | .blankIntervalStart _ => true
  | .blankIntervalEnd _ => true
  | .blankStuck _ => true
  | .checkSlotInsert _ => true
  | .checkWindowEnd _ _ => true
  | .cellRearm _ _ => true
  | .checkNow _ _ => true
  | .biasConversionRequest _ => true
  | .markerEdge _ _ => true
  | .skewRefresh _ => true
  | .foregroundRunEnd _ cellHits refHits => cellHits.length ≤ 16 && cellHits.all (fun h => h = [] || isRun (2 ^ 21) h) && isRun (2 ^ 21) refHits
  | .backgroundRunEnd _ hits => isRun (2 ^ 20) hits
  | .girdleLockLoss _ => true
  | .gdClearCounts _ _ => true
  | .slotPlace _ => true
  | .fire _ => true
  | .monitorCharge _ _ _ => true
  | .portRearm _ _ => true
  | .hopFrameWrite _ _ => true
  | .pixelClose _ => true
  | .cellExtract _ _ _ => true
  | .gateUpdate _ _ _ _ => true
  | .gateRead _ _ => true
  | .gateStage _ _ => true
  | .gateCommit _ _ => true
  | .gateDiscard _ _ => true
  | .histWindowRead _ _ _ _ _ _ _ => true
  | .conversionSlotEnd _ _ _ => true
  | .injectedRequest _ => true
  | .injectedResult _ _ _ => true
  | .selfCheck _ _ => true
  | .referenceSettled _ _ => true
  | .referenceLost _ _ => true
  | .calZero _ _ => true
  | .calZeroDone _ _ => true
  | .calFull _ _ => true
  | .calFullDone _ _ => true
  | .scanOn _ _ => true
  | .scanOff _ _ => true
  | .bnReset _ _ => true
  | .adcRearm _ _ => true
  | .adcBadCommand _ _ command => !named 6 command.toNat
  | .bankWrite _ _ _ => true
  | .converterRelease _ => true
  | .excCurrentLimit _ => true
  | .excWrite _ _ _ => true
  | .chopReversal _ => true
  | .driveWord _ => true
  | .keepalive _ => true
  | .loopRequest _ => true
  | .loopSample _ => true
  | .loopEvaluation _ => true
  | .loopTimeout _ => true
  | .settleHoldEvaluation _ => true
  | .loopRearm _ _ => true
  | .clearDelay _ _ => true
  | .setpointWrite _ _ _ => true
  | .amplitudeWrite _ _ _ => true
  | .engineLoadUpdate => true
  | .excitationReversalSensed _ => true
  | .loadRefresh _ => true
  | .fgStart _ => true
  | .fgAbort _ => true
  | .winRead _ => true
  | .captureEdgeArrival _ _ => true
  | .eventRelease => true
  | .gapMarker _ _ => true
  | .postTimeExpiry => true
  | .segmentOpen => true
  | .captureArm _ => true
  | .captureAbort _ => true
  | .force _ => true
  | .clearCnt _ => true
  | .extTrigEdge _ _ => true
  | .xlineEdge _ _ => true
  | .xlineRelease => true
  | .xlineStuck _ => true
  | .captureWindowRead _ _ _ => true
  | .laneEnable _ => true
  | .helloBurst _ => true
  | .hello _ _ => true
  | .capsTimeout _ => true
  | .rate _ _ => true
  | .alignmentTimeout _ => true
  | .tapReq _ _ _ _ => true
  | .tapAck _ _ _ => true
  | .tapReqResend _ => true
  | .eqDone _ _ => true
  | .eqTimeout _ => true
  | .verifyEnd _ _ => true
  | .verifyPatternEnd _ _ => true
  | .retrain _ => true
  | .lineErrorRetrain _ => true
  | .partnerLost _ => true
  | .loop _ _ _ => true
  | .laneRetrainCmd _ _ => true
  | .laneRearm _ _ => true
  | .laneClearCounts _ _ => true
  | .laneTestWrite _ _ _ _ => true
  | .packetReceived _ words _ => words.length < 4096
  | .mgmtRequestPacket _ ecc => ecc.length ≤ 64
  | .credit _ _ _ => true
  | .creditGrant _ => true
  | .packetCloseTimer _ _ => true
  | .packetTransmit _ => true
  | .streamWaitExpiry _ => true
  | .statBeacon => true
  | .statCensus => true
  | .statSafetyMirror => true
  | .safetyCycle _ _ _ _ => true
  | .crossOff _ => true
  | .estopChange _ _ => true
  | .estopDiscrepancy => true
  | .fireReport _ _ => true
  | .chargeReport => true
  | .scanFault _ => true
  | .motionSampleRequest _ _ => true
  | .motionSample _ => true
  | .offDemand _ => true
  | .tickClose => true
  | .xcSend _ => true
  | .xcMessage _ => true
  | .xcDecide _ => true
  | .testPulseStart _ => true
  | .testPulseSample _ _ _ => true
  | .testPulseEnd _ => true
  | .safetySupplyCheck _ _ => true
  | .safeRstEdge => true
  | .safeRstStuck _ => true
  | .unlock _ => true
  | .lock _ => true
  | .setPwd _ => true
  | .stageLoad _ => true
  | .sfParamDataWrite _ _ => true
  | .safetyCommit _ => true
  | .selftest _ => true
  | .selftestDone _ => true
  | .disarm _ => true
  | .sfBadCommand _ command => !named 7 command.toNat
  | .sessionExpiry => true
  | .lockoutExpiry => true
  | .budgetStale => true
  | .claimFrame => true
  | .claimSynEdge _ => true
  | .claimLatch _ => true
  | .claimSilent => true
  | .promoteRequest => true
  | .promoteTimeout => true
  | .excitationTakeover _ _ => true
  | .heartbeatToggle => true
  | .budgetSend => true
  | .loopsSend => true
  | .statusSend => true
  | .summarySend _ => true
  | .pairMessage _ => true
  | .summaryCompareTimeout _ => true
  | .rejoin _ => true
  | .withdraw _ => true
  | .hkRound die => distinct (die.map (fun e => e.1.val))
  | .supplyMonitorChange _ _ => true
  | .domainFault _ => true
  | .domainRestart _ _ _ => true
  | .domainGood _ => true
  | .domainSwitchOff _ => true
  | .recordWrite _ => true
  | .recordCopy => true
  | .flashMirror => true
  | .hoursSave => true
  | .recDataRead _ => true
  | .fetch _ => true
  | .fetchDone => true
  | .clear _ => true
  | .splitReadLow _ addr => wordAligned addr
  | .windowLatchRead _ addr => wordAligned addr
  | .loupeInEdge _ _ => true
  | .loupeArm _ => true
  | .loupeFire _ => true
  | .loupeLatch => true
  | .storeCut _ _ => true
  | .setBootCut _ _ => true
  | .openUpdate _ => true
  | .openKeys _ => true
  | .close _ => true
  | .updateSessionExpiry => true
  | .fwDataWrite _ _ => true
  | .flashProgramDone _ => true
  | .verify _ => true
  | .verifyDone => true
  | .activate _ => true
  | .imageLoaded => true
  | .ready _ settings => settingsShape settings
  | .readyTimeout => true
  | .confirm _ _ settings => settingsShape settings
  | .confirmDeadline => true
  | .watchdogExpiry => true
  | .enrol _ => true
  | .revoke _ => true
  | .attest _ => true
  | .attestDone => true
  | .fwBadCommand _ command => !named 12 command.toNat
  | .presenceOpen => true
  | .presenceClose _ => true
  | .mgmtTransaction _ addr _ _ => addr.toNat % 4 < 2
  | .echo _ addr _ => addr.toNat % 4 = 2
  | .badOp _ addr => addr.toNat % 4 = 3
  | .spiFrameStart => true
  | .spiRequest _ _ _ _ => true
  | .spiFrameEnd _ => true
  | .resetNAssert => true
  | .resetNRelease => true
  | .startupStart _ => true
  | .run _ => true
  | .stop _ => true
  | .resetChip _ _ => true
  | .modeBadCommand _ command key => !named 2 command.toNat && !(command.toNat = 3 && key = 0x5253)
  | .laneAligned _ _ => true
  | .aqBadCommand _ command => !named 4 command.toNat
  | .gateBadCommand _ _ command => !named 4 command.toNat
  | .calBadCommand _ command => !named 3 command.toNat
  | .islandClockMonitorFault _ => true
  | .crossbarFault => true
  | .cfUncorrectableError => true

end Sys2Proof
end

