-- ==== Sys2Proof/Certificates/Slice0/Obligations.lean ====
section
/-!
DEFINITION. The statements for the provers: what every command does, which states it may change, and what no command may change.
-/

open Sys2Proof Sys2Proof.Machine

/-- A step with a command at the front of the queue runs that command with the rest of the queue. For every command c, every queue cs and every state s:
step at s with queue c :: cs is exec of c at s with queue cs. The model's own choices and readings that it rests on stand in log entry 2. (R12, R540) -/
def Obligations.StepRunsTheFrontCommand : Prop :=
  ∀ (c : Instr) (cs : List Instr) (s : State), Machine.step { s with pending := c :: cs } = exec c { s with pending := cs }

/-- A step on an empty queue lets one nanosecond of TBASE pass (the model's choice, log entry 1). With an empty queue step answers a next state with an
empty queue. While the timebase does not run nothing changes but the always-on count of operating hours. While it runs and no accepted RESET_CHIP is
due at the next nanosecond, TBASE is one greater modulo 2^64, and nothing changes in the timebase but it, nothing outside the receive path, the links,
the capture engine's hand-over to them, the recorders, the free values and the register file; what falls due in the present nanosecond (the mirror,
lanes, a Loupe latch) comes first, then the region outputs, Loupe's watch and the reset. With the link region off, no Loupe latch set, an unchanged
safety mirror and no record waiting at a region's output, nothing else changes but the hours counter, Loupe, and the registers LOUPE_STATUS,
LOUPE_TIME, REC_LOST and REC_STATUS. The mode, the planes, the other regions and the stores keep their content. That an idle step is one nanosecond is
a DESIGN CHOICE of the model (log entry 1). The model's own choices and readings that it rests on stand in log entry 1. (R23, R35, R501, R504, R572) -/
def Obligations.AnIdleStepIsOneNanosecond : Prop :=
  ∀ s : State, s.pending = [] →
    ∃ t, Machine.step s = .next t ∧ t.pending = [] ∧
      (s.time.running = false → t = tickHours s ∧ OnlyParts [.mgmt] s t) ∧
      (s.time.running = true → (∀ i, s.startup.resetAt = some i → (s.time.tbase + 1).toNat < i) →
        t.time = { s.time with tbase := s.time.tbase + 1 } ∧ OnlyParts [.time, .tbase, .mgmt, .regs, .rx, .lk, .aq, .fresh] s t ∧
        (s.domOn 59 = false → s.mgmt.loupe.latchAt = none → s.mirror = s.lk.mirrorWord → s.rx.output = [] →
          OnlyParts [.time, .tbase, .mgmt, .regs] s t ∧ OnlyRegs [LOUPE_STATUS, LOUPE_TIME_LO, LOUPE_TIME_HI, REC_LOST, REC_STATUS] s t) ∧
        ∃ u, u = latchDue (tickLanes (noteMirror (tickHours s))) ∧
          t = tickLoupe (forUp serveOutput 0 6 { u with time := { u.time with tbase := u.time.tbase + 1 } }))

/-- Reset: every register at its reset word, nothing pending, no Cut live, TBASE not yet counting, memories empty. In the reset state every register of
the map reads the word its field map gives for reset. No command is pending, no plane is live and none is in the shadow plane, TBASE is 0 and does not
yet count, FRAME_NUM is 0, the loader has the device, the capture memory is empty, and no transaction is answered. Reset words for fields to which the
spec gives no reset value are 0, the model's choice (log entry 3). The model's own choices and readings that it rests on stand in log entries 3 and
33. (R12, R23, R26, R62, R498, R569) -/
def Obligations.ResetLeavesEveryRegisterAtItsResetWord : Prop :=
  (∀ a row, regRow a = some row → State.reset.reg a = BitVec.ofNat 32 row.reset) ∧
  State.reset.pending = [] ∧ State.reset.mode = .loader ∧ State.reset.cut.live = none ∧ State.reset.cut.shadow = [] ∧
  State.reset.time.tbase = 0 ∧ State.reset.time.running = false ∧ State.reset.frameNum = 0 ∧ State.reset.aq.mem = [] ∧
  State.reset.answers = false ∧ (∀ r, State.reset.recorder r = {})

/-- The reset state has its memories in canonical form and a sound guard. In the reset state the register file, the capture memory, the shadow plane and
the flash slots are in canonical form, the two copies of the safety password agree, and at most 32 keys are revoked. (R428, R530, R62, R341, R513) -/
def Obligations.ResetMeetsTheInvariant : Prop :=
  Memory.wf State.reset ∧ State.reset.guard.sound

/-- Every step keeps the memories canonical, the password copies equal, at most 32 revocations, and never lowers the minimum version. From every state in
which the register file, the capture memory, the shadow plane and the flash slots are in canonical form, the two copies of the safety password agree
and at most 32 keys are revoked, every step that answers a next state gives a state in which all of this holds again, and whose minimum security
version is not below that of the state before. This is so of every command and of the idle step, in states that no run reaches as well. (R428, R530,
R524, R62, R341, R513, R531) -/
def Obligations.EveryStepKeepsTheInvariant : Prop :=
  ∀ s t : State, Machine.step s = .next t → Memory.wf s → s.guard.sound →
    Memory.wf t ∧ t.guard.sound ∧ s.guard.minSec ≤ t.guard.minSec

/-- The frame of every command: the parts of the state it may change, and no others. For each of the 256 commands the list touches c names the parts of
the state that the command may change (the mode, the register file, TBASE and the rest of the timebase, the live plane and the shadow plane,
requesters and recorders, start-up and containment, calibration, receive, emission, links, capture and its memory, converters, scanner, pair, safety
and its password, housekeeping, firmware with its flash and its keys, and how many free values have been drawn). Whenever exec of c answers a next
state, every part not in the list is as before. No command changes the queue, and each keeps the canonical form of the memories, the soundness of the
guard and the minimum security version. The model's own choices and readings that it rests on stand in log entry 2. (R12, R13, R23, R28, R36, R62,
R69, R428, R530, R540) -/
def Obligations.EveryCommandKeepsWhatIsNotItsOwn : Prop :=
  ∀ (c : Instr) (s t : State), exec c s = .next t → OnlyParts (touches c) s t

/-- No command faults or refuses, and every step answers a next state. For every command and every state exec answers a next state, and so does step,
whatever the queue holds. Discarded writes, accesses that the device does not answer and faults of the device are effects on the state, not ends of a
run. (R13, R548, R40, R36) -/
def Obligations.NoCommandStops : Prop :=
  (∀ (c : Instr) (s : State), ∃ t, exec c s = .next t) ∧ (∀ s : State, ∃ t, Machine.step s = .next t)

/-- The password changes only through SET_PWD, and the keys only through ENROL, REVOKE and CONFIRM, in a queue of any length. Take any queue in which no
command is SET_PWD, ENROL, REVOKE or CONFIRM, nor a general management transaction that could carry one of them (REGISTER_WRITE, MGMT_TRANSACTION,
SPI_REQUEST, MGMT_REQUEST_PACKET). Running it to its end, a step for each command, answers a state in which both copies of the safety password, all
key slots, the list of revoked keys and the minimum security version are as they were. (R428, R524, R530, R531, R532, R413) -/
def Obligations.TheGuardChangesOnlyThroughItsCommands : Prop :=
  ∀ s : State, (∀ c ∈ s.pending, ¬ changesGuard c) → ∃ t, after s.pending.length s = some t ∧ t.pending = [] ∧ t.guard = s.guard

/-- REGISTER_WRITE bit by bit: RW bits take the word, a 1 clears a W1C flag, every other bit stays; nothing else changes. For a register of the map that
has a writable bit, whose write has no effect beyond its own bits, that takes accesses and whose write no rule discards: REGISTER_WRITE answers the
state in which each RW bit of the register has the bit written, each W1C bit stands only if it stood and was written 0, and each other bit is as
before; the requester's transaction has completed with OK, an access to a firmware register by the owner of a session keeps the session, and nothing
else has changed. A MGMT_TRANSACTION with op WRITE at that address answers the same. (R12, R13, R491, R541, R548, R552) -/
def Obligations.RegisterWriteFollowsTheAccessCodes : Prop :=
  ∀ (q : Requester) (addr : BitVec 28) (data : Word) (ecc : Fin 3) (s : State) (row : RegRow),
    let a := addr.toNat / 4 * 4
    regRow a = some row → row.writable = true → ownEffect a row = false → s.writeOk q a data = true → s.takes a →
      ∃ v, exec (.registerWrite q addr data) s = .next (completeOk q (a + 1) (setReg a v (touchFw q a s))) ∧
        exec (.mgmtTransaction q (BitVec.ofNat 32 (a + 1)) data ecc) s = .next (completeOk q (a + 1) (setReg a v (touchFw q a s))) ∧
        ∀ n, n < 32 → v.getLsbD n =
          if row.rw.testBit n then data.getLsbD n
          else if row.w1c.testBit n then (s.reg a).getLsbD n && !data.getLsbD n
          else (s.reg a).getLsbD n

/-- Transactions that are not executed: status, data word 0, error counter, flag, and last-error registers, and nothing else changed. While the device
answers: a REGISTER_WRITE, or a MGMT_TRANSACTION that reads or writes, at an address that names no register ends with NO_TARGET (2); at a register of
a fenced region, or of SF after a handshake time-out of it, with FENCED (6), at one without power with OFF (5); a write with no writable bit, or that
a rule discards, with ACCESS (1); an address in no space with NO_TARGET (2); an address word with op 0b11 with BAD_OP (4), as BAD_OP does. Each counts
in the requester's MGMT_ERR, sets its flag of MGMT_FLAGS, leaves the address word, the status and the requester in MGMT_ERR_ADDR and MGMT_ERR_INFO,
gives the data word 0, and changes nothing else. An ECHO, which never fails, returns its data word with OK and touches nothing but its requester's
record. A device in reset changes nothing. The model's own choices and readings that it rests on stand in log entries 7 and 13. (R12, R13, R40, R542,
R548, R549, R550, R553) -/
def Obligations.FailedTransactionsAreReported : Prop :=
  ∀ (q : Requester) (addr : BitVec 28) (w data : Word) (ecc : Fin 3) (s : State),
    let a := addr.toNat / 4 * 4
    (s.answers = true → regRow a = none →
      (∃ t, exec (.registerWrite q addr data) s = .next t ∧ Reported q 2 (a + 1) s t) ∧
      (∃ t, exec (.mgmtTransaction q (BitVec.ofNat 32 a) data ecc) s = .next t ∧ Reported q 2 a s t)) ∧
    (s.answers = true → regRow a ≠ none → s.targetStatus a ≠ 0 →
      s.targetStatus a = (if s.fenced (a / 0x1000000 % 16) || (a / 0x1000000 % 16 = 2 && s.mgmt.sfSilent) then 6 else 5) ∧
      (∃ t, exec (.registerWrite q addr data) s = .next t ∧ Reported q (s.targetStatus a) (a + 1) (touchFw q a s) t) ∧
      (∃ t, exec (.mgmtTransaction q (BitVec.ofNat 32 a) data ecc) s = .next t ∧ Reported q (s.targetStatus a) a s t)) ∧
    (∀ row, regRow a = some row → s.takes a → (row.writable && s.writeOk q a data) = false →
      ∃ t, exec (.registerWrite q addr data) s = .next t ∧ Reported q 1 (a + 1) (touchFw q a s) t) ∧
    (s.answers = true → 4 ≤ w.toNat / 2 ^ 28 → w.toNat % 4 < 2 →
      ∃ t, exec (.mgmtTransaction q w data ecc) s = .next t ∧ Reported q 2 w.toNat s t) ∧
    (s.answers = true → w.toNat % 4 = 3 →
      (∃ t, exec (.mgmtTransaction q w data ecc) s = .next t ∧ Reported q 4 w.toNat s t) ∧
      (∃ t, exec (.badOp q w) s = .next t ∧ Reported q 4 w.toNat s t)) ∧
    (s.answers = true → exec (.echo q w data) s = .next (setReq q { s.req q with status := 0, data := data } s) ∧
      (w.toNat % 4 = 2 → exec (.mgmtTransaction q w data ecc) s = .next (setReq q { s.req q with status := 0, data := data } s))) ∧
    (s.answers = false → exec (.registerWrite q addr data) s = .next s ∧ exec (.mgmtTransaction q w data ecc) s = .next s ∧
      exec (.echo q w data) s = .next s ∧ exec (.badOp q w) s = .next s)

/-- A READ returns the register's word; reading a low word latches the high word; word 0 of a window latches the whole window. A MGMT_TRANSACTION that
reads a register outside the latched windows, the 64-bit values and REC_DATA, whose word w the spec states, answers OK with w and changes nothing but
the requester's record (an owner's access to a firmware register keeps the session). SPLIT_READ_LOW at the low word of a 64-bit value answers OK with
that word and keeps the high word of the same moment for this requester: a read of the high word as its next access returns the kept word, whatever
the register has become. WINDOW_LATCH_READ at word 0 of a latched window with content answers OK with that word and keeps all its words for this
requester, and a later read of word i returns the kept word. The model's own choices and readings that it rests on stand in log entries 7, 11 and 12.
(R12, R493, R494, R541, R548, R553) -/
def Obligations.ReadsReturnTheWordTheirRequesterSees : Prop :=
  ∀ (q : Requester) (addr : BitVec 28) (data w : Word) (ecc : Fin 3) (s : State),
    let a := addr.toNat / 4 * 4
    let u := touchFw q a s
    (regRow a ≠ none → s.takes a → (a < REC_DATA 0 ∨ REC_DATA 8 ≤ a) → u.windowAt q a = none → splitLow a = none → u.word q a = some w →
      exec (.mgmtTransaction q (BitVec.ofNat 32 a) data ecc) s = .next (setReq q { s.req q with status := 0, data := w, lastAccess := some a } u)) ∧
    (regRow a ≠ none → s.takes a → splitLow a = some a → s.windowAt q a = none → s.word q a = some w →
      ∃ t, exec (.splitReadLow q addr) s = .next t ∧ (t.req q).status = 0 ∧ (t.req q).data = w ∧
        (∀ v, s.word q (a + 4) = some v → (t.req q).shadow = v) ∧ t.regs = s.regs ∧ OnlyParts [.mgmt] s t ∧
        (∀ t2 : State, t2.req q = t.req q → t2.takes (a + 4) → regRow (a + 4) ≠ none → t2.windowAt q (a + 4) = none → splitLow (a + 4) = some a →
          ∃ t3, exec (.mgmtTransaction q (BitVec.ofNat 32 (a + 4)) data ecc) t2 = .next t3 ∧ (t3.req q).status = 0 ∧
            (t3.req q).data = (t.req q).shadow)) ∧
    (∀ key ws, regRow a ≠ none → s.takes a → (a < REC_DATA 0 ∨ REC_DATA 8 ≤ a) → u.windowAt q a = some (key, 0) → u.windowLive q key = w :: ws →
      ∃ t, exec (.windowLatchRead q addr) s = .next t ∧ (t.req q).status = 0 ∧ (t.req q).data = w ∧
        look (fun _ => []) (t.req q).windows key = w :: ws ∧ t.regs = s.regs ∧ OnlyParts [.mgmt, .fw] s t ∧
        (∀ (t2 : State) (i : Nat) (v : Word) (addr2 : BitVec 28), t2.req q = t.req q → addr2.toNat % 4 = 0 → regRow addr2.toNat ≠ none →
          t2.takes addr2.toNat → (addr2.toNat < REC_DATA 0 ∨ REC_DATA 8 ≤ addr2.toNat) →
          (touchFw q addr2.toNat t2).windowAt q addr2.toNat = some (key, i + 1) → (w :: ws)[i + 1]? = some v →
          ∃ t3, exec (.mgmtTransaction q (BitVec.ofNat 32 addr2.toNat) data ecc) t2 = .next t3 ∧ (t3.req q).status = 0 ∧ (t3.req q).data = v))

/-- REGISTER_WRITE of registers that stage, wait for a round or a boundary, or are their requester's own. Where the register takes accesses: REC_SEL,
REC_CURSOR and LOUPE_SEL change the writing requester's own copy; FW_ADDR takes the word written, at most 0x0040_0000; an HK register waits for the
next round; an RX register with RW bits of a block that shoots waits for a pixel boundary, and elsewhere, with no write still waiting for a boundary
withdrawn since, its RW bits take effect at once, stamped with TBASE, and a threshold enters its comparators with it; a converter register with RW
bits other than ADC_BANK waits for a pixel boundary of a shooting block, on a housekeeping converter for the next round, and otherwise for the
converter's next slot boundary, stamped with TBASE; a housekeeping converter's other registers wait for the round as well; the words of SF_PWD collect
the password that is to be tried. Each completes with OK, and nothing else changes. The model's own choices and readings that it rests on stand in log
entries 13 and 103. (R14, R88, R248, R256, R261, R264, R428, R467, R494, R502, R520) -/
def Obligations.WritesThatStageOrBelongToTheirRequester : Prop :=
  ∀ (q : Requester) (addr : BitVec 28) (data : Word) (s : State) (row : RegRow),
    let a := addr.toNat / 4 * 4
    let r := s.req q
    regRow a = some row → row.writable = true → s.writeOk q a data = true → s.takes a →
      (a = REC_SEL → exec (.registerWrite q addr data) s = .next (completeOk q (a + 1) (setReq q { r with recSel := data.toNat % 16 } s))) ∧
      (a = REC_CURSOR → exec (.registerWrite q addr data) s = .next (completeOk q (a + 1) (setReq q { r with recCursor := data } s))) ∧
      (a = LOUPE_SEL →
        exec (.registerWrite q addr data) s = .next (completeOk q (a + 1) (setReq q { r with loupeSel := data &&& BitVec.ofNat 32 row.rw } s))) ∧
      (a = FW_ADDR → exec (.registerWrite q addr data) s =
        .next (completeOk q (a + 1) (setReg a (BitVec.ofNat 32 (min 0x400000 (data &&& BitVec.ofNat 32 row.rw).toNat)) (touchFw q a s)))) ∧
      (a / 0x1000000 = 1 → adcOf a = none → exec (.registerWrite q addr data) s = .next (completeOk q (a + 1) (hkWrite a data s))) ∧
      (8 ≤ a / 0x1000000 → a / 0x1000000 < 14 → adcOf a = none → a / 0x10000 % 256 < 8 → row.rw ≠ 0 →
        (s.scheduled (rxOf a) = true → exec (.registerWrite q addr data) s =
          .next (completeOk q (a + 1) { s with rx := { s.rx with rtWrites := s.rx.rtWrites ++ [(a, data)] } })) ∧
        (s.scheduled (rxOf a) = false → (∀ w ∈ s.rx.rtWrites, rxOf w.1 ≠ rxOf a) → ∃ v, exec (.registerWrite q addr data) s =
          .next (completeOk q (a + 1) (let t := { setReg a v s with rx := { s.rx with stamps := put (fun _ => 0) s.rx.stamps a s.now } }
            let c := rxOf a * 16 + a / 0x100 % 256
            if a / 0x100 % 256 < 16 ∧ a = RX_CELL_THR c then applyThresholdNow c t else t)) ∧
          ∀ n, n < 32 → v.getLsbD n = if row.rw.testBit n then data.getLsbD n else (s.reg a).getLsbD n)) ∧
      (∀ k, adcOf a = some k → a ≠ ADC_CMD k → a ≠ ADC_BANK k → row.rw ≠ 0 →
        let w := data &&& BitVec.ofNat 32 row.rw
        (k < 48 → s.scheduled k = true → exec (.registerWrite q addr data) s =
          .next (completeOk q (a + 1) { s with rx := { s.rx with rtWrites := s.rx.rtWrites ++ [(a, w)] } })) ∧
        (52 ≤ k → exec (.registerWrite q addr data) s = .next (completeOk q (a + 1) (hkWrite a w s))) ∧
        (k < 48 ∧ s.scheduled k = false ∨ 48 ≤ k ∧ k < 52 → exec (.registerWrite q addr data) s = .next (completeOk q (a + 1)
          { setAdc k { s.adc k with due := (s.adc k).due ++ [(a, w)] } s with
            rx := { s.rx with stamps := put (fun _ => 0) s.rx.stamps a s.now } }))) ∧
      (∀ k, adcOf a = some k → 52 ≤ k → a ≠ ADC_CMD k → a ≠ ADC_BANK k → row.rw = 0 →
        exec (.registerWrite q addr data) s = .next (completeOk q (a + 1) (hkWrite a data s))) ∧
      (∀ i : Fin 4, a = SF_PWD i → ∃ t, exec (.registerWrite q addr data) s = .next t ∧ (t.req q).status = 0 ∧
        look (fun _ => 0) t.sf.pwdWords i = data ∧ (∀ j : Fin 4, j ≠ i → look (fun _ => 0) t.sf.pwdWords j = look (fun _ => 0) s.sf.pwdWords j) ∧
        t.regs = s.regs ∧ OnlyParts [.mgmt, .sf] s t)

/-- SPI frames: a request with a good CRC-8 runs as requester 0, one with a wrong CRC is counted and not run, an early end is flagged. SPI_FRAME_START
opens the port for a request while the device answers, and changes nothing else. In an open frame, SPI_REQUEST whose CRC byte is the CRC-8 of its
address word and data word, sent little-endian, has the effect of the same MGMT_TRANSACTION of requester 0 from the state with the port waiting to
respond: an ECHO answers its data word, an address space that does not exist UNMAPPED. Outside a frame it does nothing. With another CRC byte, while
the device answers, the request is not executed: status 3, data word 0, MGMT_SPI_CRC one higher (saturating), the crc flag set, and no part but the
registers and the management record changes. SPI_FRAME_END in an open frame closes it, sets MGMT_FLAGS.frame_abort where the end falls inside a
request or a response, and changes no register but that one and those of the recorder. The model's own choices and readings that it rests on stand in
log entry 18. (R550, R551, R552, R553, R555) -/
def Obligations.TheSpiPortRunsOneTransactionPerFrame : Prop :=
  ∀ (addr data : Word) (crc : Byte) (ecc : Fin 3) (inside : Bool) (s : State),
    (s.answers = true → exec .spiFrameStart s = .next (setSpi .request s)) ∧
    (s.mgmt.spi ≠ .idle → crc8 (wordBytes addr ++ wordBytes data) = crc.toNat →
      ∃ t, exec (.spiRequest addr data crc ecc) s = .next t ∧ exec (.mgmtTransaction 0 addr data ecc) (setSpi .response s) = .next t) ∧
    (s.mgmt.spi ≠ .idle → s.answers = true → crc8 (wordBytes addr ++ wordBytes data) = crc.toNat → addr.toNat % 4 = 2 →
      ∃ t, exec (.spiRequest addr data crc ecc) s = .next t ∧ (t.req 0).status = 0 ∧ (t.req 0).data = data ∧ t.mgmt.spi = .response ∧
        OnlyParts [.mgmt] s t) ∧
    (s.mgmt.spi ≠ .idle → s.answers = true → crc8 (wordBytes addr ++ wordBytes data) = crc.toNat → addr.toNat % 4 < 2 → 4 ≤ addr.toNat / 2 ^ 28 →
      ∃ t, exec (.spiRequest addr data crc ecc) s = .next t ∧ (t.req 0).status = 2 ∧ t.mgmt.spi = .response ∧ OnlyParts [.regs, .mgmt] s t) ∧
    (s.mgmt.spi = .idle → exec (.spiRequest addr data crc ecc) s = .next s) ∧
    (s.mgmt.spi ≠ .idle → s.answers = true → crc8 (wordBytes addr ++ wordBytes data) ≠ crc.toNat →
      ∃ t, exec (.spiRequest addr data crc ecc) s = .next t ∧ (t.req 0).status = 3 ∧ (t.req 0).data = 0 ∧ t.mgmt.spi = .response ∧
        t.rbit MGMT_FLAGS 2 = true ∧ (t.reg MGMT_SPI_CRC).toNat = min 0xFFFFFFFF ((s.reg MGMT_SPI_CRC).toNat + 1) ∧
        OnlyParts [.regs, .mgmt] s t ∧
        OnlyRegs [MGMT_SPI_CRC, MGMT_ERR 0, MGMT_FLAGS, MGMT_ERR_ADDR, MGMT_ERR_INFO, REC_LOST, REC_STATUS] s t) ∧
    (s.mgmt.spi ≠ .idle →
      ∃ t, exec (.spiFrameEnd inside) s = .next t ∧ t.mgmt.spi = .idle ∧
        t.reg MGMT_FLAGS = (if inside then setBit 8 (s.reg MGMT_FLAGS) else s.reg MGMT_FLAGS) ∧
        OnlyParts [.regs, .mgmt] s t ∧ OnlyRegs [MGMT_FLAGS, REC_LOST, REC_STATUS] s t)

/-- ALIGNMENT_WORD, REFCLK_LOSS, REFCLK_RETURN, FRAME_SYNC_EDGE and FRAME_LIMIT_EXPIRY. While TBASE runs: an alignment word that finds islands departing
sets skew_event with the region of the last, marks the pixels of each that are in progress since then TIME_SUSPECT, and with no departure changes
nothing. The loss of REFCLK_T sets refclk_lost and holdover, clears locked and takes the chip-level reaction; its return clears holdover and sets
locked, and TBASE is not stepped by either. A FRAME_SYNC edge is the frame boundary instant: the frame limit runs from it, the period is known from
the second edge on; where no swap falls due and the device does not shoot, FRAME_NUM is one greater modulo 2^32, FRAME_EDGE holds TBASE,
frame_sync_present reads 1, and every block's census is latched, saturating and with the epoch and fragment it was counted under, and begun anew. The
frame limit expiring clears frame_sync_present, sets frame_sync_lost, and a scheduler that places no sequence waits for a frame. The model's own
choices and readings that it rests on stand in log entries 44 and 45. (R24, R25, R26, R27, R36, R38, R165, R219) -/
def Obligations.TheTimebaseAlignsHoldsOverAndMarksFrames : Prop :=
  ∀ (departed : List (Fin 16 × BitVec 10)) (s : State), s.time.running = true →
    (departed.all (fun d => !isRegion d.1) = true → exec (.alignmentWord departed) s = .next s) ∧
    (∃ t, exec (.alignmentWord departed) s = .next t ∧
      (∀ (l : List (Fin 16 × BitVec 10)) (r : Fin 16) (ns : BitVec 10), departed = l ++ [(r, ns)] → isRegion r = true →
        t.rbit TIME_STATUS TIME_STATUS.skew_event.lo = true ∧ t.fget TIME_STATUS TIME_STATUS.skew_region = r) ∧
      (∀ (r : Fin 16) (ns : BitVec 10), (r, ns) ∈ departed → isRegion r = true → ∀ k : Fin 48, rxRegion k = r → ∀ p : Pixel, p.inProgress = true → s.now ≤ p.start + ns.toNat →
        ((s.blk k).bufX = some p → (t.blk k).bufX = some { p with flags := p.flags ||| pfTime }) ∧
        ((s.blk k).bufY = some p → (t.blk k).bufY = some { p with flags := p.flags ||| pfTime })) ∧
      OnlyRegs [TIME_STATUS, REC_LOST, REC_STATUS] s t ∧ OnlyParts [.regs, .mgmt, .rx] s t) ∧
    (s.fget TIME_STATUS TIME_STATUS.holdover = 0 → ∃ t, exec .refclkLoss s = .next t ∧ Reacted .refclk s t ∧
      t.rbit TIME_STATUS TIME_STATUS.refclk_lost.lo = true ∧ t.fget TIME_STATUS TIME_STATUS.holdover = 1 ∧
      t.fget TIME_STATUS TIME_STATUS.locked = 0 ∧ t.time.tbase = s.time.tbase ∧ OnlyParts [.mode, .regs, .time, .mgmt, .startup, .cal, .rx, .tx, .pairSt, .fw] s t) ∧
    (s.fget TIME_STATUS TIME_STATUS.holdover = 1 → ∃ t, exec .refclkReturn s = .next t ∧
      t.fget TIME_STATUS TIME_STATUS.holdover = 0 ∧ t.fget TIME_STATUS TIME_STATUS.locked = 1 ∧
      t.startup = { s.startup with chip := s.startup.chip.filter (· ≠ .refclk) } ∧
      OnlyRegs [TIME_STATUS] s t ∧ OnlyParts [.regs, .startup] s t) ∧
    (∃ t, exec .frameSyncEdge s = .next t ∧
      t.time.limitFrom = s.now ∧ t.time.period = (if s.time.edgeSeen then some (s.now - s.frameEdge) else s.time.period) ∧ t.time.edgeSeen = true ∧
      t.time.tbase = s.time.tbase ∧ t.time.running = true ∧
      (s.shooting = false → s.cut.swapAt ≠ some (.atFrame (s.reg FRAME_NUM + 1).toNat) → s.fw.backToRun = false →
        t.reg FRAME_NUM = s.reg FRAME_NUM + 1 ∧ t.frameEdge = s.now ∧ t.fget TIME_STATUS TIME_STATUS.frame_sync_present = 1 ∧
        (∀ k : Fin 48, t.reg (RX_CENSUS_FOREIGN k) = BitVec.ofNat 32 (min 0xFFFFFFFF (s.blk k).foreign) ∧
          t.reg (RX_CENSUS_NOISE k) = BitVec.ofNat 32 (min 0xFFFFFFFF (s.blk k).noise) ∧
          t.reg (RX_CENSUS_SLOTS k) = BitVec.ofNat 32 (min 0xFFFFFFFF (s.blk k).windows) ∧ (t.blk k).censusId = s.planeId (tgtRx k) ∧
          (t.blk k).foreign = 0 ∧ (t.blk k).noise = 0 ∧ (t.blk k).windows = 0))) ∧
    (s.time.limitFrom + s.frameLimit ≤ s.now → ∃ t, exec .frameLimitExpiry s = .next t ∧
      t.fget TIME_STATUS TIME_STATUS.frame_sync_present = 0 ∧ t.rbit TIME_STATUS TIME_STATUS.frame_sync_lost.lo = true ∧
      t.time = { s.time with limitFrom := s.time.limitFrom + s.frameLimit } ∧
      (s.shooting = true → s.placing = false → t.fget TX_SCHED_STATUS TX_SCHED_STATUS.frame_wait = 1) ∧
      OnlyRegs [TIME_STATUS, TX_SCHED_STATUS, REC_LOST, REC_STATUS] s t ∧ OnlyParts [.regs, .mgmt, .time] s t)

/-- Time-outs and clock faults fence, CF and crossbar faults react at the chip, a late reaction passes to the next level, fences lift in CONFIGURED. A
handshake time-out, and a fault of an island clock monitor, fence the region named, where it can be fenced and is not: its bit of REGION_FENCE sets
and no other, its summary words stay as they stood; SF has no fence: a time-out of it is kept, and the transaction that it did not acknowledge
completes with FENCED; for HK, SC, TX and LK the chip-level reaction is taken. A crossbar fault and an uncorrectable error in CF take the chip-level
reaction. A reaction of a cell that is late isolates its block, one of a block fences its region, one of a region takes the chip-level reaction.
Writing 1s to REGION_FENCE in CONFIGURED completes with OK, lifts the named fences and no others, ends their chip-level causes, and the regions come
up; a region whose domains are good then reports ready, an RX region with its gate map reloaded. The model's own choices and readings that it rests on
stand in log entries 36, 38 and 76. (R34, R36, R37, R40, R41, R138, R191, R489, R540, R573, R617) -/
def Obligations.FaultsAreContainedFencedAndLifted : Prop :=
  ∀ (q : Requester) (r : Fin 16) (b : Fin 8) (c : Fin 16) (regions : BitVec 16) (s : State),
    let fencing := fun t : State => t.fenced r = true ∧ (∀ j, j ≠ r.val → t.fenced j = s.fenced j) ∧
      (∀ a ∈ summaryAddrs r, look (fun _ => 0) t.mgmt.frozen a = BitVec.ofNat 32 (s.sumLive a)) ∧
      (r = 1 ∨ r = 3 ∨ r = 4 ∨ r = 5 → Reacted (.fence r) s t) ∧ (r = 6 ∨ 8 ≤ r → t.mode = s.mode ∧ t.startup = s.startup)
    (fenceable r = true → s.fenced r = false →
      (∃ t, exec (.handshakeTimeout r) s = .next t ∧ fencing t) ∧ (∃ t, exec (.islandClockMonitorFault r) s = .next t ∧ fencing t) ∧
      (∃ t, exec (.faultEscalation r (some b) none) s = .next t ∧ fencing t)) ∧
    (r = 2 → exec (.handshakeTimeout r) s = .next { s with mgmt := { s.mgmt with sfSilent := true } }) ∧
    (∃ t, exec .crossbarFault s = .next t ∧ Reacted .crossbar s t) ∧
    (∃ t, exec .cfUncorrectableError s = .next t ∧ Reacted .cfError s t) ∧
    (fenceable r = true → s.isolated r b = false → r = 1 ∨ r = 6 ∨ 8 ≤ r → exec (.faultEscalation r (some b) (some c)) s =
      .next { s with startup := { s.startup with isolated := s.startup.isolated ++ [r.val * 256 + b.val] } }) ∧
    (fenceable r = true → ∃ t, exec (.faultEscalation r (some b) (some c)) s = .next t ∧ t.isolated r b = true ∧ t.mode = s.mode) ∧
    (fenceable r = true → ∃ t, exec (.faultEscalation r none none) s = .next t ∧ t.fenced r = true ∧ Reacted (.fence r) s t) ∧
    (s.answers = true → s.mode = .configured →
      ∃ t, exec (.regionFenceLift q regions) s = .next t ∧ (t.req q).status = 0 ∧
        (∀ j, j < 14 → t.fenced j = (s.fenced j && !regions.getLsbD j)) ∧
        (∀ j, j < 14 → s.fenced j = true → regions.getLsbD j = true → j ∈ t.startup.notReady ∧ .fence j ∉ t.startup.chip) ∧
        OnlyRegs ([REGION_FENCE] ++ (List.range 3).flatMap (fun w => [PWR_DOM_ON w, PWR_DOM_GOOD w, PWR_DOM_FAULT w])) s t) ∧
    (r.val ∈ s.startup.notReady → (∀ d ∈ regionDomains r, s.domOn d = true → s.domGood d = true) →
      ∃ t, exec (.regionReady r) s = .next t ∧ t.startup.notReady = s.startup.notReady.filter (· ≠ r.val) ∧
        (8 ≤ r.val → t.rx.gates = (reloadGates (tableOf s.cut.live 0x00FFFF00 0x0303) (r.val - 8) s).rx.gates))

/-- SWAP_APPLY, CHANGE_AT_INSTANT and SWAP_DONE: the plane changes at I, each island follows at its own boundary, then the shadow plane is EMPTY. When the
TBASE instant I of a scheduled swap has come, none is in progress and the epoch is below its maximum, the staged plane (or the ROM service image's
plane, where that is ordered) is live, the old plane is kept for the islands and blocks that have yet to follow, and the stamps start at I; in
run-time LIVE_EPOCH is one greater, LIVE_DIGEST holds the digest of the shadow plane, CUT_STATUS reads SWAPPING and live_present, and the mode stays,
or gives way to CONFIGURED where the unit stands down from ARMED or RUN; the first swap of start-up enters CONFIGURED. An island, block or sequence
that waits and has no boundary to come takes the new plane at I, which enters the first and last stamps. Once none waits, CUT_SWAP_FIRST and
CUT_SWAP_LAST hold the stamps, swap_done sets, the old plane is gone, and the shadow plane is EMPTY and unowned. The model's own choices and readings
that it rests on stand in log entries 41, 42, 118 and 120. (R28, R29, R31, R65, R69, R70, R71, R72, R564) -/
def Obligations.ASwapComesSpreadsAndEnds : Prop :=
  ∀ (target : Fin 256) (i : Nat) (s : State),
    let c := s.cut
    (c.swapAt = some (.atTime i) → i ≤ s.now → c.inSwap = false → s.reg LIVE_EPOCH ≠ 0xFFFFFFFF →
      ∃ t, exec .swapApply s = .next t ∧ t.cut.live = (if c.romNext then some romPlane else c.staged) ∧ t.cut.old = c.live ∧ t.cut.inSwap = true ∧
        t.cut.swapAt = none ∧ t.cut.swapI = i ∧ t.cut.oldEpoch = s.reg LIVE_EPOCH ∧
        ((∀ q : Fin 64, (s.seq q).early = none) → t.cut.firstStamp = i ∧ t.cut.lastStamp = i ∧ t.cut.waiting = swapTargets c.live t.cut.live s) ∧
        t.cut.shadow = c.shadow ∧
        (c.romNext = false → s.startup.boot = false → s.mode ≠ .loader → (t.mode = s.mode ∨ t.mode = .configured) ∧
          t.reg LIVE_EPOCH = s.reg LIVE_EPOCH + 1 ∧ (∀ j : Fin 8, t.reg (LIVE_DIGEST j) = s.reg (SHADOW_DIGEST j)) ∧
          t.fget CUT_STATUS CUT_STATUS.shadow_state = 6 ∧ t.fget CUT_STATUS CUT_STATUS.live_present = 1) ∧
        (c.romNext = false → s.mode = .loader → t.mode = .configured) ∧ (c.romNext = true → t.mode = .service) ∧
        (c.romNext = false → s.mode = .service → s.startup.boot = true → t.mode = .configured)) ∧
    (c.waiting.contains target.val = true → c.swapI ≤ s.now →
      (target = tgtTx → ∀ q : Fin 64, s.seqScheduled q = false) → (target = tgtHk → s.hkRuns = false) → (target = tgtSc → s.loopsIdle = true ∨ s.scRuns = false) →
      (target = tgtAq → s.earliest = none ∨ s.aqOn = false) →
      (∀ b : Fin 4, target = tgtLk b → ∀ l : Fin 8, (s.lane (b * 8 + l)).queue = []) →
      (∀ k : Fin 48, target = tgtRx k → s.scheduled k = false) → (∀ q : Fin 64, target = tgtSeq q → s.seqScheduled q = false) →
      (target = tgtTx ∨ target = tgtHk ∨ target = tgtSc ∨ target = tgtAq ∨ (∃ b : Fin 4, target = tgtLk b) ∨ (∃ k : Fin 48, target = tgtRx k) ∨
        ∃ q : Fin 64, target = tgtSeq q) →
      ∃ t, exec (.changeAtInstant target) s = .next t ∧ t.cut.waiting = c.waiting.filter (· ≠ target.val) ∧
        t.cut.firstStamp = min c.firstStamp c.swapI ∧ t.cut.lastStamp = max c.lastStamp c.swapI ∧ t.cut.live = c.live ∧ t.mode = s.mode) ∧
    (c.inSwap = true → c.waiting = [] → s.fw.romPending = false →
      ∃ t, exec .swapDone s = .next t ∧ t.cut.inSwap = false ∧ t.cut.old = none ∧ t.cut.live = c.live ∧
        t.reg64 CUT_SWAP_FIRST_LO = c.firstStamp % 2 ^ 64 ∧ t.reg64 CUT_SWAP_LAST_LO = c.lastStamp % 2 ^ 64 ∧
        t.rbit CUT_STATUS CUT_STATUS.swap_done.lo = true ∧
        (s.shadowState = 6 → t.shadowState = 0 ∧ t.cut.shadow = [] ∧ t.cut.staged = none ∧
          t.fget CUT_STATUS CUT_STATUS.owner = 0 ∧ ∀ j : Fin 8, t.reg (SHADOW_DIGEST j) = 0) ∧
        (s.shadowState ≠ 6 → t.shadowState = s.shadowState ∧ t.cut.shadow = c.shadow) ∧ OnlyParts [.regs, .cut, .mgmt, .shadow] s t)

/-- CUT_WINDOW_WRITE, LOAD_SLOT, VALIDATE, SCHEDULE, CANCEL, DISCARD and CUT_BAD_COMMAND. While the device answers: a window write by the owner, or to an
EMPTY plane, outside VALIDATING, SCHEDULED and SWAPPING is stored at its word, leaves the plane WRITING and makes the first requester owner; one by
another requester ends with BUSY, one in those states with ACCESS. LOAD_SLOT starts the copy of its slot, VALIDATE the check (presence noted, nothing
staged, SHADOW_DIGEST 0), SCHEDULE sets the swap of a VALID plane, at the frame of CUT_SWAP_FRAME or 10 µs ahead, CANCEL returns a SCHEDULED plane to
VALID while its frame is at least two ahead, DISCARD empties the plane. A command of a requester that is not the owner is refused with BUSY, an
unknown one with BAD_COMMAND, every other with the code of its cause, and a refused command changes nothing but cmd_refused and CUT_ERROR. Every such
write completes with OK. The model's own choices and readings that it rests on stand in log entries 23, 24 and 25. (R67, R68, R71, R73, R522, R547,
R548, R616) -/
def Obligations.TheShadowPlaneIsWrittenCommandedAndOwned : Prop :=
  ∀ (q : Requester) (off : BitVec 19) (data : Word) (slot : BitVec 2) (cmd : BitVec 4) (s : State), s.answers = true →
    let st := s.shadowState
    let refused := fun code : Nat => completeOk q (CUT_CTRL + 1)
      (flag CUT_STATUS CUT_STATUS.cmd_refused (fsets CUT_ERROR [(CUT_ERROR.code, code), (CUT_ERROR.frame, 0xFFFF)] s))
    let f := (s.reg CUT_SWAP_FRAME).toNat
    (s.ownsShadow q = true → st ≠ 2 → st ≠ 5 → st ≠ 6 → ∃ t, exec (.cutWindowWrite q off data) s = .next t ∧ (t.req q).status = 0 ∧
      t.shadowWord off.toNat = data ∧ (∀ i, i ≠ off.toNat → t.shadowWord i = s.shadowWord i) ∧ t.shadowState = 1 ∧
      (st = 0 → t.fget CUT_STATUS CUT_STATUS.owner = ownerCode q ∧ t.fget CUT_STATUS CUT_STATUS.owner_lane = ownerLane q) ∧
      (st ≠ 3 → OnlyRegs [CUT_STATUS] s t ∧ OnlyParts [.regs, .cut, .mgmt, .shadow] s t)) ∧
    (s.ownsShadow q = false → ∃ t, exec (.cutWindowWrite q off data) s = .next t ∧ Reported q 7 (0x30000000 + 4 * off.toNat + 1) s t) ∧
    (s.ownsShadow q = true → st = 2 ∨ st = 5 ∨ st = 6 →
      ∃ t, exec (.cutWindowWrite q off data) s = .next t ∧ Reported q 1 (0x30000000 + 4 * off.toNat + 1) s t) ∧
    (s.ownsShadow q = true →
      (s.pausing = false → st = 0 ∨ st = 1 ∨ st = 3 ∨ st = 4 → ∃ t, exec (.loadSlot q slot) s = .next t ∧ (t.req q).status = 0 ∧
        t.cut.copying = some slot.toNat ∧ t.shadowState = 1 ∧ t.cut.shadow = s.cut.shadow) ∧
      (s.pausing = true ∨ st = 2 → exec (.loadSlot q slot) s = .next (refused 0x24)) ∧
      (st = 1 ∨ st = 3 ∨ st = 4 → ∃ t, exec (.validate q) s = .next t ∧ (t.req q).status = 0 ∧ t.shadowState = 2 ∧
        t.cut = { s.cut with presenceAtValidate := s.presence, staged := none, stagedKeys := [], copying := none } ∧
        (∀ i : Fin 8, t.reg (SHADOW_DIGEST i) = 0) ∧ OnlyRegs ([CUT_STATUS] ++ (List.range 8).map SHADOW_DIGEST) s t ∧ OnlyParts [.regs, .cut, .mgmt] s t) ∧
      (st = 0 → exec (.validate q) s = .next (refused 0x22)) ∧ (st = 2 → exec (.validate q) s = .next (refused 0x24)) ∧
      (st = 3 → s.mode ≠ .service → s.cut.swapAt = none → s.cut.inSwap = false → s.reg LIVE_EPOCH ≠ 0xFFFFFFFF →
        (f = 0 → s.mode = .loader ∨ s.mode = .configured → ∃ t, exec (.schedule q) s = .next t ∧ (t.req q).status = 0 ∧ t.shadowState = 5 ∧
          t.cut = { s.cut with swapAt := some (.atTime (s.now + 10000)), order := s.time.accepted } ∧
          OnlyRegs [CUT_STATUS] s t ∧ OnlyParts [.regs, .cut, .mgmt, .time] s t) ∧
        (s.frameNum < f → ∃ t, exec (.schedule q) s = .next t ∧ (t.req q).status = 0 ∧ t.shadowState = 5 ∧
          t.cut = { s.cut with swapAt := some (.atFrame f), order := s.time.accepted } ∧
          OnlyRegs [CUT_STATUS] s t ∧ OnlyParts [.regs, .cut, .mgmt, .time] s t)) ∧
      (st = 3 → s.mode = .service → exec (.schedule q) s = .next (refused 0x23)) ∧
      (st = 0 ∨ st = 1 ∨ st = 2 ∨ st = 4 → exec (.schedule q) s = .next (refused 0x22)) ∧
      (st = 5 → s.frameNum + 2 ≤ f → ∃ t, exec (.cancel q) s = .next t ∧ (t.req q).status = 0 ∧ t.shadowState = 3 ∧
        t.cut = { s.cut with swapAt := none } ∧ OnlyRegs [CUT_STATUS] s t ∧ OnlyParts [.regs, .cut, .mgmt] s t) ∧
      (st = 6 ∨ (st = 5 ∧ f < s.frameNum + 2) → exec (.cancel q) s = .next (refused 0x21) ∧ exec (.discard q) s = .next (refused 0x21)) ∧
      ((st = 5 ∧ s.frameNum + 2 ≤ f) ∨ st = 1 ∨ st = 2 ∨ st = 3 ∨ st = 4 → ∃ t, exec (.discard q) s = .next t ∧ (t.req q).status = 0 ∧
        t.shadowState = 0 ∧ t.cut.shadow = [] ∧ t.cut.staged = none ∧ t.cut.copying = none ∧ t.fget CUT_STATUS CUT_STATUS.owner = 0 ∧
        (st = 5 → t.cut.swapAt = none) ∧ t.cut.live = s.cut.live)) ∧
    (s.ownsShadow q = false → exec (.loadSlot q slot) s = .next (refused 0x24) ∧ exec (.validate q) s = .next (refused 0x24) ∧
      exec (.schedule q) s = .next (refused 0x24) ∧ exec (.cancel q) s = .next (refused 0x24) ∧ exec (.discard q) s = .next (refused 0x24)) ∧
    (cmd = 0 ∨ 5 < cmd.toNat → exec (.cutBadCommand q cmd) s = .next (refused 0x25))

/-- LOAD_SLOT_COPY_DONE, VALIDATION_COMPLETE and LIVE_REDIGEST. When the copy of a slot ends, the shadow plane holds the words of the slot up to the
length it names, the whole 2 MiB where that is more or the header cannot be read (which a free value decides, and which sets flash_error), and zeros
beyond, CUT_SHADOW_LEN says how many bytes, and the check begins with SHADOW_DIGEST 0. When the check ends with no failure, the prospective plane is
staged with its digest in SHADOW_DIGEST, validated sets, and the plane is VALID, or, for the loader's own boot Cut, SCHEDULED 10 µs ahead; with a
failure CUT_ERROR holds the code and frame of the first one, validate_failed sets, nothing is staged, and the plane is INVALID, or, for the loader's
own boot Cut, EMPTY with the code in MODE_STATUS and phase WAIT_CUT. The live plane never changes. Every check of the live plane that finds its digest
changed sets digest_fault and takes the chip-level reaction; one that does not changes nothing but the upset it finds. The model's own choices and
readings that it rests on stand in log entries 20, 21, 26 and 27. (R36, R59, R60, R64, R537, R565, R573, R616) -/
def Obligations.ValidationEndsAndTheLiveDigestIsWatched : Prop :=
  ∀ (s : State) (upset : Option (Nat × Word)),
    let c := s.cut
    let own := s.startup.boot && s.ownsShadow 1
    let stored : Option (Nat × Word) → Sparse Word := fun u => match u with
      | some (i, m) => put (fun _ => 0) c.upsets i (look (fun _ => 0) c.upsets i ^^^ m)
      | none => c.upsets
    (∀ k, c.copying = some k → s.shadowState = 1 → ∃ t, exec .loadSlotCopyDone s = .next t ∧ t.shadowState = 2 ∧
      (524288 < (s.slotWord k 7).toNat → s.slotLen k = 524288) ∧ ((s.slotWord k 7).toNat ≤ 524288 → s.headerLost = false → s.slotLen k = (s.slotWord k 7).toNat) ∧
      t.reg CUT_SHADOW_LEN = BitVec.ofNat 32 (s.slotLen k * 4) ∧
      (∀ i, t.shadowWord i = if i < s.slotLen k then s.slotWord k i else 0) ∧ (∀ j : Fin 8, t.reg (SHADOW_DIGEST j) = 0) ∧ t.cut.copying = none ∧
      t.cut.staged = none ∧ (s.headerLost = true → t.rbit FW_FLAGS FW_FLAGS.flash_error.lo = true) ∧
      (s.headerLost = false → t.reg FW_FLAGS = s.reg FW_FLAGS ∧ t.mgmt = s.mgmt) ∧
      OnlyRegs ([CUT_STATUS, CUT_SHADOW_LEN, FW_FLAGS, REC_LOST, REC_STATUS] ++ (List.range 8).map SHADOW_DIGEST) s t ∧
      OnlyParts [.regs, .cut, .mgmt, .shadow, .fresh] s t) ∧
    (s.shadowState = 2 → s.verdict.1 = 0 → ∃ t, exec .validationComplete s = .next t ∧ t.cut.staged = some s.prospective ∧
      (∀ (j : Fin 8) w, (sha256 (canonWords s.prospective))[j.val]? = some w → t.reg (SHADOW_DIGEST j) = w) ∧
      t.rbit CUT_STATUS CUT_STATUS.validated.lo = true ∧ t.shadowState = (if own then 5 else 3) ∧
      (own = true → t.cut.swapAt = some (.atTime (s.now + 10000))) ∧ (own = false → t.cut.swapAt = c.swapAt) ∧
      t.cut.live = c.live ∧ t.cut.shadow = c.shadow ∧ t.mode = s.mode) ∧
    (s.shadowState = 2 → s.verdict.1 ≠ 0 → s.verdict.1 < 256 → s.verdict.2 < 65536 → ∃ t, exec .validationComplete s = .next t ∧
      t.fget CUT_ERROR CUT_ERROR.code = s.verdict.1 ∧ t.fget CUT_ERROR CUT_ERROR.frame = s.verdict.2 ∧
      t.rbit CUT_STATUS CUT_STATUS.validate_failed.lo = true ∧ t.cut.staged = none ∧ t.cut.live = c.live ∧ t.mode = s.mode ∧
      (own = false → t.shadowState = 4 ∧ t.cut.shadow = c.shadow) ∧
      (own = true → t.shadowState = 0 ∧ t.cut.shadow = [] ∧ t.fget MODE_STATUS MODE_STATUS.phase = 7 ∧ t.startup.boot = false ∧
        t.fget MODE_STATUS MODE_STATUS.boot_cut_code = s.verdict.1)) ∧
    (∀ p, c.live = some p →
      let u : State := { s with cut := { c with upsets := stored upset } }
      (sha256 (u.storedLive p) = s.regsFrom (LIVE_DIGEST 0) 8 → exec (.liveRedigest upset) s = .next u) ∧
      (sha256 (u.storedLive p) ≠ s.regsFrom (LIVE_DIGEST 0) 8 → ∃ t, exec (.liveRedigest upset) s = .next t ∧ Reacted .digest s t ∧
        t.rbit CUT_STATUS CUT_STATUS.digest_fault.lo = true ∧ t.cut = u.cut))

/-- BLANK_N_FALL, BLANK_N_RISE, BLANK_INTERVAL_START, BLANK_INTERVAL_END and BLANK_STUCK. A fall of BLANK_N after a high of 10 ns or more is captured, and
opens an interval in every block that obeys it; after a shorter high the low before it goes on in every block, also for the slots posted in between. A
rise within 10 ns of its fall withdraws the interval everywhere, and a later one ends it everywhere. At the beginning and end of an external interval
blank_active of the block says whether one holds, and an interval that has ended is forgotten once no slot placed before its end or while it was not
known to end, no reading sampled in it, and no check window that holds it, is still to be judged. A low of more than 2^m ms sets blank_stuck of each
block that obeys BLANK_N, and changes nothing else. The model's own choices and readings that it rests on stand in log entries 46 and 47. (R90, R91,
R109) -/
def Obligations.BlankingIsCapturedAndApplied : Prop :=
  ∀ (i : BitVec 64) (k : Fin 48) (f r : Nat) (s : State),
    let b := s.blk k
    let pl := s.planeOf (tgtRx k)
    let rest := b.blanks.filter (fun e => match e.2 with
      | none => true
      | some y =>
        let z := y + blankD pl k + blankT pl k
        decide (s.now < z + 2000) || b.checkFrom.any (fun t => decide (t < z))
          || (b.posts ++ b.slots).any (fun sl => decide (sl.tn ≤ z) || sl.known.any (fun o => o.1 = e.1)))
    (s.rx.blankLow = none → (∀ f r, s.rx.blankLast = some (f, r) → r + 10 ≤ i.toNat) →
      ∃ t, exec (.blankNFall i) s = .next t ∧ t.rx.blankLow = some i.toNat ∧ OnlyParts [.rx] s t ∧
        (t.blk k).blanks = (if s.obeysBlank k then b.blanks ++ [(i.toNat, none)] else b.blanks)) ∧
    (s.rx.blankLow = none → s.rx.blankLast = some (f, r) → i.toNat < r + 10 →
      ∃ t, exec (.blankNFall i) s = .next t ∧ t.rx.blankLow = some f ∧ t.rx.blankLast = none ∧ OnlyParts [.rx] s t ∧
        (t.blk k).blanks = b.blanks.map (fun e => if e = (f, some r) then (f, none) else e) ∧
        (t.blk k).slots = b.slots.map (fun sl => { sl with known := sl.known.map (fun e => if e = (f, some r) then (f, none) else e) })) ∧
    (s.rx.blankLow = some f → i.toNat < f + 10 →
      ∃ t, exec (.blankNRise i) s = .next t ∧ t.rx.blankLow = none ∧ OnlyParts [.rx] s t ∧ (t.blk k).blanks = b.blanks.filter (fun e => e ≠ (f, none))) ∧
    (s.rx.blankLow = some f → f + 10 ≤ i.toNat →
      ∃ t, exec (.blankNRise i) s = .next t ∧ t.rx.blankLow = none ∧ t.rx.blankLast = some (f, i.toNat) ∧ OnlyParts [.rx] s t ∧
        (t.blk k).blanks = b.blanks.map (fun e => if e = (f, none) then (f, some i.toNat) else e)) ∧
    (s.blanking k s.now = true → exec (.blankIntervalStart k) s = .next (fset (RX_BLK_STATUS k) RX_BLK_STATUS.blank_active 1 s)) ∧
    (∃ t, exec (.blankIntervalEnd k) s = .next t ∧ t.blk k = { b with blanks := rest } ∧
      t.fget (RX_BLK_STATUS k) RX_BLK_STATUS.blank_active = (if t.blanking k s.now then 1 else 0) ∧
      OnlyRegs [RX_BLK_STATUS k] s t ∧ OnlyParts [.regs, .rx] s t) ∧
    (s.rx.blankLow = some f → s.obeysBlank k = true →
      f + 2 ^ (cutF pl (RX_BLK_EXTBLANK k) RX_BLK_EXTBLANK.blank_max) * 1000000 < s.now →
      exec (.blankStuck k) s = .next (flag (RX_BLK_STATUS k) RX_BLK_STATUS.blank_stuck s))

/-- CHECK_WINDOW_END, CHECK_SLOT_INSERT, CELL_REARM and CHECK_NOW. 1.25 ms after its beginning on a block whose check runs, and with 16 µs of silence, the
end of a window puts the measured capacitance and its class into RX_CELL_TONE of the cell checked: below cap_open the cell is masked and its open flag
sets, above cap_short it is masked and its short flag sets, between them the check passes, which leaves a cell in service as it is; the next window
begins. When 1.0 ms of a window has passed with less than 16 µs of silence while the device shoots, the scheduler is asked for as many check slots of
the bound sequence in the window's last 0.25 ms as are needed for 16 µs, and again in each 0.25 ms by which the window is longer. A rearm of a masked
cell is noted and queues an out-of-turn window, as check_now does for a cell that the round checks; both writes complete with OK. The model's own
choices and readings that it rests on stand in log entry 48. (R95, R96, R97, R98, R100, R108) -/
def Obligations.ConnectionChecksClassifyTheirCell : Prop :=
  ∀ (q : Requester) (k : Fin 48) (cap : BitVec 12) (cell : Fin 768) (s : State),
    let b := s.blk k
    let c := k.val * 16 + s.checkedCell k
    let pl := s.planeOf (tgtRx k)
    let lo := cutF pl (RX_BLK_TONE k) RX_BLK_TONE.cap_open
    let hi := cutF pl (RX_BLK_TONE k) RX_BLK_TONE.cap_short
    let v := cap.toNat
    let B := cell.val / 16
    let turns := (s.blk B).outOfTurn
    let asked := if turns.contains (cell.val % 16) then turns else insertNat (cell.val % 16) turns
    let queued : RxBlk := { s.blk B with outOfTurn := asked }
    (s.windowOver k = true → ∃ t, exec (.checkWindowEnd k cap) s = .next t ∧ t.fget (RX_CELL_TONE c) RX_CELL_TONE.cap = v ∧
      t.fget (RX_CELL_TONE c) RX_CELL_TONE.result = (if v < lo then 2 else if v ≤ hi then 1 else 3) ∧
      (v < lo → t.masked c = true ∧ t.rbit (RX_CELL_FLAGS c) RX_CELL_FLAGS.open_.lo = true) ∧
      (hi < v → lo ≤ v → t.masked c = true ∧ t.rbit (RX_CELL_FLAGS c) RX_CELL_FLAGS.short.lo = true) ∧
      (lo ≤ v → v ≤ hi → s.fget (RX_CELL_STATUS c) RX_CELL_STATUS.state ≠ 1 → (s.cell c).rearmAsked = false →
        t.reg (RX_CELL_STATUS c) = s.reg (RX_CELL_STATUS c) ∧ t.reg (RX_CELL_FLAGS c) = s.reg (RX_CELL_FLAGS c)) ∧
      (t.blk k).checkFrom = some s.now ∧ (t.blk k).busy = b.busy.filter (fun r => decide (s.now < r.2)) ∧ OnlyParts [.regs, .mgmt, .rx, .tx] s t ∧
      OnlyRegs [RX_CELL_TONE c, RX_CELL_STATUS c, RX_CELL_FLAGS c, REC_LOST, REC_STATUS] s t) ∧
    (∀ w t0, s.checkRuns k = true → b.checkFrom = some t0 → t0 + 1000000 ≤ s.now → s.silentTime k t0 < 16000 → s.shooting = true →
      binding (shotTable pl) k = some w → (∀ e ∈ s.tx.checks, e.channel = c → e.stop ≤ s.now) →
      let p := max 1 (seqPeriod (shotTable pl) w)
      let from_ := t0 + 1000000 + (s.now - (t0 + 1000000)) / 250000 * 250000
      exec (.checkSlotInsert k) s = .next { s with tx := { s.tx with checks := s.tx.checks.filter (fun e => e.channel ≠ c) ++
        [{ channel := c, need := (16000 - s.silentTime k t0 + p - 1) / p, start := from_, stop := from_ + 250000 }] } }) ∧
    (s.takes (RX_CELL_CMD cell) → s.masked cell = true → ∃ t, exec (.cellRearm q cell) s = .next t ∧ (t.req q).status = 0 ∧
      t.cell cell = { s.cell cell with rearmAsked := true } ∧ t.blk B = queued ∧ t.regs = s.regs ∧ OnlyParts [.mgmt, .rx] s t) ∧
    (s.takes (RX_CELL_CMD cell) → checkable (s.planeOf (tgtRx B)) B (cell.val % 16) = true → ∃ t, exec (.checkNow q cell) s = .next t ∧
      (t.req q).status = 0 ∧ t.blk B = queued ∧ t.regs = s.regs ∧ OnlyParts [.mgmt, .rx] s t)

/-- DISCRIMINATOR_EDGE, DEAD_TIME_END, START_POST, START_INSTANT, EDGE_ATTRIBUTE and TOT_LIMIT_EXPIRY. An edge 3,072 units or more after the last captured
one is captured, opens a dead time, and enters the stop queue where it holds fewer than 16, the cell is neither masked nor suppressed, and no new gain
settles; an earlier one is lost, counted once in its dead time. A level that differs at the end of the dead time, the front end still on, makes a
restored edge; a level that agrees changes nothing. The oldest posted slot joins the block's slots with what an obeying block knows of BLANK_N. At its
instant a slot opens its window in each listening cell, none for a dead fire, and in no cell of another block. An edge with no window goes to AQ
unattributed; a rising edge in the window of a shot that nothing blanks is held with its stop index, and the falling edge that follows within the ToT
limit sends the pulse on with its tot, as the two words of R126. The limit sends it on open, with tot 1FFFH. The model's own choices and readings that
it rests on stand in log entries 50, 51 and 53. (R81, R90, R113, R114, R119, R121, R122, R125, R126, R127, R337) -/
def Obligations.EdgesBecomePulses : Prop :=
  ∀ (cell : Fin 768) (block : Fin 48) (taps : BitVec 128) (copyA copyB : BitVec 64) (rising high ovl dark : Bool) (s : State),
    let x := s.cell cell
    let p := phaseCode taps
    let e : Edge := { ns := coarseOf p copyA.toNat copyB.toNat, phase := p, rising := rising, high := high, ovl := ovl, dead := false }
    let arrives : Instr := .discriminatorEdge cell taps copyA copyB rising high ovl false
    let b := s.blk block
    (s.frontEndOn cell = true → (s.blk (cell / 16)).fgRunning = false →
      (∀ t pol, x.lastEdge = some (t, pol) → t ≤ e.units → t + 3072 ≤ e.units) →
      ∃ t, exec arrives s = .next t ∧ (∀ j, j ≠ cell.val → t.cell j = s.cell j) ∧
        t.cell cell = { x with lastEdge := some (e.units, rising), lostInDead := false, queue :=
          (if s.masked cell || s.suppressed cell e.units || s.gainSettles cell e.units || decide (16 ≤ x.queue.length) then x.queue else x.queue ++ [e]) }) ∧
    (∀ t pol, s.frontEndOn cell = true → (s.blk (cell / 16)).fgRunning = false → x.lastEdge = some (t, pol) → t ≤ e.units → e.units < t + 3072 →
      exec arrives s = .next (if x.lostInDead then s else gdCount cell 2 (setCell cell { x with lostInDead := true } s))) ∧
    (∀ u pol level, x.lastEdge = some (u, pol) → u + 3072 < s.now * 2048 + 2048 →
      (level = pol → exec (.deadTimeEnd cell level high ovl) s = .next s) ∧
      (level ≠ pol → s.frontEndOn cell = true → ∃ t, exec (.deadTimeEnd cell level high ovl) s = .next t ∧ (∀ j, j ≠ cell.val → t.cell j = s.cell j) ∧
        t.cell cell = { x with lastEdge := some (u + 3072, level), lostInDead := false, queue :=
          (if s.masked cell || s.suppressed cell (u + 3072) || s.gainSettles cell (u + 3072) || decide (16 ≤ x.queue.length) then x.queue
          else x.queue ++ [{ ns := (u + 3072) / 2048, phase := (u + 3072) % 2048 / 16, rising := level, high := high, ovl := ovl, dead := true }]) })) ∧
    (∀ sl rest, b.posts = sl :: rest →
      exec (.startPost block) s = .next (setBlk block { b with posts := rest, slots := b.slots ++ [{ sl with
        known := if s.obeysBlank block then b.blanks else [] }] } s)) ∧
    (∀ sl, b.nextStart = some sl → sl.instant ≤ s.now → s.fenced (rxRegion block) = false →
      ∃ t, exec (.startInstant block dark) s = .next t ∧ (∀ j, j / 16 ≠ block.val → t.cell j = s.cell j) ∧
        (∀ i, i < 16 →
          let pl := s.planeOf (tgtRx block)
          let c := block.val * 16 + i
          (checkable pl block i = false → t.cell c = s.cell c) ∧
          (checkable pl block i = true → sl.kind = .listen → (t.cell c).wins.head? = some { view := b.view sl.frame sl.m c, n := sl.n, m := sl.m, k := sl.k, frame := sl.frame, kind := .listen, start := sl.units, used := 0, closed := none, first := none, judged := false }) ∧
          (∀ f, checkable pl block i = true → sl.kind = .fire → startFire pl c sl.fires = some f →
            (f.dead = true → t.cell c = s.cell c) ∧
            (f.dead = false → (t.cell c).wins.head? = some { view := b.view sl.frame sl.m c, n := sl.n, m := sl.m, k := sl.k, frame := sl.frame, kind := (if f.suppressed then .check else .fire), start := f.units, used := 0, closed := none, first := none, judged := false })))) ∧
    (∀ d rest, x.queue = d :: rest → x.wins = [] →
      exec (.edgeAttribute cell) s = .next (deliverAq cell d 0xFFFF 3 6 (setCell cell { x with queue := rest } s))) ∧
    (∀ d rest w j, x.queue = d :: rest → x.wins = [w] → d.rising = true → w.kind = .fire → inWin d w = true → s.winBlanked cell w = false →
      w.used = 2 * j → j < 4 →
      ∃ t, exec (.edgeAttribute cell) s = .next t ∧ (t.cell cell).queue = rest ∧ (t.cell cell).wins.map Win.used = [2 * j + 1] ∧
        (t.cell cell).held = x.held ++ [{ view := w.view, m := w.m, k := w.k, frame := w.frame, kind := .fire, start := w.start, j := j, rise := d, prev := false, openSent := false }] ∧
        t.rx.toAq = (deliverAq cell d w.number 0 (2 * j) s).rx.toAq ∧
        ∀ c, c ≠ cell.val → t.cell c = s.cell c) ∧
    (∀ d rest w h, x.queue = d :: rest → x.wins = [w] → x.held = [h] → h.of w = true → h.kind = .fire → h.openSent = false → d.rising = false →
      w.kind = .fire → s.winBlanked cell w = false → d.units ≤ h.rise.units + h.view.totLimit →
      ∃ t, ∃ pu : Pulse, exec (.edgeAttribute cell) s = .next t ∧ (t.cell cell).queue = rest ∧ (t.cell cell).held = [] ∧
        (t.cell cell).out = x.out ++ [pu.word h.frame h.m d.units] ∧
        pu.shot = h.k ∧ pu.pulse = h.j ∧ pu.tot = totOf h.view h.rise d ∧ pu.totOpen = false ∧
        (pu.interval, pu.near) = intervalOf h.view h.rise h.start pu.tot ∧ (t.cell cell).wins.map Win.used = [2 * h.j + 2]) ∧
    (∀ h, x.held = [h] → h.openSent = false → h.kind = .fire →
      h.rise.units + h.view.totLimit ≤ s.now * 2048 →
      ∃ t, ∃ pu : Pulse, exec (.totLimitExpiry cell) s = .next t ∧ (t.cell cell).held = [{ h with openSent := true }] ∧
        (t.cell cell).out = x.out ++ [pu.word h.frame h.m (h.rise.units + h.view.totLimit)] ∧
        pu.shot = h.k ∧ pu.pulse = h.j ∧ pu.tot = 0x1FFF ∧ pu.totOpen = true ∧
        (pu.interval, pu.near) = intervalOf h.view h.rise h.start 0x1FFF ∧ t.regs = (if pu.near then gdCount cell 0 s else s).regs) ∧
    (∀ (pu : Pulse) (f m d : Nat), pu.interval < 2 ^ 27 → pu.shot < 2048 → pu.pulse < 4 → pu.tot < 8192 →
      let bit : Bool → Nat := fun y => if y then 1 else 0
      (pu.word f m d).w0 = BitVec.ofNat 32 (pu.interval + bit pu.odd * 2 ^ 27) ∧
      (pu.word f m d).w1 = BitVec.ofNat 32 (pu.shot + pu.pulse * 2 ^ 11 + pu.tot * 2 ^ 13 + bit pu.high * 2 ^ 26 + bit pu.ovl * 2 ^ 27
        + bit pu.near * 2 ^ 28 + bit pu.prev * 2 ^ 29 + bit pu.totOpen * 2 ^ 30 + bit pu.dead * 2 ^ 31))

/-- PIXEL_BOUNDARY, PULSE_PLACE, SHOT_WINDOW_CLOSE, PIXEL_CLOSE, CELL_EXTRACT and HIST_WINDOW_READ. An announced boundary whose instant has come opens its
pixel in the buffer that did not open last, where the block takes part. A pulse of an open pixel adds 1 to the count and its fine position to the fine
sum of its bin, and changes no other bin; one outside the window is counted only; one whose pixel is gone or closed is counted late. At the end of its
window a shot is judged for the cell: it counts unless it was blanked, crossed, settling or dark, and the pulses of one that does not are taken back.
A pixel closes at its close instant, not before. A read slot extracts its cell, not before its time. The histogram window answers the bin's word
outside RUN and SERVICE, and changes nothing but the requester's record; a corrected bin sets ecc_corrected, and one that cannot be corrected answers
ECC, sets ecc_fatal and masks its cell. The model's own choices and readings that it rests on stand in log entries 49, 52, 53, 54, 55, 57, 58, 59, 61
and 121. (R21, R89, R155, R182, R183, R184, R187, R188, R189, R220, R545) -/
def Obligations.PixelsOpenFillCloseAndAreRead : Prop :=
  ∀ (block : Fin 48) (cell : Fin 768) (rx : Fin 6) (lane : Fin 8) (c16 : Fin 16) (bin8 : BitVec 8) (inY : Bool) (q : Requester) (s : State),
    let b := s.blk block
    let x := s.cell cell
    let k := cell.val / 16
    let i := cell.val % 16
    let at_ := (rx.val * 8 + lane.val) * 16 + c16.val
    (∀ o rest, b.opens = o :: rest → s.shooting = true → o.start ≤ s.now →
      exec (.pixelBoundary block) s = .next (openBoundary block o (setBlk block { b with opens := rest } s)) ∧
      (s.cut.waiting = [] → s.rx.rtWrites = [] → s.takesPart block = true → b.fgWait = none → b.fgBack = false →
        ∃ t, exec (.pixelBoundary block) s = .next t ∧ ∃ p, (if b.nextBuffer then (t.blk block).bufY else (t.blk block).bufX) = some p ∧
          p.frame = o.frame ∧ p.m = o.m ∧ p.start = o.start ∧ p.shots = o.shots ∧ p.index = o.index ∧ p.closedAt = none ∧ p.read = 0)) ∧
    (∀ o rest, b.opens = o :: rest → s.now < o.start → exec (.pixelBoundary block) s = .next s) ∧
    (∀ pu rest, x.out = pu :: rest → s.nextPulse cell = cell.val →
      ((s.blk k).pixel pu.frame pu.m = none ∨ (∃ p, (s.blk k).pixel pu.frame pu.m = some p ∧ p.closedAt.isSome = true) →
        exec (.pulsePlace cell false false) s = .next (gdCount cell 7 (setCell cell { x with out := rest } s))) ∧
      (∀ p, (s.blk k).pixel pu.frame pu.m = some p → p.closedAt = none → stageList p.plane (rxRegion k) ≠ [] →
        rxPairing p.plane cell = 0 → (s.blk k).uncounted pu.frame pu.m pu.shot i = false →
        let w := p.win cell
        let d := pu.interval - 256 * w.o
        let bin := d / 2 ^ (8 + w.kEff)
        (256 * w.o ≤ pu.interval → bin < 256 → 256 * w.o + bin * 2 ^ (8 + w.kEff) < w.reach * 256 →
          binCount (look (fun _ => 0) (p.cell i).bins bin) < 2046 → binFine (look (fun _ => 0) (p.cell i).bins bin) + finePos w.kEff (d % 2 ^ (8 + w.kEff)) < 2 ^ 21 →
          ∃ t p', exec (.pulsePlace cell false false) s = .next t ∧ (t.cell cell).out = rest ∧ (t.blk k).pixel pu.frame pu.m = some p' ∧
            binCount (look (fun _ => 0) (p'.cell i).bins bin) = binCount (look (fun _ => 0) (p.cell i).bins bin) + 1 ∧
            binFine (look (fun _ => 0) (p'.cell i).bins bin) = binFine (look (fun _ => 0) (p.cell i).bins bin) + finePos w.kEff (d % 2 ^ (8 + w.kEff)) ∧
            (∀ j, j ≠ bin → look (fun _ => 0) (p'.cell i).bins j = look (fun _ => 0) (p.cell i).bins j) ∧
            (∀ j, j ≠ i → p'.cell j = p.cell j) ∧ t.regs = s.regs) ∧
        (pu.interval < 256 * w.o ∨ 256 ≤ bin →
          exec (.pulsePlace cell false false) s = .next (bumpOvf (HS_CELL_CNT cell) HS_CELL_CNT.out_window_count 1 (HS_CELL_FLAGS cell)
            HS_CELL_FLAGS.out_window_ovf.lo (setCell cell { x with out := rest } s))))) ∧
    (∀ w p sl, x.wins = [w] → w.judged = false → w.kind = .fire → (s.blk k).pixel w.frame w.m = some p → w.start + w.view.hi ≤ s.now * 2048 →
      (s.blk k).slots = [sl] → sl.own = true → sl.frame = w.frame → sl.m = w.m → sl.k = w.k → sl.judged.testBit i = false →
      ∃ t sl', exec (.shotWindowClose cell) s = .next t ∧ (t.cell cell).wins = [{ w with judged := true, notes := [] }] ∧ (t.blk k).slots = [sl'] ∧
        sl'.judged = sl.judged + 2 ^ i ∧
        sl'.counted = sl.counted + (if s.winBlanked cell w || sl.dark || decide (w.start + w.view.lo < x.settleUntil * 2048) then 0 else 2 ^ i) ∧
        (s.winBlanked cell w = true → (t.cell cell).out = x.out.filter (fun u => !(u.frame = w.frame && u.m = w.m && u.shot = w.k)))) ∧
    (∀ p y, b.oldest = some (p, y) → b.pixel p.frame p.m = some p → p.cutAt = none →
      (s.now * 2048 < (closeAt block b p).2 → exec (.pixelClose block) s = .next s) ∧
      ((closeAt block b p).2 ≤ s.now * 2048 → (closeAt block b p).1 = (closeAt block b p).2 →
        ∃ t p', exec (.pixelClose block) s = .next t ∧ (t.blk block).pixel p.frame p.m = some p' ∧
          p'.closedAt = some (((closeAt block b p).2 + 2047) / 2048) ∧ p'.flags = p.flags ∧
          t.fget (HS_BLK_STATUS block) HS_BLK_STATUS.last_buffer = (if y then 1 else 0))) ∧
    (∀ p, (s.blk k).reading = some p → p.read = i →
      (s.now < p.closedAt.getD 0 + 128 * i → exec (.cellExtract cell false 0) s = .next s) ∧
      (p.closedAt.getD 0 + 128 * i ≤ s.now → s.fenced (rxRegion k) = false → i ≠ 15 → rxPairing p.plane cell = 0 → reporting p.plane k i = true →
        s.mode ≠ .off → s.mode ≠ .loader →
        let s1 := setBlk k ((s.blk k).mapPixel p.frame p.m (fun v => { v with read := i + 1 })) s
        ∀ v, (s1.blk k).pixel p.frame p.m = some v → exec (.cellExtract cell false 0) s = .next (extract s1 k i v s1))) ∧
    (s.answers = true → s.fenced (8 + rx) = false → s.domGood (rx.val * 8 + lane) = true → s.mode ≠ .run → s.mode ≠ .service →
      exec (.histWindowRead q rx lane c16 inY bin8 0) s = .next (setReq q { s.req q with status := 0, data := (s.blk (rx.val * 8 + lane)).binWord (rx.val * 8 + lane) c16 inY bin8.toNat, lastAccess := some (histAddr rx lane c16 bin8.toNat inY / 4 * 4) } s) ∧
      (∃ t, exec (.histWindowRead q rx lane c16 inY bin8 1) s = .next t ∧ t.rbit (HS_CELL_FLAGS at_) HS_CELL_FLAGS.ecc_corrected.lo = true) ∧
      (∃ t, exec (.histWindowRead q rx lane c16 inY bin8 2) s = .next t ∧ t.rbit (HS_CELL_FLAGS at_) HS_CELL_FLAGS.ecc_fatal.lo = true ∧
          t.masked at_ = true ∧ (t.req q).status = 8))

/-- GATE_UPDATE, GATE_READ, GATE_STAGE, GATE_COMMIT, GATE_DISCARD and GATE_BAD_COMMAND. The evidence of a tile gives the update of its entry for the next
frame by the tracking law, and is used up; a ready update waits for that frame, or takes effect at once within it; one not ready, or of an older
frame, is discarded, flagged late_update and counted; a PINNED entry, one without evidence, and one that a committed host value replaced at that
boundary get none. READ shows the entry at RX_GATE_IDX. STAGE adds or replaces the value of RX_GATE_DATA in the list of at most 64 entries, and
changes no other entry of it; a full list refuses and sets stage_full. COMMIT marks the list pending for a frame yet to come; a late one is refused
and sets late_instant. DISCARD empties the list, or cancels a commit at least two frames away and keeps the list. While a commit is pending STAGE and
COMMIT are refused. Another command value is refused. The model's own choices and readings that it rests on stand in log entry 60. (R193, R194, R195,
R200, R68) -/
def Obligations.GatesTrackAndAreStaged : Prop :=
  ∀ (q : Requester) (rx : Fin 6) (entry : BitVec 17) (cell : Fin 128) (v : BitVec 3) (s : State),
    let cmd := RX_GATE_CMD rx
    let st := RX_GATE_STATUS rx
    let refuse := flag st RX_GATE_STATUS.refused
    let i := entry.toNat
    let k := rx.val * 8 + cell.val / 16
    let t0 := classTable (s.planeOf (tgtRx k)) (8 + rx)
    let ev := s.evidence rx i
    let law := gateLaw t0 (classOf t0 (cell / 16) ((i - gateBase t0 (cell / 16) (cell % 16)) * 64)) ev (s.gate rx i)
    let idx := (s.reg (RX_GATE_IDX rx)).toNat % 131072
    let f := (s.reg (RX_GATE_FRAME rx)).toNat
    let due := look (fun _ => 0) s.rx.commits rx
    let host := look (fun _ => 0) s.rx.hostGates (rx.val * 131072 + i) = (ev.frame + 1) % 2 ^ 32 + 1
    ((getF Gate.state (s.gate rx i) = 3 ∨ (s.evidence rx i).nPix = 0) → exec (.gateUpdate rx entry cell true) s = .next (setEvidence rx i {} s)) ∧
    (∀ w ready, law = some w → host → exec (.gateUpdate rx entry cell ready) s = .next (setEvidence rx i {} s)) ∧
    (∀ w, law = some w → ¬ host → s.frameNum = ev.frame →
      ∃ t, exec (.gateUpdate rx entry cell true) s = .next t ∧ t.evidence rx i = {} ∧ t.regs = s.regs ∧ t.rx.gates = s.rx.gates ∧
      look (fun _ => (0, 0)) t.rx.updates (rx.val * 131072 + i) = ((ev.frame + 1) % 2 ^ 32, w) ∧
      ∀ j, j ≠ rx.val * 131072 + i → look (fun _ => (0, 0)) t.rx.updates j = look (fun _ => (0, 0)) s.rx.updates j) ∧
    (∀ w, law = some w → ¬ host → s.frameNum = (ev.frame + 1) % 2 ^ 32 →
      ∃ t, exec (.gateUpdate rx entry cell true) s = .next t ∧ t.evidence rx i = {} ∧ t.regs = s.regs ∧ t.rx.updates = s.rx.updates ∧ t.gate rx i = w) ∧
    (∀ (w : Word) (ready : Bool), law = some w → ¬ host → ready = false ∨ (s.frameNum ≠ ev.frame ∧ s.frameNum ≠ (ev.frame + 1) % 2 ^ 32) →
      exec (.gateUpdate rx entry cell ready) s = .next (bumpOvf (HS_BLK_CNT k) HS_BLK_CNT.late_update_count 1 (HS_BLK_STATUS k)
      HS_BLK_STATUS.cnt_ovf.lo (flag (HS_BLK_STATUS k) HS_BLK_STATUS.late_update (setEvidence rx i {} s)))) ∧
    (s.takes cmd →
      (exec (.gateRead q rx) s = .next (completeOk q (cmd + 1) (setReg (RX_GATE_DATA rx) (s.gate rx idx) s))) ∧
      (s.committing rx = true → exec (.gateStage q rx) s = .next (completeOk q (cmd + 1) (refuse s)) ∧
        exec (.gateCommit q rx) s = .next (completeOk q (cmd + 1) (refuse s)) ∧
        (s.frameNum + 2 ≤ due → ∃ t, exec (.gateDiscard q rx) s = .next t ∧ (t.req q).status = 0 ∧ t.committing rx = false ∧ t.staging rx = s.staging rx ∧
          look (fun _ => 0) t.rx.commits rx = 0 ∧ OnlyRegs [st] s t) ∧
        (due < s.frameNum + 2 → exec (.gateDiscard q rx) s = .next (completeOk q (cmd + 1) (refuse s)))) ∧
      (s.committing rx = false →
        ((s.staging rx).length < 64 → (∀ a b, (a, b) ∈ s.staging rx → a ≠ idx) →
          exec (.gateStage q rx) s = .next (completeOk q (cmd + 1) (setStaging rx (s.staging rx ++ [(idx, s.reg (RX_GATE_DATA rx))]) s))) ∧
        (∀ l1 l2 w, s.staging rx = l1 ++ (idx, w) :: l2 → (∀ a b, (a, b) ∈ l1 → a ≠ idx) →
          exec (.gateStage q rx) s = .next (completeOk q (cmd + 1) (setStaging rx (l1 ++ (idx, s.reg (RX_GATE_DATA rx)) :: l2) s))) ∧
        (64 ≤ (s.staging rx).length → (∀ a b, (a, b) ∈ s.staging rx → a ≠ idx) →
          exec (.gateStage q rx) s = .next (completeOk q (cmd + 1) (refuse (flag st RX_GATE_STATUS.stage_full s)))) ∧
        (s.frameNum < f → ∃ t, exec (.gateCommit q rx) s = .next t ∧ (t.req q).status = 0 ∧ t.committing rx = true ∧
          look (fun _ => 0) t.rx.commits rx = f ∧ t.staging rx = s.staging rx ∧ OnlyRegs [st] s t) ∧
        (f ≤ s.frameNum → exec (.gateCommit q rx) s = .next (completeOk q (cmd + 1) (flag TIME_STATUS TIME_STATUS.late_instant (refuse s)))) ∧
        (exec (.gateDiscard q rx) s = .next (completeOk q (cmd + 1) (setStaging rx [] s)))) ∧
      (v.toNat = 0 ∨ 5 ≤ v.toNat → exec (.gateBadCommand q rx v) s = .next (completeOk q (cmd + 1) (refuse s))))

/-- MARKER_EDGE, SKEW_REFRESH, GD_CLEAR_COUNTS and GIRDLE_LOCK_LOSS. Where its block runs, a marker enters the last 256; once 256 have been seen, one that
departs by more than 64 units from the skew sets marker_jump and marks the pixel in progress TIME_SUSPECT, and does not enter the mean. A refresh
makes the skew the mean of the held markers, at once where no boundary is scheduled, else at the next one. GD_CELL_CMD clears the eight counters of
its cell and of no other, at once or at that boundary. A girdle loop that loses lock fences its region and forgets the markers of its blocks, and the
blocks of other regions keep theirs. The model's own choices and readings that it rests on stand in log entry 56. (R117, R118, R137, R138, R14) -/
def Obligations.MarkersCentreTheSkewAndCountersClear : Prop :=
  ∀ (q : Requester) (block : Fin 48) (cell : Fin 768) (rx : Fin 6) (d : Int) (s : State),
    let b := s.blk block
    let skew := sext 16 (s.fget (GD_BLK_SKEW block) GD_BLK_SKEW.skew)
    (s.girdleOn block = true → (b.markersSeen < 256 ∨ (d - skew).natAbs ≤ 64) →
      exec (.markerEdge block d) s = .next (setBlk block { b with
        markers := (d :: b.markers).take 256, markersSeen := min 256 (b.markersSeen + 1), markerBad := false } s)) ∧
    (s.girdleOn block = true → 256 ≤ b.markersSeen → 64 < (d - skew).natAbs →
      ∃ t, exec (.markerEdge block d) s = .next t ∧ t.rbit (GD_BLK_STATUS block) GD_BLK_STATUS.marker_jump.lo = true ∧
        (t.blk block).markerBad = true ∧ (t.blk block).markers = b.markers ∧ (∀ j, j ≠ block.val → t.blk j = s.blk j) ∧
        (∀ p, b.bufX = some p → (t.blk block).bufX = some (if p.inProgress then { p with flags := p.flags ||| 8 } else p)) ∧
        (∀ p, b.bufY = some p → (t.blk block).bufY = some (if p.inProgress then { p with flags := p.flags ||| 8 } else p))) ∧
    (b.markers ≠ [] →
      let mean := divRoundI (b.markers.foldl (· + ·) 0) b.markers.length
      exec (.skewRefresh block) s = .next (if s.scheduled block then setBlk block { b with skewNext := some mean } s
        else fset (GD_BLK_SKEW block) GD_BLK_SKEW.skew (toBits 16 mean) s)) ∧
    (s.takes (GD_CELL_CMD cell) → s.scheduled (cell / 16) = false →
      ∃ t, exec (.gdClearCounts q cell) s = .next t ∧ (t.req q).status = 0 ∧ (∀ n, n < 4 → t.reg (GD_CELL_CNT0 cell + 4 * n) = 0) ∧
        OnlyRegs [GD_CELL_CNT0 cell, GD_CELL_CNT0 cell + 4, GD_CELL_CNT0 cell + 8, GD_CELL_CNT0 cell + 12] s t ∧ OnlyParts [.regs, .mgmt] s t) ∧
    (s.takes (GD_CELL_CMD cell) → s.scheduled (cell / 16) = true →
      exec (.gdClearCounts q cell) s = .next (completeOk q (GD_CELL_CMD cell + 1) (setCell cell { s.cell cell with clearNext := true } s))) ∧
    (∃ t, exec (.girdleLockLoss rx) s = .next t ∧ t.fenced (8 + rx) = true ∧
      ∀ j, j < 48 → ((t.blk j).markersSeen = (if j / 8 = rx.val then 0 else (s.blk j).markersSeen)) ∧
        (j / 8 = rx.val → (t.blk j).markers = [] ∧ t.fget (GD_BLK_STATUS j) GD_BLK_STATUS.ring_locked = 0))

/-- CAPTURE_EDGE_ARRIVAL, EVENT_RELEASE, GAP_MARKER, POST_TIME_EXPIRY and SEGMENT_OPEN. A delivered edge joins its region's FIFO of 64 behind those the
merger has not taken; a full FIFO loses it, counted in AQ_LOST and for the region, with ingress_loss, unless it lies in the gap between a close and
the next start. Where FIFO space returns, a GAP marker with the count and the time of the first lost edge takes its place, and the region's count
starts again. The earliest item is released 256 ns after its time, not before, and an event of a segment that is recording goes to the two words of
its next slot and to no other word. post_time after its trigger, when nothing earlier waits, a segment closes COMPLETE. A re-armed engine opens its
next segment at the present instant, empty and RECORDING. The model's own choices and readings that it rests on stand in log entries 78 and 79. (R335,
R336, R339, R340, R343, R344) -/
def Obligations.CaptureQueuesReleasesAndStores : Prop :=
  ∀ (rx : Fin 6) (taken : Nat) (s : State),
    let l := (s.fifo rx).drop taken
    let merged := ((s.fifo rx).take taken).foldl (fun m v => insertItem v m) s.aq.merger
    let lost := look (fun _ => (0, 0)) s.aq.lost rx
    (∀ e rest, look (fun _ => []) s.rx.toAq rx = e :: rest → s.aqOn = true →
      ∃ t, exec (.captureEdgeArrival rx taken) s = .next t ∧ look (fun _ => []) t.rx.toAq rx = rest ∧ t.aq.merger = merged ∧
        (∀ j, j ≠ rx.val → t.fifo j = s.fifo j) ∧
        (l.length < 64 → t.fifo rx = l ++ [e] ∧ t.regs = s.regs ∧ t.aq.lost = s.aq.lost) ∧
        (64 ≤ l.length → s.inGap e = true → t.fifo rx = l ∧ t.regs = s.regs ∧ t.aq.lost = s.aq.lost) ∧
        (64 ≤ l.length → s.inGap e = false → t.fifo rx = l ∧ t.rbit AQ_FLAGS AQ_FLAGS.ingress_loss.lo = true ∧
          t.fget AQ_LOST whole = satAdd 0xFFFFFFFF (s.fget AQ_LOST whole) 1 ∧
          look (fun _ => (0, 0)) t.aq.lost rx = (satAdd 0xFFFFFFFF lost.1 1, if lost.1 = 0 then e.tLsb else lost.2))) ∧
    (s.aq.seg.isSome = true → lost.1 ≠ 0 → l.length < 48 →
      ∃ t, exec (.gapMarker rx taken) s = .next t ∧ look (fun _ => (0, 0)) t.aq.lost rx = (0, 0) ∧ t.fifo rx = l ∧
        t.aq.merger = insertItem { tLsb := lost.2, shot := min lost.1 0xFFFF, attr := 0, stop := rx, pol := false, channel := 0x3FD } merged) ∧
    (∀ e, s.earliest = some e → (s.now * 128 < e.tLsb + 32768 → exec .eventRelease s = .next s) ∧
      (e.tLsb + 32768 ≤ s.now * 128 → s.aqOn = true → 768 ≤ e.channel → exec .eventRelease s = .next (storeItem e (takeItem e s))) ∧
      (∀ g, e.tLsb + 32768 ≤ s.now * 128 → s.aqOn = true → e.channel < 768 → e.pol = false → s.cut.waiting = [] →
        s.rbit (AQ_TRIG (e.channel / 32)) (e.channel % 32) = false → (∀ v ∈ s.aq.merger, v.channel < 768) → s.aq.seg = some g → g.trigSlot = none →
        g.start * 128 ≤ e.tLsb → (e.tLsb - g.start * 128) / 2 ^ 32 ≤ g.span → g.stored < g.slots →
        let base := g.seg * (g.slots + 8) * 2 + 16 + 2 * g.next
        let w := e.words ((e.tLsb - g.start * 128) % 2 ^ 32)
        ∃ t, exec .eventRelease s = .next t ∧ t.aq.seg =
            some { g with stored := g.stored + 1, next := (g.next + 1) % g.slots, swapSlot := if g.swapSlot = some g.next then none else g.swapSlot } ∧
          look (fun _ => 0) t.aq.mem base = w.1 ∧ look (fun _ => 0) t.aq.mem (base + 1) = w.2 ∧ t.regs = s.regs ∧
          ∀ o, o ≠ base → o ≠ base + 1 → look (fun _ => 0) t.aq.mem o = look (fun _ => 0) s.aq.mem o)) ∧
    (∀ g z, s.aq.seg = some g → g.trig = some z → (s.reg AQ_POST_TIME).toNat ≠ 0 → s.aq.merger = [] → s.aq.fifos = [] →
      exec .postTimeExpiry s = .next (if z + (s.reg AQ_POST_TIME).toNat + 256 ≤ s.now then closeSegment 3 s else s)) ∧
    (∀ g, s.aq.seg = some g → s.fget AQ_CFG AQ_CFG.stream = 0 → s.fget AQ_CFG AQ_CFG.seq_mode = 0 →
      (closeSegment 3 s).aq.seg = none ∧ (closeSegment 3 s).aqState = 4 ∧
      (closeSegment 3 s).fget AQ_STATUS AQ_STATUS.closed = satAdd 4096 (s.fget AQ_STATUS AQ_STATUS.closed) 1 ∧
      ∀ i w, (g.header 3 (s.reg LIVE_EPOCH) (s.reg (LIVE_DIGEST 0)))[i]? = some w →
        look (fun _ => 0) (closeSegment 3 s).aq.mem (g.seg * (g.slots + 8) * 2 + i) = w) ∧
    (s.aqOn = true → s.aqState = 3 → s.transmitting s.aq.nextSeg = false →
      ∃ t, exec .segmentOpen s = .next t ∧ t.aqState = 1 ∧ t.fget AQ_STATUS AQ_STATUS.segment = s.aq.nextSeg % 2 ^ AQ_STATUS.segment.width ∧
        t.aq.seg = some { seg := s.aq.nextSeg, start := s.now, slots := s.segSlots - 8, frameStart := s.frameNum, epochStart := s.reg LIVE_EPOCH, fragStart := s.reg (LIVE_DIGEST 0) } ∧
        OnlyRegs [AQ_STATUS] s t)

/-- CAPTURE_ARM, CAPTURE_ABORT, FORCE, CLEAR_CNT, AQ_BAD_COMMAND, EXT_TRIG_EDGE, the XLINE commands and CAPTURE_WINDOW_READ. ARM in IDLE, DONE or STOPPED
sets every header to EMPTY, clears closed and AQ_LOST, and opens segment 0; elsewhere it is refused. ABORT closes the open segment ABORTED. FORCE, an
active EXT_TRIG edge and a fall of XLINE by another party trigger the recording segment with their code and instant: cause, fired, state POST and the
marker; with no segment open they are counted as ignored, and a segment that closed in the tick of its trigger takes a further source of that tick;
disabled ones and pulses shorter than 10 ns do nothing. CLEAR_CNT clears AQ_LOST and AQ_CNT. XLINE is released when its time is over, and a low beyond
the limit sets xline_stuck. The capture window answers the word of a segment that is not open, and ACCESS for the open one. The model's own choices
and readings that it rests on stand in log entry 77. (R343, R345, R346, R347, R348, R349, R360, R546) -/
def Obligations.CaptureCommandsAndTriggers : Prop :=
  ∀ (q : Requester) (i : BitVec 64) (rising : Bool) (lasts high low : Nat) (v : BitVec 3) (off : BitVec 22) (s : State),
    let ok := completeOk q (AQ_CTRL + 1)
    let fires := fun (code z : Nat) (g : Segment) (t : State) =>
      t.aq.seg = some { g with trig := some z, tick := s.now / 2, cause := 2 ^ code, fired := code, frameTrig := s.frameAt z, triggered := true } ∧
      t.aqState = 2 ∧ t.rbit AQ_FLAGS AQ_FLAGS.triggered.lo = true ∧
      t.aq.merger = insertItem { tLsb := z * 128, shot := 2 ^ code, attr := 0, stop := code, pol := false, channel := 0x3FE } s.aq.merger
    let seen : State := { s with aq := { s.aq with extAt := some i.toNat } }
    let ignored := bumpOvf AQ_CNT AQ_CNT.trig_ignored 1 AQ_FLAGS AQ_FLAGS.cnt_ovf.lo
    (s.takes AQ_CTRL →
      ((s.aqState = 0 ∨ s.aqState = 4 ∨ s.aqState = 5) → s.transmitting 0 = false →
        ∃ t, exec (.captureArm q) s = .next t ∧ (t.req q).status = 0 ∧ t.aqState = 1 ∧ t.fget AQ_STATUS AQ_STATUS.closed = 0 ∧ t.reg AQ_LOST = 0 ∧
          (∃ g, t.aq.seg = some g ∧ g.seg = 0 ∧ g.start = s.now ∧ g.stored = 0 ∧ g.slots = s.segSlots - 8) ∧ OnlyRegs [AQ_STATUS, AQ_LOST] s t ∧
          ∀ n, n < s.segCount → look (fun _ => 0) t.aq.mem (n * s.segSlots * 2) = BitVec.ofNat 32 n) ∧
      ((s.aqState = 1 ∨ s.aqState = 2 ∨ s.aqState = 3) → exec (.captureArm q) s = .next (ok (flag AQ_FLAGS AQ_FLAGS.cmd_refused s))) ∧
      (∀ g, s.aq.seg = some g → exec (.captureAbort q) s = .next (ok (closeSegment 6 s)) ∧
        (s.fget AQ_CFG AQ_CFG.stream = 0 → (closeSegment 6 s).aq.seg = none ∧ (closeSegment 6 s).aqState = 5 ∧
          (closeSegment 6 s).rbit AQ_FLAGS AQ_FLAGS.aborted.lo = true)) ∧
      (s.aq.seg = none → s.aqState ≠ 3 → exec (.captureAbort q) s = .next (ok s)) ∧
      (∀ g, s.aqOn = true → s.aqState = 1 → s.closedNow = none → s.aq.seg = some g → g.trig = none →
        ∃ t, exec (.force q) s = .next t ∧ (t.req q).status = 0 ∧ fires 5 s.now g t) ∧
      (s.aqState ≠ 1 → s.aqOn = true → s.closedNow = none → s.aq.seg = none → exec (.force q) s = .next (ok (ignored (flag AQ_FLAGS AQ_FLAGS.cmd_refused s)))) ∧
      (∀ g st, s.aqOn = true → s.closedNow = some (g, st) → ∃ t, exec (.force q) s = .next t ∧ t.aq.closed = some ({ s.joined g 5 s.now with triggered := true }, st)) ∧
      exec (.clearCnt q) s = .next (ok (setReg AQ_CNT 0 (setReg AQ_LOST 0 s))) ∧
      (v.toNat = 0 ∨ 5 ≤ v.toNat → exec (.aqBadCommand q v) s = .next (ok (flag AQ_FLAGS AQ_FLAGS.cmd_refused s)))) ∧
    (s.fget AQ_CFG AQ_CFG.ext_en = 0 ∨ s.fget AQ_CFG AQ_CFG.ext_pol ≠ b2n rising ∨ lasts < 10 ∨ (∃ e, s.aq.extAt = some e ∧ i.toNat < e + 10) →
      exec (.extTrigEdge i ⟨rising, lasts⟩) s = .next seen) ∧
    (∀ g, s.fget AQ_CFG AQ_CFG.ext_en = 1 → s.fget AQ_CFG AQ_CFG.ext_pol = b2n rising → s.aqOn = true → s.closedNow = none → 10 ≤ lasts →
      (∀ e, s.aq.extAt = some e → e + 10 ≤ i.toNat) →
      (s.aq.seg = none → exec (.extTrigEdge i ⟨rising, lasts⟩) s = .next (ignored seen)) ∧
      (s.aq.seg = some g → g.trig = none → ∃ t, exec (.extTrigEdge i ⟨rising, lasts⟩) s = .next t ∧ fires 0 i.toNat g t)) ∧
    (∀ g, s.fget AQ_CFG AQ_CFG.xline_in = 1 → s.ownXline i.toNat = false → s.aq.stuck = false ∨ 1000 ≤ high → s.aqOn = true → s.closedNow = none →
      10 ≤ high → 10 ≤ lasts → s.aq.seg = some g → g.trig = none →
      ∃ t, exec (.xlineEdge i ⟨high, lasts⟩) s = .next t ∧ t.aq.stuck = false ∧ fires 1 i.toNat g t) ∧
    (high < 1000 → s.fget AQ_CFG AQ_CFG.xline_in = 0 ∨ s.ownXline i.toNat = true ∨ s.aq.stuck = true ∨ high < 10 ∨ lasts < 10 →
      exec (.xlineEdge i ⟨high, lasts⟩) s = .next s) ∧
    (∀ z, s.aq.pullUntil = some z →
      exec .xlineRelease s = .next (if z ≤ s.now then { s with aq := { s.aq with pullUntil := none, released := some s.now } } else s)) ∧
    (exec (.xlineStuck low) s = .next (if (s.fget AQ_XLINE AQ_XLINE.xline_stuck + 1) * 1000000 < low then
      flag AQ_FLAGS AQ_FLAGS.xline_stuck { s with aq := { s.aq with stuck := true } } else s)) ∧
    (s.answers = true → s.fenced 6 = false → blockOn (s.planeOf tgtAq) 6 0 = true → s.domGood 63 = true → s.aq.undefinedSeg = none →
      (s.aq.seg = none → exec (.captureWindowRead q off 0) s = .next (setReq q { s.req q with
        status := 0, data := look (fun _ => 0) s.aq.mem off.toNat, lastAccess := some (0x20000000 + off.toNat * 4) } s)) ∧
      (∀ g, s.aq.seg = some g → g.seg = off.toNat / 2 / s.segSlots → off.toNat / 2 / s.segSlots < s.segCount →
        exec (.captureWindowRead q off 0) s = .next (complete q 1 (0x20000000 + off.toNat * 4) 0 s)))

/-- FOREGROUND_RUN_END, BACKGROUND_RUN_END, LOAD_REFRESH, FG_START, FG_ABORT, WIN_READ and CAL_BAD_COMMAND. At the end of a foreground run each enabled
cell reads its result, and a cell that fails masks itself until a new run; the run passes only where every enabled cell and the reference pass, and
one that fails changes no stored set. A background run shows its result and divergence; eight failures running isolate the block; a divergence up to 8
changes no table, a larger one sets cal_drift and becomes ref_now. Each refresh turns the accesses of the last millisecond into the load, at most
1,024. FG_START clears the counts and starts its blocks, FG_ABORT stops every run, and is without effect where none is in progress. WIN_READ shows a
word of the named stored point with its count and time, and sets sel_bad where the selection names none. Another command value is refused. The model's
own choices and readings that it rests on stand in log entries 62, 63, 118 and 119. (R133, R134, R135, R142, R319, R324, R325, R329) -/
def Obligations.CalibrationRunsJudgeAndShift : Prop :=
  ∀ (q : Requester) (block : Fin 48) (rx : Fin 6) (cellHits : List (List Nat)) (hits : List Nat) (v : BitVec 4) (s : State),
    let b := s.blk block
    let k : Nat := block
    let pl := s.planeOf (tgtRx k)
    let pass := fun i => (codeDensity (nth [] cellHits i) 2097152).isSome
    let ok := completeOk q (CAL_CMD + 1)
    let stat := s.fget CAL_FG_STATUS CAL_FG_STATUS.state
    let good := (codeDensity hits 2097152).isSome = true ∧ ∀ i, i < 16 → checkable pl k i = true → pass i = true
    (b.fgRunning = false → exec (.foregroundRunEnd block cellHits hits) s = .next s) ∧
    (b.fgRunning = true → s.cal.fgLeft = [] →
      ∃ t, exec (.foregroundRunEnd block cellHits hits) s = .next t ∧ (t.blk block).fgRunning = false ∧ (t.blk block).fgBack = s.scheduled k ∧
        (∀ i, i < 16 → checkable pl k i = true →
          t.fget (GD_CELL_CAL (k * 16 + i)) GD_CELL_CAL.fg_result = (if pass i then 1 else 2) ∧
          (t.cell (k * 16 + i)).needsForeground = !pass i ∧ (pass i = false → t.masked (k * 16 + i) = true)) ∧
        (∀ c, c / 16 ≠ k → t.cell c = s.cell c) ∧ (∀ j, j ≠ k → t.blk j = s.blk j) ∧
        (¬good → t.cal.sections = s.cal.sections ∧ t.cal.counts = s.cal.counts ∧
          t.fget CAL_FG_STATUS CAL_FG_STATUS.passed = s.fget CAL_FG_STATUS CAL_FG_STATUS.passed) ∧
        (good → t.fget CAL_FG_STATUS CAL_FG_STATUS.failed = s.fget CAL_FG_STATUS CAL_FG_STATUS.failed)) ∧
    (s.girdleOn k = true →
      (codeDensity hits 1048576 = none →
        let n := min 8 (s.fget (GD_BLK_STATUS k) GD_BLK_STATUS.ref_fail_run + 1)
        ∃ t, exec (.backgroundRunEnd block hits) s = .next t ∧ t.fget (GD_BLK_STATUS k) GD_BLK_STATUS.ref_fail_run = n ∧
          t.fget (GD_BLK_REF k) GD_BLK_REF.last_result = 2 ∧ t.rbit (GD_BLK_STATUS k) GD_BLK_STATUS.ref_fail.lo = true ∧
          t.rx = s.rx ∧ t.cal = s.cal ∧ t.isolated (rxRegion k) (rxBlock k) = (s.isolated (rxRegion k) (rxBlock k) || decide (n = 8)) ∧
          OnlyRegs [GD_BLK_STATUS k, GD_BLK_REF k, REC_LOST, REC_STATUS] s t) ∧
      (∀ run, codeDensity hits 1048576 = some run →
        let now : List Int := (match b.refNow with | some l => l.map (fun (x : Nat) => (x : Int)) | none => s.inForce (calKey (rxRegion k) (rxBlock k) 16 1))
        let div := (run.zipIdx).foldl (fun m p => max m ((p.1 : Int) - nth 0 now p.2).natAbs) 0
        ∃ t, exec (.backgroundRunEnd block hits) s = .next t ∧ t.fget (GD_BLK_STATUS k) GD_BLK_STATUS.ref_fail_run = 0 ∧
          t.fget (GD_BLK_REF k) GD_BLK_REF.last_result = 1 ∧ t.fget (GD_BLK_REF k) GD_BLK_REF.divergence = min 0xFFF div ∧
          (div ≤ 8 → t.rx = s.rx ∧ t.cal = s.cal) ∧
          (8 < div → (t.blk k).refNow = some run ∧ t.rbit (GD_BLK_STATUS k) GD_BLK_STATUS.cal_drift.lo = true))) ∧
    (∃ t, exec (.loadRefresh rx) s = .next t ∧ look (fun _ => 0) t.cal.load (8 + rx.val) = min 1024 (look (fun _ => 0) s.cal.rmw rx * 1024 / 2048000) ∧
      look (fun _ => 0) t.cal.rmw rx = 0 ∧ (∀ j, j ≠ rx.val → look (fun _ => 0) t.cal.rmw j = look (fun _ => 0) s.cal.rmw j) ∧
      (∀ j, j ≠ 8 + rx.val → look (fun _ => 0) t.cal.load j = look (fun _ => 0) s.cal.load j) ∧ t.cal.sections = s.cal.sections) ∧
    (s.takes CAL_CMD →
      (∀ m, (s.mode = .configured ∨ s.mode = .armed ∨ s.mode = .run) → stat ≠ 1 → s.fgBusy = 0 → s.scheduled m = false → blockOn (s.planeOf (tgtRx m)) (rxRegion m) (rxBlock m) = true →
        (((List.range 48).filter (fun j => ((s.reg CAL_FG_MASK_LO).toNat + (s.reg CAL_FG_MASK_HI).toNat % 65536 * 2 ^ 32).testBit j)).filter
          (fun j => blockOn s.cut.live (rxRegion j) (rxBlock j))) = [m] →
        ∃ t, exec (.fgStart q) s = .next t ∧ (t.req q).status = 0 ∧ t.fget CAL_FG_STATUS CAL_FG_STATUS.state = 1 ∧ (t.blk m).fgRunning = true ∧
          t.fget CAL_FG_STATUS CAL_FG_STATUS.passed = 0 ∧ t.fget CAL_FG_STATUS CAL_FG_STATUS.failed = 0 ∧
          OnlyRegs [CAL_FG_STATUS] s t ∧ ∀ j, j ≠ m → t.blk j = s.blk j) ∧
      ((s.mode ≠ .configured ∧ s.mode ≠ .armed ∧ s.mode ≠ .run) ∨ stat = 1 →
        exec (.fgStart q) s = .next (ok (flag CAL_STATUS CAL_STATUS.fg_refused s))) ∧
      (stat = 1 → ∃ t, exec (.fgAbort q) s = .next t ∧ (t.req q).status = 0 ∧ t.fget CAL_FG_STATUS CAL_FG_STATUS.state = 3 ∧ t.cal.fgLeft = [] ∧
        (∀ j, j < 48 → (t.blk j).fgRunning = false ∧ (t.blk j).fgWait = none) ∧ t.cal.sections = s.cal.sections ∧ OnlyRegs [CAL_FG_STATUS] s t) ∧
      (stat ≠ 1 → exec (.fgAbort q) s = .next (ok s)) ∧
      (let kind := s.fget CAL_SEL CAL_SEL.kind
       let named := sectionAt (s.fget CAL_SEL CAL_SEL.region) (s.fget CAL_SEL CAL_SEL.block) (s.fget CAL_SEL CAL_SEL.cell) kind
       let key := calKey (s.fget CAL_SEL CAL_SEL.region) (s.fget CAL_SEL CAL_SEL.block) (s.fget CAL_SEL CAL_SEL.cell) kind
       let set := (s.section_ key).set
       let j := s.fget CAL_SEL2 CAL_SEL2.point
       let i := s.fget CAL_SEL2 CAL_SEL2.word
       (named = true → i < pointWords kind → s.fget CAL_SEL2 CAL_SEL2.in_force = 0 → s.fget CAL_SEL2 CAL_SEL2.load_point = 0 → j < set.keys.length →
         ∃ t, exec (.winRead q) s = .next t ∧ (t.req q).status = 0 ∧ t.reg CAL_WIN_DATA = nth 0 (nth [] set.points j) i ∧
           t.reg CAL_INFO_COUNT = BitVec.ofNat 32 (s.calCount key).1 ∧ t.reg CAL_INFO_TIME = (s.calCount key).2 ∧
           OnlyRegs [CAL_WIN_DATA, CAL_INFO_COUNT, CAL_INFO_TIME] s t) ∧
       (named = false → exec (.winRead q) s = .next (ok (flag CAL_STATUS CAL_STATUS.sel_bad (setRegs CAL_WIN_DATA [0, 0, 0] s))))) ∧
      (v.toNat = 0 ∨ 4 ≤ v.toNat → exec (.calBadCommand q v) s = .next (ok (flag CAL_STATUS CAL_STATUS.fg_refused s))))

/-- SLOT_PLACE, FIRE, MONITOR_CHARGE, PORT_REARM and HOP_FRAME_WRITE. Placing takes the next slot of a sequence: its number advances, its generator makes
eight steps, and where there is time enough to post it, it is posted to every block bound to the sequence and its live fires are loaded into their
ports; a slot placed too late is not, and sets late_slot. At its instant, not before, a fire leaves its port: driven, it is counted, measured and
reported; a masked port, one of an isolated block, or a unit that does not drive drops it. A charge code is shown and reported, and a run of codes
beyond a limit masks the port; one within the limits ends the run. A re-arm returns a masked port, at once where no sequence names it. A hop frame to
come is taken; a late one is refused. The model's own choices and readings that it rests on stand in log entries 54 and 120. (R155, R157, R158, R145,
R147, R148, R149, R150, R162) -/
def Obligations.ShotsArePlacedFiredAndMonitored : Prop :=
  ∀ (q : Requester) (sq : Fin 64) (port : Fin 64) (charge : BitVec 12) (ev : Bool) (w : Word) (s : State),
    let x := s.port port
    let e := s.seq sq
    let pl := e.plane
    let st := shotTable pl
    let shots := seqShots st sq
    let period := seqPeriod st sq
    let tn := e.edge + seqOffset st sq + e.n * period
    let lp := tw (codeFrame pl) 2 % 65536
    let listen := seqListenEn st sq && decide (lp ≠ 0) && decide (e.n % lp + 1 = lp)
    let code := lfsrSteps 8 e.lfsr % 256
    let dith := if ditherOn pl sq && s.tx.code ≠ [] then code * 64 * (stepEff pl sq + 1) else 0
    let fires := slotFires pl s (if listen then 0 else seqPattern st sq (e.n % seqPatternLen st sq)) (tn * 128 + dith)
    let slot : Slot := { seq := sq, frame := e.frame, n := e.n, m := e.n / shots, k := e.n % shots, kind := if listen then .listen else .fire, tn := tn,
                         code := code, lag := s.pairLag, fires := fires, own := true, known := [], dark := false, judged := 0, counted := 0 }
    let late := decide (slot.lsb < (s.now + postLead pl s sq fires) * 128)
    let hopOk := completeOk q (TX_HOP_FRAME + 1)
    (e.placing = true → s.shooting = true → s.tx.checks = [] → shots ≠ 0 → e.n % shots ≠ 0 → e.n + 1 < seqPixels st sq * shots →
      ∃ t, exec (.slotPlace sq) s = .next t ∧ t.seq sq = { e with n := e.n + 1, lfsr := lfsrSteps 8 e.lfsr } ∧
        (∀ j, j ≠ sq.val → t.seq j = s.seq j) ∧
        (late = true → t.rbit TX_SCHED_STATUS TX_SCHED_STATUS.late_slot.lo = true ∧ t.tx.ports = s.tx.ports ∧ ∀ k, (t.blk k).posts = (s.blk k).posts) ∧
        (late = false → t.regs = s.regs ∧
          (∀ k, k < 48 → binding st k = some sq.val → (t.blk k).posts = (s.blk k).posts ++ [slot]) ∧
          (∀ f, f ∈ fires → f.dead = false → ∃ g, (t.port f.emitter).fires = (s.port f.emitter).fires ++ [g] ∧ g.ns = f.ns ∧ g.q = f.q ∧
            g.width = emitterWidth st f.emitter ∧ g.seq = sq.val ∧ g.slot = slot.lsb))) ∧
    (e.placing = false ∨ s.shooting = false → exec (.slotPlace sq) s = .next s) ∧
    (∀ f rest, x.fires = f :: rest →
      (s.now < f.ns → exec (.fire port) s = .next s) ∧
      (f.ns ≤ s.now → (s.driving = false ∨ x.masked = true ∨ s.isolated 4 (port / 16) = true) → exec (.fire port) s = .next (setPort port { x with fires := rest } s)) ∧
      (f.ns ≤ s.now → s.driving = true → x.masked = false → s.isolated 4 (port / 16) = false → s.pair ≠ .active → s.reg64 (TX_PORT_FIRES_LO port) + 2 < 2 ^ 64 →
        ∃ t, exec (.fire port) s = .next t ∧ t.port port = { x with fires := rest, gates := x.gates ++ [f] } ∧
          t.reg64 (TX_PORT_FIRES_LO port) = s.reg64 (TX_PORT_FIRES_LO port) + 1 ∧ t.tx.tapB = s.tx.tapB ++ [(port.val, f.width, f.ns)] ∧
          (∀ j, j ≠ port.val → t.port j = s.port j) ∧ OnlyRegs [TX_PORT_FIRES_LO port, TX_PORT_FIRES_LO port + 4] s t)) ∧
    (∀ f rest, x.gates = f :: rest →
      let lo := cutF (s.planeOf tgtTx) (TX_BLK_MON_LIM (port / 16)) TX_BLK_MON_LIM.mon_min
      let hi := cutF (s.planeOf tgtTx) (TX_BLK_MON_LIM (port / 16)) TX_BLK_MON_LIM.mon_max
      let n := max 1 (cutF (s.planeOf tgtTx) (TX_BLK_MON_CFG (port / 16)) TX_BLK_MON_CFG.mon_persist)
      ∃ t, exec (.monitorCharge port charge ev) s = .next t ∧ (t.port port).gates = rest ∧
        t.tx.tapA = s.tx.tapA ++ [(port.val, charge.toNat, f.ns, ev)] ∧ t.fget (TX_PORT_STATUS port) TX_PORT_STATUS.last_charge = charge.toNat ∧
        (∀ j, j ≠ port.val → t.port j = s.port j) ∧
        ((ev = false ∨ x.masked = true) → t.port port = { x with gates := rest }) ∧
        (ev = true → x.masked = false → lo ≤ charge.toNat → charge.toNat ≤ hi → t.port port = { x with gates := rest, low := 0, high := 0 }) ∧
        (ev = true → x.masked = false → lo ≠ 0 → charge.toNat < lo → n ≤ x.low + 1 → (t.port port).masked = true ∧ (t.port port).fires = [] ∧
          t.fget (TX_PORT_STATUS port) TX_PORT_STATUS.state = 1 ∧ t.rbit (TX_PORT_FLAGS port) TX_PORT_FLAGS.mon_low.lo = true) ∧
        (ev = true → x.masked = false → lo ≤ charge.toNat → hi ≠ 0xFFF → hi < charge.toNat → n ≤ x.high + 1 → (t.port port).masked = true ∧
          t.rbit (TX_PORT_FLAGS port) TX_PORT_FLAGS.mon_high.lo = true)) ∧
    (s.takes (TX_PORT_CMD port) →
      (x.masked = false → exec (.portRearm q port) s = .next (completeOk q (TX_PORT_CMD port + 1) s)) ∧
      (x.masked = true → (∀ a ∈ s.tx.seqs, a.2.placing = false) → ∃ t, exec (.portRearm q port) s = .next t ∧ (t.req q).status = 0 ∧
        t.port port = { x with masked := false, rearm := false, low := 0, high := 0 } ∧ t.fget (TX_PORT_STATUS port) TX_PORT_STATUS.state = 0 ∧
        (∀ j, j ≠ port.val → t.port j = s.port j) ∧ OnlyRegs [TX_PORT_STATUS port] s t) ∧
      (x.masked = true → (∃ a ∈ s.tx.seqs, a.2.placing = true ∧ (seqEmitters (shotTable a.2.plane) a.1).testBit port = true) →
        exec (.portRearm q port) s = .next (completeOk q (TX_PORT_CMD port + 1) (setPort port { x with rearm := true } s)))) ∧
    (s.takes TX_HOP_FRAME →
      (w = 0 ∨ s.frameNum < w.toNat → ∃ t, exec (.hopFrameWrite q w) s = .next t ∧ (t.req q).status = 0 ∧ t.reg TX_HOP_FRAME = w ∧
        t.tx = { s.tx with hopOrder := s.time.accepted } ∧ OnlyRegs [TX_HOP_FRAME] s t ∧ OnlyParts [.regs, .tx, .mgmt, .time] s t) ∧
      (w ≠ 0 → w.toNat ≤ s.frameNum → exec (.hopFrameWrite q w) s = .next (hopOk
        (flag TX_SCHED_STATUS TX_SCHED_STATUS.hop_refused (flag TIME_STATUS TIME_STATUS.late_instant s)))))

/-- CONVERSION_SLOT_END, INJECTED_REQUEST, INJECTED_RESULT, SELF_CHECK, REFERENCE_SETTLED, REFERENCE_LOST and BIAS_CONVERSION_REQUEST. A slot of the scan
mask gives its value, time and SCAN flag, with SETTLING for an entry under calibration, to every entry that names the input; a slot of the sequence
gives an entry without filter and curve its calibrated value and time; both move to the next place. An injected request starts at once where none is
active and no reconversion is due, else waits in order; during a calibration run it is answered STALE. An injected result goes to its requester, one
of the self-test inputs to the test of its channel, and the converter idles until its reconversion, which the waiting request of highest priority
interrupts. A self-check that is due counts pass or failure; the second failure running is a fault, and a re-arm ends it after two passes of each
input. A reference that can be judged in the slot and meets its settling condition of R232 shows settled; one that is lost by R232 shows lost, makes
the slot INVALID, and calls for the scan mask where it is in use. A block asks for a bias conversion once a millisecond, and shows invalid where its
divider is 0. The model's own choices and readings that it rests on stand in log entries 64, 65, 66, 67, 70 and 114. (R230, R232, R233, R238, R241,
R243, R244, R246, R259, R94) -/
def Obligations.ConvertersConvertAnswerAndCheckThemselves : Prop :=
  ∀ (kv : Fin 54) (block : Fin 48) (ref : Fin 4) (level mean kept : Nat) (code : BitVec 16) (fine : BitVec 2) (full : BitVec 18) (s : State),
    let k := kv.val
    let x := s.adc k
    let sq := adcSeq x.pl k
    let raw := if 48 ≤ k ∧ k < 52 then code.toNat * 4 + fine.toNat else code.toNat
    let checked := full.toNat % 2 ^ adcBits k
    let z := s.now - convPhase k
    let quiet := x.active = none ∧ x.calRun = none ∧ x.calAsk = none ∧ x.resumeAt = none ∧ x.epoch = s.epochOf (adcTarget k) ∧ x.pl = s.planeOf (adcTarget k) ∧ x.due = [] ∧
      x.refWait = false ∧ x.scanning = s.wantsScan k ∧ sq.length ≤ 16
    (s.adcRuns k = true → quiet → x.scanning = true → 48 ≤ k →
      let i := nth 31 (scanInputs x.pl k) x.pos
      let c := s.trim k 0 (adcBits k) raw
      ∃ t, exec (.conversionSlotEnd kv code fine) s = .next t ∧
        (∀ e ent, sq[e]? = some ent → (Ent.input (Ent.ctl ent) = i →
            t.reg (ADC_RES_VAL k e) = resWord (sampleOf k c) (s.convFlags k i 0 c + 2 ^ resScan + resBit (x.calSettle = some e) resSettling) ∧ t.reg (ADC_RES_TIME k e) = BitVec.ofNat 32 z) ∧
          (Ent.input (Ent.ctl ent) ≠ i → t.reg (ADC_RES_VAL k e) = s.reg (ADC_RES_VAL k e) ∧ t.reg (ADC_RES_TIME k e) = s.reg (ADC_RES_TIME k e))) ∧
        (t.adc k).pos = (if x.pos + 1 < (scanInputs x.pl k).length then x.pos + 1 else 0)) ∧
    (∀ ent, s.adcRuns k = true → quiet → x.scanning = false → sq[x.pos]? = some ent → 48 ≤ k ∨ 16 ≤ Ent.input (Ent.ctl ent) →
      Ent.filt (Ent.ctl ent) = 0 → Ent.curve (Ent.ctl ent) = 0 → x.calSettle = none → s.fget (ADC_BN_CFG k) ADC_BN_CFG.en = 0 →
      let c := s.trim k (Ent.gain (Ent.ctl ent)) (adcBits k) raw
      ∃ t, exec (.conversionSlotEnd kv code fine) s = .next t ∧ t.reg (ADC_RES_TIME k x.pos) = BitVec.ofNat 32 z ∧
        t.reg (ADC_RES_VAL k x.pos) = resWord (sysCal (x.coef x.pos) (sampleOf k c)) (s.convFlags k (Ent.input (Ent.ctl ent)) (Ent.ref (Ent.ctl ent)) c) ∧
        (∀ e, e < 16 → e ≠ x.pos → t.reg (ADC_RES_VAL k e) = s.reg (ADC_RES_VAL k e)) ∧
        (t.adc k).pos = (if x.pos + 1 < sq.length then x.pos + 1 else 0)) ∧
    (∀ r rest, x.incoming = r :: rest → s.adcRuns k = true →
      (x.calRun = none → (∀ z, x.resumeAt = some z → s.now < z) → ∃ t, exec (.injectedRequest kv) s = .next t ∧ t.regs = s.regs ∧ (∀ j, j ≠ k → t.adc j = s.adc j) ∧
        (x.active = none → x.resumeAt = none → t.adc k = { x with incoming := rest, active := some r, lostNow := 0 }) ∧
        (x.active ≠ none ∨ x.resumeAt ≠ none → t.adc k = { x with incoming := rest, waiting := insertReq r x.waiting })) ∧
      (∀ v, x.calRun.isSome = true → x.resumeAt = none → x.lastGood.find? (fun e => e.1 = Ent.input r.ctl) = some v →
        exec (.injectedRequest kv) s = .next (deliver k r (setBit resStale v.2 ||| w32 (resBit (s.adcFault k) resInvalid)) s.now
          (flag (ADC_FLAGS k) ADC_FLAGS.inj_stale (setAdc k { x with incoming := rest } s))))) ∧
    (∀ r, x.active = some r → x.resumeAt = none →
      let c := s.trim k (Ent.gain r.ctl) (adcBits k) raw
      let w := resWord (sysCal (x.reqCoef k r.ctl) (sampleOf k c)) (s.convFlags k (Ent.input r.ctl) (Ent.ref r.ctl) c)
      ∃ t, exec (.injectedResult kv code fine) s = .next t ∧ (t.adc k).active = none ∧ (t.adc k).waiting = x.waiting ∧
        (t.adc k).resumeAt = some (x.slotAt + s.slotNs k + ctlSlot k r.ctl) ∧
        (∀ l, r.src = .loop l → (t.loop_ l).inbox = (s.loop_ l).inbox ++ [{ word := w, time := z, held := false }]) ∧
        (∀ n, r.src = .sf n → if 30 ≤ Ent.input r.ctl then t.testIn = s.testIn ++ [(k, Ent.input r.ctl, w)] else if k < 52 then t.motionIn = s.motionIn ++ [(n, 2 * (k - 48) + Ent.input r.ctl % 2, w, z)]
          else t.supplyIn = s.supplyIn ++ [(n, w)]) ∧
        (r.src = .bias → t.sc = s.sc ∧ t.motionIn = s.motionIn)) ∧
    (∀ r rest z, s.adcRuns k = true → x.resumeAt = some z → z ≤ s.now → x.waiting = r :: rest →
      exec (.conversionSlotEnd kv code fine) s = .next (setAdc k { x with resumeAt := none, slotAt := z, lostNow := 0, active := some r, waiting := rest } s)) ∧
    (s.adcRuns k = true → 2048 ≤ x.passes → x.active = none → x.resumeAt = none → x.calRun = none →
      let fails := checkFails k x.checkFull (sampleOf k (s.trim k 0 (adcBits k) checked))
      let fl := s.convFlags k (if x.checkFull then 31 else 30) 0 (s.trim k 0 (adcBits k) checked)
      let runs := (if x.checkFull then x.fail31 else x.fail30) + 1
      (fails = true → ∃ t, exec (.selfCheck kv full) s = .next t ∧ (t.adc k).passes = 0 ∧ (t.adc k).checkFull = !x.checkFull ∧
        (if x.checkFull then (t.adc k).fail31 else (t.adc k).fail30) = runs ∧ t.rbit (ADC_FLAGS k) ADC_FLAGS.selfcheck_fail.lo = true ∧
        (2 ≤ runs → t.adcFault k = true)) ∧
      (fails = false → x.fail30 < 2 → x.fail31 < 2 → ∃ t, exec (.selfCheck kv full) s = .next t ∧ (t.adc k).passes = 0 ∧ (t.adc k).checkFull = (!x.checkFull) ∧
        (if x.checkFull then (t.adc k).fail31 else (t.adc k).fail30) = 0 ∧ (x.rearm = false → fl.testBit resInvalid = false → fl.testBit resOver = false → t.regs = s.regs) ∧
        (x.rearm = true → 1 ≤ (if x.checkFull then x.pass31 else x.pass30) → 2 ≤ (if x.checkFull then x.pass30 else x.pass31) →
          t.adcFault k = false ∧ (t.adc k).rearm = false))) ∧
    (s.adcRuns k = true → x.passes < 2048 → exec (.selfCheck kv full) s = .next s) ∧
    (refExists k ref = true → s.adcRuns k = true → s.vrefJudged k ref true = true → s.refSettles k ref level mean kept = true →
      (x.lostRefs.testBit ref = false → exec (.referenceSettled kv ⟨ref, level, mean, kept⟩) s = .next (setReg (ADC_REF k) (setBit ref (s.reg (ADC_REF k))) s)) ∧
      (x.lostRefs.testBit ref = true → ∃ t, exec (.referenceSettled kv ⟨ref, level, mean, kept⟩) s = .next t ∧ (t.settledRefs k).testBit ref = true)) ∧
    (s.refSettles k ref level mean kept = false → exec (.referenceSettled kv ⟨ref, level, mean, kept⟩) s = .next s) ∧
    ((s.settledRefs k).testBit ref = false ∨ s.refLost ref level mean = false → exec (.referenceLost kv ⟨ref, level, mean, kept⟩) s = .next s) ∧
    ((s.settledRefs k).testBit ref = true → s.vrefJudged k ref false = true → s.refLost ref level mean = true → ∃ t, exec (.referenceLost kv ⟨ref, level, mean, kept⟩) s = .next t ∧ (t.settledRefs k).testBit ref = false ∧
      t.rbit (ADC_REF k) (8 + ref) = true ∧ (t.adc k).lostNow.testBit ref = true ∧ (t.adc k).lostRefs.testBit ref = true ∧
      ((seqRefs x.pl k).testBit ref = true → (t.adc k).refWait = true ∧ t.wantsScan k = true) ∧ (∀ j, j ≠ k → t.adc j = s.adc j)) ∧
    (let div := (cutReg (s.planeOf (tgtRx block)) (RX_BLK_BIAS_CFG block)).toNat % 65536
     let b := s.blk block
     (div = 0 → exec (.biasConversionRequest block) s = .next (fset (RX_BLK_BIAS_SNS block) RX_BLK_BIAS_SNS.valid 0 s)) ∧
     (div ≠ 0 → s.loopState (8 + block) = 0 → b.biasAt + 1000000 ≤ s.now → s.adcRuns block = true →
       exec (.biasConversionRequest block) s = .next (setAdc block { s.adc block with
         incoming := insertReq { src := .bias, ctl := 16 } (s.adc block).incoming } (setBlk block { b with biasAt := s.now } s))) ∧
     (div ≠ 0 → s.loopState (8 + block) ≠ 0 ∨ s.now < b.biasAt + 1000000 → exec (.biasConversionRequest block) s = .next s))

/-- CAL_ZERO, CAL_ZERO_DONE, CAL_FULL, CAL_FULL_DONE, SCAN_ON, SCAN_OFF, BN_RESET, ADC_REARM, ADC_BAD_COMMAND and BANK_WRITE. In CONFIGURED, ARMED and
SERVICE CAL_ZERO asks for a run on the entry of ADC_SYSCAL_IDX and forgets an earlier zero; CAL_FULL does so where the zero of that entry is held; the
run begins at the converter's slot boundary. In RUN they fail with code 4, during a run they are refused, for an entry that does not exist with code
6, a full scale without its zero with code 3. The zero is the rounded mean of its conversions; the full scale less the zero gives the gain, and one
below 2^19 fails with code 1 and changes no coefficient. SCAN_ON and SCAN_OFF set the request in CONFIGURED and ARMED, REARM its own in CONFIGURED;
elsewhere they are refused. BN_RESET clears the detectors of its converter. A bank write is refused during a fade and while another waits, without
effect for the active bank, and else waits for its boundary: the pixel boundary of an ambient converter's block, the round of a housekeeping
converter, and the slot boundary. Another command is refused. The model's own choices and readings that it rests on stand in log entries 68 and 69.
(R242, R247, R248, R249, R253, R256, R259, R264) -/
def Obligations.ConverterCommandsCalibrateScanAndSelect : Prop :=
  ∀ (q : Requester) (kv : Fin 54) (v : BitVec 4) (w : Word) (sum : Int) (s : State),
    let k := kv.val
    let x := s.adc k
    let ok := completeOk q (ADC_CMD k + 1)
    let refuse := flag (ADC_FLAGS k) ADC_FLAGS.cmd_refused
    let e := getF ADC_SYSCAL_IDX.entry (s.adcWritten k (ADC_SYSCAL_IDX k))
    let avg := min 12 (max 4 (getF ADC_SYSCAL_IDX.avg (s.adcWritten k (ADC_SYSCAL_IDX k))))
    let sq := adcSeq x.pl k
    let able := s.mode = .configured ∨ s.mode = .armed ∨ s.mode = .service
    let valid := e < sq.length ∧ (k < 48 → 16 ≤ Ent.input (seqCtl sq e))
    let quiet := x.epoch = s.epochOf (adcTarget k) ∧ x.pl = s.planeOf (adcTarget k) ∧ x.due = [] ∧ x.refWait = false ∧ x.scanning = s.wantsScan k ∧
      x.active = none ∧ x.resumeAt = none ∧ x.waiting = []
    let stat := ADC_SYSCAL_STATUS k
    let wait := x.due ++ s.rx.rtWrites ++ s.hk.writes
    (s.takes (ADC_CMD k) →
      (s.mode = .run → exec (.calZero q kv) s = .next (ok (calRefuse k 4 s)) ∧ exec (.calFull q kv) s = .next (ok (calRefuse k 4 s))) ∧
      (able → x.calRun.isSome = true ∨ x.calAsk.isSome = true → exec (.calZero q kv) s = .next (ok (refuse s)) ∧ exec (.calFull q kv) s = .next (ok (refuse s))) ∧
      (able → x.calRun = none → x.calAsk = none → ¬valid →
        exec (.calZero q kv) s = .next (ok (calRefuse k 6 s)) ∧ exec (.calFull q kv) s = .next (ok (calRefuse k 6 s))) ∧
      (able → x.calRun = none → x.calAsk = none → valid → ∃ t, exec (.calZero q kv) s = .next t ∧ (t.req q).status = 0 ∧
        t.adc k = { x with calAsk := some (e, false, avg), calSettle := some e, zero := none } ∧
        t.fget stat ADC_SYSCAL_STATUS.code = 0 ∧ OnlyRegs [stat] s t) ∧
      (∀ z, able → x.calRun = none → x.calAsk = none → valid → x.zero = some (e, z) → ∃ t, exec (.calFull q kv) s = .next t ∧ (t.req q).status = 0 ∧
        t.adc k = { x with calAsk := some (e, true, avg), calSettle := some e } ∧
        t.fget stat ADC_SYSCAL_STATUS.code = 0 ∧ OnlyRegs [stat] s t) ∧
      (able → x.calRun = none → x.calAsk = none → valid → x.zero = none → exec (.calFull q kv) s = .next (ok (calRefuse k 3 s))) ∧
      ((s.mode = .configured ∨ s.mode = .armed) →
        exec (.scanOn q kv) s = .next (ok (setAdc k { x with hostScan := true } s)) ∧ exec (.scanOff q kv) s = .next (ok (setAdc k { x with hostScan := false } s))) ∧
      (s.mode ≠ .configured → s.mode ≠ .armed → exec (.scanOn q kv) s = .next (ok (refuse s)) ∧ exec (.scanOff q kv) s = .next (ok (refuse s))) ∧
      (∃ t, exec (.bnReset q kv) s = .next t ∧ (t.req q).status = 0 ∧ t.adc k = { x with peak := 0, ms := 0, env := 0 } ∧ t.reg (ADC_BN_PEAK k) = 0 ∧
        t.reg (ADC_BN_RMS k) = 0 ∧ t.reg (ADC_BN_ENV k) = 0 ∧ OnlyRegs [ADC_BN_PEAK k, ADC_BN_RMS k, ADC_BN_ENV k] s t ∧ ∀ j, j ≠ k → t.adc j = s.adc j) ∧
      (s.mode = .configured → exec (.adcRearm q kv) s = .next (ok (setAdc k { x with rearm := true, pass30 := 0, pass31 := 0, fail30 := 0, fail31 := 0 } s))) ∧
      (s.mode ≠ .configured → exec (.adcRearm q kv) s = .next (ok (refuse s))) ∧
      (v.toNat = 0 ∨ 7 ≤ v.toNat → exec (.adcBadCommand q kv v) s = .next (ok (refuse s)))) ∧
    (s.takes (ADC_BANK k) →
      (x.fade.isSome = true ∨ (∃ p ∈ wait, p.1 = ADC_BANK k) → exec (.bankWrite q kv w) s = .next (completeOk q (ADC_BANK k + 1) (flag (ADC_FLAGS k) ADC_FLAGS.bank_refused s))) ∧
      (x.fade = none → (∀ p ∈ wait, p.1 ≠ ADC_BANK k) → getF ADC_BANK.target w = s.fget (ADC_BANK k) ADC_BANK.active → exec (.bankWrite q kv w) s = .next (completeOk q (ADC_BANK k + 1) s)) ∧
      (x.fade = none → (∀ p ∈ wait, p.1 ≠ ADC_BANK k) → getF ADC_BANK.target w ≠ s.fget (ADC_BANK k) ADC_BANK.active →
        (k < 48 → s.scheduled k = true → exec (.bankWrite q kv w) s = .next (completeOk q (ADC_BANK k + 1) { s with rx := { s.rx with rtWrites := s.rx.rtWrites ++ [(ADC_BANK k, w)] } })) ∧
        (k < 52 → 48 ≤ k ∨ s.scheduled k = false → exec (.bankWrite q kv w) s = .next (completeOk q (ADC_BANK k + 1) (adcDue k (ADC_BANK k) s.now w s))) ∧
        (52 ≤ k → exec (.bankWrite q kv w) s = .next (completeOk q (ADC_BANK k + 1) { s with hk := { s.hk with writes := s.hk.writes ++ [(ADC_BANK k, w)] } })))) ∧
    ((adcDue k (ADC_BANK k) s.now w s).adc k = { x with due := x.due ++ [(ADC_BANK k, w)] }) ∧
    (∀ r, quiet → x.calAsk = some r → ((adcBoundary k s).adc k).calRun = some r ∧ ((adcBoundary k s).adc k).calAsk = none ∧
      (adcBoundary k s).fget stat ADC_SYSCAL_STATUS.calibrating = 1 ∧ (adcBoundary k s).fget (ADC_STATUS k) ADC_STATUS.state = (if s.adcRuns k then 3 else 0)) ∧
    (∀ n a, quiet → x.calAsk = none → x.calRun = some (n, false, a) → ∃ t, exec (.calZeroDone kv sum) s = .next t ∧ (t.adc k).calRun = none ∧
      (t.adc k).zero = some (n, divRoundI sum (2 ^ a)) ∧ (t.adc k).coefs = x.coefs ∧ t.fget stat ADC_SYSCAL_STATUS.state = 1 ∧
      t.fget stat ADC_SYSCAL_STATUS.calibrating = 0 ∧ OnlyRegs [stat, ADC_STATUS k] s t) ∧
    (∀ n a m z, quiet → x.calAsk = none → x.calRun = some (n, true, a) → x.zero = some (m, z) →
      let f := divRoundI sum (2 ^ a)
      let g := divRoundI ((s.reg (ADC_SYSCAL_TARGET k)).toNat * 2 ^ 22 : Nat) (f - z).toNat
      (f - z < 2 ^ 19 → ∃ t, exec (.calFullDone kv sum) s = .next t ∧ (t.adc k).calRun = none ∧ (t.adc k).zero = none ∧ (t.adc k).coefs = x.coefs ∧
        t.fget stat ADC_SYSCAL_STATUS.state = 3 ∧ t.fget stat ADC_SYSCAL_STATUS.code = 1) ∧
      (2 ^ 19 ≤ f - z → g < 2 ^ 24 → ∃ t, exec (.calFullDone kv sum) s = .next t ∧ (t.adc k).calRun = none ∧ (t.adc k).coef n = (z, g.toNat) ∧
        (∀ j, j ≠ n → (t.adc k).coef j = x.coef j) ∧ t.fget stat ADC_SYSCAL_STATUS.state = 2 ∧ t.fget stat ADC_SYSCAL_STATUS.calibrating = 0))

/-- LOOP_REQUEST, LOOP_SAMPLE, LOOP_EVALUATION, LOOP_TIMEOUT, SETTLE_HOLD_EVALUATION, LOOP_REARM and the other loop commands. An injecting loop sends its
request each period. A sample becomes the pending one of its loop, and one it replaces that is not issued counts as an overrun; a sample of an
inactive loop is dropped; a held one puts a running loop in SETTLE_HOLD. An evaluation is issued in its turn of R279, 250 ns or more after the one
before, and takes its sample, which nothing replaces from then on; it completes 300 ns after its issue, not before. In RUN it gives the output of the
PID law of R284, with the integrator stopped at the limits, and shows time, feedback and output; an invalid or out-of-range sample puts the loop in
HOLD. No sample in two periods puts it in HOLD with timeout. A held evaluation leaves the integrator. Each millisecond the load shows the evaluations.
A re-arm takes a loop from HOLD to REARM_CHECK and no other. Set-point, delay and amplitude writes take effect, the last is discarded with ACCESS
where a loop drives it. The model's own choices and readings that it rests on stand in log entries 71, 72, 73, 74 and 117. (R278, R279, R280, R284,
R286, R289, R298, R300, R301, R302) -/
def Obligations.LoopsSampleEvaluateHoldAndRearm : Prop :=
  ∀ (q : Requester) (lv : Fin 64) (axis : Fin 8) (w : Word) (s : State),
    let l := lv.val
    let x := s.loop_ l
    let st := s.loopState l
    let resonant := decide (l < 8 ∧ LSet.kind x.set = 1)
    let k := loopConv l x.set
    let held := fun t : State => t.loopState l = 2 ∧ (l < 8 → t.fget (SC_AXIS_STATUS l) SC_AXIS_STATUS.scan_fault = 1)
    (s.scRuns = true → st ≠ 0 → loopInjects l x.set = true → x.lastReq + LSet.period x.set ≤ s.now → (s.adc k).incoming = [] →
      (s.adc k).waiting = [] → (s.adc k).active = none →
      exec (.loopRequest lv) s = .next (setAdc k { s.adc k with incoming := [{ src := .loop l, ctl := loopReq l x.set }] } (setLoop l { x with lastReq := s.now } s))) ∧
    (∀ it rest, x.inbox = it :: rest →
      (st = 0 → exec (.loopSample lv) s = .next (setLoop l { x with inbox := rest } s)) ∧
      (s.scRuns = true → st = 1 → resonant = false → it.held = true → ∃ t, exec (.loopSample lv) s = .next t ∧ t.loopState l = 3 ∧
        (t.loop_ l).inbox = rest ∧ (t.loop_ l).pend = x.pend ∧ (t.loop_ l).hist = [] ∧ OnlyRegs [SC_LOOP_STATUS l] s t) ∧
      (s.scRuns = true → st ≠ 0 → it.held = false → it.lost = true ∨ resonant = false →
        let e := engineRun (setLoop l { x with inbox := rest } s)
        ∃ t, exec (.loopSample lv) s = .next t ∧
        t.loop_ l =
          { e.loop_ l with arrived := s.now, pendAt := s.now, pend := some (if it.lost then 0 else s.feedback l (resValue it.word) it.time, it.word, it.time) } ∧
        t.sc.issued = e.sc.issued ∧
        ((e.loop_ l).pend = none → t.regs = s.regs) ∧ ((e.loop_ l).pend.isSome = true → t.rbit (SC_LOOP_FLAGS l) SC_LOOP_FLAGS.overrun.lo = true))) ∧
    (∀ z, s.scRuns = true → st = 1 → x.pend.isSome = true → s.readyLoops = [(l, z)] → z ≤ s.now → s.now < z + 300 → (∀ b, s.sc.issueAt = some b → b + 250 ≤ z) →
      s.sc.issued = [] → ∃ t, exec (.loopEvaluation lv) s = .next t ∧ t.sc.issued = [{ loop := l, sample := x.pend, at_ := z }] ∧ (t.loop_ l).pend = none ∧
        t.sc.issueAt = some z ∧ t.regs = s.regs) ∧
    (st = 3 → x.pend = none → s.sc.issued = [] → s.readyAt l = some (x.heldAt + LSet.period x.set)) ∧
    (∀ fb word z i is, s.sc.issued = i :: is → i.loop = l → i.sample = some (fb, word, z) → i.at_ + 300 ≤ s.now → s.nextIssue = none → s.scRuns = true →
      s.cut.waiting = [] → x.set = loopSet (s.planeOf tgtSc) l → x.spNext = [] →
      LSet.kind x.set = 0 → LSet.invert x.set = false →
      let bad := word.getLsbD resInvalid || word.getLsbD resOver || decide (fb < LSet.fbMin x.set ∨ LSet.fbMax x.set < fb)
      (st = 1 → bad = true → ∃ t, exec (.loopEvaluation lv) s = .next t ∧ held t ∧ t.rbit (SC_LOOP_FLAGS l) SC_LOOP_FLAGS.out_of_range.lo = true ∧
        t.sc.issued = is ∧ (t.loop_ l).pend = x.pend ∧ t.reg (SC_LOOP_OUT l) = s.reg (SC_LOOP_OUT l)) ∧
      (st = 2 → ∃ t, exec (.loopEvaluation lv) s = .next t ∧ t.loopState l = 2 ∧ t.sc.issued = is ∧ (t.loop_ l).pend = x.pend ∧ t.reg (SC_LOOP_TIME l) = BitVec.ofNat 32 z ∧
        t.reg (SC_LOOP_FB l) = BitVec.ofNat 32 (toBits 24 fb) ∧ OnlyRegs [SC_LOOP_TIME l, SC_LOOP_FB l] s t) ∧
      (st = 1 → bad = false → l < 8 → x.first = false → LSet.rateLim x.set = 0 → LSet.nProf x.set = 0 → LSet.frzN x.set = 0 → s.cascadeOf l = none →
        let e := x.spNow - fb
        let p := (LSet.kp x.set * e) / 2 ^ 16
        let d := (LSet.kd x.set * (x.fbPrev - fb)) / 2 ^ 16
        let raw := p + x.iAcc / 2 ^ 16 + d
        let ki := LSet.ki x.set
        let i1 := if (LSet.uMax x.set ≤ raw ∧ 0 < ki * e) ∨ (raw ≤ LSet.uMin x.set ∧ ki * e < 0) then x.iAcc else clampI (-(2 ^ 39)) (2 ^ 39 - 1) (x.iAcc + ki * e)
        let u := clampI (LSet.uMin x.set) (LSet.uMax x.set) (p + i1 / 2 ^ 16 + d)
        ∃ t, exec (.loopEvaluation lv) s = .next t ∧ t.loopState l = 1 ∧ t.sc.issued = is ∧ (t.loop_ l).pend = x.pend ∧ (t.loop_ l).iAcc = i1 ∧ (t.loop_ l).uPrev = u ∧
          (t.loop_ l).fbPrev = fb ∧ t.reg (SC_LOOP_OUT l) = BitVec.ofNat 32 (toBits 24 u) ∧ t.reg (SC_LOOP_FB l) = BitVec.ofNat 32 (toBits 24 fb) ∧
          t.reg (SC_LOOP_TIME l) = BitVec.ofNat 32 z ∧ (t.axis l).drive = some { value := u, time := z, held := false, loop := l } ∧
          OnlyRegs [SC_LOOP_STATUS l, SC_LOOP_TIME l, SC_LOOP_FB l, SC_LOOP_OUT l] s t)) ∧
    (s.nextIssue = none → (∀ i is, s.sc.issued = i :: is → i.loop ≠ l ∨ s.now < i.at_ + 300) →
      exec (.loopEvaluation lv) s = .next s ∧ exec (.settleHoldEvaluation lv) s = .next s) ∧
    (s.scRuns = true → st = 1 ∨ st = 4 → s.loopSuppressed l = false → resonant = false →
      (s.now < x.arrived + 2 * LSet.period x.set → exec (.loopTimeout lv) s = .next s) ∧
      (x.arrived + 2 * LSet.period x.set ≤ s.now → ∃ t, exec (.loopTimeout lv) s = .next t ∧ held t ∧ t.rbit (SC_LOOP_FLAGS l) SC_LOOP_FLAGS.timeout.lo = true ∧
        ∀ j, t.loop_ j = s.loop_ j)) ∧
    (∀ i is, s.sc.issued = i :: is → i.loop = l → i.sample = none → i.at_ + 300 ≤ s.now → s.nextIssue = none → s.scRuns = true → st = 3 →
      ∃ t, exec (.settleHoldEvaluation lv) s = .next t ∧ t.sc.issued = is ∧ t.loopState l = 3 ∧
        t.rbit (SC_LOOP_FLAGS l) SC_LOOP_FLAGS.settle_held.lo = true ∧ (x.first = false → (t.loop_ l).iAcc = x.iAcc)) ∧
    (∃ t, exec .engineLoadUpdate s = .next t ∧ t.sc.evals = 0 ∧ t.fget SC_ENG_STATUS SC_ENG_STATUS.load = min 8191 s.sc.evals ∧
      (4000 ≤ s.sc.evals → t.rbit SC_ENG_FLAGS SC_ENG_FLAGS.overload.lo = true) ∧ (s.sc.evals < 4000 → OnlyRegs [SC_ENG_STATUS] s t)) ∧
    (s.takes (SC_LOOP_CMD l) →
      (st = 2 → ∃ t, exec (.loopRearm q lv) s = .next t ∧ (t.req q).status = 0 ∧ t.loopState l = 4 ∧ (t.loop_ l).rearmGood = 0 ∧
        (l < 8 → t.fget (SC_AXIS_STATUS l) SC_AXIS_STATUS.scan_fault = 0) ∧ ∀ j, j ≠ l → t.loop_ j = s.loop_ j) ∧
      (st ≠ 2 → exec (.loopRearm q lv) s = .next (completeOk q (SC_LOOP_CMD l + 1) s)) ∧
      (∃ t, exec (.clearDelay q lv) s = .next t ∧ (t.req q).status = 0 ∧ t.loop_ l = { x with delayFresh := true } ∧
        t.fget (SC_LOOP_DELAY l) SC_LOOP_DELAY.least = 0 ∧ t.fget (SC_LOOP_DELAY l) SC_LOOP_DELAY.greatest = 0 ∧ OnlyRegs [SC_LOOP_DELAY l] s t)) ∧
    (s.takes (SC_LOOP_SP l) → exec (.setpointWrite q lv w) s = .next (completeOk q (SC_LOOP_SP l + 1)
      (setReg (SC_LOOP_SP l) (BitVec.ofNat 32 (w.toNat % 2 ^ 24)) (setLoop l { x with spNext := x.spNext ++ [(sext 24 (w.toNat % 2 ^ 24), s.now)] } s)))) ∧
    (s.takes (SC_AXIS_AMP axis) →
      (s.ampDriven axis = false → exec (.amplitudeWrite q axis w) s = .next (completeOk q (SC_AXIS_AMP axis + 1) (setReg (SC_AXIS_AMP axis) (BitVec.ofNat 32 (w.toNat % 2 ^ 24)) s))) ∧
      (s.ampDriven axis = true → exec (.amplitudeWrite q axis w) s = .next (discardWrite q (SC_AXIS_AMP axis) s)))

/-- CONVERTER_RELEASE, EXC_CURRENT_LIMIT, EXC_WRITE, CHOP_REVERSAL, EXCITATION_REVERSAL_SENSED, DRIVE_WORD and KEEPALIVE. A converter whose references
have settled and whose scan pass has run leaves the scan mask at a slot boundary, one that has not after 5 ms enters fault, and a released one is left
alone. The current limit switches a driven excitation off and raises exc_fault. A write of exc_on = 1 with the flag cleared ends it. A write of the
excitation takes effect at once where no output is to come, else waits for it. After chop_n outputs the polarity reverses 100 ns after the last
sample, not before; a unit that does not excite takes over a reversal it senses. A drive or auxiliary value leaves as the next word of its axis with
its sequence number, carat, delay and CRC, after the word in flight and its gap; after 10 µs without a word, and with none waiting, an enabled port
repeats the last value, and 0 where loops do not run. The model's own choices and readings that it rests on stand in log entries 73, 75 and 116.
(R268, R269, R271, R272, R274, R275, R295, R303, R454, R566) -/
def Obligations.ExcitationReversesAndDriveWordsLeave : Prop :=
  ∀ (q : Requester) (kv : Fin 54) (av : Fin 8) (w : Word) (s : State),
    let k := kv.val
    let c := s.adc k
    let a := av.val
    let x := s.axis a
    let pl := s.planeOf tgtSc
    let mode := cutF pl (SC_AXIS_CFG a) SC_AXIS_CFG.mode
    let hold := b2n (s.loopState a = 2)
    let leaves := fun (v : Int) (kind delay : Nat) (t : State) =>
      (t.axis a).sent = some (driveWord v kind hold x.seq s.carat delay) ∧ (t.axis a).seq = (x.seq + 1) % 16 ∧
      (t.axis a).busyUntil = s.now + 525 ∧ (t.axis a).startedAt = s.now ∧ ∀ j, j ≠ a → t.axis j = s.axis j
    (s.adcRuns k = true → c.released = false → s.mode ≠ .loader → s.adcFault k = false →
      (s.refsSettled k = true → c.scanned = true → c.slotAt = s.now → c.due = [] → ∃ t, exec (.converterRelease kv) s = .next t ∧ (t.adc k).released = true ∧
        (48 ≤ k → k < 52 → c.epoch = s.epochOf (adcTarget k) → c.pl = s.planeOf (adcTarget k) → ∀ j, 2 * (k - 48) ≤ j → j < 2 * (k - 48) + 2 → cellOn pl 3 0 j = true → (s.axis j).fault = false →
          s.fget (SC_AXIS_EXC j) SC_AXIS_EXC.exc_on = 1 → cutF pl (SC_AXIS_CFG j) SC_AXIS_CFG.mode = 1 → s.pair = .solo → (t.axis j).on = true)) ∧
      (s.refsSettled k = false → max s.cut.swapI c.enabledAt + 5000000 ≤ s.now → ∃ t, exec (.converterRelease kv) s = .next t ∧ t.adcFault k = true ∧ t.adc k = c) ∧
      (s.refsSettled k = false → s.now < max s.cut.swapI c.enabledAt + 5000000 → exec (.converterRelease kv) s = .next s)) ∧
    (c.released = true → exec (.converterRelease kv) s = .next s) ∧
    (x.on = false → exec (.excCurrentLimit av) s = .next s) ∧
    (x.on = true → ∃ t, exec (.excCurrentLimit av) s = .next t ∧ t.axis a = { x with on := false, fault := true } ∧
      t.fget (SC_AXIS_STATUS a) SC_AXIS_STATUS.exc_state = 3 ∧ t.rbit (SC_AXIS_FLAGS a) SC_AXIS_FLAGS.exc_fault.lo = true ∧
      ∀ j, j ≠ a → t.axis j = s.axis j) ∧
    (s.takes (SC_AXIS_EXC a) →
      (s.scRuns = false → x.fault = true → w.getLsbD 8 = true → s.rbit (SC_AXIS_FLAGS a) SC_AXIS_FLAGS.exc_fault.lo = false →
        ∃ t, exec (.excWrite q av w) s = .next t ∧ t.axis a = { x with fault := false }) ∧
      (s.scRuns = false → x.fault = false ∨ w.getLsbD 8 = false ∨ s.rbit (SC_AXIS_FLAGS a) SC_AXIS_FLAGS.exc_fault.lo = true → exec (.excWrite q av w) s = .next (completeOk q (SC_AXIS_EXC a + 1) (setReg (SC_AXIS_EXC a) (BitVec.ofNat 32 (w.toNat % 512)) s))) ∧
      (s.scRuns = true → loopSet pl a = [] → mode = 1 → x.fault = false → cellOn pl 3 0 a = true → (s.adc (48 + a / 2)).released = true → s.pair = .solo → ∃ t, exec (.excWrite q av w) s = .next t ∧ (t.req q).status = 0 ∧
        t.reg (SC_AXIS_EXC a) = BitVec.ofNat 32 (w.toNat % 512) ∧ t.axis a = { x with
          on := decide (getF SC_AXIS_EXC.exc_on w = 1), level := min 150 (getF SC_AXIS_EXC.level w), excWrite := false } ∧
        OnlyRegs [SC_AXIS_EXC a, SC_AXIS_STATUS a] s t) ∧
      (∀ ps, s.scRuns = true → x.fault = false → loopSet pl a = ps → ps ≠ [] → loopInjects a ps = false → (s.adc (LSet.conv ps)).scanning = false → s.adcRuns (LSet.conv ps) = true →
        exec (.excWrite q av w) s = .next (completeOk q (SC_AXIS_EXC a + 1) (setAxis a { x with excWrite := true }
          (setReg (SC_AXIS_EXC a) (BitVec.ofNat 32 (w.toNat % 512)) s))))) ∧
    (s.scRuns = true → x.on = true → cutF pl (SC_AXIS_CFG a) SC_AXIS_CFG.chop_en ≠ 0 →
      (x.outputs < max 16 (cutF pl (SC_AXIS_CFG a) SC_AXIS_CFG.chop_n) → exec (.chopReversal av) s = .next s) ∧
      (max 16 (cutF pl (SC_AXIS_CFG a) SC_AXIS_CFG.chop_n) ≤ x.outputs → ∃ t, exec (.chopReversal av) s = .next t ∧
        t.axis a = { x with wasReversed := x.reversed, reversed := !x.reversed, revAt := x.outAt + 100, outputs := 0 } ∧
        t.fget (SC_AXIS_STATUS a) SC_AXIS_STATUS.exc_state = (if x.reversed then 1 else 2) ∧ OnlyRegs [SC_AXIS_STATUS a] s t)) ∧
    (s.scRuns = true → (s.pair = .standby ∨ s.pair = .withdrawn) → ∃ t, exec (.excitationReversalSensed av) s = .next t ∧
      t.axis a = { x with wasReversed := x.reversed, reversed := !x.reversed, revAt := s.now - 100, outputs := 0 }) ∧
    (s.pair = .solo ∨ s.pair = .active → exec (.excitationReversalSensed av) s = .next s) ∧
    (s.now < x.busyUntil → exec (.driveWord av) s = .next s ∧ exec (.keepalive av) s = .next s) ∧
    (s.scRuns = true → x.busyUntil ≤ s.now → cellOn pl 3 0 a = true →
      (LSet.kind (s.loop_ a).set ≠ 1 ∨ s.loopState a = 0 →
        (∀ dv, x.drive = some dv → dv.loop < 64 → ∃ t, exec (.driveWord av) s = .next t ∧ leaves dv.value 0 (delayCode (s.now + 400) dv.time dv.held) t ∧
          (t.axis a).drive = none ∧ (t.axis a).lastDrive = dv.value ∧
          t.fget (SC_LOOP_DELAY dv.loop) SC_LOOP_DELAY.last = delayCode (s.now + 400) dv.time dv.held ∧ OnlyRegs [SC_LOOP_DELAY dv.loop] s t) ∧
        (∀ dv rest, x.drive = none → x.aux = dv :: rest → dv.loop < 64 → ∃ t, exec (.driveWord av) s = .next t ∧ leaves dv.value 2 (delayCode (s.now + 400) dv.time dv.held) t ∧
          (t.axis a).aux = rest ∧ (t.axis a).lastDrive = x.lastDrive) ∧
        (x.drive = none → x.aux = [] → exec (.driveWord av) s = .next s)) ∧
      (s.loopState a ≠ 0 → LSet.kind (s.loop_ a).set = 1 → s.time.period = none → ∃ t, exec (.driveWord av) s = .next t ∧ leaves 0 0 0xFF t ∧
        t.fget (SC_AXIS_STATUS a) SC_AXIS_STATUS.wait_frame = 1)) ∧
    (s.fenced 3 = false → s.domGood 64 = true → pl = none ∨ cellOn pl 3 0 a = true → x.startedAt + 10000 ≤ s.now → x.busyUntil ≤ s.now →
      s.scRuns = false ∨ (x.drive = none ∧ x.aux = []) →
      ∃ t, exec (.keepalive av) s = .next t ∧ leaves (if s.scRuns then x.lastDrive else 0) 1 0 t ∧ t.regs = s.regs) ∧
    (s.now < x.startedAt + 10000 ∨ (pl ≠ none ∧ cellOn pl 3 0 a = false) ∨ (s.scRuns = true ∧ (x.drive ≠ none ∨ x.aux ≠ [])) →
      exec (.keepalive av) s = .next s)

/-- ESTOP_CHANGE, ESTOP_DISCREPANCY, CROSS_OFF, OFF_DEMAND, FIRE_REPORT, CHARGE_REPORT, SCAN_FAULT, the motion samples, supply check and BUDGET_STALE. In
a channel in PERMIT that has no condition an emergency stop, the peer's cross-off, an off-demand, a fire of an emitter outside emitter_en, and a scan
fault of a required axis without energy margin each turn EMIT_EN off at once, assert cross-off, put the channel in TRIPPED and take the device out of
ARMED and RUN. Every 10 ms a channel asks converter 53 for its own supply, and takes the answer. Inputs that differ too long, and an own supply out of
1.14 V to 1.26 V, put a channel in FAULT. A known fire adds its energy to the buckets of its emitter and the aggregate, for B only while it was seen.
A released stop ends its condition and no state. A channel asks for a motion sample of a required axis and takes the sample with the polarity of its
instant. A standby without a budget state holds its sums at their limits and goes from HOT to READY. The model's own choices and readings that it
rests on stand in log entries 87, 88, 89, 91 and 95. (R243, R405, R407, R408, R412, R413, R414, R416, R419, R424, R426, R427) -/
def Obligations.SafetyConditionsTripTheirChannel : Prop :=
  ∀ (xv : Fin 2) (av : Fin 8) (cmp : Bool) (s : State),
    let x := xv.val
    let a := av.val
    let c := s.sfc x
    let set := s.sf.set.getD []
    let clean := s.sfState x = 4 ∧ c.cause = 0
    let tripped := fun (y n : Nat) (t : State) => t.sfState y = 2 ∧ (t.sfc y).en = false ∧ (t.sfc y).crossOff = true ∧ t.sfHas y n = true ∧
      t.rbit SF_FLAGS SF_FLAGS.tripped.lo = true ∧ t.mode = (if s.mode = .armed ∨ s.mode = .run then .configured else s.mode)
    (clean → ∃ t, exec (.estopChange xv true) s = .next t ∧ tripped x 0 t ∧ t.fget SF_STATUS (if x = 0 then SF_STATUS.estop_a else SF_STATUS.estop_b) = 1 ∧
      t.sfState (1 - x) = s.sfState (1 - x)) ∧
    (c.cause = 1 → ∃ t, exec (.estopChange xv false) s = .next t ∧ (t.sfc x).cause = 0 ∧ t.sfState x = s.sfState x ∧ t.mode = s.mode ∧
      t.fget SF_STATUS (if x = 0 then SF_STATUS.estop_a else SF_STATUS.estop_b) = 0) ∧
    (∀ z, s.sf.estopDiff = some z → s.sf.set.isSome = true →
      (z + s.sfWord 12 % 65536 * 1000000 < s.now → ∃ t, exec .estopDiscrepancy s = .next t ∧
        ∀ y, y < 2 → s.sfState y ≠ 0 → t.sfState y = 6 ∧ t.sfHas y 12 = true ∧ (s.sfState y ≠ 6 → (t.sfc y).en = false)) ∧
      (s.now ≤ z + s.sfWord 12 % 65536 * 1000000 → exec .estopDiscrepancy s = .next s)) ∧
    (clean → s.sfOn x = true → (s.sfc (1 - x)).crossOff = true → ∃ t, exec (.crossOff xv) s = .next t ∧ tripped x 4 t) ∧
    (s.sfOn x = true → (s.sfc (1 - x)).crossOff = false → exec (.crossOff xv) s = .next s) ∧
    (clean → s.sfOn x = true → s.startup.chip ≠ [] → ∃ t, exec (.offDemand xv) s = .next t ∧ tripped x 3 t) ∧
    (∀ e w ns rest, s.tx.tapB = (e, w, ns) :: rest → s.sfOn 1 = true → s.sf.set.isSome = true →
      (s.sfState 1 = 4 → (s.sfc 1).cause = 0 → (s.sfWord (1 + e / 32)).testBit (e % 32) = false → ∃ t, exec (.fireReport false cmp) s = .next t ∧ tripped 1 5 t ∧ t.tx.tapB = rest) ∧
      ((s.sfWord (1 + e / 32)).testBit (e % 32) = true →
        exec (.fireReport false cmp) s = .next { s with tx := { s.tx with tapB := rest } } ∧
        ((s.sfc 1).atLimit = false → ∃ t, exec (.fireReport true cmp) s = .next t ∧ t.tx.tapB = rest ∧
          (t.sfc 1).buckets = ((s.sfc 1).account set e (s.sfWord (80 + e) % 65536 * (8 + w)) (ns / 100000)).buckets ∧ t.sfc 0 = s.sfc 0))) ∧
    (∀ e n ns ev rest, s.tx.tapA = (e, n, ns, ev) :: rest → s.sfOn 0 = true → s.sf.set.isSome = true →
      (s.sfWord (1 + e / 32)).testBit (e % 32) = true → (s.sfc 0).atLimit = false → ∃ t, exec .chargeReport s = .next t ∧ t.tx.tapA = rest ∧
        (t.sfc 0).buckets = ((s.sfc 0).account set e (s.sfWord (16 + e) % 65536 * n) (ns / 100000)).buckets ∧ t.sfc 1 = s.sfc 1) ∧
    (∀ n rest, (if x = 0 then s.sc.toA else s.sc.toB) = (n, true) :: rest → c.scanFault.testBit n = false → ∃ t, exec (.scanFault xv) s = .next t ∧
      (if x = 0 then t.sc.toA else t.sc.toB) = rest ∧ (t.sfc x).scanFault.testBit n = true ∧
      (s.scanReq n = true → c.stopped = 0 → c.stopAt = none → (t.sfc x).stopped.testBit n = true ∧ (t.sfc x).stopAt = some s.now ∧
        (clean → s.sfWord 9 = 0 → tripped x 2 t))) ∧
    (s.sfOn x = true → s.scanReq a = true → x = 0 → c.asked = [] → ∃ t, exec (.motionSampleRequest xv av) s = .next t ∧
      (t.adc (48 + a / 2)).incoming = insertReq { src := .sf x, ctl := s.bridgeCtl a } (s.adc (48 + a / 2)).incoming ∧
      look (fun _ => 0) (t.sfc x).asked a = s.now ∧ t.regs = s.regs) ∧
    (s.scanReq a = false → exec (.motionSampleRequest xv av) s = .next s) ∧
    (∀ n w z rest, s.motionIn = (x, n, w, z) :: rest → w.getLsbD resInvalid = false → w.getLsbD resOver = false → ∃ t, exec (.motionSample xv) s = .next t ∧
      t.motionIn = rest ∧ look (fun _ => []) (t.sfc x).motion n =
        ((resValue w * s.polarityAt n z) :: look (fun _ => []) c.motion n).take (max 1 (s.sfWord 10 / 1024 % 1024))) ∧
    (s.sfOn x = true → s.sfState x ≠ 1 → s.sfState x ≠ 0 →
      (c.supplyAt + 10000000 ≤ s.now → ∃ t, exec (.safetySupplyCheck xv false) s = .next t ∧ (t.sfc x).supplyAt = s.now ∧
        (t.adc 53).incoming = insertReq { src := .sf x, ctl := 7 + x } (s.adc 53).incoming ∧ t.regs = s.regs) ∧
      (c.supplyAt ≠ 0 → s.now < c.supplyAt + 10000000 → exec (.safetySupplyCheck xv false) s = .next s) ∧
      (∀ w : Word, s.supplyIn = [(x, w)] →
        let volts := resValue w * 2500000
        ((volts < 1140000 * 2 ^ 23 ∨ 1260000 * 2 ^ 23 < volts) → ∃ t, exec (.safetySupplyCheck xv true) s = .next t ∧ t.sfState x = 6 ∧
          t.sfHas x 11 = true ∧ t.supplyIn = []) ∧
        (1140000 * 2 ^ 23 ≤ volts → volts ≤ 1260000 * 2 ^ 23 → exec (.safetySupplyCheck xv true) s = .next { s with supplyIn := [] }))) ∧
    (s.pair = .standby → s.sfOn x = true → (∀ z, s.pairSt.budgetAt = some z → z + 300000 ≤ s.now) → ∃ t, exec .budgetStale s = .next t ∧
      t.sfHas x 7 = true ∧ (t.sfc x).atLimit = true ∧ (s.sfState x = 5 → t.sfState x = 3) ∧ (s.sfState x ≠ 5 → t.sfState x = s.sfState x)) ∧
    (s.pair = .solo ∨ s.pair = .active → exec .budgetStale s = .next s)

/-- SAFETY_CYCLE, TICK_CLOSE, XC_SEND, XC_MESSAGE, XC_DECIDE, the test pulse, SAFE_RST and SELFTEST_DONE. A cycle on time with agreeing readback, an
untripped peer and sums within their limits leaves a channel in its state, or takes one in TRIPPED without condition to READY, and a passed verdict to
its state; a sum above its limit trips a channel in PERMIT; one outside 19 to 21 µs and a second readback difference put it in FAULT. At C_k the tick
closes, a commit that is due comes into force with its digest, and the states are noted. After 5 µs the message with state, digest and tick goes to
the peer and arrives there. In INIT an edge is ignored. At C_k + 40 µs no message, and one with another digest, are faults; agreement is not, and lets
a valid SAFE_RST edge move READY channels to the state of the verdict. A test pulse turns EMIT_EN off for 250 ns, and an EMIT_FB that does not follow
is a fault. A self-test ends with the first item that fails, converters and outputs among them; a passed one leads to READY or TRIPPED, a failed one
to FAULT, and both end start-up. The model's own choices and readings that it rests on stand in log entries 87, 89, 90, 94 and 94. (R405, R408, R411,
R420, R422, R423, R425, R427, R429, R567) -/
def Obligations.SafetyCyclesTestsAndComparisons : Prop :=
  ∀ (xv : Fin 2) (fbA fbB rst seenA seenB : Bool) (item : BitVec 6) (s : State),
    let x := xv.val
    let c := s.sfc x
    let p := s.sfc (1 - x)
    let onTime := s.sfOn x = true ∧ s.fget MODE_STATUS MODE_STATUS.phase ≠ 4 ∧ ∃ z, c.cycleAt = some z ∧ z + 19000 ≤ s.now ∧ s.now ≤ z + 21000
    let agrees := (s.sfc 0).en = fbA ∧ (s.sfc 1).en = fbB
    let peerFine := (s.sfState (1 - x) = 3 ∨ s.sfState (1 - x) = 4 ∨ s.sfState (1 - x) = 5) ∧ p.crossOff = false
    let k := s.tick
    let sums := c.over (s.sf.set.getD []) k (List.range 65) = false ∧ (∀ z, c.stopAt = some z → c.stopSum ≤ s.sfWord 9 * 4096) ∧ s.haltsStandby x = false
    let kk := fun n : Nat => s.sf.tick = some n ∧ s.sfOn x = true ∧ n ≠ 0
    (s.sfOn x = false → exec (.safetyCycle xv fbA fbB rst) s = .next s) ∧
    (onTime → agrees → peerFine → sums → c.cause = 0 → ∃ t, exec (.safetyCycle xv fbA fbB rst) s = .next t ∧ (t.sfc x).cycleAt = some s.now ∧
      t.fget SF_STATUS SF_STATUS.fb_a = b2n fbA ∧ t.fget SF_STATUS SF_STATUS.fb_b = b2n fbB ∧ t.fget SF_STATUS SF_STATUS.rst_level = b2n rst ∧
      t.sfState (1 - x) = s.sfState (1 - x) ∧
      (c.move = none → t.sfState x = (if s.sfState x = 2 then 3 else s.sfState x) ∧ (s.sfState x ≠ 2 → (t.sfc x).en = c.en ∧ t.mode = s.mode)) ∧
      (∀ z, c.move = some (z, 4) → z < s.now → s.sfState x = 3 → s.pair = .solo ∨ s.pair = .active → t.sfState x = 4 ∧ (t.sfc x).en = true ∧ (t.sfc x).move = none)) ∧
    (s.sfOn x = true → s.sfState x ≠ 0 → s.fget MODE_STATUS MODE_STATUS.phase ≠ 4 → (∃ z, c.cycleAt = some z ∧ (s.now < z + 19000 ∨ z + 21000 < s.now)) →
      ∃ t, exec (.safetyCycle xv fbA fbB rst) s = .next t ∧ t.sfState x = 6 ∧ t.sfHas x 10 = true) ∧
    (onTime → s.sfState x ≠ 0 → s.pair = .solo ∨ s.pair = .active → c.fbBad = 1 → (s.sfc 0).pulse = none → (s.sfc 0).enAt + 2000 ≤ s.now → (s.sfc 0).en = !fbA →
      ∃ t, exec (.safetyCycle xv fbA fbB rst) s = .next t ∧ t.sfState x = 6 ∧ t.sfHas x 8 = true) ∧
    (s.sf.tick = some k → exec .tickClose s = .next s) ∧
    (s.time.running = true → s.sf.tick ≠ some k → s.domGood 67 = true → s.cut.waiting = [] → s.pair ≠ .active →
      (s.sf.commit = none → ∃ t, exec .tickClose s = .next t ∧ t.sf.tick = some k ∧ t.regs = s.regs ∧ t.sf.set = s.sf.set ∧
        t.sf.rstTo = (if s.sf.rstEdge = some k then s.rstTarget else 0) ∧ (t.sfc x).stateK = s.sfState x ∧ (t.sfc x).buckets = c.buckets) ∧
      (∀ d ws who, s.sf.commit = some (d, ws, who) → d ≤ k → ∃ t, exec .tickClose s = .next t ∧ t.sf.tick = some k ∧ t.sf.commit = none ∧ t.sf.set = some ws ∧
        t.reg SF_SET_DIGEST = nth 0 (sha256 ws) 0 ∧ (s.sf.set.map sha256 ≠ some (sha256 ws) → t.sf.logSeq = s.sf.logSeq + 1)) ∧
      (∀ d ws who, s.sf.commit = some (d, ws, who) → k < d → ∃ t, exec .tickClose s = .next t ∧ t.sf.commit = s.sf.commit ∧ t.sf.set = s.sf.set)) ∧
    (∀ n, kk n → c.sentK ≠ some n →
      (s.now < n * 100000 + 5000 → exec (.xcSend xv) s = .next s) ∧
      (n * 100000 + 5000 ≤ s.now → ∃ t m, exec (.xcSend xv) s = .next t ∧ (t.sfc x).out = some m ∧ (t.sfc x).sentK = some n ∧ m.tick = n - 1 ∧
        m.state = c.stateK ∧ m.cause = c.cause ∧ m.digest = s.reg SF_SET_DIGEST ∧ t.regs = s.regs)) ∧
    (∀ m, p.out = some m → s.sfOn x = true → ∃ t, exec (.xcMessage xv) s = .next t ∧ (t.sfc x).peer = some m ∧ (t.sfc (1 - x)).out = none ∧ t.regs = s.regs) ∧
    (p.out = none → exec (.xcMessage xv) s = .next s) ∧
    (∀ n, kk n → s.sfState x ≠ 0 → c.decidedK ≠ some n → n * 100000 + 40000 ≤ s.now →
      ((∀ m, c.peer = some m → m.tick + 1 ≠ n) → ∃ t, exec (.xcDecide xv) s = .next t ∧ t.sfState x = 6 ∧ t.sfHas x 10 = true ∧ (t.sfc x).decidedK = some n) ∧
      (∀ m, c.peer = some m → m.tick + 1 = n → m.digest ≠ s.reg SF_SET_DIGEST → ∃ t, exec (.xcDecide xv) s = .next t ∧ t.sfState x = 6 ∧ t.sfHas x 9 = true) ∧
      (∀ m, c.peer = some m → m.tick + 1 = n →
        s.xcFails c m ((List.range 64).foldl (fun l e => put (fun _ => 0) l e (if s.energyDiffers c m.tick e then look (fun _ => 0) c.energyBad e + 1 else 0)) []) = false →
        ∃ t, exec (.xcDecide xv) s = .next t ∧ t.sfState x = s.sfState x ∧ (t.sfc x).decidedK = some n ∧ (t.sfc x).before = some (c.stateK, m.state) ∧
          (s.sf.rstEdge = some n → s.sf.rstTo ≠ 0 → c.stateK = 3 → m.state = 3 → (t.sfc x).move = some (n * 100000 + 40000, s.sf.rstTo) ∧ t.sfHas x 5 = false) ∧
          (s.sf.rstEdge = some n → s.sf.rstTo = 0 → (t.sfc x).move = c.move ∧ t.rbit SF_FLAGS SF_FLAGS.rst_ignored.lo = true))) ∧
    (onTime → s.sfState x = 4 → c.cause = 0 → c.over (s.sf.set.getD []) k (List.range 65) = true → peerFine → agrees →
      ∃ t, exec (.safetyCycle xv fbA fbB rst) s = .next t ∧ t.sfState x = 2 ∧ t.sfHas x 1 = true ∧ (t.sfc x).en = false) ∧
    (∀ n, kk n → s.sfState x = 0 → c.decidedK ≠ some n → n * 100000 + 40000 ≤ s.now → ∃ t, exec (.xcDecide xv) s = .next t ∧ t.sfState x = 0 ∧
      (s.sf.rstEdge = some n → t.rbit SF_FLAGS SF_FLAGS.rst_ignored.lo = true ∧ (t.sfc x).move = c.move)) ∧
    (s.sfOn x = true → s.sfState x = 4 → c.en = true → c.pulse = none → c.pulseAt ≠ some (s.pulseGrid x) → s.now ≤ s.pulseGrid x + 21000 → s.pair = .solo ∨ s.pair = .active →
      exec (.testPulseStart xv) s = .next (setSfc x { c with en := false, enAt := s.now, pulse := some s.now, pulseLow := false, pulseAt := some (s.pulseGrid x) } s)) ∧
    (s.sfState x ≠ 4 → exec (.testPulseStart xv) s = .next s) ∧
    (∀ z, c.pulse = some z →
      (s.sfState x = 4 → c.en = false → exec (.testPulseEnd xv) s = .next (if z + 250 ≤ s.now then setSfc x { c with en := true, enAt := s.now } s else s)) ∧
      (c.pulseLow = false → s.now < z + 200 → exec (.testPulseSample xv seenA seenB) s = .next s) ∧
      (c.pulseLow = false → z + 200 ≤ s.now → exec (.testPulseSample xv false false) s = .next (setSfc x { c with pulseLow := true } s)) ∧
      (c.pulseLow = false → z + 200 ≤ s.now → s.sfState 0 ≠ 0 → ∃ t, exec (.testPulseSample xv true false) s = .next t ∧ t.sfState 0 = 6 ∧ t.sfHas 0 8 = true) ∧
      (c.pulseLow = true → z + 2250 ≤ s.now → exec (.testPulseSample xv true true) s = .next (setSfc x { c with pulse := none } s)) ∧
      (c.pulseLow = true → z + 2250 ≤ s.now → s.sfState 1 ≠ 0 → ∃ t, exec (.testPulseSample xv true false) s = .next t ∧ t.sfState 1 = 6 ∧ t.sfHas 1 8 = true)) ∧
    (s.time.running = true → s.domGood 67 = true →
      (s.sf.rstStuck = true → exec .safeRstEdge s = .next s) ∧
      (s.sf.rstStuck = false → s.sf.rstEdge = none → exec .safeRstEdge s = .next { s with sf := { s.sf with rstEdge := some ((s.now + 99999) / 100000) } }) ∧
      (exec (.safeRstStuck true) s = .next (flag SF_FLAGS SF_FLAGS.rst_stuck { s with sf := { s.sf with rstStuck := true } })) ∧
      (exec (.safeRstStuck false) s = .next { s with sf := { s.sf with rstStuck := false } })) ∧
    (s.sfState 0 = 1 → s.sfState 1 = 1 → let i := s.selftestItem item.toNat; ∃ t, exec (.selftestDone item) s = .next t ∧
      t.fget SF_RESULT SF_RESULT.test = (if i = 0 then 1 else 2) ∧ t.fget SF_RESULT SF_RESULT.item = i ∧ (∀ j, 1 ≤ j → j < i → s.selftestFails item.toNat j = false) ∧ (i ≠ 0 → s.selftestFails item.toNat i = true) ∧ i ≤ 7 ∧
      t.sfState x = (if i = 0 then (if c.cause &&& 0xEF = 0 then 3 else 2) else 6) ∧ (t.sfc x).en = false ∧
      (s.fget MODE_STATUS MODE_STATUS.phase = 5 → t.fget MODE_STATUS MODE_STATUS.phase = 6 ∧ t.fget MODE_STATUS MODE_STATUS.startup_done = 1)) ∧
    (s.fget SF_RESULT SF_RESULT.test ≠ 3 → s.sfState x ≠ 1 → exec (.selftestDone item) s = .next s)

/-- UNLOCK, LOCK, SET_PWD, STAGE_LOAD, SF_PARAM_DATA_WRITE, SAFETY_COMMIT, SELFTEST, DISARM, SF_BAD_COMMAND and the expiries. UNLOCK with the password
opens a session of 60 s from its last write and clears the failures; a wrong one is counted, the fifth locks for 600 s and is logged, and under a
lockout it is refused. LOCK and the session's end close it. SET_PWD and COMMIT need the unlocked session and a presence window, COMMIT also CONFIGURED
and a set that keeps the rules; each is otherwise refused with its code. STAGE_LOAD copies the set in force to staging, and a staging write replaces
one word of it and no other. SELFTEST starts in CONFIGURED and is refused in RUN and ARMED. DISARM takes PERMIT and HOT to READY without a trip. A
value that names no command is refused with code 10. The model's own choices and readings that it rests on stand in log entries 92 and 93. (R408,
R427, R428, R429, R430, R436, R12) -/
def Obligations.SafetyCommandsNeedTheirConditions : Prop :=
  ∀ (q : Requester) (v : BitVec 4) (w : Word) (x : Fin 2) (s : State),
    let ok := completeOk q (SF_CMD + 1)
    let refused := fun code => ok (flag SF_FLAGS SF_FLAGS.cmd_refused (fset SF_RESULT SF_RESULT.refusal code s))
    let taken := fun r : State => ok (fset SF_RESULT SF_RESULT.refusal 0 r)
    let right := s.sf.pwdA = some s.pwdBytes ∧ s.sf.pwdB = some s.pwdBytes
    (s.takes SF_CMD →
      (s.sf.lockedUntil.isSome = true → exec (.unlock q) s = .next (refused 8)) ∧
      (s.sf.lockedUntil = none → right →
        exec (.unlock q) s = .next (taken { s with sf := { s.sf with failures := 0, unlockedUntil := some (s.sf.pwdAt + 60000000000) } })) ∧
      (s.sf.lockedUntil = none → ¬right → ∃ t, exec (.unlock q) s = .next t ∧ (t.req q).status = 0 ∧ t.sf.failures = s.sf.failures + 1 ∧
        t.fget SF_RESULT SF_RESULT.refusal = 9 ∧ t.sf.unlockedUntil = s.sf.unlockedUntil ∧ t.sf.set = s.sf.set ∧
        (s.sf.failures + 1 < 5 → t.sf.lockedUntil = none ∧ t.sf.logSeq = s.sf.logSeq) ∧
        (5 ≤ s.sf.failures + 1 → t.sf.lockedUntil = some (s.now + 600000000000) ∧ t.sf.logSeq = s.sf.logSeq + 1 ∧ t.rbit SF_FLAGS SF_FLAGS.lockout.lo = true)) ∧
      (exec (.lock q) s = .next (taken { s with sf := { s.sf with unlockedUntil := none } })) ∧
      (s.unlocked = false → s.sf.pwdA.isSome = true → exec (.setPwd q) s = .next (refused 4)) ∧
      (s.unlocked = true ∨ s.sf.pwdA = none →
        (s.presence = false → exec (.setPwd q) s = .next (refused 5)) ∧
        (s.presence = true → pwdOk s.pwdBytes = false → exec (.setPwd q) s = .next (refused 9)) ∧
        (s.presence = true → pwdOk s.pwdBytes = true → ∃ t, exec (.setPwd q) s = .next t ∧ (t.req q).status = 0 ∧ t.sf.pwdA = some s.pwdBytes ∧
          t.sf.pwdB = some s.pwdBytes ∧ t.sf.logSeq = s.sf.logSeq + 1 ∧ t.fget SF_RESULT SF_RESULT.refusal = 0 ∧ t.sf.set = s.sf.set)) ∧
      (∀ ws, s.sf.set = some ws → exec (.stageLoad q) s = .next (taken { s with sf := { s.sf with staging := ws } })) ∧
      (s.unlocked = false ∨ s.sf.pwdA = none → exec (.safetyCommit q) s = .next (refused 4)) ∧
      (s.unlocked = true → s.sf.pwdA.isSome = true →
        (s.presence = false → exec (.safetyCommit q) s = .next (refused 5)) ∧
        (s.presence = true → s.mode ≠ .configured → exec (.safetyCommit q) s = .next (refused 6)) ∧
        (s.presence = true → s.mode = .configured → setOk s.cut.live s.stagingWords = false → exec (.safetyCommit q) s = .next (refused 7)) ∧
        (s.presence = true → s.mode = .configured → setOk s.cut.live s.stagingWords = true → exec (.safetyCommit q) s = .next (taken
          { s with sf := { s.sf with commit := some ((s.now + 10000 + 99999) / 100000, s.stagingWords, q) } }))) ∧
      (s.mode = .configured → ∃ t, exec (.selftest q) s = .next t ∧ (t.req q).status = 0 ∧ t.sfState x = 1 ∧ (s.sfState x ≠ 1 → (t.sfc x).en = false) ∧
        t.fget SF_RESULT SF_RESULT.test = 3 ∧ t.fget SF_RESULT SF_RESULT.refusal = 0 ∧ t.mode = .configured) ∧
      (s.mode = .run → exec (.selftest q) s = .next (refused 1)) ∧ (s.mode = .armed → exec (.selftest q) s = .next (refused 2)) ∧
      (∃ t, exec (.disarm q) s = .next t ∧ (t.req q).status = 0 ∧ t.fget SF_RESULT SF_RESULT.refusal = 0 ∧ (t.sfc x).cause = (s.sfc x).cause ∧
        t.sfState x = (if s.sfState x = 4 ∨ s.sfState x = 5 then 3 else s.sfState x) ∧
        (s.sfState x = 4 ∨ s.sfState x = 5 → (t.sfc x).en = false ∧ (t.sfc x).crossOff = false)) ∧
      (v.toNat = 0 ∨ 8 ≤ v.toNat → exec (.sfBadCommand q v) s = .next (refused 10))) ∧
    (s.takes SF_PARAM_DATA →
      (s.unlocked = true → s.presence = true → ∃ t, exec (.sfParamDataWrite q w) s = .next t ∧ (t.req q).status = 0 ∧
        t.sf.unlockedUntil = some (s.now + 60000000000) ∧ t.sf.set = s.sf.set ∧ t.regs = s.regs ∧
        ∀ i, i < 336 → nth 0 t.sf.staging i = (if i = (s.reg SF_PARAM_IDX).toNat then w else nth 0 s.sf.staging i)) ∧
      (s.unlocked = false ∨ s.presence = false → exec (.sfParamDataWrite q w) s = .next (discardWrite q SF_PARAM_DATA s))) ∧
    (∀ z, s.sf.unlockedUntil = some z → exec .sessionExpiry s = .next (if z ≤ s.now then { s with sf := { s.sf with unlockedUntil := none } } else s)) ∧
    (s.sf.unlockedUntil = none → exec .sessionExpiry s = .next s) ∧
    (∀ z, s.sf.lockedUntil = some z → exec .lockoutExpiry s = .next (if z ≤ s.now then { s with sf := { s.sf with lockedUntil := none, failures := 0 } } else s)) ∧
    (s.sf.lockedUntil = none → exec .lockoutExpiry s = .next s)

/-- CLAIM_FRAME, CLAIM_SYN_EDGE, CLAIM_LATCH, CLAIM_SILENT, the promotion, EXCITATION_TAKEOVER, HEARTBEAT_TOGGLE, REJOIN and WITHDRAW. A unit that claims
in a slot does so once, in its first 12.5 µs. A valid frame read by a unit that does not claim shows its carat. A frame stands for the carat with
which it began. A standby that wins its frame is ACTIVE from that instant, with the measured skew as fire offset; an ACTIVE unit that loses a frame
after its first win, and a SOLO unit that loses one, become WITHDRAWN with both channels out of PERMIT. A standby measures CLAIM_SYN against its own
slot; a jump by more than 512 units is flagged, marks the pixels in progress TIME_SUSPECT, and is not used. PROMOTE_N starts a promotion of a standby,
is refused elsewhere, and ends after 1.8 ms. HEARTBEAT toggles once a tick while the unit is well. REJOIN takes a withdrawn unit to STANDBY in
CONFIGURED and WITHDRAW takes SOLO and ACTIVE to WITHDRAWN. The model's own choices and readings that it rests on stand in log entries 96, 97, 98,
100, 100 and 101. (R441, R442, R443, R444, R445, R446, R447, R449, R452, R459) -/
def Obligations.ClaimsDecideWhoIsActive : Prop :=
  ∀ (q : Requester) (bus : BitVec 24) (units : BitVec 11) (av : Fin 8) (level : BitVec 8) (x : Fin 2) (s : State),
    let p := s.pairSt
    let b := bus.toNat
    let c := b / 256
    let own := s.carat
    let mine := p.claimCarat
    let heardIt := { p with claims := false, validAt := some s.now, higherAt := if own < c then some s.now else p.higherAt }
    let withdrawn := fun t : State => t.pair = .withdrawn ∧ t.pairSt.claims = false ∧ t.pairSt.promoteAt = none ∧
      t.sfState x = (if s.sfState x = 4 ∨ s.sfState x = 5 then 3 else s.sfState x) ∧ t.rbit PAIR_FLAGS PAIR_FLAGS.withdrawn.lo = true ∧
      t.mode ≠ .armed ∧ t.mode ≠ .run
    (∀ z, s.slotStart = some z → s.time.running = true → p.slot ≠ some z →
      (s.claimsAt z = true → s.now < z + 12500 → exec .claimFrame s = .next (setPair { p with slot := some z, claims := true, claimCarat := own } s)) ∧
      (s.claimsAt z = false ∨ z + 12500 ≤ s.now → exec .claimFrame s = .next s)) ∧
    (p.claims = false → claimBits c = b → c ≤ own → exec (.claimLatch bus) s = .next (fset PAIR_STATUS PAIR_STATUS.bus_carat c (setPair heardIt s))) ∧
    (p.claims = false → claimBits c ≠ b → exec (.claimLatch bus) s = .next s) ∧
    (s.ownLatch = true → b = claimBits mine → claimBits c = b → s.pair = .standby → p.promoteAt.isSome = true → ∃ t, exec (.claimLatch bus) s = .next t ∧ t.pair = .active ∧
      t.pairSt.handover = some s.now ∧ t.pairSt.won = some mine ∧ t.pairSt.fireOffset = divRoundI (sext 16 (s.fget PAIR_SKEW PAIR_SKEW.skew)) 16 ∧
      t.fget PAIR_STATUS PAIR_STATUS.promoting = 0 ∧ t.rbit PAIR_FLAGS PAIR_FLAGS.promoted.lo = true) ∧
    (s.ownLatch = true → b ||| claimBits mine ≠ claimBits mine → (s.pair = .solo ∨ s.pair = .active ∧ p.unproven = false) →
      ∃ t, exec (.claimLatch bus) s = .next t ∧ withdrawn t) ∧
    (s.ownLatch = true → b ||| claimBits mine ≠ claimBits mine → s.pair = .standby → p.promoteAt.isSome = true → ∃ t, exec (.claimLatch bus) s = .next t ∧ t.pair = .standby ∧
      t.fget PAIR_STATUS PAIR_STATUS.refusal = 5 ∧ t.pairSt.promoteAt = none) ∧
    (s.ownLatch = true → b = claimBits mine → claimBits c = b → s.pair = .active → ∃ t, exec (.claimLatch bus) s = .next t ∧ t.pair = .active ∧
      t.pairSt.won = some mine ∧ t.pairSt.unproven = false ∧ t.pairSt.claims = false) ∧
    (exec .claimSilent s = .next (if s.paired = true ∧ p.validAt.getD 0 + 1000000 ≤ s.now then flag PAIR_FLAGS PAIR_FLAGS.claim_silent s else s)) ∧
    (s.pair ≠ .standby → exec (.claimSynEdge units) s = .next s) ∧
    (s.pair = .standby →
      let rel : Int := ((s.now * 2048 + units.toNat : Nat) : Int) - ((s.frameEdge + 20000) * 2048 : Nat) - sext 16 (cutReg s.cut.live PAIR_DELAY).toNat
      let raw := rel - max 0 (divRoundI rel 102400000) * 102400000
      let skew := sext 16 (s.fget PAIR_SKEW PAIR_SKEW.skew)
      (s.fget PAIR_SKEW PAIR_SKEW.valid = 0 ∨ (raw - skew).natAbs ≤ 512 →
        exec (.claimSynEdge units) s = .next (setPair { p with skewBad := false, raws := (raw :: p.raws).take 64 } s)) ∧
      (s.fget PAIR_SKEW PAIR_SKEW.valid = 1 → 512 < (raw - skew).natAbs →
        exec (.claimSynEdge units) s = .next (flag PAIR_FLAGS PAIR_FLAGS.skew_jump (suspectOpen (setPair { p with skewBad := true } s))))) ∧
    (s.pair ≠ .standby → exec .promoteRequest s = .next (refusePromotion 1 s)) ∧
    (s.pair = .standby → p.statusAt = none → s.fget PAIR_STATUS PAIR_STATUS.bus_carat / 8 ≠ 8191 →
      exec .promoteRequest s = .next (fset PAIR_STATUS PAIR_STATUS.promoting 1 (setPair { p with promoteAt := some (s.now - 2000) } s))) ∧
    (∀ z, p.promoteAt = some z → exec .promoteTimeout s = .next (if z + 1800000 ≤ s.now ∧ ¬(p.claims = true ∧ ∃ y, p.slot = some y ∧ s.now ≤ y + 12500)
      then refusePromotion 4 s else s)) ∧
    (∀ h, s.pair = .active → p.handover = some h → h + 1000 ≤ s.now → s.scRuns = true → cellOn (s.planeOf tgtSc) 3 0 av = true → (s.axis av).on = false →
      (s.axis av).fault = false → s.fget (SC_AXIS_EXC av) SC_AXIS_EXC.exc_on = 1 → cutF (s.planeOf tgtSc) (SC_AXIS_CFG av) SC_AXIS_CFG.mode = 1 →
      ∃ t, exec (.excitationTakeover av level) s = .next t ∧ t.axis av = { s.axis av with on := true, level := min 150 level.toNat } ∧
        t.fget (SC_AXIS_STATUS av) SC_AXIS_STATUS.exc_state = (if (s.axis av).reversed then 2 else 1) ∧ OnlyRegs [SC_AXIS_STATUS av] s t) ∧
    (s.pair ≠ .active → exec (.excitationTakeover av level) s = .next s) ∧
    (∀ k, s.sf.tick = some k → s.time.running = true → p.beatK ≠ some k → k * 100000 + 5000 ≤ s.now →
      let both := fun n => decide (s.sfState 0 = n ∧ s.sfState 1 = n)
      let well := !p.chipSince && !s.chipFault && ((s.pair = .solo && both 4) || (s.pair = .active && both 4 && p.budgetTick = some k) || (s.pair = .standby && both 5))
      exec .heartbeatToggle s = .next (setPair { p with beatK := some k, chipSince := s.chipFault, heartbeat := if well then !p.heartbeat else p.heartbeat } s)) ∧
    (∀ k, s.sf.tick = some k → p.beatK = some k ∨ s.now < k * 100000 + 5000 → exec .heartbeatToggle s = .next s) ∧
    (s.takes PAIR_CMD →
      (s.mode ≠ .configured → exec (.rejoin q) s = .next (discardWrite q PAIR_CMD s)) ∧
      (s.mode = .configured → s.pair ≠ .withdrawn → exec (.rejoin q) s = .next (completeOk q (PAIR_CMD + 1) s)) ∧
      (s.mode = .configured → s.pair = .withdrawn → ∃ t, exec (.rejoin q) s = .next t ∧ (t.req q).status = 0 ∧ t.pair = .standby ∧ t.mode = .configured) ∧
      (s.mode ≠ .loader → (s.pair = .solo ∨ s.pair = .active) → ∃ t, exec (.withdraw q) s = .next t ∧ (t.req q).status = 0 ∧ withdrawn t) ∧
      (s.mode = .loader ∨ s.pair = .standby ∨ s.pair = .withdrawn → exec (.withdraw q) s = .next (completeOk q (PAIR_CMD + 1) s)))

/-- BUDGET_SEND, LOOPS_SEND, STATUS_SEND, SUMMARY_SEND, PAIR_MESSAGE and SUMMARY_COMPARE_TIMEOUT. An ACTIVE unit sends BUDGET once a tick with the 390
sums of both channels, low word first, and LOOPS every 20 µs with 64 words; a paired unit sends STATUS every millisecond and on a change of its
content, and SUMMARY once for a frame that is done, whose tallies it then forgets. A number already taken is dropped. A new STATUS is held with its
instant and its hop count; a BUDGET of the same schedule and set makes each sum of a standby's channels one lump and its budget state fresh, one of
another schedule is flagged and changes no sum. After 10 ms a summary that waits is forgotten, and no other. The model's own choices and readings that
it rests on stand in log entries 95, 99 and 101. (R426, R450, R451, R452, R454, R455, R457, R458) -/
def Obligations.PairMessagesCarryAndApplyState : Prop :=
  ∀ (lane : Fin 32) (frame : Word) (x : Fin 2) (s : State),
    let p := s.pairSt
    let set := s.sf.set.getD []
    let r := takePacket lane 5 s
    let seq := fun ws : List Word => (nth 0 ws 1).toNat
    let type := fun ws : List Word => (nth 0 ws 0).toNat % 256
    (∀ k, s.pair = .active → s.sf.tick = some k → p.budgetSent ≠ some k → ∃ body,
      exec .budgetSend s = .next (sendMessage 1 body (setPair { p with budgetSent := some k, budgetTick := if s.pairQueues then some k else p.budgetTick } s)) ∧ body.length = 780 ∧
      ∀ y e w, y < 2 → e < 65 → w < 3 → nth 0 body (390 * y + 6 * e + 2 * w) = BitVec.ofNat 32 ((s.sfc y).sum set k w e) ∧
        nth 0 body (390 * y + 6 * e + 2 * w + 1) = BitVec.ofNat 32 ((s.sfc y).sum set k w e / 2 ^ 32)) ∧
    (∀ k, s.sf.tick = some k → p.budgetSent = some k → exec .budgetSend s = .next s) ∧
    (s.pair ≠ .active → exec .budgetSend s = .next s ∧ exec .loopsSend s = .next s) ∧
    (s.pair = .active → p.loopsAt + 20000 ≤ s.now → ∃ body,
      exec .loopsSend s = .next (sendMessage 2 body (setPair { p with loopsAt := s.now } s)) ∧ body.length = 64 ∧
      ∀ i, i < 16 → let l := if i < 8 then i else 48 + i
        nth 0 body (4 * i) = BitVec.ofNat 32 (toBits 24 (s.loop_ l).uPrev) ∧
        (s.loopResonant l = false → nth 0 body (4 * i + 1) = BitVec.ofNat 32 (toBits 40 (s.loop_ l).sp) ∧
          nth 0 body (4 * i + 2) = BitVec.ofNat 32 (toBits 32 (s.loop_ l).v))) ∧
    (s.paired = true → (p.statusSentAt + 1000000 ≤ s.now ∨ s.statusContent ≠ p.statusSent) →
      exec .statusSend s = .next (sendMessage 3 s.statusBody (setPair { p with statusSentAt := s.now, statusSent := s.statusContent } s))) ∧
    (s.paired = false ∨ s.now < p.statusSentAt + 1000000 ∧ s.statusContent = p.statusSent → exec .statusSend s = .next s) ∧
    (s.paired = true → p.shotFrames.contains frame.toNat = true → frame.toNat = s.frameNum ∨ (frame.toNat + 1) % 2 ^ 32 = s.frameNum → s.frameDone frame.toNat = true → (look (fun _ => (0, [])) p.own frame.toNat).2 = [] →
      ∃ t ws, exec (.summarySend frame) s = .next t ∧ ws.length = 24 ∧ look (fun _ => (0, [])) t.pairSt.own frame.toNat = (s.now, ws) ∧
        (∀ g, g < 6 → let v := look (fun _ => (0, 0, 0)) p.tally (frame.toNat * 8 + g)
          nth 0 ws (4 * g) = BitVec.ofNat 32 v.1 ∧ nth 0 ws (4 * g + 1) = BitVec.ofNat 32 v.2.1 ∧ nth 0 ws (4 * g + 2) = BitVec.ofNat 32 v.2.2 ∧
          look (fun _ => (0, 0, 0)) t.pairSt.tally (frame.toNat * 8 + g) = (0, 0, 0)) ∧
        look (fun _ => 0) t.pairSt.sent 4 = (look (fun _ => 0) p.sent 4 + 1) % 2 ^ 32) ∧
    (s.paired = false ∨ p.shotFrames.contains frame.toNat = false → exec (.summarySend frame) s = .next s) ∧
    (r.2 = none → exec (.pairMessage lane) s = .next r.1) ∧
    (∀ ws, r.2 = some ws → 4 ≤ ws.length → 1 ≤ type ws → type ws ≤ 4 →
      let last := look (fun _ => 0) p.accepted (type ws)
      (last = seq ws + 1 → exec (.pairMessage lane) s = .next r.1) ∧
      (type ws = 3 → (last = 0 ∨ last = seq ws) → ∃ t, exec (.pairMessage lane) s = .next t ∧ t.pairSt.status = ws ∧ t.pairSt.statusAt = some s.now ∧
        t.pairSt.hop = some (nth 0 ws 5).toNat ∧ look (fun _ => 0) t.pairSt.accepted 3 = seq ws + 1 ∧
        t.fget PAIR_STATUS PAIR_STATUS.sched_match = (if nth 0 ws 2 = s.reg PAIR_SCHED then 1 else 0)) ∧
      (type ws = 1 → (last = 0 ∨ last = seq ws) → s.pair = .standby →
        ((nth 0 ws 2 ≠ s.reg PAIR_SCHED ∨ nth 0 ws 3 ≠ s.reg SF_SET_DIGEST) → ∃ t, exec (.pairMessage lane) s = .next t ∧
          t.rbit PAIR_FLAGS PAIR_FLAGS.sched_mismatch.lo = true ∧ t.sf = s.sf ∧ t.pairSt.budgetAt = p.budgetAt) ∧
        (nth 0 ws 2 = s.reg PAIR_SCHED → nth 0 ws 3 = s.reg SF_SET_DIGEST → (nth 0 ws 0).toNat / 256 % 4 = 1 → s.sfOn x = true →
          ∃ t, exec (.pairMessage lane) s = .next t ∧ t.pairSt.budgetAt = some s.now ∧ t.sfHas x 7 = false ∧ (t.sfc x).atLimit = false ∧
            ∀ e w, e < 65 → w < 3 → windowLen set w ≠ 0 → (t.sfc x).sum set s.tick w e =
              (nth 0 ws (4 + 390 * x + 6 * e + 2 * w)).toNat + (nth 0 ws (5 + 390 * x + 6 * e + 2 * w)).toNat * 2 ^ 32))) ∧
    (∃ t, exec (.summaryCompareTimeout frame) s = .next t ∧ OnlyParts [.pairSt] s t ∧
      (∀ e, e ∈ t.pairSt.own ↔ (e ∈ p.own ∧ ¬(e.1 = frame.toNat ∧ e.2.1 + 10000000 ≤ s.now))) ∧
      (∀ e, e ∈ t.pairSt.theirs ↔ (e ∈ p.theirs ∧ ¬(e.1 = frame.toNat ∧ e.2.1 + 10000000 ≤ s.now))))

/-- SUPPLY_MONITOR_CHANGE, DOMAIN_FAULT, DOMAIN_RESTART, DOMAIN_GOOD and DOMAIN_SWITCH_OFF. A monitor that repeats its report changes nothing; one that
reports a rail good again shows it, and brings OFF to LOADER once no rail of step 1 is bad. A rail of step 1 that goes bad after start-up resets the
device with the cause of its domain and leaves it OFF, any other faults every domain that is on and good on it. A domain whose power good drops reads
fault, off and not good, and isolates its block, fences its region, or leaves its safety channel in INIT. A restart in CONFIGURED waits for HK's next
round; there it clears the flags that it names, ends the fault of the block domains among them, switches on those the plane uses, and touches no
other; outside CONFIGURED it is discarded with ACCESS. A domain that is on and whose rails are good reports good and takes part. A domain that the new
plane disables is switched off once its records are drained. The model's own choices and readings that it rests on stand in log entries 34, 35, 36 and
37. (R473, R475, R477, R478, R479) -/
def Obligations.DomainsFaultRestartAndSwitch : Prop :=
  ∀ (q : Requester) (rail : Fin 10) (dv : Fin 70) (word : Fin 3) (data : Word) (good : Bool) (s : State),
    let r := rail.val
    let d := dv.val
    let block := fun n => n < 48 ∨ (54 ≤ n ∧ n < 58) ∨ (59 ≤ n ∧ n < 63)
    let noted := fun t : State => if r = 3 then { t with hk := { t.hk with adcGoodAt := t.now } } else t
    let fset1 := fun v => fset (HK_SUP r) HK_SUP.good v { s with hk := { s.hk with bad := s.hk.bad ^^^ 2 ^ r } }
    let off := fun (n : Nat) (t : State) => t.domFault n = true ∧ t.domOn n = false ∧ t.domGood n = false
    (good = !s.hk.bad.testBit r → exec (.supplyMonitorChange rail good) s = .next s) ∧
    (s.hk.bad.testBit r = true → r ≠ 9 → exec (.supplyMonitorChange rail true) s = .next (showPower (noted (fset1 1)))) ∧
    (s.hk.bad.testBit r = false → s.time.running = true → s.fget MODE_STATUS MODE_STATUS.startup_done = 1 →
      ((r = 0 ∨ r = 6) → exec (.supplyMonitorChange rail false) s = .next (showPower (resetDevice 4 false (setFlag HK_SUP_FLAGS r (fset1 0))))) ∧
      (r = 1 → exec (.supplyMonitorChange rail false) s = .next (showPower (resetDevice 5 false (setFlag HK_SUP_FLAGS r (fset1 0))))) ∧
      ((r = 2 ∨ r = 3 ∨ r = 4 ∨ r = 5 ∨ r = 7 ∨ r = 8) → ∃ t, exec (.supplyMonitorChange rail false) s = .next t ∧
        t.hk.bad.testBit r = true ∧ ∀ n, n < 70 → (domRails n).contains r = true → s.domOn n = true → s.domGood n = true → off n t)) ∧
    (s.domOn d = true → s.domGood d = true →
      (d = 66 → exec (.domainFault dv) s = .next (resetDevice 4 false s)) ∧ (d = 69 → exec (.domainFault dv) s = .next (resetDevice 5 false s)) ∧
      (d ≠ 66 → d ≠ 69 → ∃ t, exec (.domainFault dv) s = .next t ∧ off d t ∧
        (∀ n, n < 70 → n ≠ d → t.domOn n = s.domOn n ∧ t.domFault n = s.domFault n) ∧
        (d < 48 → t.isolated (rxRegion d) (rxBlock d) = true) ∧ (48 ≤ d → d < 54 → t.fenced (d - 40) = true) ∧
        (54 ≤ d → d < 58 → t.isolated 4 (d - 54) = true) ∧ (59 ≤ d → d < 63 → t.isolated 5 (d - 59) = true) ∧
        (d = 58 → t.fenced 4 = true) ∧ (d = 63 → t.fenced 6 = true) ∧ (d = 64 → t.fenced 3 = true) ∧ (d = 65 → t.fenced 1 = true) ∧
        (d = 67 → t.sfState 0 = 0) ∧ (d = 68 → t.sfState 1 = 0))) ∧
    (s.domOn d = false ∨ s.domGood d = false → exec (.domainFault dv) s = .next s) ∧
    (s.takes (PWR_DOM_FAULT word) →
      (s.mode ≠ .configured → exec (.domainRestart q word data) s = .next (discardWrite q (PWR_DOM_FAULT word) s)) ∧
      (s.mode = .configured → exec (.domainRestart q word data) s = .next (completeOk q (PWR_DOM_FAULT word + 1) (hkWrite (PWR_DOM_FAULT word) data s)))) ∧
    (let t := applyHkWrite (PWR_DOM_FAULT word) data s;
      OnlyRegs [PWR_DOM_FAULT word, PWR_DOM_ON word, PWR_DOM_GOOD word] s t ∧
        ∀ i, i < 32 → let n := 32 * word.val + i
          (data.getLsbD i = true → (t.reg (PWR_DOM_FAULT word)).getLsbD i = false) ∧
          (data.getLsbD i = true → s.domFault n = true → block n → t.domFault n = false ∧
            ((planeDomains s.cut.live).contains n = true → t.domOn n = true ∧ t.domGood n = false) ∧
            ((planeDomains s.cut.live).contains n = false → t.domOn n = s.domOn n)) ∧
          ((data.getLsbD i = false ∨ s.domFault n = false ∨ ¬block n) → t.domFault n = s.domFault n ∧ t.domOn n = s.domOn n ∧ t.domGood n = s.domGood n)) ∧
    (s.time.running = true → s.domOn d = true → s.domGood d = false → s.railsGood d = true → ∃ t, exec (.domainGood dv) s = .next t ∧
      t.domGood d = true ∧ t.domOn d = true ∧ (d < 48 → t.isolated (rxRegion d) (rxBlock d) = false) ∧
      (54 ≤ d → d < 58 → t.isolated 4 (d - 54) = false) ∧ (59 ≤ d → d < 63 → t.isolated 5 (d - 59) = false)) ∧
    (s.domOn d = false ∨ s.domGood d = true ∨ s.railsGood d = false → exec (.domainGood dv) s = .next s) ∧
    (s.hk.toSwitchOff.contains d = true → s.cut.waiting = [] → s.domDrained d = true → ∃ t, exec (.domainSwitchOff dv) s = .next t ∧
      t.domOn d = false ∧ t.domGood d = false ∧ t.hk.toSwitchOff.contains d = false ∧ t.domFault d = s.domFault d) ∧
    (s.hk.toSwitchOff.contains d = false ∨ s.domDrained d = false → exec (.domainSwitchOff dv) s = .next s)

/-- HK_ROUND: channel readings, the high crossing and its action, junction protection and the rails. A round runs once in each 10 ms, in its first 100 µs,
while HK runs, and not otherwise. It shows what each enabled channel reads. A usable reading above the high limit counts; the third running sets the
flag and the crossing, and with the action bit the chip-level reaction; a reading within the limits ends the count. A rail with a usable result shows
its millivolts, its monitor and whether it lies in its window; one without shows not valid. Three rounds with an on-die sensor at 120 °C or more set
junction_hot. The model's own choices and readings that it rests on stand in log entries 102 and 103. (R464, R465, R467, R468, R471, R472, R474) -/
def Obligations.HousekeepingRoundsJudgeTemperatures : Prop :=
  ∀ (die : List (Fin 14 × Word)) (c : Nat) (w : Word) (r : Nat) (s : State),
    let n := s.now / 10000000
    let x := s.hkChan c
    let due := s.hkRuns = true ∧ s.hk.round ≠ some n ∧ s.now % 10000000 ≤ 100000
    let plain := s.cut.waiting = [] ∧ s.hk.writes = []
    let hi := sext 16 (getF HK_T_LIM.high (s.reg (HK_T_LIM c))) * 10
    let read := 16 ≤ c ∧ c < 29 ∧ s.channelWord die c = some w ∧ s.fget (HK_T_CFG c) HK_T_CFG.en = 1 ∧ usable w = true
    let rail := ((s.entryOf 53 (fun e => Ent.input e = r && Ent.gain e = 0 && Ent.ref e = 0)).map (fun e => s.reg (ADC_RES_VAL 53 e))).filter usable
    (¬due → exec (.hkRound die) s = .next s) ∧
    (due → plain → ∃ t, exec (.hkRound die) s = .next t ∧ t.hk.round = some n ∧
      (16 ≤ c → c < 29 → s.channelWord die c = some w → s.fget (HK_T_CFG c) HK_T_CFG.en = 1 → t.reg (HK_T_VAL c) = w) ∧
      (16 ≤ c → c < 29 → s.channelWord die c = none → t.reg (HK_T_VAL c) = invalidWord) ∧
      (read → s.crossOff c 1 = false → s.fget (HK_T_FLAGS c) (crossActive 1) = 0 → s.crossOff c 0 = true → s.crossOff c 2 = true →
        (hi < resValue w → x.high < 2 → (t.hkChan c).high = x.high + 1 ∧ t.fget (HK_T_FLAGS c) (crossActive 1) = 0) ∧
        (hi < resValue w → x.high = 2 → t.rbit (HK_T_FLAGS c) 1 = true ∧ t.fget (HK_T_FLAGS c) (crossActive 1) = 1 ∧ (t.hkChan c).high = 0 ∧
          (s.fget (HK_T_CFG c) (crossAction 1) = 1 → ChipCause.temp c 1 ∈ t.startup.chip ∧ t.mode ≠ .armed ∧ t.mode ≠ .run)) ∧
        (resValue w ≤ hi → (t.hkChan c).high = 0 ∧ t.fget (HK_T_FLAGS c) (crossActive 1) = 0)) ∧
      (read → 120000 ≤ resValue w → 2 ≤ look (fun _ => 0) s.hk.hot c → s.fget HK_STATUS HK_STATUS.junction_hot = 0 →
        t.fget HK_STATUS HK_STATUS.junction_hot = 1 ∧ ChipCause.junction ∈ t.startup.chip) ∧
      (r < 10 → rail = none → t.fget (HK_SUP r) HK_SUP.valid = 0 ∧ t.fget (HK_SUP r) HK_SUP.good = b2n (!s.hk.bad.testBit r)) ∧
      (∀ v, r < 10 → rail = some v → t.fget (HK_SUP r) HK_SUP.valid = 1 ∧ t.fget (HK_SUP r) HK_SUP.good = b2n (!s.hk.bad.testBit r) ∧
        t.fget (HK_SUP r) HK_SUP.mv = (divRoundI (resValue v * 2500) (2 ^ 23)).toNat % 2 ^ HK_SUP.mv.width ∧
        (railWithin r (divRoundI (resValue v * 2500) (2 ^ 23)).toNat 0 = true → look (fun _ => 0) s.hk.outside r < 3 →
          t.fget (HK_SUP r) HK_SUP.in_window = 1)))

/-- RESET_N_ASSERT, RESET_N_RELEASE, STARTUP_START, RUN, STOP, RESET_CHIP and MODE_BAD_COMMAND. RESET_N holds the device in reset with cause 2: every
register but those that show an input, the log head and the cause reads its reset word, and flash, keys, passwords, stored set, log and the saved
counters survive. Its release makes start-up ready. Start-up begins TBASE at 0, locks, and counts a power cycle. RUN takes ARMED to RUN and begins
service shooting in SERVICE with both channels in PERMIT; STOP ends either; both are else refused with code 1. RESET_CHIP with its key, outside ARMED,
RUN and shooting, begins a reset 5 µs later; it is else refused with code 3 or 1. Another command is refused with code 2. The last command and refusal
show in MODE_STATUS. The model's own choices and readings that it rests on stand in log entries 19, 34, 35, 39, 40 and 110. (R560, R561, R562, R501,
R570, R571, R572, R576, R577) -/
def Obligations.ResetsAndModeCommands : Prop :=
  ∀ (q : Requester) (lockNs : Nat) (key : BitVec 16) (v : BitVec 4) (s : State),
    let shown := fun (c r : Nat) (t : State) => t.fget MODE_STATUS MODE_STATUS.command = c ∧ t.fget MODE_STATUS MODE_STATUS.refusal = r
    let answer := fun (c r : Nat) => completeOk q (MODE_CMD + 1) (fsets MODE_STATUS [(MODE_STATUS.command, c), (MODE_STATUS.refusal, r)] s)
    let c := s.mgmt.chip
    (∃ t, exec .resetNAssert s = .next t ∧ t.startup.inReset = true ∧ t.startup.cause = 2 ∧ t.fget RESET_CAUSE RESET_CAUSE.cause = 2 ∧ t.mode = resetMode s.hk.bad ∧ t.tap = s.tap ∧
      t.time = State.reset.time ∧ t.cut = State.reset.cut ∧ t.tx = State.reset.tx ∧ t.lk = State.reset.lk ∧ t.aq = State.reset.aq ∧ t.sc = State.reset.sc ∧
      (∀ a, a ∉ [RESET_CAUSE, SF_LOG_HEAD, SF_STATUS, SF_CAUSE] → t.reg a = State.reset.reg a) ∧
      t.fw.image = s.fw.image ∧ t.fw.keys = s.fw.keys ∧ t.fw.revoked = s.fw.revoked ∧ t.fw.minSec = s.fw.minSec ∧ t.fw.settings = s.tornFw.settings ∧ (s.fw.halfAt = none → t.fw.settings = s.fw.settings) ∧
      t.sf.stored = s.sf.stored ∧ t.sf.pwdA = s.sf.pwdA ∧ t.sf.pwdB = s.sf.pwdB ∧ t.sf.log = s.sf.log ∧ t.sf.logSeq = s.sf.logSeq ∧
      t.mgmt.chip.flash = c.flash ∧ t.mgmt.chip.hours = c.hours ∧ t.mgmt.chip.cycles = c.cycles ∧ t.hk.bad = s.hk.bad ∧ t.pending = s.pending ∧
      t.fget SF_STATUS SF_STATUS.estop_a = s.fget SF_STATUS SF_STATUS.estop_a) ∧
    (s.startup.inReset = true → s.startup.cause = 2 → s.hk.bad.testBit 9 = false →
      exec .resetNRelease s = .next { s with startup := { s.startup with inReset := false, ready := true } }) ∧
    (s.startup.inReset = true → s.startup.cause = 2 → s.hk.bad.testBit 9 = true → exec .resetNRelease s = .next { s with startup := { s.startup with cause := 1 } }) ∧
    (s.startup.inReset = false ∨ s.startup.cause ≠ 2 → exec .resetNRelease s = .next s) ∧
    (s.mayStart = false → exec (.startupStart lockNs) s = .next s) ∧
    (s.mayStart = true → ∃ t, exec (.startupStart lockNs) s = .next t ∧ t.time.tbase = 0 ∧ t.time.running = true ∧
      t.fget TIME_STATUS TIME_STATUS.locked = 1 ∧ t.startup.ready = false ∧ t.startup.lockNs = lockNs ∧ t.mgmt.chip.cycles = satAdd 65535 c.cycles 1 ∧
      t.mgmt.chip.hours = BitVec.ofNat 32 (satAdd 0xFFFFFFFF (max c.hours.toNat c.hoursSaved.toNat) ((c.hoursNs + lockNs) / 14062500000)) ∧
      (t.fget MODE_STATUS MODE_STATUS.phase = 2 ∨ t.fget MODE_STATUS MODE_STATUS.phase = 3)) ∧
    (s.takes MODE_CMD →
      (s.mode = .armed → ∃ t, exec (.run q) s = .next t ∧ (t.req q).status = 0 ∧ t.mode = .run ∧ shown 1 0 t ∧ t.shooting = true ∧
        t.fget TX_SCHED_STATUS TX_SCHED_STATUS.frame_wait = b2n (!s.rbit TIME_STATUS TIME_STATUS.frame_sync_present.lo) ∧ OnlyRegs [ MODE_STATUS, TX_SCHED_STATUS] s t) ∧
      (s.mode = .service → s.sfState 0 = 4 → s.sfState 1 = 4 → ∃ t, exec (.run q) s = .next t ∧ (t.req q).status = 0 ∧ t.mode = .service ∧ shown 1 0 t ∧ t.shooting = true) ∧
      (s.mode ≠ .armed → (s.mode ≠ .service ∨ s.sfState 0 ≠ 4 ∨ s.sfState 1 ≠ 4) → exec (.run q) s = .next (answer 1 1)) ∧
      (s.mode = .run → ∃ t, exec (.stop q) s = .next t ∧ (t.req q).status = 0 ∧ t.mode = .armed ∧ shown 2 0 t ∧ t.shooting = false ∧ t.tx.shooting = false) ∧
      (s.mode = .service → s.shooting = true → ∃ t, exec (.stop q) s = .next t ∧ (t.req q).status = 0 ∧ t.mode = .service ∧ shown 2 0 t ∧ t.shooting = false) ∧
      (s.mode ≠ .run → s.shooting = false → exec (.stop q) s = .next (answer 2 1)) ∧
      (key ≠ 0x5253 → exec (.resetChip q key) s = .next (answer 3 3) ∧ exec (.modeBadCommand q 3 key) s = .next (answer 3 3)) ∧
      (s.mode = .armed ∨ s.mode = .run ∨ s.shooting = true → exec (.resetChip q 0x5253) s = .next (answer 3 1)) ∧
      (s.mode ≠ .armed → s.mode ≠ .run → s.shooting = false → ∃ t, exec (.resetChip q 0x5253) s = .next t ∧ (t.req q).status = 0 ∧ shown 3 0 t ∧
        t.startup.resetAt = some (s.now + 5000) ∧ t.mode = s.mode ∧ OnlyRegs [ MODE_STATUS] s t) ∧
      (v.toNat = 0 ∨ 4 ≤ v.toNat → exec (.modeBadCommand q v key) s = .next (answer v.toNat 2)))

/-- RECORD_WRITE, RECORD_COPY, FLASH_MIRROR, HOURS_SAVE, REC_DATA_READ, FETCH, FETCH_DONE and CLEAR. A write that ends puts its record into the region's
ring of 64 under the region sequence, and hands a record that propagates to the chip recorder with its copied bit. A copy enters the ring of 4,096
under the chip sequence and waits for flash; one too many waiting sets flash_lost. The mirror moves the oldest to flash, except in a pause. A read of
REC_DATA_0 latches the record under the cursor and moves past it; a cursor at or beyond the head reads zeros and stays; one behind the store reads the
oldest and sets skipped; flash reads what FETCH brought. FETCH queues the cursor, or is refused BUSY in a pause. CLEAR needs presence, completes a
write in progress, empties the stores named, and writes CLEARED first; no sequence is reset. That the copied bit is set at the writing and that
FETCHes queue is the model's choice (entry 10). The model's own choices and readings that it rests on stand in log entries 10, 32, 104 and 105. (R498,
R500, R501, R502, R503, R522) -/
def Obligations.RecordsAreWrittenCopiedMirroredReadAndCleared : Prop :=
  ∀ (q : Requester) (region : Fin 16) (s : State),
    let x := s.recorder region
    let c := s.mgmt.chip
    let r := s.req q
    let st := s.store r.recSel
    let d := (st.2 - r.recCursor).toNat
    let held := (st.2 - storeOldest st).toNat
    let pausing := s.fget FW_STATUS FW_STATUS.pausing = 1
    let latched := fun (e : Rec) (t : State) => (t.req q).status = 0 ∧ (t.req q).data = e.w0 ∧ (t.req q).recData = e.words ∧ (t.req q).recCursor = e.w7 + 1
    let nothing := fun (t : State) => (t.req q).status = 0 ∧ (t.req q).data = 0 ∧ (t.req q).recData = List.replicate 8 (0 : Word) ∧ (t.req q).recCursor = r.recCursor ∧ t.regs = s.regs
    (x.writing = none → exec (.recordWrite region) s = .next s) ∧
    (∀ e, x.writing = some e →
      let kept := { e with w7 := x.seq, w6 := if s.propagates e then setBit 25 e.w6 else e.w6 }
      ∃ t, exec (.recordWrite region) s = .next t ∧ (t.recorder region).ring = pushRing 64 x.ring kept ∧ (t.recorder region).seq = x.seq + 1 ∧
        t.mgmt.chip.copies = (if s.propagates e then c.copies ++ [kept] else c.copies) ∧
        (x.seq + 1 ≠ 0 → t.regs = s.regs ∧ (x.fifo = [] → (t.recorder region).writing = none) ∧
          (∀ f rest, x.fifo = f :: rest → (t.recorder region).writing = some f ∧ (t.recorder region).dropped = 0 ∧
            (x.dropped = 0 → (t.recorder region).fifo = rest) ∧ (0 < x.dropped → ∃ l, (t.recorder region).fifo = rest ++ [l] ∧ l.w1 = BitVec.ofNat 32 x.dropped))) ∧
        (x.seq + 1 = 0 → t.fget REC_STATUS REC_STATUS.wrap = 1)) ∧
    (c.copies = [] → exec .recordCopy s = .next s) ∧
    (∀ e rest, c.copies = e :: rest → ∃ t, exec .recordCopy s = .next t ∧ t.mgmt.chip.copies = rest ∧ t.mgmt.chip.seq = c.seq + 1 ∧
      t.mgmt.chip.ring = pushRing 4096 c.ring { e with w7 := c.seq } ∧
      (c.unmirrored.length < 4096 → t.mgmt.chip.unmirrored = c.unmirrored ++ [{ e with w7 := c.seq }]) ∧
      (4096 ≤ c.unmirrored.length → t.fget REC_STATUS REC_STATUS.flash_lost = 1) ∧
      (c.unmirrored.length < 4096 → c.seq + 1 ≠ 0 → t.regs = s.regs)) ∧
    (∀ e rest, c.unmirrored = e :: rest → exec .flashMirror s = .next (if pausing then s else
      { s with mgmt := { s.mgmt with chip := { c with unmirrored := rest, flash := pushRing 65536 c.flash e, flashSeq := e.w7 + 1 } } })) ∧
    (c.unmirrored = [] → exec .flashMirror s = .next s) ∧
    exec .hoursSave s = .next { s with mgmt := { s.mgmt with chip := { c with hoursSaved := c.hours } } } ∧
    (s.answers = true → r.recSel ≠ 15 → (d = 0 ∨ 2 ^ 31 < d) → ∃ t, exec (.recDataRead q) s = .next t ∧ nothing t) ∧
    (s.answers = true → r.recSel ≠ 15 → 0 < d → d ≤ held → d ≤ 2 ^ 31 → ∀ e, st.1.find? (fun y => decide ((y.w7 - r.recCursor).toNat < d)) = some e →
      ∃ t, exec (.recDataRead q) s = .next t ∧ latched e t ∧ t.regs = s.regs) ∧
    (s.answers = true → r.recSel ≠ 15 → held < d → d ≤ 2 ^ 31 → ∀ e, st.1.head? = some e →
      ∃ t, exec (.recDataRead q) s = .next t ∧ latched e t ∧ t.fget REC_STATUS REC_STATUS.skipped = 1) ∧
    (s.answers = true → r.recSel = 15 → r.fetched = none → ∃ t, exec (.recDataRead q) s = .next t ∧ nothing t) ∧
    (∀ e, s.answers = true → r.recSel = 15 → r.fetched = some e → ∃ t, exec (.recDataRead q) s = .next t ∧ latched e t ∧ (t.req q).fetched = none ∧ t.regs = s.regs) ∧
    (s.takes REC_CMD →
      exec (.fetch q) s = .next (completeOk q (REC_CMD + 1) (if pausing then flag FW_FLAGS FW_FLAGS.cmd_refused (fset FW_RESULT FW_RESULT.refusal 1 s)
        else fset REC_STATUS REC_STATUS.busy 1 { s with mgmt := { s.mgmt with fetching := s.mgmt.fetching ++ [(q.val, r.recCursor)] } }))) ∧
    (s.mgmt.fetching = [] → exec .fetchDone s = .next s) ∧
    (∀ p cursor rest, s.mgmt.fetching = (p, cursor) :: rest → ∃ t, exec .fetchDone s = .next t ∧ t.mgmt.fetching = rest ∧
      t.fget REC_STATUS REC_STATUS.busy = b2n (rest ≠ []) ∧ (t.req p).fetched = (recFind (c.flash, c.flashSeq) cursor).map Prod.fst) ∧
    (s.takes REC_CMD → s.fget FW_STATUS FW_STATUS.presence ≠ 1 → exec (.clear q) s = .next (discardWrite q REC_CMD s)) ∧
    (s.takes REC_CMD → s.fget FW_STATUS FW_STATUS.presence = 1 → pausing →
      exec (.clear q) s = .next (completeOk q (REC_CMD + 1) (flag FW_FLAGS FW_FLAGS.cmd_refused (fset FW_RESULT FW_RESULT.refusal 1 s)))) ∧
    (s.takes REC_CMD → s.fget FW_STATUS FW_STATUS.presence = 1 → ¬pausing → ∃ t, exec (.clear q) s = .next t ∧ (t.req q).status = 0 ∧
      (14 ≤ r.recSel → r.recSel < 16 → ∃ e, t.mgmt.chip.ring = [e] ∧ t.mgmt.chip.unmirrored = [e] ∧ t.mgmt.chip.seq = c.seq + 1 ∧
        e.w0 = 0x80000004 ∧ e.w1 = BitVec.ofNat 32 (ownerCode q) ∧ e.w7 = c.seq ∧ t.mgmt.chip.flash = (if r.recSel = 15 then [] else c.flash)) ∧
      (∀ g, g < 14 → g ≠ 7 → (r.recSel = g ∨ r.recSel = 15) → s.domGood (domainAt (g * 0x1000000 + 0xFF0000)) = true →
        (t.recorder g).ring = [] ∧
        (g ≠ 0 ∨ r.recSel = 0 ∨ c.seq + 1 ≠ 0 → (t.recorder g).seq = (s.recorder g).seq + (if (s.recorder g).writing = none then 0 else 1)) ∧
        ∃ e, (t.recorder g).writing = some e ∧ e.w0 = BitVec.ofNat 32 (2 ^ 31 + g * 2 ^ 27 + 4) ∧ e.w1 = BitVec.ofNat 32 (ownerCode q)) ∧
      (∀ g, g ≠ r.recSel → r.recSel ≠ 15 → g ≠ 0 → t.recorder g = s.recorder g))

/-- LOUPE_IN_EDGE, LOUPE_ARM, LOUPE_FIRE and LOUPE_LATCH. An armed Loupe fires on an enabled source: it disarms, names the source and its trigger instant,
counts, orders the latch 1,000 ns after that instant, and gives up the snapshots before. Disarmed, it counts and flags an overrun. In the evaluation
slot in which it has fired, a further source joins the cause and a lower code takes the trigger missed. A source not enabled, or the other edge of
LOUPE_IN, does nothing. ARM is accepted in CONFIGURED, ARMED, RUN and SERVICE, and else flagged. From the latch instant on, every block in an unfenced
region with power latches its header and content at the first edge of its own latch clock, stamped with that edge's TBASE and, where the block still
waits for a new plane, with the old epoch; with the last of them Loupe is done. Where the edges of each clock lie is the model's choice (entry 131).
The model's own choices and readings that it rests on stand in log entry 106. (R504, R505, R506, R507, R511) -/
def Obligations.LoupeArmsFiresAndLatches : Prop :=
  ∀ (q : Requester) (instant : BitVec 64) (rising : Bool) (s : State),
    let slot := some (s.now / 10)
    let armed := s.fget LOUPE_STATUS LOUPE_STATUS.armed = 1
    let fires := fun (code tl : Nat) (s t : State) =>
      t.fget LOUPE_STATUS LOUPE_STATUS.armed = 0 ∧ t.fget LOUPE_STATUS LOUPE_STATUS.cause = 2 ^ code ∧ t.fget LOUPE_STATUS LOUPE_STATUS.fired = code ∧
      t.fget LOUPE_STATUS LOUPE_STATUS.count = satAdd 0xFFFF (s.fget LOUPE_STATUS LOUPE_STATUS.count) 1 ∧ t.reg64 LOUPE_TIME_LO = tl % 2 ^ 64 ∧
      t.mgmt.loupe.latchAt = some (tl + 1000) ∧ t.mgmt.loupe.lastSlot = slot ∧ t.mgmt.loupe.snaps = [] ∧
      OnlyParts [.regs, .mgmt] s t ∧ OnlyRegs [LOUPE_STATUS, LOUPE_TIME_LO, LOUPE_TIME_LO + 4] s t
    let missed := fun (s t : State) => t.rbit LOUPE_STATUS LOUPE_STATUS.overrun.lo = true ∧ t.mgmt.loupe = s.mgmt.loupe ∧
      t.fget LOUPE_STATUS LOUPE_STATUS.overruns = satAdd 0x3F (s.fget LOUPE_STATUS LOUPE_STATUS.overruns) 1
    let edge := b2n rising = s.fget LOUPE_CFG LOUPE_CFG.in_pol ∧ (s.fget LOUPE_CFG LOUPE_CFG.src_en).testBit 0 = true
    (¬edge → exec (.loupeInEdge instant rising) s = .next s) ∧
    (edge → s.mgmt.loupe.lastSlot ≠ slot → armed → ∃ t, exec (.loupeInEdge instant rising) s = .next t ∧ fires 0 instant.toNat s t) ∧
    (edge → s.mgmt.loupe.lastSlot ≠ slot → ¬armed → ∃ t, exec (.loupeInEdge instant rising) s = .next t ∧ missed s t) ∧
    (edge → s.mgmt.loupe.lastSlot = slot → ∃ t, exec (.loupeInEdge instant rising) s = .next t ∧ (t.fget LOUPE_STATUS LOUPE_STATUS.cause).testBit 0 = true ∧
      (0 < s.fget LOUPE_STATUS LOUPE_STATUS.fired → t.fget LOUPE_STATUS LOUPE_STATUS.fired = 0 ∧ t.reg64 LOUPE_TIME_LO = instant.toNat ∧
        t.mgmt.loupe.latchAt = some (instant.toNat + 1000)) ∧
      (s.fget LOUPE_STATUS LOUPE_STATUS.fired = 0 → t.mgmt.loupe = s.mgmt.loupe ∧ t.reg64 LOUPE_TIME_LO = s.reg64 LOUPE_TIME_LO)) ∧
    (s.takes LOUPE_CMD →
      exec (.loupeArm q) s = .next (completeOk q (LOUPE_CMD + 1) (if s.mode = .configured ∨ s.mode = .armed ∨ s.mode = .run ∨ s.mode = .service
        then fset LOUPE_STATUS LOUPE_STATUS.armed 1 s else flag LOUPE_STATUS LOUPE_STATUS.cmd_refused s)) ∧
      ((s.fget LOUPE_CFG LOUPE_CFG.src_en).testBit 3 = false → exec (.loupeFire q) s = .next (completeOk q (LOUPE_CMD + 1) s)) ∧
      ((s.fget LOUPE_CFG LOUPE_CFG.src_en).testBit 3 = true → s.mgmt.loupe.lastSlot ≠ slot →
        ∃ u, exec (.loupeFire q) s = .next (completeOk q (LOUPE_CMD + 1) u) ∧ (armed → fires 3 s.now s u) ∧ (¬armed → missed s u))) ∧
    (s.mgmt.loupe.latchAt = none → exec .loupeLatch s = .next s) ∧
    (∀ l, s.mgmt.loupe.latchAt = some l → s.now < l → exec .loupeLatch s = .next s) ∧
    (∀ l, s.mgmt.loupe.latchAt = some l → l ≤ s.now → ∃ t, exec .loupeLatch s = .next t ∧
      ((∀ i ∈ s.loupeBlocks, s.latched i = true ∨ latchEdge i l ≤ s.now) → t.fget LOUPE_STATUS LOUPE_STATUS.done = 1 ∧ t.mgmt.loupe.latchAt = none) ∧
      ((∃ i ∈ s.loupeBlocks, s.latched i = false ∧ s.now < latchEdge i l) → t.regs = s.regs ∧ t.mgmt.loupe.latchAt = some l) ∧
      (∀ i, i ∉ s.loupeBlocks ∨ s.latched i = true ∨ s.now < latchEdge i l →
        look (fun _ => []) t.mgmt.loupe.snaps i = look (fun _ => []) s.mgmt.loupe.snaps i) ∧
      (∀ i, i ∈ s.loupeBlocks → s.latched i = false → latchEdge i l ≤ s.now →
        ∃ (epoch : Word) (index : List Word) (seen : Sparse (List Word)) (drawn : Nat),
        look (fun _ => []) t.mgmt.loupe.snaps i = [w32 (1 + i / 256 * 16 + i % 256 * 256 + s.fget LOUPE_STATUS LOUPE_STATUS.count * 65536),
          w32 (latchEdge i l), w32 (latchEdge i l / 2 ^ 32), s.reg FRAME_NUM, epoch] ++ index ++
          ({ s with fresh := drawn, mgmt := { s.mgmt with loupe := { s.mgmt.loupe with snaps := seen } } } : State).snapWords (i / 256) (i % 256) ∧
        (s.cut.waiting = [] → epoch = s.reg LIVE_EPOCH) ∧
        (8 ≤ i / 256 → epoch = if s.cut.waiting.contains (tgtRx ((i / 256 - 8) * 8 + i % 256)) then s.cut.oldEpoch else s.reg LIVE_EPOCH) ∧
        (i / 256 = 5 → epoch = if s.cut.waiting.contains (tgtLk (i % 256)) then s.cut.oldEpoch else s.reg LIVE_EPOCH) ∧ (i / 256 < 8 → index = []) ∧
        (8 ≤ i / 256 → index.length = 1 ∧ ∀ p, ((s.blk ((i / 256 - 8) * 8 + i % 256)).bufX.toList ++ (s.blk ((i / 256 - 8) * 8 + i % 256)).bufY.toList).find? Pixel.inProgress = some p →
          index = [w32 (p.index % 2 ^ 24)])))

/-- OPEN_UPDATE, OPEN_KEYS, CLOSE, UPDATE_SESSION_EXPIRY, FW_BAD_COMMAND, PRESENCE_OPEN and PRESENCE_CLOSE. OPEN gives the requester the one lock, with a
window of presence, outside LOADER and OFF, outside a pause and while no session is open; else it is refused with BUSY, PRESENCE or MODE, and a busy
lock sets session_busy. CLOSE by the owner frees the lock and programs what is left in the page buffer, once the flash is free; by another it is
refused. Sixty seconds after the owner's last access the lock frees, with session_expired. A command code that names nothing is refused with code 14.
PRESENCE_N low for 100 ms opens the window and flags it; the window closes 60 s after PRESENCE_N rises. The order of OPEN's checks, and the
programming of a partial page at the end of a session, are the model's choice (entry 8). The model's own choices and readings that it rests on stand
in log entries 8, 8 and 32. (R519, R520, R522, R529, R535, R536) -/
def Obligations.SessionsAndPresenceOpenCloseAndExpire : Prop :=
  ∀ (q : Requester) (command : BitVec 4) (s : State),
    let owns := s.ownsSession q = true
    let u : State := if owns then { s with fw := { s.fw with sessionAt := s.now } } else s
    let no := fun (n code : Nat) => completeOk q (FW_CMD + 1) (flag FW_FLAGS FW_FLAGS.cmd_refused (fsets FW_RESULT [(FW_RESULT.command, n), (FW_RESULT.refusal, code)] u))
    let busy := fun (n : Nat) => completeOk q (FW_CMD + 1) (flag FW_FLAGS FW_FLAGS.session_busy
      (flag FW_FLAGS FW_FLAGS.cmd_refused (fsets FW_RESULT [(FW_RESULT.command, n), (FW_RESULT.refusal, 1)] u)))
    let freed := fun (t : State) => t.session = 0 ∧ t.fget FW_STATUS FW_STATUS.owner = 0 ∧ t.fget FW_STATUS FW_STATUS.owner_lane = 0 ∧ t.fw.wrote = false ∧
      (s.flashBusy = false → t.fw.page = [] ∧ t.fw.image = s.fw.page.foldl (fun m e => put (fun _ => 0xFFFFFFFF) m e.1 e.2) s.fw.image) ∧
      (s.flashBusy = true → t.fw.page = s.fw.page ∧ t.fw.image = s.fw.image) ∧ OnlyParts [.regs, .mgmt, .fw, .image] s t ∧
      t.fw.cuts = s.fw.cuts ∧ t.fw.keys = s.fw.keys ∧ t.fw.settings = s.fw.settings ∧ t.ctl = s.ctl
    let late := s.session ≠ 0 ∧ s.fw.sessionAt + 60000000000 ≤ s.now
    let over60 := s.presence = true ∧ s.fw.presenceLow = false ∧ s.fw.presenceRose + 60000000000 ≤ s.now
    (s.takes FW_CMD → ∀ c kind, (c = Instr.openUpdate q ∧ kind = 1) ∨ (c = Instr.openKeys q ∧ kind = 2) →
      (s.pausing = true → exec c s = .next (busy kind)) ∧
      (s.pausing = false → s.presence = false → exec c s = .next (no kind 2)) ∧
      (s.pausing = false → s.presence = true → s.mode = .loader ∨ s.mode = .off → exec c s = .next (no kind 4)) ∧
      (s.pausing = false → s.presence = true → s.mode ≠ .loader → s.mode ≠ .off → s.session ≠ 0 → exec c s = .next (busy kind)) ∧
      (s.pausing = false → s.presence = true → s.mode ≠ .loader → s.mode ≠ .off → s.session = 0 →
        ∃ t, exec c s = .next t ∧ (t.req q).status = 0 ∧ t.session = kind ∧ t.ownsSession q = true ∧ t.fw.sessionAt = s.now ∧ t.fw.sectors = [] ∧
          t.fw.page = s.fw.page ∧ t.fw.wrote = false ∧ t.fget FW_RESULT FW_RESULT.command = kind ∧ t.fget FW_RESULT FW_RESULT.refusal = 0 ∧
          OnlyRegs [FW_STATUS, FW_RESULT] s t ∧ t.fw.image = s.fw.image ∧ t.ctl = s.ctl)) ∧
    (s.takes FW_CMD → s.pausing = true → exec (.close q) s = .next (no 3 1)) ∧
    (s.takes FW_CMD → s.pausing = false → ¬owns → exec (.close q) s = .next (no 3 3)) ∧
    (s.takes FW_CMD → s.pausing = false → owns → ∃ t, exec (.close q) s = .next t ∧ (t.req q).status = 0 ∧ freed t ∧
      t.fget FW_RESULT FW_RESULT.command = 3 ∧ t.fget FW_RESULT FW_RESULT.refusal = 0) ∧
    (late → ∃ t, exec .updateSessionExpiry s = .next t ∧ freed t ∧ t.rbit FW_FLAGS FW_FLAGS.session_expired.lo = true) ∧
    (¬late → exec .updateSessionExpiry s = .next s) ∧
    (s.takes FW_CMD → command.toNat = 0 ∨ 12 < command.toNat → exec (.fwBadCommand q command) s = .next (no command.toNat 14)) ∧
    (1 ≤ command.toNat → command.toNat ≤ 12 → exec (.fwBadCommand q command) s = .next s) ∧
    (s.startup.inReset = true → exec .presenceOpen s = .next s) ∧
    (s.startup.inReset = false → s.presence = true → exec .presenceOpen s = .next { s with fw := { s.fw with presenceLow := true } }) ∧
    (s.startup.inReset = false → s.presence = false → ∃ t, exec .presenceOpen s = .next t ∧ t.presence = true ∧ t.fw = { s.fw with presenceLow := true } ∧
      t.rbit FW_FLAGS FW_FLAGS.presence_opened.lo = true ∧ OnlyRegs [FW_STATUS, FW_FLAGS, REC_LOST, REC_STATUS] s t) ∧
    exec (.presenceClose true) s = .next { s with fw := { s.fw with presenceLow := false, presenceRose := s.now } } ∧
    (over60 → exec (.presenceClose false) s = .next (fset FW_STATUS FW_STATUS.presence 0 s)) ∧
    (¬over60 → exec (.presenceClose false) s = .next s)

/-- FW_DATA_WRITE, FLASH_PROGRAM_DONE, VERIFY, VERIFY_DONE, ACTIVATE, IMAGE_LOADED, READY and READY_TIMEOUT. A taken FW_DATA write buffers its word at
FW_ADDR, advances the address, erases a sector new to the session, starts the page that it completes, and makes the image WRITING; else it is
discarded with ACCESS. A program or erase that ends stores its page or erases its 64 KiB, or flags flash_error and leaves the words outside as they
were. VERIFY and ACTIVATE are the update owner's; ACTIVATE needs a VERIFIED image and no swap on its way. Outside SERVICE it begins the pause, RUN
giving way to ARMED; in SERVICE the image step runs. The image that loads with its digest starts in trial and waits for READY, which the management
processor gives and which ends the pause; another digest, or 100 ms without READY, is fallback. READY writes the settings halves that the image may
write, in its trial to the other slot, then to the half not current; the ROM service image writes none. A failed VERIFY leaves the image WRITING. The
order of the refusals is the model's choice (entry 8). The model's own choices and readings that it rests on stand in log entries 8, 9, 27, 28, 32, 42
and 43. (R514, R517, R518, R520, R521, R522, R525, R528) -/
def Obligations.ImagesAreWrittenVerifiedActivatedAndReady : Prop :=
  ∀ (q : Requester) (data : Word) (failed : Bool) (settings : List (Fin 4 × List Word)) (s : State),
    let erased : Nat → Word := fun _ => 0xFFFFFFFF
    let owns := s.ownsSession q = true ∧ s.session = 1
    let u : State := if s.ownsSession q then { s with fw := { s.fw with sessionAt := s.now } } else s
    let no := fun (n code : Nat) => completeOk q (FW_CMD + 1) (flag FW_FLAGS FW_FLAGS.cmd_refused (fsets FW_RESULT [(FW_RESULT.command, n), (FW_RESULT.refusal, code)] u))
    let accepted := fun (n : Nat) (t : State) => (t.req q).status = 0 ∧ t.fget FW_RESULT FW_RESULT.command = n ∧ t.fget FW_RESULT FW_RESULT.refusal = 0
    let flushed := s.fw.page.foldl (fun m e => put erased m e.1 e.2) s.fw.image
    let a := (s.reg FW_ADDR).toNat
    let fits := owns ∧ s.fget FW_STATUS FW_STATUS.ready = 1 ∧ a < 0x400000
    let fell := fun (t : State) => Reacted .fallback s t ∧ t.ctl = { s.ctl with imageState := 5, seq := s.ctl.seq + 1 } ∧ t.rbit FW_FLAGS FW_FLAGS.fallback.lo = true ∧
      t.fw.header = [] ∧ t.fw.trial = false ∧ t.pausing = false ∧ t.fget FW_STATUS FW_STATUS.in_control = 0 ∧ t.fget RESET_CAUSE RESET_CAUSE.proc = 1 ∧
      (s.cut.inSwap = true → t.fw.romPending = true) ∧ (s.cut.inSwap = false → t.cut.romNext = true ∧ t.cut.swapAt = some (.atTime (s.now + 10000)))
    let swapping := s.cut.swapAt ≠ none ∨ s.cut.inSwap = true
    let unready := s.pausing = true ∧ s.fw.waitReady = true ∧ s.fw.startedAt + 100000000 ≤ s.now
    (s.takes FW_DATA → ¬fits → exec (.fwDataWrite q data) s = .next (discardWrite q FW_DATA u)) ∧
    (s.takes FW_DATA → fits → s.fw.busyPage = [] → s.fw.busySector = none →
      ∃ t, exec (.fwDataWrite q data) s = .next t ∧ (t.req q).status = 0 ∧ t.reg FW_ADDR = BitVec.ofNat 32 (a + 4) ∧ (a / 4, data) ∈ t.fw.page ++ t.fw.busyPage ∧
        t.fw.sessionAt = s.now ∧ t.fw.wrote = true ∧ t.fw.image = s.fw.image ∧ a / 65536 ∈ t.fw.sectors ∧
        (s.fw.wrote = true → t.fw.reach = max s.fw.reach (a + 4) ∧ t.ctl = s.ctl) ∧
        (s.fw.wrote = false → t.fw.reach = a + 4 ∧ t.ctl.imageState = 1 ∧ t.fget FW_STATUS FW_STATUS.image_state = 1) ∧
        (a / 65536 ∉ s.fw.sectors → t.fw.busySector = some (a / 65536) ∧ t.fget FW_STATUS FW_STATUS.ready = 0) ∧
        (a / 65536 ∈ s.fw.sectors → (∀ e ∈ s.fw.page, e.1 / 1024 = a / 4 / 1024 ∧ e.1 % 1024 ≠ 1023) →
          let page := s.fw.page.filter (fun e => e.1 ≠ a / 4) ++ [(a / 4, data)]
          (a / 4 % 1024 ≠ 1023 → t.fw.page = page ∧ t.fget FW_STATUS FW_STATUS.ready = 1) ∧
          (a / 4 % 1024 = 1023 → t.fw.page = [] ∧ t.fw.busyPage = page ∧ t.fget FW_STATUS FW_STATUS.ready = 0)) ∧
        ((∃ e ∈ s.fw.page, e.1 / 1024 ≠ a / 4 / 1024) → t.fw.busyPage = s.fw.page ∧ t.fget FW_STATUS FW_STATUS.ready = 0)) ∧
    (s.fw.busyPage = [] → s.fw.busySector = none → exec (.flashProgramDone failed) s = .next s) ∧
    (s.fw.busyPage ≠ [] → ∃ t, exec (.flashProgramDone failed) s = .next t ∧ t.fw.busySector = s.fw.busySector ∧
      (failed = false → t.fw.image = s.fw.busyPage.foldl (fun m e => put erased m e.1 e.2) s.fw.image ∧ OnlyRegs [FW_STATUS] s t) ∧
      (failed = true → t.rbit FW_FLAGS FW_FLAGS.flash_error.lo = true ∧
        ∀ i, i ∉ s.fw.busyPage.map Prod.fst → look erased t.fw.image i = look erased s.fw.image i) ∧
      (s.fw.busySector = none → s.fw.page = [] → t.fw.busyPage = [] ∧ t.fget FW_STATUS FW_STATUS.ready = 1)) ∧
    (∀ k, Canon erased s.fw.image → s.fw.busyPage = [] → s.fw.busySector = some k → ∃ t, exec (.flashProgramDone failed) s = .next t ∧ t.fw.busySector = none ∧
      (failed = false → ∀ i, look erased t.fw.image i = if i / 16384 = k then 0xFFFFFFFF else look erased s.fw.image i) ∧
      (failed = true → t.rbit FW_FLAGS FW_FLAGS.flash_error.lo = true ∧ ∀ i, i / 16384 ≠ k → look erased t.fw.image i = look erased s.fw.image i)) ∧
    (s.takes FW_CMD →
      (s.pausing = true → exec (.verify q) s = .next (no 4 1)) ∧
      (s.pausing = false → ¬owns → exec (.verify q) s = .next (no 4 3)) ∧
      (s.pausing = false → owns → s.fw.verifying = true ∨ s.fget FW_STATUS FW_STATUS.ready = 0 → exec (.verify q) s = .next (no 4 1)) ∧
      (s.pausing = false → owns → s.fw.verifying = false → s.fget FW_STATUS FW_STATUS.ready = 1 → s.flashBusy = false →
        ∃ t, exec (.verify q) s = .next t ∧ accepted 4 t ∧ t.fw = { s.fw with sessionAt := s.now, image := flushed, page := [], verifying := true } ∧ OnlyRegs [FW_RESULT] s t) ∧
      (s.pausing = true → exec (.activate q) s = .next (no 5 1)) ∧
      (s.pausing = false → ¬owns → exec (.activate q) s = .next (no 5 3)) ∧
      (s.pausing = false → owns → s.ctl.imageState ≠ 2 → exec (.activate q) s = .next (no 5 5)) ∧
      (s.pausing = false → owns → s.ctl.imageState = 2 → swapping → exec (.activate q) s = .next (no 5 1)) ∧
      (s.pausing = false → owns → s.ctl.imageState = 2 → ¬swapping → s.flashBusy = false → ∃ t, exec (.activate q) s = .next t ∧ accepted 5 t ∧ t.session = 0 ∧ t.fw.page = [] ∧
        t.fw.image = flushed ∧ t.fget FW_STATUS FW_STATUS.in_control = 0 ∧ t.fget RESET_CAUSE RESET_CAUSE.proc = 3 ∧
        (s.mode ≠ .service → t.mode = (if s.mode = .run then .armed else s.mode) ∧ t.pausing = true ∧ t.fw.waitReady = false ∧ t.fw.pauseAt = s.now ∧
          t.fw.wasRun = decide (s.mode = .run) ∧ (s.mode = .run → t.shooting = false) ∧
          t.ctl = { s.ctl with imageState := 3, trialStarts := 1, confirm := (s.reg FW_CFG).toNat % 1024, seq := s.ctl.seq + 1 }) ∧
        (s.mode = .service → t.shooting = false ∧ t.startup.boot = true ∧
          (s.fw.page = [] → s.imageCheck = 0 → s.imageDigest = s.ctl.digest → t.ctl.imageState = 3 ∧ t.ctl.trialStarts = 1 ∧ t.fw.header = s.imageHeader ∧
            t.fw.trial = true ∧ t.fw.restarting = true ∧ t.fget MODE_STATUS MODE_STATUS.phase = 2) ∧
          (s.fw.page = [] → s.imageCheck ≠ 0 → t.ctl.imageState = 5 ∧ t.fw.header = [] ∧ t.rbit FW_FLAGS FW_FLAGS.fallback.lo = true)))) ∧
    (s.fw.verifying = false → exec .verifyDone s = .next s) ∧
    (s.fw.verifying = true → ∃ t, exec .verifyDone s = .next t ∧ t.fw.verifying = false ∧ t.fw.image = s.fw.image ∧
      t.fget FW_RESULT FW_RESULT.verify_code = s.imageCheck % 2 ^ FW_RESULT.verify_code.width ∧
      (s.imageCheck = 0 → t.rbit FW_FLAGS FW_FLAGS.verified.lo = true ∧ t.fget FW_STATUS FW_STATUS.image_state = 2 ∧
        t.ctl = { s.ctl with imageState := 2, trialStarts := 0, digest := s.imageDigest, seq := s.ctl.seq + 1 }) ∧
      (s.imageCheck ≠ 0 → t.rbit FW_FLAGS FW_FLAGS.verify_failed.lo = true ∧ t.ctl.imageState = 1 ∧
        t.ctl = if s.ctl.imageState = 1 then s.ctl else { s.ctl with imageState := 1, seq := s.ctl.seq + 1 })) ∧
    (s.pausing = true → s.fw.waitReady = false → sha256 s.imageBody = s.ctl.digest → ∃ t, exec .imageLoaded s = .next t ∧ t.fw.header = s.imageHeader ∧
      t.fw.digest = s.imageDigest ∧ t.fw.trial = true ∧ t.fw.waitReady = true ∧ t.fw.startedAt = s.now ∧ t.fget FW_STATUS FW_STATUS.in_control = 1 ∧
      t.reg FW_IMAGE = nth 0 s.imageHeader 3) ∧
    (s.pausing = true → s.fw.waitReady = false → sha256 s.imageBody ≠ s.ctl.digest → ∃ t, exec .imageLoaded s = .next t ∧ fell t ∧
      t.fget FW_RESULT FW_RESULT.verify_code = 0x31) ∧
    (s.pausing = false → s.fw.restarting = false → exec .imageLoaded s = .next s) ∧
    (s.pausing = false → s.fw.restarting = true → s.startup.boot = true → ∃ t, exec .imageLoaded s = .next t ∧ t.fw.restarting = false ∧
      t.fget MODE_STATUS MODE_STATUS.phase = 3 ∧ t.cut.copying = some s.ctl.bootCut ∧ t.shadowState = 1 ∧ t.fget CUT_STATUS CUT_STATUS.owner = ownerCode 1) ∧
    (s.pausing = false → s.fw.restarting = true → s.startup.boot = false → s.ctl.imageState = 4 → s.imageCheck = 0 → s.imageDigest = s.ctl.digest →
      ∃ t, exec .imageLoaded s = .next t ∧ t.fw.restarting = false ∧ t.fw.header = s.imageHeader ∧ t.fw.trial = false ∧ t.fw.startedAt = s.now ∧
        t.fget FW_STATUS FW_STATUS.in_control = 1 ∧ ChipCause.watchdog ∉ t.startup.chip) ∧
    (s.takes FW_CMD → q ≠ 1 → exec (.ready q settings) s = .next (no 12 6)) ∧
    (s.takes FW_CMD → ∃ t, exec (.ready 1 settings) s = .next t ∧ (t.req 1).status = 0 ∧ t.fget FW_RESULT FW_RESULT.command = 12 ∧ t.fget FW_RESULT FW_RESULT.refusal = 0 ∧
      t.fw.settings = (writeSettings settings s).fw.settings ∧
      (∀ k ws, settings = [(k, ws)] → t.fw.settings = if s.saveOk k ws then put (fun _ => []) s.fw.settings k ws else s.fw.settings) ∧
      (s.fget FW_STATUS FW_STATUS.in_control ≠ 1 → t.fw.settings = s.fw.settings) ∧
      (s.pausing = true ∧ s.fw.waitReady = true → t.pausing = false ∧ t.fw.waitReady = false ∧ t.rbit FW_FLAGS FW_FLAGS.activated.lo = true ∧
        t.reg FW_PAUSE = BitVec.ofNat 32 ((s.now - s.fw.pauseAt) / 1000) ∧ t.fw.backToRun = (s.fw.wasRun && decide (s.mode = .armed))) ∧
      (¬(s.pausing = true ∧ s.fw.waitReady = true) → OnlyRegs [FW_RESULT] s t)) ∧
    (unready → ∃ t, exec .readyTimeout s = .next t ∧ fell t) ∧
    (¬unready → exec .readyTimeout s = .next s)

/-- CONFIRM, CONFIRM_DEADLINE, WATCHDOG_EXPIRY, ENROL, REVOKE, ATTEST, ATTEST_DONE, STORE_CUT and SET_BOOT_CUT. The management processor's CONFIRM ends
the trial in one control block write, with the settings slot, and raises the minimum security version; it is refused with REQUESTER, NOT_VALID or
SETTINGS_BAD. A trial whose deadline passes, or whose watchdog expires, falls back; a confirmed image restarts with the chip-level reaction. In a key
session the owner enrols the key in KEY_DATA unless the slot is ENROLLED or the key revoked, and revokes a slot unless it is slot 4, the list is full,
or it signed the image or Cut in force. ATTEST starts one report, signed over its head. STORE_CUT fills a slot from a VALID shadow plane of the owner
and erases the rest; SET_BOOT_CUT names the boot slot. The order of the refusals is the model's choice (entry 8). The model's own choices and readings
that it rests on stand in log entries 8, 29, 30 and 31. (R515, R522, R523, R524, R525, R526, R530, R531, R533) -/
def Obligations.TrialsKeysCutSlotsAndReports : Prop :=
  ∀ (q : Requester) (switch : Bool) (settings : List (Fin 4 × List Word)) (slot : BitVec 2) (s : State),
    let u : State := if s.ownsSession q then { s with fw := { s.fw with sessionAt := s.now } } else s
    let refusal := fun (n code : Nat) (v : State) => flag FW_FLAGS FW_FLAGS.cmd_refused (fsets FW_RESULT [(FW_RESULT.command, n), (FW_RESULT.refusal, code)] v)
    let no := fun (n code : Nat) => completeOk q (FW_CMD + 1) (refusal n code u)
    let noKey := fun (n code : Nat) => completeOk q (FW_CMD + 1) (flag FW_FLAGS FW_FLAGS.key_refused (refusal n code u))
    let accepted := fun (n : Nat) (t : State) => (t.req q).status = 0 ∧ t.fget FW_RESULT FW_RESULT.command = n ∧ t.fget FW_RESULT FW_RESULT.refusal = 0
    let fell := fun (t : State) => Reacted .fallback s t ∧ t.ctl = { s.ctl with imageState := 5, seq := s.ctl.seq + 1 } ∧ t.rbit FW_FLAGS FW_FLAGS.fallback.lo = true ∧
      t.fw.header = [] ∧ t.fw.trial = false ∧ t.pausing = false ∧ t.fget FW_STATUS FW_STATUS.in_control = 0 ∧ t.fget RESET_CAUSE RESET_CAUSE.proc = 1 ∧
      (s.cut.inSwap = true → t.fw.romPending = true) ∧ (s.cut.inSwap = false → t.cut.romNext = true ∧ t.cut.swapAt = some (.atTime (s.now + 10000)))
    let runs := s.fget FW_STATUS FW_STATUS.in_control = 1
    let halves := (writeSettings settings s).fw.settings
    let chosen := if switch then 1 - s.ctl.settings else s.ctl.settings
    let valid := halfValid (look (fun _ => []) halves (chosen * 2)) = true ∨ halfValid (look (fun _ => []) halves (chosen * 2 + 1)) = true
    let deadline := s.fw.trial = true ∧ runs ∧ s.fw.startedAt + max 5 s.ctl.confirm * 1000000000 ≤ s.now
    let owns := s.ownsSession q = true ∧ s.session = 2
    let k := (s.reg KEY_SEL).toNat % 8
    let key := s.regsFrom (KEY_DATA 0) 8
    let signing := s.fw.signer = some k ∨ (s.fw.header ≠ [] ∧ s.fw.trial = false ∧ (nth 0 s.fw.header 8).toNat = k)
    let lo := slot.toNat * 524288
    let stood := decide (s.mode = .armed ∨ s.mode = .run)
    let kept := writeSettings settings u
    (s.takes FW_CMD → q ≠ 1 → exec (.confirm q switch settings) s = .next (no 6 6)) ∧
    (s.takes FW_CMD → q = 1 → ¬runs → exec (.confirm q switch settings) s = .next (no 6 13)) ∧
    (s.takes FW_CMD → q = 1 → runs → switch = true → ¬valid → exec (.confirm q switch settings) s = .next (completeOk q (FW_CMD + 1) (refusal 6 12 kept))) ∧
    (s.takes FW_CMD → q = 1 → runs → switch = false ∨ valid → ∃ t, exec (.confirm q switch settings) s = .next t ∧ accepted 6 t ∧
      t.ctl = { s.ctl with imageState := 4, trialStarts := 0, settings := chosen, seq := s.ctl.seq + 1 } ∧ t.fw.trial = false ∧ t.fw.settings = halves ∧
      (∀ k ws, settings = [(k, ws)] → halves = if s.saveOk k ws then put (fun _ => []) s.fw.settings k ws else s.fw.settings) ∧
      t.fw.minSec = max s.fw.minSec ((nth 0 s.fw.header 4).toNat % 65536) ∧ (switch = true → t.rbit FW_FLAGS FW_FLAGS.settings_switched.lo = true) ∧
      (switch = false → OnlyRegs [FW_RESULT, FW_STATUS] s t)) ∧
    (deadline → ∃ t, exec .confirmDeadline s = .next t ∧ fell t) ∧
    (¬deadline → exec .confirmDeadline s = .next s) ∧
    (¬runs → exec .watchdogExpiry s = .next s) ∧
    (runs → s.fw.trial = true → ∃ t, exec .watchdogExpiry s = .next t ∧ fell t) ∧
    (runs → s.fw.trial = false → ∃ t, exec .watchdogExpiry s = .next t ∧ Reacted .watchdog s t ∧ t.fget FW_STATUS FW_STATUS.in_control = 0 ∧
      t.fget RESET_CAUSE RESET_CAUSE.proc = 2 ∧ t.fw = { s.fw with restarting := true, wasRun := s.fw.wasRun && !stood, backToRun := s.fw.backToRun && !stood }) ∧
    (s.takes FW_CMD →
      (s.pausing = true → exec (.enrol q) s = .next (noKey 7 1) ∧ exec (.revoke q) s = .next (noKey 8 1) ∧ exec (.attest q) s = .next (no 9 1) ∧
        exec (.storeCut q slot) s = .next (no 10 1)) ∧
      (s.pausing = false → ¬owns → exec (.enrol q) s = .next (noKey 7 3) ∧ exec (.revoke q) s = .next (noKey 8 3)) ∧
      (s.pausing = false → owns → (s.keySlot k).1 = 1 → exec (.enrol q) s = .next (noKey 7 7)) ∧
      (s.pausing = false → owns → (s.keySlot k).1 ≠ 1 → sha256 key ∈ s.fw.revoked → exec (.enrol q) s = .next (noKey 7 10)) ∧
      (s.pausing = false → owns → (s.keySlot k).1 ≠ 1 → sha256 key ∉ s.fw.revoked → ∃ t, exec (.enrol q) s = .next t ∧ accepted 7 t ∧ t.keySlot k = (1, key) ∧
        (∀ j, j ≠ k → t.keySlot j = s.keySlot j) ∧ t.fw.revoked = s.fw.revoked ∧ t.rbit FW_FLAGS FW_FLAGS.key_changed.lo = true) ∧
      (s.pausing = false → owns → k = 4 → exec (.revoke q) s = .next (noKey 8 8)) ∧
      (s.pausing = false → owns → k ≠ 4 → 32 ≤ s.fw.revoked.length → exec (.revoke q) s = .next (noKey 8 11)) ∧
      (s.pausing = false → owns → k ≠ 4 → s.fw.revoked.length < 32 → signing → exec (.revoke q) s = .next (noKey 8 9)) ∧
      (s.pausing = false → owns → k ≠ 4 → s.fw.revoked.length < 32 → ¬signing → ∃ t, exec (.revoke q) s = .next t ∧ accepted 8 t ∧
        t.keySlot k = (2, (s.keySlot k).2) ∧ (∀ j, j ≠ k → t.keySlot j = s.keySlot j) ∧ t.rbit FW_FLAGS FW_FLAGS.key_changed.lo = true ∧
        t.fw.revoked = (if s.keyDigest k ∈ s.fw.revoked then s.fw.revoked else s.fw.revoked ++ [s.keyDigest k])) ∧
      (s.pausing = false → s.fw.attesting = true → exec (.attest q) s = .next (no 9 1)) ∧
      (s.pausing = false → s.fw.attesting = false → ∃ t, exec (.attest q) s = .next t ∧ accepted 9 t ∧ t.fw = { u.fw with attesting := true } ∧ OnlyRegs [FW_RESULT] s t) ∧
      (s.pausing = false → s.shadowState ≠ 3 → exec (.storeCut q slot) s = .next (no 10 13)) ∧
      (s.pausing = false → s.shadowState = 3 → s.ownsShadow q = false → exec (.storeCut q slot) s = .next (no 10 6)) ∧
      (s.pausing = false → s.shadowState = 3 → s.ownsShadow q = true → Canon (fun _ => 0xFFFFFFFF) s.fw.cuts → ∃ t, exec (.storeCut q slot) s = .next t ∧ accepted 10 t ∧
        OnlyRegs [FW_RESULT] s t ∧ t.cut = s.cut ∧ t.fw.image = s.fw.image ∧
        ∀ i, look (fun _ => 0xFFFFFFFF) t.fw.cuts i = (if i < lo ∨ lo + 524288 ≤ i then look (fun _ => 0xFFFFFFFF) s.fw.cuts i
          else if i - lo < s.headerWord 7 then s.shadowWord (i - lo) else 0xFFFFFFFF)) ∧
      (∃ t, exec (.setBootCut q slot) s = .next t ∧ accepted 11 t ∧ t.ctl = { s.ctl with bootCut := slot.toNat, seq := s.ctl.seq + 1 } ∧
        OnlyRegs [FW_RESULT, FW_STATUS] s t)) ∧
    (s.fw.attesting = false → exec .attestDone s = .next s) ∧
    (s.fw.attesting = true → ∃ t, exec .attestDone s = .next t ∧ t.fw.attesting = false ∧ t.rbit FW_FLAGS FW_FLAGS.attest_done.lo = true ∧
      t.fw.report = s.reportHead ++ (List.range 4272).map (Config.attestSign s.reportHead) ∧ s.reportHead.take 3 = [0x54414B43, 0x00010000, 0x768] ∧
      (s.reportHead.drop 6).take 8 = s.regsFrom (ATT_NONCE 0) 8 ∧ (s.reportHead.drop 22).take 8 = s.regsFrom (LIVE_DIGEST 0) 8)

/-- Lane training: LANE_ENABLE, HELLO_BURST, HELLO, CAPS_TIMEOUT, RATE, LANE_ALIGNED and ALIGNMENT_TIMEOUT. An enabled lane in DOWN, with power, without a
fence and in a block that has not isolated itself, enters DETECT at rate 0. In DETECT a HELLO of its own goes out every 100 ms. A valid HELLO in
DETECT or CAPS notes what the partner says and leads to CAPS, or to VERIFY once the third valid one says that the partner has seen three; an invalid
one sets train_bad and starts the count anew; a word whose code is none of the four starts the count anew. After 10 ms in CAPS the lane is back in
DETECT. In STEP the partner's RATE for the expected rung switches the lane to it; alignment leads to EQ at rates 2 to 4 and to VERIFY at rates 0 and
1; no alignment within 1 ms fails at rate 0, and else falls back a rate, to UP, or in a retrain to STEP. Nothing but the lane and its registers
changes. The model's own choices and readings that it rests on stand in log entry 81. (R370, R371, R372, R375, R396, R397) -/
def Obligations.LanesClimbFromDetectToTheirRate : Prop :=
  ∀ (l : Fin 32) (word : Word) (code : BitVec 3) (ask : Option (BitVec 4)) (s : State),
    let x := s.lane l
    let a := LK_LANE_STATUS l
    (s.laneEnabled l = true → s.laneState l = 0 → s.domGood (59 + l / 8) = true → s.fenced 5 = false → s.isolated 5 (l / 8) = false →
      ∃ t, exec (.laneEnable l) s = .next t ∧ t.laneState l = 1 ∧ t.laneRate l = 0 ∧ (t.lane l).hellos = 0 ∧ (t.lane l).ctl = none ∧
        OnlyRegs [a, LK_UP] s t ∧ OnlyParts [.regs, .lk] s t ∧ OtherLanes l s t) ∧
    (s.isolated 5 (l / 8) = true → exec (.laneEnable l) s = .next s) ∧
    (s.laneState l = 1 → (x.burstAt = 0 ∨ x.burstAt + 100000000 ≤ s.now) →
      exec (.helloBurst l) s = .next (setLane l { x with burstAt := s.now, ctl := some (s.ownHello l) } s)) ∧
    (s.laneState l = 1 ∨ s.laneState l = 2 → helloValid word = true →
      ∃ t, exec (.hello l word) s = .next t ∧
        t.laneState l = (if 3 ≤ min 3 (x.hellos + 1) ∧ word.getLsbD 20 = true then 5 else 2) ∧
        (t.lane l).hellos = min 3 (x.hellos + 1) ∧ (t.lane l).partnerSeen = word.getLsbD 20 ∧ (t.lane l).helloWord = some word ∧
        t.fget a LK_LANE_STATUS.partner_rates = word.toNat / 2 ^ 12 % 32 ∧ t.fget a LK_LANE_STATUS.partner_lane = word.toNat / 2 ^ 21 % 32 ∧
        t.fget a LK_LANE_STATUS.partner_eq = word.toNat / 2 ^ 18 % 2 ∧ t.fget a LK_LANE_STATUS.partner_credits = word.toNat / 2 ^ 17 % 2 ∧
        OnlyRegs [a, LK_UP] s t ∧ OnlyParts [.regs, .lk] s t ∧ OtherLanes l s t) ∧
    (s.laneState l = 1 ∨ s.laneState l = 2 → ctlValid word = true → helloValid word = false →
      exec (.hello l word) s = .next (flag (LK_LANE_FLAGS l) LK_LANE_FLAGS.train_bad (setLane l { x with hellos := 0 } s))) ∧
    (s.laneState l = 1 ∨ s.laneState l = 2 → ctlValid word = false → exec (.hello l word) s = .next (setLane l { x with hellos := 0 } s)) ∧
    (s.laneState l = 2 → x.since + 10000000 ≤ s.now →
      ∃ t, exec (.capsTimeout l) s = .next t ∧ t.laneState l = 1 ∧ t.laneRate l = 0 ∧ (t.lane l).hellos = 0 ∧
        OnlyRegs [a, LK_UP] s t ∧ OnlyParts [.regs, .lk] s t ∧ OtherLanes l s t) ∧
    (s.laneState l = 3 → x.switched = false → code.toNat = s.stepTo l → code.toNat ≤ 4 →
      ∃ t, exec (.rate l code) s = .next t ∧ t.laneRate l = code.toNat ∧ t.laneState l = 3 ∧ (t.lane l).switched = true ∧ (t.lane l).since = s.now ∧
        OnlyRegs [a] s t ∧ OnlyParts [.regs, .lk] s t ∧ OtherLanes l s t) ∧
    (s.laneState l = 3 → x.switched = true →
      ∃ t, exec (.laneAligned l ask) s = .next t ∧ t.laneState l = (if 2 ≤ s.laneRate l then 4 else 5) ∧ t.laneRate l = s.laneRate l ∧
        OnlyRegs [a, LK_UP] s t ∧ OnlyParts [.regs, .lk] s t ∧ OtherLanes l s t) ∧
    (s.laneState l = 3 → x.switched = true → x.since + 1000000 ≤ s.now →
      ∃ t, exec (.alignmentTimeout l) s = .next t ∧
        (s.laneRate l = 0 → t.laneState l = 9 ∧ t.rbit (LK_LANE_FLAGS l) LK_LANE_FLAGS.failed.lo = true) ∧
        (0 < s.laneRate l → x.retraining = false → t.laneState l = 6 ∧ t.laneRate l = s.laneRate l - 1) ∧
        (0 < s.laneRate l → x.retraining = true → t.laneState l = 3 ∧ (t.lane l).target = s.laneRate l - 1) ∧
        OnlyRegs [a, LK_UP, LK_LANE_FLAGS l, REC_LOST, REC_STATUS] s t ∧ OnlyParts [.regs, .lk, .mgmt] s t ∧ OtherLanes l s t)

/-- Equalisation: TAP_REQ, TAP_ACK, TAP_REQ_RESEND, EQ_DONE and EQ_TIMEOUT in EQ and RETRAIN. While a lane equalises: a tap request of a new number that
it may obey and that stays in range is applied and answered APPLIED; one that leaves the range is answered LIMIT, and one it does not obey (fixed
taps, or a reserved tap or action) is answered with status 2, in both cases with the taps as they were; a repeated number gets the stored answer again
and changes no tap. A TAP_ACK of the own request's number ends it, and the next request goes out where the receiver asks for one of a partner that
obeys. A request unanswered for 10 µs goes out again. EQ_DONE received, with the own one sent or going out at that instant, leads to VERIFY; 50 ms
after entry the fixed taps come into force and the lane goes to VERIFY. Nothing but the lane and its registers changes. The model's own choices and
readings that it rests on stand in log entry 81. (R371, R373, R374, R396) -/
def Obligations.EqualisationAsksAndAppliesTaps : Prop :=
  ∀ (l : Fin 32) (tap action : BitVec 2) (number : BitVec 4) (ask : Option (BitVec 4)) (own : Bool) (s : State),
    let x := s.lane l
    let a := LK_LANE_STATUS l
    let pre := s.fget a LK_LANE_STATUS.c_pre
    let post := s.fget a LK_LANE_STATUS.c_post
    let obey := s.fixedTaps l = false ∧ tap ≠ 1 ∧ action ≠ 0
    let ack := fun st : Nat => trainWord 3 (tap.toNat * 2 ^ 12 + st * 2 ^ 14 + number.toNat * 2 ^ 16)
    let asked := tapRequest pre post (s.lanePre l LK_LANE_PRE.c_pre) (s.lanePre l LK_LANE_PRE.c_post) tap.toNat action.toNat
    s.equalising l = true →
      ((∀ w, x.tapSeen ≠ some (number.toNat, w)) →
        (∀ p q, obey → asked = some (p, q) → exec (.tapReq l tap action number) s =
          .next (setLane l { x with tapSeen := some (number.toNat, ack 0), ctl := some (ack 0) }
            (fsets a [(LK_LANE_STATUS.c_pre, p), (LK_LANE_STATUS.c_post, q)] s))) ∧
        (obey → asked = none →
          exec (.tapReq l tap action number) s = .next (setLane l { x with tapSeen := some (number.toNat, ack 1), ctl := some (ack 1) } s)) ∧
        (¬ obey →
          exec (.tapReq l tap action number) s = .next (setLane l { x with tapSeen := some (number.toNat, ack 2), ctl := some (ack 2) } s))) ∧
      (∀ w, x.tapSeen = some (number.toNat, w) → exec (.tapReq l tap action number) s = .next (setLane l { x with ctl := some w } s)) ∧
      (∀ w i, x.tapOut = some (w, i) → w.toNat / 2 ^ 16 % 16 = number.toNat →
        (ask = none ∨ s.partnerEq l = false → exec (.tapAck l number ask) s = .next (setLane l { x with tapOut := none } s)) ∧
        (∀ k, ask = some k → s.partnerEq l = true → ∃ t v, exec (.tapAck l number ask) s = .next t ∧
          v = trainWord 2 (k.toNat % 4 * 2 ^ 12 + k.toNat / 4 * 2 ^ 14 + x.tapNext * 2 ^ 16) ∧
          t.lane l = { x with tapOut := some (v, s.now), tapNext := (x.tapNext + 1) % 16, ctl := some v } ∧ OnlyParts [.lk] s t ∧ OtherLanes l s t)) ∧
      (∀ w i, x.tapOut = some (w, i) → i + 10000 ≤ s.now →
        exec (.tapReqResend l) s = .next (setLane l { x with tapOut := some (w, s.now), ctl := some w } s)) ∧
      (∃ t, exec (.eqDone l own) s = .next t ∧ (t.lane l).eqGot = true ∧ (t.lane l).eqSent = (x.eqSent || own) ∧
        (own = true → x.eqSent = false → (t.lane l).ctl = some (trainWord 4 0)) ∧
        t.laneState l = (if x.eqSent || own then 5 else s.laneState l) ∧ t.laneRate l = s.laneRate l ∧
        OnlyRegs [a, LK_UP] s t ∧ OnlyParts [.regs, .lk] s t ∧ OtherLanes l s t) ∧
      (x.since + 50000000 ≤ s.now → ∃ t, exec (.eqTimeout l) s = .next t ∧ t.laneState l = 5 ∧
        t.fget a LK_LANE_STATUS.preset_used = 1 ∧ t.fget a LK_LANE_STATUS.c_pre = s.lanePre l LK_LANE_PRE.c_pre % 8 ∧
        t.fget a LK_LANE_STATUS.c_post = s.lanePre l LK_LANE_PRE.c_post % 16 ∧ OnlyRegs [a, LK_UP] s t ∧ OnlyParts [.regs, .lk] s t ∧ OtherLanes l s t)

/-- VERIFY and RETRAIN: VERIFY_PATTERN_END, VERIFY_END, RETRAIN, LINE_ERROR_RETRAIN and PARTNER_LOST. In VERIFY, 2 ms after its start, the own count goes
out with VERIFY_END and is kept, and the partner's count is kept. Once both are known: with both 0 a rung below the target leads to STEP and the
target's rung to UP; else rate 0 fails (FAILED, failed), and a higher rate falls back by one, to UP there, or in a retrain to STEP. A lane in UP whose
partner asks for it, in which 8 packets have failed their CRC within 1 ms, or whose line errors reach 16, retrains: retrained sets, retrain_count is
one higher (saturating), and it enters RETRAIN, with RETRAIN sent; the eighth entry within 1 s sends it to FAILED. A lane between CAPS and RETRAIN
that loses its partner returns to DETECT and sets partner_lost. The model's own choices and readings that it rests on stand in log entries 80 and 111.
(R371, R374, R375, R376, R377) -/
def Obligations.VerifyAndRetrainDecideTheRate : Prop :=
  ∀ (l : Fin 32) (errors lineErrors : Nat) (count : Byte) (s : State),
    let x := s.lane l
    let r := s.laneRate l
    let outcome := fun (a b : Nat) (t : State) =>
      (a = 0 ∧ b = 0 → r < x.target → t.laneState l = 3 ∧ t.laneRate l = r) ∧
      (a = 0 ∧ b = 0 → x.target ≤ r → t.laneState l = 6 ∧ t.laneRate l = r) ∧
      (¬ (a = 0 ∧ b = 0) → r = 0 → t.laneState l = 9 ∧ t.rbit (LK_LANE_FLAGS l) LK_LANE_FLAGS.failed.lo = true) ∧
      (¬ (a = 0 ∧ b = 0) → 0 < r → x.retraining = false → t.laneState l = 6 ∧ t.laneRate l = r - 1) ∧
      (¬ (a = 0 ∧ b = 0) → 0 < r → x.retraining = true → t.laneState l = 3 ∧ (t.lane l).target = r - 1)
    let keeps := fun t : State =>
      OnlyRegs [LK_LANE_STATUS l, LK_UP, LK_LANE_FLAGS l, REC_LOST, REC_STATUS] s t ∧ OnlyParts [.regs, .lk, .mgmt] s t ∧ OtherLanes l s t
    let recent := s.now :: x.retrains.filter (fun i => decide (s.now < i + 1000000000))
    let retrains := fun t : State =>
      t.laneState l = (if 8 ≤ recent.length then 9 else 7) ∧
      t.rbit (LK_LANE_FLAGS l) LK_LANE_FLAGS.retrained.lo = true ∧ (t.lane l).retrains = recent.take 8 ∧
      t.fget (LK_LANE_CNT1 l) LK_LANE_CNT1.retrain_count = min 0xFFFF (s.fget (LK_LANE_CNT1 l) LK_LANE_CNT1.retrain_count + 1) ∧
      (recent.length < 8 → (t.lane l).ctl = some (trainWord 6 0) ∧ (t.lane l).retraining = true) ∧
      (t.lane l).queue = [] ∧ t.laneRate l = r
    let bad := 8 ≤ (x.crcFails.filter (fun i => decide (s.now < i + 1000000))).length ∨ 16 ≤ lineErrors
    (s.laneState l = 5 → x.since + 2000000 ≤ s.now →
      (∃ t, exec (.verifyPatternEnd l errors) s = .next t ∧ keeps t ∧
        (x.partnerErr = none → t.laneState l = 5 ∧ (t.lane l).ownErr = some (min 0xFF errors) ∧
          (t.lane l).ctl = some (trainWord 5 (min 0xFF errors * 2 ^ 12))) ∧
        (∀ b, x.partnerErr = some b → outcome (min 0xFF errors) b t))) ∧
    (s.now < x.since + 2000000 → exec (.verifyPatternEnd l errors) s = .next s) ∧
    (s.laneState l = 5 →
      (∃ t, exec (.verifyEnd l count) s = .next t ∧ keeps t ∧
        (x.ownErr = none → t.laneState l = 5 ∧ (t.lane l).partnerErr = some count.toNat) ∧
        (∀ a, x.ownErr = some a → outcome a count.toNat t))) ∧
    (s.laneState l = 6 →
      (∃ t, exec (.retrain l) s = .next t ∧ retrains t ∧ OnlyParts [.regs, .lk, .mgmt, .aq] s t) ∧
      (bad → ∃ t, exec (.lineErrorRetrain ⟨l, lineErrors⟩) s = .next t ∧ retrains t ∧ OnlyParts [.regs, .lk, .mgmt, .aq] s t)) ∧
    (¬bad → exec (.lineErrorRetrain ⟨l, lineErrors⟩) s = .next s) ∧
    (2 ≤ s.laneState l → s.laneState l ≤ 7 →
      ∃ t, exec (.partnerLost l) s = .next t ∧ t.laneState l = 1 ∧ t.laneRate l = 0 ∧ (t.lane l).hellos = 0 ∧
        t.rbit (LK_LANE_FLAGS l) LK_LANE_FLAGS.partner_lost.lo = true ∧ OnlyParts [.regs, .lk, .mgmt, .aq] s t)

/-- LK_LANE_CMD and LK_LANE_TEST: retrain, rearm, clear_counts, loopback and PRBS; the partner's LOOP. Where the lane's block takes accesses: retrain
restores the target rate, and a lane in UP retrains (retrained set, RETRAIN, or FAILED the eighth time within 1 s). rearm takes a FAILED lane to
DETECT at rate 0 where it is enabled and its block has not isolated itself, to DOWN otherwise, and leaves any other lane alone. clear_counts sets
LK_LANE_CNT0, LK_LANE_CNT1 and LK_LANE_PRBS_ERR to 0 and changes nothing else. In CONFIGURED and ARMED a write of LK_LANE_TEST takes its fields; a
lane that enters loopback is in LOOPBACK, and one that leaves it is in DETECT, or DOWN where not enabled; a lane of an isolated block enters none. In
other modes a field that the write would set keeps its value and loop_refused sets. The partner's LOOP enters far-end loopback where it is allowed, in
CONFIGURED or ARMED and in UP, and else is answered as refused with loop_refused set; leaving outside far-end loopback, and a refusal, set train_bad.
A lane in near-end loopback hears none. The model's own choices and readings that it rests on stand in log entries 16, 80, 81 and 82. (R376, R377,
R378, R397, R401) -/
def Obligations.LaneCommandsRetrainRearmClearAndTest : Prop :=
  ∀ (q : Requester) (block : Fin 4) (place : Fin 8) (data : Word) (own : Bool) (s : State),
    let l : Fin 32 := ⟨block.val * 8 + place.val, by omega⟩
    let x := s.lane l
    let r := s.laneRate l
    let T := LK_LANE_TEST l
    let old := s.fget T LK_LANE_TEST.loop
    let barred := s.isolated 5 (l / 8)
    let joins := s.laneEnabled l = true ∧ barred = false
    let new := getF LK_LANE_TEST.loop data
    (s.takes (LK_LANE_CMD l) →
      (∃ t, exec (.laneRetrainCmd q l) s = .next t ∧ (t.req q).status = 0 ∧ (t.lane l).cap = 4 ∧ (t.lane l).target = min (min 4 (s.laneCfg l LK_LANE_CFG.max_rate)) (topRate (s.fget (LK_LANE_STATUS l) LK_LANE_STATUS.partner_rates)) ∧
        (s.laneUp l = false → t.laneState l = s.laneState l ∧ t.regs = s.regs) ∧
        (s.laneUp l = true → (x.retrains.filter (fun i => decide (s.now < i + 1000000000))).length < 7 →
          t.laneState l = 7 ∧ t.laneRate l = r ∧ t.rbit (LK_LANE_FLAGS l) LK_LANE_FLAGS.retrained.lo = true ∧ (t.lane l).ctl = some (trainWord 6 0)) ∧
        OnlyParts [.regs, .lk, .mgmt, .aq] s t) ∧
      (∃ t, exec (.laneRearm q l) s = .next t ∧ (t.req q).status = 0 ∧
        t.laneState l = (if s.laneState l = 9 then (if joins then 1 else 0) else s.laneState l) ∧
        (s.laneState l = 9 → joins → t.laneRate l = 0) ∧
        OnlyRegs [LK_LANE_STATUS l, LK_UP] s t ∧ OnlyParts [.regs, .lk, .mgmt] s t) ∧
      exec (.laneClearCounts q l) s =
        .next (completeOk q (LK_LANE_CMD l + 1) (setReg (LK_LANE_PRBS_ERR l) 0 (setReg (LK_LANE_CNT1 l) 0 (setReg (LK_LANE_CNT0 l) 0 s))))) ∧
    (s.takes T → s.mode = .configured ∨ s.mode = .armed →
      ∃ t, exec (.laneTestWrite q block place data) s = .next t ∧ (t.req q).status = 0 ∧ t.fget T LK_LANE_TEST.loop = new ∧
        t.fget T LK_LANE_TEST.prbs_tx = getF LK_LANE_TEST.prbs_tx data ∧ t.fget T LK_LANE_TEST.prbs_chk = getF LK_LANE_TEST.prbs_chk data ∧
        t.laneState l = (if old = 0 ∧ new ≠ 0 ∧ barred = false then 8
          else if old ≠ 0 ∧ new = 0 ∧ s.laneState l = 8 then (if joins then 1 else 0) else s.laneState l) ∧
        t.rbit (LK_LANE_FLAGS l) LK_LANE_FLAGS.loop_refused.lo = s.rbit (LK_LANE_FLAGS l) LK_LANE_FLAGS.loop_refused.lo ∧
        OnlyParts [.regs, .lk, .mgmt, .aq] s t) ∧
    (s.takes T → s.mode ≠ .configured → s.mode ≠ .armed → new ≠ 0 → new ≠ old →
      ∃ t, exec (.laneTestWrite q block place data) s = .next t ∧ t.fget T LK_LANE_TEST.loop = old ∧ t.laneState l = s.laneState l ∧
        t.rbit (LK_LANE_FLAGS l) LK_LANE_FLAGS.loop_refused.lo = true ∧ OnlyRegs [T, LK_LANE_FLAGS l, REC_LOST, REC_STATUS] s t) ∧
    (s.laneCfg l LK_LANE_CFG.far_loop_allow = 1 → s.testMode = true → s.laneUp l = true → old = 0 → barred = false →
      ∃ t, exec (.loop l true false) s = .next t ∧ t.laneState l = 8 ∧ t.fget T LK_LANE_TEST.loop = 3 ∧ OnlyParts [.regs, .lk, .mgmt, .aq] s t) ∧
    (s.nearLoop l = false → ¬ (s.laneCfg l LK_LANE_CFG.far_loop_allow = 1 ∧ s.testMode = true ∧ s.laneUp l = true) →
      exec (.loop l true false) s = .next (setLane l { x with ctl := some (trainWord 7 (2 ^ 12 + 2 ^ 13)) }
        (flag (LK_LANE_FLAGS l) LK_LANE_FLAGS.loop_refused s))) ∧
    (old = 3 → s.laneState l = 8 → ∃ t, exec (.loop l false false) s = .next t ∧ t.fget T LK_LANE_TEST.loop = 0 ∧
      t.laneState l = (if joins then 1 else 0) ∧ OnlyRegs [T, LK_LANE_STATUS l, LK_UP] s t ∧ OnlyParts [.regs, .lk] s t) ∧
    (∀ enter, s.nearLoop l = true → exec (.loop l enter own) s = .next s) ∧
    (∀ enter, s.nearLoop l = false → exec (.loop l enter true) s = .next (flag (LK_LANE_FLAGS l) LK_LANE_FLAGS.train_bad s)) ∧
    (s.nearLoop l = false → ¬ (old = 3 ∧ s.laneState l = 8) → exec (.loop l false false) s = .next (flag (LK_LANE_FLAGS l) LK_LANE_FLAGS.train_bad s))

/-- Reception: PACKET_RECEIVED, MGMT_REQUEST_PACKET, CREDIT and CREDIT_GRANT. On a lane that is UP: a packet whose CRC-32 is wrong counts in crc_count and
malformed_count, sets crc_in and malformed, and is discarded. A packet that is right, of version 0 and of the length it says, is accepted on a routed
MGMT lane if it holds 1 to 64 transactions, fits the 8 units granted and passes the rate limit, and on a routed PAIR lane if it fits the 32 units
granted. A MGMT request packet that waits executes its transactions in order; one of one or two transactions executes them as MGMT_TRANSACTION of the
lane's requester, and one response with each status, op and data word, in the same order, joins the queue of the same lane; an ECHO completes with its
data word. CREDIT sets the limit of its stream; CREDIT_GRANT grants MGMT and PAIR credit anew. The model's own choices and readings that it rests on
stand in log entries 17 and 83. (R379, R380, R381, R390, R393, R396, R540) -/
def Obligations.LanesAcceptPacketsAndCredit : Prop :=
  ∀ (l : Fin 32) (h1 h2 h3 crc : Word) (payload : List Word) (head : Nat) (ecc : Fin 3) (eccs : List (Fin 3)) (stream : BitVec 4) (limit : BitVec 20) (s : State),
    let x := s.lane l
    let n := payload.length
    let body := BitVec.ofNat 32 head :: h1 :: h2 :: h3 :: payload
    let need := packetUnits (s.laneRate l) n
    let ms := s.now / 1000000
    let used := if x.mgmtMs = ms then x.mgmtCount else 0
    let u := (takePacket l 4 s).1
    let q : Requester := ⟨2 + l, by omega⟩
    let tells := fun stream : Nat => head < 2 ^ 32 ∧ head % 16 = stream ∧ head / 16 % 16 = 0 ∧ head / 2 ^ 16 % 4096 = n ∧ n ≤ 2048
    let replies := fun (t v : State) (ws : List Word) => ∃ p : Packet, (t.lane l).queue = insertPacket p (v.lane l).queue ∧
      p.stream = 4 ∧ p.kind = 1 ∧ p.source = 0 ∧ p.payload = ws ∧ p.units = ws.length / 2
    s.laneUp l = true →
      (crc ≠ crc32 body → ∃ t, exec (.packetReceived l (body ++ [crc]) false) s = .next t ∧
        t.rbit (LK_LANE_FLAGS l) LK_LANE_FLAGS.crc_in.lo = true ∧ t.rbit (LK_LANE_FLAGS l) LK_LANE_FLAGS.malformed.lo = true ∧
        t.fget (LK_LANE_CNT0 l) LK_LANE_CNT0.crc_count = min 0xFFFF (s.fget (LK_LANE_CNT0 l) LK_LANE_CNT0.crc_count + 1) ∧
        t.fget (LK_LANE_CNT0 l) LK_LANE_CNT0.malformed_count = min 0xFFFF (s.fget (LK_LANE_CNT0 l) LK_LANE_CNT0.malformed_count + 1) ∧
        OnlyRegs [LK_LANE_FLAGS l, LK_LANE_CNT0 l, REC_LOST, REC_STATUS] s t ∧ OnlyParts [.regs, .mgmt, .lk] s t ∧ OtherLanes l s t ∧
        t.lane l = { x with crcFails := (s.now :: x.crcFails).take 8 }) ∧
      (crc = crc32 body → tells 4 → s.laneRouted 4 l = true → n ≠ 0 → n % 2 = 0 → n ≤ 128 → x.heldMgmt + need ≤ 8 →
        used + n / 2 ≤ s.fget LK_STREAM_CFG LK_STREAM_CFG.mgmt_rate * 64 →
        ∃ t, exec (.packetReceived l (body ++ [crc]) false) s = .next t ∧ OnlyParts [.lk] s t ∧ OtherLanes l s t ∧ t.lane l =
          { x with mgmtMs := ms, mgmtCount := used + n / 2, heldMgmt := x.heldMgmt + need, inbox := x.inbox ++ [(4, payload)] }) ∧
      (crc = crc32 body → tells 5 → s.laneRouted 5 l = true → x.heldPair + need ≤ 32 →
        exec (.packetReceived l (body ++ [crc]) false) s =
          .next (setLane l { x with heldPair := x.heldPair + need, inbox := x.inbox ++ [(5, payload)] } s)) ∧
      (∀ (a d : Word), s.answers = true → x.inbox.find? (fun p => p.1 = 4) = some (4, [a, d]) →
        ∃ v t, exec (.mgmtTransaction q a d ecc) u = .next v ∧ exec (.mgmtRequestPacket l [ecc]) s = .next t ∧
          (v.laneRouted 4 l = true → v.laneUp l = true → OnlyParts [.lk] v t ∧ OtherLanes l v t ∧
            replies t v [BitVec.ofNat 32 ((v.req q).status.toNat + a.toNat % 4 * 256), (v.req q).data])) ∧
      (∀ (a d b e : Word), s.answers = true → x.inbox.find? (fun p => p.1 = 4) = some (4, [a, d, b, e]) →
        ∃ v w t, exec (.mgmtTransaction q a d ecc) u = .next v ∧ exec (.mgmtTransaction q b e 0) v = .next w ∧
          exec (.mgmtRequestPacket l [ecc]) s = .next t ∧
          (w.laneRouted 4 l = true → w.laneUp l = true → OnlyParts [.lk] w t ∧ OtherLanes l w t ∧
            replies t w [BitVec.ofNat 32 ((v.req q).status.toNat + a.toNat % 4 * 256), (v.req q).data,
              BitVec.ofNat 32 ((w.req q).status.toNat + b.toNat % 4 * 256), (w.req q).data])) ∧
      (∀ (a d : Word), s.answers = true → s.laneRouted 4 l = true → x.inbox.find? (fun p => p.1 = 4) = some (4, [a, d]) → a.toNat % 4 = 2 →
        ∃ t, exec (.mgmtRequestPacket l eccs) s = .next t ∧ (t.req q).status = 0 ∧ (t.req q).data = d ∧ OnlyParts [.lk, .mgmt] s t ∧ OtherLanes l s t ∧
          (t.lane l).inbox = x.inbox.erase (4, [a, d]) ∧ replies t s [BitVec.ofNat 32 (2 * 256), d]) ∧
      (∀ ws, s.answers = true → x.inbox.find? (fun p => p.1 = 4) = some (4, ws) →
        exec (.mgmtRequestPacket l eccs) s = .next (sendResponse l (runPacket q (eccs.map (·.val)) ws u).2 (runPacket q (eccs.map (·.val)) ws u).1)) ∧
      (x.inbox.find? (fun p => p.1 = 4) = none → exec (.mgmtRequestPacket l eccs) s = .next s) ∧
      exec (.credit l stream limit) s = .next (setLane l { x with limits := setAt stream.toNat limit.toNat x.limits } s) ∧
      (∃ t, exec (.creditGrant l) s = .next t ∧ OnlyParts [.lk] s t ∧ OtherLanes l s t ∧
        t.lane l = { x with creditAt := s.now, granted := [ctlWord 0x7C 4 ((x.consumedMgmt + 8) % 2 ^ 20), ctlWord 0x7C 5 ((x.consumedPair + 32) % 2 ^ 20)] })

/-- Transmission: PACKET_CLOSE_TIMER, PACKET_TRANSMIT, STREAM_WAIT_EXPIRY, STAT_BEACON, STAT_CENSUS and STAT_SAFETY_MIRROR. A packet that has been open
for 2 µs closes and joins the next UP lane of its route in rotation, if that lane's queue holds it, with its wait limit; nothing stays under assembly.
On a lane in UP whose word in flight has ended, the first packet of its queue starts where credit allows, after the drop marker that waits for its
stream and source where the plane routes them, which then is empty again. A POINT, HIST or MGMT packet whose wait has ended is dropped: while LK has
power its units count in LK_DROP (saturating) and drop_seen sets, and its accumulator notes cause CREDIT. The beacon within 20 µs of a whole second,
once, the census of each RX region with a bound block within 100 µs of a frame boundary, once and behind a beacon that is due, and the safety mirror
at a change or after 10 ms are copied to every UP lane of the STAT route with the words R387 to R389 give. The model's own choices and readings that
it rests on stand in log entries 17, 84, 85 and 86. (R379, R382, R387, R388, R389, R392, R393, R394, R395) -/
def Obligations.PacketsCloseQueueStartAndExpire : Prop :=
  ∀ (l : Fin 32) (stream : Fin 2) (rx : Fin 6) (p : Packet) (rest : List Packet) (s : State),
    let x := s.lane l
    let key := stream.val * 16 + 8 + rx.val
    let sent := fun (p : Packet) (t : State) => ∀ m, laneMask s.cut.live 3 0 = some m → ∀ j : Fin 32, m.testBit j = true → s.laneUp j = true →
      p ∈ (t.lane j).queue
    let ready := s.laneUp l = true ∧ x.flightEnd ≤ s.now ∧ s.fget (LK_LANE_TEST l) LK_LANE_TEST.prbs_tx = 0 ∧ x.closing = false ∧
      s.cut.waiting.contains (tgtLk (l / 8)) = false ∧ x.queue = p :: rest
    let n := p.payload.length
    let rate := s.laneRate l
    (∀ m j, s.assembling key = some p → p.stream = stream → p.source = 8 + rx → p.opened + 2000 ≤ s.now →
      laneMask s.cut.live stream (8 + rx) = some m → nextLane (look (fun _ => 0) s.lk.rot key) (s.upOf m) = some j →
      (s.lane j).queued + p.words ≤ 16384 →
      ∃ t, exec (.packetCloseTimer stream rx) s = .next t ∧ t.assembling key = none ∧
        (t.lane j).queue = insertPacket { p with deadline := (s.waitLimit stream).map (s.now + ·) } (s.lane j).queue ∧
        look (fun _ => 0) t.lk.rot key = j + 1 ∧ OnlyParts [.lk] s t ∧ OtherLanes j s t) ∧
    (ready → p.stream ≠ 2 → (s.dropAcc p.stream p.source).units = 0 → s.hasCredit l p.stream (packetUnits rate n) = true →
      ∃ t, exec (.packetTransmit l) s = .next t ∧ OnlyParts [.lk] s t ∧ OtherLanes l s t ∧
        t.lane l = { x with queue := rest, flight := some p, flightEnd := s.now + packetTime rate n,
                            used := setAt p.stream ((nth 0 x.used p.stream + packetUnits rate n) % 2 ^ 20) x.used }) ∧
    (ready → 0 < (s.dropAcc p.stream p.source).units → unrouted s.cut.live p = false → s.hasCredit l p.stream (packetUnits rate 5) = true →
      ∃ t m, exec (.packetTransmit l) s = .next t ∧ m = (s.dropAcc p.stream p.source).marker p.stream p.source ∧ m.kind = 15 ∧
        (t.lane l).flight = some m ∧ (t.lane l).queue = x.queue ∧ t.dropAcc p.stream p.source = {} ∧ OnlyParts [.lk] s t ∧ OtherLanes l s t) ∧
    (∀ d, x.queue.filter (fun p => p.deadline.any (fun d => decide (d ≤ s.now))) = [p] → p.deadline = some d →
      ((p.stream ≤ 1 ∧ 8 ≤ p.source ∧ p.source < 14) ∨ (p.stream = 4 ∧ p.source = 0)) →
      ∃ t, exec (.streamWaitExpiry l) s = .next t ∧ (t.lane l).queue = x.queue.erase p ∧ (s.domOn 59 = false → t.regs = s.regs) ∧
        (s.domOn 59 = true → (t.reg (LK_DROP (dropIndex p.stream p.source))).toNat =
          min 0xFFFFFFFF ((s.reg (LK_DROP (dropIndex p.stream p.source))).toNat + p.units) ∧
          t.rbit LK_FLAGS LK_FLAGS.drop_seen.lo = true) ∧ (t.dropAcc p.stream p.source).causes.testBit 0 = true ∧
        OnlyRegs [LK_DROP (dropIndex p.stream p.source), LK_FLAGS, REC_LOST, REC_STATUS] s t ∧ OnlyParts [.regs, .lk, .mgmt] s t ∧
        OtherLanes l s t) ∧
    (s.beaconDue = false → exec .statBeacon s = .next s) ∧
    (s.time.running = true → s.now % 1000000000 < 20000 → s.lk.beaconOf ≠ some (s.now / 1000000000) →
      ∃ t, exec .statBeacon s = .next t ∧ OnlyParts [.regs, .lk, .mgmt] s t ∧
        sent (s.packet 3 0 0 ([BitVec.ofNat 32 (s.now - s.now % 1000000000), BitVec.ofNat 32 ((s.now - s.now % 1000000000) / 2 ^ 32), s.reg LIVE_EPOCH]
          ++ s.regsFrom (LIVE_DIGEST 0) 8 ++ [BitVec.ofNat 32 (s.mode.code + s.pair.code * 16 + s.fget CUT_STATUS CUT_STATUS.shadow_state * 256),
            s.reg (SHADOW_DIGEST 0), if s.fget CUT_STATUS CUT_STATUS.shadow_state = 5 then s.reg CUT_SWAP_FRAME else 0])) t) ∧
    (s.lk.censusOf = some s.frameEdge → exec .statCensus s = .next s) ∧
    (s.time.edgeSeen = true → s.now ≤ s.frameEdge + 100000 → s.lk.censusOf ≠ some s.frameEdge → s.beaconDue = false → (∃ b : Fin 8, s.boundNow (rx.val * 8 + b) = true) →
      ∃ t, exec .statCensus s = .next t ∧ OnlyParts [.regs, .lk, .mgmt] s t ∧
        sent { s.packet 3 1 (8 + rx.val) (s.censusWords rx.val) with
          epoch := (s.censusOf rx.val).1, frag := (s.censusOf rx.val).2, frame := (s.frameNum + 2 ^ 32 - 1) % 2 ^ 32 } t) ∧
    (s.mirror ≠ s.lk.mirrorWord ∨ s.lk.mirrorDue = true ∨ s.lk.mirrorAt + 10000000 ≤ s.now →
      ∃ t, exec .statSafetyMirror s = .next t ∧ OnlyParts [.regs, .lk, .mgmt] s t ∧ t.lk.mirrorWord = s.mirror ∧ t.lk.mirrorAt = s.now ∧ t.lk.mirrorDue = false ∧
        t.lk.mirrorChange = (if s.mirror ≠ s.lk.mirrorWord then s.now else s.lk.mirrorChange) ∧
        sent (s.packet 3 2 2 [BitVec.ofNat 32 s.mirror, BitVec.ofNat 32 t.lk.mirrorChange]) t)

/-- CAPTURE_WINDOW_READ and its transactions: open segments, uncorrectable words, writes and an absent AQ. For every offset and requester: a read of the
window by a transaction is the command's read. While AQ is absent from the plane or its domain is not good, it completes with OFF. Inside the open
segment it completes with ACCESS and a word of 0. An uncorrectable word reads 0xFFFF_FFFF, sets ecc_fatal and completes with ECC. Any other read
completes with OK and the stored word. A write completes with ACCESS. The capture memory never changes. (A fenced AQ answers FENCED, and a device in
reset does not answer: other rules.) (R546) -/
def Obligations.TheCaptureWindowIsReadOnly : Prop :=
  ∀ (q : Requester) (off : BitVec 22) (data : Word) (ecc : Fin 3) (s : State), s.answers = true →
    let a := 0x20000000 + off.toNat * 4
    let seg := off.toNat / 2 / s.segSlots
    let present := blockOn (s.planeOf tgtAq) 6 0 = true ∧ s.domGood 63 = true
    let isOpen := seg < s.segCount ∧ ∃ g, s.aq.seg = some g ∧ g.seg = seg
    let ends := fun (status : BitVec 8) (word : Word) (t : State) => (t.req q).status = status ∧ (t.req q).data = word ∧ t.aq = s.aq
    (exec (.mgmtTransaction q (BitVec.ofNat 32 a) data ecc) s = exec (.captureWindowRead q off ecc) s) ∧
    (∃ t, exec (.mgmtTransaction q (BitVec.ofNat 32 (a + 1)) data ecc) s = .next t ∧ ends 1 0 t) ∧
    (s.fenced 6 = false → ¬present → ∃ t, exec (.captureWindowRead q off ecc) s = .next t ∧ ends 5 0 t) ∧
    (s.fenced 6 = false → present → isOpen → ∃ t, exec (.captureWindowRead q off ecc) s = .next t ∧ ends 1 0 t) ∧
    (s.fenced 6 = false → present → ¬isOpen → ecc = 2 → ∃ t, exec (.captureWindowRead q off ecc) s = .next t ∧ ends 8 0xFFFFFFFF t ∧
      t.rbit AQ_FLAGS AQ_FLAGS.ecc_fatal.lo = true) ∧
    (s.fenced 6 = false → present → ¬isOpen → ecc ≠ 2 → s.aq.undefinedSeg ≠ some seg → ∃ t, exec (.captureWindowRead q off ecc) s = .next t ∧
      ends 0 (look (fun _ => 0) s.aq.mem off.toNat) t ∧ (ecc = 1 → t.rbit AQ_FLAGS AQ_FLAGS.ecc_corrected.lo = true) ∧ (ecc = 0 → t.regs = s.regs))

/-- CF answers REGION_INFO, summary words and its own registers itself, with OK. For every state of a device that answers, fenced and unpowered regions
included: a read transaction of REGION_INFO of any region, of a region, block or cell summary word that exists, of REGION_FENCE or of any other
register in CF completes with OK. (R549) -/
def Obligations.CfAnswersWhateverTheRegionsState : Prop :=
  ∀ (q : Requester) (data : Word) (ecc : Fin 3) (s : State), s.answers = true →
    (∀ r, isRegion r = true → ∃ t, exec (.mgmtTransaction q (BitVec.ofNat 32 (REGION_INFO r)) data ecc) s = .next t ∧ (t.req q).status = 0 ∧
      (t.req q).data = s.regionInfo r) ∧
    (∃ t, exec (.mgmtTransaction q (BitVec.ofNat 32 REGION_FENCE) data ecc) s = .next t ∧ (t.req q).status = 0 ∧ (t.req q).data = s.reg REGION_FENCE) ∧
    (∀ a, a % 4 = 0 → a < 2 ^ 28 → (regRow a).isSome = true → a < 0x1000000 ∨ a ∈ summaryAddrs (a / 0x1000000) →
      ∃ t, exec (.mgmtTransaction q (BitVec.ofNat 32 a) data ecc) s = .next t ∧ (t.req q).status = 0)

/-- A fire of an emitter outside emitter_en trips channel B by the count tap and channel A by the charge code. Where the set in force does not enable the
emitter of the oldest record of the count tap, channel B, and of the oldest charge code, channel A, holds the cause unknown_emitter afterwards; a
channel in READY, PERMIT or HOT without a fault leaves that state, for TRIPPED or, where a fault arises with the same record, for FAULT. Channel B's
record counts whether or not light was fed back. (R414) -/
def Obligations.FiresOutsideEmitterEnTripTheirChannel : Prop :=
  ∀ (fb compared : Bool) (s : State),
    let outside := fun (e : Nat) => (s.sfWord (1 + e / 32)).testBit (e % 32) = false
    let sees := fun (x : Nat) (t : State) => t.sfHas x 5 = true ∧
      ((s.sfState x = 3 ∨ s.sfState x = 4 ∨ s.sfState x = 5) → (t.sfState x = 2 ∨ t.sfState x = 6) ∧ (t.sfc x).en = false) ∧
      ((s.sfState x = 3 ∨ s.sfState x = 4 ∨ s.sfState x = 5) → (t.sfc x).cause < 256 → t.sfState x = 2)
    (∀ e w ns rest, s.tx.tapB = (e, w, ns) :: rest → s.sfOn 1 = true → s.sf.set.isSome = true → outside e →
      ∃ t, exec (.fireReport fb compared) s = .next t ∧ t.tx.tapB = rest ∧ sees 1 t) ∧
    (∀ e c ns cmp rest, s.tx.tapA = (e, c, ns, cmp) :: rest → s.sfOn 0 = true → s.sf.set.isSome = true → outside e →
      ∃ t, exec .chargeReport s = .next t ∧ t.tx.tapA = rest ∧ sees 0 t)

/-- A pulse that reaches the slice after its pixel buffer has closed is dropped and counted in late_count. Where the pixel that the pulse next to enter
belongs to (of a ganged pair that which completed first) has closed, or its buffer holds another pixel by now, PULSE_PLACE drops the pulse: late_count
of its cell, bits 31:16 of GD_CELL_CNT3, counts it and saturates at 0xFFFF, and no pixel buffer of any block changes, so it enters no later pixel.
(R124) -/
def Obligations.PulsesAfterTheCloseAreDropped : Prop :=
  ∀ (cell : Fin 768) (eccCorrected eccFatal : Bool) (pu : EdgeWord) (rest : List EdgeWord) (s : State),
    let c := s.nextPulse cell
    let late := (s.reg (GD_CELL_CNT3 c)).toNat / 65536
    (s.cell c).out = pu :: rest →
    (∀ p, (s.blk (c / 16)).pixel pu.frame pu.m = some p → p.closedAt.isSome = true) →
      ∃ t, exec (.pulsePlace cell eccCorrected eccFatal) s = .next t ∧ (t.cell c).out = rest ∧
        (t.reg (GD_CELL_CNT3 c)).toNat / 65536 = min 0xFFFF (late + 1) ∧ (late + 1 = 0xFFFF → t.rbit (GD_CELL_OVF c) 7 = true) ∧
        (∀ k, t.blk k = s.blk k) ∧ (∀ j, j ≠ c → t.cell j = s.cell j) ∧ t.aq = s.aq ∧ t.lk = s.lk

/-- ALIGNMENT_WORD, REFCLK_LOSS, REFCLK_RETURN, FRAME_SYNC_EDGE and FRAME_LIMIT_EXPIRY complete with their effect. While TBASE runs, in every state: an
alignment word ends in a next state in which skew_event stands exactly where it stood before or an island of a region that exists departed, with TBASE
unchanged. The loss of REFCLK_T sets refclk_lost and holdover and clears locked; its return clears holdover and sets locked, and changes nothing else
but the cause of the chip-level reaction. A FRAME_SYNC edge makes FRAME_NUM one greater modulo 2^32, FRAME_EDGE the present TBASE and
frame_sync_present 1. The end of the frame limit clears frame_sync_present, sets frame_sync_lost and starts the next limit, TBASE unchanged. (R24,
R25, R26, R27) -/
def Obligations.ClockAndFrameEventsTakeEffect : Prop :=
  ∀ (departed : List (Fin 16 × BitVec 10)) (s : State), s.time.running = true →
    (∃ t, exec (.alignmentWord departed) s = .next t ∧ t.time = s.time ∧
      t.rbit TIME_STATUS TIME_STATUS.skew_event.lo = (s.rbit TIME_STATUS TIME_STATUS.skew_event.lo || departed.any (fun d => isRegion d.1))) ∧
    (s.fget TIME_STATUS TIME_STATUS.holdover = 0 → ∃ t, exec .refclkLoss s = .next t ∧ t.rbit TIME_STATUS TIME_STATUS.refclk_lost.lo = true ∧
      t.fget TIME_STATUS TIME_STATUS.holdover = 1 ∧ t.fget TIME_STATUS TIME_STATUS.locked = 0 ∧ t.time = { s.time with changes := t.time.changes }) ∧
    (s.fget TIME_STATUS TIME_STATUS.holdover = 1 → exec .refclkReturn s =
      .next (endCause .refclk (fsets TIME_STATUS [(TIME_STATUS.holdover, 0), (TIME_STATUS.locked, 1)] s))) ∧
    (∃ t, exec .frameSyncEdge s = .next t ∧ t.reg FRAME_NUM = s.reg FRAME_NUM + 1 ∧ t.frameEdge = s.now ∧
      t.fget TIME_STATUS TIME_STATUS.frame_sync_present = 1 ∧ t.now = s.now) ∧
    (s.time.limitFrom + s.frameLimit ≤ s.now → ∃ t, exec .frameLimitExpiry s = .next t ∧ t.fget TIME_STATUS TIME_STATUS.frame_sync_present = 0 ∧
      t.rbit TIME_STATUS TIME_STATUS.frame_sync_lost.lo = true ∧ t.time.limitFrom = s.time.limitFrom + s.frameLimit ∧ t.now = s.now)

/-- SAFETY_CYCLE, TICK_CLOSE, XC_SEND, XC_MESSAGE, XC_DECIDE, the test pulse, SAFE_RST and SELFTEST_DONE complete with their effect. In every state in
which its channel runs, a cycle notes its instant and shows both readbacks and the reset input. A tick that has not closed closes: it is the present
one, and each channel's state is noted. The message of the tick is sent once, with the tick before it, the noted state and the digest; it arrives at
the peer. The decision of a tick is taken once. In PERMIT the pulse of a grid instant turns EMIT_EN off, 250 ns end it, a sample of both EMIT_FB as
they should be notes it, and the second ends it. A SAFE_RST edge waits for the next tick unless one waits; a stuck input shows. The self-test's end
shows in SF_RESULT, with the first item that fails, and no channel is left in SELFTEST. (R405, R411, R420, R422, R423, R425, R427) -/
def Obligations.SafetyStepsTakeEffect : Prop :=
  ∀ (xv : Fin 2) (fbA fbB rst stuck : Bool) (item : BitVec 6) (s : State),
    let x := xv.val
    let c := s.sfc x
    let p := s.sfc (1 - x)
    let k := s.tick
    (s.sfOn x = true → ∃ t, exec (.safetyCycle xv fbA fbB rst) s = .next t ∧ (t.sfc x).cycleAt = some s.now ∧ t.fget SF_STATUS SF_STATUS.fb_a = b2n fbA ∧
      t.fget SF_STATUS SF_STATUS.fb_b = b2n fbB ∧ t.fget SF_STATUS SF_STATUS.rst_level = b2n rst) ∧
    (s.time.running = true → s.sf.tick ≠ some k → s.domGood 67 = true ∨ s.domGood 68 = true →
      ∃ t, exec .tickClose s = .next t ∧ t.sf.tick = some k ∧ (t.sfc x).stateK = t.sfState x) ∧
    (∀ n, s.sf.tick = some n → s.sfOn x = true → n ≠ 0 →
      (c.sentK ≠ some n → n * 100000 + 5000 ≤ s.now → ∃ t m, exec (.xcSend xv) s = .next t ∧ (t.sfc x).out = some m ∧ (t.sfc x).sentK = some n ∧
        m.tick + 1 = n ∧ m.state = c.stateK ∧ m.digest = s.reg SF_SET_DIGEST ∧ t.sfc (1 - x) = s.sfc (1 - x)) ∧
      (c.decidedK ≠ some n → n * 100000 + 40000 ≤ s.now → ∃ t, exec (.xcDecide xv) s = .next t ∧ (t.sfc x).decidedK = some n)) ∧
    (∀ m, p.out = some m → s.sfOn x = true → ∃ t, exec (.xcMessage xv) s = .next t ∧ (t.sfc x).peer = some m ∧ (t.sfc (1 - x)).out = none) ∧
    (s.sfOn x = true → s.sfState x = 4 → c.en = true → c.pulse = none → c.pulseAt ≠ some (s.pulseGrid x) → s.now ≤ s.pulseGrid x + 21000 →
      s.pair = .solo ∨ s.pair = .active → exec (.testPulseStart xv) s =
        .next (setSfc x { c with en := false, enAt := s.now, pulse := some s.now, pulseLow := false, pulseAt := some (s.pulseGrid x) } s)) ∧
    (∀ z, c.pulse = some z →
      (s.sfState x = 4 → c.en = false → z + 250 ≤ s.now → exec (.testPulseEnd xv) s = .next (setSfc x { c with en := true, enAt := s.now } s)) ∧
      (c.pulseLow = false → z + 200 ≤ s.now → exec (.testPulseSample xv false false) s = .next (setSfc x { c with pulseLow := true } s)) ∧
      (c.pulseLow = true → z + 2250 ≤ s.now → exec (.testPulseSample xv true true) s = .next (setSfc x { c with pulse := none } s))) ∧
    (s.time.running = true → s.domGood 67 = true ∨ s.domGood 68 = true →
      (s.sf.rstStuck = false → ∃ t, exec .safeRstEdge s = .next t ∧ t.sf.rstEdge = some (s.sf.rstEdge.getD ((s.now + 99999) / 100000)) ∧ t.regs = s.regs) ∧
      (∃ t, exec (.safeRstStuck stuck) s = .next t ∧ t.sf = { s.sf with rstStuck := stuck } ∧
        t.rbit SF_FLAGS SF_FLAGS.rst_stuck.lo = (s.rbit SF_FLAGS SF_FLAGS.rst_stuck.lo || stuck))) ∧
    (s.sfState 0 = 1 → s.sfState 1 = 1 → ∃ t, exec (.selftestDone item) s = .next t ∧ t.fget SF_RESULT SF_RESULT.item = s.selftestItem item.toNat ∧
      t.fget SF_RESULT SF_RESULT.test = (if s.selftestItem item.toNat = 0 then 1 else 2) ∧ t.sfState x ≠ 1)

/-- UNLOCK, LOCK, SET_PWD, STAGE_LOAD, SF_PARAM_DATA_WRITE, SAFETY_COMMIT, SELFTEST, DISARM, SF_BAD_COMMAND and the expiries complete with their effect.
On a device whose channel A answers: UNLOCK with the password and without a lockout opens the session to 60 s after its last PWD write. LOCK ends it.
SET_PWD in an unlocked session with presence stores the password for both channels. STAGE_LOAD stages the set in force. A staging write with session
and presence replaces its word. COMMIT of a set that keeps the rules, in CONFIGURED, waits for its tick. SELFTEST in CONFIGURED puts both channels in
SELFTEST. DISARM leaves no channel in PERMIT or HOT. A value that names no command is refused with code 10. The session and the lockout end once their
time has come, and nothing else changes. (R427, R428, R429, R430, R436) -/
def Obligations.SafetyWritesTakeEffect : Prop :=
  ∀ (q : Requester) (v : BitVec 4) (w : Word) (x : Fin 2) (s : State),
    (s.takes SF_CMD →
      (s.sf.lockedUntil = none → s.sf.pwdA = some s.pwdBytes → s.sf.pwdB = some s.pwdBytes → ∃ t, exec (.unlock q) s = .next t ∧ (t.req q).status = 0 ∧
        t.sf = { s.sf with failures := 0, unlockedUntil := some (s.sf.pwdAt + 60000000000) } ∧ t.fget SF_RESULT SF_RESULT.refusal = 0) ∧
      (∃ t, exec (.lock q) s = .next t ∧ (t.req q).status = 0 ∧ t.sf = { s.sf with unlockedUntil := none } ∧ t.fget SF_RESULT SF_RESULT.refusal = 0) ∧
      (s.unlocked = true → s.presence = true → pwdOk s.pwdBytes = true → ∃ t, exec (.setPwd q) s = .next t ∧ (t.req q).status = 0 ∧
        t.sf.pwdA = some s.pwdBytes ∧ t.sf.pwdB = some s.pwdBytes ∧ t.fget SF_RESULT SF_RESULT.refusal = 0) ∧
      (∃ t, exec (.stageLoad q) s = .next t ∧ (t.req q).status = 0 ∧ t.sf = { s.sf with staging := s.sf.set.getD s.sf.staging } ∧ t.fget SF_RESULT SF_RESULT.refusal = 0) ∧
      (s.unlocked = true → s.sf.pwdA.isSome = true → s.presence = true → s.mode = .configured → setOk s.cut.live s.stagingWords = true →
        ∃ t, exec (.safetyCommit q) s = .next t ∧ (t.req q).status = 0 ∧ t.fget SF_RESULT SF_RESULT.refusal = 0 ∧
          t.sf = { s.sf with commit := some ((s.now + 109999) / 100000, s.stagingWords, q.val) }) ∧
      (s.mode = .configured → ∃ t, exec (.selftest q) s = .next t ∧ (t.req q).status = 0 ∧ t.sfState x = 1 ∧ t.fget SF_RESULT SF_RESULT.test = 3) ∧
      (∃ t, exec (.disarm q) s = .next t ∧ (t.req q).status = 0 ∧ t.sfState x ≠ 4 ∧ t.sfState x ≠ 5 ∧ t.fget SF_RESULT SF_RESULT.refusal = 0) ∧
      (v.toNat = 0 ∨ 8 ≤ v.toNat → ∃ t, exec (.sfBadCommand q v) s = .next t ∧ (t.req q).status = 0 ∧ t.fget SF_RESULT SF_RESULT.refusal = 10 ∧
        t.rbit SF_FLAGS SF_FLAGS.cmd_refused.lo = true ∧ t.sf = s.sf)) ∧
    (s.takes SF_PARAM_DATA → s.unlocked = true → s.presence = true → (s.reg SF_PARAM_IDX).toNat < 336 →
      ∃ t, exec (.sfParamDataWrite q w) s = .next t ∧ (t.req q).status = 0 ∧ nth 0 t.sf.staging (s.reg SF_PARAM_IDX).toNat = w ∧ t.sf.set = s.sf.set) ∧
    (∀ z, s.sf.unlockedUntil = some z → z ≤ s.now → exec .sessionExpiry s = .next { s with sf := { s.sf with unlockedUntil := none } }) ∧
    (∀ z, s.sf.lockedUntil = some z → z ≤ s.now → exec .lockoutExpiry s = .next { s with sf := { s.sf with lockedUntil := none, failures := 0 } })

/-- HANDSHAKE_TIMEOUT, ISLAND_CLOCK_MONITOR_FAULT, FAULT_ESCALATION, CROSSBAR_FAULT, CF_UNCORRECTABLE_ERROR, REGION_FENCE_LIFT and REGION_READY complete.
In every state a time-out, and a clock monitor's fault, of a region that can be fenced leave it fenced, and no other region's fence changed; SF has no
fence, and the next access to it completes with FENCED. A late reaction of a cell leaves its block isolated, one of a block its region fenced, one of
a region its region fenced and the cause of the chip-level reaction standing. A crossbar fault and an uncorrectable error in CF leave their cause
standing. A lift in CONFIGURED completes with OK and leaves none of the named regions fenced. A region that comes up with its domains good is not
waited for any more. (R34, R36, R37, R40, R41, R540) -/
def Obligations.FaultsOfRegionsTakeEffect : Prop :=
  ∀ (q : Requester) (r : Fin 16) (b : Fin 8) (c : Fin 16) (regions : BitVec 16) (s : State),
    let fencing := fun t : State => t.fenced r = true ∧ ∀ j, j < 16 → j ≠ r.val → t.fenced j = s.fenced j
    (fenceable r = true →
      (∃ t, exec (.handshakeTimeout r) s = .next t ∧ fencing t) ∧ (∃ t, exec (.islandClockMonitorFault r) s = .next t ∧ fencing t) ∧
      (∃ t, exec (.faultEscalation r (some b) (some c)) s = .next t ∧ t.isolated r b = true ∧ t.reg REGION_FENCE = s.reg REGION_FENCE) ∧
      (∃ t, exec (.faultEscalation r (some b) none) s = .next t ∧ fencing t) ∧
      (∃ t, exec (.faultEscalation r none none) s = .next t ∧ fencing t ∧ ChipCause.fence r ∈ t.startup.chip)) ∧
    (∃ t, exec (.handshakeTimeout 2) s = .next t ∧ t.mgmt.sfSilent = true ∧ t.reg REGION_FENCE = s.reg REGION_FENCE) ∧
    (s.answers = true → s.mgmt.sfSilent = true → ∃ t, exec (.mgmtTransaction q (BitVec.ofNat 32 SF_STATUS) 0 0) s = .next t ∧ (t.req q).status = 6 ∧
      (t.req q).data = 0 ∧ t.mgmt.sfSilent = false) ∧
    (∃ t, exec .crossbarFault s = .next t ∧ ChipCause.crossbar ∈ t.startup.chip ∧ t.mode ≠ .armed ∧ t.mode ≠ .run) ∧
    (∃ t, exec .cfUncorrectableError s = .next t ∧ ChipCause.cfError ∈ t.startup.chip ∧ t.mode ≠ .armed ∧ t.mode ≠ .run) ∧
    (s.answers = true → s.mode = .configured → ∃ t, exec (.regionFenceLift q regions) s = .next t ∧ (t.req q).status = 0 ∧
      ∀ j, j < 14 → t.fenced j = (s.fenced j && !regions.getLsbD j)) ∧
    (r.val ∈ s.startup.notReady → (∀ d ∈ regionDomains r, s.domOn d = true → s.domGood d = true) →
      ∃ t, exec (.regionReady r) s = .next t ∧ r.val ∉ t.startup.notReady ∧ ∀ j, j ≠ r.val → (j ∈ t.startup.notReady ↔ j ∈ s.startup.notReady))

/-- OPEN_UPDATE, OPEN_KEYS, CLOSE, UPDATE_SESSION_EXPIRY, PRESENCE_OPEN, PRESENCE_CLOSE, FW_BAD_COMMAND and LANE_CLEAR_COUNTS complete with their effect.
On a device that answers: with presence, outside LOADER, OFF, a pause and any session, OPEN gives its requester the update session or the key session.
CLOSE by the owner leaves no session, and so does the end of its 60 s. PRESENCE_N low for 100 ms opens the window of presence; 60 s after its rise the
window is closed. An FW_CMD value that names no command is refused with code 14. LANE_CLEAR_COUNTS clears the three counters of its lane and changes
no other register. (R519, R522, R529, R535) -/
def Obligations.SessionsOpenAndEndWithTheirEffect : Prop :=
  ∀ (q : Requester) (l : Fin 32) (command : BitVec 4) (s : State),
    (s.takes FW_CMD → s.pausing = false → s.presence = true → s.mode ≠ .loader → s.mode ≠ .off → s.session = 0 →
      (∃ t, exec (.openUpdate q) s = .next t ∧ (t.req q).status = 0 ∧ t.session = 1 ∧ t.ownsSession q = true ∧ t.fget FW_RESULT FW_RESULT.refusal = 0) ∧
      (∃ t, exec (.openKeys q) s = .next t ∧ (t.req q).status = 0 ∧ t.session = 2 ∧ t.ownsSession q = true ∧ t.fget FW_RESULT FW_RESULT.refusal = 0)) ∧
    (s.takes FW_CMD → s.pausing = false → s.ownsSession q = true →
      ∃ t, exec (.close q) s = .next t ∧ (t.req q).status = 0 ∧ t.session = 0 ∧ t.ownsSession q = false ∧ t.fget FW_RESULT FW_RESULT.refusal = 0) ∧
    (s.session ≠ 0 → s.fw.sessionAt + 60000000000 ≤ s.now → ∃ t, exec .updateSessionExpiry s = .next t ∧ t.session = 0 ∧ t.rbit FW_FLAGS FW_FLAGS.session_expired.lo = true) ∧
    (s.startup.inReset = false → ∃ t, exec .presenceOpen s = .next t ∧ t.presence = true ∧ t.fw.presenceLow = true) ∧
    (s.presence = true → s.fw.presenceLow = false → s.fw.presenceRose + 60000000000 ≤ s.now →
      ∃ t, exec (.presenceClose false) s = .next t ∧ t.presence = false ∧ OnlyRegs [FW_STATUS] s t ∧ OnlyParts [.regs] s t) ∧
    (∃ t, exec (.presenceClose true) s = .next t ∧ t.fw.presenceLow = false ∧ t.fw.presenceRose = s.now ∧ t.presence = s.presence) ∧
    (s.takes FW_CMD → command.toNat = 0 ∨ 12 < command.toNat → ∃ t, exec (.fwBadCommand q command) s = .next t ∧ (t.req q).status = 0 ∧
      t.fget FW_RESULT FW_RESULT.refusal = 14 ∧ t.rbit FW_FLAGS FW_FLAGS.cmd_refused.lo = true) ∧
    (s.takes (LK_LANE_CMD l) → ∃ t, exec (.laneClearCounts q l) s = .next t ∧ (t.req q).status = 0 ∧
      t.reg (LK_LANE_PRBS_ERR l) = 0 ∧ t.reg (LK_LANE_CNT0 l) = 0 ∧ t.reg (LK_LANE_CNT1 l) = 0 ∧
      OnlyRegs [LK_LANE_PRBS_ERR l, LK_LANE_CNT0 l, LK_LANE_CNT1 l] s t)
end

