-- ==== Sys2Proof/Laws/Memory.lean ====
section
/-!
SUPPORT. The canonical form of a sparse table: every operation of the model on one keeps it, and what a read gives after a write.
-/
namespace Sys2Proof.Machine

set_option Elab.async false

variable {α : Type} {d : Nat → α}

theorem canon_nil : Canon d [] := ⟨List.Pairwise.nil, fun _ h => by simp at h⟩

theorem canon_cons {e : Nat × α} {m : Sparse α} :
    Canon d (e :: m) ↔ (∀ x ∈ m, e.1 < x.1) ∧ e.2 ≠ d e.1 ∧ Canon d m := by
  constructor
  · rintro ⟨hp, hd⟩
    cases hp with
    | cons h1 h2 => exact ⟨h1, hd e (by simp), h2, fun x hx => hd x (by simp [hx])⟩
  · rintro ⟨h1, h2, hp, hd⟩
    refine ⟨List.Pairwise.cons h1 hp, fun x hx => ?_⟩
    rcases List.mem_cons.1 hx with rfl | hx
    · exact h2
    · exact hd x hx

theorem mem_dropTo {k : Nat} {m : Sparse α} {e : Nat × α} (h : e ∈ dropTo k m) : e ∈ m ∧ k < e.1 ∨ e ∈ m := by
  induction m with
  | nil => simp [dropTo] at h
  | cons a m ih =>
    unfold dropTo at h
    split at h
    · rcases ih h with h | h <;> simp [h]
    · exact Or.inr h

theorem dropTo_sub {k : Nat} {m : Sparse α} {e : Nat × α} (h : e ∈ dropTo k m) : e ∈ m :=
  (mem_dropTo h).elim And.left id

theorem canon_dropTo {k : Nat} {m : Sparse α} (h : Canon d m) : Canon d (dropTo k m) := by
  induction m with
  | nil => exact h
  | cons a m ih =>
    unfold dropTo
    split
    · exact ih (canon_cons.1 h).2.2
    · exact h

/-- The keys of a table after a write are those before it and the key written. -/
theorem mem_put {e : Nat × α} [DecidableEq α] {m : Sparse α} {k : Nat} {v : α} (h : e ∈ put d m k v) : e ∈ m ∨ e = (k, v) := by
  induction m with
  | nil =>
    unfold put at h
    split at h <;> simp_all
  | cons a m ih =>
    unfold put at h
    split at h
    · split at h
      · exact Or.inl h
      · rcases List.mem_cons.1 h with h | h
        · exact Or.inr h
        · exact Or.inl h
    · split at h
      · split at h
        · exact Or.inl (List.mem_cons_of_mem _ (dropTo_sub h))
        · rcases List.mem_cons.1 h with h | h
          · exact Or.inr h
          · exact Or.inl (List.mem_cons_of_mem _ h)
      · rcases List.mem_cons.1 h with h | h
        · exact Or.inl (by simp [h])
        · rcases ih h with h | h
          · exact Or.inl (List.mem_cons_of_mem _ h)
          · exact Or.inr h

/-- A write keeps the canonical form. -/
theorem canon_put [DecidableEq α] {m : Sparse α} (h : Canon d m) (k : Nat) (v : α) : Canon d (put d m k v) := by
  induction m with
  | nil =>
    unfold put
    split
    · exact h
    · rename_i hv
      exact canon_cons.2 ⟨fun _ h => by simp at h, hv, canon_nil⟩
  | cons a m ih =>
    obtain ⟨h1, h2, h3⟩ := canon_cons.1 h
    unfold put
    split
    · rename_i hk
      split
      · exact h
      · rename_i hv
        refine canon_cons.2 ⟨fun x hx => ?_, hv, h⟩
        rcases List.mem_cons.1 hx with rfl | hx
        · exact hk
        · exact Nat.lt_trans hk (h1 x hx)
    · split
      · rename_i hk
        split
        · exact canon_dropTo h3
        · rename_i hv
          exact canon_cons.2 ⟨fun x hx => by simpa [hk] using h1 x hx, hv, h3⟩
      · refine canon_cons.2 ⟨fun x hx => ?_, h2, ih h3⟩
        rcases mem_put hx with hx | rfl
        · exact h1 x hx
        · simp only; omega

theorem canon_filter {m : Sparse α} (h : Canon d m) (p : Nat × α → Bool) : Canon d (m.filter p) :=
  ⟨h.1.filter _, fun e he => h.2 e (List.mem_filter.1 he).1⟩

/-- Clearing a range keeps the canonical form. -/
theorem canon_clearWhere {m : Sparse α} (h : Canon d m) (p : Nat → Bool) : Canon d (clearWhere p m) := canon_filter h _

theorem look_dropTo {k : Nat} {m : Sparse α} {a : Nat} (h : k < a) : look d (dropTo k m) a = look d m a := by
  induction m with
  | nil => rfl
  | cons e m ih =>
    obtain ⟨j, w⟩ := e
    unfold dropTo
    split
    · rename_i hj
      rw [ih]
      simp only [look]
      rw [if_neg (by omega), if_neg (by omega)]
    · rfl

theorem look_dropTo_le {k : Nat} {m : Sparse α} {a : Nat} (h : a ≤ k) : look d (dropTo k m) a = d a := by
  induction m with
  | nil => rfl
  | cons e m ih =>
    obtain ⟨j, w⟩ := e
    unfold dropTo
    split
    · exact ih
    · simp only [look]
      rw [if_neg (by omega), if_pos (by omega)]

/-- What a read gives after a write, in any table. -/
theorem look_put [DecidableEq α] (m : Sparse α) (k : Nat) (v : α) (a : Nat) :
    look d (put d m k v) a = if a = k then v else look d m a := by
  induction m with
  | nil =>
    by_cases hv : v = d k <;> by_cases ha : a = k <;> simp [put, look, hv, ha]
  | cons e m ih =>
    obtain ⟨j, w⟩ := e
    unfold put
    by_cases hk : k < j
    · rw [if_pos hk]
      by_cases hv : v = d k
      · rw [if_pos hv]
        by_cases ha : a = k
        · subst ha
          simp only [if_true, look]
          rw [if_neg (by omega), if_pos hk, hv]
        · rw [if_neg ha]
      · rw [if_neg hv]
        by_cases ha : a = k
        · simp [look, ha]
        · simp only [look, if_neg ha]
          by_cases hlt : a < k
          · rw [if_pos hlt, if_neg (by omega), if_pos (by omega)]
          · rw [if_neg hlt]
    · rw [if_neg hk]
      by_cases hkj : k = j
      · subst hkj
        rw [if_pos rfl]
        by_cases hv : v = d k
        · rw [if_pos hv]
          by_cases ha : a = k
          · subst ha
            rw [if_pos rfl, look_dropTo_le (Nat.le_refl _), hv]
          · simp only [look, if_neg ha]
            by_cases hlt : a < k
            · rw [if_pos hlt, look_dropTo_le (by omega)]
            · rw [if_neg hlt, look_dropTo (by omega)]
        · rw [if_neg hv]
          by_cases ha : a = k <;> simp [look, ha]
      · rw [if_neg hkj]
        simp only [look]
        by_cases haj : a = j
        · subst haj
          rw [if_pos rfl, if_neg (fun h => hkj h.symm), if_pos rfl]
        · rw [if_neg haj, if_neg haj]
          by_cases hlt : a < j
          · rw [if_pos hlt, if_pos hlt, if_neg (by omega)]
          · rw [if_neg hlt, if_neg hlt, ih]

theorem look_put_same [DecidableEq α] (m : Sparse α) (k : Nat) (v : α) : look d (put d m k v) k = v := by
  rw [look_put, if_pos rfl]

theorem look_put_other [DecidableEq α] (m : Sparse α) {k a : Nat} (v : α) (h : a ≠ k) : look d (put d m k v) a = look d m a := by
  rw [look_put, if_neg h]

/-- A list of indexed words without the default is in canonical form. -/
theorem canon_words (n base : Nat) (z : Word) (f : Nat → Word) :
    Canon (fun _ => z) ((List.range n).filterMap (fun i => if f i = z then none else some (base + i, f i))) := by
  constructor
  · refine List.Pairwise.filterMap _ (fun a b hab x hx y hy => ?_) List.pairwise_lt_range
    split at hx <;> split at hy <;> simp_all
    rw [← hx, ← hy]
    simpa using hab
  · intro e he
    obtain ⟨i, _, hi⟩ := List.mem_filterMap.1 he
    split at hi
    · simp at hi
    · rename_i hz
      simp only [Option.some.injEq] at hi
      rw [← hi]
      exact hz

/-- Two tables in canonical form that lie one above the other join to one. -/
theorem canon_append {m l : Sparse α} (hm : Canon d m) (hl : Canon d l) (h : ∀ x ∈ m, ∀ y ∈ l, x.1 < y.1) : Canon d (m ++ l) :=
  ⟨List.pairwise_append.2 ⟨hm.1, hl.1, h⟩, fun e he => (List.mem_append.1 he).elim (hm.2 e) (hl.2 e)⟩

/-- A slot of a table is replaced: what lies below it, its new words, what lies above it. -/
theorem canon_slot {m w : Sparse α} (lo hi : Nat) (hm : Canon d m) (hw : Canon d w) (hr : ∀ e ∈ w, lo ≤ e.1 ∧ e.1 < hi) (hh : lo ≤ hi) :
    Canon d (m.filter (fun e => decide (e.1 < lo)) ++ w ++ m.filter (fun e => decide (hi ≤ e.1))) := by
  refine canon_append (canon_append (canon_filter hm _) hw ?_) (canon_filter hm _) ?_
  · intro x hx y hy
    have h3 := of_decide_eq_true (List.mem_filter.1 hx).2
    exact Nat.lt_of_lt_of_le h3 (hr y hy).1
  · intro x hx y hy
    have h3 := of_decide_eq_true (List.mem_filter.1 hy).2
    rcases List.mem_append.1 hx with hx | hx
    · exact Nat.lt_of_lt_of_le (Nat.lt_of_lt_of_le (of_decide_eq_true (List.mem_filter.1 hx).2) hh) h3
    · exact Nat.lt_of_lt_of_le (hr x hx).2 h3
theorem words_range (n base : Nat) (z : Word) (f : Nat → Word) (e : Nat × Word)
    (h : e ∈ (List.range n).filterMap (fun i => if f i = z then none else some (base + i, f i))) : base ≤ e.1 ∧ e.1 < base + n := by
  obtain ⟨i, hi, hw⟩ := List.mem_filterMap.1 h
  split at hw
  · cases hw
  · injection hw with hw
    rw [← hw]
    exact ⟨Nat.le_add_right _ _, Nat.add_lt_add_left (List.mem_range.1 hi) _⟩

/-- Every memory of the reset state is in canonical form. -/
theorem wf_reset : Memory.wf State.reset := ⟨canon_nil, canon_nil, canon_nil, canon_nil, canon_nil⟩

end Sys2Proof.Machine
end

