-- ==== Sys2Proof/Laws/Kept.lean ====
section
/-!
SUPPORT. What an operation leaves alone, part by part (`Kept`, in Safety). One lemma per operation of the model says which parts it may
change, so a frame of a command is read off from its lemma.
-/
namespace Sys2Proof.Machine

set_option Elab.async false

theorem Kept.refl (p : Part) (s : State) : Kept p s s := by
  cases p <;> simp [Kept]

theorem Kept.trans {p : Part} {a b c : State} (h : Kept p a b) (k : Kept p b c) : Kept p a c := by
  cases p <;> simp only [Kept] at * <;> first | exact k.trans h | exact fun x => k (h x) | exact h.trans k | skip
  · exact ⟨k.1.trans h.1, k.2.1.trans h.2.1, k.2.2.trans h.2.2⟩
  · exact ⟨k.1.trans h.1, k.2.trans h.2⟩
  · exact ⟨k.1.trans h.1, k.2.trans h.2⟩
  · exact ⟨k.1.trans h.1, k.2.1.trans h.2.1, k.2.2.trans h.2.2⟩

variable {p : Part} {b : State}

/-- A state built from `t` by replacing fields keeps what `t` keeps, where the replaced fields do not matter. -/
theorem mk_kept {t : State} {a1 a2 a3 a4 a5 a6 a7 a8 a9 a10 a11 a12 a13 a14 a15 a16 a17 a18 a19 a20 a21 a22}
    (k : Kept p b t)
    (hmode : p = .mode → a1 = t.mode
      := by intro h; first | with_reducible rfl | contradiction | (cases h; contradiction))
    (hregs : p = .regs → a2 = t.regs
      := by intro h; first | with_reducible rfl | contradiction | (cases h; contradiction))
    (hregs_canon : p = .canon → a2 = t.regs
      := by intro h; first | with_reducible rfl | contradiction | (cases h; contradiction))
    (htime : p = .time → a3 = t.time
      := by intro h; first | with_reducible rfl | contradiction | (cases h; contradiction))
    (hcut : p = .cut → a4 = t.cut
      := by intro h; first | with_reducible rfl | contradiction | (cases h; contradiction))
    (hmgmt : p = .mgmt → a5 = t.mgmt
      := by intro h; first | with_reducible rfl | contradiction | (cases h; contradiction))
    (hstartup : p = .startup → a6 = t.startup
      := by intro h; first | with_reducible rfl | contradiction | (cases h; contradiction))
    (hcal : p = .cal → a7 = t.cal
      := by intro h; first | with_reducible rfl | contradiction | (cases h; contradiction))
    (hrx : p = .rx → a8 = t.rx
      := by intro h; first | with_reducible rfl | contradiction | (cases h; contradiction))
    (htx : p = .tx → a9 = t.tx
      := by intro h; first | with_reducible rfl | contradiction | (cases h; contradiction))
    (hlk : p = .lk → a10 = t.lk
      := by intro h; first | with_reducible rfl | contradiction | (cases h; contradiction))
    (haq : p = .aq → a11 = t.aq
      := by intro h; first | with_reducible rfl | contradiction | (cases h; contradiction))
    (hadcs : p = .adcs → a12 = t.adcs
      := by intro h; first | with_reducible rfl | contradiction | (cases h; contradiction))
    (hsc : p = .sc → a13 = t.sc
      := by intro h; first | with_reducible rfl | contradiction | (cases h; contradiction))
    (hmotionIn : p = .motionIn → a14 = t.motionIn
      := by intro h; first | with_reducible rfl | contradiction | (cases h; contradiction))
    (hsupplyIn : p = .motionIn → a15 = t.supplyIn
      := by intro h; first | with_reducible rfl | contradiction | (cases h; contradiction))
    (htestIn : p = .motionIn → a16 = t.testIn
      := by intro h; first | with_reducible rfl | contradiction | (cases h; contradiction))
    (hpairSt : p = .pairSt → a17 = t.pairSt
      := by intro h; first | with_reducible rfl | contradiction | (cases h; contradiction))
    (hsf : p = .sf → a18 = t.sf
      := by intro h; first | with_reducible rfl | contradiction | (cases h; contradiction))
    (hhk : p = .hk → a19 = t.hk
      := by intro h; first | with_reducible rfl | contradiction | (cases h; contradiction))
    (hfw : p = .fw → a20 = t.fw
      := by intro h; first | with_reducible rfl | contradiction | (cases h; contradiction))
    (htap : p = .tap → a21 = t.tap
      := by intro h; first | with_reducible rfl | contradiction | (cases h; contradiction))
    (hfresh : p = .fresh → a22 = t.fresh
      := by intro h; first | with_reducible rfl | contradiction | (cases h; contradiction))
    (h_tbase : p = .tbase → a3.tbase = t.time.tbase
      := by intro h; first | with_reducible rfl | contradiction | (cases h; contradiction))
    (h_live : p = .live → a4.live = t.cut.live
      := by intro h; first | with_reducible rfl | contradiction | (cases h; contradiction))
    (h_shadow : p = .shadow → a4.shadow = t.cut.shadow
      := by intro h; first | with_reducible rfl | contradiction | (cases h; contradiction))
    (h_shadow_canon : p = .canon → a4.shadow = t.cut.shadow
      := by intro h; first | with_reducible rfl | contradiction | (cases h; contradiction))
    (h_mem : p = .aqMem → a11.mem = t.aq.mem
      := by intro h; first | with_reducible rfl | contradiction | (cases h; contradiction))
    (h_mem_canon : p = .canon → a11.mem = t.aq.mem
      := by intro h; first | with_reducible rfl | contradiction | (cases h; contradiction))
    (h_image : p = .image → a20.image = t.fw.image
      := by intro h; first | with_reducible rfl | contradiction | (cases h; contradiction))
    (h_image_canon : p = .canon → a20.image = t.fw.image
      := by intro h; first | with_reducible rfl | contradiction | (cases h; contradiction))
    (h_cuts : p = .image → a20.cuts = t.fw.cuts
      := by intro h; first | with_reducible rfl | contradiction | (cases h; contradiction))
    (h_cuts_canon : p = .canon → a20.cuts = t.fw.cuts
      := by intro h; first | with_reducible rfl | contradiction | (cases h; contradiction))
    (h_keys : p = .keys → a20.keys = t.fw.keys
      := by intro h; first | with_reducible rfl | contradiction | (cases h; contradiction))
    (h_revoked : p = .keys → a20.revoked = t.fw.revoked
      := by intro h; first | with_reducible rfl | contradiction | (cases h; contradiction))
    (h_revoked_sound : p = .sound → a20.revoked = t.fw.revoked
      := by intro h; first | with_reducible rfl | contradiction | (cases h; contradiction))
    (h_minSec : p = .keys → a20.minSec = t.fw.minSec
      := by intro h; first | with_reducible rfl | contradiction | (cases h; contradiction))
    (h_minSec_minSec : p = .minSec → a20.minSec = t.fw.minSec
      := by intro h; first | with_reducible rfl | contradiction | (cases h; contradiction))
    (h_pwdA : p = .pwd → a18.pwdA = t.sf.pwdA
      := by intro h; first | with_reducible rfl | contradiction | (cases h; contradiction))
    (h_pwdA_sound : p = .sound → a18.pwdA = t.sf.pwdA
      := by intro h; first | with_reducible rfl | contradiction | (cases h; contradiction))
    (h_pwdB : p = .pwd → a18.pwdB = t.sf.pwdB
      := by intro h; first | with_reducible rfl | contradiction | (cases h; contradiction))
    (h_pwdB_sound : p = .sound → a18.pwdB = t.sf.pwdB
      := by intro h; first | with_reducible rfl | contradiction | (cases h; contradiction)) :
    Kept p b ⟨t.pending, a1, a2, a3, a4, a5, a6, a7, a8, a9, a10, a11, a12, a13, a14, a15, a16, a17, a18, a19, a20, a21, a22⟩ := by
  refine k.trans ?_
  cases p <;> simp only [Kept, reduceCtorEq, forall_const, false_implies] at * <;>
    first | assumption | (refine ⟨?_, ?_⟩ <;> assumption) | (refine ⟨?_, ?_, ?_⟩ <;> assumption) | skip
  · intro hb
    simp only [Memory.wf, hregs_canon, h_shadow_canon, h_mem_canon, h_image_canon, h_cuts_canon] at hb ⊢
    exact hb
  · intro hb
    simp only [State.guard, Guard.sound, h_revoked_sound, h_pwdA_sound, h_pwdB_sound] at hb ⊢
    exact hb
  · exact h_minSec_minSec.ge

theorem ite_kept {c : Prop} [Decidable c] {s t : State} (h : Kept p b s) (k : Kept p b t) : Kept p b (if c then s else t) := by
  split <;> assumption

theorem forUp_kept {f : Nat → State → State} {i n : Nat} {s : State} (hf : ∀ i t, Kept p b t → Kept p b (f i t)) (k : Kept p b s) :
    Kept p b (forUp f i n s) := by
  induction n generalizing i s with
  | zero => exact k
  | succ n ih => exact ih (hf _ _ k)

theorem foldl_kept {α : Type} {f : State → α → State} {l : List α} {s : State} (hf : ∀ t x, Kept p b t → Kept p b (f t x))
    (k : Kept p b s) : Kept p b (l.foldl f s) := by
  induction l generalizing s with
  | nil => exact k
  | cons x l ih => exact ih (hf _ _ k)

theorem foldl_fst_kept {α β : Type} {f : State × β → α → State × β} {l : List α} {r : State × β}
    (hf : ∀ t x, Kept p b t.1 → Kept p b (f t x).1) (k : Kept p b r.1) : Kept p b (l.foldl f r).1 := by
  induction l generalizing r with
  | nil => exact k
  | cons x l ih => exact ih (hf _ _ k)

/-- The `Fw` record is replaced by one with the same slots and keys. -/
theorem setFw_kept (hfw : p ≠ .fw) {x s} (k : Kept p b s)
    (h_image : p = .image → x.image = s.fw.image
      := by intro h; first | with_reducible rfl | contradiction | (cases h; contradiction) | ((repeat' split) <;> with_reducible rfl))
    (h_image_canon : p = .canon → x.image = s.fw.image
      := by intro h; first | with_reducible rfl | contradiction | (cases h; contradiction) | ((repeat' split) <;> with_reducible rfl))
    (h_cuts : p = .image → x.cuts = s.fw.cuts
      := by intro h; first | with_reducible rfl | contradiction | (cases h; contradiction) | ((repeat' split) <;> with_reducible rfl))
    (h_cuts_canon : p = .canon → x.cuts = s.fw.cuts
      := by intro h; first | with_reducible rfl | contradiction | (cases h; contradiction) | ((repeat' split) <;> with_reducible rfl))
    (h_keys : p = .keys → x.keys = s.fw.keys
      := by intro h; first | with_reducible rfl | contradiction | (cases h; contradiction) | ((repeat' split) <;> with_reducible rfl))
    (h_revoked : p = .keys → x.revoked = s.fw.revoked
      := by intro h; first | with_reducible rfl | contradiction | (cases h; contradiction) | ((repeat' split) <;> with_reducible rfl))
    (h_revoked_sound : p = .sound → x.revoked = s.fw.revoked
      := by intro h; first | with_reducible rfl | contradiction | (cases h; contradiction) | ((repeat' split) <;> with_reducible rfl))
    (h_minSec : p = .keys → x.minSec = s.fw.minSec
      := by intro h; first | with_reducible rfl | contradiction | (cases h; contradiction) | ((repeat' split) <;> with_reducible rfl))
    (h_minSec_minSec : p = .minSec → x.minSec = s.fw.minSec
      := by intro h; first | with_reducible rfl | contradiction | (cases h; contradiction) | ((repeat' split) <;> with_reducible rfl)) :
    Kept p b (setFw x s) := by
  unfold setFw
  exact mk_kept k (h_image := h_image) (h_image_canon := h_image_canon) (h_cuts := h_cuts) (h_cuts_canon := h_cuts_canon)
    (h_keys := h_keys) (h_revoked := h_revoked) (h_revoked_sound := h_revoked_sound) (h_minSec := h_minSec)
    (h_minSec_minSec := h_minSec_minSec)

/-- The `Fw` record is replaced by one with other slots, in canonical form, and the same keys. -/
theorem setFw_slots_kept (hfw : p ≠ .fw) (himage : p ≠ .image) {x s}
    (hc : Memory.wf s → Canon (fun _ => 0xFFFFFFFF) x.image ∧ Canon (fun _ => 0xFFFFFFFF) x.cuts) (k : Kept p b s)
    (h_keys : p = .keys → x.keys = s.fw.keys
      := by intro h; first | with_reducible rfl | contradiction | (cases h; contradiction) | ((repeat' split) <;> with_reducible rfl))
    (h_revoked : p = .keys → x.revoked = s.fw.revoked
      := by intro h; first | with_reducible rfl | contradiction | (cases h; contradiction) | ((repeat' split) <;> with_reducible rfl))
    (h_revoked_sound : p = .sound → x.revoked = s.fw.revoked
      := by intro h; first | with_reducible rfl | contradiction | (cases h; contradiction) | ((repeat' split) <;> with_reducible rfl))
    (h_minSec : p = .keys → x.minSec = s.fw.minSec
      := by intro h; first | with_reducible rfl | contradiction | (cases h; contradiction) | ((repeat' split) <;> with_reducible rfl))
    (h_minSec_minSec : p = .minSec → x.minSec = s.fw.minSec
      := by intro h; first | with_reducible rfl | contradiction | (cases h; contradiction) | ((repeat' split) <;> with_reducible rfl)) :
    Kept p b (setFw x s) := by
  by_cases e : p = .canon
  · subst e
    exact fun h => ⟨(k h).1, (k h).2.1, (k h).2.2.1, hc (k h)⟩
  · unfold setFw
    exact mk_kept k (h_keys := h_keys) (h_revoked := h_revoked) (h_revoked_sound := h_revoked_sound) (h_minSec := h_minSec)
      (h_minSec_minSec := h_minSec_minSec)

/-- The `Cut` record is replaced by one with another shadow plane, in canonical form. -/
theorem cut_kept (hcut : p ≠ .cut) (hshadow : p ≠ .shadow) {x} {s : State} (hc : Memory.wf s → Canon (fun _ => 0) x.shadow)
    (k : Kept p b s)
    (h_live : p = .live → x.live = s.cut.live
      := by intro h; first | with_reducible rfl | contradiction | (cases h; contradiction) | ((repeat' split) <;> with_reducible rfl)) :
    Kept p b { s with cut := x } := by
  by_cases e : p = .canon
  · subst e
    exact fun h => ⟨(k h).1, (k h).2.1, hc (k h), (k h).2.2.2⟩
  · exact mk_kept k (h_live := h_live)

/-- The `Aq` record is replaced by one with another memory, in canonical form. -/
theorem aq_kept (haq : p ≠ .aq) (haqMem : p ≠ .aqMem) {x} {s : State} (hc : Memory.wf s → Canon (fun _ => 0) x.mem)
    (k : Kept p b s) : Kept p b { s with aq := x } := by
  by_cases e : p = .canon
  · subst e
    exact fun h => ⟨(k h).1, hc (k h), (k h).2.2⟩
  · exact mk_kept k

/-- Registers. -/
theorem setReg_kept (hregs : p ≠ .regs) {a v s} (k : Kept p b s) : Kept p b (setReg a v s) := by
  refine k.trans ?_
  cases p <;> first | contradiction | rfl | exact ⟨rfl, rfl⟩ | exact ⟨rfl, rfl, rfl⟩ | exact id | exact Nat.le_refl _ | skip
  exact fun h => ⟨canon_put h.1 _ _, h.2⟩

end Sys2Proof.Machine
end

