-- ==== Sys2Proof/Laws/KeptBase.lean ====
section
/-! SUPPORT. What each operation and command of the shared operations leaves alone (see Sys2Proof/Laws/Kept.lean). -/
namespace Sys2Proof.Machine

set_option Elab.async false
set_option linter.unusedTactic false
set_option linter.unreachableTactic false

variable {p : Part} {b : State}

theorem accept_kept (htime : p ≠ .time) {s} (k : Kept p b s) :
    Kept p b (accept s) := by
  unfold accept
  try dsimp only
  repeat' first | with_reducible assumption | (intro _; try dsimp only) | with_reducible apply foldl_kept | with_reducible apply ite_kept | (fail_if_no_progress (with_reducible refine mk_kept ?_)) | split

theorem plainWrite_kept (hregs : p ≠ .regs) {x1 x2 x3 s} (k : Kept p b s) :
    Kept p b (plainWrite x1 x2 x3 s) := by
  unfold plainWrite
  try dsimp only
  repeat' first | with_reducible assumption | (intro _; try dsimp only) | with_reducible apply setReg_kept hregs | with_reducible apply foldl_kept | with_reducible apply ite_kept | (fail_if_no_progress (with_reducible refine mk_kept ?_)) | split

theorem setReg64_kept (hregs : p ≠ .regs) {x1 x2 s} (k : Kept p b s) :
    Kept p b (setReg64 x1 x2 s) := by
  unfold setReg64
  try dsimp only
  repeat' first | with_reducible assumption | (intro _; try dsimp only) | with_reducible apply setReg_kept hregs | with_reducible apply foldl_kept | with_reducible apply ite_kept | (fail_if_no_progress (with_reducible refine mk_kept ?_)) | split

theorem setRegs_kept (hregs : p ≠ .regs) {x1 x2 s} (k : Kept p b s) :
    Kept p b (setRegs x1 x2 s) := by
  induction x2 generalizing x1 s with
  | nil => exact k
  | cons w ws ih => exact ih (setReg_kept hregs k)

theorem setReq_kept (hmgmt : p ≠ .mgmt) {x1 x2 s} (k : Kept p b s) :
    Kept p b (setReq x1 x2 s) := by
  unfold setReq
  try dsimp only
  repeat' first | with_reducible assumption | (intro _; try dsimp only) | with_reducible apply foldl_kept | with_reducible apply ite_kept | (fail_if_no_progress (with_reducible refine mk_kept ?_)) | split

theorem fset_kept (hregs : p ≠ .regs) {x1 x2 x3 s} (k : Kept p b s) :
    Kept p b (fset x1 x2 x3 s) := by
  unfold fset
  try dsimp only
  repeat' first | with_reducible assumption | (intro _; try dsimp only) | with_reducible apply setReg_kept hregs | with_reducible apply foldl_kept | with_reducible apply ite_kept | (fail_if_no_progress (with_reducible refine mk_kept ?_)) | split

theorem fsets_kept (hregs : p ≠ .regs) {x1 x2 s} (k : Kept p b s) :
    Kept p b (fsets x1 x2 s) := by
  unfold fsets
  try dsimp only
  repeat' first | with_reducible assumption | (intro _; try dsimp only) | with_reducible apply setReg_kept hregs | with_reducible apply foldl_kept | with_reducible apply ite_kept | (fail_if_no_progress (with_reducible refine mk_kept ?_)) | split

theorem drawFree_kept (hfresh : p ≠ .fresh) {s} (k : Kept p b s) :
    Kept p b (drawFree s) := by
  unfold drawFree
  try dsimp only
  repeat' first | with_reducible assumption | (intro _; try dsimp only) | with_reducible apply foldl_kept | with_reducible apply ite_kept | (fail_if_no_progress (with_reducible refine mk_kept ?_)) | split

theorem unfreeze_kept (hmgmt : p ≠ .mgmt) {x1 s} (k : Kept p b s) :
    Kept p b (unfreeze x1 s) := by
  unfold unfreeze
  try dsimp only
  repeat' first | with_reducible assumption | (intro _; try dsimp only) | with_reducible apply foldl_kept | with_reducible apply ite_kept | (fail_if_no_progress (with_reducible refine mk_kept ?_)) | split

theorem setRecorder_kept (hmgmt : p ≠ .mgmt) {x1 x2 s} (k : Kept p b s) :
    Kept p b (setRecorder x1 x2 s) := by
  unfold setRecorder
  try dsimp only
  repeat' first | with_reducible assumption | (intro _; try dsimp only) | with_reducible apply foldl_kept | with_reducible apply ite_kept | (fail_if_no_progress (with_reducible refine mk_kept ?_)) | split

theorem countLost_kept (hregs : p ≠ .regs) {s} (k : Kept p b s) :
    Kept p b (countLost s) := by
  unfold countLost
  try dsimp only
  repeat' first | with_reducible assumption | (intro _; try dsimp only) | with_reducible apply setReg_kept hregs | with_reducible apply foldl_kept | with_reducible apply ite_kept | (fail_if_no_progress (with_reducible refine mk_kept ?_)) | split

theorem recordEvent_kept (hregs : p ≠ .regs) (hmgmt : p ≠ .mgmt) {x1 x2 s} (k : Kept p b s) :
    Kept p b (recordEvent x1 x2 s) := by
  unfold recordEvent
  try dsimp only
  repeat' first | with_reducible assumption | (intro _; try dsimp only) | with_reducible apply setRecorder_kept hmgmt | with_reducible apply countLost_kept hregs | with_reducible apply setReg_kept hregs | with_reducible apply foldl_kept | with_reducible apply ite_kept | (fail_if_no_progress (with_reducible refine mk_kept ?_)) | split

theorem setFlag_kept (hregs : p ≠ .regs) (hmgmt : p ≠ .mgmt) {x1 x2 s} (k : Kept p b s) :
    Kept p b (setFlag x1 x2 s) := by
  unfold setFlag
  try dsimp only
  repeat' first | with_reducible assumption | (intro _; try dsimp only) | with_reducible apply setReg_kept hregs | with_reducible apply recordEvent_kept hregs hmgmt | with_reducible apply foldl_kept | with_reducible apply ite_kept | (fail_if_no_progress (with_reducible refine mk_kept ?_)) | split

theorem flag_kept (hregs : p ≠ .regs) (hmgmt : p ≠ .mgmt) {x1 x2 s} (k : Kept p b s) :
    Kept p b (flag x1 x2 s) := by
  unfold flag
  try dsimp only
  repeat' first | with_reducible assumption | (intro _; try dsimp only) | with_reducible apply setFlag_kept hregs hmgmt | with_reducible apply foldl_kept | with_reducible apply ite_kept | (fail_if_no_progress (with_reducible refine mk_kept ?_)) | split

theorem bump_kept (hregs : p ≠ .regs) {x1 x2 x3 s} (k : Kept p b s) :
    Kept p b (bump x1 x2 x3 s) := by
  unfold bump
  try dsimp only
  repeat' first | with_reducible assumption | (intro _; try dsimp only) | with_reducible apply fset_kept hregs | with_reducible apply foldl_kept | with_reducible apply ite_kept | (fail_if_no_progress (with_reducible refine mk_kept ?_)) | split

theorem bumpOvf_kept (hregs : p ≠ .regs) (hmgmt : p ≠ .mgmt) {x1 x2 x3 x4 x5 s} (k : Kept p b s) :
    Kept p b (bumpOvf x1 x2 x3 x4 x5 s) := by
  unfold bumpOvf
  try dsimp only
  repeat' first | with_reducible assumption | (intro _; try dsimp only) | with_reducible apply fset_kept hregs | with_reducible apply setFlag_kept hregs hmgmt | with_reducible apply foldl_kept | with_reducible apply ite_kept | (fail_if_no_progress (with_reducible refine mk_kept ?_)) | split

theorem kindOne_kept (hregs : p ≠ .regs) (hmgmt : p ≠ .mgmt) {x1 x2 x3 x4 s} (k : Kept p b s) :
    Kept p b (kindOne x1 x2 x3 x4 s) := by
  unfold kindOne
  try dsimp only
  repeat' first | with_reducible assumption | (intro _; try dsimp only) | with_reducible apply recordEvent_kept hregs hmgmt | with_reducible apply foldl_kept | with_reducible apply ite_kept | (fail_if_no_progress (with_reducible refine mk_kept ?_)) | split

theorem wrapRecord_kept (hregs : p ≠ .regs) (hmgmt : p ≠ .mgmt) {x1 x2 x3 s} (k : Kept p b s) :
    Kept p b (wrapRecord x1 x2 x3 s) := by
  unfold wrapRecord
  try dsimp only
  repeat' first | with_reducible assumption | (intro _; try dsimp only) | with_reducible apply flag_kept hregs hmgmt | with_reducible apply kindOne_kept hregs hmgmt | with_reducible apply foldl_kept | with_reducible apply ite_kept | (fail_if_no_progress (with_reducible refine mk_kept ?_)) | split

theorem freeze_kept (hmgmt : p ≠ .mgmt) {x1 s} (k : Kept p b s) :
    Kept p b (freeze x1 s) := by
  unfold freeze
  try dsimp only
  repeat' first | with_reducible assumption | (intro _; try dsimp only) | with_reducible apply foldl_kept | with_reducible apply ite_kept | (fail_if_no_progress (with_reducible refine mk_kept ?_)) | split

theorem flagIf_kept (hregs : p ≠ .regs) (hmgmt : p ≠ .mgmt) {x1 x2 x3 s} (k : Kept p b s) :
    Kept p b (flagIf x1 x2 x3 s) := by
  unfold flagIf
  try dsimp only
  repeat' first | with_reducible assumption | (intro _; try dsimp only) | with_reducible apply flag_kept hregs hmgmt | with_reducible apply foldl_kept | with_reducible apply ite_kept | (fail_if_no_progress (with_reducible refine mk_kept ?_)) | split

theorem isolateBlock_kept (hstartup : p ≠ .startup) {x1 x2 s} (k : Kept p b s) :
    Kept p b (isolateBlock x1 x2 s) := by
  unfold isolateBlock
  try dsimp only
  repeat' first | with_reducible assumption | (intro _; try dsimp only) | with_reducible apply foldl_kept | with_reducible apply ite_kept | (fail_if_no_progress (with_reducible refine mk_kept ?_)) | split

theorem setBlk_kept (hrx : p ≠ .rx) {x1 x2 s} (k : Kept p b s) :
    Kept p b (setBlk x1 x2 s) := by
  unfold setBlk
  try dsimp only
  repeat' first | with_reducible assumption | (intro _; try dsimp only) | with_reducible apply foldl_kept | with_reducible apply ite_kept | (fail_if_no_progress (with_reducible refine mk_kept ?_)) | split

theorem fgBegin_kept (hregs : p ≠ .regs) (hcal : p ≠ .cal) (hrx : p ≠ .rx) {x1 s} (k : Kept p b s) :
    Kept p b (fgBegin x1 s) := by
  unfold fgBegin
  try dsimp only
  repeat' first | with_reducible assumption | (intro _; try dsimp only) | with_reducible apply setBlk_kept hrx | with_reducible apply fset_kept hregs | with_reducible apply foldl_kept | with_reducible apply ite_kept | (fail_if_no_progress (with_reducible refine mk_kept ?_)) | split

theorem setCell_kept (hrx : p ≠ .rx) {x1 x2 s} (k : Kept p b s) :
    Kept p b (setCell x1 x2 s) := by
  unfold setCell
  try dsimp only
  repeat' first | with_reducible assumption | (intro _; try dsimp only) | with_reducible apply foldl_kept | with_reducible apply ite_kept | (fail_if_no_progress (with_reducible refine mk_kept ?_)) | split

theorem stopCell_kept (hrx : p ≠ .rx) {x1 s} (k : Kept p b s) :
    Kept p b (stopCell x1 s) := by
  unfold stopCell
  try dsimp only
  repeat' first | with_reducible assumption | (intro _; try dsimp only) | with_reducible apply setCell_kept hrx | with_reducible apply foldl_kept | with_reducible apply ite_kept | (fail_if_no_progress (with_reducible refine mk_kept ?_)) | split

theorem leaveChanges_kept (htime : p ≠ .time) {x1 s} (k : Kept p b s) :
    Kept p b (leaveChanges x1 s) := by
  unfold leaveChanges
  try dsimp only
  repeat' first | with_reducible assumption | (intro _; try dsimp only) | with_reducible apply foldl_kept | with_reducible apply ite_kept | (fail_if_no_progress (with_reducible refine mk_kept ?_)) | split

theorem missSwap_kept (hcal : p ≠ .cal) {x1 x2 s} (k : Kept p b s) :
    Kept p b (missSwap x1 x2 s) := by
  unfold missSwap
  try dsimp only
  repeat' first | with_reducible assumption | (intro _; try dsimp only) | with_reducible apply foldl_kept | with_reducible apply ite_kept | (fail_if_no_progress (with_reducible refine mk_kept ?_)) | split

theorem setPort_kept (htx : p ≠ .tx) {x1 x2 s} (k : Kept p b s) :
    Kept p b (setPort x1 x2 s) := by
  unfold setPort
  try dsimp only
  repeat' first | with_reducible assumption | (intro _; try dsimp only) | with_reducible apply foldl_kept | with_reducible apply ite_kept | (fail_if_no_progress (with_reducible refine mk_kept ?_)) | split

theorem stopPort_kept (htx : p ≠ .tx) {x1 s} (k : Kept p b s) :
    Kept p b (stopPort x1 s) := by
  unfold stopPort
  try dsimp only
  repeat' first | with_reducible assumption | (intro _; try dsimp only) | with_reducible apply setPort_kept htx | with_reducible apply foldl_kept | with_reducible apply ite_kept | (fail_if_no_progress (with_reducible refine mk_kept ?_)) | split

theorem leaveSwap_kept (hcut : p ≠ .cut) {x1 s} (k : Kept p b s) :
    Kept p b (leaveSwap x1 s) := by
  unfold leaveSwap
  try dsimp only
  repeat' first | with_reducible assumption | (intro _; try dsimp only) | with_reducible apply foldl_kept | with_reducible apply ite_kept | (fail_if_no_progress (with_reducible refine mk_kept ?_)) | split

theorem dropEdges_kept (hrx : p ≠ .rx) {x1 s} (k : Kept p b s) :
    Kept p b (dropEdges x1 s) := by
  unfold dropEdges
  try dsimp only
  repeat' first | with_reducible assumption | (intro _; try dsimp only) | with_reducible apply setCell_kept hrx | with_reducible apply forUp_kept | with_reducible apply foldl_kept | with_reducible apply ite_kept | (fail_if_no_progress (with_reducible refine mk_kept ?_)) | split

theorem setSeq_kept (htx : p ≠ .tx) {x1 x2 s} (k : Kept p b s) :
    Kept p b (setSeq x1 x2 s) := by
  unfold setSeq
  try dsimp only
  repeat' first | with_reducible assumption | (intro _; try dsimp only) | with_reducible apply foldl_kept | with_reducible apply ite_kept | (fail_if_no_progress (with_reducible refine mk_kept ?_)) | split

theorem stopSeq_kept (htx : p ≠ .tx) {x1 s} (k : Kept p b s) :
    Kept p b (stopSeq x1 s) := by
  unfold stopSeq
  try dsimp only
  repeat' first | with_reducible assumption | (intro _; try dsimp only) | with_reducible apply setSeq_kept htx | with_reducible apply foldl_kept | with_reducible apply ite_kept | (fail_if_no_progress (with_reducible refine mk_kept ?_)) | split

theorem stopBlock_kept (hregs : p ≠ .regs) (hcal : p ≠ .cal) (hrx : p ≠ .rx) {x1 s} (k : Kept p b s) :
    Kept p b (stopBlock x1 s) := by
  unfold stopBlock
  try dsimp only
  repeat' first | with_reducible assumption | (intro _; try dsimp only) | with_reducible apply setBlk_kept hrx | with_reducible apply fgBegin_kept hregs hcal hrx | with_reducible apply bump_kept hregs | with_reducible apply foldl_kept | with_reducible apply ite_kept | (fail_if_no_progress (with_reducible refine mk_kept ?_)) | split

theorem stampChanges_kept (htime : p ≠ .time) {x1 x2 s} (k : Kept p b s) :
    Kept p b (stampChanges x1 x2 s) := by
  unfold stampChanges
  try dsimp only
  repeat' first | with_reducible assumption | (intro _; try dsimp only) | with_reducible apply foldl_kept | with_reducible apply ite_kept | (fail_if_no_progress (with_reducible refine mk_kept ?_)) | split

theorem slewFinish_kept (hcal : p ≠ .cal) {s} (k : Kept p b s) :
    Kept p b (slewFinish s) := by
  unfold slewFinish
  try dsimp only
  repeat' first | with_reducible assumption | (intro _; try dsimp only) | with_reducible apply foldl_kept | with_reducible apply ite_kept | (fail_if_no_progress (with_reducible refine mk_kept ?_)) | split

theorem fgSkip_kept (hregs : p ≠ .regs) {s} (k : Kept p b s) :
    Kept p b (fgSkip s) := by
  unfold fgSkip
  try dsimp only
  repeat' first | with_reducible assumption | (intro _; try dsimp only) | with_reducible apply fset_kept hregs | with_reducible apply foldl_kept | with_reducible apply ite_kept | (fail_if_no_progress (with_reducible refine mk_kept ?_)) | split

theorem fgFill_kept (hregs : p ≠ .regs) (hcal : p ≠ .cal) (hrx : p ≠ .rx) {x1 s} (k : Kept p b s) :
    Kept p b (fgFill x1 s) := by
  induction x1 generalizing s with
  | zero => exact k
  | succ n ih =>
    unfold fgFill
    dsimp only
    repeat' first | with_reducible assumption | with_reducible apply ih | with_reducible apply fset_kept hregs | with_reducible apply fgBegin_kept hregs hcal hrx | with_reducible apply fgSkip_kept hregs | (fail_if_no_progress (with_reducible refine mk_kept ?_)) | split

theorem stopShooting_kept (hregs : p ≠ .regs) (htime : p ≠ .time) (hmgmt : p ≠ .mgmt) (hcal : p ≠ .cal) (hrx : p ≠ .rx) (htx : p ≠ .tx) {s} (k : Kept p b s) :
    Kept p b (stopShooting s) := by
  unfold stopShooting
  try dsimp only
  repeat' first | with_reducible assumption | (intro _; try dsimp only) | with_reducible apply stopPort_kept htx | with_reducible apply stopSeq_kept htx | with_reducible apply stopBlock_kept hregs hcal hrx | with_reducible apply stampChanges_kept htime | with_reducible apply slewFinish_kept hcal | with_reducible apply fgFill_kept hregs hcal hrx | with_reducible apply stopCell_kept hrx | with_reducible apply fsets_kept hregs | with_reducible apply flagIf_kept hregs hmgmt | with_reducible apply forUp_kept | with_reducible apply foldl_kept | with_reducible apply ite_kept | (fail_if_no_progress (with_reducible refine mk_kept ?_)) | split

theorem toConfigured_kept (hmode : p ≠ .mode) (hregs : p ≠ .regs) (htime : p ≠ .time) (hmgmt : p ≠ .mgmt) (hcal : p ≠ .cal) (hrx : p ≠ .rx) (htx : p ≠ .tx) (hfw : p ≠ .fw) {s} (k : Kept p b s) :
    Kept p b (toConfigured s) := by
  unfold toConfigured
  try dsimp only
  repeat' first | with_reducible assumption | (intro _; try dsimp only) | with_reducible apply stopShooting_kept hregs htime hmgmt hcal hrx htx | with_reducible apply foldl_kept | with_reducible apply ite_kept | (fail_if_no_progress (with_reducible refine mk_kept ?_)) | split

theorem chipReaction_kept (hmode : p ≠ .mode) (hregs : p ≠ .regs) (htime : p ≠ .time) (hmgmt : p ≠ .mgmt) (hstartup : p ≠ .startup) (hcal : p ≠ .cal) (hrx : p ≠ .rx) (htx : p ≠ .tx) (hpairSt : p ≠ .pairSt) (hfw : p ≠ .fw) {x1 x2 x3 s} (k : Kept p b s) :
    Kept p b (chipReaction x1 x2 x3 s) := by
  unfold chipReaction
  try dsimp only
  repeat' first | with_reducible assumption | (intro _; try dsimp only) | with_reducible apply kindOne_kept hregs hmgmt | with_reducible apply toConfigured_kept hmode hregs htime hmgmt hcal hrx htx hfw | with_reducible apply foldl_kept | with_reducible apply ite_kept | (fail_if_no_progress (with_reducible refine mk_kept ?_)) | split

theorem fenceRegion_kept (hmode : p ≠ .mode) (hregs : p ≠ .regs) (htime : p ≠ .time) (hcut : p ≠ .cut) (hmgmt : p ≠ .mgmt) (hstartup : p ≠ .startup) (hcal : p ≠ .cal) (hrx : p ≠ .rx) (htx : p ≠ .tx) (hpairSt : p ≠ .pairSt) (hfw : p ≠ .fw) {x1 s} (k : Kept p b s) :
    Kept p b (fenceRegion x1 s) := by
  unfold fenceRegion
  try dsimp only
  repeat' first | with_reducible assumption | (intro _; try dsimp only) | with_reducible apply missSwap_kept hcal | with_reducible apply leaveChanges_kept htime | with_reducible apply leaveSwap_kept hcut | with_reducible apply setFlag_kept hregs hmgmt | with_reducible apply freeze_kept hmgmt | with_reducible apply dropEdges_kept hrx | with_reducible apply chipReaction_kept hmode hregs htime hmgmt hstartup hcal hrx htx hpairSt hfw | with_reducible apply foldl_kept | with_reducible apply ite_kept | (fail_if_no_progress (with_reducible refine mk_kept ?_)) | split

theorem mgmtError_kept (hregs : p ≠ .regs) (hmgmt : p ≠ .mgmt) {x1 x2 x3 s} (k : Kept p b s) :
    Kept p b (mgmtError x1 x2 x3 s) := by
  unfold mgmtError
  try dsimp only
  repeat' first | with_reducible assumption | (intro _; try dsimp only) | with_reducible apply bumpOvf_kept hregs hmgmt | with_reducible apply setFlag_kept hregs hmgmt | with_reducible apply setReg_kept hregs | with_reducible apply fsets_kept hregs | with_reducible apply foldl_kept | with_reducible apply ite_kept | (fail_if_no_progress (with_reducible refine mk_kept ?_)) | split

theorem complete_kept (hregs : p ≠ .regs) (hmgmt : p ≠ .mgmt) {x1 x2 x3 x4 s} (k : Kept p b s) :
    Kept p b (complete x1 x2 x3 x4 s) := by
  unfold complete
  try dsimp only
  repeat' first | with_reducible assumption | (intro _; try dsimp only) | with_reducible apply mgmtError_kept hregs hmgmt | with_reducible apply setReq_kept hmgmt | with_reducible apply foldl_kept | with_reducible apply ite_kept | (fail_if_no_progress (with_reducible refine mk_kept ?_)) | split

theorem discardWrite_kept (hregs : p ≠ .regs) (hmgmt : p ≠ .mgmt) {x1 x2 s} (k : Kept p b s) :
    Kept p b (discardWrite x1 x2 s) := by
  unfold discardWrite
  try dsimp only
  repeat' first | with_reducible assumption | (intro _; try dsimp only) | with_reducible apply complete_kept hregs hmgmt | with_reducible apply foldl_kept | with_reducible apply ite_kept | (fail_if_no_progress (with_reducible refine mk_kept ?_)) | split

theorem maskCell_kept (hregs : p ≠ .regs) {x1 s} (k : Kept p b s) :
    Kept p b (maskCell x1 s) := by
  unfold maskCell
  try dsimp only
  repeat' first | with_reducible assumption | (intro _; try dsimp only) | with_reducible apply fset_kept hregs | with_reducible apply foldl_kept | with_reducible apply ite_kept | (fail_if_no_progress (with_reducible refine mk_kept ?_)) | split

theorem completeOk_kept (hregs : p ≠ .regs) (hmgmt : p ≠ .mgmt) {x1 x2 s} (k : Kept p b s) :
    Kept p b (completeOk x1 x2 s) := by
  unfold completeOk
  try dsimp only
  repeat' first | with_reducible assumption | (intro _; try dsimp only) | with_reducible apply complete_kept hregs hmgmt | with_reducible apply foldl_kept | with_reducible apply ite_kept | (fail_if_no_progress (with_reducible refine mk_kept ?_)) | split

theorem hostWrite_kept (hregs : p ≠ .regs) (hmgmt : p ≠ .mgmt) {x1 x2 f s} (hf : ∀ t, Kept p b t → Kept p b (f t)) (k : Kept p b s) :
    Kept p b (hostWrite x1 x2 f s) := by
  unfold hostWrite
  try dsimp only
  repeat' first | with_reducible assumption | (intro _; try dsimp only) | with_reducible apply completeOk_kept hregs hmgmt | with_reducible apply complete_kept hregs hmgmt | with_reducible apply foldl_kept | with_reducible apply hf | with_reducible apply ite_kept | (fail_if_no_progress (with_reducible refine mk_kept ?_)) | split

theorem dropWrite_kept (hstartup : p ≠ .startup) {x1 x2 s} (k : Kept p b s) :
    Kept p b (dropWrite x1 x2 s) := by
  unfold dropWrite
  try dsimp only
  repeat' first | with_reducible assumption | (intro _; try dsimp only) | with_reducible apply foldl_kept | with_reducible apply ite_kept | (fail_if_no_progress (with_reducible refine mk_kept ?_)) | split

theorem hostWriteIf_kept (hregs : p ≠ .regs) (hmgmt : p ≠ .mgmt) {x1 x2 x3 f s} (hf : ∀ t, Kept p b t → Kept p b (f t)) (k : Kept p b s) :
    Kept p b (hostWriteIf x1 x2 x3 f s) := by
  unfold hostWriteIf
  try dsimp only
  repeat' first | with_reducible assumption | (intro _; try dsimp only) | with_reducible apply hostWrite_kept hregs hmgmt | with_reducible apply discardWrite_kept hregs hmgmt | with_reducible apply complete_kept hregs hmgmt | with_reducible apply foldl_kept | with_reducible apply hf | with_reducible apply ite_kept | (fail_if_no_progress (with_reducible refine mk_kept ?_)) | split

theorem markApplied_kept (hcut : p ≠ .cut) {x1 x2 s} (k : Kept p b s) :
    Kept p b (markApplied x1 x2 s) := by
  unfold markApplied
  try dsimp only
  repeat' first | with_reducible assumption | (intro _; try dsimp only) | with_reducible apply foldl_kept | with_reducible apply ite_kept | (fail_if_no_progress (with_reducible refine mk_kept ?_)) | split

theorem noteChange_kept (htime : p ≠ .time) {x1 x2 x3 x4 s} (k : Kept p b s) :
    Kept p b (noteChange x1 x2 x3 x4 s) := by
  unfold noteChange
  try dsimp only
  repeat' first | with_reducible assumption | (intro _; try dsimp only) | with_reducible apply foldl_kept | with_reducible apply ite_kept | (fail_if_no_progress (with_reducible refine mk_kept ?_)) | split

theorem endCause_kept (hstartup : p ≠ .startup) {x1 s} (k : Kept p b s) :
    Kept p b (endCause x1 s) := by
  unfold endCause
  try dsimp only
  repeat' first | with_reducible assumption | (intro _; try dsimp only) | with_reducible apply foldl_kept | with_reducible apply ite_kept | (fail_if_no_progress (with_reducible refine mk_kept ?_)) | split

theorem setSection_kept (hcal : p ≠ .cal) {x1 x2 s} (k : Kept p b s) :
    Kept p b (setSection x1 x2 s) := by
  unfold setSection
  try dsimp only
  repeat' first | with_reducible assumption | (intro _; try dsimp only) | with_reducible apply foldl_kept | with_reducible apply ite_kept | (fail_if_no_progress (with_reducible refine mk_kept ?_)) | split

theorem bringIn_kept (hcal : p ≠ .cal) {x1 x2 x3 s} (k : Kept p b s) :
    Kept p b (bringIn x1 x2 x3 s) := by
  unfold bringIn
  try dsimp only
  repeat' first | with_reducible assumption | (intro _; try dsimp only) | with_reducible apply setSection_kept hcal | with_reducible apply foldl_kept | with_reducible apply ite_kept | (fail_if_no_progress (with_reducible refine mk_kept ?_)) | split

theorem bringDrift_kept (hcal : p ≠ .cal) {x1 x2 x3 s} (k : Kept p b s) :
    Kept p b (bringDrift x1 x2 x3 s) := by
  unfold bringDrift
  try dsimp only
  repeat' first | with_reducible assumption | (intro _; try dsimp only) | with_reducible apply bringIn_kept hcal | with_reducible apply forUp_kept | with_reducible apply foldl_kept | with_reducible apply ite_kept | (fail_if_no_progress (with_reducible refine mk_kept ?_)) | split

theorem installAt_kept (hcal : p ≠ .cal) {x1 x2 x3 x4 x5 s} (k : Kept p b s) :
    Kept p b (installAt x1 x2 x3 x4 x5 s) := by
  unfold installAt
  try dsimp only
  repeat' first | with_reducible assumption | (intro _; try dsimp only) | with_reducible apply bringIn_kept hcal | with_reducible apply bringDrift_kept hcal | with_reducible apply foldl_kept | with_reducible apply ite_kept | (fail_if_no_progress (with_reducible refine mk_kept ?_)) | split

theorem installBlock_kept (hcal : p ≠ .cal) {x1 x2 x3 s} (k : Kept p b s) :
    Kept p b (installBlock x1 x2 x3 s) := by
  unfold installBlock
  try dsimp only
  repeat' first | with_reducible assumption | (intro _; try dsimp only) | with_reducible apply installAt_kept hcal | with_reducible apply forUp_kept | with_reducible apply foldl_kept | with_reducible apply ite_kept | (fail_if_no_progress (with_reducible refine mk_kept ?_)) | split

theorem slewOffset_kept (hcal : p ≠ .cal) {x1 x2 s} (k : Kept p b s) :
    Kept p b (slewOffset x1 x2 s) := by
  unfold slewOffset
  try dsimp only
  repeat' first | with_reducible assumption | (intro _; try dsimp only) | with_reducible apply setSection_kept hcal | with_reducible apply foldl_kept | with_reducible apply ite_kept | (fail_if_no_progress (with_reducible refine mk_kept ?_)) | split

theorem installSc_kept (hcal : p ≠ .cal) {x1 x2 s} (k : Kept p b s) :
    Kept p b (installSc x1 x2 s) := by
  unfold installSc
  try dsimp only
  repeat' first | with_reducible assumption | (intro _; try dsimp only) | with_reducible apply installAt_kept hcal | with_reducible apply forUp_kept | with_reducible apply foldl_kept | with_reducible apply ite_kept | (fail_if_no_progress (with_reducible refine mk_kept ?_)) | split

theorem slewStep_kept (hcal : p ≠ .cal) {x1 s} (k : Kept p b s) :
    Kept p b (slewStep x1 s) := by
  unfold slewStep
  try dsimp only
  repeat' first | with_reducible assumption | (intro _; try dsimp only) | with_reducible apply setSection_kept hcal | with_reducible apply foldl_kept | with_reducible apply ite_kept | (fail_if_no_progress (with_reducible refine mk_kept ?_)) | split

theorem slewFrame_kept (hcal : p ≠ .cal) {s} (k : Kept p b s) :
    Kept p b (slewFrame s) := by
  unfold slewFrame
  try dsimp only
  repeat' first | with_reducible assumption | (intro _; try dsimp only) | with_reducible apply slewStep_kept hcal | with_reducible apply slewOffset_kept hcal | with_reducible apply foldl_kept | with_reducible apply ite_kept | (fail_if_no_progress (with_reducible refine mk_kept ?_)) | split

theorem installHk_kept (hcal : p ≠ .cal) {x1 x2 s} (k : Kept p b s) :
    Kept p b (installHk x1 x2 s) := by
  unfold installHk
  try dsimp only
  repeat' first | with_reducible assumption | (intro _; try dsimp only) | with_reducible apply installAt_kept hcal | with_reducible apply forUp_kept | with_reducible apply foldl_kept | with_reducible apply ite_kept | (fail_if_no_progress (with_reducible refine mk_kept ?_)) | split

theorem fgLeft_kept (hregs : p ≠ .regs) (hcal : p ≠ .cal) (hrx : p ≠ .rx) {x1 s} (k : Kept p b s) :
    Kept p b (fgLeft x1 s) := by
  unfold fgLeft
  try dsimp only
  repeat' first | with_reducible assumption | (intro _; try dsimp only) | with_reducible apply fgBegin_kept hregs hcal hrx | with_reducible apply foldl_kept | with_reducible apply ite_kept | (fail_if_no_progress (with_reducible refine mk_kept ?_)) | split

end Sys2Proof.Machine
end

