-- ==== Sys2Proof/Laws/KeptReceive.lean ====
section
/-! SUPPORT. What each operation and command of the receive path leaves alone (see Sys2Proof/Laws/Kept.lean). -/
namespace Sys2Proof.Machine

set_option Elab.async false
set_option linter.unusedTactic false
set_option linter.unreachableTactic false

variable {p : Part} {b : State}

theorem execCheckSlotInsert_kept (htx : p ≠ .tx) {x1 s t} (k : Kept p b s) (e : execCheckSlotInsert x1 s = .next t) :
    Kept p b t := by
  unfold execCheckSlotInsert at e
  injection e with e
  subst e
  try dsimp only
  repeat' first | with_reducible assumption | (intro _; try dsimp only) | with_reducible apply foldl_kept | with_reducible apply ite_kept | (fail_if_no_progress (with_reducible refine mk_kept ?_)) | split

theorem dropChecks_kept (htx : p ≠ .tx) {x1 s} (k : Kept p b s) :
    Kept p b (dropChecks x1 s) := by
  unfold dropChecks
  try dsimp only
  repeat' first | with_reducible assumption | (intro _; try dsimp only) | with_reducible apply foldl_kept | with_reducible apply ite_kept | (fail_if_no_progress (with_reducible refine mk_kept ?_)) | split

theorem nextWindow_kept (hrx : p ≠ .rx) (htx : p ≠ .tx) {x1 s} (k : Kept p b s) :
    Kept p b (nextWindow x1 s) := by
  unfold nextWindow
  try dsimp only
  repeat' first | with_reducible assumption | (intro _; try dsimp only) | with_reducible apply dropChecks_kept htx | with_reducible apply setBlk_kept hrx | with_reducible apply foldl_kept | with_reducible apply ite_kept | (fail_if_no_progress (with_reducible refine mk_kept ?_)) | split

theorem mapBlanks_kept (hrx : p ≠ .rx) {x1 s} (k : Kept p b s) :
    Kept p b (mapBlanks x1 s) := by
  unfold mapBlanks
  try dsimp only
  repeat' first | with_reducible assumption | (intro _; try dsimp only) | with_reducible apply setBlk_kept hrx | with_reducible apply forUp_kept | with_reducible apply foldl_kept | with_reducible apply ite_kept | (fail_if_no_progress (with_reducible refine mk_kept ?_)) | split

theorem execBlankNRise_kept (hrx : p ≠ .rx) {x1 s t} (k : Kept p b s) (e : execBlankNRise x1 s = .next t) :
    Kept p b t := by
  unfold execBlankNRise at e
  injection e with e
  subst e
  try dsimp only
  repeat' first | with_reducible assumption | (intro _; try dsimp only) | with_reducible apply mapBlanks_kept hrx | with_reducible apply foldl_kept | with_reducible apply ite_kept | (fail_if_no_progress (with_reducible refine mk_kept ?_)) | split

theorem mergeLow_kept (hrx : p ≠ .rx) {x1 x2 s} (k : Kept p b s) :
    Kept p b (mergeLow x1 x2 s) := by
  unfold mergeLow
  try dsimp only
  repeat' first | with_reducible assumption | (intro _; try dsimp only) | with_reducible apply setBlk_kept hrx | with_reducible apply forUp_kept | with_reducible apply foldl_kept | with_reducible apply ite_kept | (fail_if_no_progress (with_reducible refine mk_kept ?_)) | split

theorem execBlankNFall_kept (hrx : p ≠ .rx) {x1 s t} (k : Kept p b s) (e : execBlankNFall x1 s = .next t) :
    Kept p b t := by
  unfold execBlankNFall at e
  injection e with e
  subst e
  try dsimp only
  repeat' first | with_reducible assumption | (intro _; try dsimp only) | with_reducible apply mergeLow_kept hrx | with_reducible apply mapBlanks_kept hrx | with_reducible apply foldl_kept | with_reducible apply ite_kept | (fail_if_no_progress (with_reducible refine mk_kept ?_)) | split

theorem applyThreshold_kept (hregs : p ≠ .regs) (hrx : p ≠ .rx) {x1 x2 s} (k : Kept p b s) :
    Kept p b (applyThreshold x1 x2 s) := by
  unfold applyThreshold
  try dsimp only
  repeat' first | with_reducible assumption | (intro _; try dsimp only) | with_reducible apply fsets_kept hregs | with_reducible apply setCell_kept hrx | with_reducible apply foldl_kept | with_reducible apply ite_kept | (fail_if_no_progress (with_reducible refine mk_kept ?_)) | split

theorem applyThresholdNow_kept (hregs : p ≠ .regs) (hrx : p ≠ .rx) {x1 s} (k : Kept p b s) :
    Kept p b (applyThresholdNow x1 s) := by
  unfold applyThresholdNow
  try dsimp only
  repeat' first | with_reducible assumption | (intro _; try dsimp only) | with_reducible apply applyThreshold_kept hregs hrx | with_reducible apply foldl_kept | with_reducible apply ite_kept | (fail_if_no_progress (with_reducible refine mk_kept ?_)) | split

theorem commitReading_kept (hregs : p ≠ .regs) (hrx : p ≠ .rx) {x1 x2 x3 x4 s} (k : Kept p b s) :
    Kept p b (commitReading x1 x2 x3 x4 s) := by
  unfold commitReading
  try dsimp only
  repeat' first | with_reducible assumption | (intro _; try dsimp only) | with_reducible apply applyThresholdNow_kept hregs hrx | with_reducible apply setCell_kept hrx | with_reducible apply foldl_kept | with_reducible apply ite_kept | (fail_if_no_progress (with_reducible refine mk_kept ?_)) | split

theorem queueCheck_kept (hrx : p ≠ .rx) {x1 x2 s} (k : Kept p b s) :
    Kept p b (queueCheck x1 x2 s) := by
  unfold queueCheck
  try dsimp only
  repeat' first | with_reducible assumption | (intro _; try dsimp only) | with_reducible apply setBlk_kept hrx | with_reducible apply foldl_kept | with_reducible apply ite_kept | (fail_if_no_progress (with_reducible refine mk_kept ?_)) | split

theorem ambientReading_kept (hregs : p ≠ .regs) (hmgmt : p ≠ .mgmt) (hrx : p ≠ .rx) {x1 x2 x3 s} (k : Kept p b s) :
    Kept p b (ambientReading x1 x2 x3 s) := by
  unfold ambientReading
  try dsimp only
  repeat' first | with_reducible assumption | (intro _; try dsimp only) | with_reducible apply setCell_kept hrx | with_reducible apply commitReading_kept hregs hrx | with_reducible apply applyThresholdNow_kept hregs hrx | with_reducible apply flagIf_kept hregs hmgmt | with_reducible apply flag_kept hregs hmgmt | with_reducible apply fset_kept hregs | with_reducible apply queueCheck_kept hrx | with_reducible apply foldl_kept | with_reducible apply ite_kept | (fail_if_no_progress (with_reducible refine mk_kept ?_)) | split

theorem execBlankStuck_kept (hregs : p ≠ .regs) (hmgmt : p ≠ .mgmt) {x1 s t} (k : Kept p b s) (e : execBlankStuck x1 s = .next t) :
    Kept p b t := by
  unfold execBlankStuck at e
  injection e with e
  subst e
  try dsimp only
  repeat' first | with_reducible assumption | (intro _; try dsimp only) | with_reducible apply flag_kept hregs hmgmt | with_reducible apply foldl_kept | with_reducible apply ite_kept | (fail_if_no_progress (with_reducible refine mk_kept ?_)) | split

theorem cellRearm_kept (hrx : p ≠ .rx) {x1 s} (k : Kept p b s) :
    Kept p b (cellRearm x1 s) := by
  unfold cellRearm
  try dsimp only
  repeat' first | with_reducible assumption | (intro _; try dsimp only) | with_reducible apply queueCheck_kept hrx | with_reducible apply setCell_kept hrx | with_reducible apply foldl_kept | with_reducible apply ite_kept | (fail_if_no_progress (with_reducible refine mk_kept ?_)) | split

theorem checkFailed_kept (hregs : p ≠ .regs) (hmgmt : p ≠ .mgmt) (hrx : p ≠ .rx) {x1 x2 x3 s} (k : Kept p b s) :
    Kept p b (checkFailed x1 x2 x3 s) := by
  unfold checkFailed
  try dsimp only
  repeat' first | with_reducible assumption | (intro _; try dsimp only) | with_reducible apply flag_kept hregs hmgmt | with_reducible apply flagIf_kept hregs hmgmt | with_reducible apply maskCell_kept hregs | with_reducible apply setCell_kept hrx | with_reducible apply foldl_kept | with_reducible apply ite_kept | (fail_if_no_progress (with_reducible refine mk_kept ?_)) | split

theorem checkNow_kept (hrx : p ≠ .rx) {x1 s} (k : Kept p b s) :
    Kept p b (checkNow x1 s) := by
  unfold checkNow
  try dsimp only
  repeat' first | with_reducible assumption | (intro _; try dsimp only) | with_reducible apply queueCheck_kept hrx | with_reducible apply foldl_kept | with_reducible apply ite_kept | (fail_if_no_progress (with_reducible refine mk_kept ?_)) | split

theorem execCheckNow_kept (hregs : p ≠ .regs) (hmgmt : p ≠ .mgmt) (hrx : p ≠ .rx) {x1 x2 s t} (k : Kept p b s) (e : execCheckNow x1 x2 s = .next t) :
    Kept p b t := by
  unfold execCheckNow at e
  injection e with e
  subst e
  try dsimp only
  repeat' first | with_reducible assumption | (intro _; try dsimp only) | with_reducible apply hostWrite_kept hregs hmgmt | with_reducible apply checkNow_kept hrx | with_reducible apply foldl_kept | with_reducible apply ite_kept | (fail_if_no_progress (with_reducible refine mk_kept ?_)) | split

theorem execBlankIntervalEnd_kept (hregs : p ≠ .regs) (hrx : p ≠ .rx) {x1 s t} (k : Kept p b s) (e : execBlankIntervalEnd x1 s = .next t) :
    Kept p b t := by
  unfold execBlankIntervalEnd at e
  injection e with e
  subst e
  try dsimp only
  repeat' first | with_reducible assumption | (intro _; try dsimp only) | with_reducible apply setBlk_kept hrx | with_reducible apply fset_kept hregs | with_reducible apply foldl_kept | with_reducible apply ite_kept | (fail_if_no_progress (with_reducible refine mk_kept ?_)) | split

theorem cellCommand_kept (hrx : p ≠ .rx) {x1 x2 s} (k : Kept p b s) :
    Kept p b (cellCommand x1 x2 s) := by
  unfold cellCommand
  try dsimp only
  repeat' first | with_reducible assumption | (intro _; try dsimp only) | with_reducible apply cellRearm_kept hrx | with_reducible apply checkNow_kept hrx | with_reducible apply foldl_kept | with_reducible apply ite_kept | (fail_if_no_progress (with_reducible refine mk_kept ?_)) | split

theorem noteCheck_kept (hrx : p ≠ .rx) {x1 x2 s} (k : Kept p b s) :
    Kept p b (noteCheck x1 x2 s) := by
  unfold noteCheck
  try dsimp only
  repeat' first | with_reducible assumption | (intro _; try dsimp only) | with_reducible apply setBlk_kept hrx | with_reducible apply foldl_kept | with_reducible apply ite_kept | (fail_if_no_progress (with_reducible refine mk_kept ?_)) | split

theorem checkPassed_kept (hregs : p ≠ .regs) (hmgmt : p ≠ .mgmt) (hrx : p ≠ .rx) {x1 s} (k : Kept p b s) :
    Kept p b (checkPassed x1 s) := by
  unfold checkPassed
  try dsimp only
  repeat' first | with_reducible assumption | (intro _; try dsimp only) | with_reducible apply flag_kept hregs hmgmt | with_reducible apply fset_kept hregs | with_reducible apply applyThresholdNow_kept hregs hrx | with_reducible apply setCell_kept hrx | with_reducible apply foldl_kept | with_reducible apply ite_kept | (fail_if_no_progress (with_reducible refine mk_kept ?_)) | split

theorem execCheckWindowEnd_kept (hregs : p ≠ .regs) (hmgmt : p ≠ .mgmt) (hrx : p ≠ .rx) (htx : p ≠ .tx) {x1 x2 s t} (k : Kept p b s) (e : execCheckWindowEnd x1 x2 s = .next t) :
    Kept p b t := by
  unfold execCheckWindowEnd at e
  injection e with e
  subst e
  try dsimp only
  repeat' first | with_reducible assumption | (intro _; try dsimp only) | with_reducible apply fsets_kept hregs | with_reducible apply checkFailed_kept hregs hmgmt hrx | with_reducible apply checkPassed_kept hregs hmgmt hrx | with_reducible apply nextWindow_kept hrx htx | with_reducible apply foldl_kept | with_reducible apply ite_kept | (fail_if_no_progress (with_reducible refine mk_kept ?_)) | split

theorem execCellRearm_kept (hregs : p ≠ .regs) (hmgmt : p ≠ .mgmt) (hrx : p ≠ .rx) {x1 x2 s t} (k : Kept p b s) (e : execCellRearm x1 x2 s = .next t) :
    Kept p b t := by
  unfold execCellRearm at e
  injection e with e
  subst e
  try dsimp only
  repeat' first | with_reducible assumption | (intro _; try dsimp only) | with_reducible apply hostWrite_kept hregs hmgmt | with_reducible apply cellRearm_kept hrx | with_reducible apply foldl_kept | with_reducible apply ite_kept | (fail_if_no_progress (with_reducible refine mk_kept ?_)) | split

theorem execBlankIntervalStart_kept (hregs : p ≠ .regs) {x1 s t} (k : Kept p b s) (e : execBlankIntervalStart x1 s = .next t) :
    Kept p b t := by
  unfold execBlankIntervalStart at e
  injection e with e
  subst e
  try dsimp only
  repeat' first | with_reducible assumption | (intro _; try dsimp only) | with_reducible apply fset_kept hregs | with_reducible apply foldl_kept | with_reducible apply ite_kept | (fail_if_no_progress (with_reducible refine mk_kept ?_)) | split

theorem deliverAq_kept (hrx : p ≠ .rx) {x1 x2 x3 x4 x5 s} (k : Kept p b s) :
    Kept p b (deliverAq x1 x2 x3 x4 x5 s) := by
  unfold deliverAq
  try dsimp only
  repeat' first | with_reducible assumption | (intro _; try dsimp only) | with_reducible apply foldl_kept | with_reducible apply ite_kept | (fail_if_no_progress (with_reducible refine mk_kept ?_)) | split

theorem execSkewRefresh_kept (hregs : p ≠ .regs) (hrx : p ≠ .rx) {x1 s t} (k : Kept p b s) (e : execSkewRefresh x1 s = .next t) :
    Kept p b t := by
  unfold execSkewRefresh at e
  injection e with e
  subst e
  try dsimp only
  repeat' first | with_reducible assumption | (intro _; try dsimp only) | with_reducible apply setBlk_kept hrx | with_reducible apply fset_kept hregs | with_reducible apply foldl_kept | with_reducible apply ite_kept | (fail_if_no_progress (with_reducible refine mk_kept ?_)) | split

theorem gdTakeBack_kept (hregs : p ≠ .regs) {x1 x2 s} (k : Kept p b s) :
    Kept p b (gdTakeBack x1 x2 s) := by
  unfold gdTakeBack
  try dsimp only
  repeat' first | with_reducible assumption | (intro _; try dsimp only) | with_reducible apply fset_kept hregs | with_reducible apply foldl_kept | with_reducible apply ite_kept | (fail_if_no_progress (with_reducible refine mk_kept ?_)) | split

theorem closeShot_kept (hregs : p ≠ .regs) (hmgmt : p ≠ .mgmt) (hrx : p ≠ .rx) {x1 s} (k : Kept p b s) :
    Kept p b (closeShot x1 s).1 := by
  unfold closeShot
  try dsimp only
  repeat' first | with_reducible assumption | (intro _; try dsimp only) | with_reducible apply setCell_kept hrx | with_reducible apply gdTakeBack_kept hregs | with_reducible apply flagIf_kept hregs hmgmt | with_reducible apply setBlk_kept hrx | with_reducible apply foldl_kept | with_reducible apply ite_kept | (fail_if_no_progress (with_reducible refine mk_kept ?_)) | split

theorem gdCount_kept (hregs : p ≠ .regs) (hmgmt : p ≠ .mgmt) {x1 x2 s} (k : Kept p b s) :
    Kept p b (gdCount x1 x2 s) := by
  unfold gdCount
  try dsimp only
  repeat' first | with_reducible assumption | (intro _; try dsimp only) | with_reducible apply bumpOvf_kept hregs hmgmt | with_reducible apply foldl_kept | with_reducible apply ite_kept | (fail_if_no_progress (with_reducible refine mk_kept ?_)) | split

theorem openWindow_kept (hregs : p ≠ .regs) (hmgmt : p ≠ .mgmt) (hrx : p ≠ .rx) {x1 x2 x3 s} (k : Kept p b s) :
    Kept p b (openWindow x1 x2 x3 s) := by
  unfold openWindow
  try dsimp only
  repeat' first | with_reducible assumption | (intro _; try dsimp only) | with_reducible apply setBlk_kept hrx | with_reducible apply setCell_kept hrx | with_reducible apply gdCount_kept hregs hmgmt | with_reducible apply foldl_kept | with_reducible apply ite_kept | (fail_if_no_progress (with_reducible refine mk_kept ?_)) | split

theorem mapWin_kept (hrx : p ≠ .rx) {x1 x2 x3 x4 x5 s} (k : Kept p b s) :
    Kept p b (mapWin x1 x2 x3 x4 x5 s) := by
  unfold mapWin
  try dsimp only
  repeat' first | with_reducible assumption | (intro _; try dsimp only) | with_reducible apply setCell_kept hrx | with_reducible apply foldl_kept | with_reducible apply ite_kept | (fail_if_no_progress (with_reducible refine mk_kept ?_)) | split

theorem gdNote_kept (hregs : p ≠ .regs) (hmgmt : p ≠ .mgmt) (hrx : p ≠ .rx) {x1 x2 x3 x4 x5 s} (k : Kept p b s) :
    Kept p b (gdNote x1 x2 x3 x4 x5 s) := by
  unfold gdNote
  try dsimp only
  repeat' first | with_reducible assumption | (intro _; try dsimp only) | with_reducible apply mapWin_kept hrx | with_reducible apply gdCount_kept hregs hmgmt | with_reducible apply foldl_kept | with_reducible apply ite_kept | (fail_if_no_progress (with_reducible refine mk_kept ?_)) | split

theorem emitPulse_kept (hregs : p ≠ .regs) (hmgmt : p ≠ .mgmt) (hrx : p ≠ .rx) {x1 x2 x3 s} (k : Kept p b s) :
    Kept p b (emitPulse x1 x2 x3 s) := by
  unfold emitPulse
  try dsimp only
  repeat' first | with_reducible assumption | (intro _; try dsimp only) | with_reducible apply setBlk_kept hrx | with_reducible apply setCell_kept hrx | with_reducible apply gdNote_kept hregs hmgmt hrx | with_reducible apply foldl_kept | with_reducible apply ite_kept | (fail_if_no_progress (with_reducible refine mk_kept ?_)) | split

theorem aqOnly_kept (hrx : p ≠ .rx) (hfresh : p ≠ .fresh) {x1 x2 s} (k : Kept p b s) :
    Kept p b (aqOnly x1 x2 s) := by
  unfold aqOnly
  try dsimp only
  repeat' first | with_reducible assumption | (intro _; try dsimp only) | with_reducible apply drawFree_kept hfresh | with_reducible apply deliverAq_kept hrx | with_reducible apply foldl_kept | with_reducible apply ite_kept | (fail_if_no_progress (with_reducible refine mk_kept ?_)) | split

theorem queueEdge_kept (hregs : p ≠ .regs) (hmgmt : p ≠ .mgmt) (hrx : p ≠ .rx) (hfresh : p ≠ .fresh) {x1 x2 s} (k : Kept p b s) :
    Kept p b (queueEdge x1 x2 s) := by
  unfold queueEdge
  try dsimp only
  repeat' first | with_reducible assumption | (intro _; try dsimp only) | with_reducible apply setCell_kept hrx | with_reducible apply aqOnly_kept hrx hfresh | with_reducible apply gdCount_kept hregs hmgmt | with_reducible apply foldl_kept | with_reducible apply ite_kept | (fail_if_no_progress (with_reducible refine mk_kept ?_)) | split

theorem addBusy_kept (hrx : p ≠ .rx) {x1 x2 s} (k : Kept p b s) :
    Kept p b (addBusy x1 x2 s) := by
  unfold addBusy
  try dsimp only
  repeat' first | with_reducible assumption | (intro _; try dsimp only) | with_reducible apply setBlk_kept hrx | with_reducible apply foldl_kept | with_reducible apply ite_kept | (fail_if_no_progress (with_reducible refine mk_kept ?_)) | split

theorem execStartInstant_kept (hregs : p ≠ .regs) (hmgmt : p ≠ .mgmt) (hrx : p ≠ .rx) {x1 x2 s t} (k : Kept p b s) (e : execStartInstant x1 x2 s = .next t) :
    Kept p b t := by
  unfold execStartInstant at e
  injection e with e
  subst e
  try dsimp only
  repeat' first | with_reducible assumption | (intro _; try dsimp only) | with_reducible apply setBlk_kept hrx | with_reducible apply openWindow_kept hregs hmgmt hrx | with_reducible apply addBusy_kept hrx | with_reducible apply forUp_kept | with_reducible apply foldl_kept | with_reducible apply ite_kept | (fail_if_no_progress (with_reducible refine mk_kept ?_)) | split

theorem closeHeld_kept (hregs : p ≠ .regs) (hmgmt : p ≠ .mgmt) (hrx : p ≠ .rx) {x1 x2 x3 x4 s} (k : Kept p b s) :
    Kept p b (closeHeld x1 x2 x3 x4 s).1 := by
  unfold closeHeld
  try dsimp only
  repeat' first | with_reducible assumption | (intro _; try dsimp only) | with_reducible apply setCell_kept hrx | with_reducible apply emitPulse_kept hregs hmgmt hrx | with_reducible apply foldl_kept | with_reducible apply ite_kept | (fail_if_no_progress (with_reducible refine mk_kept ?_)) | split

theorem attributeTo_kept (hregs : p ≠ .regs) (hmgmt : p ≠ .mgmt) (hrx : p ≠ .rx) (hfresh : p ≠ .fresh) {x1 x2 x3 x4 s} (k : Kept p b s) :
    Kept p b (attributeTo x1 x2 x3 x4 s).1 := by
  unfold attributeTo
  try dsimp only
  repeat' first | with_reducible assumption | (intro _; try dsimp only) | with_reducible apply drawFree_kept hfresh | with_reducible apply closeHeld_kept hregs hmgmt hrx | with_reducible apply gdNote_kept hregs hmgmt hrx | with_reducible apply setCell_kept hrx | with_reducible apply foldl_kept | with_reducible apply ite_kept | (fail_if_no_progress (with_reducible refine mk_kept ?_)) | split

theorem takeEdge_kept (hregs : p ≠ .regs) (hmgmt : p ≠ .mgmt) (hrx : p ≠ .rx) (hfresh : p ≠ .fresh) {x1 x2 s} (k : Kept p b s) :
    Kept p b (takeEdge x1 x2 s) := by
  unfold takeEdge
  try dsimp only
  repeat' first | with_reducible assumption | (intro _; try dsimp only) | with_reducible apply aqOnly_kept hrx hfresh | with_reducible apply queueEdge_kept hregs hmgmt hrx hfresh | with_reducible apply foldl_kept | with_reducible apply ite_kept | (fail_if_no_progress (with_reducible refine mk_kept ?_)) | split

theorem execDiscriminatorEdge_kept (hregs : p ≠ .regs) (hmgmt : p ≠ .mgmt) (hrx : p ≠ .rx) (hfresh : p ≠ .fresh) {x1 x2 x3 x4 x5 x6 x7 x8 s t} (k : Kept p b s) (e : execDiscriminatorEdge x1 x2 x3 x4 x5 x6 x7 x8 s = .next t) :
    Kept p b t := by
  unfold execDiscriminatorEdge at e
  injection e with e
  subst e
  try dsimp only
  repeat' first | with_reducible assumption | (intro _; try dsimp only) | with_reducible apply bumpOvf_kept hregs hmgmt | with_reducible apply gdCount_kept hregs hmgmt | with_reducible apply setCell_kept hrx | with_reducible apply takeEdge_kept hregs hmgmt hrx hfresh | with_reducible apply foldl_kept | with_reducible apply ite_kept | (fail_if_no_progress (with_reducible refine mk_kept ?_)) | split

theorem execStartPost_kept (hrx : p ≠ .rx) {x1 s t} (k : Kept p b s) (e : execStartPost x1 s = .next t) :
    Kept p b t := by
  unfold execStartPost at e
  injection e with e
  subst e
  try dsimp only
  repeat' first | with_reducible assumption | (intro _; try dsimp only) | with_reducible apply setBlk_kept hrx | with_reducible apply foldl_kept | with_reducible apply ite_kept | (fail_if_no_progress (with_reducible refine mk_kept ?_)) | split

theorem clearCounts_kept (hregs : p ≠ .regs) {x1 s} (k : Kept p b s) :
    Kept p b (clearCounts x1 s) := by
  unfold clearCounts
  try dsimp only
  repeat' first | with_reducible assumption | (intro _; try dsimp only) | with_reducible apply setRegs_kept hregs | with_reducible apply foldl_kept | with_reducible apply ite_kept | (fail_if_no_progress (with_reducible refine mk_kept ?_)) | split

theorem gdClear_kept (hregs : p ≠ .regs) (hrx : p ≠ .rx) {x1 s} (k : Kept p b s) :
    Kept p b (gdClear x1 s) := by
  unfold gdClear
  try dsimp only
  repeat' first | with_reducible assumption | (intro _; try dsimp only) | with_reducible apply setCell_kept hrx | with_reducible apply clearCounts_kept hregs | with_reducible apply foldl_kept | with_reducible apply ite_kept | (fail_if_no_progress (with_reducible refine mk_kept ?_)) | split

theorem execGdClearCounts_kept (hregs : p ≠ .regs) (hmgmt : p ≠ .mgmt) (hrx : p ≠ .rx) {x1 x2 s t} (k : Kept p b s) (e : execGdClearCounts x1 x2 s = .next t) :
    Kept p b t := by
  unfold execGdClearCounts at e
  injection e with e
  subst e
  try dsimp only
  repeat' first | with_reducible assumption | (intro _; try dsimp only) | with_reducible apply hostWrite_kept hregs hmgmt | with_reducible apply gdClear_kept hregs hrx | with_reducible apply foldl_kept | with_reducible apply ite_kept | (fail_if_no_progress (with_reducible refine mk_kept ?_)) | split

theorem execMarkerEdge_kept (hregs : p ≠ .regs) (hmgmt : p ≠ .mgmt) (hrx : p ≠ .rx) {x1 x2 s t} (k : Kept p b s) (e : execMarkerEdge x1 x2 s = .next t) :
    Kept p b t := by
  unfold execMarkerEdge at e
  injection e with e
  subst e
  try dsimp only
  repeat' first | with_reducible assumption | (intro _; try dsimp only) | with_reducible apply flag_kept hregs hmgmt | with_reducible apply setBlk_kept hrx | with_reducible apply foldl_kept | with_reducible apply ite_kept | (fail_if_no_progress (with_reducible refine mk_kept ?_)) | split

theorem execDeadTimeEnd_kept (hregs : p ≠ .regs) (hmgmt : p ≠ .mgmt) (hrx : p ≠ .rx) (hfresh : p ≠ .fresh) {x1 x2 x3 x4 s t} (k : Kept p b s) (e : execDeadTimeEnd x1 x2 x3 x4 s = .next t) :
    Kept p b t := by
  unfold execDeadTimeEnd at e
  injection e with e
  subst e
  try dsimp only
  repeat' first | with_reducible assumption | (intro _; try dsimp only) | with_reducible apply setCell_kept hrx | with_reducible apply takeEdge_kept hregs hmgmt hrx hfresh | with_reducible apply foldl_kept | with_reducible apply ite_kept | (fail_if_no_progress (with_reducible refine mk_kept ?_)) | split

theorem showRing_kept (hregs : p ≠ .regs) {x1 s} (k : Kept p b s) :
    Kept p b (showRing x1 s) := by
  unfold showRing
  try dsimp only
  repeat' first | with_reducible assumption | (intro _; try dsimp only) | with_reducible apply fset_kept hregs | with_reducible apply foldl_kept | with_reducible apply ite_kept | (fail_if_no_progress (with_reducible refine mk_kept ?_)) | split

theorem execTotLimitExpiry_kept (hregs : p ≠ .regs) (hmgmt : p ≠ .mgmt) (hrx : p ≠ .rx) {x1 s t} (k : Kept p b s) (e : execTotLimitExpiry x1 s = .next t) :
    Kept p b t := by
  unfold execTotLimitExpiry at e
  injection e with e
  subst e
  try dsimp only
  repeat' first | with_reducible assumption | (intro _; try dsimp only) | with_reducible apply emitPulse_kept hregs hmgmt hrx | with_reducible apply setCell_kept hrx | with_reducible apply foldl_kept | with_reducible apply ite_kept | (fail_if_no_progress (with_reducible refine mk_kept ?_)) | split

theorem execEdgeAttribute_kept (hregs : p ≠ .regs) (hmgmt : p ≠ .mgmt) (hrx : p ≠ .rx) (hfresh : p ≠ .fresh) {x1 s t} (k : Kept p b s) (e : execEdgeAttribute x1 s = .next t) :
    Kept p b t := by
  unfold execEdgeAttribute at e
  injection e with e
  subst e
  dsimp only
  split
  · exact k
  · rename_i e rest _
    have k0 : Kept p b (setCell x1 { s.cell x1 with queue := rest } s) := setCell_kept hrx k
    split
    · exact deliverAq_kept hrx k0
    · rename_i w0 older _
      generalize h : attributeTo _ _ _ _ _ = r
      obtain ⟨s1, m0⟩ := r
      have k1 : Kept p b s1 := by
        have := attributeTo_kept hregs hmgmt hrx hfresh (x1 := x1) (x2 := e) (x3 := true) (x4 := w0) k0
        rwa [h] at this
      dsimp only
      generalize h2 : List.foldl _ _ _ = r2
      obtain ⟨s2, ms⟩ := r2
      have k2 : Kept p b s2 := by
        have := foldl_fst_kept (p := p) (b := b) (r := (s1, ([] : List (Win × Mark)))) (l := older)
          (f := fun a w => match attributeTo x1 e false w a.1 with | (t, m) => (t, a.2 ++ [(w, m)]))
          (fun t w kt => attributeTo_kept hregs hmgmt hrx hfresh kt) k1
        rwa [h2] at this
      dsimp only
      repeat' first | with_reducible assumption | with_reducible apply deliverAq_kept hrx | with_reducible apply gdCount_kept hregs hmgmt | split

theorem setGate_kept (hrx : p ≠ .rx) {x1 x2 x3 s} (k : Kept p b s) :
    Kept p b (setGate x1 x2 x3 s) := by
  unfold setGate
  try dsimp only
  repeat' first | with_reducible assumption | (intro _; try dsimp only) | with_reducible apply foldl_kept | with_reducible apply ite_kept | (fail_if_no_progress (with_reducible refine mk_kept ?_)) | split

theorem applyUpdate_kept (hrx : p ≠ .rx) {x1 s} (k : Kept p b s) :
    Kept p b (applyUpdate x1 s) := by
  unfold applyUpdate
  try dsimp only
  repeat' first | with_reducible assumption | (intro _; try dsimp only) | with_reducible apply setGate_kept hrx | with_reducible apply foldl_kept | with_reducible apply ite_kept | (fail_if_no_progress (with_reducible refine mk_kept ?_)) | split

theorem setStaging_kept (hregs : p ≠ .regs) (hrx : p ≠ .rx) {x1 x2 s} (k : Kept p b s) :
    Kept p b (setStaging x1 x2 s) := by
  unfold setStaging
  try dsimp only
  repeat' first | with_reducible assumption | (intro _; try dsimp only) | with_reducible apply fset_kept hregs | with_reducible apply foldl_kept | with_reducible apply ite_kept | (fail_if_no_progress (with_reducible refine mk_kept ?_)) | split

theorem applyCommit_kept (hregs : p ≠ .regs) (hmgmt : p ≠ .mgmt) (hrx : p ≠ .rx) {x1 s} (k : Kept p b s) :
    Kept p b (applyCommit x1 s) := by
  unfold applyCommit
  try dsimp only
  repeat' first | with_reducible assumption | (intro _; try dsimp only) | with_reducible apply setGate_kept hrx | with_reducible apply setStaging_kept hregs hrx | with_reducible apply flag_kept hregs hmgmt | with_reducible apply fset_kept hregs | with_reducible apply foldl_kept | with_reducible apply ite_kept | (fail_if_no_progress (with_reducible refine mk_kept ?_)) | split

theorem applyGates_kept (hregs : p ≠ .regs) (hmgmt : p ≠ .mgmt) (hrx : p ≠ .rx) {s} (k : Kept p b s) :
    Kept p b (applyGates s) := by
  unfold applyGates
  try dsimp only
  repeat' first | with_reducible assumption | (intro _; try dsimp only) | with_reducible apply applyUpdate_kept hrx | with_reducible apply applyCommit_kept hregs hmgmt hrx | with_reducible apply forUp_kept | with_reducible apply foldl_kept | with_reducible apply ite_kept | (fail_if_no_progress (with_reducible refine mk_kept ?_)) | split

theorem gateRead_kept (hregs : p ≠ .regs) {x1 s} (k : Kept p b s) :
    Kept p b (gateRead x1 s) := by
  unfold gateRead
  try dsimp only
  repeat' first | with_reducible assumption | (intro _; try dsimp only) | with_reducible apply setReg_kept hregs | with_reducible apply foldl_kept | with_reducible apply ite_kept | (fail_if_no_progress (with_reducible refine mk_kept ?_)) | split

theorem gateCommit_kept (hregs : p ≠ .regs) (htime : p ≠ .time) (hmgmt : p ≠ .mgmt) (hrx : p ≠ .rx) {x1 s} (k : Kept p b s) :
    Kept p b (gateCommit x1 s) := by
  unfold gateCommit
  try dsimp only
  repeat' first | with_reducible assumption | (intro _; try dsimp only) | with_reducible apply flag_kept hregs hmgmt | with_reducible apply fset_kept hregs | with_reducible apply accept_kept htime | with_reducible apply foldl_kept | with_reducible apply ite_kept | (fail_if_no_progress (with_reducible refine mk_kept ?_)) | split

theorem gateStage_kept (hregs : p ≠ .regs) (hmgmt : p ≠ .mgmt) (hrx : p ≠ .rx) {x1 s} (k : Kept p b s) :
    Kept p b (gateStage x1 s) := by
  unfold gateStage
  try dsimp only
  repeat' first | with_reducible assumption | (intro _; try dsimp only) | with_reducible apply flag_kept hregs hmgmt | with_reducible apply setStaging_kept hregs hrx | with_reducible apply foldl_kept | with_reducible apply ite_kept | (fail_if_no_progress (with_reducible refine mk_kept ?_)) | split

theorem execGateRead_kept (hregs : p ≠ .regs) (hmgmt : p ≠ .mgmt) {x1 x2 s t} (k : Kept p b s) (e : execGateRead x1 x2 s = .next t) :
    Kept p b t := by
  unfold execGateRead at e
  injection e with e
  subst e
  try dsimp only
  repeat' first | with_reducible assumption | (intro _; try dsimp only) | with_reducible apply hostWrite_kept hregs hmgmt | with_reducible apply gateRead_kept hregs | with_reducible apply foldl_kept | with_reducible apply ite_kept | (fail_if_no_progress (with_reducible refine mk_kept ?_)) | split

theorem execGateCommit_kept (hregs : p ≠ .regs) (htime : p ≠ .time) (hmgmt : p ≠ .mgmt) (hrx : p ≠ .rx) {x1 x2 s t} (k : Kept p b s) (e : execGateCommit x1 x2 s = .next t) :
    Kept p b t := by
  unfold execGateCommit at e
  injection e with e
  subst e
  try dsimp only
  repeat' first | with_reducible assumption | (intro _; try dsimp only) | with_reducible apply hostWrite_kept hregs hmgmt | with_reducible apply gateCommit_kept hregs htime hmgmt hrx | with_reducible apply foldl_kept | with_reducible apply ite_kept | (fail_if_no_progress (with_reducible refine mk_kept ?_)) | split

theorem setEvidence_kept (hrx : p ≠ .rx) {x1 x2 x3 s} (k : Kept p b s) :
    Kept p b (setEvidence x1 x2 x3 s) := by
  unfold setEvidence
  try dsimp only
  repeat' first | with_reducible assumption | (intro _; try dsimp only) | with_reducible apply foldl_kept | with_reducible apply ite_kept | (fail_if_no_progress (with_reducible refine mk_kept ?_)) | split

theorem gateDiscard_kept (hregs : p ≠ .regs) (hmgmt : p ≠ .mgmt) (hrx : p ≠ .rx) {x1 s} (k : Kept p b s) :
    Kept p b (gateDiscard x1 s) := by
  unfold gateDiscard
  try dsimp only
  repeat' first | with_reducible assumption | (intro _; try dsimp only) | with_reducible apply fset_kept hregs | with_reducible apply flag_kept hregs hmgmt | with_reducible apply setStaging_kept hregs hrx | with_reducible apply foldl_kept | with_reducible apply ite_kept | (fail_if_no_progress (with_reducible refine mk_kept ?_)) | split

theorem reloadGates_kept (hrx : p ≠ .rx) {x1 x2 s} (k : Kept p b s) :
    Kept p b (reloadGates x1 x2 s) := by
  unfold reloadGates
  try dsimp only
  repeat' first | with_reducible assumption | (intro _; try dsimp only) | with_reducible apply foldl_kept | with_reducible apply ite_kept | (fail_if_no_progress (with_reducible refine mk_kept ?_)) | split

theorem countRmw_kept (hcal : p ≠ .cal) {x1 s} (k : Kept p b s) :
    Kept p b (countRmw x1 s) := by
  unfold countRmw
  try dsimp only
  repeat' first | with_reducible assumption | (intro _; try dsimp only) | with_reducible apply foldl_kept | with_reducible apply ite_kept | (fail_if_no_progress (with_reducible refine mk_kept ?_)) | split

theorem execPixelClose_kept (hregs : p ≠ .regs) (hmgmt : p ≠ .mgmt) (hcal : p ≠ .cal) (hrx : p ≠ .rx) {x1 s t} (k : Kept p b s) (e : execPixelClose x1 s = .next t) :
    Kept p b t := by
  unfold execPixelClose at e
  injection e with e
  subst e
  try dsimp only
  repeat' first | with_reducible assumption | (intro _; try dsimp only) | with_reducible apply fset_kept hregs | with_reducible apply setBlk_kept hrx | with_reducible apply flag_kept hregs hmgmt | with_reducible apply bumpOvf_kept hregs hmgmt | with_reducible apply fgLeft_kept hregs hcal hrx | with_reducible apply bump_kept hregs | with_reducible apply forUp_kept | with_reducible apply foldl_kept | with_reducible apply ite_kept | (fail_if_no_progress (with_reducible refine mk_kept ?_)) | split

theorem execGateStage_kept (hregs : p ≠ .regs) (hmgmt : p ≠ .mgmt) (hrx : p ≠ .rx) {x1 x2 s t} (k : Kept p b s) (e : execGateStage x1 x2 s = .next t) :
    Kept p b t := by
  unfold execGateStage at e
  injection e with e
  subst e
  try dsimp only
  repeat' first | with_reducible assumption | (intro _; try dsimp only) | with_reducible apply hostWrite_kept hregs hmgmt | with_reducible apply gateStage_kept hregs hmgmt hrx | with_reducible apply foldl_kept | with_reducible apply ite_kept | (fail_if_no_progress (with_reducible refine mk_kept ?_)) | split

theorem addEvidence_kept (hrx : p ≠ .rx) {x1 x2 x3 x4 s} (k : Kept p b s) :
    Kept p b (addEvidence x1 x2 x3 x4 s) := by
  unfold addEvidence
  try dsimp only
  repeat' first | with_reducible assumption | (intro _; try dsimp only) | with_reducible apply setEvidence_kept hrx | with_reducible apply foldl_kept | with_reducible apply ite_kept | (fail_if_no_progress (with_reducible refine mk_kept ?_)) | split

theorem execGateUpdate_kept (hregs : p ≠ .regs) (hmgmt : p ≠ .mgmt) (hrx : p ≠ .rx) {x1 x2 x3 x4 s t} (k : Kept p b s) (e : execGateUpdate x1 x2 x3 x4 s = .next t) :
    Kept p b t := by
  unfold execGateUpdate at e
  injection e with e
  subst e
  try dsimp only
  repeat' first | with_reducible assumption | (intro _; try dsimp only) | with_reducible apply setEvidence_kept hrx | with_reducible apply applyUpdate_kept hrx | with_reducible apply flag_kept hregs hmgmt | with_reducible apply bumpOvf_kept hregs hmgmt | with_reducible apply foldl_kept | with_reducible apply ite_kept | (fail_if_no_progress (with_reducible refine mk_kept ?_)) | split

theorem histRead_kept (hregs : p ≠ .regs) (hmgmt : p ≠ .mgmt) (hrx : p ≠ .rx) (hfresh : p ≠ .fresh) {x1 x2 x3 x4 x5 x6 x7 s} (k : Kept p b s) :
    Kept p b (histRead x1 x2 x3 x4 x5 x6 x7 s) := by
  unfold histRead
  try dsimp only
  repeat' first | with_reducible assumption | (intro _; try dsimp only) | with_reducible apply complete_kept hregs hmgmt | with_reducible apply maskCell_kept hregs | with_reducible apply flag_kept hregs hmgmt | with_reducible apply drawFree_kept hfresh | with_reducible apply setBlk_kept hrx | with_reducible apply flagIf_kept hregs hmgmt | with_reducible apply foldl_kept | with_reducible apply ite_kept | (fail_if_no_progress (with_reducible refine mk_kept ?_)) | split

theorem sliceFatal_kept (hregs : p ≠ .regs) (hmgmt : p ≠ .mgmt) (hrx : p ≠ .rx) (hfresh : p ≠ .fresh) {x1 x2 x3 x4 x5 s} (k : Kept p b s) :
    Kept p b (sliceFatal x1 x2 x3 x4 x5 s) := by
  unfold sliceFatal
  try dsimp only
  repeat' first | with_reducible assumption | (intro _; try dsimp only) | with_reducible apply drawFree_kept hfresh | with_reducible apply flag_kept hregs hmgmt | with_reducible apply maskCell_kept hregs | with_reducible apply setBlk_kept hrx | with_reducible apply foldl_kept | with_reducible apply ite_kept | (fail_if_no_progress (with_reducible refine mk_kept ?_)) | split

theorem gateBad_kept (hregs : p ≠ .regs) (hmgmt : p ≠ .mgmt) {x1 s} (k : Kept p b s) :
    Kept p b (gateBad x1 s) := by
  unfold gateBad
  try dsimp only
  repeat' first | with_reducible assumption | (intro _; try dsimp only) | with_reducible apply flag_kept hregs hmgmt | with_reducible apply foldl_kept | with_reducible apply ite_kept | (fail_if_no_progress (with_reducible refine mk_kept ?_)) | split

theorem gateCommand_kept (hregs : p ≠ .regs) (htime : p ≠ .time) (hmgmt : p ≠ .mgmt) (hrx : p ≠ .rx) {x1 x2 s} (k : Kept p b s) :
    Kept p b (gateCommand x1 x2 s) := by
  unfold gateCommand
  try dsimp only
  repeat' first | with_reducible assumption | (intro _; try dsimp only) | with_reducible apply gateRead_kept hregs | with_reducible apply gateStage_kept hregs hmgmt hrx | with_reducible apply gateCommit_kept hregs htime hmgmt hrx | with_reducible apply gateDiscard_kept hregs hmgmt hrx | with_reducible apply gateBad_kept hregs hmgmt | with_reducible apply foldl_kept | with_reducible apply ite_kept | (fail_if_no_progress (with_reducible refine mk_kept ?_)) | split

theorem execGateBadCommand_kept (hregs : p ≠ .regs) (htime : p ≠ .time) (hmgmt : p ≠ .mgmt) (hrx : p ≠ .rx) {x1 x2 x3 s t} (k : Kept p b s) (e : execGateBadCommand x1 x2 x3 s = .next t) :
    Kept p b t := by
  unfold execGateBadCommand at e
  injection e with e
  subst e
  try dsimp only
  repeat' first | with_reducible assumption | (intro _; try dsimp only) | with_reducible apply hostWrite_kept hregs hmgmt | with_reducible apply gateCommand_kept hregs htime hmgmt hrx | with_reducible apply foldl_kept | with_reducible apply ite_kept | (fail_if_no_progress (with_reducible refine mk_kept ?_)) | split

theorem placePulse_kept (hregs : p ≠ .regs) (hmgmt : p ≠ .mgmt) (hcal : p ≠ .cal) (hrx : p ≠ .rx) (hfresh : p ≠ .fresh) {x1 x2 x3 x4 s} (k : Kept p b s) :
    Kept p b (placePulse x1 x2 x3 x4 s) := by
  unfold placePulse
  try dsimp only
  repeat' first | with_reducible assumption | (intro _; try dsimp only) | with_reducible apply gdCount_kept hregs hmgmt | with_reducible apply bumpOvf_kept hregs hmgmt | with_reducible apply countRmw_kept hcal | with_reducible apply sliceFatal_kept hregs hmgmt hrx hfresh | with_reducible apply flagIf_kept hregs hmgmt | with_reducible apply setBlk_kept hrx | with_reducible apply flag_kept hregs hmgmt | with_reducible apply foldl_kept | with_reducible apply ite_kept | (fail_if_no_progress (with_reducible refine mk_kept ?_)) | split

theorem execPulsePlace_kept (hregs : p ≠ .regs) (hmgmt : p ≠ .mgmt) (hcal : p ≠ .cal) (hrx : p ≠ .rx) (hfresh : p ≠ .fresh) {x1 x2 x3 s t} (k : Kept p b s) (e : execPulsePlace x1 x2 x3 s = .next t) :
    Kept p b t := by
  unfold execPulsePlace at e
  injection e with e
  subst e
  try dsimp only
  repeat' first | with_reducible assumption | (intro _; try dsimp only) | with_reducible apply placePulse_kept hregs hmgmt hcal hrx hfresh | with_reducible apply setCell_kept hrx | with_reducible apply foldl_kept | with_reducible apply ite_kept | (fail_if_no_progress (with_reducible refine mk_kept ?_)) | split

theorem execHistWindowRead_kept (hregs : p ≠ .regs) (hmgmt : p ≠ .mgmt) (hrx : p ≠ .rx) (hfresh : p ≠ .fresh) {x1 x2 x3 x4 x5 x6 x7 s t} (k : Kept p b s) (e : execHistWindowRead x1 x2 x3 x4 x5 x6 x7 s = .next t) :
    Kept p b t := by
  unfold execHistWindowRead at e
  injection e with e
  subst e
  try dsimp only
  repeat' first | with_reducible assumption | (intro _; try dsimp only) | with_reducible apply histRead_kept hregs hmgmt hrx hfresh | with_reducible apply foldl_kept | with_reducible apply ite_kept | (fail_if_no_progress (with_reducible refine mk_kept ?_)) | split

theorem commitBefore_kept (hregs : p ≠ .regs) (hmgmt : p ≠ .mgmt) (hrx : p ≠ .rx) {x1 x2 s} (k : Kept p b s) :
    Kept p b (commitBefore x1 x2 s) := by
  unfold commitBefore
  try dsimp only
  repeat' first | with_reducible assumption | (intro _; try dsimp only) | with_reducible apply applyCommit_kept hregs hmgmt hrx | with_reducible apply foldl_kept | with_reducible apply ite_kept | (fail_if_no_progress (with_reducible refine mk_kept ?_)) | split

theorem execGateDiscard_kept (hregs : p ≠ .regs) (hmgmt : p ≠ .mgmt) (hrx : p ≠ .rx) {x1 x2 s t} (k : Kept p b s) (e : execGateDiscard x1 x2 s = .next t) :
    Kept p b t := by
  unfold execGateDiscard at e
  injection e with e
  subst e
  try dsimp only
  repeat' first | with_reducible assumption | (intro _; try dsimp only) | with_reducible apply hostWrite_kept hregs hmgmt | with_reducible apply gateDiscard_kept hregs hmgmt hrx | with_reducible apply foldl_kept | with_reducible apply ite_kept | (fail_if_no_progress (with_reducible refine mk_kept ?_)) | split

end Sys2Proof.Machine
end

