-- ==== Sys2Proof/Laws/KeptStreams.lean ====
section
/-! SUPPORT. What each operation and command of streams, Loupe and the capture engine leaves alone (see Sys2Proof/Laws/Kept.lean). -/
namespace Sys2Proof.Machine

set_option Elab.async false
set_option linter.unusedTactic false
set_option linter.unreachableTactic false

variable {p : Part} {b : State}

theorem setDropAcc_kept (hlk : p ≠ .lk) {x1 x2 x3 s} (k : Kept p b s) :
    Kept p b (setDropAcc x1 x2 x3 s) := by
  unfold setDropAcc
  try dsimp only
  repeat' first | with_reducible assumption | (intro _; try dsimp only) | with_reducible apply foldl_kept | with_reducible apply ite_kept | (fail_if_no_progress (with_reducible refine mk_kept ?_)) | split

theorem dropPacket_kept (hregs : p ≠ .regs) (hmgmt : p ≠ .mgmt) (hlk : p ≠ .lk) {x1 x2 s} (k : Kept p b s) :
    Kept p b (dropPacket x1 x2 s) := by
  unfold dropPacket
  try dsimp only
  repeat' first | with_reducible assumption | (intro _; try dsimp only) | with_reducible apply setDropAcc_kept hlk | with_reducible apply flagIf_kept hregs hmgmt | with_reducible apply flag_kept hregs hmgmt | with_reducible apply bumpOvf_kept hregs hmgmt | with_reducible apply foldl_kept | with_reducible apply ite_kept | (fail_if_no_progress (with_reducible refine mk_kept ?_)) | split

theorem setLane_kept (hlk : p ≠ .lk) {x1 x2 s} (k : Kept p b s) :
    Kept p b (setLane x1 x2 s) := by
  unfold setLane
  try dsimp only
  repeat' first | with_reducible assumption | (intro _; try dsimp only) | with_reducible apply foldl_kept | with_reducible apply ite_kept | (fail_if_no_progress (with_reducible refine mk_kept ?_)) | split

theorem queueOn_kept (hregs : p ≠ .regs) (hmgmt : p ≠ .mgmt) (hlk : p ≠ .lk) {x1 x2 s} (k : Kept p b s) :
    Kept p b (queueOn x1 x2 s) := by
  unfold queueOn
  try dsimp only
  repeat' first | with_reducible assumption | (intro _; try dsimp only) | with_reducible apply dropPacket_kept hregs hmgmt hlk | with_reducible apply setLane_kept hlk | with_reducible apply foldl_kept | with_reducible apply ite_kept | (fail_if_no_progress (with_reducible refine mk_kept ?_)) | split

theorem sendPacket_kept (hregs : p ≠ .regs) (hmgmt : p ≠ .mgmt) (hlk : p ≠ .lk) {x1 s} (k : Kept p b s) :
    Kept p b (sendPacket x1 s) := by
  unfold sendPacket
  try dsimp only
  repeat' first | with_reducible assumption | (intro _; try dsimp only) | with_reducible apply dropPacket_kept hregs hmgmt hlk | with_reducible apply queueOn_kept hregs hmgmt hlk | with_reducible apply foldl_kept | with_reducible apply ite_kept | (fail_if_no_progress (with_reducible refine mk_kept ?_)) | split

theorem setAssembling_kept (hlk : p ≠ .lk) {x1 x2 s} (k : Kept p b s) :
    Kept p b (setAssembling x1 x2 s) := by
  unfold setAssembling
  try dsimp only
  repeat' first | with_reducible assumption | (intro _; try dsimp only) | with_reducible apply foldl_kept | with_reducible apply ite_kept | (fail_if_no_progress (with_reducible refine mk_kept ?_)) | split

theorem closePacket_kept (hregs : p ≠ .regs) (hmgmt : p ≠ .mgmt) (hlk : p ≠ .lk) {x1 s} (k : Kept p b s) :
    Kept p b (closePacket x1 s) := by
  unfold closePacket
  try dsimp only
  repeat' first | with_reducible assumption | (intro _; try dsimp only) | with_reducible apply sendPacket_kept hregs hmgmt hlk | with_reducible apply setAssembling_kept hlk | with_reducible apply foldl_kept | with_reducible apply ite_kept | (fail_if_no_progress (with_reducible refine mk_kept ?_)) | split

theorem execPacketCloseTimer_kept (hregs : p ≠ .regs) (hmgmt : p ≠ .mgmt) (hlk : p ≠ .lk) {x1 x2 s t} (k : Kept p b s) (e : execPacketCloseTimer x1 x2 s = .next t) :
    Kept p b t := by
  unfold execPacketCloseTimer at e
  injection e with e
  subst e
  try dsimp only
  repeat' first | with_reducible assumption | (intro _; try dsimp only) | with_reducible apply closePacket_kept hregs hmgmt hlk | with_reducible apply foldl_kept | with_reducible apply ite_kept | (fail_if_no_progress (with_reducible refine mk_kept ?_)) | split

theorem setWaiting_kept (hrx : p ≠ .rx) {x1 x2 s} (k : Kept p b s) :
    Kept p b (setWaiting x1 x2 s) := by
  unfold setWaiting
  try dsimp only
  repeat' first | with_reducible assumption | (intro _; try dsimp only) | with_reducible apply foldl_kept | with_reducible apply ite_kept | (fail_if_no_progress (with_reducible refine mk_kept ?_)) | split

theorem addUnit_kept (hregs : p ≠ .regs) (hmgmt : p ≠ .mgmt) (hlk : p ≠ .lk) {x1 s} (k : Kept p b s) :
    Kept p b (addUnit x1 s) := by
  unfold addUnit
  try dsimp only
  repeat' first | with_reducible assumption | (intro _; try dsimp only) | with_reducible apply closePacket_kept hregs hmgmt hlk | with_reducible apply setAssembling_kept hlk | with_reducible apply foldl_kept | with_reducible apply ite_kept | (fail_if_no_progress (with_reducible refine mk_kept ?_)) | split

theorem serveOutput_kept (hregs : p ≠ .regs) (hmgmt : p ≠ .mgmt) (hrx : p ≠ .rx) (hlk : p ≠ .lk) {x1 s} (k : Kept p b s) :
    Kept p b (serveOutput x1 s) := by
  unfold serveOutput
  try dsimp only
  repeat' first | with_reducible assumption | (intro _; try dsimp only) | with_reducible apply setWaiting_kept hrx | with_reducible apply addUnit_kept hregs hmgmt hlk | with_reducible apply foldl_kept | with_reducible apply ite_kept | (fail_if_no_progress (with_reducible refine mk_kept ?_)) | split

theorem offerUnit_kept (hregs : p ≠ .regs) (hmgmt : p ≠ .mgmt) (hrx : p ≠ .rx) (hlk : p ≠ .lk) {x1 x2 s} (k : Kept p b s) :
    Kept p b (offerUnit x1 x2 s) := by
  unfold offerUnit
  try dsimp only
  repeat' first | with_reducible assumption | (intro _; try dsimp only) | with_reducible apply serveOutput_kept hregs hmgmt hrx hlk | with_reducible apply setWaiting_kept hrx | with_reducible apply foldl_kept | with_reducible apply ite_kept | (fail_if_no_progress (with_reducible refine mk_kept ?_)) | split

theorem setLaneState_kept (hregs : p ≠ .regs) (hlk : p ≠ .lk) {x1 x2 s} (k : Kept p b s) :
    Kept p b (setLaneState x1 x2 s) := by
  unfold setLaneState
  try dsimp only
  repeat' first | with_reducible assumption | (intro _; try dsimp only) | with_reducible apply fset_kept hregs | with_reducible apply setReg_kept hregs | with_reducible apply setLane_kept hlk | with_reducible apply foldl_kept | with_reducible apply ite_kept | (fail_if_no_progress (with_reducible refine mk_kept ?_)) | split

theorem loupeStart_kept (hregs : p ≠ .regs) (hmgmt : p ≠ .mgmt) {x1 x2 s} (k : Kept p b s) :
    Kept p b (loupeStart x1 x2 s) := by
  unfold loupeStart
  try dsimp only
  repeat' first | with_reducible assumption | (intro _; try dsimp only) | with_reducible apply fsets_kept hregs | with_reducible apply setReg64_kept hregs | with_reducible apply foldl_kept | with_reducible apply ite_kept | (fail_if_no_progress (with_reducible refine mk_kept ?_)) | split

theorem loupeArm_kept (hregs : p ≠ .regs) (hmgmt : p ≠ .mgmt) {s} (k : Kept p b s) :
    Kept p b (loupeArm s) := by
  unfold loupeArm
  try dsimp only
  repeat' first | with_reducible assumption | (intro _; try dsimp only) | with_reducible apply fset_kept hregs | with_reducible apply flag_kept hregs hmgmt | with_reducible apply foldl_kept | with_reducible apply ite_kept | (fail_if_no_progress (with_reducible refine mk_kept ?_)) | split

theorem loupeJoin_kept (hregs : p ≠ .regs) (hmgmt : p ≠ .mgmt) {x1 x2 s} (k : Kept p b s) :
    Kept p b (loupeJoin x1 x2 s) := by
  unfold loupeJoin
  try dsimp only
  repeat' first | with_reducible assumption | (intro _; try dsimp only) | with_reducible apply fset_kept hregs | with_reducible apply setReg64_kept hregs | with_reducible apply foldl_kept | with_reducible apply ite_kept | (fail_if_no_progress (with_reducible refine mk_kept ?_)) | split

theorem loupeSource_kept (hregs : p ≠ .regs) (hmgmt : p ≠ .mgmt) {x1 x2 s} (k : Kept p b s) :
    Kept p b (loupeSource x1 x2 s) := by
  unfold loupeSource
  try dsimp only
  repeat' first | with_reducible assumption | (intro _; try dsimp only) | with_reducible apply loupeJoin_kept hregs hmgmt | with_reducible apply loupeStart_kept hregs hmgmt | with_reducible apply flag_kept hregs hmgmt | with_reducible apply fset_kept hregs | with_reducible apply foldl_kept | with_reducible apply ite_kept | (fail_if_no_progress (with_reducible refine mk_kept ?_)) | split

theorem loupeCommand_kept (hregs : p ≠ .regs) (hmgmt : p ≠ .mgmt) {x1 s} (k : Kept p b s) :
    Kept p b (loupeCommand x1 s) := by
  unfold loupeCommand
  try dsimp only
  repeat' first | with_reducible assumption | (intro _; try dsimp only) | with_reducible apply loupeArm_kept hregs hmgmt | with_reducible apply loupeSource_kept hregs hmgmt | with_reducible apply foldl_kept | with_reducible apply ite_kept | (fail_if_no_progress (with_reducible refine mk_kept ?_)) | split

theorem execLoupeArm_kept (hregs : p ≠ .regs) (hmgmt : p ≠ .mgmt) {x1 s t} (k : Kept p b s) (e : execLoupeArm x1 s = .next t) :
    Kept p b t := by
  unfold execLoupeArm at e
  injection e with e
  subst e
  try dsimp only
  repeat' first | with_reducible assumption | (intro _; try dsimp only) | with_reducible apply hostWrite_kept hregs hmgmt | with_reducible apply loupeCommand_kept hregs hmgmt | with_reducible apply foldl_kept | with_reducible apply ite_kept | (fail_if_no_progress (with_reducible refine mk_kept ?_)) | split

theorem execLoupeInEdge_kept (hregs : p ≠ .regs) (hmgmt : p ≠ .mgmt) {x1 x2 s t} (k : Kept p b s) (e : execLoupeInEdge x1 x2 s = .next t) :
    Kept p b t := by
  unfold execLoupeInEdge at e
  injection e with e
  subst e
  try dsimp only
  repeat' first | with_reducible assumption | (intro _; try dsimp only) | with_reducible apply loupeSource_kept hregs hmgmt | with_reducible apply foldl_kept | with_reducible apply ite_kept | (fail_if_no_progress (with_reducible refine mk_kept ?_)) | split

theorem execLoupeFire_kept (hregs : p ≠ .regs) (hmgmt : p ≠ .mgmt) {x1 s t} (k : Kept p b s) (e : execLoupeFire x1 s = .next t) :
    Kept p b t := by
  unfold execLoupeFire at e
  injection e with e
  subst e
  try dsimp only
  repeat' first | with_reducible assumption | (intro _; try dsimp only) | with_reducible apply hostWrite_kept hregs hmgmt | with_reducible apply loupeCommand_kept hregs hmgmt | with_reducible apply foldl_kept | with_reducible apply ite_kept | (fail_if_no_progress (with_reducible refine mk_kept ?_)) | split

theorem addMarker_kept (haq : p ≠ .aq) {x1 s} (k : Kept p b s) :
    Kept p b (addMarker x1 s) := by
  unfold addMarker
  try dsimp only
  repeat' first | with_reducible assumption | (intro _; try dsimp only) | with_reducible apply foldl_kept | with_reducible apply ite_kept | (fail_if_no_progress (with_reducible refine mk_kept ?_)) | split

theorem setFifo_kept (haq : p ≠ .aq) {x1 x2 s} (k : Kept p b s) :
    Kept p b (setFifo x1 x2 s) := by
  unfold setFifo
  try dsimp only
  repeat' first | with_reducible assumption | (intro _; try dsimp only) | with_reducible apply foldl_kept | with_reducible apply ite_kept | (fail_if_no_progress (with_reducible refine mk_kept ?_)) | split

theorem mergeFrom_kept (haq : p ≠ .aq) {x1 x2 s} (k : Kept p b s) :
    Kept p b (mergeFrom x1 x2 s) := by
  unfold mergeFrom
  try dsimp only
  repeat' first | with_reducible assumption | (intro _; try dsimp only) | with_reducible apply setFifo_kept haq | with_reducible apply foldl_kept | with_reducible apply ite_kept | (fail_if_no_progress (with_reducible refine mk_kept ?_)) | split

theorem execGapMarker_kept (haq : p ≠ .aq) {x1 x2 s t} (k : Kept p b s) (e : execGapMarker x1 x2 s = .next t) :
    Kept p b t := by
  unfold execGapMarker at e
  injection e with e
  subst e
  try dsimp only
  repeat' first | with_reducible assumption | (intro _; try dsimp only) | with_reducible apply mergeFrom_kept haq | with_reducible apply addMarker_kept haq | with_reducible apply foldl_kept | with_reducible apply ite_kept | (fail_if_no_progress (with_reducible refine mk_kept ?_)) | split

theorem execCaptureEdgeArrival_kept (hregs : p ≠ .regs) (hmgmt : p ≠ .mgmt) (hrx : p ≠ .rx) (haq : p ≠ .aq) {x1 x2 s t} (k : Kept p b s) (e : execCaptureEdgeArrival x1 x2 s = .next t) :
    Kept p b t := by
  unfold execCaptureEdgeArrival at e
  injection e with e
  subst e
  try dsimp only
  repeat' first | with_reducible assumption | (intro _; try dsimp only) | with_reducible apply mergeFrom_kept haq | with_reducible apply setFifo_kept haq | with_reducible apply flag_kept hregs hmgmt | with_reducible apply bumpOvf_kept hregs hmgmt | with_reducible apply foldl_kept | with_reducible apply ite_kept | (fail_if_no_progress (with_reducible refine mk_kept ?_)) | split

theorem putMem_kept (haq : p ≠ .aq) (haqMem : p ≠ .aqMem) {x1 x2 s} (k : Kept p b s) :
    Kept p b (putMem x1 x2 s) := by
  unfold putMem
  exact aq_kept haq haqMem (fun h => canon_put h.2.1 _ _) k

theorem putMems_kept (haq : p ≠ .aq) (haqMem : p ≠ .aqMem) {x1 x2 s} (k : Kept p b s) :
    Kept p b (putMems x1 x2 s) := by
  induction x2 generalizing x1 s with
  | nil => exact k
  | cons w ws ih => exact ih (putMem_kept haq haqMem k)

theorem remark_kept (haq : p ≠ .aq) (hfresh : p ≠ .fresh) (haqMem : p ≠ .aqMem) {x1 s} (k : Kept p b s) :
    Kept p b (remark x1 s) := by
  unfold remark
  try dsimp only
  repeat' first | with_reducible assumption | (intro _; try dsimp only) | with_reducible apply putMems_kept haq haqMem | with_reducible apply drawFree_kept hfresh | with_reducible apply foldl_kept | with_reducible apply ite_kept | (fail_if_no_progress (with_reducible refine mk_kept ?_)) | split

theorem settlePull_kept (haq : p ≠ .aq) {x1 s} (k : Kept p b s) :
    Kept p b (settlePull x1 s) := by
  unfold settlePull
  try dsimp only
  repeat' first | with_reducible assumption | (intro _; try dsimp only) | with_reducible apply foldl_kept | with_reducible apply ite_kept | (fail_if_no_progress (with_reducible refine mk_kept ?_)) | split

theorem joinClosed_kept (hregs : p ≠ .regs) (hmgmt : p ≠ .mgmt) (hlk : p ≠ .lk) (haq : p ≠ .aq) (hfresh : p ≠ .fresh) (haqMem : p ≠ .aqMem) {x1 x2 x3 x4 s} (k : Kept p b s) :
    Kept p b (joinClosed x1 x2 x3 x4 s) := by
  unfold joinClosed
  try dsimp only
  repeat' first | with_reducible assumption | (intro _; try dsimp only) | with_reducible apply loupeSource_kept hregs hmgmt | with_reducible apply flag_kept hregs hmgmt | with_reducible apply putMems_kept haq haqMem | with_reducible apply remark_kept haq hfresh haqMem | with_reducible apply settlePull_kept haq | with_reducible apply foldl_kept | with_reducible apply ite_kept | (fail_if_no_progress (with_reducible refine mk_kept ?_)) | split

theorem setAqState_kept (hregs : p ≠ .regs) {x1 s} (k : Kept p b s) :
    Kept p b (setAqState x1 s) := by
  unfold setAqState
  try dsimp only
  repeat' first | with_reducible assumption | (intro _; try dsimp only) | with_reducible apply fset_kept hregs | with_reducible apply foldl_kept | with_reducible apply ite_kept | (fail_if_no_progress (with_reducible refine mk_kept ?_)) | split

theorem setSeg_kept (haq : p ≠ .aq) {x1 s} (k : Kept p b s) :
    Kept p b (setSeg x1 s) := by
  unfold setSeg
  try dsimp only
  repeat' first | with_reducible assumption | (intro _; try dsimp only) | with_reducible apply foldl_kept | with_reducible apply ite_kept | (fail_if_no_progress (with_reducible refine mk_kept ?_)) | split

theorem fireTrigger_kept (hregs : p ≠ .regs) (hmgmt : p ≠ .mgmt) (haq : p ≠ .aq) {x1 x2 x3 s} (k : Kept p b s) :
    Kept p b (fireTrigger x1 x2 x3 s) := by
  unfold fireTrigger
  try dsimp only
  repeat' first | with_reducible assumption | (intro _; try dsimp only) | with_reducible apply flag_kept hregs hmgmt | with_reducible apply setAqState_kept hregs | with_reducible apply setSeg_kept haq | with_reducible apply loupeSource_kept hregs hmgmt | with_reducible apply settlePull_kept haq | with_reducible apply addMarker_kept haq | with_reducible apply foldl_kept | with_reducible apply ite_kept | (fail_if_no_progress (with_reducible refine mk_kept ?_)) | split

theorem joinTrigger_kept (haq : p ≠ .aq) (hfresh : p ≠ .fresh) (haqMem : p ≠ .aqMem) {x1 x2 x3 s} (k : Kept p b s) :
    Kept p b (joinTrigger x1 x2 x3 s) := by
  unfold joinTrigger
  try dsimp only
  repeat' first | with_reducible assumption | (intro _; try dsimp only) | with_reducible apply settlePull_kept haq | with_reducible apply addMarker_kept haq | with_reducible apply setSeg_kept haq | with_reducible apply remark_kept haq hfresh haqMem | with_reducible apply foldl_kept | with_reducible apply ite_kept | (fail_if_no_progress (with_reducible refine mk_kept ?_)) | split

theorem triggerSource_kept (hregs : p ≠ .regs) (hmgmt : p ≠ .mgmt) (hlk : p ≠ .lk) (haq : p ≠ .aq) (hfresh : p ≠ .fresh) (haqMem : p ≠ .aqMem) {x1 x2 s} (k : Kept p b s) :
    Kept p b (triggerSource x1 x2 s) := by
  unfold triggerSource
  try dsimp only
  repeat' first | with_reducible assumption | (intro _; try dsimp only) | with_reducible apply joinClosed_kept hregs hmgmt hlk haq hfresh haqMem | with_reducible apply bumpOvf_kept hregs hmgmt | with_reducible apply fireTrigger_kept hregs hmgmt haq | with_reducible apply joinTrigger_kept haq hfresh haqMem | with_reducible apply foldl_kept | with_reducible apply ite_kept | (fail_if_no_progress (with_reducible refine mk_kept ?_)) | split

theorem execExtTrigEdge_kept (hregs : p ≠ .regs) (hmgmt : p ≠ .mgmt) (hlk : p ≠ .lk) (haq : p ≠ .aq) (hfresh : p ≠ .fresh) (haqMem : p ≠ .aqMem) {x1 x2 s t} (k : Kept p b s) (e : execExtTrigEdge x1 x2 s = .next t) :
    Kept p b t := by
  unfold execExtTrigEdge at e
  injection e with e
  subst e
  try dsimp only
  repeat' first | with_reducible assumption | (intro _; try dsimp only) | with_reducible apply triggerSource_kept hregs hmgmt hlk haq hfresh haqMem | with_reducible apply foldl_kept | with_reducible apply ite_kept | (fail_if_no_progress (with_reducible refine mk_kept ?_)) | split

theorem emptyHeaders_kept (haq : p ≠ .aq) (haqMem : p ≠ .aqMem) {s} (k : Kept p b s) :
    Kept p b (emptyHeaders s) := by
  unfold emptyHeaders
  try dsimp only
  repeat' first | with_reducible assumption | (intro _; try dsimp only) | with_reducible apply putMem_kept haq haqMem | with_reducible apply forUp_kept | with_reducible apply foldl_kept | with_reducible apply ite_kept | (fail_if_no_progress (with_reducible refine mk_kept ?_)) | split

theorem rearm_kept (hregs : p ≠ .regs) (hmgmt : p ≠ .mgmt) (haq : p ≠ .aq) {x1 s} (k : Kept p b s) :
    Kept p b (rearm x1 s) := by
  unfold rearm
  try dsimp only
  repeat' first | with_reducible assumption | (intro _; try dsimp only) | with_reducible apply setAqState_kept hregs | with_reducible apply bumpOvf_kept hregs hmgmt | with_reducible apply foldl_kept | with_reducible apply ite_kept | (fail_if_no_progress (with_reducible refine mk_kept ?_)) | split

theorem openSegment_kept (hregs : p ≠ .regs) (haq : p ≠ .aq) {x1 s} (k : Kept p b s) :
    Kept p b (openSegment x1 s) := by
  unfold openSegment
  try dsimp only
  repeat' first | with_reducible assumption | (intro _; try dsimp only) | with_reducible apply fsets_kept hregs | with_reducible apply foldl_kept | with_reducible apply ite_kept | (fail_if_no_progress (with_reducible refine mk_kept ?_)) | split

theorem aqArm_kept (hregs : p ≠ .regs) (hmgmt : p ≠ .mgmt) (haq : p ≠ .aq) (haqMem : p ≠ .aqMem) {s} (k : Kept p b s) :
    Kept p b (aqArm s) := by
  unfold aqArm
  try dsimp only
  repeat' first | with_reducible assumption | (intro _; try dsimp only) | with_reducible apply fset_kept hregs | with_reducible apply setReg_kept hregs | with_reducible apply emptyHeaders_kept haq haqMem | with_reducible apply rearm_kept hregs hmgmt haq | with_reducible apply openSegment_kept hregs haq | with_reducible apply flag_kept hregs hmgmt | with_reducible apply foldl_kept | with_reducible apply ite_kept | (fail_if_no_progress (with_reducible refine mk_kept ?_)) | split

theorem execCaptureArm_kept (hregs : p ≠ .regs) (hmgmt : p ≠ .mgmt) (haq : p ≠ .aq) (haqMem : p ≠ .aqMem) {x1 s t} (k : Kept p b s) (e : execCaptureArm x1 s = .next t) :
    Kept p b t := by
  unfold execCaptureArm at e
  injection e with e
  subst e
  try dsimp only
  repeat' first | with_reducible assumption | (intro _; try dsimp only) | with_reducible apply hostWrite_kept hregs hmgmt | with_reducible apply aqArm_kept hregs hmgmt haq haqMem | with_reducible apply foldl_kept | with_reducible apply ite_kept | (fail_if_no_progress (with_reducible refine mk_kept ?_)) | split

theorem edgeSources_kept (hregs : p ≠ .regs) (hmgmt : p ≠ .mgmt) (hlk : p ≠ .lk) (haq : p ≠ .aq) (hfresh : p ≠ .fresh) (haqMem : p ≠ .aqMem) {x1 s} (k : Kept p b s) :
    Kept p b (edgeSources x1 s) := by
  unfold edgeSources
  try dsimp only
  repeat' first | with_reducible assumption | (intro _; try dsimp only) | with_reducible apply triggerSource_kept hregs hmgmt hlk haq hfresh haqMem | with_reducible apply foldl_kept | with_reducible apply ite_kept | (fail_if_no_progress (with_reducible refine mk_kept ?_)) | split

theorem handCapt_kept (hregs : p ≠ .regs) (hmgmt : p ≠ .mgmt) (hlk : p ≠ .lk) (haq : p ≠ .aq) {x1 s} (k : Kept p b s) :
    Kept p b (handCapt x1 s) := by
  induction x1 generalizing s with
  | zero => exact k
  | succ n ih =>
    unfold handCapt
    split
    · exact k
    · split
      · exact k
      · exact ih (sendPacket_kept hregs hmgmt hlk (mk_kept k))

theorem closeSegment_kept (hregs : p ≠ .regs) (hmgmt : p ≠ .mgmt) (hlk : p ≠ .lk) (haq : p ≠ .aq) (haqMem : p ≠ .aqMem) {x1 s} (k : Kept p b s) :
    Kept p b (closeSegment x1 s) := by
  unfold closeSegment
  try dsimp only
  repeat' first | with_reducible assumption | (intro _; try dsimp only) | with_reducible apply putMems_kept haq haqMem | with_reducible apply fsets_kept hregs | with_reducible apply handCapt_kept hregs hmgmt hlk haq | with_reducible apply rearm_kept hregs hmgmt haq | with_reducible apply setAqState_kept hregs | with_reducible apply flagIf_kept hregs hmgmt | with_reducible apply foldl_kept | with_reducible apply ite_kept | (fail_if_no_progress (with_reducible refine mk_kept ?_)) | split

theorem putSlot_kept (haq : p ≠ .aq) (haqMem : p ≠ .aqMem) {x1 x2 x3 s} (k : Kept p b s) :
    Kept p b (putSlot x1 x2 x3 s) := by
  unfold putSlot
  try dsimp only
  repeat' first | with_reducible assumption | (intro _; try dsimp only) | with_reducible apply setSeg_kept haq | with_reducible apply putMems_kept haq haqMem | with_reducible apply foldl_kept | with_reducible apply ite_kept | (fail_if_no_progress (with_reducible refine mk_kept ?_)) | split

theorem pushSlot_kept (hregs : p ≠ .regs) (hmgmt : p ≠ .mgmt) (hlk : p ≠ .lk) (haq : p ≠ .aq) (haqMem : p ≠ .aqMem) {x1 x2 s} (k : Kept p b s) :
    Kept p b (pushSlot x1 x2 s) := by
  unfold pushSlot
  try dsimp only
  repeat' first | with_reducible assumption | (intro _; try dsimp only) | with_reducible apply closeSegment_kept hregs hmgmt hlk haq haqMem | with_reducible apply putSlot_kept haq haqMem | with_reducible apply foldl_kept | with_reducible apply ite_kept | (fail_if_no_progress (with_reducible refine mk_kept ?_)) | split

theorem storeItem_kept (hregs : p ≠ .regs) (hmgmt : p ≠ .mgmt) (hlk : p ≠ .lk) (haq : p ≠ .aq) (hfresh : p ≠ .fresh) (haqMem : p ≠ .aqMem) {x1 s} (k : Kept p b s) :
    Kept p b (storeItem x1 s) := by
  unfold storeItem
  try dsimp only
  repeat' first | with_reducible assumption | (intro _; try dsimp only) | with_reducible apply pushSlot_kept hregs hmgmt hlk haq haqMem | with_reducible apply drawFree_kept hfresh | with_reducible apply closeSegment_kept hregs hmgmt hlk haq haqMem | with_reducible apply setSeg_kept haq | with_reducible apply foldl_kept | with_reducible apply ite_kept | (fail_if_no_progress (with_reducible refine mk_kept ?_)) | split

theorem flushMarkers_kept (hregs : p ≠ .regs) (hmgmt : p ≠ .mgmt) (hlk : p ≠ .lk) (haq : p ≠ .aq) (hfresh : p ≠ .fresh) (haqMem : p ≠ .aqMem) {x1 s} (k : Kept p b s) :
    Kept p b (flushMarkers x1 s) := by
  unfold flushMarkers
  try dsimp only
  repeat' first | with_reducible assumption | (intro _; try dsimp only) | with_reducible apply storeItem_kept hregs hmgmt hlk haq hfresh haqMem | with_reducible apply foldl_kept | with_reducible apply ite_kept | (fail_if_no_progress (with_reducible refine mk_kept ?_)) | split

theorem execPostTimeExpiry_kept (hregs : p ≠ .regs) (hmgmt : p ≠ .mgmt) (hlk : p ≠ .lk) (haq : p ≠ .aq) (hfresh : p ≠ .fresh) (haqMem : p ≠ .aqMem) {s t} (k : Kept p b s) (e : execPostTimeExpiry s = .next t) :
    Kept p b t := by
  unfold execPostTimeExpiry at e
  injection e with e
  subst e
  try dsimp only
  repeat' first | with_reducible assumption | (intro _; try dsimp only) | with_reducible apply flushMarkers_kept hregs hmgmt hlk haq hfresh haqMem | with_reducible apply closeSegment_kept hregs hmgmt hlk haq haqMem | with_reducible apply foldl_kept | with_reducible apply ite_kept | (fail_if_no_progress (with_reducible refine mk_kept ?_)) | split

theorem fence_kept (hmode : p ≠ .mode) (hregs : p ≠ .regs) (htime : p ≠ .time) (hcut : p ≠ .cut) (hmgmt : p ≠ .mgmt) (hstartup : p ≠ .startup) (hcal : p ≠ .cal) (hrx : p ≠ .rx) (htx : p ≠ .tx) (hlk : p ≠ .lk) (haq : p ≠ .aq) (hpairSt : p ≠ .pairSt) (hfw : p ≠ .fw) (haqMem : p ≠ .aqMem) {x1 s} (k : Kept p b s) :
    Kept p b (fence x1 s) := by
  unfold fence
  try dsimp only
  repeat' first | with_reducible assumption | (intro _; try dsimp only) | with_reducible apply fenceRegion_kept hmode hregs htime hcut hmgmt hstartup hcal hrx htx hpairSt hfw | with_reducible apply setAqState_kept hregs | with_reducible apply closeSegment_kept hregs hmgmt hlk haq haqMem | with_reducible apply addMarker_kept haq | with_reducible apply foldl_kept | with_reducible apply ite_kept | (fail_if_no_progress (with_reducible refine mk_kept ?_)) | split

theorem execGirdleLockLoss_kept (hmode : p ≠ .mode) (hregs : p ≠ .regs) (htime : p ≠ .time) (hcut : p ≠ .cut) (hmgmt : p ≠ .mgmt) (hstartup : p ≠ .startup) (hcal : p ≠ .cal) (hrx : p ≠ .rx) (htx : p ≠ .tx) (hlk : p ≠ .lk) (haq : p ≠ .aq) (hpairSt : p ≠ .pairSt) (hfw : p ≠ .fw) (haqMem : p ≠ .aqMem) {x1 s t} (k : Kept p b s) (e : execGirdleLockLoss x1 s = .next t) :
    Kept p b t := by
  unfold execGirdleLockLoss at e
  injection e with e
  subst e
  try dsimp only
  repeat' first | with_reducible assumption | (intro _; try dsimp only) | with_reducible apply fence_kept hmode hregs htime hcut hmgmt hstartup hcal hrx htx hlk haq hpairSt hfw haqMem | with_reducible apply fset_kept hregs | with_reducible apply setBlk_kept hrx | with_reducible apply forUp_kept | with_reducible apply foldl_kept | with_reducible apply ite_kept | (fail_if_no_progress (with_reducible refine mk_kept ?_)) | split

theorem setMaskRun_kept (haq : p ≠ .aq) {x1 x2 s} (k : Kept p b s) :
    Kept p b (setMaskRun x1 x2 s) := by
  unfold setMaskRun
  try dsimp only
  repeat' first | with_reducible assumption | (intro _; try dsimp only) | with_reducible apply foldl_kept | with_reducible apply ite_kept | (fail_if_no_progress (with_reducible refine mk_kept ?_)) | split

theorem stopByMask_kept (hregs : p ≠ .regs) (hmgmt : p ≠ .mgmt) (hlk : p ≠ .lk) (haq : p ≠ .aq) (hfresh : p ≠ .fresh) (haqMem : p ≠ .aqMem) {s} (k : Kept p b s) :
    Kept p b (stopByMask s) := by
  unfold stopByMask
  try dsimp only
  repeat' first | with_reducible assumption | (intro _; try dsimp only) | with_reducible apply settlePull_kept haq | with_reducible apply closeSegment_kept hregs hmgmt hlk haq haqMem | with_reducible apply remark_kept haq hfresh haqMem | with_reducible apply putSlot_kept haq haqMem | with_reducible apply drawFree_kept hfresh | with_reducible apply foldl_kept | with_reducible apply ite_kept | (fail_if_no_progress (with_reducible refine mk_kept ?_)) | split

theorem maskTest_kept (hregs : p ≠ .regs) (hmgmt : p ≠ .mgmt) (hlk : p ≠ .lk) (haq : p ≠ .aq) (hfresh : p ≠ .fresh) (haqMem : p ≠ .aqMem) {x1 x2 x3 s} (k : Kept p b s) :
    Kept p b (maskTest x1 x2 x3 s) := by
  unfold maskTest
  try dsimp only
  repeat' first | with_reducible assumption | (intro _; try dsimp only) | with_reducible apply setMaskRun_kept haq | with_reducible apply setFlag_kept hregs hmgmt | with_reducible apply stopByMask_kept hregs hmgmt hlk haq hfresh haqMem | with_reducible apply triggerSource_kept hregs hmgmt hlk haq hfresh haqMem | with_reducible apply foldl_kept | with_reducible apply ite_kept | (fail_if_no_progress (with_reducible refine mk_kept ?_)) | split

theorem maskValue_kept (hregs : p ≠ .regs) (hmgmt : p ≠ .mgmt) (hlk : p ≠ .lk) (haq : p ≠ .aq) (hfresh : p ≠ .fresh) (haqMem : p ≠ .aqMem) {x1 x2 x3 s} (k : Kept p b s) :
    Kept p b (maskValue x1 x2 x3 s) := by
  unfold maskValue
  try dsimp only
  repeat' first | with_reducible assumption | (intro _; try dsimp only) | with_reducible apply maskTest_kept hregs hmgmt hlk haq hfresh haqMem | with_reducible apply setMaskRun_kept haq | with_reducible apply foldl_kept | with_reducible apply ite_kept | (fail_if_no_progress (with_reducible refine mk_kept ?_)) | split

theorem shotRange_kept (hregs : p ≠ .regs) (hmgmt : p ≠ .mgmt) (hlk : p ≠ .lk) (haq : p ≠ .aq) (hfresh : p ≠ .fresh) (haqMem : p ≠ .aqMem) {x1 x2 s} (k : Kept p b s) :
    Kept p b (shotRange x1 x2 s) := by
  unfold shotRange
  try dsimp only
  repeat' first | with_reducible assumption | (intro _; try dsimp only) | with_reducible apply maskValue_kept hregs hmgmt hlk haq hfresh haqMem | with_reducible apply foldl_kept | with_reducible apply ite_kept | (fail_if_no_progress (with_reducible refine mk_kept ?_)) | split

theorem captRead_kept (hregs : p ≠ .regs) (hmgmt : p ≠ .mgmt) (hfresh : p ≠ .fresh) {x1 x2 x3 s} (k : Kept p b s) :
    Kept p b (captRead x1 x2 x3 s) := by
  unfold captRead
  try dsimp only
  repeat' first | with_reducible assumption | (intro _; try dsimp only) | with_reducible apply complete_kept hregs hmgmt | with_reducible apply flag_kept hregs hmgmt | with_reducible apply flagIf_kept hregs hmgmt | with_reducible apply drawFree_kept hfresh | with_reducible apply foldl_kept | with_reducible apply ite_kept | (fail_if_no_progress (with_reducible refine mk_kept ?_)) | split

theorem execXlineStuck_kept (hregs : p ≠ .regs) (hmgmt : p ≠ .mgmt) (haq : p ≠ .aq) {x1 s t} (k : Kept p b s) (e : execXlineStuck x1 s = .next t) :
    Kept p b t := by
  unfold execXlineStuck at e
  injection e with e
  subst e
  try dsimp only
  repeat' first | with_reducible assumption | (intro _; try dsimp only) | with_reducible apply flag_kept hregs hmgmt | with_reducible apply foldl_kept | with_reducible apply ite_kept | (fail_if_no_progress (with_reducible refine mk_kept ?_)) | split

theorem takeMasks_kept (hregs : p ≠ .regs) (hmgmt : p ≠ .mgmt) (hlk : p ≠ .lk) (haq : p ≠ .aq) (haqMem : p ≠ .aqMem) {x1 s} (k : Kept p b s) :
    Kept p b (takeMasks x1 s) := by
  unfold takeMasks
  dsimp only
  repeat' first | with_reducible assumption | with_reducible refine aq_kept haq haqMem (fun _ => canon_nil) ?_ | with_reducible apply closeSegment_kept hregs hmgmt hlk haq haqMem | with_reducible apply fset_kept hregs | split

theorem aqForce_kept (hregs : p ≠ .regs) (hmgmt : p ≠ .mgmt) (hlk : p ≠ .lk) (haq : p ≠ .aq) (hfresh : p ≠ .fresh) (haqMem : p ≠ .aqMem) {s} (k : Kept p b s) :
    Kept p b (aqForce s) := by
  unfold aqForce
  try dsimp only
  repeat' first | with_reducible assumption | (intro _; try dsimp only) | with_reducible apply flag_kept hregs hmgmt | with_reducible apply triggerSource_kept hregs hmgmt hlk haq hfresh haqMem | with_reducible apply foldl_kept | with_reducible apply ite_kept | (fail_if_no_progress (with_reducible refine mk_kept ?_)) | split

theorem execForce_kept (hregs : p ≠ .regs) (hmgmt : p ≠ .mgmt) (hlk : p ≠ .lk) (haq : p ≠ .aq) (hfresh : p ≠ .fresh) (haqMem : p ≠ .aqMem) {x1 s t} (k : Kept p b s) (e : execForce x1 s = .next t) :
    Kept p b t := by
  unfold execForce at e
  injection e with e
  subst e
  try dsimp only
  repeat' first | with_reducible assumption | (intro _; try dsimp only) | with_reducible apply hostWrite_kept hregs hmgmt | with_reducible apply aqForce_kept hregs hmgmt hlk haq hfresh haqMem | with_reducible apply foldl_kept | with_reducible apply ite_kept | (fail_if_no_progress (with_reducible refine mk_kept ?_)) | split

theorem aqClear_kept (hregs : p ≠ .regs) {s} (k : Kept p b s) :
    Kept p b (aqClear s) := by
  unfold aqClear
  try dsimp only
  repeat' first | with_reducible assumption | (intro _; try dsimp only) | with_reducible apply setReg_kept hregs | with_reducible apply foldl_kept | with_reducible apply ite_kept | (fail_if_no_progress (with_reducible refine mk_kept ?_)) | split

theorem execXlineRelease_kept (haq : p ≠ .aq) {s t} (k : Kept p b s) (e : execXlineRelease s = .next t) :
    Kept p b t := by
  unfold execXlineRelease at e
  injection e with e
  subst e
  try dsimp only
  repeat' first | with_reducible assumption | (intro _; try dsimp only) | with_reducible apply foldl_kept | with_reducible apply ite_kept | (fail_if_no_progress (with_reducible refine mk_kept ?_)) | split

theorem execShotWindowClose_kept (hregs : p ≠ .regs) (hmgmt : p ≠ .mgmt) (hrx : p ≠ .rx) (hlk : p ≠ .lk) (haq : p ≠ .aq) (hfresh : p ≠ .fresh) (haqMem : p ≠ .aqMem) {x1 s t} (k : Kept p b s) (e : execShotWindowClose x1 s = .next t) :
    Kept p b t := by
  unfold execShotWindowClose at e
  injection e with e
  subst e
  have k1 := closeShot_kept hregs hmgmt hrx (x1 := x1) k
  split
  · rename_i h
    rw [h] at k1
    exact shotRange_kept hregs hmgmt hlk haq hfresh haqMem k1
  · rename_i h
    rwa [h] at k1

theorem aqAbort_kept (hregs : p ≠ .regs) (hmgmt : p ≠ .mgmt) (hlk : p ≠ .lk) (haq : p ≠ .aq) (haqMem : p ≠ .aqMem) {s} (k : Kept p b s) :
    Kept p b (aqAbort s) := by
  unfold aqAbort
  try dsimp only
  repeat' first | with_reducible assumption | (intro _; try dsimp only) | with_reducible apply closeSegment_kept hregs hmgmt hlk haq haqMem | with_reducible apply setAqState_kept hregs | with_reducible apply foldl_kept | with_reducible apply ite_kept | (fail_if_no_progress (with_reducible refine mk_kept ?_)) | split

theorem execCaptureAbort_kept (hregs : p ≠ .regs) (hmgmt : p ≠ .mgmt) (hlk : p ≠ .lk) (haq : p ≠ .aq) (haqMem : p ≠ .aqMem) {x1 s t} (k : Kept p b s) (e : execCaptureAbort x1 s = .next t) :
    Kept p b t := by
  unfold execCaptureAbort at e
  injection e with e
  subst e
  try dsimp only
  repeat' first | with_reducible assumption | (intro _; try dsimp only) | with_reducible apply hostWrite_kept hregs hmgmt | with_reducible apply aqAbort_kept hregs hmgmt hlk haq haqMem | with_reducible apply foldl_kept | with_reducible apply ite_kept | (fail_if_no_progress (with_reducible refine mk_kept ?_)) | split

theorem execClearCnt_kept (hregs : p ≠ .regs) (hmgmt : p ≠ .mgmt) {x1 s t} (k : Kept p b s) (e : execClearCnt x1 s = .next t) :
    Kept p b t := by
  unfold execClearCnt at e
  injection e with e
  subst e
  try dsimp only
  repeat' first | with_reducible assumption | (intro _; try dsimp only) | with_reducible apply hostWrite_kept hregs hmgmt | with_reducible apply aqClear_kept hregs | with_reducible apply foldl_kept | with_reducible apply ite_kept | (fail_if_no_progress (with_reducible refine mk_kept ?_)) | split

theorem applyAq_kept (hregs : p ≠ .regs) (hcut : p ≠ .cut) (hmgmt : p ≠ .mgmt) (hlk : p ≠ .lk) (haq : p ≠ .aq) (haqMem : p ≠ .aqMem) {x1 s} (k : Kept p b s) :
    Kept p b (applyAq x1 s) := by
  unfold applyAq
  dsimp only
  repeat' first | with_reducible assumption | with_reducible apply takeMasks_kept hregs hmgmt hlk haq haqMem | with_reducible apply addMarker_kept haq | with_reducible apply markApplied_kept hcut | (fail_if_no_progress (with_reducible refine mk_kept ?_)) | split

theorem execXlineEdge_kept (hregs : p ≠ .regs) (hmgmt : p ≠ .mgmt) (hlk : p ≠ .lk) (haq : p ≠ .aq) (hfresh : p ≠ .fresh) (haqMem : p ≠ .aqMem) {x1 x2 s t} (k : Kept p b s) (e : execXlineEdge x1 x2 s = .next t) :
    Kept p b t := by
  unfold execXlineEdge at e
  injection e with e
  subst e
  try dsimp only
  repeat' first | with_reducible assumption | (intro _; try dsimp only) | with_reducible apply triggerSource_kept hregs hmgmt hlk haq hfresh haqMem | with_reducible apply foldl_kept | with_reducible apply ite_kept | (fail_if_no_progress (with_reducible refine mk_kept ?_)) | split

theorem aqCommand_kept (hregs : p ≠ .regs) (hmgmt : p ≠ .mgmt) (hlk : p ≠ .lk) (haq : p ≠ .aq) (hfresh : p ≠ .fresh) (haqMem : p ≠ .aqMem) {x1 s} (k : Kept p b s) :
    Kept p b (aqCommand x1 s) := by
  unfold aqCommand
  try dsimp only
  repeat' first | with_reducible assumption | (intro _; try dsimp only) | with_reducible apply aqArm_kept hregs hmgmt haq haqMem | with_reducible apply aqAbort_kept hregs hmgmt hlk haq haqMem | with_reducible apply aqForce_kept hregs hmgmt hlk haq hfresh haqMem | with_reducible apply aqClear_kept hregs | with_reducible apply flag_kept hregs hmgmt | with_reducible apply foldl_kept | with_reducible apply ite_kept | (fail_if_no_progress (with_reducible refine mk_kept ?_)) | split

theorem edgeGap_kept (hregs : p ≠ .regs) (hmgmt : p ≠ .mgmt) (hlk : p ≠ .lk) (haq : p ≠ .aq) (hfresh : p ≠ .fresh) (haqMem : p ≠ .aqMem) {x1 s} (k : Kept p b s) :
    Kept p b (edgeGap x1 s) := by
  unfold edgeGap
  try dsimp only
  repeat' first | with_reducible assumption | (intro _; try dsimp only) | with_reducible apply setMaskRun_kept haq | with_reducible apply maskValue_kept hregs hmgmt hlk haq hfresh haqMem | with_reducible apply foldl_kept | with_reducible apply ite_kept | (fail_if_no_progress (with_reducible refine mk_kept ?_)) | split

theorem takeItem_kept (haq : p ≠ .aq) {x1 s} (k : Kept p b s) :
    Kept p b (takeItem x1 s) := by
  unfold takeItem
  try dsimp only
  repeat' first | with_reducible assumption | (intro _; try dsimp only) | with_reducible apply foldl_kept | with_reducible apply ite_kept | (fail_if_no_progress (with_reducible refine mk_kept ?_)) | split

theorem execEventRelease_kept (hregs : p ≠ .regs) (hcut : p ≠ .cut) (hmgmt : p ≠ .mgmt) (hlk : p ≠ .lk) (haq : p ≠ .aq) (hfresh : p ≠ .fresh) (haqMem : p ≠ .aqMem) {s t} (k : Kept p b s) (e : execEventRelease s = .next t) :
    Kept p b t := by
  unfold execEventRelease at e
  injection e with e
  subst e
  try dsimp only
  repeat' first | with_reducible assumption | (intro _; try dsimp only) | with_reducible apply takeItem_kept haq | with_reducible apply storeItem_kept hregs hmgmt hlk haq hfresh haqMem | with_reducible apply applyAq_kept hregs hcut hmgmt hlk haq haqMem | with_reducible apply edgeGap_kept hregs hmgmt hlk haq hfresh haqMem | with_reducible apply flushMarkers_kept hregs hmgmt hlk haq hfresh haqMem | with_reducible apply edgeSources_kept hregs hmgmt hlk haq hfresh haqMem | with_reducible apply foldl_kept | with_reducible apply ite_kept | (fail_if_no_progress (with_reducible refine mk_kept ?_)) | split

theorem execAqBadCommand_kept (hregs : p ≠ .regs) (hmgmt : p ≠ .mgmt) (hlk : p ≠ .lk) (haq : p ≠ .aq) (hfresh : p ≠ .fresh) (haqMem : p ≠ .aqMem) {x1 x2 s t} (k : Kept p b s) (e : execAqBadCommand x1 x2 s = .next t) :
    Kept p b t := by
  unfold execAqBadCommand at e
  injection e with e
  subst e
  try dsimp only
  repeat' first | with_reducible assumption | (intro _; try dsimp only) | with_reducible apply hostWrite_kept hregs hmgmt | with_reducible apply aqCommand_kept hregs hmgmt hlk haq hfresh haqMem | with_reducible apply foldl_kept | with_reducible apply ite_kept | (fail_if_no_progress (with_reducible refine mk_kept ?_)) | split

theorem execCaptureWindowRead_kept (hregs : p ≠ .regs) (hmgmt : p ≠ .mgmt) (hfresh : p ≠ .fresh) {x1 x2 x3 s t} (k : Kept p b s) (e : execCaptureWindowRead x1 x2 x3 s = .next t) :
    Kept p b t := by
  unfold execCaptureWindowRead at e
  injection e with e
  subst e
  try dsimp only
  repeat' first | with_reducible assumption | (intro _; try dsimp only) | with_reducible apply captRead_kept hregs hmgmt hfresh | with_reducible apply foldl_kept | with_reducible apply ite_kept | (fail_if_no_progress (with_reducible refine mk_kept ?_)) | split

theorem histMask_kept (hregs : p ≠ .regs) (hmgmt : p ≠ .mgmt) (hlk : p ≠ .lk) (haq : p ≠ .aq) (hfresh : p ≠ .fresh) (haqMem : p ≠ .aqMem) {x1 x2 x3 x4 s} (k : Kept p b s) :
    Kept p b (histMask x1 x2 x3 x4 s) := by
  unfold histMask
  try dsimp only
  repeat' first | with_reducible assumption | (intro _; try dsimp only) | with_reducible apply maskTest_kept hregs hmgmt hlk haq hfresh haqMem | with_reducible apply foldl_kept | with_reducible apply ite_kept | (fail_if_no_progress (with_reducible refine mk_kept ?_)) | split

theorem execSegmentOpen_kept (hregs : p ≠ .regs) (haq : p ≠ .aq) {s t} (k : Kept p b s) (e : execSegmentOpen s = .next t) :
    Kept p b t := by
  unfold execSegmentOpen at e
  injection e with e
  subst e
  try dsimp only
  repeat' first | with_reducible assumption | (intro _; try dsimp only) | with_reducible apply openSegment_kept hregs haq | with_reducible apply foldl_kept | with_reducible apply ite_kept | (fail_if_no_progress (with_reducible refine mk_kept ?_)) | split

end Sys2Proof.Machine
end

