-- ==== Sys2Proof/Laws/KeptPixels.lean ====
section
/-! SUPPORT. What each operation and command of extraction, shots and calibration leaves alone (see Sys2Proof/Laws/Kept.lean). -/
namespace Sys2Proof.Machine

set_option Elab.async false
set_option linter.unusedTactic false
set_option linter.unreachableTactic false

variable {p : Part} {b : State}

theorem readFatal_kept (hregs : p ≠ .regs) (hmgmt : p ≠ .mgmt) (hrx : p ≠ .rx) (hfresh : p ≠ .fresh) {x1 x2 x3 s} (k : Kept p b s) :
    Kept p b (readFatal x1 x2 x3 s) := by
  unfold readFatal
  try dsimp only
  repeat' first | with_reducible assumption | (intro _; try dsimp only) | with_reducible apply sliceFatal_kept hregs hmgmt hrx hfresh | with_reducible apply drawFree_kept hfresh | with_reducible apply foldl_kept | with_reducible apply ite_kept | (fail_if_no_progress (with_reducible refine mk_kept ?_)) | split

theorem sendRecords_kept (hregs : p ≠ .regs) (hmgmt : p ≠ .mgmt) (hrx : p ≠ .rx) (hlk : p ≠ .lk) {x1 x2 x3 x4 x5 x6 x7 x8 s} (k : Kept p b s) :
    Kept p b (sendRecords x1 x2 x3 x4 x5 x6 x7 x8 s) := by
  unfold sendRecords
  try dsimp only
  repeat' first | with_reducible assumption | (intro _; try dsimp only) | with_reducible apply offerUnit_kept hregs hmgmt hrx hlk | with_reducible apply foldl_kept | with_reducible apply ite_kept | (fail_if_no_progress (with_reducible refine mk_kept ?_)) | split

theorem sendHists_kept (hregs : p ≠ .regs) (hmgmt : p ≠ .mgmt) (hrx : p ≠ .rx) (hlk : p ≠ .lk) {x1 x2 x3 x4 x5 x6 s} (k : Kept p b s) :
    Kept p b (sendHists x1 x2 x3 x4 x5 x6 s) := by
  unfold sendHists
  try dsimp only
  repeat' first | with_reducible assumption | (intro _; try dsimp only) | with_reducible apply offerUnit_kept hregs hmgmt hrx hlk | with_reducible apply foldl_kept | with_reducible apply ite_kept | (fail_if_no_progress (with_reducible refine mk_kept ?_)) | split

theorem countPixel_kept (hregs : p ≠ .regs) (hmgmt : p ≠ .mgmt) {x1 x2 x3 s} (k : Kept p b s) :
    Kept p b (countPixel x1 x2 x3 s) := by
  unfold countPixel
  try dsimp only
  repeat' first | with_reducible assumption | (intro _; try dsimp only) | with_reducible apply bumpOvf_kept hregs hmgmt | with_reducible apply flagIf_kept hregs hmgmt | with_reducible apply foldl_kept | with_reducible apply ite_kept | (fail_if_no_progress (with_reducible refine mk_kept ?_)) | split

theorem gateEvidence_kept (hrx : p ≠ .rx) {x1 x2 x3 x4 x5 x6 s} (k : Kept p b s) :
    Kept p b (gateEvidence x1 x2 x3 x4 x5 x6 s) := by
  unfold gateEvidence
  try dsimp only
  repeat' first | with_reducible assumption | (intro _; try dsimp only) | with_reducible apply addEvidence_kept hrx | with_reducible apply foldl_kept | with_reducible apply ite_kept | (fail_if_no_progress (with_reducible refine mk_kept ?_)) | split

theorem tallyPixel_kept (hpairSt : p ≠ .pairSt) {x1 x2 x3 s} (k : Kept p b s) :
    Kept p b (tallyPixel x1 x2 x3 s) := by
  unfold tallyPixel
  try dsimp only
  repeat' first | with_reducible assumption | (intro _; try dsimp only) | with_reducible apply foldl_kept | with_reducible apply ite_kept | (fail_if_no_progress (with_reducible refine mk_kept ?_)) | split

theorem extract_kept (hregs : p ≠ .regs) (hmgmt : p ≠ .mgmt) (hrx : p ≠ .rx) (hlk : p ≠ .lk) (haq : p ≠ .aq) (hpairSt : p ≠ .pairSt) (hfresh : p ≠ .fresh) (haqMem : p ≠ .aqMem) {x1 x2 x3 x4 s} (k : Kept p b s) :
    Kept p b (extract x1 x2 x3 x4 s) := by
  unfold extract
  try dsimp only
  repeat' first | with_reducible assumption | (intro _; try dsimp only) | with_reducible apply sendRecords_kept hregs hmgmt hrx hlk | with_reducible apply sendHists_kept hregs hmgmt hrx hlk | with_reducible apply countPixel_kept hregs hmgmt | with_reducible apply histMask_kept hregs hmgmt hlk haq hfresh haqMem | with_reducible apply gateEvidence_kept hrx | with_reducible apply tallyPixel_kept hpairSt | with_reducible apply foldl_kept | with_reducible apply ite_kept | (fail_if_no_progress (with_reducible refine mk_kept ?_)) | split

theorem execCellExtract_kept (hregs : p ≠ .regs) (hmgmt : p ≠ .mgmt) (hstartup : p ≠ .startup) (hrx : p ≠ .rx) (hlk : p ≠ .lk) (haq : p ≠ .aq) (hpairSt : p ≠ .pairSt) (hfresh : p ≠ .fresh) (haqMem : p ≠ .aqMem) {x1 x2 x3 s t} (k : Kept p b s) (e : execCellExtract x1 x2 x3 s = .next t) :
    Kept p b t := by
  unfold execCellExtract at e
  injection e with e
  subst e
  try dsimp only
  repeat' first | with_reducible assumption | (intro _; try dsimp only) | with_reducible apply isolateBlock_kept hstartup | with_reducible apply setBlk_kept hrx | with_reducible apply readFatal_kept hregs hmgmt hrx hfresh | with_reducible apply flagIf_kept hregs hmgmt | with_reducible apply extract_kept hregs hmgmt hrx hlk haq hpairSt hfresh haqMem | with_reducible apply foldl_kept | with_reducible apply ite_kept | (fail_if_no_progress (with_reducible refine mk_kept ?_)) | split

theorem restorePort_kept (hregs : p ≠ .regs) (htx : p ≠ .tx) {x1 s} (k : Kept p b s) :
    Kept p b (restorePort x1 s) := by
  unfold restorePort
  try dsimp only
  repeat' first | with_reducible assumption | (intro _; try dsimp only) | with_reducible apply fset_kept hregs | with_reducible apply setPort_kept htx | with_reducible apply foldl_kept | with_reducible apply ite_kept | (fail_if_no_progress (with_reducible refine mk_kept ?_)) | split

theorem restorePorts_kept (hregs : p ≠ .regs) (htx : p ≠ .tx) {x1 s} (k : Kept p b s) :
    Kept p b (restorePorts x1 s) := by
  unfold restorePorts
  try dsimp only
  repeat' first | with_reducible assumption | (intro _; try dsimp only) | with_reducible apply restorePort_kept hregs htx | with_reducible apply forUp_kept | with_reducible apply foldl_kept | with_reducible apply ite_kept | (fail_if_no_progress (with_reducible refine mk_kept ?_)) | split

theorem hopWrite_kept (hregs : p ≠ .regs) (htime : p ≠ .time) (hmgmt : p ≠ .mgmt) (htx : p ≠ .tx) {x1 s} (k : Kept p b s) :
    Kept p b (hopWrite x1 s) := by
  unfold hopWrite
  try dsimp only
  repeat' first | with_reducible assumption | (intro _; try dsimp only) | with_reducible apply flag_kept hregs hmgmt | with_reducible apply setReg_kept hregs | with_reducible apply accept_kept htime | with_reducible apply foldl_kept | with_reducible apply ite_kept | (fail_if_no_progress (with_reducible refine mk_kept ?_)) | split

theorem portRearm_kept (hregs : p ≠ .regs) (htx : p ≠ .tx) {x1 s} (k : Kept p b s) :
    Kept p b (portRearm x1 s) := by
  unfold portRearm
  try dsimp only
  repeat' first | with_reducible assumption | (intro _; try dsimp only) | with_reducible apply setPort_kept htx | with_reducible apply restorePort_kept hregs htx | with_reducible apply foldl_kept | with_reducible apply ite_kept | (fail_if_no_progress (with_reducible refine mk_kept ?_)) | split

theorem deadSlots_kept (hrx : p ≠ .rx) {x1 s} (k : Kept p b s) :
    Kept p b (deadSlots x1 s) := by
  unfold deadSlots
  try dsimp only
  repeat' first | with_reducible assumption | (intro _; try dsimp only) | with_reducible apply setBlk_kept hrx | with_reducible apply forUp_kept | with_reducible apply foldl_kept | with_reducible apply ite_kept | (fail_if_no_progress (with_reducible refine mk_kept ?_)) | split

theorem loadPort_kept (htx : p ≠ .tx) {x1 x2 x3 x4 x5 s} (k : Kept p b s) :
    Kept p b (loadPort x1 x2 x3 x4 x5 s) := by
  unfold loadPort
  try dsimp only
  repeat' first | with_reducible assumption | (intro _; try dsimp only) | with_reducible apply setPort_kept htx | with_reducible apply foldl_kept | with_reducible apply ite_kept | (fail_if_no_progress (with_reducible refine mk_kept ?_)) | split

theorem cutBlock_kept (hregs : p ≠ .regs) (hmgmt : p ≠ .mgmt) (hrx : p ≠ .rx) {x1 x2 x3 x4 x5 x6 s} (k : Kept p b s) :
    Kept p b (cutBlock x1 x2 x3 x4 x5 x6 s) := by
  unfold cutBlock
  try dsimp only
  repeat' first | with_reducible assumption | (intro _; try dsimp only) | with_reducible apply setBlk_kept hrx | with_reducible apply bump_kept hregs | with_reducible apply flag_kept hregs hmgmt | with_reducible apply foldl_kept | with_reducible apply ite_kept | (fail_if_no_progress (with_reducible refine mk_kept ?_)) | split

theorem dropRearms_kept (hstartup : p ≠ .startup) (htx : p ≠ .tx) {x1 s} (k : Kept p b s) :
    Kept p b (dropRearms x1 s) := by
  unfold dropRearms
  try dsimp only
  repeat' first | with_reducible assumption | (intro _; try dsimp only) | with_reducible apply dropWrite_kept hstartup | with_reducible apply setPort_kept htx | with_reducible apply forUp_kept | with_reducible apply foldl_kept | with_reducible apply ite_kept | (fail_if_no_progress (with_reducible refine mk_kept ?_)) | split

theorem startPixel_kept (htime : p ≠ .time) (hcut : p ≠ .cut) (hstartup : p ≠ .startup) (htx : p ≠ .tx) {x1 s} (k : Kept p b s) :
    Kept p b (startPixel x1 s) := by
  unfold startPixel
  try dsimp only
  repeat' first | with_reducible assumption | (intro _; try dsimp only) | with_reducible apply stampChanges_kept htime | with_reducible apply dropRearms_kept hstartup htx | with_reducible apply markApplied_kept hcut | with_reducible apply setSeq_kept htx | with_reducible apply foldl_kept | with_reducible apply ite_kept | (fail_if_no_progress (with_reducible refine mk_kept ?_)) | split

theorem endSeq_kept (hregs : p ≠ .regs) (htx : p ≠ .tx) {x1 s} (k : Kept p b s) :
    Kept p b (endSeq x1 s) := by
  unfold endSeq
  try dsimp only
  repeat' first | with_reducible assumption | (intro _; try dsimp only) | with_reducible apply setSeq_kept htx | with_reducible apply fsets_kept hregs | with_reducible apply foldl_kept | with_reducible apply ite_kept | (fail_if_no_progress (with_reducible refine mk_kept ?_)) | split

theorem useChecks_kept (hregs : p ≠ .regs) (hmgmt : p ≠ .mgmt) (htx : p ≠ .tx) {x1 x2 x3 x4 x5 s} (k : Kept p b s) :
    Kept p b (useChecks x1 x2 x3 x4 x5 s) := by
  unfold useChecks
  try dsimp only
  repeat' first | with_reducible assumption | (intro _; try dsimp only) | with_reducible apply flag_kept hregs hmgmt | with_reducible apply foldl_kept | with_reducible apply ite_kept | (fail_if_no_progress (with_reducible refine mk_kept ?_)) | split

theorem placeSlot_kept (hregs : p ≠ .regs) (htime : p ≠ .time) (hcut : p ≠ .cut) (hmgmt : p ≠ .mgmt) (hstartup : p ≠ .startup) (hrx : p ≠ .rx) (htx : p ≠ .tx) {x1 s} (k : Kept p b s) :
    Kept p b (placeSlot x1 s) := by
  unfold placeSlot
  try dsimp only
  repeat' first | with_reducible assumption | (intro _; try dsimp only) | with_reducible apply startPixel_kept htime hcut hstartup htx | with_reducible apply endSeq_kept hregs htx | with_reducible apply restorePorts_kept hregs htx | with_reducible apply useChecks_kept hregs hmgmt htx | with_reducible apply setBlk_kept hrx | with_reducible apply flag_kept hregs hmgmt | with_reducible apply loadPort_kept htx | with_reducible apply setSeq_kept htx | with_reducible apply foldl_kept | with_reducible apply ite_kept | (fail_if_no_progress (with_reducible refine mk_kept ?_)) | split

theorem placeRest_kept (hregs : p ≠ .regs) (htime : p ≠ .time) (hcut : p ≠ .cut) (hmgmt : p ≠ .mgmt) (hstartup : p ≠ .startup) (hrx : p ≠ .rx) (htx : p ≠ .tx) {x1 x2 x3 x4 s} (k : Kept p b s) :
    Kept p b (placeRest x1 x2 x3 x4 s) := by
  induction x4 generalizing s with
  | zero => exact k
  | succ n ih =>
    unfold placeRest
    dsimp only
    split
    · exact k
    · exact ih (placeSlot_kept hregs htime hcut hmgmt hstartup hrx htx k)

theorem cutSeq_kept (hregs : p ≠ .regs) (htime : p ≠ .time) (hcut : p ≠ .cut) (hmgmt : p ≠ .mgmt) (hstartup : p ≠ .startup) (hrx : p ≠ .rx) (htx : p ≠ .tx) {x1 x2 x3 s} (k : Kept p b s) :
    Kept p b (cutSeq x1 x2 x3 s) := by
  unfold cutSeq
  try dsimp only
  repeat' first | with_reducible assumption | (intro _; try dsimp only) | with_reducible apply placeRest_kept hregs htime hcut hmgmt hstartup hrx htx | with_reducible apply cutBlock_kept hregs hmgmt hrx | with_reducible apply setSeq_kept htx | with_reducible apply foldl_kept | with_reducible apply ite_kept | (fail_if_no_progress (with_reducible refine mk_kept ?_)) | split

theorem maskPort_kept (hregs : p ≠ .regs) (hmgmt : p ≠ .mgmt) (hrx : p ≠ .rx) (htx : p ≠ .tx) {x1 x2 s} (k : Kept p b s) :
    Kept p b (maskPort x1 x2 s) := by
  unfold maskPort
  try dsimp only
  repeat' first | with_reducible assumption | (intro _; try dsimp only) | with_reducible apply deadSlots_kept hrx | with_reducible apply fset_kept hregs | with_reducible apply flag_kept hregs hmgmt | with_reducible apply setPort_kept htx | with_reducible apply foldl_kept | with_reducible apply ite_kept | (fail_if_no_progress (with_reducible refine mk_kept ?_)) | split

theorem startSeq_kept (htx : p ≠ .tx) {x1 x2 x3 x4 s} (k : Kept p b s) :
    Kept p b (startSeq x1 x2 x3 x4 s) := by
  unfold startSeq
  try dsimp only
  repeat' first | with_reducible assumption | (intro _; try dsimp only) | with_reducible apply setSeq_kept htx | with_reducible apply foldl_kept | with_reducible apply ite_kept | (fail_if_no_progress (with_reducible refine mk_kept ?_)) | split

theorem startShooting_kept (hregs : p ≠ .regs) (htx : p ≠ .tx) {s} (k : Kept p b s) :
    Kept p b (startShooting s) := by
  unfold startShooting
  try dsimp only
  repeat' first | with_reducible assumption | (intro _; try dsimp only) | with_reducible apply fset_kept hregs | with_reducible apply foldl_kept | with_reducible apply ite_kept | (fail_if_no_progress (with_reducible refine mk_kept ?_)) | split

theorem firePort_kept (hregs : p ≠ .regs) (hmgmt : p ≠ .mgmt) (htx : p ≠ .tx) {x1 s} (k : Kept p b s) :
    Kept p b (firePort x1 s) := by
  unfold firePort
  try dsimp only
  repeat' first | with_reducible assumption | (intro _; try dsimp only) | with_reducible apply setPort_kept htx | with_reducible apply setReg64_kept hregs | with_reducible apply flagIf_kept hregs hmgmt | with_reducible apply foldl_kept | with_reducible apply ite_kept | (fail_if_no_progress (with_reducible refine mk_kept ?_)) | split

theorem execPortRearm_kept (hregs : p ≠ .regs) (hmgmt : p ≠ .mgmt) (htx : p ≠ .tx) {x1 x2 s t} (k : Kept p b s) (e : execPortRearm x1 x2 s = .next t) :
    Kept p b t := by
  unfold execPortRearm at e
  injection e with e
  subst e
  try dsimp only
  repeat' first | with_reducible assumption | (intro _; try dsimp only) | with_reducible apply hostWrite_kept hregs hmgmt | with_reducible apply portRearm_kept hregs htx | with_reducible apply foldl_kept | with_reducible apply ite_kept | (fail_if_no_progress (with_reducible refine mk_kept ?_)) | split

theorem hopBoundary_kept (hregs : p ≠ .regs) (htx : p ≠ .tx) {x1 x2 x3 s} (k : Kept p b s) :
    Kept p b (hopBoundary x1 x2 x3 s) := by
  unfold hopBoundary
  try dsimp only
  repeat' first | with_reducible assumption | (intro _; try dsimp only) | with_reducible apply setReg_kept hregs | with_reducible apply setSeq_kept htx | with_reducible apply forUp_kept | with_reducible apply foldl_kept | with_reducible apply ite_kept | (fail_if_no_progress (with_reducible refine mk_kept ?_)) | split

theorem tailB2_kept (hrx : p ≠ .rx) {x1 x2 x3 s} (k : Kept p b s) :
    Kept p b (tailB2 x1 x2 x3 s) := by
  unfold tailB2
  try dsimp only
  repeat' first | with_reducible assumption | (intro _; try dsimp only) | with_reducible apply setBlk_kept hrx | with_reducible apply foldl_kept | with_reducible apply ite_kept | (fail_if_no_progress (with_reducible refine mk_kept ?_)) | split

theorem noteHop_kept (htime : p ≠ .time) {x1 x2 x3 s} (k : Kept p b s) :
    Kept p b (noteHop x1 x2 x3 s) := by
  unfold noteHop
  try dsimp only
  repeat' first | with_reducible assumption | (intro _; try dsimp only) | with_reducible apply noteChange_kept htime | with_reducible apply foldl_kept | with_reducible apply ite_kept | (fail_if_no_progress (with_reducible refine mk_kept ?_)) | split

theorem frameShots_kept (hregs : p ≠ .regs) (htime : p ≠ .time) (hcut : p ≠ .cut) (hmgmt : p ≠ .mgmt) (hstartup : p ≠ .startup) (hrx : p ≠ .rx) (htx : p ≠ .tx) (hpairSt : p ≠ .pairSt) {x1 x2 x3 x4 s} (k : Kept p b s) :
    Kept p b (frameShots x1 x2 x3 x4 s) := by
  unfold frameShots
  try dsimp only
  repeat' first | with_reducible assumption | (intro _; try dsimp only) | with_reducible apply hopBoundary_kept hregs htx | with_reducible apply cutSeq_kept hregs htime hcut hmgmt hstartup hrx htx | with_reducible apply noteHop_kept htime | with_reducible apply tailB2_kept hrx | with_reducible apply startSeq_kept htx | with_reducible apply fsets_kept hregs | with_reducible apply forUp_kept | with_reducible apply foldl_kept | with_reducible apply ite_kept | (fail_if_no_progress (with_reducible refine mk_kept ?_)) | split

theorem judgeCharge_kept (hregs : p ≠ .regs) (hmgmt : p ≠ .mgmt) (hrx : p ≠ .rx) (htx : p ≠ .tx) {x1 x2 s} (k : Kept p b s) :
    Kept p b (judgeCharge x1 x2 s) := by
  unfold judgeCharge
  try dsimp only
  repeat' first | with_reducible assumption | (intro _; try dsimp only) | with_reducible apply setPort_kept htx | with_reducible apply maskPort_kept hregs hmgmt hrx htx | with_reducible apply foldl_kept | with_reducible apply ite_kept | (fail_if_no_progress (with_reducible refine mk_kept ?_)) | split

theorem execMonitorCharge_kept (hregs : p ≠ .regs) (hmgmt : p ≠ .mgmt) (hrx : p ≠ .rx) (htx : p ≠ .tx) {x1 x2 x3 s t} (k : Kept p b s) (e : execMonitorCharge x1 x2 x3 s = .next t) :
    Kept p b t := by
  unfold execMonitorCharge at e
  injection e with e
  subst e
  try dsimp only
  repeat' first | with_reducible assumption | (intro _; try dsimp only) | with_reducible apply fset_kept hregs | with_reducible apply setPort_kept htx | with_reducible apply judgeCharge_kept hregs hmgmt hrx htx | with_reducible apply foldl_kept | with_reducible apply ite_kept | (fail_if_no_progress (with_reducible refine mk_kept ?_)) | split

theorem execHopFrameWrite_kept (hregs : p ≠ .regs) (htime : p ≠ .time) (hmgmt : p ≠ .mgmt) (htx : p ≠ .tx) {x1 x2 s t} (k : Kept p b s) (e : execHopFrameWrite x1 x2 s = .next t) :
    Kept p b t := by
  unfold execHopFrameWrite at e
  injection e with e
  subst e
  try dsimp only
  repeat' first | with_reducible assumption | (intro _; try dsimp only) | with_reducible apply hostWrite_kept hregs hmgmt | with_reducible apply hopWrite_kept hregs htime hmgmt htx | with_reducible apply foldl_kept | with_reducible apply ite_kept | (fail_if_no_progress (with_reducible refine mk_kept ?_)) | split

theorem showSeq_kept (hregs : p ≠ .regs) (hmgmt : p ≠ .mgmt) {x1 x2 s} (k : Kept p b s) :
    Kept p b (showSeq x1 x2 s) := by
  unfold showSeq
  try dsimp only
  repeat' first | with_reducible assumption | (intro _; try dsimp only) | with_reducible apply fsets_kept hregs | with_reducible apply flagIf_kept hregs hmgmt | with_reducible apply foldl_kept | with_reducible apply ite_kept | (fail_if_no_progress (with_reducible refine mk_kept ?_)) | split

theorem noteSeed_kept (htx : p ≠ .tx) {x1 x2 s} (k : Kept p b s) :
    Kept p b (noteSeed x1 x2 s) := by
  unfold noteSeed
  try dsimp only
  repeat' first | with_reducible assumption | (intro _; try dsimp only) | with_reducible apply foldl_kept | with_reducible apply ite_kept | (fail_if_no_progress (with_reducible refine mk_kept ?_)) | split

theorem execFire_kept (hregs : p ≠ .regs) (hmgmt : p ≠ .mgmt) (htx : p ≠ .tx) {x1 s t} (k : Kept p b s) (e : execFire x1 s = .next t) :
    Kept p b t := by
  unfold execFire at e
  injection e with e
  subst e
  try dsimp only
  repeat' first | with_reducible assumption | (intro _; try dsimp only) | with_reducible apply firePort_kept hregs hmgmt htx | with_reducible apply foldl_kept | with_reducible apply ite_kept | (fail_if_no_progress (with_reducible refine mk_kept ?_)) | split

theorem execSlotPlace_kept (hregs : p ≠ .regs) (htime : p ≠ .time) (hcut : p ≠ .cut) (hmgmt : p ≠ .mgmt) (hstartup : p ≠ .startup) (hrx : p ≠ .rx) (htx : p ≠ .tx) {x1 s t} (k : Kept p b s) (e : execSlotPlace x1 s = .next t) :
    Kept p b t := by
  unfold execSlotPlace at e
  injection e with e
  subst e
  try dsimp only
  repeat' first | with_reducible assumption | (intro _; try dsimp only) | with_reducible apply placeSlot_kept hregs htime hcut hmgmt hstartup hrx htx | with_reducible apply foldl_kept | with_reducible apply ite_kept | (fail_if_no_progress (with_reducible refine mk_kept ?_)) | split

theorem winRead_kept (hregs : p ≠ .regs) (hmgmt : p ≠ .mgmt) {s} (k : Kept p b s) :
    Kept p b (winRead s) := by
  unfold winRead
  try dsimp only
  repeat' first | with_reducible assumption | (intro _; try dsimp only) | with_reducible apply setReg_kept hregs | with_reducible apply flag_kept hregs hmgmt | with_reducible apply setRegs_kept hregs | with_reducible apply foldl_kept | with_reducible apply ite_kept | (fail_if_no_progress (with_reducible refine mk_kept ?_)) | split

theorem execWinRead_kept (hregs : p ≠ .regs) (hmgmt : p ≠ .mgmt) {x1 s t} (k : Kept p b s) (e : execWinRead x1 s = .next t) :
    Kept p b t := by
  unfold execWinRead at e
  injection e with e
  subst e
  try dsimp only
  repeat' first | with_reducible assumption | (intro _; try dsimp only) | with_reducible apply hostWrite_kept hregs hmgmt | with_reducible apply winRead_kept hregs hmgmt | with_reducible apply foldl_kept | with_reducible apply ite_kept | (fail_if_no_progress (with_reducible refine mk_kept ?_)) | split

theorem fgAdvance_kept (hregs : p ≠ .regs) (hcal : p ≠ .cal) (hrx : p ≠ .rx) {x1 x2 s} (k : Kept p b s) :
    Kept p b (fgAdvance x1 x2 s) := by
  induction x2 generalizing s with
  | zero => exact k
  | succ n ih =>
    unfold fgAdvance
    dsimp only
    repeat' first | with_reducible assumption | with_reducible apply ih | with_reducible apply setBlk_kept hrx | with_reducible apply fset_kept hregs | with_reducible apply fgBegin_kept hregs hcal hrx | with_reducible apply fgSkip_kept hregs | (fail_if_no_progress (with_reducible refine mk_kept ?_)) | split

theorem fgStart_kept (hregs : p ≠ .regs) (hmgmt : p ≠ .mgmt) (hcal : p ≠ .cal) (hrx : p ≠ .rx) {s} (k : Kept p b s) :
    Kept p b (fgStart s) := by
  unfold fgStart
  try dsimp only
  repeat' first | with_reducible assumption | (intro _; try dsimp only) | with_reducible apply fsets_kept hregs | with_reducible apply fgAdvance_kept hregs hcal hrx | with_reducible apply flag_kept hregs hmgmt | with_reducible apply foldl_kept | with_reducible apply ite_kept | (fail_if_no_progress (with_reducible refine mk_kept ?_)) | split

theorem fgDrop_kept (hrx : p ≠ .rx) {x1 s} (k : Kept p b s) :
    Kept p b (fgDrop x1 s) := by
  unfold fgDrop
  try dsimp only
  repeat' first | with_reducible assumption | (intro _; try dsimp only) | with_reducible apply setBlk_kept hrx | with_reducible apply foldl_kept | with_reducible apply ite_kept | (fail_if_no_progress (with_reducible refine mk_kept ?_)) | split

theorem fgAbort_kept (hregs : p ≠ .regs) (hcal : p ≠ .cal) (hrx : p ≠ .rx) {s} (k : Kept p b s) :
    Kept p b (fgAbort s) := by
  unfold fgAbort
  try dsimp only
  repeat' first | with_reducible assumption | (intro _; try dsimp only) | with_reducible apply fgDrop_kept hrx | with_reducible apply fset_kept hregs | with_reducible apply forUp_kept | with_reducible apply foldl_kept | with_reducible apply ite_kept | (fail_if_no_progress (with_reducible refine mk_kept ?_)) | split

theorem calCommand_kept (hregs : p ≠ .regs) (hmgmt : p ≠ .mgmt) (hcal : p ≠ .cal) (hrx : p ≠ .rx) {x1 s} (k : Kept p b s) :
    Kept p b (calCommand x1 s) := by
  unfold calCommand
  try dsimp only
  repeat' first | with_reducible assumption | (intro _; try dsimp only) | with_reducible apply fgStart_kept hregs hmgmt hcal hrx | with_reducible apply fgAbort_kept hregs hcal hrx | with_reducible apply winRead_kept hregs hmgmt | with_reducible apply flag_kept hregs hmgmt | with_reducible apply foldl_kept | with_reducible apply ite_kept | (fail_if_no_progress (with_reducible refine mk_kept ?_)) | split

theorem fgGone_kept (hregs : p ≠ .regs) (hcal : p ≠ .cal) (hrx : p ≠ .rx) {x1 x2 s} (k : Kept p b s) :
    Kept p b (fgGone x1 x2 s) := by
  unfold fgGone
  try dsimp only
  repeat' first | with_reducible assumption | (intro _; try dsimp only) | with_reducible apply fgAdvance_kept hregs hcal hrx | with_reducible apply foldl_kept | with_reducible apply ite_kept | (fail_if_no_progress (with_reducible refine mk_kept ?_)) | split

theorem cellResult_kept (hregs : p ≠ .regs) (hrx : p ≠ .rx) {x1 x2 x3 s} (k : Kept p b s) :
    Kept p b (cellResult x1 x2 x3 s) := by
  unfold cellResult
  try dsimp only
  repeat' first | with_reducible assumption | (intro _; try dsimp only) | with_reducible apply setCell_kept hrx | with_reducible apply fsets_kept hregs | with_reducible apply maskCell_kept hregs | with_reducible apply fset_kept hregs | with_reducible apply foldl_kept | with_reducible apply ite_kept | (fail_if_no_progress (with_reducible refine mk_kept ?_)) | split

theorem shiftCell_kept (hcal : p ≠ .cal) {x1 x2 x3 s} (k : Kept p b s) :
    Kept p b (shiftCell x1 x2 x3 s) := by
  unfold shiftCell
  try dsimp only
  repeat' first | with_reducible assumption | (intro _; try dsimp only) | with_reducible apply bringIn_kept hcal | with_reducible apply foldl_kept | with_reducible apply ite_kept | (fail_if_no_progress (with_reducible refine mk_kept ?_)) | split

theorem execForegroundRunEnd_kept (hregs : p ≠ .regs) (hcal : p ≠ .cal) (hrx : p ≠ .rx) {x1 x2 x3 s t} (k : Kept p b s) (e : execForegroundRunEnd x1 x2 x3 s = .next t) :
    Kept p b t := by
  unfold execForegroundRunEnd at e
  injection e with e
  subst e
  try dsimp only
  repeat' first | with_reducible assumption | (intro _; try dsimp only) | with_reducible apply cellResult_kept hregs hrx | with_reducible apply shiftCell_kept hcal | with_reducible apply bump_kept hregs | with_reducible apply bringDrift_kept hcal | with_reducible apply setBlk_kept hrx | with_reducible apply fgAdvance_kept hregs hcal hrx | with_reducible apply forUp_kept | with_reducible apply foldl_kept | with_reducible apply ite_kept | (fail_if_no_progress (with_reducible refine mk_kept ?_)) | split

theorem execCalBadCommand_kept (hregs : p ≠ .regs) (hmgmt : p ≠ .mgmt) (hcal : p ≠ .cal) (hrx : p ≠ .rx) {x1 x2 s t} (k : Kept p b s) (e : execCalBadCommand x1 x2 s = .next t) :
    Kept p b t := by
  unfold execCalBadCommand at e
  injection e with e
  subst e
  try dsimp only
  repeat' first | with_reducible assumption | (intro _; try dsimp only) | with_reducible apply hostWrite_kept hregs hmgmt | with_reducible apply calCommand_kept hregs hmgmt hcal hrx | with_reducible apply foldl_kept | with_reducible apply ite_kept | (fail_if_no_progress (with_reducible refine mk_kept ?_)) | split

theorem execFgStart_kept (hregs : p ≠ .regs) (hmgmt : p ≠ .mgmt) (hcal : p ≠ .cal) (hrx : p ≠ .rx) {x1 s t} (k : Kept p b s) (e : execFgStart x1 s = .next t) :
    Kept p b t := by
  unfold execFgStart at e
  injection e with e
  subst e
  try dsimp only
  repeat' first | with_reducible assumption | (intro _; try dsimp only) | with_reducible apply hostWrite_kept hregs hmgmt | with_reducible apply fgStart_kept hregs hmgmt hcal hrx | with_reducible apply foldl_kept | with_reducible apply ite_kept | (fail_if_no_progress (with_reducible refine mk_kept ?_)) | split

theorem execLoadRefresh_kept (hcal : p ≠ .cal) {x1 s t} (k : Kept p b s) (e : execLoadRefresh x1 s = .next t) :
    Kept p b t := by
  unfold execLoadRefresh at e
  injection e with e
  subst e
  try dsimp only
  repeat' first | with_reducible assumption | (intro _; try dsimp only) | with_reducible apply foldl_kept | with_reducible apply ite_kept | (fail_if_no_progress (with_reducible refine mk_kept ?_)) | split

theorem execFgAbort_kept (hregs : p ≠ .regs) (hmgmt : p ≠ .mgmt) (hcal : p ≠ .cal) (hrx : p ≠ .rx) {x1 s t} (k : Kept p b s) (e : execFgAbort x1 s = .next t) :
    Kept p b t := by
  unfold execFgAbort at e
  injection e with e
  subst e
  try dsimp only
  repeat' first | with_reducible assumption | (intro _; try dsimp only) | with_reducible apply hostWrite_kept hregs hmgmt | with_reducible apply fgAbort_kept hregs hcal hrx | with_reducible apply foldl_kept | with_reducible apply ite_kept | (fail_if_no_progress (with_reducible refine mk_kept ?_)) | split

theorem fgAbandon_kept (hregs : p ≠ .regs) (hmgmt : p ≠ .mgmt) (hcal : p ≠ .cal) (hrx : p ≠ .rx) {x1 x2 s} (k : Kept p b s) :
    Kept p b (fgAbandon x1 x2 s) := by
  unfold fgAbandon
  try dsimp only
  repeat' first | with_reducible assumption | (intro _; try dsimp only) | with_reducible apply fgGone_kept hregs hcal hrx | with_reducible apply fgSkip_kept hregs | with_reducible apply flag_kept hregs hmgmt | with_reducible apply fgDrop_kept hrx | with_reducible apply foldl_kept | with_reducible apply ite_kept | (fail_if_no_progress (with_reducible refine mk_kept ?_)) | split

theorem execBackgroundRunEnd_kept (hregs : p ≠ .regs) (hmgmt : p ≠ .mgmt) (hstartup : p ≠ .startup) (hcal : p ≠ .cal) (hrx : p ≠ .rx) {x1 x2 s t} (k : Kept p b s) (e : execBackgroundRunEnd x1 x2 s = .next t) :
    Kept p b t := by
  unfold execBackgroundRunEnd at e
  injection e with e
  subst e
  try dsimp only
  repeat' first | with_reducible assumption | (intro _; try dsimp only) | with_reducible apply fset_kept hregs | with_reducible apply flag_kept hregs hmgmt | with_reducible apply isolateBlock_kept hstartup | with_reducible apply fsets_kept hregs | with_reducible apply setBlk_kept hrx | with_reducible apply bringIn_kept hcal | with_reducible apply forUp_kept | with_reducible apply foldl_kept | with_reducible apply ite_kept | (fail_if_no_progress (with_reducible refine mk_kept ?_)) | split

end Sys2Proof.Machine
end

