-- ==== Sys2Proof/Laws/KeptConverter.lean ====
section
/-! SUPPORT. What each operation and command of the converters leaves alone (see Sys2Proof/Laws/Kept.lean). -/
namespace Sys2Proof.Machine

set_option Elab.async false
set_option linter.unusedTactic false
set_option linter.unreachableTactic false

variable {p : Part} {b : State}

theorem setAxis_kept (hsc : p ≠ .sc) {x1 x2 s} (k : Kept p b s) :
    Kept p b (setAxis x1 x2 s) := by
  unfold setAxis
  try dsimp only
  repeat' first | with_reducible assumption | (intro _; try dsimp only) | with_reducible apply foldl_kept | with_reducible apply ite_kept | (fail_if_no_progress (with_reducible refine mk_kept ?_)) | split

theorem setAdc_kept (hadcs : p ≠ .adcs) {x1 x2 s} (k : Kept p b s) :
    Kept p b (setAdc x1 x2 s) := by
  unfold setAdc
  try dsimp only
  repeat' first | with_reducible assumption | (intro _; try dsimp only) | with_reducible apply foldl_kept | with_reducible apply ite_kept | (fail_if_no_progress (with_reducible refine mk_kept ?_)) | split

theorem setLoop_kept (hsc : p ≠ .sc) {x1 x2 s} (k : Kept p b s) :
    Kept p b (setLoop x1 x2 s) := by
  unfold setLoop
  try dsimp only
  repeat' first | with_reducible assumption | (intro _; try dsimp only) | with_reducible apply foldl_kept | with_reducible apply ite_kept | (fail_if_no_progress (with_reducible refine mk_kept ?_)) | split

theorem setLoopState_kept (hregs : p ≠ .regs) {x1 x2 s} (k : Kept p b s) :
    Kept p b (setLoopState x1 x2 s) := by
  unfold setLoopState
  try dsimp only
  repeat' first | with_reducible assumption | (intro _; try dsimp only) | with_reducible apply fset_kept hregs | with_reducible apply foldl_kept | with_reducible apply ite_kept | (fail_if_no_progress (with_reducible refine mk_kept ?_)) | split

theorem adcResume_kept (hadcs : p ≠ .adcs) {x1 s} (k : Kept p b s) :
    Kept p b (adcResume x1 s) := by
  unfold adcResume
  try dsimp only
  repeat' first | with_reducible assumption | (intro _; try dsimp only) | with_reducible apply setAdc_kept hadcs | with_reducible apply foldl_kept | with_reducible apply ite_kept | (fail_if_no_progress (with_reducible refine mk_kept ?_)) | split

theorem keepGood_kept (hadcs : p ≠ .adcs) {x1 x2 x3 s} (k : Kept p b s) :
    Kept p b (keepGood x1 x2 x3 s) := by
  unfold keepGood
  try dsimp only
  repeat' first | with_reducible assumption | (intro _; try dsimp only) | with_reducible apply setAdc_kept hadcs | with_reducible apply foldl_kept | with_reducible apply ite_kept | (fail_if_no_progress (with_reducible refine mk_kept ?_)) | split

theorem noteFlags_kept (hregs : p ≠ .regs) (hmgmt : p ≠ .mgmt) {x1 x2 s} (k : Kept p b s) :
    Kept p b (noteFlags x1 x2 s) := by
  unfold noteFlags
  try dsimp only
  repeat' first | with_reducible assumption | (intro _; try dsimp only) | with_reducible apply flagIf_kept hregs hmgmt | with_reducible apply foldl_kept | with_reducible apply ite_kept | (fail_if_no_progress (with_reducible refine mk_kept ?_)) | split

theorem showAdc_kept (hregs : p ≠ .regs) {x1 s} (k : Kept p b s) :
    Kept p b (showAdc x1 s) := by
  unfold showAdc
  try dsimp only
  repeat' first | with_reducible assumption | (intro _; try dsimp only) | with_reducible apply fsets_kept hregs | with_reducible apply foldl_kept | with_reducible apply ite_kept | (fail_if_no_progress (with_reducible refine mk_kept ?_)) | split

theorem reportBias_kept (hregs : p ≠ .regs) {x1 x2 s} (k : Kept p b s) :
    Kept p b (reportBias x1 x2 s) := by
  unfold reportBias
  try dsimp only
  repeat' first | with_reducible assumption | (intro _; try dsimp only) | with_reducible apply fsets_kept hregs | with_reducible apply foldl_kept | with_reducible apply ite_kept | (fail_if_no_progress (with_reducible refine mk_kept ?_)) | split

theorem deliver_kept (hregs : p ≠ .regs) (hsc : p ≠ .sc) (hmotionIn : p ≠ .motionIn) {x1 x2 x3 x4 s} (k : Kept p b s) :
    Kept p b (deliver x1 x2 x3 x4 s) := by
  unfold deliver
  try dsimp only
  repeat' first | with_reducible assumption | (intro _; try dsimp only) | with_reducible apply reportBias_kept hregs | with_reducible apply setLoop_kept hsc | with_reducible apply foldl_kept | with_reducible apply ite_kept | (fail_if_no_progress (with_reducible refine mk_kept ?_)) | split

theorem adcIdle_kept (hadcs : p ≠ .adcs) {x1 x2 s} (k : Kept p b s) :
    Kept p b (adcIdle x1 x2 s) := by
  unfold adcIdle
  try dsimp only
  repeat' first | with_reducible assumption | (intro _; try dsimp only) | with_reducible apply setAdc_kept hadcs | with_reducible apply foldl_kept | with_reducible apply ite_kept | (fail_if_no_progress (with_reducible refine mk_kept ?_)) | split

theorem execInjectedResult_kept (hregs : p ≠ .regs) (hmgmt : p ≠ .mgmt) (hadcs : p ≠ .adcs) (hsc : p ≠ .sc) (hmotionIn : p ≠ .motionIn) {x1 x2 x3 s t} (k : Kept p b s) (e : execInjectedResult x1 x2 x3 s = .next t) :
    Kept p b t := by
  unfold execInjectedResult at e
  injection e with e
  subst e
  try dsimp only
  repeat' first | with_reducible assumption | (intro _; try dsimp only) | with_reducible apply adcResume_kept hadcs | with_reducible apply keepGood_kept hadcs | with_reducible apply noteFlags_kept hregs hmgmt | with_reducible apply showAdc_kept hregs | with_reducible apply deliver_kept hregs hsc hmotionIn | with_reducible apply adcIdle_kept hadcs | with_reducible apply foldl_kept | with_reducible apply ite_kept | (fail_if_no_progress (with_reducible refine mk_kept ?_)) | split

theorem settleEvent_kept (hregs : p ≠ .regs) (hmgmt : p ≠ .mgmt) (hadcs : p ≠ .adcs) {x1 x2 x3 s} (k : Kept p b s) :
    Kept p b (settleEvent x1 x2 x3 s) := by
  unfold settleEvent
  try dsimp only
  repeat' first | with_reducible assumption | (intro _; try dsimp only) | with_reducible apply flag_kept hregs hmgmt | with_reducible apply setAdc_kept hadcs | with_reducible apply foldl_kept | with_reducible apply ite_kept | (fail_if_no_progress (with_reducible refine mk_kept ?_)) | split

theorem settleWhere_kept (hregs : p ≠ .regs) (hmgmt : p ≠ .mgmt) (hadcs : p ≠ .adcs) {x1 x2 x3 s} (k : Kept p b s) :
    Kept p b (settleWhere x1 x2 x3 s) := by
  unfold settleWhere
  try dsimp only
  repeat' first | with_reducible assumption | (intro _; try dsimp only) | with_reducible apply settleEvent_kept hregs hmgmt hadcs | with_reducible apply foldl_kept | with_reducible apply ite_kept | (fail_if_no_progress (with_reducible refine mk_kept ?_)) | split

theorem execReferenceSettled_kept (hregs : p ≠ .regs) (hmgmt : p ≠ .mgmt) (hadcs : p ≠ .adcs) {x1 x2 s t} (k : Kept p b s) (e : execReferenceSettled x1 x2 s = .next t) :
    Kept p b t := by
  unfold execReferenceSettled at e
  injection e with e
  subst e
  try dsimp only
  repeat' first | with_reducible assumption | (intro _; try dsimp only) | with_reducible apply setReg_kept hregs | with_reducible apply settleWhere_kept hregs hmgmt hadcs | with_reducible apply setAdc_kept hadcs | with_reducible apply foldl_kept | with_reducible apply ite_kept | (fail_if_no_progress (with_reducible refine mk_kept ?_)) | split

theorem adcDue_kept (hrx : p ≠ .rx) (hadcs : p ≠ .adcs) {x1 x2 x3 x4 s} (k : Kept p b s) :
    Kept p b (adcDue x1 x2 x3 x4 s) := by
  unfold adcDue
  try dsimp only
  repeat' first | with_reducible assumption | (intro _; try dsimp only) | with_reducible apply setAdc_kept hadcs | with_reducible apply foldl_kept | with_reducible apply ite_kept | (fail_if_no_progress (with_reducible refine mk_kept ?_)) | split

theorem adcRunWrite_kept (hrx : p ≠ .rx) (hadcs : p ≠ .adcs) (hhk : p ≠ .hk) {x1 x2 x3 s} (k : Kept p b s) :
    Kept p b (adcRunWrite x1 x2 x3 s) := by
  unfold adcRunWrite
  try dsimp only
  repeat' first | with_reducible assumption | (intro _; try dsimp only) | with_reducible apply adcDue_kept hrx hadcs | with_reducible apply foldl_kept | with_reducible apply ite_kept | (fail_if_no_progress (with_reducible refine mk_kept ?_)) | split

theorem feedLoops_kept (hsc : p ≠ .sc) {x1 x2 x3 s} (k : Kept p b s) :
    Kept p b (feedLoops x1 x2 x3 s) := by
  unfold feedLoops
  try dsimp only
  repeat' first | with_reducible assumption | (intro _; try dsimp only) | with_reducible apply setLoop_kept hsc | with_reducible apply forUp_kept | with_reducible apply foldl_kept | with_reducible apply ite_kept | (fail_if_no_progress (with_reducible refine mk_kept ?_)) | split

theorem holdResult_kept (hregs : p ≠ .regs) (hsc : p ≠ .sc) {x1 x2 x3 s} (k : Kept p b s) :
    Kept p b (holdResult x1 x2 x3 s) := by
  unfold holdResult
  try dsimp only
  repeat' first | with_reducible assumption | (intro _; try dsimp only) | with_reducible apply feedLoops_kept hsc | with_reducible apply setReg_kept hregs | with_reducible apply foldl_kept | with_reducible apply ite_kept | (fail_if_no_progress (with_reducible refine mk_kept ?_)) | split

theorem startAdc_kept (hregs : p ≠ .regs) (hadcs : p ≠ .adcs) {x1 s} (k : Kept p b s) :
    Kept p b (startAdc x1 s) := by
  unfold startAdc
  try dsimp only
  repeat' first | with_reducible assumption | (intro _; try dsimp only) | with_reducible apply showAdc_kept hregs | with_reducible apply setAdc_kept hadcs | with_reducible apply foldl_kept | with_reducible apply ite_kept | (fail_if_no_progress (with_reducible refine mk_kept ?_)) | split

theorem enableAdcs_kept (hregs : p ≠ .regs) (hadcs : p ≠ .adcs) {x1 s} (k : Kept p b s) :
    Kept p b (enableAdcs x1 s) := by
  unfold enableAdcs
  try dsimp only
  repeat' first | with_reducible assumption | (intro _; try dsimp only) | with_reducible apply startAdc_kept hregs hadcs | with_reducible apply setAdc_kept hadcs | with_reducible apply forUp_kept | with_reducible apply foldl_kept | with_reducible apply ite_kept | (fail_if_no_progress (with_reducible refine mk_kept ?_)) | split

theorem adcRefuse_kept (hregs : p ≠ .regs) (hmgmt : p ≠ .mgmt) {x1 s} (k : Kept p b s) :
    Kept p b (adcRefuse x1 s) := by
  unfold adcRefuse
  try dsimp only
  repeat' first | with_reducible assumption | (intro _; try dsimp only) | with_reducible apply flag_kept hregs hmgmt | with_reducible apply foldl_kept | with_reducible apply ite_kept | (fail_if_no_progress (with_reducible refine mk_kept ?_)) | split

theorem scanCommand_kept (hregs : p ≠ .regs) (hmgmt : p ≠ .mgmt) (hadcs : p ≠ .adcs) {x1 x2 s} (k : Kept p b s) :
    Kept p b (scanCommand x1 x2 s) := by
  unfold scanCommand
  try dsimp only
  repeat' first | with_reducible assumption | (intro _; try dsimp only) | with_reducible apply setAdc_kept hadcs | with_reducible apply adcRefuse_kept hregs hmgmt | with_reducible apply foldl_kept | with_reducible apply ite_kept | (fail_if_no_progress (with_reducible refine mk_kept ?_)) | split

theorem execScanOn_kept (hregs : p ≠ .regs) (hmgmt : p ≠ .mgmt) (hadcs : p ≠ .adcs) {x1 x2 s t} (k : Kept p b s) (e : execScanOn x1 x2 s = .next t) :
    Kept p b t := by
  unfold execScanOn at e
  injection e with e
  subst e
  try dsimp only
  repeat' first | with_reducible assumption | (intro _; try dsimp only) | with_reducible apply hostWrite_kept hregs hmgmt | with_reducible apply scanCommand_kept hregs hmgmt hadcs | with_reducible apply foldl_kept | with_reducible apply ite_kept | (fail_if_no_progress (with_reducible refine mk_kept ?_)) | split

theorem execScanOff_kept (hregs : p ≠ .regs) (hmgmt : p ≠ .mgmt) (hadcs : p ≠ .adcs) {x1 x2 s t} (k : Kept p b s) (e : execScanOff x1 x2 s = .next t) :
    Kept p b t := by
  unfold execScanOff at e
  injection e with e
  subst e
  try dsimp only
  repeat' first | with_reducible assumption | (intro _; try dsimp only) | with_reducible apply hostWrite_kept hregs hmgmt | with_reducible apply scanCommand_kept hregs hmgmt hadcs | with_reducible apply foldl_kept | with_reducible apply ite_kept | (fail_if_no_progress (with_reducible refine mk_kept ?_)) | split

theorem putRes_kept (hregs : p ≠ .regs) (hadcs : p ≠ .adcs) {x1 x2 x3 x4 s} (k : Kept p b s) :
    Kept p b (putRes x1 x2 x3 x4 s) := by
  unfold putRes
  try dsimp only
  repeat' first | with_reducible assumption | (intro _; try dsimp only) | with_reducible apply setAdc_kept hadcs | with_reducible apply setReg_kept hregs | with_reducible apply foldl_kept | with_reducible apply ite_kept | (fail_if_no_progress (with_reducible refine mk_kept ?_)) | split

theorem calFail_kept (hregs : p ≠ .regs) (hadcs : p ≠ .adcs) {x1 x2 s} (k : Kept p b s) :
    Kept p b (calFail x1 x2 s) := by
  unfold calFail
  try dsimp only
  repeat' first | with_reducible assumption | (intro _; try dsimp only) | with_reducible apply fsets_kept hregs | with_reducible apply setAdc_kept hadcs | with_reducible apply foldl_kept | with_reducible apply ite_kept | (fail_if_no_progress (with_reducible refine mk_kept ?_)) | split

theorem dropReadings_kept (hrx : p ≠ .rx) {x1 x2 x3 s} (k : Kept p b s) :
    Kept p b (dropReadings x1 x2 x3 s) := by
  unfold dropReadings
  try dsimp only
  repeat' first | with_reducible assumption | (intro _; try dsimp only) | with_reducible apply setCell_kept hrx | with_reducible apply forUp_kept | with_reducible apply foldl_kept | with_reducible apply ite_kept | (fail_if_no_progress (with_reducible refine mk_kept ?_)) | split

theorem adcNewPlane_kept (hregs : p ≠ .regs) (hmgmt : p ≠ .mgmt) (hrx : p ≠ .rx) (hadcs : p ≠ .adcs) {x1 s} (k : Kept p b s) :
    Kept p b (adcNewPlane x1 s) := by
  unfold adcNewPlane
  try dsimp only
  repeat' first | with_reducible assumption | (intro _; try dsimp only) | with_reducible apply calFail_kept hregs hadcs | with_reducible apply setAdc_kept hadcs | with_reducible apply putRes_kept hregs hadcs | with_reducible apply settleEvent_kept hregs hmgmt hadcs | with_reducible apply dropReadings_kept hrx | with_reducible apply fsets_kept hregs | with_reducible apply settleWhere_kept hregs hmgmt hadcs | with_reducible apply foldl_kept | with_reducible apply ite_kept | (fail_if_no_progress (with_reducible refine mk_kept ?_)) | split

theorem bnReset_kept (hregs : p ≠ .regs) (hadcs : p ≠ .adcs) {x1 s} (k : Kept p b s) :
    Kept p b (bnReset x1 s) := by
  unfold bnReset
  try dsimp only
  repeat' first | with_reducible assumption | (intro _; try dsimp only) | with_reducible apply setReg_kept hregs | with_reducible apply setAdc_kept hadcs | with_reducible apply foldl_kept | with_reducible apply ite_kept | (fail_if_no_progress (with_reducible refine mk_kept ?_)) | split

theorem fadeCheck_kept (hregs : p ≠ .regs) (hadcs : p ≠ .adcs) {x1 s} (k : Kept p b s) :
    Kept p b (fadeCheck x1 s) := by
  unfold fadeCheck
  try dsimp only
  repeat' first | with_reducible assumption | (intro _; try dsimp only) | with_reducible apply fset_kept hregs | with_reducible apply setAdc_kept hadcs | with_reducible apply foldl_kept | with_reducible apply ite_kept | (fail_if_no_progress (with_reducible refine mk_kept ?_)) | split

theorem applyAdcWrite_kept (hregs : p ≠ .regs) (hmgmt : p ≠ .mgmt) (hadcs : p ≠ .adcs) {x1 x2 s} (k : Kept p b s) :
    Kept p b (applyAdcWrite x1 x2 s) := by
  unfold applyAdcWrite
  try dsimp only
  repeat' first | with_reducible assumption | (intro _; try dsimp only) | with_reducible apply settleEvent_kept hregs hmgmt hadcs | with_reducible apply setAdc_kept hadcs | with_reducible apply setReg_kept hregs | with_reducible apply bnReset_kept hregs hadcs | with_reducible apply flag_kept hregs hmgmt | with_reducible apply fsets_kept hregs | with_reducible apply fadeCheck_kept hregs hadcs | with_reducible apply foldl_kept | with_reducible apply ite_kept | (fail_if_no_progress (with_reducible refine mk_kept ?_)) | split

theorem switchMode_kept (hregs : p ≠ .regs) (hmgmt : p ≠ .mgmt) (hadcs : p ≠ .adcs) {x1 x2 s} (k : Kept p b s) :
    Kept p b (switchMode x1 x2 s) := by
  unfold switchMode
  try dsimp only
  repeat' first | with_reducible assumption | (intro _; try dsimp only) | with_reducible apply settleWhere_kept hregs hmgmt hadcs | with_reducible apply setAdc_kept hadcs | with_reducible apply foldl_kept | with_reducible apply ite_kept | (fail_if_no_progress (with_reducible refine mk_kept ?_)) | split

theorem calStart_kept (hregs : p ≠ .regs) (hadcs : p ≠ .adcs) {x1 s} (k : Kept p b s) :
    Kept p b (calStart x1 s) := by
  unfold calStart
  try dsimp only
  repeat' first | with_reducible assumption | (intro _; try dsimp only) | with_reducible apply fset_kept hregs | with_reducible apply setAdc_kept hadcs | with_reducible apply foldl_kept | with_reducible apply ite_kept | (fail_if_no_progress (with_reducible refine mk_kept ?_)) | split

theorem adcBoundary_kept (hregs : p ≠ .regs) (hmgmt : p ≠ .mgmt) (hrx : p ≠ .rx) (hadcs : p ≠ .adcs) {x1 s} (k : Kept p b s) :
    Kept p b (adcBoundary x1 s) := by
  unfold adcBoundary
  try dsimp only
  repeat' first | with_reducible assumption | (intro _; try dsimp only) | with_reducible apply setAdc_kept hadcs | with_reducible apply adcNewPlane_kept hregs hmgmt hrx hadcs | with_reducible apply applyAdcWrite_kept hregs hmgmt hadcs | with_reducible apply switchMode_kept hregs hmgmt hadcs | with_reducible apply showAdc_kept hregs | with_reducible apply calStart_kept hregs hadcs | with_reducible apply foldl_kept | with_reducible apply ite_kept | (fail_if_no_progress (with_reducible refine mk_kept ?_)) | split

theorem scanResult_kept (hregs : p ≠ .regs) (hadcs : p ≠ .adcs) {x1 x2 x3 x4 x5 s} (k : Kept p b s) :
    Kept p b (scanResult x1 x2 x3 x4 x5 s) := by
  unfold scanResult
  try dsimp only
  repeat' first | with_reducible assumption | (intro _; try dsimp only) | with_reducible apply putRes_kept hregs hadcs | with_reducible apply keepGood_kept hadcs | with_reducible apply foldl_kept | with_reducible apply ite_kept | (fail_if_no_progress (with_reducible refine mk_kept ?_)) | split

theorem cellReading_kept (hregs : p ≠ .regs) (hmgmt : p ≠ .mgmt) (hrx : p ≠ .rx) {x1 x2 x3 x4 x5 s} (k : Kept p b s) :
    Kept p b (cellReading x1 x2 x3 x4 x5 s) := by
  unfold cellReading
  try dsimp only
  repeat' first | with_reducible assumption | (intro _; try dsimp only) | with_reducible apply ambientReading_kept hregs hmgmt hrx | with_reducible apply flag_kept hregs hmgmt | with_reducible apply setCell_kept hrx | with_reducible apply foldl_kept | with_reducible apply ite_kept | (fail_if_no_progress (with_reducible refine mk_kept ?_)) | split

theorem advance_kept (hadcs : p ≠ .adcs) {x1 x2 s} (k : Kept p b s) :
    Kept p b (advance x1 x2 s) := by
  unfold advance
  try dsimp only
  repeat' first | with_reducible assumption | (intro _; try dsimp only) | with_reducible apply setAdc_kept hadcs | with_reducible apply foldl_kept | with_reducible apply ite_kept | (fail_if_no_progress (with_reducible refine mk_kept ?_)) | split

theorem calSettled_kept (hadcs : p ≠ .adcs) {x1 x2 s} (k : Kept p b s) :
    Kept p b (calSettled x1 x2 s) := by
  unfold calSettled
  try dsimp only
  repeat' first | with_reducible assumption | (intro _; try dsimp only) | with_reducible apply setAdc_kept hadcs | with_reducible apply foldl_kept | with_reducible apply ite_kept | (fail_if_no_progress (with_reducible refine mk_kept ?_)) | split

theorem detect_kept (hregs : p ≠ .regs) (hadcs : p ≠ .adcs) {x1 x2 x3 s} (k : Kept p b s) :
    Kept p b (detect x1 x2 x3 s) := by
  unfold detect
  try dsimp only
  repeat' first | with_reducible assumption | (intro _; try dsimp only) | with_reducible apply setReg_kept hregs | with_reducible apply setAdc_kept hadcs | with_reducible apply foldl_kept | with_reducible apply ite_kept | (fail_if_no_progress (with_reducible refine mk_kept ?_)) | split

theorem putResult_kept (hregs : p ≠ .regs) (hmgmt : p ≠ .mgmt) (hadcs : p ≠ .adcs) (hsc : p ≠ .sc) (hfresh : p ≠ .fresh) {x1 x2 x3 x4 x5 x6 s} (k : Kept p b s) :
    Kept p b (putResult x1 x2 x3 x4 x5 x6 s) := by
  unfold putResult
  try dsimp only
  repeat' first | with_reducible assumption | (intro _; try dsimp only) | with_reducible apply detect_kept hregs hadcs | with_reducible apply drawFree_kept hfresh | with_reducible apply flagIf_kept hregs hmgmt | with_reducible apply feedLoops_kept hsc | with_reducible apply putRes_kept hregs hadcs | with_reducible apply foldl_kept | with_reducible apply ite_kept | (fail_if_no_progress (with_reducible refine mk_kept ?_)) | split

theorem reportExcitation_kept (hadcs : p ≠ .adcs) {x1 x2 s} (k : Kept p b s) :
    Kept p b (reportExcitation x1 x2 s) := by
  unfold reportExcitation
  try dsimp only
  repeat' first | with_reducible assumption | (intro _; try dsimp only) | with_reducible apply setAdc_kept hadcs | with_reducible apply foldl_kept | with_reducible apply ite_kept | (fail_if_no_progress (with_reducible refine mk_kept ?_)) | split

theorem applyExcitation_kept (hregs : p ≠ .regs) (hadcs : p ≠ .adcs) (hsc : p ≠ .sc) {x1 x2 s} (k : Kept p b s) :
    Kept p b (applyExcitation x1 x2 s) := by
  unfold applyExcitation
  try dsimp only
  repeat' first | with_reducible assumption | (intro _; try dsimp only) | with_reducible apply setAxis_kept hsc | with_reducible apply fset_kept hregs | with_reducible apply reportExcitation_kept hadcs | with_reducible apply foldl_kept | with_reducible apply ite_kept | (fail_if_no_progress (with_reducible refine mk_kept ?_)) | split

theorem axisOutput_kept (hregs : p ≠ .regs) (hadcs : p ≠ .adcs) (hsc : p ≠ .sc) {x1 x2 x3 s} (k : Kept p b s) :
    Kept p b (axisOutput x1 x2 x3 s) := by
  unfold axisOutput
  try dsimp only
  repeat' first | with_reducible assumption | (intro _; try dsimp only) | with_reducible apply setAxis_kept hsc | with_reducible apply applyExcitation_kept hregs hadcs hsc | with_reducible apply forUp_kept | with_reducible apply foldl_kept | with_reducible apply ite_kept | (fail_if_no_progress (with_reducible refine mk_kept ?_)) | split

theorem finishOutput_kept (hregs : p ≠ .regs) (hmgmt : p ≠ .mgmt) (hadcs : p ≠ .adcs) (hsc : p ≠ .sc) (hfresh : p ≠ .fresh) {x1 x2 x3 x4 x5 x6 s} (k : Kept p b s) :
    Kept p b (finishOutput x1 x2 x3 x4 x5 x6 s) := by
  unfold finishOutput
  try dsimp only
  repeat' first | with_reducible assumption | (intro _; try dsimp only) | with_reducible apply holdResult_kept hregs hsc | with_reducible apply setAdc_kept hadcs | with_reducible apply putResult_kept hregs hmgmt hadcs hsc hfresh | with_reducible apply drawFree_kept hfresh | with_reducible apply foldl_kept | with_reducible apply ite_kept | (fail_if_no_progress (with_reducible refine mk_kept ?_)) | split

theorem seqSample_kept (hregs : p ≠ .regs) (hmgmt : p ≠ .mgmt) (hadcs : p ≠ .adcs) (hsc : p ≠ .sc) (hfresh : p ≠ .fresh) {x1 x2 x3 x4 x5 x6 s} (k : Kept p b s) :
    Kept p b (seqSample x1 x2 x3 x4 x5 x6 s) := by
  unfold seqSample
  try dsimp only
  repeat' first | with_reducible assumption | (intro _; try dsimp only) | with_reducible apply keepGood_kept hadcs | with_reducible apply calSettled_kept hadcs | with_reducible apply putResult_kept hregs hmgmt hadcs hsc hfresh | with_reducible apply axisOutput_kept hregs hadcs hsc | with_reducible apply settleEvent_kept hregs hmgmt hadcs | with_reducible apply setAdc_kept hadcs | with_reducible apply flag_kept hregs hmgmt | with_reducible apply finishOutput_kept hregs hmgmt hadcs hsc hfresh | with_reducible apply fadeCheck_kept hregs hadcs | with_reducible apply foldl_kept | with_reducible apply ite_kept | (fail_if_no_progress (with_reducible refine mk_kept ?_)) | split

theorem execConversionSlotEnd_kept (hregs : p ≠ .regs) (hmgmt : p ≠ .mgmt) (hrx : p ≠ .rx) (hadcs : p ≠ .adcs) (hsc : p ≠ .sc) (hfresh : p ≠ .fresh) {x1 x2 x3 s t} (k : Kept p b s) (e : execConversionSlotEnd x1 x2 x3 s = .next t) :
    Kept p b t := by
  unfold execConversionSlotEnd at e
  injection e with e
  subst e
  try dsimp only
  repeat' first | with_reducible assumption | (intro _; try dsimp only) | with_reducible apply adcResume_kept hadcs | with_reducible apply adcBoundary_kept hregs hmgmt hrx hadcs | with_reducible apply noteFlags_kept hregs hmgmt | with_reducible apply scanResult_kept hregs hadcs | with_reducible apply cellReading_kept hregs hmgmt hrx | with_reducible apply advance_kept hadcs | with_reducible apply seqSample_kept hregs hmgmt hadcs hsc hfresh | with_reducible apply foldl_kept | with_reducible apply ite_kept | (fail_if_no_progress (with_reducible refine mk_kept ?_)) | split

theorem feedLostInjected_kept (hsc : p ≠ .sc) {x1 x2 s} (k : Kept p b s) :
    Kept p b (feedLostInjected x1 x2 s) := by
  unfold feedLostInjected
  try dsimp only
  repeat' first | with_reducible assumption | (intro _; try dsimp only) | with_reducible apply setLoop_kept hsc | with_reducible apply forUp_kept | with_reducible apply foldl_kept | with_reducible apply ite_kept | (fail_if_no_progress (with_reducible refine mk_kept ?_)) | split

theorem adcRearm_kept (hregs : p ≠ .regs) (hmgmt : p ≠ .mgmt) (hadcs : p ≠ .adcs) {x1 s} (k : Kept p b s) :
    Kept p b (adcRearm x1 s) := by
  unfold adcRearm
  try dsimp only
  repeat' first | with_reducible assumption | (intro _; try dsimp only) | with_reducible apply setAdc_kept hadcs | with_reducible apply adcRefuse_kept hregs hmgmt | with_reducible apply foldl_kept | with_reducible apply ite_kept | (fail_if_no_progress (with_reducible refine mk_kept ?_)) | split

theorem execAdcRearm_kept (hregs : p ≠ .regs) (hmgmt : p ≠ .mgmt) (hadcs : p ≠ .adcs) {x1 x2 s t} (k : Kept p b s) (e : execAdcRearm x1 x2 s = .next t) :
    Kept p b t := by
  unfold execAdcRearm at e
  injection e with e
  subst e
  try dsimp only
  repeat' first | with_reducible assumption | (intro _; try dsimp only) | with_reducible apply hostWrite_kept hregs hmgmt | with_reducible apply adcRearm_kept hregs hmgmt hadcs | with_reducible apply foldl_kept | with_reducible apply ite_kept | (fail_if_no_progress (with_reducible refine mk_kept ?_)) | split

theorem calRefuse_kept (hregs : p ≠ .regs) {x1 x2 s} (k : Kept p b s) :
    Kept p b (calRefuse x1 x2 s) := by
  unfold calRefuse
  try dsimp only
  repeat' first | with_reducible assumption | (intro _; try dsimp only) | with_reducible apply fsets_kept hregs | with_reducible apply foldl_kept | with_reducible apply ite_kept | (fail_if_no_progress (with_reducible refine mk_kept ?_)) | split

theorem calBegin_kept (hregs : p ≠ .regs) (hmgmt : p ≠ .mgmt) (hadcs : p ≠ .adcs) {x1 x2 s} (k : Kept p b s) :
    Kept p b (calBegin x1 x2 s) := by
  unfold calBegin
  try dsimp only
  repeat' first | with_reducible assumption | (intro _; try dsimp only) | with_reducible apply calRefuse_kept hregs | with_reducible apply adcRefuse_kept hregs hmgmt | with_reducible apply fset_kept hregs | with_reducible apply setAdc_kept hadcs | with_reducible apply foldl_kept | with_reducible apply ite_kept | (fail_if_no_progress (with_reducible refine mk_kept ?_)) | split

theorem execCalZero_kept (hregs : p ≠ .regs) (hmgmt : p ≠ .mgmt) (hadcs : p ≠ .adcs) {x1 x2 s t} (k : Kept p b s) (e : execCalZero x1 x2 s = .next t) :
    Kept p b t := by
  unfold execCalZero at e
  injection e with e
  subst e
  try dsimp only
  repeat' first | with_reducible assumption | (intro _; try dsimp only) | with_reducible apply hostWrite_kept hregs hmgmt | with_reducible apply calBegin_kept hregs hmgmt hadcs | with_reducible apply foldl_kept | with_reducible apply ite_kept | (fail_if_no_progress (with_reducible refine mk_kept ?_)) | split

theorem bankWrite_kept (hregs : p ≠ .regs) (hmgmt : p ≠ .mgmt) (hrx : p ≠ .rx) (hadcs : p ≠ .adcs) (hhk : p ≠ .hk) {x1 x2 s} (k : Kept p b s) :
    Kept p b (bankWrite x1 x2 s) := by
  unfold bankWrite
  try dsimp only
  repeat' first | with_reducible assumption | (intro _; try dsimp only) | with_reducible apply flag_kept hregs hmgmt | with_reducible apply adcRunWrite_kept hrx hadcs hhk | with_reducible apply foldl_kept | with_reducible apply ite_kept | (fail_if_no_progress (with_reducible refine mk_kept ?_)) | split

theorem feedLost_kept (hsc : p ≠ .sc) {x1 x2 s} (k : Kept p b s) :
    Kept p b (feedLost x1 x2 s) := by
  unfold feedLost
  try dsimp only
  repeat' first | with_reducible assumption | (intro _; try dsimp only) | with_reducible apply feedLoops_kept hsc | with_reducible apply foldl_kept | with_reducible apply ite_kept | (fail_if_no_progress (with_reducible refine mk_kept ?_)) | split

theorem loseRef_kept (hregs : p ≠ .regs) (hmgmt : p ≠ .mgmt) (hadcs : p ≠ .adcs) (hsc : p ≠ .sc) {x1 x2 s} (k : Kept p b s) :
    Kept p b (loseRef x1 x2 s) := by
  unfold loseRef
  try dsimp only
  repeat' first | with_reducible assumption | (intro _; try dsimp only) | with_reducible apply setFlag_kept hregs hmgmt | with_reducible apply setReg_kept hregs | with_reducible apply feedLostInjected_kept hsc | with_reducible apply feedLost_kept hsc | with_reducible apply setAdc_kept hadcs | with_reducible apply foldl_kept | with_reducible apply ite_kept | (fail_if_no_progress (with_reducible refine mk_kept ?_)) | split

theorem adcSupplyBad_kept (hregs : p ≠ .regs) (hmgmt : p ≠ .mgmt) (hadcs : p ≠ .adcs) (hsc : p ≠ .sc) {s} (k : Kept p b s) :
    Kept p b (adcSupplyBad s) := by
  unfold adcSupplyBad
  try dsimp only
  repeat' first | with_reducible assumption | (intro _; try dsimp only) | with_reducible apply loseRef_kept hregs hmgmt hadcs hsc | with_reducible apply setAdc_kept hadcs | with_reducible apply forUp_kept | with_reducible apply foldl_kept | with_reducible apply ite_kept | (fail_if_no_progress (with_reducible refine mk_kept ?_)) | split

theorem execCalFullDone_kept (hregs : p ≠ .regs) (hmgmt : p ≠ .mgmt) (hrx : p ≠ .rx) (hadcs : p ≠ .adcs) {x1 x2 s t} (k : Kept p b s) (e : execCalFullDone x1 x2 s = .next t) :
    Kept p b t := by
  unfold execCalFullDone at e
  injection e with e
  subst e
  try dsimp only
  repeat' first | with_reducible assumption | (intro _; try dsimp only) | with_reducible apply adcBoundary_kept hregs hmgmt hrx hadcs | with_reducible apply showAdc_kept hregs | with_reducible apply calFail_kept hregs hadcs | with_reducible apply setAdc_kept hadcs | with_reducible apply settleEvent_kept hregs hmgmt hadcs | with_reducible apply fsets_kept hregs | with_reducible apply foldl_kept | with_reducible apply ite_kept | (fail_if_no_progress (with_reducible refine mk_kept ?_)) | split

theorem execBnReset_kept (hregs : p ≠ .regs) (hmgmt : p ≠ .mgmt) (hadcs : p ≠ .adcs) {x1 x2 s t} (k : Kept p b s) (e : execBnReset x1 x2 s = .next t) :
    Kept p b t := by
  unfold execBnReset at e
  injection e with e
  subst e
  try dsimp only
  repeat' first | with_reducible assumption | (intro _; try dsimp only) | with_reducible apply hostWrite_kept hregs hmgmt | with_reducible apply bnReset_kept hregs hadcs | with_reducible apply foldl_kept | with_reducible apply ite_kept | (fail_if_no_progress (with_reducible refine mk_kept ?_)) | split

theorem converterFault_kept (hmode : p ≠ .mode) (hregs : p ≠ .regs) (htime : p ≠ .time) (hmgmt : p ≠ .mgmt) (hstartup : p ≠ .startup) (hcal : p ≠ .cal) (hrx : p ≠ .rx) (htx : p ≠ .tx) (hsc : p ≠ .sc) (hpairSt : p ≠ .pairSt) (hfw : p ≠ .fw) {x1 s} (k : Kept p b s) :
    Kept p b (converterFault x1 s) := by
  unfold converterFault
  try dsimp only
  repeat' first | with_reducible assumption | (intro _; try dsimp only) | with_reducible apply fset_kept hregs | with_reducible apply flag_kept hregs hmgmt | with_reducible apply isolateBlock_kept hstartup | with_reducible apply feedLost_kept hsc | with_reducible apply chipReaction_kept hmode hregs htime hmgmt hstartup hcal hrx htx hpairSt hfw | with_reducible apply foldl_kept | with_reducible apply ite_kept | (fail_if_no_progress (with_reducible refine mk_kept ?_)) | split

theorem execCalFull_kept (hregs : p ≠ .regs) (hmgmt : p ≠ .mgmt) (hadcs : p ≠ .adcs) {x1 x2 s t} (k : Kept p b s) (e : execCalFull x1 x2 s = .next t) :
    Kept p b t := by
  unfold execCalFull at e
  injection e with e
  subst e
  try dsimp only
  repeat' first | with_reducible assumption | (intro _; try dsimp only) | with_reducible apply hostWrite_kept hregs hmgmt | with_reducible apply calBegin_kept hregs hmgmt hadcs | with_reducible apply foldl_kept | with_reducible apply ite_kept | (fail_if_no_progress (with_reducible refine mk_kept ?_)) | split

theorem adcCommand_kept (hregs : p ≠ .regs) (hmgmt : p ≠ .mgmt) (hadcs : p ≠ .adcs) {x1 x2 s} (k : Kept p b s) :
    Kept p b (adcCommand x1 x2 s) := by
  unfold adcCommand
  try dsimp only
  repeat' first | with_reducible assumption | (intro _; try dsimp only) | with_reducible apply calBegin_kept hregs hmgmt hadcs | with_reducible apply scanCommand_kept hregs hmgmt hadcs | with_reducible apply bnReset_kept hregs hadcs | with_reducible apply adcRearm_kept hregs hmgmt hadcs | with_reducible apply adcRefuse_kept hregs hmgmt | with_reducible apply foldl_kept | with_reducible apply ite_kept | (fail_if_no_progress (with_reducible refine mk_kept ?_)) | split

theorem execBankWrite_kept (hregs : p ≠ .regs) (hmgmt : p ≠ .mgmt) (hrx : p ≠ .rx) (hadcs : p ≠ .adcs) (hhk : p ≠ .hk) {x1 x2 x3 s t} (k : Kept p b s) (e : execBankWrite x1 x2 x3 s = .next t) :
    Kept p b t := by
  unfold execBankWrite at e
  injection e with e
  subst e
  try dsimp only
  repeat' first | with_reducible assumption | (intro _; try dsimp only) | with_reducible apply hostWrite_kept hregs hmgmt | with_reducible apply bankWrite_kept hregs hmgmt hrx hadcs hhk | with_reducible apply foldl_kept | with_reducible apply ite_kept | (fail_if_no_progress (with_reducible refine mk_kept ?_)) | split

theorem sendReq_kept (hadcs : p ≠ .adcs) {x1 x2 s} (k : Kept p b s) :
    Kept p b (sendReq x1 x2 s) := by
  unfold sendReq
  try dsimp only
  repeat' first | with_reducible assumption | (intro _; try dsimp only) | with_reducible apply setAdc_kept hadcs | with_reducible apply foldl_kept | with_reducible apply ite_kept | (fail_if_no_progress (with_reducible refine mk_kept ?_)) | split

theorem execBiasConversionRequest_kept (hregs : p ≠ .regs) (hrx : p ≠ .rx) (hadcs : p ≠ .adcs) {x1 s t} (k : Kept p b s) (e : execBiasConversionRequest x1 s = .next t) :
    Kept p b t := by
  unfold execBiasConversionRequest at e
  injection e with e
  subst e
  try dsimp only
  repeat' first | with_reducible assumption | (intro _; try dsimp only) | with_reducible apply fset_kept hregs | with_reducible apply sendReq_kept hadcs | with_reducible apply setBlk_kept hrx | with_reducible apply foldl_kept | with_reducible apply ite_kept | (fail_if_no_progress (with_reducible refine mk_kept ?_)) | split

theorem execInjectedRequest_kept (hregs : p ≠ .regs) (hmgmt : p ≠ .mgmt) (hadcs : p ≠ .adcs) (hsc : p ≠ .sc) (hmotionIn : p ≠ .motionIn) (hfresh : p ≠ .fresh) {x1 s t} (k : Kept p b s) (e : execInjectedRequest x1 s = .next t) :
    Kept p b t := by
  unfold execInjectedRequest at e
  injection e with e
  subst e
  try dsimp only
  repeat' first | with_reducible assumption | (intro _; try dsimp only) | with_reducible apply adcResume_kept hadcs | with_reducible apply setAdc_kept hadcs | with_reducible apply flag_kept hregs hmgmt | with_reducible apply deliver_kept hregs hsc hmotionIn | with_reducible apply drawFree_kept hfresh | with_reducible apply foldl_kept | with_reducible apply ite_kept | (fail_if_no_progress (with_reducible refine mk_kept ?_)) | split

theorem execSelfCheck_kept (hmode : p ≠ .mode) (hregs : p ≠ .regs) (htime : p ≠ .time) (hmgmt : p ≠ .mgmt) (hstartup : p ≠ .startup) (hcal : p ≠ .cal) (hrx : p ≠ .rx) (htx : p ≠ .tx) (hadcs : p ≠ .adcs) (hsc : p ≠ .sc) (hpairSt : p ≠ .pairSt) (hfw : p ≠ .fw) {x1 x2 s t} (k : Kept p b s) (e : execSelfCheck x1 x2 s = .next t) :
    Kept p b t := by
  unfold execSelfCheck at e
  injection e with e
  subst e
  try dsimp only
  repeat' first | with_reducible assumption | (intro _; try dsimp only) | with_reducible apply adcResume_kept hadcs | with_reducible apply noteFlags_kept hregs hmgmt | with_reducible apply flagIf_kept hregs hmgmt | with_reducible apply adcIdle_kept hadcs | with_reducible apply setAdc_kept hadcs | with_reducible apply converterFault_kept hmode hregs htime hmgmt hstartup hcal hrx htx hsc hpairSt hfw | with_reducible apply endCause_kept hstartup | with_reducible apply fset_kept hregs | with_reducible apply foldl_kept | with_reducible apply ite_kept | (fail_if_no_progress (with_reducible refine mk_kept ?_)) | split

theorem execAdcBadCommand_kept (hregs : p ≠ .regs) (hmgmt : p ≠ .mgmt) (hadcs : p ≠ .adcs) {x1 x2 x3 s t} (k : Kept p b s) (e : execAdcBadCommand x1 x2 x3 s = .next t) :
    Kept p b t := by
  unfold execAdcBadCommand at e
  injection e with e
  subst e
  try dsimp only
  repeat' first | with_reducible assumption | (intro _; try dsimp only) | with_reducible apply hostWrite_kept hregs hmgmt | with_reducible apply adcCommand_kept hregs hmgmt hadcs | with_reducible apply foldl_kept | with_reducible apply ite_kept | (fail_if_no_progress (with_reducible refine mk_kept ?_)) | split

theorem markBanks_kept (hadcs : p ≠ .adcs) {x1 s} (k : Kept p b s) :
    Kept p b (markBanks x1 s) := by
  unfold markBanks
  try dsimp only
  repeat' first | with_reducible assumption | (intro _; try dsimp only) | with_reducible apply setAdc_kept hadcs | with_reducible apply forUp_kept | with_reducible apply foldl_kept | with_reducible apply ite_kept | (fail_if_no_progress (with_reducible refine mk_kept ?_)) | split

theorem execCalZeroDone_kept (hregs : p ≠ .regs) (hmgmt : p ≠ .mgmt) (hrx : p ≠ .rx) (hadcs : p ≠ .adcs) {x1 x2 s t} (k : Kept p b s) (e : execCalZeroDone x1 x2 s = .next t) :
    Kept p b t := by
  unfold execCalZeroDone at e
  injection e with e
  subst e
  try dsimp only
  repeat' first | with_reducible assumption | (intro _; try dsimp only) | with_reducible apply adcBoundary_kept hregs hmgmt hrx hadcs | with_reducible apply showAdc_kept hregs | with_reducible apply fsets_kept hregs | with_reducible apply setAdc_kept hadcs | with_reducible apply foldl_kept | with_reducible apply ite_kept | (fail_if_no_progress (with_reducible refine mk_kept ?_)) | split

theorem execReferenceLost_kept (hregs : p ≠ .regs) (hmgmt : p ≠ .mgmt) (hadcs : p ≠ .adcs) (hsc : p ≠ .sc) {x1 x2 s t} (k : Kept p b s) (e : execReferenceLost x1 x2 s = .next t) :
    Kept p b t := by
  unfold execReferenceLost at e
  injection e with e
  subst e
  try dsimp only
  repeat' first | with_reducible assumption | (intro _; try dsimp only) | with_reducible apply loseRef_kept hregs hmgmt hadcs hsc | with_reducible apply foldl_kept | with_reducible apply ite_kept | (fail_if_no_progress (with_reducible refine mk_kept ?_)) | split

end Sys2Proof.Machine
end

