-- ==== Sys2Proof/Laws/KeptScanner.lean ====
section
/-! SUPPORT. What each operation and command of scanner and pixels leaves alone (see Sys2Proof/Laws/Kept.lean). -/
namespace Sys2Proof.Machine

set_option Elab.async false
set_option linter.unusedTactic false
set_option linter.unreachableTactic false

variable {p : Part} {b : State}

theorem execLoopRequest_kept (hadcs : p ≠ .adcs) (hsc : p ≠ .sc) {x1 s t} (k : Kept p b s) (e : execLoopRequest x1 s = .next t) :
    Kept p b t := by
  unfold execLoopRequest at e
  injection e with e
  subst e
  try dsimp only
  repeat' first | with_reducible assumption | (intro _; try dsimp only) | with_reducible apply sendReq_kept hadcs | with_reducible apply setLoop_kept hsc | with_reducible apply foldl_kept | with_reducible apply ite_kept | (fail_if_no_progress (with_reducible refine mk_kept ?_)) | split

theorem freshLoop_kept (hregs : p ≠ .regs) {x1 x2 x3 s} (k : Kept p b s) :
    Kept p b (freshLoop x1 x2 x3 s) := by
  unfold freshLoop
  try dsimp only
  repeat' first | with_reducible assumption | (intro _; try dsimp only) | with_reducible apply fsets_kept hregs | with_reducible apply foldl_kept | with_reducible apply ite_kept | (fail_if_no_progress (with_reducible refine mk_kept ?_)) | split

theorem issue_kept (hsc : p ≠ .sc) {x1 x2 s} (k : Kept p b s) :
    Kept p b (issue x1 x2 s) := by
  unfold issue
  try dsimp only
  repeat' first | with_reducible assumption | (intro _; try dsimp only) | with_reducible apply setLoop_kept hsc | with_reducible apply foldl_kept | with_reducible apply ite_kept | (fail_if_no_progress (with_reducible refine mk_kept ?_)) | split

theorem dropScWrites_kept (hstartup : p ≠ .startup) (hsc : p ≠ .sc) {x1 s} (k : Kept p b s) :
    Kept p b (dropScWrites x1 s) := by
  unfold dropScWrites
  try dsimp only
  repeat' first | with_reducible assumption | (intro _; try dsimp only) | with_reducible apply dropWrite_kept hstartup | with_reducible apply setAxis_kept hsc | with_reducible apply setLoop_kept hsc | with_reducible apply forUp_kept | with_reducible apply foldl_kept | with_reducible apply ite_kept | (fail_if_no_progress (with_reducible refine mk_kept ?_)) | split

theorem showWait_kept (hregs : p ≠ .regs) {x1 s} (k : Kept p b s) :
    Kept p b (showWait x1 s) := by
  unfold showWait
  try dsimp only
  repeat' first | with_reducible assumption | (intro _; try dsimp only) | with_reducible apply fset_kept hregs | with_reducible apply foldl_kept | with_reducible apply ite_kept | (fail_if_no_progress (with_reducible refine mk_kept ?_)) | split

theorem scanFault_kept (hregs : p ≠ .regs) (hmgmt : p ≠ .mgmt) (hsc : p ≠ .sc) {x1 x2 s} (k : Kept p b s) :
    Kept p b (scanFault x1 x2 s) := by
  unfold scanFault
  try dsimp only
  repeat' first | with_reducible assumption | (intro _; try dsimp only) | with_reducible apply fset_kept hregs | with_reducible apply flagIf_kept hregs hmgmt | with_reducible apply foldl_kept | with_reducible apply ite_kept | (fail_if_no_progress (with_reducible refine mk_kept ?_)) | split

theorem freshAxis_kept (hregs : p ≠ .regs) (hmgmt : p ≠ .mgmt) (hsc : p ≠ .sc) {x1 s} (k : Kept p b s) :
    Kept p b (freshAxis x1 s) := by
  unfold freshAxis
  try dsimp only
  repeat' first | with_reducible assumption | (intro _; try dsimp only) | with_reducible apply setAxis_kept hsc | with_reducible apply showWait_kept hregs | with_reducible apply scanFault_kept hregs hmgmt hsc | with_reducible apply fsets_kept hregs | with_reducible apply foldl_kept | with_reducible apply ite_kept | (fail_if_no_progress (with_reducible refine mk_kept ?_)) | split

theorem deactivate_kept (hregs : p ≠ .regs) (hmgmt : p ≠ .mgmt) (hsc : p ≠ .sc) {x1 x2 s} (k : Kept p b s) :
    Kept p b (deactivate x1 x2 s) := by
  unfold deactivate
  try dsimp only
  repeat' first | with_reducible assumption | (intro _; try dsimp only) | with_reducible apply freshLoop_kept hregs | with_reducible apply freshAxis_kept hregs hmgmt hsc | with_reducible apply setLoop_kept hsc | with_reducible apply foldl_kept | with_reducible apply ite_kept | (fail_if_no_progress (with_reducible refine mk_kept ?_)) | split

theorem startLoop_kept (hregs : p ≠ .regs) (hmgmt : p ≠ .mgmt) (hsc : p ≠ .sc) {x1 x2 s} (k : Kept p b s) :
    Kept p b (startLoop x1 x2 s) := by
  unfold startLoop
  try dsimp only
  repeat' first | with_reducible assumption | (intro _; try dsimp only) | with_reducible apply freshLoop_kept hregs | with_reducible apply setLoop_kept hsc | with_reducible apply freshAxis_kept hregs hmgmt hsc | with_reducible apply foldl_kept | with_reducible apply ite_kept | (fail_if_no_progress (with_reducible refine mk_kept ?_)) | split

theorem excitationDue_kept (hregs : p ≠ .regs) (hadcs : p ≠ .adcs) (hsc : p ≠ .sc) {x1 s} (k : Kept p b s) :
    Kept p b (excitationDue x1 s) := by
  unfold excitationDue
  try dsimp only
  repeat' first | with_reducible assumption | (intro _; try dsimp only) | with_reducible apply setAxis_kept hsc | with_reducible apply applyExcitation_kept hregs hadcs hsc | with_reducible apply foldl_kept | with_reducible apply ite_kept | (fail_if_no_progress (with_reducible refine mk_kept ?_)) | split

theorem takeSc_kept (hregs : p ≠ .regs) (hmgmt : p ≠ .mgmt) (hstartup : p ≠ .startup) (hcal : p ≠ .cal) (hadcs : p ≠ .adcs) (hsc : p ≠ .sc) {x1 s} (k : Kept p b s) :
    Kept p b (takeSc x1 s) := by
  unfold takeSc
  try dsimp only
  repeat' first | with_reducible assumption | (intro _; try dsimp only) | with_reducible apply dropScWrites_kept hstartup hsc | with_reducible apply installSc_kept hcal | with_reducible apply fset_kept hregs | with_reducible apply deactivate_kept hregs hmgmt hsc | with_reducible apply startLoop_kept hregs hmgmt hsc | with_reducible apply excitationDue_kept hregs hadcs hsc | with_reducible apply forUp_kept | with_reducible apply foldl_kept | with_reducible apply ite_kept | (fail_if_no_progress (with_reducible refine mk_kept ?_)) | split

theorem issueAll_kept (hsc : p ≠ .sc) {x1 s} (k : Kept p b s) :
    Kept p b (issueAll x1 s) := by
  induction x1 generalizing s with
  | zero => exact k
  | succ n ih =>
    unfold issueAll
    split
    · exact ih (issue_kept hsc k)
    · exact k

theorem engineRun_kept (hsc : p ≠ .sc) {s} (k : Kept p b s) :
    Kept p b (engineRun s) := by
  unfold engineRun
  try dsimp only
  repeat' first | with_reducible assumption | (intro _; try dsimp only) | with_reducible apply issueAll_kept hsc | with_reducible apply foldl_kept | with_reducible apply ite_kept | (fail_if_no_progress (with_reducible refine mk_kept ?_)) | split

theorem takeIssue_kept (hsc : p ≠ .sc) {s} (k : Kept p b s) :
    Kept p b (takeIssue s) := by
  unfold takeIssue
  try dsimp only
  repeat' first | with_reducible assumption | (intro _; try dsimp only) | with_reducible apply foldl_kept | with_reducible apply ite_kept | (fail_if_no_progress (with_reducible refine mk_kept ?_)) | split

theorem readBiasTemp_kept (hregs : p ≠ .regs) (hmgmt : p ≠ .mgmt) (hsc : p ≠ .sc) {x1 x2 s} (k : Kept p b s) :
    Kept p b (readBiasTemp x1 x2 s) := by
  unfold readBiasTemp
  try dsimp only
  repeat' first | with_reducible assumption | (intro _; try dsimp only) | with_reducible apply flag_kept hregs hmgmt | with_reducible apply setLoop_kept hsc | with_reducible apply foldl_kept | with_reducible apply ite_kept | (fail_if_no_progress (with_reducible refine mk_kept ?_)) | split

theorem noteDelay_kept (hregs : p ≠ .regs) (hsc : p ≠ .sc) {x1 x2 s} (k : Kept p b s) :
    Kept p b (noteDelay x1 x2 s) := by
  unfold noteDelay
  try dsimp only
  repeat' first | with_reducible assumption | (intro _; try dsimp only) | with_reducible apply fsets_kept hregs | with_reducible apply setLoop_kept hsc | with_reducible apply foldl_kept | with_reducible apply ite_kept | (fail_if_no_progress (with_reducible refine mk_kept ?_)) | split

theorem emitOutput_kept (hregs : p ≠ .regs) (hsc : p ≠ .sc) (hfresh : p ≠ .fresh) {x1 x2 x3 x4 s} (k : Kept p b s) :
    Kept p b (emitOutput x1 x2 x3 x4 s) := by
  unfold emitOutput
  try dsimp only
  repeat' first | with_reducible assumption | (intro _; try dsimp only) | with_reducible apply setReg_kept hregs | with_reducible apply setAxis_kept hsc | with_reducible apply noteDelay_kept hregs hsc | with_reducible apply drawFree_kept hfresh | with_reducible apply foldl_kept | with_reducible apply ite_kept | (fail_if_no_progress (with_reducible refine mk_kept ?_)) | split

theorem enterHold_kept (hregs : p ≠ .regs) (hmgmt : p ≠ .mgmt) (hsc : p ≠ .sc) {x1 x2 s} (k : Kept p b s) :
    Kept p b (enterHold x1 x2 s) := by
  unfold enterHold
  try dsimp only
  repeat' first | with_reducible assumption | (intro _; try dsimp only) | with_reducible apply flagIf_kept hregs hmgmt | with_reducible apply setLoopState_kept hregs | with_reducible apply flag_kept hregs hmgmt | with_reducible apply scanFault_kept hregs hmgmt hsc | with_reducible apply foldl_kept | with_reducible apply ite_kept | (fail_if_no_progress (with_reducible refine mk_kept ?_)) | split

theorem evaluate_kept (hregs : p ≠ .regs) (hmgmt : p ≠ .mgmt) (hsc : p ≠ .sc) (hfresh : p ≠ .fresh) {x1 x2 x3 x4 s} (k : Kept p b s) :
    Kept p b (evaluate x1 x2 x3 x4 s) := by
  unfold evaluate
  try dsimp only
  repeat' first | with_reducible assumption | (intro _; try dsimp only) | with_reducible apply readBiasTemp_kept hregs hmgmt hsc | with_reducible apply fsets_kept hregs | with_reducible apply setLoop_kept hsc | with_reducible apply flagIf_kept hregs hmgmt | with_reducible apply setReg_kept hregs | with_reducible apply emitOutput_kept hregs hsc hfresh | with_reducible apply enterHold_kept hregs hmgmt hsc | with_reducible apply foldl_kept | with_reducible apply ite_kept | (fail_if_no_progress (with_reducible refine mk_kept ?_)) | split

theorem execSettleHoldEvaluation_kept (hregs : p ≠ .regs) (hmgmt : p ≠ .mgmt) (hsc : p ≠ .sc) (hfresh : p ≠ .fresh) {x1 s t} (k : Kept p b s) (e : execSettleHoldEvaluation x1 s = .next t) :
    Kept p b t := by
  unfold execSettleHoldEvaluation at e
  injection e with e
  subst e
  try dsimp only
  repeat' first | with_reducible assumption | (intro _; try dsimp only) | with_reducible apply engineRun_kept hsc | with_reducible apply takeIssue_kept hsc | with_reducible apply flag_kept hregs hmgmt | with_reducible apply evaluate_kept hregs hmgmt hsc hfresh | with_reducible apply foldl_kept | with_reducible apply ite_kept | (fail_if_no_progress (with_reducible refine mk_kept ?_)) | split

theorem startFed_kept (hregs : p ≠ .regs) (hmgmt : p ≠ .mgmt) (hsc : p ≠ .sc) {x1 s} (k : Kept p b s) :
    Kept p b (startFed x1 s) := by
  unfold startFed
  try dsimp only
  repeat' first | with_reducible assumption | (intro _; try dsimp only) | with_reducible apply startLoop_kept hregs hmgmt hsc | with_reducible apply forUp_kept | with_reducible apply foldl_kept | with_reducible apply ite_kept | (fail_if_no_progress (with_reducible refine mk_kept ?_)) | split

theorem execExcCurrentLimit_kept (hregs : p ≠ .regs) (hmgmt : p ≠ .mgmt) (hadcs : p ≠ .adcs) (hsc : p ≠ .sc) {x1 s t} (k : Kept p b s) (e : execExcCurrentLimit x1 s = .next t) :
    Kept p b t := by
  unfold execExcCurrentLimit at e
  injection e with e
  subst e
  try dsimp only
  repeat' first | with_reducible assumption | (intro _; try dsimp only) | with_reducible apply flag_kept hregs hmgmt | with_reducible apply setAxis_kept hsc | with_reducible apply reportExcitation_kept hadcs | with_reducible apply fset_kept hregs | with_reducible apply foldl_kept | with_reducible apply ite_kept | (fail_if_no_progress (with_reducible refine mk_kept ?_)) | split

theorem reverse_kept (hregs : p ≠ .regs) (hadcs : p ≠ .adcs) (hsc : p ≠ .sc) {x1 x2 s} (k : Kept p b s) :
    Kept p b (reverse x1 x2 s) := by
  unfold reverse
  try dsimp only
  repeat' first | with_reducible assumption | (intro _; try dsimp only) | with_reducible apply setAxis_kept hsc | with_reducible apply reportExcitation_kept hadcs | with_reducible apply fset_kept hregs | with_reducible apply foldl_kept | with_reducible apply ite_kept | (fail_if_no_progress (with_reducible refine mk_kept ?_)) | split

theorem execChopReversal_kept (hregs : p ≠ .regs) (hadcs : p ≠ .adcs) (hsc : p ≠ .sc) {x1 s t} (k : Kept p b s) (e : execChopReversal x1 s = .next t) :
    Kept p b t := by
  unfold execChopReversal at e
  injection e with e
  subst e
  try dsimp only
  repeat' first | with_reducible assumption | (intro _; try dsimp only) | with_reducible apply reverse_kept hregs hadcs hsc | with_reducible apply foldl_kept | with_reducible apply ite_kept | (fail_if_no_progress (with_reducible refine mk_kept ?_)) | split

theorem loopRearm_kept (hregs : p ≠ .regs) (hmgmt : p ≠ .mgmt) (hsc : p ≠ .sc) {x1 s} (k : Kept p b s) :
    Kept p b (loopRearm x1 s) := by
  unfold loopRearm
  try dsimp only
  repeat' first | with_reducible assumption | (intro _; try dsimp only) | with_reducible apply setLoopState_kept hregs | with_reducible apply setLoop_kept hsc | with_reducible apply scanFault_kept hregs hmgmt hsc | with_reducible apply foldl_kept | with_reducible apply ite_kept | (fail_if_no_progress (with_reducible refine mk_kept ?_)) | split

theorem execLoopRearm_kept (hregs : p ≠ .regs) (hmgmt : p ≠ .mgmt) (hsc : p ≠ .sc) {x1 x2 s t} (k : Kept p b s) (e : execLoopRearm x1 x2 s = .next t) :
    Kept p b t := by
  unfold execLoopRearm at e
  injection e with e
  subst e
  try dsimp only
  repeat' first | with_reducible assumption | (intro _; try dsimp only) | with_reducible apply hostWrite_kept hregs hmgmt | with_reducible apply loopRearm_kept hregs hmgmt hsc | with_reducible apply foldl_kept | with_reducible apply ite_kept | (fail_if_no_progress (with_reducible refine mk_kept ?_)) | split

theorem ampWrite_kept (hregs : p ≠ .regs) {x1 x2 s} (k : Kept p b s) :
    Kept p b (ampWrite x1 x2 s) := by
  unfold ampWrite
  try dsimp only
  repeat' first | with_reducible assumption | (intro _; try dsimp only) | with_reducible apply setReg_kept hregs | with_reducible apply foldl_kept | with_reducible apply ite_kept | (fail_if_no_progress (with_reducible refine mk_kept ?_)) | split

theorem sendDrive_kept (hsc : p ≠ .sc) {x1 x2 x3 x4 s} (k : Kept p b s) :
    Kept p b (sendDrive x1 x2 x3 x4 s) := by
  unfold sendDrive
  try dsimp only
  repeat' first | with_reducible assumption | (intro _; try dsimp only) | with_reducible apply setAxis_kept hsc | with_reducible apply foldl_kept | with_reducible apply ite_kept | (fail_if_no_progress (with_reducible refine mk_kept ?_)) | split

theorem execKeepalive_kept (hsc : p ≠ .sc) {x1 s t} (k : Kept p b s) (e : execKeepalive x1 s = .next t) :
    Kept p b t := by
  unfold execKeepalive at e
  injection e with e
  subst e
  try dsimp only
  repeat' first | with_reducible assumption | (intro _; try dsimp only) | with_reducible apply sendDrive_kept hsc | with_reducible apply foldl_kept | with_reducible apply ite_kept | (fail_if_no_progress (with_reducible refine mk_kept ?_)) | split

theorem pendSample_kept (hregs : p ≠ .regs) (hmgmt : p ≠ .mgmt) (hsc : p ≠ .sc) {x1 x2 x3 x4 s} (k : Kept p b s) :
    Kept p b (pendSample x1 x2 x3 x4 s) := by
  unfold pendSample
  try dsimp only
  repeat' first | with_reducible assumption | (intro _; try dsimp only) | with_reducible apply engineRun_kept hsc | with_reducible apply setLoop_kept hsc | with_reducible apply flag_kept hregs hmgmt | with_reducible apply bumpOvf_kept hregs hmgmt | with_reducible apply foldl_kept | with_reducible apply ite_kept | (fail_if_no_progress (with_reducible refine mk_kept ?_)) | split

theorem noteLock_kept (hregs : p ≠ .regs) (hmgmt : p ≠ .mgmt) (hsc : p ≠ .sc) {x1 x2 s} (k : Kept p b s) :
    Kept p b (noteLock x1 x2 s) := by
  unfold noteLock
  try dsimp only
  repeat' first | with_reducible assumption | (intro _; try dsimp only) | with_reducible apply setLoop_kept hsc | with_reducible apply fset_kept hregs | with_reducible apply flag_kept hregs hmgmt | with_reducible apply foldl_kept | with_reducible apply ite_kept | (fail_if_no_progress (with_reducible refine mk_kept ?_)) | split

theorem crossing_kept (hregs : p ≠ .regs) (hmgmt : p ≠ .mgmt) (hsc : p ≠ .sc) {x1 x2 x3 x4 s} (k : Kept p b s) :
    Kept p b (crossing x1 x2 x3 x4 s) := by
  unfold crossing
  try dsimp only
  repeat' first | with_reducible assumption | (intro _; try dsimp only) | with_reducible apply setReg_kept hregs | with_reducible apply pendSample_kept hregs hmgmt hsc | with_reducible apply noteLock_kept hregs hmgmt hsc | with_reducible apply foldl_kept | with_reducible apply ite_kept | (fail_if_no_progress (with_reducible refine mk_kept ?_)) | split

theorem resonantOutput_kept (hregs : p ≠ .regs) (hmgmt : p ≠ .mgmt) (hsc : p ≠ .sc) {x1 x2 x3 x4 s} (k : Kept p b s) :
    Kept p b (resonantOutput x1 x2 x3 x4 s) := by
  unfold resonantOutput
  try dsimp only
  repeat' first | with_reducible assumption | (intro _; try dsimp only) | with_reducible apply setLoop_kept hsc | with_reducible apply fset_kept hregs | with_reducible apply crossing_kept hregs hmgmt hsc | with_reducible apply foldl_kept | with_reducible apply ite_kept | (fail_if_no_progress (with_reducible refine mk_kept ?_)) | split

theorem setpointWrite_kept (hregs : p ≠ .regs) (hsc : p ≠ .sc) {x1 x2 s} (k : Kept p b s) :
    Kept p b (setpointWrite x1 x2 s) := by
  unfold setpointWrite
  try dsimp only
  repeat' first | with_reducible assumption | (intro _; try dsimp only) | with_reducible apply setReg_kept hregs | with_reducible apply setLoop_kept hsc | with_reducible apply foldl_kept | with_reducible apply ite_kept | (fail_if_no_progress (with_reducible refine mk_kept ?_)) | split

theorem execSetpointWrite_kept (hregs : p ≠ .regs) (hmgmt : p ≠ .mgmt) (hsc : p ≠ .sc) {x1 x2 x3 s t} (k : Kept p b s) (e : execSetpointWrite x1 x2 x3 s = .next t) :
    Kept p b t := by
  unfold execSetpointWrite at e
  injection e with e
  subst e
  try dsimp only
  repeat' first | with_reducible assumption | (intro _; try dsimp only) | with_reducible apply hostWrite_kept hregs hmgmt | with_reducible apply setpointWrite_kept hregs hsc | with_reducible apply foldl_kept | with_reducible apply ite_kept | (fail_if_no_progress (with_reducible refine mk_kept ?_)) | split

theorem oscStep_kept (hsc : p ≠ .sc) (hfresh : p ≠ .fresh) {x1 x2 x3 x4 s} (k : Kept p b s) :
    Kept p b (oscStep x1 x2 x3 x4 s) := by
  unfold oscStep
  try dsimp only
  repeat' first | with_reducible assumption | (intro _; try dsimp only) | with_reducible apply setAxis_kept hsc | with_reducible apply drawFree_kept hfresh | with_reducible apply foldl_kept | with_reducible apply ite_kept | (fail_if_no_progress (with_reducible refine mk_kept ?_)) | split

theorem applySc_kept (hregs : p ≠ .regs) (hcut : p ≠ .cut) (hmgmt : p ≠ .mgmt) (hstartup : p ≠ .startup) (hcal : p ≠ .cal) (hadcs : p ≠ .adcs) (hsc : p ≠ .sc) {x1 s} (k : Kept p b s) :
    Kept p b (applySc x1 s) := by
  unfold applySc
  try dsimp only
  repeat' first | with_reducible assumption | (intro _; try dsimp only) | with_reducible apply takeSc_kept hregs hmgmt hstartup hcal hadcs hsc | with_reducible apply markApplied_kept hcut | with_reducible apply foldl_kept | with_reducible apply ite_kept | (fail_if_no_progress (with_reducible refine mk_kept ?_)) | split

theorem execExcitationReversalSensed_kept (hregs : p ≠ .regs) (hadcs : p ≠ .adcs) (hsc : p ≠ .sc) {x1 s t} (k : Kept p b s) (e : execExcitationReversalSensed x1 s = .next t) :
    Kept p b t := by
  unfold execExcitationReversalSensed at e
  injection e with e
  subst e
  try dsimp only
  repeat' first | with_reducible assumption | (intro _; try dsimp only) | with_reducible apply reverse_kept hregs hadcs hsc | with_reducible apply foldl_kept | with_reducible apply ite_kept | (fail_if_no_progress (with_reducible refine mk_kept ?_)) | split

theorem execDriveWord_kept (hregs : p ≠ .regs) (hsc : p ≠ .sc) (hfresh : p ≠ .fresh) {x1 s t} (k : Kept p b s) (e : execDriveWord x1 s = .next t) :
    Kept p b t := by
  unfold execDriveWord at e
  injection e with e
  subst e
  try dsimp only
  repeat' first | with_reducible assumption | (intro _; try dsimp only) | with_reducible apply sendDrive_kept hsc | with_reducible apply setAxis_kept hsc | with_reducible apply showWait_kept hregs | with_reducible apply oscStep_kept hsc hfresh | with_reducible apply noteDelay_kept hregs hsc | with_reducible apply foldl_kept | with_reducible apply ite_kept | (fail_if_no_progress (with_reducible refine mk_kept ?_)) | split

theorem excWrite_kept (hregs : p ≠ .regs) (hadcs : p ≠ .adcs) (hsc : p ≠ .sc) {x1 x2 s} (k : Kept p b s) :
    Kept p b (excWrite x1 x2 s) := by
  unfold excWrite
  try dsimp only
  repeat' first | with_reducible assumption | (intro _; try dsimp only) | with_reducible apply setReg_kept hregs | with_reducible apply setAxis_kept hsc | with_reducible apply excitationDue_kept hregs hadcs hsc | with_reducible apply foldl_kept | with_reducible apply ite_kept | (fail_if_no_progress (with_reducible refine mk_kept ?_)) | split

theorem execLoopSample_kept (hregs : p ≠ .regs) (hmgmt : p ≠ .mgmt) (hsc : p ≠ .sc) {x1 s t} (k : Kept p b s) (e : execLoopSample x1 s = .next t) :
    Kept p b t := by
  unfold execLoopSample at e
  injection e with e
  subst e
  try dsimp only
  repeat' first | with_reducible assumption | (intro _; try dsimp only) | with_reducible apply setLoop_kept hsc | with_reducible apply setLoopState_kept hregs | with_reducible apply pendSample_kept hregs hmgmt hsc | with_reducible apply resonantOutput_kept hregs hmgmt hsc | with_reducible apply foldl_kept | with_reducible apply ite_kept | (fail_if_no_progress (with_reducible refine mk_kept ?_)) | split

theorem changeSet_kept (hregs : p ≠ .regs) (hmgmt : p ≠ .mgmt) (hsc : p ≠ .sc) {x1 x2 s} (k : Kept p b s) :
    Kept p b (changeSet x1 x2 s) := by
  unfold changeSet
  try dsimp only
  repeat' first | with_reducible assumption | (intro _; try dsimp only) | with_reducible apply freshLoop_kept hregs | with_reducible apply setLoop_kept hsc | with_reducible apply freshAxis_kept hregs hmgmt hsc | with_reducible apply foldl_kept | with_reducible apply ite_kept | (fail_if_no_progress (with_reducible refine mk_kept ?_)) | split

theorem execLoopEvaluation_kept (hregs : p ≠ .regs) (htime : p ≠ .time) (hcut : p ≠ .cut) (hmgmt : p ≠ .mgmt) (hstartup : p ≠ .startup) (hcal : p ≠ .cal) (hadcs : p ≠ .adcs) (hsc : p ≠ .sc) (hfresh : p ≠ .fresh) {x1 s t} (k : Kept p b s) (e : execLoopEvaluation x1 s = .next t) :
    Kept p b t := by
  unfold execLoopEvaluation at e
  injection e with e
  subst e
  extract_lets l e0
  have k0 : Kept p b e0 := engineRun_kept hsc k
  clear_value e0
  split
  · exact k0
  · extract_lets s0 s1 s2 y due y2 s3 t v bad still
    have k1 : Kept p b s0 := stampChanges_kept htime (takeIssue_kept hsc k0)
    have k2 : Kept p b s1 := ite_kept (applySc_kept hregs hcut hmgmt hstartup hcal hadcs hsc k1) k1
    have k3 : Kept p b s2 := ite_kept (changeSet_kept hregs hmgmt hsc k2) k2
    have k4 : Kept p b s3 := setReg_kept hregs (setLoop_kept hsc k3)
    clear_value s3 y2 bad still
    split
    · exact k4
    · exact setReg_kept hregs k4
    · repeat' first | with_reducible assumption | with_reducible apply enterHold_kept hregs hmgmt hsc | with_reducible apply setReg_kept hregs | with_reducible apply setLoopState_kept hregs | with_reducible apply setLoop_kept hsc | with_reducible apply ite_kept
    · repeat' first | with_reducible assumption | with_reducible apply enterHold_kept hregs hmgmt hsc | with_reducible apply evaluate_kept hregs hmgmt hsc hfresh | with_reducible apply setLoopState_kept hregs | with_reducible apply ite_kept

theorem execLoopTimeout_kept (hregs : p ≠ .regs) (hmgmt : p ≠ .mgmt) (hsc : p ≠ .sc) {x1 s t} (k : Kept p b s) (e : execLoopTimeout x1 s = .next t) :
    Kept p b t := by
  unfold execLoopTimeout at e
  injection e with e
  subst e
  try dsimp only
  repeat' first | with_reducible assumption | (intro _; try dsimp only) | with_reducible apply flagIf_kept hregs hmgmt | with_reducible apply enterHold_kept hregs hmgmt hsc | with_reducible apply foldl_kept | with_reducible apply ite_kept | (fail_if_no_progress (with_reducible refine mk_kept ?_)) | split

theorem execEngineLoadUpdate_kept (hregs : p ≠ .regs) (hmgmt : p ≠ .mgmt) (hsc : p ≠ .sc) {s t} (k : Kept p b s) (e : execEngineLoadUpdate s = .next t) :
    Kept p b t := by
  unfold execEngineLoadUpdate at e
  injection e with e
  subst e
  try dsimp only
  repeat' first | with_reducible assumption | (intro _; try dsimp only) | with_reducible apply fset_kept hregs | with_reducible apply flagIf_kept hregs hmgmt | with_reducible apply foldl_kept | with_reducible apply ite_kept | (fail_if_no_progress (with_reducible refine mk_kept ?_)) | split

theorem execExcWrite_kept (hregs : p ≠ .regs) (hmgmt : p ≠ .mgmt) (hadcs : p ≠ .adcs) (hsc : p ≠ .sc) {x1 x2 x3 s t} (k : Kept p b s) (e : execExcWrite x1 x2 x3 s = .next t) :
    Kept p b t := by
  unfold execExcWrite at e
  injection e with e
  subst e
  try dsimp only
  repeat' first | with_reducible assumption | (intro _; try dsimp only) | with_reducible apply hostWrite_kept hregs hmgmt | with_reducible apply excWrite_kept hregs hadcs hsc | with_reducible apply foldl_kept | with_reducible apply ite_kept | (fail_if_no_progress (with_reducible refine mk_kept ?_)) | split

theorem clearDelay_kept (hregs : p ≠ .regs) (hsc : p ≠ .sc) {x1 s} (k : Kept p b s) :
    Kept p b (clearDelay x1 s) := by
  unfold clearDelay
  try dsimp only
  repeat' first | with_reducible assumption | (intro _; try dsimp only) | with_reducible apply fsets_kept hregs | with_reducible apply setLoop_kept hsc | with_reducible apply foldl_kept | with_reducible apply ite_kept | (fail_if_no_progress (with_reducible refine mk_kept ?_)) | split

theorem execClearDelay_kept (hregs : p ≠ .regs) (hmgmt : p ≠ .mgmt) (hsc : p ≠ .sc) {x1 x2 s t} (k : Kept p b s) (e : execClearDelay x1 x2 s = .next t) :
    Kept p b t := by
  unfold execClearDelay at e
  injection e with e
  subst e
  try dsimp only
  repeat' first | with_reducible assumption | (intro _; try dsimp only) | with_reducible apply hostWrite_kept hregs hmgmt | with_reducible apply clearDelay_kept hregs hsc | with_reducible apply foldl_kept | with_reducible apply ite_kept | (fail_if_no_progress (with_reducible refine mk_kept ?_)) | split

theorem execConverterRelease_kept (hmode : p ≠ .mode) (hregs : p ≠ .regs) (htime : p ≠ .time) (hmgmt : p ≠ .mgmt) (hstartup : p ≠ .startup) (hcal : p ≠ .cal) (hrx : p ≠ .rx) (htx : p ≠ .tx) (hadcs : p ≠ .adcs) (hsc : p ≠ .sc) (hpairSt : p ≠ .pairSt) (hfw : p ≠ .fw) {x1 s t} (k : Kept p b s) (e : execConverterRelease x1 s = .next t) :
    Kept p b t := by
  unfold execConverterRelease at e
  injection e with e
  subst e
  try dsimp only
  repeat' first | with_reducible assumption | (intro _; try dsimp only) | with_reducible apply startFed_kept hregs hmgmt hsc | with_reducible apply adcBoundary_kept hregs hmgmt hrx hadcs | with_reducible apply setAdc_kept hadcs | with_reducible apply applyExcitation_kept hregs hadcs hsc | with_reducible apply converterFault_kept hmode hregs htime hmgmt hstartup hcal hrx htx hsc hpairSt hfw | with_reducible apply forUp_kept | with_reducible apply foldl_kept | with_reducible apply ite_kept | (fail_if_no_progress (with_reducible refine mk_kept ?_)) | split

theorem loopCommand_kept (hregs : p ≠ .regs) (hmgmt : p ≠ .mgmt) (hsc : p ≠ .sc) {x1 x2 s} (k : Kept p b s) :
    Kept p b (loopCommand x1 x2 s) := by
  unfold loopCommand
  try dsimp only
  repeat' first | with_reducible assumption | (intro _; try dsimp only) | with_reducible apply loopRearm_kept hregs hmgmt hsc | with_reducible apply clearDelay_kept hregs hsc | with_reducible apply foldl_kept | with_reducible apply ite_kept | (fail_if_no_progress (with_reducible refine mk_kept ?_)) | split

theorem execAmplitudeWrite_kept (hregs : p ≠ .regs) (hmgmt : p ≠ .mgmt) {x1 x2 x3 s t} (k : Kept p b s) (e : execAmplitudeWrite x1 x2 x3 s = .next t) :
    Kept p b t := by
  unfold execAmplitudeWrite at e
  injection e with e
  subst e
  try dsimp only
  repeat' first | with_reducible assumption | (intro _; try dsimp only) | with_reducible apply hostWriteIf_kept hregs hmgmt | with_reducible apply ampWrite_kept hregs | with_reducible apply foldl_kept | with_reducible apply ite_kept | (fail_if_no_progress (with_reducible refine mk_kept ?_)) | split

theorem dropWaiting_kept (hstartup : p ≠ .startup) (hrx : p ≠ .rx) {x1 x2 s} (k : Kept p b s) :
    Kept p b (dropWaiting x1 x2 s) := by
  unfold dropWaiting
  try dsimp only
  repeat' first | with_reducible assumption | (intro _; try dsimp only) | with_reducible apply dropWrite_kept hstartup | with_reducible apply setCell_kept hrx | with_reducible apply foldl_kept | with_reducible apply ite_kept | (fail_if_no_progress (with_reducible refine mk_kept ?_)) | split

theorem applyCell_kept (hregs : p ≠ .regs) (hrx : p ≠ .rx) {x1 x2 x3 x4 s} (k : Kept p b s) :
    Kept p b (applyCell x1 x2 x3 x4 s) := by
  unfold applyCell
  try dsimp only
  repeat' first | with_reducible assumption | (intro _; try dsimp only) | with_reducible apply fset_kept hregs | with_reducible apply setCell_kept hrx | with_reducible apply foldl_kept | with_reducible apply ite_kept | (fail_if_no_progress (with_reducible refine mk_kept ?_)) | split

theorem settleBlock_kept (hregs : p ≠ .regs) (hrx : p ≠ .rx) (htx : p ≠ .tx) {x1 x2 x3 s} (k : Kept p b s) :
    Kept p b (settleBlock x1 x2 x3 s) := by
  unfold settleBlock
  try dsimp only
  repeat' first | with_reducible assumption | (intro _; try dsimp only) | with_reducible apply setBlk_kept hrx | with_reducible apply nextWindow_kept hrx htx | with_reducible apply fset_kept hregs | with_reducible apply showRing_kept hregs | with_reducible apply noteCheck_kept hrx | with_reducible apply foldl_kept | with_reducible apply ite_kept | (fail_if_no_progress (with_reducible refine mk_kept ?_)) | split

theorem applyRx_kept (hregs : p ≠ .regs) (hcut : p ≠ .cut) (hmgmt : p ≠ .mgmt) (hcal : p ≠ .cal) (hrx : p ≠ .rx) (htx : p ≠ .tx) {x1 x2 s} (k : Kept p b s) :
    Kept p b (applyRx x1 x2 s) := by
  unfold applyRx
  try dsimp only
  repeat' first | with_reducible assumption | (intro _; try dsimp only) | with_reducible apply markApplied_kept hcut | with_reducible apply fgAbandon_kept hregs hmgmt hcal hrx | with_reducible apply installBlock_kept hcal | with_reducible apply showSeq_kept hregs hmgmt | with_reducible apply applyCell_kept hregs hrx | with_reducible apply settleBlock_kept hregs hrx htx | with_reducible apply forUp_kept | with_reducible apply foldl_kept | with_reducible apply ite_kept | (fail_if_no_progress (with_reducible refine mk_kept ?_)) | split

theorem rtApply_kept (hregs : p ≠ .regs) (hrx : p ≠ .rx) {x1 x2 x3 s} (k : Kept p b s) :
    Kept p b (rtApply x1 x2 x3 s) := by
  unfold rtApply
  try dsimp only
  repeat' first | with_reducible assumption | (intro _; try dsimp only) | with_reducible apply setReg_kept hregs | with_reducible apply applyThresholdNow_kept hregs hrx | with_reducible apply foldl_kept | with_reducible apply ite_kept | (fail_if_no_progress (with_reducible refine mk_kept ?_)) | split

theorem rtDue_kept (hregs : p ≠ .regs) (hrx : p ≠ .rx) (hadcs : p ≠ .adcs) {x1 x2 s} (k : Kept p b s) :
    Kept p b (rtDue x1 x2 s) := by
  unfold rtDue
  try dsimp only
  repeat' first | with_reducible assumption | (intro _; try dsimp only) | with_reducible apply adcDue_kept hrx hadcs | with_reducible apply rtApply_kept hregs hrx | with_reducible apply foldl_kept | with_reducible apply ite_kept | (fail_if_no_progress (with_reducible refine mk_kept ?_)) | split

theorem rtBoundary_kept (hregs : p ≠ .regs) (hstartup : p ≠ .startup) (hrx : p ≠ .rx) (hadcs : p ≠ .adcs) {x1 x2 x3 s} (k : Kept p b s) :
    Kept p b (rtBoundary x1 x2 x3 s) := by
  unfold rtBoundary
  try dsimp only
  repeat' first | with_reducible assumption | (intro _; try dsimp only) | with_reducible apply rtDue_kept hregs hrx hadcs | with_reducible apply dropWrite_kept hstartup | with_reducible apply foldl_kept | with_reducible apply ite_kept | (fail_if_no_progress (with_reducible refine mk_kept ?_)) | split

theorem applyWaiting_kept (hregs : p ≠ .regs) (hstartup : p ≠ .startup) (hrx : p ≠ .rx) (hadcs : p ≠ .adcs) {x1 x2 s} (k : Kept p b s) :
    Kept p b (applyWaiting x1 x2 s) := by
  unfold applyWaiting
  try dsimp only
  repeat' first | with_reducible assumption | (intro _; try dsimp only) | with_reducible apply rtBoundary_kept hregs hstartup hrx hadcs | with_reducible apply setBlk_kept hrx | with_reducible apply fset_kept hregs | with_reducible apply dropWaiting_kept hstartup hrx | with_reducible apply setCell_kept hrx | with_reducible apply clearCounts_kept hregs | with_reducible apply applyThreshold_kept hregs hrx | with_reducible apply forUp_kept | with_reducible apply foldl_kept | with_reducible apply ite_kept | (fail_if_no_progress (with_reducible refine mk_kept ?_)) | split

theorem fgBoundary_kept (hregs : p ≠ .regs) (hcal : p ≠ .cal) (hrx : p ≠ .rx) {x1 x2 s} (k : Kept p b s) :
    Kept p b (fgBoundary x1 x2 s) := by
  unfold fgBoundary
  try dsimp only
  repeat' first | with_reducible assumption | (intro _; try dsimp only) | with_reducible apply fgAdvance_kept hregs hcal hrx | with_reducible apply setBlk_kept hrx | with_reducible apply foldl_kept | with_reducible apply ite_kept | (fail_if_no_progress (with_reducible refine mk_kept ?_)) | split

theorem showWins_kept (hregs : p ≠ .regs) {x1 x2 s} (k : Kept p b s) :
    Kept p b (showWins x1 x2 s) := by
  unfold showWins
  try dsimp only
  repeat' first | with_reducible assumption | (intro _; try dsimp only) | with_reducible apply fsets_kept hregs | with_reducible apply forUp_kept | with_reducible apply foldl_kept | with_reducible apply ite_kept | (fail_if_no_progress (with_reducible refine mk_kept ?_)) | split

theorem openBoundary_kept (hregs : p ≠ .regs) (htime : p ≠ .time) (hcut : p ≠ .cut) (hmgmt : p ≠ .mgmt) (hstartup : p ≠ .startup) (hcal : p ≠ .cal) (hrx : p ≠ .rx) (htx : p ≠ .tx) (hadcs : p ≠ .adcs) {x1 x2 s} (k : Kept p b s) :
    Kept p b (openBoundary x1 x2 s) := by
  unfold openBoundary
  try dsimp only
  repeat' first | with_reducible assumption | (intro _; try dsimp only) | with_reducible apply applyRx_kept hregs hcut hmgmt hcal hrx htx | with_reducible apply stampChanges_kept htime | with_reducible apply applyWaiting_kept hregs hstartup hrx hadcs | with_reducible apply fgBoundary_kept hregs hcal hrx | with_reducible apply setBlk_kept hrx | with_reducible apply fgLeft_kept hregs hcal hrx | with_reducible apply showWins_kept hregs | with_reducible apply foldl_kept | with_reducible apply ite_kept | (fail_if_no_progress (with_reducible refine mk_kept ?_)) | split

theorem execPixelBoundary_kept (hregs : p ≠ .regs) (htime : p ≠ .time) (hcut : p ≠ .cut) (hmgmt : p ≠ .mgmt) (hstartup : p ≠ .startup) (hcal : p ≠ .cal) (hrx : p ≠ .rx) (htx : p ≠ .tx) (hadcs : p ≠ .adcs) {x1 s t} (k : Kept p b s) (e : execPixelBoundary x1 s = .next t) :
    Kept p b t := by
  unfold execPixelBoundary at e
  injection e with e
  subst e
  try dsimp only
  repeat' first | with_reducible assumption | (intro _; try dsimp only) | with_reducible apply openBoundary_kept hregs htime hcut hmgmt hstartup hcal hrx htx hadcs | with_reducible apply setBlk_kept hrx | with_reducible apply foldl_kept | with_reducible apply ite_kept | (fail_if_no_progress (with_reducible refine mk_kept ?_)) | split

theorem rtWrite_kept (hregs : p ≠ .regs) (hstartup : p ≠ .startup) (hrx : p ≠ .rx) (hadcs : p ≠ .adcs) {x1 x2 s} (k : Kept p b s) :
    Kept p b (rtWrite x1 x2 s) := by
  unfold rtWrite
  try dsimp only
  repeat' first | with_reducible assumption | (intro _; try dsimp only) | with_reducible apply rtApply_kept hregs hrx | with_reducible apply rtBoundary_kept hregs hstartup hrx hadcs | with_reducible apply foldl_kept | with_reducible apply ite_kept | (fail_if_no_progress (with_reducible refine mk_kept ?_)) | split

end Sys2Proof.Machine
end

