-- ==== Sys2Proof/Laws/KeptLinks.lean ====
section
/-! SUPPORT. What each operation and command of the links leaves alone (see Sys2Proof/Laws/Kept.lean). -/
namespace Sys2Proof.Machine

set_option Elab.async false
set_option linter.unusedTactic false
set_option linter.unreachableTactic false

variable {p : Part} {b : State}

theorem laneClear_kept (hregs : p ≠ .regs) {x1 s} (k : Kept p b s) :
    Kept p b (laneClear x1 s) := by
  unfold laneClear
  try dsimp only
  repeat' first | with_reducible assumption | (intro _; try dsimp only) | with_reducible apply setReg_kept hregs | with_reducible apply foldl_kept | with_reducible apply ite_kept | (fail_if_no_progress (with_reducible refine mk_kept ?_)) | split

theorem restoreMarker_kept (hlk : p ≠ .lk) {x1 s} (k : Kept p b s) :
    Kept p b (restoreMarker x1 s) := by
  unfold restoreMarker
  try dsimp only
  repeat' first | with_reducible assumption | (intro _; try dsimp only) | with_reducible apply setDropAcc_kept hlk | with_reducible apply foldl_kept | with_reducible apply ite_kept | (fail_if_no_progress (with_reducible refine mk_kept ?_)) | split

theorem abandonSegment_kept (hregs : p ≠ .regs) (hmgmt : p ≠ .mgmt) (hlk : p ≠ .lk) (haq : p ≠ .aq) {x1 x2 s} (k : Kept p b s) :
    Kept p b (abandonSegment x1 x2 s) := by
  unfold abandonSegment
  try dsimp only
  repeat' first | with_reducible assumption | (intro _; try dsimp only) | with_reducible apply dropPacket_kept hregs hmgmt hlk | with_reducible apply handCapt_kept hregs hmgmt hlk haq | with_reducible apply foldl_kept | with_reducible apply ite_kept | (fail_if_no_progress (with_reducible refine mk_kept ?_)) | split

theorem giveUpPacket_kept (hregs : p ≠ .regs) (hmgmt : p ≠ .mgmt) (hlk : p ≠ .lk) (haq : p ≠ .aq) {x1 x2 s} (k : Kept p b s) :
    Kept p b (giveUpPacket x1 x2 s) := by
  unfold giveUpPacket
  try dsimp only
  repeat' first | with_reducible assumption | (intro _; try dsimp only) | with_reducible apply abandonSegment_kept hregs hmgmt hlk haq | with_reducible apply dropPacket_kept hregs hmgmt hlk | with_reducible apply foldl_kept | with_reducible apply ite_kept | (fail_if_no_progress (with_reducible refine mk_kept ?_)) | split

theorem moveTo_kept (hregs : p ≠ .regs) (hmgmt : p ≠ .mgmt) (hlk : p ≠ .lk) {x1 x2 s} (k : Kept p b s) :
    Kept p b (moveTo x1 x2 s) := by
  unfold moveTo
  try dsimp only
  repeat' first | with_reducible assumption | (intro _; try dsimp only) | with_reducible apply dropPacket_kept hregs hmgmt hlk | with_reducible apply queueOn_kept hregs hmgmt hlk | with_reducible apply foldl_kept | with_reducible apply ite_kept | (fail_if_no_progress (with_reducible refine mk_kept ?_)) | split

theorem displace_kept (hregs : p ≠ .regs) (hmgmt : p ≠ .mgmt) (hlk : p ≠ .lk) (haq : p ≠ .aq) {x1 x2 s} (k : Kept p b s) :
    Kept p b (displace x1 x2 s) := by
  unfold displace
  try dsimp only
  repeat' first | with_reducible assumption | (intro _; try dsimp only) | with_reducible apply giveUpPacket_kept hregs hmgmt hlk haq | with_reducible apply moveTo_kept hregs hmgmt hlk | with_reducible apply dropPacket_kept hregs hmgmt hlk | with_reducible apply foldl_kept | with_reducible apply ite_kept | (fail_if_no_progress (with_reducible refine mk_kept ?_)) | split

theorem flushLane_kept (hregs : p ≠ .regs) (hmgmt : p ≠ .mgmt) (hlk : p ≠ .lk) (haq : p ≠ .aq) {x1 s} (k : Kept p b s) :
    Kept p b (flushLane x1 s) := by
  unfold flushLane
  try dsimp only
  repeat' first | with_reducible assumption | (intro _; try dsimp only) | with_reducible apply setLane_kept hlk | with_reducible apply restoreMarker_kept hlk | with_reducible apply dropPacket_kept hregs hmgmt hlk | with_reducible apply displace_kept hregs hmgmt hlk haq | with_reducible apply foldl_kept | with_reducible apply ite_kept | (fail_if_no_progress (with_reducible refine mk_kept ?_)) | split

theorem moveLane_kept (hregs : p ≠ .regs) (hmgmt : p ≠ .mgmt) (hlk : p ≠ .lk) (haq : p ≠ .aq) {x1 x2 s} (k : Kept p b s) :
    Kept p b (moveLane x1 x2 s) := by
  unfold moveLane
  try dsimp only
  repeat' first | with_reducible assumption | (intro _; try dsimp only) | with_reducible apply flushLane_kept hregs hmgmt hlk haq | with_reducible apply setLaneState_kept hregs hlk | with_reducible apply foldl_kept | with_reducible apply ite_kept | (fail_if_no_progress (with_reducible refine mk_kept ?_)) | split

theorem enterVerify_kept (hregs : p ≠ .regs) (hmgmt : p ≠ .mgmt) (hlk : p ≠ .lk) (haq : p ≠ .aq) {x1 s} (k : Kept p b s) :
    Kept p b (enterVerify x1 s) := by
  unfold enterVerify
  try dsimp only
  repeat' first | with_reducible assumption | (intro _; try dsimp only) | with_reducible apply moveLane_kept hregs hmgmt hlk haq | with_reducible apply setLane_kept hlk | with_reducible apply foldl_kept | with_reducible apply ite_kept | (fail_if_no_progress (with_reducible refine mk_kept ?_)) | split

theorem leaveRetrain_kept (hregs : p ≠ .regs) (hmgmt : p ≠ .mgmt) (hlk : p ≠ .lk) (haq : p ≠ .aq) {x1 s} (k : Kept p b s) :
    Kept p b (leaveRetrain x1 s) := by
  unfold leaveRetrain
  try dsimp only
  repeat' first | with_reducible assumption | (intro _; try dsimp only) | with_reducible apply moveLane_kept hregs hmgmt hlk haq | with_reducible apply enterVerify_kept hregs hmgmt hlk haq | with_reducible apply foldl_kept | with_reducible apply ite_kept | (fail_if_no_progress (with_reducible refine mk_kept ?_)) | split

theorem sendEqDone_kept (hregs : p ≠ .regs) (hmgmt : p ≠ .mgmt) (hlk : p ≠ .lk) (haq : p ≠ .aq) {x1 s} (k : Kept p b s) :
    Kept p b (sendEqDone x1 s) := by
  unfold sendEqDone
  try dsimp only
  repeat' first | with_reducible assumption | (intro _; try dsimp only) | with_reducible apply setLane_kept hlk | with_reducible apply enterVerify_kept hregs hmgmt hlk haq | with_reducible apply foldl_kept | with_reducible apply ite_kept | (fail_if_no_progress (with_reducible refine mk_kept ?_)) | split

theorem laneCount_kept (hregs : p ≠ .regs) (hmgmt : p ≠ .mgmt) {x1 x2 x3 x4 s} (k : Kept p b s) :
    Kept p b (laneCount x1 x2 x3 x4 s) := by
  unfold laneCount
  try dsimp only
  repeat' first | with_reducible assumption | (intro _; try dsimp only) | with_reducible apply bumpOvf_kept hregs hmgmt | with_reducible apply foldl_kept | with_reducible apply ite_kept | (fail_if_no_progress (with_reducible refine mk_kept ?_)) | split

theorem tickLane_kept (hregs : p ≠ .regs) (hmgmt : p ≠ .mgmt) (hlk : p ≠ .lk) (haq : p ≠ .aq) {x1 s} (k : Kept p b s) :
    Kept p b (tickLane x1 s) := by
  unfold tickLane
  try dsimp only
  repeat' first | with_reducible assumption | (intro _; try dsimp only) | with_reducible apply leaveRetrain_kept hregs hmgmt hlk haq | with_reducible apply sendEqDone_kept hregs hmgmt hlk haq | with_reducible apply laneCount_kept hregs hmgmt | with_reducible apply foldl_kept | with_reducible apply ite_kept | (fail_if_no_progress (with_reducible refine mk_kept ?_)) | split

theorem tickLanes_kept (hregs : p ≠ .regs) (hmgmt : p ≠ .mgmt) (hlk : p ≠ .lk) (haq : p ≠ .aq) {s} (k : Kept p b s) :
    Kept p b (tickLanes s) := by
  unfold tickLanes
  try dsimp only
  repeat' first | with_reducible assumption | (intro _; try dsimp only) | with_reducible apply tickLane_kept hregs hmgmt hlk haq | with_reducible apply forUp_kept | with_reducible apply foldl_kept | with_reducible apply ite_kept | (fail_if_no_progress (with_reducible refine mk_kept ?_)) | split

theorem setRate_kept (hregs : p ≠ .regs) {x1 x2 s} (k : Kept p b s) :
    Kept p b (setRate x1 x2 s) := by
  unfold setRate
  try dsimp only
  repeat' first | with_reducible assumption | (intro _; try dsimp only) | with_reducible apply fset_kept hregs | with_reducible apply foldl_kept | with_reducible apply ite_kept | (fail_if_no_progress (with_reducible refine mk_kept ?_)) | split

theorem enterDetect_kept (hregs : p ≠ .regs) (hmgmt : p ≠ .mgmt) (hlk : p ≠ .lk) (haq : p ≠ .aq) {x1 s} (k : Kept p b s) :
    Kept p b (enterDetect x1 s) := by
  unfold enterDetect
  try dsimp only
  repeat' first | with_reducible assumption | (intro _; try dsimp only) | with_reducible apply setRate_kept hregs | with_reducible apply moveLane_kept hregs hmgmt hlk haq | with_reducible apply setLane_kept hlk | with_reducible apply foldl_kept | with_reducible apply ite_kept | (fail_if_no_progress (with_reducible refine mk_kept ?_)) | split

theorem execCapsTimeout_kept (hregs : p ≠ .regs) (hmgmt : p ≠ .mgmt) (hlk : p ≠ .lk) (haq : p ≠ .aq) {x1 s t} (k : Kept p b s) (e : execCapsTimeout x1 s = .next t) :
    Kept p b t := by
  unfold execCapsTimeout at e
  injection e with e
  subst e
  try dsimp only
  repeat' first | with_reducible assumption | (intro _; try dsimp only) | with_reducible apply enterDetect_kept hregs hmgmt hlk haq | with_reducible apply foldl_kept | with_reducible apply ite_kept | (fail_if_no_progress (with_reducible refine mk_kept ?_)) | split

theorem execPartnerLost_kept (hregs : p ≠ .regs) (hmgmt : p ≠ .mgmt) (hlk : p ≠ .lk) (haq : p ≠ .aq) {x1 s t} (k : Kept p b s) (e : execPartnerLost x1 s = .next t) :
    Kept p b t := by
  unfold execPartnerLost at e
  injection e with e
  subst e
  try dsimp only
  repeat' first | with_reducible assumption | (intro _; try dsimp only) | with_reducible apply enterDetect_kept hregs hmgmt hlk haq | with_reducible apply flag_kept hregs hmgmt | with_reducible apply foldl_kept | with_reducible apply ite_kept | (fail_if_no_progress (with_reducible refine mk_kept ?_)) | split

theorem sendCtl_kept (hlk : p ≠ .lk) {x1 x2 s} (k : Kept p b s) :
    Kept p b (sendCtl x1 x2 s) := by
  unfold sendCtl
  try dsimp only
  repeat' first | with_reducible assumption | (intro _; try dsimp only) | with_reducible apply setLane_kept hlk | with_reducible apply foldl_kept | with_reducible apply ite_kept | (fail_if_no_progress (with_reducible refine mk_kept ?_)) | split

theorem trainBad_kept (hregs : p ≠ .regs) (hmgmt : p ≠ .mgmt) {x1 s} (k : Kept p b s) :
    Kept p b (trainBad x1 s) := by
  unfold trainBad
  try dsimp only
  repeat' first | with_reducible assumption | (intro _; try dsimp only) | with_reducible apply flag_kept hregs hmgmt | with_reducible apply foldl_kept | with_reducible apply ite_kept | (fail_if_no_progress (with_reducible refine mk_kept ?_)) | split

theorem execTapReqResend_kept (hlk : p ≠ .lk) {x1 s t} (k : Kept p b s) (e : execTapReqResend x1 s = .next t) :
    Kept p b t := by
  unfold execTapReqResend at e
  injection e with e
  subst e
  try dsimp only
  repeat' first | with_reducible assumption | (intro _; try dsimp only) | with_reducible apply setLane_kept hlk | with_reducible apply foldl_kept | with_reducible apply ite_kept | (fail_if_no_progress (with_reducible refine mk_kept ?_)) | split

theorem malformed_kept (hregs : p ≠ .regs) (hmgmt : p ≠ .mgmt) {x1 s} (k : Kept p b s) :
    Kept p b (malformed x1 s) := by
  unfold malformed
  try dsimp only
  repeat' first | with_reducible assumption | (intro _; try dsimp only) | with_reducible apply flag_kept hregs hmgmt | with_reducible apply laneCount_kept hregs hmgmt | with_reducible apply foldl_kept | with_reducible apply ite_kept | (fail_if_no_progress (with_reducible refine mk_kept ?_)) | split

theorem crcFailed_kept (hregs : p ≠ .regs) (hmgmt : p ≠ .mgmt) (hlk : p ≠ .lk) {x1 s} (k : Kept p b s) :
    Kept p b (crcFailed x1 s) := by
  unfold crcFailed
  try dsimp only
  repeat' first | with_reducible assumption | (intro _; try dsimp only) | with_reducible apply flag_kept hregs hmgmt | with_reducible apply laneCount_kept hregs hmgmt | with_reducible apply setLane_kept hlk | with_reducible apply foldl_kept | with_reducible apply ite_kept | (fail_if_no_progress (with_reducible refine mk_kept ?_)) | split

theorem mgmtLimit_kept (hregs : p ≠ .regs) (hmgmt : p ≠ .mgmt) (hlk : p ≠ .lk) {x1 x2 s} (k : Kept p b s) :
    Kept p b (mgmtLimit x1 x2 s).1 := by
  unfold mgmtLimit
  try dsimp only
  repeat' first | with_reducible assumption | (intro _; try dsimp only) | with_reducible apply setLane_kept hlk | with_reducible apply flag_kept hregs hmgmt | with_reducible apply laneCount_kept hregs hmgmt | with_reducible apply foldl_kept | with_reducible apply ite_kept | (fail_if_no_progress (with_reducible refine mk_kept ?_)) | split

theorem acceptPacket_kept (hlk : p ≠ .lk) {x1 x2 x3 x4 s} (k : Kept p b s) :
    Kept p b (acceptPacket x1 x2 x3 x4 s) := by
  unfold acceptPacket
  try dsimp only
  repeat' first | with_reducible assumption | (intro _; try dsimp only) | with_reducible apply setLane_kept hlk | with_reducible apply foldl_kept | with_reducible apply ite_kept | (fail_if_no_progress (with_reducible refine mk_kept ?_)) | split

theorem receivePacket_kept (hregs : p ≠ .regs) (hmgmt : p ≠ .mgmt) (hlk : p ≠ .lk) {x1 x2 x3 s} (k : Kept p b s) :
    Kept p b (receivePacket x1 x2 x3 s) := by
  unfold receivePacket
  try dsimp only
  repeat' first | with_reducible assumption | (intro _; try dsimp only) | with_reducible apply setLane_kept hlk | with_reducible apply malformed_kept hregs hmgmt | with_reducible apply crcFailed_kept hregs hmgmt hlk | with_reducible apply mgmtLimit_kept hregs hmgmt hlk | with_reducible apply acceptPacket_kept hlk | with_reducible apply foldl_kept | with_reducible apply ite_kept | (fail_if_no_progress (with_reducible refine mk_kept ?_)) | split

theorem execPacketReceived_kept (hregs : p ≠ .regs) (hmgmt : p ≠ .mgmt) (hlk : p ≠ .lk) {x1 x2 x3 s t} (k : Kept p b s) (e : execPacketReceived x1 x2 x3 s = .next t) :
    Kept p b t := by
  unfold execPacketReceived at e
  injection e with e
  subst e
  try dsimp only
  repeat' first | with_reducible assumption | (intro _; try dsimp only) | with_reducible apply receivePacket_kept hregs hmgmt hlk | with_reducible apply foldl_kept | with_reducible apply ite_kept | (fail_if_no_progress (with_reducible refine mk_kept ?_)) | split

theorem bringLane_kept (hregs : p ≠ .regs) (hmgmt : p ≠ .mgmt) (hlk : p ≠ .lk) (haq : p ≠ .aq) {x1 s} (k : Kept p b s) :
    Kept p b (bringLane x1 s) := by
  unfold bringLane
  try dsimp only
  repeat' first | with_reducible assumption | (intro _; try dsimp only) | with_reducible apply moveLane_kept hregs hmgmt hlk haq | with_reducible apply enterDetect_kept hregs hmgmt hlk haq | with_reducible apply foldl_kept | with_reducible apply ite_kept | (fail_if_no_progress (with_reducible refine mk_kept ?_)) | split

theorem giveUp_kept (hregs : p ≠ .regs) (hmgmt : p ≠ .mgmt) (hlk : p ≠ .lk) (haq : p ≠ .aq) {x1 x2 x3 s} (k : Kept p b s) :
    Kept p b (giveUp x1 x2 x3 s) := by
  unfold giveUp
  try dsimp only
  repeat' first | with_reducible assumption | (intro _; try dsimp only) | with_reducible apply setLane_kept hlk | with_reducible apply dropPacket_kept hregs hmgmt hlk | with_reducible apply giveUpPacket_kept hregs hmgmt hlk haq | with_reducible apply foldl_kept | with_reducible apply ite_kept | (fail_if_no_progress (with_reducible refine mk_kept ?_)) | split

theorem closeLane_kept (hregs : p ≠ .regs) (hmgmt : p ≠ .mgmt) (hlk : p ≠ .lk) (haq : p ≠ .aq) {x1 s} (k : Kept p b s) :
    Kept p b (closeLane x1 s) := by
  unfold closeLane
  try dsimp only
  repeat' first | with_reducible assumption | (intro _; try dsimp only) | with_reducible apply dropPacket_kept hregs hmgmt hlk | with_reducible apply setLane_kept hlk | with_reducible apply displace_kept hregs hmgmt hlk haq | with_reducible apply moveLane_kept hregs hmgmt hlk haq | with_reducible apply foldl_kept | with_reducible apply ite_kept | (fail_if_no_progress (with_reducible refine mk_kept ?_)) | split

theorem joinLanes_kept (hregs : p ≠ .regs) (hmgmt : p ≠ .mgmt) (hlk : p ≠ .lk) (haq : p ≠ .aq) {x1 x2 s} (k : Kept p b s) :
    Kept p b (joinLanes x1 x2 s) := by
  unfold joinLanes
  try dsimp only
  repeat' first | with_reducible assumption | (intro _; try dsimp only) | with_reducible apply bringLane_kept hregs hmgmt hlk haq | with_reducible apply giveUp_kept hregs hmgmt hlk haq | with_reducible apply closeLane_kept hregs hmgmt hlk haq | with_reducible apply forUp_kept | with_reducible apply foldl_kept | with_reducible apply ite_kept | (fail_if_no_progress (with_reducible refine mk_kept ?_)) | split

theorem presetTaps_kept (hregs : p ≠ .regs) {x1 s} (k : Kept p b s) :
    Kept p b (presetTaps x1 s) := by
  unfold presetTaps
  try dsimp only
  repeat' first | with_reducible assumption | (intro _; try dsimp only) | with_reducible apply fsets_kept hregs | with_reducible apply foldl_kept | with_reducible apply ite_kept | (fail_if_no_progress (with_reducible refine mk_kept ?_)) | split

theorem startEq_kept (hregs : p ≠ .regs) (hlk : p ≠ .lk) {x1 s} (k : Kept p b s) :
    Kept p b (startEq x1 s) := by
  unfold startEq
  try dsimp only
  repeat' first | with_reducible assumption | (intro _; try dsimp only) | with_reducible apply presetTaps_kept hregs | with_reducible apply fset_kept hregs | with_reducible apply setLane_kept hlk | with_reducible apply foldl_kept | with_reducible apply ite_kept | (fail_if_no_progress (with_reducible refine mk_kept ?_)) | split

theorem askTap_kept (hlk : p ≠ .lk) {x1 x2 s} (k : Kept p b s) :
    Kept p b (askTap x1 x2 s) := by
  unfold askTap
  try dsimp only
  repeat' first | with_reducible assumption | (intro _; try dsimp only) | with_reducible apply setLane_kept hlk | with_reducible apply foldl_kept | with_reducible apply ite_kept | (fail_if_no_progress (with_reducible refine mk_kept ?_)) | split

theorem execLaneAligned_kept (hregs : p ≠ .regs) (hmgmt : p ≠ .mgmt) (hlk : p ≠ .lk) (haq : p ≠ .aq) {x1 x2 s t} (k : Kept p b s) (e : execLaneAligned x1 x2 s = .next t) :
    Kept p b t := by
  unfold execLaneAligned at e
  injection e with e
  subst e
  try dsimp only
  repeat' first | with_reducible assumption | (intro _; try dsimp only) | with_reducible apply askTap_kept hlk | with_reducible apply startEq_kept hregs hlk | with_reducible apply moveLane_kept hregs hmgmt hlk haq | with_reducible apply enterVerify_kept hregs hmgmt hlk haq | with_reducible apply foldl_kept | with_reducible apply ite_kept | (fail_if_no_progress (with_reducible refine mk_kept ?_)) | split

theorem setLoopBit_kept (hregs : p ≠ .regs) (hmgmt : p ≠ .mgmt) (hlk : p ≠ .lk) (haq : p ≠ .aq) {x1 x2 s} (k : Kept p b s) :
    Kept p b (setLoop_ x1 x2 s) := by
  unfold setLoop_
  try dsimp only
  repeat' first | with_reducible assumption | (intro _; try dsimp only) | with_reducible apply fset_kept hregs | with_reducible apply moveLane_kept hregs hmgmt hlk haq | with_reducible apply bringLane_kept hregs hmgmt hlk haq | with_reducible apply foldl_kept | with_reducible apply ite_kept | (fail_if_no_progress (with_reducible refine mk_kept ?_)) | split

theorem sendBeacon_kept (hregs : p ≠ .regs) (hmgmt : p ≠ .mgmt) (hlk : p ≠ .lk) {s} (k : Kept p b s) :
    Kept p b (sendBeacon s) := by
  unfold sendBeacon
  try dsimp only
  repeat' first | with_reducible assumption | (intro _; try dsimp only) | with_reducible apply sendPacket_kept hregs hmgmt hlk | with_reducible apply foldl_kept | with_reducible apply ite_kept | (fail_if_no_progress (with_reducible refine mk_kept ?_)) | split

theorem execStatCensus_kept (hregs : p ≠ .regs) (hmgmt : p ≠ .mgmt) (hlk : p ≠ .lk) {s t} (k : Kept p b s) (e : execStatCensus s = .next t) :
    Kept p b t := by
  unfold execStatCensus at e
  injection e with e
  subst e
  try dsimp only
  repeat' first | with_reducible assumption | (intro _; try dsimp only) | with_reducible apply sendBeacon_kept hregs hmgmt hlk | with_reducible apply sendPacket_kept hregs hmgmt hlk | with_reducible apply forUp_kept | with_reducible apply foldl_kept | with_reducible apply ite_kept | (fail_if_no_progress (with_reducible refine mk_kept ?_)) | split

theorem execLoop_kept (hregs : p ≠ .regs) (hmgmt : p ≠ .mgmt) (hlk : p ≠ .lk) (haq : p ≠ .aq) {x1 x2 x3 s t} (k : Kept p b s) (e : execLoop x1 x2 x3 s = .next t) :
    Kept p b t := by
  unfold execLoop at e
  injection e with e
  subst e
  try dsimp only
  repeat' first | with_reducible assumption | (intro _; try dsimp only) | with_reducible apply trainBad_kept hregs hmgmt | with_reducible apply setLoopBit_kept hregs hmgmt hlk haq | with_reducible apply sendCtl_kept hlk | with_reducible apply flag_kept hregs hmgmt | with_reducible apply foldl_kept | with_reducible apply ite_kept | (fail_if_no_progress (with_reducible refine mk_kept ?_)) | split

theorem failLane_kept (hregs : p ≠ .regs) (hmgmt : p ≠ .mgmt) (hlk : p ≠ .lk) (haq : p ≠ .aq) {x1 s} (k : Kept p b s) :
    Kept p b (failLane x1 s) := by
  unfold failLane
  try dsimp only
  repeat' first | with_reducible assumption | (intro _; try dsimp only) | with_reducible apply flag_kept hregs hmgmt | with_reducible apply moveLane_kept hregs hmgmt hlk haq | with_reducible apply foldl_kept | with_reducible apply ite_kept | (fail_if_no_progress (with_reducible refine mk_kept ?_)) | split

theorem enterRetrain_kept (hregs : p ≠ .regs) (hmgmt : p ≠ .mgmt) (hlk : p ≠ .lk) (haq : p ≠ .aq) {x1 s} (k : Kept p b s) :
    Kept p b (enterRetrain x1 s) := by
  unfold enterRetrain
  try dsimp only
  repeat' first | with_reducible assumption | (intro _; try dsimp only) | with_reducible apply flag_kept hregs hmgmt | with_reducible apply laneCount_kept hregs hmgmt | with_reducible apply setLane_kept hlk | with_reducible apply failLane_kept hregs hmgmt hlk haq | with_reducible apply moveLane_kept hregs hmgmt hlk haq | with_reducible apply sendCtl_kept hlk | with_reducible apply startEq_kept hregs hlk | with_reducible apply foldl_kept | with_reducible apply ite_kept | (fail_if_no_progress (with_reducible refine mk_kept ?_)) | split

theorem execRetrain_kept (hregs : p ≠ .regs) (hmgmt : p ≠ .mgmt) (hlk : p ≠ .lk) (haq : p ≠ .aq) {x1 s t} (k : Kept p b s) (e : execRetrain x1 s = .next t) :
    Kept p b t := by
  unfold execRetrain at e
  injection e with e
  subst e
  try dsimp only
  repeat' first | with_reducible assumption | (intro _; try dsimp only) | with_reducible apply enterRetrain_kept hregs hmgmt hlk haq | with_reducible apply trainBad_kept hregs hmgmt | with_reducible apply foldl_kept | with_reducible apply ite_kept | (fail_if_no_progress (with_reducible refine mk_kept ?_)) | split

theorem laneRetrain_kept (hregs : p ≠ .regs) (hmgmt : p ≠ .mgmt) (hlk : p ≠ .lk) (haq : p ≠ .aq) {x1 s} (k : Kept p b s) :
    Kept p b (laneRetrain x1 s) := by
  unfold laneRetrain
  try dsimp only
  repeat' first | with_reducible assumption | (intro _; try dsimp only) | with_reducible apply setLane_kept hlk | with_reducible apply enterRetrain_kept hregs hmgmt hlk haq | with_reducible apply foldl_kept | with_reducible apply ite_kept | (fail_if_no_progress (with_reducible refine mk_kept ?_)) | split

theorem enterStep_kept (hregs : p ≠ .regs) (hmgmt : p ≠ .mgmt) (hlk : p ≠ .lk) (haq : p ≠ .aq) {x1 s} (k : Kept p b s) :
    Kept p b (enterStep x1 s) := by
  unfold enterStep
  try dsimp only
  repeat' first | with_reducible assumption | (intro _; try dsimp only) | with_reducible apply moveLane_kept hregs hmgmt hlk haq | with_reducible apply setLane_kept hlk | with_reducible apply foldl_kept | with_reducible apply ite_kept | (fail_if_no_progress (with_reducible refine mk_kept ?_)) | split

theorem enterUp_kept (hregs : p ≠ .regs) (hmgmt : p ≠ .mgmt) (hlk : p ≠ .lk) (haq : p ≠ .aq) {x1 s} (k : Kept p b s) :
    Kept p b (enterUp x1 s) := by
  unfold enterUp
  try dsimp only
  repeat' first | with_reducible assumption | (intro _; try dsimp only) | with_reducible apply moveLane_kept hregs hmgmt hlk haq | with_reducible apply setLane_kept hlk | with_reducible apply foldl_kept | with_reducible apply ite_kept | (fail_if_no_progress (with_reducible refine mk_kept ?_)) | split

theorem rungFailed_kept (hregs : p ≠ .regs) (hmgmt : p ≠ .mgmt) (hlk : p ≠ .lk) (haq : p ≠ .aq) {x1 s} (k : Kept p b s) :
    Kept p b (rungFailed x1 s) := by
  unfold rungFailed
  try dsimp only
  repeat' first | with_reducible assumption | (intro _; try dsimp only) | with_reducible apply failLane_kept hregs hmgmt hlk haq | with_reducible apply setLane_kept hlk | with_reducible apply enterStep_kept hregs hmgmt hlk haq | with_reducible apply enterUp_kept hregs hmgmt hlk haq | with_reducible apply setRate_kept hregs | with_reducible apply foldl_kept | with_reducible apply ite_kept | (fail_if_no_progress (with_reducible refine mk_kept ?_)) | split

theorem rungDecided_kept (hregs : p ≠ .regs) (hmgmt : p ≠ .mgmt) (hlk : p ≠ .lk) (haq : p ≠ .aq) {x1 s} (k : Kept p b s) :
    Kept p b (rungDecided x1 s) := by
  unfold rungDecided
  try dsimp only
  repeat' first | with_reducible assumption | (intro _; try dsimp only) | with_reducible apply enterStep_kept hregs hmgmt hlk haq | with_reducible apply setLane_kept hlk | with_reducible apply enterUp_kept hregs hmgmt hlk haq | with_reducible apply rungFailed_kept hregs hmgmt hlk haq | with_reducible apply foldl_kept | with_reducible apply ite_kept | (fail_if_no_progress (with_reducible refine mk_kept ?_)) | split

theorem execTapAck_kept (hregs : p ≠ .regs) (hmgmt : p ≠ .mgmt) (hlk : p ≠ .lk) {x1 x2 x3 s t} (k : Kept p b s) (e : execTapAck x1 x2 x3 s = .next t) :
    Kept p b t := by
  unfold execTapAck at e
  injection e with e
  subst e
  try dsimp only
  repeat' first | with_reducible assumption | (intro _; try dsimp only) | with_reducible apply askTap_kept hlk | with_reducible apply setLane_kept hlk | with_reducible apply trainBad_kept hregs hmgmt | with_reducible apply foldl_kept | with_reducible apply ite_kept | (fail_if_no_progress (with_reducible refine mk_kept ?_)) | split

theorem execLaneRetrainCmd_kept (hregs : p ≠ .regs) (hmgmt : p ≠ .mgmt) (hlk : p ≠ .lk) (haq : p ≠ .aq) {x1 x2 s t} (k : Kept p b s) (e : execLaneRetrainCmd x1 x2 s = .next t) :
    Kept p b t := by
  unfold execLaneRetrainCmd at e
  injection e with e
  subst e
  try dsimp only
  repeat' first | with_reducible assumption | (intro _; try dsimp only) | with_reducible apply hostWrite_kept hregs hmgmt | with_reducible apply laneRetrain_kept hregs hmgmt hlk haq | with_reducible apply foldl_kept | with_reducible apply ite_kept | (fail_if_no_progress (with_reducible refine mk_kept ?_)) | split

theorem laneRearm_kept (hregs : p ≠ .regs) (hmgmt : p ≠ .mgmt) (hlk : p ≠ .lk) (haq : p ≠ .aq) {x1 s} (k : Kept p b s) :
    Kept p b (laneRearm x1 s) := by
  unfold laneRearm
  try dsimp only
  repeat' first | with_reducible assumption | (intro _; try dsimp only) | with_reducible apply bringLane_kept hregs hmgmt hlk haq | with_reducible apply moveLane_kept hregs hmgmt hlk haq | with_reducible apply foldl_kept | with_reducible apply ite_kept | (fail_if_no_progress (with_reducible refine mk_kept ?_)) | split

theorem execLaneRearm_kept (hregs : p ≠ .regs) (hmgmt : p ≠ .mgmt) (hlk : p ≠ .lk) (haq : p ≠ .aq) {x1 x2 s t} (k : Kept p b s) (e : execLaneRearm x1 x2 s = .next t) :
    Kept p b t := by
  unfold execLaneRearm at e
  injection e with e
  subst e
  try dsimp only
  repeat' first | with_reducible assumption | (intro _; try dsimp only) | with_reducible apply hostWrite_kept hregs hmgmt | with_reducible apply laneRearm_kept hregs hmgmt hlk haq | with_reducible apply foldl_kept | with_reducible apply ite_kept | (fail_if_no_progress (with_reducible refine mk_kept ?_)) | split

theorem execLaneEnable_kept (hregs : p ≠ .regs) (hmgmt : p ≠ .mgmt) (hlk : p ≠ .lk) (haq : p ≠ .aq) {x1 s t} (k : Kept p b s) (e : execLaneEnable x1 s = .next t) :
    Kept p b t := by
  unfold execLaneEnable at e
  injection e with e
  subst e
  try dsimp only
  repeat' first | with_reducible assumption | (intro _; try dsimp only) | with_reducible apply enterDetect_kept hregs hmgmt hlk haq | with_reducible apply foldl_kept | with_reducible apply ite_kept | (fail_if_no_progress (with_reducible refine mk_kept ?_)) | split

theorem applyLane_kept (hregs : p ≠ .regs) (hmgmt : p ≠ .mgmt) (hlk : p ≠ .lk) (haq : p ≠ .aq) {x1 x2 x3 s} (k : Kept p b s) :
    Kept p b (applyLane x1 x2 x3 s) := by
  unfold applyLane
  try dsimp only
  repeat' first | with_reducible assumption | (intro _; try dsimp only) | with_reducible apply giveUp_kept hregs hmgmt hlk haq | with_reducible apply bringLane_kept hregs hmgmt hlk haq | with_reducible apply closeLane_kept hregs hmgmt hlk haq | with_reducible apply foldl_kept | with_reducible apply ite_kept | (fail_if_no_progress (with_reducible refine mk_kept ?_)) | split

theorem execEqDone_kept (hregs : p ≠ .regs) (hmgmt : p ≠ .mgmt) (hlk : p ≠ .lk) (haq : p ≠ .aq) {x1 x2 s t} (k : Kept p b s) (e : execEqDone x1 x2 s = .next t) :
    Kept p b t := by
  unfold execEqDone at e
  injection e with e
  subst e
  try dsimp only
  repeat' first | with_reducible assumption | (intro _; try dsimp only) | with_reducible apply setLane_kept hlk | with_reducible apply sendEqDone_kept hregs hmgmt hlk haq | with_reducible apply enterVerify_kept hregs hmgmt hlk haq | with_reducible apply trainBad_kept hregs hmgmt | with_reducible apply foldl_kept | with_reducible apply ite_kept | (fail_if_no_progress (with_reducible refine mk_kept ?_)) | split

theorem newTapReq_kept (hregs : p ≠ .regs) (hlk : p ≠ .lk) {x1 x2 x3 x4 s} (k : Kept p b s) :
    Kept p b (newTapReq x1 x2 x3 x4 s) := by
  unfold newTapReq
  try dsimp only
  repeat' first | with_reducible assumption | (intro _; try dsimp only) | with_reducible apply setLane_kept hlk | with_reducible apply fsets_kept hregs | with_reducible apply foldl_kept | with_reducible apply ite_kept | (fail_if_no_progress (with_reducible refine mk_kept ?_)) | split

theorem execTapReq_kept (hregs : p ≠ .regs) (hmgmt : p ≠ .mgmt) (hlk : p ≠ .lk) {x1 x2 x3 x4 s t} (k : Kept p b s) (e : execTapReq x1 x2 x3 x4 s = .next t) :
    Kept p b t := by
  unfold execTapReq at e
  injection e with e
  subst e
  try dsimp only
  repeat' first | with_reducible assumption | (intro _; try dsimp only) | with_reducible apply trainBad_kept hregs hmgmt | with_reducible apply sendCtl_kept hlk | with_reducible apply newTapReq_kept hregs hlk | with_reducible apply foldl_kept | with_reducible apply ite_kept | (fail_if_no_progress (with_reducible refine mk_kept ?_)) | split

theorem noteHello_kept (hregs : p ≠ .regs) (hlk : p ≠ .lk) {x1 x2 s} (k : Kept p b s) :
    Kept p b (noteHello x1 x2 s) := by
  unfold noteHello
  try dsimp only
  repeat' first | with_reducible assumption | (intro _; try dsimp only) | with_reducible apply fsets_kept hregs | with_reducible apply setLane_kept hlk | with_reducible apply sendCtl_kept hlk | with_reducible apply foldl_kept | with_reducible apply ite_kept | (fail_if_no_progress (with_reducible refine mk_kept ?_)) | split

theorem execHello_kept (hregs : p ≠ .regs) (hmgmt : p ≠ .mgmt) (hlk : p ≠ .lk) (haq : p ≠ .aq) {x1 x2 s t} (k : Kept p b s) (e : execHello x1 x2 s = .next t) :
    Kept p b t := by
  unfold execHello at e
  injection e with e
  subst e
  try dsimp only
  repeat' first | with_reducible assumption | (intro _; try dsimp only) | with_reducible apply setLane_kept hlk | with_reducible apply noteHello_kept hregs hlk | with_reducible apply moveLane_kept hregs hmgmt hlk haq | with_reducible apply enterVerify_kept hregs hmgmt hlk haq | with_reducible apply presetTaps_kept hregs | with_reducible apply trainBad_kept hregs hmgmt | with_reducible apply foldl_kept | with_reducible apply ite_kept | (fail_if_no_progress (with_reducible refine mk_kept ?_)) | split

theorem startPacket_kept (hlk : p ≠ .lk) {x1 x2 s} (k : Kept p b s) :
    Kept p b (startPacket x1 x2 s) := by
  unfold startPacket
  try dsimp only
  repeat' first | with_reducible assumption | (intro _; try dsimp only) | with_reducible apply setLane_kept hlk | with_reducible apply foldl_kept | with_reducible apply ite_kept | (fail_if_no_progress (with_reducible refine mk_kept ?_)) | split

theorem startNext_kept (hregs : p ≠ .regs) (hmgmt : p ≠ .mgmt) (hlk : p ≠ .lk) (haq : p ≠ .aq) {x1 s} (k : Kept p b s) :
    Kept p b (startNext x1 s) := by
  unfold startNext
  try dsimp only
  repeat' first | with_reducible assumption | (intro _; try dsimp only) | with_reducible apply moveLane_kept hregs hmgmt hlk haq | with_reducible apply setLane_kept hlk | with_reducible apply startPacket_kept hlk | with_reducible apply setDropAcc_kept hlk | with_reducible apply handCapt_kept hregs hmgmt hlk haq | with_reducible apply foldl_kept | with_reducible apply ite_kept | (fail_if_no_progress (with_reducible refine mk_kept ?_)) | split

theorem applyLk_kept (hregs : p ≠ .regs) (hcut : p ≠ .cut) (hmgmt : p ≠ .mgmt) (hlk : p ≠ .lk) (haq : p ≠ .aq) {x1 x2 s} (k : Kept p b s) :
    Kept p b (applyLk x1 x2 s) := by
  unfold applyLk
  try dsimp only
  repeat' first | with_reducible assumption | (intro _; try dsimp only) | with_reducible apply applyLane_kept hregs hmgmt hlk haq | with_reducible apply markApplied_kept hcut | with_reducible apply forUp_kept | with_reducible apply foldl_kept | with_reducible apply ite_kept | (fail_if_no_progress (with_reducible refine mk_kept ?_)) | split

theorem transmit_kept (hregs : p ≠ .regs) (hcut : p ≠ .cut) (hmgmt : p ≠ .mgmt) (hlk : p ≠ .lk) (haq : p ≠ .aq) {x1 s} (k : Kept p b s) :
    Kept p b (transmit x1 s) := by
  unfold transmit
  try dsimp only
  repeat' first | with_reducible assumption | (intro _; try dsimp only) | with_reducible apply startNext_kept hregs hmgmt hlk haq | with_reducible apply applyLk_kept hregs hcut hmgmt hlk haq | with_reducible apply foldl_kept | with_reducible apply ite_kept | (fail_if_no_progress (with_reducible refine mk_kept ?_)) | split

theorem noteMirror_kept (hlk : p ≠ .lk) {s} (k : Kept p b s) :
    Kept p b (noteMirror s) := by
  unfold noteMirror
  try dsimp only
  repeat' first | with_reducible assumption | (intro _; try dsimp only) | with_reducible apply foldl_kept | with_reducible apply ite_kept | (fail_if_no_progress (with_reducible refine mk_kept ?_)) | split

theorem execStatSafetyMirror_kept (hregs : p ≠ .regs) (hmgmt : p ≠ .mgmt) (hlk : p ≠ .lk) {s t} (k : Kept p b s) (e : execStatSafetyMirror s = .next t) :
    Kept p b t := by
  unfold execStatSafetyMirror at e
  injection e with e
  subst e
  try dsimp only
  repeat' first | with_reducible assumption | (intro _; try dsimp only) | with_reducible apply noteMirror_kept hlk | with_reducible apply sendPacket_kept hregs hmgmt hlk | with_reducible apply foldl_kept | with_reducible apply ite_kept | (fail_if_no_progress (with_reducible refine mk_kept ?_)) | split

theorem execStatBeacon_kept (hregs : p ≠ .regs) (hmgmt : p ≠ .mgmt) (hlk : p ≠ .lk) {s t} (k : Kept p b s) (e : execStatBeacon s = .next t) :
    Kept p b t := by
  unfold execStatBeacon at e
  injection e with e
  subst e
  try dsimp only
  repeat' first | with_reducible assumption | (intro _; try dsimp only) | with_reducible apply sendBeacon_kept hregs hmgmt hlk | with_reducible apply foldl_kept | with_reducible apply ite_kept | (fail_if_no_progress (with_reducible refine mk_kept ?_)) | split

theorem execCredit_kept (hlk : p ≠ .lk) {x1 x2 x3 s t} (k : Kept p b s) (e : execCredit x1 x2 x3 s = .next t) :
    Kept p b t := by
  unfold execCredit at e
  injection e with e
  subst e
  try dsimp only
  repeat' first | with_reducible assumption | (intro _; try dsimp only) | with_reducible apply setLane_kept hlk | with_reducible apply foldl_kept | with_reducible apply ite_kept | (fail_if_no_progress (with_reducible refine mk_kept ?_)) | split

theorem execRate_kept (hregs : p ≠ .regs) (hmgmt : p ≠ .mgmt) (hlk : p ≠ .lk) {x1 x2 s t} (k : Kept p b s) (e : execRate x1 x2 s = .next t) :
    Kept p b t := by
  unfold execRate at e
  injection e with e
  subst e
  try dsimp only
  repeat' first | with_reducible assumption | (intro _; try dsimp only) | with_reducible apply setRate_kept hregs | with_reducible apply setLane_kept hlk | with_reducible apply trainBad_kept hregs hmgmt | with_reducible apply foldl_kept | with_reducible apply ite_kept | (fail_if_no_progress (with_reducible refine mk_kept ?_)) | split

theorem execHelloBurst_kept (hlk : p ≠ .lk) {x1 s t} (k : Kept p b s) (e : execHelloBurst x1 s = .next t) :
    Kept p b t := by
  unfold execHelloBurst at e
  injection e with e
  subst e
  try dsimp only
  repeat' first | with_reducible assumption | (intro _; try dsimp only) | with_reducible apply setLane_kept hlk | with_reducible apply foldl_kept | with_reducible apply ite_kept | (fail_if_no_progress (with_reducible refine mk_kept ?_)) | split

theorem execLineErrorRetrain_kept (hregs : p ≠ .regs) (hmgmt : p ≠ .mgmt) (hlk : p ≠ .lk) (haq : p ≠ .aq) {x1 s t} (k : Kept p b s) (e : execLineErrorRetrain x1 s = .next t) :
    Kept p b t := by
  unfold execLineErrorRetrain at e
  injection e with e
  subst e
  try dsimp only
  repeat' first | with_reducible assumption | (intro _; try dsimp only) | with_reducible apply enterRetrain_kept hregs hmgmt hlk haq | with_reducible apply foldl_kept | with_reducible apply ite_kept | (fail_if_no_progress (with_reducible refine mk_kept ?_)) | split

theorem execAlignmentTimeout_kept (hregs : p ≠ .regs) (hmgmt : p ≠ .mgmt) (hlk : p ≠ .lk) (haq : p ≠ .aq) {x1 s t} (k : Kept p b s) (e : execAlignmentTimeout x1 s = .next t) :
    Kept p b t := by
  unfold execAlignmentTimeout at e
  injection e with e
  subst e
  try dsimp only
  repeat' first | with_reducible assumption | (intro _; try dsimp only) | with_reducible apply rungFailed_kept hregs hmgmt hlk haq | with_reducible apply foldl_kept | with_reducible apply ite_kept | (fail_if_no_progress (with_reducible refine mk_kept ?_)) | split

theorem execVerifyPatternEnd_kept (hregs : p ≠ .regs) (hmgmt : p ≠ .mgmt) (hlk : p ≠ .lk) (haq : p ≠ .aq) {x1 x2 s t} (k : Kept p b s) (e : execVerifyPatternEnd x1 x2 s = .next t) :
    Kept p b t := by
  unfold execVerifyPatternEnd at e
  injection e with e
  subst e
  try dsimp only
  repeat' first | with_reducible assumption | (intro _; try dsimp only) | with_reducible apply rungDecided_kept hregs hmgmt hlk haq | with_reducible apply setLane_kept hlk | with_reducible apply foldl_kept | with_reducible apply ite_kept | (fail_if_no_progress (with_reducible refine mk_kept ?_)) | split

theorem execStreamWaitExpiry_kept (hregs : p ≠ .regs) (hmgmt : p ≠ .mgmt) (hlk : p ≠ .lk) (haq : p ≠ .aq) {x1 s t} (k : Kept p b s) (e : execStreamWaitExpiry x1 s = .next t) :
    Kept p b t := by
  unfold execStreamWaitExpiry at e
  injection e with e
  subst e
  try dsimp only
  repeat' first | with_reducible assumption | (intro _; try dsimp only) | with_reducible apply giveUp_kept hregs hmgmt hlk haq | with_reducible apply foldl_kept | with_reducible apply ite_kept | (fail_if_no_progress (with_reducible refine mk_kept ?_)) | split

theorem laneCommand_kept (hregs : p ≠ .regs) (hmgmt : p ≠ .mgmt) (hlk : p ≠ .lk) (haq : p ≠ .aq) {x1 x2 s} (k : Kept p b s) :
    Kept p b (laneCommand x1 x2 s) := by
  unfold laneCommand
  try dsimp only
  repeat' first | with_reducible assumption | (intro _; try dsimp only) | with_reducible apply laneRetrain_kept hregs hmgmt hlk haq | with_reducible apply laneRearm_kept hregs hmgmt hlk haq | with_reducible apply laneClear_kept hregs | with_reducible apply foldl_kept | with_reducible apply ite_kept | (fail_if_no_progress (with_reducible refine mk_kept ?_)) | split

theorem execEqTimeout_kept (hregs : p ≠ .regs) (hmgmt : p ≠ .mgmt) (hlk : p ≠ .lk) (haq : p ≠ .aq) {x1 s t} (k : Kept p b s) (e : execEqTimeout x1 s = .next t) :
    Kept p b t := by
  unfold execEqTimeout at e
  injection e with e
  subst e
  try dsimp only
  repeat' first | with_reducible assumption | (intro _; try dsimp only) | with_reducible apply enterVerify_kept hregs hmgmt hlk haq | with_reducible apply presetTaps_kept hregs | with_reducible apply foldl_kept | with_reducible apply ite_kept | (fail_if_no_progress (with_reducible refine mk_kept ?_)) | split

theorem execLaneClearCounts_kept (hregs : p ≠ .regs) (hmgmt : p ≠ .mgmt) {x1 x2 s t} (k : Kept p b s) (e : execLaneClearCounts x1 x2 s = .next t) :
    Kept p b t := by
  unfold execLaneClearCounts at e
  injection e with e
  subst e
  try dsimp only
  repeat' first | with_reducible assumption | (intro _; try dsimp only) | with_reducible apply hostWrite_kept hregs hmgmt | with_reducible apply laneClear_kept hregs | with_reducible apply foldl_kept | with_reducible apply ite_kept | (fail_if_no_progress (with_reducible refine mk_kept ?_)) | split

theorem grantCredit_kept (hlk : p ≠ .lk) {x1 s} (k : Kept p b s) :
    Kept p b (grantCredit x1 s) := by
  unfold grantCredit
  try dsimp only
  repeat' first | with_reducible assumption | (intro _; try dsimp only) | with_reducible apply setLane_kept hlk | with_reducible apply foldl_kept | with_reducible apply ite_kept | (fail_if_no_progress (with_reducible refine mk_kept ?_)) | split

theorem takePacket_kept (hlk : p ≠ .lk) {x1 x2 s} (k : Kept p b s) :
    Kept p b (takePacket x1 x2 s).1 := by
  unfold takePacket
  try dsimp only
  repeat' first | with_reducible assumption | (intro _; try dsimp only) | with_reducible apply grantCredit_kept hlk | with_reducible apply setLane_kept hlk | with_reducible apply foldl_kept | with_reducible apply ite_kept | (fail_if_no_progress (with_reducible refine mk_kept ?_)) | split

theorem execCreditGrant_kept (hlk : p ≠ .lk) {x1 s t} (k : Kept p b s) (e : execCreditGrant x1 s = .next t) :
    Kept p b t := by
  unfold execCreditGrant at e
  injection e with e
  subst e
  try dsimp only
  repeat' first | with_reducible assumption | (intro _; try dsimp only) | with_reducible apply grantCredit_kept hlk | with_reducible apply foldl_kept | with_reducible apply ite_kept | (fail_if_no_progress (with_reducible refine mk_kept ?_)) | split

theorem laneTest_kept (hregs : p ≠ .regs) (hmgmt : p ≠ .mgmt) (hlk : p ≠ .lk) (haq : p ≠ .aq) {x1 x2 s} (k : Kept p b s) :
    Kept p b (laneTest x1 x2 s) := by
  unfold laneTest
  try dsimp only
  repeat' first | with_reducible assumption | (intro _; try dsimp only) | with_reducible apply flag_kept hregs hmgmt | with_reducible apply setLoopBit_kept hregs hmgmt hlk haq | with_reducible apply fset_kept hregs | with_reducible apply foldl_kept | with_reducible apply ite_kept | (fail_if_no_progress (with_reducible refine mk_kept ?_)) | split

theorem execLaneTestWrite_kept (hregs : p ≠ .regs) (hmgmt : p ≠ .mgmt) (hlk : p ≠ .lk) (haq : p ≠ .aq) {x1 x2 x3 x4 s t} (k : Kept p b s) (e : execLaneTestWrite x1 x2 x3 x4 s = .next t) :
    Kept p b t := by
  unfold execLaneTestWrite at e
  injection e with e
  subst e
  try dsimp only
  repeat' first | with_reducible assumption | (intro _; try dsimp only) | with_reducible apply hostWrite_kept hregs hmgmt | with_reducible apply laneTest_kept hregs hmgmt hlk haq | with_reducible apply foldl_kept | with_reducible apply ite_kept | (fail_if_no_progress (with_reducible refine mk_kept ?_)) | split

theorem execPacketTransmit_kept (hregs : p ≠ .regs) (hcut : p ≠ .cut) (hmgmt : p ≠ .mgmt) (hlk : p ≠ .lk) (haq : p ≠ .aq) {x1 s t} (k : Kept p b s) (e : execPacketTransmit x1 s = .next t) :
    Kept p b t := by
  unfold execPacketTransmit at e
  injection e with e
  subst e
  try dsimp only
  repeat' first | with_reducible assumption | (intro _; try dsimp only) | with_reducible apply transmit_kept hregs hcut hmgmt hlk haq | with_reducible apply foldl_kept | with_reducible apply ite_kept | (fail_if_no_progress (with_reducible refine mk_kept ?_)) | split

theorem execVerifyEnd_kept (hregs : p ≠ .regs) (hmgmt : p ≠ .mgmt) (hlk : p ≠ .lk) (haq : p ≠ .aq) {x1 x2 s t} (k : Kept p b s) (e : execVerifyEnd x1 x2 s = .next t) :
    Kept p b t := by
  unfold execVerifyEnd at e
  injection e with e
  subst e
  try dsimp only
  repeat' first | with_reducible assumption | (intro _; try dsimp only) | with_reducible apply rungDecided_kept hregs hmgmt hlk haq | with_reducible apply setLane_kept hlk | with_reducible apply trainBad_kept hregs hmgmt | with_reducible apply foldl_kept | with_reducible apply ite_kept | (fail_if_no_progress (with_reducible refine mk_kept ?_)) | split

end Sys2Proof.Machine
end

