-- ==== Sys2Proof/Laws/KeptSafety.lean ====
section
/-! SUPPORT. What each operation and command of emission safety leaves alone (see Sys2Proof/Laws/Kept.lean). -/
namespace Sys2Proof.Machine

set_option Elab.async false
set_option linter.unusedTactic false
set_option linter.unreachableTactic false

variable {p : Part} {b : State}

theorem sfAccept_kept (hregs : p ≠ .regs) {s} (k : Kept p b s) :
    Kept p b (sfAccept s) := by
  unfold sfAccept
  try dsimp only
  repeat' first | with_reducible assumption | (intro _; try dsimp only) | with_reducible apply fset_kept hregs | with_reducible apply foldl_kept | with_reducible apply ite_kept | (fail_if_no_progress (with_reducible refine mk_kept ?_)) | split

theorem sfStageLoad_kept (hregs : p ≠ .regs) (hsf : p ≠ .sf) {s} (k : Kept p b s) :
    Kept p b (sfStageLoad s) := by
  unfold sfStageLoad
  try dsimp only
  repeat' first | with_reducible assumption | (intro _; try dsimp only) | with_reducible apply sfAccept_kept hregs | with_reducible apply foldl_kept | with_reducible apply ite_kept | (fail_if_no_progress (with_reducible refine mk_kept ?_)) | split

theorem sfRefuse_kept (hregs : p ≠ .regs) (hmgmt : p ≠ .mgmt) {x1 s} (k : Kept p b s) :
    Kept p b (sfRefuse x1 s) := by
  unfold sfRefuse
  try dsimp only
  repeat' first | with_reducible assumption | (intro _; try dsimp only) | with_reducible apply flag_kept hregs hmgmt | with_reducible apply fset_kept hregs | with_reducible apply foldl_kept | with_reducible apply ite_kept | (fail_if_no_progress (with_reducible refine mk_kept ?_)) | split

theorem sfCommit_kept (hregs : p ≠ .regs) (hmgmt : p ≠ .mgmt) (hsf : p ≠ .sf) {x1 s} (k : Kept p b s) :
    Kept p b (sfCommit x1 s) := by
  unfold sfCommit
  try dsimp only
  repeat' first | with_reducible assumption | (intro _; try dsimp only) | with_reducible apply sfRefuse_kept hregs hmgmt | with_reducible apply sfAccept_kept hregs | with_reducible apply foldl_kept | with_reducible apply ite_kept | (fail_if_no_progress (with_reducible refine mk_kept ?_)) | split

theorem execSafetyCommit_kept (hregs : p ≠ .regs) (hmgmt : p ≠ .mgmt) (hsf : p ≠ .sf) {x1 s t} (k : Kept p b s) (e : execSafetyCommit x1 s = .next t) :
    Kept p b t := by
  unfold execSafetyCommit at e
  injection e with e
  subst e
  try dsimp only
  repeat' first | with_reducible assumption | (intro _; try dsimp only) | with_reducible apply hostWrite_kept hregs hmgmt | with_reducible apply sfCommit_kept hregs hmgmt hsf | with_reducible apply foldl_kept | with_reducible apply ite_kept | (fail_if_no_progress (with_reducible refine mk_kept ?_)) | split

theorem showCause_kept (hregs : p ≠ .regs) {s} (k : Kept p b s) :
    Kept p b (showCause s) := by
  unfold showCause
  try dsimp only
  repeat' first | with_reducible assumption | (intro _; try dsimp only) | with_reducible apply setReg_kept hregs | with_reducible apply foldl_kept | with_reducible apply ite_kept | (fail_if_no_progress (with_reducible refine mk_kept ?_)) | split

theorem setSfc_kept (hsf : p ≠ .sf) {x1 x2 s} (k : Kept p b s) :
    Kept p b (setSfc x1 x2 s) := by
  unfold setSfc
  try dsimp only
  repeat' first | with_reducible assumption | (intro _; try dsimp only) | with_reducible apply foldl_kept | with_reducible apply ite_kept | (fail_if_no_progress (with_reducible refine mk_kept ?_)) | split

theorem setCause_kept (hregs : p ≠ .regs) (hsf : p ≠ .sf) {x1 x2 x3 s} (k : Kept p b s) :
    Kept p b (setCause x1 x2 x3 s) := by
  unfold setCause
  try dsimp only
  repeat' first | with_reducible assumption | (intro _; try dsimp only) | with_reducible apply showCause_kept hregs | with_reducible apply setSfc_kept hsf | with_reducible apply foldl_kept | with_reducible apply ite_kept | (fail_if_no_progress (with_reducible refine mk_kept ?_)) | split

theorem armIfReady_kept (hmode : p ≠ .mode) {s} (k : Kept p b s) :
    Kept p b (armIfReady s) := by
  unfold armIfReady
  try dsimp only
  repeat' first | with_reducible assumption | (intro _; try dsimp only) | with_reducible apply foldl_kept | with_reducible apply ite_kept | (fail_if_no_progress (with_reducible refine mk_kept ?_)) | split

theorem enterSf_kept (hmode : p ≠ .mode) (hregs : p ≠ .regs) (htime : p ≠ .time) (hmgmt : p ≠ .mgmt) (hcal : p ≠ .cal) (hrx : p ≠ .rx) (htx : p ≠ .tx) (hsf : p ≠ .sf) (hfw : p ≠ .fw) {x1 x2 s} (k : Kept p b s) :
    Kept p b (enterSf x1 x2 s) := by
  unfold enterSf
  try dsimp only
  repeat' first | with_reducible assumption | (intro _; try dsimp only) | with_reducible apply fset_kept hregs | with_reducible apply setSfc_kept hsf | with_reducible apply flagIf_kept hregs hmgmt | with_reducible apply toConfigured_kept hmode hregs htime hmgmt hcal hrx htx hfw | with_reducible apply armIfReady_kept hmode | with_reducible apply foldl_kept | with_reducible apply ite_kept | (fail_if_no_progress (with_reducible refine mk_kept ?_)) | split

theorem judgeSf_kept (hmode : p ≠ .mode) (hregs : p ≠ .regs) (htime : p ≠ .time) (hmgmt : p ≠ .mgmt) (hcal : p ≠ .cal) (hrx : p ≠ .rx) (htx : p ≠ .tx) (hsf : p ≠ .sf) (hfw : p ≠ .fw) {x1 s} (k : Kept p b s) :
    Kept p b (judgeSf x1 s) := by
  unfold judgeSf
  try dsimp only
  repeat' first | with_reducible assumption | (intro _; try dsimp only) | with_reducible apply enterSf_kept hmode hregs htime hmgmt hcal hrx htx hsf hfw | with_reducible apply foldl_kept | with_reducible apply ite_kept | (fail_if_no_progress (with_reducible refine mk_kept ?_)) | split

theorem raiseSf_kept (hmode : p ≠ .mode) (hregs : p ≠ .regs) (htime : p ≠ .time) (hmgmt : p ≠ .mgmt) (hcal : p ≠ .cal) (hrx : p ≠ .rx) (htx : p ≠ .tx) (hsf : p ≠ .sf) (hfw : p ≠ .fw) {x1 x2 s} (k : Kept p b s) :
    Kept p b (raiseSf x1 x2 s) := by
  unfold raiseSf
  try dsimp only
  repeat' first | with_reducible assumption | (intro _; try dsimp only) | with_reducible apply judgeSf_kept hmode hregs htime hmgmt hcal hrx htx hsf hfw | with_reducible apply setCause_kept hregs hsf | with_reducible apply foldl_kept | with_reducible apply ite_kept | (fail_if_no_progress (with_reducible refine mk_kept ?_)) | split

theorem updateStop_kept (hmode : p ≠ .mode) (hregs : p ≠ .regs) (htime : p ≠ .time) (hmgmt : p ≠ .mgmt) (hcal : p ≠ .cal) (hrx : p ≠ .rx) (htx : p ≠ .tx) (hsf : p ≠ .sf) (hfw : p ≠ .fw) {x1 s} (k : Kept p b s) :
    Kept p b (updateStop x1 s) := by
  unfold updateStop
  try dsimp only
  repeat' first | with_reducible assumption | (intro _; try dsimp only) | with_reducible apply setCause_kept hregs hsf | with_reducible apply setSfc_kept hsf | with_reducible apply raiseSf_kept hmode hregs htime hmgmt hcal hrx htx hsf hfw | with_reducible apply foldl_kept | with_reducible apply ite_kept | (fail_if_no_progress (with_reducible refine mk_kept ?_)) | split

theorem stopAxis_kept (hmode : p ≠ .mode) (hregs : p ≠ .regs) (htime : p ≠ .time) (hmgmt : p ≠ .mgmt) (hcal : p ≠ .cal) (hrx : p ≠ .rx) (htx : p ≠ .tx) (hsf : p ≠ .sf) (hfw : p ≠ .fw) {x1 x2 x3 s} (k : Kept p b s) :
    Kept p b (stopAxis x1 x2 x3 s) := by
  unfold stopAxis
  try dsimp only
  repeat' first | with_reducible assumption | (intro _; try dsimp only) | with_reducible apply updateStop_kept hmode hregs htime hmgmt hcal hrx htx hsf hfw | with_reducible apply setSfc_kept hsf | with_reducible apply foldl_kept | with_reducible apply ite_kept | (fail_if_no_progress (with_reducible refine mk_kept ?_)) | split

theorem setLost_kept (hregs : p ≠ .regs) (hmgmt : p ≠ .mgmt) (hsf : p ≠ .sf) {x1 x2 x3 s} (k : Kept p b s) :
    Kept p b (setLost x1 x2 x3 s) := by
  unfold setLost
  try dsimp only
  repeat' first | with_reducible assumption | (intro _; try dsimp only) | with_reducible apply flagIf_kept hregs hmgmt | with_reducible apply setSfc_kept hsf | with_reducible apply foldl_kept | with_reducible apply ite_kept | (fail_if_no_progress (with_reducible refine mk_kept ?_)) | split

theorem judgeAxis_kept (hmode : p ≠ .mode) (hregs : p ≠ .regs) (htime : p ≠ .time) (hmgmt : p ≠ .mgmt) (hcal : p ≠ .cal) (hrx : p ≠ .rx) (htx : p ≠ .tx) (hsf : p ≠ .sf) (hfw : p ≠ .fw) {x1 x2 s} (k : Kept p b s) :
    Kept p b (judgeAxis x1 x2 s) := by
  unfold judgeAxis
  try dsimp only
  repeat' first | with_reducible assumption | (intro _; try dsimp only) | with_reducible apply stopAxis_kept hmode hregs htime hmgmt hcal hrx htx hsf hfw | with_reducible apply setLost_kept hregs hmgmt hsf | with_reducible apply raiseSf_kept hmode hregs htime hmgmt hcal hrx htx hsf hfw | with_reducible apply foldl_kept | with_reducible apply ite_kept | (fail_if_no_progress (with_reducible refine mk_kept ?_)) | split

theorem passSf_kept (hmode : p ≠ .mode) (hregs : p ≠ .regs) (htime : p ≠ .time) (hmgmt : p ≠ .mgmt) (hcal : p ≠ .cal) (hrx : p ≠ .rx) (htx : p ≠ .tx) (hsf : p ≠ .sf) (hfw : p ≠ .fw) {x1 s} (k : Kept p b s) :
    Kept p b (passSf x1 s) := by
  unfold passSf
  try dsimp only
  repeat' first | with_reducible assumption | (intro _; try dsimp only) | with_reducible apply enterSf_kept hmode hregs htime hmgmt hcal hrx htx hsf hfw | with_reducible apply showCause_kept hregs | with_reducible apply setSfc_kept hsf | with_reducible apply foldl_kept | with_reducible apply ite_kept | (fail_if_no_progress (with_reducible refine mk_kept ?_)) | split

theorem logSf_kept (hregs : p ≠ .regs) (hmgmt : p ≠ .mgmt) (hsf : p ≠ .sf) {x1 x2 x3 x4 x5 s} (k : Kept p b s) :
    Kept p b (logSf x1 x2 x3 x4 x5 s) := by
  unfold logSf
  try dsimp only
  repeat' first | with_reducible assumption | (intro _; try dsimp only) | with_reducible apply setReg_kept hregs | with_reducible apply flag_kept hregs hmgmt | with_reducible apply wrapRecord_kept hregs hmgmt | with_reducible apply foldl_kept | with_reducible apply ite_kept | (fail_if_no_progress (with_reducible refine mk_kept ?_)) | split

theorem lumpSf_kept (hsf : p ≠ .sf) {x1 x2 s} (k : Kept p b s) :
    Kept p b (lumpSf x1 x2 s) := by
  unfold lumpSf
  try dsimp only
  repeat' first | with_reducible assumption | (intro _; try dsimp only) | with_reducible apply setSfc_kept hsf | with_reducible apply foldl_kept | with_reducible apply ite_kept | (fail_if_no_progress (with_reducible refine mk_kept ?_)) | split

theorem logRequester_kept (hfresh : p ≠ .fresh) {x1 s} (k : Kept p b s) :
    Kept p b (logRequester x1 s).2 := by
  unfold logRequester
  try dsimp only
  repeat' first | with_reducible assumption | (intro _; try dsimp only) | with_reducible apply drawFree_kept hfresh | with_reducible apply foldl_kept | with_reducible apply ite_kept | (fail_if_no_progress (with_reducible refine mk_kept ?_)) | split

theorem sfUnlock_kept (hregs : p ≠ .regs) (hmgmt : p ≠ .mgmt) (hsf : p ≠ .sf) (hfresh : p ≠ .fresh) {x1 s} (k : Kept p b s) :
    Kept p b (sfUnlock x1 s) := by
  unfold sfUnlock
  try dsimp only
  repeat' first | with_reducible assumption | (intro _; try dsimp only) | with_reducible apply sfRefuse_kept hregs hmgmt | with_reducible apply sfAccept_kept hregs | with_reducible apply logRequester_kept hfresh | with_reducible apply logSf_kept hregs hmgmt hsf | with_reducible apply flag_kept hregs hmgmt | with_reducible apply foldl_kept | with_reducible apply ite_kept | (fail_if_no_progress (with_reducible refine mk_kept ?_)) | split

theorem execUnlock_kept (hregs : p ≠ .regs) (hmgmt : p ≠ .mgmt) (hsf : p ≠ .sf) (hfresh : p ≠ .fresh) {x1 s t} (k : Kept p b s) (e : execUnlock x1 s = .next t) :
    Kept p b t := by
  unfold execUnlock at e
  injection e with e
  subst e
  try dsimp only
  repeat' first | with_reducible assumption | (intro _; try dsimp only) | with_reducible apply hostWrite_kept hregs hmgmt | with_reducible apply sfUnlock_kept hregs hmgmt hsf hfresh | with_reducible apply foldl_kept | with_reducible apply ite_kept | (fail_if_no_progress (with_reducible refine mk_kept ?_)) | split

theorem staleSf_kept (hmode : p ≠ .mode) (hregs : p ≠ .regs) (htime : p ≠ .time) (hmgmt : p ≠ .mgmt) (hcal : p ≠ .cal) (hrx : p ≠ .rx) (htx : p ≠ .tx) (hsf : p ≠ .sf) (hfw : p ≠ .fw) {x1 s} (k : Kept p b s) :
    Kept p b (staleSf x1 s) := by
  unfold staleSf
  try dsimp only
  repeat' first | with_reducible assumption | (intro _; try dsimp only) | with_reducible apply setCause_kept hregs hsf | with_reducible apply setSfc_kept hsf | with_reducible apply enterSf_kept hmode hregs htime hmgmt hcal hrx htx hsf hfw | with_reducible apply foldl_kept | with_reducible apply ite_kept | (fail_if_no_progress (with_reducible refine mk_kept ?_)) | split

theorem promoteSf_kept (hmode : p ≠ .mode) (hregs : p ≠ .regs) (htime : p ≠ .time) (hmgmt : p ≠ .mgmt) (hcal : p ≠ .cal) (hrx : p ≠ .rx) (htx : p ≠ .tx) (hsf : p ≠ .sf) (hfw : p ≠ .fw) {x1 x2 s} (k : Kept p b s) :
    Kept p b (promoteSf x1 x2 s) := by
  unfold promoteSf
  try dsimp only
  repeat' first | with_reducible assumption | (intro _; try dsimp only) | with_reducible apply enterSf_kept hmode hregs htime hmgmt hcal hrx htx hsf hfw | with_reducible apply staleSf_kept hmode hregs htime hmgmt hcal hrx htx hsf hfw | with_reducible apply foldl_kept | with_reducible apply ite_kept | (fail_if_no_progress (with_reducible refine mk_kept ?_)) | split

theorem faultSf_kept (hmode : p ≠ .mode) (hregs : p ≠ .regs) (htime : p ≠ .time) (hmgmt : p ≠ .mgmt) (hcal : p ≠ .cal) (hrx : p ≠ .rx) (htx : p ≠ .tx) (hsf : p ≠ .sf) (hfw : p ≠ .fw) {x1 x2 s} (k : Kept p b s) :
    Kept p b (faultSf x1 x2 s) := by
  unfold faultSf
  try dsimp only
  repeat' first | with_reducible assumption | (intro _; try dsimp only) | with_reducible apply raiseSf_kept hmode hregs htime hmgmt hcal hrx htx hsf hfw | with_reducible apply foldl_kept | with_reducible apply ite_kept | (fail_if_no_progress (with_reducible refine mk_kept ?_)) | split

theorem execSafetySupplyCheck_kept (hmode : p ≠ .mode) (hregs : p ≠ .regs) (htime : p ≠ .time) (hmgmt : p ≠ .mgmt) (hcal : p ≠ .cal) (hrx : p ≠ .rx) (htx : p ≠ .tx) (hadcs : p ≠ .adcs) (hmotionIn : p ≠ .motionIn) (hsf : p ≠ .sf) (hfw : p ≠ .fw) {x1 x2 s t} (k : Kept p b s) (e : execSafetySupplyCheck x1 x2 s = .next t) :
    Kept p b t := by
  unfold execSafetySupplyCheck at e
  injection e with e
  subst e
  try dsimp only
  repeat' first | with_reducible assumption | (intro _; try dsimp only) | with_reducible apply faultSf_kept hmode hregs htime hmgmt hcal hrx htx hsf hfw | with_reducible apply sendReq_kept hadcs | with_reducible apply setSfc_kept hsf | with_reducible apply foldl_kept | with_reducible apply ite_kept | (fail_if_no_progress (with_reducible refine mk_kept ?_)) | split

theorem execEstopDiscrepancy_kept (hmode : p ≠ .mode) (hregs : p ≠ .regs) (htime : p ≠ .time) (hmgmt : p ≠ .mgmt) (hcal : p ≠ .cal) (hrx : p ≠ .rx) (htx : p ≠ .tx) (hsf : p ≠ .sf) (hfw : p ≠ .fw) {s t} (k : Kept p b s) (e : execEstopDiscrepancy s = .next t) :
    Kept p b t := by
  unfold execEstopDiscrepancy at e
  injection e with e
  subst e
  try dsimp only
  repeat' first | with_reducible assumption | (intro _; try dsimp only) | with_reducible apply faultSf_kept hmode hregs htime hmgmt hcal hrx htx hsf hfw | with_reducible apply foldl_kept | with_reducible apply ite_kept | (fail_if_no_progress (with_reducible refine mk_kept ?_)) | split

theorem judgeEdge_kept (hregs : p ≠ .regs) (hmgmt : p ≠ .mgmt) (hsf : p ≠ .sf) {x1 x2 x3 s} (k : Kept p b s) :
    Kept p b (judgeEdge x1 x2 x3 s) := by
  unfold judgeEdge
  try dsimp only
  repeat' first | with_reducible assumption | (intro _; try dsimp only) | with_reducible apply setCause_kept hregs hsf | with_reducible apply setSfc_kept hsf | with_reducible apply flag_kept hregs hmgmt | with_reducible apply foldl_kept | with_reducible apply ite_kept | (fail_if_no_progress (with_reducible refine mk_kept ?_)) | split

theorem sfLock_kept (hregs : p ≠ .regs) (hsf : p ≠ .sf) {s} (k : Kept p b s) :
    Kept p b (sfLock s) := by
  unfold sfLock
  try dsimp only
  repeat' first | with_reducible assumption | (intro _; try dsimp only) | with_reducible apply sfAccept_kept hregs | with_reducible apply foldl_kept | with_reducible apply ite_kept | (fail_if_no_progress (with_reducible refine mk_kept ?_)) | split

theorem execLock_kept (hregs : p ≠ .regs) (hmgmt : p ≠ .mgmt) (hsf : p ≠ .sf) {x1 s t} (k : Kept p b s) (e : execLock x1 s = .next t) :
    Kept p b t := by
  unfold execLock at e
  injection e with e
  subst e
  try dsimp only
  repeat' first | with_reducible assumption | (intro _; try dsimp only) | with_reducible apply hostWrite_kept hregs hmgmt | with_reducible apply sfLock_kept hregs hsf | with_reducible apply foldl_kept | with_reducible apply ite_kept | (fail_if_no_progress (with_reducible refine mk_kept ?_)) | split

theorem verdictMove_kept (hmode : p ≠ .mode) (hregs : p ≠ .regs) (htime : p ≠ .time) (hmgmt : p ≠ .mgmt) (hcal : p ≠ .cal) (hrx : p ≠ .rx) (htx : p ≠ .tx) (hsf : p ≠ .sf) (hfw : p ≠ .fw) {x1 s} (k : Kept p b s) :
    Kept p b (verdictMove x1 s) := by
  unfold verdictMove
  try dsimp only
  repeat' first | with_reducible assumption | (intro _; try dsimp only) | with_reducible apply setSfc_kept hsf | with_reducible apply enterSf_kept hmode hregs htime hmgmt hcal hrx htx hsf hfw | with_reducible apply foldl_kept | with_reducible apply ite_kept | (fail_if_no_progress (with_reducible refine mk_kept ?_)) | split

theorem readback_kept (hmode : p ≠ .mode) (hregs : p ≠ .regs) (htime : p ≠ .time) (hmgmt : p ≠ .mgmt) (hcal : p ≠ .cal) (hrx : p ≠ .rx) (htx : p ≠ .tx) (hsf : p ≠ .sf) (hfw : p ≠ .fw) {x1 x2 x3 s} (k : Kept p b s) :
    Kept p b (readback x1 x2 x3 s) := by
  unfold readback
  try dsimp only
  repeat' first | with_reducible assumption | (intro _; try dsimp only) | with_reducible apply setSfc_kept hsf | with_reducible apply faultSf_kept hmode hregs htime hmgmt hcal hrx htx hsf hfw | with_reducible apply foldl_kept | with_reducible apply ite_kept | (fail_if_no_progress (with_reducible refine mk_kept ?_)) | split

theorem dropCommit_kept (hregs : p ≠ .regs) (hmgmt : p ≠ .mgmt) (hsf : p ≠ .sf) {s} (k : Kept p b s) :
    Kept p b (dropCommit s) := by
  unfold dropCommit
  try dsimp only
  repeat' first | with_reducible assumption | (intro _; try dsimp only) | with_reducible apply flag_kept hregs hmgmt | with_reducible apply foldl_kept | with_reducible apply ite_kept | (fail_if_no_progress (with_reducible refine mk_kept ?_)) | split

theorem judgeSums_kept (hregs : p ≠ .regs) (hsf : p ≠ .sf) {x1 s} (k : Kept p b s) :
    Kept p b (judgeSums x1 s) := by
  unfold judgeSums
  try dsimp only
  repeat' first | with_reducible assumption | (intro _; try dsimp only) | with_reducible apply setCause_kept hregs hsf | with_reducible apply foldl_kept | with_reducible apply ite_kept | (fail_if_no_progress (with_reducible refine mk_kept ?_)) | split

theorem resetSf_kept (hmode : p ≠ .mode) (hregs : p ≠ .regs) (htime : p ≠ .time) (hmgmt : p ≠ .mgmt) (hcal : p ≠ .cal) (hrx : p ≠ .rx) (htx : p ≠ .tx) (hsf : p ≠ .sf) (hfw : p ≠ .fw) (hfresh : p ≠ .fresh) {x1 x2 x3 s} (k : Kept p b s) :
    Kept p b (resetSf x1 x2 x3 s) := by
  unfold resetSf
  try dsimp only
  repeat' first | with_reducible assumption | (intro _; try dsimp only) | with_reducible apply drawFree_kept hfresh | with_reducible apply setSfc_kept hsf | with_reducible apply judgeSf_kept hmode hregs htime hmgmt hcal hrx htx hsf hfw | with_reducible apply judgeSums_kept hregs hsf | with_reducible apply setCause_kept hregs hsf | with_reducible apply judgeAxis_kept hmode hregs htime hmgmt hcal hrx htx hsf hfw | with_reducible apply forUp_kept | with_reducible apply foldl_kept | with_reducible apply ite_kept | (fail_if_no_progress (with_reducible refine mk_kept ?_)) | split

theorem putSet_kept (hmode : p ≠ .mode) (hregs : p ≠ .regs) (htime : p ≠ .time) (hmgmt : p ≠ .mgmt) (hcal : p ≠ .cal) (hrx : p ≠ .rx) (htx : p ≠ .tx) (hsf : p ≠ .sf) (hfw : p ≠ .fw) (hfresh : p ≠ .fresh) {x1 x2 x3 x4 s} (k : Kept p b s) :
    Kept p b (putSet x1 x2 x3 x4 s) := by
  unfold putSet
  try dsimp only
  repeat' first | with_reducible assumption | (intro _; try dsimp only) | with_reducible apply setReg_kept hregs | with_reducible apply logSf_kept hregs hmgmt hsf | with_reducible apply resetSf_kept hmode hregs htime hmgmt hcal hrx htx hsf hfw hfresh | with_reducible apply foldl_kept | with_reducible apply ite_kept | (fail_if_no_progress (with_reducible refine mk_kept ?_)) | split

theorem applySf_kept (hmode : p ≠ .mode) (hregs : p ≠ .regs) (htime : p ≠ .time) (hcut : p ≠ .cut) (hmgmt : p ≠ .mgmt) (hcal : p ≠ .cal) (hrx : p ≠ .rx) (htx : p ≠ .tx) (hsf : p ≠ .sf) (hfw : p ≠ .fw) (hfresh : p ≠ .fresh) {x1 s} (k : Kept p b s) :
    Kept p b (applySf x1 s) := by
  unfold applySf
  try dsimp only
  repeat' first | with_reducible assumption | (intro _; try dsimp only) | with_reducible apply markApplied_kept hcut | with_reducible apply dropCommit_kept hregs hmgmt hsf | with_reducible apply putSet_kept hmode hregs htime hmgmt hcal hrx htx hsf hfw hfresh | with_reducible apply foldl_kept | with_reducible apply ite_kept | (fail_if_no_progress (with_reducible refine mk_kept ?_)) | split

theorem execXcDecide_kept (hmode : p ≠ .mode) (hregs : p ≠ .regs) (htime : p ≠ .time) (hmgmt : p ≠ .mgmt) (hcal : p ≠ .cal) (hrx : p ≠ .rx) (htx : p ≠ .tx) (hsf : p ≠ .sf) (hfw : p ≠ .fw) {x1 s t} (k : Kept p b s) (e : execXcDecide x1 s = .next t) :
    Kept p b t := by
  unfold execXcDecide at e
  injection e with e
  subst e
  try dsimp only
  repeat' first | with_reducible assumption | (intro _; try dsimp only) | with_reducible apply judgeEdge_kept hregs hmgmt hsf | with_reducible apply setSfc_kept hsf | with_reducible apply faultSf_kept hmode hregs htime hmgmt hcal hrx htx hsf hfw | with_reducible apply foldl_kept | with_reducible apply ite_kept | (fail_if_no_progress (with_reducible refine mk_kept ?_)) | split

theorem easeSf_kept (hregs : p ≠ .regs) (hsf : p ≠ .sf) {x1 s} (k : Kept p b s) :
    Kept p b (easeSf x1 s) := by
  unfold easeSf
  try dsimp only
  repeat' first | with_reducible assumption | (intro _; try dsimp only) | with_reducible apply lumpSf_kept hsf | with_reducible apply setCause_kept hregs hsf | with_reducible apply foldl_kept | with_reducible apply ite_kept | (fail_if_no_progress (with_reducible refine mk_kept ?_)) | split

theorem execStageLoad_kept (hregs : p ≠ .regs) (hmgmt : p ≠ .mgmt) (hsf : p ≠ .sf) {x1 s t} (k : Kept p b s) (e : execStageLoad x1 s = .next t) :
    Kept p b t := by
  unfold execStageLoad at e
  injection e with e
  subst e
  try dsimp only
  repeat' first | with_reducible assumption | (intro _; try dsimp only) | with_reducible apply hostWrite_kept hregs hmgmt | with_reducible apply sfStageLoad_kept hregs hsf | with_reducible apply foldl_kept | with_reducible apply ite_kept | (fail_if_no_progress (with_reducible refine mk_kept ?_)) | split

theorem finishStartup_kept (hregs : p ≠ .regs) {x1 s} (k : Kept p b s) :
    Kept p b (finishStartup x1 s) := by
  unfold finishStartup
  split
  · have h := fsets_kept (x1 := MODE_STATUS) (x2 := [(MODE_STATUS.phase, 6), (MODE_STATUS.startup_done, 1), (MODE_STATUS.selftest_pass, b2n x1)]) hregs k
    split
    · exact fset_kept hregs h
    · exact h
  · exact k

theorem endSf_kept (hmode : p ≠ .mode) (hregs : p ≠ .regs) (htime : p ≠ .time) (hmgmt : p ≠ .mgmt) (hcal : p ≠ .cal) (hrx : p ≠ .rx) (htx : p ≠ .tx) (hsf : p ≠ .sf) (hfw : p ≠ .fw) {x1 x2 s} (k : Kept p b s) :
    Kept p b (endSf x1 x2 s) := by
  unfold endSf
  try dsimp only
  repeat' first | with_reducible assumption | (intro _; try dsimp only) | with_reducible apply passSf_kept hmode hregs htime hmgmt hcal hrx htx hsf hfw | with_reducible apply enterSf_kept hmode hregs htime hmgmt hcal hrx htx hsf hfw | with_reducible apply foldl_kept | with_reducible apply ite_kept | (fail_if_no_progress (with_reducible refine mk_kept ?_)) | split

theorem execSelftestDone_kept (hmode : p ≠ .mode) (hregs : p ≠ .regs) (htime : p ≠ .time) (hmgmt : p ≠ .mgmt) (hcal : p ≠ .cal) (hrx : p ≠ .rx) (htx : p ≠ .tx) (hsf : p ≠ .sf) (hfw : p ≠ .fw) {x1 s t} (k : Kept p b s) (e : execSelftestDone x1 s = .next t) :
    Kept p b t := by
  unfold execSelftestDone at e
  injection e with e
  subst e
  try dsimp only
  repeat' first | with_reducible assumption | (intro _; try dsimp only) | with_reducible apply finishStartup_kept hregs | with_reducible apply fsets_kept hregs | with_reducible apply endSf_kept hmode hregs htime hmgmt hcal hrx htx hsf hfw | with_reducible apply foldl_kept | with_reducible apply ite_kept | (fail_if_no_progress (with_reducible refine mk_kept ?_)) | split

theorem execMotionSampleRequest_kept (hadcs : p ≠ .adcs) (hsf : p ≠ .sf) {x1 x2 s t} (k : Kept p b s) (e : execMotionSampleRequest x1 x2 s = .next t) :
    Kept p b t := by
  unfold execMotionSampleRequest at e
  injection e with e
  subst e
  try dsimp only
  repeat' first | with_reducible assumption | (intro _; try dsimp only) | with_reducible apply sendReq_kept hadcs | with_reducible apply setSfc_kept hsf | with_reducible apply foldl_kept | with_reducible apply ite_kept | (fail_if_no_progress (with_reducible refine mk_kept ?_)) | split

theorem sfFire_kept (hmode : p ≠ .mode) (hregs : p ≠ .regs) (htime : p ≠ .time) (hmgmt : p ≠ .mgmt) (hcal : p ≠ .cal) (hrx : p ≠ .rx) (htx : p ≠ .tx) (hsf : p ≠ .sf) (hfw : p ≠ .fw) {x1 x2 x3 x4 x5 s} (k : Kept p b s) :
    Kept p b (sfFire x1 x2 x3 x4 x5 s) := by
  unfold sfFire
  try dsimp only
  repeat' first | with_reducible assumption | (intro _; try dsimp only) | with_reducible apply lumpSf_kept hsf | with_reducible apply setSfc_kept hsf | with_reducible apply raiseSf_kept hmode hregs htime hmgmt hcal hrx htx hsf hfw | with_reducible apply foldl_kept | with_reducible apply ite_kept | (fail_if_no_progress (with_reducible refine mk_kept ?_)) | split

theorem cycleTime_kept (hmode : p ≠ .mode) (hregs : p ≠ .regs) (htime : p ≠ .time) (hmgmt : p ≠ .mgmt) (hcal : p ≠ .cal) (hrx : p ≠ .rx) (htx : p ≠ .tx) (hsf : p ≠ .sf) (hfw : p ≠ .fw) {x1 s} (k : Kept p b s) :
    Kept p b (cycleTime x1 s) := by
  unfold cycleTime
  try dsimp only
  repeat' first | with_reducible assumption | (intro _; try dsimp only) | with_reducible apply setSfc_kept hsf | with_reducible apply faultSf_kept hmode hregs htime hmgmt hcal hrx htx hsf hfw | with_reducible apply foldl_kept | with_reducible apply ite_kept | (fail_if_no_progress (with_reducible refine mk_kept ?_)) | split

theorem execTestPulseSample_kept (hmode : p ≠ .mode) (hregs : p ≠ .regs) (htime : p ≠ .time) (hmgmt : p ≠ .mgmt) (hcal : p ≠ .cal) (hrx : p ≠ .rx) (htx : p ≠ .tx) (hsf : p ≠ .sf) (hfw : p ≠ .fw) {x1 x2 x3 s t} (k : Kept p b s) (e : execTestPulseSample x1 x2 x3 s = .next t) :
    Kept p b t := by
  unfold execTestPulseSample at e
  injection e with e
  subst e
  try dsimp only
  repeat' first | with_reducible assumption | (intro _; try dsimp only) | with_reducible apply setSfc_kept hsf | with_reducible apply faultSf_kept hmode hregs htime hmgmt hcal hrx htx hsf hfw | with_reducible apply foldl_kept | with_reducible apply ite_kept | (fail_if_no_progress (with_reducible refine mk_kept ?_)) | split

theorem execEstopChange_kept (hmode : p ≠ .mode) (hregs : p ≠ .regs) (htime : p ≠ .time) (hmgmt : p ≠ .mgmt) (hcal : p ≠ .cal) (hrx : p ≠ .rx) (htx : p ≠ .tx) (hsf : p ≠ .sf) (hfw : p ≠ .fw) {x1 x2 s t} (k : Kept p b s) (e : execEstopChange x1 x2 s = .next t) :
    Kept p b t := by
  unfold execEstopChange at e
  injection e with e
  subst e
  try dsimp only
  repeat' first | with_reducible assumption | (intro _; try dsimp only) | with_reducible apply fset_kept hregs | with_reducible apply judgeSf_kept hmode hregs htime hmgmt hcal hrx htx hsf hfw | with_reducible apply setCause_kept hregs hsf | with_reducible apply foldl_kept | with_reducible apply ite_kept | (fail_if_no_progress (with_reducible refine mk_kept ?_)) | split

theorem execTestPulseEnd_kept (hsf : p ≠ .sf) {x1 s t} (k : Kept p b s) (e : execTestPulseEnd x1 s = .next t) :
    Kept p b t := by
  unfold execTestPulseEnd at e
  injection e with e
  subst e
  try dsimp only
  repeat' first | with_reducible assumption | (intro _; try dsimp only) | with_reducible apply setSfc_kept hsf | with_reducible apply foldl_kept | with_reducible apply ite_kept | (fail_if_no_progress (with_reducible refine mk_kept ?_)) | split

theorem peerTrip_kept (hregs : p ≠ .regs) (hsf : p ≠ .sf) {x1 s} (k : Kept p b s) :
    Kept p b (peerTrip x1 s) := by
  unfold peerTrip
  try dsimp only
  repeat' first | with_reducible assumption | (intro _; try dsimp only) | with_reducible apply setCause_kept hregs hsf | with_reducible apply foldl_kept | with_reducible apply ite_kept | (fail_if_no_progress (with_reducible refine mk_kept ?_)) | split

theorem execXcSend_kept (hsf : p ≠ .sf) {x1 s t} (k : Kept p b s) (e : execXcSend x1 s = .next t) :
    Kept p b t := by
  unfold execXcSend at e
  injection e with e
  subst e
  try dsimp only
  repeat' first | with_reducible assumption | (intro _; try dsimp only) | with_reducible apply setSfc_kept hsf | with_reducible apply foldl_kept | with_reducible apply ite_kept | (fail_if_no_progress (with_reducible refine mk_kept ?_)) | split

theorem execXcMessage_kept (hsf : p ≠ .sf) {x1 s t} (k : Kept p b s) (e : execXcMessage x1 s = .next t) :
    Kept p b t := by
  unfold execXcMessage at e
  injection e with e
  subst e
  try dsimp only
  repeat' first | with_reducible assumption | (intro _; try dsimp only) | with_reducible apply setSfc_kept hsf | with_reducible apply foldl_kept | with_reducible apply ite_kept | (fail_if_no_progress (with_reducible refine mk_kept ?_)) | split

theorem beginSelftest_kept (hmode : p ≠ .mode) (hregs : p ≠ .regs) (htime : p ≠ .time) (hmgmt : p ≠ .mgmt) (hcal : p ≠ .cal) (hrx : p ≠ .rx) (htx : p ≠ .tx) (hadcs : p ≠ .adcs) (hmotionIn : p ≠ .motionIn) (hsf : p ≠ .sf) (hfw : p ≠ .fw) {s} (k : Kept p b s) :
    Kept p b (beginSelftest s) := by
  unfold beginSelftest
  try dsimp only
  repeat' first | with_reducible assumption | (intro _; try dsimp only) | with_reducible apply fsets_kept hregs | with_reducible apply enterSf_kept hmode hregs htime hmgmt hcal hrx htx hsf hfw | with_reducible apply sendReq_kept hadcs | with_reducible apply forUp_kept | with_reducible apply foldl_kept | with_reducible apply ite_kept | (fail_if_no_progress (with_reducible refine mk_kept ?_)) | split

theorem startSelftest_kept (hmode : p ≠ .mode) (hregs : p ≠ .regs) (htime : p ≠ .time) (hmgmt : p ≠ .mgmt) (hcal : p ≠ .cal) (hrx : p ≠ .rx) (htx : p ≠ .tx) (hadcs : p ≠ .adcs) (hmotionIn : p ≠ .motionIn) (hsf : p ≠ .sf) (hfw : p ≠ .fw) {s} (k : Kept p b s) :
    Kept p b (startSelftest s) := by
  unfold startSelftest
  try dsimp only
  repeat' first | with_reducible assumption | (intro _; try dsimp only) | with_reducible apply beginSelftest_kept hmode hregs htime hmgmt hcal hrx htx hadcs hmotionIn hsf hfw | with_reducible apply fset_kept hregs | with_reducible apply foldl_kept | with_reducible apply ite_kept | (fail_if_no_progress (with_reducible refine mk_kept ?_)) | split

theorem execScanFault_kept (hmode : p ≠ .mode) (hregs : p ≠ .regs) (htime : p ≠ .time) (hmgmt : p ≠ .mgmt) (hcal : p ≠ .cal) (hrx : p ≠ .rx) (htx : p ≠ .tx) (hsc : p ≠ .sc) (hsf : p ≠ .sf) (hfw : p ≠ .fw) {x1 s t} (k : Kept p b s) (e : execScanFault x1 s = .next t) :
    Kept p b t := by
  unfold execScanFault at e
  injection e with e
  subst e
  try dsimp only
  repeat' first | with_reducible assumption | (intro _; try dsimp only) | with_reducible apply judgeAxis_kept hmode hregs htime hmgmt hcal hrx htx hsf hfw | with_reducible apply setSfc_kept hsf | with_reducible apply foldl_kept | with_reducible apply ite_kept | (fail_if_no_progress (with_reducible refine mk_kept ?_)) | split

theorem execTestPulseStart_kept (hsf : p ≠ .sf) {x1 s t} (k : Kept p b s) (e : execTestPulseStart x1 s = .next t) :
    Kept p b t := by
  unfold execTestPulseStart at e
  injection e with e
  subst e
  try dsimp only
  repeat' first | with_reducible assumption | (intro _; try dsimp only) | with_reducible apply setSfc_kept hsf | with_reducible apply foldl_kept | with_reducible apply ite_kept | (fail_if_no_progress (with_reducible refine mk_kept ?_)) | split

theorem commitDue_kept (hmode : p ≠ .mode) (hregs : p ≠ .regs) (htime : p ≠ .time) (hmgmt : p ≠ .mgmt) (hcal : p ≠ .cal) (hrx : p ≠ .rx) (htx : p ≠ .tx) (hsf : p ≠ .sf) (hfw : p ≠ .fw) (hfresh : p ≠ .fresh) {x1 s} (k : Kept p b s) :
    Kept p b (commitDue x1 s) := by
  unfold commitDue
  try dsimp only
  repeat' first | with_reducible assumption | (intro _; try dsimp only) | with_reducible apply logRequester_kept hfresh | with_reducible apply putSet_kept hmode hregs htime hmgmt hcal hrx htx hsf hfw hfresh | with_reducible apply foldl_kept | with_reducible apply ite_kept | (fail_if_no_progress (with_reducible refine mk_kept ?_)) | split

theorem pwdWritten_kept (hsf : p ≠ .sf) {s} (k : Kept p b s) :
    Kept p b (pwdWritten s) := by
  unfold pwdWritten
  try dsimp only
  repeat' first | with_reducible assumption | (intro _; try dsimp only) | with_reducible apply foldl_kept | with_reducible apply ite_kept | (fail_if_no_progress (with_reducible refine mk_kept ?_)) | split

theorem sfKnown_kept (hmode : p ≠ .mode) (hregs : p ≠ .regs) (htime : p ≠ .time) (hmgmt : p ≠ .mgmt) (hcal : p ≠ .cal) (hrx : p ≠ .rx) (htx : p ≠ .tx) (hsf : p ≠ .sf) (hfw : p ≠ .fw) {x1 x2 s} (k : Kept p b s) :
    Kept p b (sfKnown x1 x2 s) := by
  unfold sfKnown
  try dsimp only
  repeat' first | with_reducible assumption | (intro _; try dsimp only) | with_reducible apply raiseSf_kept hmode hregs htime hmgmt hcal hrx htx hsf hfw | with_reducible apply foldl_kept | with_reducible apply ite_kept | (fail_if_no_progress (with_reducible refine mk_kept ?_)) | split

theorem execFireReport_kept (hmode : p ≠ .mode) (hregs : p ≠ .regs) (htime : p ≠ .time) (hmgmt : p ≠ .mgmt) (hcal : p ≠ .cal) (hrx : p ≠ .rx) (htx : p ≠ .tx) (hsf : p ≠ .sf) (hfw : p ≠ .fw) {x1 x2 s t} (k : Kept p b s) (e : execFireReport x1 x2 s = .next t) :
    Kept p b t := by
  unfold execFireReport at e
  injection e with e
  subst e
  try dsimp only
  repeat' first | with_reducible assumption | (intro _; try dsimp only) | with_reducible apply sfKnown_kept hmode hregs htime hmgmt hcal hrx htx hsf hfw | with_reducible apply sfFire_kept hmode hregs htime hmgmt hcal hrx htx hsf hfw | with_reducible apply foldl_kept | with_reducible apply ite_kept | (fail_if_no_progress (with_reducible refine mk_kept ?_)) | split

theorem sfStandDown_kept (hmode : p ≠ .mode) (hregs : p ≠ .regs) (htime : p ≠ .time) (hmgmt : p ≠ .mgmt) (hcal : p ≠ .cal) (hrx : p ≠ .rx) (htx : p ≠ .tx) (hsf : p ≠ .sf) (hfw : p ≠ .fw) {s} (k : Kept p b s) :
    Kept p b (sfStandDown s) := by
  unfold sfStandDown
  try dsimp only
  repeat' first | with_reducible assumption | (intro _; try dsimp only) | with_reducible apply enterSf_kept hmode hregs htime hmgmt hcal hrx htx hsf hfw | with_reducible apply forUp_kept | with_reducible apply foldl_kept | with_reducible apply ite_kept | (fail_if_no_progress (with_reducible refine mk_kept ?_)) | split

theorem sfDisarm_kept (hmode : p ≠ .mode) (hregs : p ≠ .regs) (htime : p ≠ .time) (hmgmt : p ≠ .mgmt) (hcal : p ≠ .cal) (hrx : p ≠ .rx) (htx : p ≠ .tx) (hsf : p ≠ .sf) (hfw : p ≠ .fw) {s} (k : Kept p b s) :
    Kept p b (sfDisarm s) := by
  unfold sfDisarm
  try dsimp only
  repeat' first | with_reducible assumption | (intro _; try dsimp only) | with_reducible apply sfStandDown_kept hmode hregs htime hmgmt hcal hrx htx hsf hfw | with_reducible apply sfAccept_kept hregs | with_reducible apply foldl_kept | with_reducible apply ite_kept | (fail_if_no_progress (with_reducible refine mk_kept ?_)) | split

theorem execDisarm_kept (hmode : p ≠ .mode) (hregs : p ≠ .regs) (htime : p ≠ .time) (hmgmt : p ≠ .mgmt) (hcal : p ≠ .cal) (hrx : p ≠ .rx) (htx : p ≠ .tx) (hsf : p ≠ .sf) (hfw : p ≠ .fw) {x1 s t} (k : Kept p b s) (e : execDisarm x1 s = .next t) :
    Kept p b t := by
  unfold execDisarm at e
  injection e with e
  subst e
  try dsimp only
  repeat' first | with_reducible assumption | (intro _; try dsimp only) | with_reducible apply hostWrite_kept hregs hmgmt | with_reducible apply sfDisarm_kept hmode hregs htime hmgmt hcal hrx htx hsf hfw | with_reducible apply foldl_kept | with_reducible apply ite_kept | (fail_if_no_progress (with_reducible refine mk_kept ?_)) | split

theorem execSafetyCycle_kept (hmode : p ≠ .mode) (hregs : p ≠ .regs) (htime : p ≠ .time) (hmgmt : p ≠ .mgmt) (hcal : p ≠ .cal) (hrx : p ≠ .rx) (htx : p ≠ .tx) (hadcs : p ≠ .adcs) (hmotionIn : p ≠ .motionIn) (hsf : p ≠ .sf) (hfw : p ≠ .fw) {x1 x2 x3 x4 s t} (k : Kept p b s) (e : execSafetyCycle x1 x2 x3 x4 s = .next t) :
    Kept p b t := by
  unfold execSafetyCycle at e
  injection e with e
  subst e
  try dsimp only
  repeat' first | with_reducible assumption | (intro _; try dsimp only) | with_reducible apply startSelftest_kept hmode hregs htime hmgmt hcal hrx htx hadcs hmotionIn hsf hfw | with_reducible apply fsets_kept hregs | with_reducible apply judgeSf_kept hmode hregs htime hmgmt hcal hrx htx hsf hfw | with_reducible apply peerTrip_kept hregs hsf | with_reducible apply judgeSums_kept hregs hsf | with_reducible apply easeSf_kept hregs hsf | with_reducible apply readback_kept hmode hregs htime hmgmt hcal hrx htx hsf hfw | with_reducible apply cycleTime_kept hmode hregs htime hmgmt hcal hrx htx hsf hfw | with_reducible apply enterSf_kept hmode hregs htime hmgmt hcal hrx htx hsf hfw | with_reducible apply verdictMove_kept hmode hregs htime hmgmt hcal hrx htx hsf hfw | with_reducible apply foldl_kept | with_reducible apply ite_kept | (fail_if_no_progress (with_reducible refine mk_kept ?_)) | split

theorem execMotionSample_kept (hmode : p ≠ .mode) (hregs : p ≠ .regs) (htime : p ≠ .time) (hmgmt : p ≠ .mgmt) (hcal : p ≠ .cal) (hrx : p ≠ .rx) (htx : p ≠ .tx) (hmotionIn : p ≠ .motionIn) (hsf : p ≠ .sf) (hfw : p ≠ .fw) {x1 s t} (k : Kept p b s) (e : execMotionSample x1 s = .next t) :
    Kept p b t := by
  unfold execMotionSample at e
  injection e with e
  subst e
  try dsimp only
  repeat' first | with_reducible assumption | (intro _; try dsimp only) | with_reducible apply judgeAxis_kept hmode hregs htime hmgmt hcal hrx htx hsf hfw | with_reducible apply setSfc_kept hsf | with_reducible apply foldl_kept | with_reducible apply ite_kept | (fail_if_no_progress (with_reducible refine mk_kept ?_)) | split

theorem execSafeRstEdge_kept (hsf : p ≠ .sf) {s t} (k : Kept p b s) (e : execSafeRstEdge s = .next t) :
    Kept p b t := by
  unfold execSafeRstEdge at e
  injection e with e
  subst e
  try dsimp only
  repeat' first | with_reducible assumption | (intro _; try dsimp only) | with_reducible apply foldl_kept | with_reducible apply ite_kept | (fail_if_no_progress (with_reducible refine mk_kept ?_)) | split

theorem execSafeRstStuck_kept (hregs : p ≠ .regs) (hmgmt : p ≠ .mgmt) (hsf : p ≠ .sf) {x1 s t} (k : Kept p b s) (e : execSafeRstStuck x1 s = .next t) :
    Kept p b t := by
  unfold execSafeRstStuck at e
  injection e with e
  subst e
  try dsimp only
  repeat' first | with_reducible assumption | (intro _; try dsimp only) | with_reducible apply flagIf_kept hregs hmgmt | with_reducible apply foldl_kept | with_reducible apply ite_kept | (fail_if_no_progress (with_reducible refine mk_kept ?_)) | split

theorem execSfBadCommand_kept (hregs : p ≠ .regs) (hmgmt : p ≠ .mgmt) {x1 x2 s t} (k : Kept p b s) (e : execSfBadCommand x1 x2 s = .next t) :
    Kept p b t := by
  unfold execSfBadCommand at e
  injection e with e
  subst e
  try dsimp only
  repeat' first | with_reducible assumption | (intro _; try dsimp only) | with_reducible apply hostWrite_kept hregs hmgmt | with_reducible apply sfRefuse_kept hregs hmgmt | with_reducible apply foldl_kept | with_reducible apply ite_kept | (fail_if_no_progress (with_reducible refine mk_kept ?_)) | split

theorem sfSetPwd_kept (hregs : p ≠ .regs) (hmgmt : p ≠ .mgmt) (hsf : p ≠ .sf) (hfresh : p ≠ .fresh) (hpwd : p ≠ .pwd) {x1 s} (k : Kept p b s) :
    Kept p b (sfSetPwd x1 s) := by
  unfold sfSetPwd
  repeat' first | with_reducible assumption | with_reducible apply sfRefuse_kept hregs hmgmt | split
  rename_i code s1 h
  have k1 : Kept p b s1 := by
    have k0 := logRequester_kept hfresh (x1 := x1)
      (sfAccept_kept hregs (s := { s with sf := { s.sf with pwdA := some s.pwdBytes, pwdB := some s.pwdBytes } }) (p := p) (b := b) ?_)
    · rwa [h] at k0
    · by_cases e : p = .sound
      · subst e
        exact fun h => ⟨rfl, (k h).2⟩
      · exact mk_kept k
  exact logSf_kept hregs hmgmt hsf k1

theorem sfSelftest_kept (hmode : p ≠ .mode) (hregs : p ≠ .regs) (htime : p ≠ .time) (hmgmt : p ≠ .mgmt) (hcal : p ≠ .cal) (hrx : p ≠ .rx) (htx : p ≠ .tx) (hadcs : p ≠ .adcs) (hmotionIn : p ≠ .motionIn) (hsf : p ≠ .sf) (hfw : p ≠ .fw) {s} (k : Kept p b s) :
    Kept p b (sfSelftest s) := by
  unfold sfSelftest
  try dsimp only
  repeat' first | with_reducible assumption | (intro _; try dsimp only) | with_reducible apply beginSelftest_kept hmode hregs htime hmgmt hcal hrx htx hadcs hmotionIn hsf hfw | with_reducible apply sfAccept_kept hregs | with_reducible apply sfRefuse_kept hregs hmgmt | with_reducible apply foldl_kept | with_reducible apply ite_kept | (fail_if_no_progress (with_reducible refine mk_kept ?_)) | split

theorem execSelftest_kept (hmode : p ≠ .mode) (hregs : p ≠ .regs) (htime : p ≠ .time) (hmgmt : p ≠ .mgmt) (hcal : p ≠ .cal) (hrx : p ≠ .rx) (htx : p ≠ .tx) (hadcs : p ≠ .adcs) (hmotionIn : p ≠ .motionIn) (hsf : p ≠ .sf) (hfw : p ≠ .fw) {x1 s t} (k : Kept p b s) (e : execSelftest x1 s = .next t) :
    Kept p b t := by
  unfold execSelftest at e
  injection e with e
  subst e
  try dsimp only
  repeat' first | with_reducible assumption | (intro _; try dsimp only) | with_reducible apply hostWrite_kept hregs hmgmt | with_reducible apply sfSelftest_kept hmode hregs htime hmgmt hcal hrx htx hadcs hmotionIn hsf hfw | with_reducible apply foldl_kept | with_reducible apply ite_kept | (fail_if_no_progress (with_reducible refine mk_kept ?_)) | split

theorem execLockoutExpiry_kept (hsf : p ≠ .sf) {s t} (k : Kept p b s) (e : execLockoutExpiry s = .next t) :
    Kept p b t := by
  unfold execLockoutExpiry at e
  injection e with e
  subst e
  try dsimp only
  repeat' first | with_reducible assumption | (intro _; try dsimp only) | with_reducible apply foldl_kept | with_reducible apply ite_kept | (fail_if_no_progress (with_reducible refine mk_kept ?_)) | split

theorem execSetPwd_kept (hregs : p ≠ .regs) (hmgmt : p ≠ .mgmt) (hsf : p ≠ .sf) (hfresh : p ≠ .fresh) (hpwd : p ≠ .pwd) {x1 s t} (k : Kept p b s) (e : execSetPwd x1 s = .next t) :
    Kept p b t := by
  unfold execSetPwd at e
  injection e with e
  subst e
  try dsimp only
  repeat' first | with_reducible assumption | (intro _; try dsimp only) | with_reducible apply hostWrite_kept hregs hmgmt | with_reducible apply sfSetPwd_kept hregs hmgmt hsf hfresh hpwd | with_reducible apply foldl_kept | with_reducible apply ite_kept | (fail_if_no_progress (with_reducible refine mk_kept ?_)) | split

theorem execOffDemand_kept (hmode : p ≠ .mode) (hregs : p ≠ .regs) (htime : p ≠ .time) (hmgmt : p ≠ .mgmt) (hcal : p ≠ .cal) (hrx : p ≠ .rx) (htx : p ≠ .tx) (hsf : p ≠ .sf) (hfw : p ≠ .fw) {x1 s t} (k : Kept p b s) (e : execOffDemand x1 s = .next t) :
    Kept p b t := by
  unfold execOffDemand at e
  injection e with e
  subst e
  try dsimp only
  repeat' first | with_reducible assumption | (intro _; try dsimp only) | with_reducible apply judgeSf_kept hmode hregs htime hmgmt hcal hrx htx hsf hfw | with_reducible apply setCause_kept hregs hsf | with_reducible apply foldl_kept | with_reducible apply ite_kept | (fail_if_no_progress (with_reducible refine mk_kept ?_)) | split

theorem pwdWrite_kept (hsf : p ≠ .sf) {x1 x2 s} (k : Kept p b s) :
    Kept p b (pwdWrite x1 x2 s) := by
  unfold pwdWrite
  try dsimp only
  repeat' first | with_reducible assumption | (intro _; try dsimp only) | with_reducible apply pwdWritten_kept hsf | with_reducible apply foldl_kept | with_reducible apply ite_kept | (fail_if_no_progress (with_reducible refine mk_kept ?_)) | split

theorem execBudgetStale_kept (hmode : p ≠ .mode) (hregs : p ≠ .regs) (htime : p ≠ .time) (hmgmt : p ≠ .mgmt) (hcal : p ≠ .cal) (hrx : p ≠ .rx) (htx : p ≠ .tx) (hsf : p ≠ .sf) (hfw : p ≠ .fw) {s t} (k : Kept p b s) (e : execBudgetStale s = .next t) :
    Kept p b t := by
  unfold execBudgetStale at e
  injection e with e
  subst e
  try dsimp only
  repeat' first | with_reducible assumption | (intro _; try dsimp only) | with_reducible apply staleSf_kept hmode hregs htime hmgmt hcal hrx htx hsf hfw | with_reducible apply forUp_kept | with_reducible apply foldl_kept | with_reducible apply ite_kept | (fail_if_no_progress (with_reducible refine mk_kept ?_)) | split

theorem execChargeReport_kept (hmode : p ≠ .mode) (hregs : p ≠ .regs) (htime : p ≠ .time) (hmgmt : p ≠ .mgmt) (hcal : p ≠ .cal) (hrx : p ≠ .rx) (htx : p ≠ .tx) (hsf : p ≠ .sf) (hfw : p ≠ .fw) {s t} (k : Kept p b s) (e : execChargeReport s = .next t) :
    Kept p b t := by
  unfold execChargeReport at e
  injection e with e
  subst e
  try dsimp only
  repeat' first | with_reducible assumption | (intro _; try dsimp only) | with_reducible apply sfKnown_kept hmode hregs htime hmgmt hcal hrx htx hsf hfw | with_reducible apply sfFire_kept hmode hregs htime hmgmt hcal hrx htx hsf hfw | with_reducible apply foldl_kept | with_reducible apply ite_kept | (fail_if_no_progress (with_reducible refine mk_kept ?_)) | split

theorem execSessionExpiry_kept (hsf : p ≠ .sf) {s t} (k : Kept p b s) (e : execSessionExpiry s = .next t) :
    Kept p b t := by
  unfold execSessionExpiry at e
  injection e with e
  subst e
  try dsimp only
  repeat' first | with_reducible assumption | (intro _; try dsimp only) | with_reducible apply foldl_kept | with_reducible apply ite_kept | (fail_if_no_progress (with_reducible refine mk_kept ?_)) | split

theorem sfParamWrite_kept (hsf : p ≠ .sf) {x1 s} (k : Kept p b s) :
    Kept p b (sfParamWrite x1 s) := by
  unfold sfParamWrite
  try dsimp only
  repeat' first | with_reducible assumption | (intro _; try dsimp only) | with_reducible apply pwdWritten_kept hsf | with_reducible apply foldl_kept | with_reducible apply ite_kept | (fail_if_no_progress (with_reducible refine mk_kept ?_)) | split

theorem execSfParamDataWrite_kept (hregs : p ≠ .regs) (hmgmt : p ≠ .mgmt) (hsf : p ≠ .sf) {x1 x2 s t} (k : Kept p b s) (e : execSfParamDataWrite x1 x2 s = .next t) :
    Kept p b t := by
  unfold execSfParamDataWrite at e
  injection e with e
  subst e
  try dsimp only
  repeat' first | with_reducible assumption | (intro _; try dsimp only) | with_reducible apply hostWriteIf_kept hregs hmgmt | with_reducible apply sfParamWrite_kept hsf | with_reducible apply foldl_kept | with_reducible apply ite_kept | (fail_if_no_progress (with_reducible refine mk_kept ?_)) | split

theorem execCrossOff_kept (hmode : p ≠ .mode) (hregs : p ≠ .regs) (htime : p ≠ .time) (hmgmt : p ≠ .mgmt) (hcal : p ≠ .cal) (hrx : p ≠ .rx) (htx : p ≠ .tx) (hsf : p ≠ .sf) (hfw : p ≠ .fw) {x1 s t} (k : Kept p b s) (e : execCrossOff x1 s = .next t) :
    Kept p b t := by
  unfold execCrossOff at e
  injection e with e
  subst e
  try dsimp only
  repeat' first | with_reducible assumption | (intro _; try dsimp only) | with_reducible apply raiseSf_kept hmode hregs htime hmgmt hcal hrx htx hsf hfw | with_reducible apply foldl_kept | with_reducible apply ite_kept | (fail_if_no_progress (with_reducible refine mk_kept ?_)) | split

theorem execTickClose_kept (hmode : p ≠ .mode) (hregs : p ≠ .regs) (htime : p ≠ .time) (hcut : p ≠ .cut) (hmgmt : p ≠ .mgmt) (hcal : p ≠ .cal) (hrx : p ≠ .rx) (htx : p ≠ .tx) (hsf : p ≠ .sf) (hfw : p ≠ .fw) (hfresh : p ≠ .fresh) {s t} (k : Kept p b s) (e : execTickClose s = .next t) :
    Kept p b t := by
  unfold execTickClose at e
  injection e with e
  subst e
  try dsimp only
  repeat' first | with_reducible assumption | (intro _; try dsimp only) | with_reducible apply applySf_kept hmode hregs htime hcut hmgmt hcal hrx htx hsf hfw hfresh | with_reducible apply commitDue_kept hmode hregs htime hmgmt hcal hrx htx hsf hfw hfresh | with_reducible apply promoteSf_kept hmode hregs htime hmgmt hcal hrx htx hsf hfw | with_reducible apply setSfc_kept hsf | with_reducible apply forUp_kept | with_reducible apply foldl_kept | with_reducible apply ite_kept | (fail_if_no_progress (with_reducible refine mk_kept ?_)) | split

theorem sfCommand_kept (hmode : p ≠ .mode) (hregs : p ≠ .regs) (htime : p ≠ .time) (hmgmt : p ≠ .mgmt) (hcal : p ≠ .cal) (hrx : p ≠ .rx) (htx : p ≠ .tx) (hadcs : p ≠ .adcs) (hmotionIn : p ≠ .motionIn) (hsf : p ≠ .sf) (hfw : p ≠ .fw) (hfresh : p ≠ .fresh) (hpwd : p ≠ .pwd) {x1 x2 s} (k : Kept p b s) :
    Kept p b (sfCommand x1 x2 s) := by
  unfold sfCommand
  try dsimp only
  repeat' first | with_reducible assumption | (intro _; try dsimp only) | with_reducible apply sfUnlock_kept hregs hmgmt hsf hfresh | with_reducible apply sfLock_kept hregs hsf | with_reducible apply sfSetPwd_kept hregs hmgmt hsf hfresh hpwd | with_reducible apply sfStageLoad_kept hregs hsf | with_reducible apply sfCommit_kept hregs hmgmt hsf | with_reducible apply sfSelftest_kept hmode hregs htime hmgmt hcal hrx htx hadcs hmotionIn hsf hfw | with_reducible apply sfDisarm_kept hmode hregs htime hmgmt hcal hrx htx hsf hfw | with_reducible apply sfRefuse_kept hregs hmgmt | with_reducible apply foldl_kept | with_reducible apply ite_kept | (fail_if_no_progress (with_reducible refine mk_kept ?_)) | split

end Sys2Proof.Machine
end

