-- ==== Sys2Proof/Laws/KeptPair.lean ====
section
/-! SUPPORT. What each operation and command of pairs, recorder, temperatures and reset leaves alone (see Sys2Proof/Laws/Kept.lean). -/
namespace Sys2Proof.Machine

set_option Elab.async false
set_option linter.unusedTactic false
set_option linter.unreachableTactic false

variable {p : Part} {b : State}

theorem setChip_kept (hmgmt : p ≠ .mgmt) {x1 s} (k : Kept p b s) :
    Kept p b (setChip x1 s) := by
  unfold setChip
  try dsimp only
  repeat' first | with_reducible assumption | (intro _; try dsimp only) | with_reducible apply foldl_kept | with_reducible apply ite_kept | (fail_if_no_progress (with_reducible refine mk_kept ?_)) | split

theorem endWrite_kept (hregs : p ≠ .regs) (hmgmt : p ≠ .mgmt) {x1 x2 s} (k : Kept p b s) :
    Kept p b (endWrite x1 x2 s) := by
  unfold endWrite
  try dsimp only
  repeat' first | with_reducible assumption | (intro _; try dsimp only) | with_reducible apply setRecorder_kept hmgmt | with_reducible apply setChip_kept hmgmt | with_reducible apply wrapRecord_kept hregs hmgmt | with_reducible apply foldl_kept | with_reducible apply ite_kept | (fail_if_no_progress (with_reducible refine mk_kept ?_)) | split

theorem clearRegion_kept (hregs : p ≠ .regs) (hmgmt : p ≠ .mgmt) {x1 x2 x3 s} (k : Kept p b s) :
    Kept p b (clearRegion x1 x2 x3 s) := by
  unfold clearRegion
  try dsimp only
  repeat' first | with_reducible assumption | (intro _; try dsimp only) | with_reducible apply setRecorder_kept hmgmt | with_reducible apply endWrite_kept hregs hmgmt | with_reducible apply foldl_kept | with_reducible apply ite_kept | (fail_if_no_progress (with_reducible refine mk_kept ?_)) | split

theorem notPausing_kept (hregs : p ≠ .regs) (hmgmt : p ≠ .mgmt) {f s} (hf : ∀ t, Kept p b t → Kept p b (f t)) (k : Kept p b s) :
    Kept p b (notPausing f s) := by
  unfold notPausing
  try dsimp only
  repeat' first | with_reducible assumption | (intro _; try dsimp only) | with_reducible apply flag_kept hregs hmgmt | with_reducible apply fset_kept hregs | with_reducible apply foldl_kept | with_reducible apply hf | with_reducible apply ite_kept | (fail_if_no_progress (with_reducible refine mk_kept ?_)) | split

theorem chipWrite_kept (hregs : p ≠ .regs) (hmgmt : p ≠ .mgmt) {x1 s} (k : Kept p b s) :
    Kept p b (chipWrite x1 s) := by
  unfold chipWrite
  try dsimp only
  repeat' first | with_reducible assumption | (intro _; try dsimp only) | with_reducible apply setChip_kept hmgmt | with_reducible apply flagIf_kept hregs hmgmt | with_reducible apply wrapRecord_kept hregs hmgmt | with_reducible apply foldl_kept | with_reducible apply ite_kept | (fail_if_no_progress (with_reducible refine mk_kept ?_)) | split

theorem clearChip_kept (hregs : p ≠ .regs) (hmgmt : p ≠ .mgmt) {x1 x2 s} (k : Kept p b s) :
    Kept p b (clearChip x1 x2 s) := by
  unfold clearChip
  try dsimp only
  repeat' first | with_reducible assumption | (intro _; try dsimp only) | with_reducible apply chipWrite_kept hregs hmgmt | with_reducible apply setChip_kept hmgmt | with_reducible apply foldl_kept | with_reducible apply ite_kept | (fail_if_no_progress (with_reducible refine mk_kept ?_)) | split

theorem recClear_kept (hregs : p ≠ .regs) (hmgmt : p ≠ .mgmt) {x1 s} (k : Kept p b s) :
    Kept p b (recClear x1 s) := by
  unfold recClear
  try dsimp only
  repeat' first | with_reducible assumption | (intro _; try dsimp only) | with_reducible apply notPausing_kept hregs hmgmt | with_reducible apply clearRegion_kept hregs hmgmt | with_reducible apply clearChip_kept hregs hmgmt | with_reducible apply setChip_kept hmgmt | with_reducible apply forUp_kept | with_reducible apply foldl_kept | with_reducible apply ite_kept | (fail_if_no_progress (with_reducible refine mk_kept ?_)) | split

theorem execRecordCopy_kept (hregs : p ≠ .regs) (hmgmt : p ≠ .mgmt) {s t} (k : Kept p b s) (e : execRecordCopy s = .next t) :
    Kept p b t := by
  unfold execRecordCopy at e
  injection e with e
  subst e
  try dsimp only
  repeat' first | with_reducible assumption | (intro _; try dsimp only) | with_reducible apply chipWrite_kept hregs hmgmt | with_reducible apply setChip_kept hmgmt | with_reducible apply foldl_kept | with_reducible apply ite_kept | (fail_if_no_progress (with_reducible refine mk_kept ?_)) | split

theorem execFlashMirror_kept (hmgmt : p ≠ .mgmt) {s t} (k : Kept p b s) (e : execFlashMirror s = .next t) :
    Kept p b t := by
  unfold execFlashMirror at e
  injection e with e
  subst e
  try dsimp only
  repeat' first | with_reducible assumption | (intro _; try dsimp only) | with_reducible apply setChip_kept hmgmt | with_reducible apply foldl_kept | with_reducible apply ite_kept | (fail_if_no_progress (with_reducible refine mk_kept ?_)) | split

theorem recDataRead_kept (hregs : p ≠ .regs) (hmgmt : p ≠ .mgmt) {x1 s} (k : Kept p b s) :
    Kept p b (recDataRead x1 s) := by
  unfold recDataRead
  try dsimp only
  repeat' first | with_reducible assumption | (intro _; try dsimp only) | with_reducible apply setReq_kept hmgmt | with_reducible apply flagIf_kept hregs hmgmt | with_reducible apply foldl_kept | with_reducible apply ite_kept | (fail_if_no_progress (with_reducible refine mk_kept ?_)) | split

theorem execRecDataRead_kept (hregs : p ≠ .regs) (hmgmt : p ≠ .mgmt) {x1 s t} (k : Kept p b s) (e : execRecDataRead x1 s = .next t) :
    Kept p b t := by
  unfold execRecDataRead at e
  injection e with e
  subst e
  try dsimp only
  repeat' first | with_reducible assumption | (intro _; try dsimp only) | with_reducible apply recDataRead_kept hregs hmgmt | with_reducible apply complete_kept hregs hmgmt | with_reducible apply foldl_kept | with_reducible apply ite_kept | (fail_if_no_progress (with_reducible refine mk_kept ?_)) | split

theorem recFetch_kept (hregs : p ≠ .regs) (hmgmt : p ≠ .mgmt) {x1 s} (k : Kept p b s) :
    Kept p b (recFetch x1 s) := by
  unfold recFetch
  try dsimp only
  repeat' first | with_reducible assumption | (intro _; try dsimp only) | with_reducible apply notPausing_kept hregs hmgmt | with_reducible apply fset_kept hregs | with_reducible apply foldl_kept | with_reducible apply ite_kept | (fail_if_no_progress (with_reducible refine mk_kept ?_)) | split

theorem execFetch_kept (hregs : p ≠ .regs) (hmgmt : p ≠ .mgmt) {x1 s t} (k : Kept p b s) (e : execFetch x1 s = .next t) :
    Kept p b t := by
  unfold execFetch at e
  injection e with e
  subst e
  try dsimp only
  repeat' first | with_reducible assumption | (intro _; try dsimp only) | with_reducible apply hostWrite_kept hregs hmgmt | with_reducible apply recFetch_kept hregs hmgmt | with_reducible apply foldl_kept | with_reducible apply ite_kept | (fail_if_no_progress (with_reducible refine mk_kept ?_)) | split

theorem recordWritten_kept (hregs : p ≠ .regs) (hmgmt : p ≠ .mgmt) {x1 s} (k : Kept p b s) :
    Kept p b (recordWritten x1 s) := by
  unfold recordWritten
  try dsimp only
  repeat' first | with_reducible assumption | (intro _; try dsimp only) | with_reducible apply endWrite_kept hregs hmgmt | with_reducible apply foldl_kept | with_reducible apply ite_kept | (fail_if_no_progress (with_reducible refine mk_kept ?_)) | split

theorem execClear_kept (hregs : p ≠ .regs) (hmgmt : p ≠ .mgmt) {x1 s t} (k : Kept p b s) (e : execClear x1 s = .next t) :
    Kept p b t := by
  unfold execClear at e
  injection e with e
  subst e
  try dsimp only
  repeat' first | with_reducible assumption | (intro _; try dsimp only) | with_reducible apply hostWriteIf_kept hregs hmgmt | with_reducible apply recClear_kept hregs hmgmt | with_reducible apply foldl_kept | with_reducible apply ite_kept | (fail_if_no_progress (with_reducible refine mk_kept ?_)) | split

theorem execHoursSave_kept (hmgmt : p ≠ .mgmt) {s t} (k : Kept p b s) (e : execHoursSave s = .next t) :
    Kept p b t := by
  unfold execHoursSave at e
  injection e with e
  subst e
  try dsimp only
  repeat' first | with_reducible assumption | (intro _; try dsimp only) | with_reducible apply setChip_kept hmgmt | with_reducible apply foldl_kept | with_reducible apply ite_kept | (fail_if_no_progress (with_reducible refine mk_kept ?_)) | split

theorem execRecordWrite_kept (hregs : p ≠ .regs) (hmgmt : p ≠ .mgmt) {x1 s t} (k : Kept p b s) (e : execRecordWrite x1 s = .next t) :
    Kept p b t := by
  unfold execRecordWrite at e
  injection e with e
  subst e
  try dsimp only
  repeat' first | with_reducible assumption | (intro _; try dsimp only) | with_reducible apply recordWritten_kept hregs hmgmt | with_reducible apply foldl_kept | with_reducible apply ite_kept | (fail_if_no_progress (with_reducible refine mk_kept ?_)) | split

theorem execFetchDone_kept (hregs : p ≠ .regs) (hmgmt : p ≠ .mgmt) {s t} (k : Kept p b s) (e : execFetchDone s = .next t) :
    Kept p b t := by
  unfold execFetchDone at e
  injection e with e
  subst e
  try dsimp only
  repeat' first | with_reducible assumption | (intro _; try dsimp only) | with_reducible apply fset_kept hregs | with_reducible apply setReq_kept hmgmt | with_reducible apply flagIf_kept hregs hmgmt | with_reducible apply foldl_kept | with_reducible apply ite_kept | (fail_if_no_progress (with_reducible refine mk_kept ?_)) | split

theorem setHkChan_kept (hhk : p ≠ .hk) {x1 x2 s} (k : Kept p b s) :
    Kept p b (setHkChan x1 x2 s) := by
  unfold setHkChan
  try dsimp only
  repeat' first | with_reducible assumption | (intro _; try dsimp only) | with_reducible apply foldl_kept | with_reducible apply ite_kept | (fail_if_no_progress (with_reducible refine mk_kept ?_)) | split

theorem setCross_kept (hmode : p ≠ .mode) (hregs : p ≠ .regs) (htime : p ≠ .time) (hmgmt : p ≠ .mgmt) (hstartup : p ≠ .startup) (hcal : p ≠ .cal) (hrx : p ≠ .rx) (htx : p ≠ .tx) (hpairSt : p ≠ .pairSt) (hhk : p ≠ .hk) (hfw : p ≠ .fw) {x1 x2 s} (k : Kept p b s) :
    Kept p b (setCross x1 x2 s) := by
  unfold setCross
  try dsimp only
  repeat' first | with_reducible assumption | (intro _; try dsimp only) | with_reducible apply flag_kept hregs hmgmt | with_reducible apply fset_kept hregs | with_reducible apply setHkChan_kept hhk | with_reducible apply chipReaction_kept hmode hregs htime hmgmt hstartup hcal hrx htx hpairSt hfw | with_reducible apply foldl_kept | with_reducible apply ite_kept | (fail_if_no_progress (with_reducible refine mk_kept ?_)) | split

theorem pushReading_kept (hhk : p ≠ .hk) {x1 x2 s} (k : Kept p b s) :
    Kept p b (pushReading x1 x2 s) := by
  unfold pushReading
  try dsimp only
  repeat' first | with_reducible assumption | (intro _; try dsimp only) | with_reducible apply setHkChan_kept hhk | with_reducible apply foldl_kept | with_reducible apply ite_kept | (fail_if_no_progress (with_reducible refine mk_kept ?_)) | split

theorem releaseCross_kept (hregs : p ≠ .regs) (hstartup : p ≠ .startup) (hhk : p ≠ .hk) {x1 x2 s} (k : Kept p b s) :
    Kept p b (releaseCross x1 x2 s) := by
  unfold releaseCross
  try dsimp only
  repeat' first | with_reducible assumption | (intro _; try dsimp only) | with_reducible apply fset_kept hregs | with_reducible apply setHkChan_kept hhk | with_reducible apply endCause_kept hstartup | with_reducible apply foldl_kept | with_reducible apply ite_kept | (fail_if_no_progress (with_reducible refine mk_kept ?_)) | split

theorem countCross_kept (hmode : p ≠ .mode) (hregs : p ≠ .regs) (htime : p ≠ .time) (hmgmt : p ≠ .mgmt) (hstartup : p ≠ .startup) (hcal : p ≠ .cal) (hrx : p ≠ .rx) (htx : p ≠ .tx) (hpairSt : p ≠ .pairSt) (hhk : p ≠ .hk) (hfw : p ≠ .fw) {x1 x2 x3 x4 s} (k : Kept p b s) :
    Kept p b (countCross x1 x2 x3 x4 s) := by
  unfold countCross
  try dsimp only
  repeat' first | with_reducible assumption | (intro _; try dsimp only) | with_reducible apply setHkChan_kept hhk | with_reducible apply releaseCross_kept hregs hstartup hhk | with_reducible apply setCross_kept hmode hregs htime hmgmt hstartup hcal hrx htx hpairSt hhk hfw | with_reducible apply foldl_kept | with_reducible apply ite_kept | (fail_if_no_progress (with_reducible refine mk_kept ?_)) | split

theorem roundRail_kept (hregs : p ≠ .regs) (hmgmt : p ≠ .mgmt) (hhk : p ≠ .hk) {x1 s} (k : Kept p b s) :
    Kept p b (roundRail x1 s) := by
  unfold roundRail
  try dsimp only
  repeat' first | with_reducible assumption | (intro _; try dsimp only) | with_reducible apply fsets_kept hregs | with_reducible apply setFlag_kept hregs hmgmt | with_reducible apply foldl_kept | with_reducible apply ite_kept | (fail_if_no_progress (with_reducible refine mk_kept ?_)) | split

theorem judgeReading_kept (hmode : p ≠ .mode) (hregs : p ≠ .regs) (htime : p ≠ .time) (hmgmt : p ≠ .mgmt) (hstartup : p ≠ .startup) (hcal : p ≠ .cal) (hrx : p ≠ .rx) (htx : p ≠ .tx) (hpairSt : p ≠ .pairSt) (hhk : p ≠ .hk) (hfw : p ≠ .fw) {x1 x2 s} (k : Kept p b s) :
    Kept p b (judgeReading x1 x2 s) := by
  unfold judgeReading
  try dsimp only
  repeat' first | with_reducible assumption | (intro _; try dsimp only) | with_reducible apply countCross_kept hmode hregs htime hmgmt hstartup hcal hrx htx hpairSt hhk hfw | with_reducible apply setReg_kept hregs | with_reducible apply fsets_kept hregs | with_reducible apply foldl_kept | with_reducible apply ite_kept | (fail_if_no_progress (with_reducible refine mk_kept ?_)) | split

theorem skipReading_kept (hregs : p ≠ .regs) (hmgmt : p ≠ .mgmt) (hhk : p ≠ .hk) {x1 s} (k : Kept p b s) :
    Kept p b (skipReading x1 s) := by
  unfold skipReading
  try dsimp only
  repeat' first | with_reducible assumption | (intro _; try dsimp only) | with_reducible apply setReg_kept hregs | with_reducible apply setHkChan_kept hhk | with_reducible apply flagIf_kept hregs hmgmt | with_reducible apply foldl_kept | with_reducible apply ite_kept | (fail_if_no_progress (with_reducible refine mk_kept ?_)) | split

theorem roundChannel_kept (hmode : p ≠ .mode) (hregs : p ≠ .regs) (htime : p ≠ .time) (hmgmt : p ≠ .mgmt) (hstartup : p ≠ .startup) (hcal : p ≠ .cal) (hrx : p ≠ .rx) (htx : p ≠ .tx) (hpairSt : p ≠ .pairSt) (hhk : p ≠ .hk) (hfw : p ≠ .fw) {x1 x2 s} (k : Kept p b s) :
    Kept p b (roundChannel x1 x2 s) := by
  unfold roundChannel
  try dsimp only
  repeat' first | with_reducible assumption | (intro _; try dsimp only) | with_reducible apply setReg_kept hregs | with_reducible apply setHkChan_kept hhk | with_reducible apply pushReading_kept hhk | with_reducible apply judgeReading_kept hmode hregs htime hmgmt hstartup hcal hrx htx hpairSt hhk hfw | with_reducible apply skipReading_kept hregs hmgmt hhk | with_reducible apply foldl_kept | with_reducible apply ite_kept | (fail_if_no_progress (with_reducible refine mk_kept ?_)) | split

theorem takeTemps_kept (hregs : p ≠ .regs) (hmgmt : p ≠ .mgmt) (hcal : p ≠ .cal) {x1 s} (k : Kept p b s) :
    Kept p b (takeTemps x1 s) := by
  unfold takeTemps
  try dsimp only
  repeat' first | with_reducible assumption | (intro _; try dsimp only) | with_reducible apply flag_kept hregs hmgmt | with_reducible apply foldl_kept | with_reducible apply ite_kept | (fail_if_no_progress (with_reducible refine mk_kept ?_)) | split

theorem junction_kept (hmode : p ≠ .mode) (hregs : p ≠ .regs) (htime : p ≠ .time) (hmgmt : p ≠ .mgmt) (hstartup : p ≠ .startup) (hcal : p ≠ .cal) (hrx : p ≠ .rx) (htx : p ≠ .tx) (hpairSt : p ≠ .pairSt) (hhk : p ≠ .hk) (hfw : p ≠ .fw) {x1 s} (k : Kept p b s) :
    Kept p b (junction x1 s) := by
  unfold junction
  try dsimp only
  repeat' first | with_reducible assumption | (intro _; try dsimp only) | with_reducible apply fsets_kept hregs | with_reducible apply chipReaction_kept hmode hregs htime hmgmt hstartup hcal hrx htx hpairSt hfw | with_reducible apply flag_kept hregs hmgmt | with_reducible apply fset_kept hregs | with_reducible apply endCause_kept hstartup | with_reducible apply foldl_kept | with_reducible apply ite_kept | (fail_if_no_progress (with_reducible refine mk_kept ?_)) | split

theorem setPair_kept (hpairSt : p ≠ .pairSt) {x1 s} (k : Kept p b s) :
    Kept p b (setPair x1 s) := by
  unfold setPair
  try dsimp only
  repeat' first | with_reducible assumption | (intro _; try dsimp only) | with_reducible apply foldl_kept | with_reducible apply ite_kept | (fail_if_no_progress (with_reducible refine mk_kept ?_)) | split

theorem compareSummary_kept (hregs : p ≠ .regs) (hmgmt : p ≠ .mgmt) {x1 s} (k : Kept p b s) :
    Kept p b (compareSummary x1 s) := by
  unfold compareSummary
  try dsimp only
  repeat' first | with_reducible assumption | (intro _; try dsimp only) | with_reducible apply flagIf_kept hregs hmgmt | with_reducible apply fsets_kept hregs | with_reducible apply foldl_kept | with_reducible apply ite_kept | (fail_if_no_progress (with_reducible refine mk_kept ?_)) | split

theorem sendMessage_kept (hregs : p ≠ .regs) (hmgmt : p ≠ .mgmt) (hlk : p ≠ .lk) (hpairSt : p ≠ .pairSt) {x1 x2 s} (k : Kept p b s) :
    Kept p b (sendMessage x1 x2 s) := by
  unfold sendMessage
  try dsimp only
  repeat' first | with_reducible assumption | (intro _; try dsimp only) | with_reducible apply setPair_kept hpairSt | with_reducible apply wrapRecord_kept hregs hmgmt | with_reducible apply sendPacket_kept hregs hmgmt hlk | with_reducible apply foldl_kept | with_reducible apply ite_kept | (fail_if_no_progress (with_reducible refine mk_kept ?_)) | split

theorem execSummarySend_kept (hregs : p ≠ .regs) (hmgmt : p ≠ .mgmt) (hlk : p ≠ .lk) (hpairSt : p ≠ .pairSt) {x1 s t} (k : Kept p b s) (e : execSummarySend x1 s = .next t) :
    Kept p b t := by
  unfold execSummarySend at e
  injection e with e
  subst e
  try dsimp only
  repeat' first | with_reducible assumption | (intro _; try dsimp only) | with_reducible apply setPair_kept hpairSt | with_reducible apply compareSummary_kept hregs hmgmt | with_reducible apply sendMessage_kept hregs hmgmt hlk hpairSt | with_reducible apply foldl_kept | with_reducible apply ite_kept | (fail_if_no_progress (with_reducible refine mk_kept ?_)) | split

theorem execSummaryCompareTimeout_kept (hpairSt : p ≠ .pairSt) {x1 s t} (k : Kept p b s) (e : execSummaryCompareTimeout x1 s = .next t) :
    Kept p b t := by
  unfold execSummaryCompareTimeout at e
  injection e with e
  subst e
  try dsimp only
  repeat' first | with_reducible assumption | (intro _; try dsimp only) | with_reducible apply setPair_kept hpairSt | with_reducible apply foldl_kept | with_reducible apply ite_kept | (fail_if_no_progress (with_reducible refine mk_kept ?_)) | split

theorem onStatus_kept (hregs : p ≠ .regs) (hmgmt : p ≠ .mgmt) (hpairSt : p ≠ .pairSt) {x1 s} (k : Kept p b s) :
    Kept p b (onStatus x1 s) := by
  unfold onStatus
  try dsimp only
  repeat' first | with_reducible assumption | (intro _; try dsimp only) | with_reducible apply setPair_kept hpairSt | with_reducible apply compareSummary_kept hregs hmgmt | with_reducible apply flagIf_kept hregs hmgmt | with_reducible apply foldl_kept | with_reducible apply ite_kept | (fail_if_no_progress (with_reducible refine mk_kept ?_)) | split

theorem execExcitationTakeover_kept (hregs : p ≠ .regs) (hadcs : p ≠ .adcs) (hsc : p ≠ .sc) {x1 x2 s t} (k : Kept p b s) (e : execExcitationTakeover x1 x2 s = .next t) :
    Kept p b t := by
  unfold execExcitationTakeover at e
  injection e with e
  subst e
  try dsimp only
  repeat' first | with_reducible assumption | (intro _; try dsimp only) | with_reducible apply reportExcitation_kept hadcs | with_reducible apply fset_kept hregs | with_reducible apply setAxis_kept hsc | with_reducible apply foldl_kept | with_reducible apply ite_kept | (fail_if_no_progress (with_reducible refine mk_kept ?_)) | split

theorem takeBudget_kept (hmode : p ≠ .mode) (hregs : p ≠ .regs) (htime : p ≠ .time) (hmgmt : p ≠ .mgmt) (hcal : p ≠ .cal) (hrx : p ≠ .rx) (htx : p ≠ .tx) (hsf : p ≠ .sf) (hfw : p ≠ .fw) {x1 x2 s} (k : Kept p b s) :
    Kept p b (takeBudget x1 x2 s) := by
  unfold takeBudget
  try dsimp only
  repeat' first | with_reducible assumption | (intro _; try dsimp only) | with_reducible apply setCause_kept hregs hsf | with_reducible apply setSfc_kept hsf | with_reducible apply raiseSf_kept hmode hregs htime hmgmt hcal hrx htx hsf hfw | with_reducible apply foldl_kept | with_reducible apply ite_kept | (fail_if_no_progress (with_reducible refine mk_kept ?_)) | split

theorem onBudget_kept (hmode : p ≠ .mode) (hregs : p ≠ .regs) (htime : p ≠ .time) (hmgmt : p ≠ .mgmt) (hcal : p ≠ .cal) (hrx : p ≠ .rx) (htx : p ≠ .tx) (hpairSt : p ≠ .pairSt) (hsf : p ≠ .sf) (hfw : p ≠ .fw) {x1 s} (k : Kept p b s) :
    Kept p b (onBudget x1 s) := by
  unfold onBudget
  try dsimp only
  repeat' first | with_reducible assumption | (intro _; try dsimp only) | with_reducible apply flag_kept hregs hmgmt | with_reducible apply takeBudget_kept hmode hregs htime hmgmt hcal hrx htx hsf hfw | with_reducible apply setPair_kept hpairSt | with_reducible apply foldl_kept | with_reducible apply ite_kept | (fail_if_no_progress (with_reducible refine mk_kept ?_)) | split

theorem followLoop_kept (hregs : p ≠ .regs) (hsc : p ≠ .sc) {x1 x2 s} (k : Kept p b s) :
    Kept p b (followLoop x1 x2 s) := by
  unfold followLoop
  try dsimp only
  repeat' first | with_reducible assumption | (intro _; try dsimp only) | with_reducible apply setReg_kept hregs | with_reducible apply setLoop_kept hsc | with_reducible apply foldl_kept | with_reducible apply ite_kept | (fail_if_no_progress (with_reducible refine mk_kept ?_)) | split

theorem onLoops_kept (hregs : p ≠ .regs) (hsc : p ≠ .sc) {x1 s} (k : Kept p b s) :
    Kept p b (onLoops x1 s) := by
  unfold onLoops
  try dsimp only
  repeat' first | with_reducible assumption | (intro _; try dsimp only) | with_reducible apply followLoop_kept hregs hsc | with_reducible apply forUp_kept | with_reducible apply foldl_kept | with_reducible apply ite_kept | (fail_if_no_progress (with_reducible refine mk_kept ?_)) | split

theorem onSummary_kept (hregs : p ≠ .regs) (hmgmt : p ≠ .mgmt) (hpairSt : p ≠ .pairSt) {x1 s} (k : Kept p b s) :
    Kept p b (onSummary x1 s) := by
  unfold onSummary
  try dsimp only
  repeat' first | with_reducible assumption | (intro _; try dsimp only) | with_reducible apply setPair_kept hpairSt | with_reducible apply compareSummary_kept hregs hmgmt | with_reducible apply foldl_kept | with_reducible apply ite_kept | (fail_if_no_progress (with_reducible refine mk_kept ?_)) | split

theorem onMessage_kept (hmode : p ≠ .mode) (hregs : p ≠ .regs) (htime : p ≠ .time) (hmgmt : p ≠ .mgmt) (hcal : p ≠ .cal) (hrx : p ≠ .rx) (htx : p ≠ .tx) (hsc : p ≠ .sc) (hpairSt : p ≠ .pairSt) (hsf : p ≠ .sf) (hfw : p ≠ .fw) {x1 s} (k : Kept p b s) :
    Kept p b (onMessage x1 s) := by
  unfold onMessage
  try dsimp only
  repeat' first | with_reducible assumption | (intro _; try dsimp only) | with_reducible apply setPair_kept hpairSt | with_reducible apply fset_kept hregs | with_reducible apply flag_kept hregs hmgmt | with_reducible apply bumpOvf_kept hregs hmgmt | with_reducible apply onBudget_kept hmode hregs htime hmgmt hcal hrx htx hpairSt hsf hfw | with_reducible apply onLoops_kept hregs hsc | with_reducible apply onStatus_kept hregs hmgmt hpairSt | with_reducible apply onSummary_kept hregs hmgmt hpairSt | with_reducible apply foldl_kept | with_reducible apply ite_kept | (fail_if_no_progress (with_reducible refine mk_kept ?_)) | split

theorem followExcitation_kept (hregs : p ≠ .regs) (hadcs : p ≠ .adcs) (hsc : p ≠ .sc) {s} (k : Kept p b s) :
    Kept p b (followExcitation s) := by
  unfold followExcitation
  try dsimp only
  repeat' first | with_reducible assumption | (intro _; try dsimp only) | with_reducible apply applyExcitation_kept hregs hadcs hsc | with_reducible apply forUp_kept | with_reducible apply foldl_kept | with_reducible apply ite_kept | (fail_if_no_progress (with_reducible refine mk_kept ?_)) | split

theorem enterPair_kept (hregs : p ≠ .regs) (hpairSt : p ≠ .pairSt) {x1 x2 s} (k : Kept p b s) :
    Kept p b (enterPair x1 x2 s) := by
  unfold enterPair
  try dsimp only
  repeat' first | with_reducible assumption | (intro _; try dsimp only) | with_reducible apply fsets_kept hregs | with_reducible apply setPair_kept hpairSt | with_reducible apply foldl_kept | with_reducible apply ite_kept | (fail_if_no_progress (with_reducible refine mk_kept ?_)) | split

theorem enterStandby_kept (hmode : p ≠ .mode) (hregs : p ≠ .regs) (htime : p ≠ .time) (hmgmt : p ≠ .mgmt) (hcal : p ≠ .cal) (hrx : p ≠ .rx) (htx : p ≠ .tx) (hadcs : p ≠ .adcs) (hsc : p ≠ .sc) (hpairSt : p ≠ .pairSt) (hsf : p ≠ .sf) (hfw : p ≠ .fw) {s} (k : Kept p b s) :
    Kept p b (enterStandby s) := by
  unfold enterStandby
  try dsimp only
  repeat' first | with_reducible assumption | (intro _; try dsimp only) | with_reducible apply followExcitation_kept hregs hadcs hsc | with_reducible apply sfStandDown_kept hmode hregs htime hmgmt hcal hrx htx hsf hfw | with_reducible apply enterPair_kept hregs hpairSt | with_reducible apply foldl_kept | with_reducible apply ite_kept | (fail_if_no_progress (with_reducible refine mk_kept ?_)) | split

theorem pairRejoin_kept (hmode : p ≠ .mode) (hregs : p ≠ .regs) (htime : p ≠ .time) (hmgmt : p ≠ .mgmt) (hcal : p ≠ .cal) (hrx : p ≠ .rx) (htx : p ≠ .tx) (hadcs : p ≠ .adcs) (hsc : p ≠ .sc) (hpairSt : p ≠ .pairSt) (hsf : p ≠ .sf) (hfw : p ≠ .fw) {s} (k : Kept p b s) :
    Kept p b (pairRejoin s) := by
  unfold pairRejoin
  try dsimp only
  repeat' first | with_reducible assumption | (intro _; try dsimp only) | with_reducible apply enterStandby_kept hmode hregs htime hmgmt hcal hrx htx hadcs hsc hpairSt hsf hfw | with_reducible apply foldl_kept | with_reducible apply ite_kept | (fail_if_no_progress (with_reducible refine mk_kept ?_)) | split

theorem execRejoin_kept (hmode : p ≠ .mode) (hregs : p ≠ .regs) (htime : p ≠ .time) (hmgmt : p ≠ .mgmt) (hcal : p ≠ .cal) (hrx : p ≠ .rx) (htx : p ≠ .tx) (hadcs : p ≠ .adcs) (hsc : p ≠ .sc) (hpairSt : p ≠ .pairSt) (hsf : p ≠ .sf) (hfw : p ≠ .fw) {x1 s t} (k : Kept p b s) (e : execRejoin x1 s = .next t) :
    Kept p b t := by
  unfold execRejoin at e
  injection e with e
  subst e
  try dsimp only
  repeat' first | with_reducible assumption | (intro _; try dsimp only) | with_reducible apply hostWriteIf_kept hregs hmgmt | with_reducible apply pairRejoin_kept hmode hregs htime hmgmt hcal hrx htx hadcs hsc hpairSt hsf hfw | with_reducible apply foldl_kept | with_reducible apply ite_kept | (fail_if_no_progress (with_reducible refine mk_kept ?_)) | split

theorem enterSolo_kept (hmode : p ≠ .mode) (hregs : p ≠ .regs) (htime : p ≠ .time) (hmgmt : p ≠ .mgmt) (hcal : p ≠ .cal) (hrx : p ≠ .rx) (htx : p ≠ .tx) (hadcs : p ≠ .adcs) (hsc : p ≠ .sc) (hpairSt : p ≠ .pairSt) (hsf : p ≠ .sf) (hfw : p ≠ .fw) {x1 s} (k : Kept p b s) :
    Kept p b (enterSolo x1 s) := by
  unfold enterSolo
  try dsimp only
  repeat' first | with_reducible assumption | (intro _; try dsimp only) | with_reducible apply enterPair_kept hregs hpairSt | with_reducible apply followExcitation_kept hregs hadcs hsc | with_reducible apply sfStandDown_kept hmode hregs htime hmgmt hcal hrx htx hsf hfw | with_reducible apply foldl_kept | with_reducible apply ite_kept | (fail_if_no_progress (with_reducible refine mk_kept ?_)) | split

theorem enterActive_kept (hregs : p ≠ .regs) (hmgmt : p ≠ .mgmt) (hpairSt : p ≠ .pairSt) {s} (k : Kept p b s) :
    Kept p b (enterActive s) := by
  unfold enterActive
  try dsimp only
  repeat' first | with_reducible assumption | (intro _; try dsimp only) | with_reducible apply enterPair_kept hregs hpairSt | with_reducible apply flag_kept hregs hmgmt | with_reducible apply setPair_kept hpairSt | with_reducible apply foldl_kept | with_reducible apply ite_kept | (fail_if_no_progress (with_reducible refine mk_kept ?_)) | split

theorem pairSwap_kept (hmode : p ≠ .mode) (hregs : p ≠ .regs) (htime : p ≠ .time) (hmgmt : p ≠ .mgmt) (hcal : p ≠ .cal) (hrx : p ≠ .rx) (htx : p ≠ .tx) (hadcs : p ≠ .adcs) (hsc : p ≠ .sc) (hpairSt : p ≠ .pairSt) (hsf : p ≠ .sf) (hfw : p ≠ .fw) {x1 s} (k : Kept p b s) :
    Kept p b (pairSwap x1 s) := by
  unfold pairSwap
  try dsimp only
  repeat' first | with_reducible assumption | (intro _; try dsimp only) | with_reducible apply fset_kept hregs | with_reducible apply setReg_kept hregs | with_reducible apply enterSolo_kept hmode hregs htime hmgmt hcal hrx htx hadcs hsc hpairSt hsf hfw | with_reducible apply enterStandby_kept hmode hregs htime hmgmt hcal hrx htx hadcs hsc hpairSt hsf hfw | with_reducible apply enterActive_kept hregs hmgmt hpairSt | with_reducible apply foldl_kept | with_reducible apply ite_kept | (fail_if_no_progress (with_reducible refine mk_kept ?_)) | split

theorem takeHop_kept (hregs : p ≠ .regs) (hpairSt : p ≠ .pairSt) {s} (k : Kept p b s) :
    Kept p b (takeHop s) := by
  unfold takeHop
  try dsimp only
  repeat' first | with_reducible assumption | (intro _; try dsimp only) | with_reducible apply setReg_kept hregs | with_reducible apply setPair_kept hpairSt | with_reducible apply foldl_kept | with_reducible apply ite_kept | (fail_if_no_progress (with_reducible refine mk_kept ?_)) | split

theorem suspectOpen_kept (hrx : p ≠ .rx) {s} (k : Kept p b s) :
    Kept p b (suspectOpen s) := by
  unfold suspectOpen
  try dsimp only
  repeat' first | with_reducible assumption | (intro _; try dsimp only) | with_reducible apply setBlk_kept hrx | with_reducible apply forUp_kept | with_reducible apply foldl_kept | with_reducible apply ite_kept | (fail_if_no_progress (with_reducible refine mk_kept ?_)) | split

theorem execClaimSynEdge_kept (hregs : p ≠ .regs) (hmgmt : p ≠ .mgmt) (hrx : p ≠ .rx) (hpairSt : p ≠ .pairSt) {x1 s t} (k : Kept p b s) (e : execClaimSynEdge x1 s = .next t) :
    Kept p b t := by
  unfold execClaimSynEdge at e
  injection e with e
  subst e
  try dsimp only
  repeat' first | with_reducible assumption | (intro _; try dsimp only) | with_reducible apply flag_kept hregs hmgmt | with_reducible apply suspectOpen_kept hrx | with_reducible apply setPair_kept hpairSt | with_reducible apply foldl_kept | with_reducible apply ite_kept | (fail_if_no_progress (with_reducible refine mk_kept ?_)) | split

theorem execLoopsSend_kept (hregs : p ≠ .regs) (hmgmt : p ≠ .mgmt) (hlk : p ≠ .lk) (hpairSt : p ≠ .pairSt) {s t} (k : Kept p b s) (e : execLoopsSend s = .next t) :
    Kept p b t := by
  unfold execLoopsSend at e
  injection e with e
  subst e
  try dsimp only
  repeat' first | with_reducible assumption | (intro _; try dsimp only) | with_reducible apply sendMessage_kept hregs hmgmt hlk hpairSt | with_reducible apply setPair_kept hpairSt | with_reducible apply foldl_kept | with_reducible apply ite_kept | (fail_if_no_progress (with_reducible refine mk_kept ?_)) | split

theorem refusePromotion_kept (hregs : p ≠ .regs) (hmgmt : p ≠ .mgmt) (hpairSt : p ≠ .pairSt) {x1 s} (k : Kept p b s) :
    Kept p b (refusePromotion x1 s) := by
  unfold refusePromotion
  try dsimp only
  repeat' first | with_reducible assumption | (intro _; try dsimp only) | with_reducible apply flag_kept hregs hmgmt | with_reducible apply fsets_kept hregs | with_reducible apply setPair_kept hpairSt | with_reducible apply foldl_kept | with_reducible apply ite_kept | (fail_if_no_progress (with_reducible refine mk_kept ?_)) | split

theorem offsetPlaced_kept (hrx : p ≠ .rx) (htx : p ≠ .tx) {x1 x2 s} (k : Kept p b s) :
    Kept p b (offsetPlaced x1 x2 s) := by
  unfold offsetPlaced
  try dsimp only
  repeat' first | with_reducible assumption | (intro _; try dsimp only) | with_reducible apply setBlk_kept hrx | with_reducible apply forUp_kept | with_reducible apply foldl_kept | with_reducible apply ite_kept | (fail_if_no_progress (with_reducible refine mk_kept ?_)) | split

theorem enterWithdrawn_kept (hmode : p ≠ .mode) (hregs : p ≠ .regs) (htime : p ≠ .time) (hmgmt : p ≠ .mgmt) (hcal : p ≠ .cal) (hrx : p ≠ .rx) (htx : p ≠ .tx) (hadcs : p ≠ .adcs) (hsc : p ≠ .sc) (hpairSt : p ≠ .pairSt) (hsf : p ≠ .sf) (hfw : p ≠ .fw) {s} (k : Kept p b s) :
    Kept p b (enterWithdrawn s) := by
  unfold enterWithdrawn
  try dsimp only
  repeat' first | with_reducible assumption | (intro _; try dsimp only) | with_reducible apply enterPair_kept hregs hpairSt | with_reducible apply setPair_kept hpairSt | with_reducible apply toConfigured_kept hmode hregs htime hmgmt hcal hrx htx hfw | with_reducible apply sfStandDown_kept hmode hregs htime hmgmt hcal hrx htx hsf hfw | with_reducible apply followExcitation_kept hregs hadcs hsc | with_reducible apply flag_kept hregs hmgmt | with_reducible apply foldl_kept | with_reducible apply ite_kept | (fail_if_no_progress (with_reducible refine mk_kept ?_)) | split

theorem pairWithdraw_kept (hmode : p ≠ .mode) (hregs : p ≠ .regs) (htime : p ≠ .time) (hmgmt : p ≠ .mgmt) (hcal : p ≠ .cal) (hrx : p ≠ .rx) (htx : p ≠ .tx) (hadcs : p ≠ .adcs) (hsc : p ≠ .sc) (hpairSt : p ≠ .pairSt) (hsf : p ≠ .sf) (hfw : p ≠ .fw) {s} (k : Kept p b s) :
    Kept p b (pairWithdraw s) := by
  unfold pairWithdraw
  try dsimp only
  repeat' first | with_reducible assumption | (intro _; try dsimp only) | with_reducible apply enterWithdrawn_kept hmode hregs htime hmgmt hcal hrx htx hadcs hsc hpairSt hsf hfw | with_reducible apply foldl_kept | with_reducible apply ite_kept | (fail_if_no_progress (with_reducible refine mk_kept ?_)) | split

theorem promoted_kept (hregs : p ≠ .regs) (hmgmt : p ≠ .mgmt) (hrx : p ≠ .rx) (htx : p ≠ .tx) (hpairSt : p ≠ .pairSt) (hsf : p ≠ .sf) {x1 s} (k : Kept p b s) :
    Kept p b (promoted x1 s) := by
  unfold promoted
  try dsimp only
  repeat' first | with_reducible assumption | (intro _; try dsimp only) | with_reducible apply enterPair_kept hregs hpairSt | with_reducible apply offsetPlaced_kept hrx htx | with_reducible apply setPair_kept hpairSt | with_reducible apply lumpSf_kept hsf | with_reducible apply flag_kept hregs hmgmt | with_reducible apply foldl_kept | with_reducible apply ite_kept | (fail_if_no_progress (with_reducible refine mk_kept ?_)) | split

theorem outclaimed_kept (hmode : p ≠ .mode) (hregs : p ≠ .regs) (htime : p ≠ .time) (hmgmt : p ≠ .mgmt) (hcal : p ≠ .cal) (hrx : p ≠ .rx) (htx : p ≠ .tx) (hadcs : p ≠ .adcs) (hsc : p ≠ .sc) (hpairSt : p ≠ .pairSt) (hsf : p ≠ .sf) (hfw : p ≠ .fw) {s} (k : Kept p b s) :
    Kept p b (outclaimed s) := by
  unfold outclaimed
  try dsimp only
  repeat' first | with_reducible assumption | (intro _; try dsimp only) | with_reducible apply refusePromotion_kept hregs hmgmt hpairSt | with_reducible apply enterStandby_kept hmode hregs htime hmgmt hcal hrx htx hadcs hsc hpairSt hsf hfw | with_reducible apply enterWithdrawn_kept hmode hregs htime hmgmt hcal hrx htx hadcs hsc hpairSt hsf hfw | with_reducible apply foldl_kept | with_reducible apply ite_kept | (fail_if_no_progress (with_reducible refine mk_kept ?_)) | split

theorem execClaimLatch_kept (hmode : p ≠ .mode) (hregs : p ≠ .regs) (htime : p ≠ .time) (hmgmt : p ≠ .mgmt) (hcal : p ≠ .cal) (hrx : p ≠ .rx) (htx : p ≠ .tx) (hadcs : p ≠ .adcs) (hsc : p ≠ .sc) (hpairSt : p ≠ .pairSt) (hsf : p ≠ .sf) (hfw : p ≠ .fw) {x1 s t} (k : Kept p b s) (e : execClaimLatch x1 s = .next t) :
    Kept p b t := by
  unfold execClaimLatch at e
  injection e with e
  subst e
  try dsimp only
  repeat' first | with_reducible assumption | (intro _; try dsimp only) | with_reducible apply setPair_kept hpairSt | with_reducible apply fset_kept hregs | with_reducible apply flag_kept hregs hmgmt | with_reducible apply bumpOvf_kept hregs hmgmt | with_reducible apply promoted_kept hregs hmgmt hrx htx hpairSt hsf | with_reducible apply outclaimed_kept hmode hregs htime hmgmt hcal hrx htx hadcs hsc hpairSt hsf hfw | with_reducible apply foldl_kept | with_reducible apply ite_kept | (fail_if_no_progress (with_reducible refine mk_kept ?_)) | split

theorem execPromoteTimeout_kept (hregs : p ≠ .regs) (hmgmt : p ≠ .mgmt) (hpairSt : p ≠ .pairSt) {s t} (k : Kept p b s) (e : execPromoteTimeout s = .next t) :
    Kept p b t := by
  unfold execPromoteTimeout at e
  injection e with e
  subst e
  try dsimp only
  repeat' first | with_reducible assumption | (intro _; try dsimp only) | with_reducible apply refusePromotion_kept hregs hmgmt hpairSt | with_reducible apply foldl_kept | with_reducible apply ite_kept | (fail_if_no_progress (with_reducible refine mk_kept ?_)) | split

theorem execHeartbeatToggle_kept (hpairSt : p ≠ .pairSt) {s t} (k : Kept p b s) (e : execHeartbeatToggle s = .next t) :
    Kept p b t := by
  unfold execHeartbeatToggle at e
  injection e with e
  subst e
  try dsimp only
  repeat' first | with_reducible assumption | (intro _; try dsimp only) | with_reducible apply setPair_kept hpairSt | with_reducible apply foldl_kept | with_reducible apply ite_kept | (fail_if_no_progress (with_reducible refine mk_kept ?_)) | split

theorem execClaimFrame_kept (hpairSt : p ≠ .pairSt) {s t} (k : Kept p b s) (e : execClaimFrame s = .next t) :
    Kept p b t := by
  unfold execClaimFrame at e
  injection e with e
  subst e
  try dsimp only
  repeat' first | with_reducible assumption | (intro _; try dsimp only) | with_reducible apply setPair_kept hpairSt | with_reducible apply foldl_kept | with_reducible apply ite_kept | (fail_if_no_progress (with_reducible refine mk_kept ?_)) | split

theorem execPairMessage_kept (hmode : p ≠ .mode) (hregs : p ≠ .regs) (htime : p ≠ .time) (hmgmt : p ≠ .mgmt) (hcal : p ≠ .cal) (hrx : p ≠ .rx) (htx : p ≠ .tx) (hlk : p ≠ .lk) (hsc : p ≠ .sc) (hpairSt : p ≠ .pairSt) (hsf : p ≠ .sf) (hfw : p ≠ .fw) {x1 s t} (k : Kept p b s) (e : execPairMessage x1 s = .next t) :
    Kept p b t := by
  unfold execPairMessage at e
  injection e with e
  subst e
  try dsimp only
  repeat' first | with_reducible assumption | (intro _; try dsimp only) | with_reducible apply takePacket_kept hlk | with_reducible apply onMessage_kept hmode hregs htime hmgmt hcal hrx htx hsc hpairSt hsf hfw | with_reducible apply foldl_kept | with_reducible apply ite_kept | (fail_if_no_progress (with_reducible refine mk_kept ?_)) | split

theorem execClaimSilent_kept (hregs : p ≠ .regs) (hmgmt : p ≠ .mgmt) {s t} (k : Kept p b s) (e : execClaimSilent s = .next t) :
    Kept p b t := by
  unfold execClaimSilent at e
  injection e with e
  subst e
  try dsimp only
  repeat' first | with_reducible assumption | (intro _; try dsimp only) | with_reducible apply flagIf_kept hregs hmgmt | with_reducible apply foldl_kept | with_reducible apply ite_kept | (fail_if_no_progress (with_reducible refine mk_kept ?_)) | split

theorem pairCommand_kept (hmode : p ≠ .mode) (hregs : p ≠ .regs) (htime : p ≠ .time) (hmgmt : p ≠ .mgmt) (hcal : p ≠ .cal) (hrx : p ≠ .rx) (htx : p ≠ .tx) (hadcs : p ≠ .adcs) (hsc : p ≠ .sc) (hpairSt : p ≠ .pairSt) (hsf : p ≠ .sf) (hfw : p ≠ .fw) {x1 s} (k : Kept p b s) :
    Kept p b (pairCommand x1 s) := by
  unfold pairCommand
  try dsimp only
  repeat' first | with_reducible assumption | (intro _; try dsimp only) | with_reducible apply pairRejoin_kept hmode hregs htime hmgmt hcal hrx htx hadcs hsc hpairSt hsf hfw | with_reducible apply pairWithdraw_kept hmode hregs htime hmgmt hcal hrx htx hadcs hsc hpairSt hsf hfw | with_reducible apply foldl_kept | with_reducible apply ite_kept | (fail_if_no_progress (with_reducible refine mk_kept ?_)) | split

theorem execStatusSend_kept (hregs : p ≠ .regs) (hmgmt : p ≠ .mgmt) (hlk : p ≠ .lk) (hpairSt : p ≠ .pairSt) {s t} (k : Kept p b s) (e : execStatusSend s = .next t) :
    Kept p b t := by
  unfold execStatusSend at e
  injection e with e
  subst e
  try dsimp only
  repeat' first | with_reducible assumption | (intro _; try dsimp only) | with_reducible apply sendMessage_kept hregs hmgmt hlk hpairSt | with_reducible apply setPair_kept hpairSt | with_reducible apply foldl_kept | with_reducible apply ite_kept | (fail_if_no_progress (with_reducible refine mk_kept ?_)) | split

theorem execPromoteRequest_kept (hregs : p ≠ .regs) (hmgmt : p ≠ .mgmt) (hpairSt : p ≠ .pairSt) {s t} (k : Kept p b s) (e : execPromoteRequest s = .next t) :
    Kept p b t := by
  unfold execPromoteRequest at e
  injection e with e
  subst e
  try dsimp only
  repeat' first | with_reducible assumption | (intro _; try dsimp only) | with_reducible apply refusePromotion_kept hregs hmgmt hpairSt | with_reducible apply flag_kept hregs hmgmt | with_reducible apply fset_kept hregs | with_reducible apply setPair_kept hpairSt | with_reducible apply foldl_kept | with_reducible apply ite_kept | (fail_if_no_progress (with_reducible refine mk_kept ?_)) | split

theorem refreshSkew_kept (hregs : p ≠ .regs) (hfresh : p ≠ .fresh) {s} (k : Kept p b s) :
    Kept p b (refreshSkew s) := by
  unfold refreshSkew
  try dsimp only
  repeat' first | with_reducible assumption | (intro _; try dsimp only) | with_reducible apply fsets_kept hregs | with_reducible apply drawFree_kept hfresh | with_reducible apply foldl_kept | with_reducible apply ite_kept | (fail_if_no_progress (with_reducible refine mk_kept ?_)) | split

theorem execWithdraw_kept (hmode : p ≠ .mode) (hregs : p ≠ .regs) (htime : p ≠ .time) (hmgmt : p ≠ .mgmt) (hcal : p ≠ .cal) (hrx : p ≠ .rx) (htx : p ≠ .tx) (hadcs : p ≠ .adcs) (hsc : p ≠ .sc) (hpairSt : p ≠ .pairSt) (hsf : p ≠ .sf) (hfw : p ≠ .fw) {x1 s t} (k : Kept p b s) (e : execWithdraw x1 s = .next t) :
    Kept p b t := by
  unfold execWithdraw at e
  injection e with e
  subst e
  try dsimp only
  repeat' first | with_reducible assumption | (intro _; try dsimp only) | with_reducible apply hostWrite_kept hregs hmgmt | with_reducible apply pairWithdraw_kept hmode hregs htime hmgmt hcal hrx htx hadcs hsc hpairSt hsf hfw | with_reducible apply foldl_kept | with_reducible apply ite_kept | (fail_if_no_progress (with_reducible refine mk_kept ?_)) | split

theorem execBudgetSend_kept (hregs : p ≠ .regs) (hmgmt : p ≠ .mgmt) (hlk : p ≠ .lk) (hpairSt : p ≠ .pairSt) {s t} (k : Kept p b s) (e : execBudgetSend s = .next t) :
    Kept p b t := by
  unfold execBudgetSend at e
  injection e with e
  subst e
  try dsimp only
  repeat' first | with_reducible assumption | (intro _; try dsimp only) | with_reducible apply sendMessage_kept hregs hmgmt hlk hpairSt | with_reducible apply setPair_kept hpairSt | with_reducible apply foldl_kept | with_reducible apply ite_kept | (fail_if_no_progress (with_reducible refine mk_kept ?_)) | split

theorem keepEstop_kept (hregs : p ≠ .regs) (hsf : p ≠ .sf) {x1 x2 s} (k : Kept p b s) :
    Kept p b (keepEstop x1 x2 s) := by
  unfold keepEstop
  try dsimp only
  repeat' first | with_reducible assumption | (intro _; try dsimp only) | with_reducible apply setCause_kept hregs hsf | with_reducible apply fset_kept hregs | with_reducible apply foldl_kept | with_reducible apply ite_kept | (fail_if_no_progress (with_reducible refine mk_kept ?_)) | split

theorem aonBack_kept (hstartup : p ≠ .startup) {s} (k : Kept p b s) :
    Kept p b (aonBack s) := by
  unfold aonBack
  try dsimp only
  repeat' first | with_reducible assumption | (intro _; try dsimp only) | with_reducible apply foldl_kept | with_reducible apply ite_kept | (fail_if_no_progress (with_reducible refine mk_kept ?_)) | split

theorem resetDevice_kept (hmode : p ≠ .mode) (hregs : p ≠ .regs) (htime : p ≠ .time) (hcut : p ≠ .cut) (hmgmt : p ≠ .mgmt) (hstartup : p ≠ .startup) (hcal : p ≠ .cal) (hrx : p ≠ .rx) (htx : p ≠ .tx) (hlk : p ≠ .lk) (haq : p ≠ .aq) (hadcs : p ≠ .adcs) (hsc : p ≠ .sc) (hmotionIn : p ≠ .motionIn) (hpairSt : p ≠ .pairSt) (hsf : p ≠ .sf) (hhk : p ≠ .hk) (hfw : p ≠ .fw) (htbase : p ≠ .tbase) (hlive : p ≠ .live) (hshadow : p ≠ .shadow) (haqMem : p ≠ .aqMem) {x1 x2 s} (k : Kept p b s) :
    Kept p b (resetDevice x1 x2 s) := by
  have ht : s.tornFw.image = s.fw.image ∧ s.tornFw.cuts = s.fw.cuts ∧ s.tornFw.keys = s.fw.keys ∧ s.tornFw.revoked = s.fw.revoked
      ∧ s.tornFw.minSec = s.fw.minSec := by
    unfold State.tornFw
    dsimp only
    repeat' first | exact ⟨rfl, rfl, rfl, rfl, rfl⟩ | split
  unfold resetDevice
  extract_lets c f s1
  have k1 : Kept p b s1 := by
    refine k.trans ?_
    have h : s1.fw.image = s.fw.image ∧ s1.fw.cuts = s.fw.cuts ∧ s1.fw.keys = s.fw.keys ∧ s1.fw.revoked = s.fw.revoked
      ∧ s1.fw.minSec = s.fw.minSec := ht
    cases p <;> first | contradiction | rfl | exact ⟨rfl, rfl⟩ | skip
    · exact ⟨h.1, h.2.1⟩
    · exact ⟨h.2.2.1, h.2.2.2.1, h.2.2.2.2⟩
    · exact fun x => ⟨canon_nil, canon_nil, canon_nil, h.1 ▸ x.2.2.2.1, h.2.1 ▸ x.2.2.2.2⟩
    · exact fun x => ⟨x.1, (congrArg List.length h.2.2.2.1).le.trans x.2⟩
    · exact h.2.2.2.2.ge
  exact keepEstop_kept hregs hsf (keepEstop_kept hregs hsf (setReg_kept hregs (fset_kept hregs k1)))

theorem aonLost_kept (hmode : p ≠ .mode) (hregs : p ≠ .regs) (htime : p ≠ .time) (hcut : p ≠ .cut) (hmgmt : p ≠ .mgmt) (hstartup : p ≠ .startup) (hcal : p ≠ .cal) (hrx : p ≠ .rx) (htx : p ≠ .tx) (hlk : p ≠ .lk) (haq : p ≠ .aq) (hadcs : p ≠ .adcs) (hsc : p ≠ .sc) (hmotionIn : p ≠ .motionIn) (hpairSt : p ≠ .pairSt) (hsf : p ≠ .sf) (hhk : p ≠ .hk) (hfw : p ≠ .fw) (htbase : p ≠ .tbase) (hlive : p ≠ .live) (hshadow : p ≠ .shadow) (haqMem : p ≠ .aqMem) {s} (k : Kept p b s) :
    Kept p b (aonLost s) := by
  unfold aonLost
  try dsimp only
  repeat' first | with_reducible assumption | (intro _; try dsimp only) | with_reducible apply setChip_kept hmgmt | with_reducible apply resetDevice_kept hmode hregs htime hcut hmgmt hstartup hcal hrx htx hlk haq hadcs hsc hmotionIn hpairSt hsf hhk hfw htbase hlive hshadow haqMem | with_reducible apply foldl_kept | with_reducible apply ite_kept | (fail_if_no_progress (with_reducible refine mk_kept ?_)) | split

theorem showPower_kept (hmode : p ≠ .mode) {s} (k : Kept p b s) :
    Kept p b (showPower s) := by
  unfold showPower
  try dsimp only
  repeat' first | with_reducible assumption | (intro _; try dsimp only) | with_reducible apply foldl_kept | with_reducible apply ite_kept | (fail_if_no_progress (with_reducible refine mk_kept ?_)) | split

theorem execResetNRelease_kept (hstartup : p ≠ .startup) {s t} (k : Kept p b s) (e : execResetNRelease s = .next t) :
    Kept p b t := by
  unfold execResetNRelease at e
  injection e with e
  subst e
  try dsimp only
  repeat' first | with_reducible assumption | (intro _; try dsimp only) | with_reducible apply foldl_kept | with_reducible apply ite_kept | (fail_if_no_progress (with_reducible refine mk_kept ?_)) | split

theorem countHours_kept (hmgmt : p ≠ .mgmt) {x1 s} (k : Kept p b s) :
    Kept p b (countHours x1 s) := by
  unfold countHours
  try dsimp only
  repeat' first | with_reducible assumption | (intro _; try dsimp only) | with_reducible apply setChip_kept hmgmt | with_reducible apply foldl_kept | with_reducible apply ite_kept | (fail_if_no_progress (with_reducible refine mk_kept ?_)) | split

theorem execResetNAssert_kept (hmode : p ≠ .mode) (hregs : p ≠ .regs) (htime : p ≠ .time) (hcut : p ≠ .cut) (hmgmt : p ≠ .mgmt) (hstartup : p ≠ .startup) (hcal : p ≠ .cal) (hrx : p ≠ .rx) (htx : p ≠ .tx) (hlk : p ≠ .lk) (haq : p ≠ .aq) (hadcs : p ≠ .adcs) (hsc : p ≠ .sc) (hmotionIn : p ≠ .motionIn) (hpairSt : p ≠ .pairSt) (hsf : p ≠ .sf) (hhk : p ≠ .hk) (hfw : p ≠ .fw) (htbase : p ≠ .tbase) (hlive : p ≠ .live) (hshadow : p ≠ .shadow) (haqMem : p ≠ .aqMem) {s t} (k : Kept p b s) (e : execResetNAssert s = .next t) :
    Kept p b t := by
  unfold execResetNAssert at e
  injection e with e
  subst e
  try dsimp only
  repeat' first | with_reducible assumption | (intro _; try dsimp only) | with_reducible apply resetDevice_kept hmode hregs htime hcut hmgmt hstartup hcal hrx htx hlk haq hadcs hsc hmotionIn hpairSt hsf hhk hfw htbase hlive hshadow haqMem | with_reducible apply foldl_kept | with_reducible apply ite_kept | (fail_if_no_progress (with_reducible refine mk_kept ?_)) | split

end Sys2Proof.Machine
end

