-- ==== Sys2Proof/Laws/KeptPower.lean ====
section
/-! SUPPORT. What each operation and command of power domains, swaps and time leaves alone (see Sys2Proof/Laws/Kept.lean). -/
namespace Sys2Proof.Machine

set_option Elab.async false
set_option linter.unusedTactic false
set_option linter.unreachableTactic false

variable {p : Part} {b : State}

theorem applyHk_kept (hcut : p ≠ .cut) (hcal : p ≠ .cal) {x1 s} (k : Kept p b s) :
    Kept p b (applyHk x1 s) := by
  unfold applyHk
  try dsimp only
  repeat' first | with_reducible assumption | (intro _; try dsimp only) | with_reducible apply markApplied_kept hcut | with_reducible apply installHk_kept hcal | with_reducible apply foldl_kept | with_reducible apply ite_kept | (fail_if_no_progress (with_reducible refine mk_kept ?_)) | split

theorem takePlane_kept (hregs : p ≠ .regs) (hmgmt : p ≠ .mgmt) (hcal : p ≠ .cal) (hrx : p ≠ .rx) (htx : p ≠ .tx) {x1 x2 s} (k : Kept p b s) :
    Kept p b (takePlane x1 x2 s) := by
  unfold takePlane
  try dsimp only
  repeat' first | with_reducible assumption | (intro _; try dsimp only) | with_reducible apply settleBlock_kept hregs hrx htx | with_reducible apply applyCell_kept hregs hrx | with_reducible apply installBlock_kept hcal | with_reducible apply showSeq_kept hregs hmgmt | with_reducible apply forUp_kept | with_reducible apply foldl_kept | with_reducible apply ite_kept | (fail_if_no_progress (with_reducible refine mk_kept ?_)) | split

theorem setDomain_kept (hregs : p ≠ .regs) {x1 x2 x3 s} (k : Kept p b s) :
    Kept p b (setDomain x1 x2 x3 s) := by
  unfold setDomain
  try dsimp only
  repeat' first | with_reducible assumption | (intro _; try dsimp only) | with_reducible apply setReg_kept hregs | with_reducible apply foldl_kept | with_reducible apply ite_kept | (fail_if_no_progress (with_reducible refine mk_kept ?_)) | split

theorem restartDomain_kept (hregs : p ≠ .regs) (hhk : p ≠ .hk) {x1 s} (k : Kept p b s) :
    Kept p b (restartDomain x1 s) := by
  unfold restartDomain
  try dsimp only
  repeat' first | with_reducible assumption | (intro _; try dsimp only) | with_reducible apply setReg_kept hregs | with_reducible apply setDomain_kept hregs | with_reducible apply foldl_kept | with_reducible apply ite_kept | (fail_if_no_progress (with_reducible refine mk_kept ?_)) | split

theorem restartDomains_kept (hregs : p ≠ .regs) (hhk : p ≠ .hk) {x1 x2 s} (k : Kept p b s) :
    Kept p b (restartDomains x1 x2 s) := by
  unfold restartDomains
  try dsimp only
  repeat' first | with_reducible assumption | (intro _; try dsimp only) | with_reducible apply restartDomain_kept hregs hhk | with_reducible apply forUp_kept | with_reducible apply foldl_kept | with_reducible apply ite_kept | (fail_if_no_progress (with_reducible refine mk_kept ?_)) | split

theorem isolateHere_kept (hregs : p ≠ .regs) (hmgmt : p ≠ .mgmt) (hstartup : p ≠ .startup) (hrx : p ≠ .rx) (hlk : p ≠ .lk) (haq : p ≠ .aq) (hsc : p ≠ .sc) {x1 x2 s} (k : Kept p b s) :
    Kept p b (isolateHere x1 x2 s) := by
  unfold isolateHere
  try dsimp only
  repeat' first | with_reducible assumption | (intro _; try dsimp only) | with_reducible apply isolateBlock_kept hstartup | with_reducible apply moveLane_kept hregs hmgmt hlk haq | with_reducible apply deadSlots_kept hrx | with_reducible apply scanFault_kept hregs hmgmt hsc | with_reducible apply forUp_kept | with_reducible apply foldl_kept | with_reducible apply ite_kept | (fail_if_no_progress (with_reducible refine mk_kept ?_)) | split

theorem domReaction_kept (hmode : p ≠ .mode) (hregs : p ≠ .regs) (htime : p ≠ .time) (hcut : p ≠ .cut) (hmgmt : p ≠ .mgmt) (hstartup : p ≠ .startup) (hcal : p ≠ .cal) (hrx : p ≠ .rx) (htx : p ≠ .tx) (hlk : p ≠ .lk) (haq : p ≠ .aq) (hsc : p ≠ .sc) (hpairSt : p ≠ .pairSt) (hsf : p ≠ .sf) (hfw : p ≠ .fw) (haqMem : p ≠ .aqMem) {x1 s} (k : Kept p b s) :
    Kept p b (domReaction x1 s) := by
  unfold domReaction
  try dsimp only
  repeat' first | with_reducible assumption | (intro _; try dsimp only) | with_reducible apply leaveSwap_kept hcut | with_reducible apply isolateBlock_kept hstartup | with_reducible apply fence_kept hmode hregs htime hcut hmgmt hstartup hcal hrx htx hlk haq hpairSt hfw haqMem | with_reducible apply isolateHere_kept hregs hmgmt hstartup hrx hlk haq hsc | with_reducible apply enterSf_kept hmode hregs htime hmgmt hcal hrx htx hsf hfw | with_reducible apply foldl_kept | with_reducible apply ite_kept | (fail_if_no_progress (with_reducible refine mk_kept ?_)) | split

theorem loseBlock_kept (hmgmt : p ≠ .mgmt) (hstartup : p ≠ .startup) {x1 x2 s} (k : Kept p b s) :
    Kept p b (loseBlock x1 x2 s) := by
  unfold loseBlock
  try dsimp only
  repeat' first | with_reducible assumption | (intro _; try dsimp only) | with_reducible apply foldl_kept | with_reducible apply ite_kept | (fail_if_no_progress (with_reducible refine mk_kept ?_)) | split

theorem loseRx_kept (hregs : p ≠ .regs) (hcal : p ≠ .cal) (hrx : p ≠ .rx) (hadcs : p ≠ .adcs) {x1 x2 s} (k : Kept p b s) :
    Kept p b (loseRx x1 x2 s) := by
  unfold loseRx
  try dsimp only
  repeat' first | with_reducible assumption | (intro _; try dsimp only) | with_reducible apply setBlk_kept hrx | with_reducible apply fgAdvance_kept hregs hcal hrx | with_reducible apply foldl_kept | with_reducible apply ite_kept | (fail_if_no_progress (with_reducible refine mk_kept ?_)) | split

theorem loseRegs_kept (hregs : p ≠ .regs) {x1 s} (k : Kept p b s) :
    Kept p b (loseRegs x1 s) := by
  unfold loseRegs
  by_cases e : p = .canon
  · subst e
    intro h
    refine ⟨?_, (k h).2⟩
    dsimp only
    exact canon_clearWhere (k h).1 _
  · exact mk_kept k

theorem loseRecorder_kept (hmgmt : p ≠ .mgmt) {x1 s} (k : Kept p b s) :
    Kept p b (loseRecorder x1 s) := by
  unfold loseRecorder
  try dsimp only
  repeat' first | with_reducible assumption | (intro _; try dsimp only) | with_reducible apply foldl_kept | with_reducible apply ite_kept | (fail_if_no_progress (with_reducible refine mk_kept ?_)) | split

theorem loseRxCommon_kept (hmgmt : p ≠ .mgmt) (hrx : p ≠ .rx) {x1 s} (k : Kept p b s) :
    Kept p b (loseRxCommon x1 s) := by
  unfold loseRxCommon
  try dsimp only
  repeat' first | with_reducible assumption | (intro _; try dsimp only) | with_reducible apply loseRecorder_kept hmgmt | with_reducible apply foldl_kept | with_reducible apply ite_kept | (fail_if_no_progress (with_reducible refine mk_kept ?_)) | split

theorem killPort_kept (hrx : p ≠ .rx) (htx : p ≠ .tx) {x1 s} (k : Kept p b s) :
    Kept p b (killPort x1 s) := by
  unfold killPort
  try dsimp only
  repeat' first | with_reducible assumption | (intro _; try dsimp only) | with_reducible apply deadSlots_kept hrx | with_reducible apply setPort_kept htx | with_reducible apply foldl_kept | with_reducible apply ite_kept | (fail_if_no_progress (with_reducible refine mk_kept ?_)) | split

theorem loseSf_kept (hregs : p ≠ .regs) (hsf : p ≠ .sf) {x1 s} (k : Kept p b s) :
    Kept p b (loseSf x1 s) := by
  unfold loseSf
  try dsimp only
  repeat' first | with_reducible assumption | (intro _; try dsimp only) | with_reducible apply setSfc_kept hsf | with_reducible apply loseRegs_kept hregs | with_reducible apply fsets_kept hregs | with_reducible apply setReg_kept hregs | with_reducible apply fset_kept hregs | with_reducible apply showCause_kept hregs | with_reducible apply keepEstop_kept hregs hsf | with_reducible apply foldl_kept | with_reducible apply ite_kept | (fail_if_no_progress (with_reducible refine mk_kept ?_)) | split

theorem loseDomain_kept (hregs : p ≠ .regs) (hmgmt : p ≠ .mgmt) (hstartup : p ≠ .startup) (hcal : p ≠ .cal) (hrx : p ≠ .rx) (htx : p ≠ .tx) (hlk : p ≠ .lk) (haq : p ≠ .aq) (hadcs : p ≠ .adcs) (hsc : p ≠ .sc) (hsf : p ≠ .sf) (hhk : p ≠ .hk) (haqMem : p ≠ .aqMem) {x1 x2 s} (k : Kept p b s) :
    Kept p b (loseDomain x1 x2 s) := by
  unfold loseDomain
  extract_lets s1
  replace k : Kept p b s1 := loseBlock_kept hmgmt hstartup k
  clear_value s1
  refine ite_kept ?_ ?_
  · exact loseRx_kept hregs hcal hrx hadcs (loseRegs_kept hregs k)
  refine ite_kept ?_ ?_
  · exact loseRxCommon_kept hmgmt hrx (loseRegs_kept hregs k)
  refine ite_kept ?_ ?_
  · exact forUp_kept (fun _ _ kt => killPort_kept hrx htx kt) (loseRegs_kept hregs k)
  refine ite_kept ?_ ?_
  · exact loseRecorder_kept hmgmt (loseRegs_kept hregs (mk_kept k))
  refine ite_kept ?_ ?_
  · exact ite_kept (loseRecorder_kept hmgmt (loseRegs_kept hregs (mk_kept k))) (loseRegs_kept hregs (mk_kept k))
  refine ite_kept ?_ ?_
  · exact loseRecorder_kept hmgmt (loseRegs_kept hregs (aq_kept haq haqMem (fun _ => canon_nil) k))
  refine ite_kept ?_ ?_
  · exact loseRecorder_kept hmgmt (loseRegs_kept hregs (mk_kept k))
  refine ite_kept ?_ ?_
  · exact loseRecorder_kept hmgmt (loseRegs_kept hregs (mk_kept k))
  refine ite_kept ?_ ?_
  · exact loseRecorder_kept hmgmt (loseSf_kept hregs hsf k)
  refine ite_kept ?_ ?_
  · exact loseSf_kept hregs hsf k
  · exact k

theorem switchOffShadow_kept (hregs : p ≠ .regs) (hmgmt : p ≠ .mgmt) (hstartup : p ≠ .startup) (hcal : p ≠ .cal) (hrx : p ≠ .rx) (htx : p ≠ .tx) (hlk : p ≠ .lk) (haq : p ≠ .aq) (hadcs : p ≠ .adcs) (hsc : p ≠ .sc) (hsf : p ≠ .sf) (hhk : p ≠ .hk) (haqMem : p ≠ .aqMem) {s} (k : Kept p b s) :
    Kept p b (switchOffShadow s) := by
  unfold switchOffShadow
  try dsimp only
  repeat' first | with_reducible assumption | (intro _; try dsimp only) | with_reducible apply loseDomain_kept hregs hmgmt hstartup hcal hrx htx hlk haq hadcs hsc hsf hhk haqMem | with_reducible apply setDomain_kept hregs | with_reducible apply foldl_kept | with_reducible apply ite_kept | (fail_if_no_progress (with_reducible refine mk_kept ?_)) | split

theorem rejoinBlock_kept (hstartup : p ≠ .startup) {x1 x2 s} (k : Kept p b s) :
    Kept p b (rejoinBlock x1 x2 s) := by
  unfold rejoinBlock
  try dsimp only
  repeat' first | with_reducible assumption | (intro _; try dsimp only) | with_reducible apply foldl_kept | with_reducible apply ite_kept | (fail_if_no_progress (with_reducible refine mk_kept ?_)) | split

theorem joinDomain_kept (hregs : p ≠ .regs) (hmgmt : p ≠ .mgmt) (hstartup : p ≠ .startup) (hcal : p ≠ .cal) (hrx : p ≠ .rx) (htx : p ≠ .tx) (hlk : p ≠ .lk) (haq : p ≠ .aq) (hadcs : p ≠ .adcs) (hsc : p ≠ .sc) (haqMem : p ≠ .aqMem) {x1 x2 s} (k : Kept p b s) :
    Kept p b (joinDomain x1 x2 s) := by
  unfold joinDomain
  try dsimp only
  repeat' first | with_reducible assumption | (intro _; try dsimp only) | with_reducible apply takePlane_kept hregs hmgmt hcal hrx htx | with_reducible apply rejoinBlock_kept hstartup | with_reducible apply joinLanes_kept hregs hmgmt hlk haq | with_reducible apply takeMasks_kept hregs hmgmt hlk haq haqMem | with_reducible apply takeSc_kept hregs hmgmt hstartup hcal hadcs hsc | with_reducible apply installHk_kept hcal | with_reducible apply foldl_kept | with_reducible apply ite_kept | (fail_if_no_progress (with_reducible refine mk_kept ?_)) | split

theorem switchOnFor_kept (hregs : p ≠ .regs) (hhk : p ≠ .hk) {x1 s} (k : Kept p b s) :
    Kept p b (switchOnFor x1 s) := by
  unfold switchOnFor
  try dsimp only
  repeat' first | with_reducible assumption | (intro _; try dsimp only) | with_reducible apply setDomain_kept hregs | with_reducible apply foldl_kept | with_reducible apply ite_kept | (fail_if_no_progress (with_reducible refine mk_kept ?_)) | split

theorem faultDomain_kept (hmode : p ≠ .mode) (hregs : p ≠ .regs) (htime : p ≠ .time) (hcut : p ≠ .cut) (hmgmt : p ≠ .mgmt) (hstartup : p ≠ .startup) (hcal : p ≠ .cal) (hrx : p ≠ .rx) (htx : p ≠ .tx) (hlk : p ≠ .lk) (haq : p ≠ .aq) (hadcs : p ≠ .adcs) (hsc : p ≠ .sc) (hmotionIn : p ≠ .motionIn) (hpairSt : p ≠ .pairSt) (hsf : p ≠ .sf) (hhk : p ≠ .hk) (hfw : p ≠ .fw) (htbase : p ≠ .tbase) (hlive : p ≠ .live) (hshadow : p ≠ .shadow) (haqMem : p ≠ .aqMem) {x1 s} (k : Kept p b s) :
    Kept p b (faultDomain x1 s) := by
  unfold faultDomain
  try dsimp only
  repeat' first | with_reducible assumption | (intro _; try dsimp only) | with_reducible apply resetDevice_kept hmode hregs htime hcut hmgmt hstartup hcal hrx htx hlk haq hadcs hsc hmotionIn hpairSt hsf hhk hfw htbase hlive hshadow haqMem | with_reducible apply setFlag_kept hregs hmgmt | with_reducible apply loseDomain_kept hregs hmgmt hstartup hcal hrx htx hlk haq hadcs hsc hsf hhk haqMem | with_reducible apply setDomain_kept hregs | with_reducible apply domReaction_kept hmode hregs htime hcut hmgmt hstartup hcal hrx htx hlk haq hsc hpairSt hsf hfw haqMem | with_reducible apply foldl_kept | with_reducible apply ite_kept | (fail_if_no_progress (with_reducible refine mk_kept ?_)) | split

theorem railFault_kept (hmode : p ≠ .mode) (hregs : p ≠ .regs) (htime : p ≠ .time) (hcut : p ≠ .cut) (hmgmt : p ≠ .mgmt) (hstartup : p ≠ .startup) (hcal : p ≠ .cal) (hrx : p ≠ .rx) (htx : p ≠ .tx) (hlk : p ≠ .lk) (haq : p ≠ .aq) (hadcs : p ≠ .adcs) (hsc : p ≠ .sc) (hmotionIn : p ≠ .motionIn) (hpairSt : p ≠ .pairSt) (hsf : p ≠ .sf) (hhk : p ≠ .hk) (hfw : p ≠ .fw) (htbase : p ≠ .tbase) (hlive : p ≠ .live) (hshadow : p ≠ .shadow) (haqMem : p ≠ .aqMem) {x1 s} (k : Kept p b s) :
    Kept p b (railFault x1 s) := by
  unfold railFault
  try dsimp only
  repeat' first | with_reducible assumption | (intro _; try dsimp only) | with_reducible apply resetDevice_kept hmode hregs htime hcut hmgmt hstartup hcal hrx htx hlk haq hadcs hsc hmotionIn hpairSt hsf hhk hfw htbase hlive hshadow haqMem | with_reducible apply faultDomain_kept hmode hregs htime hcut hmgmt hstartup hcal hrx htx hlk haq hadcs hsc hmotionIn hpairSt hsf hhk hfw htbase hlive hshadow haqMem | with_reducible apply forUp_kept | with_reducible apply foldl_kept | with_reducible apply ite_kept | (fail_if_no_progress (with_reducible refine mk_kept ?_)) | split

theorem execSupplyMonitorChange_kept (hmode : p ≠ .mode) (hregs : p ≠ .regs) (htime : p ≠ .time) (hcut : p ≠ .cut) (hmgmt : p ≠ .mgmt) (hstartup : p ≠ .startup) (hcal : p ≠ .cal) (hrx : p ≠ .rx) (htx : p ≠ .tx) (hlk : p ≠ .lk) (haq : p ≠ .aq) (hadcs : p ≠ .adcs) (hsc : p ≠ .sc) (hmotionIn : p ≠ .motionIn) (hpairSt : p ≠ .pairSt) (hsf : p ≠ .sf) (hhk : p ≠ .hk) (hfw : p ≠ .fw) (htbase : p ≠ .tbase) (hlive : p ≠ .live) (hshadow : p ≠ .shadow) (haqMem : p ≠ .aqMem) {x1 x2 s t} (k : Kept p b s) (e : execSupplyMonitorChange x1 x2 s = .next t) :
    Kept p b t := by
  unfold execSupplyMonitorChange at e
  injection e with e
  subst e
  try dsimp only
  repeat' first | with_reducible assumption | (intro _; try dsimp only) | with_reducible apply fset_kept hregs | with_reducible apply showPower_kept hmode | with_reducible apply aonBack_kept hstartup | with_reducible apply setFlag_kept hregs hmgmt | with_reducible apply adcSupplyBad_kept hregs hmgmt hadcs hsc | with_reducible apply aonLost_kept hmode hregs htime hcut hmgmt hstartup hcal hrx htx hlk haq hadcs hsc hmotionIn hpairSt hsf hhk hfw htbase hlive hshadow haqMem | with_reducible apply railFault_kept hmode hregs htime hcut hmgmt hstartup hcal hrx htx hlk haq hadcs hsc hmotionIn hpairSt hsf hhk hfw htbase hlive hshadow haqMem | with_reducible apply foldl_kept | with_reducible apply ite_kept | (fail_if_no_progress (with_reducible refine mk_kept ?_)) | split

theorem execDomainFault_kept (hmode : p ≠ .mode) (hregs : p ≠ .regs) (htime : p ≠ .time) (hcut : p ≠ .cut) (hmgmt : p ≠ .mgmt) (hstartup : p ≠ .startup) (hcal : p ≠ .cal) (hrx : p ≠ .rx) (htx : p ≠ .tx) (hlk : p ≠ .lk) (haq : p ≠ .aq) (hadcs : p ≠ .adcs) (hsc : p ≠ .sc) (hmotionIn : p ≠ .motionIn) (hpairSt : p ≠ .pairSt) (hsf : p ≠ .sf) (hhk : p ≠ .hk) (hfw : p ≠ .fw) (htbase : p ≠ .tbase) (hlive : p ≠ .live) (hshadow : p ≠ .shadow) (haqMem : p ≠ .aqMem) {x1 s t} (k : Kept p b s) (e : execDomainFault x1 s = .next t) :
    Kept p b t := by
  unfold execDomainFault at e
  injection e with e
  subst e
  try dsimp only
  repeat' first | with_reducible assumption | (intro _; try dsimp only) | with_reducible apply faultDomain_kept hmode hregs htime hcut hmgmt hstartup hcal hrx htx hlk haq hadcs hsc hmotionIn hpairSt hsf hhk hfw htbase hlive hshadow haqMem | with_reducible apply foldl_kept | with_reducible apply ite_kept | (fail_if_no_progress (with_reducible refine mk_kept ?_)) | split

theorem applyHkWrite_kept (hregs : p ≠ .regs) (hstartup : p ≠ .startup) (hrx : p ≠ .rx) (hadcs : p ≠ .adcs) (hhk : p ≠ .hk) {x1 x2 s} (k : Kept p b s) :
    Kept p b (applyHkWrite x1 x2 s) := by
  unfold applyHkWrite
  try dsimp only
  repeat' first | with_reducible assumption | (intro _; try dsimp only) | with_reducible apply restartDomains_kept hregs hhk | with_reducible apply adcDue_kept hrx hadcs | with_reducible apply plainWrite_kept hregs | with_reducible apply setHkChan_kept hhk | with_reducible apply releaseCross_kept hregs hstartup hhk | with_reducible apply forUp_kept | with_reducible apply foldl_kept | with_reducible apply ite_kept | (fail_if_no_progress (with_reducible refine mk_kept ?_)) | split

theorem execDomainGood_kept (hregs : p ≠ .regs) (hmgmt : p ≠ .mgmt) (hstartup : p ≠ .startup) (hcal : p ≠ .cal) (hrx : p ≠ .rx) (htx : p ≠ .tx) (hlk : p ≠ .lk) (haq : p ≠ .aq) (hadcs : p ≠ .adcs) (hsc : p ≠ .sc) (haqMem : p ≠ .aqMem) {x1 s t} (k : Kept p b s) (e : execDomainGood x1 s = .next t) :
    Kept p b t := by
  unfold execDomainGood at e
  injection e with e
  subst e
  try dsimp only
  repeat' first | with_reducible assumption | (intro _; try dsimp only) | with_reducible apply joinDomain_kept hregs hmgmt hstartup hcal hrx htx hlk haq hadcs hsc haqMem | with_reducible apply enableAdcs_kept hregs hadcs | with_reducible apply setDomain_kept hregs | with_reducible apply foldl_kept | with_reducible apply ite_kept | (fail_if_no_progress (with_reducible refine mk_kept ?_)) | split

theorem execDomainSwitchOff_kept (hregs : p ≠ .regs) (hmgmt : p ≠ .mgmt) (hstartup : p ≠ .startup) (hcal : p ≠ .cal) (hrx : p ≠ .rx) (htx : p ≠ .tx) (hlk : p ≠ .lk) (haq : p ≠ .aq) (hadcs : p ≠ .adcs) (hsc : p ≠ .sc) (hsf : p ≠ .sf) (hhk : p ≠ .hk) (haqMem : p ≠ .aqMem) {x1 s t} (k : Kept p b s) (e : execDomainSwitchOff x1 s = .next t) :
    Kept p b t := by
  unfold execDomainSwitchOff at e
  injection e with e
  subst e
  try dsimp only
  repeat' first | with_reducible assumption | (intro _; try dsimp only) | with_reducible apply loseDomain_kept hregs hmgmt hstartup hcal hrx htx hlk haq hadcs hsc hsf hhk haqMem | with_reducible apply setDomain_kept hregs | with_reducible apply foldl_kept | with_reducible apply ite_kept | (fail_if_no_progress (with_reducible refine mk_kept ?_)) | split

theorem hkWrite_kept (hhk : p ≠ .hk) {x1 x2 s} (k : Kept p b s) :
    Kept p b (hkWrite x1 x2 s) := by
  unfold hkWrite
  try dsimp only
  repeat' first | with_reducible assumption | (intro _; try dsimp only) | with_reducible apply foldl_kept | with_reducible apply ite_kept | (fail_if_no_progress (with_reducible refine mk_kept ?_)) | split

theorem execDomainRestart_kept (hregs : p ≠ .regs) (hmgmt : p ≠ .mgmt) (hhk : p ≠ .hk) {x1 x2 x3 s t} (k : Kept p b s) (e : execDomainRestart x1 x2 x3 s = .next t) :
    Kept p b t := by
  unfold execDomainRestart at e
  injection e with e
  subst e
  try dsimp only
  repeat' first | with_reducible assumption | (intro _; try dsimp only) | with_reducible apply hostWriteIf_kept hregs hmgmt | with_reducible apply hkWrite_kept hhk | with_reducible apply foldl_kept | with_reducible apply ite_kept | (fail_if_no_progress (with_reducible refine mk_kept ?_)) | split

theorem execHkRound_kept (hmode : p ≠ .mode) (hregs : p ≠ .regs) (htime : p ≠ .time) (hcut : p ≠ .cut) (hmgmt : p ≠ .mgmt) (hstartup : p ≠ .startup) (hcal : p ≠ .cal) (hrx : p ≠ .rx) (htx : p ≠ .tx) (hadcs : p ≠ .adcs) (hpairSt : p ≠ .pairSt) (hhk : p ≠ .hk) (hfw : p ≠ .fw) {x1 s t} (k : Kept p b s) (e : execHkRound x1 s = .next t) :
    Kept p b t := by
  unfold execHkRound at e
  injection e with e
  subst e
  try dsimp only
  repeat' first | with_reducible assumption | (intro _; try dsimp only) | with_reducible apply stampChanges_kept htime | with_reducible apply applyHk_kept hcut hcal | with_reducible apply applyHkWrite_kept hregs hstartup hrx hadcs hhk | with_reducible apply roundChannel_kept hmode hregs htime hmgmt hstartup hcal hrx htx hpairSt hhk hfw | with_reducible apply roundRail_kept hregs hmgmt hhk | with_reducible apply takeTemps_kept hregs hmgmt hcal | with_reducible apply junction_kept hmode hregs htime hmgmt hstartup hcal hrx htx hpairSt hhk hfw | with_reducible apply forUp_kept | with_reducible apply foldl_kept | with_reducible apply ite_kept | (fail_if_no_progress (with_reducible refine mk_kept ?_)) | split

theorem writeHalf_kept (hfw : p ≠ .fw) {x1 x2 s} (k : Kept p b s) :
    Kept p b (writeHalf x1 x2 s) := by
  unfold writeHalf
  try dsimp only
  repeat' first | with_reducible assumption | (intro _; try dsimp only) | with_reducible refine setFw_kept hfw ?_ | with_reducible apply foldl_kept | with_reducible apply ite_kept | (fail_if_no_progress (with_reducible refine mk_kept ?_)) | split

theorem writeSettings_kept (hfw : p ≠ .fw) {x1 s} (k : Kept p b s) :
    Kept p b (writeSettings x1 s) := by
  unfold writeSettings
  try dsimp only
  repeat' first | with_reducible assumption | (intro _; try dsimp only) | with_reducible apply writeHalf_kept hfw | with_reducible apply foldl_kept | with_reducible apply ite_kept | (fail_if_no_progress (with_reducible refine mk_kept ?_)) | split

theorem showImage_kept (hregs : p ≠ .regs) {s} (k : Kept p b s) :
    Kept p b (showImage s) := by
  unfold showImage
  try dsimp only
  repeat' first | with_reducible assumption | (intro _; try dsimp only) | with_reducible apply fset_kept hregs | with_reducible apply foldl_kept | with_reducible apply ite_kept | (fail_if_no_progress (with_reducible refine mk_kept ?_)) | split

theorem writeCtl_kept (hregs : p ≠ .regs) (hfw : p ≠ .fw) {x1 s} (k : Kept p b s) :
    Kept p b (writeCtl x1 s) := by
  unfold writeCtl
  try dsimp only
  repeat' first | with_reducible assumption | (intro _; try dsimp only) | with_reducible apply showImage_kept hregs | with_reducible refine setFw_kept hfw ?_ | with_reducible apply foldl_kept | with_reducible apply ite_kept | (fail_if_no_progress (with_reducible refine mk_kept ?_)) | split

theorem readCtl_kept (hregs : p ≠ .regs) (hmgmt : p ≠ .mgmt) (hfw : p ≠ .fw) {s} (k : Kept p b s) :
    Kept p b (readCtl s) := by
  unfold readCtl
  try dsimp only
  repeat' first | with_reducible assumption | (intro _; try dsimp only) | with_reducible apply showImage_kept hregs | with_reducible refine setFw_kept hfw ?_ | with_reducible apply flag_kept hregs hmgmt | with_reducible apply foldl_kept | with_reducible apply ite_kept | (fail_if_no_progress (with_reducible refine mk_kept ?_)) | split

theorem loadImage_kept (hfw : p ≠ .fw) {x1 s} (k : Kept p b s) :
    Kept p b (loadImage x1 s) := by
  unfold loadImage
  try dsimp only
  repeat' first | with_reducible assumption | (intro _; try dsimp only) | with_reducible refine setFw_kept hfw ?_ | with_reducible apply foldl_kept | with_reducible apply ite_kept | (fail_if_no_progress (with_reducible refine mk_kept ?_)) | split

theorem chooseRom_kept (hregs : p ≠ .regs) (hmgmt : p ≠ .mgmt) (hfw : p ≠ .fw) {s} (k : Kept p b s) :
    Kept p b (chooseRom s) := by
  unfold chooseRom
  try dsimp only
  repeat' first | with_reducible assumption | (intro _; try dsimp only) | with_reducible apply flagIf_kept hregs hmgmt | with_reducible refine setFw_kept hfw ?_ | with_reducible apply foldl_kept | with_reducible apply ite_kept | (fail_if_no_progress (with_reducible refine mk_kept ?_)) | split

theorem chooseProgram_kept (hregs : p ≠ .regs) (hmgmt : p ≠ .mgmt) (hfw : p ≠ .fw) {s} (k : Kept p b s) :
    Kept p b (chooseProgram s) := by
  unfold chooseProgram
  try dsimp only
  repeat' first | with_reducible assumption | (intro _; try dsimp only) | with_reducible apply loadImage_kept hfw | with_reducible apply chooseRom_kept hregs hmgmt hfw | with_reducible apply writeCtl_kept hregs hfw | with_reducible apply foldl_kept | with_reducible apply ite_kept | (fail_if_no_progress (with_reducible refine mk_kept ?_)) | split

theorem endSession_kept (hregs : p ≠ .regs) (hfw : p ≠ .fw) {s} (k : Kept p b s) :
    Kept p b (endSession s) := by
  unfold endSession
  try dsimp only
  repeat' first | with_reducible assumption | (intro _; try dsimp only) | with_reducible apply fsets_kept hregs | with_reducible refine setFw_kept hfw ?_ | with_reducible apply foldl_kept | with_reducible apply ite_kept | (fail_if_no_progress (with_reducible refine mk_kept ?_)) | split

theorem readSettings_kept (hregs : p ≠ .regs) (hmgmt : p ≠ .mgmt) (hcal : p ≠ .cal) (hfw : p ≠ .fw) {x1 s} (k : Kept p b s) :
    Kept p b (readSettings x1 s) := by
  unfold readSettings
  try dsimp only
  repeat' first | with_reducible assumption | (intro _; try dsimp only) | with_reducible refine setFw_kept hfw ?_ | with_reducible apply flagIf_kept hregs hmgmt | with_reducible apply foldl_kept | with_reducible apply ite_kept | (fail_if_no_progress (with_reducible refine mk_kept ?_)) | split

theorem startProgram_kept (hregs : p ≠ .regs) (hmgmt : p ≠ .mgmt) (hcal : p ≠ .cal) (hfw : p ≠ .fw) {s} (k : Kept p b s) :
    Kept p b (startProgram s) := by
  unfold startProgram
  try dsimp only
  repeat' first | with_reducible assumption | (intro _; try dsimp only) | with_reducible apply fset_kept hregs | with_reducible apply setReg_kept hregs | with_reducible refine setFw_kept hfw ?_ | with_reducible apply readSettings_kept hregs hmgmt hcal hfw | with_reducible apply foldl_kept | with_reducible apply ite_kept | (fail_if_no_progress (with_reducible refine mk_kept ?_)) | split

theorem emptyShadow_kept (hregs : p ≠ .regs) (hcut : p ≠ .cut) (hshadow : p ≠ .shadow) {s} (k : Kept p b s) :
    Kept p b (emptyShadow s) := by
  unfold emptyShadow
  dsimp only
  refine cut_kept hcut hshadow (fun _ => canon_nil) ?_
  exact setRegs_kept hregs (fsets_kept hregs k)

theorem markEarly_kept (hcut : p ≠ .cut) (hstartup : p ≠ .startup) (htx : p ≠ .tx) {x1 s} (k : Kept p b s) :
    Kept p b (markEarly x1 s) := by
  unfold markEarly
  try dsimp only
  repeat' first | with_reducible assumption | (intro _; try dsimp only) | with_reducible apply dropRearms_kept hstartup htx | with_reducible apply setSeq_kept htx | with_reducible apply markApplied_kept hcut | with_reducible apply foldl_kept | with_reducible apply ite_kept | (fail_if_no_progress (with_reducible refine mk_kept ?_)) | split

theorem applyAtInstant_kept (hregs : p ≠ .regs) (hcut : p ≠ .cut) (hmgmt : p ≠ .mgmt) (hstartup : p ≠ .startup) (hcal : p ≠ .cal) (hrx : p ≠ .rx) (htx : p ≠ .tx) (hlk : p ≠ .lk) (haq : p ≠ .aq) (hadcs : p ≠ .adcs) (hsc : p ≠ .sc) (haqMem : p ≠ .aqMem) {x1 s} (k : Kept p b s) :
    Kept p b (applyAtInstant x1 s) := by
  unfold applyAtInstant
  try dsimp only
  repeat' first | with_reducible assumption | (intro _; try dsimp only) | with_reducible apply applyHk_kept hcut hcal | with_reducible apply applySc_kept hregs hcut hmgmt hstartup hcal hadcs hsc | with_reducible apply dropRearms_kept hstartup htx | with_reducible apply markApplied_kept hcut | with_reducible apply applyAq_kept hregs hcut hmgmt hlk haq haqMem | with_reducible apply applyLk_kept hregs hcut hmgmt hlk haq | with_reducible apply applyWaiting_kept hregs hstartup hrx hadcs | with_reducible apply applyRx_kept hregs hcut hmgmt hcal hrx htx | with_reducible apply foldl_kept | with_reducible apply ite_kept | (fail_if_no_progress (with_reducible refine mk_kept ?_)) | split

theorem execChangeAtInstant_kept (hregs : p ≠ .regs) (hcut : p ≠ .cut) (hmgmt : p ≠ .mgmt) (hstartup : p ≠ .startup) (hcal : p ≠ .cal) (hrx : p ≠ .rx) (htx : p ≠ .tx) (hlk : p ≠ .lk) (haq : p ≠ .aq) (hadcs : p ≠ .adcs) (hsc : p ≠ .sc) (haqMem : p ≠ .aqMem) {x1 s t} (k : Kept p b s) (e : execChangeAtInstant x1 s = .next t) :
    Kept p b t := by
  unfold execChangeAtInstant at e
  injection e with e
  subst e
  try dsimp only
  repeat' first | with_reducible assumption | (intro _; try dsimp only) | with_reducible apply applyAtInstant_kept hregs hcut hmgmt hstartup hcal hrx htx hlk haq hadcs hsc haqMem | with_reducible apply foldl_kept | with_reducible apply ite_kept | (fail_if_no_progress (with_reducible refine mk_kept ?_)) | split

theorem setShadow_kept (hregs : p ≠ .regs) {x1 s} (k : Kept p b s) :
    Kept p b (setShadow x1 s) := by
  unfold setShadow
  try dsimp only
  repeat' first | with_reducible assumption | (intro _; try dsimp only) | with_reducible apply fset_kept hregs | with_reducible apply foldl_kept | with_reducible apply ite_kept | (fail_if_no_progress (with_reducible refine mk_kept ?_)) | split

theorem orderRom_kept (hregs : p ≠ .regs) (hcut : p ≠ .cut) (hfw : p ≠ .fw) {s} (k : Kept p b s) :
    Kept p b (orderRom s) := by
  unfold orderRom
  try dsimp only
  repeat' first | with_reducible assumption | (intro _; try dsimp only) | with_reducible refine setFw_kept hfw ?_ | with_reducible apply setShadow_kept hregs | with_reducible apply setDomain_kept hregs | with_reducible apply foldl_kept | with_reducible apply ite_kept | (fail_if_no_progress (with_reducible refine mk_kept ?_)) | split

theorem execSwapDone_kept (hregs : p ≠ .regs) (hcut : p ≠ .cut) (hmgmt : p ≠ .mgmt) (hfw : p ≠ .fw) (hshadow : p ≠ .shadow) {s t} (k : Kept p b s) (e : execSwapDone s = .next t) :
    Kept p b t := by
  unfold execSwapDone at e
  injection e with e
  subst e
  try dsimp only
  repeat' first | with_reducible assumption | (intro _; try dsimp only) | with_reducible apply setReg64_kept hregs | with_reducible apply flag_kept hregs hmgmt | with_reducible apply emptyShadow_kept hregs hcut hshadow | with_reducible apply orderRom_kept hregs hcut hfw | with_reducible apply foldl_kept | with_reducible apply ite_kept | (fail_if_no_progress (with_reducible refine mk_kept ?_)) | split

theorem swapMode_kept (hmode : p ≠ .mode) (hregs : p ≠ .regs) (htime : p ≠ .time) (hmgmt : p ≠ .mgmt) (hstartup : p ≠ .startup) (hcal : p ≠ .cal) (hrx : p ≠ .rx) (htx : p ≠ .tx) (hadcs : p ≠ .adcs) (hfw : p ≠ .fw) {x1 s} (k : Kept p b s) :
    Kept p b (swapMode x1 s) := by
  unfold swapMode
  try dsimp only
  repeat' first | with_reducible assumption | (intro _; try dsimp only) | with_reducible apply noteCheck_kept hrx | with_reducible apply toConfigured_kept hmode hregs htime hmgmt hcal hrx htx hfw | with_reducible apply startAdc_kept hregs hadcs | with_reducible apply endCause_kept hstartup | with_reducible apply fset_kept hregs | with_reducible apply startProgram_kept hregs hmgmt hcal hfw | with_reducible apply forUp_kept | with_reducible apply foldl_kept | with_reducible apply ite_kept | (fail_if_no_progress (with_reducible refine mk_kept ?_)) | split

theorem beginSwap_kept (hmode : p ≠ .mode) (hregs : p ≠ .regs) (htime : p ≠ .time) (hcut : p ≠ .cut) (hmgmt : p ≠ .mgmt) (hstartup : p ≠ .startup) (hcal : p ≠ .cal) (hrx : p ≠ .rx) (htx : p ≠ .tx) (hadcs : p ≠ .adcs) (hsc : p ≠ .sc) (hpairSt : p ≠ .pairSt) (hsf : p ≠ .sf) (hhk : p ≠ .hk) (hfw : p ≠ .fw) (hlive : p ≠ .live) {x1 s} (k : Kept p b s) :
    Kept p b (beginSwap x1 s) := by
  unfold beginSwap
  try dsimp only
  repeat' first | with_reducible assumption | (intro _; try dsimp only) | with_reducible apply setReg_kept hregs | with_reducible apply fset_kept hregs | with_reducible apply setRegs_kept hregs | with_reducible apply setBlk_kept hrx | with_reducible apply setShadow_kept hregs | with_reducible refine setFw_kept hfw ?_ | with_reducible apply reloadGates_kept hrx | with_reducible apply pairSwap_kept hmode hregs htime hmgmt hcal hrx htx hadcs hsc hpairSt hsf hfw | with_reducible apply swapMode_kept hmode hregs htime hmgmt hstartup hcal hrx htx hadcs hfw | with_reducible apply noteSeed_kept htx | with_reducible apply markBanks_kept hadcs | with_reducible apply markEarly_kept hcut hstartup htx | with_reducible apply missSwap_kept hcal | with_reducible apply forUp_kept | with_reducible apply foldl_kept | with_reducible apply ite_kept | (fail_if_no_progress (with_reducible refine mk_kept ?_)) | split

theorem execSwapApply_kept (hmode : p ≠ .mode) (hregs : p ≠ .regs) (htime : p ≠ .time) (hcut : p ≠ .cut) (hmgmt : p ≠ .mgmt) (hstartup : p ≠ .startup) (hcal : p ≠ .cal) (hrx : p ≠ .rx) (htx : p ≠ .tx) (hadcs : p ≠ .adcs) (hsc : p ≠ .sc) (hpairSt : p ≠ .pairSt) (hsf : p ≠ .sf) (hhk : p ≠ .hk) (hfw : p ≠ .fw) (hlive : p ≠ .live) {s t} (k : Kept p b s) (e : execSwapApply s = .next t) :
    Kept p b t := by
  unfold execSwapApply at e
  injection e with e
  subst e
  try dsimp only
  repeat' first | with_reducible assumption | (intro _; try dsimp only) | with_reducible apply beginSwap_kept hmode hregs htime hcut hmgmt hstartup hcal hrx htx hadcs hsc hpairSt hsf hhk hfw hlive | with_reducible apply foldl_kept | with_reducible apply ite_kept | (fail_if_no_progress (with_reducible refine mk_kept ?_)) | split

theorem execIslandClockMonitorFault_kept (hmode : p ≠ .mode) (hregs : p ≠ .regs) (htime : p ≠ .time) (hcut : p ≠ .cut) (hmgmt : p ≠ .mgmt) (hstartup : p ≠ .startup) (hcal : p ≠ .cal) (hrx : p ≠ .rx) (htx : p ≠ .tx) (hlk : p ≠ .lk) (haq : p ≠ .aq) (hpairSt : p ≠ .pairSt) (hfw : p ≠ .fw) (haqMem : p ≠ .aqMem) {x1 s t} (k : Kept p b s) (e : execIslandClockMonitorFault x1 s = .next t) :
    Kept p b t := by
  unfold execIslandClockMonitorFault at e
  injection e with e
  subst e
  try dsimp only
  repeat' first | with_reducible assumption | (intro _; try dsimp only) | with_reducible apply fence_kept hmode hregs htime hcut hmgmt hstartup hcal hrx htx hlk haq hpairSt hfw haqMem | with_reducible apply foldl_kept | with_reducible apply ite_kept | (fail_if_no_progress (with_reducible refine mk_kept ?_)) | split

theorem execRefclkLoss_kept (hmode : p ≠ .mode) (hregs : p ≠ .regs) (htime : p ≠ .time) (hmgmt : p ≠ .mgmt) (hstartup : p ≠ .startup) (hcal : p ≠ .cal) (hrx : p ≠ .rx) (htx : p ≠ .tx) (hpairSt : p ≠ .pairSt) (hfw : p ≠ .fw) {s t} (k : Kept p b s) (e : execRefclkLoss s = .next t) :
    Kept p b t := by
  unfold execRefclkLoss at e
  injection e with e
  subst e
  try dsimp only
  repeat' first | with_reducible assumption | (intro _; try dsimp only) | with_reducible apply chipReaction_kept hmode hregs htime hmgmt hstartup hcal hrx htx hpairSt hfw | with_reducible apply flag_kept hregs hmgmt | with_reducible apply fsets_kept hregs | with_reducible apply foldl_kept | with_reducible apply ite_kept | (fail_if_no_progress (with_reducible refine mk_kept ?_)) | split

theorem liftFence_kept (hregs : p ≠ .regs) (hmgmt : p ≠ .mgmt) (hstartup : p ≠ .startup) (hhk : p ≠ .hk) {x1 s} (k : Kept p b s) :
    Kept p b (liftFence x1 s) := by
  unfold liftFence
  try dsimp only
  repeat' first | with_reducible assumption | (intro _; try dsimp only) | with_reducible apply unfreeze_kept hmgmt | with_reducible apply setReg_kept hregs | with_reducible apply setDomain_kept hregs | with_reducible apply endCause_kept hstartup | with_reducible apply foldl_kept | with_reducible apply ite_kept | (fail_if_no_progress (with_reducible refine mk_kept ?_)) | split

theorem execRegionFenceLift_kept (hregs : p ≠ .regs) (hmgmt : p ≠ .mgmt) (hstartup : p ≠ .startup) (hhk : p ≠ .hk) {x1 x2 s t} (k : Kept p b s) (e : execRegionFenceLift x1 x2 s = .next t) :
    Kept p b t := by
  unfold execRegionFenceLift at e
  injection e with e
  subst e
  try dsimp only
  repeat' first | with_reducible assumption | (intro _; try dsimp only) | with_reducible apply hostWriteIf_kept hregs hmgmt | with_reducible apply liftFence_kept hregs hmgmt hstartup hhk | with_reducible apply forUp_kept | with_reducible apply foldl_kept | with_reducible apply ite_kept | (fail_if_no_progress (with_reducible refine mk_kept ?_)) | split

theorem noteAt_kept (htime : p ≠ .time) {x1 x2 s} (k : Kept p b s) :
    Kept p b (noteAt x1 x2 s) := by
  unfold noteAt
  try dsimp only
  repeat' first | with_reducible assumption | (intro _; try dsimp only) | with_reducible apply noteChange_kept htime | with_reducible apply foldl_kept | with_reducible apply ite_kept | (fail_if_no_progress (with_reducible refine mk_kept ?_)) | split

theorem noteSlews_kept (htime : p ≠ .time) {x1 s} (k : Kept p b s) :
    Kept p b (noteSlews x1 s) := by
  unfold noteSlews
  try dsimp only
  repeat' first | with_reducible assumption | (intro _; try dsimp only) | with_reducible apply noteAt_kept htime | with_reducible apply foldl_kept | with_reducible apply ite_kept | (fail_if_no_progress (with_reducible refine mk_kept ?_)) | split

theorem noteGates_kept (htime : p ≠ .time) {x1 s} (k : Kept p b s) :
    Kept p b (noteGates x1 s) := by
  unfold noteGates
  try dsimp only
  repeat' first | with_reducible assumption | (intro _; try dsimp only) | with_reducible apply noteAt_kept htime | with_reducible apply forUp_kept | with_reducible apply foldl_kept | with_reducible apply ite_kept | (fail_if_no_progress (with_reducible refine mk_kept ?_)) | split

theorem execCrossbarFault_kept (hmode : p ≠ .mode) (hregs : p ≠ .regs) (htime : p ≠ .time) (hmgmt : p ≠ .mgmt) (hstartup : p ≠ .startup) (hcal : p ≠ .cal) (hrx : p ≠ .rx) (htx : p ≠ .tx) (hpairSt : p ≠ .pairSt) (hfw : p ≠ .fw) {s t} (k : Kept p b s) (e : execCrossbarFault s = .next t) :
    Kept p b t := by
  unfold execCrossbarFault at e
  injection e with e
  subst e
  try dsimp only
  repeat' first | with_reducible assumption | (intro _; try dsimp only) | with_reducible apply chipReaction_kept hmode hregs htime hmgmt hstartup hcal hrx htx hpairSt hfw | with_reducible apply foldl_kept | with_reducible apply ite_kept | (fail_if_no_progress (with_reducible refine mk_kept ?_)) | split

theorem idleSeqs_kept (hcut : p ≠ .cut) {x1 s} (k : Kept p b s) :
    Kept p b (idleSeqs x1 s) := by
  unfold idleSeqs
  try dsimp only
  repeat' first | with_reducible assumption | (intro _; try dsimp only) | with_reducible apply markApplied_kept hcut | with_reducible apply forUp_kept | with_reducible apply foldl_kept | with_reducible apply ite_kept | (fail_if_no_progress (with_reducible refine mk_kept ?_)) | split

theorem latchCensus_kept (hregs : p ≠ .regs) (hmgmt : p ≠ .mgmt) (hrx : p ≠ .rx) {x1 x2 s} (k : Kept p b s) :
    Kept p b (latchCensus x1 x2 s) := by
  unfold latchCensus
  try dsimp only
  repeat' first | with_reducible assumption | (intro _; try dsimp only) | with_reducible apply setReg_kept hregs | with_reducible apply setBlk_kept hrx | with_reducible apply flagIf_kept hregs hmgmt | with_reducible apply foldl_kept | with_reducible apply ite_kept | (fail_if_no_progress (with_reducible refine mk_kept ?_)) | split

theorem frameBoundary_kept (hmode : p ≠ .mode) (hregs : p ≠ .regs) (htime : p ≠ .time) (hcut : p ≠ .cut) (hmgmt : p ≠ .mgmt) (hstartup : p ≠ .startup) (hcal : p ≠ .cal) (hrx : p ≠ .rx) (htx : p ≠ .tx) (hadcs : p ≠ .adcs) (hsc : p ≠ .sc) (hpairSt : p ≠ .pairSt) (hsf : p ≠ .sf) (hhk : p ≠ .hk) (hfw : p ≠ .fw) (hfresh : p ≠ .fresh) (hlive : p ≠ .live) {s} (k : Kept p b s) :
    Kept p b (frameBoundary s) := by
  unfold frameBoundary
  try dsimp only
  repeat' first | with_reducible assumption | (intro _; try dsimp only) | with_reducible apply fset_kept hregs | with_reducible apply setReg64_kept hregs | with_reducible apply setReg_kept hregs | with_reducible apply wrapRecord_kept hregs hmgmt | with_reducible apply beginSwap_kept hmode hregs htime hcut hmgmt hstartup hcal hrx htx hadcs hsc hpairSt hsf hhk hfw hlive | with_reducible apply commitBefore_kept hregs hmgmt hrx | with_reducible refine setFw_kept hfw ?_ | with_reducible apply startShooting_kept hregs htx | with_reducible apply idleSeqs_kept hcut | with_reducible apply frameShots_kept hregs htime hcut hmgmt hstartup hrx htx hpairSt | with_reducible apply takeHop_kept hregs hpairSt | with_reducible apply noteGates_kept htime | with_reducible apply applyGates_kept hregs hmgmt hrx | with_reducible apply noteSlews_kept htime | with_reducible apply slewFrame_kept hcal | with_reducible apply showWait_kept hregs | with_reducible apply refreshSkew_kept hregs hfresh | with_reducible apply latchCensus_kept hregs hmgmt hrx | with_reducible apply forUp_kept | with_reducible apply foldl_kept | with_reducible apply ite_kept | (fail_if_no_progress (with_reducible refine mk_kept ?_)) | split

theorem execFrameSyncEdge_kept (hmode : p ≠ .mode) (hregs : p ≠ .regs) (htime : p ≠ .time) (hcut : p ≠ .cut) (hmgmt : p ≠ .mgmt) (hstartup : p ≠ .startup) (hcal : p ≠ .cal) (hrx : p ≠ .rx) (htx : p ≠ .tx) (hadcs : p ≠ .adcs) (hsc : p ≠ .sc) (hpairSt : p ≠ .pairSt) (hsf : p ≠ .sf) (hhk : p ≠ .hk) (hfw : p ≠ .fw) (hfresh : p ≠ .fresh) (hlive : p ≠ .live) {s t} (k : Kept p b s) (e : execFrameSyncEdge s = .next t) :
    Kept p b t := by
  unfold execFrameSyncEdge at e
  injection e with e
  subst e
  try dsimp only
  repeat' first | with_reducible assumption | (intro _; try dsimp only) | with_reducible apply frameBoundary_kept hmode hregs htime hcut hmgmt hstartup hcal hrx htx hadcs hsc hpairSt hsf hhk hfw hfresh hlive | with_reducible apply foldl_kept | with_reducible apply ite_kept | (fail_if_no_progress (with_reducible refine mk_kept ?_)) | split

theorem execFrameLimitExpiry_kept (hregs : p ≠ .regs) (htime : p ≠ .time) (hmgmt : p ≠ .mgmt) {s t} (k : Kept p b s) (e : execFrameLimitExpiry s = .next t) :
    Kept p b t := by
  unfold execFrameLimitExpiry at e
  injection e with e
  subst e
  try dsimp only
  repeat' first | with_reducible assumption | (intro _; try dsimp only) | with_reducible apply flag_kept hregs hmgmt | with_reducible apply fset_kept hregs | with_reducible apply foldl_kept | with_reducible apply ite_kept | (fail_if_no_progress (with_reducible refine mk_kept ?_)) | split

theorem suspectSince_kept (hrx : p ≠ .rx) {x1 x2 s} (k : Kept p b s) :
    Kept p b (suspectSince x1 x2 s) := by
  unfold suspectSince
  try dsimp only
  repeat' first | with_reducible assumption | (intro _; try dsimp only) | with_reducible apply setBlk_kept hrx | with_reducible apply forUp_kept | with_reducible apply foldl_kept | with_reducible apply ite_kept | (fail_if_no_progress (with_reducible refine mk_kept ?_)) | split

theorem execRegionReady_kept (hregs : p ≠ .regs) (hmgmt : p ≠ .mgmt) (hstartup : p ≠ .startup) (hcal : p ≠ .cal) (hrx : p ≠ .rx) (htx : p ≠ .tx) (hlk : p ≠ .lk) (haq : p ≠ .aq) (hadcs : p ≠ .adcs) (hsc : p ≠ .sc) (haqMem : p ≠ .aqMem) {x1 s t} (k : Kept p b s) (e : execRegionReady x1 s = .next t) :
    Kept p b t := by
  unfold execRegionReady at e
  injection e with e
  subst e
  try dsimp only
  repeat' first | with_reducible assumption | (intro _; try dsimp only) | with_reducible apply reloadGates_kept hrx | with_reducible apply joinDomain_kept hregs hmgmt hstartup hcal hrx htx hlk haq hadcs hsc haqMem | with_reducible apply foldl_kept | with_reducible apply ite_kept | (fail_if_no_progress (with_reducible refine mk_kept ?_)) | split

theorem execAlignmentWord_kept (hregs : p ≠ .regs) (hmgmt : p ≠ .mgmt) (hrx : p ≠ .rx) {x1 s t} (k : Kept p b s) (e : execAlignmentWord x1 s = .next t) :
    Kept p b t := by
  unfold execAlignmentWord at e
  injection e with e
  subst e
  try dsimp only
  repeat' first | with_reducible assumption | (intro _; try dsimp only) | with_reducible apply suspectSince_kept hrx | with_reducible apply fset_kept hregs | with_reducible apply flag_kept hregs hmgmt | with_reducible apply foldl_kept | with_reducible apply ite_kept | (fail_if_no_progress (with_reducible refine mk_kept ?_)) | split

theorem execHandshakeTimeout_kept (hmode : p ≠ .mode) (hregs : p ≠ .regs) (htime : p ≠ .time) (hcut : p ≠ .cut) (hmgmt : p ≠ .mgmt) (hstartup : p ≠ .startup) (hcal : p ≠ .cal) (hrx : p ≠ .rx) (htx : p ≠ .tx) (hlk : p ≠ .lk) (haq : p ≠ .aq) (hpairSt : p ≠ .pairSt) (hfw : p ≠ .fw) (haqMem : p ≠ .aqMem) {x1 s t} (k : Kept p b s) (e : execHandshakeTimeout x1 s = .next t) :
    Kept p b t := by
  unfold execHandshakeTimeout at e
  injection e with e
  subst e
  try dsimp only
  repeat' first | with_reducible assumption | (intro _; try dsimp only) | with_reducible apply fence_kept hmode hregs htime hcut hmgmt hstartup hcal hrx htx hlk haq hpairSt hfw haqMem | with_reducible apply foldl_kept | with_reducible apply ite_kept | (fail_if_no_progress (with_reducible refine mk_kept ?_)) | split

theorem execCfUncorrectableError_kept (hmode : p ≠ .mode) (hregs : p ≠ .regs) (htime : p ≠ .time) (hmgmt : p ≠ .mgmt) (hstartup : p ≠ .startup) (hcal : p ≠ .cal) (hrx : p ≠ .rx) (htx : p ≠ .tx) (hpairSt : p ≠ .pairSt) (hfw : p ≠ .fw) {s t} (k : Kept p b s) (e : execCfUncorrectableError s = .next t) :
    Kept p b t := by
  unfold execCfUncorrectableError at e
  injection e with e
  subst e
  try dsimp only
  repeat' first | with_reducible assumption | (intro _; try dsimp only) | with_reducible apply chipReaction_kept hmode hregs htime hmgmt hstartup hcal hrx htx hpairSt hfw | with_reducible apply foldl_kept | with_reducible apply ite_kept | (fail_if_no_progress (with_reducible refine mk_kept ?_)) | split

theorem execFaultEscalation_kept (hmode : p ≠ .mode) (hregs : p ≠ .regs) (htime : p ≠ .time) (hcut : p ≠ .cut) (hmgmt : p ≠ .mgmt) (hstartup : p ≠ .startup) (hcal : p ≠ .cal) (hrx : p ≠ .rx) (htx : p ≠ .tx) (hlk : p ≠ .lk) (haq : p ≠ .aq) (hsc : p ≠ .sc) (hpairSt : p ≠ .pairSt) (hfw : p ≠ .fw) (haqMem : p ≠ .aqMem) {x1 x2 x3 s t} (k : Kept p b s) (e : execFaultEscalation x1 x2 x3 s = .next t) :
    Kept p b t := by
  unfold execFaultEscalation at e
  injection e with e
  subst e
  try dsimp only
  repeat' first | with_reducible assumption | (intro _; try dsimp only) | with_reducible apply isolateHere_kept hregs hmgmt hstartup hrx hlk haq hsc | with_reducible apply fence_kept hmode hregs htime hcut hmgmt hstartup hcal hrx htx hlk haq hpairSt hfw haqMem | with_reducible apply chipReaction_kept hmode hregs htime hmgmt hstartup hcal hrx htx hpairSt hfw | with_reducible apply foldl_kept | with_reducible apply ite_kept | (fail_if_no_progress (with_reducible refine mk_kept ?_)) | split

theorem execRefclkReturn_kept (hregs : p ≠ .regs) (hstartup : p ≠ .startup) {s t} (k : Kept p b s) (e : execRefclkReturn s = .next t) :
    Kept p b t := by
  unfold execRefclkReturn at e
  injection e with e
  subst e
  try dsimp only
  repeat' first | with_reducible assumption | (intro _; try dsimp only) | with_reducible apply endCause_kept hstartup | with_reducible apply fsets_kept hregs | with_reducible apply foldl_kept | with_reducible apply ite_kept | (fail_if_no_progress (with_reducible refine mk_kept ?_)) | split

end Sys2Proof.Machine
end

