-- ==== Sys2Proof/Laws/KeptCut.lean ====
section
/-! SUPPORT. What each operation and command of the Cut leaves alone (see Sys2Proof/Laws/Kept.lean). -/
namespace Sys2Proof.Machine

set_option Elab.async false
set_option linter.unusedTactic false
set_option linter.unreachableTactic false

variable {p : Part} {b : State}

theorem beginValidate_kept (hregs : p ≠ .regs) (hcut : p ≠ .cut) {s} (k : Kept p b s) :
    Kept p b (beginValidate s) := by
  unfold beginValidate
  try dsimp only
  repeat' first | with_reducible assumption | (intro _; try dsimp only) | with_reducible apply setShadow_kept hregs | with_reducible apply setRegs_kept hregs | with_reducible apply foldl_kept | with_reducible apply ite_kept | (fail_if_no_progress (with_reducible refine mk_kept ?_)) | split

theorem cutRefuse_kept (hregs : p ≠ .regs) (hmgmt : p ≠ .mgmt) {x1 s} (k : Kept p b s) :
    Kept p b (cutRefuse x1 s) := by
  unfold cutRefuse
  try dsimp only
  repeat' first | with_reducible assumption | (intro _; try dsimp only) | with_reducible apply flag_kept hregs hmgmt | with_reducible apply fsets_kept hregs | with_reducible apply foldl_kept | with_reducible apply ite_kept | (fail_if_no_progress (with_reducible refine mk_kept ?_)) | split

theorem validate_kept (hregs : p ≠ .regs) (hcut : p ≠ .cut) (hmgmt : p ≠ .mgmt) {s} (k : Kept p b s) :
    Kept p b (validate s) := by
  unfold validate
  try dsimp only
  repeat' first | with_reducible assumption | (intro _; try dsimp only) | with_reducible apply cutRefuse_kept hregs hmgmt | with_reducible apply beginValidate_kept hregs hcut | with_reducible apply foldl_kept | with_reducible apply ite_kept | (fail_if_no_progress (with_reducible refine mk_kept ?_)) | split

theorem byOwner_kept (hregs : p ≠ .regs) (hmgmt : p ≠ .mgmt) {x1 f s} (hf : ∀ t, Kept p b t → Kept p b (f t)) (k : Kept p b s) :
    Kept p b (byOwner x1 f s) := by
  unfold byOwner
  try dsimp only
  repeat' first | with_reducible assumption | (intro _; try dsimp only) | with_reducible apply cutRefuse_kept hregs hmgmt | with_reducible apply foldl_kept | with_reducible apply hf | with_reducible apply ite_kept | (fail_if_no_progress (with_reducible refine mk_kept ?_)) | split

theorem scheduleAt_kept (hregs : p ≠ .regs) (htime : p ≠ .time) (hcut : p ≠ .cut) {x1 s} (k : Kept p b s) :
    Kept p b (scheduleAt x1 s) := by
  unfold scheduleAt
  try dsimp only
  repeat' first | with_reducible assumption | (intro _; try dsimp only) | with_reducible apply setShadow_kept hregs | with_reducible apply accept_kept htime | with_reducible apply foldl_kept | with_reducible apply ite_kept | (fail_if_no_progress (with_reducible refine mk_kept ?_)) | split

theorem schedule_kept (hregs : p ≠ .regs) (htime : p ≠ .time) (hcut : p ≠ .cut) (hmgmt : p ≠ .mgmt) {s} (k : Kept p b s) :
    Kept p b (schedule s) := by
  unfold schedule
  try dsimp only
  repeat' first | with_reducible assumption | (intro _; try dsimp only) | with_reducible apply cutRefuse_kept hregs hmgmt | with_reducible apply scheduleAt_kept hregs htime hcut | with_reducible apply flag_kept hregs hmgmt | with_reducible apply foldl_kept | with_reducible apply ite_kept | (fail_if_no_progress (with_reducible refine mk_kept ?_)) | split

theorem execSchedule_kept (hregs : p ≠ .regs) (htime : p ≠ .time) (hcut : p ≠ .cut) (hmgmt : p ≠ .mgmt) {x1 s t} (k : Kept p b s) (e : execSchedule x1 s = .next t) :
    Kept p b t := by
  unfold execSchedule at e
  injection e with e
  subst e
  try dsimp only
  repeat' first | with_reducible assumption | (intro _; try dsimp only) | with_reducible apply hostWrite_kept hregs hmgmt | with_reducible apply byOwner_kept hregs hmgmt | with_reducible apply schedule_kept hregs htime hcut hmgmt | with_reducible apply foldl_kept | with_reducible apply ite_kept | (fail_if_no_progress (with_reducible refine mk_kept ?_)) | split

theorem takeShadow_kept (hregs : p ≠ .regs) {x1 s} (k : Kept p b s) :
    Kept p b (takeShadow x1 s) := by
  unfold takeShadow
  try dsimp only
  repeat' first | with_reducible assumption | (intro _; try dsimp only) | with_reducible apply fsets_kept hregs | with_reducible apply foldl_kept | with_reducible apply ite_kept | (fail_if_no_progress (with_reducible refine mk_kept ?_)) | split

theorem unstage_kept (hregs : p ≠ .regs) (hcut : p ≠ .cut) (hmgmt : p ≠ .mgmt) (hstartup : p ≠ .startup) (hcal : p ≠ .cal) (hrx : p ≠ .rx) (htx : p ≠ .tx) (hlk : p ≠ .lk) (haq : p ≠ .aq) (hadcs : p ≠ .adcs) (hsc : p ≠ .sc) (hsf : p ≠ .sf) (hhk : p ≠ .hk) (haqMem : p ≠ .aqMem) {s} (k : Kept p b s) :
    Kept p b (unstage s) := by
  unfold unstage
  try dsimp only
  repeat' first | with_reducible assumption | (intro _; try dsimp only) | with_reducible apply setRegs_kept hregs | with_reducible apply switchOffShadow_kept hregs hmgmt hstartup hcal hrx htx hlk haq hadcs hsc hsf hhk haqMem | with_reducible apply foldl_kept | with_reducible apply ite_kept | (fail_if_no_progress (with_reducible refine mk_kept ?_)) | split

theorem loadSlot_kept (hregs : p ≠ .regs) (hcut : p ≠ .cut) (hmgmt : p ≠ .mgmt) (hstartup : p ≠ .startup) (hcal : p ≠ .cal) (hrx : p ≠ .rx) (htx : p ≠ .tx) (hlk : p ≠ .lk) (haq : p ≠ .aq) (hadcs : p ≠ .adcs) (hsc : p ≠ .sc) (hsf : p ≠ .sf) (hhk : p ≠ .hk) (haqMem : p ≠ .aqMem) {x1 x2 s} (k : Kept p b s) :
    Kept p b (loadSlot x1 x2 s) := by
  unfold loadSlot
  try dsimp only
  repeat' first | with_reducible assumption | (intro _; try dsimp only) | with_reducible apply cutRefuse_kept hregs hmgmt | with_reducible apply setShadow_kept hregs | with_reducible apply takeShadow_kept hregs | with_reducible apply unstage_kept hregs hcut hmgmt hstartup hcal hrx htx hlk haq hadcs hsc hsf hhk haqMem | with_reducible apply foldl_kept | with_reducible apply ite_kept | (fail_if_no_progress (with_reducible refine mk_kept ?_)) | split

theorem execLoadSlot_kept (hregs : p ≠ .regs) (hcut : p ≠ .cut) (hmgmt : p ≠ .mgmt) (hstartup : p ≠ .startup) (hcal : p ≠ .cal) (hrx : p ≠ .rx) (htx : p ≠ .tx) (hlk : p ≠ .lk) (haq : p ≠ .aq) (hadcs : p ≠ .adcs) (hsc : p ≠ .sc) (hsf : p ≠ .sf) (hhk : p ≠ .hk) (haqMem : p ≠ .aqMem) {x1 x2 s t} (k : Kept p b s) (e : execLoadSlot x1 x2 s = .next t) :
    Kept p b t := by
  unfold execLoadSlot at e
  injection e with e
  subst e
  try dsimp only
  repeat' first | with_reducible assumption | (intro _; try dsimp only) | with_reducible apply hostWrite_kept hregs hmgmt | with_reducible apply byOwner_kept hregs hmgmt | with_reducible apply loadSlot_kept hregs hcut hmgmt hstartup hcal hrx htx hlk haq hadcs hsc hsf hhk haqMem | with_reducible apply foldl_kept | with_reducible apply ite_kept | (fail_if_no_progress (with_reducible refine mk_kept ?_)) | split

theorem failed_kept (hregs : p ≠ .regs) (hcut : p ≠ .cut) (hmgmt : p ≠ .mgmt) (hstartup : p ≠ .startup) (hcal : p ≠ .cal) (hrx : p ≠ .rx) (htx : p ≠ .tx) (hlk : p ≠ .lk) (haq : p ≠ .aq) (hadcs : p ≠ .adcs) (hsc : p ≠ .sc) (hsf : p ≠ .sf) (hhk : p ≠ .hk) (haqMem : p ≠ .aqMem) {x1 s} (k : Kept p b s) :
    Kept p b (failed x1 s) := by
  unfold failed
  try dsimp only
  repeat' first | with_reducible assumption | (intro _; try dsimp only) | with_reducible apply setShadow_kept hregs | with_reducible apply fsets_kept hregs | with_reducible apply unstage_kept hregs hcut hmgmt hstartup hcal hrx htx hlk haq hadcs hsc hsf hhk haqMem | with_reducible apply flag_kept hregs hmgmt | with_reducible apply foldl_kept | with_reducible apply ite_kept | (fail_if_no_progress (with_reducible refine mk_kept ?_)) | split

theorem windowWrite_kept (hregs : p ≠ .regs) (hmgmt : p ≠ .mgmt) {x1 x2 x3 f s} (hf : ∀ t, Kept p b t → Kept p b (f t)) (k : Kept p b s) :
    Kept p b (windowWrite x1 x2 x3 f s) := by
  unfold windowWrite
  try dsimp only
  repeat' first | with_reducible assumption | (intro _; try dsimp only) | with_reducible apply completeOk_kept hregs hmgmt | with_reducible apply complete_kept hregs hmgmt | with_reducible apply foldl_kept | with_reducible apply hf | with_reducible apply ite_kept | (fail_if_no_progress (with_reducible refine mk_kept ?_)) | split

theorem storeShadow_kept (hregs : p ≠ .regs) (hcut : p ≠ .cut) (hmgmt : p ≠ .mgmt) (hstartup : p ≠ .startup) (hcal : p ≠ .cal) (hrx : p ≠ .rx) (htx : p ≠ .tx) (hlk : p ≠ .lk) (haq : p ≠ .aq) (hadcs : p ≠ .adcs) (hsc : p ≠ .sc) (hsf : p ≠ .sf) (hhk : p ≠ .hk) (hshadow : p ≠ .shadow) (haqMem : p ≠ .aqMem) {x1 x2 x3 s} (k : Kept p b s) :
    Kept p b (storeShadow x1 x2 x3 s) := by
  unfold storeShadow
  dsimp only
  refine cut_kept hcut hshadow (fun h => canon_put h.2.2.1 _ _) ?_
  repeat' first | with_reducible assumption | with_reducible apply setShadow_kept hregs | with_reducible apply takeShadow_kept hregs | with_reducible apply unstage_kept hregs hcut hmgmt hstartup hcal hrx htx hlk haq hadcs hsc hsf hhk haqMem | split

theorem execCutWindowWrite_kept (hregs : p ≠ .regs) (hcut : p ≠ .cut) (hmgmt : p ≠ .mgmt) (hstartup : p ≠ .startup) (hcal : p ≠ .cal) (hrx : p ≠ .rx) (htx : p ≠ .tx) (hlk : p ≠ .lk) (haq : p ≠ .aq) (hadcs : p ≠ .adcs) (hsc : p ≠ .sc) (hsf : p ≠ .sf) (hhk : p ≠ .hk) (hshadow : p ≠ .shadow) (haqMem : p ≠ .aqMem) {x1 x2 x3 s t} (k : Kept p b s) (e : execCutWindowWrite x1 x2 x3 s = .next t) :
    Kept p b t := by
  unfold execCutWindowWrite at e
  injection e with e
  subst e
  try dsimp only
  repeat' first | with_reducible assumption | (intro _; try dsimp only) | with_reducible apply windowWrite_kept hregs hmgmt | with_reducible apply storeShadow_kept hregs hcut hmgmt hstartup hcal hrx htx hlk haq hadcs hsc hsf hhk hshadow haqMem | with_reducible apply foldl_kept | with_reducible apply ite_kept | (fail_if_no_progress (with_reducible refine mk_kept ?_)) | split

theorem cancelSwap_kept (hregs : p ≠ .regs) (hcut : p ≠ .cut) {s} (k : Kept p b s) :
    Kept p b (cancelSwap s) := by
  unfold cancelSwap
  try dsimp only
  repeat' first | with_reducible assumption | (intro _; try dsimp only) | with_reducible apply setShadow_kept hregs | with_reducible apply foldl_kept | with_reducible apply ite_kept | (fail_if_no_progress (with_reducible refine mk_kept ?_)) | split

theorem cancel_kept (hregs : p ≠ .regs) (hcut : p ≠ .cut) (hmgmt : p ≠ .mgmt) {s} (k : Kept p b s) :
    Kept p b (cancel s) := by
  unfold cancel
  try dsimp only
  repeat' first | with_reducible assumption | (intro _; try dsimp only) | with_reducible apply cancelSwap_kept hregs hcut | with_reducible apply cutRefuse_kept hregs hmgmt | with_reducible apply foldl_kept | with_reducible apply ite_kept | (fail_if_no_progress (with_reducible refine mk_kept ?_)) | split

theorem discardShadow_kept (hregs : p ≠ .regs) (hcut : p ≠ .cut) (hmgmt : p ≠ .mgmt) (hstartup : p ≠ .startup) (hcal : p ≠ .cal) (hrx : p ≠ .rx) (htx : p ≠ .tx) (hlk : p ≠ .lk) (haq : p ≠ .aq) (hadcs : p ≠ .adcs) (hsc : p ≠ .sc) (hsf : p ≠ .sf) (hhk : p ≠ .hk) (hshadow : p ≠ .shadow) (haqMem : p ≠ .aqMem) {s} (k : Kept p b s) :
    Kept p b (discardShadow s) := by
  unfold discardShadow
  try dsimp only
  repeat' first | with_reducible assumption | (intro _; try dsimp only) | with_reducible apply emptyShadow_kept hregs hcut hshadow | with_reducible apply switchOffShadow_kept hregs hmgmt hstartup hcal hrx htx hlk haq hadcs hsc hsf hhk haqMem | with_reducible apply foldl_kept | with_reducible apply ite_kept | (fail_if_no_progress (with_reducible refine mk_kept ?_)) | split

theorem discard_kept (hregs : p ≠ .regs) (hcut : p ≠ .cut) (hmgmt : p ≠ .mgmt) (hstartup : p ≠ .startup) (hcal : p ≠ .cal) (hrx : p ≠ .rx) (htx : p ≠ .tx) (hlk : p ≠ .lk) (haq : p ≠ .aq) (hadcs : p ≠ .adcs) (hsc : p ≠ .sc) (hsf : p ≠ .sf) (hhk : p ≠ .hk) (hshadow : p ≠ .shadow) (haqMem : p ≠ .aqMem) {s} (k : Kept p b s) :
    Kept p b (discard s) := by
  unfold discard
  try dsimp only
  repeat' first | with_reducible assumption | (intro _; try dsimp only) | with_reducible apply discardShadow_kept hregs hcut hmgmt hstartup hcal hrx htx hlk haq hadcs hsc hsf hhk hshadow haqMem | with_reducible apply cancelSwap_kept hregs hcut | with_reducible apply cutRefuse_kept hregs hmgmt | with_reducible apply foldl_kept | with_reducible apply ite_kept | (fail_if_no_progress (with_reducible refine mk_kept ?_)) | split

theorem cutCommand_kept (hregs : p ≠ .regs) (htime : p ≠ .time) (hcut : p ≠ .cut) (hmgmt : p ≠ .mgmt) (hstartup : p ≠ .startup) (hcal : p ≠ .cal) (hrx : p ≠ .rx) (htx : p ≠ .tx) (hlk : p ≠ .lk) (haq : p ≠ .aq) (hadcs : p ≠ .adcs) (hsc : p ≠ .sc) (hsf : p ≠ .sf) (hhk : p ≠ .hk) (hshadow : p ≠ .shadow) (haqMem : p ≠ .aqMem) {x1 x2 s} (k : Kept p b s) :
    Kept p b (cutCommand x1 x2 s) := by
  unfold cutCommand
  try dsimp only
  repeat' first | with_reducible assumption | (intro _; try dsimp only) | with_reducible apply byOwner_kept hregs hmgmt | with_reducible apply loadSlot_kept hregs hcut hmgmt hstartup hcal hrx htx hlk haq hadcs hsc hsf hhk haqMem | with_reducible apply validate_kept hregs hcut hmgmt | with_reducible apply schedule_kept hregs htime hcut hmgmt | with_reducible apply cancel_kept hregs hcut hmgmt | with_reducible apply discard_kept hregs hcut hmgmt hstartup hcal hrx htx hlk haq hadcs hsc hsf hhk hshadow haqMem | with_reducible apply cutRefuse_kept hregs hmgmt | with_reducible apply foldl_kept | with_reducible apply ite_kept | (fail_if_no_progress (with_reducible refine mk_kept ?_)) | split

theorem execCancel_kept (hregs : p ≠ .regs) (hcut : p ≠ .cut) (hmgmt : p ≠ .mgmt) {x1 s t} (k : Kept p b s) (e : execCancel x1 s = .next t) :
    Kept p b t := by
  unfold execCancel at e
  injection e with e
  subst e
  try dsimp only
  repeat' first | with_reducible assumption | (intro _; try dsimp only) | with_reducible apply hostWrite_kept hregs hmgmt | with_reducible apply byOwner_kept hregs hmgmt | with_reducible apply cancel_kept hregs hcut hmgmt | with_reducible apply foldl_kept | with_reducible apply ite_kept | (fail_if_no_progress (with_reducible refine mk_kept ?_)) | split

theorem execLoadSlotCopyDone_kept (hregs : p ≠ .regs) (hcut : p ≠ .cut) (hmgmt : p ≠ .mgmt) (hfresh : p ≠ .fresh) (hshadow : p ≠ .shadow) {s t} (k : Kept p b s) (e : execLoadSlotCopyDone s = .next t) :
    Kept p b t := by
  unfold execLoadSlotCopyDone at e
  injection e with e
  subst e
  dsimp only
  split
  · split
    · refine beginValidate_kept hregs hcut (drawFree_kept hfresh (flagIf_kept hregs hmgmt (setReg_kept hregs (cut_kept hcut hshadow (fun _ => ?_) k))))
      rename_i i _ _ _
      have h := canon_words (s.slotLen i) 0 0 (s.slotWord i)
      simp only [Nat.zero_add] at h
      exact h
    · exact k
  · exact k

theorem passed_kept (hregs : p ≠ .regs) (hcut : p ≠ .cut) (hmgmt : p ≠ .mgmt) (hhk : p ≠ .hk) (hfw : p ≠ .fw) {s} (k : Kept p b s) :
    Kept p b (passed s) := by
  unfold passed
  try dsimp only
  repeat' first | with_reducible assumption | (intro _; try dsimp only) | with_reducible apply setShadow_kept hregs | with_reducible apply setRegs_kept hregs | with_reducible apply switchOnFor_kept hregs hhk | with_reducible apply flag_kept hregs hmgmt | with_reducible apply foldl_kept | with_reducible apply ite_kept | (fail_if_no_progress (with_reducible refine mk_kept ?_)) | split

theorem execDiscard_kept (hregs : p ≠ .regs) (hcut : p ≠ .cut) (hmgmt : p ≠ .mgmt) (hstartup : p ≠ .startup) (hcal : p ≠ .cal) (hrx : p ≠ .rx) (htx : p ≠ .tx) (hlk : p ≠ .lk) (haq : p ≠ .aq) (hadcs : p ≠ .adcs) (hsc : p ≠ .sc) (hsf : p ≠ .sf) (hhk : p ≠ .hk) (hshadow : p ≠ .shadow) (haqMem : p ≠ .aqMem) {x1 s t} (k : Kept p b s) (e : execDiscard x1 s = .next t) :
    Kept p b t := by
  unfold execDiscard at e
  injection e with e
  subst e
  try dsimp only
  repeat' first | with_reducible assumption | (intro _; try dsimp only) | with_reducible apply hostWrite_kept hregs hmgmt | with_reducible apply byOwner_kept hregs hmgmt | with_reducible apply discard_kept hregs hcut hmgmt hstartup hcal hrx htx hlk haq hadcs hsc hsf hhk hshadow haqMem | with_reducible apply foldl_kept | with_reducible apply ite_kept | (fail_if_no_progress (with_reducible refine mk_kept ?_)) | split

theorem bootFailed_kept (hregs : p ≠ .regs) (hcut : p ≠ .cut) (hmgmt : p ≠ .mgmt) (hstartup : p ≠ .startup) (hcal : p ≠ .cal) (hrx : p ≠ .rx) (htx : p ≠ .tx) (hlk : p ≠ .lk) (haq : p ≠ .aq) (hadcs : p ≠ .adcs) (hsc : p ≠ .sc) (hsf : p ≠ .sf) (hhk : p ≠ .hk) (hshadow : p ≠ .shadow) (haqMem : p ≠ .aqMem) {x1 s} (k : Kept p b s) :
    Kept p b (bootFailed x1 s) := by
  unfold bootFailed
  try dsimp only
  repeat' first | with_reducible assumption | (intro _; try dsimp only) | with_reducible apply discardShadow_kept hregs hcut hmgmt hstartup hcal hrx htx hlk haq hadcs hsc hsf hhk hshadow haqMem | with_reducible apply fsets_kept hregs | with_reducible apply foldl_kept | with_reducible apply ite_kept | (fail_if_no_progress (with_reducible refine mk_kept ?_)) | split

theorem execValidationComplete_kept (hregs : p ≠ .regs) (htime : p ≠ .time) (hcut : p ≠ .cut) (hmgmt : p ≠ .mgmt) (hstartup : p ≠ .startup) (hcal : p ≠ .cal) (hrx : p ≠ .rx) (htx : p ≠ .tx) (hlk : p ≠ .lk) (haq : p ≠ .aq) (hadcs : p ≠ .adcs) (hsc : p ≠ .sc) (hsf : p ≠ .sf) (hhk : p ≠ .hk) (hfw : p ≠ .fw) (hshadow : p ≠ .shadow) (haqMem : p ≠ .aqMem) {s t} (k : Kept p b s) (e : execValidationComplete s = .next t) :
    Kept p b t := by
  unfold execValidationComplete at e
  injection e with e
  subst e
  try dsimp only
  repeat' first | with_reducible assumption | (intro _; try dsimp only) | with_reducible apply passed_kept hregs hcut hmgmt hhk hfw | with_reducible apply scheduleAt_kept hregs htime hcut | with_reducible apply setReg_kept hregs | with_reducible apply failed_kept hregs hcut hmgmt hstartup hcal hrx htx hlk haq hadcs hsc hsf hhk haqMem | with_reducible apply bootFailed_kept hregs hcut hmgmt hstartup hcal hrx htx hlk haq hadcs hsc hsf hhk hshadow haqMem | with_reducible apply foldl_kept | with_reducible apply ite_kept | (fail_if_no_progress (with_reducible refine mk_kept ?_)) | split

theorem execLiveRedigest_kept (hmode : p ≠ .mode) (hregs : p ≠ .regs) (htime : p ≠ .time) (hcut : p ≠ .cut) (hmgmt : p ≠ .mgmt) (hstartup : p ≠ .startup) (hcal : p ≠ .cal) (hrx : p ≠ .rx) (htx : p ≠ .tx) (hpairSt : p ≠ .pairSt) (hfw : p ≠ .fw) {x1 s t} (k : Kept p b s) (e : execLiveRedigest x1 s = .next t) :
    Kept p b t := by
  unfold execLiveRedigest at e
  injection e with e
  subst e
  try dsimp only
  repeat' first | with_reducible assumption | (intro _; try dsimp only) | with_reducible apply flag_kept hregs hmgmt | with_reducible apply chipReaction_kept hmode hregs htime hmgmt hstartup hcal hrx htx hpairSt hfw | with_reducible apply foldl_kept | with_reducible apply ite_kept | (fail_if_no_progress (with_reducible refine mk_kept ?_)) | split

theorem execValidate_kept (hregs : p ≠ .regs) (hcut : p ≠ .cut) (hmgmt : p ≠ .mgmt) {x1 s t} (k : Kept p b s) (e : execValidate x1 s = .next t) :
    Kept p b t := by
  unfold execValidate at e
  injection e with e
  subst e
  try dsimp only
  repeat' first | with_reducible assumption | (intro _; try dsimp only) | with_reducible apply hostWrite_kept hregs hmgmt | with_reducible apply byOwner_kept hregs hmgmt | with_reducible apply validate_kept hregs hcut hmgmt | with_reducible apply foldl_kept | with_reducible apply ite_kept | (fail_if_no_progress (with_reducible refine mk_kept ?_)) | split

theorem execCutBadCommand_kept (hregs : p ≠ .regs) (hmgmt : p ≠ .mgmt) {x1 x2 s t} (k : Kept p b s) (e : execCutBadCommand x1 x2 s = .next t) :
    Kept p b t := by
  unfold execCutBadCommand at e
  injection e with e
  subst e
  try dsimp only
  repeat' first | with_reducible assumption | (intro _; try dsimp only) | with_reducible apply hostWrite_kept hregs hmgmt | with_reducible apply cutRefuse_kept hregs hmgmt | with_reducible apply foldl_kept | with_reducible apply ite_kept | (fail_if_no_progress (with_reducible refine mk_kept ?_)) | split

end Sys2Proof.Machine
end

