-- ==== Sys2Proof/Laws/KeptFirmware.lean ====
section
/-! SUPPORT. What each operation and command of firmware, start-up and readings leaves alone (see Sys2Proof/Laws/Kept.lean). -/
namespace Sys2Proof.Machine

set_option Elab.async false
set_option linter.unusedTactic false
set_option linter.unreachableTactic false

variable {p : Part} {b : State}

theorem storeWords_kept (hfw : p ≠ .fw) (himage : p ≠ .image) {x1 s} (k : Kept p b s) :
    Kept p b (storeWords x1 s) := by
  unfold storeWords
  refine setFw_slots_kept hfw himage (fun h => ⟨?_, h.2.2.2.2⟩) k
  generalize hm : s.fw.image = m
  have hc : Canon (fun _ => (0xFFFFFFFF : Word)) m := hm ▸ h.2.2.2.1
  clear hm
  induction x1 generalizing m with
  | nil => exact hc
  | cons e l ih => exact ih _ (canon_put hc _ _)

theorem flushPage_kept (hfw : p ≠ .fw) (himage : p ≠ .image) {s} (k : Kept p b s) :
    Kept p b (flushPage s) := by
  unfold flushPage
  try dsimp only
  repeat' first | with_reducible assumption | (intro _; try dsimp only) | with_reducible apply storeWords_kept hfw himage | with_reducible refine setFw_kept hfw ?_ | with_reducible apply foldl_kept | with_reducible apply ite_kept | (fail_if_no_progress (with_reducible refine mk_kept ?_)) | split

theorem bootCut_kept (hregs : p ≠ .regs) (hcut : p ≠ .cut) (hmgmt : p ≠ .mgmt) (hstartup : p ≠ .startup) (hcal : p ≠ .cal) (hrx : p ≠ .rx) (htx : p ≠ .tx) (hlk : p ≠ .lk) (haq : p ≠ .aq) (hadcs : p ≠ .adcs) (hsc : p ≠ .sc) (hsf : p ≠ .sf) (hhk : p ≠ .hk) (hfw : p ≠ .fw) (hshadow : p ≠ .shadow) (haqMem : p ≠ .aqMem) {s} (k : Kept p b s) :
    Kept p b (bootCut s) := by
  unfold bootCut
  try dsimp only
  repeat' first | with_reducible assumption | (intro _; try dsimp only) | with_reducible apply discardShadow_kept hregs hcut hmgmt hstartup hcal hrx htx hlk haq hadcs hsc hsf hhk hshadow haqMem | with_reducible apply loadSlot_kept hregs hcut hmgmt hstartup hcal hrx htx hlk haq hadcs hsc hsf hhk haqMem | with_reducible apply fset_kept hregs | with_reducible refine setFw_kept hfw ?_ | with_reducible apply foldl_kept | with_reducible apply ite_kept | (fail_if_no_progress (with_reducible refine mk_kept ?_)) | split

theorem touchSession_kept (hfw : p ≠ .fw) {x1 s} (k : Kept p b s) :
    Kept p b (touchSession x1 s) := by
  unfold touchSession
  try dsimp only
  repeat' first | with_reducible assumption | (intro _; try dsimp only) | with_reducible refine setFw_kept hfw ?_ | with_reducible apply foldl_kept | with_reducible apply ite_kept | (fail_if_no_progress (with_reducible refine mk_kept ?_)) | split

theorem fwWrite_kept (hregs : p ≠ .regs) (hmgmt : p ≠ .mgmt) (hfw : p ≠ .fw) {x1 f s t} (hf : ∀ t, Kept p b t → Kept p b (f t)) (k : Kept p b s) (e : fwWrite x1 f s = .next t) :
    Kept p b t := by
  unfold fwWrite at e
  injection e with e
  subst e
  try dsimp only
  repeat' first | with_reducible assumption | (intro _; try dsimp only) | with_reducible apply hostWrite_kept hregs hmgmt | with_reducible apply touchSession_kept hfw | with_reducible apply foldl_kept | with_reducible apply hf | with_reducible apply ite_kept | (fail_if_no_progress (with_reducible refine mk_kept ?_)) | split

theorem flashStep_kept (hregs : p ≠ .regs) (hfw : p ≠ .fw) {s} (k : Kept p b s) :
    Kept p b (flashStep s) := by
  unfold flashStep
  try dsimp only
  repeat' first | with_reducible assumption | (intro _; try dsimp only) | with_reducible refine setFw_kept hfw ?_ | with_reducible apply fset_kept hregs | with_reducible apply foldl_kept | with_reducible apply ite_kept | (fail_if_no_progress (with_reducible refine mk_kept ?_)) | split

theorem fwData_kept (hregs : p ≠ .regs) (hfw : p ≠ .fw) {x1 s} (k : Kept p b s) :
    Kept p b (fwData x1 s) := by
  unfold fwData
  try dsimp only
  repeat' first | with_reducible assumption | (intro _; try dsimp only) | with_reducible apply writeCtl_kept hregs hfw | with_reducible refine setFw_kept hfw ?_ | with_reducible apply flashStep_kept hregs hfw | with_reducible apply setReg_kept hregs | with_reducible apply foldl_kept | with_reducible apply ite_kept | (fail_if_no_progress (with_reducible refine mk_kept ?_)) | split

theorem fwRefuse_kept (hregs : p ≠ .regs) (hmgmt : p ≠ .mgmt) {x1 x2 s} (k : Kept p b s) :
    Kept p b (fwRefuse x1 x2 s) := by
  unfold fwRefuse
  try dsimp only
  repeat' first | with_reducible assumption | (intro _; try dsimp only) | with_reducible apply flag_kept hregs hmgmt | with_reducible apply fsets_kept hregs | with_reducible apply foldl_kept | with_reducible apply ite_kept | (fail_if_no_progress (with_reducible refine mk_kept ?_)) | split

theorem fwAccept_kept (hregs : p ≠ .regs) {x1 s} (k : Kept p b s) :
    Kept p b (fwAccept x1 s) := by
  unfold fwAccept
  try dsimp only
  repeat' first | with_reducible assumption | (intro _; try dsimp only) | with_reducible apply fsets_kept hregs | with_reducible apply foldl_kept | with_reducible apply ite_kept | (fail_if_no_progress (with_reducible refine mk_kept ?_)) | split

theorem verify_kept (hregs : p ≠ .regs) (hmgmt : p ≠ .mgmt) (hfw : p ≠ .fw) (himage : p ≠ .image) {x1 s} (k : Kept p b s) :
    Kept p b (verify x1 s) := by
  unfold verify
  try dsimp only
  repeat' first | with_reducible assumption | (intro _; try dsimp only) | with_reducible apply fwRefuse_kept hregs hmgmt | with_reducible apply flushPage_kept hfw himage | with_reducible apply fwAccept_kept hregs | with_reducible refine setFw_kept hfw ?_ | with_reducible apply foldl_kept | with_reducible apply ite_kept | (fail_if_no_progress (with_reducible refine mk_kept ?_)) | split

theorem keyRefuse_kept (hregs : p ≠ .regs) (hmgmt : p ≠ .mgmt) {x1 x2 s} (k : Kept p b s) :
    Kept p b (keyRefuse x1 x2 s) := by
  unfold keyRefuse
  try dsimp only
  repeat' first | with_reducible assumption | (intro _; try dsimp only) | with_reducible apply flag_kept hregs hmgmt | with_reducible apply fwRefuse_kept hregs hmgmt | with_reducible apply foldl_kept | with_reducible apply ite_kept | (fail_if_no_progress (with_reducible refine mk_kept ?_)) | split

theorem setKey_kept (hregs : p ≠ .regs) (hmgmt : p ≠ .mgmt) (hfw : p ≠ .fw) (hkeys : p ≠ .keys) {x1 x2 x3 s} (k : Kept p b s) :
    Kept p b (setKey x1 x2 x3 s) := by
  unfold setKey
  try dsimp only
  repeat' first | with_reducible assumption | (intro _; try dsimp only) | with_reducible apply flag_kept hregs hmgmt | with_reducible refine setFw_kept hfw ?_ | with_reducible apply foldl_kept | with_reducible apply ite_kept | (fail_if_no_progress (with_reducible refine mk_kept ?_)) | split

theorem enrol_kept (hregs : p ≠ .regs) (hmgmt : p ≠ .mgmt) (hfw : p ≠ .fw) (hkeys : p ≠ .keys) {x1 s} (k : Kept p b s) :
    Kept p b (enrol x1 s) := by
  unfold enrol
  try dsimp only
  repeat' first | with_reducible assumption | (intro _; try dsimp only) | with_reducible apply keyRefuse_kept hregs hmgmt | with_reducible apply setKey_kept hregs hmgmt hfw hkeys | with_reducible apply fwAccept_kept hregs | with_reducible apply foldl_kept | with_reducible apply ite_kept | (fail_if_no_progress (with_reducible refine mk_kept ?_)) | split

theorem setBootCut_kept (hregs : p ≠ .regs) (hfw : p ≠ .fw) {x1 s} (k : Kept p b s) :
    Kept p b (setBootCut x1 s) := by
  unfold setBootCut
  try dsimp only
  repeat' first | with_reducible assumption | (intro _; try dsimp only) | with_reducible apply writeCtl_kept hregs hfw | with_reducible apply fwAccept_kept hregs | with_reducible apply foldl_kept | with_reducible apply ite_kept | (fail_if_no_progress (with_reducible refine mk_kept ?_)) | split

theorem execSetBootCut_kept (hregs : p ≠ .regs) (hmgmt : p ≠ .mgmt) (hfw : p ≠ .fw) {x1 x2 s t} (k : Kept p b s) (e : execSetBootCut x1 x2 s = .next t) :
    Kept p b t := by
  unfold execSetBootCut at e
  apply fwWrite_kept hregs hmgmt hfw _ k e
  repeat' first | with_reducible assumption | (intro _; try dsimp only) | with_reducible apply setBootCut_kept hregs hfw | with_reducible apply foldl_kept | with_reducible apply ite_kept | (fail_if_no_progress (with_reducible refine mk_kept ?_)) | split

theorem attest_kept (hregs : p ≠ .regs) (hmgmt : p ≠ .mgmt) (hfw : p ≠ .fw) {s} (k : Kept p b s) :
    Kept p b (attest s) := by
  unfold attest
  try dsimp only
  repeat' first | with_reducible assumption | (intro _; try dsimp only) | with_reducible apply fwRefuse_kept hregs hmgmt | with_reducible apply fwAccept_kept hregs | with_reducible refine setFw_kept hfw ?_ | with_reducible apply foldl_kept | with_reducible apply ite_kept | (fail_if_no_progress (with_reducible refine mk_kept ?_)) | split

theorem imageStep_kept (hregs : p ≠ .regs) (hcut : p ≠ .cut) (hmgmt : p ≠ .mgmt) (hstartup : p ≠ .startup) (hfw : p ≠ .fw) {s} (k : Kept p b s) :
    Kept p b (imageStep s) := by
  unfold imageStep
  try dsimp only
  repeat' first | with_reducible assumption | (intro _; try dsimp only) | with_reducible apply chooseProgram_kept hregs hmgmt hfw | with_reducible apply fset_kept hregs | with_reducible refine setFw_kept hfw ?_ | with_reducible apply orderRom_kept hregs hcut hfw | with_reducible apply foldl_kept | with_reducible apply ite_kept | (fail_if_no_progress (with_reducible refine mk_kept ?_)) | split

theorem loaderRuns_kept (hregs : p ≠ .regs) {x1 s} (k : Kept p b s) :
    Kept p b (loaderRuns x1 s) := by
  unfold loaderRuns
  try dsimp only
  repeat' first | with_reducible assumption | (intro _; try dsimp only) | with_reducible apply fset_kept hregs | with_reducible apply foldl_kept | with_reducible apply ite_kept | (fail_if_no_progress (with_reducible refine mk_kept ?_)) | split

theorem activate_kept (hmode : p ≠ .mode) (hregs : p ≠ .regs) (htime : p ≠ .time) (hcut : p ≠ .cut) (hmgmt : p ≠ .mgmt) (hstartup : p ≠ .startup) (hcal : p ≠ .cal) (hrx : p ≠ .rx) (htx : p ≠ .tx) (hfw : p ≠ .fw) (himage : p ≠ .image) {x1 s} (k : Kept p b s) :
    Kept p b (activate x1 s) := by
  unfold activate
  try dsimp only
  repeat' first | with_reducible assumption | (intro _; try dsimp only) | with_reducible apply fwRefuse_kept hregs hmgmt | with_reducible apply endSession_kept hregs hfw | with_reducible apply flushPage_kept hfw himage | with_reducible apply fwAccept_kept hregs | with_reducible apply fset_kept hregs | with_reducible apply stopShooting_kept hregs htime hmgmt hcal hrx htx | with_reducible apply imageStep_kept hregs hcut hmgmt hstartup hfw | with_reducible apply loaderRuns_kept hregs | with_reducible apply writeCtl_kept hregs hfw | with_reducible refine setFw_kept hfw ?_ | with_reducible apply foldl_kept | with_reducible apply ite_kept | (fail_if_no_progress (with_reducible refine mk_kept ?_)) | split

theorem openSession_kept (hregs : p ≠ .regs) (hmgmt : p ≠ .mgmt) (hfw : p ≠ .fw) {x1 x2 s} (k : Kept p b s) :
    Kept p b (openSession x1 x2 s) := by
  unfold openSession
  repeat' first | with_reducible assumption | with_reducible apply flag_kept hregs hmgmt | with_reducible apply fwRefuse_kept hregs hmgmt | split
  have kf : ∀ {q : Part} {b s : State}, q ≠ .regs → Kept q b s → Kept q b (fsets FW_STATUS [(FW_STATUS.session, x2), (FW_STATUS.owner, ownerCode x1), (FW_STATUS.owner_lane, ownerLane x1)] (fwAccept x2 s)) :=
    fun h kt => fsets_kept h (fwAccept_kept h kt)
  have e : (fsets FW_STATUS [(FW_STATUS.session, x2), (FW_STATUS.owner, ownerCode x1), (FW_STATUS.owner_lane, ownerLane x1)] (fwAccept x2 s)).fw = s.fw :=
    kf (q := .fw) (by decide) (Kept.refl _ _)
  rw [← e]
  exact setFw_kept hfw (kf hregs k)

theorem execOpenKeys_kept (hregs : p ≠ .regs) (hmgmt : p ≠ .mgmt) (hfw : p ≠ .fw) {x1 s t} (k : Kept p b s) (e : execOpenKeys x1 s = .next t) :
    Kept p b t := by
  unfold execOpenKeys at e
  apply fwWrite_kept hregs hmgmt hfw _ k e
  repeat' first | with_reducible assumption | (intro _; try dsimp only) | with_reducible apply openSession_kept hregs hmgmt hfw | with_reducible apply foldl_kept | with_reducible apply ite_kept | (fail_if_no_progress (with_reducible refine mk_kept ?_)) | split

theorem storeCut_kept (hregs : p ≠ .regs) (hmgmt : p ≠ .mgmt) (hfw : p ≠ .fw) (himage : p ≠ .image) {x1 x2 s} (k : Kept p b s) :
    Kept p b (storeCut x1 x2 s) := by
  unfold storeCut
  dsimp only
  repeat' first | with_reducible assumption | with_reducible apply fwRefuse_kept hregs hmgmt | split
  have h1 : (fwAccept 10 s).fw = s.fw := fwAccept_kept (p := .fw) (by decide) (Kept.refl _ _)
  have h2 : (fwAccept 10 s).fw.image = s.fw.image := congrArg Fw.image h1
  refine setFw_slots_kept hfw himage (fun h => ⟨h.2.2.2.1, ?_⟩) (fwAccept_kept hregs k)
  have hc : Canon (fun _ => (0xFFFFFFFF : Word)) s.fw.cuts := h1 ▸ h.2.2.2.2
  refine canon_slot _ _ hc (canon_words _ _ 0xFFFFFFFF s.shadowWord) (fun e he => ?_) (Nat.le_add_right _ _)
  have h3 := words_range _ _ 0xFFFFFFFF s.shadowWord e he
  exact ⟨h3.1, Nat.lt_of_lt_of_le h3.2 (Nat.add_le_add_left (Nat.min_le_right _ _) _)⟩

theorem execOpenUpdate_kept (hregs : p ≠ .regs) (hmgmt : p ≠ .mgmt) (hfw : p ≠ .fw) {x1 s t} (k : Kept p b s) (e : execOpenUpdate x1 s = .next t) :
    Kept p b t := by
  unfold execOpenUpdate at e
  apply fwWrite_kept hregs hmgmt hfw _ k e
  repeat' first | with_reducible assumption | (intro _; try dsimp only) | with_reducible apply openSession_kept hregs hmgmt hfw | with_reducible apply foldl_kept | with_reducible apply ite_kept | (fail_if_no_progress (with_reducible refine mk_kept ?_)) | split

theorem execAttest_kept (hregs : p ≠ .regs) (hmgmt : p ≠ .mgmt) (hfw : p ≠ .fw) {x1 s t} (k : Kept p b s) (e : execAttest x1 s = .next t) :
    Kept p b t := by
  unfold execAttest at e
  apply fwWrite_kept hregs hmgmt hfw _ k e
  repeat' first | with_reducible assumption | (intro _; try dsimp only) | with_reducible apply attest_kept hregs hmgmt hfw | with_reducible apply foldl_kept | with_reducible apply ite_kept | (fail_if_no_progress (with_reducible refine mk_kept ?_)) | split

theorem execAttestDone_kept (hregs : p ≠ .regs) (hmgmt : p ≠ .mgmt) (hfw : p ≠ .fw) {s t} (k : Kept p b s) (e : execAttestDone s = .next t) :
    Kept p b t := by
  unfold execAttestDone at e
  injection e with e
  subst e
  try dsimp only
  repeat' first | with_reducible assumption | (intro _; try dsimp only) | with_reducible apply flag_kept hregs hmgmt | with_reducible refine setFw_kept hfw ?_ | with_reducible apply foldl_kept | with_reducible apply ite_kept | (fail_if_no_progress (with_reducible refine mk_kept ?_)) | split

theorem execVerifyDone_kept (hregs : p ≠ .regs) (hmgmt : p ≠ .mgmt) (hfw : p ≠ .fw) {s t} (k : Kept p b s) (e : execVerifyDone s = .next t) :
    Kept p b t := by
  unfold execVerifyDone at e
  injection e with e
  subst e
  try dsimp only
  repeat' first | with_reducible assumption | (intro _; try dsimp only) | with_reducible apply fset_kept hregs | with_reducible refine setFw_kept hfw ?_ | with_reducible apply flag_kept hregs hmgmt | with_reducible apply writeCtl_kept hregs hfw | with_reducible apply foldl_kept | with_reducible apply ite_kept | (fail_if_no_progress (with_reducible refine mk_kept ?_)) | split

theorem spoilWords_kept (hfw : p ≠ .fw) (hfresh : p ≠ .fresh) (himage : p ≠ .image) {x1 s} (k : Kept p b s) :
    Kept p b (spoilWords x1 s) := by
  unfold spoilWords
  try dsimp only
  repeat' first | with_reducible assumption | (intro _; try dsimp only) | with_reducible apply drawFree_kept hfresh | with_reducible apply storeWords_kept hfw himage | with_reducible apply foldl_kept | with_reducible apply ite_kept | (fail_if_no_progress (with_reducible refine mk_kept ?_)) | split

theorem execFwBadCommand_kept (hregs : p ≠ .regs) (hmgmt : p ≠ .mgmt) (hfw : p ≠ .fw) {x1 x2 s t} (k : Kept p b s) (e : execFwBadCommand x1 x2 s = .next t) :
    Kept p b t := by
  unfold execFwBadCommand at e
  split at e
  · injection e with e
    subst e
    exact k
  · exact fwWrite_kept hregs hmgmt hfw (fun t kt => fwRefuse_kept hregs hmgmt kt) k e

theorem ready_kept (hregs : p ≠ .regs) (hmgmt : p ≠ .mgmt) (hfw : p ≠ .fw) {x1 x2 s} (k : Kept p b s) :
    Kept p b (ready x1 x2 s) := by
  unfold ready
  try dsimp only
  repeat' first | with_reducible assumption | (intro _; try dsimp only) | with_reducible apply fwRefuse_kept hregs hmgmt | with_reducible apply writeSettings_kept hfw | with_reducible apply fwAccept_kept hregs | with_reducible apply setReg_kept hregs | with_reducible apply fset_kept hregs | with_reducible apply flag_kept hregs hmgmt | with_reducible refine setFw_kept hfw ?_ | with_reducible apply foldl_kept | with_reducible apply ite_kept | (fail_if_no_progress (with_reducible refine mk_kept ?_)) | split

theorem execEnrol_kept (hregs : p ≠ .regs) (hmgmt : p ≠ .mgmt) (hfw : p ≠ .fw) (hkeys : p ≠ .keys) {x1 s t} (k : Kept p b s) (e : execEnrol x1 s = .next t) :
    Kept p b t := by
  unfold execEnrol at e
  apply fwWrite_kept hregs hmgmt hfw _ k e
  repeat' first | with_reducible assumption | (intro _; try dsimp only) | with_reducible apply enrol_kept hregs hmgmt hfw hkeys | with_reducible apply foldl_kept | with_reducible apply ite_kept | (fail_if_no_progress (with_reducible refine mk_kept ?_)) | split

theorem execPresenceOpen_kept (hregs : p ≠ .regs) (hmgmt : p ≠ .mgmt) (hfw : p ≠ .fw) {s t} (k : Kept p b s) (e : execPresenceOpen s = .next t) :
    Kept p b t := by
  unfold execPresenceOpen at e
  injection e with e
  subst e
  try dsimp only
  repeat' first | with_reducible assumption | (intro _; try dsimp only) | with_reducible refine setFw_kept hfw ?_ | with_reducible apply flag_kept hregs hmgmt | with_reducible apply fset_kept hregs | with_reducible apply foldl_kept | with_reducible apply ite_kept | (fail_if_no_progress (with_reducible refine mk_kept ?_)) | split

theorem execReady_kept (hregs : p ≠ .regs) (hmgmt : p ≠ .mgmt) (hfw : p ≠ .fw) {x1 x2 s t} (k : Kept p b s) (e : execReady x1 x2 s = .next t) :
    Kept p b t := by
  unfold execReady at e
  apply fwWrite_kept hregs hmgmt hfw _ k e
  repeat' first | with_reducible assumption | (intro _; try dsimp only) | with_reducible apply ready_kept hregs hmgmt hfw | with_reducible apply foldl_kept | with_reducible apply ite_kept | (fail_if_no_progress (with_reducible refine mk_kept ?_)) | split

theorem confirm_kept (hregs : p ≠ .regs) (hmgmt : p ≠ .mgmt) (hfw : p ≠ .fw) (hkeys : p ≠ .keys) {x1 x2 x3 s} (k : Kept p b s) :
    Kept p b (confirm x1 x2 x3 s) := by
  unfold confirm
  split
  · exact fwRefuse_kept hregs hmgmt k
  extract_lets s1 c slot s2 s3
  have k1 : Kept p b s1 := writeSettings_kept hfw k
  split
  · exact fwRefuse_kept hregs hmgmt k1
  split
  · exact fwRefuse_kept hregs hmgmt k1
  have k2 : Kept p b s2 := writeCtl_kept hregs hfw (fwAccept_kept hregs k1)
  clear_value s2
  refine flagIf_kept hregs hmgmt ?_
  by_cases e : p = .minSec
  · subst e
    exact Nat.le_trans k2 (Nat.le_max_left _ _)
  · exact setFw_kept hfw k2

theorem execConfirm_kept (hregs : p ≠ .regs) (hmgmt : p ≠ .mgmt) (hfw : p ≠ .fw) (hkeys : p ≠ .keys) {x1 x2 x3 s t} (k : Kept p b s) (e : execConfirm x1 x2 x3 s = .next t) :
    Kept p b t := by
  unfold execConfirm at e
  apply fwWrite_kept hregs hmgmt hfw _ k e
  repeat' first | with_reducible assumption | (intro _; try dsimp only) | with_reducible apply confirm_kept hregs hmgmt hfw hkeys | with_reducible apply foldl_kept | with_reducible apply ite_kept | (fail_if_no_progress (with_reducible refine mk_kept ?_)) | split

theorem execUpdateSessionExpiry_kept (hregs : p ≠ .regs) (hmgmt : p ≠ .mgmt) (hfw : p ≠ .fw) (himage : p ≠ .image) {s t} (k : Kept p b s) (e : execUpdateSessionExpiry s = .next t) :
    Kept p b t := by
  unfold execUpdateSessionExpiry at e
  injection e with e
  subst e
  try dsimp only
  repeat' first | with_reducible assumption | (intro _; try dsimp only) | with_reducible apply flag_kept hregs hmgmt | with_reducible apply endSession_kept hregs hfw | with_reducible apply flushPage_kept hfw himage | with_reducible apply foldl_kept | with_reducible apply ite_kept | (fail_if_no_progress (with_reducible refine mk_kept ?_)) | split

theorem fallback_kept (hmode : p ≠ .mode) (hregs : p ≠ .regs) (htime : p ≠ .time) (hcut : p ≠ .cut) (hmgmt : p ≠ .mgmt) (hstartup : p ≠ .startup) (hcal : p ≠ .cal) (hrx : p ≠ .rx) (htx : p ≠ .tx) (hpairSt : p ≠ .pairSt) (hfw : p ≠ .fw) {s} (k : Kept p b s) :
    Kept p b (fallback s) := by
  unfold fallback
  try dsimp only
  repeat' first | with_reducible assumption | (intro _; try dsimp only) | with_reducible apply chipReaction_kept hmode hregs htime hmgmt hstartup hcal hrx htx hpairSt hfw | with_reducible apply flag_kept hregs hmgmt | with_reducible apply writeCtl_kept hregs hfw | with_reducible refine setFw_kept hfw ?_ | with_reducible apply orderRom_kept hregs hcut hfw | with_reducible apply fset_kept hregs | with_reducible apply loaderRuns_kept hregs | with_reducible apply foldl_kept | with_reducible apply ite_kept | (fail_if_no_progress (with_reducible refine mk_kept ?_)) | split

theorem execImageLoaded_kept (hmode : p ≠ .mode) (hregs : p ≠ .regs) (htime : p ≠ .time) (hcut : p ≠ .cut) (hmgmt : p ≠ .mgmt) (hstartup : p ≠ .startup) (hcal : p ≠ .cal) (hrx : p ≠ .rx) (htx : p ≠ .tx) (hlk : p ≠ .lk) (haq : p ≠ .aq) (hadcs : p ≠ .adcs) (hsc : p ≠ .sc) (hpairSt : p ≠ .pairSt) (hsf : p ≠ .sf) (hhk : p ≠ .hk) (hfw : p ≠ .fw) (hshadow : p ≠ .shadow) (haqMem : p ≠ .aqMem) {s t} (k : Kept p b s) (e : execImageLoaded s = .next t) :
    Kept p b t := by
  unfold execImageLoaded at e
  injection e with e
  subst e
  try dsimp only
  repeat' first | with_reducible assumption | (intro _; try dsimp only) | with_reducible apply startProgram_kept hregs hmgmt hcal hfw | with_reducible apply loadImage_kept hfw | with_reducible refine setFw_kept hfw ?_ | with_reducible apply fallback_kept hmode hregs htime hcut hmgmt hstartup hcal hrx htx hpairSt hfw | with_reducible apply fset_kept hregs | with_reducible apply bootCut_kept hregs hcut hmgmt hstartup hcal hrx htx hlk haq hadcs hsc hsf hhk hfw hshadow haqMem | with_reducible apply chooseProgram_kept hregs hmgmt hfw | with_reducible apply endCause_kept hstartup | with_reducible apply orderRom_kept hregs hcut hfw | with_reducible apply foldl_kept | with_reducible apply ite_kept | (fail_if_no_progress (with_reducible refine mk_kept ?_)) | split

theorem execFlashProgramDone_kept (hregs : p ≠ .regs) (hmgmt : p ≠ .mgmt) (hfw : p ≠ .fw) (hfresh : p ≠ .fresh) (himage : p ≠ .image) {x1 s t} (k : Kept p b s) (e : execFlashProgramDone x1 s = .next t) :
    Kept p b t := by
  unfold execFlashProgramDone at e
  injection e with e
  subst e
  dsimp only
  have ke : ∀ {t}, Kept p b t → Kept p b (flagIf x1 FW_FLAGS FW_FLAGS.flash_error t) := fun kt => flagIf_kept hregs hmgmt kt
  split
  · refine flashStep_kept hregs hfw (ke ?_)
    split
    · exact spoilWords_kept hfw hfresh himage (setFw_kept hfw k)
    · exact storeWords_kept hfw himage (setFw_kept hfw k)
  · split
    · refine flashStep_kept hregs hfw (ke ?_)
      split
      · refine spoilWords_kept hfw hfresh himage ?_
        refine setFw_slots_kept hfw himage (fun h => ⟨by dsimp only; exact canon_clearWhere h.2.2.2.1 _, h.2.2.2.2⟩) k
      · refine setFw_slots_kept hfw himage (fun h => ⟨by dsimp only; exact canon_clearWhere h.2.2.2.1 _, h.2.2.2.2⟩) k
    · exact k

theorem execReadyTimeout_kept (hmode : p ≠ .mode) (hregs : p ≠ .regs) (htime : p ≠ .time) (hcut : p ≠ .cut) (hmgmt : p ≠ .mgmt) (hstartup : p ≠ .startup) (hcal : p ≠ .cal) (hrx : p ≠ .rx) (htx : p ≠ .tx) (hpairSt : p ≠ .pairSt) (hfw : p ≠ .fw) {s t} (k : Kept p b s) (e : execReadyTimeout s = .next t) :
    Kept p b t := by
  unfold execReadyTimeout at e
  injection e with e
  subst e
  try dsimp only
  repeat' first | with_reducible assumption | (intro _; try dsimp only) | with_reducible apply fallback_kept hmode hregs htime hcut hmgmt hstartup hcal hrx htx hpairSt hfw | with_reducible apply foldl_kept | with_reducible apply ite_kept | (fail_if_no_progress (with_reducible refine mk_kept ?_)) | split

theorem closeSession_kept (hregs : p ≠ .regs) (hmgmt : p ≠ .mgmt) (hfw : p ≠ .fw) (himage : p ≠ .image) {x1 s} (k : Kept p b s) :
    Kept p b (closeSession x1 s) := by
  unfold closeSession
  try dsimp only
  repeat' first | with_reducible assumption | (intro _; try dsimp only) | with_reducible apply fwRefuse_kept hregs hmgmt | with_reducible apply endSession_kept hregs hfw | with_reducible apply flushPage_kept hfw himage | with_reducible apply fwAccept_kept hregs | with_reducible apply foldl_kept | with_reducible apply ite_kept | (fail_if_no_progress (with_reducible refine mk_kept ?_)) | split

theorem execClose_kept (hregs : p ≠ .regs) (hmgmt : p ≠ .mgmt) (hfw : p ≠ .fw) (himage : p ≠ .image) {x1 s t} (k : Kept p b s) (e : execClose x1 s = .next t) :
    Kept p b t := by
  unfold execClose at e
  apply fwWrite_kept hregs hmgmt hfw _ k e
  repeat' first | with_reducible assumption | (intro _; try dsimp only) | with_reducible apply closeSession_kept hregs hmgmt hfw himage | with_reducible apply foldl_kept | with_reducible apply ite_kept | (fail_if_no_progress (with_reducible refine mk_kept ?_)) | split

theorem revoke_kept (hregs : p ≠ .regs) (hmgmt : p ≠ .mgmt) (hfw : p ≠ .fw) (hkeys : p ≠ .keys) {x1 s} (k : Kept p b s) :
    Kept p b (revoke x1 s) := by
  unfold revoke
  dsimp only
  repeat' first | with_reducible assumption | with_reducible apply keyRefuse_kept hregs hmgmt | split
  · exact setKey_kept hregs hmgmt hfw hkeys (fwAccept_kept hregs k)
  · have k1 := setKey_kept hregs hmgmt hfw hkeys (fwAccept_kept hregs k (x1 := 8)) (x1 := (s.reg KEY_SEL).toNat % 8) (x2 := 2) (x3 := (s.keySlot ((s.reg KEY_SEL).toNat % 8)).2)
    by_cases e : p = .sound
    · subst e
      rename_i hn _ _
      intro h
      refine ⟨(k1 h).1, ?_⟩
      have h1 : (fwAccept 8 s).fw = s.fw := fwAccept_kept (p := .fw) (by decide) (Kept.refl _ _)
      have h2 : (setKey ((s.reg KEY_SEL).toNat % 8) 2 (s.keySlot ((s.reg KEY_SEL).toNat % 8)).2 (fwAccept 8 s)).fw.revoked = s.fw.revoked := by
        unfold setKey
        have h3 := fun t : State => flag_kept (p := .fw) (x1 := FW_FLAGS) (x2 := FW_FLAGS.key_changed) (by decide) (by decide) (Kept.refl _ t)
        exact (congrArg Fw.revoked (h3 _)).trans (show (fwAccept 8 s).fw.revoked = s.fw.revoked from congrArg Fw.revoked h1)
      show (_ ++ [_]).length ≤ 32
      rw [h2, List.length_append, List.length_singleton]
      omega
    · exact setFw_kept hfw k1

theorem fwCommand_kept (hmode : p ≠ .mode) (hregs : p ≠ .regs) (htime : p ≠ .time) (hcut : p ≠ .cut) (hmgmt : p ≠ .mgmt) (hstartup : p ≠ .startup) (hcal : p ≠ .cal) (hrx : p ≠ .rx) (htx : p ≠ .tx) (hfw : p ≠ .fw) (himage : p ≠ .image) (hkeys : p ≠ .keys) {x1 x2 s} (k : Kept p b s) :
    Kept p b (fwCommand x1 x2 s) := by
  unfold fwCommand
  try dsimp only
  repeat' first | with_reducible assumption | (intro _; try dsimp only) | with_reducible apply touchSession_kept hfw | with_reducible apply openSession_kept hregs hmgmt hfw | with_reducible apply closeSession_kept hregs hmgmt hfw himage | with_reducible apply verify_kept hregs hmgmt hfw himage | with_reducible apply activate_kept hmode hregs htime hcut hmgmt hstartup hcal hrx htx hfw himage | with_reducible apply confirm_kept hregs hmgmt hfw hkeys | with_reducible apply enrol_kept hregs hmgmt hfw hkeys | with_reducible apply revoke_kept hregs hmgmt hfw hkeys | with_reducible apply attest_kept hregs hmgmt hfw | with_reducible apply storeCut_kept hregs hmgmt hfw himage | with_reducible apply setBootCut_kept hregs hfw | with_reducible apply ready_kept hregs hmgmt hfw | with_reducible apply fwRefuse_kept hregs hmgmt | with_reducible apply foldl_kept | with_reducible apply ite_kept | (fail_if_no_progress (with_reducible refine mk_kept ?_)) | split

theorem execVerify_kept (hregs : p ≠ .regs) (hmgmt : p ≠ .mgmt) (hfw : p ≠ .fw) (himage : p ≠ .image) {x1 s t} (k : Kept p b s) (e : execVerify x1 s = .next t) :
    Kept p b t := by
  unfold execVerify at e
  apply fwWrite_kept hregs hmgmt hfw _ k e
  repeat' first | with_reducible assumption | (intro _; try dsimp only) | with_reducible apply verify_kept hregs hmgmt hfw himage | with_reducible apply foldl_kept | with_reducible apply ite_kept | (fail_if_no_progress (with_reducible refine mk_kept ?_)) | split

theorem execPresenceClose_kept (hregs : p ≠ .regs) (hfw : p ≠ .fw) {x1 s t} (k : Kept p b s) (e : execPresenceClose x1 s = .next t) :
    Kept p b t := by
  unfold execPresenceClose at e
  injection e with e
  subst e
  try dsimp only
  repeat' first | with_reducible assumption | (intro _; try dsimp only) | with_reducible refine setFw_kept hfw ?_ | with_reducible apply fset_kept hregs | with_reducible apply foldl_kept | with_reducible apply ite_kept | (fail_if_no_progress (with_reducible refine mk_kept ?_)) | split

theorem execWatchdogExpiry_kept (hmode : p ≠ .mode) (hregs : p ≠ .regs) (htime : p ≠ .time) (hcut : p ≠ .cut) (hmgmt : p ≠ .mgmt) (hstartup : p ≠ .startup) (hcal : p ≠ .cal) (hrx : p ≠ .rx) (htx : p ≠ .tx) (hpairSt : p ≠ .pairSt) (hfw : p ≠ .fw) {s t} (k : Kept p b s) (e : execWatchdogExpiry s = .next t) :
    Kept p b t := by
  unfold execWatchdogExpiry at e
  injection e with e
  subst e
  try dsimp only
  repeat' first | with_reducible assumption | (intro _; try dsimp only) | with_reducible apply fallback_kept hmode hregs htime hcut hmgmt hstartup hcal hrx htx hpairSt hfw | with_reducible apply loaderRuns_kept hregs | with_reducible apply chipReaction_kept hmode hregs htime hmgmt hstartup hcal hrx htx hpairSt hfw | with_reducible refine setFw_kept hfw ?_ | with_reducible apply foldl_kept | with_reducible apply ite_kept | (fail_if_no_progress (with_reducible refine mk_kept ?_)) | split

theorem execStoreCut_kept (hregs : p ≠ .regs) (hmgmt : p ≠ .mgmt) (hfw : p ≠ .fw) (himage : p ≠ .image) {x1 x2 s t} (k : Kept p b s) (e : execStoreCut x1 x2 s = .next t) :
    Kept p b t := by
  unfold execStoreCut at e
  apply fwWrite_kept hregs hmgmt hfw _ k e
  repeat' first | with_reducible assumption | (intro _; try dsimp only) | with_reducible apply storeCut_kept hregs hmgmt hfw himage | with_reducible apply foldl_kept | with_reducible apply ite_kept | (fail_if_no_progress (with_reducible refine mk_kept ?_)) | split

theorem execConfirmDeadline_kept (hmode : p ≠ .mode) (hregs : p ≠ .regs) (htime : p ≠ .time) (hcut : p ≠ .cut) (hmgmt : p ≠ .mgmt) (hstartup : p ≠ .startup) (hcal : p ≠ .cal) (hrx : p ≠ .rx) (htx : p ≠ .tx) (hpairSt : p ≠ .pairSt) (hfw : p ≠ .fw) {s t} (k : Kept p b s) (e : execConfirmDeadline s = .next t) :
    Kept p b t := by
  unfold execConfirmDeadline at e
  injection e with e
  subst e
  try dsimp only
  repeat' first | with_reducible assumption | (intro _; try dsimp only) | with_reducible apply fallback_kept hmode hregs htime hcut hmgmt hstartup hcal hrx htx hpairSt hfw | with_reducible apply foldl_kept | with_reducible apply ite_kept | (fail_if_no_progress (with_reducible refine mk_kept ?_)) | split

theorem execRevoke_kept (hregs : p ≠ .regs) (hmgmt : p ≠ .mgmt) (hfw : p ≠ .fw) (hkeys : p ≠ .keys) {x1 s t} (k : Kept p b s) (e : execRevoke x1 s = .next t) :
    Kept p b t := by
  unfold execRevoke at e
  apply fwWrite_kept hregs hmgmt hfw _ k e
  repeat' first | with_reducible assumption | (intro _; try dsimp only) | with_reducible apply revoke_kept hregs hmgmt hfw hkeys | with_reducible apply foldl_kept | with_reducible apply ite_kept | (fail_if_no_progress (with_reducible refine mk_kept ?_)) | split

theorem execFwDataWrite_kept (hregs : p ≠ .regs) (hmgmt : p ≠ .mgmt) (hfw : p ≠ .fw) {x1 x2 s t} (k : Kept p b s) (e : execFwDataWrite x1 x2 s = .next t) :
    Kept p b t := by
  unfold execFwDataWrite at e
  injection e with e
  subst e
  try dsimp only
  repeat' first | with_reducible assumption | (intro _; try dsimp only) | with_reducible apply hostWriteIf_kept hregs hmgmt | with_reducible apply fwData_kept hregs hfw | with_reducible apply touchSession_kept hfw | with_reducible apply foldl_kept | with_reducible apply ite_kept | (fail_if_no_progress (with_reducible refine mk_kept ?_)) | split

theorem execActivate_kept (hmode : p ≠ .mode) (hregs : p ≠ .regs) (htime : p ≠ .time) (hcut : p ≠ .cut) (hmgmt : p ≠ .mgmt) (hstartup : p ≠ .startup) (hcal : p ≠ .cal) (hrx : p ≠ .rx) (htx : p ≠ .tx) (hfw : p ≠ .fw) (himage : p ≠ .image) {x1 s t} (k : Kept p b s) (e : execActivate x1 s = .next t) :
    Kept p b t := by
  unfold execActivate at e
  apply fwWrite_kept hregs hmgmt hfw _ k e
  repeat' first | with_reducible assumption | (intro _; try dsimp only) | with_reducible apply activate_kept hmode hregs htime hcut hmgmt hstartup hcal hrx htx hfw himage | with_reducible apply foldl_kept | with_reducible apply ite_kept | (fail_if_no_progress (with_reducible refine mk_kept ?_)) | split

theorem modeResult_kept (hregs : p ≠ .regs) {x1 x2 s} (k : Kept p b s) :
    Kept p b (modeResult x1 x2 s) := by
  unfold modeResult
  try dsimp only
  repeat' first | with_reducible assumption | (intro _; try dsimp only) | with_reducible apply fsets_kept hregs | with_reducible apply foldl_kept | with_reducible apply ite_kept | (fail_if_no_progress (with_reducible refine mk_kept ?_)) | split

theorem runCommand_kept (hmode : p ≠ .mode) (hregs : p ≠ .regs) (htx : p ≠ .tx) {s} (k : Kept p b s) :
    Kept p b (runCommand s) := by
  unfold runCommand
  try dsimp only
  repeat' first | with_reducible assumption | (intro _; try dsimp only) | with_reducible apply modeResult_kept hregs | with_reducible apply startShooting_kept hregs htx | with_reducible apply fset_kept hregs | with_reducible apply foldl_kept | with_reducible apply ite_kept | (fail_if_no_progress (with_reducible refine mk_kept ?_)) | split

theorem stopCommand_kept (hmode : p ≠ .mode) (hregs : p ≠ .regs) (htime : p ≠ .time) (hmgmt : p ≠ .mgmt) (hcal : p ≠ .cal) (hrx : p ≠ .rx) (htx : p ≠ .tx) {s} (k : Kept p b s) :
    Kept p b (stopCommand s) := by
  unfold stopCommand
  try dsimp only
  repeat' first | with_reducible assumption | (intro _; try dsimp only) | with_reducible apply modeResult_kept hregs | with_reducible apply stopShooting_kept hregs htime hmgmt hcal hrx htx | with_reducible apply fset_kept hregs | with_reducible apply foldl_kept | with_reducible apply ite_kept | (fail_if_no_progress (with_reducible refine mk_kept ?_)) | split

theorem execStop_kept (hmode : p ≠ .mode) (hregs : p ≠ .regs) (htime : p ≠ .time) (hmgmt : p ≠ .mgmt) (hcal : p ≠ .cal) (hrx : p ≠ .rx) (htx : p ≠ .tx) {x1 s t} (k : Kept p b s) (e : execStop x1 s = .next t) :
    Kept p b t := by
  unfold execStop at e
  injection e with e
  subst e
  try dsimp only
  repeat' first | with_reducible assumption | (intro _; try dsimp only) | with_reducible apply hostWrite_kept hregs hmgmt | with_reducible apply stopCommand_kept hmode hregs htime hmgmt hcal hrx htx | with_reducible apply foldl_kept | with_reducible apply ite_kept | (fail_if_no_progress (with_reducible refine mk_kept ?_)) | split

theorem execRun_kept (hmode : p ≠ .mode) (hregs : p ≠ .regs) (hmgmt : p ≠ .mgmt) (htx : p ≠ .tx) {x1 s t} (k : Kept p b s) (e : execRun x1 s = .next t) :
    Kept p b t := by
  unfold execRun at e
  injection e with e
  subst e
  try dsimp only
  repeat' first | with_reducible assumption | (intro _; try dsimp only) | with_reducible apply hostWrite_kept hregs hmgmt | with_reducible apply runCommand_kept hmode hregs htx | with_reducible apply foldl_kept | with_reducible apply ite_kept | (fail_if_no_progress (with_reducible refine mk_kept ?_)) | split

theorem resetCommand_kept (hregs : p ≠ .regs) (hstartup : p ≠ .startup) {x1 s} (k : Kept p b s) :
    Kept p b (resetCommand x1 s) := by
  unfold resetCommand
  try dsimp only
  repeat' first | with_reducible assumption | (intro _; try dsimp only) | with_reducible apply modeResult_kept hregs | with_reducible apply foldl_kept | with_reducible apply ite_kept | (fail_if_no_progress (with_reducible refine mk_kept ?_)) | split

theorem modeCommand_kept (hmode : p ≠ .mode) (hregs : p ≠ .regs) (htime : p ≠ .time) (hmgmt : p ≠ .mgmt) (hstartup : p ≠ .startup) (hcal : p ≠ .cal) (hrx : p ≠ .rx) (htx : p ≠ .tx) {x1 x2 s} (k : Kept p b s) :
    Kept p b (modeCommand x1 x2 s) := by
  unfold modeCommand
  try dsimp only
  repeat' first | with_reducible assumption | (intro _; try dsimp only) | with_reducible apply runCommand_kept hmode hregs htx | with_reducible apply stopCommand_kept hmode hregs htime hmgmt hcal hrx htx | with_reducible apply resetCommand_kept hregs hstartup | with_reducible apply modeResult_kept hregs | with_reducible apply foldl_kept | with_reducible apply ite_kept | (fail_if_no_progress (with_reducible refine mk_kept ?_)) | split

theorem execStartupStart_kept (hregs : p ≠ .regs) (htime : p ≠ .time) (hcut : p ≠ .cut) (hmgmt : p ≠ .mgmt) (hstartup : p ≠ .startup) (hadcs : p ≠ .adcs) (hfw : p ≠ .fw) (htbase : p ≠ .tbase) {x1 s t} (k : Kept p b s) (e : execStartupStart x1 s = .next t) :
    Kept p b t := by
  unfold execStartupStart at e
  injection e with e
  subst e
  try dsimp only
  repeat' first | with_reducible assumption | (intro _; try dsimp only) | with_reducible apply countHours_kept hmgmt | with_reducible apply fset_kept hregs | with_reducible apply setChip_kept hmgmt | with_reducible apply chooseProgram_kept hregs hmgmt hfw | with_reducible apply readCtl_kept hregs hmgmt hfw | with_reducible apply imageStep_kept hregs hcut hmgmt hstartup hfw | with_reducible apply startAdc_kept hregs hadcs | with_reducible apply kindOne_kept hregs hmgmt | with_reducible apply forUp_kept | with_reducible apply foldl_kept | with_reducible apply ite_kept | (fail_if_no_progress (with_reducible refine mk_kept ?_)) | split

theorem execResetChip_kept (hregs : p ≠ .regs) (hmgmt : p ≠ .mgmt) (hstartup : p ≠ .startup) {x1 x2 s t} (k : Kept p b s) (e : execResetChip x1 x2 s = .next t) :
    Kept p b t := by
  unfold execResetChip at e
  injection e with e
  subst e
  try dsimp only
  repeat' first | with_reducible assumption | (intro _; try dsimp only) | with_reducible apply hostWrite_kept hregs hmgmt | with_reducible apply resetCommand_kept hregs hstartup | with_reducible apply foldl_kept | with_reducible apply ite_kept | (fail_if_no_progress (with_reducible refine mk_kept ?_)) | split

theorem execModeBadCommand_kept (hmode : p ≠ .mode) (hregs : p ≠ .regs) (htime : p ≠ .time) (hmgmt : p ≠ .mgmt) (hstartup : p ≠ .startup) (hcal : p ≠ .cal) (hrx : p ≠ .rx) (htx : p ≠ .tx) {x1 x2 x3 s t} (k : Kept p b s) (e : execModeBadCommand x1 x2 x3 s = .next t) :
    Kept p b t := by
  unfold execModeBadCommand at e
  injection e with e
  subst e
  try dsimp only
  repeat' first | with_reducible assumption | (intro _; try dsimp only) | with_reducible apply hostWrite_kept hregs hmgmt | with_reducible apply modeCommand_kept hmode hregs htime hmgmt hstartup hcal hrx htx | with_reducible apply foldl_kept | with_reducible apply ite_kept | (fail_if_no_progress (with_reducible refine mk_kept ?_)) | split

theorem State.indexNow_kept (hfresh : p ≠ .fresh) {s x2} (k : Kept p b s) :
    Kept p b (State.indexNow s x2).2 := by
  unfold State.indexNow
  try dsimp only
  repeat' first | with_reducible assumption | (intro _; try dsimp only) | with_reducible apply drawFree_kept hfresh | with_reducible apply foldl_kept | with_reducible apply ite_kept | (fail_if_no_progress (with_reducible refine mk_kept ?_)) | split

theorem latchBlock_kept (hmgmt : p ≠ .mgmt) (hfresh : p ≠ .fresh) {x1 s x3} (k : Kept p b s) :
    Kept p b (latchBlock x1 s x3) := by
  unfold latchBlock
  try dsimp only
  repeat' first | with_reducible assumption | (intro _; try dsimp only) | with_reducible apply State.indexNow_kept hfresh | with_reducible apply foldl_kept | with_reducible apply ite_kept | (fail_if_no_progress (with_reducible refine mk_kept ?_)) | split

theorem latchDue_kept (hregs : p ≠ .regs) (hmgmt : p ≠ .mgmt) (hfresh : p ≠ .fresh) {s} (k : Kept p b s) :
    Kept p b (latchDue s) := by
  unfold latchDue
  try dsimp only
  repeat' first | with_reducible assumption | (intro _; try dsimp only) | with_reducible apply latchBlock_kept hmgmt hfresh | with_reducible apply flag_kept hregs hmgmt | with_reducible apply foldl_kept | with_reducible apply ite_kept | (fail_if_no_progress (with_reducible refine mk_kept ?_)) | split

theorem execLoupeLatch_kept (hregs : p ≠ .regs) (hmgmt : p ≠ .mgmt) (hfresh : p ≠ .fresh) {s t} (k : Kept p b s) (e : execLoupeLatch s = .next t) :
    Kept p b t := by
  unfold execLoupeLatch at e
  injection e with e
  subst e
  try dsimp only
  repeat' first | with_reducible assumption | (intro _; try dsimp only) | with_reducible apply latchDue_kept hregs hmgmt hfresh | with_reducible apply foldl_kept | with_reducible apply ite_kept | (fail_if_no_progress (with_reducible refine mk_kept ?_)) | split

theorem repointEvent_kept (hmgmt : p ≠ .mgmt) {x1 s} (k : Kept p b s) :
    Kept p b (repointEvent x1 s) := by
  unfold repointEvent
  try dsimp only
  repeat' first | with_reducible assumption | (intro _; try dsimp only) | with_reducible apply foldl_kept | with_reducible apply ite_kept | (fail_if_no_progress (with_reducible refine mk_kept ?_)) | split

end Sys2Proof.Machine
end

