-- ==== Sys2Proof/Laws/KeptManagement.lean ====
section
/-! SUPPORT. What each operation and command of management and the idle step leaves alone (see Sys2Proof/Laws/Kept.lean). -/
namespace Sys2Proof.Machine

set_option Elab.async false
set_option linter.unusedTactic false
set_option linter.unreachableTactic false

variable {p : Part} {b : State}

theorem writeSc_kept (hregs : p ≠ .regs) (hmgmt : p ≠ .mgmt) (hadcs : p ≠ .adcs) (hsc : p ≠ .sc) {x1 x2 x3 s} (k : Kept p b s) :
    Kept p b (writeSc x1 x2 x3 s) := by
  unfold writeSc
  try dsimp only
  repeat' first | with_reducible assumption | (intro _; try dsimp only) | with_reducible apply excWrite_kept hregs hadcs hsc | with_reducible apply ampWrite_kept hregs | with_reducible apply plainWrite_kept hregs | with_reducible apply setpointWrite_kept hregs hsc | with_reducible apply loopCommand_kept hregs hmgmt hsc | with_reducible apply foldl_kept | with_reducible apply ite_kept | (fail_if_no_progress (with_reducible refine mk_kept ?_)) | split

theorem setSpi_kept (hmgmt : p ≠ .mgmt) {x1 s} (k : Kept p b s) :
    Kept p b (setSpi x1 s) := by
  unfold setSpi
  try dsimp only
  repeat' first | with_reducible assumption | (intro _; try dsimp only) | with_reducible apply foldl_kept | with_reducible apply ite_kept | (fail_if_no_progress (with_reducible refine mk_kept ?_)) | split

theorem execSpiFrameEnd_kept (hregs : p ≠ .regs) (hmgmt : p ≠ .mgmt) {x1 s t} (k : Kept p b s) (e : execSpiFrameEnd x1 s = .next t) :
    Kept p b t := by
  unfold execSpiFrameEnd at e
  injection e with e
  subst e
  try dsimp only
  repeat' first | with_reducible assumption | (intro _; try dsimp only) | with_reducible apply flagIf_kept hregs hmgmt | with_reducible apply setSpi_kept hmgmt | with_reducible apply foldl_kept | with_reducible apply ite_kept | (fail_if_no_progress (with_reducible refine mk_kept ?_)) | split

theorem touchFw_kept (hfw : p ≠ .fw) {x1 x2 s} (k : Kept p b s) :
    Kept p b (touchFw x1 x2 s) := by
  unfold touchFw
  try dsimp only
  repeat' first | with_reducible assumption | (intro _; try dsimp only) | with_reducible apply touchSession_kept hfw | with_reducible apply foldl_kept | with_reducible apply ite_kept | (fail_if_no_progress (with_reducible refine mk_kept ?_)) | split

theorem writeTx_kept (hregs : p ≠ .regs) (htime : p ≠ .time) (hmgmt : p ≠ .mgmt) (htx : p ≠ .tx) {x1 x2 x3 s} (k : Kept p b s) :
    Kept p b (writeTx x1 x2 x3 s) := by
  unfold writeTx
  try dsimp only
  repeat' first | with_reducible assumption | (intro _; try dsimp only) | with_reducible apply hopWrite_kept hregs htime hmgmt htx | with_reducible apply portRearm_kept hregs htx | with_reducible apply plainWrite_kept hregs | with_reducible apply foldl_kept | with_reducible apply ite_kept | (fail_if_no_progress (with_reducible refine mk_kept ?_)) | split

theorem writeAdc_kept (hregs : p ≠ .regs) (hmgmt : p ≠ .mgmt) (hrx : p ≠ .rx) (hadcs : p ≠ .adcs) (hhk : p ≠ .hk) {x1 x2 x3 x4 s} (k : Kept p b s) :
    Kept p b (writeAdc x1 x2 x3 x4 s) := by
  unfold writeAdc
  try dsimp only
  repeat' first | with_reducible assumption | (intro _; try dsimp only) | with_reducible apply adcCommand_kept hregs hmgmt hadcs | with_reducible apply bankWrite_kept hregs hmgmt hrx hadcs hhk | with_reducible apply adcRunWrite_kept hrx hadcs hhk | with_reducible apply hkWrite_kept hhk | with_reducible apply plainWrite_kept hregs | with_reducible apply foldl_kept | with_reducible apply ite_kept | (fail_if_no_progress (with_reducible refine mk_kept ?_)) | split

theorem writeRec_kept (hregs : p ≠ .regs) (hmgmt : p ≠ .mgmt) {x1 x2 x3 x4 s} (k : Kept p b s) :
    Kept p b (writeRec x1 x2 x3 x4 s) := by
  unfold writeRec
  try dsimp only
  repeat' first | with_reducible assumption | (intro _; try dsimp only) | with_reducible apply setReq_kept hmgmt | with_reducible apply recFetch_kept hregs hmgmt | with_reducible apply recClear_kept hregs hmgmt | with_reducible apply loupeCommand_kept hregs hmgmt | with_reducible apply repointEvent_kept hmgmt | with_reducible apply plainWrite_kept hregs | with_reducible apply foldl_kept | with_reducible apply ite_kept | (fail_if_no_progress (with_reducible refine mk_kept ?_)) | split

theorem writeFw_kept (hmode : p ≠ .mode) (hregs : p ≠ .regs) (htime : p ≠ .time) (hcut : p ≠ .cut) (hmgmt : p ≠ .mgmt) (hstartup : p ≠ .startup) (hcal : p ≠ .cal) (hrx : p ≠ .rx) (htx : p ≠ .tx) (hfw : p ≠ .fw) (himage : p ≠ .image) (hkeys : p ≠ .keys) {x1 x2 x3 x4 s} (k : Kept p b s) :
    Kept p b (writeFw x1 x2 x3 x4 s) := by
  unfold writeFw
  try dsimp only
  repeat' first | with_reducible assumption | (intro _; try dsimp only) | with_reducible apply touchFw_kept hfw | with_reducible apply fwCommand_kept hmode hregs htime hcut hmgmt hstartup hcal hrx htx hfw himage hkeys | with_reducible apply fwData_kept hregs hfw | with_reducible apply setReg_kept hregs | with_reducible apply plainWrite_kept hregs | with_reducible apply foldl_kept | with_reducible apply ite_kept | (fail_if_no_progress (with_reducible refine mk_kept ?_)) | split

theorem writeCf_kept (hmode : p ≠ .mode) (hregs : p ≠ .regs) (htime : p ≠ .time) (hcut : p ≠ .cut) (hmgmt : p ≠ .mgmt) (hstartup : p ≠ .startup) (hcal : p ≠ .cal) (hrx : p ≠ .rx) (htx : p ≠ .tx) (hlk : p ≠ .lk) (haq : p ≠ .aq) (hadcs : p ≠ .adcs) (hsc : p ≠ .sc) (hpairSt : p ≠ .pairSt) (hsf : p ≠ .sf) (hhk : p ≠ .hk) (hfw : p ≠ .fw) (hshadow : p ≠ .shadow) (haqMem : p ≠ .aqMem) (himage : p ≠ .image) (hkeys : p ≠ .keys) {x1 x2 x3 x4 s} (k : Kept p b s) :
    Kept p b (writeCf x1 x2 x3 x4 s) := by
  unfold writeCf
  try dsimp only
  repeat' first | with_reducible assumption | (intro _; try dsimp only) | with_reducible apply writeRec_kept hregs hmgmt | with_reducible apply writeFw_kept hmode hregs htime hcut hmgmt hstartup hcal hrx htx hfw himage hkeys | with_reducible apply modeCommand_kept hmode hregs htime hmgmt hstartup hcal hrx htx | with_reducible apply cutCommand_kept hregs htime hcut hmgmt hstartup hcal hrx htx hlk haq hadcs hsc hsf hhk hshadow haqMem | with_reducible apply pairCommand_kept hmode hregs htime hmgmt hcal hrx htx hadcs hsc hpairSt hsf hfw | with_reducible apply calCommand_kept hregs hmgmt hcal hrx | with_reducible apply liftFence_kept hregs hmgmt hstartup hhk | with_reducible apply plainWrite_kept hregs | with_reducible apply forUp_kept | with_reducible apply foldl_kept | with_reducible apply ite_kept | (fail_if_no_progress (with_reducible refine mk_kept ?_)) | split

theorem writeSf_kept (hmode : p ≠ .mode) (hregs : p ≠ .regs) (htime : p ≠ .time) (hmgmt : p ≠ .mgmt) (hcal : p ≠ .cal) (hrx : p ≠ .rx) (htx : p ≠ .tx) (hadcs : p ≠ .adcs) (hmotionIn : p ≠ .motionIn) (hsf : p ≠ .sf) (hfw : p ≠ .fw) (hfresh : p ≠ .fresh) (hpwd : p ≠ .pwd) {x1 x2 x3 x4 s} (k : Kept p b s) :
    Kept p b (writeSf x1 x2 x3 x4 s) := by
  unfold writeSf
  try dsimp only
  repeat' first | with_reducible assumption | (intro _; try dsimp only) | with_reducible apply sfCommand_kept hmode hregs htime hmgmt hcal hrx htx hadcs hmotionIn hsf hfw hfresh hpwd | with_reducible apply pwdWrite_kept hsf | with_reducible apply sfParamWrite_kept hsf | with_reducible apply plainWrite_kept hregs | with_reducible apply foldl_kept | with_reducible apply ite_kept | (fail_if_no_progress (with_reducible refine mk_kept ?_)) | split

theorem writeLk_kept (hregs : p ≠ .regs) (hmgmt : p ≠ .mgmt) (hlk : p ≠ .lk) (haq : p ≠ .aq) {x1 x2 x3 s} (k : Kept p b s) :
    Kept p b (writeLk x1 x2 x3 s) := by
  unfold writeLk
  try dsimp only
  repeat' first | with_reducible assumption | (intro _; try dsimp only) | with_reducible apply laneCommand_kept hregs hmgmt hlk haq | with_reducible apply laneTest_kept hregs hmgmt hlk haq | with_reducible apply plainWrite_kept hregs | with_reducible apply foldl_kept | with_reducible apply ite_kept | (fail_if_no_progress (with_reducible refine mk_kept ?_)) | split

theorem writeRx_kept (hregs : p ≠ .regs) (htime : p ≠ .time) (hmgmt : p ≠ .mgmt) (hstartup : p ≠ .startup) (hrx : p ≠ .rx) (hadcs : p ≠ .adcs) {x1 x2 x3 s} (k : Kept p b s) :
    Kept p b (writeRx x1 x2 x3 s) := by
  unfold writeRx
  try dsimp only
  repeat' first | with_reducible assumption | (intro _; try dsimp only) | with_reducible apply gateCommand_kept hregs htime hmgmt hrx | with_reducible apply plainWrite_kept hregs | with_reducible apply cellCommand_kept hrx | with_reducible apply gdClear_kept hregs hrx | with_reducible apply rtWrite_kept hregs hstartup hrx hadcs | with_reducible apply foldl_kept | with_reducible apply ite_kept | (fail_if_no_progress (with_reducible refine mk_kept ?_)) | split

theorem writeEffect_kept (hmode : p ≠ .mode) (hregs : p ≠ .regs) (htime : p ≠ .time) (hcut : p ≠ .cut) (hmgmt : p ≠ .mgmt) (hstartup : p ≠ .startup) (hcal : p ≠ .cal) (hrx : p ≠ .rx) (htx : p ≠ .tx) (hlk : p ≠ .lk) (haq : p ≠ .aq) (hadcs : p ≠ .adcs) (hsc : p ≠ .sc) (hmotionIn : p ≠ .motionIn) (hpairSt : p ≠ .pairSt) (hsf : p ≠ .sf) (hhk : p ≠ .hk) (hfw : p ≠ .fw) (hfresh : p ≠ .fresh) (hshadow : p ≠ .shadow) (haqMem : p ≠ .aqMem) (himage : p ≠ .image) (hpwd : p ≠ .pwd) (hkeys : p ≠ .keys) {x1 x2 x3 x4 s} (k : Kept p b s) :
    Kept p b (writeEffect x1 x2 x3 x4 s) := by
  unfold writeEffect
  try dsimp only
  repeat' first | with_reducible assumption | (intro _; try dsimp only) | with_reducible apply writeAdc_kept hregs hmgmt hrx hadcs hhk | with_reducible apply writeCf_kept hmode hregs htime hcut hmgmt hstartup hcal hrx htx hlk haq hadcs hsc hpairSt hsf hhk hfw hshadow haqMem himage hkeys | with_reducible apply hkWrite_kept hhk | with_reducible apply writeSf_kept hmode hregs htime hmgmt hcal hrx htx hadcs hmotionIn hsf hfw hfresh hpwd | with_reducible apply writeSc_kept hregs hmgmt hadcs hsc | with_reducible apply writeTx_kept hregs htime hmgmt htx | with_reducible apply writeLk_kept hregs hmgmt hlk haq | with_reducible apply aqCommand_kept hregs hmgmt hlk haq hfresh haqMem | with_reducible apply plainWrite_kept hregs | with_reducible apply writeRx_kept hregs htime hmgmt hstartup hrx hadcs | with_reducible apply foldl_kept | with_reducible apply ite_kept | (fail_if_no_progress (with_reducible refine mk_kept ?_)) | split

theorem echo_kept (hmgmt : p ≠ .mgmt) {x1 x2 s} (k : Kept p b s) :
    Kept p b (echo x1 x2 s) := by
  unfold echo
  try dsimp only
  repeat' first | with_reducible assumption | (intro _; try dsimp only) | with_reducible apply setReq_kept hmgmt | with_reducible apply foldl_kept | with_reducible apply ite_kept | (fail_if_no_progress (with_reducible refine mk_kept ?_)) | split

theorem execEcho_kept (hmgmt : p ≠ .mgmt) {x1 x2 x3 s t} (k : Kept p b s) (e : execEcho x1 x2 x3 s = .next t) :
    Kept p b t := by
  unfold execEcho at e
  injection e with e
  subst e
  try dsimp only
  repeat' first | with_reducible assumption | (intro _; try dsimp only) | with_reducible apply echo_kept hmgmt | with_reducible apply foldl_kept | with_reducible apply ite_kept | (fail_if_no_progress (with_reducible refine mk_kept ?_)) | split

theorem answer_kept (hregs : p ≠ .regs) (hmgmt : p ≠ .mgmt) (hfresh : p ≠ .fresh) {x1 x2 x3 s} (k : Kept p b s) :
    Kept p b (answer x1 x2 x3 s) := by
  unfold answer
  try dsimp only
  repeat' first | with_reducible assumption | (intro _; try dsimp only) | with_reducible apply complete_kept hregs hmgmt | with_reducible apply drawFree_kept hfresh | with_reducible apply foldl_kept | with_reducible apply ite_kept | (fail_if_no_progress (with_reducible refine mk_kept ?_)) | split

theorem windowRead_kept (hregs : p ≠ .regs) (hmgmt : p ≠ .mgmt) (hfresh : p ≠ .fresh) {x1 x2 x3 x4 s} (k : Kept p b s) :
    Kept p b (windowRead x1 x2 x3 x4 s) := by
  unfold windowRead
  try dsimp only
  repeat' first | with_reducible assumption | (intro _; try dsimp only) | with_reducible apply setReq_kept hmgmt | with_reducible apply answer_kept hregs hmgmt hfresh | with_reducible apply complete_kept hregs hmgmt | with_reducible apply drawFree_kept hfresh | with_reducible apply foldl_kept | with_reducible apply ite_kept | (fail_if_no_progress (with_reducible refine mk_kept ?_)) | split

theorem recRead_kept (hregs : p ≠ .regs) (hmgmt : p ≠ .mgmt) {x1 x2 x3 s} (k : Kept p b s) :
    Kept p b (recRead x1 x2 x3 s) := by
  unfold recRead
  try dsimp only
  repeat' first | with_reducible assumption | (intro _; try dsimp only) | with_reducible apply recDataRead_kept hregs hmgmt | with_reducible apply complete_kept hregs hmgmt | with_reducible apply foldl_kept | with_reducible apply ite_kept | (fail_if_no_progress (with_reducible refine mk_kept ?_)) | split

theorem splitRead_kept (hregs : p ≠ .regs) (hmgmt : p ≠ .mgmt) (hfresh : p ≠ .fresh) {x1 x2 x3 s} (k : Kept p b s) :
    Kept p b (splitRead x1 x2 x3 s) := by
  unfold splitRead
  try dsimp only
  repeat' first | with_reducible assumption | (intro _; try dsimp only) | with_reducible apply setReq_kept hmgmt | with_reducible apply answer_kept hregs hmgmt hfresh | with_reducible apply complete_kept hregs hmgmt | with_reducible apply foldl_kept | with_reducible apply ite_kept | (fail_if_no_progress (with_reducible refine mk_kept ?_)) | split

theorem readOk_kept (hregs : p ≠ .regs) (hmgmt : p ≠ .mgmt) (hfw : p ≠ .fw) (hfresh : p ≠ .fresh) {x1 x2 s} (k : Kept p b s) :
    Kept p b (readOk x1 x2 s) := by
  unfold readOk
  try dsimp only
  repeat' first | with_reducible assumption | (intro _; try dsimp only) | with_reducible apply touchFw_kept hfw | with_reducible apply recRead_kept hregs hmgmt | with_reducible apply windowRead_kept hregs hmgmt hfresh | with_reducible apply splitRead_kept hregs hmgmt hfresh | with_reducible apply answer_kept hregs hmgmt hfresh | with_reducible apply foldl_kept | with_reducible apply ite_kept | (fail_if_no_progress (with_reducible refine mk_kept ?_)) | split

theorem readReg_kept (hregs : p ≠ .regs) (hmgmt : p ≠ .mgmt) (hfw : p ≠ .fw) (hfresh : p ≠ .fresh) {x1 x2 s} (k : Kept p b s) :
    Kept p b (readReg x1 x2 s) := by
  unfold readReg
  try dsimp only
  repeat' first | with_reducible assumption | (intro _; try dsimp only) | with_reducible apply complete_kept hregs hmgmt | with_reducible apply readOk_kept hregs hmgmt hfw hfresh | with_reducible apply foldl_kept | with_reducible apply ite_kept | (fail_if_no_progress (with_reducible refine mk_kept ?_)) | split

theorem sendResponse_kept (hregs : p ≠ .regs) (hmgmt : p ≠ .mgmt) (hlk : p ≠ .lk) {x1 x2 s} (k : Kept p b s) :
    Kept p b (sendResponse x1 x2 s) := by
  unfold sendResponse
  try dsimp only
  repeat' first | with_reducible assumption | (intro _; try dsimp only) | with_reducible apply dropPacket_kept hregs hmgmt hlk | with_reducible apply queueOn_kept hregs hmgmt hlk | with_reducible apply foldl_kept | with_reducible apply ite_kept | (fail_if_no_progress (with_reducible refine mk_kept ?_)) | split

theorem cutSpace_kept (hregs : p ≠ .regs) (hcut : p ≠ .cut) (hmgmt : p ≠ .mgmt) (hstartup : p ≠ .startup) (hcal : p ≠ .cal) (hrx : p ≠ .rx) (htx : p ≠ .tx) (hlk : p ≠ .lk) (haq : p ≠ .aq) (hadcs : p ≠ .adcs) (hsc : p ≠ .sc) (hsf : p ≠ .sf) (hhk : p ≠ .hk) (hshadow : p ≠ .shadow) (haqMem : p ≠ .aqMem) {x1 x2 x3 x4 x5 s} (k : Kept p b s) :
    Kept p b (cutSpace x1 x2 x3 x4 x5 s) := by
  unfold cutSpace
  try dsimp only
  repeat' first | with_reducible assumption | (intro _; try dsimp only) | with_reducible apply complete_kept hregs hmgmt | with_reducible apply windowWrite_kept hregs hmgmt | with_reducible apply storeShadow_kept hregs hcut hmgmt hstartup hcal hrx htx hlk haq hadcs hsc hsf hhk hshadow haqMem | with_reducible apply foldl_kept | with_reducible apply ite_kept | (fail_if_no_progress (with_reducible refine mk_kept ?_)) | split

theorem notExecuted_kept (hregs : p ≠ .regs) (hmgmt : p ≠ .mgmt) {x1 x2 x3 s} (k : Kept p b s) :
    Kept p b (notExecuted x1 x2 x3 s) := by
  unfold notExecuted
  try dsimp only
  repeat' first | with_reducible assumption | (intro _; try dsimp only) | with_reducible apply mgmtError_kept hregs hmgmt | with_reducible apply setReq_kept hmgmt | with_reducible apply foldl_kept | with_reducible apply ite_kept | (fail_if_no_progress (with_reducible refine mk_kept ?_)) | split

theorem writeReg_kept (hmode : p ≠ .mode) (hregs : p ≠ .regs) (htime : p ≠ .time) (hcut : p ≠ .cut) (hmgmt : p ≠ .mgmt) (hstartup : p ≠ .startup) (hcal : p ≠ .cal) (hrx : p ≠ .rx) (htx : p ≠ .tx) (hlk : p ≠ .lk) (haq : p ≠ .aq) (hadcs : p ≠ .adcs) (hsc : p ≠ .sc) (hmotionIn : p ≠ .motionIn) (hpairSt : p ≠ .pairSt) (hsf : p ≠ .sf) (hhk : p ≠ .hk) (hfw : p ≠ .fw) (hfresh : p ≠ .fresh) (hshadow : p ≠ .shadow) (haqMem : p ≠ .aqMem) (himage : p ≠ .image) (hpwd : p ≠ .pwd) (hkeys : p ≠ .keys) {x1 x2 x3 s} (k : Kept p b s) :
    Kept p b (writeReg x1 x2 x3 s) := by
  unfold writeReg
  try dsimp only
  repeat' first | with_reducible assumption | (intro _; try dsimp only) | with_reducible apply complete_kept hregs hmgmt | with_reducible apply hostWriteIf_kept hregs hmgmt | with_reducible apply writeEffect_kept hmode hregs htime hcut hmgmt hstartup hcal hrx htx hlk haq hadcs hsc hmotionIn hpairSt hsf hhk hfw hfresh hshadow haqMem himage hpwd hkeys | with_reducible apply touchFw_kept hfw | with_reducible apply foldl_kept | with_reducible apply ite_kept | (fail_if_no_progress (with_reducible refine mk_kept ?_)) | split

theorem histSpace_kept (hregs : p ≠ .regs) (hmgmt : p ≠ .mgmt) (hrx : p ≠ .rx) (hfresh : p ≠ .fresh) {x1 x2 x3 x4 s} (k : Kept p b s) :
    Kept p b (histSpace x1 x2 x3 x4 s) := by
  unfold histSpace
  try dsimp only
  repeat' first | with_reducible assumption | (intro _; try dsimp only) | with_reducible apply complete_kept hregs hmgmt | with_reducible apply histRead_kept hregs hmgmt hrx hfresh | with_reducible apply foldl_kept | with_reducible apply ite_kept | (fail_if_no_progress (with_reducible refine mk_kept ?_)) | split

theorem captSpace_kept (hregs : p ≠ .regs) (hmgmt : p ≠ .mgmt) (hfresh : p ≠ .fresh) {x1 x2 x3 x4 s} (k : Kept p b s) :
    Kept p b (captSpace x1 x2 x3 x4 s) := by
  unfold captSpace
  try dsimp only
  repeat' first | with_reducible assumption | (intro _; try dsimp only) | with_reducible apply complete_kept hregs hmgmt | with_reducible apply captRead_kept hregs hmgmt hfresh | with_reducible apply foldl_kept | with_reducible apply ite_kept | (fail_if_no_progress (with_reducible refine mk_kept ?_)) | split

theorem transact_kept (hmode : p ≠ .mode) (hregs : p ≠ .regs) (htime : p ≠ .time) (hcut : p ≠ .cut) (hmgmt : p ≠ .mgmt) (hstartup : p ≠ .startup) (hcal : p ≠ .cal) (hrx : p ≠ .rx) (htx : p ≠ .tx) (hlk : p ≠ .lk) (haq : p ≠ .aq) (hadcs : p ≠ .adcs) (hsc : p ≠ .sc) (hmotionIn : p ≠ .motionIn) (hpairSt : p ≠ .pairSt) (hsf : p ≠ .sf) (hhk : p ≠ .hk) (hfw : p ≠ .fw) (hfresh : p ≠ .fresh) (hshadow : p ≠ .shadow) (haqMem : p ≠ .aqMem) (himage : p ≠ .image) (hpwd : p ≠ .pwd) (hkeys : p ≠ .keys) {x1 x2 x3 x4 s} (k : Kept p b s) :
    Kept p b (transact x1 x2 x3 x4 s) := by
  unfold transact
  try dsimp only
  repeat' first | with_reducible assumption | (intro _; try dsimp only) | with_reducible apply notExecuted_kept hregs hmgmt | with_reducible apply echo_kept hmgmt | with_reducible apply writeReg_kept hmode hregs htime hcut hmgmt hstartup hcal hrx htx hlk haq hadcs hsc hmotionIn hpairSt hsf hhk hfw hfresh hshadow haqMem himage hpwd hkeys | with_reducible apply readReg_kept hregs hmgmt hfw hfresh | with_reducible apply histSpace_kept hregs hmgmt hrx hfresh | with_reducible apply captSpace_kept hregs hmgmt hfresh | with_reducible apply cutSpace_kept hregs hcut hmgmt hstartup hcal hrx htx hlk haq hadcs hsc hsf hhk hshadow haqMem | with_reducible apply complete_kept hregs hmgmt | with_reducible apply foldl_kept | with_reducible apply ite_kept | (fail_if_no_progress (with_reducible refine mk_kept ?_)) | split

theorem runPacket_kept (hmode : p ≠ .mode) (hregs : p ≠ .regs) (htime : p ≠ .time) (hcut : p ≠ .cut) (hmgmt : p ≠ .mgmt) (hstartup : p ≠ .startup) (hcal : p ≠ .cal) (hrx : p ≠ .rx) (htx : p ≠ .tx) (hlk : p ≠ .lk) (haq : p ≠ .aq) (hadcs : p ≠ .adcs) (hsc : p ≠ .sc) (hmotionIn : p ≠ .motionIn) (hpairSt : p ≠ .pairSt) (hsf : p ≠ .sf) (hhk : p ≠ .hk) (hfw : p ≠ .fw) (hfresh : p ≠ .fresh) (hshadow : p ≠ .shadow) (haqMem : p ≠ .aqMem) (himage : p ≠ .image) (hpwd : p ≠ .pwd) (hkeys : p ≠ .keys) {x1} : ∀ (l : List Word) {x2 s}, Kept p b s → Kept p b (runPacket x1 x2 l s).1
  | [], _, _, k => k
  | [_], _, _, k => k
  | _ :: _ :: ws, _, _, k => runPacket_kept hmode hregs htime hcut hmgmt hstartup hcal hrx htx hlk haq hadcs hsc hmotionIn hpairSt hsf hhk hfw hfresh hshadow haqMem himage hpwd hkeys ws (transact_kept hmode hregs htime hcut hmgmt hstartup hcal hrx htx hlk haq hadcs hsc hmotionIn hpairSt hsf hhk hfw hfresh hshadow haqMem himage hpwd hkeys k)

theorem execMgmtRequestPacket_kept (hmode : p ≠ .mode) (hregs : p ≠ .regs) (htime : p ≠ .time) (hcut : p ≠ .cut) (hmgmt : p ≠ .mgmt) (hstartup : p ≠ .startup) (hcal : p ≠ .cal) (hrx : p ≠ .rx) (htx : p ≠ .tx) (hlk : p ≠ .lk) (haq : p ≠ .aq) (hadcs : p ≠ .adcs) (hsc : p ≠ .sc) (hmotionIn : p ≠ .motionIn) (hpairSt : p ≠ .pairSt) (hsf : p ≠ .sf) (hhk : p ≠ .hk) (hfw : p ≠ .fw) (hfresh : p ≠ .fresh) (hshadow : p ≠ .shadow) (haqMem : p ≠ .aqMem) (himage : p ≠ .image) (hpwd : p ≠ .pwd) (hkeys : p ≠ .keys) {x1 x2 s t} (k : Kept p b s) (e : execMgmtRequestPacket x1 x2 s = .next t) :
    Kept p b t := by
  unfold execMgmtRequestPacket at e
  injection e with e
  subst e
  try dsimp only
  repeat' first | with_reducible assumption | (intro _; try dsimp only) | with_reducible apply takePacket_kept hlk | with_reducible apply runPacket_kept hmode hregs htime hcut hmgmt hstartup hcal hrx htx hlk haq hadcs hsc hmotionIn hpairSt hsf hhk hfw hfresh hshadow haqMem himage hpwd hkeys | with_reducible apply sendResponse_kept hregs hmgmt hlk | with_reducible apply foldl_kept | with_reducible apply ite_kept | (fail_if_no_progress (with_reducible refine mk_kept ?_)) | split

theorem execWindowLatchRead_kept (hregs : p ≠ .regs) (hmgmt : p ≠ .mgmt) (hfw : p ≠ .fw) (hfresh : p ≠ .fresh) {x1 x2 s t} (k : Kept p b s) (e : execWindowLatchRead x1 x2 s = .next t) :
    Kept p b t := by
  unfold execWindowLatchRead at e
  injection e with e
  subst e
  try dsimp only
  repeat' first | with_reducible assumption | (intro _; try dsimp only) | with_reducible apply readReg_kept hregs hmgmt hfw hfresh | with_reducible apply foldl_kept | with_reducible apply ite_kept | (fail_if_no_progress (with_reducible refine mk_kept ?_)) | split

theorem execRegisterWrite_kept (hmode : p ≠ .mode) (hregs : p ≠ .regs) (htime : p ≠ .time) (hcut : p ≠ .cut) (hmgmt : p ≠ .mgmt) (hstartup : p ≠ .startup) (hcal : p ≠ .cal) (hrx : p ≠ .rx) (htx : p ≠ .tx) (hlk : p ≠ .lk) (haq : p ≠ .aq) (hadcs : p ≠ .adcs) (hsc : p ≠ .sc) (hmotionIn : p ≠ .motionIn) (hpairSt : p ≠ .pairSt) (hsf : p ≠ .sf) (hhk : p ≠ .hk) (hfw : p ≠ .fw) (hfresh : p ≠ .fresh) (hshadow : p ≠ .shadow) (haqMem : p ≠ .aqMem) (himage : p ≠ .image) (hpwd : p ≠ .pwd) (hkeys : p ≠ .keys) {x1 x2 x3 s t} (k : Kept p b s) (e : execRegisterWrite x1 x2 x3 s = .next t) :
    Kept p b t := by
  unfold execRegisterWrite at e
  injection e with e
  subst e
  try dsimp only
  repeat' first | with_reducible assumption | (intro _; try dsimp only) | with_reducible apply writeReg_kept hmode hregs htime hcut hmgmt hstartup hcal hrx htx hlk haq hadcs hsc hmotionIn hpairSt hsf hhk hfw hfresh hshadow haqMem himage hpwd hkeys | with_reducible apply foldl_kept | with_reducible apply ite_kept | (fail_if_no_progress (with_reducible refine mk_kept ?_)) | split

theorem execMgmtTransaction_kept (hmode : p ≠ .mode) (hregs : p ≠ .regs) (htime : p ≠ .time) (hcut : p ≠ .cut) (hmgmt : p ≠ .mgmt) (hstartup : p ≠ .startup) (hcal : p ≠ .cal) (hrx : p ≠ .rx) (htx : p ≠ .tx) (hlk : p ≠ .lk) (haq : p ≠ .aq) (hadcs : p ≠ .adcs) (hsc : p ≠ .sc) (hmotionIn : p ≠ .motionIn) (hpairSt : p ≠ .pairSt) (hsf : p ≠ .sf) (hhk : p ≠ .hk) (hfw : p ≠ .fw) (hfresh : p ≠ .fresh) (hshadow : p ≠ .shadow) (haqMem : p ≠ .aqMem) (himage : p ≠ .image) (hpwd : p ≠ .pwd) (hkeys : p ≠ .keys) {x1 x2 x3 x4 s t} (k : Kept p b s) (e : execMgmtTransaction x1 x2 x3 x4 s = .next t) :
    Kept p b t := by
  unfold execMgmtTransaction at e
  injection e with e
  subst e
  try dsimp only
  repeat' first | with_reducible assumption | (intro _; try dsimp only) | with_reducible apply transact_kept hmode hregs htime hcut hmgmt hstartup hcal hrx htx hlk haq hadcs hsc hmotionIn hpairSt hsf hhk hfw hfresh hshadow haqMem himage hpwd hkeys | with_reducible apply foldl_kept | with_reducible apply ite_kept | (fail_if_no_progress (with_reducible refine mk_kept ?_)) | split

theorem execBadOp_kept (hregs : p ≠ .regs) (hmgmt : p ≠ .mgmt) {x1 x2 s t} (k : Kept p b s) (e : execBadOp x1 x2 s = .next t) :
    Kept p b t := by
  unfold execBadOp at e
  injection e with e
  subst e
  try dsimp only
  repeat' first | with_reducible assumption | (intro _; try dsimp only) | with_reducible apply notExecuted_kept hregs hmgmt | with_reducible apply foldl_kept | with_reducible apply ite_kept | (fail_if_no_progress (with_reducible refine mk_kept ?_)) | split

theorem execSplitReadLow_kept (hregs : p ≠ .regs) (hmgmt : p ≠ .mgmt) (hfw : p ≠ .fw) (hfresh : p ≠ .fresh) {x1 x2 s t} (k : Kept p b s) (e : execSplitReadLow x1 x2 s = .next t) :
    Kept p b t := by
  unfold execSplitReadLow at e
  injection e with e
  subst e
  try dsimp only
  repeat' first | with_reducible assumption | (intro _; try dsimp only) | with_reducible apply readReg_kept hregs hmgmt hfw hfresh | with_reducible apply foldl_kept | with_reducible apply ite_kept | (fail_if_no_progress (with_reducible refine mk_kept ?_)) | split

theorem execSpiRequest_kept (hmode : p ≠ .mode) (hregs : p ≠ .regs) (htime : p ≠ .time) (hcut : p ≠ .cut) (hmgmt : p ≠ .mgmt) (hstartup : p ≠ .startup) (hcal : p ≠ .cal) (hrx : p ≠ .rx) (htx : p ≠ .tx) (hlk : p ≠ .lk) (haq : p ≠ .aq) (hadcs : p ≠ .adcs) (hsc : p ≠ .sc) (hmotionIn : p ≠ .motionIn) (hpairSt : p ≠ .pairSt) (hsf : p ≠ .sf) (hhk : p ≠ .hk) (hfw : p ≠ .fw) (hfresh : p ≠ .fresh) (hshadow : p ≠ .shadow) (haqMem : p ≠ .aqMem) (himage : p ≠ .image) (hpwd : p ≠ .pwd) (hkeys : p ≠ .keys) {x1 x2 x3 x4 s t} (k : Kept p b s) (e : execSpiRequest x1 x2 x3 x4 s = .next t) :
    Kept p b t := by
  unfold execSpiRequest at e
  injection e with e
  subst e
  try dsimp only
  repeat' first | with_reducible assumption | (intro _; try dsimp only) | with_reducible apply setSpi_kept hmgmt | with_reducible apply transact_kept hmode hregs htime hcut hmgmt hstartup hcal hrx htx hlk haq hadcs hsc hmotionIn hpairSt hsf hhk hfw hfresh hshadow haqMem himage hpwd hkeys | with_reducible apply notExecuted_kept hregs hmgmt | with_reducible apply bumpOvf_kept hregs hmgmt | with_reducible apply foldl_kept | with_reducible apply ite_kept | (fail_if_no_progress (with_reducible refine mk_kept ?_)) | split

theorem execSpiFrameStart_kept (hmgmt : p ≠ .mgmt) {s t} (k : Kept p b s) (e : execSpiFrameStart s = .next t) :
    Kept p b t := by
  unfold execSpiFrameStart at e
  injection e with e
  subst e
  try dsimp only
  repeat' first | with_reducible assumption | (intro _; try dsimp only) | with_reducible apply setSpi_kept hmgmt | with_reducible apply foldl_kept | with_reducible apply ite_kept | (fail_if_no_progress (with_reducible refine mk_kept ?_)) | split

theorem tickReset_kept (hmode : p ≠ .mode) (hregs : p ≠ .regs) (htime : p ≠ .time) (hcut : p ≠ .cut) (hmgmt : p ≠ .mgmt) (hstartup : p ≠ .startup) (hcal : p ≠ .cal) (hrx : p ≠ .rx) (htx : p ≠ .tx) (hlk : p ≠ .lk) (haq : p ≠ .aq) (hadcs : p ≠ .adcs) (hsc : p ≠ .sc) (hmotionIn : p ≠ .motionIn) (hpairSt : p ≠ .pairSt) (hsf : p ≠ .sf) (hhk : p ≠ .hk) (hfw : p ≠ .fw) (htbase : p ≠ .tbase) (hlive : p ≠ .live) (hshadow : p ≠ .shadow) (haqMem : p ≠ .aqMem) {s} (k : Kept p b s) :
    Kept p b (tickReset s) := by
  unfold tickReset
  try dsimp only
  repeat' first | with_reducible assumption | (intro _; try dsimp only) | with_reducible apply resetDevice_kept hmode hregs htime hcut hmgmt hstartup hcal hrx htx hlk haq hadcs hsc hmotionIn hpairSt hsf hhk hfw htbase hlive hshadow haqMem | with_reducible apply foldl_kept | with_reducible apply ite_kept | (fail_if_no_progress (with_reducible refine mk_kept ?_)) | split

theorem tickHours_kept (hmgmt : p ≠ .mgmt) {s} (k : Kept p b s) :
    Kept p b (tickHours s) := by
  unfold tickHours
  try dsimp only
  repeat' first | with_reducible assumption | (intro _; try dsimp only) | with_reducible apply countHours_kept hmgmt | with_reducible apply foldl_kept | with_reducible apply ite_kept | (fail_if_no_progress (with_reducible refine mk_kept ?_)) | split

theorem tickLoupe_kept (hregs : p ≠ .regs) (hmgmt : p ≠ .mgmt) {s} (k : Kept p b s) :
    Kept p b (tickLoupe s) := by
  unfold tickLoupe
  try dsimp only
  repeat' first | with_reducible assumption | (intro _; try dsimp only) | with_reducible apply loupeSource_kept hregs hmgmt | with_reducible apply foldl_kept | with_reducible apply ite_kept | (fail_if_no_progress (with_reducible refine mk_kept ?_)) | split

theorem tickOutputs_kept (hregs : p ≠ .regs) (hmgmt : p ≠ .mgmt) (hrx : p ≠ .rx) (hlk : p ≠ .lk) {s} (k : Kept p b s) :
    Kept p b (tickOutputs s) := by
  unfold tickOutputs
  try dsimp only
  repeat' first | with_reducible assumption | (intro _; try dsimp only) | with_reducible apply serveOutput_kept hregs hmgmt hrx hlk | with_reducible apply forUp_kept | with_reducible apply foldl_kept | with_reducible apply ite_kept | (fail_if_no_progress (with_reducible refine mk_kept ?_)) | split

theorem tick_kept (hmode : p ≠ .mode) (hregs : p ≠ .regs) (htime : p ≠ .time) (hcut : p ≠ .cut) (hmgmt : p ≠ .mgmt) (hstartup : p ≠ .startup) (hcal : p ≠ .cal) (hrx : p ≠ .rx) (htx : p ≠ .tx) (hlk : p ≠ .lk) (haq : p ≠ .aq) (hadcs : p ≠ .adcs) (hsc : p ≠ .sc) (hmotionIn : p ≠ .motionIn) (hpairSt : p ≠ .pairSt) (hsf : p ≠ .sf) (hhk : p ≠ .hk) (hfw : p ≠ .fw) (hfresh : p ≠ .fresh) (htbase : p ≠ .tbase) (hlive : p ≠ .live) (hshadow : p ≠ .shadow) (haqMem : p ≠ .aqMem) {s} (k : Kept p b s) :
    Kept p b (tick s) := by
  unfold tick
  try dsimp only
  repeat' first | with_reducible assumption | (intro _; try dsimp only) | with_reducible apply tickHours_kept hmgmt | with_reducible apply latchDue_kept hregs hmgmt hfresh | with_reducible apply tickLanes_kept hregs hmgmt hlk haq | with_reducible apply noteMirror_kept hlk | with_reducible apply tickReset_kept hmode hregs htime hcut hmgmt hstartup hcal hrx htx hlk haq hadcs hsc hmotionIn hpairSt hsf hhk hfw htbase hlive hshadow haqMem | with_reducible apply tickLoupe_kept hregs hmgmt | with_reducible apply tickOutputs_kept hregs hmgmt hrx hlk | with_reducible apply foldl_kept | with_reducible apply ite_kept | (fail_if_no_progress (with_reducible refine mk_kept ?_)) | split

end Sys2Proof.Machine
end

