-- ==== Sys2Proof/Laws/State.lean ====
section
/-!
SUPPORT. One lemma per field for each update of the state, and what each accessor gives after the update that goes with it.
-/
namespace Sys2Proof.Machine

set_option Elab.async false

variable {s : State}

@[simp] theorem setReg_pending {a v} : (setReg a v s).pending = s.pending := rfl
@[simp] theorem setReg_mode {a v} : (setReg a v s).mode = s.mode := rfl
@[simp] theorem setReg_time {a v} : (setReg a v s).time = s.time := rfl
@[simp] theorem setReg_cut {a v} : (setReg a v s).cut = s.cut := rfl
@[simp] theorem setReg_mgmt {a v} : (setReg a v s).mgmt = s.mgmt := rfl
@[simp] theorem setReg_startup {a v} : (setReg a v s).startup = s.startup := rfl
@[simp] theorem setReg_cal {a v} : (setReg a v s).cal = s.cal := rfl
@[simp] theorem setReg_rx {a v} : (setReg a v s).rx = s.rx := rfl
@[simp] theorem setReg_tx {a v} : (setReg a v s).tx = s.tx := rfl
@[simp] theorem setReg_lk {a v} : (setReg a v s).lk = s.lk := rfl
@[simp] theorem setReg_aq {a v} : (setReg a v s).aq = s.aq := rfl
@[simp] theorem setReg_adcs {a v} : (setReg a v s).adcs = s.adcs := rfl
@[simp] theorem setReg_sc {a v} : (setReg a v s).sc = s.sc := rfl
@[simp] theorem setReg_motionIn {a v} : (setReg a v s).motionIn = s.motionIn := rfl
@[simp] theorem setReg_supplyIn {a v} : (setReg a v s).supplyIn = s.supplyIn := rfl
@[simp] theorem setReg_testIn {a v} : (setReg a v s).testIn = s.testIn := rfl
@[simp] theorem setReg_pairSt {a v} : (setReg a v s).pairSt = s.pairSt := rfl
@[simp] theorem setReg_sf {a v} : (setReg a v s).sf = s.sf := rfl
@[simp] theorem setReg_hk {a v} : (setReg a v s).hk = s.hk := rfl
@[simp] theorem setReg_fw {a v} : (setReg a v s).fw = s.fw := rfl
@[simp] theorem setReg_tap {a v} : (setReg a v s).tap = s.tap := rfl
@[simp] theorem setReg_fresh {a v} : (setReg a v s).fresh = s.fresh := rfl

@[simp] theorem fset_pending {a f v} : (fset a f v s).pending = s.pending := rfl
@[simp] theorem fset_mode {a f v} : (fset a f v s).mode = s.mode := rfl
@[simp] theorem fset_time {a f v} : (fset a f v s).time = s.time := rfl
@[simp] theorem fset_cut {a f v} : (fset a f v s).cut = s.cut := rfl
@[simp] theorem fset_mgmt {a f v} : (fset a f v s).mgmt = s.mgmt := rfl
@[simp] theorem fset_startup {a f v} : (fset a f v s).startup = s.startup := rfl
@[simp] theorem fset_cal {a f v} : (fset a f v s).cal = s.cal := rfl
@[simp] theorem fset_rx {a f v} : (fset a f v s).rx = s.rx := rfl
@[simp] theorem fset_tx {a f v} : (fset a f v s).tx = s.tx := rfl
@[simp] theorem fset_lk {a f v} : (fset a f v s).lk = s.lk := rfl
@[simp] theorem fset_aq {a f v} : (fset a f v s).aq = s.aq := rfl
@[simp] theorem fset_adcs {a f v} : (fset a f v s).adcs = s.adcs := rfl
@[simp] theorem fset_sc {a f v} : (fset a f v s).sc = s.sc := rfl
@[simp] theorem fset_motionIn {a f v} : (fset a f v s).motionIn = s.motionIn := rfl
@[simp] theorem fset_supplyIn {a f v} : (fset a f v s).supplyIn = s.supplyIn := rfl
@[simp] theorem fset_testIn {a f v} : (fset a f v s).testIn = s.testIn := rfl
@[simp] theorem fset_pairSt {a f v} : (fset a f v s).pairSt = s.pairSt := rfl
@[simp] theorem fset_sf {a f v} : (fset a f v s).sf = s.sf := rfl
@[simp] theorem fset_hk {a f v} : (fset a f v s).hk = s.hk := rfl
@[simp] theorem fset_fw {a f v} : (fset a f v s).fw = s.fw := rfl
@[simp] theorem fset_tap {a f v} : (fset a f v s).tap = s.tap := rfl
@[simp] theorem fset_fresh {a f v} : (fset a f v s).fresh = s.fresh := rfl

@[simp] theorem fsets_pending {a l} : (fsets a l s).pending = s.pending := rfl
@[simp] theorem fsets_mode {a l} : (fsets a l s).mode = s.mode := rfl
@[simp] theorem fsets_time {a l} : (fsets a l s).time = s.time := rfl
@[simp] theorem fsets_cut {a l} : (fsets a l s).cut = s.cut := rfl
@[simp] theorem fsets_mgmt {a l} : (fsets a l s).mgmt = s.mgmt := rfl
@[simp] theorem fsets_startup {a l} : (fsets a l s).startup = s.startup := rfl
@[simp] theorem fsets_cal {a l} : (fsets a l s).cal = s.cal := rfl
@[simp] theorem fsets_rx {a l} : (fsets a l s).rx = s.rx := rfl
@[simp] theorem fsets_tx {a l} : (fsets a l s).tx = s.tx := rfl
@[simp] theorem fsets_lk {a l} : (fsets a l s).lk = s.lk := rfl
@[simp] theorem fsets_aq {a l} : (fsets a l s).aq = s.aq := rfl
@[simp] theorem fsets_adcs {a l} : (fsets a l s).adcs = s.adcs := rfl
@[simp] theorem fsets_sc {a l} : (fsets a l s).sc = s.sc := rfl
@[simp] theorem fsets_motionIn {a l} : (fsets a l s).motionIn = s.motionIn := rfl
@[simp] theorem fsets_supplyIn {a l} : (fsets a l s).supplyIn = s.supplyIn := rfl
@[simp] theorem fsets_testIn {a l} : (fsets a l s).testIn = s.testIn := rfl
@[simp] theorem fsets_pairSt {a l} : (fsets a l s).pairSt = s.pairSt := rfl
@[simp] theorem fsets_sf {a l} : (fsets a l s).sf = s.sf := rfl
@[simp] theorem fsets_hk {a l} : (fsets a l s).hk = s.hk := rfl
@[simp] theorem fsets_fw {a l} : (fsets a l s).fw = s.fw := rfl
@[simp] theorem fsets_tap {a l} : (fsets a l s).tap = s.tap := rfl
@[simp] theorem fsets_fresh {a l} : (fsets a l s).fresh = s.fresh := rfl

@[simp] theorem setReg64_pending {a v} : (setReg64 a v s).pending = s.pending := rfl
@[simp] theorem setReg64_mode {a v} : (setReg64 a v s).mode = s.mode := rfl
@[simp] theorem setReg64_time {a v} : (setReg64 a v s).time = s.time := rfl
@[simp] theorem setReg64_cut {a v} : (setReg64 a v s).cut = s.cut := rfl
@[simp] theorem setReg64_mgmt {a v} : (setReg64 a v s).mgmt = s.mgmt := rfl
@[simp] theorem setReg64_startup {a v} : (setReg64 a v s).startup = s.startup := rfl
@[simp] theorem setReg64_cal {a v} : (setReg64 a v s).cal = s.cal := rfl
@[simp] theorem setReg64_rx {a v} : (setReg64 a v s).rx = s.rx := rfl
@[simp] theorem setReg64_tx {a v} : (setReg64 a v s).tx = s.tx := rfl
@[simp] theorem setReg64_lk {a v} : (setReg64 a v s).lk = s.lk := rfl
@[simp] theorem setReg64_aq {a v} : (setReg64 a v s).aq = s.aq := rfl
@[simp] theorem setReg64_adcs {a v} : (setReg64 a v s).adcs = s.adcs := rfl
@[simp] theorem setReg64_sc {a v} : (setReg64 a v s).sc = s.sc := rfl
@[simp] theorem setReg64_motionIn {a v} : (setReg64 a v s).motionIn = s.motionIn := rfl
@[simp] theorem setReg64_supplyIn {a v} : (setReg64 a v s).supplyIn = s.supplyIn := rfl
@[simp] theorem setReg64_testIn {a v} : (setReg64 a v s).testIn = s.testIn := rfl
@[simp] theorem setReg64_pairSt {a v} : (setReg64 a v s).pairSt = s.pairSt := rfl
@[simp] theorem setReg64_sf {a v} : (setReg64 a v s).sf = s.sf := rfl
@[simp] theorem setReg64_hk {a v} : (setReg64 a v s).hk = s.hk := rfl
@[simp] theorem setReg64_fw {a v} : (setReg64 a v s).fw = s.fw := rfl
@[simp] theorem setReg64_tap {a v} : (setReg64 a v s).tap = s.tap := rfl
@[simp] theorem setReg64_fresh {a v} : (setReg64 a v s).fresh = s.fresh := rfl

@[simp] theorem setReq_pending {q x} : (setReq q x s).pending = s.pending := rfl
@[simp] theorem setReq_mode {q x} : (setReq q x s).mode = s.mode := rfl
@[simp] theorem setReq_regs {q x} : (setReq q x s).regs = s.regs := rfl
@[simp] theorem setReq_time {q x} : (setReq q x s).time = s.time := rfl
@[simp] theorem setReq_cut {q x} : (setReq q x s).cut = s.cut := rfl
@[simp] theorem setReq_startup {q x} : (setReq q x s).startup = s.startup := rfl
@[simp] theorem setReq_cal {q x} : (setReq q x s).cal = s.cal := rfl
@[simp] theorem setReq_rx {q x} : (setReq q x s).rx = s.rx := rfl
@[simp] theorem setReq_tx {q x} : (setReq q x s).tx = s.tx := rfl
@[simp] theorem setReq_lk {q x} : (setReq q x s).lk = s.lk := rfl
@[simp] theorem setReq_aq {q x} : (setReq q x s).aq = s.aq := rfl
@[simp] theorem setReq_adcs {q x} : (setReq q x s).adcs = s.adcs := rfl
@[simp] theorem setReq_sc {q x} : (setReq q x s).sc = s.sc := rfl
@[simp] theorem setReq_motionIn {q x} : (setReq q x s).motionIn = s.motionIn := rfl
@[simp] theorem setReq_supplyIn {q x} : (setReq q x s).supplyIn = s.supplyIn := rfl
@[simp] theorem setReq_testIn {q x} : (setReq q x s).testIn = s.testIn := rfl
@[simp] theorem setReq_pairSt {q x} : (setReq q x s).pairSt = s.pairSt := rfl
@[simp] theorem setReq_sf {q x} : (setReq q x s).sf = s.sf := rfl
@[simp] theorem setReq_hk {q x} : (setReq q x s).hk = s.hk := rfl
@[simp] theorem setReq_fw {q x} : (setReq q x s).fw = s.fw := rfl
@[simp] theorem setReq_tap {q x} : (setReq q x s).tap = s.tap := rfl
@[simp] theorem setReq_fresh {q x} : (setReq q x s).fresh = s.fresh := rfl
@[simp] theorem setReq_reg {q x} {r : Nat} : (setReq q x s).reg r = s.reg r := rfl

@[simp] theorem setRecorder_pending {r x} : (setRecorder r x s).pending = s.pending := rfl
@[simp] theorem setRecorder_mode {r x} : (setRecorder r x s).mode = s.mode := rfl
@[simp] theorem setRecorder_reg {i x} {r : Nat} : (setRecorder i x s).reg r = s.reg r := rfl
@[simp] theorem setRecorder_time {r x} : (setRecorder r x s).time = s.time := rfl
@[simp] theorem setRecorder_cut {r x} : (setRecorder r x s).cut = s.cut := rfl
@[simp] theorem setRecorder_startup {r x} : (setRecorder r x s).startup = s.startup := rfl
@[simp] theorem setRecorder_cal {r x} : (setRecorder r x s).cal = s.cal := rfl
@[simp] theorem setRecorder_rx {r x} : (setRecorder r x s).rx = s.rx := rfl
@[simp] theorem setRecorder_tx {r x} : (setRecorder r x s).tx = s.tx := rfl
@[simp] theorem setRecorder_lk {r x} : (setRecorder r x s).lk = s.lk := rfl
@[simp] theorem setRecorder_aq {r x} : (setRecorder r x s).aq = s.aq := rfl
@[simp] theorem setRecorder_adcs {r x} : (setRecorder r x s).adcs = s.adcs := rfl
@[simp] theorem setRecorder_sc {r x} : (setRecorder r x s).sc = s.sc := rfl
@[simp] theorem setRecorder_motionIn {r x} : (setRecorder r x s).motionIn = s.motionIn := rfl
@[simp] theorem setRecorder_supplyIn {r x} : (setRecorder r x s).supplyIn = s.supplyIn := rfl
@[simp] theorem setRecorder_testIn {r x} : (setRecorder r x s).testIn = s.testIn := rfl
@[simp] theorem setRecorder_pairSt {r x} : (setRecorder r x s).pairSt = s.pairSt := rfl
@[simp] theorem setRecorder_sf {r x} : (setRecorder r x s).sf = s.sf := rfl
@[simp] theorem setRecorder_hk {r x} : (setRecorder r x s).hk = s.hk := rfl
@[simp] theorem setRecorder_fw {r x} : (setRecorder r x s).fw = s.fw := rfl
@[simp] theorem setRecorder_tap {r x} : (setRecorder r x s).tap = s.tap := rfl
@[simp] theorem setRecorder_fresh {r x} : (setRecorder r x s).fresh = s.fresh := rfl

@[simp] theorem setChip_pending {c} : (setChip c s).pending = s.pending := rfl
@[simp] theorem setChip_mode {c} : (setChip c s).mode = s.mode := rfl
@[simp] theorem setChip_regs {c} : (setChip c s).regs = s.regs := rfl
@[simp] theorem setChip_time {c} : (setChip c s).time = s.time := rfl
@[simp] theorem setChip_cut {c} : (setChip c s).cut = s.cut := rfl
@[simp] theorem setChip_startup {c} : (setChip c s).startup = s.startup := rfl
@[simp] theorem setChip_cal {c} : (setChip c s).cal = s.cal := rfl
@[simp] theorem setChip_rx {c} : (setChip c s).rx = s.rx := rfl
@[simp] theorem setChip_tx {c} : (setChip c s).tx = s.tx := rfl
@[simp] theorem setChip_lk {c} : (setChip c s).lk = s.lk := rfl
@[simp] theorem setChip_aq {c} : (setChip c s).aq = s.aq := rfl
@[simp] theorem setChip_adcs {c} : (setChip c s).adcs = s.adcs := rfl
@[simp] theorem setChip_sc {c} : (setChip c s).sc = s.sc := rfl
@[simp] theorem setChip_motionIn {c} : (setChip c s).motionIn = s.motionIn := rfl
@[simp] theorem setChip_supplyIn {c} : (setChip c s).supplyIn = s.supplyIn := rfl
@[simp] theorem setChip_testIn {c} : (setChip c s).testIn = s.testIn := rfl
@[simp] theorem setChip_pairSt {c} : (setChip c s).pairSt = s.pairSt := rfl
@[simp] theorem setChip_sf {c} : (setChip c s).sf = s.sf := rfl
@[simp] theorem setChip_hk {c} : (setChip c s).hk = s.hk := rfl
@[simp] theorem setChip_fw {c} : (setChip c s).fw = s.fw := rfl
@[simp] theorem setChip_tap {c} : (setChip c s).tap = s.tap := rfl
@[simp] theorem setChip_fresh {c} : (setChip c s).fresh = s.fresh := rfl
@[simp] theorem setChip_reg {c} {r : Nat} : (setChip c s).reg r = s.reg r := rfl

@[simp] theorem setSpi_pending {x} : (setSpi x s).pending = s.pending := rfl
@[simp] theorem setSpi_mode {x} : (setSpi x s).mode = s.mode := rfl
@[simp] theorem setSpi_regs {x} : (setSpi x s).regs = s.regs := rfl
@[simp] theorem setSpi_time {x} : (setSpi x s).time = s.time := rfl
@[simp] theorem setSpi_cut {x} : (setSpi x s).cut = s.cut := rfl
@[simp] theorem setSpi_startup {x} : (setSpi x s).startup = s.startup := rfl
@[simp] theorem setSpi_cal {x} : (setSpi x s).cal = s.cal := rfl
@[simp] theorem setSpi_rx {x} : (setSpi x s).rx = s.rx := rfl
@[simp] theorem setSpi_tx {x} : (setSpi x s).tx = s.tx := rfl
@[simp] theorem setSpi_lk {x} : (setSpi x s).lk = s.lk := rfl
@[simp] theorem setSpi_aq {x} : (setSpi x s).aq = s.aq := rfl
@[simp] theorem setSpi_adcs {x} : (setSpi x s).adcs = s.adcs := rfl
@[simp] theorem setSpi_sc {x} : (setSpi x s).sc = s.sc := rfl
@[simp] theorem setSpi_motionIn {x} : (setSpi x s).motionIn = s.motionIn := rfl
@[simp] theorem setSpi_supplyIn {x} : (setSpi x s).supplyIn = s.supplyIn := rfl
@[simp] theorem setSpi_testIn {x} : (setSpi x s).testIn = s.testIn := rfl
@[simp] theorem setSpi_pairSt {x} : (setSpi x s).pairSt = s.pairSt := rfl
@[simp] theorem setSpi_sf {x} : (setSpi x s).sf = s.sf := rfl
@[simp] theorem setSpi_hk {x} : (setSpi x s).hk = s.hk := rfl
@[simp] theorem setSpi_fw {x} : (setSpi x s).fw = s.fw := rfl
@[simp] theorem setSpi_tap {x} : (setSpi x s).tap = s.tap := rfl
@[simp] theorem setSpi_fresh {x} : (setSpi x s).fresh = s.fresh := rfl
@[simp] theorem setSpi_reg {x} {r : Nat} : (setSpi x s).reg r = s.reg r := rfl

@[simp] theorem setBlk_pending {k x} : (setBlk k x s).pending = s.pending := rfl
@[simp] theorem setBlk_mode {k x} : (setBlk k x s).mode = s.mode := rfl
@[simp] theorem setBlk_regs {k x} : (setBlk k x s).regs = s.regs := rfl
@[simp] theorem setBlk_time {k x} : (setBlk k x s).time = s.time := rfl
@[simp] theorem setBlk_cut {k x} : (setBlk k x s).cut = s.cut := rfl
@[simp] theorem setBlk_mgmt {k x} : (setBlk k x s).mgmt = s.mgmt := rfl
@[simp] theorem setBlk_startup {k x} : (setBlk k x s).startup = s.startup := rfl
@[simp] theorem setBlk_cal {k x} : (setBlk k x s).cal = s.cal := rfl
@[simp] theorem setBlk_tx {k x} : (setBlk k x s).tx = s.tx := rfl
@[simp] theorem setBlk_lk {k x} : (setBlk k x s).lk = s.lk := rfl
@[simp] theorem setBlk_aq {k x} : (setBlk k x s).aq = s.aq := rfl
@[simp] theorem setBlk_adcs {k x} : (setBlk k x s).adcs = s.adcs := rfl
@[simp] theorem setBlk_sc {k x} : (setBlk k x s).sc = s.sc := rfl
@[simp] theorem setBlk_motionIn {k x} : (setBlk k x s).motionIn = s.motionIn := rfl
@[simp] theorem setBlk_supplyIn {k x} : (setBlk k x s).supplyIn = s.supplyIn := rfl
@[simp] theorem setBlk_testIn {k x} : (setBlk k x s).testIn = s.testIn := rfl
@[simp] theorem setBlk_pairSt {k x} : (setBlk k x s).pairSt = s.pairSt := rfl
@[simp] theorem setBlk_sf {k x} : (setBlk k x s).sf = s.sf := rfl
@[simp] theorem setBlk_hk {k x} : (setBlk k x s).hk = s.hk := rfl
@[simp] theorem setBlk_fw {k x} : (setBlk k x s).fw = s.fw := rfl
@[simp] theorem setBlk_tap {k x} : (setBlk k x s).tap = s.tap := rfl
@[simp] theorem setBlk_fresh {k x} : (setBlk k x s).fresh = s.fresh := rfl
@[simp] theorem setBlk_reg {k x} {r : Nat} : (setBlk k x s).reg r = s.reg r := rfl

@[simp] theorem setCell_pending {c x} : (setCell c x s).pending = s.pending := rfl
@[simp] theorem setCell_mode {c x} : (setCell c x s).mode = s.mode := rfl
@[simp] theorem setCell_regs {c x} : (setCell c x s).regs = s.regs := rfl
@[simp] theorem setCell_time {c x} : (setCell c x s).time = s.time := rfl
@[simp] theorem setCell_cut {c x} : (setCell c x s).cut = s.cut := rfl
@[simp] theorem setCell_mgmt {c x} : (setCell c x s).mgmt = s.mgmt := rfl
@[simp] theorem setCell_startup {c x} : (setCell c x s).startup = s.startup := rfl
@[simp] theorem setCell_cal {c x} : (setCell c x s).cal = s.cal := rfl
@[simp] theorem setCell_tx {c x} : (setCell c x s).tx = s.tx := rfl
@[simp] theorem setCell_lk {c x} : (setCell c x s).lk = s.lk := rfl
@[simp] theorem setCell_aq {c x} : (setCell c x s).aq = s.aq := rfl
@[simp] theorem setCell_adcs {c x} : (setCell c x s).adcs = s.adcs := rfl
@[simp] theorem setCell_sc {c x} : (setCell c x s).sc = s.sc := rfl
@[simp] theorem setCell_motionIn {c x} : (setCell c x s).motionIn = s.motionIn := rfl
@[simp] theorem setCell_supplyIn {c x} : (setCell c x s).supplyIn = s.supplyIn := rfl
@[simp] theorem setCell_testIn {c x} : (setCell c x s).testIn = s.testIn := rfl
@[simp] theorem setCell_pairSt {c x} : (setCell c x s).pairSt = s.pairSt := rfl
@[simp] theorem setCell_sf {c x} : (setCell c x s).sf = s.sf := rfl
@[simp] theorem setCell_hk {c x} : (setCell c x s).hk = s.hk := rfl
@[simp] theorem setCell_fw {c x} : (setCell c x s).fw = s.fw := rfl
@[simp] theorem setCell_tap {c x} : (setCell c x s).tap = s.tap := rfl
@[simp] theorem setCell_fresh {c x} : (setCell c x s).fresh = s.fresh := rfl
@[simp] theorem setCell_reg {c x} {r : Nat} : (setCell c x s).reg r = s.reg r := rfl

@[simp] theorem setGate_pending {n i w} : (setGate n i w s).pending = s.pending := rfl
@[simp] theorem setGate_mode {n i w} : (setGate n i w s).mode = s.mode := rfl
@[simp] theorem setGate_regs {n i w} : (setGate n i w s).regs = s.regs := rfl
@[simp] theorem setGate_time {n i w} : (setGate n i w s).time = s.time := rfl
@[simp] theorem setGate_cut {n i w} : (setGate n i w s).cut = s.cut := rfl
@[simp] theorem setGate_mgmt {n i w} : (setGate n i w s).mgmt = s.mgmt := rfl
@[simp] theorem setGate_startup {n i w} : (setGate n i w s).startup = s.startup := rfl
@[simp] theorem setGate_cal {n i w} : (setGate n i w s).cal = s.cal := rfl
@[simp] theorem setGate_tx {n i w} : (setGate n i w s).tx = s.tx := rfl
@[simp] theorem setGate_lk {n i w} : (setGate n i w s).lk = s.lk := rfl
@[simp] theorem setGate_aq {n i w} : (setGate n i w s).aq = s.aq := rfl
@[simp] theorem setGate_adcs {n i w} : (setGate n i w s).adcs = s.adcs := rfl
@[simp] theorem setGate_sc {n i w} : (setGate n i w s).sc = s.sc := rfl
@[simp] theorem setGate_motionIn {n i w} : (setGate n i w s).motionIn = s.motionIn := rfl
@[simp] theorem setGate_supplyIn {n i w} : (setGate n i w s).supplyIn = s.supplyIn := rfl
@[simp] theorem setGate_testIn {n i w} : (setGate n i w s).testIn = s.testIn := rfl
@[simp] theorem setGate_pairSt {n i w} : (setGate n i w s).pairSt = s.pairSt := rfl
@[simp] theorem setGate_sf {n i w} : (setGate n i w s).sf = s.sf := rfl
@[simp] theorem setGate_hk {n i w} : (setGate n i w s).hk = s.hk := rfl
@[simp] theorem setGate_fw {n i w} : (setGate n i w s).fw = s.fw := rfl
@[simp] theorem setGate_tap {n i w} : (setGate n i w s).tap = s.tap := rfl
@[simp] theorem setGate_fresh {n i w} : (setGate n i w s).fresh = s.fresh := rfl
@[simp] theorem setGate_reg {n i w} {r : Nat} : (setGate n i w s).reg r = s.reg r := rfl

@[simp] theorem setEvidence_pending {n i e} : (setEvidence n i e s).pending = s.pending := rfl
@[simp] theorem setEvidence_mode {n i e} : (setEvidence n i e s).mode = s.mode := rfl
@[simp] theorem setEvidence_regs {n i e} : (setEvidence n i e s).regs = s.regs := rfl
@[simp] theorem setEvidence_time {n i e} : (setEvidence n i e s).time = s.time := rfl
@[simp] theorem setEvidence_cut {n i e} : (setEvidence n i e s).cut = s.cut := rfl
@[simp] theorem setEvidence_mgmt {n i e} : (setEvidence n i e s).mgmt = s.mgmt := rfl
@[simp] theorem setEvidence_startup {n i e} : (setEvidence n i e s).startup = s.startup := rfl
@[simp] theorem setEvidence_cal {n i e} : (setEvidence n i e s).cal = s.cal := rfl
@[simp] theorem setEvidence_tx {n i e} : (setEvidence n i e s).tx = s.tx := rfl
@[simp] theorem setEvidence_lk {n i e} : (setEvidence n i e s).lk = s.lk := rfl
@[simp] theorem setEvidence_aq {n i e} : (setEvidence n i e s).aq = s.aq := rfl
@[simp] theorem setEvidence_adcs {n i e} : (setEvidence n i e s).adcs = s.adcs := rfl
@[simp] theorem setEvidence_sc {n i e} : (setEvidence n i e s).sc = s.sc := rfl
@[simp] theorem setEvidence_motionIn {n i e} : (setEvidence n i e s).motionIn = s.motionIn := rfl
@[simp] theorem setEvidence_supplyIn {n i e} : (setEvidence n i e s).supplyIn = s.supplyIn := rfl
@[simp] theorem setEvidence_testIn {n i e} : (setEvidence n i e s).testIn = s.testIn := rfl
@[simp] theorem setEvidence_pairSt {n i e} : (setEvidence n i e s).pairSt = s.pairSt := rfl
@[simp] theorem setEvidence_sf {n i e} : (setEvidence n i e s).sf = s.sf := rfl
@[simp] theorem setEvidence_hk {n i e} : (setEvidence n i e s).hk = s.hk := rfl
@[simp] theorem setEvidence_fw {n i e} : (setEvidence n i e s).fw = s.fw := rfl
@[simp] theorem setEvidence_tap {n i e} : (setEvidence n i e s).tap = s.tap := rfl
@[simp] theorem setEvidence_fresh {n i e} : (setEvidence n i e s).fresh = s.fresh := rfl
@[simp] theorem setEvidence_reg {n i e} {r : Nat} : (setEvidence n i e s).reg r = s.reg r := rfl


@[simp] theorem setPort_pending {p x} : (setPort p x s).pending = s.pending := rfl
@[simp] theorem setPort_mode {p x} : (setPort p x s).mode = s.mode := rfl
@[simp] theorem setPort_regs {p x} : (setPort p x s).regs = s.regs := rfl
@[simp] theorem setPort_time {p x} : (setPort p x s).time = s.time := rfl
@[simp] theorem setPort_cut {p x} : (setPort p x s).cut = s.cut := rfl
@[simp] theorem setPort_mgmt {p x} : (setPort p x s).mgmt = s.mgmt := rfl
@[simp] theorem setPort_startup {p x} : (setPort p x s).startup = s.startup := rfl
@[simp] theorem setPort_cal {p x} : (setPort p x s).cal = s.cal := rfl
@[simp] theorem setPort_rx {p x} : (setPort p x s).rx = s.rx := rfl
@[simp] theorem setPort_lk {p x} : (setPort p x s).lk = s.lk := rfl
@[simp] theorem setPort_aq {p x} : (setPort p x s).aq = s.aq := rfl
@[simp] theorem setPort_adcs {p x} : (setPort p x s).adcs = s.adcs := rfl
@[simp] theorem setPort_sc {p x} : (setPort p x s).sc = s.sc := rfl
@[simp] theorem setPort_motionIn {p x} : (setPort p x s).motionIn = s.motionIn := rfl
@[simp] theorem setPort_supplyIn {p x} : (setPort p x s).supplyIn = s.supplyIn := rfl
@[simp] theorem setPort_testIn {p x} : (setPort p x s).testIn = s.testIn := rfl
@[simp] theorem setPort_pairSt {p x} : (setPort p x s).pairSt = s.pairSt := rfl
@[simp] theorem setPort_sf {p x} : (setPort p x s).sf = s.sf := rfl
@[simp] theorem setPort_hk {p x} : (setPort p x s).hk = s.hk := rfl
@[simp] theorem setPort_fw {p x} : (setPort p x s).fw = s.fw := rfl
@[simp] theorem setPort_tap {p x} : (setPort p x s).tap = s.tap := rfl
@[simp] theorem setPort_fresh {p x} : (setPort p x s).fresh = s.fresh := rfl
@[simp] theorem setPort_reg {p x} {r : Nat} : (setPort p x s).reg r = s.reg r := rfl

@[simp] theorem setSeq_pending {q x} : (setSeq q x s).pending = s.pending := rfl
@[simp] theorem setSeq_mode {q x} : (setSeq q x s).mode = s.mode := rfl
@[simp] theorem setSeq_regs {q x} : (setSeq q x s).regs = s.regs := rfl
@[simp] theorem setSeq_time {q x} : (setSeq q x s).time = s.time := rfl
@[simp] theorem setSeq_cut {q x} : (setSeq q x s).cut = s.cut := rfl
@[simp] theorem setSeq_mgmt {q x} : (setSeq q x s).mgmt = s.mgmt := rfl
@[simp] theorem setSeq_startup {q x} : (setSeq q x s).startup = s.startup := rfl
@[simp] theorem setSeq_cal {q x} : (setSeq q x s).cal = s.cal := rfl
@[simp] theorem setSeq_rx {q x} : (setSeq q x s).rx = s.rx := rfl
@[simp] theorem setSeq_lk {q x} : (setSeq q x s).lk = s.lk := rfl
@[simp] theorem setSeq_aq {q x} : (setSeq q x s).aq = s.aq := rfl
@[simp] theorem setSeq_adcs {q x} : (setSeq q x s).adcs = s.adcs := rfl
@[simp] theorem setSeq_sc {q x} : (setSeq q x s).sc = s.sc := rfl
@[simp] theorem setSeq_motionIn {q x} : (setSeq q x s).motionIn = s.motionIn := rfl
@[simp] theorem setSeq_supplyIn {q x} : (setSeq q x s).supplyIn = s.supplyIn := rfl
@[simp] theorem setSeq_testIn {q x} : (setSeq q x s).testIn = s.testIn := rfl
@[simp] theorem setSeq_pairSt {q x} : (setSeq q x s).pairSt = s.pairSt := rfl
@[simp] theorem setSeq_sf {q x} : (setSeq q x s).sf = s.sf := rfl
@[simp] theorem setSeq_hk {q x} : (setSeq q x s).hk = s.hk := rfl
@[simp] theorem setSeq_fw {q x} : (setSeq q x s).fw = s.fw := rfl
@[simp] theorem setSeq_tap {q x} : (setSeq q x s).tap = s.tap := rfl
@[simp] theorem setSeq_fresh {q x} : (setSeq q x s).fresh = s.fresh := rfl
@[simp] theorem setSeq_reg {q x} {r : Nat} : (setSeq q x s).reg r = s.reg r := rfl

@[simp] theorem setLane_pending {l x} : (setLane l x s).pending = s.pending := rfl
@[simp] theorem setLane_mode {l x} : (setLane l x s).mode = s.mode := rfl
@[simp] theorem setLane_regs {l x} : (setLane l x s).regs = s.regs := rfl
@[simp] theorem setLane_time {l x} : (setLane l x s).time = s.time := rfl
@[simp] theorem setLane_cut {l x} : (setLane l x s).cut = s.cut := rfl
@[simp] theorem setLane_mgmt {l x} : (setLane l x s).mgmt = s.mgmt := rfl
@[simp] theorem setLane_startup {l x} : (setLane l x s).startup = s.startup := rfl
@[simp] theorem setLane_cal {l x} : (setLane l x s).cal = s.cal := rfl
@[simp] theorem setLane_rx {l x} : (setLane l x s).rx = s.rx := rfl
@[simp] theorem setLane_tx {l x} : (setLane l x s).tx = s.tx := rfl
@[simp] theorem setLane_aq {l x} : (setLane l x s).aq = s.aq := rfl
@[simp] theorem setLane_adcs {l x} : (setLane l x s).adcs = s.adcs := rfl
@[simp] theorem setLane_sc {l x} : (setLane l x s).sc = s.sc := rfl
@[simp] theorem setLane_motionIn {l x} : (setLane l x s).motionIn = s.motionIn := rfl
@[simp] theorem setLane_supplyIn {l x} : (setLane l x s).supplyIn = s.supplyIn := rfl
@[simp] theorem setLane_testIn {l x} : (setLane l x s).testIn = s.testIn := rfl
@[simp] theorem setLane_pairSt {l x} : (setLane l x s).pairSt = s.pairSt := rfl
@[simp] theorem setLane_sf {l x} : (setLane l x s).sf = s.sf := rfl
@[simp] theorem setLane_hk {l x} : (setLane l x s).hk = s.hk := rfl
@[simp] theorem setLane_fw {l x} : (setLane l x s).fw = s.fw := rfl
@[simp] theorem setLane_tap {l x} : (setLane l x s).tap = s.tap := rfl
@[simp] theorem setLane_fresh {l x} : (setLane l x s).fresh = s.fresh := rfl
@[simp] theorem setLane_reg {l x} {r : Nat} : (setLane l x s).reg r = s.reg r := rfl

@[simp] theorem setDropAcc_pending {i j x} : (setDropAcc i j x s).pending = s.pending := rfl
@[simp] theorem setDropAcc_mode {i j x} : (setDropAcc i j x s).mode = s.mode := rfl
@[simp] theorem setDropAcc_regs {i j x} : (setDropAcc i j x s).regs = s.regs := rfl
@[simp] theorem setDropAcc_time {i j x} : (setDropAcc i j x s).time = s.time := rfl
@[simp] theorem setDropAcc_cut {i j x} : (setDropAcc i j x s).cut = s.cut := rfl
@[simp] theorem setDropAcc_mgmt {i j x} : (setDropAcc i j x s).mgmt = s.mgmt := rfl
@[simp] theorem setDropAcc_startup {i j x} : (setDropAcc i j x s).startup = s.startup := rfl
@[simp] theorem setDropAcc_cal {i j x} : (setDropAcc i j x s).cal = s.cal := rfl
@[simp] theorem setDropAcc_rx {i j x} : (setDropAcc i j x s).rx = s.rx := rfl
@[simp] theorem setDropAcc_tx {i j x} : (setDropAcc i j x s).tx = s.tx := rfl
@[simp] theorem setDropAcc_aq {i j x} : (setDropAcc i j x s).aq = s.aq := rfl
@[simp] theorem setDropAcc_adcs {i j x} : (setDropAcc i j x s).adcs = s.adcs := rfl
@[simp] theorem setDropAcc_sc {i j x} : (setDropAcc i j x s).sc = s.sc := rfl
@[simp] theorem setDropAcc_motionIn {i j x} : (setDropAcc i j x s).motionIn = s.motionIn := rfl
@[simp] theorem setDropAcc_supplyIn {i j x} : (setDropAcc i j x s).supplyIn = s.supplyIn := rfl
@[simp] theorem setDropAcc_testIn {i j x} : (setDropAcc i j x s).testIn = s.testIn := rfl
@[simp] theorem setDropAcc_pairSt {i j x} : (setDropAcc i j x s).pairSt = s.pairSt := rfl
@[simp] theorem setDropAcc_sf {i j x} : (setDropAcc i j x s).sf = s.sf := rfl
@[simp] theorem setDropAcc_hk {i j x} : (setDropAcc i j x s).hk = s.hk := rfl
@[simp] theorem setDropAcc_fw {i j x} : (setDropAcc i j x s).fw = s.fw := rfl
@[simp] theorem setDropAcc_tap {i j x} : (setDropAcc i j x s).tap = s.tap := rfl
@[simp] theorem setDropAcc_fresh {i j x} : (setDropAcc i j x s).fresh = s.fresh := rfl
@[simp] theorem setDropAcc_reg {i j x} {r : Nat} : (setDropAcc i j x s).reg r = s.reg r := rfl

@[simp] theorem setAssembling_pending {k x} : (setAssembling k x s).pending = s.pending := rfl
@[simp] theorem setAssembling_mode {k x} : (setAssembling k x s).mode = s.mode := rfl
@[simp] theorem setAssembling_regs {k x} : (setAssembling k x s).regs = s.regs := rfl
@[simp] theorem setAssembling_time {k x} : (setAssembling k x s).time = s.time := rfl
@[simp] theorem setAssembling_cut {k x} : (setAssembling k x s).cut = s.cut := rfl
@[simp] theorem setAssembling_mgmt {k x} : (setAssembling k x s).mgmt = s.mgmt := rfl
@[simp] theorem setAssembling_startup {k x} : (setAssembling k x s).startup = s.startup := rfl
@[simp] theorem setAssembling_cal {k x} : (setAssembling k x s).cal = s.cal := rfl
@[simp] theorem setAssembling_rx {k x} : (setAssembling k x s).rx = s.rx := rfl
@[simp] theorem setAssembling_tx {k x} : (setAssembling k x s).tx = s.tx := rfl
@[simp] theorem setAssembling_aq {k x} : (setAssembling k x s).aq = s.aq := rfl
@[simp] theorem setAssembling_adcs {k x} : (setAssembling k x s).adcs = s.adcs := rfl
@[simp] theorem setAssembling_sc {k x} : (setAssembling k x s).sc = s.sc := rfl
@[simp] theorem setAssembling_motionIn {k x} : (setAssembling k x s).motionIn = s.motionIn := rfl
@[simp] theorem setAssembling_supplyIn {k x} : (setAssembling k x s).supplyIn = s.supplyIn := rfl
@[simp] theorem setAssembling_testIn {k x} : (setAssembling k x s).testIn = s.testIn := rfl
@[simp] theorem setAssembling_pairSt {k x} : (setAssembling k x s).pairSt = s.pairSt := rfl
@[simp] theorem setAssembling_sf {k x} : (setAssembling k x s).sf = s.sf := rfl
@[simp] theorem setAssembling_hk {k x} : (setAssembling k x s).hk = s.hk := rfl
@[simp] theorem setAssembling_fw {k x} : (setAssembling k x s).fw = s.fw := rfl
@[simp] theorem setAssembling_tap {k x} : (setAssembling k x s).tap = s.tap := rfl
@[simp] theorem setAssembling_fresh {k x} : (setAssembling k x s).fresh = s.fresh := rfl
@[simp] theorem setAssembling_reg {k x} {r : Nat} : (setAssembling k x s).reg r = s.reg r := rfl

@[simp] theorem setAdc_pending {k x} : (setAdc k x s).pending = s.pending := rfl
@[simp] theorem setAdc_mode {k x} : (setAdc k x s).mode = s.mode := rfl
@[simp] theorem setAdc_regs {k x} : (setAdc k x s).regs = s.regs := rfl
@[simp] theorem setAdc_time {k x} : (setAdc k x s).time = s.time := rfl
@[simp] theorem setAdc_cut {k x} : (setAdc k x s).cut = s.cut := rfl
@[simp] theorem setAdc_mgmt {k x} : (setAdc k x s).mgmt = s.mgmt := rfl
@[simp] theorem setAdc_startup {k x} : (setAdc k x s).startup = s.startup := rfl
@[simp] theorem setAdc_cal {k x} : (setAdc k x s).cal = s.cal := rfl
@[simp] theorem setAdc_rx {k x} : (setAdc k x s).rx = s.rx := rfl
@[simp] theorem setAdc_tx {k x} : (setAdc k x s).tx = s.tx := rfl
@[simp] theorem setAdc_lk {k x} : (setAdc k x s).lk = s.lk := rfl
@[simp] theorem setAdc_aq {k x} : (setAdc k x s).aq = s.aq := rfl
@[simp] theorem setAdc_sc {k x} : (setAdc k x s).sc = s.sc := rfl
@[simp] theorem setAdc_motionIn {k x} : (setAdc k x s).motionIn = s.motionIn := rfl
@[simp] theorem setAdc_supplyIn {k x} : (setAdc k x s).supplyIn = s.supplyIn := rfl
@[simp] theorem setAdc_testIn {k x} : (setAdc k x s).testIn = s.testIn := rfl
@[simp] theorem setAdc_pairSt {k x} : (setAdc k x s).pairSt = s.pairSt := rfl
@[simp] theorem setAdc_sf {k x} : (setAdc k x s).sf = s.sf := rfl
@[simp] theorem setAdc_hk {k x} : (setAdc k x s).hk = s.hk := rfl
@[simp] theorem setAdc_fw {k x} : (setAdc k x s).fw = s.fw := rfl
@[simp] theorem setAdc_tap {k x} : (setAdc k x s).tap = s.tap := rfl
@[simp] theorem setAdc_fresh {k x} : (setAdc k x s).fresh = s.fresh := rfl
@[simp] theorem setAdc_reg {k x} {r : Nat} : (setAdc k x s).reg r = s.reg r := rfl

@[simp] theorem setLoop_pending {l x} : (setLoop l x s).pending = s.pending := rfl
@[simp] theorem setLoop_mode {l x} : (setLoop l x s).mode = s.mode := rfl
@[simp] theorem setLoop_regs {l x} : (setLoop l x s).regs = s.regs := rfl
@[simp] theorem setLoop_time {l x} : (setLoop l x s).time = s.time := rfl
@[simp] theorem setLoop_cut {l x} : (setLoop l x s).cut = s.cut := rfl
@[simp] theorem setLoop_mgmt {l x} : (setLoop l x s).mgmt = s.mgmt := rfl
@[simp] theorem setLoop_startup {l x} : (setLoop l x s).startup = s.startup := rfl
@[simp] theorem setLoop_cal {l x} : (setLoop l x s).cal = s.cal := rfl
@[simp] theorem setLoop_rx {l x} : (setLoop l x s).rx = s.rx := rfl
@[simp] theorem setLoop_tx {l x} : (setLoop l x s).tx = s.tx := rfl
@[simp] theorem setLoop_lk {l x} : (setLoop l x s).lk = s.lk := rfl
@[simp] theorem setLoop_aq {l x} : (setLoop l x s).aq = s.aq := rfl
@[simp] theorem setLoop_adcs {l x} : (setLoop l x s).adcs = s.adcs := rfl
@[simp] theorem setLoop_motionIn {l x} : (setLoop l x s).motionIn = s.motionIn := rfl
@[simp] theorem setLoop_supplyIn {l x} : (setLoop l x s).supplyIn = s.supplyIn := rfl
@[simp] theorem setLoop_testIn {l x} : (setLoop l x s).testIn = s.testIn := rfl
@[simp] theorem setLoop_pairSt {l x} : (setLoop l x s).pairSt = s.pairSt := rfl
@[simp] theorem setLoop_sf {l x} : (setLoop l x s).sf = s.sf := rfl
@[simp] theorem setLoop_hk {l x} : (setLoop l x s).hk = s.hk := rfl
@[simp] theorem setLoop_fw {l x} : (setLoop l x s).fw = s.fw := rfl
@[simp] theorem setLoop_tap {l x} : (setLoop l x s).tap = s.tap := rfl
@[simp] theorem setLoop_fresh {l x} : (setLoop l x s).fresh = s.fresh := rfl
@[simp] theorem setLoop_reg {l x} {r : Nat} : (setLoop l x s).reg r = s.reg r := rfl

@[simp] theorem setAxis_pending {a x} : (setAxis a x s).pending = s.pending := rfl
@[simp] theorem setAxis_mode {a x} : (setAxis a x s).mode = s.mode := rfl
@[simp] theorem setAxis_regs {a x} : (setAxis a x s).regs = s.regs := rfl
@[simp] theorem setAxis_time {a x} : (setAxis a x s).time = s.time := rfl
@[simp] theorem setAxis_cut {a x} : (setAxis a x s).cut = s.cut := rfl
@[simp] theorem setAxis_mgmt {a x} : (setAxis a x s).mgmt = s.mgmt := rfl
@[simp] theorem setAxis_startup {a x} : (setAxis a x s).startup = s.startup := rfl
@[simp] theorem setAxis_cal {a x} : (setAxis a x s).cal = s.cal := rfl
@[simp] theorem setAxis_rx {a x} : (setAxis a x s).rx = s.rx := rfl
@[simp] theorem setAxis_tx {a x} : (setAxis a x s).tx = s.tx := rfl
@[simp] theorem setAxis_lk {a x} : (setAxis a x s).lk = s.lk := rfl
@[simp] theorem setAxis_aq {a x} : (setAxis a x s).aq = s.aq := rfl
@[simp] theorem setAxis_adcs {a x} : (setAxis a x s).adcs = s.adcs := rfl
@[simp] theorem setAxis_motionIn {a x} : (setAxis a x s).motionIn = s.motionIn := rfl
@[simp] theorem setAxis_supplyIn {a x} : (setAxis a x s).supplyIn = s.supplyIn := rfl
@[simp] theorem setAxis_testIn {a x} : (setAxis a x s).testIn = s.testIn := rfl
@[simp] theorem setAxis_pairSt {a x} : (setAxis a x s).pairSt = s.pairSt := rfl
@[simp] theorem setAxis_sf {a x} : (setAxis a x s).sf = s.sf := rfl
@[simp] theorem setAxis_hk {a x} : (setAxis a x s).hk = s.hk := rfl
@[simp] theorem setAxis_fw {a x} : (setAxis a x s).fw = s.fw := rfl
@[simp] theorem setAxis_tap {a x} : (setAxis a x s).tap = s.tap := rfl
@[simp] theorem setAxis_fresh {a x} : (setAxis a x s).fresh = s.fresh := rfl
@[simp] theorem setAxis_reg {a x} {r : Nat} : (setAxis a x s).reg r = s.reg r := rfl

@[simp] theorem setSeg_pending {g} : (setSeg g s).pending = s.pending := rfl
@[simp] theorem setSeg_mode {g} : (setSeg g s).mode = s.mode := rfl
@[simp] theorem setSeg_regs {g} : (setSeg g s).regs = s.regs := rfl
@[simp] theorem setSeg_time {g} : (setSeg g s).time = s.time := rfl
@[simp] theorem setSeg_cut {g} : (setSeg g s).cut = s.cut := rfl
@[simp] theorem setSeg_mgmt {g} : (setSeg g s).mgmt = s.mgmt := rfl
@[simp] theorem setSeg_startup {g} : (setSeg g s).startup = s.startup := rfl
@[simp] theorem setSeg_cal {g} : (setSeg g s).cal = s.cal := rfl
@[simp] theorem setSeg_rx {g} : (setSeg g s).rx = s.rx := rfl
@[simp] theorem setSeg_tx {g} : (setSeg g s).tx = s.tx := rfl
@[simp] theorem setSeg_lk {g} : (setSeg g s).lk = s.lk := rfl
@[simp] theorem setSeg_adcs {g} : (setSeg g s).adcs = s.adcs := rfl
@[simp] theorem setSeg_sc {g} : (setSeg g s).sc = s.sc := rfl
@[simp] theorem setSeg_motionIn {g} : (setSeg g s).motionIn = s.motionIn := rfl
@[simp] theorem setSeg_supplyIn {g} : (setSeg g s).supplyIn = s.supplyIn := rfl
@[simp] theorem setSeg_testIn {g} : (setSeg g s).testIn = s.testIn := rfl
@[simp] theorem setSeg_pairSt {g} : (setSeg g s).pairSt = s.pairSt := rfl
@[simp] theorem setSeg_sf {g} : (setSeg g s).sf = s.sf := rfl
@[simp] theorem setSeg_hk {g} : (setSeg g s).hk = s.hk := rfl
@[simp] theorem setSeg_fw {g} : (setSeg g s).fw = s.fw := rfl
@[simp] theorem setSeg_tap {g} : (setSeg g s).tap = s.tap := rfl
@[simp] theorem setSeg_fresh {g} : (setSeg g s).fresh = s.fresh := rfl
@[simp] theorem setSeg_reg {g} {r : Nat} : (setSeg g s).reg r = s.reg r := rfl

@[simp] theorem setFifo_pending {n l} : (setFifo n l s).pending = s.pending := rfl
@[simp] theorem setFifo_mode {n l} : (setFifo n l s).mode = s.mode := rfl
@[simp] theorem setFifo_regs {n l} : (setFifo n l s).regs = s.regs := rfl
@[simp] theorem setFifo_time {n l} : (setFifo n l s).time = s.time := rfl
@[simp] theorem setFifo_cut {n l} : (setFifo n l s).cut = s.cut := rfl
@[simp] theorem setFifo_mgmt {n l} : (setFifo n l s).mgmt = s.mgmt := rfl
@[simp] theorem setFifo_startup {n l} : (setFifo n l s).startup = s.startup := rfl
@[simp] theorem setFifo_cal {n l} : (setFifo n l s).cal = s.cal := rfl
@[simp] theorem setFifo_rx {n l} : (setFifo n l s).rx = s.rx := rfl
@[simp] theorem setFifo_tx {n l} : (setFifo n l s).tx = s.tx := rfl
@[simp] theorem setFifo_lk {n l} : (setFifo n l s).lk = s.lk := rfl
@[simp] theorem setFifo_adcs {n l} : (setFifo n l s).adcs = s.adcs := rfl
@[simp] theorem setFifo_sc {n l} : (setFifo n l s).sc = s.sc := rfl
@[simp] theorem setFifo_motionIn {n l} : (setFifo n l s).motionIn = s.motionIn := rfl
@[simp] theorem setFifo_supplyIn {n l} : (setFifo n l s).supplyIn = s.supplyIn := rfl
@[simp] theorem setFifo_testIn {n l} : (setFifo n l s).testIn = s.testIn := rfl
@[simp] theorem setFifo_pairSt {n l} : (setFifo n l s).pairSt = s.pairSt := rfl
@[simp] theorem setFifo_sf {n l} : (setFifo n l s).sf = s.sf := rfl
@[simp] theorem setFifo_hk {n l} : (setFifo n l s).hk = s.hk := rfl
@[simp] theorem setFifo_fw {n l} : (setFifo n l s).fw = s.fw := rfl
@[simp] theorem setFifo_tap {n l} : (setFifo n l s).tap = s.tap := rfl
@[simp] theorem setFifo_fresh {n l} : (setFifo n l s).fresh = s.fresh := rfl
@[simp] theorem setFifo_reg {n l} {r : Nat} : (setFifo n l s).reg r = s.reg r := rfl

@[simp] theorem setMaskRun_pending {i x} : (setMaskRun i x s).pending = s.pending := rfl
@[simp] theorem setMaskRun_mode {i x} : (setMaskRun i x s).mode = s.mode := rfl
@[simp] theorem setMaskRun_reg {i x} {r : Nat} : (setMaskRun i x s).reg r = s.reg r := rfl
@[simp] theorem setMaskRun_time {i x} : (setMaskRun i x s).time = s.time := rfl
@[simp] theorem setMaskRun_cut {i x} : (setMaskRun i x s).cut = s.cut := rfl
@[simp] theorem setMaskRun_mgmt {i x} : (setMaskRun i x s).mgmt = s.mgmt := rfl
@[simp] theorem setMaskRun_startup {i x} : (setMaskRun i x s).startup = s.startup := rfl
@[simp] theorem setMaskRun_cal {i x} : (setMaskRun i x s).cal = s.cal := rfl
@[simp] theorem setMaskRun_rx {i x} : (setMaskRun i x s).rx = s.rx := rfl
@[simp] theorem setMaskRun_tx {i x} : (setMaskRun i x s).tx = s.tx := rfl
@[simp] theorem setMaskRun_lk {i x} : (setMaskRun i x s).lk = s.lk := rfl
@[simp] theorem setMaskRun_adcs {i x} : (setMaskRun i x s).adcs = s.adcs := rfl
@[simp] theorem setMaskRun_sc {i x} : (setMaskRun i x s).sc = s.sc := rfl
@[simp] theorem setMaskRun_motionIn {i x} : (setMaskRun i x s).motionIn = s.motionIn := rfl
@[simp] theorem setMaskRun_supplyIn {i x} : (setMaskRun i x s).supplyIn = s.supplyIn := rfl
@[simp] theorem setMaskRun_testIn {i x} : (setMaskRun i x s).testIn = s.testIn := rfl
@[simp] theorem setMaskRun_pairSt {i x} : (setMaskRun i x s).pairSt = s.pairSt := rfl
@[simp] theorem setMaskRun_sf {i x} : (setMaskRun i x s).sf = s.sf := rfl
@[simp] theorem setMaskRun_hk {i x} : (setMaskRun i x s).hk = s.hk := rfl
@[simp] theorem setMaskRun_fw {i x} : (setMaskRun i x s).fw = s.fw := rfl
@[simp] theorem setMaskRun_tap {i x} : (setMaskRun i x s).tap = s.tap := rfl
@[simp] theorem setMaskRun_fresh {i x} : (setMaskRun i x s).fresh = s.fresh := rfl

@[simp] theorem putMem_pending {i w} : (putMem i w s).pending = s.pending := rfl
@[simp] theorem putMem_mode {i w} : (putMem i w s).mode = s.mode := rfl
@[simp] theorem putMem_regs {i w} : (putMem i w s).regs = s.regs := rfl
@[simp] theorem putMem_time {i w} : (putMem i w s).time = s.time := rfl
@[simp] theorem putMem_cut {i w} : (putMem i w s).cut = s.cut := rfl
@[simp] theorem putMem_mgmt {i w} : (putMem i w s).mgmt = s.mgmt := rfl
@[simp] theorem putMem_startup {i w} : (putMem i w s).startup = s.startup := rfl
@[simp] theorem putMem_cal {i w} : (putMem i w s).cal = s.cal := rfl
@[simp] theorem putMem_rx {i w} : (putMem i w s).rx = s.rx := rfl
@[simp] theorem putMem_tx {i w} : (putMem i w s).tx = s.tx := rfl
@[simp] theorem putMem_lk {i w} : (putMem i w s).lk = s.lk := rfl
@[simp] theorem putMem_adcs {i w} : (putMem i w s).adcs = s.adcs := rfl
@[simp] theorem putMem_sc {i w} : (putMem i w s).sc = s.sc := rfl
@[simp] theorem putMem_motionIn {i w} : (putMem i w s).motionIn = s.motionIn := rfl
@[simp] theorem putMem_supplyIn {i w} : (putMem i w s).supplyIn = s.supplyIn := rfl
@[simp] theorem putMem_testIn {i w} : (putMem i w s).testIn = s.testIn := rfl
@[simp] theorem putMem_pairSt {i w} : (putMem i w s).pairSt = s.pairSt := rfl
@[simp] theorem putMem_sf {i w} : (putMem i w s).sf = s.sf := rfl
@[simp] theorem putMem_hk {i w} : (putMem i w s).hk = s.hk := rfl
@[simp] theorem putMem_fw {i w} : (putMem i w s).fw = s.fw := rfl
@[simp] theorem putMem_tap {i w} : (putMem i w s).tap = s.tap := rfl
@[simp] theorem putMem_fresh {i w} : (putMem i w s).fresh = s.fresh := rfl
@[simp] theorem putMem_reg {i w} {r : Nat} : (putMem i w s).reg r = s.reg r := rfl

@[simp] theorem setPair_pending {x} : (setPair x s).pending = s.pending := rfl
@[simp] theorem setPair_mode {x} : (setPair x s).mode = s.mode := rfl
@[simp] theorem setPair_regs {x} : (setPair x s).regs = s.regs := rfl
@[simp] theorem setPair_time {x} : (setPair x s).time = s.time := rfl
@[simp] theorem setPair_cut {x} : (setPair x s).cut = s.cut := rfl
@[simp] theorem setPair_mgmt {x} : (setPair x s).mgmt = s.mgmt := rfl
@[simp] theorem setPair_startup {x} : (setPair x s).startup = s.startup := rfl
@[simp] theorem setPair_cal {x} : (setPair x s).cal = s.cal := rfl
@[simp] theorem setPair_rx {x} : (setPair x s).rx = s.rx := rfl
@[simp] theorem setPair_tx {x} : (setPair x s).tx = s.tx := rfl
@[simp] theorem setPair_lk {x} : (setPair x s).lk = s.lk := rfl
@[simp] theorem setPair_aq {x} : (setPair x s).aq = s.aq := rfl
@[simp] theorem setPair_adcs {x} : (setPair x s).adcs = s.adcs := rfl
@[simp] theorem setPair_sc {x} : (setPair x s).sc = s.sc := rfl
@[simp] theorem setPair_motionIn {x} : (setPair x s).motionIn = s.motionIn := rfl
@[simp] theorem setPair_supplyIn {x} : (setPair x s).supplyIn = s.supplyIn := rfl
@[simp] theorem setPair_testIn {x} : (setPair x s).testIn = s.testIn := rfl
@[simp] theorem setPair_sf {x} : (setPair x s).sf = s.sf := rfl
@[simp] theorem setPair_hk {x} : (setPair x s).hk = s.hk := rfl
@[simp] theorem setPair_fw {x} : (setPair x s).fw = s.fw := rfl
@[simp] theorem setPair_tap {x} : (setPair x s).tap = s.tap := rfl
@[simp] theorem setPair_fresh {x} : (setPair x s).fresh = s.fresh := rfl
@[simp] theorem setPair_reg {x} {r : Nat} : (setPair x s).reg r = s.reg r := rfl

@[simp] theorem setSfc_pending {x c} : (setSfc x c s).pending = s.pending := rfl
@[simp] theorem setSfc_mode {x c} : (setSfc x c s).mode = s.mode := rfl
@[simp] theorem setSfc_regs {x c} : (setSfc x c s).regs = s.regs := rfl
@[simp] theorem setSfc_time {x c} : (setSfc x c s).time = s.time := rfl
@[simp] theorem setSfc_cut {x c} : (setSfc x c s).cut = s.cut := rfl
@[simp] theorem setSfc_mgmt {x c} : (setSfc x c s).mgmt = s.mgmt := rfl
@[simp] theorem setSfc_startup {x c} : (setSfc x c s).startup = s.startup := rfl
@[simp] theorem setSfc_cal {x c} : (setSfc x c s).cal = s.cal := rfl
@[simp] theorem setSfc_rx {x c} : (setSfc x c s).rx = s.rx := rfl
@[simp] theorem setSfc_tx {x c} : (setSfc x c s).tx = s.tx := rfl
@[simp] theorem setSfc_lk {x c} : (setSfc x c s).lk = s.lk := rfl
@[simp] theorem setSfc_aq {x c} : (setSfc x c s).aq = s.aq := rfl
@[simp] theorem setSfc_adcs {x c} : (setSfc x c s).adcs = s.adcs := rfl
@[simp] theorem setSfc_sc {x c} : (setSfc x c s).sc = s.sc := rfl
@[simp] theorem setSfc_motionIn {x c} : (setSfc x c s).motionIn = s.motionIn := rfl
@[simp] theorem setSfc_supplyIn {x c} : (setSfc x c s).supplyIn = s.supplyIn := rfl
@[simp] theorem setSfc_testIn {x c} : (setSfc x c s).testIn = s.testIn := rfl
@[simp] theorem setSfc_pairSt {x c} : (setSfc x c s).pairSt = s.pairSt := rfl
@[simp] theorem setSfc_hk {x c} : (setSfc x c s).hk = s.hk := rfl
@[simp] theorem setSfc_fw {x c} : (setSfc x c s).fw = s.fw := rfl
@[simp] theorem setSfc_tap {x c} : (setSfc x c s).tap = s.tap := rfl
@[simp] theorem setSfc_fresh {x c} : (setSfc x c s).fresh = s.fresh := rfl
@[simp] theorem setSfc_reg {x c} {r : Nat} : (setSfc x c s).reg r = s.reg r := rfl

@[simp] theorem setHkChan_pending {t x} : (setHkChan t x s).pending = s.pending := rfl
@[simp] theorem setHkChan_mode {t x} : (setHkChan t x s).mode = s.mode := rfl
@[simp] theorem setHkChan_regs {t x} : (setHkChan t x s).regs = s.regs := rfl
@[simp] theorem setHkChan_time {t x} : (setHkChan t x s).time = s.time := rfl
@[simp] theorem setHkChan_cut {t x} : (setHkChan t x s).cut = s.cut := rfl
@[simp] theorem setHkChan_mgmt {t x} : (setHkChan t x s).mgmt = s.mgmt := rfl
@[simp] theorem setHkChan_startup {t x} : (setHkChan t x s).startup = s.startup := rfl
@[simp] theorem setHkChan_cal {t x} : (setHkChan t x s).cal = s.cal := rfl
@[simp] theorem setHkChan_rx {t x} : (setHkChan t x s).rx = s.rx := rfl
@[simp] theorem setHkChan_tx {t x} : (setHkChan t x s).tx = s.tx := rfl
@[simp] theorem setHkChan_lk {t x} : (setHkChan t x s).lk = s.lk := rfl
@[simp] theorem setHkChan_aq {t x} : (setHkChan t x s).aq = s.aq := rfl
@[simp] theorem setHkChan_adcs {t x} : (setHkChan t x s).adcs = s.adcs := rfl
@[simp] theorem setHkChan_sc {t x} : (setHkChan t x s).sc = s.sc := rfl
@[simp] theorem setHkChan_motionIn {t x} : (setHkChan t x s).motionIn = s.motionIn := rfl
@[simp] theorem setHkChan_supplyIn {t x} : (setHkChan t x s).supplyIn = s.supplyIn := rfl
@[simp] theorem setHkChan_testIn {t x} : (setHkChan t x s).testIn = s.testIn := rfl
@[simp] theorem setHkChan_pairSt {t x} : (setHkChan t x s).pairSt = s.pairSt := rfl
@[simp] theorem setHkChan_sf {t x} : (setHkChan t x s).sf = s.sf := rfl
@[simp] theorem setHkChan_fw {t x} : (setHkChan t x s).fw = s.fw := rfl
@[simp] theorem setHkChan_tap {t x} : (setHkChan t x s).tap = s.tap := rfl
@[simp] theorem setHkChan_fresh {t x} : (setHkChan t x s).fresh = s.fresh := rfl
@[simp] theorem setHkChan_reg {t x} {r : Nat} : (setHkChan t x s).reg r = s.reg r := rfl

@[simp] theorem setFw_pending {x} : (setFw x s).pending = s.pending := rfl
@[simp] theorem setFw_mode {x} : (setFw x s).mode = s.mode := rfl
@[simp] theorem setFw_regs {x} : (setFw x s).regs = s.regs := rfl
@[simp] theorem setFw_time {x} : (setFw x s).time = s.time := rfl
@[simp] theorem setFw_cut {x} : (setFw x s).cut = s.cut := rfl
@[simp] theorem setFw_mgmt {x} : (setFw x s).mgmt = s.mgmt := rfl
@[simp] theorem setFw_startup {x} : (setFw x s).startup = s.startup := rfl
@[simp] theorem setFw_cal {x} : (setFw x s).cal = s.cal := rfl
@[simp] theorem setFw_rx {x} : (setFw x s).rx = s.rx := rfl
@[simp] theorem setFw_tx {x} : (setFw x s).tx = s.tx := rfl
@[simp] theorem setFw_lk {x} : (setFw x s).lk = s.lk := rfl
@[simp] theorem setFw_aq {x} : (setFw x s).aq = s.aq := rfl
@[simp] theorem setFw_adcs {x} : (setFw x s).adcs = s.adcs := rfl
@[simp] theorem setFw_sc {x} : (setFw x s).sc = s.sc := rfl
@[simp] theorem setFw_motionIn {x} : (setFw x s).motionIn = s.motionIn := rfl
@[simp] theorem setFw_supplyIn {x} : (setFw x s).supplyIn = s.supplyIn := rfl
@[simp] theorem setFw_testIn {x} : (setFw x s).testIn = s.testIn := rfl
@[simp] theorem setFw_pairSt {x} : (setFw x s).pairSt = s.pairSt := rfl
@[simp] theorem setFw_sf {x} : (setFw x s).sf = s.sf := rfl
@[simp] theorem setFw_hk {x} : (setFw x s).hk = s.hk := rfl
@[simp] theorem setFw_tap {x} : (setFw x s).tap = s.tap := rfl
@[simp] theorem setFw_fresh {x} : (setFw x s).fresh = s.fresh := rfl
@[simp] theorem setFw_reg {x} {r : Nat} : (setFw x s).reg r = s.reg r := rfl

@[simp] theorem setSection_pending {k x} : (setSection k x s).pending = s.pending := rfl
@[simp] theorem setSection_mode {k x} : (setSection k x s).mode = s.mode := rfl
@[simp] theorem setSection_regs {k x} : (setSection k x s).regs = s.regs := rfl
@[simp] theorem setSection_time {k x} : (setSection k x s).time = s.time := rfl
@[simp] theorem setSection_cut {k x} : (setSection k x s).cut = s.cut := rfl
@[simp] theorem setSection_mgmt {k x} : (setSection k x s).mgmt = s.mgmt := rfl
@[simp] theorem setSection_startup {k x} : (setSection k x s).startup = s.startup := rfl
@[simp] theorem setSection_rx {k x} : (setSection k x s).rx = s.rx := rfl
@[simp] theorem setSection_tx {k x} : (setSection k x s).tx = s.tx := rfl
@[simp] theorem setSection_lk {k x} : (setSection k x s).lk = s.lk := rfl
@[simp] theorem setSection_aq {k x} : (setSection k x s).aq = s.aq := rfl
@[simp] theorem setSection_adcs {k x} : (setSection k x s).adcs = s.adcs := rfl
@[simp] theorem setSection_sc {k x} : (setSection k x s).sc = s.sc := rfl
@[simp] theorem setSection_motionIn {k x} : (setSection k x s).motionIn = s.motionIn := rfl
@[simp] theorem setSection_supplyIn {k x} : (setSection k x s).supplyIn = s.supplyIn := rfl
@[simp] theorem setSection_testIn {k x} : (setSection k x s).testIn = s.testIn := rfl
@[simp] theorem setSection_pairSt {k x} : (setSection k x s).pairSt = s.pairSt := rfl
@[simp] theorem setSection_sf {k x} : (setSection k x s).sf = s.sf := rfl
@[simp] theorem setSection_hk {k x} : (setSection k x s).hk = s.hk := rfl
@[simp] theorem setSection_fw {k x} : (setSection k x s).fw = s.fw := rfl
@[simp] theorem setSection_tap {k x} : (setSection k x s).tap = s.tap := rfl
@[simp] theorem setSection_fresh {k x} : (setSection k x s).fresh = s.fresh := rfl
@[simp] theorem setSection_reg {k x} {r : Nat} : (setSection k x s).reg r = s.reg r := rfl

@[simp] theorem drawFree_pending : (drawFree s).pending = s.pending := rfl
@[simp] theorem drawFree_mode : (drawFree s).mode = s.mode := rfl
@[simp] theorem drawFree_regs : (drawFree s).regs = s.regs := rfl
@[simp] theorem drawFree_time : (drawFree s).time = s.time := rfl
@[simp] theorem drawFree_cut : (drawFree s).cut = s.cut := rfl
@[simp] theorem drawFree_mgmt : (drawFree s).mgmt = s.mgmt := rfl
@[simp] theorem drawFree_startup : (drawFree s).startup = s.startup := rfl
@[simp] theorem drawFree_cal : (drawFree s).cal = s.cal := rfl
@[simp] theorem drawFree_rx : (drawFree s).rx = s.rx := rfl
@[simp] theorem drawFree_tx : (drawFree s).tx = s.tx := rfl
@[simp] theorem drawFree_lk : (drawFree s).lk = s.lk := rfl
@[simp] theorem drawFree_aq : (drawFree s).aq = s.aq := rfl
@[simp] theorem drawFree_adcs : (drawFree s).adcs = s.adcs := rfl
@[simp] theorem drawFree_sc : (drawFree s).sc = s.sc := rfl
@[simp] theorem drawFree_motionIn : (drawFree s).motionIn = s.motionIn := rfl
@[simp] theorem drawFree_supplyIn : (drawFree s).supplyIn = s.supplyIn := rfl
@[simp] theorem drawFree_testIn : (drawFree s).testIn = s.testIn := rfl
@[simp] theorem drawFree_pairSt : (drawFree s).pairSt = s.pairSt := rfl
@[simp] theorem drawFree_sf : (drawFree s).sf = s.sf := rfl
@[simp] theorem drawFree_hk : (drawFree s).hk = s.hk := rfl
@[simp] theorem drawFree_fw : (drawFree s).fw = s.fw := rfl
@[simp] theorem drawFree_tap : (drawFree s).tap = s.tap := rfl
@[simp] theorem drawFree_reg {r : Nat} : (drawFree s).reg r = s.reg r := rfl

theorem setReg_reg {a v b} : (setReg a v s).reg b = if b = a then v else s.reg b := look_put _ _ _ _
@[simp] theorem setReg_reg_same {a v} : (setReg a v s).reg a = v := look_put_same _ _ _

theorem setReq_req {a v b} : (setReq a v s).req b = if b = a then v else s.req b := look_put _ _ _ _
@[simp] theorem setReq_req_same {a v} : (setReq a v s).req a = v := look_put_same _ _ _

theorem setRecorder_recorder {a v b} : (setRecorder a v s).recorder b = if b = a then v else s.recorder b := look_put _ _ _ _
@[simp] theorem setRecorder_recorder_same {a v} : (setRecorder a v s).recorder a = v := look_put_same _ _ _

theorem setBlk_blk {a v b} : (setBlk a v s).blk b = if b = a then v else s.blk b := look_put _ _ _ _
@[simp] theorem setBlk_blk_same {a v} : (setBlk a v s).blk a = v := look_put_same _ _ _

theorem setCell_cell {a v b} : (setCell a v s).cell b = if b = a then v else s.cell b := look_put _ _ _ _
@[simp] theorem setCell_cell_same {a v} : (setCell a v s).cell a = v := look_put_same _ _ _

theorem setPort_port {a v b} : (setPort a v s).port b = if b = a then v else s.port b := look_put _ _ _ _
@[simp] theorem setPort_port_same {a v} : (setPort a v s).port a = v := look_put_same _ _ _

theorem setSeq_seq {a v b} : (setSeq a v s).seq b = if b = a then v else s.seq b := look_put _ _ _ _
@[simp] theorem setSeq_seq_same {a v} : (setSeq a v s).seq a = v := look_put_same _ _ _

theorem setLane_lane {a v b} : (setLane a v s).lane b = if b = a then v else s.lane b := look_put _ _ _ _
@[simp] theorem setLane_lane_same {a v} : (setLane a v s).lane a = v := look_put_same _ _ _

theorem setAdc_adc {a v b} : (setAdc a v s).adc b = if b = a then v else s.adc b := look_put _ _ _ _
@[simp] theorem setAdc_adc_same {a v} : (setAdc a v s).adc a = v := look_put_same _ _ _

theorem setLoop_get {a v b} : (setLoop a v s).loop_ b = if b = a then v else s.loop_ b := look_put _ _ _ _
@[simp] theorem setLoop_get_same {a v} : (setLoop a v s).loop_ a = v := look_put_same _ _ _

theorem setAxis_axis {a v b} : (setAxis a v s).axis b = if b = a then v else s.axis b := look_put _ _ _ _
@[simp] theorem setAxis_axis_same {a v} : (setAxis a v s).axis a = v := look_put_same _ _ _

theorem setSfc_sfc {a v b} : (setSfc a v s).sfc b = if b = a then v else s.sfc b := look_put _ _ _ _
@[simp] theorem setSfc_sfc_same {a v} : (setSfc a v s).sfc a = v := look_put_same _ _ _

theorem setReg_reg_other {a v b} (h : b ≠ a) : (setReg a v s).reg b = s.reg b := look_put_other _ _ h

/-! ### Fields -/

theorem testBit_maskF {f : Fld} {i : Nat} : (maskF f).getLsbD i = (decide (i < 32) && decide (f.lo ≤ i) && decide (i < f.lo + f.width)) := by
  unfold maskF
  rw [BitVec.getLsbD_ofNat, Nat.mul_comm, Nat.testBit_two_pow_mul, Nat.testBit_two_pow_sub_one]
  by_cases h1 : i < 32 <;> by_cases h2 : f.lo ≤ i <;> by_cases h3 : i < f.lo + f.width <;> simp [h1, h2, h3] <;> omega

theorem testBit_setF {f : Fld} {v i : Nat} {w : Word} (h : i < 32) :
    (setF f v w).getLsbD i = if f.lo ≤ i ∧ i < f.lo + f.width then v.testBit (i - f.lo) else w.getLsbD i := by
  unfold setF
  rw [BitVec.getLsbD_or, BitVec.getLsbD_and, BitVec.getLsbD_not, testBit_maskF, BitVec.getLsbD_ofNat, Nat.mul_comm,
    Nat.testBit_two_pow_mul, Nat.testBit_mod_two_pow]
  by_cases h2 : f.lo ≤ i <;> by_cases h3 : i < f.lo + f.width
  · have h4 : i - f.lo < f.width := by omega
    simp [h, h2, h3, h4]
  · have h4 : ¬ i - f.lo < f.width := by omega
    simp [h, h2, h3, h4]
  · simp [h, h2]
  · simp [h, h2]

theorem testBit_getF {f : Fld} {w : Word} {i : Nat} : (getF f w).testBit i = (decide (i < f.width) && w.getLsbD (f.lo + i)) := by
  unfold getF
  rw [Nat.testBit_mod_two_pow, Nat.testBit_div_two_pow, BitVec.getLsbD, Nat.add_comm]

/-- A field that has been set reads as it was set. -/
theorem getF_setF_same {f : Fld} {v : Nat} {w : Word} (h : f.lo + f.width ≤ 32) : getF f (setF f v w) = v % 2 ^ f.width := by
  refine Nat.eq_of_testBit_eq fun i => ?_
  rw [testBit_getF, Nat.testBit_mod_two_pow]
  by_cases hi : i < f.width
  · rw [testBit_setF (by omega), if_pos ⟨by omega, by omega⟩, Nat.add_sub_cancel_left]
  · simp [hi]

/-- A field that does not overlap the one set reads as before. -/
theorem getF_setF_other {f g : Fld} {v : Nat} {w : Word} (h : g.lo + g.width ≤ f.lo ∨ f.lo + f.width ≤ g.lo) :
    getF g (setF f v w) = getF g w := by
  refine Nat.eq_of_testBit_eq fun i => ?_
  rw [testBit_getF, testBit_getF]
  by_cases hi : i < g.width
  · by_cases h32 : g.lo + i < 32
    · rw [testBit_setF h32, if_neg (by omega)]
    · rw [BitVec.getLsbD_of_ge _ _ (by omega), BitVec.getLsbD_of_ge _ _ (by omega)]
  · simp [hi]
theorem fset_reg {a f v b} : (fset a f v s).reg b = if b = a then setF f v (s.reg a) else s.reg b := setReg_reg

theorem fset_fget_same {a f v} (h : f.lo + f.width ≤ 32) : (fset a f v s).fget a f = v % 2 ^ f.width := by
  unfold State.fget
  rw [fset_reg, if_pos rfl, getF_setF_same h]

theorem fset_fget_field {a f g v} (h : g.lo + g.width ≤ f.lo ∨ f.lo + f.width ≤ g.lo) : (fset a f v s).fget a g = s.fget a g := by
  unfold State.fget
  rw [fset_reg, if_pos rfl, getF_setF_other h]

theorem fset_fget_other {a b f g v} (h : b ≠ a) : (fset a f v s).fget b g = s.fget b g := by
  unfold State.fget
  rw [fset_reg, if_neg h]

end Sys2Proof.Machine
end

