-- ==== Sys2Proof/Laws/Ops.lean ====
section
/-!
SUPPORT. What the shared operations do to the register file: flags, records, counters, completions of transactions.
-/
namespace Sys2Proof.Machine

set_option Elab.async false

variable {s : State}

theorem countLost_reg {b : Nat} (h : b ≠ REC_LOST) : (countLost s).reg b = s.reg b := setReg_reg_other h

/-- A record changes no register but `REC_LOST` and `REC_STATUS`. -/
theorem recordEvent_reg {r : Nat} {e : Rec} {b : Nat} (h1 : b ≠ REC_LOST) (h2 : b ≠ REC_STATUS) :
    (recordEvent r e s).reg b = s.reg b := by
  unfold recordEvent
  dsimp only
  split
  · rfl
  split
  · split
    · rw [countLost_reg h1, setRecorder_reg]
    · split
      · rw [countLost_reg h1, setRecorder_reg, setReg_reg_other h2, countLost_reg h1, setRecorder_reg]
      · rw [setRecorder_reg, setReg_reg_other h2, countLost_reg h1, setRecorder_reg]
  · rw [setRecorder_reg]

/-- A flag changes no register but its own, `REC_LOST` and `REC_STATUS`. -/
theorem setFlag_reg {a bit b : Nat} (h : b ≠ a) (h1 : b ≠ REC_LOST) (h2 : b ≠ REC_STATUS) : (setFlag a bit s).reg b = s.reg b := by
  unfold setFlag
  split
  · rfl
  · rw [recordEvent_reg h1 h2, setReg_reg_other h]

theorem setBit_of_set {bit : Nat} {w : Word} (h : w.getLsbD bit = true) : setBit bit w = w := by
  unfold setBit
  apply BitVec.eq_of_getLsbD_eq
  intro i hi
  rw [BitVec.getLsbD_or, BitVec.getLsbD_ofNat, Nat.testBit_two_pow]
  by_cases e : bit = i
  · subst e
    simp [h]
  · simp [e]

/-- The flag stands afterwards, and the other bits of its register are as before. -/
theorem setFlag_reg_same {a bit : Nat} (h1 : a ≠ REC_LOST) (h2 : a ≠ REC_STATUS) : (setFlag a bit s).reg a = setBit bit (s.reg a) := by
  unfold setFlag
  split
  · rename_i h
    exact (setBit_of_set h).symm
  · rw [recordEvent_reg h1 h2, setReg_reg_same]

theorem flag_reg {a b : Nat} {f : Fld} (h : b ≠ a) (h1 : b ≠ REC_LOST) (h2 : b ≠ REC_STATUS) : (flag a f s).reg b = s.reg b := setFlag_reg h h1 h2

theorem flag_reg_same {a : Nat} {f : Fld} (h1 : a ≠ REC_LOST) (h2 : a ≠ REC_STATUS) : (flag a f s).reg a = setBit f.lo (s.reg a) :=
  setFlag_reg_same h1 h2

theorem flagIf_reg {c : Bool} {a b : Nat} {f : Fld} (h : b ≠ a) (h1 : b ≠ REC_LOST) (h2 : b ≠ REC_STATUS) :
    (flagIf c a f s).reg b = s.reg b := by
  unfold flagIf
  split
  · exact flag_reg h h1 h2
  · rfl

theorem bumpOvf_reg {a b n oa ob : Nat} {f : Fld} (h : b ≠ a) (ho : b ≠ oa) (h1 : b ≠ REC_LOST) (h2 : b ≠ REC_STATUS) :
    (bumpOvf a f n oa ob s).reg b = s.reg b := by
  unfold bumpOvf
  dsimp only
  split
  · rw [setFlag_reg ho h1 h2, fset_reg, if_neg h]
  · rw [fset_reg, if_neg h]

/-- A counter takes its new value, whether or not its overflow flag sets. -/
theorem bumpOvf_reg_same {a n oa ob : Nat} {f : Fld} (ho : a ≠ oa) (h1 : a ≠ REC_LOST) (h2 : a ≠ REC_STATUS) :
    (bumpOvf a f n oa ob s).reg a = setF f (satAdd (2 ^ f.width - 1) (s.fget a f) n) (s.reg a) := by
  unfold bumpOvf
  dsimp only
  split
  · rw [setFlag_reg ho h1 h2, fset_reg, if_pos rfl]
  · rw [fset_reg, if_pos rfl]

/-- A write that completes with OK changes nothing but its requester's record. -/
theorem completeOk_eq {q addr : Nat} :
    completeOk q addr s = setReq q { s.req q with status := 0, data := 0, lastAccess := if addr % 4 = 1 then none else some (addr / 4 * 4) } s := rfl

@[simp] theorem completeOk_reg {q addr b : Nat} : (completeOk q addr s).reg b = s.reg b := rfl

/-- A write that its target takes has its effect and completes with OK. -/
theorem hostWrite_takes {q a : Nat} {f : State → State} (h : s.takes a) : hostWrite q a f s = completeOk q (a + 1) (f s) := by
  unfold hostWrite
  rw [h.1, h.2]
  rfl

theorem hostWriteIf_takes {ok : Bool} {q a : Nat} {f : State → State} (h : s.takes a) (hok : ok = true) :
    hostWriteIf ok q a f s = completeOk q (a + 1) (f s) := by
  unfold hostWriteIf
  rw [if_pos hok, hostWrite_takes h]

end Sys2Proof.Machine
end

