-- ==== Sys2Proof/Machine/Tap.lean ====
section
/-!
DEFINITION. The test access port of R607 under IEEE 1149.1: BYPASS and SAMPLE/PRELOAD, which observe balls and drive none. No row of the
command table clocks it.
-/
namespace Sys2Proof.Machine

/-- TRST_N, low or left open, holds the port in reset, where its instruction is BYPASS. -/
def tapReset (s : State) : State := { s with tap := {} }

/-- TRST_N rises. -/
def tapRelease (s : State) : State := { s with tap := { s.tap with held := false } }

/-- An instruction code is loaded: every code other than that of SAMPLE/PRELOAD selects BYPASS. -/
def tapInstruction (code : Nat) (s : State) : State :=
  if s.tap.held then s
  else { s with tap := { s.tap with instr := if code = Config.samplePreload then .samplePreload else .bypass } }

/-- The selected register captures: the bypass register a 0, the boundary register the levels of the balls it observes. -/
def tapCapture (balls : List Bool) (s : State) : State :=
  if s.tap.held then s
  else match s.tap.instr with
    | .bypass => { s with tap := { s.tap with bypass := false } }
    | .samplePreload => { s with tap := { s.tap with boundary := balls } }

/-- What TDO shows: the end of the selected register. -/
def State.tdo (s : State) : Bool :=
  match s.tap.instr with
  | .bypass => s.tap.bypass
  | .samplePreload => s.tap.boundary.headD false

/-- The selected register shifts by one: TDI enters it at the far end. -/
def tapShift (tdi : Bool) (s : State) : State :=
  if s.tap.held then s
  else match s.tap.instr with
    | .bypass => { s with tap := { s.tap with bypass := tdi } }
    | .samplePreload => { s with tap := { s.tap with boundary := s.tap.boundary.drop 1 ++ [tdi] } }

end Sys2Proof.Machine
end

