-- ==== Sys2Proof/Tests/Slice0.lean ====
section
/-!
SUPPORT. Tests: an ill-formed term for each check of WellFormed; for every obligation a state and operands that meet the hypotheses of each of
its clauses; and single steps whose expected results come from the manual's rules and worked examples.
-/
namespace Sys2Proof.Tests

-- One theorem at a time: every one is the kernel's own evaluation, and each takes a thread while it waits.
set_option Elab.async false

open Sys2Proof Sys2Proof.Machine

/-! ### Small states -/

/-- Set fields of registers. -/
def w (l : List (Nat × Fld × Nat)) (s : State) : State := l.foldl (fun t e => fset e.1 e.2.1 e.2.2 t) s

/-- Every power domain is on and good, the timebase runs, start-up is over, and the device is in CONFIGURED with no Cut. -/
def base : State :=
  [0, 1, 2].foldl (fun t i => setReg (PWR_DOM_ON i) 0xFFFFFFFF (setReg (PWR_DOM_GOOD i) 0xFFFFFFFF t))
    (fset MODE_STATUS MODE_STATUS.phase 4 { State.reset with
      mode := .configured, time := { State.reset.time with running := true, tbase := 5000000 }, startup := { State.reset.startup with ready := false } })

/-- The register takes accesses, as a Bool. -/
def takesB (s : State) (a : Nat) : Bool := s.answers && decide (s.targetStatus a = 0)

theorem takesB_iff (s : State) (a : Nat) : takesB s a = true ↔ s.takes a := by
  simp [takesB, State.takes]

/-- The state in which a command ends. -/
def run (c : Instr) (s : State) : State := match exec c s with | .next t => t | _ => s

/-- A device with a Cut in force: RX block 0, emitter block 0, lane block 0, the capture unit and the scanner enabled, and the frames given. -/
def cut (l : List Frame) (s : State) : State :=
  { s with cut := { s.cut with live := some ([⟨0x08FFFF00, 1, [1, 1]⟩, ⟨0x04FFFF00, 1, [1]⟩, ⟨0x05FFFF00, 1, [1]⟩, ⟨0x06FFFF00, 1, [1]⟩, ⟨0x03FFFF00, 1, [1]⟩] ++ l) } }

/-- A parameter word of a plane. -/
def param (a : Nat) (w : Word) : Frame := ⟨a, 2, [w]⟩

/-- A device in RUN whose RX block 0 has a pixel boundary to come. -/
def bound : State :=
  setBlk 0 { opens := [{ seq := 0, frame := 0, m := 0, start := 5000100, shots := 4, period := 1000, index := 7 }] } { cut [] base with mode := .run }

/-- A pixel in progress, and a slot, a window, an edge and a pulse of it. -/
def pix : Pixel :=
  { frame := 0, m := 0, start := 5000000, shots := 4, period := 1000, index := 7, cls := 0, plane := (cut [] base).cut.live, epoch := 1, frag := 0,
    skew := 0, tables := [], rtable := [], wins := List.replicate 16 { o := 0, kEff := 0, reach := 256 }, amb := [], flags := 0, slew := false, cells := [], b2 := none,
    cutAt := none, closedAt := none, read := 0 }
def slot : Slot :=
  { seq := 0, frame := 0, n := 0, m := 0, k := 0, kind := .fire, tn := 5000000, code := 0, fires := [{ emitter := 0, ns := 5000000, q := 0, suppressed := false, dead := false }],
    own := true, known := [], dark := false, judged := 0, counted := 0 }
def win : Win := { view := pix.view 0, n := 0, m := 0, k := 0, frame := 0, kind := .fire, start := 5000000 * 2048, used := 0, closed := none, first := none, judged := false }
def edge : Edge := { ns := 5000001, phase := 0, rising := true, high := false, ovl := false, dead := false }
def pulse : Pulse :=
  { interval := 300, odd := false, shot := 0, pulse := 0, tot := 100, high := false, ovl := false, near := false, prev := false, totOpen := false, dead := false }

/-! ### WellFormed: a term that each check refuses, beside one it takes -/

theorem test_wf_refuses_unaligned_register : Instr.wellFormed (.registerWrite 0 5 0) = false ∧ Instr.wellFormed (.registerWrite 0 4 0) = true := by decide
theorem test_wf_refuses_unaligned_split_read : Instr.wellFormed (.splitReadLow 0 2) = false ∧ Instr.wellFormed (.splitReadLow 0 8) = true := by decide
theorem test_wf_refuses_unaligned_window_read : Instr.wellFormed (.windowLatchRead 0 1) = false ∧ Instr.wellFormed (.windowLatchRead 0 4) = true := by decide
theorem test_wf_refuses_region_twice : Instr.wellFormed (.alignmentWord [(8, 0), (8, 1)]) = false ∧ Instr.wellFormed (.alignmentWord [(8, 0), (9, 1)]) = true := by decide
theorem test_wf_refuses_sensor_twice : Instr.wellFormed (.hkRound [(3, 0), (3, 1)]) = false ∧ Instr.wellFormed (.hkRound [(3, 0)]) = true := by decide
theorem test_wf_refuses_cell_without_block : Instr.wellFormed (.faultEscalation 8 none (some 0)) = false ∧ Instr.wellFormed (.faultEscalation 8 (some 0) (some 0)) = true := by decide
theorem test_wf_refuses_named_cut_command : Instr.wellFormed (.cutBadCommand 0 5) = false ∧ Instr.wellFormed (.cutBadCommand 0 6) = true := by decide
theorem test_wf_refuses_named_converter_command : Instr.wellFormed (.adcBadCommand 0 0 6) = false ∧ Instr.wellFormed (.adcBadCommand 0 0 7) = true := by decide
theorem test_wf_refuses_named_safety_command : Instr.wellFormed (.sfBadCommand 0 7) = false ∧ Instr.wellFormed (.sfBadCommand 0 0) = true := by decide
theorem test_wf_refuses_named_firmware_command : Instr.wellFormed (.fwBadCommand 0 12) = false ∧ Instr.wellFormed (.fwBadCommand 0 13) = true := by decide
theorem test_wf_refuses_named_mode_command : Instr.wellFormed (.modeBadCommand 0 2 0) = false ∧ Instr.wellFormed (.modeBadCommand 0 3 0x5253) = false ∧
    Instr.wellFormed (.modeBadCommand 0 3 0) = true := by decide
theorem test_wf_refuses_named_capture_command : Instr.wellFormed (.aqBadCommand 0 4) = false ∧ Instr.wellFormed (.aqBadCommand 0 5) = true := by decide
theorem test_wf_refuses_named_gate_command : Instr.wellFormed (.gateBadCommand 0 0 4) = false ∧ Instr.wellFormed (.gateBadCommand 0 0 0) = true := by decide
theorem test_wf_refuses_named_calibration_command : Instr.wellFormed (.calBadCommand 0 3) = false ∧ Instr.wellFormed (.calBadCommand 0 4) = true := by decide
theorem test_wf_refuses_short_run : Instr.wellFormed (.backgroundRunEnd 0 [1048576]) = false ∧ Instr.wellFormed (.backgroundRunEnd 0 (List.replicate 128 8192)) = true := by decide +kernel
theorem test_wf_refuses_foreground_run : Instr.wellFormed (.foregroundRunEnd 0 [[1]] (List.replicate 128 16384)) = false ∧
    Instr.wellFormed (.foregroundRunEnd 0 (List.replicate 17 []) (List.replicate 128 16384)) = false ∧
    Instr.wellFormed (.foregroundRunEnd 0 [] (List.replicate 128 16383)) = false ∧
    Instr.wellFormed (.foregroundRunEnd 0 [[], List.replicate 128 16384] (List.replicate 128 16384)) = true := by decide +kernel
theorem test_wf_refuses_settings_half_twice : Instr.wellFormed (.ready 1 [(0, []), (0, [])]) = false ∧ Instr.wellFormed (.confirm 1 false [(0, []), (0, [])]) = false ∧
    Instr.wellFormed (.ready 1 [(0, []), (1, [])]) = true := by decide
theorem test_wf_refuses_settings_half_too_long : settingsShape [(0, List.replicate 16385 0)] = false ∧ settingsShape [(0, List.replicate 16384 0)] = true := by decide +kernel
theorem test_wf_refuses_long_packet : Instr.wellFormed (.packetReceived 0 (List.replicate 4096 0) false) = false ∧ Instr.wellFormed (.packetReceived 0 [] false) = true := by decide +kernel
theorem test_wf_refuses_65_transactions : Instr.wellFormed (.mgmtRequestPacket 0 (List.replicate 65 0)) = false ∧ Instr.wellFormed (.mgmtRequestPacket 0 [0]) = true := by decide +kernel
theorem test_wf_refuses_other_operations : Instr.wellFormed (.mgmtTransaction 0 2 0 0) = false ∧ Instr.wellFormed (.echo 0 1 0) = false ∧ Instr.wellFormed (.badOp 0 2) = false ∧
    Instr.wellFormed (.mgmtTransaction 0 1 0 0) = true ∧ Instr.wellFormed (.echo 0 2 0) = true ∧ Instr.wellFormed (.badOp 0 3) = true := by decide

/-- The opcode table gives no row any bits. -/
theorem test_no_word_spells_a_command : decodeTableWord 32 0xDEADBEEF = none ∧ base.withFetchWord 32 0 = base := by decide +kernel

/-! ### Witnesses: the host's accesses and the machine as a whole -/

theorem wit_EveryStepKeepsTheInvariant : Memory.wf base ∧ base.guard.pwdA = base.guard.pwdB ∧ base.guard.revoked.length ≤ 32 ∧
    (match step base with | .next _ => true | _ => false) = true := by decide +kernel

theorem wit_EveryCommandKeepsWhatIsNotItsOwn : (match exec .hoursSave base with | .next _ => true | _ => false) = true := by decide +kernel

theorem wit_AnIdleStepIsOneNanosecond : base.pending = [] ∧ base.time.running = true ∧ State.reset.time.running = false ∧
    ∀ i, ({ base.startup with resetAt := some 5000002 } : Startup).resetAt = some i → (base.time.tbase + 1).toNat < i := by decide +kernel

theorem wit_ResetLeavesEveryRegisterAtItsResetWord : (regRow FW_CMD).isSome = true ∧ (regRow (SF_LOG_DATA 7)).isSome = true := by decide +kernel

theorem wit_TheGuardChangesOnlyThroughItsCommands : ∀ c ∈ ({ base with pending := [.refclkLoss, .run 0] } : State).pending, ¬ changesGuard c := by
  intro c hc; rcases List.mem_cons.mp hc with rfl | hc
  · exact id
  · rcases List.mem_cons.mp hc with rfl | hc
    · exact id
    · simp at hc

theorem wit_RegisterWriteFollowsTheAccessCodes : [FW_FLAGS, FW_CFG].all (fun a =>
    (regRow a).any (fun row => row.writable && !ownEffect a row) && base.writeOk 0 a 5 && takesB base a) = true := by decide +kernel

theorem wit_FailedTransactionsAreReported : base.answers = true ∧ regRow 0x0FFFFFC0 = none ∧ regRow (RX_CELL_CMD 0) ≠ none ∧
    (setReg REGION_FENCE 0x100 base).targetStatus (RX_CELL_CMD 0) = 6 ∧ (setReg (PWR_DOM_GOOD 0) 0 base).targetStatus (RX_CELL_CMD 0) = 5 ∧
    (regRow FW_STATUS).any (fun row => !row.writable) = true ∧ takesB base FW_STATUS = true ∧
    (0x40000000#32).toNat / 2 ^ 28 = 4 ∧ (0x40000001#32).toNat % 4 < 2 ∧ (0x40000003#32).toNat % 4 = 3 ∧ (0x00000002#32).toNat % 4 = 2 ∧
    State.reset.answers = false := by decide +kernel

theorem wit_ReadsReturnTheWordTheirRequesterSees : regRow LOUPE_CFG ≠ none ∧ takesB base LOUPE_CFG = true ∧ LOUPE_CFG < REC_DATA 0 ∨ REC_DATA 8 ≤ LOUPE_CFG := by
  decide +kernel
theorem wit_ReadsReturnTheWordTheirRequesterSees_plain : base.windowAt 0 LOUPE_CFG = none ∧ splitLow LOUPE_CFG = none ∧
    base.word 0 LOUPE_CFG = some (base.reg LOUPE_CFG) := by decide +kernel
theorem wit_ReadsReturnTheWordTheirRequesterSees_pair : regRow TBASE_LO ≠ none ∧ takesB base TBASE_LO = true ∧ splitLow TBASE_LO = some TBASE_LO ∧
    base.windowAt 0 TBASE_LO = none ∧ base.word 0 TBASE_LO = some 5000000 ∧ base.word 0 (TBASE_LO + 4) = some 0 ∧ splitLow (TBASE_LO + 4) = some TBASE_LO ∧
    regRow (TBASE_LO + 4) ≠ none ∧ base.windowAt 0 (TBASE_LO + 4) = none ∧ takesB base (TBASE_LO + 4) = true := by decide +kernel
theorem wit_ReadsReturnTheWordTheirRequesterSees_window : regRow (LIVE_DIGEST 0) ≠ none ∧ takesB base (LIVE_DIGEST 0) = true ∧
    base.windowAt 0 (LIVE_DIGEST 0) = some (LIVE_DIGEST 0, 0) ∧ base.windowLive 0 (LIVE_DIGEST 0) = List.replicate 8 0 ∧ regRow (LIVE_DIGEST 7) ≠ none ∧
    LIVE_DIGEST 7 % 4 = 0 ∧ takesB base (LIVE_DIGEST 7) = true ∧ base.windowAt 0 (LIVE_DIGEST 7) = some (LIVE_DIGEST 0, 7) := by decide +kernel

theorem wit_WritesThatStageOrBelongToTheirRequester : [REC_SEL, REC_CURSOR, LOUPE_SEL, FW_ADDR, HK_T_CFG 0, RX_CENSUS_CFG 0, ADC_SYSCAL_OFS 0, SF_PWD 0].all (fun a =>
    (regRow a).any (fun row => row.writable) && base.writeOk 0 a 5 && takesB base a) = true ∧ (regRow (HK_T_CFG 0)).any (fun row => row.rw ≠ 0) = true ∧
    adcOf (HK_T_CFG 0) = none ∧ isDomFault (HK_T_CFG 0) = false ∧ (regRow (RX_CELL_THR 767)).any (fun row => row.rw ≠ 0) = true ∧ adcOf (RX_CELL_THR 767) = none ∧
    RX_CELL_THR 767 / 0x1000000 = 13 ∧ RX_CELL_THR 767 / 0x10000 % 256 = 7 ∧ rxOf (RX_CELL_THR 767) = 47 ∧ base.scheduled 47 = false ∧
    bound.scheduled 0 = true ∧ bound.writeOk 0 (RX_CELL_THR 0) 5 = true ∧ takesB bound (RX_CELL_THR 0) = true ∧ rxOf (RX_CELL_THR 0) = 0 ∧
    adcOf (ADC_SYSCAL_OFS 0) = some 0 ∧ adcOf (ADC_DCB 52) = some 52 := by decide +kernel

theorem wit_TheSpiPortRunsOneTransactionPerFrame : crc8 (wordBytes 0 ++ wordBytes 0) = (0#8).toNat ∧ crc8 (wordBytes 0 ++ wordBytes 0) ≠ (1#8).toNat ∧
    (setSpi .request base).mgmt.spi ≠ .idle ∧ (setSpi .request base).answers = true := by decide +kernel

/-! ### Witnesses: timebase, containment, Cuts -/

theorem wit_TheTimebaseAlignsHoldsOverAndMarksFrames : base.time.running = true ∧ isRegion 8 = true ∧ rxRegion 0 = 8 ∧
    ((setBlk 0 { bufX := some pix } base).blk 0).bufX = some pix ∧ pix.inProgress = true ∧ base.now ≤ pix.start + (0#10).toNat ∧ ((7, 1) : Fin 16 × BitVec 10) ∈ [((7, 1) : Fin 16 × BitVec 10), (8, 0)] ∧ isRegion 15 = false ∧
    base.fget TIME_STATUS TIME_STATUS.holdover = 0 ∧ (w [(TIME_STATUS, TIME_STATUS.holdover, 1)] base).fget TIME_STATUS TIME_STATUS.holdover = 1 ∧
    base.shooting = false ∧ base.cut.swapAt ≠ some (.atFrame (base.reg FRAME_NUM + 1).toNat) ∧ base.fw.backToRun = false ∧
    ({ base with time := { base.time with tbase := 1000000000, limitFrom := 1000000000 - base.frameLimit } } : State).time.limitFrom + base.frameLimit ≤ 1000000000 ∧
    ({ base with mode := .run } : State).shooting = true ∧ ({ base with mode := .run } : State).placing = false := by decide +kernel

theorem wit_FaultsAreContainedFencedAndLifted : fenceable 8 = true ∧ fenceable 1 = true ∧ fenceable 6 = true ∧ base.fenced 8 = false ∧ base.isolated 8 0 = false ∧
    base.answers = true ∧ base.mode = .configured ∧ (setReg REGION_FENCE 0x100 base).fenced 8 = true ∧ (0x100#16).getLsbD 8 = true ∧
    ({ base with startup := { base.startup with notReady := [8] } } : State).startup.notReady = [8] ∧
    (∀ d ∈ regionDomains 8, base.domOn d = true → base.domGood d = true) := by decide +kernel

/-- A swap is due, and another waits for its targets. -/
def due : State := { base with cut := { base.cut with swapAt := some (.atTime 5000000), staged := some [] } }
def spreading : State := { base with cut := { base.cut with inSwap := true, waiting := [1, 3, 4, 6, 0x50, 0x80, 0xC0], swapI := 5000000 } }
theorem wit_ASwapComesSpreadsAndEnds_applies : due.cut.swapAt = some (.atTime 5000000) ∧ 5000000 ≤ due.now ∧ (∀ q : Fin 64, (due.seq q).early = none) ∧ due.cut.inSwap = false ∧ due.reg LIVE_EPOCH ≠ 0xFFFFFFFF ∧
    due.cut.romNext = false ∧ due.startup.boot = false ∧ due.mode ≠ .loader ∧ ({ due with mode := .loader } : State).mode = .loader ∧
    ({ due with cut := { due.cut with romNext := true } } : State).cut.romNext = true ∧
    ({ due with mode := .service, startup := { due.startup with boot := true } } : State).startup.boot = true := by decide +kernel
theorem wit_ASwapComesSpreadsAndEnds_spreads : [tgtTx, tgtHk, tgtSc, tgtAq, tgtLk 0, tgtRx 0, tgtSeq 0].all spreading.cut.waiting.contains = true ∧
    spreading.cut.swapI ≤ spreading.now ∧ spreading.placing = false ∧ (setReg REGION_FENCE 2 spreading).hkRuns = false ∧ spreading.loopsIdle = true ∧
    spreading.earliest = none ∧ (List.range 8).all (fun l => (spreading.lane l).queue = []) = true ∧ spreading.scheduled 0 = false ∧ (spreading.seq 0).placing = false := by
  decide +kernel
theorem wit_ASwapComesSpreadsAndEnds_ends : ({ spreading with cut := { spreading.cut with waiting := [] } } : State).cut.waiting = [] ∧ spreading.cut.inSwap = true ∧
    spreading.fw.romPending = false ∧ (w [(CUT_STATUS, CUT_STATUS.shadow_state, 6)] spreading).shadowState = 6 ∧ spreading.shadowState = 0 := by decide +kernel

/-- The shadow plane in state `n`, owned by the SPI port. -/
def shadow (n : Nat) : State := w [(CUT_STATUS, CUT_STATUS.shadow_state, n), (CUT_STATUS, CUT_STATUS.owner, 1), (CUT_STATUS, CUT_STATUS.owner_lane, 0)] base
theorem wit_TheShadowPlaneIsWrittenCommandedAndOwned : base.answers = true ∧ (List.range 7).all (fun n => (shadow n).shadowState = n && (shadow n).ownsShadow 0) = true ∧
    (List.range 6).all (fun n => !(shadow (n + 1)).ownsShadow 1) = true ∧ (shadow 1).pausing = false ∧
    (w [(FW_STATUS, FW_STATUS.pausing, 1)] (shadow 1)).pausing = true ∧ (shadow 3).mode = .configured ∧ (shadow 3).cut.swapAt = none ∧ (shadow 3).cut.inSwap = false ∧
    (shadow 3).reg LIVE_EPOCH ≠ 0xFFFFFFFF ∧ ((shadow 3).reg CUT_SWAP_FRAME).toNat = 0 ∧ (shadow 3).frameNum < ((setReg CUT_SWAP_FRAME 1 (shadow 3)).reg CUT_SWAP_FRAME).toNat ∧
    (shadow 5).frameNum + 2 ≤ ((setReg CUT_SWAP_FRAME 2 (shadow 5)).reg CUT_SWAP_FRAME).toNat ∧ ((setReg CUT_SWAP_FRAME 1 (shadow 5)).reg CUT_SWAP_FRAME).toNat < (shadow 5).frameNum + 2 ∧
    5 < (6#4).toNat := by decide +kernel

/-- The digest of the empty plane's content, as the digest of the plane in force. -/
def digested : State := (List.range 8).foldl (fun t i => setReg (LIVE_DIGEST i) (nth 0 (sha256 (base.storedLive [])) i) t) { base with cut := { base.cut with live := some [] } }
/-- The verdict 0 rests on a signature that verifies, which is an opaque constant of Config: no concrete state can show it. Nor can one show an
image that passes VERIFY. -/
theorem wit_ValidationEndsAndTheLiveDigestIsWatched : ({ shadow 1 with cut := { base.cut with copying := some 3 } } : State).cut.copying = some 3 ∧ (shadow 1).shadowState = 1 ∧
    (shadow 2).shadowState = 2 ∧ (shadow 2).verdict = (1, 0xFFFF) ∧ digested.cut.live = some [] ∧
    sha256 (digested.storedLive []) = digested.regsFrom (LIVE_DIGEST 0) 8 ∧
    sha256 (({ base with cut := { base.cut with live := some [] } } : State).storedLive []) ≠ base.regsFrom (LIVE_DIGEST 0) 8 := by decide +kernel

/-- The clock runs in `base`; holdover stands, and the frame limit is over, in the two others. -/
theorem wit_ClockAndFrameEventsTakeEffect : base.time.running = true ∧ base.fget TIME_STATUS TIME_STATUS.holdover = 0 ∧
    (w [(TIME_STATUS, TIME_STATUS.holdover, 1)] base).fget TIME_STATUS TIME_STATUS.holdover = 1 ∧
    (let s : State := { base with time := { base.time with tbase := base.frameLimit } }; s.time.running = true ∧ s.time.limitFrom + s.frameLimit ≤ s.now) := by decide +kernel
theorem wit_FaultsOfRegionsTakeEffect : fenceable 8 = true ∧ base.answers = true ∧ base.mode = .configured ∧
    8 ∈ ({ base with startup := { base.startup with notReady := [8] } } : State).startup.notReady ∧
    (∀ d ∈ regionDomains 8, ({ base with startup := { base.startup with notReady := [8] } } : State).domGood d = true) := by decide +kernel

/-! ### Witnesses: the receive path -/

/-- BLANK_N has been low since 4,000,000, and block 0 obeys it. -/
def blanked : State :=
  setBlk 0 { blanks := [(4000000, none)] } (cut [param (RX_BLK_EXTBLANK 0) 1] { base with rx := { base.rx with blankLow := some 3000000 } })
theorem wit_BlankingIsCapturedAndApplied : base.rx.blankLow = none ∧ base.rx.blankLast = none ∧ blanked.obeysBlank 0 = true ∧ base.obeysBlank 0 = false ∧
    ({ base with rx := { base.rx with blankLast := some (100, 200) } } : State).rx.blankLast = some (100, 200) ∧ 200 + 10 ≤ (210#64).toNat ∧
    (209#64).toNat < 200 + 10 ∧ blanked.rx.blankLow = some 3000000 ∧ (3000009#64).toNat < 3000000 + 10 ∧ 3000000 + 10 ≤ (3000010#64).toNat ∧
    blanked.blanking 0 blanked.now = true ∧
    3000000 + 2 ^ (cutF (blanked.planeOf (tgtRx 0)) (RX_BLK_EXTBLANK 0) RX_BLK_EXTBLANK.blank_max) * 1000000 < blanked.now := by decide +kernel

/-- The connection check runs in block 0, whose cell 5 is masked; a device in RUN whose block 0 is bound to a sequence of period 1,000. -/
def checked : State := w [(RX_CELL_STATUS 5, RX_CELL_STATUS.state, 2)] (cut [param (RX_BLK_TONE 0) 0x010FA015] base)
def shotWords : List Word := (List.range 128).map (fun i => if i = 0 then 1 else if i < 13 then (if i = 1 then 0x7F7F7F00 else 0x7F7F7F7F) else if i = 81 then 1000 else
  if i = 82 then 0x10004 else if i = 83 then 2 else if i = 88 then 1 else 0)
def shooting : State := { cut [⟨regionCommon 4, 0x0103, shotWords⟩, param (RX_BLK_TONE 0) 0x010FA015] base with mode := .run }
def firing : State :=
  setBlk 0 { checkFrom := some 4000000, busy := [(3000000, 6000000)] } (setSeq 0 { placing := true, edge := 5000000, n := 1, plane := shooting.cut.live } shooting)
theorem wit_ConnectionChecksClassifyTheirCell : (setBlk 0 { checkFrom := some 3750000 } checked).windowOver 0 = true ∧
    (let lo := cutF (checked.planeOf (tgtRx 0)) (RX_BLK_TONE 0) RX_BLK_TONE.cap_open
     let hi := cutF (checked.planeOf (tgtRx 0)) (RX_BLK_TONE 0) RX_BLK_TONE.cap_short
     0 < lo ∧ lo ≤ hi ∧ hi < 4095) ∧ checked.fget (RX_CELL_STATUS 0) RX_CELL_STATUS.state ≠ 1 ∧ (checked.cell 0).rearmAsked = false ∧
    firing.checkRuns 0 = true ∧ (firing.blk 0).checkFrom = some 4000000 ∧ 4000000 + 1000000 ≤ firing.now ∧ firing.silentTime 0 4000000 < 16000 ∧ firing.shooting = true ∧
    binding (shotTable (firing.planeOf (tgtRx 0))) 0 = some 0 ∧ (∀ e ∈ firing.tx.checks, e.channel = firing.checkedCell 0 → e.stop ≤ firing.now) ∧ takesB checked (RX_CELL_CMD 5) = true ∧ checked.masked 5 = true ∧
    checkable (checked.planeOf (tgtRx 0)) 0 5 = true := by decide +kernel

/-- Edges and windows of cell 0 in block 0. -/
def cell0 (c : Cell) : State := setCell 0 c (setBlk 0 { bufX := some pix, slots := [slot] } (cut [⟨regionCommon 4, 0x0203, [1]⟩] base))
theorem wit_EdgesBecomePulses_arrives : (cell0 {}).frontEndOn 0 = true ∧ ((cell0 {}).blk 0).fgRunning = false ∧ (cell0 {}).cell 0 = {} ∧
    ((cell0 { lastEdge := some (5000000 * 2048, true) }).cell 0).lastEdge = some (5000000 * 2048, true) ∧
    coarseOf (phaseCode 0) 5000000 5000000 = 5000001 ∧ coarseOf (phaseCode 0) 5000001 5000001 = 5000002 ∧ 5000001 * 2048 < 5000000 * 2048 + 3072 ∧ 5000000 * 2048 + 3072 ≤ 5000002 * 2048 ∧
    5000000 * 2048 - 3072 + 3072 < (cell0 {}).now * 2048 + 2048 := by decide +kernel
theorem wit_EdgesBecomePulses_starts : (({ posts := [slot] } : RxBlk)).posts = [slot] ∧ ((cell0 {}).blk 0).nextStart = some slot ∧ slot.instant ≤ (cell0 {}).now ∧
    (cell0 {}).fenced (rxRegion 0) = false ∧ checkable ((cell0 {}).planeOf (tgtRx 0)) 0 0 = true ∧ checkable ((cell0 {}).planeOf (tgtRx 0)) 1 0 = false ∧ slot.kind = .fire ∧
    startFire ((cell0 {}).planeOf (tgtRx 0)) 0 slot.fires = some { emitter := 0, ns := 5000000, q := 0, suppressed := false, dead := false } := by decide +kernel
def held : Held := { view := pix.view 0, m := 0, k := 0, frame := 0, kind := .fire, start := 5000000 * 2048, j := 0, rise := edge, prev := false, openSent := false }
theorem wit_EdgesBecomePulses_attributes : ((cell0 { queue := [edge] }).cell 0).queue = [edge] ∧ ((cell0 { queue := [edge] }).cell 0).wins = [] ∧
    ((cell0 { queue := [edge], wins := [win] }).cell 0).wins = [win] ∧ edge.rising = true ∧ win.kind = .fire ∧
    inWin edge win = true ∧ (cell0 {}).winBlanked 0 win = false ∧ win.used = 2 * 0 ∧ held.of win = true ∧ held.kind = .fire ∧ held.openSent = false ∧
    { edge with ns := 5000002, rising := false }.units ≤ held.rise.units + held.view.totLimit ∧
    held.rise.units + held.view.totLimit ≤ 5100000 * 2048 ∧
    pulse.interval < 2 ^ 27 ∧ pulse.shot < 2048 ∧ pulse.pulse < 4 ∧ pulse.tot < 8192 := by decide +kernel

theorem wit_PixelsOpenFillCloseAndAreRead_opens : (bound.blk 0).opens ≠ [] ∧ bound.shooting = true ∧ 5000100 ≤ ({ bound with time := { bound.time with tbase := 5000100 } } : State).now ∧
    bound.cut.waiting = [] ∧ bound.rx.rtWrites = [] ∧ (setBlk 0 { markersSeen := 256 } bound).takesPart 0 = true ∧ (bound.blk 0).fgWait = none ∧ (bound.blk 0).fgBack = false ∧
    bound.now < 5000100 := by decide +kernel
theorem wit_PixelsOpenFillCloseAndAreRead_fills : ((cell0 { out := [pulse.word 0 0 0] }).cell 0).out = [pulse.word 0 0 0] ∧ (cell0 { out := [pulse.word 0 0 0] }).nextPulse 0 = 0 ∧ (pulse.word 0 0 0).interval = 300 ∧ ((cell0 {}).blk 0).pixel 0 0 = some pix ∧ (base.blk 0).pixel 0 0 = none ∧
    pix.closedAt = none ∧ ({ pix with closedAt := some 5000001 } : Pixel).closedAt.isSome = true ∧ stageList pix.plane (rxRegion 0) ≠ [] ∧ rxPairing pix.plane 0 = 0 ∧
    ((cell0 {}).blk 0).uncounted 0 0 0 0 = false ∧ 256 * (pix.win 0).o ≤ pulse.interval ∧ (pulse.interval - 256 * (pix.win 0).o) / 2 ^ (8 + (pix.win 0).kEff) = 1 ∧
    256 * (pix.win 0).o + 1 * 2 ^ (8 + (pix.win 0).kEff) < (pix.win 0).reach * 256 ∧ binCount (look (fun _ => 0) (pix.cell 0).bins 1) = 0 ∧
    binFine (look (fun _ => 0) (pix.cell 0).bins 1) + finePos 0 44 < 2 ^ 21 ∧ 256 ≤ (65536 - 256 * (pix.win 0).o) / 2 ^ (8 + (pix.win 0).kEff) := by decide +kernel
theorem wit_PixelsOpenFillCloseAndAreRead_closes : win.judged = false ∧ win.start + win.view.hi ≤ 5100000 * 2048 ∧ ((cell0 {}).blk 0).slots = [slot] ∧ slot.own = true ∧
    slot.judged.testBit 0 = false ∧ ((cell0 {}).blk 0).oldest = some (pix, false) ∧ pix.cutAt = none ∧ (cell0 {}).now * 2048 < (closeAt 0 ((cell0 {}).blk 0) pix).2 ∧
    (closeAt 0 ((cell0 {}).blk 0) pix).2 ≤ 5100000 * 2048 ∧ (closeAt 0 ((cell0 {}).blk 0) pix).1 = (closeAt 0 ((cell0 {}).blk 0) pix).2 := by decide +kernel
theorem wit_PixelsOpenFillCloseAndAreRead_reads : ({ bufX := some { pix with closedAt := some 5000000, read := 0 } } : RxBlk).reading = some { pix with closedAt := some 5000000, read := 0 } ∧
    base.now < 5000001 + 128 * 0 ∧ 5000000 + 128 * 0 ≤ base.now ∧ base.fenced (rxRegion 0) = false ∧ reporting pix.plane 0 0 = true ∧ base.mode ≠ .off ∧ base.mode ≠ .loader ∧
    base.answers = true ∧ base.fenced 13 = false ∧ base.domGood 47 = true ∧ base.mode ≠ .run ∧ base.mode ≠ .service := by decide +kernel

/-- Gate 0 of RX region 0 with evidence of one pixel without a return; a commit of frame 2 in progress; a full staging list. -/
def gated : State := setEvidence 0 0 { frame := 0, nPix := 4, nRet := 0, sumC := 0 } (cut [⟨0x08FFFF00, 0x0403, [0x18, 0, 0, 0]⟩] base)
def committing : State := w [(RX_GATE_STATUS 0, RX_GATE_STATUS.pending, 1)] { base with rx := { base.rx with commits := [(0, 2)] } }
theorem wit_GatesTrackAndAreStaged : (base.evidence 0 0).nPix = 0 ∧ gated.frameNum = (gated.evidence 0 0).frame ∧ 1 = ((gated.evidence 0 0).frame + 1) % 2 ^ 32 ∧ gated.frameNum ≠ 2 ∧
    (gateLaw (classTable (gated.planeOf (tgtRx 0)) 8) (classOf (classTable (gated.planeOf (tgtRx 0)) 8) 0 0) (gated.evidence 0 0) (gated.gate 0 0)).isSome = true ∧
    takesB base (RX_GATE_CMD 0) = true ∧ base.committing 0 = false ∧ committing.committing 0 = true ∧ committing.frameNum + 2 ≤ look (fun _ => 0) committing.rx.commits 0 ∧
    look (fun _ => 0) ({ committing with rx := { committing.rx with commits := [(0, 1)] } } : State).rx.commits 0 < committing.frameNum + 2 ∧ (base.staging 0).length < 64 ∧
    (setStaging 0 ((List.range 64).map (fun i => (i + 1, 0))) base).staging 0 = (List.range 64).map (fun i => (i + 1, 0)) ∧
    (setStaging 0 [(0, 5)] base).staging 0 = [] ++ (0, 5) :: [] ∧ base.frameNum < ((setReg (RX_GATE_FRAME 0) 1 base).reg (RX_GATE_FRAME 0)).toNat ∧
    (base.reg (RX_GATE_FRAME 0)).toNat ≤ base.frameNum ∧ (0#3).toNat = 0 ∧ 5 ≤ (5#3).toNat := by decide +kernel

theorem wit_MarkersCentreTheSkewAndCountersClear : (cut [] base).girdleOn 0 = true ∧ (base.blk 0).markersSeen < 256 ∧
    ((setBlk 0 { markersSeen := 256, markers := [0] } base).blk 0).markersSeen = 256 ∧ (64 - 0 : Int).natAbs ≤ 64 ∧ 64 < (65 - 0 : Int).natAbs ∧
    sext 16 (base.fget (GD_BLK_SKEW 0) GD_BLK_SKEW.skew) = 0 ∧ ((setBlk 0 { markers := [0] } base).blk 0).markers ≠ [] ∧ takesB base (GD_CELL_CMD 767) = true ∧
    base.scheduled (767 / 16) = false ∧ takesB bound (GD_CELL_CMD 0) = true ∧ bound.scheduled 0 = true := by decide +kernel

/-! ### Witnesses: capture, calibration, shots -/

/-- Capture runs with an open segment 0; an event of channel 5 and one of a marker. -/
def event : AqEvent := { tLsb := 5000000 * 128, shot := 3, attr := 0, stop := 0, pol := false, channel := 5 }
def marker : AqEvent := { event with channel := 0x3FD }
def segment : Segment := { seg := 0, start := 5000000, slots := 2088 }
def capturing (a : Aq) : State := w [(AQ_STATUS, AQ_STATUS.state, 1)] { cut [] base with aq := a }
/-- The same at 5,001,000, when events of 5,000,000 are due. -/
def later (s : State) : State := { s with time := { s.time with tbase := 5001000 } }
theorem wit_CaptureQueuesReleasesAndStores : (capturing {}).aqOn = true ∧ look (fun _ => []) ({ capturing {} with rx := { base.rx with toAq := [(0, [event])] } } : State).rx.toAq 0 = [event] ∧
    (((capturing {}).fifo 0).drop 0).length < 64 ∧ (capturing {}).inGap event = false ∧ (capturing { gapFrom := some 5000000, gapTo := some 6000000 }).inGap event = true ∧ 64 ≤ (((capturing { fifos := [(0, List.replicate 64 event)] }).fifo 0).drop 0).length ∧
    (capturing { seg := some segment }).aq.seg.isSome = true ∧ (look (fun _ => (0, 0)) (capturing { lost := [(0, (1, 0))] }).aq.lost 0).1 ≠ 0 ∧
    (capturing { merger := [event] }).earliest = some event ∧ (capturing { merger := [event] }).now * 128 < event.tLsb + 32768 ∧
    event.tLsb + 32768 ≤ (later (capturing {})).now * 128 ∧ (later (capturing {})).aqOn = true ∧ 768 ≤ marker.channel ∧ event.channel < 768 ∧ event.pol = false ∧
    (capturing {}).cut.waiting = [] ∧ (capturing {}).rbit (AQ_TRIG 0) 5 = false ∧ (∀ v ∈ [event], v.channel < 768) ∧ segment.trigSlot = none ∧
    segment.start * 128 ≤ event.tLsb ∧ (event.tLsb - segment.start * 128) / 2 ^ 32 ≤ segment.span ∧ segment.stored < segment.slots ∧
    ({ segment with trig := some 5000000 } : Segment).trig = some 5000000 ∧ ((setReg AQ_POST_TIME 10 base).reg AQ_POST_TIME).toNat ≠ 0 ∧
    base.aq.merger = [] ∧ base.aq.fifos = [] ∧ base.fget AQ_CFG AQ_CFG.stream = 0 ∧ base.fget AQ_CFG AQ_CFG.seq_mode = 0 ∧
    (w [(AQ_STATUS, AQ_STATUS.state, 3)] (cut [] base)).aqState = 3 ∧ (cut [] base).aqOn = true ∧ base.transmitting base.aq.nextSeg = false := by decide +kernel

theorem wit_CaptureCommandsAndTriggers : takesB base AQ_CTRL = true ∧ base.aqState = 0 ∧ (capturing {}).aqState = 1 ∧ base.transmitting 0 = false ∧ base.aq.seg = none ∧
    (capturing { seg := some segment }).aq.seg = some segment ∧ segment.trig = none ∧ base.fget AQ_CFG AQ_CFG.ext_en = 0 ∧
    (w [(AQ_CFG, AQ_CFG.ext_en, 1)] base).fget AQ_CFG AQ_CFG.ext_en = 1 ∧ base.fget AQ_CFG AQ_CFG.ext_pol = b2n false ∧ (capturing {}).aqOn = true ∧
    (w [(AQ_CFG, AQ_CFG.xline_in, 1)] base).fget AQ_CFG AQ_CFG.xline_in = 1 ∧ base.ownXline (5000000#64).toNat = false ∧ base.aq.stuck = false ∧
    base.fget AQ_CFG AQ_CFG.xline_in = 0 ∧ (capturing {}).closedNow = none ∧ base.aq.extAt = none ∧
    (capturing { closed := some ({ segment with trig := some 5000000, tick := 2500000 }, 3) }).closedNow = some ({ segment with trig := some 5000000, tick := 2500000 }, 3) ∧
    (capturing { extAt := some 4999991 }).aq.extAt = some 4999991 ∧ (capturing { pullUntil := some 5000000 }).aq.pullUntil = some 5000000 ∧ base.answers = true ∧ base.fenced 6 = false ∧
    blockOn ((capturing {}).planeOf tgtAq) 6 0 = true ∧ base.domGood 63 = true ∧ base.aq.undefinedSeg = none ∧ segment.seg = (0#22).toNat / 2 / base.segSlots ∧
    (0#22).toNat / 2 / base.segSlots < base.segCount ∧ 5 ≤ (5#3).toNat := by decide +kernel
theorem wit_TheCaptureWindowIsReadOnly : base.answers = true ∧ base.fenced 6 = false ∧ ¬(blockOn (base.planeOf tgtAq) 6 0 = true ∧ base.domGood 63 = true) ∧
    blockOn ((capturing {}).planeOf tgtAq) 6 0 = true ∧ (capturing {}).domGood 63 = true ∧ (0#22).toNat / 2 / base.segSlots < base.segCount ∧
    (capturing { seg := some segment }).aq.seg = some segment ∧ segment.seg = (0#22).toNat / 2 / base.segSlots ∧ (capturing {}).aq.seg = none ∧
    (capturing {}).aq.undefinedSeg ≠ some ((4194303#22).toNat / 2 / base.segSlots) := by decide +kernel

/-- Hit counts of a code-density run with every code alike, and a foreground run in block 0. -/
def even (n : Nat) : List Nat := List.replicate 128 (n / 128)
def running (s : State) : State := setBlk 0 { s.blk 0 with fgRunning := true } (w [(CAL_FG_STATUS, CAL_FG_STATUS.state, 1)] s)
theorem wit_CalibrationRunsJudgeAndShift : (base.blk 0).fgRunning = false ∧ ((running (cut [] base)).blk 0).fgRunning = true ∧ base.cal.fgLeft = [] ∧
    (codeDensity (even 2097152) 2097152).isSome = true ∧ codeDensity [] 2097152 = none ∧ (codeDensity (even 1048576) 1048576).isSome = true ∧ codeDensity [] 1048576 = none ∧
    checkable ((cut [] base).planeOf (tgtRx 0)) 0 15 = true ∧ (cut [] base).girdleOn 0 = true ∧ blockOn ((cut [] base).planeOf (tgtRx 0)) (rxRegion 0) (rxBlock 0) = true ∧
    base.mode = .configured ∧ takesB base CAL_CMD = true ∧ base.fget CAL_FG_STATUS CAL_FG_STATUS.state ≠ 1 ∧ base.fgBusy = 0 ∧ base.scheduled 0 = false ∧
    (((List.range 48).filter (fun j => (((setReg CAL_FG_MASK_LO 1 (cut [] base)).reg CAL_FG_MASK_LO).toNat +
      ((setReg CAL_FG_MASK_LO 1 (cut [] base)).reg CAL_FG_MASK_HI).toNat % 65536 * 2 ^ 32).testBit j)).filter
      (fun j => blockOn (cut [] base).cut.live (rxRegion j) (rxBlock j))) = [0] ∧ (running base).fget CAL_FG_STATUS CAL_FG_STATUS.state = 1 ∧
    ({ base with mode := .service } : State).mode ≠ .configured ∧ sectionAt 8 0 0 1 = true ∧ sectionAt 0 0 0 0 = false ∧ 0 < pointWords 1 ∧ 4 ≤ (4#4).toNat := by decide +kernel
theorem wit_CalibrationRunsJudgeAndShift_window :
    let s := w [(CAL_SEL, CAL_SEL.region, 8), (CAL_SEL, CAL_SEL.block, 0), (CAL_SEL, CAL_SEL.cell, 0), (CAL_SEL, CAL_SEL.kind, 1)] base
    sectionAt (s.fget CAL_SEL CAL_SEL.region) (s.fget CAL_SEL CAL_SEL.block) (s.fget CAL_SEL CAL_SEL.cell) (s.fget CAL_SEL CAL_SEL.kind) = true ∧
    s.fget CAL_SEL2 CAL_SEL2.in_force = 0 ∧ s.fget CAL_SEL2 CAL_SEL2.load_point = 0 ∧
    s.fget CAL_SEL2 CAL_SEL2.point < (s.section_ (calKey 8 0 0 1)).set.keys.length := by decide +kernel

/-- Port 0 has a fire due and a gate on its way; port 1 is masked. -/
def portFire : PortFire := { ns := 5000000, q := 0, width := 100, seq := 0 }
def ports : State := setPort 1 { masked := true, fires := [portFire] } (setPort 0 { fires := [portFire], gates := [portFire] } firing)
theorem wit_ShotsArePlacedFiredAndMonitored : (firing.seq 0).placing = true ∧ firing.shooting = true ∧ firing.tx.checks = [] ∧
    seqShots (shotTable (firing.seq 0).plane) 0 = 4 ∧ (firing.seq 0).n % 4 ≠ 0 ∧
    (firing.seq 0).n + 1 < seqPixels (shotTable (firing.seq 0).plane) 0 * 4 ∧ (base.seq 0).placing = false ∧ (ports.port 0).fires = [portFire] ∧
    ({ ports with time := { ports.time with tbase := 4999999 } } : State).now < portFire.ns ∧ portFire.ns ≤ ports.now ∧ ports.driving = true ∧ (ports.port 0).masked = false ∧ ports.isolated 4 0 = false ∧ (isolateBlock 4 0 ports).isolated 4 0 = true ∧
    ports.pair ≠ .active ∧ ports.reg64 (TX_PORT_FIRES_LO 0) + 2 < 2 ^ 64 ∧ (ports.port 1).masked = true ∧ (ports.port 0).gates = [portFire] ∧
    (let lim := param (TX_BLK_MON_LIM 0) 0x00C80064
     let pl := (cut [lim] base).planeOf tgtTx
     cutF pl (TX_BLK_MON_LIM 0) TX_BLK_MON_LIM.mon_min = 100 ∧ cutF pl (TX_BLK_MON_LIM 0) TX_BLK_MON_LIM.mon_max = 200) ∧
    takesB ports (TX_PORT_CMD 1) = true ∧ (∀ a ∈ (setPort 1 { masked := true } base).tx.seqs, a.2.placing = false) ∧
    (seqEmitters (shotTable (firing.seq 0).plane) 0).testBit 0 = true ∧ takesB base TX_HOP_FRAME = true ∧ base.frameNum < (1#32).toNat ∧
    (1#32).toNat ≤ (setReg FRAME_NUM 1 base).frameNum := by decide +kernel
theorem wit_PulsesAfterTheCloseAreDropped : ((cell0 { out := [pulse.word 0 0 0] }).cell 0).out = [pulse.word 0 0 0] ∧
    (∀ p, (base.blk 0).pixel (pulse.word 0 0 0).frame (pulse.word 0 0 0).m = some p → p.closedAt.isSome = true) ∧
    ((setReg (GD_CELL_CNT3 0) 0xFFFE0000 base).reg (GD_CELL_CNT3 0)).toNat / 65536 + 1 = 0xFFFF := by
  refine ⟨by decide +kernel, ?_, by decide +kernel⟩
  intro p h; exact absurd (show (base.blk 0).pixel (pulse.word 0 0 0).frame (pulse.word 0 0 0).m = none by decide +kernel) (by rw [h]; exact Option.some_ne_none p)

/-! ### Witnesses: converters, loops, excitation -/

/-- Converter 48 converts its sequence. -/
def conv (x : Adc) : State := setAdc 48 { x with released := true, scanned := true, scanning := false } base
/-- Its sequence has one plain entry, and its trim section passes codes as they are. -/
def plain (x : Adc) : State :=
  let s := setSection (calKey 3 0 0x20 6) { set := { keys := [0], load := false, points := [[0, 0x400000, 0, 0x400000, 0, 0x400000, 0, 0x400000]] } }
    (cut [⟨adcFrame 48, 0x0503, [1, 0, 0, 0, 0]⟩] base)
  setAdc 48 { x with released := true, scanned := true, scanning := false, pl := s.cut.live } s
def request : InjReq := { src := .loop 0, ctl := 0 }
theorem wit_ConvertersConvertAnswerAndCheckThemselves_results : base.adcRuns 48 = true ∧ (base.adc 48).active = none ∧ (base.adc 48).calRun = none ∧
    (base.adc 48).calAsk = none ∧ (base.adc 48).resumeAt = none ∧ (base.adc 48).epoch = base.epochOf (adcTarget 48) ∧ (base.adc 48).pl = base.planeOf (adcTarget 48) ∧ (base.adc 48).due = [] ∧ (base.adc 48).refWait = false ∧
    (base.adc 48).scanning = base.wantsScan 48 ∧ (adcSeq (base.adc 48).pl 48).length ≤ 16 ∧ (base.adc 48).scanning = true ∧
    ((plain {}).adc 48).scanning = (plain {}).wantsScan 48 ∧ ((plain {}).adc 48).scanning = false ∧ ((plain {}).adc 48).pl = (plain {}).planeOf (adcTarget 48) ∧
    (adcSeq ((plain {}).adc 48).pl 48)[((plain {}).adc 48).pos]? = some [0, 0, 0, 0] ∧ Ent.filt (Ent.ctl [0, 0, 0, 0]) = 0 ∧ Ent.curve (Ent.ctl [0, 0, 0, 0]) = 0 ∧
    ((plain {}).adc 48).calSettle = none ∧ (plain {}).fget (ADC_BN_CFG 48) ADC_BN_CFG.en = 0 := by decide +kernel
theorem wit_ConvertersConvertAnswerAndCheckThemselves_requests : ((conv { incoming := [request] }).adc 48).incoming = [request] ∧ (conv {}).adcRuns 48 = true ∧
    ((conv { active := some request }).adc 48).active = some request ∧ ((conv { active := some request }).adc 48).resumeAt = none ∧ ((conv {}).adc 48).calRun = none ∧
    ((conv {}).adc 48).resumeAt = none ∧ ((conv { resumeAt := some 5000001 }).adc 48).resumeAt = some 5000001 ∧ (conv { resumeAt := some 5000001 }).now < 5000001 ∧
    ((conv { resumeAt := some 4999000, waiting := [request] }).adc 48).resumeAt = some 4999000 ∧ 4999000 ≤ (conv { resumeAt := some 4999000, waiting := [request] }).now ∧
    ((conv { resumeAt := some 4999000, waiting := [request] }).adc 48).waiting = [request] ∧ ((conv { calRun := some (0, false, 4) }).adc 48).calRun.isSome = true ∧
    ((conv { lastGood := [(0, 5)] }).adc 48).lastGood.find? (fun e => e.1 = Ent.input request.ctl) = some (0, 5) := by decide +kernel
theorem wit_ConvertersConvertAnswerAndCheckThemselves_checks : 2048 ≤ ((conv { passes := 2048 }).adc 48).passes ∧ ((conv {}).adc 48).passes < 2048 ∧
    checkFails 48 false (sampleOf 48 ((plain {}).trim 48 0 (adcBits 48) 262143)) = true ∧ checkFails 48 false (sampleOf 48 ((plain {}).trim 48 0 (adcBits 48) 131072)) = false ∧
    ((conv { fail30 := 1 }).adc 48).fail30 < 2 ∧ refExists 48 0 = true ∧ ((conv { lostRefs := 1 }).adc 48).lostRefs.testBit 0 = true ∧
    ((conv {}).adc 48).lostRefs.testBit 0 = false ∧ (base.settledRefs 48).testBit 0 = false ∧ ((setReg (ADC_REF 48) 1 base).settledRefs 48).testBit 0 = true ∧
    base.refSettles 48 0 2500000 2500000 0 = true ∧ base.refSettles 48 0 2600000 2500000 0 = false ∧ base.refLost 0 2600000 2500000 = true ∧ base.refLost 0 2500000 2500000 = false ∧
    base.refLost 1 400000 400000 = true ∧ base.refSettles 48 1 2500000 2500000 63999 = false ∧ base.refSettles 48 1 2500000 2500000 64000 = true ∧
    (cutReg ((cut [param (RX_BLK_BIAS_CFG 0) 0] base).planeOf (tgtRx 0)) (RX_BLK_BIAS_CFG 0)).toNat % 65536 = 0 ∧
    (cutReg ((cut [param (RX_BLK_BIAS_CFG 0) 50] base).planeOf (tgtRx 0)) (RX_BLK_BIAS_CFG 0)).toNat % 65536 ≠ 0 ∧
    base.loopState 8 = 0 ∧ (base.blk 0).biasAt + 1000000 ≤ base.now ∧ base.adcRuns 0 = true ∧ ((setLoopState 8 1 base).loopState 8) ≠ 0 := by decide +kernel

theorem wit_ConverterCommandsCalibrateScanAndSelect : takesB base (ADC_CMD 48) = true ∧ ({ base with mode := .run } : State).mode = .run ∧ base.mode = .configured ∧
    ((conv { calRun := some (0, false, 4) }).adc 48).calRun.isSome = true ∧ ((conv {}).adc 48).calRun = none ∧
    base.fget (ADC_SYSCAL_IDX 48) ADC_SYSCAL_IDX.entry < (adcSeq ((conv {}).adc 48).pl 48).length ∧
    ¬((w [(ADC_SYSCAL_IDX 48, ADC_SYSCAL_IDX.entry, 15)] base).fget (ADC_SYSCAL_IDX 48) ADC_SYSCAL_IDX.entry < (adcSeq ((conv {}).adc 48).pl 48).length) ∧
    ((conv { zero := some (0, 7) }).adc 48).zero = some (0, 7) ∧ ((conv {}).adc 48).zero = none ∧ takesB base (ADC_BANK 48) = true ∧
    ((conv { fade := some 3 }).adc 48).fade.isSome = true ∧ getF ADC_BANK.target 0 = base.fget (ADC_BANK 48) ADC_BANK.active ∧
    getF ADC_BANK.target 1 ≠ base.fget (ADC_BANK 48) ADC_BANK.active ∧ base.scheduled 47 = false ∧ ((conv {}).adc 48).waiting = [] ∧
    ((conv { calAsk := some (0, false, 4) }).adc 48).calAsk = some (0, false, 4) ∧ ((conv {}).adc 48).calAsk = none ∧ (∀ p ∈ ((conv {}).adc 48).due ++ (conv {}).rx.rtWrites, p.1 ≠ ADC_BANK 48) ∧
    (∃ p ∈ ((conv { due := [(ADC_BANK 48, 1)] }).adc 48).due, p.1 = ADC_BANK 48) ∧
    ((conv { calRun := some (0, true, 4), zero := some (0, 7) }).adc 48).calRun = some (0, true, 4) ∧ (2 : Int) ^ 19 ≤ divRoundI (2 ^ 24) (2 ^ 4) - 7 ∧
    divRoundI (2 ^ 20) (2 ^ 4) - 7 < (2 : Int) ^ 19 ∧ divRoundI ((base.reg (ADC_SYSCAL_TARGET 48)).toNat * 2 ^ 22 : Nat) (divRoundI (2 ^ 26) (2 ^ 4) - 7).toNat < 2 ^ 24 := by
  decide +kernel

/-- Loop 0 mirrors axis 0: gain 1, limits ±2^22, period 10,000 ns. -/
def loopWords : List Word := [0, 48, 10000, 65536, 0, 0, 0xC00000, 0x400000, 0xC00000, 0x400000] ++ List.replicate 100 0
def looping (st : Nat) (x : Loop) : State :=
  setLoopState 0 st (setLoop 0 { x with set := loopWords, first := false } (cut [⟨0x03004000, 0x0903, loopWords⟩] base))
def sample (held : Bool) : LoopIn := { word := 0x100, time := 4999000, held := held }
theorem wit_LoopsSampleEvaluateHoldAndRearm : (looping 1 {}).scRuns = true ∧ (looping 1 {}).loopState 0 = 1 ∧ loopInjects 8 [] = true ∧ base.adc (loopConv 8 []) = {} ∧
    ((setLoopState 8 1 base).loop_ 8).lastReq + LSet.period [] ≤ base.now ∧ ((looping 0 { inbox := [sample false] }).loop_ 0).inbox = [sample false] ∧
    (looping 0 {}).loopState 0 = 0 ∧ ¬(0 < 8 ∧ LSet.kind loopWords = 1) ∧ ((looping 1 { inbox := [sample true] }).loop_ 0).inbox = [sample true] ∧ (sample true).held = true ∧
    (sample false).lost = false ∧ ((looping 1 { inbox := [{ sample false with lost := true }] }).loop_ 0).inbox = [{ sample false with lost := true }] ∧
    ((looping 1 {}).loop_ 0).pend = none ∧ (looping 1 {}).cut.waiting = [] ∧
    ((looping 1 {}).loop_ 0).set = loopSet ((looping 1 {}).planeOf tgtSc) 0 ∧ ((looping 1 {}).loop_ 0).spNext = [] ∧ LSet.kind loopWords = 0 ∧ LSet.invert loopWords = false ∧
    LSet.fbMin loopWords = -4194304 ∧ LSet.fbMax loopWords = 4194304 ∧ LSet.fbMax loopWords < 4194305 ∧ (0x100#32).getLsbD resInvalid = false ∧ (0x100#32).getLsbD resOver = false ∧
    (looping 2 {}).loopState 0 = 2 ∧ ((looping 1 {}).loop_ 0).first = false ∧ LSet.rateLim loopWords = 0 ∧ LSet.nProf loopWords = 0 ∧ LSet.frzN loopWords = 0 ∧
    (looping 1 {}).cascadeOf 0 = none ∧ (looping 1 {}).loopSuppressed 0 = false ∧ (looping 1 { arrived := 4990000 }).now < 4990000 + 2 * LSet.period loopWords ∧
    4980000 + 2 * LSet.period loopWords ≤ (looping 1 {}).now ∧ (looping 3 {}).loopState 0 = 3 ∧ (looping 3 {}).now < 4990001 + LSet.period loopWords ∧
    4990000 + LSet.period loopWords ≤ (looping 3 {}).now ∧ 4000 ≤ ({ base with sc := { base.sc with evals := 4000 } } : State).sc.evals ∧ base.sc.evals < 4000 ∧
    takesB base (SC_LOOP_CMD 0) = true ∧ takesB base (SC_LOOP_SP 63) = true ∧ takesB base (SC_AXIS_AMP 7) = true ∧ base.ampDriven 0 = false ∧
    (setLoopState 56 1 (setLoop 56 { set := (List.range 40).map (fun i => if i = 14 then 2 else 0) } base)).ampDriven 0 = true := by decide +kernel
/-- An evaluation that the engine has issued, with a sample and in SETTLE_HOLD. -/
def evaluating (st : Nat) (p : Option (Int × Word × Nat)) : State :=
  let s := looping st {}
  { s with sc := { s.sc with issued := [{ loop := 0, sample := p, at_ := 4999700 }] } }
theorem wit_LoopsSampleEvaluateHoldAndRearm_issues :
    ((looping 1 { pend := some (5, 0x100, 4999000), pendAt := 4999900 }).loop_ 0).pend.isSome = true ∧
    (looping 1 { pend := some (5, 0x100, 4999000), pendAt := 4999900 }).readyLoops = [(0, 4999900)] ∧ (looping 1 {}).now = 5000000 ∧
    (looping 1 {}).sc.issueAt = none ∧ (looping 1 {}).sc.issued = [] ∧ (looping 1 {}).nextIssue = none ∧ (looping 3 {}).loopState 0 = 3 ∧ ((looping 3 {}).loop_ 0).pend = none ∧
    (evaluating 1 (some (5, 0x100, 4999000))).nextIssue = none ∧ (evaluating 3 none).nextIssue = none ∧ (evaluating 3 none).scRuns = true ∧
    ((engineRun (looping 1 { pend := some (5, 0x100, 4999000), pendAt := 5000001 })).loop_ 0).pend.isSome = true ∧
    (evaluating 2 (some (5, 0x100, 4999000))).loopState 0 = 2 ∧ (evaluating 1 (some (5, 0x100, 4999000))).sc.issued ≠ [] := by decide +kernel

/-- Axis 0 in mode `m`, with its cell enabled. -/
def axis0 (m : Nat) (x : Axis) : State := setAxis 0 x (cut [param (SC_AXIS_CFG 0) (BitVec.ofNat 32 (m * 2 ^ SC_AXIS_CFG.mode.lo + 2 ^ SC_AXIS_CFG.chop_en.lo))] base)
def drive : DriveVal := { value := 5, time := 4999000, held := false, loop := 0 }
theorem wit_ExcitationReversesAndDriveWordsLeave : base.adcRuns 48 = true ∧ (base.adc 48).released = false ∧ base.mode ≠ .loader ∧ base.adcFault 48 = false ∧
    (setReg (ADC_REF 48) 15 base).refsSettled 48 = true ∧ ((conv {}).adc 48).scanned = true ∧ ((conv {}).adc 48).released = true ∧ (setAdc 48 { pl := ((plain {}).adc 48).pl } (plain {})).refsSettled 48 = false ∧
    max base.cut.swapI (base.adc 48).enabledAt + 5000000 ≤ base.now ∧
    base.now < max ({ base with cut := { base.cut with swapI := 1 } } : State).cut.swapI (base.adc 48).enabledAt + 5000000 ∧
    base.now < max base.cut.swapI ((setAdc 48 { enabledAt := 1 } base).adc 48).enabledAt + 5000000 ∧ (base.adc 48).epoch = base.epochOf (adcTarget 48) ∧
    (base.adc 48).pl = base.planeOf (adcTarget 48) ∧ ((axis0 1 { fault := true }).axis 0).fault = true ∧ (axis0 1 {}).rbit (SC_AXIS_FLAGS 0) SC_AXIS_FLAGS.exc_fault.lo = false ∧
    (w [(SC_AXIS_FLAGS 0, SC_AXIS_FLAGS.exc_fault, 1)] base).rbit (SC_AXIS_FLAGS 0) SC_AXIS_FLAGS.exc_fault.lo = true ∧
    ((setAdc 48 { released := true } (axis0 1 {})).adc (48 + 0 / 2)).released = true ∧ cellOn ((axis0 1 {}).planeOf tgtSc) 3 0 1 = true ∧ base.planeOf tgtSc = none ∧
    (axis0 1 {}).planeOf tgtSc ≠ none ∧ cellOn ((cut [⟨0x0300FF00, 1, [0xFFFE, 0]⟩] base).planeOf tgtSc) 3 0 0 = false ∧
    cellOn ((axis0 1 {}).planeOf tgtSc) 3 0 0 = true ∧ ((axis0 1 {}).axis 0).fault = false ∧ (w [(SC_AXIS_EXC 0, SC_AXIS_EXC.exc_on, 1)] base).fget (SC_AXIS_EXC 0) SC_AXIS_EXC.exc_on = 1 ∧
    cutF ((axis0 1 {}).planeOf tgtSc) (SC_AXIS_CFG 0) SC_AXIS_CFG.mode = 1 ∧ base.pair = .solo ∧ (base.axis 0).on = false ∧ ((axis0 1 { on := true }).axis 0).on = true ∧
    takesB base (SC_AXIS_EXC 0) = true ∧ base.scRuns = true ∧ ({ base with mode := .loader } : State).scRuns = false ∧ loopSet ((axis0 1 {}).planeOf tgtSc) 0 = [] ∧
    loopSet ((looping 1 {}).planeOf tgtSc) 0 ≠ [] ∧ LSet.conv loopWords = 48 ∧ (conv {}).adcRuns 48 = true ∧ ((conv {}).adc 48).scanning = false ∧
    cutF ((axis0 1 {}).planeOf tgtSc) (SC_AXIS_CFG 0) SC_AXIS_CFG.chop_en ≠ 0 ∧ ((axis0 1 { on := true }).axis 0).outputs < 16 ∧ 16 ≤ ((axis0 1 { on := true, outputs := 16 }).axis 0).outputs ∧
    max 16 (cutF ((axis0 1 {}).planeOf tgtSc) (SC_AXIS_CFG 0) SC_AXIS_CFG.chop_n) = 16 ∧ (w [(PAIR_STATUS, PAIR_STATUS.state, 2)] base).pair = .standby ∧
    base.now < ((axis0 1 { busyUntil := 5000001 }).axis 0).busyUntil ∧ ((axis0 1 {}).axis 0).busyUntil ≤ base.now ∧ ((axis0 1 { drive := some drive }).axis 0).drive = some drive ∧
    drive.loop < 64 ∧ ((axis0 1 { aux := [drive] }).axis 0).aux = [drive] ∧ ((axis0 1 {}).axis 0).drive = none ∧ ((axis0 1 {}).axis 0).aux = [] ∧ cutF ((axis0 2 {}).planeOf tgtSc) (SC_AXIS_CFG 0) SC_AXIS_CFG.mode = 2 ∧
    (setLoopState 0 1 (axis0 2 {})).loopState 0 ≠ 0 ∧ base.time.period = none ∧ base.fenced 3 = false ∧ base.domGood 64 = true ∧
    ((axis0 1 {}).axis 0).startedAt + 10000 ≤ base.now ∧ base.now < ((axis0 1 { startedAt := 4990001 }).axis 0).startedAt + 10000 := by decide +kernel

/-! ### Witnesses: safety -/

/-- A safety set: emitter 0 enabled with weights 100, one window of 10 ticks, axis 0 required, estop_disc 1 ms. -/
def setWords : List Word := (List.range 336).map (fun i => if i = 0 ∨ i = 1 then 1 else if i = 3 then 10 else if i = 8 then 1 else
  if i = 10 then 4096 + 10 else if i = 12 then 1 else if i = 16 then 0x10064 else if i = 80 then 100 else 0)
/-- Both channels in given states, with the set in force. -/
def sf (a b : Nat) (c0 c1 : SfChan) (s : State) : State :=
  w [(SF_STATUS, sfField 0, a), (SF_STATUS, sfField 1, b)] (setSfc 0 c0 (setSfc 1 c1 { s with sf := { s.sf with set := some setWords } }))
/-- A channel in PERMIT without a condition, its peer likewise. -/
def ok : SfChan := { cause := 0, en := true, cycleAt := some 4980000 }
def permit : State := sf 4 4 ok ok base
theorem wit_SafetyConditionsTripTheirChannel : permit.sfState 0 = 4 ∧ (permit.sfc 0).cause = 0 ∧ ((sf 2 4 { ok with cause := 1 } ok base).sfc 0).cause = 1 ∧
    permit.sf.set.isSome = true ∧ 3999999 + permit.sfWord 12 % 65536 * 1000000 < permit.now ∧ permit.now ≤ 4000000 + permit.sfWord 12 % 65536 * 1000000 ∧
    permit.sfOn 0 = true ∧ ((sf 4 2 ok { ok with crossOff := true } base).sfc 1).crossOff = true ∧ (permit.sfc 1).crossOff = false ∧
    ({ permit with startup := { permit.startup with chip := [.junction] } } : State).startup.chip ≠ [] ∧ permit.sfOn 1 = true ∧
    (permit.sfWord (1 + 63 / 32)).testBit (63 % 32) = false ∧ (permit.sfWord (1 + 0 / 32)).testBit (0 % 32) = true ∧ (permit.sfc 1).atLimit = false ∧
    ({ permit with sc := { permit.sc with toA := [(0, true)] } } : State).sc.toA = [(0, true)] ∧ (permit.sfc 0).scanFault.testBit 0 = false ∧ permit.scanReq 0 = true ∧
    permit.scanReq 7 = false ∧ (permit.sfc 0).stopped = 0 ∧ (permit.sfc 0).stopAt = none ∧ permit.sfWord 9 = 0 ∧ (permit.sfc 0).asked = [] ∧
    (0x100#32).getLsbD resInvalid = false ∧ (∀ p ∈ permit.supplyIn, p.1 ≠ 0) ∧ ({ permit with supplyIn := [(0, resWord 4026532 0)] } : State).supplyIn = [(0, resWord 4026532 0)] ∧
    1140000 * 2 ^ 23 ≤ resValue (resWord 4026532 0) * 2500000 ∧ resValue (resWord 4026532 0) * 2500000 ≤ 1260000 * 2 ^ 23 ∧ resValue (resWord 3800000 0) * 2500000 < 1140000 * 2 ^ 23 ∧
    1260000 * 2 ^ 23 < resValue (resWord 4300000 0) * 2500000 ∧ permit.sfState 0 ≠ 1 ∧ (permit.sfc 0).supplyAt + 10000000 ≤ ({ permit with time := { permit.time with tbase := 10000000 } } : State).now ∧
    (w [(PAIR_STATUS, PAIR_STATUS.state, 2)] permit).pair = .standby ∧ permit.pair = .solo ∧ permit.pairSt.budgetAt = none := by decide +kernel
theorem wit_FiresOutsideEmitterEnTripTheirChannel : ({ permit with tx := { permit.tx with tapB := [(63, 0, 0)], tapA := [(63, 0, 0, false)] } } : State).tx.tapB = [(63, 0, 0)] ∧
    permit.sfOn 1 = true ∧ permit.sfOn 0 = true ∧ permit.sf.set.isSome = true ∧ (permit.sfWord (1 + 63 / 32)).testBit (63 % 32) = false ∧ permit.sfState 1 = 4 ∧
    (permit.sfc 1).cause < 256 := by decide +kernel

/-- Tick 49 has closed at 4,900,000; channel 0 holds the message of tick 48 and waits for tick 49's decision. -/
def message : XcMsg := { tick := 48, state := 4, cause := 0, digest := 0, fires := [], sums := [] }
def ticking (c : SfChan) : State := let s := sf 4 4 c ok base; { s with sf := { s.sf with tick := some 49 } }
theorem wit_SafetyCyclesTestsAndComparisons_cycle : ({ permit with time := { permit.time with running := false } } : State).sfOn 0 = false ∧
    (w [(MODE_STATUS, MODE_STATUS.phase, 5)] permit).fget MODE_STATUS MODE_STATUS.phase ≠ 4 ∧ (permit.sfc 0).cycleAt = some 4980000 ∧ 4980000 + 19000 ≤ permit.now ∧
    permit.now ≤ 4980000 + 21000 ∧ (permit.sfc 0).en = true ∧ (permit.sfc 1).en = true ∧ (permit.sfc 1).crossOff = false ∧ (permit.sfc 0).move = none ∧
    4999999 < permit.now ∧ permit.now < 4981001 + 19000 ∧ ((sf 3 4 { ok with move := some (4999999, 4) } ok base).sfc 0).move = some (4999999, 4) ∧
    (sf 3 4 ok ok base).sfState 0 = 3 ∧ ((sf 4 4 { ok with fbBad := 1 } ok base).sfc 0).fbBad = 1 ∧ (permit.sfc 0).pulse = none ∧ (permit.sfc 0).enAt + 2000 ≤ permit.now := by
  decide +kernel
theorem wit_SafetyCyclesTestsAndComparisons_ticks : (let s : State := { permit with sf := { permit.sf with tick := some 50 } }; s.sf.tick = some s.tick) ∧ permit.sf.tick ≠ some permit.tick ∧
    permit.time.running = true ∧ permit.domGood 67 = true ∧ permit.cut.waiting = [] ∧ permit.pair ≠ .active ∧ permit.sf.commit = none ∧
    ({ permit with sf := { permit.sf with commit := some (50, setWords, 0) } } : State).sf.commit = some (50, setWords, 0) ∧ 50 ≤ permit.tick ∧ permit.tick < 51 ∧
    (ticking ok).sf.tick = some 49 ∧ (ticking ok).sfOn 0 = true ∧ 49 ≠ 0 ∧ ((ticking ok).sfc 0).sentK ≠ some 49 ∧ 49 * 100000 + 5000 ≤ (ticking ok).now ∧
    (ticking ok).now < 50 * 100000 + 5000 ∧ ((sf 4 4 ok { ok with out := some message } base).sfc 1).out = some message ∧ (permit.sfc 1).out = none ∧
    (ticking ok).sfState 0 ≠ 0 ∧ ((ticking ok).sfc 0).decidedK ≠ some 49 ∧ 49 * 100000 + 40000 ≤ (ticking ok).now ∧ (∀ m, ((ticking ok).sfc 0).peer = some m → m.tick + 1 ≠ 49) ∧
    ((ticking { ok with peer := some message }).sfc 0).peer = some message ∧ message.tick + 1 = 49 ∧ message.digest = base.reg SF_SET_DIGEST ∧
    (setReg SF_SET_DIGEST 1 base).reg SF_SET_DIGEST ≠ message.digest ∧ (ticking ok).xcFails ((ticking ok).sfc 0) message
      ((List.range 64).foldl (fun l e => put (fun _ => 0) l e (if (ticking ok).energyDiffers ((ticking ok).sfc 0) message.tick e then look (fun _ => 0) ((ticking ok).sfc 0).energyBad e + 1 else 0)) []) = false := by
  have quiet : ((ticking ok).sfc 0).peer = none := by decide +kernel
  simp only [quiet, reduceCtorEq, false_implies, implies_true, true_and]
  decide +kernel
theorem wit_SafetyCyclesTestsAndComparisons_pulses : (let s : State := { permit with time := { permit.time with tbase := 10000000 } }
     (s.sfc 0).pulse = none ∧ (s.sfc 0).pulseAt ≠ some (s.pulseGrid 0) ∧ s.now ≤ s.pulseGrid 0 + 21000) ∧ (sf 3 4 ok ok base).sfState 0 ≠ 4 ∧
    (((sf 4 4 { ok with pulse := some 4999750, en := false } ok base).sfc 0).pulse = some 4999750) ∧ 4999750 + 250 ≤ base.now ∧ base.now < 4999801 + 200 ∧ 4999750 + 200 ≤ base.now ∧
    ((sf 4 4 { ok with pulse := some 4997750, pulseLow := true } ok base).sfc 0).pulseLow = true ∧ 4997750 + 2250 ≤ base.now ∧ base.sf.rstStuck = false ∧ base.sf.rstEdge = none ∧
    ({ base with sf := { base.sf with rstStuck := true } } : State).sf.rstStuck = true ∧ (sf 1 1 ok ok base).sfState 0 = 1 ∧ (sf 1 1 ok ok base).sfState 1 = 1 ∧ (sf 3 3 ok ok base).fget SF_RESULT SF_RESULT.test ≠ 3 ∧ (sf 3 3 ok ok base).sfState 0 ≠ 1 ∧
    (w [(MODE_STATUS, MODE_STATUS.phase, 5)] (sf 1 1 ok ok base)).fget MODE_STATUS MODE_STATUS.phase = 5 := by decide +kernel

/-- A password of eight bytes "!" set, written again, unlocked, with a presence window. -/
def password : List Byte := List.replicate 8 0x21
def entered (s : State) : State := setReg SF_PWD_LEN 8 { s with sf := { s.sf with pwdWords := [(0, 0x21212121), (1, 0x21212121)], pwdA := some password, pwdB := some password } }
def unlocked : State := w [(FW_STATUS, FW_STATUS.presence, 1)] (let s := entered permit; { s with sf := { s.sf with unlockedUntil := some 5000001 } })
theorem wit_SafetyCommandsNeedTheirConditions : takesB base SF_CMD = true ∧ ({ base with sf := { base.sf with lockedUntil := some 1 } } : State).sf.lockedUntil.isSome = true ∧
    base.sf.lockedUntil = none ∧ (entered base).sf.pwdA = some (entered base).pwdBytes ∧ (entered base).sf.pwdB = some (entered base).pwdBytes ∧
    base.sf.pwdA ≠ some base.pwdBytes ∧ base.sf.failures + 1 < 5 ∧ 5 ≤ ({ base with sf := { base.sf with failures := 4 } } : State).sf.failures + 1 ∧ base.unlocked = false ∧
    (entered base).sf.pwdA.isSome = true ∧ unlocked.unlocked = true ∧ base.presence = false ∧ unlocked.presence = true ∧ pwdOk unlocked.pwdBytes = true ∧ pwdOk base.pwdBytes = false ∧
    permit.sf.set = some setWords ∧ unlocked.mode = .configured ∧ ({ unlocked with mode := .service } : State).mode ≠ .configured ∧
    setOk unlocked.cut.live unlocked.stagingWords = false ∧
    setOk unlocked.cut.live ({ unlocked with sf := { unlocked.sf with staging := setWords } } : State).stagingWords = true ∧ (sf 1 4 ok ok base).sfState 0 = 1 ∧
    takesB base SF_PARAM_DATA = true ∧ (0#4).toNat = 0 ∧ 8 ≤ (8#4).toNat ∧ ({ base with mode := .run } : State).mode = .run := by decide +kernel

/-- The steps of a cycle have their states: every field that the premises of the statement name. -/
theorem wit_SafetyStepsTakeEffect : permit.sfOn 0 = true ∧ permit.time.running = true ∧ permit.sf.tick ≠ some permit.tick ∧ permit.domGood 67 = true ∧
    (ticking ok).sf.tick = some 49 ∧ (ticking ok).sfOn 0 = true ∧ ((ticking ok).sfc 0).sentK ≠ some 49 ∧ 49 * 100000 + 40000 ≤ (ticking ok).now ∧
    (ticking ok).sfState 0 ≠ 0 ∧ ((ticking ok).sfc 0).decidedK ≠ some 49 ∧ ((sf 4 4 ok { ok with out := some message } base).sfc 1).out = some message ∧
    (let s : State := { permit with time := { permit.time with tbase := 10000000 } }
     s.sfState 0 = 4 ∧ (s.sfc 0).en = true ∧ (s.sfc 0).pulse = none ∧ (s.sfc 0).pulseAt ≠ some (s.pulseGrid 0) ∧ s.now ≤ s.pulseGrid 0 + 21000 ∧ s.pair = .solo) ∧
    ((sf 4 4 { ok with pulse := some 4999750, en := false } ok base).sfc 0).pulse = some 4999750 ∧ 4999750 + 250 ≤ base.now ∧
    ((sf 4 4 { ok with pulse := some 4997750, pulseLow := true } ok base).sfc 0).pulseLow = true ∧ 4997750 + 2250 ≤ base.now ∧ permit.sf.rstStuck = false ∧
    (sf 1 1 ok ok base).sfState 0 = 1 ∧ (sf 1 1 ok ok base).sfState 1 = 1 := by decide +kernel
theorem wit_SafetyWritesTakeEffect : takesB unlocked SF_CMD = true ∧ unlocked.sf.lockedUntil = none ∧ unlocked.sf.pwdA = some unlocked.pwdBytes ∧
    unlocked.sf.pwdB = some unlocked.pwdBytes ∧ unlocked.unlocked = true ∧ unlocked.presence = true ∧ pwdOk unlocked.pwdBytes = true ∧ unlocked.mode = .configured ∧
    (let s : State := { unlocked with sf := { unlocked.sf with staging := setWords } }
     setOk s.cut.live s.stagingWords = true ∧ s.sf.pwdA.isSome = true ∧ s.unlocked = true ∧ s.presence = true ∧ takesB s SF_CMD = true) ∧
    (0#4).toNat = 0 ∧ takesB unlocked SF_PARAM_DATA = true ∧ (unlocked.reg SF_PARAM_IDX).toNat < 336 ∧ unlocked.sf.unlockedUntil = some 5000001 ∧
    5000001 ≤ ({ unlocked with time := { unlocked.time with tbase := 5000001 } } : State).now ∧
    ({ base with sf := { base.sf with lockedUntil := some 1 } } : State).sf.lockedUntil = some 1 ∧ 1 ≤ base.now := by decide +kernel

/-! ### Witnesses: pairs and power -/

/-- A unit of a pair in state `n` (1 ACTIVE, 2 STANDBY, 3 WITHDRAWN), whose last frame boundary was at 4,000,000. -/
def paired (n : Nat) (p : PairSt) : State :=
  w [(PAIR_STATUS, PAIR_STATUS.state, n)] (setReg FRAME_EDGE_LO 4000000 (cut [param PAIR_CFG (BitVec.ofNat 32 (2 ^ PAIR_CFG.pair_en.lo))] { base with pairSt := p }))
theorem wit_ClaimsDecideWhoIsActive : (paired 1 {}).slotStart = some 4970000 ∧ base.time.running = true ∧ (paired 1 {}).pairSt.slot ≠ some 4970000 ∧
    (paired 1 {}).claimsAt 4970000 = true ∧ ({ paired 1 {} with time := { base.time with tbase := 4980000 } } : State).now < 4970000 + 12500 ∧ (paired 3 {}).claimsAt 4970000 = false ∧
    (paired 2 {}).pairSt.claims = false ∧ claimBits (claimBits 1 / 256) = claimBits 1 ∧ 1 ≤ 1 ∧ claimBits (1 / 256) ≠ 1 ∧ (paired 2 { claims := true, slot := some 4970000 }).ownLatch = true ∧ (paired 1 { claims := true, slot := some 4970000 }).ownLatch = true ∧
    claimBits (claimBits (paired 2 {}).carat / 256) = claimBits (paired 2 {}).carat ∧ (paired 2 {}).pair = .standby ∧ 0xFFFFFF ||| claimBits (paired 1 {}).carat ≠ claimBits (paired 1 {}).carat ∧
    (paired 1 {}).pair = .active ∧ (paired 1 {}).pairSt.unproven = false ∧ (paired 1 {}).paired = true ∧ (paired 1 {}).pairSt.validAt.getD 0 + 1000000 ≤ (paired 1 {}).now ∧
    (paired 2 {}).fget PAIR_SKEW PAIR_SKEW.valid = 0 ∧ (w [(PAIR_SKEW, PAIR_SKEW.valid, 1)] (paired 2 {})).fget PAIR_SKEW PAIR_SKEW.valid = 1 ∧ (paired 2 {}).pairSt.statusAt = none ∧
    (paired 2 {}).fget PAIR_STATUS PAIR_STATUS.bus_carat / 8 ≠ 8191 ∧ (paired 2 { promoteAt := some 3200000 }).pairSt.promoteAt = some 3200000 ∧ 3200000 + 1800000 ≤ base.now ∧ ¬ ((paired 2 { promoteAt := some 3200000 }).pairSt.claims = true) ∧
    (paired 1 { handover := some 4999000 }).pairSt.handover = some 4999000 ∧ 4999000 + 1000 ≤ base.now ∧ (paired 1 {}).scRuns = true ∧
    cellOn ((paired 1 {}).planeOf tgtSc) 3 0 0 = true ∧ ((paired 1 {}).axis 0).on = false ∧ ((paired 1 {}).axis 0).fault = false ∧
    (let s := w [(SC_AXIS_EXC 0, SC_AXIS_EXC.exc_on, 1)] { paired 1 { handover := some 4999000 } with cut := { (axis0 1 {}).cut with swapI := 0 } }
     s.pair = .active ∧ s.scRuns = true ∧ cellOn (s.planeOf tgtSc) 3 0 0 = true ∧ s.fget (SC_AXIS_EXC 0) SC_AXIS_EXC.exc_on = 1 ∧
       cutF (s.planeOf tgtSc) (SC_AXIS_CFG 0) SC_AXIS_CFG.mode = 1 ∧ s.pairSt.handover = some 4999000) ∧ (ticking ok).sf.tick = some 49 ∧
    (ticking ok).pairSt.beatK ≠ some 49 ∧ 49 * 100000 + 5000 ≤ (ticking ok).now ∧ takesB base PAIR_CMD = true ∧ (paired 3 {}).pair = .withdrawn ∧ base.mode ≠ .loader ∧
    ({ base with mode := .run } : State).mode ≠ .configured ∧ base.pair = .solo := by decide +kernel

/-- A message of type `t`, sequence 0, of a unit in ACTIVE waits on lane 30. -/
def inboxed (n t : Nat) : State := setLane 30 { inbox := [(5, BitVec.ofNat 32 (t + 256) :: List.replicate 783 0)] } (paired n {})
theorem wit_PairMessagesCarryAndApplyState : (let s : State := { paired 1 {} with sf := { base.sf with tick := some 50 } }; s.sf.tick = some 50 ∧ s.pairSt.budgetTick ≠ some 50) ∧
    (paired 1 {}).pair = .active ∧ (paired 2 {}).pair ≠ .active ∧ (paired 1 {}).pairSt.loopsAt + 20000 ≤ base.now ∧ (paired 1 {}).loopResonant 0 = false ∧ (paired 1 {}).paired = true ∧
    (paired 1 {}).pairSt.statusSentAt + 1000000 ≤ base.now ∧ base.paired = false ∧ ({ paired 1 {} with mode := .run } : State).shooting = true ∧ (paired 1 {}).frameNum = 0 ∧
    (paired 1 {}).frameDone 0 = true ∧ (look (fun _ => (0, [])) (paired 1 {}).pairSt.own 0).2 = [] ∧ base.shooting = false ∧ (takePacket 30 5 base).2 = none ∧
    (takePacket 30 5 (inboxed 2 3)).2 = some (0x103 :: List.replicate 783 0) ∧ look (fun _ => 0) (inboxed 2 3).pairSt.accepted 3 = 0 ∧
    (takePacket 30 5 (inboxed 2 1)).2 = some (0x101 :: List.replicate 783 0) ∧ (inboxed 2 1).pair = .standby ∧ (inboxed 2 1).reg PAIR_SCHED = 0 ∧ (inboxed 2 1).reg SF_SET_DIGEST = 0 ∧
    (0x101#32).toNat / 256 % 4 = 1 ∧ (inboxed 2 1).sfOn 0 = true ∧ (setReg PAIR_SCHED 1 (inboxed 2 1)).reg PAIR_SCHED ≠ 0 := by decide +kernel

theorem wit_DomainsFaultRestartAndSwitch : true = !base.hk.bad.testBit 0 ∧ ({ base with hk := { base.hk with bad := 2 } } : State).hk.bad.testBit 1 = true ∧
    ({ base with hk := { base.hk with bad := 8 } } : State).hk.bad.testBit 3 = true ∧ ({ base with hk := { base.hk with bad := 1 } } : State).hk.bad.testBit 0 = true ∧ base.hk.bad.testBit 9 = false ∧
    base.time.running = true ∧ (w [(MODE_STATUS, MODE_STATUS.startup_done, 1)] base).fget MODE_STATUS MODE_STATUS.startup_done = 1 ∧ (domRails 0).contains 2 = true ∧
    base.domOn 0 = true ∧ base.domGood 69 = true ∧ (setReg (PWR_DOM_GOOD 0) 0 base).domGood 0 = false ∧ takesB base (PWR_DOM_FAULT 2) = true ∧ base.mode = .configured ∧
    ({ base with mode := .armed } : State).mode ≠ .configured ∧ ({ base with hk := { base.hk with faulted := [0, 47] } } : State).domFault 0 = true ∧ ({ base with hk := { base.hk with faulted := [0, 47] } } : State).domFault 47 = true ∧
    base.domFault 0 = false ∧ (1#32).getLsbD 0 = true ∧ (1#32).getLsbD 1 = false ∧ (planeDomains (cut [] base).cut.live).contains 0 = true ∧
    (planeDomains (cut [] base).cut.live).contains 47 = false ∧ base.railsGood 0 = true ∧ ({ base with hk := { base.hk with bad := 1 } } : State).railsGood 0 = false ∧
    ({ base with hk := { base.hk with toSwitchOff := [47] } } : State).hk.toSwitchOff.contains 47 = true ∧ base.hk.toSwitchOff.contains 47 = false ∧ base.domDrained 47 = true ∧
    (setBlk 47 { bufX := some pix } base).domDrained 47 = false ∧ base.cut.waiting = [] := by decide +kernel

/-! ### Witnesses: housekeeping, modes, recorders, Loupe -/

/-- The round of 0 ms is due, and channel 16 is enabled with a high limit of 100 °C. -/
def round : State :=
  setHkChan 16 { high := 2 } (w [(HK_T_CFG 16, HK_T_CFG.en, 1), (HK_T_LIM 16, HK_T_LIM.high, 10000), (HK_T_LIM 16, HK_T_LIM.low, 0x8000)]
    { base with time := { base.time with tbase := 50000 } })
/-- The fresh result of rail 0 under the default sequence of converter 53. -/
def rail0 (s : State) : Option Word := ((s.entryOf 53 (fun e => Ent.input e = 0 && Ent.gain e = 0 && Ent.ref e = 0)).bind (s.freshResult 53)).filter usable
theorem wit_HousekeepingRoundsJudgeTemperatures : round.hkRuns = true ∧ round.hk.round ≠ some (round.now / 10000000) ∧ round.now % 10000000 ≤ 100000 ∧ round.cut.waiting = [] ∧
    round.hk.writes = [] ∧ round.channelWord [(0, 0x0001E848)] 16 = some 0x0001E848 ∧ (setReg REGION_FENCE 0xFFFF round).hkRuns = false ∧
    round.fget (HK_T_CFG 16) HK_T_CFG.en = 1 ∧ usable 0x0001E848 = true ∧ round.crossOff 16 1 = false ∧ round.fget (HK_T_FLAGS 16) (crossActive 1) = 0 ∧
    round.crossOff 16 0 = true ∧ round.crossOff 16 2 = true ∧ sext 16 (getF HK_T_LIM.high (round.reg (HK_T_LIM 16))) * 10 < resValue 0x0001E848 ∧ (round.hkChan 16).high = 2 ∧
    ((setHkChan 16 {} round).hkChan 16).high < 2 ∧ resValue 0 ≤ sext 16 (getF HK_T_LIM.high (round.reg (HK_T_LIM 16))) * 10 ∧
    round.fget (HK_T_CFG 16) (crossAction 1) = 0 ∧ (w [(HK_T_CFG 16, crossAction 1, 1)] round).fget (HK_T_CFG 16) (crossAction 1) = 1 ∧ 120000 ≤ resValue 0x0001E848 ∧
    2 ≤ look (fun _ => 0) ({ round with hk := { round.hk with hot := [(16, 2)] } } : State).hk.hot 16 ∧ round.fget HK_STATUS HK_STATUS.junction_hot = 0 ∧
    (setReg (PWR_DOM_ON 0) 0 (setReg (PWR_DOM_ON 1) 0 (setReg (PWR_DOM_ON 2) 0 round))).channelWord [] 16 = none ∧
    rail0 (setReg (ADC_RES_VAL 53 0) invalidWord round) = none ∧ rail0 (setReg (ADC_RES_VAL 53 0) 0x266666 round) = some 0x266666 ∧
    railWithin 0 750 0 = true := by decide +kernel

theorem wit_ResetsAndModeCommands : (let s : State := { base with startup := { base.startup with inReset := true, cause := 2 } }
      s.startup.inReset = true ∧ s.startup.cause = 2 ∧ s.hk.bad.testBit 9 = false ∧ ({ s with hk := { s.hk with bad := 512 } } : State).hk.bad.testBit 9 = true) ∧
    base.startup.inReset = false ∧ base.mayStart = false ∧ State.reset.mayStart = true ∧ takesB base MODE_CMD = true ∧ ({ base with mode := .armed } : State).mode = .armed ∧
    ({ permit with mode := .service } : State).sfState 0 = 4 ∧ ({ permit with mode := .service } : State).sfState 1 = 4 ∧ base.mode ≠ .armed ∧ base.mode ≠ .service ∧
    ({ base with mode := .run } : State).mode = .run ∧ base.mode ≠ .run ∧ base.shooting = false ∧ (0#16 : BitVec 16) ≠ 0x5253 ∧ 4 ≤ (4#4 : BitVec 4).toNat ∧
    (match exec (.run 0) { permit with mode := .service } with | .next t => t.shooting | _ => false) = true := by decide +kernel

/-- A record; a ring that holds it under number `n`. -/
def rec (n : Word) : Rec := ⟨0x80000004, 0, 0, 0, 0, 0, 0, n⟩
/-- The chip's recorder holds records 0 and 1; requester 0 reads from `src` at a cursor. -/
def reading (src : Nat) (cursor : Word) (f : Option Rec) : State :=
  let s : State := { base with mgmt := { base.mgmt with chip := { base.mgmt.chip with ring := [rec 1, rec 2], seq := 3, copies := [rec 0], unmirrored := [rec 0] } } }
  setReq 0 { s.req 0 with recSel := src, recCursor := cursor, fetched := f } s
theorem wit_RecordsAreWrittenCopiedMirroredReadAndCleared : (base.recorder 8).writing = none ∧
    ((setRecorder 8 { base.recorder 8 with writing := some (rec 0), fifo := [rec 0], dropped := 1 } base).recorder 8).writing = some (rec 0) ∧
    (base.recorder 8).seq + 1 ≠ 0 ∧ ((setRecorder 8 { base.recorder 8 with seq := 0xFFFFFFFF } base).recorder 8).seq + 1 = 0 := by decide +kernel
theorem wit_RecordsAreWrittenCopiedMirroredReadAndCleared_reads : base.mgmt.chip.copies = [] ∧ (reading 14 1 none).mgmt.chip.copies = [rec 0] ∧
    (reading 14 1 none).mgmt.chip.unmirrored.length < 4096 ∧ base.mgmt.chip.unmirrored = [] ∧ base.answers = true ∧
    (let s := reading 14 3 none; (s.req 0).recSel ≠ 15 ∧ ((s.store (s.req 0).recSel).2 - (s.req 0).recCursor).toNat = 0) ∧
    (let s := reading 14 1 none; let st := s.store (s.req 0).recSel; let d := (st.2 - (s.req 0).recCursor).toNat
     0 < d ∧ d ≤ (st.2 - storeOldest st).toNat ∧ d ≤ 2 ^ 31 ∧ st.1.find? (fun y => decide ((y.w7 - (s.req 0).recCursor).toNat < d)) = some (rec 1)) ∧
    (let s := reading 14 0 none; let st := s.store (s.req 0).recSel; let d := (st.2 - (s.req 0).recCursor).toNat
     (st.2 - storeOldest st).toNat < d ∧ d ≤ 2 ^ 31 ∧ st.1.head? = some (rec 1)) ∧
    ((reading 15 0 none).req 0).fetched = none ∧ ((reading 15 0 (some (rec 4))).req 0).fetched = some (rec 4) ∧ ((reading 15 0 none).req 0).recSel = 15 ∧
    takesB base REC_CMD = true ∧ base.mgmt.fetching = [] ∧ ({ base with mgmt := { base.mgmt with fetching := [(0, 1)] } } : State).mgmt.fetching = [(0, 1)] ∧
    base.fget FW_STATUS FW_STATUS.presence ≠ 1 ∧ (w [(FW_STATUS, FW_STATUS.presence, 1)] base).fget FW_STATUS FW_STATUS.presence = 1 ∧
    base.fget FW_STATUS FW_STATUS.pausing ≠ 1 ∧ base.domGood (domainAt (8 * 0x1000000 + 0xFF0000)) = true := by decide +kernel

/-- The Loupe armed with inputs 0 and 3 enabled. -/
def loupe : State := w [(LOUPE_STATUS, LOUPE_STATUS.armed, 1), (LOUPE_CFG, LOUPE_CFG.src_en, 9)] base
theorem wit_LoupeArmsFiresAndLatches : b2n false = loupe.fget LOUPE_CFG LOUPE_CFG.in_pol ∧ (loupe.fget LOUPE_CFG LOUPE_CFG.src_en).testBit 0 = true ∧
    loupe.mgmt.loupe.lastSlot ≠ some (loupe.now / 10) ∧ loupe.fget LOUPE_STATUS LOUPE_STATUS.armed = 1 ∧ base.fget LOUPE_STATUS LOUPE_STATUS.armed ≠ 1 ∧
    ({ loupe with mgmt := { loupe.mgmt with loupe := { loupe.mgmt.loupe with lastSlot := some 500000 } } } : State).mgmt.loupe.lastSlot = some (loupe.now / 10) ∧
    0 < (w [(LOUPE_STATUS, LOUPE_STATUS.fired, 3)] loupe).fget LOUPE_STATUS LOUPE_STATUS.fired ∧ loupe.fget LOUPE_STATUS LOUPE_STATUS.fired = 0 ∧ takesB loupe LOUPE_CMD = true ∧
    ((w [(LOUPE_CFG, LOUPE_CFG.src_en, 0)] base).fget LOUPE_CFG LOUPE_CFG.src_en).testBit 3 = false ∧ (loupe.fget LOUPE_CFG LOUPE_CFG.src_en).testBit 3 = true ∧ base.mgmt.loupe.latchAt = none ∧
    ({ loupe with mgmt := { loupe.mgmt with loupe := { loupe.mgmt.loupe with latchAt := some 5000000 } } } : State).mgmt.loupe.latchAt = some 5000000 ∧ loupe.now < 5000001 ∧
    5000000 ≤ loupe.now ∧ loupe.cut.waiting = [] := by decide +kernel

/-! ### Witnesses: firmware -/

/-- Session kind `k` held by the SPI port, with the presence window open. -/
def session (k : Nat) : State :=
  w [(FW_STATUS, FW_STATUS.session, k), (FW_STATUS, FW_STATUS.owner, 1), (FW_STATUS, FW_STATUS.owner_lane, 0), (FW_STATUS, FW_STATUS.presence, 1), (FW_STATUS, FW_STATUS.ready, 1)] base
def paused (s : State) : State := w [(FW_STATUS, FW_STATUS.pausing, 1)] s
theorem wit_SessionsAndPresenceOpenCloseAndExpire : takesB base FW_CMD = true ∧ (paused base).pausing = true ∧ base.pausing = false ∧ base.presence = false ∧
    (session 0).presence = true ∧ ({ session 0 with mode := .loader } : State).mode = .loader ∧ base.mode ≠ .loader ∧ base.mode ≠ .off ∧ (session 1).session ≠ 0 ∧
    (session 0).session = 0 ∧ (session 1).ownsSession 0 = true ∧ (session 1).ownsSession 1 = false ∧
    (let s : State := { session 1 with time := { base.time with tbase := 60000000000 } }; s.session ≠ 0 ∧ s.fw.sessionAt + 60000000000 ≤ s.now) ∧
    (let s : State := { session 1 with time := { base.time with tbase := 60000000000 } }; s.presence = true ∧ s.fw.presenceLow = false ∧ s.fw.presenceRose + 60000000000 ≤ s.now) ∧
    12 < (13#4 : BitVec 4).toNat ∧ (session 1).flashBusy = false ∧ ({ session 1 with fw := { base.fw with busySector := some 0 } } : State).flashBusy = true ∧ base.startup.inReset = false ∧ ({ base with startup := { base.startup with inReset := true } } : State).startup.inReset = true := by decide +kernel

/-- Fields of the firmware's state set. -/
def fw (f : Fw → Fw) (s : State) : State := { s with fw := f s.fw }
theorem wit_ImagesAreWrittenVerifiedActivatedAndReady : takesB base FW_DATA = true ∧ (session 1).ownsSession 0 = true ∧ (session 1).session = 1 ∧
    (session 1).fget FW_STATUS FW_STATUS.ready = 1 ∧ ((session 1).reg FW_ADDR).toNat < 0x400000 ∧ (session 1).fw.busyPage = [] ∧ (session 1).fw.busySector = none ∧
    (fw (fun f => { f with wrote := true }) (session 1)).fw.wrote = true ∧ (session 1).fw.wrote = false ∧ (session 1).fw.sectors = [] ∧
    (fw (fun f => { f with sectors := [0], page := [(5, 0)] }) (session 1)).fw.sectors = [0] ∧ ((setReg FW_ADDR 4092 (session 1)).reg FW_ADDR).toNat / 4 % 1024 = 1023 ∧
    ((session 1).reg FW_ADDR).toNat / 4 % 1024 ≠ 1023 ∧ (5 : Nat) / 1024 = 0 / 4 / 1024 ∧ 5 % 1024 ≠ 1023 ∧ (2000 : Nat) / 1024 ≠ 0 / 4 / 1024 ∧
    (fw (fun f => { f with busyPage := [(0, 0)] }) base).fw.busyPage ≠ [] ∧ (fw (fun f => { f with busySector := some 0 }) base).fw.busySector = some 0 ∧
    base.fw.image = [] ∧ base.fw.page = [] := by decide +kernel
theorem wit_ImagesAreWrittenVerifiedActivatedAndReady_commands : takesB base FW_CMD = true ∧ (paused base).pausing = true ∧ base.ownsSession 0 = false ∧ (session 1).fw.verifying = false ∧ (session 1).flashBusy = false ∧
    (fw (fun f => { f with verifying := true }) (session 1)).fw.verifying = true ∧ (w [(FW_STATUS, FW_STATUS.ready, 0)] base).fget FW_STATUS FW_STATUS.ready = 0 ∧ (session 1).ctl.imageState ≠ 2 ∧
    (fw (fun f => { f with ctl0 := Ctl.words { imageState := 2 } }) (session 1)).ctl.imageState = 2 ∧ due.cut.swapAt ≠ none ∧ base.cut.swapAt = none ∧ base.cut.inSwap = false ∧
    ({ session 1 with mode := .run } : State).mode = .run ∧ ({ session 1 with mode := .service } : State).mode = .service ∧ base.imageCheck ≠ 0 ∧
    (paused base).fw.waitReady = false ∧ base.fw.restarting = false ∧ (fw (fun f => { f with restarting := true }) base).fw.restarting = true ∧
    ({ base with startup := { base.startup with boot := true } } : State).startup.boot = true ∧ base.startup.boot = false ∧
    (fw (fun f => { f with waitReady := true }) (paused base)).fw.waitReady = true ∧ (0 : Nat) + 100000000 ≤ ({ base with time := { base.time with tbase := 100000000 } } : State).now := by
  decide +kernel
/-- An image slot whose body is one word, and a control block with that body's digest. -/
def loaded : State := paused (fw (fun f => { f with image := [(0, 0), (5, 1), (16, 7)], ctl0 := Ctl.words { digest := sha256 [7] } }) base)
theorem wit_ImagesAreWrittenVerifiedActivatedAndReady_loads : loaded.pausing = true ∧ loaded.fw.waitReady = false ∧ loaded.imageBody = [7] ∧ sha256 loaded.imageBody = loaded.ctl.digest ∧
    sha256 (fw (fun f => { f with ctl0 := [] }) loaded).imageBody ≠ (fw (fun f => { f with ctl0 := [] }) loaded).ctl.digest := by decide +kernel

/-- An application runs in trial since 0. -/
def trial : State := w [(FW_STATUS, FW_STATUS.in_control, 1)] (fw (fun f => { f with trial := true }) base)
def half : List Word := [0x53544B43, 0, 0, 0, crc32Bytes []] ++ List.replicate 3 0
theorem wit_TrialsKeysCutSlotsAndReports : takesB base FW_CMD = true ∧ (0 : Requester) ≠ 1 ∧ base.fget FW_STATUS FW_STATUS.in_control ≠ 1 ∧
    trial.fget FW_STATUS FW_STATUS.in_control = 1 ∧ halfValid [] = false ∧ trial.fw.trial = true ∧ base.fw.trial = false ∧
    (let s : State := { trial with time := { base.time with tbase := 30000000000 } }; s.fw.startedAt + max 5 s.ctl.confirm * 1000000000 ≤ s.now) ∧
    (paused base).pausing = true ∧ base.pausing = false ∧ (session 2).ownsSession 0 = true ∧ (session 2).session = 2 ∧ base.ownsSession 0 = false ∧
    ((fw (fun f => { f with keys := [(0, 1, [])] }) (session 2)).keySlot 0).1 = 1 ∧ ((session 2).keySlot 0).1 ≠ 1 ∧ (session 2).fw.revoked = [] ∧
    ((setReg KEY_SEL 4 (session 2)).reg KEY_SEL).toNat % 8 = 4 ∧ ((session 2).reg KEY_SEL).toNat % 8 ≠ 4 ∧ (session 2).fw.revoked.length < 32 ∧
    32 ≤ (List.replicate 32 ([] : List Word)).length ∧ (fw (fun f => { f with signer := some 0 }) (session 2)).fw.signer = some 0 ∧ (session 2).fw.signer = none ∧
    (session 2).fw.header = [] ∧ base.fw.attesting = false ∧ (fw (fun f => { f with attesting := true }) base).fw.attesting = true ∧ (shadow 3).shadowState = 3 ∧
    base.shadowState ≠ 3 ∧ (shadow 3).ownsShadow 1 = false ∧ (shadow 3).ownsShadow 0 = true ∧ (shadow 3).fw.cuts = [] := by decide +kernel
theorem wit_TrialsKeysCutSlotsAndReports_half : halfValid half = true := by decide +kernel
theorem wit_TrialsKeysCutSlotsAndReports_revoked :
    sha256 ((session 2).regsFrom (KEY_DATA 0) 8) ∈ (fw (fun f => { f with revoked := [sha256 ((session 2).regsFrom (KEY_DATA 0) 8)] }) (session 2)).fw.revoked := by decide +kernel

theorem wit_SessionsOpenAndEndWithTheirEffect : takesB (session 0) FW_CMD = true ∧ (session 0).pausing = false ∧ (session 0).presence = true ∧ (session 0).mode = .configured ∧
    (session 0).session = 0 ∧ takesB (session 1) FW_CMD = true ∧ (session 1).ownsSession 0 = true ∧ (session 1).session ≠ 0 ∧
    (let s : State := { session 1 with time := { base.time with tbase := 60000000000 } }
     s.fw.sessionAt + 60000000000 ≤ s.now ∧ s.presence = true ∧ s.fw.presenceLow = false ∧ s.fw.presenceRose + 60000000000 ≤ s.now) ∧
    base.startup.inReset = false ∧ 12 < (13#4 : BitVec 4).toNat ∧ takesB base (LK_LANE_CMD 0) = true := by decide +kernel

/-! ### Witnesses: links -/

/-- Lane 0 in state `n` at rate `r`. -/
def laneAt (n r : Nat) (x : Lane) : State := setLane 0 x (w [(LK_LANE_STATUS 0, LK_LANE_STATUS.state, n), (LK_LANE_STATUS 0, LK_LANE_STATUS.rate, r)] (cut [] base))
theorem wit_LanesClimbFromDetectToTheirRate : (laneAt 0 0 {}).laneEnabled 0 = true ∧ (laneAt 0 0 {}).laneState 0 = 0 ∧ base.domGood (59 + 0 / 8) = true ∧ base.fenced 5 = false ∧
    (laneAt 1 0 {}).laneState 0 = 1 ∧ ((laneAt 1 0 {}).lane 0).burstAt = 0 ∧ ((laneAt 1 0 { burstAt := 1 }).lane 0).burstAt = 1 ∧
    1 + 100000000 ≤ ({ laneAt 1 0 { burstAt := 1 } with time := { base.time with tbase := 100000001 } } : State).now ∧ helloValid 0x0400003C = true ∧ helloValid 0x04000020 = false ∧
    helloValid 0x0C00003C = false ∧ (laneAt 2 0 {}).laneState 0 = 2 ∧ ((laneAt 2 0 {}).lane 0).since + 10000000 ≤ ({ base with time := { base.time with tbase := 10000000 } } : State).now ∧
    (laneAt 3 0 { target := 2 }).laneState 0 = 3 ∧ ((laneAt 3 0 { target := 2 }).lane 0).switched = false ∧ (1#3 : BitVec 3).toNat = (laneAt 3 0 { target := 2 }).stepTo 0 ∧
    ((laneAt 3 1 { switched := true }).lane 0).switched = true ∧ (laneAt 3 1 {}).laneRate 0 = 1 ∧ (laneAt 3 0 {}).laneRate 0 = 0 ∧
    ((laneAt 3 1 {}).lane 0).since + 1000000 ≤ (laneAt 3 1 {}).now ∧ ((laneAt 3 1 { retraining := true }).lane 0).retraining = true := by decide +kernel

/-- Lane 0 equalises, with a tap request outstanding since 0. -/
def eq (x : Lane) : State := w [(LK_LANE_STATUS 0, LK_LANE_STATUS.partner_eq, 1)] (laneAt 4 2 x)
theorem wit_EqualisationAsksAndAppliesTaps : (eq {}).equalising 0 = true ∧ (laneAt 7 2 {}).equalising 0 = true ∧ ((eq {}).lane 0).tapSeen = none ∧
    (eq {}).fixedTaps 0 = false ∧ (laneAt 4 2 {}).fixedTaps 0 = true ∧ (0#2 : BitVec 2) ≠ 1 ∧ (1#2 : BitVec 2) ≠ 0 ∧
    tapRequest ((eq {}).fget (LK_LANE_STATUS 0) LK_LANE_STATUS.c_pre) ((eq {}).fget (LK_LANE_STATUS 0) LK_LANE_STATUS.c_post) ((eq {}).lanePre 0 LK_LANE_PRE.c_pre) ((eq {}).lanePre 0 LK_LANE_PRE.c_post) 0 1 = some (1, 0) ∧
    tapRequest ((eq {}).fget (LK_LANE_STATUS 0) LK_LANE_STATUS.c_pre) ((eq {}).fget (LK_LANE_STATUS 0) LK_LANE_STATUS.c_post) ((eq {}).lanePre 0 LK_LANE_PRE.c_pre) ((eq {}).lanePre 0 LK_LANE_PRE.c_post) 0 2 = none ∧
    ((eq { tapSeen := some (3, 0) }).lane 0).tapSeen = some ((3#4 : BitVec 4).toNat, 0) ∧ ((eq { tapOut := some (0x30000, 0) }).lane 0).tapOut = some (0x30000, 0) ∧
    (0x30000#32).toNat / 2 ^ 16 % 16 = (3#4 : BitVec 4).toNat ∧ (eq {}).partnerEq 0 = true ∧ (laneAt 4 2 {}).partnerEq 0 = false ∧ 0 + 10000 ≤ base.now ∧
    ((eq {}).lane 0).since + 50000000 ≤ ({ eq {} with time := { base.time with tbase := 50000000 } } : State).now := by decide +kernel

theorem wit_VerifyAndRetrainDecideTheRate : (laneAt 5 0 {}).laneState 0 = 5 ∧ ((laneAt 5 0 {}).lane 0).partnerErr = none ∧ ((laneAt 5 0 {}).lane 0).ownErr = none ∧
    ((laneAt 5 1 { partnerErr := some 0, ownErr := some 0, target := 2 }).lane 0).partnerErr = some 0 ∧ (laneAt 5 1 { target := 2 }).laneRate 0 < 2 ∧
    ((laneAt 5 1 { ownErr := some 3 }).lane 0).ownErr = some 3 ∧ ((laneAt 5 1 { retraining := true }).lane 0).retraining = true ∧ (laneAt 6 1 {}).laneState 0 = 6 ∧
    8 ≤ ((laneAt 6 1 {}).now :: (List.replicate 7 5000000).filter (fun i => decide ((laneAt 6 1 {}).now < i + 1000000000))).length ∧ (laneAt 2 0 {}).laneState 0 = 2 ∧
    (laneAt 7 2 {}).laneState 0 = 7 ∧ ((laneAt 5 0 {}).lane 0).since + 2000000 ≤ (laneAt 5 0 {}).now ∧ (laneAt 5 0 {}).now < ((laneAt 5 0 { since := 4999999 }).lane 0).since + 2000000 ∧
    8 ≤ (((laneAt 6 1 { crcFails := List.replicate 8 4000001 }).lane 0).crcFails.filter (fun i => decide ((laneAt 6 1 {}).now < i + 1000000))).length ∧ (16 : Nat) ≤ 16 ∧
    ¬ (8 ≤ (((laneAt 6 1 {}).lane 0).crcFails.filter (fun i => decide ((laneAt 6 1 {}).now < i + 1000000))).length ∨ (16 : Nat) ≤ 15) := by decide +kernel

theorem wit_LaneCommandsRetrainRearmClearAndTest : takesB base (LK_LANE_CMD 0) = true ∧ (laneAt 6 1 {}).laneUp 0 = true ∧ (laneAt 5 1 {}).laneUp 0 = false ∧
    (((laneAt 6 1 {}).lane 0).retrains.filter (fun i => decide ((laneAt 6 1 {}).now < i + 1000000000))).length < 7 ∧ (laneAt 9 1 {}).laneState 0 = 9 ∧
    (laneAt 9 1 {}).laneEnabled 0 = true ∧ ((cut [] base).laneEnabled 8) = false ∧ takesB base (LK_LANE_TEST 0) = true ∧ base.mode = .configured ∧
    base.fget (LK_LANE_TEST 0) LK_LANE_TEST.loop = 0 ∧ (w [(LK_LANE_TEST 0, LK_LANE_TEST.loop, 1)] (laneAt 8 1 {})).fget (LK_LANE_TEST 0) LK_LANE_TEST.loop ≠ 0 ∧
    (laneAt 8 1 {}).laneState 0 = 8 ∧ ({ base with mode := .run } : State).mode ≠ .configured ∧ ({ base with mode := .run } : State).mode ≠ .armed ∧
    getF LK_LANE_TEST.loop 0 ≠ getF LK_LANE_TEST.loop (setF LK_LANE_TEST.loop 1 0) ∧
    (w [(LK_LANE_TEST 0, LK_LANE_TEST.loop, 3)] (laneAt 8 1 {})).fget (LK_LANE_TEST 0) LK_LANE_TEST.loop = 3 ∧
    (laneAt 6 1 {}).testMode = true ∧ (laneAt 6 1 {}).laneUp 0 = true ∧
    (setLane 0 {} (w [(LK_LANE_STATUS 0, LK_LANE_STATUS.state, 6)] (cut [param (LK_LANE_CFG 0) 0] base))).laneCfg 0 LK_LANE_CFG.far_loop_allow ≠ 1 ∧ (laneAt 6 1 {}).laneCfg 0 LK_LANE_CFG.far_loop_allow = 1 := by
  decide +kernel

/-- Lane 0 is UP and no Cut is live: STAT and MGMT use lanes 0 to 7. -/
def up (x : Lane) : State := setLane 0 x (w [(LK_LANE_STATUS 0, LK_LANE_STATUS.state, 6)] base)
/-- Lane 0 is UP under a Cut that routes stream 5 and the point stream of RX block row 0 to it. -/
def routedUp (x : Lane) : State := setLane 0 x (w [(LK_LANE_STATUS 0, LK_LANE_STATUS.state, 6)] (cut [⟨0x00FFFF00, 4, [0x15000000, 1, 0x10800000, 1]⟩] base))
theorem wit_LanesAcceptPacketsAndCredit : (up {}).laneUp 0 = true ∧ (up {}).laneRouted 4 0 = true ∧ (routedUp {}).laneRouted 5 0 = true ∧
    (0x20004 % 16 = 4 ∧ 0x20004 / 16 % 16 = 0 ∧ 0x20004 / 2 ^ 16 % 4096 = 2) ∧ (0x20005 % 16 = 5 ∧ 0x20005 / 16 % 16 = 0) ∧
    ((up {}).lane 0).heldMgmt + packetUnits ((up {}).laneRate 0) 2 ≤ 8 ∧ ((up {}).lane 0).heldPair + packetUnits ((up {}).laneRate 0) 2 ≤ 32 ∧
    0 + 2 / 2 ≤ (w [(LK_STREAM_CFG, LK_STREAM_CFG.mgmt_rate, 1)] (up {})).fget LK_STREAM_CFG LK_STREAM_CFG.mgmt_rate * 64 ∧ base.answers = true ∧
    ((up { inbox := [(4, [0, 0])] }).lane 0).inbox.find? (fun p => p.1 = 4) = some (4, [0, 0]) ∧
    ((up { inbox := [(4, [0, 0, 4, 0])] }).lane 0).inbox.find? (fun p => p.1 = 4) = some (4, [0, 0, 4, 0]) ∧
    (match exec (.mgmtTransaction 2 0 0 0) (takePacket 0 4 (up { inbox := [(4, [0, 0])] })).1 with | .next v => v.laneRouted 4 0 && v.laneUp 0 | _ => false) = true ∧
    (0#32 : Word) ≠ crc32 [0, 0, 0, 0] := by decide +kernel

/-- A point packet of RX block row 0 that opened at 4,990,000. -/
def point : Packet := { stream := 0, kind := 0, source := 8, frame := 0, epoch := 1, frag := 0, payload := [1, 2], opened := 4990000 }
theorem wit_PacketsCloseQueueStartAndExpire : (setAssembling 8 point (routedUp {})).assembling 8 = some point ∧ point.opened + 2000 ≤ base.now ∧
    laneMask (routedUp {}).cut.live 0 8 = some 1 ∧ nextLane (look (fun _ => 0) (routedUp {}).lk.rot 8) ((routedUp {}).upOf 1) = some 0 ∧
    ((routedUp {}).lane 0).queued + point.words ≤ 16384 ∧
    (let s := routedUp { queue := [point] }
     s.laneUp 0 = true ∧ (s.lane 0).flightEnd ≤ s.now ∧ s.fget (LK_LANE_TEST 0) LK_LANE_TEST.prbs_tx = 0 ∧ (s.lane 0).closing = false ∧ s.cut.waiting.contains (tgtLk (0 / 8)) = false ∧
     (s.lane 0).queue = [point] ∧ (s.dropAcc 0 8).units = 0 ∧ s.hasCredit 0 0 (packetUnits (s.laneRate 0) 2) = true ∧ s.hasCredit 0 0 (packetUnits (s.laneRate 0) 5) = true) ∧
    0 < ((setDropAcc 0 8 { units := 1 } (routedUp {})).dropAcc 0 8).units ∧ unrouted (routedUp {}).cut.live point = false ∧ unrouted (cut [] base).cut.live point = true ∧
    ({ point with deadline := some 4999999 } : Packet).deadline.any (fun d => decide (d ≤ base.now)) = true ∧ base.time.running = true ∧
    ({ base with time := { base.time with tbase := 1000000000 } } : State).now % 1000000000 < 20000 ∧ base.lk.beaconOf ≠ some 1 ∧ base.beaconDue = false ∧
    ({ base with lk := { base.lk with censusOf := some 0 } } : State).lk.censusOf = some ({ base with lk := { base.lk with censusOf := some 0 } } : State).frameEdge ∧ base.lk.censusOf ≠ some base.frameEdge ∧
    ({ base with time := { base.time with edgeSeen := true } } : State).time.edgeSeen = true ∧ (setReg FRAME_EDGE_LO 4950000 base).now ≤ (setReg FRAME_EDGE_LO 4950000 base).frameEdge + 100000 ∧
    (w [(RX_BLK_SEQ 0, RX_BLK_SEQ.bound, 1)] base).boundNow 0 = true ∧ base.lk.mirrorAt + 10000000 ≤ ({ base with time := { base.time with tbase := 10000000 } } : State).now ∧
    (laneMask base.cut.live 3 0 = some 0xFF) := by decide +kernel

theorem wit_CfAnswersWhateverTheRegionsState : (List.range 14).all (fun r => !isRegion r || (regRow (REGION_INFO r)).isSome && decide (((run (.mgmtTransaction 0 (BitVec.ofNat 32 (REGION_INFO r)) 0 0) (setReg REGION_FENCE 0x3FFF base)).req 0).status = 0)) = true ∧
    (regRow REGION_FENCE).isSome = true ∧ base.answers = true ∧ isRegion 8 = true ∧ (summaryAddrs 8).length ≠ 0 := by decide +kernel

/-! ### Witnesses: further clauses -/

theorem wit_ASwapComesSpreadsAndEnds_sequences : (List.range 64).all (fun q => !spreading.seqScheduled q) = true := by decide +kernel

theorem wit_GatesTrackAndAreStaged_hosts :
    look (fun _ => 0) ({ gated with rx := { gated.rx with hostGates := [(0, 2)] } } : State).rx.hostGates 0 = ((gated.evidence 0 0).frame + 1) % 2 ^ 32 + 1 ∧
    look (fun _ => 0) gated.rx.hostGates 0 ≠ ((gated.evidence 0 0).frame + 1) % 2 ^ 32 + 1 := by decide +kernel

theorem wit_ShotsArePlacedFiredAndMonitored_rearms : ((setPort 0 { masked := true } base).port 0).masked = true ∧ (base.port 0).masked = false ∧
    (∀ a ∈ base.tx.seqs, a.2.placing = false) ∧ (setPort 0 { masked := true } firing).tx.seqs.any (fun a => a.2.placing && (seqEmitters (shotTable a.2.plane) a.1).testBit 0) = true := by
  decide +kernel

theorem wit_ConvertersConvertAnswerAndCheckThemselves_references : base.vrefJudged 48 0 true = true ∧ (setReg (ADC_REF 48) 1 base).vrefJudged 48 0 false = true ∧
    ((setReg (ADC_REF 48) 1 base).settledRefs 48).testBit 0 = true := by decide +kernel

theorem wit_ConverterCommandsCalibrateScanAndSelect_runs : (let s := plain { calAsk := some (0, false, 4) };
      let x := s.adc 48;
      x.epoch = s.epochOf (adcTarget 48) ∧ x.pl = s.planeOf (adcTarget 48) ∧ x.due = [] ∧ x.refWait = false ∧ x.scanning = s.wantsScan 48 ∧ x.active = none ∧ x.resumeAt = none ∧
        x.waiting = [] ∧ x.calAsk = some (0, false, 4)) ∧
    (let s := plain { calRun := some (0, false, 4) };
      let x := s.adc 48;
      x.epoch = s.epochOf (adcTarget 48) ∧ x.pl = s.planeOf (adcTarget 48) ∧ x.due = [] ∧ x.refWait = false ∧ x.scanning = s.wantsScan 48 ∧ x.active = none ∧ x.resumeAt = none ∧
        x.waiting = [] ∧ x.calAsk = none ∧ x.calRun = some (0, false, 4)) ∧ ((conv { calAsk := some (0, false, 4) }).adc 48).calAsk.isSome = true ∧
    (∀ p ∈ (base.adc 48).due ++ base.rx.rtWrites ++ base.hk.writes, p.1 ≠ ADC_BANK 48) ∧ bound.scheduled 0 = true ∧ takesB bound (ADC_BANK 0) = true := by decide +kernel

theorem wit_ExcitationReversesAndDriveWordsLeave_release : (let s := setAdc 48 { scanned := true, slotAt := 5000000 } (setReg (ADC_REF 48) 15 base);
    s.adcRuns 48 = true ∧ (s.adc 48).released = false ∧ (s.adc 48).scanned = true ∧ s.refsSettled 48 = true ∧ (s.adc 48).due = [] ∧ s.adcFault 48 = false) := by decide +kernel

/-- Emitter 0 has used more than its window allows: its limit is 0. -/
def overLimit : State := sf 4 4 ({ ok with buckets := (ok.account setWords 0 1000 50).buckets }) ok base
theorem wit_SafetyCyclesTestsAndComparisons_sums : ok.over setWords permit.tick (List.range 65) = false ∧ ok.stopAt = none ∧ permit.haltsStandby 0 = false ∧
    overLimit.sfState 0 = 4 ∧ (overLimit.sfc 0).cause = 0 ∧ (overLimit.sfc 0).over (overLimit.sf.set.getD []) overLimit.tick (List.range 65) = true ∧
    (overLimit.sfState 1 = 3 ∨ overLimit.sfState 1 = 4 ∨ overLimit.sfState 1 = 5) ∧ (overLimit.sfc 1).crossOff = false ∧ (overLimit.sfc 0).cycleAt = some 4980000 := by decide +kernel
theorem wit_SafetyCyclesTestsAndComparisons_initial : (let s := w [(SF_STATUS, sfField 0, 0)] (ticking ok);
      s.sf.tick = some 49 ∧ s.sfOn 0 = true ∧ s.sfState 0 = 0 ∧ (s.sfc 0).decidedK ≠ some 49 ∧ 49 * 100000 + 40000 ≤ s.now) ∧
    ({ ticking { ok with peer := some message } with sf := { (ticking { ok with peer := some message }).sf with rstEdge := some 49, rstTo := 4 } } : State).sf.rstEdge = some 49 := by
  decide +kernel

theorem wit_ClaimsDecideWhoIsActive_latches : (let s := paired 2 { claims := true, slot := some 4970000, promoteAt := some 4000000, claimCarat := 8 };
      s.ownLatch = true ∧ claimBits (claimBits s.pairSt.claimCarat / 256) = claimBits s.pairSt.claimCarat ∧ s.pair = .standby ∧ s.pairSt.promoteAt.isSome = true ∧
        0xFFFFFF ||| claimBits s.pairSt.claimCarat ≠ claimBits s.pairSt.claimCarat) ∧
    (let s := paired 1 { claims := true, slot := some 4970000, claimCarat := 8 };
      s.ownLatch = true ∧ s.pair = .active ∧ s.pairSt.unproven = false ∧ 0xFFFFFF ||| claimBits s.pairSt.claimCarat ≠ claimBits s.pairSt.claimCarat) ∧
    (let s := w [(PAIR_SKEW, PAIR_SKEW.valid, 1)] (paired 2 {});
      s.pair = .standby ∧ s.fget PAIR_SKEW PAIR_SKEW.valid = 1 ∧
        512 < (((s.now * 2048 : Nat) : Int) - ((s.frameEdge + 20000) * 2048 : Nat) - sext 16 (cutReg s.cut.live PAIR_DELAY).toNat - sext 16 (s.fget PAIR_SKEW PAIR_SKEW.skew)).natAbs) := by
  decide +kernel
theorem wit_PairMessagesCarryAndApplyState_sends : (let s : State := { paired 1 {} with sf := { base.sf with tick := some 50 } };
      s.pair = .active ∧ s.sf.tick = some 50 ∧ s.pairSt.budgetSent ≠ some 50) ∧
    (let s := paired 1 { shotFrames := [0] };
      s.paired = true ∧ s.pairSt.shotFrames.contains 0 = true ∧ 0 = s.frameNum ∧ s.frameDone 0 = true ∧ (look (fun _ => (0, [])) s.pairSt.own 0).2 = []) ∧
    (paired 1 {}).pairSt.shotFrames.contains 0 = false ∧ (paired 1 { budgetSent := some 50 }).pairSt.budgetSent = some 50 := by decide +kernel

/-- The Loupe waits for a latch that is due at `l`. -/
def latching (l : Nat) (seen : Sparse (List Word)) : State := { loupe with time := { loupe.time with tbase := 5000001 }, mgmt := { loupe.mgmt with loupe := { loupe.mgmt.loupe with latchAt := some l, snaps := seen } } }
theorem wit_LoupeArmsFiresAndLatches_latches : (latching 4000000 []).loupeBlocks ≠ [] ∧ 4000000 ≤ (latching 4000000 []).now ∧
    (latching 4000000 []).loupeBlocks.all (fun i => decide (latchEdge i 4000000 ≤ (latching 4000000 []).now)) = true ∧
    (latching 4000000 []).loupeBlocks.all (fun i => !(latching 4000000 []).latched i) = true ∧
    (latching 5000001 []).loupeBlocks.any (fun i => !(latching 5000001 []).latched i && decide ((latching 5000001 []).now < latchEdge i 5000001)) = true ∧ 5000001 ≤ (latching 5000001 []).now ∧
    (latching 4000000 [(2048, [1])]).latched 2048 = true := by decide +kernel

theorem wit_FaultsOfRegionsTakeEffect_silence : (let s : State := { base with mgmt := { base.mgmt with sfSilent := true } };
    s.answers = true ∧ s.mgmt.sfSilent = true) ∧ fenceable 8 = true ∧ fenceable 2 = false := by decide +kernel

theorem wit_LanesClimbFromDetectToTheirRate_words : ctlValid 0x04000020 = false ∧ ctlValid 0x0C00003C = true ∧ helloValid 0x0C00003C = false ∧
    (laneAt 0 0 {}).isolated 5 (0 / 8) = false ∧ ({ base with startup := { base.startup with isolated := [5 * 256] } } : State).isolated 5 (0 / 8) = true := by decide +kernel
theorem wit_LaneCommandsRetrainRearmClearAndTest_loops : (laneAt 6 1 {}).nearLoop 0 = false ∧ (laneAt 6 1 {}).isolated 5 (0 / 8) = false ∧
    (w [(LK_LANE_TEST 0, LK_LANE_TEST.loop, 1)] (laneAt 8 1 {})).nearLoop 0 = true := by decide +kernel
theorem wit_LanesAcceptPacketsAndCredit_echoes : (let s := up { inbox := [(4, [2, 7])] };
      s.laneUp 0 = true ∧ s.answers = true ∧ s.laneRouted 4 0 = true ∧ (s.lane 0).inbox.find? (fun p => p.1 = 4) = some (4, [2, 7]) ∧ (2#32 : Word).toNat % 4 = 2) ∧
    (match exec (.mgmtRequestPacket 0 []) (up { inbox := [(4, [2, 7])] }) with | .next t => decide ((t.req 2).status = 0 ∧ (t.req 2).data = 7) | _ => false) = true := by decide +kernel
theorem wit_PacketsCloseQueueStartAndExpire_drops : (routedUp {}).domOn 59 = true ∧ (setReg (PWR_DOM_ON 1) 0 (routedUp {})).domOn 59 = false ∧
    ({ base with lk := { base.lk with mirrorDue := true } } : State).lk.mirrorDue = true := by decide +kernel
/-- The port waits for a request: an ECHO, and a write to an address space that does not exist, with their CRC bytes. -/
def spiWaits : State := setSpi .request base
theorem wit_TheSpiPortRunsOneTransactionPerFrame_effects : spiWaits.mgmt.spi ≠ .idle ∧ spiWaits.answers = true ∧ base.mgmt.spi = .idle ∧
    crc8 (wordBytes 2 ++ wordBytes 0) = ((BitVec.ofNat 8 (crc8 (wordBytes 2 ++ wordBytes 0)) : Byte)).toNat ∧ (2#32 : Word).toNat % 4 = 2 ∧
    crc8 (wordBytes 0x40000000 ++ wordBytes 0) = ((BitVec.ofNat 8 (crc8 (wordBytes 0x40000000 ++ wordBytes 0)) : Byte)).toNat ∧ (0x40000000#32 : Word).toNat % 4 < 2 ∧
    4 ≤ (0x40000000#32 : Word).toNat / 2 ^ 28 ∧
    (match exec (.spiRequest 2 0 (BitVec.ofNat 8 (crc8 (wordBytes 2 ++ wordBytes 0))) 0) spiWaits with | .next t => decide ((t.req 0).status = 0) | _ => false) = true := by decide +kernel

/-! ### The manual's worked examples -/

/-- Chapter 18, reading the flags of channel 337: the CRC of the request and of the response. -/
theorem test_crc8_of_the_spi_example : crc8 [0x0C, 0x01, 0x05, 0x0A, 0, 0, 0, 0] = 0x5B ∧ crc8 [0, 3, 0, 0, 0] = 0x3A := by decide +kernel

/-- Chapter 18, reading the flags of channel 337: `RX_CELL_FLAGS` stands at 0x0A05_010C and the read answers 3. -/
theorem test_spi_reads_the_flags_of_channel_337 : RX_CELL_FLAGS 337 = 0x0A05010C ∧
    (let t := run (.spiRequest 0x0A05010C 0 0x5B 0) (run .spiFrameStart (setReg (RX_CELL_FLAGS 337) 3 base)); (t.req 0).status = 0 ∧ (t.req 0).data = 3) := by decide +kernel

/-- Chapter 00: RX_IN_337 is region 0xA, block 5, cell 1; chapter 08: converter 49 answers at 0x0300_2100. -/
theorem test_channel_337_and_converter_49_stand_where_the_manual_says : RX_CELL_STATUS 337 / 0x10000 = 0xA05 ∧ ADC_RES_VAL 49 0 / 0x10000 = 0x300 ∧
    0x2100 ≤ ADC_STATUS 49 % 0x10000 ∧ ADC_STATUS 49 % 0x10000 < 0x2200 := by decide +kernel

/-- Chapter 03, channel 337 under the reset values: a steady raw reading of 328 gives thr_now 0x032 and code 0x84E3. -/
theorem test_threshold_of_the_ambient_example : thrLaw 0x1E 0x28 (328 * 65536) 0 = 0x32 := by decide +kernel
theorem test_ambient_code_of_the_example : ambCode (328 * 65536) = 0x84E3 := by decide +kernel

/-- Chapter 04, from phases to millimetres: the tables of channel 337. -/
def tables337 : Tables :=
  { centre := (List.range 128).map (fun i => if i = 93 then 1503 else if i = 21 then 341 else 16 * i + 8), offset := 6784,
    walk := (List.range 256).map (fun i => if i = 9 then 402 else if i = 10 then 370 else 0) }
def view337 : View := { ({ pix with tables := [tables337, tables337], skew := 212, plane := none } : Pixel).view 337 with walkEn := true }
def rise337 : Edge := { ns := 41666682974, phase := 93, rising := true, high := false, ovl := false, dead := false }
def fall337 : Edge := { rise337 with ns := 41666682977, phase := 21, rising := false, high := true }
def start337 : Nat := 41666682891 * 2048 + 16 * 32
theorem test_phase_selects_the_coarse_copy : phaseCode (BitVec.ofNat 128 (2 ^ 93 - 1)) = 93 ∧ coarseOf 93 41666682974 41666682973 = 41666682974 ∧
    coarseOf 21 41666682977 41666682976 = 41666682977 := by decide +kernel
theorem test_tot_of_the_girdle_example : totOf view337 rise337 fall337 = 311 ∧ relOf view337 rise337 start337 = 170763 := by decide +kernel
theorem test_interval_of_the_girdle_example : walkOf tables337.walk 311 = 379 ∧ intervalOf view337 rise337 start337 311 = (163600, false) := by decide +kernel
/-- The last walk segment ends at tot 0x1FFF: its fraction is limited to 32 (R129). -/
theorem test_walk_at_the_longest_tot : walkOf ((List.range 256).map (fun i => if i = 254 then 100 else if i = 255 then 132 else 0)) 0x1FFF = 132 := by decide +kernel
/-- Chapter 05, three shots of one pixel: the codes 0xF3, 0x4C and 0x9F. -/
theorem test_inclusion_codes_of_the_example : lfsrSteps 8 0x3E954C = 0x954CF3 ∧ lfsrSteps 16 0x3E954C = 0x4CF34C ∧ lfsrAdvance 24 0x3E954C = 0xF34C9F := by decide +kernel

/-- Chapter 06: interval 163,600 at k_eff 2 counts in bin 159 with 784 fine steps. -/
theorem test_bin_of_the_example : (look (fun _ => 0) (({} : CellPix).place 256 2 163600 0 false none).bins 159) = BitVec.ofNat 32 (2 ^ 21 + 784) := by decide +kernel

/-- Chapter 06, lock, loss and sweep: class 1 of the table, and an entry's word. -/
def gateTable : List Word := [0, 0, 0, 0, 0x2403A, 0, 0x4000, 0x60]
def locked (o up state miss : Nat) : Word := gateWord o up state miss 0
theorem test_gate_follows_its_returns : locked 4400 0 1 0 = 0x201130 ∧
    gateLaw gateTable 1 { frame := 0, nPix := 64, nRet := 60, sumC := 282984 } 0x201130 = some (locked 4460 0 1 0) ∧
    gateLaw gateTable 1 { frame := 0, nPix := 64, nRet := 1, sumC := 9004 } (locked 8492 1 2 0) = some 0x20222C := by decide +kernel
theorem test_gate_sweeps_after_three_misses : gateLaw gateTable 1 { frame := 0, nPix := 64, nRet := 0, sumC := 0 } (locked 4460 0 1 2) = some (locked 3948 1 2 3) ∧
    (gateLaw gateTable 1 { frame := 0, nPix := 64, nRet := 0, sumC := 0 } (locked 876 3 2 5)).map (fun g => (getF Gate.o g, getF Gate.up g)) = some (0, 4) ∧
    (gateLaw gateTable 1 { frame := 0, nPix := 64, nRet := 1, sumC := 9000 } (locked 0 4 2 6)).map (fun g => (getF Gate.o g, getF Gate.up g)) = some (6952, 3) := by decide +kernel

/-- Chapter 07, fog in front of a wall: the closed buffer. Bins that the table does not place are filled in rising order. -/
def fog : List Nat := (List.range 256).map (fun i =>
  if 8 ≤ i ∧ i ≤ 15 then nth 0 [3, 4, 5, 6, 5, 4, 4, 3] (i - 8) else if i = 159 then 10 else if i = 160 then 4 else if i = 158 then 1
  else if 20 ≤ i ∧ i < 75 then 1 else if 75 ≤ i ∧ i < 83 then 2 else 0)
def fogBins : List Word := fog.zipIdx.map (fun p => BitVec.ofNat 32 (p.1 * 2 ^ 21 + (if p.2 = 159 then 7600 else if p.2 = 160 then 1100 else 512 * p.1)))
def fogCtx : Ctx :=
  { stages := [1, 2, 3, 4, 5, 6, 7], rec_ := regReset (EX_REC 2), peak := regReset (EX_PEAK 2), class_ := regReset (EX_CLASS 2), scale := (regReset (EX_RANGE_SCALE 2)).toNat,
    win := { o := 0, kEff := 2, reach := 2000 }, bins := fogBins, bg := 3, nets := fog.map (fun n => 16 * (n : Int) - 3), ovl := 0, shots := 15,
    rtable := (List.range 33).map (fun i => if i = 29 then 24 else if i = 30 then 20 else if i = 31 then 18 else if i = 32 then 16 else 0),
    ledger := some (1024, [(10, 5), (30, 3)]) }
theorem test_background_of_the_fog_example : background fog (getF EX_PEAK.bg_guard (regReset (EX_PEAK 2))) = 3 ∧ ledgerG 256 2 1024 = 13 := by decide +kernel
/-- The full record of the example, with no flags. -/
theorem test_record_of_the_fog_example : fullRec 0 337 15 2 0x84E3 3 0 (fogCtx.select (fogCtx.returns fogCtx.cands)).1 =
    [0x02000000, 0x00403D51, 0x000384E3, 0, 0x0000DF29, 0x19A372AA, 0x000BB36B, 0x047C3A22, 0, 0, 0, 0] := by decide +kernel
/-- The compact record under FIRST with skip 0x6: MORE_RETURNS stands in bit 24 of word 3. -/
theorem test_compact_record_of_the_fog_example : (let c : Ctx := { fogCtx with rec_ := 0x62 }
    compactRec 0 337 15 0x84E3 0x2 (c.select (c.returns c.cands)).1.head?) = [0x7C000000, 0x000BB36B, 0x84E33A22, 0x01003D51] := by decide +kernel

/-- Chapter 09: a SiPM head at 31.250 °C. -/
theorem test_bias_target_of_the_example : 35218 * 64 * 2 ^ 23 / (2048 * 1250) = 0x70B295 := by decide
/-- Chapter 09, a reversal in mid-ramp: evaluations 1, 5, 10, 13 and 16. -/
theorem test_ramp_of_the_reversal_example : limiter (4000 * 2 ^ 16) (1000 * 2 ^ 16) 0 0 (20000 * 2 ^ 16) (20000 * 2 ^ 16) = (1000 * 2 ^ 16, 1000 * 2 ^ 16, true) ∧
    limiter (4000 * 2 ^ 16) (1000 * 2 ^ 16) (10000 * 2 ^ 16) (4000 * 2 ^ 16) (20000 * 2 ^ 16) (20000 * 2 ^ 16) = (14000 * 2 ^ 16, 4000 * 2 ^ 16, true) ∧
    limiter (4000 * 2 ^ 16) (1000 * 2 ^ 16) (20000 * 2 ^ 16) 0 (8000 * 2 ^ 16) (8000 * 2 ^ 16) = (19000 * 2 ^ 16, -1000 * 2 ^ 16, true) ∧
    limiter (4000 * 2 ^ 16) (1000 * 2 ^ 16) (14000 * 2 ^ 16) (-3000 * 2 ^ 16) (8000 * 2 ^ 16) (8000 * 2 ^ 16) = (11000 * 2 ^ 16, -3000 * 2 ^ 16, true) ∧
    limiter (4000 * 2 ^ 16) (1000 * 2 ^ 16) (8000 * 2 ^ 16) (-1000 * 2 ^ 16) (8000 * 2 ^ 16) (8000 * 2 ^ 16) = (8000 * 2 ^ 16, 0, false) := by decide +kernel

/-- Chapter 10, a drift step on channel 337: centre[93] between two keys and two loads. -/
theorem test_calibration_of_the_drift_example : mixEntries (mixEntries [1492] [1506] 1000 2000) (mixEntries [1500] [1514] 1000 2000) 512 1024 = [1503] := by decide +kernel

/-- Chapter 12, one packet of points: 261 words and a fill word at rate 4 need 5 units; SOP and 131 data blocks of 2.56 ns, rounded up, without
the IDLE block that the example adds under R369. -/
theorem test_length_of_the_point_packet : packetUnits 4 256 = 5 ∧ packetLen 4 256 = 262 ∧ packetTime 4 256 = 338 := by decide +kernel

/-- Chapter 13, a width change against window 0: 200 µJ is a limit of 3,200,000,000 units, and a fire past it is over. -/
def lasing : List Word := (List.range 336).map (fun i => if i = 3 then 1 else if i = 144 + 63 then 781250 else 0xFFFFFFFF)
theorem test_energy_limit_of_the_example : limitWord lasing 0 21 * limitUnit 21 = 3200000000 ∧
    (let c := (({} : SfChan).account lasing 21 3199640000 31); c.over lasing 31 [21] = false ∧ (c.account lasing 21 520000 31).over lasing 31 [21] = true ∧
      (c.account lasing 21 520000 31).over lasing 63 [21] = false) := by decide +kernel

/-- Chapter 15, a die sensor hovering at its limit: RX2's channel is cell 0x1A; the count breaks on 104.99 °C, and the third reading above
105.00 °C sets high_cross and high_active. -/
def hovering (n : Nat) (v : Word) : State :=
  run (.hkRound [(10, v)]) (setHkChan 25 { high := n } (w [(HK_T_CFG 25, HK_T_CFG.en, 1), (HK_T_LIM 25, HK_T_LIM.high, 10500), (HK_T_LIM 25, HK_T_LIM.low, 0x8000)] round))
theorem test_hovering_sensor_breaks_its_count : HK_T_CFG 25 = 0x01FF1A00 ∧ ((hovering 2 104990).hkChan 25).high = 0 ∧ ((hovering 1 105040).hkChan 25).high = 2 := by decide +kernel
theorem test_hovering_sensor_crosses : (hovering 2 105080).rbit (HK_T_FLAGS 25) 1 = true ∧ (hovering 2 105080).fget (HK_T_FLAGS 25) (crossActive 1) = 1 := by decide +kernel

/-! ### Single steps -/

/-- R113, R114: a captured edge waits in its cell's queue with its phase and coarse count. -/
theorem test_discriminator_edge_is_queued :
    ((run (.discriminatorEdge 0 (BitVec.ofNat 128 (2 ^ 93 - 1)) 41666682974 41666682973 true false false false) (cut [] base)).cell 0).queue.map (fun e => (e.ns, e.phase, e.rising)) =
      [(41666682974, 93, true)] := by decide +kernel
/-- R12: a bit of a W1C register is cleared by writing 1, and only that bit. -/
theorem test_w1c_clears_what_is_written : (run (.registerWrite 0 0x0A05010C 1) (setReg (RX_CELL_FLAGS 337) 3 base)).reg (RX_CELL_FLAGS 337) = 2 := by decide +kernel
/-- R26: an edge before the first lock advances no count; the first after it makes `FRAME_NUM` 1 and the boundary instant its capture. -/
theorem test_frame_sync_counts_from_the_lock : (run .frameSyncEdge State.reset).reg FRAME_NUM = 0 ∧ (run .frameSyncEdge base).reg FRAME_NUM = 1 ∧
    (run .frameSyncEdge base).frameEdge = 5000000 := by decide +kernel
/-- R548: op 0b11 answers BAD_OP; an address that names nothing answers NO_TARGET. -/
theorem test_statuses_of_bad_transactions : ((run (.badOp 0 3) base).req 0).status = 4 ∧ ((run (.mgmtTransaction 0 0x0FFFFFC0 0 0) base).req 0).status = 2 ∧
    ((run (.mgmtTransaction 0 0x0FFFFFC1 0 0) base).req 0).status = 2 := by decide +kernel
/-- R551: ECHO answers the data written. -/
theorem test_echo_answers_its_data : ((run (.echo 0 2 0xCAFE) base).req 0).status = 0 ∧ ((run (.echo 0 2 0xCAFE) base).req 0).data = 0xCAFE := by decide +kernel
/-- R552: a request with a wrong CRC completes with CRC and is not executed. -/
theorem test_spi_request_with_a_wrong_crc : (let t := run (.spiRequest 0x0A05010D 1 0 0) (run .spiFrameStart (setReg (RX_CELL_FLAGS 337) 3 base))
    ((t.req 0).status, t.reg (RX_CELL_FLAGS 337))) = (3, 3) := by decide +kernel
/-- R571: RUN is taken in ARMED; R576: RESET_CHIP needs its key. -/
theorem test_run_is_taken_in_armed : (run (.run 0) { base with mode := .armed }).mode = .run ∧ (run (.run 0) base).mode = .configured := by decide +kernel
theorem test_reset_chip_needs_its_key : (run (.resetChip 0 0x1234) base).startup.resetAt = none ∧ (run (.resetChip 0 0x5253) base).startup.resetAt = some 5005000 := by decide +kernel
/-- R475, R7: VDD_CORE out of its window resets the core with cause supply, and the device is OFF while it is gone. -/
theorem test_core_supply_loss_resets : (run (.supplyMonitorChange 0 false) (w [(MODE_STATUS, MODE_STATUS.startup_done, 1)] { base with mode := .run })).mode = .off := by decide +kernel
/-! ### Published check values of the digests -/

/-- FIPS 180-4, "abc" (as bytes 61 62 63), first word 0xBA7816BF. -/
theorem test_sha256_of_abc : sha256Bytes [0x61, 0x62, 0x63] = [0xBF1678BA, 0xEACF018F, 0xDE404141, 0x2322AE5D, 0xA36103B0, 0x9C7A1796, 0x61FF10B4, 0xAD1500F2] := by decide +kernel
/-- The check value of CRC-32 (R47) over "123456789". -/
theorem test_crc32_check_value : crc32Bytes [0x31, 0x32, 0x33, 0x34, 0x35, 0x36, 0x37, 0x38, 0x39] = 0xCBF43926 := by decide +kernel
end Sys2Proof.Tests
end

/-!
PROOFS of the scope statements, part 1: what one command does as a whole. Every command answers a next state, and keeps each part of the
state that `touches` does not name for it.
-/
section
namespace Sys2Proof.Machine

/-- A part outside a list differs from every part in it. -/
theorem ne_of_untouched {l : List Part} {p r : Part} (hp : p ∉ l) (hr : r ∈ l := by decide) : p ≠ r :=
  fun e => hp (e ▸ hr)

/-- Every arm of the dispatch cites the frame lemma of its own operation, whose parts all stand in the list of the command. -/
theorem exec_kept {c : Instr} {s t : State} {p : Part} (h : exec c s = .next t) (hp : p ∉ touches c) : Kept p s t := by
  have k := Kept.refl p s
  cases c with dsimp only [touches, exec] at hp h
  | registerWrite => apply execRegisterWrite_kept (k := k) (e := h) <;> exact ne_of_untouched hp
  | alignmentWord => apply execAlignmentWord_kept (k := k) (e := h) <;> exact ne_of_untouched hp
  | refclkLoss => apply execRefclkLoss_kept (k := k) (e := h) <;> exact ne_of_untouched hp
  | refclkReturn => apply execRefclkReturn_kept (k := k) (e := h) <;> exact ne_of_untouched hp
  | frameSyncEdge => apply execFrameSyncEdge_kept (k := k) (e := h) <;> exact ne_of_untouched hp
  | frameLimitExpiry => apply execFrameLimitExpiry_kept (k := k) (e := h) <;> exact ne_of_untouched hp
  | pixelBoundary => apply execPixelBoundary_kept (k := k) (e := h) <;> exact ne_of_untouched hp
  | changeAtInstant => apply execChangeAtInstant_kept (k := k) (e := h) <;> exact ne_of_untouched hp
  | handshakeTimeout => apply execHandshakeTimeout_kept (k := k) (e := h) <;> exact ne_of_untouched hp
  | faultEscalation => apply execFaultEscalation_kept (k := k) (e := h) <;> exact ne_of_untouched hp
  | regionFenceLift => apply execRegionFenceLift_kept (k := k) (e := h) <;> exact ne_of_untouched hp
  | regionReady => apply execRegionReady_kept (k := k) (e := h) <;> exact ne_of_untouched hp
  | cutWindowWrite => apply execCutWindowWrite_kept (k := k) (e := h) <;> exact ne_of_untouched hp
  | loadSlot => apply execLoadSlot_kept (k := k) (e := h) <;> exact ne_of_untouched hp
  | loadSlotCopyDone => apply execLoadSlotCopyDone_kept (k := k) (e := h) <;> exact ne_of_untouched hp
  | validate => apply execValidate_kept (k := k) (e := h) <;> exact ne_of_untouched hp
  | validationComplete => apply execValidationComplete_kept (k := k) (e := h) <;> exact ne_of_untouched hp
  | schedule => apply execSchedule_kept (k := k) (e := h) <;> exact ne_of_untouched hp
  | cancel => apply execCancel_kept (k := k) (e := h) <;> exact ne_of_untouched hp
  | discard => apply execDiscard_kept (k := k) (e := h) <;> exact ne_of_untouched hp
  | cutBadCommand => apply execCutBadCommand_kept (k := k) (e := h) <;> exact ne_of_untouched hp
  | swapApply => apply execSwapApply_kept (k := k) (e := h) <;> exact ne_of_untouched hp
  | swapDone => apply execSwapDone_kept (k := k) (e := h) <;> exact ne_of_untouched hp
  | liveRedigest => apply execLiveRedigest_kept (k := k) (e := h) <;> exact ne_of_untouched hp
  | discriminatorEdge => apply execDiscriminatorEdge_kept (k := k) (e := h) <;> exact ne_of_untouched hp
  | deadTimeEnd => apply execDeadTimeEnd_kept (k := k) (e := h) <;> exact ne_of_untouched hp
  | edgeAttribute => apply execEdgeAttribute_kept (k := k) (e := h) <;> exact ne_of_untouched hp
  | totLimitExpiry => apply execTotLimitExpiry_kept (k := k) (e := h) <;> exact ne_of_untouched hp
  | pulsePlace => apply execPulsePlace_kept (k := k) (e := h) <;> exact ne_of_untouched hp
  | startPost => exact execStartPost_kept (ne_of_untouched hp) k h
  | startInstant => apply execStartInstant_kept (k := k) (e := h) <;> exact ne_of_untouched hp
  | shotWindowClose => apply execShotWindowClose_kept (k := k) (e := h) <;> exact ne_of_untouched hp
  | blankNFall => exact execBlankNFall_kept (ne_of_untouched hp) k h
  | blankNRise => exact execBlankNRise_kept (ne_of_untouched hp) k h
  | blankIntervalStart => exact execBlankIntervalStart_kept (ne_of_untouched hp) k h
  | blankIntervalEnd => apply execBlankIntervalEnd_kept (k := k) (e := h) <;> exact ne_of_untouched hp
  | blankStuck => apply execBlankStuck_kept (k := k) (e := h) <;> exact ne_of_untouched hp
  | checkSlotInsert => exact execCheckSlotInsert_kept (ne_of_untouched hp) k h
  | checkWindowEnd => apply execCheckWindowEnd_kept (k := k) (e := h) <;> exact ne_of_untouched hp
  | cellRearm => apply execCellRearm_kept (k := k) (e := h) <;> exact ne_of_untouched hp
  | checkNow => apply execCheckNow_kept (k := k) (e := h) <;> exact ne_of_untouched hp
  | biasConversionRequest => apply execBiasConversionRequest_kept (k := k) (e := h) <;> exact ne_of_untouched hp
  | markerEdge => apply execMarkerEdge_kept (k := k) (e := h) <;> exact ne_of_untouched hp
  | skewRefresh => apply execSkewRefresh_kept (k := k) (e := h) <;> exact ne_of_untouched hp
  | foregroundRunEnd => apply execForegroundRunEnd_kept (k := k) (e := h) <;> exact ne_of_untouched hp
  | backgroundRunEnd => apply execBackgroundRunEnd_kept (k := k) (e := h) <;> exact ne_of_untouched hp
  | girdleLockLoss => apply execGirdleLockLoss_kept (k := k) (e := h) <;> exact ne_of_untouched hp
  | gdClearCounts => apply execGdClearCounts_kept (k := k) (e := h) <;> exact ne_of_untouched hp
  | slotPlace => apply execSlotPlace_kept (k := k) (e := h) <;> exact ne_of_untouched hp
  | fire => apply execFire_kept (k := k) (e := h) <;> exact ne_of_untouched hp
  | monitorCharge => apply execMonitorCharge_kept (k := k) (e := h) <;> exact ne_of_untouched hp
  | portRearm => apply execPortRearm_kept (k := k) (e := h) <;> exact ne_of_untouched hp
  | hopFrameWrite => apply execHopFrameWrite_kept (k := k) (e := h) <;> exact ne_of_untouched hp
  | pixelClose => apply execPixelClose_kept (k := k) (e := h) <;> exact ne_of_untouched hp
  | cellExtract => apply execCellExtract_kept (k := k) (e := h) <;> exact ne_of_untouched hp
  | gateUpdate => apply execGateUpdate_kept (k := k) (e := h) <;> exact ne_of_untouched hp
  | gateRead => apply execGateRead_kept (k := k) (e := h) <;> exact ne_of_untouched hp
  | gateStage => apply execGateStage_kept (k := k) (e := h) <;> exact ne_of_untouched hp
  | gateCommit => apply execGateCommit_kept (k := k) (e := h) <;> exact ne_of_untouched hp
  | gateDiscard => apply execGateDiscard_kept (k := k) (e := h) <;> exact ne_of_untouched hp
  | histWindowRead => apply execHistWindowRead_kept (k := k) (e := h) <;> exact ne_of_untouched hp
  | conversionSlotEnd => apply execConversionSlotEnd_kept (k := k) (e := h) <;> exact ne_of_untouched hp
  | injectedRequest => apply execInjectedRequest_kept (k := k) (e := h) <;> exact ne_of_untouched hp
  | injectedResult => apply execInjectedResult_kept (k := k) (e := h) <;> exact ne_of_untouched hp
  | selfCheck => apply execSelfCheck_kept (k := k) (e := h) <;> exact ne_of_untouched hp
  | referenceSettled => apply execReferenceSettled_kept (k := k) (e := h) <;> exact ne_of_untouched hp
  | referenceLost => apply execReferenceLost_kept (k := k) (e := h) <;> exact ne_of_untouched hp
  | calZero => apply execCalZero_kept (k := k) (e := h) <;> exact ne_of_untouched hp
  | calZeroDone => apply execCalZeroDone_kept (k := k) (e := h) <;> exact ne_of_untouched hp
  | calFull => apply execCalFull_kept (k := k) (e := h) <;> exact ne_of_untouched hp
  | calFullDone => apply execCalFullDone_kept (k := k) (e := h) <;> exact ne_of_untouched hp
  | scanOn => apply execScanOn_kept (k := k) (e := h) <;> exact ne_of_untouched hp
  | scanOff => apply execScanOff_kept (k := k) (e := h) <;> exact ne_of_untouched hp
  | bnReset => apply execBnReset_kept (k := k) (e := h) <;> exact ne_of_untouched hp
  | adcRearm => apply execAdcRearm_kept (k := k) (e := h) <;> exact ne_of_untouched hp
  | adcBadCommand => apply execAdcBadCommand_kept (k := k) (e := h) <;> exact ne_of_untouched hp
  | bankWrite => apply execBankWrite_kept (k := k) (e := h) <;> exact ne_of_untouched hp
  | converterRelease => apply execConverterRelease_kept (k := k) (e := h) <;> exact ne_of_untouched hp
  | excCurrentLimit => apply execExcCurrentLimit_kept (k := k) (e := h) <;> exact ne_of_untouched hp
  | excWrite => apply execExcWrite_kept (k := k) (e := h) <;> exact ne_of_untouched hp
  | chopReversal => apply execChopReversal_kept (k := k) (e := h) <;> exact ne_of_untouched hp
  | driveWord => apply execDriveWord_kept (k := k) (e := h) <;> exact ne_of_untouched hp
  | keepalive => exact execKeepalive_kept (ne_of_untouched hp) k h
  | loopRequest => apply execLoopRequest_kept (k := k) (e := h) <;> exact ne_of_untouched hp
  | loopSample => apply execLoopSample_kept (k := k) (e := h) <;> exact ne_of_untouched hp
  | loopEvaluation => apply execLoopEvaluation_kept (k := k) (e := h) <;> exact ne_of_untouched hp
  | loopTimeout => apply execLoopTimeout_kept (k := k) (e := h) <;> exact ne_of_untouched hp
  | settleHoldEvaluation => apply execSettleHoldEvaluation_kept (k := k) (e := h) <;> exact ne_of_untouched hp
  | loopRearm => apply execLoopRearm_kept (k := k) (e := h) <;> exact ne_of_untouched hp
  | clearDelay => apply execClearDelay_kept (k := k) (e := h) <;> exact ne_of_untouched hp
  | setpointWrite => apply execSetpointWrite_kept (k := k) (e := h) <;> exact ne_of_untouched hp
  | amplitudeWrite => apply execAmplitudeWrite_kept (k := k) (e := h) <;> exact ne_of_untouched hp
  | engineLoadUpdate => apply execEngineLoadUpdate_kept (k := k) (e := h) <;> exact ne_of_untouched hp
  | excitationReversalSensed => apply execExcitationReversalSensed_kept (k := k) (e := h) <;> exact ne_of_untouched hp
  | loadRefresh => exact execLoadRefresh_kept (ne_of_untouched hp) k h
  | fgStart => apply execFgStart_kept (k := k) (e := h) <;> exact ne_of_untouched hp
  | fgAbort => apply execFgAbort_kept (k := k) (e := h) <;> exact ne_of_untouched hp
  | winRead => apply execWinRead_kept (k := k) (e := h) <;> exact ne_of_untouched hp
  | captureEdgeArrival => apply execCaptureEdgeArrival_kept (k := k) (e := h) <;> exact ne_of_untouched hp
  | eventRelease => apply execEventRelease_kept (k := k) (e := h) <;> exact ne_of_untouched hp
  | gapMarker => exact execGapMarker_kept (ne_of_untouched hp) k h
  | postTimeExpiry => apply execPostTimeExpiry_kept (k := k) (e := h) <;> exact ne_of_untouched hp
  | segmentOpen => apply execSegmentOpen_kept (k := k) (e := h) <;> exact ne_of_untouched hp
  | captureArm => apply execCaptureArm_kept (k := k) (e := h) <;> exact ne_of_untouched hp
  | captureAbort => apply execCaptureAbort_kept (k := k) (e := h) <;> exact ne_of_untouched hp
  | force => apply execForce_kept (k := k) (e := h) <;> exact ne_of_untouched hp
  | clearCnt => apply execClearCnt_kept (k := k) (e := h) <;> exact ne_of_untouched hp
  | extTrigEdge => apply execExtTrigEdge_kept (k := k) (e := h) <;> exact ne_of_untouched hp
  | xlineEdge => apply execXlineEdge_kept (k := k) (e := h) <;> exact ne_of_untouched hp
  | xlineRelease => exact execXlineRelease_kept (ne_of_untouched hp) k h
  | xlineStuck => apply execXlineStuck_kept (k := k) (e := h) <;> exact ne_of_untouched hp
  | captureWindowRead => apply execCaptureWindowRead_kept (k := k) (e := h) <;> exact ne_of_untouched hp
  | laneEnable => apply execLaneEnable_kept (k := k) (e := h) <;> exact ne_of_untouched hp
  | helloBurst => exact execHelloBurst_kept (ne_of_untouched hp) k h
  | hello => apply execHello_kept (k := k) (e := h) <;> exact ne_of_untouched hp
  | capsTimeout => apply execCapsTimeout_kept (k := k) (e := h) <;> exact ne_of_untouched hp
  | rate => apply execRate_kept (k := k) (e := h) <;> exact ne_of_untouched hp
  | alignmentTimeout => apply execAlignmentTimeout_kept (k := k) (e := h) <;> exact ne_of_untouched hp
  | tapReq => apply execTapReq_kept (k := k) (e := h) <;> exact ne_of_untouched hp
  | tapAck => apply execTapAck_kept (k := k) (e := h) <;> exact ne_of_untouched hp
  | tapReqResend => exact execTapReqResend_kept (ne_of_untouched hp) k h
  | eqDone => apply execEqDone_kept (k := k) (e := h) <;> exact ne_of_untouched hp
  | eqTimeout => apply execEqTimeout_kept (k := k) (e := h) <;> exact ne_of_untouched hp
  | verifyEnd => apply execVerifyEnd_kept (k := k) (e := h) <;> exact ne_of_untouched hp
  | verifyPatternEnd => apply execVerifyPatternEnd_kept (k := k) (e := h) <;> exact ne_of_untouched hp
  | retrain => apply execRetrain_kept (k := k) (e := h) <;> exact ne_of_untouched hp
  | lineErrorRetrain => apply execLineErrorRetrain_kept (k := k) (e := h) <;> exact ne_of_untouched hp
  | partnerLost => apply execPartnerLost_kept (k := k) (e := h) <;> exact ne_of_untouched hp
  | loop => apply execLoop_kept (k := k) (e := h) <;> exact ne_of_untouched hp
  | laneRetrainCmd => apply execLaneRetrainCmd_kept (k := k) (e := h) <;> exact ne_of_untouched hp
  | laneRearm => apply execLaneRearm_kept (k := k) (e := h) <;> exact ne_of_untouched hp
  | laneClearCounts => apply execLaneClearCounts_kept (k := k) (e := h) <;> exact ne_of_untouched hp
  | laneTestWrite => apply execLaneTestWrite_kept (k := k) (e := h) <;> exact ne_of_untouched hp
  | packetReceived => apply execPacketReceived_kept (k := k) (e := h) <;> exact ne_of_untouched hp
  | mgmtRequestPacket => apply execMgmtRequestPacket_kept (k := k) (e := h) <;> exact ne_of_untouched hp
  | credit => exact execCredit_kept (ne_of_untouched hp) k h
  | creditGrant => exact execCreditGrant_kept (ne_of_untouched hp) k h
  | packetCloseTimer => apply execPacketCloseTimer_kept (k := k) (e := h) <;> exact ne_of_untouched hp
  | packetTransmit => apply execPacketTransmit_kept (k := k) (e := h) <;> exact ne_of_untouched hp
  | streamWaitExpiry => apply execStreamWaitExpiry_kept (k := k) (e := h) <;> exact ne_of_untouched hp
  | statBeacon => apply execStatBeacon_kept (k := k) (e := h) <;> exact ne_of_untouched hp
  | statCensus => apply execStatCensus_kept (k := k) (e := h) <;> exact ne_of_untouched hp
  | statSafetyMirror => apply execStatSafetyMirror_kept (k := k) (e := h) <;> exact ne_of_untouched hp
  | safetyCycle => apply execSafetyCycle_kept (k := k) (e := h) <;> exact ne_of_untouched hp
  | crossOff => apply execCrossOff_kept (k := k) (e := h) <;> exact ne_of_untouched hp
  | estopChange => apply execEstopChange_kept (k := k) (e := h) <;> exact ne_of_untouched hp
  | estopDiscrepancy => apply execEstopDiscrepancy_kept (k := k) (e := h) <;> exact ne_of_untouched hp
  | fireReport => apply execFireReport_kept (k := k) (e := h) <;> exact ne_of_untouched hp
  | chargeReport => apply execChargeReport_kept (k := k) (e := h) <;> exact ne_of_untouched hp
  | scanFault => apply execScanFault_kept (k := k) (e := h) <;> exact ne_of_untouched hp
  | motionSampleRequest => apply execMotionSampleRequest_kept (k := k) (e := h) <;> exact ne_of_untouched hp
  | motionSample => apply execMotionSample_kept (k := k) (e := h) <;> exact ne_of_untouched hp
  | offDemand => apply execOffDemand_kept (k := k) (e := h) <;> exact ne_of_untouched hp
  | tickClose => apply execTickClose_kept (k := k) (e := h) <;> exact ne_of_untouched hp
  | xcSend => exact execXcSend_kept (ne_of_untouched hp) k h
  | xcMessage => exact execXcMessage_kept (ne_of_untouched hp) k h
  | xcDecide => apply execXcDecide_kept (k := k) (e := h) <;> exact ne_of_untouched hp
  | testPulseStart => exact execTestPulseStart_kept (ne_of_untouched hp) k h
  | testPulseSample => apply execTestPulseSample_kept (k := k) (e := h) <;> exact ne_of_untouched hp
  | testPulseEnd => exact execTestPulseEnd_kept (ne_of_untouched hp) k h
  | safetySupplyCheck => apply execSafetySupplyCheck_kept (k := k) (e := h) <;> exact ne_of_untouched hp
  | safeRstEdge => exact execSafeRstEdge_kept (ne_of_untouched hp) k h
  | safeRstStuck => apply execSafeRstStuck_kept (k := k) (e := h) <;> exact ne_of_untouched hp
  | unlock => apply execUnlock_kept (k := k) (e := h) <;> exact ne_of_untouched hp
  | lock => apply execLock_kept (k := k) (e := h) <;> exact ne_of_untouched hp
  | setPwd => apply execSetPwd_kept (k := k) (e := h) <;> exact ne_of_untouched hp
  | stageLoad => apply execStageLoad_kept (k := k) (e := h) <;> exact ne_of_untouched hp
  | sfParamDataWrite => apply execSfParamDataWrite_kept (k := k) (e := h) <;> exact ne_of_untouched hp
  | safetyCommit => apply execSafetyCommit_kept (k := k) (e := h) <;> exact ne_of_untouched hp
  | selftest => apply execSelftest_kept (k := k) (e := h) <;> exact ne_of_untouched hp
  | selftestDone => apply execSelftestDone_kept (k := k) (e := h) <;> exact ne_of_untouched hp
  | disarm => apply execDisarm_kept (k := k) (e := h) <;> exact ne_of_untouched hp
  | sfBadCommand => apply execSfBadCommand_kept (k := k) (e := h) <;> exact ne_of_untouched hp
  | sessionExpiry => exact execSessionExpiry_kept (ne_of_untouched hp) k h
  | lockoutExpiry => exact execLockoutExpiry_kept (ne_of_untouched hp) k h
  | budgetStale => apply execBudgetStale_kept (k := k) (e := h) <;> exact ne_of_untouched hp
  | claimFrame => exact execClaimFrame_kept (ne_of_untouched hp) k h
  | claimSynEdge => apply execClaimSynEdge_kept (k := k) (e := h) <;> exact ne_of_untouched hp
  | claimLatch => apply execClaimLatch_kept (k := k) (e := h) <;> exact ne_of_untouched hp
  | claimSilent => apply execClaimSilent_kept (k := k) (e := h) <;> exact ne_of_untouched hp
  | promoteRequest => apply execPromoteRequest_kept (k := k) (e := h) <;> exact ne_of_untouched hp
  | promoteTimeout => apply execPromoteTimeout_kept (k := k) (e := h) <;> exact ne_of_untouched hp
  | excitationTakeover => apply execExcitationTakeover_kept (k := k) (e := h) <;> exact ne_of_untouched hp
  | heartbeatToggle => exact execHeartbeatToggle_kept (ne_of_untouched hp) k h
  | budgetSend => apply execBudgetSend_kept (k := k) (e := h) <;> exact ne_of_untouched hp
  | loopsSend => apply execLoopsSend_kept (k := k) (e := h) <;> exact ne_of_untouched hp
  | statusSend => apply execStatusSend_kept (k := k) (e := h) <;> exact ne_of_untouched hp
  | summarySend => apply execSummarySend_kept (k := k) (e := h) <;> exact ne_of_untouched hp
  | pairMessage => apply execPairMessage_kept (k := k) (e := h) <;> exact ne_of_untouched hp
  | summaryCompareTimeout => exact execSummaryCompareTimeout_kept (ne_of_untouched hp) k h
  | rejoin => apply execRejoin_kept (k := k) (e := h) <;> exact ne_of_untouched hp
  | withdraw => apply execWithdraw_kept (k := k) (e := h) <;> exact ne_of_untouched hp
  | hkRound => apply execHkRound_kept (k := k) (e := h) <;> exact ne_of_untouched hp
  | supplyMonitorChange => apply execSupplyMonitorChange_kept (k := k) (e := h) <;> exact ne_of_untouched hp
  | domainFault => apply execDomainFault_kept (k := k) (e := h) <;> exact ne_of_untouched hp
  | domainRestart => apply execDomainRestart_kept (k := k) (e := h) <;> exact ne_of_untouched hp
  | domainGood => apply execDomainGood_kept (k := k) (e := h) <;> exact ne_of_untouched hp
  | domainSwitchOff => apply execDomainSwitchOff_kept (k := k) (e := h) <;> exact ne_of_untouched hp
  | recordWrite => apply execRecordWrite_kept (k := k) (e := h) <;> exact ne_of_untouched hp
  | recordCopy => apply execRecordCopy_kept (k := k) (e := h) <;> exact ne_of_untouched hp
  | flashMirror => exact execFlashMirror_kept (ne_of_untouched hp) k h
  | hoursSave => exact execHoursSave_kept (ne_of_untouched hp) k h
  | recDataRead => apply execRecDataRead_kept (k := k) (e := h) <;> exact ne_of_untouched hp
  | fetch => apply execFetch_kept (k := k) (e := h) <;> exact ne_of_untouched hp
  | fetchDone => apply execFetchDone_kept (k := k) (e := h) <;> exact ne_of_untouched hp
  | clear => apply execClear_kept (k := k) (e := h) <;> exact ne_of_untouched hp
  | splitReadLow => apply execSplitReadLow_kept (k := k) (e := h) <;> exact ne_of_untouched hp
  | windowLatchRead => apply execWindowLatchRead_kept (k := k) (e := h) <;> exact ne_of_untouched hp
  | loupeInEdge => apply execLoupeInEdge_kept (k := k) (e := h) <;> exact ne_of_untouched hp
  | loupeArm => apply execLoupeArm_kept (k := k) (e := h) <;> exact ne_of_untouched hp
  | loupeFire => apply execLoupeFire_kept (k := k) (e := h) <;> exact ne_of_untouched hp
  | loupeLatch => apply execLoupeLatch_kept (k := k) (e := h) <;> exact ne_of_untouched hp
  | storeCut => apply execStoreCut_kept (k := k) (e := h) <;> exact ne_of_untouched hp
  | setBootCut => apply execSetBootCut_kept (k := k) (e := h) <;> exact ne_of_untouched hp
  | openUpdate => apply execOpenUpdate_kept (k := k) (e := h) <;> exact ne_of_untouched hp
  | openKeys => apply execOpenKeys_kept (k := k) (e := h) <;> exact ne_of_untouched hp
  | close => apply execClose_kept (k := k) (e := h) <;> exact ne_of_untouched hp
  | updateSessionExpiry => apply execUpdateSessionExpiry_kept (k := k) (e := h) <;> exact ne_of_untouched hp
  | fwDataWrite => apply execFwDataWrite_kept (k := k) (e := h) <;> exact ne_of_untouched hp
  | flashProgramDone => apply execFlashProgramDone_kept (k := k) (e := h) <;> exact ne_of_untouched hp
  | verify => apply execVerify_kept (k := k) (e := h) <;> exact ne_of_untouched hp
  | verifyDone => apply execVerifyDone_kept (k := k) (e := h) <;> exact ne_of_untouched hp
  | activate => apply execActivate_kept (k := k) (e := h) <;> exact ne_of_untouched hp
  | imageLoaded => apply execImageLoaded_kept (k := k) (e := h) <;> exact ne_of_untouched hp
  | ready => apply execReady_kept (k := k) (e := h) <;> exact ne_of_untouched hp
  | readyTimeout => apply execReadyTimeout_kept (k := k) (e := h) <;> exact ne_of_untouched hp
  | confirm => apply execConfirm_kept (k := k) (e := h) <;> exact ne_of_untouched hp
  | confirmDeadline => apply execConfirmDeadline_kept (k := k) (e := h) <;> exact ne_of_untouched hp
  | watchdogExpiry => apply execWatchdogExpiry_kept (k := k) (e := h) <;> exact ne_of_untouched hp
  | enrol => apply execEnrol_kept (k := k) (e := h) <;> exact ne_of_untouched hp
  | revoke => apply execRevoke_kept (k := k) (e := h) <;> exact ne_of_untouched hp
  | attest => apply execAttest_kept (k := k) (e := h) <;> exact ne_of_untouched hp
  | attestDone => apply execAttestDone_kept (k := k) (e := h) <;> exact ne_of_untouched hp
  | fwBadCommand => apply execFwBadCommand_kept (k := k) (e := h) <;> exact ne_of_untouched hp
  | presenceOpen => apply execPresenceOpen_kept (k := k) (e := h) <;> exact ne_of_untouched hp
  | presenceClose => apply execPresenceClose_kept (k := k) (e := h) <;> exact ne_of_untouched hp
  | mgmtTransaction => apply execMgmtTransaction_kept (k := k) (e := h) <;> exact ne_of_untouched hp
  | echo => exact execEcho_kept (ne_of_untouched hp) k h
  | badOp => apply execBadOp_kept (k := k) (e := h) <;> exact ne_of_untouched hp
  | spiFrameStart => exact execSpiFrameStart_kept (ne_of_untouched hp) k h
  | spiRequest => apply execSpiRequest_kept (k := k) (e := h) <;> exact ne_of_untouched hp
  | spiFrameEnd => apply execSpiFrameEnd_kept (k := k) (e := h) <;> exact ne_of_untouched hp
  | resetNAssert => apply execResetNAssert_kept (k := k) (e := h) <;> exact ne_of_untouched hp
  | resetNRelease => exact execResetNRelease_kept (ne_of_untouched hp) k h
  | startupStart => apply execStartupStart_kept (k := k) (e := h) <;> exact ne_of_untouched hp
  | run => apply execRun_kept (k := k) (e := h) <;> exact ne_of_untouched hp
  | stop => apply execStop_kept (k := k) (e := h) <;> exact ne_of_untouched hp
  | resetChip => apply execResetChip_kept (k := k) (e := h) <;> exact ne_of_untouched hp
  | modeBadCommand => apply execModeBadCommand_kept (k := k) (e := h) <;> exact ne_of_untouched hp
  | laneAligned => apply execLaneAligned_kept (k := k) (e := h) <;> exact ne_of_untouched hp
  | aqBadCommand => apply execAqBadCommand_kept (k := k) (e := h) <;> exact ne_of_untouched hp
  | gateBadCommand => apply execGateBadCommand_kept (k := k) (e := h) <;> exact ne_of_untouched hp
  | calBadCommand => apply execCalBadCommand_kept (k := k) (e := h) <;> exact ne_of_untouched hp
  | islandClockMonitorFault => apply execIslandClockMonitorFault_kept (k := k) (e := h) <;> exact ne_of_untouched hp
  | crossbarFault => apply execCrossbarFault_kept (k := k) (e := h) <;> exact ne_of_untouched hp
  | cfUncorrectableError => apply execCfUncorrectableError_kept (k := k) (e := h) <;> exact ne_of_untouched hp

/-- Only FW_BAD_COMMAND asks anything before it answers; either way it answers a next state. -/
theorem exec_answers (c : Instr) (s : State) : ∃ t, exec c s = .next t := by
  cases c with
  | fwBadCommand q command =>
    show ∃ t, execFwBadCommand q command s = .next t
    unfold execFwBadCommand
    split
    · exact ⟨_, rfl⟩
    · exact ⟨_, rfl⟩
  | _ => exact ⟨_, rfl⟩

theorem step_nil {s : State} (h : s.pending = []) : step s = .next (tick s) := by
  unfold step
  rw [h]

theorem step_cons {s : State} {c : Instr} {cs : List Instr} (h : s.pending = c :: cs) :
    step s = exec c { s with pending := cs } := by
  unfold step
  rw [h]

theorem step_answers (s : State) : ∃ t, step s = .next t := by
  cases h : s.pending with
  | nil => exact ⟨_, step_nil h⟩
  | cons c cs => rw [step_cons h]; exact exec_answers c _

/-- Nothing is stored in the register file after reset, so a register reads what an unlisted entry reads as. -/
theorem reset_reg (a : Nat) : State.reset.reg a = regReset a := rfl

theorem regReset_of_row {a : Nat} {row : RegRow} (h : regRow a = some row) : regReset a = BitVec.ofNat 32 row.reset := by
  unfold regReset
  rw [h]

/-- Settles O6: the frame of each command is that of its operation. -/
theorem everyCommandKeepsWhatIsNotItsOwn : Obligations.EveryCommandKeepsWhatIsNotItsOwn :=
  fun _ _ _ h _ hp => exec_kept h hp

/-- Settles O7. -/
theorem noCommandStops : Obligations.NoCommandStops :=
  ⟨exec_answers, step_answers⟩

/-- Settles O1: the front of the queue is taken off before the command runs. -/
theorem stepRunsTheFrontCommand : Obligations.StepRunsTheFrontCommand :=
  fun _ _ _ => step_cons rfl

/-- Settles O3: the register file of the reset state is empty, and a register that it does not list reads its reset word. -/
theorem resetLeavesEveryRegisterAtItsResetWord : Obligations.ResetLeavesEveryRegisterAtItsResetWord := by
  refine ⟨fun a row h => ?_, rfl, rfl, rfl, rfl, rfl, rfl, ?_, rfl, ?_, fun _ => rfl⟩
  · rw [reset_reg, regReset_of_row h]
  · show (State.reset.reg FRAME_NUM).toNat = 0
    rw [reset_reg]
    decide
  · unfold State.answers State.fget
    rw [reset_reg]
    decide

end Sys2Proof.Machine
end

/-!
PROOFS of the scope statements, part 2: the transactions. What an access of a firmware register leaves alone, what a completed transaction
holds, and what a READ or WRITE of a register comes to where its target takes the access and where it does not.
-/
section
namespace Sys2Proof.Machine

variable {s : State} {q a b : Nat}

/-! ### An access of a session's owner (R519) -/

@[simp] theorem touchFw_regs : (touchFw q a s).regs = s.regs := touchFw_kept (p := .regs) (by decide) (.refl _ s)
@[simp] theorem touchFw_mgmt : (touchFw q a s).mgmt = s.mgmt := touchFw_kept (p := .mgmt) (by decide) (.refl _ s)
@[simp] theorem touchFw_time : (touchFw q a s).time = s.time := touchFw_kept (p := .time) (by decide) (.refl _ s)
@[simp] theorem touchFw_startup : (touchFw q a s).startup = s.startup := touchFw_kept (p := .startup) (by decide) (.refl _ s)

@[simp] theorem touchFw_reg {r : Nat} : (touchFw q a s).reg r = s.reg r := by
  unfold State.reg
  rw [touchFw_regs]

@[simp] theorem touchFw_req {r : Nat} : (touchFw q a s).req r = s.req r := by
  unfold State.req
  rw [touchFw_mgmt]

@[simp] theorem touchFw_answers : (touchFw q a s).answers = s.answers := by
  unfold State.answers State.fget
  rw [touchFw_startup, touchFw_reg]

@[simp] theorem touchFw_targetStatus : (touchFw q a s).targetStatus b = s.targetStatus b := by
  unfold State.targetStatus State.fenced State.domGood State.rbit
  rw [touchFw_mgmt, touchFw_time, touchFw_reg, touchFw_reg]

@[simp] theorem touchFw_takes : (touchFw q a s).takes b ↔ s.takes b := by
  unfold State.takes
  rw [touchFw_answers, touchFw_targetStatus]

@[simp] theorem touchFw_windowAt {r : Nat} : (touchFw q a s).windowAt r b = s.windowAt r b := by
  unfold State.windowAt
  rw [touchFw_req, touchFw_reg]

/-- Only the firmware and key registers of CF keep a session. -/
theorem touchFw_of_outside (h : ¬(FW_CMD ≤ a ∧ a < KEY_DATA 8)) : touchFw q a s = s := if_neg h

theorem touchFw_of_region (h : a / 0x1000000 ≠ 0) : touchFw q a s = s :=
  touchFw_of_outside (by simp only [FW_CMD, KEY_DATA, baseFw]; omega)

theorem touchFw_of_cell (h : a / 0x100 % 256 ≠ 0x20) : touchFw q a s = s :=
  touchFw_of_outside (by simp only [FW_CMD, KEY_DATA, baseFw]; omega)

theorem ownsSession_setFw {f : Fw} : (setFw f s).ownsSession q = s.ownsSession q := rfl

/-- A second access at the same instant changes nothing more. -/
theorem touchFw_touchFw : touchFw q a (touchFw q a s) = touchFw q a s := by
  unfold touchFw touchSession
  split
  · split
    · rw [ownsSession_setFw, if_pos ‹_›]
      rfl
    · rfl
  · rfl

/-! ### Completion (R548, R550) -/

/-- A transaction that completes with OK changes nothing but its requester's record. -/
theorem complete_ok {w : Word} :
    complete q 0 a w s = setReq q { s.req q with status := 0, data := w, lastAccess := if a % 4 = 1 then none else some (a / 4 * 4) } s := rfl

/-- A READ at a register's address leaves that address as the requester's last access. -/
theorem complete_ok_read {w : Word} (h : a % 4 = 0) :
    complete q 0 a w s = setReq q { s.req q with status := 0, data := w, lastAccess := some a } s := by
  rw [complete_ok, if_neg (by omega), show a / 4 * 4 = a by omega]

/-! ### Register addresses (R541, R542) -/

theorem regRow_aligned (h : regRow a ≠ none) : a % 4 = 0 ∧ a < 0x10000000 := by
  unfold regRow at h
  by_contra hn
  rw [if_neg hn] at h
  exact h rfl

/-- The word of a register's address carries op READ. -/
theorem transact_read {data : Word} {ecc : Nat} (h : a % 4 = 0) (hlt : a < 0x10000000) :
    transact q (BitVec.ofNat 32 a) data ecc s = readReg q a s := by
  have hv : (BitVec.ofNat 32 a).toNat = a := by simp; omega
  have hop : a % 4 ≠ 3 ∧ a % 4 ≠ 2 ∧ a % 4 ≠ 1 := by omega
  have hreg : a / 4 * 4 = a := by omega
  have hspace : a / 2 ^ 28 = 0 := by omega
  unfold transact
  simp only [hv, hop, hreg, hspace, if_false, decide_false, Bool.false_eq_true]
  unfold readReg
  split <;> rfl

/-- The address of a register with op 0b01 is a WRITE of it. -/
theorem transact_write {data : Word} {ecc : Nat} (h : a % 4 = 0) (hlt : a < 0x10000000) :
    transact q (BitVec.ofNat 32 (a + 1)) data ecc s = writeReg q a data s := by
  have hv : (BitVec.ofNat 32 (a + 1)).toNat = a + 1 := by simp; omega
  have hop : (a + 1) % 4 = 1 := by omega
  have hreg : (a + 1) / 4 * 4 = a := by omega
  have hspace : (a + 1) / 2 ^ 28 = 0 := by omega
  unfold transact
  simp only [hv, hop, hreg, hspace]
  unfold writeReg
  split <;> rfl

/-! ### Where the target takes the access -/

theorem writeReg_of_row {row : RegRow} {w : Word} (hs : s.answers = true) (hrow : regRow a = some row) :
    writeReg q a w s = hostWriteIf (row.writable && s.writeOk q a w) q a (writeEffect q row a w) (touchFw q a s) := by
  unfold writeReg
  rw [hrow, hs]
  rfl

theorem readReg_of_row {row : RegRow} (hs : s.answers = true) (hrow : regRow a = some row) :
    readReg q a s = if s.targetStatus a = 0 then readOk q a s else complete q (s.targetStatus a) a 0 s := by
  unfold readReg
  rw [hrow, hs]
  generalize s.targetStatus a = st
  cases st <;> rfl

/-- A write that no rule discards has its effect and completes with OK (R12, R13). -/
theorem writeReg_takes {row : RegRow} {w : Word} (hrow : regRow a = some row) (hw : row.writable = true) (hok : s.writeOk q a w = true)
    (ht : s.takes a) : writeReg q a w s = completeOk q (a + 1) (writeEffect q row a w (touchFw q a s)) := by
  rw [writeReg_of_row ht.1 hrow]
  exact hostWriteIf_takes (touchFw_takes.2 ht) (by rw [hw, hok]; rfl)

/-- A write without a writable bit, or that a rule discards, completes with ACCESS (R13). -/
theorem writeReg_discarded {row : RegRow} {w : Word} (hrow : regRow a = some row) (ht : s.takes a)
    (hno : (row.writable && s.writeOk q a w) = false) : writeReg q a w s = complete q 1 (a + 1) 0 (touchFw q a s) := by
  rw [writeReg_of_row ht.1 hrow]
  unfold hostWriteIf
  rw [hno, touchFw_answers, touchFw_targetStatus, ht.1, ht.2]
  rfl

theorem readReg_takes (hrow : regRow a ≠ none) (ht : s.takes a) : readReg q a s = readOk q a s := by
  obtain ⟨row, hrow⟩ := Option.ne_none_iff_exists'.1 hrow
  rw [readReg_of_row ht.1 hrow, if_pos ht.2]

/-! ### Where it does not -/

theorem writeReg_no_target {w : Word} (hs : s.answers = true) (hrow : regRow a = none) : writeReg q a w s = complete q 2 (a + 1) 0 s := by
  unfold writeReg
  rw [hrow, hs]
  rfl

theorem readReg_no_target (hs : s.answers = true) (hrow : regRow a = none) : readReg q a s = complete q 2 a 0 s := by
  unfold readReg
  rw [hrow, hs]
  rfl

/-- FENCED and OFF come before ACCESS, so the write itself is not looked at (R548, R549). -/
theorem hostWriteIf_blocked {ok : Bool} {f : State → State} (hs : s.answers = true) (ht : s.targetStatus a ≠ 0) :
    hostWriteIf ok q a f s = complete q (s.targetStatus a) (a + 1) 0 s := by
  unfold hostWriteIf hostWrite
  rw [hs]
  generalize s.targetStatus a = st at ht ⊢
  cases st with
  | zero => contradiction
  | succ n => cases ok <;> rfl

theorem writeReg_blocked {w : Word} (hs : s.answers = true) (hrow : regRow a ≠ none) (ht : s.targetStatus a ≠ 0) :
    writeReg q a w s = complete q (s.targetStatus a) (a + 1) 0 (touchFw q a s) := by
  obtain ⟨row, hrow⟩ := Option.ne_none_iff_exists'.1 hrow
  rw [writeReg_of_row hs hrow, hostWriteIf_blocked (by rwa [touchFw_answers]) (by rwa [touchFw_targetStatus]), touchFw_targetStatus]

theorem readReg_blocked (hs : s.answers = true) (hrow : regRow a ≠ none) (ht : s.targetStatus a ≠ 0) :
    readReg q a s = complete q (s.targetStatus a) a 0 s := by
  obtain ⟨row, hrow⟩ := Option.ne_none_iff_exists'.1 hrow
  rw [readReg_of_row hs hrow, if_neg ht]

theorem targetStatus_blocked (h : s.targetStatus a ≠ 0) :
    s.targetStatus a = if s.fenced (a / 0x1000000 % 16) || (a / 0x1000000 % 16 = 2 && s.mgmt.sfSilent) then 6 else 5 := by
  unfold State.targetStatus at h ⊢
  by_cases hcf : answeredByCf a = true
  · rw [if_pos hcf] at h
    contradiction
  · rw [if_neg hcf] at h ⊢
    split
    · rfl
    · rw [if_neg ‹_›] at h
      exact if_neg fun hgood => h (if_pos hgood)

end Sys2Proof.Machine
end

/-!
PROOFS of the scope statements, part 3: writes by access code (R12, R491). No register holds a bit that is both RW and W1C, and a write
that carries no command and stages nothing is the plain write.
-/
section
namespace Sys2Proof.Machine

variable {s : State} {q a : Nat} {row : RegRow} {w : Word}

/-! ### The rows of the register map -/

theorem mem_of_rowAt {i : Nat} {l : List RegRow} (h : rowAt i l = some row) : row ∈ l := by
  induction l with
  | nil => cases h
  | cons r rs ih =>
    unfold rowAt at h
    split at h
    · cases h
      exact List.mem_cons_self
    · exact List.mem_cons_of_mem _ (ih h)

theorem rowAt_of_regRow (h : regRow a = some row) :
    rowAt (a / 4 % 64) (classRows (a / 0x1000000) (a / 0x10000 % 256) (a / 0x100 % 256)) = some row := by
  unfold regRow at h
  split at h
  · exact h
  · cases h

/-- No row of a table lists a bit under both RW and W1C. -/
def OneCode (l : List RegRow) : Prop := ∀ r ∈ l, r.rw &&& r.w1c = 0

theorem oneCode_ite {c : Prop} [Decidable c] {l m : List RegRow} (hl : OneCode l) (hm : OneCode m) : OneCode (if c then l else m) :=
  iteInduction (fun _ => hl) (fun _ => hm)

/-- The tables are finite lists, so each is looked through. -/
theorem classRows_oneCode {region block cell : Nat} : OneCode (classRows region block cell) := by
  unfold classRows
  repeat' apply oneCode_ite
  all_goals
    unfold OneCode
    decide

theorem regRow_rw_w1c (h : regRow a = some row) : row.rw &&& row.w1c = 0 :=
  classRows_oneCode row (mem_of_rowAt (rowAt_of_regRow h))

/-! ### The plain write -/

/-- The word that a register which held `old` holds once its RW bits have taken the word written. -/
def RegRow.merged (row : RegRow) (old w : Word) : Word := (old &&& (w32 row.rw ^^^ 0xFFFFFFFF)) ||| (w &&& w32 row.rw)

/-- The word that a plain write leaves in a register that held `old`. -/
def RegRow.written (row : RegRow) (old w : Word) : Word := row.merged old w &&& ((w &&& w32 row.w1c) ^^^ 0xFFFFFFFF)

theorem plainWrite_eq : plainWrite row a w s = setReg a (row.written (s.reg a) w) s := rfl

theorem getLsbD_ones {n : Nat} (h : n < 32) : (0xFFFFFFFF : Word).getLsbD n = true := by
  rw [show (0xFFFFFFFF : Word) = BitVec.allOnes 32 from rfl, BitVec.getLsbD_allOnes]
  exact decide_eq_true h

theorem getLsbD_w32 {m n : Nat} (h : n < 32) : (w32 m).getLsbD n = m.testBit n := by
  unfold w32
  rw [BitVec.getLsbD_ofNat, decide_eq_true h, Bool.true_and]

/-- RW bits take the word written, and the others stay. -/
theorem getLsbD_merged {n : Nat} {old : Word} (h : n < 32) :
    (row.merged old w).getLsbD n = if row.rw.testBit n then w.getLsbD n else old.getLsbD n := by
  unfold RegRow.merged
  rw [BitVec.getLsbD_or, BitVec.getLsbD_and, BitVec.getLsbD_xor, BitVec.getLsbD_and, getLsbD_ones h, getLsbD_w32 h]
  cases row.rw.testBit n <;> simp

/-- Bit by bit: an RW bit takes the word, a W1C flag stands only where it stood and was written 0, any other bit stays (R12, R491). -/
theorem getLsbD_written {n : Nat} {old : Word} (hd : row.rw &&& row.w1c = 0) (h : n < 32) :
    (row.written old w).getLsbD n =
      if row.rw.testBit n then w.getLsbD n else if row.w1c.testBit n then old.getLsbD n && !w.getLsbD n else old.getLsbD n := by
  have hbit : (row.rw.testBit n && row.w1c.testBit n) = false := by rw [← Nat.testBit_and, hd, Nat.zero_testBit]
  unfold RegRow.written
  rw [BitVec.getLsbD_and, getLsbD_merged h, BitVec.getLsbD_xor, BitVec.getLsbD_and, getLsbD_ones h, getLsbD_w32 h]
  cases hrw : row.rw.testBit n <;> cases hw1c : row.w1c.testBit n <;> simp_all

/-! ### Writes without an effect of their own -/

theorem repointEvent_setReg {v : Word} (hc : a ≠ LOUPE_CFG) (he : a ≠ LOUPE_EVT_ADDR) : repointEvent s (setReg a v s) = setReg a v s := by
  unfold repointEvent State.fget
  rw [setReg_reg_other he.symm, setReg_reg_other hc.symm, if_pos ⟨rfl, rfl⟩]

theorem writeRec_plain (h : a ∉ [REC_SEL, REC_CURSOR, LOUPE_SEL, REC_CMD, LOUPE_CMD, LOUPE_CFG, LOUPE_EVT_ADDR]) :
    writeRec q row a w s = plainWrite row a w s := by
  simp only [List.mem_cons, List.not_mem_nil, or_false, not_or] at h
  obtain ⟨hsel, hcursor, hlsel, hcmd, hlcmd, hcfg, hevt⟩ := h
  unfold writeRec
  rw [if_neg hsel, if_neg hcursor, if_neg hlsel, if_neg hcmd, if_neg hlcmd, plainWrite_eq, repointEvent_setReg hcfg hevt]

theorem writeFw_plain (h : a ∉ [FW_CMD, FW_DATA, FW_ADDR]) : writeFw q row a w s = plainWrite row a w (touchFw q a s) := by
  simp only [List.mem_cons, List.not_mem_nil, or_false, not_or] at h
  obtain ⟨hcmd, hdata, haddr⟩ := h
  unfold writeFw
  rw [if_neg hcmd, if_neg hdata, if_neg haddr]

theorem writeCf_plain (h : a ∉ [REC_SEL, REC_CURSOR, LOUPE_SEL, REC_CMD, LOUPE_CMD, LOUPE_CFG, LOUPE_EVT_ADDR, FW_CMD, FW_DATA, FW_ADDR,
      MODE_CMD, CUT_CTRL, PAIR_CMD, CAL_CMD, REGION_FENCE]) :
    writeCf q row a w (touchFw q a s) = plainWrite row a w (touchFw q a s) := by
  unfold writeCf
  dsimp only
  split
  · exact writeRec_plain (by simp_all)
  split
  · rw [writeFw_plain (by simp_all), touchFw_touchFw]
  · simp only [List.mem_cons, List.not_mem_nil, or_false, not_or] at h
    simp only [h, if_false]

theorem SF_PWD_iff (h4 : a % 4 = 0) : SF_PWD 0 ≤ a ∧ a < SF_PWD 4 ↔ a ∈ [SF_PWD 0, SF_PWD 1, SF_PWD 2, SF_PWD 3] := by
  simp only [SF_PWD, baseSf, List.mem_cons, List.not_mem_nil, or_false]
  omega

theorem writeSf_plain (h4 : a % 4 = 0) (h : a ∉ [SF_CMD, SF_PWD 0, SF_PWD 1, SF_PWD 2, SF_PWD 3, SF_PARAM_DATA]) :
    writeSf q row a w s = plainWrite row a w s := by
  unfold writeSf
  rw [if_neg (by simp_all), if_neg (by rw [SF_PWD_iff h4]; simp_all), if_neg (by simp_all)]

theorem writeAdc_plain {k : Nat} (h : a ∉ [ADC_CMD k, ADC_BANK k]) (hrw : row.rw = 0) (hk : k < 52) :
    writeAdc k row a w s = plainWrite row a w s := by
  unfold writeAdc
  rw [if_neg (by simp_all), if_neg (by simp_all), if_neg (by simp_all), if_neg (by omega)]

theorem writeSc_plain (haxis : a / 0x100 % 256 < 8 → a / 4 % 64 ≠ 1 ∧ a / 4 % 64 ≠ 2)
    (hloop : 0x40 ≤ a / 0x100 % 256 → a / 0x100 % 256 < 0x80 → a / 4 % 64 ≠ 0 ∧ a / 4 % 64 ≠ 7) :
    writeSc row a w s = plainWrite row a w s := by
  unfold writeSc
  dsimp only
  split
  · rename_i hc
    rw [if_neg (haxis hc).1, if_neg (haxis hc).2]
  split
  · rename_i hc
    obtain ⟨hset, hcmd⟩ := hloop hc.1 hc.2
    rw [if_neg hset, if_neg hcmd]
  · rfl

theorem writeTx_plain (hhop : a ≠ TX_HOP_FRAME)
    (hcmd : ¬(a / 0x100 % 256 < 16 ∧ a = TX_PORT_CMD (a / 0x10000 % 256 * 16 + a / 0x100 % 256))) :
    writeTx row a w s = plainWrite row a w s := by
  unfold writeTx
  rw [if_neg hhop, if_neg hcmd]

theorem writeLk_plain
    (hcmd : ¬(a / 0x100 % 256 < 8 ∧ a = LK_LANE_CMD (a / 0x10000 % 256 * 8 + a / 0x100 % 256)))
    (htest : ¬(a / 0x100 % 256 < 8 ∧ a = LK_LANE_TEST (a / 0x10000 % 256 * 8 + a / 0x100 % 256))) :
    writeLk row a w s = plainWrite row a w s := by
  unfold writeLk
  rw [if_neg hcmd, if_neg htest]

/-- The number of the RX cell whose registers lie at an address (R6, R543). -/
def cellAt (a : Nat) : Nat := (a / 0x1000000 - 8) * 128 + a / 0x10000 % 256 * 16 + a / 0x100 % 256

theorem writeRx_gate (hb : a / 0x10000 % 256 = 0xFF) (hcmd : a ≠ RX_GATE_CMD (a / 0x1000000 - 8)) :
    writeRx row a w s = plainWrite row a w s := by
  unfold writeRx
  rw [if_pos hb, if_neg hcmd]

/-- A write at a block that carries no command is a run-time write, or plain where the register has no RW bit. -/
theorem writeRx_block (hb : a / 0x10000 % 256 ≠ 0xFF) (hcell : ¬(a / 0x100 % 256 < 16 ∧ a = RX_CELL_CMD (cellAt a)))
    (hgd : ¬(a / 0x100 % 256 < 16 ∧ a = GD_CELL_CMD (cellAt a))) :
    writeRx row a w s = if row.rw ≠ 0 then rtWrite a w s else plainWrite row a w s := by
  unfold writeRx
  rw [if_neg hb]
  exact (if_neg hcell).trans (if_neg hgd)

/-! ### Which region's rules a write follows -/

theorem adcOf_cf (h : a / 0x1000000 % 16 = 0) : adcOf a = none := by
  unfold adcOf
  dsimp only
  rw [if_neg (by omega), if_neg (by omega), if_neg (by omega)]

theorem adcOf_sf (h : a / 0x1000000 % 16 = 2) : adcOf a = none := by
  unfold adcOf
  dsimp only
  rw [if_neg (by omega), if_neg (by omega), if_neg (by omega)]

theorem region_of_adcOf (h : adcOf a = some k) : a / 0x1000000 ≠ 0 := by
  intro hr
  rw [adcOf_cf (by omega)] at h
  cases h

theorem writeEffect_adc (h : adcOf a = some k) : writeEffect q row a w s = writeAdc k row a w s := by
  unfold writeEffect
  rw [h]

theorem writeEffect_cf (hr : a / 0x1000000 = 0) : writeEffect q row a w s = writeCf q row a w s := by
  unfold writeEffect
  rw [adcOf_cf (by omega), hr]
  rfl

theorem writeEffect_hk (hk : adcOf a = none) (hr : a / 0x1000000 = 1) : writeEffect q row a w s = hkWrite a w s := by
  unfold writeEffect
  rw [hk, hr]
  rfl

theorem writeEffect_sf (hr : a / 0x1000000 = 2) : writeEffect q row a w s = writeSf q row a w s := by
  unfold writeEffect
  rw [adcOf_sf (by omega), hr]
  rfl

theorem writeEffect_sc (hk : adcOf a = none) (hr : a / 0x1000000 = 3) :
    writeEffect q row a w s = writeSc row a w s := by
  unfold writeEffect
  rw [hk, hr]
  rfl

theorem writeEffect_tx (hk : adcOf a = none) (hr : a / 0x1000000 = 4) :
    writeEffect q row a w s = writeTx row a w s := by
  unfold writeEffect
  rw [hk, hr]
  rfl

theorem writeEffect_lk (hk : adcOf a = none) (hr : a / 0x1000000 = 5) :
    writeEffect q row a w s = writeLk row a w s := by
  unfold writeEffect
  rw [hk, hr]
  rfl

theorem writeEffect_aq (hk : adcOf a = none) (hr : a / 0x1000000 = 6) :
    writeEffect q row a w s = if a = AQ_CTRL then aqCommand (w.toNat % 8) s else plainWrite row a w s := by
  unfold writeEffect
  rw [hk, hr]
  rfl

theorem writeEffect_rx (hk : adcOf a = none) (hr : 7 ≤ a / 0x1000000) : writeEffect q row a w s = writeRx row a w s := by
  unfold writeEffect
  rw [hk]
  dsimp only
  split
  case h_8 => rfl
  all_goals omega

/-- Where `ownEffect` finds nothing, what a write does is the plain write: so in every region. -/
theorem writeEffect_plain (h4 : a % 4 = 0) (h : ownEffect a row = false) :
    writeEffect q row a w (touchFw q a s) = plainWrite row a w (touchFw q a s) := by
  unfold ownEffect at h
  simp only [List.contains_eq_mem] at h
  split at h
  case h_1 k hk =>
    simp only [Bool.or_eq_false_iff, decide_eq_false_iff_not, ne_eq, not_not, not_le] at h
    obtain ⟨⟨hcommand, hrw⟩, hlt⟩ := h
    rw [writeEffect_adc hk]
    exact writeAdc_plain hcommand hrw hlt
  case h_2 hk =>
    split at h
    case h_1 hr =>
      rw [writeEffect_cf hr]
      exact writeCf_plain (of_decide_eq_false h)
    case h_2 => contradiction
    case h_3 hr =>
      rw [writeEffect_sf hr]
      exact writeSf_plain h4 (of_decide_eq_false h)
    case h_4 hr =>
      rw [writeEffect_sc hk hr]
      exact writeSc_plain (by grind) (by grind)
    case h_5 hr =>
      rw [writeEffect_tx hk hr]
      exact writeTx_plain (by grind) (by grind)
    case h_6 hr =>
      rw [writeEffect_lk hk hr]
      exact writeLk_plain (by grind) (by grind)
    case h_7 hr =>
      rw [writeEffect_aq hk hr]
      exact if_neg (of_decide_eq_false h)
    case h_8 hr0 hr1 hr2 hr3 hr4 hr5 hr6 =>
      simp only [imp_false] at hr0 hr1 hr2 hr3 hr4 hr5 hr6
      rw [writeEffect_rx hk (by omega)]
      split at h
      · exact writeRx_gate ‹_› (of_decide_eq_false h)
      · simp only [Bool.or_eq_false_iff, decide_eq_false_iff_not, ne_eq, not_not] at h
        rw [writeRx_block ‹_› (by grind [cellAt]) (by grind [cellAt]), if_neg (not_not.2 h.2)]

/-- Settles O9: the write is the plain write, whose word is read bit by bit; the transaction with op WRITE is the same write. -/
theorem registerWriteFollowsTheAccessCodes : Obligations.RegisterWriteFollowsTheAccessCodes := by
  intro q addr data ecc s row a hrow hw hown hok ht
  obtain ⟨h4, hlt⟩ := regRow_aligned (a := a) (by simp [hrow])
  have hwrite : writeReg q a data s = completeOk q (a + 1) (setReg a (row.written (s.reg a) data) (touchFw q a s)) := by
    rw [writeReg_takes hrow hw hok ht, writeEffect_plain h4 hown, plainWrite_eq, touchFw_reg]
  refine ⟨row.written (s.reg a) data, congrArg _ hwrite, ?_, fun n hn => getLsbD_written (regRow_rw_w1c hrow) hn⟩
  exact congrArg _ ((transact_write h4 hlt).trans hwrite)

end Sys2Proof.Machine
end

/-!
PROOFS of the scope statements, part 4: writes that are their requester's own, and writes that wait for a round or a boundary (R14, R467).
-/
section
namespace Sys2Proof.Machine

variable {s : State} {q a k : Nat} {row : RegRow} {w : Word}

/-! ### Registers of a requester's own, and of the firmware -/

theorem writeEffect_recorder (h : a / 0x100 = 0xFF10) : writeEffect q row a w s = writeRec q row a w s := by
  unfold writeEffect writeCf
  rw [adcOf_cf (by omega), show a / 0x1000000 = 0 by omega]
  exact if_pos (by omega)

theorem writeEffect_firmware (h : a / 0x100 = 0xFF20) : writeEffect q row a w s = writeFw q row a w s := by
  unfold writeEffect writeCf
  rw [adcOf_cf (by omega), show a / 0x1000000 = 0 by omega]
  exact (if_neg (by omega)).trans (if_pos (by omega))

theorem writeFw_addr : writeFw q row FW_ADDR w s = setReg FW_ADDR (w32 (min 0x400000 (w &&& w32 row.rw).toNat)) (touchFw q FW_ADDR s) := rfl

/-! ### Converter registers (R14, R256, R261, R264) -/

/-- A run-time write of a block that shoots waits for a pixel boundary. -/
theorem adcRunWrite_scheduled (hk : k < 48) (hs : s.scheduled k = true) :
    adcRunWrite k a w s = { s with rx := { s.rx with rtWrites := s.rx.rtWrites ++ [(a, w)] } } := if_pos ⟨hk, hs⟩

theorem adcRunWrite_hk (hk : 52 ≤ k) : adcRunWrite k a w s = hkWrite a w s := by
  unfold adcRunWrite
  rw [if_neg (by omega), if_pos hk]
  rfl

theorem adcRunWrite_due (h : k < 48 ∧ s.scheduled k = false ∨ 48 ≤ k ∧ k < 52) : adcRunWrite k a w s = adcDue k a s.now w s := by
  unfold adcRunWrite
  rw [if_neg (by grind), if_neg (by omega)]

theorem writeAdc_run (hcmd : a ≠ ADC_CMD k) (hbank : a ≠ ADC_BANK k) (hrw : row.rw ≠ 0) :
    writeAdc k row a w s = adcRunWrite k a (w &&& BitVec.ofNat 32 row.rw) s := by
  unfold writeAdc
  rw [if_neg hcmd, if_neg hbank, if_pos hrw]
  rfl

theorem writeAdc_hk (hcmd : a ≠ ADC_CMD k) (hbank : a ≠ ADC_BANK k) (hrw : row.rw = 0) (hk : 52 ≤ k) :
    writeAdc k row a w s = hkWrite a w s := by
  unfold writeAdc
  rw [if_neg hcmd, if_neg hbank, if_neg (not_not.2 hrw), if_pos hk]

/-! ### Run-time writes of a receive block (R14, R88) -/

theorem rtWrite_scheduled (h : s.scheduled (rxOf a) = true) :
    rtWrite a w s = { s with rx := { s.rx with rtWrites := s.rx.rtWrites ++ [(a, w)] } } := if_pos h

/-- A boundary of a block for which no write waits does nothing. -/
theorem rtBoundary_idle {pl : Option Plane} {stamp : Nat} (h : ∀ e ∈ s.rx.rtWrites, rxOf e.1 ≠ k) : rtBoundary pl k stamp s = s := by
  have hdue : s.rx.rtWrites.filter (fun e => rxOf e.1 = k) = [] := List.filter_eq_nil_iff.2 fun e he => by simpa using h e he
  have hrest : s.rx.rtWrites.filter (fun e => rxOf e.1 ≠ k) = s.rx.rtWrites := List.filter_eq_self.2 fun e he => by simpa using h e he
  unfold rtBoundary
  dsimp only
  rw [hdue, hrest]
  rfl

/-- The register takes the word, stamped with the instant, and a threshold enters its comparators. -/
theorem rtApply_eq {stamp : Nat} (hrow : regRow a = some row) :
    rtApply a w stamp s =
      (let t := { setReg a (row.merged (s.reg a) w) s with rx := { s.rx with stamps := put (fun _ => 0) s.rx.stamps a stamp } }
       let c := rxOf a * 16 + a / 0x100 % 256
       if a / 0x100 % 256 < 16 ∧ a = RX_CELL_THR c then applyThresholdNow c t else t) := by
  unfold rtApply
  rw [hrow]
  rfl

theorem rtWrite_idle (hs : s.scheduled (rxOf a) = false) (hw : ∀ e ∈ s.rx.rtWrites, rxOf e.1 ≠ rxOf a) :
    rtWrite a w s = rtApply a w s.now s := by
  unfold rtWrite
  rw [hs, rtBoundary_idle hw]
  rfl

theorem classRows_rxCell {region block cell : Nat} (hr : 8 ≤ region ∧ region < 14) (hb : block < 8) (hc : cell < 16) :
    classRows region block cell = rowsRxCell := by
  unfold classRows
  rw [if_neg (by omega), if_neg (by omega), if_neg (by omega), if_neg (by omega), if_neg (by omega), if_neg (by omega), if_neg (by omega),
    if_pos hr, if_neg (by omega), if_pos hb, if_neg (by omega), if_pos hc]

/-- The command registers of a cell, at indices 5 and 15, have no RW bit. -/
theorem rowsRxCell_command {i : Nat} (hi : i = 5 ∨ i = 15) (h : rowAt i rowsRxCell = some row) : row.rw = 0 := by
  obtain rfl | rfl := hi
  · cases h
    rfl
  · cases h
    rfl

/-- A register of a receive block with RW bits is no command register, so a write of it is a run-time write. -/
theorem writeRx_run (hr : 8 ≤ a / 0x1000000 ∧ a / 0x1000000 < 14) (hb : a / 0x10000 % 256 < 8) (hrow : regRow a = some row)
    (hrw : row.rw ≠ 0) : writeRx row a w s = rtWrite a w s := by
  have hcmd : a / 0x100 % 256 < 16 → ¬(a / 4 % 64 = 5 ∨ a / 4 % 64 = 15) := fun hc hi =>
    hrw (rowsRxCell_command hi (classRows_rxCell hr hb hc ▸ rowAt_of_regRow hrow))
  rw [writeRx_block (by omega), if_pos hrw]
  · rintro ⟨hc, ha⟩
    refine hcmd hc (.inl ?_)
    rw [ha]
    simp only [RX_CELL_CMD, baseRxCell]
    omega
  · rintro ⟨hc, ha⟩
    refine hcmd hc (.inr ?_)
    rw [ha]
    simp only [GD_CELL_CMD, baseRxCell]
    omega

/-! ### The words of the password (R428) -/

theorem SF_PWD_index (i : Fin 4) : (SF_PWD i - SF_PWD 0) / 4 = i := by
  simp only [SF_PWD]
  omega

theorem SF_PWD_region (i : Fin 4) : SF_PWD i / 0x1000000 = 2 := by
  simp only [SF_PWD, baseSf]
  omega

theorem SF_PWD_range (i : Fin 4) : SF_PWD 0 ≤ SF_PWD i ∧ SF_PWD i < SF_PWD 4 := by
  simp only [SF_PWD]
  omega

theorem writeSf_pwd (i : Fin 4) : writeSf q row (SF_PWD i) w s = pwdWrite i w s := by
  unfold writeSf
  rw [if_neg (by simp only [SF_PWD, SF_CMD]; omega), if_pos (SF_PWD_range i), SF_PWD_index]

theorem pwdWrite_words {i j : Nat} :
    look (fun _ => 0) (pwdWrite i w s).sf.pwdWords j = if j = i then w else look (fun _ => 0) s.sf.pwdWords j := look_put _ _ _ _

/-- Settles O12: each clause follows the rules of its register's region to the operation that stages the write. -/
theorem writesThatStageOrBelongToTheirRequester : Obligations.WritesThatStageOrBelongToTheirRequester := by
  intro q addr data s row a r hrow hw hok ht
  have hwrite : exec (.registerWrite q addr data) s = .next (completeOk q (a + 1) (writeEffect q row a data (touchFw q a s))) :=
    congrArg _ (writeReg_takes hrow hw hok ht)
  rw [hwrite]
  clear_value a
  refine ⟨?_, ?_, ?_, ?_, ?_, ?_, ?_, ?_, ?_⟩
  · rintro rfl
    rw [writeEffect_recorder (by decide), touchFw_of_cell (by decide)]
    rfl
  · rintro rfl
    rw [writeEffect_recorder (by decide), touchFw_of_cell (by decide)]
    rfl
  · rintro rfl
    rw [writeEffect_recorder (by decide), touchFw_of_cell (by decide)]
    rfl
  · rintro rfl
    rw [writeEffect_firmware (by decide), writeFw_addr, touchFw_touchFw]
    rfl
  · intro hr hk
    rw [writeEffect_hk hk hr, touchFw_of_region (by omega)]
  · intro h8 h14 hk hb hrw
    rw [writeEffect_rx hk (by omega), touchFw_of_region (by omega), writeRx_run ⟨h8, h14⟩ hb hrow hrw]
    refine ⟨fun hs => by rw [rtWrite_scheduled hs], fun hs hidle => ⟨row.merged (s.reg a) data, ?_, fun n hn => getLsbD_merged hn⟩⟩
    rw [rtWrite_idle hs hidle, rtApply_eq hrow]
  · intro k hk hcmd hbank hrw
    rw [writeEffect_adc hk, touchFw_of_region (region_of_adcOf hk), writeAdc_run hcmd hbank hrw]
    refine ⟨fun hlt hs => by rw [adcRunWrite_scheduled hlt hs], fun h52 => by rw [adcRunWrite_hk h52], fun hdue => ?_⟩
    rw [adcRunWrite_due hdue]
    rfl
  · intro k hk h52 hcmd hbank hrw
    rw [writeEffect_adc hk, touchFw_of_region (region_of_adcOf hk), writeAdc_hk hcmd hbank hrw h52]
  · rintro i rfl
    rw [writeEffect_sf (SF_PWD_region i), touchFw_of_region (by rw [SF_PWD_region]; decide), writeSf_pwd]
    refine ⟨_, rfl, ?_, ?_, fun j hj => ?_, rfl, fun p hp => ?_⟩
    · rw [completeOk_eq, setReq_req_same]
    · rw [completeOk_eq, setReq_sf, pwdWrite_words, if_pos rfl]
    · rw [completeOk_eq, setReq_sf, pwdWrite_words, if_neg (Fin.val_ne_of_ne hj)]
    · rw [completeOk_eq]
      exact setReq_kept (ne_of_untouched hp) (pwdWrite_kept (ne_of_untouched hp) (.refl p s))

end Sys2Proof.Machine
end

/-!
PROOFS of the scope statements, part 5: transactions that fail (R548, R550). The five registers that a failing status changes, and that
nothing else changes with them.
-/
section
namespace Sys2Proof.Machine

variable {s t : State} {q a st addr : Nat} {w : Word}

/-! ### Words and counters -/

theorem getLsbD_setBit {n : Nat} (h : n < 32) : (setBit n w).getLsbD n = true := by
  unfold setBit
  rw [BitVec.getLsbD_or, BitVec.getLsbD_ofNat, Nat.testBit_two_pow_self, decide_eq_true h]
  simp

theorem satAdd_le {cap m n : Nat} : satAdd cap m n ≤ cap := by
  unfold satAdd
  split <;> omega

theorem fsets_reg {l : List (Fld × Nat)} {b : Nat} :
    (fsets a l s).reg b = if b = a then l.foldl (fun w p => setF p.1 p.2 w) (s.reg a) else s.reg b := setReg_reg

/-! ### What a failing status leaves in the registers (R550) -/

/-- The error counter of a requester is none of the other registers that a failing status may change. -/
theorem MGMT_ERR_ne : MGMT_ERR q ≠ MGMT_FLAGS ∧ MGMT_ERR q ≠ MGMT_ERR_INFO ∧ MGMT_ERR q ≠ MGMT_ERR_ADDR ∧ MGMT_ERR q ≠ REC_LOST ∧
    MGMT_ERR q ≠ REC_STATUS := by
  simp only [MGMT_ERR, MGMT_FLAGS, MGMT_ERR_INFO, MGMT_ERR_ADDR, baseMgmt, REC_LOST, REC_STATUS, baseRec]
  omega

theorem mgmtError_addr : (mgmtError q st addr s).reg MGMT_ERR_ADDR = BitVec.ofNat 32 addr := setReg_reg_same

theorem mgmtError_info_status (h : st < 256) : (mgmtError q st addr s).fget MGMT_ERR_INFO MGMT_ERR_INFO.status = st := by
  unfold State.fget mgmtError
  rw [setReg_reg_other (by decide), fsets_reg, if_pos rfl]
  show getF _ (setF MGMT_ERR_INFO.requester q (setF MGMT_ERR_INFO.status st _)) = st
  rw [getF_setF_other (by decide), getF_setF_same (by decide)]
  exact Nat.mod_eq_of_lt h

theorem mgmtError_info_requester (h : q < 64) : (mgmtError q st addr s).fget MGMT_ERR_INFO MGMT_ERR_INFO.requester = q := by
  unfold State.fget mgmtError
  rw [setReg_reg_other (by decide), fsets_reg, if_pos rfl]
  exact (getF_setF_same (by decide)).trans (Nat.mod_eq_of_lt h)

theorem mgmtError_flag (h : st ≤ 32) (h1 : 1 ≤ st) : (mgmtError q st addr s).rbit MGMT_FLAGS (st - 1) = true := by
  unfold State.rbit mgmtError
  rw [setReg_reg_other (by decide), fsets_reg, if_neg (by decide), setFlag_reg_same (by decide) (by decide)]
  exact getLsbD_setBit (by omega)

theorem mgmtError_count : (mgmtError q st addr s).fget (MGMT_ERR q) MGMT_ERR.count =
    satAdd (2 ^ MGMT_ERR.count.width - 1) (s.fget (MGMT_ERR q) MGMT_ERR.count) 1 := by
  obtain ⟨hflags, hinfo, haddr, hlost, hstatus⟩ := MGMT_ERR_ne (q := q)
  unfold State.fget mgmtError
  rw [setReg_reg_other haddr, fsets_reg, if_neg hinfo, setFlag_reg hflags hlost hstatus, bumpOvf_reg_same hflags hlost hstatus,
    getF_setF_same (by decide)]
  exact Nat.mod_eq_of_lt (Nat.lt_of_le_of_lt satAdd_le (by decide))

theorem mgmtError_onlyRegs : OnlyRegs [MGMT_ERR q, MGMT_FLAGS, MGMT_ERR_ADDR, MGMT_ERR_INFO, REC_LOST, REC_STATUS] s (mgmtError q st addr s) := by
  intro b hb
  simp only [List.mem_cons, List.not_mem_nil, or_false, not_or] at hb
  obtain ⟨herr, hflags, haddr, hinfo, hlost, hstatus⟩ := hb
  unfold mgmtError
  rw [setReg_reg_other haddr, fsets_reg, if_neg hinfo, setFlag_reg hflags hlost hstatus, bumpOvf_reg herr hflags hlost hstatus]

/-! ### Reported transactions -/

/-- A state with the registers of a failing status, whose requester reads the status and 0, reports the transaction. -/
theorem reported_of_mgmtError {q : Requester} (h1 : 1 ≤ st) (h8 : st ≤ 8) (hregs : t.regs = (mgmtError q st addr s).regs)
    (hreq : (t.req q).status = BitVec.ofNat 8 st ∧ (t.req q).data = 0) (honly : OnlyParts [.regs, .mgmt] s t) : Reported q st addr s t := by
  have hreg (b : Nat) : t.reg b = (mgmtError q st addr s).reg b := congrArg (look regReset · b) hregs
  refine ⟨hreq.1, hreq.2, ?_, ?_, ?_, ?_, ?_, honly, fun b hb => ?_⟩
  · exact (congrArg (getF _) (hreg _)).trans mgmtError_count
  · exact (congrArg (BitVec.getLsbD · _) (hreg _)).trans (mgmtError_flag (by omega) h1)
  · exact (hreg _).trans mgmtError_addr
  · exact (congrArg (getF _) (hreg _)).trans (mgmtError_info_status (by omega))
  · exact (congrArg (getF _) (hreg _)).trans (mgmtError_info_requester (by omega))
  · exact (hreg b).trans (mgmtError_onlyRegs b hb)

theorem complete_regs (h : st ≠ 0) : (complete q st addr w s).regs = (mgmtError q st addr s).regs := by
  unfold complete
  rw [if_neg h, setReq_regs]
  split <;> rfl

theorem complete_req :
    ((complete q st addr w s).req q).status = BitVec.ofNat 8 st ∧ ((complete q st addr w s).req q).data = w := by
  unfold complete
  rw [setReq_req_same]
  exact ⟨rfl, rfl⟩

theorem complete_reported {q : Requester} (h1 : 1 ≤ st) (h8 : st ≤ 8) : Reported q st addr s (complete q st addr 0 s) :=
  reported_of_mgmtError h1 h8 (complete_regs (by omega)) complete_req
    fun p hp => complete_kept (ne_of_untouched hp) (ne_of_untouched hp) (.refl p s)

/-- A transaction that is not executed is no access, and is reported all the same (R493, R548). -/
theorem notExecuted_reported {q : Requester} (hs : s.answers = true) (h1 : 1 ≤ st) (h8 : st ≤ 8) :
    Reported q st addr s (notExecuted q st addr s) := by
  refine reported_of_mgmtError h1 h8 ?_ ?_ fun p hp => notExecuted_kept (ne_of_untouched hp) (ne_of_untouched hp) (.refl p s)
  · unfold notExecuted
    rw [if_pos hs, setReq_regs]
  · unfold notExecuted
    rw [if_pos hs, setReq_req_same]
    exact ⟨rfl, rfl⟩

theorem targetStatus_le : s.targetStatus a ≤ 8 := by
  unfold State.targetStatus
  repeat' split
  all_goals decide

/-! ### Address words that name no register (R541, R548) -/

theorem transact_silent {ecc : Nat} {addr data : Word} (hs : s.answers = false) : transact q addr data ecc s = s := by
  unfold transact
  rw [hs]
  rfl

theorem transact_bad_op {ecc : Nat} {addr data : Word} (hs : s.answers = true) (hop : addr.toNat % 4 = 3) :
    transact q addr data ecc s = notExecuted q 4 addr.toNat s := by
  unfold transact
  simp only [hs, hop]
  rfl

theorem transact_echo {ecc : Nat} {addr data : Word} (hs : s.answers = true) (hop : addr.toNat % 4 = 2) :
    transact q addr data ecc s = echo q data s := by
  unfold transact
  simp only [hs, hop]
  rfl

theorem transact_no_space {ecc : Nat} {addr data : Word} (hs : s.answers = true) (hop : addr.toNat % 4 < 2) (hspace : 4 ≤ addr.toNat / 2 ^ 28) :
    transact q addr data ecc s = complete q 2 addr.toNat 0 s := by
  unfold transact
  rw [hs, if_neg (by decide)]
  rw [if_neg (by omega), if_neg (by omega)]
  split
  case h_5 => rfl
  all_goals omega

theorem echo_answers {data : Word} (hs : s.answers = true) : echo q data s = setReq q { s.req q with status := 0, data := data } s := if_pos hs

theorem writeReg_silent (hs : s.answers = false) : writeReg q a w s = s := by
  unfold writeReg
  rw [hs]
  rfl

theorem echo_silent {data : Word} (hs : s.answers = false) : echo q data s = s := by
  unfold echo
  rw [hs]
  rfl

theorem notExecuted_silent (hs : s.answers = false) : notExecuted q st addr s = s := by
  unfold notExecuted
  rw [hs]
  rfl

/-- Settles O10: each way to fail ends in a completion, or a transaction not executed, that is reported. -/
theorem failedTransactionsAreReported : Obligations.FailedTransactionsAreReported := by
  intro q addr w data ecc s a
  have h4 : a % 4 = 0 := by omega
  have hlt : a < 0x10000000 := by omega
  have hread : exec (.mgmtTransaction q (BitVec.ofNat 32 a) data ecc) s = .next (readReg q a s) := congrArg _ (transact_read h4 hlt)
  have hwrite : exec (.registerWrite q addr data) s = .next (writeReg q a data s) := rfl
  have htrans : exec (.mgmtTransaction q w data ecc) s = .next (transact q w data ecc s) := rfl
  rw [hread, hwrite, htrans]
  refine ⟨fun hs hrow => ?_, fun hs hrow hst => ?_, fun row hrow ht hno => ?_, fun hs hspace hop => ?_, fun hs hop => ?_, fun hs => ?_, fun hs => ?_⟩
  · rw [writeReg_no_target hs hrow, readReg_no_target hs hrow]
    exact ⟨⟨_, rfl, complete_reported (by decide) (by decide)⟩, ⟨_, rfl, complete_reported (by decide) (by decide)⟩⟩
  · rw [writeReg_blocked hs hrow hst, readReg_blocked hs hrow hst]
    have h1 : 1 ≤ s.targetStatus a := Nat.one_le_iff_ne_zero.2 hst
    exact ⟨targetStatus_blocked hst, ⟨_, rfl, complete_reported h1 targetStatus_le⟩, ⟨_, rfl, complete_reported h1 targetStatus_le⟩⟩
  · rw [writeReg_discarded hrow ht hno]
    exact ⟨_, rfl, complete_reported (by decide) (by decide)⟩
  · rw [transact_no_space hs hop hspace]
    exact ⟨_, rfl, complete_reported (by decide) (by decide)⟩
  · have hbad : exec (.badOp q w) s = .next (notExecuted q 4 w.toNat s) :=
      congrArg (fun v => Host.Outcome.next (notExecuted q 4 v s)) (by omega)
    rw [transact_bad_op hs hop, hbad]
    exact ⟨⟨_, rfl, notExecuted_reported hs (by decide) (by decide)⟩, ⟨_, rfl, notExecuted_reported hs (by decide) (by decide)⟩⟩
  · exact ⟨congrArg _ (echo_answers hs), fun hop => by rw [transact_echo hs hop, echo_answers hs]⟩
  · exact ⟨congrArg _ (writeReg_silent hs), congrArg _ (transact_silent hs), congrArg _ (echo_silent hs), congrArg _ (notExecuted_silent hs)⟩

end Sys2Proof.Machine
end

/-!
PROOFS of the scope statements, part 6: reads (R493, R494). The branch of `readOk` that a register takes, what each branch leaves in the
requester's record, and what a later read of the same requester finds there.
-/
section
namespace Sys2Proof.Machine

variable {s : State} {q a lo : Nat}

/-! ### The branch of a read -/

/-- The address lies outside the words of `REC_DATA`, which a read takes from the recorder. -/
theorem not_recData (h : a < REC_DATA 0 ∨ REC_DATA 8 ≤ a) : ¬(REC_DATA 0 ≤ a ∧ a < REC_DATA 8) := by omega

theorem readOk_plain (hrec : a < REC_DATA 0 ∨ REC_DATA 8 ≤ a) (hwin : (touchFw q a s).windowAt q a = none) (hlow : splitLow a = none) :
    readOk q a s = answer q a ((touchFw q a s).word q a) (touchFw q a s) := by
  unfold readOk
  dsimp only
  rw [if_neg (not_recData hrec), hwin, hlow]

theorem readOk_split (hrec : a < REC_DATA 0 ∨ REC_DATA 8 ≤ a) (hwin : (touchFw q a s).windowAt q a = none) (hlow : splitLow a = some lo) :
    readOk q a s = splitRead q a lo (touchFw q a s) := by
  unfold readOk
  dsimp only
  rw [if_neg (not_recData hrec), hwin, hlow]

theorem readOk_window {key i : Nat} (hrec : a < REC_DATA 0 ∨ REC_DATA 8 ≤ a) (hwin : (touchFw q a s).windowAt q a = some (key, i)) :
    readOk q a s = windowRead q a key i (touchFw q a s) := by
  unfold readOk
  dsimp only
  rw [if_neg (not_recData hrec), hwin]

/-- The 64-bit values lie outside `REC_DATA` and outside the firmware and key registers that keep a session. -/
theorem splitLow_outside (h : splitLow a = some lo) : (a < REC_DATA 0 ∨ REC_DATA 8 ≤ a) ∧ ¬(FW_CMD ≤ a ∧ a < KEY_DATA 8) := by
  by_contra hn
  simp only [REC_DATA, baseRec, FW_CMD, KEY_DATA, baseFw] at hn
  unfold splitLow at h
  rw [adcOf_cf (by omega)] at h
  simp only [TBASE_LO, FRAME_EDGE_LO, CUT_SWAP_FIRST_LO, CUT_SWAP_LAST_LO, baseCf, LOUPE_TIME_LO, baseRec, DEV_SERIAL_LO, baseFw, SF_ENERGY_LO,
    baseSf, Option.isSome_none, Bool.false_eq_true, false_and, if_false] at h
  grind

/-! ### 64-bit values (R493) -/

/-- Requester `q` keeps the high word of the 64-bit value whose low word lies at `a`. -/
def keepHigh (q a : Nat) (s : State) : State :=
  setReq q { s.req q with shadowOf := a, shadow := (s.word q (a + 4)).getD s.free } s

theorem keepHigh_req :
    (keepHigh q a s).req q = { s.req q with shadowOf := a, shadow := (s.word q (a + 4)).getD s.free } := setReq_req_same

/-- Reading the low word keeps the high word of the same moment. -/
theorem splitRead_low {w : Word} (hw : s.word q a = some w) : splitRead q a a s = complete q 0 a w (keepHigh q a s) := by
  unfold splitRead
  dsimp only
  rw [if_pos rfl, hw]
  rfl

/-- Reading the high word next returns the word kept. -/
theorem splitRead_high (hlast : (s.req q).lastAccess = some lo) (hof : (s.req q).shadowOf = lo) (hne : a ≠ lo) :
    splitRead q a lo s = complete q 0 a (s.req q).shadow s := by
  unfold splitRead
  dsimp only
  rw [if_neg hne, if_pos ⟨hlast, hof⟩]

/-! ### Latched windows (R494) -/

/-- Requester `q` keeps the words of a window. -/
def keepWindow (q key : Nat) (ws : List Word) (s : State) : State :=
  setReq q { s.req q with windows := put (fun _ => []) (s.req q).windows key ws } s

theorem keepWindow_windows {key : Nat} {ws : List Word} : look (fun _ => []) ((keepWindow q key ws s).req q).windows key = ws := by
  unfold keepWindow
  rw [setReq_req_same, look_put_same]

theorem windowRead_first {key : Nat} {w : Word} {ws : List Word} (h : s.windowLive q key = w :: ws) :
    windowRead q a key 0 s = complete q 0 a w (keepWindow q key (w :: ws) s) := by
  unfold windowRead
  dsimp only
  rw [if_pos rfl, h]
  rfl

theorem windowRead_later {key i : Nat} {v : Word} {ws : List Word} (hlatched : look (fun _ => []) (s.req q).windows key = ws) (hne : ws ≠ [])
    (hv : ws[i + 1]? = some v) : windowRead q a key (i + 1) s = complete q 0 a v s := by
  unfold windowRead
  dsimp only
  rw [if_neg (Nat.succ_ne_zero i), hlatched, if_neg hne, hv]
  rfl

/-! ### Whole reads -/

/-- The requester reads status and word of a transaction that has completed with OK. -/
theorem complete_ok_answer {w : Word} : ((complete q 0 a w s).req q).status = 0 ∧ ((complete q 0 a w s).req q).data = w := by
  rw [complete_ok, setReq_req_same]
  exact ⟨rfl, rfl⟩

/-- It keeps its windows and its 64-bit shadow. -/
theorem complete_ok_kept {w : Word} : ((complete q 0 a w s).req q).windows = (s.req q).windows ∧
    ((complete q 0 a w s).req q).shadowOf = (s.req q).shadowOf ∧ ((complete q 0 a w s).req q).shadow = (s.req q).shadow := by
  rw [complete_ok, setReq_req_same]
  exact ⟨rfl, rfl, rfl⟩

theorem complete_ok_lastAccess {w : Word} (h : a % 4 = 0) : ((complete q 0 a w s).req q).lastAccess = some a := by
  rw [complete_ok_read h, setReq_req_same]

theorem complete_ok_only_mgmt {w : Word} {p : Part} {b : State} (h : p ≠ .mgmt) (k : Kept p b s) : Kept p b (complete q 0 a w s) := by
  rw [complete_ok]
  exact setReq_kept h k

theorem exec_read {q : Requester} {data : Word} {ecc : Fin 3} (hrow : regRow a ≠ none) (ht : s.takes a) :
    exec (.mgmtTransaction q (BitVec.ofNat 32 a) data ecc) s = .next (readOk q a s) := by
  obtain ⟨h4, hlt⟩ := regRow_aligned hrow
  exact congrArg _ ((transact_read h4 hlt).trans (readReg_takes hrow ht))

/-- After a completed read of the low word of a 64-bit value, the next read of its requester at the high word finds the word kept. -/
theorem read_high {q : Requester} {t : State} {data : Word} {ecc : Fin 3} (hlast : (t.req q).lastAccess = some a)
    (hof : (t.req q).shadowOf = a) (ht : t.takes (a + 4)) (hrow : regRow (a + 4) ≠ none) (hwin : t.windowAt q (a + 4) = none)
    (hlow : splitLow (a + 4) = some a) :
    ∃ u, exec (.mgmtTransaction q (BitVec.ofNat 32 (a + 4)) data ecc) t = .next u ∧ (u.req q).status = 0 ∧
      (u.req q).data = (t.req q).shadow := by
  obtain ⟨hrec, hfw⟩ := splitLow_outside hlow
  refine ⟨complete q 0 (a + 4) (t.req q).shadow t, ?_, complete_ok_answer⟩
  rw [exec_read hrow ht, readOk_split hrec (by rwa [touchFw_windowAt]) hlow, touchFw_of_outside hfw, splitRead_high hlast hof (by omega)]

/-- After word 0 of a window has been read, a read of its requester at a later word finds the word kept. -/
theorem read_later {q : Requester} {t : State} {data v : Word} {ecc : Fin 3} {key i : Nat} {ws : List Word}
    (hlatched : look (fun _ => []) (t.req q).windows key = ws) (hne : ws ≠ []) (hv : ws[i + 1]? = some v) (ht : t.takes a)
    (hrow : regRow a ≠ none) (hrec : a < REC_DATA 0 ∨ REC_DATA 8 ≤ a) (hwin : (touchFw q a t).windowAt q a = some (key, i + 1)) :
    ∃ u, exec (.mgmtTransaction q (BitVec.ofNat 32 a) data ecc) t = .next u ∧ (u.req q).status = 0 ∧ (u.req q).data = v := by
  refine ⟨complete q 0 a v (touchFw q a t), ?_, complete_ok_answer⟩
  rw [exec_read hrow ht, readOk_window hrec hwin, windowRead_later (by rwa [touchFw_req]) hne hv]

/-- Settles O11: a plain read answers the word; a latching read keeps its words in the requester's record, where the later read finds them. -/
theorem readsReturnTheWordTheirRequesterSees : Obligations.ReadsReturnTheWordTheirRequesterSees := by
  intro q addr data w ecc s a u
  refine ⟨fun hrow ht hrec hwin hlow hw => ?_, fun hrow ht hlow hwin hw => ?_, fun key ws hrow ht hrec hwin hlive => ?_⟩
  · obtain ⟨h4, -⟩ := regRow_aligned hrow
    have hanswer : answer q a (some w) u = setReq q { s.req q with status := 0, data := w, lastAccess := some a } u := by
      rw [← touchFw_req (q := q) (a := a)]
      exact complete_ok_read h4
    rw [exec_read hrow ht, readOk_plain hrec hwin hlow, hw, hanswer]
  · obtain ⟨h4, -⟩ := regRow_aligned hrow
    obtain ⟨hrec, hfw⟩ := splitLow_outside hlow
    have hread : readReg q a s = complete q 0 a w (keepHigh q a s) := by
      rw [readReg_takes hrow ht, readOk_split hrec (by rwa [touchFw_windowAt]) hlow, touchFw_of_outside hfw, splitRead_low hw]
    obtain ⟨-, hof, hshadow⟩ := complete_ok_kept (q := q) (a := a) (w := w) (s := keepHigh q a s)
    rw [keepHigh_req] at hof hshadow
    refine ⟨_, congrArg Host.Outcome.next hread, complete_ok_answer.1, complete_ok_answer.2, fun v hv => ?_, rfl, fun p hp => ?_, fun t hreq => ?_⟩
    · rw [hshadow, hv]
      rfl
    · exact complete_ok_only_mgmt (ne_of_untouched hp) (setReq_kept (ne_of_untouched hp) (.refl p s))
    · rw [← hreq] at hof ⊢
      exact read_high (hreq ▸ complete_ok_lastAccess h4) hof
  · have hread : readReg q a s = complete q 0 a w (keepWindow q key (w :: ws) u) := by
      rw [readReg_takes hrow ht, readOk_window hrec hwin, windowRead_first hlive]
    obtain ⟨hwindows, -⟩ := complete_ok_kept (q := q) (a := a) (w := w) (s := keepWindow q key (w :: ws) u)
    have hlatched := (congrArg (look (fun _ => []) · key) hwindows).trans keepWindow_windows
    refine ⟨_, congrArg Host.Outcome.next hread, complete_ok_answer.1, complete_ok_answer.2, hlatched, touchFw_regs, fun p hp => ?_, ?_⟩
    · exact complete_ok_only_mgmt (ne_of_untouched hp) (setReq_kept (ne_of_untouched hp) (touchFw_kept (ne_of_untouched hp) (.refl p s)))
    · intro t i v addr2 hreq _ hrow2 ht2 hrec2 hwin2 hv
      exact read_later (by rw [hreq]; exact hlatched) (List.cons_ne_nil w ws) hv ht2 hrow2 hrec2 hwin2

end Sys2Proof.Machine
end

/-!
PROOFS of the architecture statements, part 1: the idle step (R23, R501, R504, R572). Each part of a tick leaves alone what its lemma says;
where nothing falls due, it is the identity.
-/
section
namespace Sys2Proof.Machine

set_option Elab.async false

variable {s t : State} {p : Part} {n a : Nat}

/-! ### The region outputs with nothing to pass on -/

theorem waitingAt_of_output_nil {k : Nat} (h : s.rx.output = []) : s.waitingAt k = [] := by
  unfold State.waitingAt
  rw [h]
  rfl

theorem nextBlock_of_output_nil (h : s.rx.output = []) : s.nextBlock n = none := by
  unfold State.nextBlock
  dsimp only
  rw [if_neg fun hw => hw.2 (waitingAt_of_output_nil h), List.find?_eq_none]
  intro b _
  simp [waitingAt_of_output_nil h]

theorem serveOutput_of_output_nil (h : s.rx.output = []) : serveOutput n s = s := by
  unfold serveOutput
  rw [nextBlock_of_output_nil h]
  exact ite_self _

theorem forUp_of_fixed {f : Nat → State → State} {i : Nat} (hf : ∀ j, f j s = s) : forUp f i n s = s := by
  induction n generalizing i with
  | zero => rfl
  | succ n ih =>
    unfold forUp
    rw [hf, ih]

theorem tickOutputs_eq : tickOutputs s = forUp serveOutput 0 6 s := by
  unfold tickOutputs
  split
  · rename_i h
    rw [forUp_of_fixed fun _ => serveOutput_of_output_nil h]
  · rfl

/-! ### What falls due in the present nanosecond -/

theorem noteMirror_of_eq (h : s.mirror = s.lk.mirrorWord) : noteMirror s = s := if_pos h

theorem tickLanes_of_off (h : s.domOn 59 = false) : tickLanes s = s := by
  unfold tickLanes
  rw [h]
  rfl

theorem latchDue_of_none (h : s.mgmt.loupe.latchAt = none) : latchDue s = s := by
  unfold latchDue
  rw [h]

theorem tickReset_of_not_due (h : ∀ i, s.startup.resetAt = some i → s.now < i) : tickReset s = s := by
  refine if_neg fun hdue => ?_
  cases hat : s.startup.resetAt with
  | none => simp [hat] at hdue
  | some i => exact absurd (h i hat) (by simpa [hat] using hdue)

@[simp] theorem tickHours_regs : (tickHours s).regs = s.regs := tickHours_kept (p := .regs) (by decide) (.refl _ s)
@[simp] theorem tickHours_loupe : (tickHours s).mgmt.loupe = s.mgmt.loupe := by
  unfold tickHours
  split <;> rfl

/-! ### Loupe's watch (R504) -/

/-- Loupe firing, joining or overrunning shows in its own registers, beside what the record of the overrun flag changes. -/
theorem loupeSource_onlyRegs {code tl : Nat} :
    OnlyRegs [LOUPE_STATUS, LOUPE_TIME_LO, LOUPE_TIME_HI, REC_LOST, REC_STATUS] s (loupeSource code tl s) := by
  intro a ha
  simp only [List.mem_cons, List.not_mem_nil, or_false, not_or] at ha
  obtain ⟨hstatus, hlo, hhi, hlost, hrec⟩ := ha
  have htime (u : State) : (setReg64 LOUPE_TIME_LO tl u).reg a = u.reg a := by
    unfold setReg64
    exact (setReg_reg_other hhi).trans (setReg_reg_other hlo)
  unfold loupeSource
  split
  · rfl
  split
  · unfold loupeJoin
    dsimp only
    split
    · exact (htime _).trans (by rw [fset_reg, if_neg hstatus, fset_reg, if_neg hstatus])
    · rw [fset_reg, if_neg hstatus]
  split
  · exact (htime _).trans (by rw [fsets_reg, if_neg hstatus])
  · rw [flag_reg hstatus hlost hrec, fset_reg, if_neg hstatus]

theorem tickLoupe_onlyRegs : OnlyRegs [LOUPE_STATUS, LOUPE_TIME_LO, LOUPE_TIME_HI, REC_LOST, REC_STATUS] s (tickLoupe s) := by
  intro a ha
  unfold tickLoupe
  dsimp only
  split
  · split
    · exact (loupeSource_onlyRegs a ha).trans rfl
    · rfl
  · rfl

/-! ### The tick -/

/-- What falls due in a nanosecond, before it ends. -/
def dueNow (s : State) : State := latchDue (tickLanes (noteMirror (tickHours s)))

/-- TBASE goes on by one. -/
def nextNs (s : State) : State := { s with time := { s.time with tbase := s.time.tbase + 1 } }

theorem tick_of_not_running (h : s.time.running = false) : tick s = tickHours s := by
  have hrun : (tickHours s).time = s.time := tickHours_kept (p := .time) (by decide) (.refl _ s)
  unfold tick
  dsimp only
  rw [hrun, h]
  rfl

theorem tick_of_running (h : s.time.running = true) : tick s = tickReset (tickLoupe (forUp serveOutput 0 6 (nextNs (dueNow s)))) := by
  have hrun : (tickHours s).time = s.time := tickHours_kept (p := .time) (by decide) (.refl _ s)
  unfold tick
  dsimp only
  rw [hrun, if_pos h, tickOutputs_eq]
  rfl

theorem dueNow_kept (h : p ∉ [Part.mgmt, .regs, .lk, .aq, .fresh]) : Kept p s (dueNow s) := by
  simp only [List.mem_cons, List.not_mem_nil, or_false, not_or] at h
  obtain ⟨hmgmt, hregs, hlk, haq, hfresh⟩ := h
  exact latchDue_kept hregs hmgmt hfresh (tickLanes_kept hregs hmgmt hlk haq (noteMirror_kept hlk (tickHours_kept hmgmt (.refl p s))))

theorem nextNs_kept (htime : p ≠ .time) (htbase : p ≠ .tbase) {b : State} (k : Kept p b s) : Kept p b (nextNs s) := mk_kept k

theorem passOn_kept (hregs : p ≠ .regs) (hmgmt : p ≠ .mgmt) (hrx : p ≠ .rx) (hlk : p ≠ .lk) :
    Kept p s (tickLoupe (forUp serveOutput 0 6 s)) :=
  tickLoupe_kept hregs hmgmt (forUp_kept (fun _ _ => serveOutput_kept hregs hmgmt hrx hlk) (.refl p s))

/-- With nothing due, what ends before the nanosecond does is the count of hours alone. -/
theorem dueNow_idle (hdom : s.domOn 59 = false) (hlatch : s.mgmt.loupe.latchAt = none) (hmirror : s.mirror = s.lk.mirrorWord) :
    dueNow s = tickHours s := by
  have hlk : (tickHours s).lk = s.lk := tickHours_kept (p := .lk) (by decide) (.refl _ s)
  have hsf : (tickHours s).sf = s.sf := tickHours_kept (p := .sf) (by decide) (.refl _ s)
  have hreg (a : Nat) : (tickHours s).reg a = s.reg a := congrArg (look regReset · a) tickHours_regs
  have hmirror' : (tickHours s).mirror = (tickHours s).lk.mirrorWord := by
    rw [hlk, ← hmirror]
    unfold State.mirror State.fget
    rw [hsf]
    simp only [hreg]
  unfold dueNow
  rw [noteMirror_of_eq hmirror', tickLanes_of_off (by unfold State.domOn State.rbit at hdom ⊢; rw [hreg, hdom]),
    latchDue_of_none (by rw [tickHours_loupe, hlatch])]

/-- Settles O2: the tick is taken apart into what is due, TBASE, and what passes on; the parts each may change add up. -/
theorem anIdleStepIsOneNanosecond : Obligations.AnIdleStepIsOneNanosecond := by
  intro s hp
  refine ⟨tick s, step_nil hp, ?_, fun hrun => ?_, fun hrun hreset => ?_⟩
  · exact Eq.trans (show Kept .pending s (tick s) by apply tick_kept (k := .refl _ s) <;> decide) hp
  · exact ⟨tick_of_not_running hrun, fun p hp => tick_of_not_running hrun ▸ tickHours_kept (ne_of_untouched hp) (.refl p s)⟩
  have hdue : (dueNow s).time = s.time := dueNow_kept (p := .time) (by decide)
  have htime : (tickLoupe (forUp serveOutput 0 6 (nextNs (dueNow s)))).time = { s.time with tbase := s.time.tbase + 1 } :=
    Eq.trans (passOn_kept (p := .time) (by decide) (by decide) (by decide) (by decide))
      (congrArg (fun x : Timebase => { x with tbase := x.tbase + 1 }) hdue)
  have hstartup : (tickLoupe (forUp serveOutput 0 6 (nextNs (dueNow s)))).startup = s.startup :=
    Eq.trans (passOn_kept (p := .startup) (by decide) (by decide) (by decide) (by decide)) (dueNow_kept (p := .startup) (by decide))
  have htick : tick s = tickLoupe (forUp serveOutput 0 6 (nextNs (dueNow s))) := by
    rw [tick_of_running hrun, tickReset_of_not_due]
    rw [hstartup, State.now, htime]
    exact hreset
  rw [htick]
  refine ⟨htime, fun p hp => ?_, fun hdom hlatch hmirror hout => ⟨fun p hp => ?_, ?_⟩, _, rfl, rfl⟩
  · exact (nextNs_kept (ne_of_untouched hp) (ne_of_untouched hp) (dueNow_kept (by simp_all))).trans
      (passOn_kept (ne_of_untouched hp) (ne_of_untouched hp) (ne_of_untouched hp) (ne_of_untouched hp))
  all_goals
    have hrx : (nextNs (dueNow s)).rx.output = [] := (congrArg Rx.output (dueNow_kept (s := s) (p := .rx) (by decide))).trans hout
    rw [forUp_of_fixed fun _ => serveOutput_of_output_nil hrx, dueNow_idle hdom hlatch hmirror]
  · exact tickLoupe_kept (ne_of_untouched hp) (ne_of_untouched hp)
      (nextNs_kept (ne_of_untouched hp) (ne_of_untouched hp) (tickHours_kept (ne_of_untouched hp) (.refl p s)))
  · intro a ha
    rw [tickLoupe_onlyRegs a ha]
    exact congrArg (look regReset · a) tickHours_regs

end Sys2Proof.Machine
end

/-!
PROOFS of the architecture statements, part 2: the quiet registers. The timebase, the Cut and the containment of faults report in registers of
CF that nothing else writes, so what a frame edge, a swap or a fence writes there stands through all that follows in the same event. Each lemma
says of one operation that it leaves a quiet register and the frozen summary words (R37) alone.
-/
section
namespace Sys2Proof.Machine

set_option Elab.async false

variable {s t : State} {a r bit : Nat}

/-- The registers of CF that only the timebase, the Cut and the containment of faults write: those of its first block up to
`CUT_REGION_MASK`, but for the pair's. -/
def quiet (a : Nat) : Bool := decide (baseCf ≤ a ∧ a < CUT_REGION_MASK ∧ a ≠ PAIR_STATUS ∧ a ≠ PAIR_FLAGS)

theorem ne_of_quiet (h : quiet a = true) (hr : quiet r = false) : a ≠ r := fun e => by rw [e, hr] at h; contradiction

theorem quiet_of_region (h : 0x1000000 ≤ r) : quiet r = false := by
  simp only [quiet, baseCf, CUT_REGION_MASK]
  exact decide_eq_false (by omega)

/-! ### The registers that are not quiet -/

@[simp] theorem quiet_REC_LOST : quiet REC_LOST = false := by decide
@[simp] theorem quiet_REC_STATUS : quiet REC_STATUS = false := by decide
@[simp] theorem quiet_CAL_FG_STATUS : quiet CAL_FG_STATUS = false := by decide
@[simp] theorem quiet_FW_FLAGS : quiet FW_FLAGS = false := by decide
@[simp] theorem quiet_FW_STATUS : quiet FW_STATUS = false := by decide
@[simp] theorem quiet_FW_IMAGE : quiet FW_IMAGE = false := by decide
@[simp] theorem quiet_MODE_STATUS : quiet MODE_STATUS = false := by decide
@[simp] theorem quiet_PAIR_FLAGS : quiet PAIR_FLAGS = false := by decide
@[simp] theorem quiet_PAIR_SCHED : quiet PAIR_SCHED = false := by decide
@[simp] theorem quiet_PAIR_SKEW : quiet PAIR_SKEW = false := by decide
@[simp] theorem quiet_PAIR_STATUS : quiet PAIR_STATUS = false := by decide
@[simp] theorem quiet_RESET_CAUSE : quiet RESET_CAUSE = false := by decide
@[simp] theorem quiet_STARTUP_TIME : quiet STARTUP_TIME = false := by decide
@[simp] theorem quiet_CUT_REGION_MASK : quiet CUT_REGION_MASK = false := by decide
@[simp] theorem quiet_SF_FLAGS : quiet SF_FLAGS = false := by decide
@[simp] theorem quiet_SF_STATUS : quiet SF_STATUS = false := by decide
@[simp] theorem quiet_TX_CODE_HOPS : quiet TX_CODE_HOPS = false := by decide
@[simp] theorem quiet_TX_HOP_FRAME : quiet TX_HOP_FRAME = false := by decide
@[simp] theorem quiet_TX_SCHED_STATUS : quiet TX_SCHED_STATUS = false := by decide
@[simp] theorem quiet_LK_FLAGS : quiet LK_FLAGS = false := by decide
@[simp] theorem quiet_AQ_STATUS : quiet AQ_STATUS = false := by decide
@[simp] theorem quiet_AQ_CNT : quiet AQ_CNT = false := by decide
@[simp] theorem quiet_AQ_FLAGS : quiet AQ_FLAGS = false := by decide
@[simp] theorem quiet_LK_DROP {i : Nat} : quiet (LK_DROP i) = false := quiet_of_region (by simp only [LK_DROP, baseLk]; omega)
@[simp] theorem quiet_ADC_STATUS {k : Nat} : quiet (ADC_STATUS k) = false := quiet_of_region (by simp only [ADC_STATUS, baseAdc]; split_ifs <;> omega)
@[simp] theorem quiet_RX_BLK_SEQ {k : Nat} : quiet (RX_BLK_SEQ k) = false := quiet_of_region (by simp only [RX_BLK_SEQ, baseRxBlk]; omega)
@[simp] theorem quiet_RX_BLK_SEQ_CNT {k : Nat} : quiet (RX_BLK_SEQ_CNT k) = false := quiet_of_region (by simp only [RX_BLK_SEQ_CNT, baseRxBlk]; omega)
@[simp] theorem quiet_RX_CELL_FLAGS {c : Nat} : quiet (RX_CELL_FLAGS c) = false := quiet_of_region (by simp only [RX_CELL_FLAGS, baseRxCell]; omega)
@[simp] theorem quiet_RX_CENSUS_FOREIGN {k : Nat} : quiet (RX_CENSUS_FOREIGN k) = false := quiet_of_region (by simp only [RX_CENSUS_FOREIGN, baseRxBlk]; omega)
@[simp] theorem quiet_RX_CENSUS_NOISE {k : Nat} : quiet (RX_CENSUS_NOISE k) = false := quiet_of_region (by simp only [RX_CENSUS_NOISE, baseRxBlk]; omega)
@[simp] theorem quiet_RX_CENSUS_SLOTS {k : Nat} : quiet (RX_CENSUS_SLOTS k) = false := quiet_of_region (by simp only [RX_CENSUS_SLOTS, baseRxBlk]; omega)
@[simp] theorem quiet_RX_GATE_STATUS {n : Nat} : quiet (RX_GATE_STATUS n) = false := quiet_of_region (by simp only [RX_GATE_STATUS, baseRxReg]; omega)
@[simp] theorem quiet_SC_AXIS_EXC {a : Nat} : quiet (SC_AXIS_EXC a) = false := quiet_of_region (by simp only [SC_AXIS_EXC, baseScAxis]; omega)
@[simp] theorem quiet_SC_AXIS_STATUS {a : Nat} : quiet (SC_AXIS_STATUS a) = false := quiet_of_region (by simp only [SC_AXIS_STATUS, baseScAxis]; omega)
@[simp] theorem quiet_TX_PORT_STATUS {p : Nat} : quiet (TX_PORT_STATUS p) = false := quiet_of_region (by simp only [TX_PORT_STATUS, baseTxPort]; omega)

/-- The timebase without the changes noted for the facilities (R31). -/
def State.clock (s : State) : Timebase := { s.time with changes := [] }

/-- What an observer of a quiet register, of the frozen summary words and of the timebase sees. -/
def calm (a : Nat) (s : State) : Word × Sparse Word × Timebase := (s.reg a, s.mgmt.frozen, s.clock)

theorem calm_ext (hreg : t.reg a = s.reg a) (hfrozen : t.mgmt.frozen = s.mgmt.frozen) (hclock : t.clock = s.clock) : calm a t = calm a s := by
  rw [calm, hreg, hfrozen, hclock]
  rfl

@[simp] theorem calm_mk {p1 p2 p4 p5 p6 p7 p8 p9 p10 p11 p12 p13 p14 p15 p16 p17 p18 p19 p20 p21} {m : Mgmt} {c : Timebase} (h : m.frozen = t.mgmt.frozen)
    (hc : ({ c with changes := [] } : Timebase) = { t.time with changes := [] }) :
    calm a ⟨p1, p2, t.regs, c, p4, m, p5, p6, p7, p8, p9, p10, p11, p12, p13, p14, p15, p16, p17, p18, p19, p20, p21⟩ = calm a t :=
  calm_ext rfl h hc

@[simp] theorem calm_ite {c : Prop} [Decidable c] : calm a (if c then s else t) = if c then calm a s else calm a t := apply_ite _ _ _ _

theorem calm_of_kept (h : ∀ p, p = .regs ∨ p = .mgmt ∨ p = .time → Kept p s t) : calm a t = calm a s :=
  calm_ext (congrArg (look regReset · a) (h .regs (by decide))) (congrArg Mgmt.frozen (h .mgmt (by decide)))
    (congrArg (fun c : Timebase => { c with changes := [] }) (h .time (by decide)))

theorem reg_of_calm (h : calm a t = calm a s) : t.reg a = s.reg a := congrArg Prod.fst h

theorem clock_of_calm (h : calm a t = calm a s) : t.clock = s.clock := congrArg (·.2.2) h

/-- The part of an observer is none of the parts an operation touches. -/
theorem ne_of_observed {p x : Part} (hp : p = .regs ∨ p = .mgmt ∨ p = .time) (hx : x ≠ .regs ∧ x ≠ .mgmt ∧ x ≠ .time := by decide) : p ≠ x := by
  rintro rfl
  simp_all

@[simp] theorem forUp_calm {f : Nat → State → State} {i n : Nat} (hf : ∀ i t, calm a (f i t) = calm a t) : calm a (forUp f i n s) = calm a s := by
  induction n generalizing i s with
  | zero => rfl
  | succ n ih => exact ih.trans (hf i s)

@[simp] theorem foldl_calm {α : Type} {f : State → α → State} {l : List α} (hf : ∀ t x, calm a (f t x) = calm a t) : calm a (l.foldl f s) = calm a s := by
  induction l generalizing s with
  | nil => rfl
  | cons x l ih => exact ih.trans (hf s x)

/-! ### Writes of other registers, flags and records -/

@[simp] theorem setReg_calm {v} (h : quiet a = true) (hr : quiet r = false) : calm a (setReg r v s) = calm a s := Prod.ext (setReg_reg_other (ne_of_quiet h hr)) rfl
@[simp] theorem fset_calm {f v} (h : quiet a = true) (hr : quiet r = false) : calm a (fset r f v s) = calm a s := setReg_calm h hr
@[simp] theorem fsets_calm {l} (h : quiet a = true) (hr : quiet r = false) : calm a (fsets r l s) = calm a s := setReg_calm h hr
@[simp] theorem setRecorder_calm {n x} : calm a (setRecorder n x s) = calm a s := rfl
@[simp] theorem setPair_calm {x} : calm a (setPair x s) = calm a s := rfl
@[simp] theorem countLost_calm (h : quiet a = true) : calm a (countLost s) = calm a s := setReg_calm h rfl
@[simp] theorem recordEvent_calm {e} (h : quiet a = true) : calm a (recordEvent r e s) = calm a s := by
  simp [recordEvent, h]
@[simp] theorem setFlag_calm (h : quiet a = true) (hr : quiet r = false) : calm a (setFlag r bit s) = calm a s := by
  simp [setFlag, h, hr]
@[simp] theorem flag_calm {f} (h : quiet a = true) (hr : quiet r = false) : calm a (flag r f s) = calm a s := setFlag_calm h hr
@[simp] theorem flagIf_calm {c f} (h : quiet a = true) (hr : quiet r = false) : calm a (flagIf c r f s) = calm a s := by
  simp [flagIf, h, hr]
@[simp] theorem bumpOvf_calm {f n o ob} (h : quiet a = true) (hr : quiet r = false) (ho : quiet o = false) : calm a (bumpOvf r f n o ob s) = calm a s := by
  simp [bumpOvf, h, hr, ho]
@[simp] theorem bump_calm {f n} (h : quiet a = true) (hr : quiet r = false) : calm a (bump r f n s) = calm a s := fset_calm h hr

/-! ### The operations -/

@[simp] theorem drawFree_calm : calm a (drawFree s) = calm a s :=
  calm_of_kept fun p hp => drawFree_kept (ne_of_observed hp) (.refl p s)

@[simp] theorem kindOne_calm (h : quiet a = true) {x y z u} : calm a (kindOne x y z u s) = calm a s := by
  simp [kindOne, h]

@[simp] theorem wrapRecord_calm (h : quiet a = true) {x y z} : calm a (wrapRecord x y z s) = calm a s := by
  simp [wrapRecord, h]

@[simp] theorem setBlk_calm {x y} : calm a (setBlk x y s) = calm a s :=
  calm_of_kept fun p hp => setBlk_kept (ne_of_observed hp) (.refl p s)

@[simp] theorem setCell_calm {x y} : calm a (setCell x y s) = calm a s :=
  calm_of_kept fun p hp => setCell_kept (ne_of_observed hp) (.refl p s)

@[simp] theorem setPort_calm {x y} : calm a (setPort x y s) = calm a s :=
  calm_of_kept fun p hp => setPort_kept (ne_of_observed hp) (.refl p s)

@[simp] theorem setSeq_calm {x y} : calm a (setSeq x y s) = calm a s :=
  calm_of_kept fun p hp => setSeq_kept (ne_of_observed hp) (.refl p s)

@[simp] theorem slewFinish_calm : calm a (slewFinish s) = calm a s :=
  calm_of_kept fun p hp => slewFinish_kept (ne_of_observed hp) (.refl p s)

@[simp] theorem fgBegin_calm (h : quiet a = true) {x} : calm a (fgBegin x s) = calm a s := by
  simp [fgBegin, h]

@[simp] theorem fgSkip_calm (h : quiet a = true) : calm a (fgSkip s) = calm a s := by
  simp [fgSkip, h]

@[simp] theorem fgFill_calm (h : quiet a = true) {x} : calm a (fgFill x s) = calm a s := by
  induction x generalizing s with
  | zero => rfl
  | succ n ih =>
    unfold fgFill
    split
    · simp [h]
    · simp [h, ih]

@[simp] theorem stopBlock_calm (h : quiet a = true) {x} : calm a (stopBlock x s) = calm a s := by
  simp [stopBlock, h]

@[simp] theorem stopCell_calm {x} : calm a (stopCell x s) = calm a s :=
  calm_of_kept fun p hp => stopCell_kept (ne_of_observed hp) (.refl p s)

@[simp] theorem stopPort_calm {x} : calm a (stopPort x s) = calm a s :=
  calm_of_kept fun p hp => stopPort_kept (ne_of_observed hp) (.refl p s)

@[simp] theorem stopSeq_calm {x} : calm a (stopSeq x s) = calm a s :=
  calm_of_kept fun p hp => stopSeq_kept (ne_of_observed hp) (.refl p s)

@[simp] theorem noteChange_calm {x y z u} : calm a (noteChange x y z u s) = calm a s :=
  by simp [noteChange]

@[simp] theorem stampChanges_calm {x y} : calm a (stampChanges x y s) = calm a s :=
  by simp [stampChanges]

@[simp] theorem leaveChanges_calm {x} : calm a (leaveChanges x s) = calm a s :=
  by simp [leaveChanges]

@[simp] theorem stopShooting_calm (h : quiet a = true) : calm a (stopShooting s) = calm a s := by
  simp [stopShooting, h]

@[simp] theorem toConfigured_calm (h : quiet a = true) : calm a (toConfigured s) = calm a s := by
  unfold toConfigured
  split <;> simp [h]

@[simp] theorem chipReaction_calm (h : quiet a = true) {x y z} : calm a (chipReaction x y z s) = calm a s := by
  simp [chipReaction, h]

@[simp] theorem endCause_calm {x} : calm a (endCause x s) = calm a s :=
  calm_of_kept fun p hp => endCause_kept (ne_of_observed hp) (.refl p s)

@[simp] theorem dropWrite_calm {x y} : calm a (dropWrite x y s) = calm a s :=
  calm_of_kept fun p hp => dropWrite_kept (ne_of_observed hp) (.refl p s)

@[simp] theorem markApplied_calm {x y} : calm a (markApplied x y s) = calm a s :=
  calm_of_kept fun p hp => markApplied_kept (ne_of_observed hp) (.refl p s)

@[simp] theorem leaveSwap_calm {x} : calm a (leaveSwap x s) = calm a s :=
  calm_of_kept fun p hp => leaveSwap_kept (ne_of_observed hp) (.refl p s)

@[simp] theorem missSwap_calm {x y} : calm a (missSwap x y s) = calm a s :=
  calm_of_kept fun p hp => missSwap_kept (ne_of_observed hp) (.refl p s)

@[simp] theorem dropEdges_calm {x} : calm a (dropEdges x s) = calm a s :=
  calm_of_kept fun p hp => dropEdges_kept (ne_of_observed hp) (.refl p s)

@[simp] theorem setSection_calm {x y} : calm a (setSection x y s) = calm a s :=
  calm_of_kept fun p hp => setSection_kept (ne_of_observed hp) (.refl p s)

@[simp] theorem bringIn_calm {x y z} : calm a (bringIn x y z s) = calm a s :=
  calm_of_kept fun p hp => bringIn_kept (ne_of_observed hp) (.refl p s)

@[simp] theorem slewStep_calm {x} : calm a (slewStep x s) = calm a s :=
  calm_of_kept fun p hp => slewStep_kept (ne_of_observed hp) (.refl p s)

@[simp] theorem slewOffset_calm {x y} : calm a (slewOffset x y s) = calm a s :=
  calm_of_kept fun p hp => slewOffset_kept (ne_of_observed hp) (.refl p s)

@[simp] theorem slewFrame_calm : calm a (slewFrame s) = calm a s :=
  calm_of_kept fun p hp => slewFrame_kept (ne_of_observed hp) (.refl p s)

@[simp] theorem noteCheck_calm {x y} : calm a (noteCheck x y s) = calm a s :=
  calm_of_kept fun p hp => noteCheck_kept (ne_of_observed hp) (.refl p s)

@[simp] theorem setGate_calm {x y z} : calm a (setGate x y z s) = calm a s :=
  calm_of_kept fun p hp => setGate_kept (ne_of_observed hp) (.refl p s)

@[simp] theorem applyUpdate_calm {x} : calm a (applyUpdate x s) = calm a s :=
  calm_of_kept fun p hp => applyUpdate_kept (ne_of_observed hp) (.refl p s)

@[simp] theorem setStaging_calm (h : quiet a = true) {x y} : calm a (setStaging x y s) = calm a s := by
  simp [setStaging, h]

@[simp] theorem applyCommit_calm (h : quiet a = true) {x} : calm a (applyCommit x s) = calm a s := by
  simp [applyCommit, h]

@[simp] theorem applyGates_calm (h : quiet a = true) : calm a (applyGates s) = calm a s := by
  simp [applyGates, h]

@[simp] theorem commitBefore_calm (h : quiet a = true) {x y} : calm a (commitBefore x y s) = calm a s := by
  simp [commitBefore, h]

@[simp] theorem reloadGates_calm {x y} : calm a (reloadGates x y s) = calm a s :=
  calm_of_kept fun p hp => reloadGates_kept (ne_of_observed hp) (.refl p s)

@[simp] theorem setLane_calm {x y} : calm a (setLane x y s) = calm a s :=
  calm_of_kept fun p hp => setLane_kept (ne_of_observed hp) (.refl p s)

@[simp] theorem setDropAcc_calm {x y z} : calm a (setDropAcc x y z s) = calm a s :=
  calm_of_kept fun p hp => setDropAcc_kept (ne_of_observed hp) (.refl p s)

@[simp] theorem dropPacket_calm (h : quiet a = true) {x y} : calm a (dropPacket x y s) = calm a s := by
  simp [dropPacket, h]

@[simp] theorem queueOn_calm (h : quiet a = true) {x y} : calm a (queueOn x y s) = calm a s := by
  simp [queueOn, h]

@[simp] theorem sendPacket_calm (h : quiet a = true) {x} : calm a (sendPacket x s) = calm a s := by
  unfold sendPacket
  extract_lets p
  split
  · simp [h]
  · simp only [calm_ite]
    split_ifs
    · simp [h]
    · simp [h]
    · split <;> simp [h]

@[simp] theorem setAqState_calm (h : quiet a = true) {x} : calm a (setAqState x s) = calm a s := by
  simp [setAqState, h]

@[simp] theorem handCapt_calm (h : quiet a = true) {x} : calm a (handCapt x s) = calm a s := by
  induction x generalizing s with
  | zero => rfl
  | succ n ih =>
    unfold handCapt
    split_ifs
    · rfl
    · split <;> simp [h, ih]

@[simp] theorem rearm_calm (h : quiet a = true) {x} : calm a (rearm x s) = calm a s := by
  simp [rearm, h]

@[simp] theorem putMems_calm {x y} : calm a (putMems x y s) = calm a s :=
  calm_of_kept fun p hp => putMems_kept (ne_of_observed hp) (ne_of_observed hp) (.refl p s)

@[simp] theorem closeSegment_calm (h : quiet a = true) {x} : calm a (closeSegment x s) = calm a s := by
  unfold closeSegment
  split
  · rfl
  next g _ =>
    extract_lets head aq s1 s2 aq2 s3a s3
    have h3 : calm a s3 = calm a s := by
      have h2 : calm a s2 = calm a s := by
        simp [s2, s1, h]
      unfold s3
      split_ifs <;> simp [s3a, h, h2]
    clear_value s3
    split
    · split <;> simp [h, h3]
    · simp [h, h3]

@[simp] theorem addMarker_calm {x} : calm a (addMarker x s) = calm a s :=
  calm_of_kept fun p hp => addMarker_kept (ne_of_observed hp) (.refl p s)

@[simp] theorem hopBoundary_calm (h : quiet a = true) {x y z} : calm a (hopBoundary x y z s) = calm a s := by
  unfold hopBoundary
  dsimp only
  split <;> simp [h]

@[simp] theorem noteSeed_calm {x y} : calm a (noteSeed x y s) = calm a s :=
  calm_of_kept fun p hp => noteSeed_kept (ne_of_observed hp) (.refl p s)

@[simp] theorem useChecks_calm (h : quiet a = true) {x y z u v} : calm a (useChecks x y z u v s) = calm a s := by
  simp [useChecks, h]

@[simp] theorem loadPort_calm {x y z u v} : calm a (loadPort x y z u v s) = calm a s :=
  calm_of_kept fun p hp => loadPort_kept (ne_of_observed hp) (.refl p s)

@[simp] theorem restorePort_calm (h : quiet a = true) {x} : calm a (restorePort x s) = calm a s := by
  simp [restorePort, h]

@[simp] theorem restorePorts_calm (h : quiet a = true) {x} : calm a (restorePorts x s) = calm a s := by
  simp [restorePorts, h]

@[simp] theorem dropRearms_calm {x} : calm a (dropRearms x s) = calm a s :=
  calm_of_kept fun p hp => dropRearms_kept (ne_of_observed hp) (ne_of_observed hp) (.refl p s)

@[simp] theorem endSeq_calm (h : quiet a = true) {x} : calm a (endSeq x s) = calm a s := by
  simp [endSeq, h]

@[simp] theorem startPixel_calm {x} : calm a (startPixel x s) = calm a s :=
  by simp [startPixel]

@[simp] theorem placeSlot_calm (h : quiet a = true) {x} : calm a (placeSlot x s) = calm a s := by
  simp [placeSlot, h]

@[simp] theorem placeRest_calm (h : quiet a = true) {x y z u} : calm a (placeRest x y z u s) = calm a s := by
  induction u generalizing s with
  | zero => rfl
  | succ n ih => simp [placeRest, h, ih]

@[simp] theorem cutBlock_calm (h : quiet a = true) {x y z u v w} : calm a (cutBlock x y z u v w s) = calm a s := by
  simp [cutBlock, h]

@[simp] theorem cutSeq_calm (h : quiet a = true) {x y z} : calm a (cutSeq x y z s) = calm a s := by
  simp [cutSeq, h]

@[simp] theorem startSeq_calm {x y z u} : calm a (startSeq x y z u s) = calm a s :=
  calm_of_kept fun p hp => startSeq_kept (ne_of_observed hp) (.refl p s)

@[simp] theorem tailB2_calm {x y z} : calm a (tailB2 x y z s) = calm a s :=
  calm_of_kept fun p hp => tailB2_kept (ne_of_observed hp) (.refl p s)

@[simp] theorem noteHop_calm {x y z} : calm a (noteHop x y z s) = calm a s :=
  by simp [noteHop]

@[simp] theorem frameShots_calm (h : quiet a = true) {x y z u} : calm a (frameShots x y z u s) = calm a s := by
  simp [frameShots, h]

@[simp] theorem startShooting_calm (h : quiet a = true) : calm a (startShooting s) = calm a s := by
  simp [startShooting, h]

@[simp] theorem setAdc_calm {x y} : calm a (setAdc x y s) = calm a s :=
  calm_of_kept fun p hp => setAdc_kept (ne_of_observed hp) (.refl p s)

@[simp] theorem setAxis_calm {x y} : calm a (setAxis x y s) = calm a s :=
  calm_of_kept fun p hp => setAxis_kept (ne_of_observed hp) (.refl p s)

@[simp] theorem showAdc_calm (h : quiet a = true) {x} : calm a (showAdc x s) = calm a s := by
  simp [showAdc, h]

@[simp] theorem startAdc_calm (h : quiet a = true) {x} : calm a (startAdc x s) = calm a s := by
  simp [startAdc, h]

@[simp] theorem reportExcitation_calm {x y} : calm a (reportExcitation x y s) = calm a s :=
  calm_of_kept fun p hp => reportExcitation_kept (ne_of_observed hp) (.refl p s)

@[simp] theorem applyExcitation_calm (h : quiet a = true) {x y} : calm a (applyExcitation x y s) = calm a s := by
  simp [applyExcitation, h]

@[simp] theorem markBanks_calm {x} : calm a (markBanks x s) = calm a s :=
  calm_of_kept fun p hp => markBanks_kept (ne_of_observed hp) (.refl p s)

@[simp] theorem showWait_calm (h : quiet a = true) {x} : calm a (showWait x s) = calm a s := by
  simp [showWait, h]

@[simp] theorem setSfc_calm {x y} : calm a (setSfc x y s) = calm a s :=
  calm_of_kept fun p hp => setSfc_kept (ne_of_observed hp) (.refl p s)

@[simp] theorem armIfReady_calm : calm a (armIfReady s) = calm a s :=
  calm_of_kept fun p hp => armIfReady_kept (ne_of_observed hp) (.refl p s)

@[simp] theorem enterSf_calm (h : quiet a = true) {x y} : calm a (enterSf x y s) = calm a s := by
  simp [enterSf, h]

@[simp] theorem sfStandDown_calm (h : quiet a = true) : calm a (sfStandDown s) = calm a s := by
  simp [sfStandDown, h]

@[simp] theorem enterPair_calm (h : quiet a = true) {x y} : calm a (enterPair x y s) = calm a s := by
  simp [enterPair, h]

@[simp] theorem followExcitation_calm (h : quiet a = true) : calm a (followExcitation s) = calm a s := by
  simp [followExcitation, h]

@[simp] theorem enterStandby_calm (h : quiet a = true) : calm a (enterStandby s) = calm a s := by
  simp [enterStandby, h]

@[simp] theorem enterActive_calm (h : quiet a = true) : calm a (enterActive s) = calm a s := by
  simp [enterActive, h]

@[simp] theorem enterSolo_calm (h : quiet a = true) {x} : calm a (enterSolo x s) = calm a s := by
  unfold enterSolo
  split <;> simp [h]

@[simp] theorem pairSwap_calm (h : quiet a = true) {x} : calm a (pairSwap x s) = calm a s := by
  simp [pairSwap, h]

@[simp] theorem refreshSkew_calm (h : quiet a = true) : calm a (refreshSkew s) = calm a s := by
  simp [refreshSkew, h]

@[simp] theorem takeHop_calm (h : quiet a = true) : calm a (takeHop s) = calm a s := by
  unfold takeHop
  split <;> simp [h]

@[simp] theorem setFw_calm {x} : calm a (setFw x s) = calm a s :=
  calm_of_kept fun p hp => setFw_kept (ne_of_observed hp) (.refl p s)

@[simp] theorem readSettings_calm (h : quiet a = true) {x} : calm a (readSettings x s) = calm a s := by
  unfold readSettings
  extract_lets bad fw s1 cal s2
  have h2 : calm a s2 = calm a s1 := by
    unfold s2
    split_ifs <;> rfl
  simp [h, h2, s1]

@[simp] theorem startProgram_calm (h : quiet a = true) : calm a (startProgram s) = calm a s := by
  simp [startProgram, h]

@[simp] theorem swapMode_calm (h : quiet a = true) {x} : calm a (swapMode x s) = calm a s := by
  simp [swapMode, h]

@[simp] theorem markEarly_calm {x} : calm a (markEarly x s) = calm a s :=
  calm_of_kept fun p hp => markEarly_kept (ne_of_observed hp) (ne_of_observed hp) (ne_of_observed hp) (.refl p s)

@[simp] theorem idleSeqs_calm {x} : calm a (idleSeqs x s) = calm a s :=
  calm_of_kept fun p hp => idleSeqs_kept (ne_of_observed hp) (.refl p s)

@[simp] theorem noteAt_calm {x y} : calm a (noteAt x y s) = calm a s :=
  by simp [noteAt]

@[simp] theorem noteGates_calm {x} : calm a (noteGates x s) = calm a s :=
  by simp [noteGates]

@[simp] theorem noteSlews_calm {x} : calm a (noteSlews x s) = calm a s :=
  by simp [noteSlews]

end Sys2Proof.Machine
end

/-!
PROOFS of the architecture statements, part 3: faults are contained (R34, R36, R37, R40, R41, R540). What a fence, an isolation, a lift and the
chip-level reaction do to REGION_FENCE, to the frozen summary words and to the causes in force.
-/
section
namespace Sys2Proof.Machine

set_option Elab.async false

variable {s t : State} {a r b d bit : Nat}

/-! ### The chip-level reaction -/

theorem toConfigured_mode : (toConfigured s).mode = if s.mode = .armed ∨ s.mode = .run then .configured else s.mode := by
  unfold toConfigured
  cases h : s.mode <;> simp [h]

theorem toConfigured_startup : (toConfigured s).startup = s.startup :=
  toConfigured_kept (p := .startup) (by decide) (by decide) (by decide) (by decide) (by decide) (by decide) (by decide) (by decide) (.refl _ s)

theorem toConfigured_pairSt : (toConfigured s).pairSt = s.pairSt :=
  toConfigured_kept (p := .pairSt) (by decide) (by decide) (by decide) (by decide) (by decide) (by decide) (by decide) (by decide) (.refl _ s)

theorem chipReaction_reacted {c : ChipCause} {p0 p2 : Nat} : Reacted c s (chipReaction c p0 p2 s) := by
  have hrec : ∀ u, (u = if s.startup.chip = [] then kindOne 0 5 p0 p2 s else s) → u.mode = s.mode ∧ u.startup = s.startup := by
    rintro u rfl
    exact ⟨ite_kept (p := .mode) (kindOne_kept (by decide) (by decide) (.refl _ s)) (.refl _ s),
      ite_kept (p := .startup) (kindOne_kept (by decide) (by decide) (.refl _ s)) (.refl _ s)⟩
  obtain ⟨hmode, hstartup⟩ := hrec _ rfl
  unfold chipReaction Reacted
  simp only [toConfigured_startup, toConfigured_pairSt, toConfigured_mode, hmode, hstartup]
  refine ⟨?_, fun c' hc' => ?_, trivial, trivial⟩
  · split <;> simp_all
  · split <;> simp [hc']

theorem Reacted.of_mode_startup {c : ChipCause} {u : State} (hm : t.mode = s.mode) (hc : t.startup = s.startup) (h : Reacted c t u) : Reacted c s u := by
  unfold Reacted at *
  rwa [hm, hc] at h

/-! ### Isolation of a block -/

theorem isolateBlock_isolated : (isolateBlock r b s).isolated r b = true := by
  unfold isolateBlock State.isolated
  split <;> simp_all

@[simp] theorem isolateBlock_calm : calm a (isolateBlock r b s) = calm a s :=
  calm_of_kept fun p hp => isolateBlock_kept (ne_of_observed hp) (.refl p s)

@[simp] theorem quiet_LK_UP : quiet LK_UP = false := by decide
@[simp] theorem quiet_SC_ENG_STATUS : quiet SC_ENG_STATUS = false := by decide
@[simp] theorem quiet_SC_ENG_FLAGS : quiet SC_ENG_FLAGS = false := by decide
@[simp] theorem quiet_LK_LANE_STATUS {l : Nat} : quiet (LK_LANE_STATUS l) = false := quiet_of_region (by simp only [LK_LANE_STATUS, baseLkLane]; omega)

@[simp] theorem setLaneState_calm {l n} (h : quiet a = true) : calm a (setLaneState l n s) = calm a s := by
  simp [setLaneState, h]

@[simp] theorem deadSlots_calm {q} : calm a (deadSlots q s) = calm a s :=
  calm_of_kept fun p hp => deadSlots_kept (ne_of_observed hp) (.refl p s)

@[simp] theorem scanFault_calm {x v} (h : quiet a = true) : calm a (scanFault x v s) = calm a s := by
  simp [scanFault, h]

@[simp] theorem moveTo_calm {x y} (h : quiet a = true) : calm a (moveTo x y s) = calm a s := by
  unfold moveTo
  split <;> simp [h]

@[simp] theorem abandonSegment_calm {x y} (h : quiet a = true) : calm a (abandonSegment x y s) = calm a s := by
  simp [abandonSegment, h]

@[simp] theorem giveUpPacket_calm {x y} (h : quiet a = true) : calm a (giveUpPacket x y s) = calm a s := by
  simp [giveUpPacket, h]

@[simp] theorem displace_calm {x y} (h : quiet a = true) : calm a (displace x y s) = calm a s := by
  unfold displace
  split
  · rfl
  · split
    · split
      · simp [h]
      · split <;> simp [h]
    · simp [h]

@[simp] theorem restoreMarker_calm {x} : calm a (restoreMarker x s) = calm a s := by
  unfold restoreMarker
  split <;> simp

@[simp] theorem flushLane_calm {l} (h : quiet a = true) : calm a (flushLane l s) = calm a s := by
  unfold flushLane
  extract_lets x s1 s2
  have h2 : calm a s2 = calm a s := by
    unfold s2
    split <;> simp [s1, h]
  simp [h, h2]

@[simp] theorem moveLane_calm {l n} (h : quiet a = true) : calm a (moveLane l n s) = calm a s := by
  simp [moveLane, h]

theorem isolateHere_calm (h : quiet a = true) : calm a (isolateHere r b s) = calm a s := by
  simp [isolateHere, h]

theorem isolateHere_isolated : (isolateHere r b s).isolated r b = true := by
  have hstartup : (isolateHere r b s).startup = (isolateBlock r b s).startup := by
    unfold isolateHere
    refine ite_kept (p := .startup) (forUp_kept (fun _ _ k => moveLane_kept (by decide) (by decide) (by decide) (by decide) k) (.refl _ _)) ?_
    refine ite_kept (forUp_kept (fun _ _ k => deadSlots_kept (by decide) k) (.refl _ _)) ?_
    exact ite_kept (forUp_kept (fun _ _ k => scanFault_kept (by decide) (by decide) (by decide) k) (.refl _ _)) (.refl _ _)
  unfold State.isolated
  rw [hstartup]
  exact isolateBlock_isolated

/-! ### Bits of a word -/

theorem getLsbD_setBit_other {w : Word} {n j : Nat} (h : j ≠ n) : (setBit n w).getLsbD j = w.getLsbD j := by
  simp only [setBit, BitVec.getLsbD_or, BitVec.getLsbD_ofNat, Nat.testBit_two_pow_of_ne h.symm, Bool.and_false, Bool.or_false]

theorem getLsbD_clrBit {w : Word} {n j : Nat} : (clrBit n w).getLsbD j = (w.getLsbD j && decide (j ≠ n)) := by
  simp only [clrBit, BitVec.getLsbD_and, BitVec.getLsbD_not, BitVec.getLsbD_ofNat, Nat.testBit_two_pow]
  by_cases hj : j < 32
  · simp [hj, eq_comm]
  · simp [BitVec.getLsbD_of_ge _ _ (not_lt.mp hj)]

/-! ### Fences -/

theorem look_foldl_put {α : Type} [DecidableEq α] {d : Nat → α} {f : Nat → α} {l : List Nat} {m : Sparse α} (h : a ∈ l ∨ look d m a = f a) :
    look d (l.foldl (fun m x => put d m x (f x)) m) a = f a := by
  induction l generalizing m with
  | nil => simpa using h
  | cons x l ih =>
    refine ih ?_
    by_cases hx : a = x
    · exact .inr (by rw [hx, look_put_same])
    · rw [look_put_other _ _ hx]
      simpa [hx] using h

/-- The frozen summary words with those of a region as they stand (R37). -/
def State.frozenWith (s : State) (r : Nat) : Sparse Word :=
  (summaryAddrs r).foldl (fun m a => put (fun _ => 0) m a (w32 (s.sumLive a))) s.mgmt.frozen

theorem freeze_frozen : (freeze r s).mgmt.frozen = s.frozenWith r := rfl

theorem freeze_reg : (freeze r s).reg a = s.reg a := rfl

theorem look_frozenWith (h : a ∈ summaryAddrs r) : look (fun _ => 0) (s.frozenWith r) a = w32 (s.sumLive a) := look_foldl_put (.inl h)

/-- The summary words read neither the receive path nor the calibration's missed keys. -/
theorem frozenWith_of_only (h : OnlyParts [.rx, .cal] s t) : t.frozenWith r = s.frozenWith r := by
  have ht : t = { s with rx := t.rx, cal := t.cal } := by
    obtain ⟨hmotion, hsupply, htest⟩ := h .motionIn (by decide)
    exact State.mk.injEq .. ▸ ⟨h .pending (by decide), h .mode (by decide), h .regs (by decide), h .time (by decide), h .cut (by decide),
      h .mgmt (by decide), h .startup (by decide), rfl, rfl, h .tx (by decide), h .lk (by decide), h .aq (by decide), h .adcs (by decide),
      h .sc (by decide), hmotion, hsupply, htest, h .pairSt (by decide), h .sf (by decide), h .hk (by decide), h .fw (by decide),
      h .tap (by decide), h .fresh (by decide)⟩
  rw [ht]
  rfl

theorem setFlag_calm_same (h : quiet a = true) (hb : s.rbit a bit = false) : calm a (setFlag a bit s) = (setBit bit (s.reg a), s.mgmt.frozen, s.clock) := by
  rw [setFlag, if_neg (by rw [hb]; decide), recordEvent_calm h]
  exact Prod.ext setReg_reg_same rfl

/-- What a fence does, before the reaction of the region it shuts out (R36, R37). -/
theorem fenceRegion_eq (h : fenceable r = true) (hs : s.fenced r = false) :
    ∃ u, OnlyParts [.regs, .time, .cut, .mgmt, .cal, .rx] s u ∧ calm REGION_FENCE u = (setBit r (s.reg REGION_FENCE), s.frozenWith r, s.clock) ∧
      fenceRegion r s = if r = 1 ∨ r = 3 ∨ r = 4 ∨ r = 5 then chipReaction (.fence r) r REGION_FENCE u else u := by
  rw [fenceRegion, if_pos (by rw [h, hs]; rfl)]
  extract_lets out s0 s1
  have hdrop : OnlyParts [.rx, .cal] s (if 8 ≤ r then dropEdges r s0 else s0) := fun p hp =>
    have hs0 : Kept p s s0 := ite_kept (missSwap_kept (ne_of_untouched hp) (.refl p s)) (.refl p s)
    ite_kept (dropEdges_kept (ne_of_untouched hp) hs0) hs0
  refine ⟨s1, fun p hp => ?_, ?_, rfl⟩
  · exact leaveChanges_kept (ne_of_untouched hp) (leaveSwap_kept (ne_of_untouched hp) (setFlag_kept (ne_of_untouched hp) (ne_of_untouched hp)
      (freeze_kept (ne_of_untouched hp) (hdrop p (by simp_all)))))
  · have hreg : (freeze r (if 8 ≤ r then dropEdges r s0 else s0)).reg REGION_FENCE = s.reg REGION_FENCE := by
      rw [freeze_reg]
      exact congrArg (look regReset · REGION_FENCE) (hdrop .regs (by decide))
    have hb : (freeze r (if 8 ≤ r then dropEdges r s0 else s0)).rbit REGION_FENCE r = false := by
      rw [State.rbit, hreg]
      exact hs
    simp only [s1, leaveChanges_calm, leaveSwap_calm]
    rw [setFlag_calm_same (by decide) hb, hreg, freeze_frozen, frozenWith_of_only hdrop]
    exact congrArg (fun c : Timebase => (_, _, { c with changes := [] })) (hdrop .time (by decide))

theorem fence_of_unfenced (h : fenceable r = true) (hs : s.fenced r = false) (h6 : r ≠ 6) (h8 : r < 8) : fence r s = fenceRegion r s := by
  rw [fence, if_neg (by rw [h, hs]; decide), if_neg h6, if_neg (by omega)]

theorem fence_calm (h : fenceable r = true) (hs : s.fenced r = false) : calm REGION_FENCE (fence r s) = (setBit r (s.reg REGION_FENCE), s.frozenWith r, s.clock) := by
  have hq : quiet REGION_FENCE = true := by decide
  obtain ⟨u, -, hu, he⟩ := fenceRegion_eq h hs
  have hregion : calm REGION_FENCE (fenceRegion r s) = (setBit r (s.reg REGION_FENCE), s.frozenWith r, s.clock) := by
    rw [he]
    simp [hq, hu]
  rw [← hregion, fence, if_neg (by rw [h, hs]; decide)]
  dsimp only
  split_ifs
  · split <;> simp [hq]
  · simp
  · rfl

theorem fence_of_fenced (h : s.fenced r = true) : fence r s = s := by
  rw [fence, if_pos (by rw [h]; rfl)]

theorem fence_fenced (h : fenceable r = true) : (fence r s).fenced r = true := by
  cases hs : s.fenced r
  · have hr : r < 32 := by
      simp only [fenceable, isRegion, Bool.and_eq_true, decide_eq_true_eq] at h
      omega
    have hreg : (fence r s).reg REGION_FENCE = setBit r (s.reg REGION_FENCE) := congrArg Prod.fst (fence_calm h hs)
    rw [State.fenced, State.rbit, hreg, getLsbD_setBit hr]
  · rwa [fence_of_fenced hs]

theorem fence_fenced_other (h : fenceable r = true) {j : Nat} (hj : j ≠ r) : (fence r s).fenced j = s.fenced j := by
  cases hs : s.fenced r
  · have hreg : (fence r s).reg REGION_FENCE = setBit r (s.reg REGION_FENCE) := congrArg Prod.fst (fence_calm h hs)
    rw [State.fenced, State.rbit, hreg, getLsbD_setBit_other hj]
    rfl
  · rw [fence_of_fenced hs]

theorem fence_frozen (h : fenceable r = true) (hs : s.fenced r = false) (ha : a ∈ summaryAddrs r) :
    look (fun _ => 0) (fence r s).mgmt.frozen a = w32 (s.sumLive a) := by
  have hfrozen : (fence r s).mgmt.frozen = s.frozenWith r := congrArg (·.2.1) (fence_calm h hs)
  rw [hfrozen, look_frozenWith ha]

theorem fenced_of_calm (h : calm REGION_FENCE t = calm REGION_FENCE s) {j : Nat} : t.fenced j = s.fenced j :=
  congrArg (fun w : Word => w.getLsbD j) (congrArg Prod.fst h)

/-- The chip-level reaction is taken for HK, SC, TX and LK (R36). -/
theorem fence_reacted (h : fenceable r = true) (hs : s.fenced r = false) (hr : r = 1 ∨ r = 3 ∨ r = 4 ∨ r = 5) : Reacted (.fence r) s (fence r s) := by
  obtain ⟨u, hu, -, he⟩ := fenceRegion_eq h hs
  rw [fence_of_unfenced h hs (by omega) (by omega), he, if_pos hr]
  exact chipReaction_reacted.of_mode_startup (hu .mode (by decide)) (hu .startup (by decide))

/-- The other fences change neither the mode nor the start-up state. -/
theorem fence_kept_of_no_reaction {p : Part} (h : fenceable r = true) (hs : s.fenced r = false) (hr : r = 6 ∨ 8 ≤ r) (hp : p = .mode ∨ p = .startup) :
    Kept p s (fence r s) := by
  obtain ⟨u, hu, -, he⟩ := fenceRegion_eq h hs
  rw [if_neg (by omega)] at he
  have hku : Kept p s (fenceRegion r s) := he ▸ hu p (by rcases hp with rfl | rfl <;> decide)
  have ne {x : Part} (h1 : Part.mode ≠ x) (h2 : Part.startup ≠ x) : p ≠ x := by
    rcases hp with rfl | rfl
    · exact h1
    · exact h2
  rw [fence, if_neg (by rw [h, hs]; decide)]
  dsimp only
  split_ifs
  · split
    · exact mk_kept (setAqState_kept (ne (by decide) (by decide)) (closeSegment_kept (ne (by decide) (by decide)) (ne (by decide) (by decide))
        (ne (by decide) (by decide)) (ne (by decide) (by decide)) (ne (by decide) (by decide)) hku))
    · exact setAqState_kept (ne (by decide) (by decide)) hku
  · exact addMarker_kept (ne (by decide) (by decide)) hku
  · exact hku

theorem chipReaction_calm_fenced {c : ChipCause} {x y j : Nat} : (chipReaction c x y s).fenced j = s.fenced j :=
  fenced_of_calm (chipReaction_calm (by decide))

/-! ### Lifting fences -/

theorem forUp_induction {P : Nat → State → Prop} {f : Nat → State → State} {i n : Nat} (h : P i s)
    (hstep : ∀ j u, i ≤ j → j < i + n → P j u → P (j + 1) (f j u)) : P (i + n) (forUp f i n s) := by
  induction n generalizing i s with
  | zero => exact h
  | succ n ih =>
    rw [forUp, show i + (n + 1) = i + 1 + n by omega]
    exact ih (hstep i s (le_refl i) (by omega) h) fun j u h1 h2 => hstep j u (by omega) (by omega)

/-- The registers of the power domains. -/
abbrev domainRegs : List Nat := (List.range 3).flatMap (fun w => [PWR_DOM_ON w, PWR_DOM_GOOD w, PWR_DOM_FAULT w])

theorem regionDomains_lt (hd : d ∈ regionDomains r) (hr : r < 14) : d < 70 := by
  revert d
  interval_cases r <;> decide

theorem OnlyRegs.refl {l : List Nat} : OnlyRegs l s s := fun _ _ => rfl

theorem OnlyRegs.setReg {l : List Nat} {v : Word} (h : OnlyRegs l s t) (hr : r ∈ l) : OnlyRegs l s (setReg r v t) :=
  fun a ha => (setReg_reg_other fun e => ha (by rwa [e])).trans (h a ha)

theorem OnlyRegs.trans {l : List Nat} {u : State} (h : OnlyRegs l s t) (h' : OnlyRegs l t u) : OnlyRegs l s u :=
  fun a ha => (h' a ha).trans (h a ha)

theorem mem_domainRegs (hd : d < 70) : PWR_DOM_ON (d / 32) ∈ domainRegs ∧ PWR_DOM_GOOD (d / 32) ∈ domainRegs ∧ PWR_DOM_FAULT (d / 32) ∈ domainRegs := by
  have hw : d / 32 ∈ List.range 3 := List.mem_range.mpr (by omega)
  exact ⟨List.mem_flatMap.mpr ⟨_, hw, by simp⟩, List.mem_flatMap.mpr ⟨_, hw, by simp⟩, List.mem_flatMap.mpr ⟨_, hw, by simp⟩⟩

theorem setDomain_onlyRegs {on good : Bool} (hd : d < 70) : OnlyRegs domainRegs s (setDomain d on good s) :=
  (OnlyRegs.refl.setReg (mem_domainRegs hd).1).setReg (mem_domainRegs hd).2.1

theorem liftFence_of_unfenced (h : s.fenced r = false) : liftFence r s = s := by
  rw [liftFence, if_neg (by rw [h]; decide)]

theorem liftFence_eq (h : s.fenced r = true) (hr : r < 14) : ∃ u, OnlyRegs domainRegs (setReg REGION_FENCE (clrBit r (s.reg REGION_FENCE)) s) u ∧
    u.startup = { s.startup with notReady := insertNat r s.startup.notReady } ∧ liftFence r s = endCause (.fence r) u := by
  rw [liftFence, if_pos h]
  extract_lets s1 st1 st2 s2 s3
  have hs3 : OnlyRegs domainRegs s2 s3 ∧ s3.startup = s2.startup := by
    refine List.foldlRecOn (motive := fun u => OnlyRegs domainRegs s2 u ∧ u.startup = s2.startup) _ _ ⟨.refl, rfl⟩ fun u hu d hd => ?_
    obtain ⟨hregs, hstartup⟩ := hu
    have hd := regionDomains_lt hd hr
    obtain ⟨-, -, hfault⟩ := mem_domainRegs hd
    dsimp only
    split_ifs
    · refine ⟨.trans (.setReg hregs hfault) (setDomain_onlyRegs hd), hstartup⟩
    · exact ⟨.setReg hregs hfault, hstartup⟩
    · exact ⟨hregs, hstartup⟩
  exact ⟨s3, hs3.1, hs3.2, rfl⟩

theorem mem_insertNat {n m : Nat} {l : List Nat} : m ∈ insertNat n l ↔ m = n ∨ m ∈ l := by
  induction l with
  | nil => simp [insertNat]
  | cons x l ih =>
    unfold insertNat
    split_ifs with h1 h2
    · simp
    · simp [h2]
    · simp [ih, or_left_comm]

/-- What lifting the named fences below `m` leaves (R41). -/
structure Lifted (regions : BitVec 16) (s : State) (m : Nat) (t : State) : Prop where
  fences : ∀ j, t.fenced j = (s.fenced j && !(decide (j < m) && regions.getLsbD j))
  waiting : ∀ j, j < m → s.fenced j = true → regions.getLsbD j = true → j ∈ t.startup.notReady ∧ .fence j ∉ t.startup.chip
  regs : OnlyRegs ([REGION_FENCE] ++ domainRegs) s t

theorem lifted_succ {regions : BitVec 16} {m : Nat} (hm : m < 14) (h : Lifted regions s m t) :
    Lifted regions s (m + 1) (if regions.getLsbD m then liftFence m t else t) := by
  obtain ⟨hfences, hwaiting, hregs⟩ := h
  have hfm : t.fenced m = s.fenced m := by simp [hfences]
  by_cases hm' : regions.getLsbD m = true ∧ t.fenced m = true
  · obtain ⟨hbit, hf⟩ := hm'
    obtain ⟨u, huregs, hustartup, hu⟩ := liftFence_eq hf hm
    have hufence : u.reg REGION_FENCE = clrBit m (t.reg REGION_FENCE) := by
      rw [huregs REGION_FENCE (by decide), setReg_reg_same]
    rw [if_pos hbit, hu]
    refine ⟨fun j => ?_, fun j hj hs hb => ?_, fun a ha => ?_⟩
    · have hj : (endCause (.fence m) u).fenced j = (t.fenced j && decide (j ≠ m)) := by
        rw [State.fenced, State.rbit]
        exact (congrArg (fun w : Word => w.getLsbD j) hufence).trans getLsbD_clrBit
      rw [hj, hfences]
      rcases Nat.lt_trichotomy j m with hlt | rfl | hgt
      · simp [hlt, Nat.lt_succ_of_lt hlt, hlt.ne]
      · simp [hbit]
      · simp [hgt.not_gt, hgt.ne', Nat.not_lt.mpr (Nat.succ_le_of_lt hgt)]
    · have hstartup : (endCause (.fence m) u).startup = { t.startup with notReady := insertNat m t.startup.notReady, chip := t.startup.chip.filter (· ≠ .fence m) } := by
        rw [endCause, hustartup]
      rw [hstartup]
      rcases Nat.lt_succ_iff_lt_or_eq.mp hj with hlt | rfl
      · obtain ⟨h1, h2⟩ := hwaiting j hlt hs hb
        exact ⟨mem_insertNat.mpr (.inr h1), fun hc => h2 (List.mem_of_mem_filter hc)⟩
      · exact ⟨mem_insertNat.mpr (.inl rfl), by simp⟩
    · have ha' : a ≠ REGION_FENCE ∧ a ∉ domainRegs := by simpa using ha
      exact ((huregs a ha'.2).trans (setReg_reg_other ha'.1)).trans (hregs a ha)
  · have hsame : (if regions.getLsbD m then liftFence m t else t) = t := by
      split_ifs with hbit
      · exact liftFence_of_unfenced (by simpa [hbit] using hm')
      · rfl
    rw [hsame]
    refine ⟨fun j => ?_, fun j hj hs hb => ?_, hregs⟩
    · rw [hfences]
      by_cases hj : j = m
      · subst hj
        cases hb : regions.getLsbD j <;> simp_all
      · rw [decide_eq_decide.mpr (show j < m ↔ j < m + 1 by omega)]
    · refine hwaiting j (lt_of_le_of_ne (Nat.lt_succ_iff.mp hj) ?_) hs hb
      rintro rfl
      exact hm' ⟨hb, hfm.trans hs⟩

theorem lifted_all {regions : BitVec 16} : Lifted regions s 14 (forUp (fun r t => if regions.getLsbD r then liftFence r t else t) 0 14 s) := by
  rw [← Nat.zero_add 14]
  refine forUp_induction ⟨fun j => by simp, fun j hj => absurd hj (by omega), .refl⟩ fun j u _ hj hu => ?_
  exact lifted_succ (by omega) hu

end Sys2Proof.Machine
end

/-!
PROOFS of the architecture statements, part 4: regions that come up, and the two statements on faults, O59 and O15.
-/
section
namespace Sys2Proof.Machine

set_option Elab.async false

variable {s t : State} {a r b d k n : Nat}

/-! ### Coming up after a lift -/

theorem forUp_proj {α : Type} {π : State → α} {f : Nat → State → State} {i : Nat} (hf : ∀ j u, π (f j u) = π u) : π (forUp f i n s) = π s := by
  induction n generalizing i s with
  | zero => rfl
  | succ n ih => exact ih.trans (hf i s)

theorem foldl_proj {α β : Type} {π : State → α} {f : State → β → State} {l : List β} (hf : ∀ u x, π (f u x) = π u) : π (l.foldl f s) = π s := by
  induction l generalizing s with
  | nil => rfl
  | cons x l ih => exact ih.trans (hf s x)

/-- The regions waited for. -/
def waitedFor (s : State) : List Nat := s.startup.notReady

theorem waitedFor_ite {c : Prop} [Decidable c] : waitedFor (if c then s else t) = if c then waitedFor s else waitedFor t := apply_ite _ _ _ _

theorem waitedFor_of_kept (h : Kept .startup s t) : waitedFor t = waitedFor s := congrArg Startup.notReady h

theorem dropWrite_waitedFor : waitedFor (dropWrite r b s) = waitedFor s := by
  rw [dropWrite, waitedFor_ite]
  exact ite_self _

theorem dropScWrites_waitedFor {pl : Option Plane} : waitedFor (dropScWrites pl s) = waitedFor s := by
  refine (forUp_proj fun l u => ?_).trans (forUp_proj fun x u => ?_)
  · simp only [waitedFor_ite, dropWrite_waitedFor]
    exact ite_self _
  · simp only [waitedFor_ite, dropWrite_waitedFor]
    exact ite_self _

theorem takeSc_waitedFor {cd : Carried} : waitedFor (takeSc cd s) = waitedFor s := by
  have hloops (pl : Option Plane) (l : Nat) (u : State) : Kept .startup u
      (let c := loopCause pl l
      if c ≠ 0 then (if u.loopState l = 0 then fset (SC_LOOP_STATUS l) SC_LOOP_STATUS.cause c u else deactivate l c u)
      else if u.loopState l ≠ 0 then u
      else if u.fedReady (loopConv l (loopSet pl l)) then startLoop l (loopSet pl l) u
      else fset (SC_LOOP_STATUS l) SC_LOOP_STATUS.cause 0 u) :=
    ite_kept (ite_kept (fset_kept (by decide) (.refl _ u)) (deactivate_kept (by decide) (by decide) (by decide) (.refl _ u)))
      (ite_kept (.refl _ u) (ite_kept (startLoop_kept (by decide) (by decide) (by decide) (.refl _ u)) (fset_kept (by decide) (.refl _ u))))
  calc waitedFor (takeSc cd s) = waitedFor (forUp _ 0 64 _) :=
        forUp_proj fun x u => waitedFor_of_kept (ite_kept (excitationDue_kept (by decide) (by decide) (by decide) (.refl _ u)) (.refl _ u))
    _ = waitedFor (dropScWrites (s.planeOf tgtSc) (installSc (s.planeOf tgtSc) cd s)) := forUp_proj fun l u => waitedFor_of_kept (hloops _ l u)
    _ = waitedFor s := dropScWrites_waitedFor.trans (waitedFor_of_kept (installSc_kept (by decide) (.refl _ s)))

theorem joinDomain_waitedFor {cd : Carried} : waitedFor (joinDomain cd d s) = waitedFor s := by
  have hof {u v : State} (h : Kept .startup u v) (hu : waitedFor u = waitedFor s) : waitedFor v = waitedFor s := (waitedFor_of_kept h).trans hu
  unfold joinDomain
  split_ifs
  · exact hof (takePlane_kept (by decide) (by decide) (by decide) (by decide) (by decide) (.refl _ _)) rfl
  · rfl
  · exact hof (joinLanes_kept (by decide) (by decide) (by decide) (by decide) (.refl _ _)) rfl
  · exact hof (takeMasks_kept (by decide) (by decide) (by decide) (by decide) (by decide) (.refl _ _)) rfl
  · exact takeSc_waitedFor
  · exact hof (installHk_kept (by decide) (.refl _ _)) rfl
  · rfl

/-! ### The gate map of a region that comes up -/

@[simp] theorem setBlk_gates {x : RxBlk} : (setBlk k x s).rx.gates = s.rx.gates := rfl
@[simp] theorem setCell_gates {x : Cell} : (setCell k x s).rx.gates = s.rx.gates := rfl
theorem gates_ite {c : Prop} [Decidable c] : (if c then s else t).rx.gates = if c then s.rx.gates else t.rx.gates := apply_ite (fun u : State => u.rx.gates) _ _ _

theorem gates_of_kept (h : Kept .rx s t) : t.rx.gates = s.rx.gates := congrArg Rx.gates h

theorem noteCheck_gates : (noteCheck k n s).rx.gates = s.rx.gates := by
  simp only [noteCheck, gates_ite, setBlk_gates, ite_self]

theorem nextWindow_gates : (nextWindow k s).rx.gates = s.rx.gates := by
  have hdrop (u : State) : (dropChecks k u).rx.gates = u.rx.gates := gates_of_kept (dropChecks_kept (by decide) (.refl _ u))
  unfold nextWindow
  dsimp only
  rw [hdrop]
  split <;> rfl

theorem fset_gates {f : Fld} {v : Nat} : (fset a f v s).rx.gates = s.rx.gates := rfl

theorem settleBlock_gates {pl : Option Plane} : (settleBlock pl k n s).rx.gates = s.rx.gates := by
  simp only [settleBlock, showRing, fset_gates, noteCheck_gates, gates_ite, nextWindow_gates, setBlk_gates, ite_self]

theorem applyCell_gates {old new : Option Plane} {c : Nat} : (applyCell old new n c s).rx.gates = s.rx.gates := by
  simp only [applyCell, fset_gates, gates_ite, setCell_gates, ite_self]

theorem takePlane_gates {cd : Carried} : (takePlane cd k s).rx.gates = s.rx.gates := by
  have hinstall : (installBlock s.cut.live cd k (showSeq s.cut.live k s)).rx.gates = s.rx.gates :=
    gates_of_kept (installBlock_kept (by decide) (showSeq_kept (by decide) (by decide) (.refl _ s)))
  have hcells {old new : Option Plane} {m : Nat} {u : State} : (forUp (fun i t => applyCell old new m (k * 16 + i) t) 0 16 u).rx.gates = u.rx.gates :=
    forUp_proj (π := fun u : State => u.rx.gates) fun _ _ => applyCell_gates
  rw [takePlane, gates_ite, settleBlock_gates, hcells, hinstall, ite_self]

theorem joinDomain_gates {cd : Carried} : (joinDomain cd d s).rx.gates = s.rx.gates := by
  unfold joinDomain
  split_ifs
  · exact takePlane_gates
  · rfl
  · exact gates_of_kept (joinLanes_kept (by decide) (by decide) (by decide) (by decide) (.refl .rx (rejoinBlock 5 (d - 59) s)))
  · exact gates_of_kept (takeMasks_kept (by decide) (by decide) (by decide) (by decide) (by decide) (.refl _ _))
  · exact gates_of_kept (takeSc_kept (by decide) (by decide) (by decide) (by decide) (by decide) (by decide) (.refl _ _))
  · exact gates_of_kept (installHk_kept (by decide) (.refl _ _))
  · rfl

/-! ### A region that reports ready -/

theorem regionReady_takes {r : Fin 16} (h : r.val ∈ s.startup.notReady) (hd : ∀ d ∈ regionDomains r, s.domOn d = true → s.domGood d = true) :
    ∃ t, exec (.regionReady r) s = .next t ∧ t.startup.notReady = s.startup.notReady.filter (· ≠ r.val) ∧
      (8 ≤ r.val → t.rx.gates = (reloadGates (tableOf s.cut.live 0x00FFFF00 0x0303) (r.val - 8) s).rx.gates) := by
  have hgo : (s.startup.notReady.contains r.val && (regionDomains r).all fun d => !s.domOn d || s.domGood d) = true := by
    simp only [Bool.and_eq_true, List.contains_iff_mem, List.all_eq_true, Bool.or_eq_true, Bool.not_eq_true']
    refine ⟨h, fun d hmem => ?_⟩
    cases hon : s.domOn d
    · exact .inl rfl
    · exact .inr (hd d hmem hon)
  refine ⟨_, rfl, ?_⟩
  dsimp only
  rw [if_pos hgo]
  constructor
  · refine (foldl_proj (π := waitedFor) fun u d => ?_).trans ?_
    · rw [waitedFor_ite, joinDomain_waitedFor, ite_self]
    · split_ifs <;> rfl
  · intro h8
    refine (foldl_proj (π := fun u : State => u.rx.gates) fun u d => ?_).trans ?_
    · rw [gates_ite, joinDomain_gates, ite_self]
    · rw [if_pos h8]
      rfl

/-! ### The obligations -/

theorem takes_fence (h : s.answers = true) : s.takes REGION_FENCE := by
  refine ⟨h, ?_⟩
  rw [State.targetStatus, if_pos (by decide)]

theorem regionFenceLift_takes {q : Requester} {regions : BitVec 16} (h : s.answers = true) (hmode : s.mode = .configured) :
    ∃ t, exec (.regionFenceLift q regions) s = .next t ∧ (t.req q).status = 0 ∧ Lifted regions s 14 t := by
  obtain ⟨hfences, hwaiting, hregs⟩ := lifted_all (s := s) (regions := regions)
  refine ⟨_, congrArg Host.Outcome.next (hostWriteIf_takes (takes_fence h) (decide_eq_true hmode)), ?_, hfences, hwaiting, hregs⟩
  rw [completeOk_eq, setReq_req_same]

theorem faultEscalation_block {r : Fin 16} {b : Fin 8} {c : Fin 16} (h : fenceable r = true) :
    exec (.faultEscalation r (some b) (some c)) s = .next (isolateHere r b s) := by
  refine congrArg Host.Outcome.next ?_
  rw [if_neg (by rw [h]; decide)]

theorem faultEscalation_region {r : Fin 16} {b : Fin 8} (h : fenceable r = true) : exec (.faultEscalation r (some b) none) s = .next (fence r s) := by
  refine congrArg Host.Outcome.next ?_
  rw [if_neg (by rw [h]; decide)]

theorem faultEscalation_chip {r : Fin 16} (h : fenceable r = true) :
    exec (.faultEscalation r none none) s = .next (chipReaction (.fence r) r REGION_FENCE (fence r s)) := by
  refine congrArg Host.Outcome.next ?_
  rw [if_neg (by rw [h]; decide)]

theorem handshakeTimeout_fences {r : Fin 16} (h : fenceable r = true) : exec (.handshakeTimeout r) s = .next (fence r s) := by
  have h2 : r.val ≠ 2 := by
    rintro h2
    rw [h2] at h
    exact absurd h (by decide)
  refine congrArg Host.Outcome.next ?_
  rw [if_neg h2]

theorem Reacted.mode_ne {c : ChipCause} (h : Reacted c s t) : t.mode ≠ .armed ∧ t.mode ≠ .run := by
  obtain ⟨-, -, -, hmode⟩ := h
  rw [hmode]
  split_ifs <;> simp_all

/-- An access to SF that it did not acknowledge ends as one to a fenced region (R540, R548). -/
theorem sfSilent_read {q : Requester} (h : s.answers = true) (hs : s.mgmt.sfSilent = true) :
    ∃ t, exec (.mgmtTransaction q (BitVec.ofNat 32 SF_STATUS) 0 0) s = .next t ∧ (t.req q).status = 6 ∧ (t.req q).data = 0 ∧ t.mgmt.sfSilent = false := by
  have h6 : s.targetStatus SF_STATUS = 6 := by
    rw [State.targetStatus, if_neg (by decide), if_pos (by rw [hs]; simp [SF_STATUS, baseSf])]
  have hread : transact q (BitVec.ofNat 32 SF_STATUS) 0 (0 : Fin 3) s = complete q 6 SF_STATUS 0 s := by
    rw [transact_read (by decide) (by decide), readReg_blocked h (by decide) (by rw [h6]; decide), h6]
  obtain ⟨hstatus, hdata⟩ := complete_req (s := s) (q := q) (st := 6) (addr := SF_STATUS) (w := 0)
  refine ⟨_, congrArg Host.Outcome.next hread, hstatus, hdata, ?_⟩
  rw [complete, if_pos (show 6 = 6 ∧ SF_STATUS / 0x1000000 % 16 = 2 by decide)]
  rfl

/-- Settles O59: a fence sets its own bit of REGION_FENCE only, and every reaction leaves its cause. -/
theorem faultsOfRegionsTakeEffect : Obligations.FaultsOfRegionsTakeEffect := by
  intro q r b c regions s fencing
  have hfence (h : fenceable r = true) : fencing (fence r s) := ⟨fence_fenced h, fun j _ hj => fence_fenced_other h hj⟩
  refine ⟨fun h => ⟨⟨_, handshakeTimeout_fences h, hfence h⟩, ⟨_, rfl, hfence h⟩, ⟨_, faultEscalation_block h, isolateHere_isolated, ?_⟩,
    ⟨_, faultEscalation_region h, hfence h⟩, _, faultEscalation_chip h, ?_, chipReaction_reacted.1⟩, ⟨_, rfl, rfl, rfl⟩, sfSilent_read,
    ⟨_, rfl, chipReaction_reacted.1, chipReaction_reacted.mode_ne⟩, ⟨_, rfl, chipReaction_reacted.1, chipReaction_reacted.mode_ne⟩, fun h hmode => ?_,
    fun h hd => ?_⟩
  · exact congrArg Prod.fst (isolateHere_calm (by decide))
  · exact ⟨chipReaction_calm_fenced.trans (hfence h).1, fun j hj hne => chipReaction_calm_fenced.trans ((hfence h).2 j hj hne)⟩
  · obtain ⟨t, ht, hstatus, hfences, -⟩ := regionFenceLift_takes (q := q) (regions := regions) h hmode
    exact ⟨t, ht, hstatus, fun j hj => by rw [hfences, decide_eq_true hj, Bool.true_and]⟩
  · obtain ⟨t, ht, hready, -⟩ := regionReady_takes h hd
    refine ⟨t, ht, ?_, fun j hj => ?_⟩ <;> rw [hready] <;> simp_all

theorem Reacted.trans {c c' : ChipCause} {u : State} (h : Reacted c s t) (h' : Reacted c' t u) : Reacted c' s u := by
  obtain ⟨-, hcauses, -, hmode⟩ := h
  obtain ⟨hc, hcauses', hsince, hmode'⟩ := h'
  refine ⟨hc, fun x hx => hcauses' x (hcauses x hx), hsince, ?_⟩
  rw [hmode', hmode]
  cases s.mode <;> rfl

theorem fenceable_cases (h : fenceable r = true) : (r = 1 ∨ r = 3 ∨ r = 4 ∨ r = 5) ∨ (r = 6 ∨ 8 ≤ r) := by
  simp only [fenceable, isRegion, Bool.and_eq_true, decide_eq_true_eq, ne_eq] at h
  omega

/-- The reaction of a region that is late comes on top of its fence. -/
theorem chipReaction_fence_reacted (h : fenceable r = true) {x y : Nat} : Reacted (.fence r) s (chipReaction (.fence r) x y (fence r s)) := by
  cases hs : s.fenced r
  · rcases fenceable_cases h with hr | hr
    · exact (fence_reacted h hs hr).trans chipReaction_reacted
    · exact chipReaction_reacted.of_mode_startup (fence_kept_of_no_reaction h hs hr (.inl rfl)) (fence_kept_of_no_reaction h hs hr (.inr rfl))
  · rw [fence_of_fenced hs]
    exact chipReaction_reacted

theorem isolateHere_mode : (isolateHere r b s).mode = s.mode :=
  isolateHere_kept (p := .mode) (by decide) (by decide) (by decide) (by decide) (by decide) (by decide) (by decide) (.refl _ s)

theorem isolateHere_eq (hs : s.isolated r b = false) (hr : r = 1 ∨ r = 6 ∨ 8 ≤ r) :
    isolateHere r b s = { s with startup := { s.startup with isolated := s.startup.isolated ++ [r * 256 + b] } } := by
  rw [isolateHere, if_neg (by omega), if_neg (by omega), if_neg (by omega), isolateBlock, if_neg (by rw [← State.isolated, hs]; decide)]

/-- Settles O15: the fence freezes the summary words, sets its bit and takes the reaction of its region; a lift undoes it region by region. -/
theorem faultsAreContainedFencedAndLifted : Obligations.FaultsAreContainedFencedAndLifted := by
  intro q r b c regions s fencing
  have hfence (h : fenceable r = true) (hs : s.fenced r = false) : fencing (fence r s) :=
    ⟨fence_fenced h, fun _ hj => fence_fenced_other h hj, fun _ ha => fence_frozen h hs ha, fun hr => fence_reacted h hs (by omega),
      fun hr => ⟨fence_kept_of_no_reaction h hs (by omega) (.inl rfl), fence_kept_of_no_reaction h hs (by omega) (.inr rfl)⟩⟩
  refine ⟨fun h hs => ⟨⟨_, handshakeTimeout_fences h, hfence h hs⟩, ⟨_, rfl, hfence h hs⟩, _, faultEscalation_region h, hfence h hs⟩, ?_,
    ⟨_, rfl, chipReaction_reacted⟩, ⟨_, rfl, chipReaction_reacted⟩, fun h hs hr => ?_, fun h => ⟨_, faultEscalation_block h, isolateHere_isolated, isolateHere_mode⟩,
    fun h => ⟨_, faultEscalation_chip h, chipReaction_calm_fenced.trans (fence_fenced h), chipReaction_fence_reacted h⟩, fun h hmode => ?_, regionReady_takes⟩
  · rintro rfl
    rfl
  · rw [faultEscalation_block h, isolateHere_eq hs (by omega)]
  · obtain ⟨t, ht, hstatus, hfences, hwaiting, hregs⟩ := regionFenceLift_takes (q := q) (regions := regions) h hmode
    refine ⟨t, ht, hstatus, fun j hj => ?_, hwaiting, hregs⟩
    rw [hfences, decide_eq_true hj, Bool.true_and]

end Sys2Proof.Machine
end

/-!
PROOFS of the architecture statements, part 5: what a swap writes in the quiet registers (R65, R69 to R72), and the words of registers in a row.
-/
section
namespace Sys2Proof.Machine

set_option Elab.async false

variable {s t : State} {a b r i n : Nat}

/-! ### Registers in a row -/

theorem setRegs_reg_other {ws : List Word} (h : b < a ∨ a + 4 * ws.length ≤ b) : (setRegs a ws s).reg b = s.reg b := by
  induction ws generalizing a s with
  | nil => rfl
  | cons w ws ih =>
    simp only [List.length_cons] at h
    rw [setRegs, ih (by omega), setReg_reg_other (by omega)]

theorem setRegs_reg_at {ws : List Word} {w : Word} (h : ws[i]? = some w) : (setRegs a ws s).reg (a + 4 * i) = w := by
  induction ws generalizing a s i with
  | nil => simp at h
  | cons x ws ih =>
    cases i with
    | zero =>
      rw [setRegs, setRegs_reg_other (by omega), Nat.mul_zero, Nat.add_zero, setReg_reg_same]
      simpa using h
    | succ i =>
      rw [setRegs, show a + 4 * (i + 1) = a + 4 + 4 * i by omega]
      exact ih (by simpa using h)

theorem regsFrom_get (h : i < n) : (s.regsFrom a n)[i]? = some (s.reg (a + 4 * i)) := by
  induction n generalizing a i with
  | zero => omega
  | succ n ih =>
    cases i with
    | zero => rfl
    | succ i =>
      rw [State.regsFrom, List.getElem?_cons_succ, ih (by omega)]
      congr 2
      omega

/-! ### What a swap writes -/

theorem setReg_calm_congr {v : Word} (h : calm a s = calm a t) : calm a (setReg r v s) = calm a (setReg r v t) := by
  have hreg : s.reg a = t.reg a := congrArg Prod.fst h
  have hrest : (s.mgmt.frozen, s.clock) = (t.mgmt.frozen, t.clock) := congrArg Prod.snd h
  refine Prod.ext ?_ hrest
  show (setReg r v s).reg a = (setReg r v t).reg a
  rw [setReg_reg, setReg_reg, hreg]

theorem setRegs_calm_congr {ws : List Word} (h : calm a s = calm a t) : calm a (setRegs r ws s) = calm a (setRegs r ws t) := by
  induction ws generalizing r s t with
  | nil => exact h
  | cons w ws ih => exact ih (setReg_calm_congr h)

theorem fset_calm_congr {f : Fld} {v : Nat} (h : calm a s = calm a t) : calm a (fset r f v s) = calm a (fset r f v t) := by
  have hreg : s.reg a = t.reg a := congrArg Prod.fst h
  have hrest : (s.mgmt.frozen, s.clock) = (t.mgmt.frozen, t.clock) := congrArg Prod.snd h
  refine Prod.ext ?_ hrest
  show (fset r f v s).reg a = (fset r f v t).reg a
  rw [fset_reg, fset_reg]
  split_ifs with e
  · rw [← e, hreg]
  · exact hreg

/-- The digest of the plane that a swap makes live. -/
def State.swapDigest (s : State) : List Word := if s.cut.romNext then sha256 (canonWords romPlane) else s.regsFrom (SHADOW_DIGEST 0) 8

/-- The quiet registers of a swap (R65, R72): LIVE_EPOCH, LIVE_DIGEST, CUT_STATUS, and SHADOW_DIGEST of the plane that is live now. -/
def State.swapWrites (s : State) : State :=
  let live := fset CUT_STATUS CUT_STATUS.live_present 1 (setRegs (LIVE_DIGEST 0) s.swapDigest (setReg LIVE_EPOCH (s.reg LIVE_EPOCH + 1) s))
  if s.cut.romNext then live else setShadow 6 (setRegs (SHADOW_DIGEST 0) (List.replicate 8 0) live)

theorem beginSwap_calm (h : quiet a = true) : calm a (beginSwap i s) = calm a s.swapWrites := by
  unfold beginSwap
  extract_lets rom old new digest keys cut s1 s2 cal fw s3 on keep hk s4 s5 away
  have h1 : calm a s1 = calm a s := calm_mk rfl rfl
  have h2 : calm a s2 = calm a (fset CUT_STATUS CUT_STATUS.live_present 1 (setRegs (LIVE_DIGEST 0) s.swapDigest (setReg LIVE_EPOCH (s.reg LIVE_EPOCH + 1) s))) := by
    rw [setReg_calm h quiet_CUT_REGION_MASK]
    exact fset_calm_congr (setRegs_calm_congr (setReg_calm_congr h1))
  have h3 : calm a s3 = calm a s.swapWrites := by
    change calm a (if s.cut.romNext = true then _ else _) = calm a (if s.cut.romNext = true then _ else _)
    split_ifs
    · exact (forUp_calm fun _ _ => setBlk_calm).trans ((calm_mk rfl rfl).trans h2)
    · exact fset_calm_congr (setRegs_calm_congr (setFw_calm.trans h2))
  have h5 : calm a s5 = calm a s3 := by
    simp [s5, s4]
  simp [h, h3, h5]

theorem setReg_calm_other {v : Word} (h : a ≠ r) : calm a (setReg r v s) = calm a s := calm_ext (setReg_reg_other h) rfl rfl

theorem setRegs_calm_other {ws : List Word} (h : a < r) : calm a (setRegs r ws s) = calm a s := by
  induction ws generalizing r s with
  | nil => rfl
  | cons w ws ih => exact (ih (by omega)).trans (setReg_calm_other h.ne)

/-- What lies below the registers of the Cut stands through a swap. -/
theorem beginSwap_calm_low (h : quiet a = true) (hlow : a < CUT_STATUS) : calm a (beginSwap i s) = calm a s := by
  have hepoch : a < LIVE_EPOCH := hlow.trans (by decide)
  have hlive : a < LIVE_DIGEST 0 := hlow.trans (by decide)
  have hshadow : a < SHADOW_DIGEST 0 := hlow.trans (by decide)
  have hwrites : calm a (fset CUT_STATUS CUT_STATUS.live_present 1 (setRegs (LIVE_DIGEST 0) s.swapDigest (setReg LIVE_EPOCH (s.reg LIVE_EPOCH + 1) s))) = calm a s :=
    (setReg_calm_other hlow.ne).trans ((setRegs_calm_other hlive).trans (setReg_calm_other hepoch.ne))
  rw [beginSwap_calm h, State.swapWrites, calm_ite]
  split_ifs
  · exact hwrites
  · exact (setReg_calm_other hlow.ne).trans ((setRegs_calm_other hshadow).trans hwrites)

end Sys2Proof.Machine
end

/-!
PROOFS of the architecture statements, part 6: the events of the clock and the frames (R24 to R27), O56 and O14.
-/
section
namespace Sys2Proof.Machine

set_option Elab.async false

variable {s t : State} {a k r n : Nat}

@[simp] theorem latchCensus_calm {ids : List (Word × Word)} (h : quiet a = true) : calm a (latchCensus ids k s) = calm a s := by
  simp [latchCensus, h]

/-- The frame boundary instant is noted (R26, R27). -/
def State.frameMarked (s : State) : State :=
  fset TIME_STATUS TIME_STATUS.frame_sync_present 1 (setReg64 FRAME_EDGE_LO s.now (setReg FRAME_NUM (s.reg FRAME_NUM + 1)
    { s with time := { s.time with limitFrom := s.now, period := if s.time.edgeSeen then some (s.now - s.frameEdge) else s.time.period, edgeSeen := true } }))

/-- What a frame boundary notes in the timebase's registers stands through all that follows in the same instant. -/
theorem frameBoundary_calm (h : quiet a = true) (hlow : a < CUT_STATUS) : calm a (frameBoundary s) = calm a s.frameMarked := by
  unfold frameBoundary
  extract_lets i n period time s1 s2 s3 ids swapped reload s4 fw u s5 s6 s7 s8 s9
  have h3 : calm a s3 = calm a s2 := by
    simp [s3, h]
  have h4 : calm a s4 = calm a s3 := by
    simp only [s4, calm_ite, beginSwap_calm_low h hlow, forUp_calm fun _ _ => commitBefore_calm h, ite_self]
  have h5 : calm a s5 = calm a s4 := by
    have hu : calm a u = calm a s4 := setFw_calm
    unfold s5
    split_ifs
    · exact (startShooting_calm h).trans ((calm_mk rfl rfl).trans hu)
    · exact hu
    · rfl
  have h7 : calm a s7 = calm a s5 := by
    simp [s7, s6, h]
  have h9 : calm a s9 = calm a s7 := by
    simp [s9, s8, h]
  calc calm a (refreshSkew (forUp (latchCensus ids) 0 48 s9)) = calm a s9 := by simp [h]
    _ = calm a s2 := h9.trans (h7.trans (h5.trans (h4.trans h3)))

theorem frameBoundary_reg (h : quiet a = true) (hlow : a < CUT_STATUS) : (frameBoundary s).reg a = s.frameMarked.reg a :=
  congrArg Prod.fst (frameBoundary_calm h hlow)

theorem frameBoundary_frameNum : (frameBoundary s).reg FRAME_NUM = s.reg FRAME_NUM + 1 := by
  rw [frameBoundary_reg (by decide) (by decide), State.frameMarked, fset_reg, if_neg (show FRAME_NUM ≠ TIME_STATUS by decide), setReg64, setReg_reg_other (by decide),
    setReg_reg_other (by decide), setReg_reg_same]

theorem setReg64_reg64 {v : Nat} (h : v < 2 ^ 64) : (setReg64 a v s).reg64 a = v := by
  rw [State.reg64, setReg64, setReg_reg_same, setReg_reg_other (by omega), setReg_reg_same, w32, w32, BitVec.toNat_ofNat, BitVec.toNat_ofNat]
  omega

theorem frameBoundary_frameEdge : (frameBoundary s).frameEdge = s.now := by
  rw [State.frameEdge, State.reg64, frameBoundary_reg (by decide) (by decide), frameBoundary_reg (by decide) (by decide), State.frameMarked, fset_reg, fset_reg,
    if_neg (show FRAME_EDGE_LO ≠ TIME_STATUS by decide), if_neg (show FRAME_EDGE_LO + 4 ≠ TIME_STATUS by decide)]
  exact setReg64_reg64 s.time.tbase.isLt

theorem frameBoundary_present : (frameBoundary s).fget TIME_STATUS TIME_STATUS.frame_sync_present = 1 := by
  rw [State.fget, frameBoundary_reg (by decide) (by decide)]
  exact fset_fget_same (by decide)

theorem frameBoundary_clock : (frameBoundary s).clock = { s.clock with
    limitFrom := s.now, period := if s.time.edgeSeen then some (s.now - s.frameEdge) else s.time.period, edgeSeen := true } :=
  congrArg (·.2.2) (frameBoundary_calm (a := FRAME_NUM) (by decide) (by decide))

theorem frameBoundary_tbase : (frameBoundary s).time.tbase = s.time.tbase := by
  change (frameBoundary s).clock.tbase = s.clock.tbase
  rw [frameBoundary_clock]

/-! ### Pixels in progress while an island departs -/

/-- A pixel in progress since the departure is suspect (R24). -/
def Pixel.suspect (now ns : Nat) (p : Pixel) : Pixel := if p.inProgress && decide (now ≤ p.start + ns) then { p with flags := p.flags ||| pfTime } else p

/-- The pixels of a block whose island departed. -/
def RxBlk.suspect (now ns : Nat) (b : RxBlk) : RxBlk := { b with bufX := b.bufX.map (Pixel.suspect now ns), bufY := b.bufY.map (Pixel.suspect now ns) }

theorem forUp_blk {f : Nat → State → State} {g : RxBlk → RxBlk} {i : Nat} (hf : ∀ j u m, (f j u).blk m = if m = j then g (u.blk j) else u.blk m) :
    (forUp f i n s).blk k = if i ≤ k ∧ k < i + n then g (s.blk k) else s.blk k := by
  induction n generalizing i s with
  | zero => rw [if_neg (by omega)]; rfl
  | succ n ih =>
    rw [forUp, ih, hf]
    rcases Nat.lt_trichotomy k i with h | rfl | h
    · rw [if_neg (by omega), if_neg (by omega), if_neg (by omega)]
    · rw [if_neg (by omega), if_pos rfl, if_pos (by omega)]
    · rw [if_neg (show ¬ k = i by omega)]
      exact if_congr (by omega) rfl rfl

theorem RxBlk.suspect_of_empty {b : RxBlk} {now ns : Nat} (hx : b.bufX = none) (hy : b.bufY = none) : b.suspect now ns = b := by
  cases b
  simp_all [RxBlk.suspect]

theorem suspectSince_blk {ns : Nat} : (suspectSince r ns s).blk k = if 8 ≤ r ∧ r < 14 ∧ rxRegion k = r then (s.blk k).suspect s.now ns else s.blk k := by
  unfold suspectSince rxRegion
  dsimp only
  by_cases hr : 8 ≤ r ∧ r < 14
  · rw [if_pos hr, forUp_blk (g := RxBlk.suspect s.now ns)]
    · exact if_congr (by omega) rfl rfl
    · intro j u m
      split_ifs with hnone hm hm
      · rw [Bool.and_eq_true, Option.isNone_iff_eq_none, Option.isNone_iff_eq_none] at hnone
        rw [hm, RxBlk.suspect_of_empty hnone.1 hnone.2]
      · rfl
      · rw [hm, setBlk_blk_same]
        rfl
      · rw [setBlk_blk, if_neg hm]
  · rw [if_neg hr, if_neg (by omega)]

/-! ### An alignment word -/

/-- One island that departs (R24). -/
def alignStep (s : State) (d : Fin 16 × BitVec 10) : State :=
  if isRegion d.1 then suspectSince d.1 d.2.toNat (fset TIME_STATUS TIME_STATUS.skew_region d.1 (flag TIME_STATUS TIME_STATUS.skew_event s)) else s

theorem alignmentWord_eq {l : List (Fin 16 × BitVec 10)} (h : s.time.running = true) : exec (.alignmentWord l) s = .next (l.foldl alignStep s) := by
  refine congrArg Host.Outcome.next ?_
  rw [if_neg (by rw [h]; decide)]
  rfl

theorem alignStep_kept {p : Part} {b : State} {d : Fin 16 × BitVec 10} (hregs : p ≠ .regs) (hmgmt : p ≠ .mgmt) (hrx : p ≠ .rx) (k : Kept p b s) :
    Kept p b (alignStep s d) :=
  ite_kept (suspectSince_kept hrx (fset_kept hregs (flag_kept hregs hmgmt k))) k

theorem alignStep_reg {d : Fin 16 × BitVec 10} (h : isRegion d.1 = true) : (alignStep s d).reg a =
    (fset TIME_STATUS TIME_STATUS.skew_region d.1 (flag TIME_STATUS TIME_STATUS.skew_event s)).reg a := by
  rw [alignStep, if_pos h]
  exact congrArg (look regReset · a) (suspectSince_kept (p := .regs) (by decide) (.refl _ _))

theorem alignStep_time_status {d : Fin 16 × BitVec 10} (h : isRegion d.1 = true) :
    (alignStep s d).reg TIME_STATUS = setF TIME_STATUS.skew_region d.1 (setBit TIME_STATUS.skew_event.lo (s.reg TIME_STATUS)) := by
  rw [alignStep_reg h, fset_reg, if_pos rfl, flag_reg_same (by decide) (by decide)]

theorem alignStep_skew {d : Fin 16 × BitVec 10} :
    (alignStep s d).rbit TIME_STATUS TIME_STATUS.skew_event.lo = (s.rbit TIME_STATUS TIME_STATUS.skew_event.lo || isRegion d.1) := by
  cases h : isRegion d.1
  · rw [alignStep, if_neg (by rw [h]; decide), Bool.or_false]
  · rw [State.rbit, alignStep_time_status h, testBit_setF (by decide), if_neg (by decide), getLsbD_setBit (by decide), Bool.or_true]

theorem foldl_alignStep_skew {l : List (Fin 16 × BitVec 10)} : (l.foldl alignStep s).rbit TIME_STATUS TIME_STATUS.skew_event.lo =
    (s.rbit TIME_STATUS TIME_STATUS.skew_event.lo || l.any (fun d => isRegion d.1)) := by
  induction l generalizing s with
  | nil => simp
  | cons d l ih => rw [List.foldl_cons, ih, alignStep_skew, List.any_cons, Bool.or_assoc]

theorem foldl_alignStep_kept {p : Part} {l : List (Fin 16 × BitVec 10)} (hregs : p ≠ .regs) (hmgmt : p ≠ .mgmt) (hrx : p ≠ .rx) :
    Kept p s (l.foldl alignStep s) :=
  foldl_kept (fun _ _ k => alignStep_kept hregs hmgmt hrx k) (.refl p s)

theorem alignStep_onlyRegs {d : Fin 16 × BitVec 10} : OnlyRegs [TIME_STATUS, REC_LOST, REC_STATUS] s (alignStep s d) := by
  intro a ha
  obtain ⟨h1, h2, h3⟩ : a ≠ TIME_STATUS ∧ a ≠ REC_LOST ∧ a ≠ REC_STATUS := by simpa using ha
  cases h : isRegion d.1
  · rw [alignStep, if_neg (by rw [h]; decide)]
  · rw [alignStep_reg h, fset_reg, if_neg h1, flag_reg h1 h2 h3]

/-! ### The reference clock -/

theorem refclkLoss_eq (hrun : s.time.running = true) (h : s.fget TIME_STATUS TIME_STATUS.holdover = 0) : exec .refclkLoss s = .next
    (chipReaction .refclk 0 TIME_STATUS (flag TIME_STATUS TIME_STATUS.refclk_lost (fsets TIME_STATUS [(TIME_STATUS.holdover, 1), (TIME_STATUS.locked, 0)] s))) := by
  refine congrArg Host.Outcome.next ?_
  rw [if_pos (by rw [hrun, h]; rfl)]

theorem refclkLoss_time_status {x y : Nat} : (chipReaction .refclk x y (flag TIME_STATUS TIME_STATUS.refclk_lost
    (fsets TIME_STATUS [(TIME_STATUS.holdover, 1), (TIME_STATUS.locked, 0)] s))).reg TIME_STATUS =
      setBit TIME_STATUS.refclk_lost.lo (setF TIME_STATUS.locked 0 (setF TIME_STATUS.holdover 1 (s.reg TIME_STATUS))) := by
  rw [reg_of_calm (chipReaction_calm (by decide)), flag_reg_same (by decide) (by decide), fsets_reg, if_pos rfl]
  rfl

theorem getF_setBit {f : Fld} {w : Word} (h : n < f.lo ∨ f.lo + f.width ≤ n) : getF f (setBit n w) = getF f w := by
  refine Nat.eq_of_testBit_eq fun i => ?_
  rw [testBit_getF, testBit_getF]
  by_cases hi : i < f.width
  · rw [getLsbD_setBit_other (by omega)]
  · simp [hi]

theorem clock_of_kept (h : Kept .time s t) : t.clock = s.clock := congrArg (fun c : Timebase => { c with changes := [] }) h

theorem time_of_clock (h : t.clock = s.clock) : t.time = { s.time with changes := t.time.changes } := by
  calc t.time = { t.clock with changes := t.time.changes } := rfl
    _ = { s.time with changes := t.time.changes } := by rw [h]; rfl

theorem refclkLoss_takes (hrun : s.time.running = true) (h : s.fget TIME_STATUS TIME_STATUS.holdover = 0) : ∃ t, exec .refclkLoss s = .next t ∧
    Reacted .refclk s t ∧ t.rbit TIME_STATUS TIME_STATUS.refclk_lost.lo = true ∧ t.fget TIME_STATUS TIME_STATUS.holdover = 1 ∧
      t.fget TIME_STATUS TIME_STATUS.locked = 0 ∧ t.clock = s.clock ∧ OnlyParts [.mode, .regs, .time, .mgmt, .startup, .cal, .rx, .tx, .pairSt, .fw] s t := by
  refine ⟨_, refclkLoss_eq hrun h, ?_, ?_, ?_, ?_, ?_, ?_⟩
  · exact chipReaction_reacted.of_mode_startup (flag_kept (p := .mode) (by decide) (by decide) (fsets_kept (by decide) (.refl _ s)))
      (flag_kept (p := .startup) (by decide) (by decide) (fsets_kept (by decide) (.refl _ s)))
  · rw [State.rbit, refclkLoss_time_status, getLsbD_setBit (by decide)]
  · rw [State.fget, refclkLoss_time_status, getF_setBit (by decide), getF_setF_other (by decide), getF_setF_same (by decide)]
    rfl
  · rw [State.fget, refclkLoss_time_status, getF_setBit (by decide), getF_setF_same (by decide)]
    rfl
  · exact (clock_of_calm (a := FRAME_NUM) (chipReaction_calm (by decide))).trans
      (clock_of_kept (flag_kept (by decide) (by decide) (fsets_kept (by decide) (.refl _ s))))
  · exact fun p hp => chipReaction_kept (ne_of_untouched hp) (ne_of_untouched hp) (ne_of_untouched hp) (ne_of_untouched hp) (ne_of_untouched hp)
      (ne_of_untouched hp) (ne_of_untouched hp) (ne_of_untouched hp) (ne_of_untouched hp) (ne_of_untouched hp)
      (flag_kept (ne_of_untouched hp) (ne_of_untouched hp) (fsets_kept (ne_of_untouched hp) (.refl p s)))

theorem refclkReturn_eq (h : s.fget TIME_STATUS TIME_STATUS.holdover = 1) : exec .refclkReturn s =
    .next (endCause .refclk (fsets TIME_STATUS [(TIME_STATUS.holdover, 0), (TIME_STATUS.locked, 1)] s)) := by
  refine congrArg Host.Outcome.next ?_
  rw [if_pos h]

/-! ### Frames -/

theorem frameSyncEdge_eq (hrun : s.time.running = true) : exec .frameSyncEdge s = .next (frameBoundary s) := by
  refine congrArg Host.Outcome.next ?_
  rw [if_pos hrun]

/-- The frame limit has passed without an edge (R27). -/
def State.limitPassed (s : State) : State :=
  flag TIME_STATUS TIME_STATUS.frame_sync_lost (fset TIME_STATUS TIME_STATUS.frame_sync_present 0
    { s with time := { s.time with limitFrom := s.time.limitFrom + s.frameLimit } })

theorem frameLimitExpiry_eq (hrun : s.time.running = true) (h : s.time.limitFrom + s.frameLimit ≤ s.now) : exec .frameLimitExpiry s = .next
    (if s.limitPassed.shooting && !s.limitPassed.placing then fset TX_SCHED_STATUS TX_SCHED_STATUS.frame_wait 1 s.limitPassed else s.limitPassed) := by
  refine congrArg Host.Outcome.next ?_
  rw [if_pos (by rw [hrun, decide_eq_true h]; rfl)]
  rfl

theorem limitPassed_kept {p : Part} (hregs : p ≠ .regs) (hmgmt : p ≠ .mgmt) (htime : p ≠ .time) : Kept p s s.limitPassed :=
  flag_kept hregs hmgmt (fset_kept hregs (mk_kept (.refl p s)))

theorem limitPassed_time : s.limitPassed.time = { s.time with limitFrom := s.time.limitFrom + s.frameLimit } :=
  flag_kept (p := .time) (by decide) (by decide) (.refl _ _)

theorem limitPassed_reg : s.limitPassed.reg TIME_STATUS = setBit TIME_STATUS.frame_sync_lost.lo (setF TIME_STATUS.frame_sync_present 0 (s.reg TIME_STATUS)) := by
  rw [State.limitPassed, flag_reg_same (by decide) (by decide), fset_reg, if_pos rfl]
  rfl

theorem limitPassed_reg_other (h : a ∉ [TIME_STATUS, REC_LOST, REC_STATUS]) : s.limitPassed.reg a = s.reg a := by
  obtain ⟨h1, h2, h3⟩ : a ≠ TIME_STATUS ∧ a ≠ REC_LOST ∧ a ≠ REC_STATUS := by simpa using h
  rw [State.limitPassed, flag_reg h1 h2 h3, fset_reg, if_neg h1]
  rfl

theorem limitPassed_shooting : s.limitPassed.shooting = s.shooting := by
  have hmode : s.limitPassed.mode = s.mode := limitPassed_kept (p := .mode) (by decide) (by decide) (by decide)
  rw [State.shooting, State.shooting, State.fget, limitPassed_reg_other (by decide), hmode]
  rfl

theorem limitPassed_placing : s.limitPassed.placing = s.placing :=
  congrArg (fun x : Tx => x.seqs.any fun e => e.2.placing) (limitPassed_kept (p := .tx) (by decide) (by decide) (by decide))

theorem frameLimitExpiry_takes (hrun : s.time.running = true) (h : s.time.limitFrom + s.frameLimit ≤ s.now) : ∃ t, exec .frameLimitExpiry s = .next t ∧
    t.fget TIME_STATUS TIME_STATUS.frame_sync_present = 0 ∧ t.rbit TIME_STATUS TIME_STATUS.frame_sync_lost.lo = true ∧
      t.time = { s.time with limitFrom := s.time.limitFrom + s.frameLimit } ∧
      (s.shooting = true → s.placing = false → t.fget TX_SCHED_STATUS TX_SCHED_STATUS.frame_wait = 1) ∧
      OnlyRegs [TIME_STATUS, TX_SCHED_STATUS, REC_LOST, REC_STATUS] s t ∧ OnlyParts [.regs, .mgmt, .time] s t := by
  rw [frameLimitExpiry_eq hrun h, limitPassed_shooting, limitPassed_placing]
  refine ⟨_, rfl, ?_⟩
  have hreg (b : Nat) (hb : b ≠ TX_SCHED_STATUS) :
      (if s.shooting && !s.placing then fset TX_SCHED_STATUS TX_SCHED_STATUS.frame_wait 1 s.limitPassed else s.limitPassed).reg b = s.limitPassed.reg b := by
    split_ifs
    · rw [fset_reg, if_neg hb]
    · rfl
  refine ⟨?_, ?_, ?_, fun h1 h2 => ?_, fun b hb => ?_, fun p hp => ?_⟩
  · rw [State.fget, hreg _ (by decide), limitPassed_reg, getF_setBit (by decide), getF_setF_same (by decide)]
    rfl
  · rw [State.rbit, hreg _ (by decide), limitPassed_reg, getLsbD_setBit (by decide)]
  · rw [← limitPassed_time]
    split_ifs <;> rfl
  · rw [if_pos (by rw [h1, h2]; rfl), fset_fget_same (by decide)]
    rfl
  · simp only [List.mem_cons, List.not_mem_nil, or_false, not_or] at hb
    rw [hreg b hb.2.1, limitPassed_reg_other (by simp [hb])]
  · have k := limitPassed_kept (s := s) (ne_of_untouched hp) (ne_of_untouched hp) (ne_of_untouched hp)
    exact ite_kept (fset_kept (ne_of_untouched hp) k) k

/-- Settles O56: what the clock's and the frames' events write in TIME_STATUS, FRAME_NUM and FRAME_EDGE. -/
theorem clockAndFrameEventsTakeEffect : Obligations.ClockAndFrameEventsTakeEffect := by
  intro departed s hrun
  refine ⟨⟨_, alignmentWord_eq hrun, foldl_alignStep_kept (p := .time) (by decide) (by decide) (by decide), foldl_alignStep_skew⟩, fun h => ?_, refclkReturn_eq,
    ⟨_, frameSyncEdge_eq hrun, frameBoundary_frameNum, frameBoundary_frameEdge, frameBoundary_present, ?_⟩, fun h => ?_⟩
  · obtain ⟨t, ht, -, hlost, hold, hlocked, hclock, -⟩ := refclkLoss_takes hrun h
    exact ⟨t, ht, hlost, hold, hlocked, time_of_clock hclock⟩
  · rw [State.now, frameBoundary_tbase, State.now]
  · obtain ⟨t, ht, hpresent, hlost, htime, -⟩ := frameLimitExpiry_takes hrun h
    exact ⟨t, ht, hpresent, hlost, congrArg Timebase.limitFrom htime, by rw [State.now, htime]; rfl⟩

end Sys2Proof.Machine
end

/-!
PROOFS of the architecture statements, part 7: the census of a frame (R165, R219), the pixels that an alignment word suspects, and O14.
-/
section
namespace Sys2Proof.Machine

set_option Elab.async false

variable {s t : State} {a b k j n : Nat} {ids : List (Word × Word)}

/-! ### The census of a block -/

/-- A register of block `k` in which its census is latched. -/
def censusReg (k b : Nat) : Prop := b = RX_CENSUS_FOREIGN k ∨ b = RX_CENSUS_NOISE k ∨ b = RX_CENSUS_SLOTS k

theorem censusReg_ne (h : censusReg k b) : b ≠ RX_BLK_SEQ j ∧ b ≠ REC_LOST ∧ b ≠ REC_STATUS := by
  simp only [censusReg, RX_CENSUS_FOREIGN, RX_CENSUS_NOISE, RX_CENSUS_SLOTS, baseRxBlk, RX_BLK_SEQ, REC_LOST, REC_STATUS, baseRec] at *
  omega

theorem censusReg_ne_other (h : censusReg k b) (hjk : j ≠ k) : b ≠ RX_CENSUS_FOREIGN j ∧ b ≠ RX_CENSUS_NOISE j ∧ b ≠ RX_CENSUS_SLOTS j := by
  simp only [censusReg, RX_CENSUS_FOREIGN, RX_CENSUS_NOISE, RX_CENSUS_SLOTS, baseRxBlk] at *
  omega

theorem latchCensus_reg (h : censusReg k b) : (latchCensus ids j s).reg b = if b = RX_CENSUS_NOISE j then w32 (min 0xFFFFFFFF (s.blk j).noise)
    else if b = RX_CENSUS_FOREIGN j then w32 (min 0xFFFFFFFF (s.blk j).foreign)
    else if b = RX_CENSUS_SLOTS j then w32 (min 0xFFFFFFFF (s.blk j).windows) else s.reg b := by
  obtain ⟨h1, h2, h3⟩ := censusReg_ne (j := j) h
  rw [latchCensus, flagIf_reg h1 h2 h3, setBlk_reg, setReg_reg, setReg_reg, setReg_reg]

theorem blk_of_kept (h : Kept .rx s t) : t.blk k = s.blk k := congrArg (fun x : Rx => look (fun _ => ({} : RxBlk)) x.blks k) h

theorem latchCensus_blk_other (h : j ≠ k) : (latchCensus ids j s).blk k = s.blk k := by
  rw [latchCensus, blk_of_kept (flagIf_kept (by decide) (by decide) (.refl _ _)), setBlk_blk, if_neg h.symm]
  rfl

/-- The census counted in `c` stands in the registers of block `k`, with the identity it was counted under, and the block's own is begun anew. -/
structure Latched (ids : List (Word × Word)) (c : RxBlk) (k : Nat) (t : State) : Prop where
  foreign : t.reg (RX_CENSUS_FOREIGN k) = w32 (min 0xFFFFFFFF c.foreign)
  noise : t.reg (RX_CENSUS_NOISE k) = w32 (min 0xFFFFFFFF c.noise)
  slots : t.reg (RX_CENSUS_SLOTS k) = w32 (min 0xFFFFFFFF c.windows)
  anew : (t.blk k).censusId = nth (0, 0) ids k ∧ (t.blk k).foreign = 0 ∧ (t.blk k).noise = 0 ∧ (t.blk k).windows = 0

theorem latchCensus_latched : Latched ids (s.blk k) k (latchCensus ids k s) := by
  have hdistinct : RX_CENSUS_FOREIGN k ≠ RX_CENSUS_NOISE k ∧ RX_CENSUS_SLOTS k ≠ RX_CENSUS_NOISE k ∧ RX_CENSUS_SLOTS k ≠ RX_CENSUS_FOREIGN k := by
    simp only [RX_CENSUS_FOREIGN, RX_CENSUS_NOISE, RX_CENSUS_SLOTS]
    omega
  obtain ⟨h1, h2, h3⟩ := hdistinct
  refine ⟨?_, ?_, ?_, ?_⟩
  · rw [latchCensus_reg (.inl rfl), if_neg h1, if_pos rfl]
  · rw [latchCensus_reg (.inr (.inl rfl)), if_pos rfl]
  · rw [latchCensus_reg (.inr (.inr rfl)), if_neg h2, if_neg h3, if_pos rfl]
  · rw [latchCensus, blk_of_kept (flagIf_kept (by decide) (by decide) (.refl _ _)), setBlk_blk_same]
    exact ⟨rfl, rfl, rfl, rfl⟩

theorem Latched.of_same {c : RxBlk} (h : Latched ids c k s) (hreg : ∀ b, censusReg k b → t.reg b = s.reg b) (hblk : t.blk k = s.blk k) : Latched ids c k t := by
  obtain ⟨hforeign, hnoise, hslots, hanew⟩ := h
  exact ⟨(hreg _ (.inl rfl)).trans hforeign, (hreg _ (.inr (.inl rfl))).trans hnoise, (hreg _ (.inr (.inr rfl))).trans hslots, by rwa [hblk]⟩

theorem Latched.latch_other {c : RxBlk} (h : Latched ids c k s) (hjk : j ≠ k) : Latched ids c k (latchCensus ids j s) := by
  refine h.of_same (fun b hb => ?_) (latchCensus_blk_other hjk)
  obtain ⟨h1, h2, h3⟩ := censusReg_ne_other hb hjk
  rw [latchCensus_reg hb, if_neg h2, if_neg h1, if_neg h3]

theorem forUp_latchCensus (hk : k < n) : Latched ids (s.blk k) k (forUp (latchCensus ids) 0 n s) := by
  have hall : (∀ m, m < 0 + n → Latched ids (s.blk m) m (forUp (latchCensus ids) 0 n s)) ∧ ∀ m, 0 + n ≤ m → (forUp (latchCensus ids) 0 n s).blk m = s.blk m := by
    refine forUp_induction (P := fun i u => (∀ m, m < i → Latched ids (s.blk m) m u) ∧ ∀ m, i ≤ m → u.blk m = s.blk m)
      ⟨fun m hm => absurd hm (Nat.not_lt_zero m), fun _ _ => rfl⟩ fun i u _ _ hu => ?_
    obtain ⟨hdone, hrest⟩ := hu
    refine ⟨fun m hm => ?_, fun m hm => (latchCensus_blk_other (by omega)).trans (hrest m (by omega))⟩
    rcases Nat.lt_succ_iff_lt_or_eq.mp hm with hlt | rfl
    · exact (hdone m hlt).latch_other (by omega)
    · rw [← hrest m (le_refl m)]
      exact latchCensus_latched
  exact hall.1 k (by omega)

theorem refreshSkew_reg (h : b ≠ PAIR_SKEW) : (refreshSkew s).reg b = s.reg b := by
  unfold refreshSkew
  dsimp only
  split_ifs
  · rfl
  · rw [fsets_reg, if_neg h]
  · rw [fsets_reg, if_neg h, drawFree_reg]

theorem Latched.refreshSkew {c : RxBlk} (h : Latched ids c k s) : Latched ids c k (refreshSkew s) := by
  refine h.of_same (fun b hb => refreshSkew_reg ?_) (blk_of_kept (refreshSkew_kept (by decide) (by decide) (.refl _ _)))
  simp only [censusReg, RX_CENSUS_FOREIGN, RX_CENSUS_NOISE, RX_CENSUS_SLOTS, baseRxBlk, PAIR_SKEW, baseCf] at *
  omega

/-! ### A frame boundary at which nothing swaps and nothing shoots -/

theorem setGate_blk {i : Nat} {w : Word} : (setGate n i w s).blk k = s.blk k := rfl

theorem blk_ite {c : Prop} [Decidable c] : (if c then s else t).blk k = if c then s.blk k else t.blk k := apply_ite (fun u : State => u.blk k) _ _ _

theorem applyUpdate_blk {e : Nat × (Nat × Word)} : (applyUpdate e s).blk k = s.blk k := by
  simp only [applyUpdate, blk_ite, setGate_blk, ite_self]

theorem setStaging_blk {l : List (Nat × Word)} : (setStaging n l s).blk k = s.blk k := rfl

theorem applyCommit_blk : (applyCommit n s).blk k = s.blk k := by
  unfold applyCommit
  dsimp only
  split_ifs
  · rw [blk_of_kept (flag_kept (by decide) (by decide) (fset_kept (by decide) (.refl _ _))), setStaging_blk]
    exact foldl_proj (π := fun u : State => u.blk k) fun _ _ => rfl
  · rfl

theorem applyGates_blk : (applyGates s).blk k = s.blk k :=
  (forUp_proj (π := fun u : State => u.blk k) fun _ _ => applyCommit_blk).trans (foldl_proj (π := fun u : State => u.blk k) fun _ _ => applyUpdate_blk)

theorem shooting_of (hmode : t.mode = s.mode) (hreg : t.reg MODE_STATUS = s.reg MODE_STATUS) : t.shooting = s.shooting := by
  rw [State.shooting, State.shooting, State.fget, State.fget, hmode, hreg]

theorem hopBoundary_mode_status {pl : Option Plane} {frame : Nat} {swapped : Bool} : (hopBoundary pl frame swapped s).reg MODE_STATUS = s.reg MODE_STATUS := by
  have hseqs {f : Nat → State → Seq} {m : Nat} {u : State} : (forUp (fun q t => setSeq q (f q t) t) 0 m u).reg MODE_STATUS = u.reg MODE_STATUS :=
    forUp_proj (π := fun u : State => u.reg MODE_STATUS) fun _ _ => rfl
  unfold hopBoundary
  extract_lets code h0 fresh extra per periodic passed h s1 s2 tx s3
  have h2 : s2.reg MODE_STATUS = s.reg MODE_STATUS := by
    unfold s2 s1
    split_ifs
    · rw [setReg_reg_other (by decide), setReg_reg_other (by decide)]
    · rw [setReg_reg_other (by decide)]
  split
  · exact h2
  · exact hseqs.trans h2

theorem takeHop_mode_status : (takeHop s).reg MODE_STATUS = s.reg MODE_STATUS := by
  unfold takeHop
  split
  · split_ifs
    · rw [setReg_reg_other (by decide)]
      rfl
    · rfl
  · rfl

theorem wrapRecord_reg {x y z : Nat} (h1 : b ≠ REC_LOST) (h2 : b ≠ REC_STATUS) : (wrapRecord x y z s).reg b = s.reg b := by
  rw [wrapRecord, flag_reg h2 h1 h2, kindOne, recordEvent_reg h1 h2]

/-- A device that does not shoot places nothing at a frame (R157). -/
theorem frameShots_of_not_shooting {pl : Option Plane} {frame edge : Nat} {swapped : Bool} (h : s.shooting = false) :
    frameShots pl frame edge swapped s = noteHop s [] [tgtTx] (hopBoundary pl frame swapped s) := by
  have hs : (hopBoundary pl frame swapped s).shooting = false :=
    (shooting_of (hopBoundary_kept (p := .mode) (by decide) (by decide) (.refl _ s)) hopBoundary_mode_status).trans h
  unfold frameShots
  simp only [h, Bool.false_eq_true, if_false, hs, Bool.not_false, if_true]

theorem frameBoundary_census (hshoot : s.shooting = false) (hswap : s.cut.swapAt ≠ some (.atFrame (s.reg FRAME_NUM + 1).toNat)) (hback : s.fw.backToRun = false)
    (hk : k < 48) : Latched ((List.range 48).map fun j => s.planeId (tgtRx j)) (s.blk k) k (frameBoundary s) := by
  unfold frameBoundary
  extract_lets i n period time s1 s2 s3 ids swapped reload s4 fw u s5 s6 s7 s8 s9
  have h3 {p : Part} (hp : p ∉ [.regs, .mgmt, .time]) : Kept p s s3 := by
    have h1 : Kept p s s1 := mk_kept (.refl p s)
    have h2 : Kept p s s2 := fset_kept (ne_of_untouched hp) (setReg64_kept (ne_of_untouched hp) (setReg_kept (ne_of_untouched hp) h1))
    exact ite_kept (wrapRecord_kept (ne_of_untouched hp) (ne_of_untouched hp) h2) h2
  have hns : swapped = false := by
    have hcut : s3.cut = s.cut := h3 (p := .cut) (by decide)
    unfold swapped
    rw [hcut, decide_eq_false hswap]
    rfl
  have h4 : s4 = s3 := by
    unfold s4
    rw [hns]
    rfl
  have h5 : s5 = s4 := by
    have hfw : s3.fw = s.fw := h3 (p := .fw) (by decide)
    unfold s5
    rw [if_neg (by rw [h4, hfw, hback]; decide)]
  have hblk : s9.blk k = s.blk k := by
    have hreg : s3.reg MODE_STATUS = s.reg MODE_STATUS := by
      have h2 : s2.reg MODE_STATUS = s.reg MODE_STATUS := by
        unfold s2
        rw [fset_reg, if_neg (by decide), setReg64, setReg_reg_other (by decide), setReg_reg_other (by decide), setReg_reg_other (by decide)]
        rfl
      unfold s3
      split_ifs
      · rw [wrapRecord_reg (by decide) (by decide), h2]
      · exact h2
    have hshooting : (takeHop s5).shooting = false := by
      rw [shooting_of (takeHop_kept (p := .mode) (by decide) (by decide) (.refl _ s5)) takeHop_mode_status, h5, h4, shooting_of (h3 (p := .mode) (by decide)) hreg, hshoot]
    have h6 : s6.blk k = s.blk k := by
      unfold s6
      rw [frameShots_of_not_shooting hshooting, h5, h4]
      exact blk_of_kept (idleSeqs_kept (by decide) (noteHop_kept (by decide) (hopBoundary_kept (by decide) (by decide) (takeHop_kept (by decide) (by decide)
        (h3 (by decide))))))
    have h7 : s7.blk k = s6.blk k := (blk_of_kept (noteGates_kept (by decide) (.refl _ _))).trans applyGates_blk
    have h9 : Kept .rx s7 s9 := forUp_kept (fun _ _ hk => ite_kept (showWait_kept (by decide) hk) hk)
      (ite_kept (noteSlews_kept (by decide) (slewFrame_kept (by decide) (.refl _ _))) (.refl _ _))
    rw [blk_of_kept h9, h7, h6]
  rw [← hblk]
  exact (forUp_latchCensus hk).refreshSkew

/-! ### The pixels that an alignment word suspects -/

theorem alignStep_blk {d : Fin 16 × BitVec 10} (hk : k < 48) :
    (alignStep s d).blk k = if isRegion d.1 ∧ rxRegion k = d.1 then (s.blk k).suspect s.now d.2.toNat else s.blk k := by
  have hkept (p : Part) (hp : p ∉ [.regs, .mgmt]) : Kept p s (fset TIME_STATUS TIME_STATUS.skew_region d.1 (flag TIME_STATUS TIME_STATUS.skew_event s)) :=
    fset_kept (ne_of_untouched hp) (flag_kept (ne_of_untouched hp) (ne_of_untouched hp) (.refl p s))
  have hnow : (fset TIME_STATUS TIME_STATUS.skew_region d.1 (flag TIME_STATUS TIME_STATUS.skew_event s)).now = s.now :=
    congrArg (fun c : Timebase => c.tbase.toNat) (hkept .time (by decide))
  cases h : isRegion d.1
  · rw [alignStep, if_neg (by rw [h]; decide), if_neg (by simp)]
  · rw [alignStep, if_pos h, suspectSince_blk, hnow, blk_of_kept (hkept .rx (by decide))]
    refine if_congr ?_ rfl rfl
    simp only [rxRegion, true_and]
    omega

/-- The pixel once it is suspect. -/
def Pixel.suspected (p : Pixel) : Pixel := { p with flags := p.flags ||| pfTime }

theorem Pixel.suspect_suspected {p : Pixel} {now ns : Nat} : p.suspected.suspect now ns = p.suspected := by
  unfold Pixel.suspect
  split_ifs
  · rw [Pixel.suspected, Nat.or_assoc, Nat.or_self]
  · rfl

theorem Pixel.suspect_cases {p : Pixel} {now ns : Nat} : p.suspect now ns = p ∨ p.suspect now ns = p.suspected := by
  unfold Pixel.suspect
  split_ifs
  · exact .inr rfl
  · exact .inl rfl

/-- A pixel, suspect or not, is suspect once an island of its region departed since it began. -/
theorem foldl_alignStep_buf {buf : RxBlk → Option Pixel} {l : List (Fin 16 × BitVec 10)} {p : Pixel} {r : Fin 16} {ns : BitVec 10} (hk : k < 48)
    (hbuf : ∀ (b : RxBlk) (now m : Nat), buf (b.suspect now m) = (buf b).map (Pixel.suspect now m)) (hr : isRegion r = true) (hkr : rxRegion k = r)
    (hp : p.suspect s.now ns.toNat = p.suspected) (h : ((r, ns) ∈ l ∧ buf (s.blk k) = some p) ∨ buf (s.blk k) = some p.suspected) :
    buf ((l.foldl alignStep s).blk k) = some p.suspected := by
  induction l generalizing s with
  | nil => simpa using h
  | cons d l ih =>
    have hnow : (alignStep s d).now = s.now := congrArg (fun c : Timebase => c.tbase.toNat) (alignStep_kept (p := .time) (by decide) (by decide) (by decide) (.refl _ s))
    refine ih (by rwa [hnow]) ?_
    have hstep : buf ((alignStep s d).blk k) = if isRegion d.1 ∧ rxRegion k = d.1 then (buf (s.blk k)).map (Pixel.suspect s.now d.2.toNat) else buf (s.blk k) := by
      rw [alignStep_blk hk, apply_ite buf, hbuf]
    rw [hstep]
    rcases h with ⟨hmem, hb⟩ | hb
    · rcases List.mem_cons.mp hmem with rfl | hmem
      · right
        rw [if_pos ⟨hr, hkr⟩, hb, Option.map_some, hp]
      · rw [hb]
        split_ifs
        · rw [Option.map_some]
          rcases Pixel.suspect_cases (p := p) (now := s.now) (ns := d.2.toNat) with h' | h' <;> rw [h']
          · exact .inl ⟨hmem, rfl⟩
          · exact .inr rfl
        · exact .inl ⟨hmem, rfl⟩
    · right
      rw [hb]
      split_ifs
      · rw [Option.map_some, Pixel.suspect_suspected]
      · rfl

theorem nth_of_getElem? {α : Type} {d x : α} {l : List α} {i : Nat} (h : l[i]? = some x) : nth d l i = x := by
  induction l generalizing i with
  | nil => simp at h
  | cons y l ih =>
    cases i with
    | zero => simpa [nth] using h
    | succ i => exact ih (by simpa using h)

theorem refclkReturn_time_status : (endCause .refclk (fsets TIME_STATUS [(TIME_STATUS.holdover, 0), (TIME_STATUS.locked, 1)] s)).reg TIME_STATUS =
    setF TIME_STATUS.locked 1 (setF TIME_STATUS.holdover 0 (s.reg TIME_STATUS)) :=
  fsets_reg.trans (if_pos rfl)

/-- Settles O14: the events of the clock and the frames, with the pixels they suspect and the census they latch. -/
theorem theTimebaseAlignsHoldsOverAndMarksFrames : Obligations.TheTimebaseAlignsHoldsOverAndMarksFrames := by
  intro departed s hrun
  have hsuspect {ns : BitVec 10} {p : Pixel} (hp : p.inProgress = true) (hnow : s.now ≤ p.start + ns.toNat) :
      p.suspect s.now ns.toNat = p.suspected := by
    rw [Pixel.suspect, if_pos (by rw [hp, decide_eq_true hnow]; rfl)]
    rfl
  refine ⟨fun h => ?_, ⟨_, alignmentWord_eq hrun, fun l r ns hl hr => ?_, fun r ns hd hr k hk p hp hnow => ⟨fun hx => ?_, fun hy => ?_⟩, ?_, fun p hp => ?_⟩,
    fun h => ?_, fun h => ⟨_, refclkReturn_eq h, ?_, ?_, rfl, fun a ha => ?_, fun p hp => ?_⟩, ⟨_, frameSyncEdge_eq hrun, ?_⟩, frameLimitExpiry_takes hrun⟩
  · rw [alignmentWord_eq hrun]
    refine congrArg Host.Outcome.next (List.foldlRecOn (motive := (· = s)) departed alignStep rfl fun u hu d hd => ?_)
    have hno := List.all_eq_true.mp h d hd
    rw [hu, alignStep, if_neg (by simpa using hno)]
  · have hreg := alignStep_time_status (s := l.foldl alignStep s) (d := (r, ns)) hr
    rw [hl, List.foldl_append, List.foldl_cons, List.foldl_nil, State.fget, State.rbit, hreg]
    refine ⟨?_, ?_⟩
    · rw [testBit_setF (by decide), if_neg (by decide), getLsbD_setBit (by decide)]
    · rw [getF_setF_same (by decide)]
      exact Nat.mod_eq_of_lt r.isLt
  · exact foldl_alignStep_buf (buf := RxBlk.bufX) k.isLt (fun _ _ _ => rfl) hr hk (hsuspect hp hnow) (.inl ⟨hd, hx⟩)
  · exact foldl_alignStep_buf (buf := RxBlk.bufY) k.isLt (fun _ _ _ => rfl) hr hk (hsuspect hp hnow) (.inl ⟨hd, hy⟩)
  · exact List.foldlRecOn (motive := OnlyRegs _ s) departed alignStep .refl fun u hu d _ => hu.trans alignStep_onlyRegs
  · exact foldl_alignStep_kept (ne_of_untouched hp) (ne_of_untouched hp) (ne_of_untouched hp)
  · obtain ⟨t, ht, hreacted, hlost, hold, hlocked, hclock, hparts⟩ := refclkLoss_takes hrun h
    exact ⟨t, ht, hreacted, hlost, hold, hlocked, by rw [time_of_clock hclock], hparts⟩
  · rw [State.fget, refclkReturn_time_status, getF_setF_other (by decide), getF_setF_same (by decide)]
    rfl
  · rw [State.fget, refclkReturn_time_status, getF_setF_same (by decide)]
    rfl
  · exact fsets_reg.trans (if_neg (by simpa using ha))
  · exact endCause_kept (ne_of_untouched hp) (fsets_kept (ne_of_untouched hp) (.refl p s))
  · have hclock := frameBoundary_clock (s := s)
    have hlimit := congrArg Timebase.limitFrom hclock
    have hperiod := congrArg Timebase.period hclock
    have hseen := congrArg Timebase.edgeSeen hclock
    have hrunning := (congrArg Timebase.running hclock).trans hrun
    refine ⟨hlimit, hperiod, hseen, frameBoundary_tbase, hrunning, fun h1 h2 h3 =>
      ⟨frameBoundary_frameNum, frameBoundary_frameEdge, frameBoundary_present, fun k => ?_⟩⟩
    obtain ⟨hforeign, hnoise, hslots, hid, hanew⟩ := frameBoundary_census h1 h2 h3 k.isLt
    exact ⟨hforeign, hnoise, hslots, hid.trans (nth_of_getElem? (by simp)), hanew⟩

end Sys2Proof.Machine
end

/-!
PROOFS of the architecture statements, part 8: a swap comes, spreads and ends (R28 to R31, R65, R69 to R72), O16.
-/
section
namespace Sys2Proof.Machine

set_option Elab.async false

variable {s t u : State} {a i k n : Nat}

/-! ### The mode at a swap -/

/-- The mode stays, or the unit stands down from ARMED or RUN to CONFIGURED. -/
def StaysOrStandsDown (s t : State) : Prop := t.mode = s.mode ∨ ((s.mode = .armed ∨ s.mode = .run) ∧ t.mode = .configured)

theorem StaysOrStandsDown.of_kept (h : Kept .mode s t) : StaysOrStandsDown s t := .inl h

theorem StaysOrStandsDown.trans (h : StaysOrStandsDown s t) (h' : StaysOrStandsDown t u) : StaysOrStandsDown s u := by
  unfold StaysOrStandsDown at *
  rcases h with h | ⟨h, ht⟩
  · rwa [← h]
  · right
    rcases h' with h' | ⟨-, h'⟩
    · exact ⟨h, h'.trans ht⟩
    · exact ⟨h, h'⟩

theorem toConfigured_standsDown : StaysOrStandsDown s (toConfigured s) := by
  unfold StaysOrStandsDown
  rw [toConfigured_mode]
  split_ifs with h
  · exact .inr ⟨h, rfl⟩
  · exact .inl rfl

theorem enterSf_standsDown {x : Nat} (h : s.sfState x = 4 ∨ s.sfState x = 5) : StaysOrStandsDown s (enterSf x 3 s) := by
  unfold enterSf
  rw [if_neg (by omega)]
  dsimp only
  rw [if_pos (by omega)]
  exact .trans (.of_kept (flagIf_kept (by decide) (by decide) (flagIf_kept (by decide) (by decide) (fset_kept (by decide) (setSfc_kept (by decide) (.refl _ s))))))
    toConfigured_standsDown

theorem sfStandDown_standsDown : StaysOrStandsDown s (sfStandDown s) := by
  refine forUp_induction (P := fun _ u => StaysOrStandsDown s u) (.inl rfl) fun x u _ _ hu => hu.trans ?_
  split_ifs with h
  · exact enterSf_standsDown h
  · exact .inl rfl

theorem leavePair_standsDown {st : Nat} : StaysOrStandsDown s (followExcitation (sfStandDown (enterPair st none s))) :=
  .trans (.of_kept (enterPair_kept (by decide) (by decide) (.refl _ s)))
    (sfStandDown_standsDown.trans (.of_kept (followExcitation_kept (by decide) (by decide) (by decide) (.refl _ _))))

theorem enterSolo_standsDown {rank : Nat} : StaysOrStandsDown s (enterSolo rank s) := by
  unfold enterSolo
  split
  · exact .inl rfl
  · exact .of_kept (enterPair_kept (by decide) (by decide) (.refl _ s))
  · exact leavePair_standsDown
  · exact leavePair_standsDown

theorem pairSwap_standsDown {old : Option Plane} : StaysOrStandsDown s (pairSwap old s) := by
  unfold pairSwap
  extract_lets sched s1
  have h1 : StaysOrStandsDown s s1 := .of_kept (fset_kept (by decide) (setReg_kept (by decide) (.refl _ s)))
  split_ifs
  · exact h1.trans enterSolo_standsDown
  · exact h1.trans leavePair_standsDown
  · exact h1.trans (.of_kept (flag_kept (by decide) (by decide) (setPair_kept (by decide) (enterPair_kept (by decide) (by decide) (.refl _ s1)))))
  · exact h1

/-- The mode that a swap leaves before the pair follows (R65, R71). -/
theorem swapMode_mode {rom : Bool} : (swapMode rom s).mode =
    if rom then .service else if s.mode = .loader ∨ (s.mode = .service ∧ s.startup.boot = true) then .configured else s.mode := by
  unfold swapMode
  extract_lets boot u s1 s2 s3
  have h1 : s1.mode = if rom then .service else if s.mode = .loader ∨ (s.mode = .service ∧ s.startup.boot = true) then .configured else s.mode := by
    unfold s1
    by_cases hrom : rom = true
    · rw [if_pos hrom, if_pos hrom]
      exact forUp_kept (p := .mode) (fun _ _ hk => noteCheck_kept (by decide) hk) (.refl .mode { u with mode := .service })
    · rw [if_neg hrom, if_neg hrom]
      by_cases hloader : s.mode = .loader
      · rw [if_pos hloader, if_pos (.inl hloader)]
        exact forUp_kept (p := .mode) (fun _ _ hk => startAdc_kept (by decide) (by decide) hk) (.refl .mode { s with mode := .configured })
      · rw [if_neg hloader, apply_ite State.mode]
        exact if_congr (by simp [hloader]) rfl rfl
  have h2 : s2.mode = s1.mode := by
    unfold s2
    rw [apply_ite State.mode]
    exact ite_self _
  have h3 : s3.mode = s2.mode := by
    unfold s3
    rw [apply_ite State.mode]
    exact ite_self _
  have hprogram {v : State} (hv : v.mode = s2.mode) : (startProgram v).mode = s1.mode :=
    .trans (startProgram_kept (p := .mode) (by decide) (by decide) (by decide) (by decide) (.refl _ v)) (hv.trans h2)
  rw [← h1]
  split_ifs
  · exact hprogram h3
  · exact hprogram rfl
  · exact h2

/-! ### The state of the swap -/

/-- The plane that the swap makes live. -/
def State.nextPlane (s : State) : Option Plane := if s.cut.romNext then some romPlane else s.cut.staged

/-- The state of the swap as it comes at `i` (R28, R31, R70). -/
def State.swapCut (s : State) (i : Nat) : CutState :=
  { s.cut with
    live := s.nextPlane, old := s.cut.live, oldEpoch := s.reg LIVE_EPOCH, oldFrag := s.reg (LIVE_DIGEST 0), swapAt := none, swapI := i, firstStamp := i,
    lastStamp := i, stamps := [(0, i)], romNext := false, romLive := s.cut.romNext, upsets := [],
    swapKeys := if s.cut.romNext then romPlane.map (fun f => (f.f0, f.f1)) else s.cut.stagedKeys, inSwap := true,
    waiting := swapTargets s.cut.live s.nextPlane s }

/-- A swap notes its own state first, then the early ones, and the mode and the pair follow. -/
theorem beginSwap_eq : ∃ v keys, v.cut = s.swapCut i ∧ OnlyParts [.regs, .cut, .cal, .rx, .hk, .fw, .live, .shadow] s v ∧
    beginSwap i s = pairSwap s.cut.live (swapMode s.cut.romNext (noteSeed s.cut.live s.nextPlane (markBanks keys (forUp markEarly 0 64 v)))) := by
  unfold beginSwap
  extract_lets rom old new digest keys cut s1 s2 cal fw s3 on keep hk s4 s5 away
  have hkept {p : Part} {b : State} (hregs : p ≠ .regs) (hcal : p ≠ .cal) (hrx : p ≠ .rx) (hhk : p ≠ .hk) (hfw : p ≠ .fw) (h1 : Kept p b s1) :
      Kept p b (away.foldl (fun t r => missSwap keys r t) s5) := by
    have h2 : Kept p b s2 := setReg_kept hregs (fset_kept hregs (setRegs_kept hregs (setReg_kept hregs h1)))
    have h3 : Kept p b s3 := ite_kept (forUp_kept (fun _ _ k => setBlk_kept hrx k) (mk_kept h2)) (setShadow_kept hregs (setRegs_kept hregs (setFw_kept hfw h2)))
    exact foldl_kept (fun _ _ k => missSwap_kept hcal k) (ite_kept (forUp_kept (fun _ _ k => reloadGates_kept hrx k) (mk_kept h3)) (mk_kept h3))
  refine ⟨_, keys, ?_, fun p hp => ?_, rfl⟩
  · exact hkept (p := .cut) (b := s1) (by decide) (by decide) (by decide) (by decide) (by decide) (.refl _ s1)
  · exact hkept (ne_of_untouched hp) (ne_of_untouched hp) (ne_of_untouched hp) (ne_of_untouched hp) (ne_of_untouched hp) (mk_kept (.refl p s))

/-- The state of a swap but for what tells how far it has spread. -/
def CutState.unspread (c : CutState) : CutState := { c with waiting := [], firstStamp := 0, lastStamp := 0, stamps := [] }

theorem markApplied_unspread : (markApplied n i s).cut.unspread = s.cut.unspread := by
  unfold markApplied
  split_ifs <;> rfl

theorem dropRearms_cut {pl : Option Plane} : (dropRearms pl s).cut = s.cut := dropRearms_kept (p := .cut) (by decide) (by decide) (.refl _ s)

theorem markEarly_unspread : (markEarly n s).cut.unspread = s.cut.unspread := by
  unfold markEarly
  split
  · rfl
  · rw [dropRearms_cut, setSeq_cut, markApplied_unspread, markApplied_unspread]

theorem markEarly_of_none (h : (s.seq n).early = none) : markEarly n s = s := by
  rw [markEarly, h]

theorem dropWrite_boot {r b : Nat} : (dropWrite r b s).startup.boot = s.startup.boot := by
  unfold dropWrite
  split_ifs <;> rfl

theorem dropRearms_boot {pl : Option Plane} : (dropRearms pl s).startup.boot = s.startup.boot := by
  unfold dropRearms
  refine forUp_proj (π := fun u : State => u.startup.boot) fun q u => ?_
  rw [apply_ite (fun u : State => u.startup.boot), dropWrite_boot, setPort_startup]
  exact ite_self _

theorem markApplied_startup : (markApplied n i s).startup = s.startup := markApplied_kept (p := .startup) (by decide) (.refl _ s)

theorem markEarly_boot : (markEarly n s).startup.boot = s.startup.boot := by
  unfold markEarly
  split
  · rfl
  · rw [dropRearms_boot, setSeq_startup, markApplied_startup, markApplied_startup]

theorem afterSwap_cut {old a b : Option Plane} {rom : Bool} {keys : List (Nat × Nat)} :
    (pairSwap old (swapMode rom (noteSeed a b (markBanks keys s)))).cut = s.cut :=
  pairSwap_kept (p := .cut) (by decide) (by decide) (by decide) (by decide) (by decide) (by decide) (by decide) (by decide) (by decide) (by decide)
    (by decide) (by decide) (swapMode_kept (by decide) (by decide) (by decide) (by decide) (by decide) (by decide) (by decide) (by decide) (by decide)
      (by decide) (noteSeed_kept (by decide) (markBanks_kept (by decide) (.refl _ s))))

theorem beginSwap_cut (hearly : ∀ q : Fin 64, (s.seq q).early = none) : (beginSwap i s).cut = s.swapCut i := by
  obtain ⟨v, keys, hv, hparts, he⟩ := beginSwap_eq (s := s) (i := i)
  have hmark : forUp markEarly 0 64 v = v := by
    refine forUp_induction (P := fun _ u => u = v) rfl fun q u _ hq hu => ?_
    rw [hu]
    refine markEarly_of_none ?_
    have htx : v.tx = s.tx := hparts .tx (by decide)
    rw [State.seq, htx]
    exact hearly ⟨q, by omega⟩
  rw [he, hmark, afterSwap_cut, hv]

theorem beginSwap_unspread : (beginSwap i s).cut.unspread = (s.swapCut i).unspread := by
  obtain ⟨v, keys, hv, -, he⟩ := beginSwap_eq (s := s) (i := i)
  have hmark : (forUp markEarly 0 64 v).cut.unspread = v.cut.unspread := forUp_proj (π := fun u : State => u.cut.unspread) fun _ _ => markEarly_unspread
  rw [he, afterSwap_cut, hmark, hv]

theorem beginSwap_mode : ∃ w, w.mode = (if s.cut.romNext then .service else if s.mode = .loader ∨ (s.mode = .service ∧ s.startup.boot = true) then .configured else s.mode) ∧
    StaysOrStandsDown w (beginSwap i s) := by
  obtain ⟨v, keys, -, hparts, he⟩ := beginSwap_eq (s := s) (i := i)
  have hmode : (noteSeed s.cut.live s.nextPlane (markBanks keys (forUp markEarly 0 64 v))).mode = s.mode :=
    .trans (noteSeed_kept (p := .mode) (by decide) (markBanks_kept (by decide) (forUp_kept (fun _ _ k => markEarly_kept (by decide) (by decide) (by decide) k) (.refl _ v))))
      (hparts .mode (by decide))
  have hboot : (noteSeed s.cut.live s.nextPlane (markBanks keys (forUp markEarly 0 64 v))).startup.boot = s.startup.boot := by
    have hmark : (forUp markEarly 0 64 v).startup.boot = v.startup.boot := forUp_proj (π := fun u : State => u.startup.boot) fun _ _ => markEarly_boot
    have hnote : (noteSeed s.cut.live s.nextPlane (markBanks keys (forUp markEarly 0 64 v))).startup = (forUp markEarly 0 64 v).startup :=
      noteSeed_kept (p := .startup) (by decide) (markBanks_kept (by decide) (.refl _ _))
    have hstartup : v.startup = s.startup := hparts .startup (by decide)
    rw [hnote, hmark, hstartup]
  refine ⟨_, ?_, he ▸ pairSwap_standsDown⟩
  rw [swapMode_mode, hmode, hboot]

/-! ### SWAP_APPLY -/

theorem swapApply_eq (hat : s.cut.swapAt = some (.atTime i)) (hi : i ≤ s.now) (hin : s.cut.inSwap = false) (hepoch : s.reg LIVE_EPOCH ≠ 0xFFFFFFFF) :
    exec .swapApply s = .next (beginSwap i s) := by
  refine congrArg Host.Outcome.next ?_
  rw [hat]
  exact if_pos (by simpa [hi, hin] using hepoch)

/-- The registers of a run-time swap (R70, R72). -/
theorem beginSwap_registers (hrom : s.cut.romNext = false) : (beginSwap i s).reg LIVE_EPOCH = s.reg LIVE_EPOCH + 1 ∧
    (∀ j : Fin 8, (beginSwap i s).reg (LIVE_DIGEST j) = s.reg (SHADOW_DIGEST j)) ∧ (beginSwap i s).fget CUT_STATUS CUT_STATUS.shadow_state = 6 ∧
    (beginSwap i s).fget CUT_STATUS CUT_STATUS.live_present = 1 := by
  have hreg {a : Nat} (h : quiet a = true) : (beginSwap i s).reg a = s.swapWrites.reg a := reg_of_calm (beginSwap_calm h)
  have hwrites : s.swapWrites = setShadow 6 (setRegs (SHADOW_DIGEST 0) (List.replicate 8 0)
      (fset CUT_STATUS CUT_STATUS.live_present 1 (setRegs (LIVE_DIGEST 0) s.swapDigest (setReg LIVE_EPOCH (s.reg LIVE_EPOCH + 1) s)))) := by
    rw [State.swapWrites, if_neg (by rw [hrom]; decide)]
  have hdigest : s.swapDigest = s.regsFrom (SHADOW_DIGEST 0) 8 := if_neg (by rw [hrom]; decide)
  refine ⟨?_, fun j => ?_, ?_, ?_⟩
  · rw [hreg (by decide), hwrites, setShadow, fset_reg, if_neg (by decide), setRegs_reg_other (.inl (by decide)), fset_reg, if_neg (by decide),
      setRegs_reg_other (.inl (by decide)), setReg_reg_same]
  · have hq : ∀ j : Fin 8, quiet (LIVE_DIGEST j) = true ∧ LIVE_DIGEST j ≠ CUT_STATUS ∧ LIVE_DIGEST j < SHADOW_DIGEST 0 := by decide
    obtain ⟨hquiet, hne, hlt⟩ := hq j
    rw [hreg hquiet, hwrites, setShadow, fset_reg, if_neg hne, setRegs_reg_other (.inl hlt), fset_reg, if_neg hne, hdigest]
    exact setRegs_reg_at (regsFrom_get j.isLt)
  · rw [State.fget, hreg (by decide), hwrites, setShadow]
    exact fset_fget_same (by decide)
  · rw [State.fget, hreg (by decide), hwrites, setShadow, fset_reg, if_pos rfl, getF_setF_other (by decide), setRegs_reg_other (.inl (by decide))]
    exact fset_fget_same (by decide)

/-! ### CHANGE_AT_INSTANT -/

/-- The target has applied the swap at its instant, and nothing else of the swap's state changed. -/
theorem markApplied_cut (h : s.cut.waiting.contains n = true) : (markApplied n i s).cut = { s.cut with
    waiting := s.cut.waiting.filter (· ≠ n), firstStamp := min s.cut.firstStamp i, lastStamp := max s.cut.lastStamp i, stamps := s.cut.stamps ++ [(n, i)] } := by
  rw [markApplied, if_pos h]

theorem applyHk_cut (h : s.cut.waiting.contains tgtHk = true) : (applyHk i s).cut = (markApplied tgtHk i s).cut := by
  rw [applyHk, if_pos h]
  exact installHk_kept (p := .cut) (by decide) (.refl _ _)

theorem applySc_cut : (applySc i s).cut = (markApplied tgtSc i s).cut :=
  takeSc_kept (p := .cut) (by decide) (by decide) (by decide) (by decide) (by decide) (by decide) (.refl _ _)

theorem applyAq_cut (h : s.cut.waiting.contains tgtAq = true) : (applyAq i s).cut = (markApplied tgtAq i s).cut := by
  rw [applyAq, if_pos h]
  exact takeMasks_kept (p := .cut) (by decide) (by decide) (by decide) (by decide) (by decide) (addMarker_kept (by decide) (mk_kept (.refl _ _)))

theorem applyLk_cut {b : Nat} (h : s.cut.waiting.contains (tgtLk b) = true) : (applyLk b i s).cut = (markApplied (tgtLk b) i s).cut := by
  rw [applyLk, if_pos h]
  exact forUp_kept (p := .cut) (fun _ _ k => applyLane_kept (by decide) (by decide) (by decide) (by decide) k) (.refl _ _)

theorem applyRx_cut (h : s.cut.waiting.contains (tgtRx k) = true) : (applyRx k i s).cut = (markApplied (tgtRx k) i s).cut := by
  rw [applyRx, if_pos h]
  refine settleBlock_kept (p := .cut) (by decide) (by decide) (by decide) (forUp_kept (fun _ _ k => applyCell_kept (by decide) (by decide) k)
    (installBlock_kept (by decide) (showSeq_kept (by decide) (by decide) (ite_kept (.refl _ _) (fgAbandon_kept (by decide) (by decide) (by decide) (by decide) (.refl _ _))))))

theorem changeAtInstant_takes {target : Fin 256} (hwait : s.cut.waiting.contains target.val = true) (hi : s.cut.swapI ≤ s.now)
    (h : (applyAtInstant target s).cut = (markApplied target s.cut.swapI s).cut) :
    ∃ t, exec (.changeAtInstant target) s = .next t ∧ t.cut.waiting = s.cut.waiting.filter (· ≠ target.val) ∧
      t.cut.firstStamp = min s.cut.firstStamp s.cut.swapI ∧ t.cut.lastStamp = max s.cut.lastStamp s.cut.swapI ∧ t.cut.live = s.cut.live ∧ t.mode = s.mode := by
  refine ⟨applyAtInstant target s, congrArg Host.Outcome.next (if_pos (by rw [hwait, decide_eq_true hi]; rfl)), ?_⟩
  rw [h, markApplied_cut hwait]
  exact ⟨rfl, rfl, rfl, rfl, applyAtInstant_kept (p := .mode) (by decide) (by decide) (by decide) (by decide) (by decide) (by decide) (by decide) (by decide) (by decide)
    (by decide) (by decide) (by decide) (.refl _ s)⟩

theorem applyAtInstant_seq {q : Fin 64} (h : s.seqScheduled q = false) : (applyAtInstant (tgtSeq q) s).cut = (markApplied (tgtSeq q) s.cut.swapI s).cut := by
  have hr : (tgtSeq q : Nat) - 0xC0 = q := Nat.add_sub_cancel_left _ _
  unfold applyAtInstant
  simp only [tgtHk, tgtSc, tgtTx, tgtAq, hr, h]
  rw [if_neg (by unfold tgtSeq; omega), if_neg (by unfold tgtSeq; omega), if_neg (by unfold tgtSeq; omega), if_neg (by unfold tgtSeq; omega),
    if_neg (by unfold tgtSeq; omega), if_neg (by unfold tgtSeq; omega), if_pos (by unfold tgtSeq; omega), if_neg (by decide)]

theorem applyAtInstant_rx {k : Fin 48} (hwait : s.cut.waiting.contains (tgtRx k) = true) (h : s.scheduled k = false) :
    (applyAtInstant (tgtRx k) s).cut = (markApplied (tgtRx k) s.cut.swapI s).cut := by
  have hr : (tgtRx k : Nat) - 0x80 = k := Nat.add_sub_cancel_left _ _
  unfold applyAtInstant
  simp only [tgtHk, tgtSc, tgtTx, tgtAq, hr, h]
  rw [if_neg (by unfold tgtRx; omega), if_neg (by unfold tgtRx; omega), if_neg (by unfold tgtRx; omega), if_neg (by unfold tgtRx; omega),
    if_neg (by unfold tgtRx; omega), if_pos (by unfold tgtRx; omega), if_neg (by decide)]
  exact .trans (applyWaiting_kept (p := .cut) (by decide) (by decide) (by decide) (by decide) (.refl _ _)) (applyRx_cut hwait)

theorem applyAtInstant_lk {b : Fin 4} (hwait : s.cut.waiting.contains (tgtLk b) = true) (h : ∀ l : Fin 8, (s.lane (b * 8 + l)).queue = []) :
    (applyAtInstant (tgtLk b) s).cut = (markApplied (tgtLk b) s.cut.swapI s).cut := by
  have hr : (tgtLk b : Nat) - 0x50 = b := Nat.add_sub_cancel_left _ _
  have hall : ((List.range 8).all fun c => (s.lane (b * 8 + c)).queue.isEmpty) = true :=
    List.all_eq_true.mpr fun c hc => by rw [h ⟨c, List.mem_range.mp hc⟩]; rfl
  unfold applyAtInstant
  simp only [tgtHk, tgtSc, tgtTx, tgtAq, hr, hall]
  rw [if_neg (by unfold tgtLk; omega), if_neg (by unfold tgtLk; omega), if_neg (by unfold tgtLk; omega), if_neg (by unfold tgtLk; omega),
    if_pos (by unfold tgtLk; omega), if_pos trivial]
  exact applyLk_cut hwait

theorem applyAtInstant_hk (hwait : s.cut.waiting.contains tgtHk = true) (h : s.hkRuns = false) :
    (applyAtInstant tgtHk s).cut = (markApplied tgtHk s.cut.swapI s).cut := by
  rw [applyAtInstant, if_pos rfl, if_neg (by rw [h]; decide), applyHk_cut hwait]

theorem applyAtInstant_sc (h : s.loopsIdle = true ∨ s.scRuns = false) : (applyAtInstant tgtSc s).cut = (markApplied tgtSc s.cut.swapI s).cut := by
  rw [applyAtInstant, if_neg (by decide), if_pos rfl, if_pos (by simpa using h), applySc_cut]

theorem applyAtInstant_tx (h : ∀ q : Fin 64, s.seqScheduled q = false) : (applyAtInstant tgtTx s).cut = (markApplied tgtTx s.cut.swapI s).cut := by
  have hany : ¬ (List.range 64).any s.seqScheduled = true := by
    rw [List.any_eq_true]
    rintro ⟨q, hq, hs⟩
    exact absurd hs (by rw [h ⟨q, List.mem_range.mp hq⟩]; decide)
  rw [applyAtInstant, if_neg (by decide), if_neg (by decide), if_pos rfl, if_neg hany, dropRearms_cut]

theorem applyAtInstant_aq (hwait : s.cut.waiting.contains tgtAq = true) (h : s.earliest = none ∨ s.aqOn = false) :
    (applyAtInstant tgtAq s).cut = (markApplied tgtAq s.cut.swapI s).cut := by
  rw [applyAtInstant, if_neg (by decide), if_neg (by decide), if_neg (by decide), if_pos rfl, if_pos (by simpa using h), applyAq_cut hwait]

/-! ### SWAP_DONE -/

/-- The swap is done: its stamps stand, and the old plane is gone (R31, R69). -/
def State.swapEnded (s : State) : State :=
  let u := setReg64 CUT_SWAP_LAST_LO s.cut.lastStamp (setReg64 CUT_SWAP_FIRST_LO s.cut.firstStamp s)
  flag CUT_STATUS CUT_STATUS.swap_done { u with cut := { u.cut with inSwap := false, old := none } }

theorem swapEnded_kept {p : Part} (h : p ∉ [.regs, .cut, .mgmt, .shadow]) : Kept p s s.swapEnded :=
  flag_kept (ne_of_untouched h) (ne_of_untouched h) (mk_kept (setReg64_kept (ne_of_untouched h) (setReg64_kept (ne_of_untouched h) (.refl p s))))

theorem swapEnded_cut : s.swapEnded.cut = { s.cut with inSwap := false, old := none } := flag_kept (p := .cut) (by decide) (by decide) (.refl _ _)

theorem swapEnded_reg (h : a ≠ CUT_STATUS) (h1 : a ≠ REC_LOST) (h2 : a ≠ REC_STATUS) :
    s.swapEnded.reg a = (setReg64 CUT_SWAP_LAST_LO s.cut.lastStamp (setReg64 CUT_SWAP_FIRST_LO s.cut.firstStamp s)).reg a := flag_reg h h1 h2

theorem swapEnded_status : s.swapEnded.reg CUT_STATUS = setBit CUT_STATUS.swap_done.lo (s.reg CUT_STATUS) := by
  rw [State.swapEnded, flag_reg_same (by decide) (by decide)]
  refine congrArg _ ?_
  show (setReg64 CUT_SWAP_LAST_LO s.cut.lastStamp (setReg64 CUT_SWAP_FIRST_LO s.cut.firstStamp s)).reg CUT_STATUS = _
  rw [setReg64, setReg64, setReg_reg_other (by decide), setReg_reg_other (by decide), setReg_reg_other (by decide), setReg_reg_other (by decide)]

theorem swapEnded_shadowState : s.swapEnded.shadowState = s.shadowState := by
  rw [State.shadowState, State.fget, swapEnded_status, getF_setBit (by decide)]
  rfl

theorem setReg64_reg64_mod {v : Nat} : (setReg64 a v s).reg64 a = v % 2 ^ 64 := by
  rw [State.reg64, setReg64, setReg_reg_same, setReg_reg_other (by omega), setReg_reg_same, w32, w32, BitVec.toNat_ofNat, BitVec.toNat_ofNat]
  omega

theorem swapEnded_first : s.swapEnded.reg64 CUT_SWAP_FIRST_LO = s.cut.firstStamp % 2 ^ 64 := by
  rw [State.reg64, swapEnded_reg (by decide) (by decide) (by decide), swapEnded_reg (by decide) (by decide) (by decide), setReg64,
    setReg_reg_other (by decide), setReg_reg_other (by decide), setReg_reg_other (by decide), setReg_reg_other (by decide)]
  exact setReg64_reg64_mod

theorem swapEnded_last : s.swapEnded.reg64 CUT_SWAP_LAST_LO = s.cut.lastStamp % 2 ^ 64 := by
  rw [State.reg64, swapEnded_reg (by decide) (by decide) (by decide), swapEnded_reg (by decide) (by decide) (by decide)]
  exact setReg64_reg64_mod

theorem swapDone_eq (hin : s.cut.inSwap = true) (hwait : s.cut.waiting = []) (hrom : s.fw.romPending = false) :
    exec .swapDone s = .next (if s.shadowState = 6 then emptyShadow s.swapEnded else s.swapEnded) := by
  have hfw : (if s.shadowState = 6 then emptyShadow s.swapEnded else s.swapEnded).fw = s.fw := by
    have h := swapEnded_kept (s := s) (p := .fw) (by decide)
    exact ite_kept (p := .fw) (emptyShadow_kept (by decide) (by decide) (by decide) h) h
  refine congrArg Host.Outcome.next ?_
  rw [if_pos (by rw [hin, hwait]; rfl)]
  extract_lets s1 c s2 s3
  have h3 : s3 = if s.shadowState = 6 then emptyShadow s.swapEnded else s.swapEnded := by
    rw [← swapEnded_shadowState]
    rfl
  rw [h3, hfw, hrom]
  rfl

/-! ### The empty shadow plane -/

/-- The registers of an empty shadow plane. -/
def State.emptied (s : State) : State := setRegs (SHADOW_DIGEST 0) (List.replicate 8 0)
  (fsets CUT_STATUS [(CUT_STATUS.shadow_state, 0), (CUT_STATUS.owner, 0), (CUT_STATUS.owner_lane, 0)] s)

theorem emptyShadow_reg (h : a ≠ CUT_STATUS) (hd : a < SHADOW_DIGEST 0) : (emptyShadow s).reg a = s.reg a := by
  have hregs : (emptyShadow s).reg a = s.emptied.reg a := rfl
  rw [hregs, State.emptied, setRegs_reg_other (.inl hd), fsets_reg, if_neg h]

theorem emptyShadow_status : (emptyShadow s).reg CUT_STATUS =
    setF CUT_STATUS.owner_lane 0 (setF CUT_STATUS.owner 0 (setF CUT_STATUS.shadow_state 0 (s.reg CUT_STATUS))) := by
  have hregs : (emptyShadow s).reg CUT_STATUS = s.emptied.reg CUT_STATUS := rfl
  rw [hregs, State.emptied, setRegs_reg_other (.inl (by decide)), fsets_reg, if_pos rfl]
  rfl

theorem emptyShadow_digest {j : Fin 8} : (emptyShadow s).reg (SHADOW_DIGEST j) = 0 :=
  setRegs_reg_at (a := SHADOW_DIGEST 0) (i := j) (by rw [List.getElem?_replicate, if_pos j.isLt])

theorem emptyShadow_shadowState : (emptyShadow s).shadowState = 0 := by
  rw [State.shadowState, State.fget, emptyShadow_status, getF_setF_other (by decide), getF_setF_other (by decide), getF_setF_same (by decide)]
  rfl

theorem emptyShadow_owner : (emptyShadow s).fget CUT_STATUS CUT_STATUS.owner = 0 := by
  rw [State.fget, emptyShadow_status, getF_setF_other (by decide), getF_setF_same (by decide)]
  rfl

theorem swapDone_takes (hin : s.cut.inSwap = true) (hwait : s.cut.waiting = []) (hrom : s.fw.romPending = false) :
    ∃ t, exec .swapDone s = .next t ∧ t.cut.inSwap = false ∧ t.cut.old = none ∧ t.cut.live = s.cut.live ∧
      t.reg64 CUT_SWAP_FIRST_LO = s.cut.firstStamp % 2 ^ 64 ∧ t.reg64 CUT_SWAP_LAST_LO = s.cut.lastStamp % 2 ^ 64 ∧
      t.rbit CUT_STATUS CUT_STATUS.swap_done.lo = true ∧
      (s.shadowState = 6 → t.shadowState = 0 ∧ t.cut.shadow = [] ∧ t.cut.staged = none ∧
        t.fget CUT_STATUS CUT_STATUS.owner = 0 ∧ ∀ j : Fin 8, t.reg (SHADOW_DIGEST j) = 0) ∧
      (s.shadowState ≠ 6 → t.shadowState = s.shadowState ∧ t.cut.shadow = s.cut.shadow) ∧ OnlyParts [.regs, .cut, .mgmt, .shadow] s t := by
  refine ⟨_, swapDone_eq hin hwait hrom, ?_⟩
  by_cases h6 : s.shadowState = 6
  · rw [if_pos h6]
    have hcut : (emptyShadow s.swapEnded).cut = { s.swapEnded.cut with shadow := [], staged := none, stagedKeys := [], copying := none } := rfl
    rw [hcut, swapEnded_cut]
    refine ⟨rfl, rfl, rfl, ?_, ?_, ?_, fun _ => ⟨emptyShadow_shadowState, rfl, rfl, emptyShadow_owner, fun j => emptyShadow_digest⟩, fun h => absurd h6 h,
      fun p hp => emptyShadow_kept (ne_of_untouched hp) (ne_of_untouched hp) (ne_of_untouched hp) (swapEnded_kept hp)⟩
    · rw [← swapEnded_first, State.reg64, State.reg64, emptyShadow_reg (by decide) (by decide), emptyShadow_reg (by decide) (by decide)]
    · rw [← swapEnded_last, State.reg64, State.reg64, emptyShadow_reg (by decide) (by decide), emptyShadow_reg (by decide) (by decide)]
    · rw [State.rbit, emptyShadow_status, testBit_setF (by decide), if_neg (by decide), testBit_setF (by decide), if_neg (by decide), testBit_setF (by decide),
        if_neg (by decide), swapEnded_status, getLsbD_setBit (by decide)]
  · rw [if_neg h6, swapEnded_cut]
    refine ⟨rfl, rfl, rfl, swapEnded_first, swapEnded_last, ?_, fun h => absurd h h6, fun _ => ⟨swapEnded_shadowState, rfl⟩, fun p hp => swapEnded_kept hp⟩
    rw [State.rbit, swapEnded_status, getLsbD_setBit (by decide)]

/-- Settles O16: the swap comes at its instant, its targets follow, and its end empties the shadow plane. -/
theorem aSwapComesSpreadsAndEnds : Obligations.ASwapComesSpreadsAndEnds := by
  intro target i s c
  refine ⟨fun hat hi hin hepoch => ⟨_, swapApply_eq hat hi hin hepoch, ?_⟩, fun hwait hi htx hhk hsc haq hlk hrx hseq htarget => ?_, swapDone_takes⟩
  · have hspread := beginSwap_unspread (s := s) (i := i)
    have hshadow := congrArg CutState.shadow hspread
    obtain ⟨w, hw, hstand⟩ := beginSwap_mode (s := s) (i := i)
    have hfixed (hne : w.mode ≠ .armed ∧ w.mode ≠ .run) : (beginSwap i s).mode = w.mode := by
      rcases hstand with h | ⟨h, -⟩
      · exact h
      · simp_all
    refine ⟨congrArg CutState.live hspread, congrArg CutState.old hspread, congrArg CutState.inSwap hspread, congrArg CutState.swapAt hspread,
      congrArg CutState.swapI hspread, congrArg CutState.oldEpoch hspread, fun hearly => ?_, hshadow, fun hrom hboot hloader => ⟨?_, beginSwap_registers hrom⟩,
      fun hrom hloader => ?_, fun hrom => ?_, fun hrom hservice hboot => ?_⟩
    · rw [beginSwap_cut hearly]
      exact ⟨rfl, rfl, rfl⟩
    · rw [if_neg (by rw [hrom]; decide), if_neg (by simp [hboot, hloader])] at hw
      rcases hstand with h | ⟨-, h⟩
      · exact .inl (h.trans hw)
      · exact .inr h
    · rw [if_neg (by rw [hrom]; decide), if_pos (.inl hloader)] at hw
      rw [hfixed (by rw [hw]; decide), hw]
    · rw [if_pos hrom] at hw
      rw [hfixed (by rw [hw]; decide), hw]
    · rw [if_neg (by rw [hrom]; decide), if_pos (.inr ⟨hservice, hboot⟩)] at hw
      rw [hfixed (by rw [hw]; decide), hw]
  · refine changeAtInstant_takes hwait hi ?_
    rcases htarget with h | h | h | h | ⟨b, h⟩ | ⟨k, h⟩ | ⟨q, h⟩ <;> rw [h] at hwait ⊢
    · exact applyAtInstant_tx (htx h)
    · exact applyAtInstant_hk hwait (hhk h)
    · exact applyAtInstant_sc (hsc h)
    · exact applyAtInstant_aq hwait (haq h)
    · exact applyAtInstant_lk hwait (hlk b h)
    · exact applyAtInstant_rx hwait (hrx k h)
    · exact applyAtInstant_seq (hseq q h)

end Sys2Proof.Machine
end

/-!
PROOFS of the architecture statements, part 9: the copy of a slot, the check of a Cut and of the live plane (R59, R60, R64, R565, R616), O18.
-/
section
namespace Sys2Proof.Machine

set_option Elab.async false

variable {s t : State} {a k i n : Nat}

/-! ### The copy of a slot -/

/-- A table of the words of a stretch that are not 0. -/
def sparseOf (f : Nat → Word) (a n : Nat) : Sparse Word := (List.range' a n).filterMap (fun i => let w := f i; if w = 0 then none else some (i, w))

theorem sparseOf_succ {f : Nat → Word} : sparseOf f a (n + 1) = if f a = 0 then sparseOf f (a + 1) n else (a, f a) :: sparseOf f (a + 1) n := by
  rw [sparseOf, List.range'_succ]
  split_ifs with hz
  · exact List.filterMap_cons_none (if_pos hz)
  · exact List.filterMap_cons_some (if_neg hz)

theorem look_sparseOf {f : Nat → Word} : look (fun _ => 0) (sparseOf f a n) i = if a ≤ i ∧ i < a + n then f i else 0 := by
  induction n generalizing a with
  | zero => rw [if_neg (by omega)]; rfl
  | succ n ih =>
    have hrest : look (fun _ => 0) (sparseOf f (a + 1) n) i = if a + 1 ≤ i ∧ i < a + 1 + n then f i else 0 := ih
    have hlook : look (fun _ => 0) (sparseOf f a (n + 1)) i = if i = a then f a else look (fun _ => 0) (sparseOf f (a + 1) n) i := by
      rw [sparseOf_succ]
      split_ifs with hz he he
      · rw [hrest, if_neg (by omega), hz]
      · rfl
      · rw [look, if_pos he]
      · rw [look, if_neg he]
        by_cases hlt : i < a
        · rw [if_pos hlt, hrest, if_neg (by omega)]
        · rw [if_neg hlt]
    rw [hlook, hrest]
    by_cases he : i = a
    · rw [if_pos he, if_pos (by omega), he]
    · simp only [if_neg he, show (a + 1 ≤ i ∧ i < a + 1 + n) ↔ (a ≤ i ∧ i < a + (n + 1)) by omega]

/-- The words of a copy stand in the shadow plane. -/
def State.withShadow (s : State) (m : Sparse Word) : State := { s with cut := { s.cut with shadow := m } }

theorem withShadow_reg {m : Sparse Word} : (s.withShadow m).reg a = s.reg a := rfl

theorem withShadow_mgmt {m : Sparse Word} : (s.withShadow m).mgmt = s.mgmt := rfl

/-- The shadow plane once the copy of slot `k` has ended (R616). -/
def State.copied (s : State) (k : Nat) : State := drawFree (flagIf s.headerLost FW_FLAGS FW_FLAGS.flash_error
  (setReg CUT_SHADOW_LEN (w32 (s.slotLen k * 4)) (s.withShadow (sparseOf (s.slotWord k) 0 (s.slotLen k)))))

theorem loadSlotCopyDone_eq (hk : s.cut.copying = some k) (h1 : s.shadowState = 1) : exec .loadSlotCopyDone s = .next (beginValidate (s.copied k)) := by
  refine congrArg Host.Outcome.next ?_
  rw [hk]
  refine (if_pos h1).trans ?_
  rw [State.copied, State.withShadow, sparseOf, ← List.range_eq_range']

theorem copied_reg (h : a ≠ FW_FLAGS) (h1 : a ≠ REC_LOST) (h2 : a ≠ REC_STATUS) :
    (s.copied k).reg a = if a = CUT_SHADOW_LEN then w32 (s.slotLen k * 4) else s.reg a := by
  rw [State.copied, drawFree_reg, flagIf_reg h h1 h2, setReg_reg, withShadow_reg]


theorem beginValidate_cut : (beginValidate s).cut =
    { s.cut with presenceAtValidate := s.presence, staged := none, stagedKeys := [], copying := none } := rfl

theorem beginValidate_mgmt : (beginValidate s).mgmt = s.mgmt := beginValidate_kept (p := .mgmt) (by decide) (by decide) (.refl _ s)

theorem setRegs_reg_of_ne {ws : List Word} {b : Nat} (h : ∀ i, i < ws.length → b ≠ a + 4 * i) : (setRegs a ws s).reg b = s.reg b := by
  induction ws generalizing a s with
  | nil => rfl
  | cons w ws ih =>
    have hrest : ∀ i, i < ws.length → b ≠ a + 4 + 4 * i := fun i hi => by
      have hnext := h (i + 1) (Nat.succ_lt_succ hi)
      omega
    have hfirst : b ≠ a := h 0 (Nat.succ_pos _)
    rw [setRegs, ih hrest, setReg_reg_other hfirst]

theorem beginValidate_reg (hd : ∀ j, j < 8 → a ≠ SHADOW_DIGEST j) (h : a ≠ CUT_STATUS) : (beginValidate s).reg a = s.reg a :=
  (setReg_reg_other h).trans (setRegs_reg_of_ne hd)

theorem beginValidate_shadowState : (beginValidate s).shadowState = 2 := fset_fget_same (s := setRegs (SHADOW_DIGEST 0) (List.replicate 8 0) s) (by decide)

theorem beginValidate_digest {j : Fin 8} : (beginValidate s).reg (SHADOW_DIGEST j) = 0 := by
  have hne : SHADOW_DIGEST j ≠ CUT_STATUS := by simp only [SHADOW_DIGEST, CUT_STATUS, baseCf]; omega
  exact (setReg_reg_other hne).trans (setRegs_reg_at (a := SHADOW_DIGEST 0) (i := j) (by rw [List.getElem?_replicate, if_pos j.isLt]))

theorem loadSlotCopyDone_takes (hk : s.cut.copying = some k) (h1 : s.shadowState = 1) : ∃ t, exec .loadSlotCopyDone s = .next t ∧ t.shadowState = 2 ∧
    (524288 < (s.slotWord k 7).toNat → s.slotLen k = 524288) ∧ ((s.slotWord k 7).toNat ≤ 524288 → s.headerLost = false → s.slotLen k = (s.slotWord k 7).toNat) ∧
    t.reg CUT_SHADOW_LEN = BitVec.ofNat 32 (s.slotLen k * 4) ∧
    (∀ i, t.shadowWord i = if i < s.slotLen k then s.slotWord k i else 0) ∧ (∀ j : Fin 8, t.reg (SHADOW_DIGEST j) = 0) ∧ t.cut.copying = none ∧
    t.cut.staged = none ∧ (s.headerLost = true → t.rbit FW_FLAGS FW_FLAGS.flash_error.lo = true) ∧
    (s.headerLost = false → t.reg FW_FLAGS = s.reg FW_FLAGS ∧ t.mgmt = s.mgmt) ∧
    OnlyRegs ([CUT_STATUS, CUT_SHADOW_LEN, FW_FLAGS, REC_LOST, REC_STATUS] ++ (List.range 8).map SHADOW_DIGEST) s t ∧
    OnlyParts [.regs, .cut, .mgmt, .shadow, .fresh] s t := by
  have hcut : (s.copied k).cut = { s.cut with shadow := sparseOf (s.slotWord k) 0 (s.slotLen k) } := flagIf_kept (p := .cut) (by decide) (by decide) (.refl _ _)
  refine ⟨_, loadSlotCopyDone_eq hk h1, beginValidate_shadowState, fun h => ?_, fun h hlost => ?_, ?_, fun i => ?_, fun j => beginValidate_digest, ?_, ?_,
    fun hlost => ?_, fun hlost => ⟨?_, ?_⟩, fun a ha => ?_, fun p hp => exec_kept (loadSlotCopyDone_eq hk h1) fun h => hp ?_⟩
  · rw [State.slotLen, decide_eq_true h, Bool.or_true, if_pos rfl]
  · rw [State.slotLen, hlost, decide_eq_false (by omega), Bool.or_false, if_neg (by decide)]
  · rw [beginValidate_reg (by decide) (by decide), copied_reg (by decide) (by decide) (by decide), if_pos rfl, w32]
  · rw [State.shadowWord, beginValidate_cut, hcut, look_sparseOf]
    simp only [Nat.zero_le, true_and, Nat.zero_add]
  · rw [beginValidate_cut]
  · rw [beginValidate_cut]
  · rw [State.rbit, beginValidate_reg (by decide) (by decide), State.copied, drawFree_reg, flagIf, if_pos hlost, flag_reg_same (by decide) (by decide),
      getLsbD_setBit (by decide)]
  · rw [beginValidate_reg (by decide) (by decide), State.copied, drawFree_reg, flagIf, hlost, if_neg (by decide), setReg_reg_other (by decide), withShadow_reg]
  · rw [beginValidate_mgmt, State.copied, drawFree_mgmt, flagIf, hlost, if_neg (by decide), setReg_mgmt, withShadow_mgmt]
  · have hdigest : ∀ j, j < 8 → a ≠ SHADOW_DIGEST j := fun j hj e => ha (List.mem_append_right _ (List.mem_map.mpr ⟨j, List.mem_range.mpr hj, e.symm⟩))
    simp only [List.cons_append, List.nil_append, List.mem_cons, not_or] at ha
    obtain ⟨hstatus, hlen, hfw, hlost, hrec, -⟩ := ha
    rw [beginValidate_reg hdigest hstatus, copied_reg hfw hlost hrec, if_neg hlen]
  · simpa [touches, or_comm, or_left_comm, or_assoc] using h

/-! ### A check that passes -/

@[simp] theorem quiet_PWR_DOM_ON : quiet (PWR_DOM_ON i) = false := quiet_of_region (by simp only [PWR_DOM_ON, baseHk]; omega)

@[simp] theorem quiet_PWR_DOM_GOOD : quiet (PWR_DOM_GOOD i) = false := quiet_of_region (by simp only [PWR_DOM_GOOD, baseHk]; omega)

theorem setDomain_calm (h : quiet a = true) {d : Nat} {on good : Bool} : calm a (setDomain d on good s) = calm a s :=
  (setReg_calm h quiet_PWR_DOM_GOOD).trans (setReg_calm h quiet_PWR_DOM_ON)

theorem switchOnFor_calm (h : quiet a = true) {pl : Option Plane} : calm a (switchOnFor pl s) = calm a s :=
  (calm_mk rfl rfl).trans (foldl_proj fun _ _ => setDomain_calm h)

/-- The shadow plane once its check has passed (R60), before the domains of the plane are switched on. -/
def State.checked (s : State) : State :=
  flag CUT_STATUS CUT_STATUS.validated (setShadow 3 (setRegs (SHADOW_DIGEST 0) (sha256 (canonWords s.prospective))
    { s with cut := { s.cut with staged := some s.prospective, stagedKeys := (s.walk.1.filter (fun f => f.type ≠ 8)).map (fun f => (f.f0, f.f1)) }
             fw := { s.fw with stagedSigner := some (s.headerWord 8) } }))

theorem checked_kept {p : Part} (h : p ∉ [.regs, .cut, .mgmt, .fw, .shadow, .canon, .live, .minSec, .image, .keys]) : Kept p s s.checked :=
  flag_kept (ne_of_untouched h) (ne_of_untouched h) (fset_kept (ne_of_untouched h) (setRegs_kept (ne_of_untouched h) (mk_kept (.refl p s))))

theorem checked_cut : s.checked.cut = { s.cut with
    staged := some s.prospective, stagedKeys := (s.walk.1.filter (fun f => f.type ≠ 8)).map (fun f => (f.f0, f.f1)) } :=
  flag_kept (p := .cut) (by decide) (by decide) (fset_kept (by decide) (setRegs_kept (by decide) (.refl _ _)))

theorem checked_status : ∃ w, s.checked.reg CUT_STATUS = setBit CUT_STATUS.validated.lo (setF CUT_STATUS.shadow_state 3 w) :=
  ⟨_, (flag_reg_same (by decide) (by decide)).trans (congrArg _ (fset_reg.trans (if_pos rfl)))⟩

theorem shadowDigest_ne_status {j : Nat} : SHADOW_DIGEST j ≠ CUT_STATUS := by
  simp only [SHADOW_DIGEST, CUT_STATUS, baseCf]
  omega

theorem shadowDigest_ne_swapFrame {j : Nat} : SHADOW_DIGEST j ≠ CUT_SWAP_FRAME := by
  simp only [SHADOW_DIGEST, CUT_SWAP_FRAME, baseCf]
  omega

theorem quiet_shadowDigest {j : Fin 8} : quiet (SHADOW_DIGEST j) = true := by
  revert j
  decide

theorem checked_digest {j : Fin 8} {w : Word} (h : (sha256 (canonWords s.prospective))[j.val]? = some w) : s.checked.reg (SHADOW_DIGEST j) = w := by
  have hq : quiet (SHADOW_DIGEST j) = true := quiet_shadowDigest
  exact (flag_reg shadowDigest_ne_status (ne_of_quiet hq (by decide)) (ne_of_quiet hq (by decide))).trans ((setReg_reg_other shadowDigest_ne_status).trans (setRegs_reg_at (a := SHADOW_DIGEST 0) h))

theorem passed_cut : (passed s).cut = s.checked.cut := switchOnFor_kept (p := .cut) (by decide) (by decide) (.refl _ _)

theorem passed_mode : (passed s).mode = s.mode :=
  switchOnFor_kept (p := .mode) (by decide) (by decide) (checked_kept (by decide))

theorem passed_now : (passed s).now = s.now :=
  congrArg (fun x : Timebase => x.tbase.toNat) (switchOnFor_kept (p := .time) (by decide) (by decide) (checked_kept (by decide)))

theorem passed_reg (h : quiet a = true) : (passed s).reg a = s.checked.reg a := reg_of_calm (switchOnFor_calm h)

theorem scheduleAt_cut {x : Inst} : (scheduleAt x s).cut = { s.cut with swapAt := some x, order := s.time.accepted } := rfl

theorem scheduleAt_mode {x : Inst} : (scheduleAt x s).mode = s.mode := rfl

theorem scheduleAt_reg {x : Inst} : (scheduleAt x s).reg a = if a = CUT_STATUS then setF CUT_STATUS.shadow_state 5 (s.reg CUT_STATUS) else s.reg a :=
  setReg_reg

theorem passed_takes {t : State} {own : Bool} (ht : t = if own then scheduleAt (.atTime ((passed s).now + 10000)) (setReg CUT_SWAP_FRAME 0 (passed s)) else passed s) :
    t.cut.staged = some s.prospective ∧
      (∀ (j : Fin 8) w, (sha256 (canonWords s.prospective))[j.val]? = some w → t.reg (SHADOW_DIGEST j) = w) ∧
      t.rbit CUT_STATUS CUT_STATUS.validated.lo = true ∧ t.shadowState = (if own then 5 else 3) ∧
      (own = true → t.cut.swapAt = some (.atTime (s.now + 10000))) ∧ (own = false → t.cut.swapAt = s.cut.swapAt) ∧
      t.cut.live = s.cut.live ∧ t.cut.shadow = s.cut.shadow ∧ t.mode = s.mode := by
  have hcut : (passed s).cut = _ := passed_cut.trans checked_cut
  obtain ⟨w0, hstatus⟩ := checked_status (s := s)
  have hdigest (j : Fin 8) (w : Word) (h : (sha256 (canonWords s.prospective))[j.val]? = some w) : (passed s).reg (SHADOW_DIGEST j) = w :=
    (passed_reg quiet_shadowDigest).trans (checked_digest h)
  have hpassed : (passed s).reg CUT_STATUS = _ := (passed_reg (by decide)).trans hstatus
  cases own with
  | false =>
    rw [if_neg (by decide)] at ht
    subst ht
    refine ⟨by rw [hcut], hdigest, ?_, ?_, fun h => absurd h (by decide), fun _ => by rw [hcut], by rw [hcut], by rw [hcut], passed_mode⟩
    · rw [State.rbit, hpassed, getLsbD_setBit (by decide)]
    · rw [State.shadowState, State.fget, hpassed, getF_setBit (by decide), getF_setF_same (by decide)]
      rfl
  | true =>
    rw [if_pos rfl, passed_now] at ht
    have htcut : t.cut = { (passed s).cut with swapAt := some (.atTime (s.now + 10000)), order := (passed s).time.accepted } := by rw [ht, scheduleAt_cut, setReg_cut, setReg_time]
    have htreg {a : Nat} (h : a ≠ CUT_SWAP_FRAME) : t.reg a = if a = CUT_STATUS then setF CUT_STATUS.shadow_state 5 ((passed s).reg CUT_STATUS) else (passed s).reg a := by
      rw [ht, scheduleAt_reg, setReg_reg_other h, setReg_reg_other (by decide)]
    have htmode : t.mode = (passed s).mode := by rw [ht, scheduleAt_mode, setReg_mode]
    rw [htcut, hcut, htmode, passed_mode]
    refine ⟨rfl, fun j w h => ?_, ?_, ?_, fun _ => rfl, fun h => absurd h (by decide), rfl, rfl, rfl⟩
    · rw [htreg (shadowDigest_ne_swapFrame), if_neg shadowDigest_ne_status, hdigest j w h]
    · rw [State.rbit, htreg (by decide), if_pos rfl, testBit_setF (by decide), if_neg (by decide), hpassed, getLsbD_setBit (by decide)]
    · rw [State.shadowState, State.fget, htreg (by decide), if_pos rfl, getF_setF_same (by decide)]
      rfl

/-! ### A check that fails -/

theorem unstage_cut : (unstage s).cut = { s.cut with staged := none, stagedKeys := [] } := by
  have hoff (u : State) : (switchOffShadow u).cut = u.cut := by
    apply switchOffShadow_kept (p := .cut) (k := .refl _ u) <;> decide
  exact hoff _

theorem unstage_mode : (unstage s).mode = s.mode := by
  apply unstage_kept (p := .mode) (k := .refl _ s) <;> decide

theorem failed_of_unstaged {e : Nat × Nat} {p : Part} (hregs : p ≠ .regs) (hmgmt : p ≠ .mgmt) : Kept p (unstage s) (failed e s) :=
  flag_kept hregs hmgmt (fset_kept hregs (fsets_kept hregs (.refl p _)))

theorem failed_cut {e : Nat × Nat} : (failed e s).cut = { s.cut with staged := none, stagedKeys := [] } :=
  Eq.trans (failed_of_unstaged (p := .cut) (by decide) (by decide)) unstage_cut

theorem failed_forShadow {e : Nat × Nat} : (failed e s).hk.forShadow = [] :=
  congrArg Hk.forShadow (failed_of_unstaged (p := .hk) (by decide) (by decide))

theorem failed_mode {e : Nat × Nat} : (failed e s).mode = s.mode :=
  Eq.trans (failed_of_unstaged (p := .mode) (by decide) (by decide)) unstage_mode

theorem failed_error {e : Nat × Nat} : ∃ w, (failed e s).reg CUT_ERROR = setF CUT_ERROR.frame e.2 (setF CUT_ERROR.code e.1 w) :=
  ⟨_, (flag_reg (by decide) (by decide) (by decide)).trans ((setReg_reg_other (by decide)).trans (fsets_reg.trans (if_pos rfl)))⟩

theorem failed_status {e : Nat × Nat} : ∃ w, (failed e s).reg CUT_STATUS = setBit CUT_STATUS.validate_failed.lo (setF CUT_STATUS.shadow_state 4 w) :=
  ⟨_, (flag_reg_same (by decide) (by decide)).trans (congrArg _ (fset_reg.trans (if_pos rfl)))⟩

theorem switchOffShadow_of_none (h : s.hk.forShadow = []) : switchOffShadow s = s := by
  rw [switchOffShadow, h]
  show ({ s with hk := { s.hk with forShadow := [] } } : State) = s
  rw [← h]

theorem bootFailed_eq {code : Nat} (h : s.hk.forShadow = []) : bootFailed code s =
    { emptyShadow (fsets MODE_STATUS [(MODE_STATUS.phase, 7), (MODE_STATUS.boot_cut_code, code)] s) with startup := { s.startup with boot := false } } := by
  have hoff : switchOffShadow (fsets MODE_STATUS [(MODE_STATUS.phase, 7), (MODE_STATUS.boot_cut_code, code)] s) = _ := switchOffShadow_of_none h
  have hstartup (u : State) : (emptyShadow u).startup = u.startup := emptyShadow_kept (p := .startup) (by decide) (by decide) (by decide) (.refl _ u)
  rw [bootFailed, discardShadow, hoff, hstartup, fsets_startup]

theorem withStartup_reg {x : Startup} : ({ s with startup := x } : State).reg a = s.reg a := rfl

theorem withStartup_cut {x : Startup} : ({ s with startup := x } : State).cut = s.cut := rfl

theorem withStartup_mode {x : Startup} : ({ s with startup := x } : State).mode = s.mode := rfl

theorem bootFailed_reg {code : Nat} (h : s.hk.forShadow = []) : (bootFailed code s).reg a =
    (emptyShadow (fsets MODE_STATUS [(MODE_STATUS.phase, 7), (MODE_STATUS.boot_cut_code, code)] s)).reg a := by
  rw [bootFailed_eq h, withStartup_reg]

theorem emptyShadow_cut : (emptyShadow s).cut = { s.cut with shadow := [], staged := none, stagedKeys := [], copying := none } :=
  congrArg (fun c : CutState => { c with shadow := [], staged := none, stagedKeys := [], copying := none })
    (setRegs_kept (p := .cut) (by decide) (fsets_kept (by decide) (.refl _ s)))

theorem bootFailed_cut {code : Nat} (h : s.hk.forShadow = []) :
    (bootFailed code s).cut = { s.cut with shadow := [], staged := none, stagedKeys := [], copying := none } := by
  rw [bootFailed_eq h, withStartup_cut, emptyShadow_cut, fsets_cut]

theorem bootFailed_boot {code : Nat} : (bootFailed code s).startup.boot = false := rfl

theorem bootFailed_mode_status {code : Nat} (h : s.hk.forShadow = []) :
    (bootFailed code s).reg MODE_STATUS = setF MODE_STATUS.boot_cut_code code (setF MODE_STATUS.phase 7 (s.reg MODE_STATUS)) := by
  rw [bootFailed_reg h, emptyShadow_reg (by decide) (by decide), fsets_reg, if_pos rfl]
  rfl

theorem failed_takes {t : State} {own : Bool} {e : Nat × Nat} (ht : t = if own then bootFailed e.1 (failed e s) else failed e s) (hcode : e.1 < 256) (hframe : e.2 < 65536) :
    t.fget CUT_ERROR CUT_ERROR.code = e.1 ∧ t.fget CUT_ERROR CUT_ERROR.frame = e.2 ∧
      t.rbit CUT_STATUS CUT_STATUS.validate_failed.lo = true ∧ t.cut.staged = none ∧ t.cut.live = s.cut.live ∧ t.mode = s.mode ∧
      (own = false → t.shadowState = 4 ∧ t.cut.shadow = s.cut.shadow) ∧
      (own = true → t.shadowState = 0 ∧ t.cut.shadow = [] ∧ t.fget MODE_STATUS MODE_STATUS.phase = 7 ∧ t.startup.boot = false ∧
        t.fget MODE_STATUS MODE_STATUS.boot_cut_code = e.1) := by
  obtain ⟨w0, herror⟩ := failed_error (s := s) (e := e)
  obtain ⟨w1, hstatus⟩ := failed_status (s := s) (e := e)
  have hcut := failed_cut (s := s) (e := e)
  have hcodeOf (h : t.reg CUT_ERROR = (failed e s).reg CUT_ERROR) : t.fget CUT_ERROR CUT_ERROR.code = e.1 := by
    rw [State.fget, h, herror, getF_setF_other (by decide), getF_setF_same (by decide)]
    exact Nat.mod_eq_of_lt hcode
  have hframeOf (h : t.reg CUT_ERROR = (failed e s).reg CUT_ERROR) : t.fget CUT_ERROR CUT_ERROR.frame = e.2 := by
    rw [State.fget, h, herror, getF_setF_same (by decide)]
    exact Nat.mod_eq_of_lt hframe
  cases own with
  | false =>
    rw [if_neg (by decide)] at ht
    subst ht
    refine ⟨hcodeOf rfl, hframeOf rfl, ?_, by rw [hcut], by rw [hcut], failed_mode, fun _ => ⟨?_, by rw [hcut]⟩, fun h => absurd h (by decide)⟩
    · rw [State.rbit, hstatus, getLsbD_setBit (by decide)]
    · rw [State.shadowState, State.fget, hstatus, getF_setBit (by decide), getF_setF_same (by decide)]
      rfl
  | true =>
    rw [if_pos rfl] at ht
    subst ht
    have hnone := failed_forShadow (s := s) (e := e)
    have hsame : (bootFailed e.1 (failed e s)).reg CUT_ERROR = (failed e s).reg CUT_ERROR := by
      rw [bootFailed_reg hnone, emptyShadow_reg (by decide) (by decide), fsets_reg, if_neg (by decide)]
    have hmode : (bootFailed e.1 (failed e s)).mode = s.mode := by
      rw [bootFailed_eq hnone, withStartup_mode]
      exact Eq.trans (emptyShadow_kept (p := .mode) (by decide) (by decide) (by decide) (fsets_kept (by decide) (.refl _ _))) failed_mode
    refine ⟨hcodeOf hsame, hframeOf hsame, ?_, by rw [bootFailed_cut hnone], by rw [bootFailed_cut hnone, hcut], hmode, fun h => absurd h (by decide),
      fun _ => ⟨?_, by rw [bootFailed_cut hnone], ?_, bootFailed_boot, ?_⟩⟩
    · rw [State.rbit, bootFailed_reg hnone, emptyShadow_status, testBit_setF (by decide), if_neg (by decide), testBit_setF (by decide), if_neg (by decide),
        testBit_setF (by decide), if_neg (by decide), fsets_reg, if_neg (by decide), hstatus, getLsbD_setBit (by decide)]
    · rw [State.shadowState, State.fget, bootFailed_reg hnone]
      exact emptyShadow_shadowState
    · rw [State.fget, bootFailed_mode_status hnone, getF_setF_other (by decide), getF_setF_same (by decide)]
      rfl
    · rw [State.fget, bootFailed_mode_status hnone, getF_setF_same (by decide)]
      exact Nat.mod_eq_of_lt hcode

/-! ### The live plane is watched -/

/-- The live plane with the upset of a check in it (R64). -/
def State.upsetBy (s : State) (u : Option (Nat × Word)) : State :=
  { s with cut := { s.cut with upsets := match u with
      | some (i, m) => put (fun _ => 0) s.cut.upsets i (look (fun _ => 0) s.cut.upsets i ^^^ m)
      | none => s.cut.upsets } }

theorem upsetBy_none : s.upsetBy none = s := rfl

theorem liveRedigest_eq {p : Plane} {u : Option (Nat × Word)} (h : s.cut.live = some p) : exec (.liveRedigest u) s = .next
    (if sha256 ((s.upsetBy u).storedLive p) = (s.upsetBy u).regsFrom (LIVE_DIGEST 0) 8 then s.upsetBy u
      else chipReaction .digest 0 CUT_STATUS (flag CUT_STATUS CUT_STATUS.digest_fault (s.upsetBy u))) := by
  refine congrArg Host.Outcome.next ?_
  rw [h]
  cases u with
  | none => rw [upsetBy_none]
  | some u => rfl

theorem digestFault_takes : let t := chipReaction .digest 0 CUT_STATUS (flag CUT_STATUS CUT_STATUS.digest_fault s)
    Reacted .digest s t ∧ t.rbit CUT_STATUS CUT_STATUS.digest_fault.lo = true ∧ t.cut = s.cut := by
  have hflag {p : Part} (hregs : p ≠ .regs) (hmgmt : p ≠ .mgmt) : Kept p s (flag CUT_STATUS CUT_STATUS.digest_fault s) := flag_kept hregs hmgmt (.refl p s)
  refine ⟨chipReaction_reacted.of_mode_startup (hflag (p := .mode) (by decide) (by decide)) (hflag (p := .startup) (by decide) (by decide)), ?_, ?_⟩
  · rw [State.rbit, reg_of_calm (chipReaction_calm (by decide)), flag_reg_same (by decide) (by decide), getLsbD_setBit (by decide)]
  · apply chipReaction_kept (p := .cut) (k := hflag (p := .cut) (by decide) (by decide)) <;> decide

/-! ### O18 -/

/-- Settles O18: the copy, the two verdicts and the two outcomes of a check of the live plane, each as one of the lemmas above states it. -/
theorem validationEndsAndTheLiveDigestIsWatched : Obligations.ValidationEndsAndTheLiveDigestIsWatched := by
  intro s upset c own stored
  refine ⟨fun k hk h1 => loadSlotCopyDone_takes hk h1, fun h2 hok => ⟨_, ?_, passed_takes (own := own) rfl⟩,
    fun h2 hbad hcode hframe => ⟨_, ?_, failed_takes (own := own) rfl hcode hframe⟩, fun p hp => ⟨fun hsame => ?_, fun hdiff => ?_⟩⟩
  · exact congrArg Host.Outcome.next ((if_pos h2).trans (if_pos hok))
  · exact congrArg Host.Outcome.next ((if_pos h2).trans (if_neg hbad))
  · exact (liveRedigest_eq hp).trans (congrArg Host.Outcome.next (if_pos hsame))
  · exact ⟨_, (liveRedigest_eq hp).trans (congrArg Host.Outcome.next (if_neg hdiff)), digestFault_takes (s := s.upsetBy upset)⟩

end Sys2Proof.Machine
end

/-!
PROOFS of the architecture statements, part 10: the pixels of a block, from their boundary to their reading (R182 to R189, R220), O22.
-/
section
namespace Sys2Proof.Machine

set_option Elab.async false

variable {s t u : State} {a c k i n frame m : Nat} {b : RxBlk} {p q : Pixel}

/-! ### The pixel of a frame and number -/

/-- The pixel has this frame and number. -/
def Pixel.named (frame m : Nat) (p : Pixel) : Bool := decide (p.frame = frame ∧ p.m = m)

theorem pixel_eq_or : b.pixel frame m = (b.bufX.filter (Pixel.named frame m)).or (b.bufY.filter (Pixel.named frame m)) := by
  unfold RxBlk.pixel
  cases b.bufX with
  | none => cases b.bufY <;> simp [Option.filter, Pixel.named]
  | some x =>
    by_cases hx : x.frame = frame ∧ x.m = m
    · simp [Option.filter, Pixel.named, hx]
    · cases b.bufY <;> simp [Option.filter, Pixel.named, hx]

/-- A change of a pixel that leaves its frame and number is a change of the pixel named. -/
theorem pixel_mapPixel {f : Pixel → Pixel} (hf : ∀ v, (f v).frame = v.frame ∧ (f v).m = v.m) :
    (b.mapPixel frame m f).pixel frame m = (b.pixel frame m).map f := by
  have hbuf (o : Option Pixel) : (o.map fun v => if v.frame = frame ∧ v.m = m then f v else v).filter (Pixel.named frame m) =
      (o.filter (Pixel.named frame m)).map f := by
    cases o with
    | none => rfl
    | some v =>
      by_cases hv : v.frame = frame ∧ v.m = m
      · simp [Option.filter, Pixel.named, hf, hv]
      · simp [Option.filter, Pixel.named, hv]
  rw [pixel_eq_or, pixel_eq_or, Option.map_or, ← hbuf, ← hbuf]
  rfl

theorem cell_of_kept (h : Kept .rx s t) : t.cell c = s.cell c := congrArg (fun x : Rx => look (fun _ => ({} : Cell)) x.cells c) h

theorem setBlk_cell {j : Nat} : (setBlk j b s).cell c = s.cell c := rfl

/-! ### A boundary opens a pixel -/

/-- A block but for what a boundary uses up. -/
def RxBlk.lasting (b : RxBlk) : RxBlk := { b with opens := [], skewNext := none }

/-- What decides whether a block takes part, and the block itself but for what a boundary uses up (R41, R117, R187). -/
def State.boundaryView (s : State) (k : Nat) : RxBlk × List Nat × List Nat × Bool × Word × Word :=
  ((s.blk k).lasting, s.startup.notReady, s.startup.isolated, s.time.running, s.reg REGION_FENCE, s.reg (PWR_DOM_GOOD (k / 32)))

theorem takesPart_of_boundaryView (h : t.boundaryView k = s.boundaryView k) : t.takesPart k = s.takesPart k := by
  simp only [State.boundaryView, Prod.mk.injEq] at h
  obtain ⟨hlasting, hready, hisolated, hrun, hfence, hgood⟩ := h
  have hseen : (t.blk k).markersSeen = (s.blk k).markersSeen := show (t.blk k).lasting.markersSeen = (s.blk k).lasting.markersSeen from congrArg _ hlasting
  simp only [State.takesPart, State.fenced, State.isolated, State.domGood, State.rbit, hseen, hready, hisolated, hrun, hfence, hgood]

theorem setBlk_boundaryView (h : b.lasting = (s.blk k).lasting) : (setBlk k b s).boundaryView k = s.boundaryView k := by
  show (((setBlk k b s).blk k).lasting, _) = _
  rw [setBlk_blk_same, h]
  rfl

theorem setReg_boundaryView {v : Word} (h : 0x8000000 ≤ a) (hk : k < 48) : (setReg a v s).boundaryView k = s.boundaryView k := by
  have hfence : REGION_FENCE ≠ a := by simp only [REGION_FENCE, baseCf]; omega
  have hgood : PWR_DOM_GOOD (k / 32) ≠ a := by simp only [PWR_DOM_GOOD, baseHk]; omega
  show (_, _, _, _, (setReg a v s).reg REGION_FENCE, (setReg a v s).reg (PWR_DOM_GOOD (k / 32))) = _
  rw [setReg_reg_other hfence, setReg_reg_other hgood]
  rfl

theorem setCell_boundaryView {x : Cell} : (setCell c x s).boundaryView k = s.boundaryView k := rfl

theorem dropWrite_boundaryView {r j : Nat} : (dropWrite r j s).boundaryView k = s.boundaryView k := by
  unfold dropWrite
  split_ifs <;> rfl

theorem boundaryView_ite {x : Prop} [Decidable x] : (if x then s else t).boundaryView k = if x then s.boundaryView k else t.boundaryView k :=
  apply_ite (fun v : State => v.boundaryView k) _ _ _

theorem baseRxCell_ge : 0x8000000 ≤ baseRxCell c := by
  simp only [baseRxCell]
  omega

theorem baseRxBlk_ge : 0x8000000 ≤ baseRxBlk k := by
  simp only [baseRxBlk]
  omega

theorem cellFlags_ge : 0x8000000 ≤ HS_CELL_FLAGS c := baseRxCell_ge.trans (Nat.le_add_right _ _)

theorem cellStatus_ge : 0x8000000 ≤ RX_CELL_STATUS c := baseRxCell_ge.trans (Nat.le_add_right _ _)

theorem applyThreshold_boundaryView {pl : Option Plane} (hk : k < 48) : (applyThreshold pl c s).boundaryView k = s.boundaryView k := by
  unfold applyThreshold
  rw [boundaryView_ite]
  split_ifs
  · rfl
  · rw [setCell_boundaryView]
    exact setReg_boundaryView cellStatus_ge hk

theorem dropWaiting_boundaryView {pl : Option Plane} : (dropWaiting pl c s).boundaryView k = s.boundaryView k := by
  unfold dropWaiting
  rw [boundaryView_ite, dropWrite_boundaryView, setCell_boundaryView, ite_self]

theorem clearCounts_boundaryView (hk : k < 48) : (clearCounts c s).boundaryView k = s.boundaryView k := by
  have hbase : 0x8000000 ≤ GD_CELL_CNT0 c := baseRxCell_ge.trans (Nat.le_add_right _ _)
  simp only [clearCounts, setRegs]
  rw [setReg_boundaryView (by omega) hk, setReg_boundaryView (by omega) hk, setReg_boundaryView (by omega) hk, setReg_boundaryView hbase hk]

theorem rtBoundary_of_none {pl : Option Plane} {stamp : Nat} (h : s.rx.rtWrites = []) : rtBoundary pl k stamp s = s := by
  rw [rtBoundary, h]
  show ({ s with rx := { s.rx with rtWrites := [] } } : State) = s
  rw [← h]

theorem applyWaiting_boundaryView {stamp : Nat} (hk : k < 48) (h : s.rx.rtWrites = []) : (applyWaiting k stamp s).boundaryView k = s.boundaryView k := by
  unfold applyWaiting
  extract_lets pl s1 _ s2
  have h1 : s1 = s := rtBoundary_of_none h
  have h2 : s2.boundaryView k = s.boundaryView k := by
    simp only [s2, h1]
    split
    next v _ =>
      refine (setBlk_boundaryView (s := fset (GD_BLK_SKEW k) _ _ s) ?_).trans (setReg_boundaryView (baseRxBlk_ge.trans (Nat.le_add_right _ _)) hk)
      show ({ s1.blk k with skewNext := none } : RxBlk).lasting = (s.blk k).lasting
      rw [h1]
      rfl
    · rfl
  refine (forUp_proj (π := fun v : State => v.boundaryView k) fun j v => ?_).trans h2
  extract_lets c t x t1 _ t2
  have ht : t.boundaryView k = v.boundaryView k := dropWaiting_boundaryView
  have ht1 : t1.boundaryView k = t.boundaryView k := by
    simp only [t1, boundaryView_ite]
    rw [fset, setReg_boundaryView cellStatus_ge hk, setCell_boundaryView, ite_self]
  have ht2 : t2.boundaryView k = t1.boundaryView k := by
    simp only [t2, boundaryView_ite]
    rw [clearCounts_boundaryView hk, setCell_boundaryView, ite_self]
  rw [boundaryView_ite, applyThreshold_boundaryView hk, ite_self, ht2, ht1, ht]

/-! ### A boundary opens a pixel (R20, R187) -/

theorem stampChanges_boundaryView {f : Nat → Bool} {stamp : Nat} : (stampChanges f stamp s).boundaryView k = s.boundaryView k := by
  unfold stampChanges
  split_ifs <;> rfl

theorem fgBoundary_of_none {start : Nat} (hback : (s.blk k).fgBack = false) (hwait : (s.blk k).fgWait = none) : fgBoundary k start s = s := by
  rw [fgBoundary]
  simp only [hback, hwait]
  rfl

theorem fgLeft_bufs : ((fgLeft k s).blk k).bufX = (s.blk k).bufX ∧ ((fgLeft k s).blk k).bufY = (s.blk k).bufY := by
  unfold fgLeft
  extract_lets b old
  split_ifs
  · have hblk : (fgBegin k s).blk k = { s.blk k with fgRunning := true, fgLeave := false, fgWait := none } := setBlk_blk_same
    rw [hblk]
    exact ⟨rfl, rfl⟩
  · exact ⟨rfl, rfl⟩

/-- The buffers of a block after a boundary: the one that did not open last holds the pixel. -/
def RxBlk.opened (b : RxBlk) (p : Pixel) : RxBlk := if b.nextBuffer then { b with bufY := some p } else { b with bufX := some p }

theorem opened_next : (if b.nextBuffer then (b.opened p).bufY else (b.opened p).bufX) = some p := by
  unfold RxBlk.opened
  split_ifs <;> rfl

theorem openBoundary_opens {o : PixOpen} (hk : k < 48) (hwaiting : s.cut.waiting = []) (hwrites : s.rx.rtWrites = []) (hpart : s.takesPart k = true)
    (hwait : (s.blk k).fgWait = none) (hback : (s.blk k).fgBack = false) : ∃ p, (if (s.blk k).nextBuffer then ((openBoundary k o s).blk k).bufY else ((openBoundary k o s).blk k).bufX) = some p ∧
      p.frame = o.frame ∧ p.m = o.m ∧ p.start = o.start ∧ p.shots = o.shots ∧ p.index = o.index ∧ p.closedAt = none ∧ p.read = 0 := by
  have happly : (if s.cut.swapI ≤ o.start then applyRx k o.start s else s) = s := by
    rw [applyRx, hwaiting]
    exact ite_self s
  unfold openBoundary
  rw [happly]
  extract_lets _ s2 s3 p b s4
  have hview : s2.boundaryView k = s.boundaryView k := stampChanges_boundaryView.trans (applyWaiting_boundaryView hk hwrites)
  have hlasting : (s2.blk k).lasting = (s.blk k).lasting := congrArg Prod.fst hview
  have h3 : s3 = s2 := fgBoundary_of_none ((congrArg RxBlk.fgBack hlasting).trans hback) ((congrArg RxBlk.fgWait hlasting).trans hwait)
  have hnext : b.nextBuffer = (s.blk k).nextBuffer := by
    have hnext' : (s2.blk k).lasting.nextBuffer = (s.blk k).lasting.nextBuffer := congrArg _ hlasting
    simp only [b, h3]
    exact hnext'
  have h4 : s4.blk k = b.opened p := setBlk_blk_same
  have hshow : (showWins k p s4).blk k = s4.blk k := blk_of_kept (showWins_kept (by decide) (.refl _ s4))
  obtain ⟨hx, hy⟩ := fgLeft_bufs (k := k) (s := showWins k p s4)
  rw [if_pos ((takesPart_of_boundaryView hview).trans hpart), hx, hy, hshow, h4, ← hnext]
  exact ⟨p, opened_next, rfl, rfl, rfl, rfl, rfl, rfl, rfl⟩

theorem pixelBoundary_eq {block : Fin 48} {o : PixOpen} {rest : List PixOpen} (hopens : (s.blk block).opens = o :: rest) (hshoot : s.shooting = true)
    (hstart : o.start ≤ s.now) : exec (.pixelBoundary block) s = .next (openBoundary block o (setBlk block { s.blk block with opens := rest } s)) := by
  refine congrArg Host.Outcome.next ?_
  simp only [hopens, hshoot, decide_eq_false (not_lt.mpr hstart)]
  exact if_neg (by decide)

theorem pixelBoundary_early {block : Fin 48} {o : PixOpen} {rest : List PixOpen} (hopens : (s.blk block).opens = o :: rest) (hnow : s.now < o.start) :
    exec (.pixelBoundary block) s = .next s := by
  refine congrArg Host.Outcome.next ?_
  simp only [hopens, decide_eq_true hnow]
  exact if_pos rfl

/-! ### A pulse enters its bin (R182 to R184) -/

theorem pulsePlace_eq {cell : Fin 768} {pu : EdgeWord} {rest : List EdgeWord} (hout : (s.cell cell).out = pu :: rest) (hnext : s.nextPulse cell = cell.val) :
    exec (.pulsePlace cell false false) s = .next (placePulse cell pu false false (setCell cell { s.cell cell with out := rest } s)) := by
  refine congrArg Host.Outcome.next ?_
  rw [hnext]
  show (match (s.cell cell).out with
    | [] => s
    | pu :: rest => placePulse cell pu false false (setCell cell { s.cell cell with out := rest } s)) = _
  rw [hout]

theorem placePulse_late {pu : EdgeWord} (h : (s.blk (c / 16)).pixel pu.frame pu.m = none ∨ ∃ p, (s.blk (c / 16)).pixel pu.frame pu.m = some p ∧ p.closedAt.isSome = true) :
    placePulse c pu false false s = gdCount c 7 s := by
  unfold placePulse
  obtain hnone | ⟨p, hp, hclosed⟩ := h
  · simp only [hnone]
  · simp only [hp, hclosed, if_true]

theorem sliceCell_of_single {pl : Option Plane} (h : rxPairing pl c = 0) : sliceCell pl c = c := by
  rw [sliceCell, h, if_neg (by decide)]

theorem nBins_of_single {pl : Option Plane} (h : rxPairing pl c = 0) : nBins pl c = 256 := by
  rw [nBins, h, if_neg (by decide)]

/-- An open pixel of a block whose stages are used takes the pulse of a shot that is not discounted. -/
structure Takes (s : State) (c : Nat) (pu : EdgeWord) (p : Pixel) : Prop where
  pixel : (s.blk (c / 16)).pixel pu.frame pu.m = some p
  opened : p.closedAt = none
  stages : stageList p.plane (rxRegion (c / 16)) ≠ []
  single : rxPairing p.plane c = 0
  counted : (s.blk (c / 16)).uncounted pu.frame pu.m pu.shot (c % 16) = false

theorem placePulse_outside {pu : EdgeWord} (h : Takes s c pu p)
    (hbin : pu.interval < 256 * (p.win c).o ∨ 256 ≤ (pu.interval - 256 * (p.win c).o) / 2 ^ (8 + (p.win c).kEff)) :
    placePulse c pu false false s = bumpOvf (HS_CELL_CNT c) HS_CELL_CNT.out_window_count 1 (HS_CELL_FLAGS c) HS_CELL_FLAGS.out_window_ovf.lo s := by
  obtain ⟨hp, hopen, hstages, hsingle, hcounted⟩ := h
  unfold placePulse
  simp only [hp, hopen, Option.isSome_none, hcounted, hstages, sliceCell_of_single hsingle, nBins_of_single hsingle]
  rw [if_neg (by decide), if_neg (by decide), if_pos (hbin.imp_right .inl)]

/-- The ledger's shift and the dither of a pulse's shot, where the ledger is kept (R202). -/
def ledgerOf (s : State) (c : Nat) (pu : EdgeWord) (p : Pixel) : Option (Nat × Nat) :=
  match ditherStep p.plane (c / 16), (s.blk (c / 16)).slotOf pu.frame pu.m pu.shot with
  | some u, some sl => some (ledgerG 256 (p.win c).kEff u, sl.code * u)
  | _, _ => none

theorem placePulse_inside {pu : EdgeWord} (h : Takes s c pu p) (hlow : 256 * (p.win c).o ≤ pu.interval)
    (hbin : (pu.interval - 256 * (p.win c).o) / 2 ^ (8 + (p.win c).kEff) < 256)
    (hreach : 256 * (p.win c).o + (pu.interval - 256 * (p.win c).o) / 2 ^ (8 + (p.win c).kEff) * 2 ^ (8 + (p.win c).kEff) < (p.win c).reach * 256) :
    ∃ y, y = (p.cell (c % 16)).place 256 (p.win c).kEff (pu.interval - 256 * (p.win c).o) pu.shot pu.overload (ledgerOf s c pu p) ∧
      ((y.saturated && !(p.cell (c % 16)).saturated) = false → placePulse c pu false false s =
        setBlk (c / 16) ((s.blk (c / 16)).mapPixel pu.frame pu.m (fun v => v.setCell (c % 16) y)) (countRmw (c / 16 / 8) s)) := by
  obtain ⟨hp, hopen, hstages, hsingle, hcounted⟩ := h
  refine ⟨_, rfl, fun hsat => ?_⟩
  unfold placePulse
  simp only [hp, hopen, Option.isSome_none, hcounted, hstages, sliceCell_of_single hsingle, nBins_of_single hsingle]
  rw [if_neg (by decide), if_neg (by decide), if_neg (by omega), if_neg (by decide)]
  refine (if_neg (by rw [Bool.not_eq_true]; exact hsat)).trans ?_
  rfl

theorem toNat_binWord {n f : Nat} (hn : n < 2048) (hf : f < 2 ^ 21) : (w32 (n * 2 ^ 21 + f)).toNat = n * 2 ^ 21 + f := by
  rw [w32, BitVec.toNat_ofNat]
  omega

theorem place_bins {x : CellPix} {n k d shot f : Nat} {ovl : Bool} {led : Option (Nat × Nat)} {w : Word} (hbin : d / 2 ^ (8 + k) < n)
    (hw : w = look (fun _ => 0) x.bins (d / 2 ^ (8 + k))) (hf : f = finePos k (d % 2 ^ (8 + k))) (hcount : binCount w < 2046) :
    (x.place n k d shot ovl led).bins = put (fun _ => 0) x.bins (d / 2 ^ (8 + k)) (w32 ((binCount w + 1) * 2 ^ 21 + (binFine w + f))) ∧
      (x.place n k d shot ovl led).saturated = x.saturated := by
  subst hw hf
  unfold CellPix.place
  rw [if_neg (by omega)]
  constructor
  · exact if_pos (by rw [decide_eq_true_eq]; omega)
  · have hlow : binCount (look (fun _ => 0) x.bins (d / 2 ^ (8 + k))) < 2047 := by omega
    have hne : binCount (look (fun _ => 0) x.bins (d / 2 ^ (8 + k))) ≠ 2046 := by omega
    show (x.saturated || !decide (binCount (look (fun _ => 0) x.bins (d / 2 ^ (8 + k))) < 2047) || decide (binCount (look (fun _ => 0) x.bins (d / 2 ^ (8 + k))) = 2046)) = _
    rw [decide_eq_true hlow, decide_eq_false hne, Bool.not_true, Bool.or_false, Bool.or_false]

theorem binCount_binWord {n f : Nat} (hn : n < 2048) (hf : f < 2 ^ 21) : binCount (w32 (n * 2 ^ 21 + f)) = n := by
  rw [binCount, toNat_binWord hn hf]
  omega

theorem binFine_binWord {n f : Nat} (hn : n < 2048) (hf : f < 2 ^ 21) : binFine (w32 (n * 2 ^ 21 + f)) = f := by
  rw [binFine, toNat_binWord hn hf]
  omega

theorem setCell_pixelCell {x : CellPix} {j : Nat} : (p.setCell i x).cell j = if j = i then x else p.cell j := look_put _ _ _ _

/-- A pulse within the window adds to its bin, and to no other (R182, R183). -/
theorem placePulse_fills {pu : EdgeWord} {w : CellWin} {d bin : Nat} (h : Takes s c pu p) (hwin : w = p.win c) (hd : d = pu.interval - 256 * w.o)
    (hbin : bin = d / 2 ^ (8 + w.kEff)) (hlow : 256 * w.o ≤ pu.interval) (h256 : bin < 256) (hreach : 256 * w.o + bin * 2 ^ (8 + w.kEff) < w.reach * 256)
    (hcount : binCount (look (fun _ => 0) (p.cell (c % 16)).bins bin) < 2046)
    (hfine : binFine (look (fun _ => 0) (p.cell (c % 16)).bins bin) + finePos w.kEff (d % 2 ^ (8 + w.kEff)) < 2 ^ 21) :
    ∃ t p', placePulse c pu false false s = t ∧ t.cell c = s.cell c ∧ (t.blk (c / 16)).pixel pu.frame pu.m = some p' ∧
      binCount (look (fun _ => 0) (p'.cell (c % 16)).bins bin) = binCount (look (fun _ => 0) (p.cell (c % 16)).bins bin) + 1 ∧
      binFine (look (fun _ => 0) (p'.cell (c % 16)).bins bin) = binFine (look (fun _ => 0) (p.cell (c % 16)).bins bin) + finePos w.kEff (d % 2 ^ (8 + w.kEff)) ∧
      (∀ j, j ≠ bin → look (fun _ => 0) (p'.cell (c % 16)).bins j = look (fun _ => 0) (p.cell (c % 16)).bins j) ∧
      (∀ j, j ≠ c % 16 → p'.cell j = p.cell j) ∧ t.regs = s.regs := by
  subst hbin hd hwin
  obtain ⟨y, hy, hplace⟩ := placePulse_inside h hlow h256 hreach
  obtain ⟨hbins, hsat⟩ := place_bins (x := p.cell (c % 16)) (shot := pu.shot) (ovl := pu.overload) (led := ledgerOf s c pu p) h256 rfl rfl hcount
  rw [← hy] at hbins hsat
  have hcell : (p.setCell (c % 16) y).cell (c % 16) = y := by rw [setCell_pixelCell, if_pos rfl]
  refine ⟨_, p.setCell (c % 16) y, hplace (by rw [hsat, Bool.and_not_self]), rfl, ?_, ?_, ?_, fun j hj => ?_, fun j hj => ?_, rfl⟩
  · rw [setBlk_blk_same]
    exact (pixel_mapPixel (f := fun v => v.setCell (c % 16) y) fun _ => ⟨rfl, rfl⟩).trans (congrArg (Option.map _) h.pixel)
  · rw [hcell, hbins, look_put_same, binCount_binWord (by omega) hfine]
  · rw [hcell, hbins, look_put_same, binFine_binWord (by omega) hfine]
  · rw [hcell, hbins, look_put_other _ _ hj]
  · rw [setCell_pixelCell, if_neg hj]

/-! ### A shot is judged (R89) -/

theorem winClose_le {w : Win} : s.winClose c w ≤ w.start + w.view.hi := by
  unfold State.winClose
  extract_lets b z
  split
  · exact min_le_right _ _
  · split
    · split_ifs
      · exact min_le_right _ _
      · exact le_rfl
    · exact le_rfl

/-- The shot of a fire window counts for the cell (R89). -/
def State.shotCounts (s : State) (c : Nat) (w : Win) (sl : Slot) : Bool :=
  !(s.winBlanked c w || sl.dark || decide (w.start + w.view.lo < (s.cell c).settleUntil * 2048))

theorem flagIf_cell {x : Bool} {r : Nat} {f : Fld} : (flagIf x r f s).cell c = s.cell c := cell_of_kept (flagIf_kept (by decide) (by decide) (.refl _ s))

theorem flagIf_blk {x : Bool} {r : Nat} {f : Fld} : (flagIf x r f s).blk k = s.blk k := blk_of_kept (flagIf_kept (by decide) (by decide) (.refl _ s))

theorem mapPixel_slots {f : Pixel → Pixel} : (b.mapPixel frame m f).slots = b.slots := rfl

/-- What the judgement of a cell's only window, a fire window of a pixel that the block holds, leaves of the cell and of the block. -/
theorem closeShot_judges {w : Win} {sl : Slot} (hwins : (s.cell c).wins = [w]) (hjudged : w.judged = false) (hfire : w.kind = .fire)
    (hp : (s.blk (c / 16)).pixel w.frame w.m = some p) (hend : w.start + w.view.hi ≤ s.now * 2048) (hslot : (s.blk (c / 16)).slotOf w.frame w.m w.k = some sl) :
    ((closeShot c s).1.cell c).wins = [{ w with judged := true, notes := [] }] ∧
      ((closeShot c s).1.blk (c / 16)).slots = ((s.blk (c / 16)).judge w (c % 16) (s.shotCounts c w sl)).slots ∧
      (s.shotCounts c w sl = false → ((closeShot c s).1.cell c).out = (s.cell c).out.filter (fun u => !(u.frame = w.frame && u.m = w.m && u.shot = w.k))) := by
  have hfind : (s.cell c).wins.reverse.find? (fun w => !w.judged && decide (s.winClose c w ≤ s.now * 2048)) = some w := by
    rw [hwins, List.reverse_singleton, List.find?_singleton, hjudged, decide_eq_true (winClose_le.trans hend)]
    rfl
  unfold closeShot
  have hcounts : (!s.winBlanked c w && !decide (w.start + w.view.lo < (s.cell c).settleUntil * 2048) && !sl.dark) = s.shotCounts c w sl := by
    rw [State.shotCounts, Bool.not_or, Bool.not_or, Bool.and_right_comm]
  simp only [hfind, hp, hslot, flagIf_cell, flagIf_blk, setBlk_cell, setBlk_blk_same, setCell_cell_same, mapPixel_slots, decide_eq_true hfire, Bool.true_and, hcounts]
  rw [hwins, List.map_singleton, if_pos rfl]
  refine ⟨rfl, trivial, fun h => ?_⟩
  rw [h]
  rfl

theorem judge_slots {w : Win} {sl : Slot} {counted : Bool} (hslots : b.slots = [sl]) (hown : sl.own = true) (hframe : sl.frame = w.frame) (hm : sl.m = w.m)
    (hk : sl.k = w.k) (hi : sl.judged.testBit i = false) :
    (b.judge w i counted).slots = [{ sl with judged := sl.judged + 2 ^ i, counted := sl.counted + (if counted then 2 ^ i else 0) }] := by
  rw [RxBlk.judge, hslots, List.map_singleton, if_pos ⟨hown, hframe, hm, hk, hi⟩]

theorem slotOf_single {sl : Slot} {j : Nat} (hslots : b.slots = [sl]) (hown : sl.own = true) (hframe : sl.frame = frame) (hm : sl.m = m) (hk : sl.k = j) :
    b.slotOf frame m j = some sl := by
  rw [RxBlk.slotOf, hslots, List.find?_singleton, if_pos (decide_eq_true ⟨hown, hframe, hm, hk⟩)]

theorem shotWindowClose_rx {cell : Fin 768} : ∃ t, exec (.shotWindowClose cell) s = .next t ∧ t.rx = (closeShot cell s).1.rx := by
  refine ⟨_, rfl, ?_⟩
  cases h : closeShot cell s with
  | mk u o =>
    cases o with
    | none => rfl
    | some w => exact shotRange_kept (p := .rx) (by decide) (by decide) (by decide) (by decide) (by decide) (by decide) (.refl _ u)

theorem shotWindowClose_takes {cell : Fin 768} {w : Win} {sl : Slot} (hwins : (s.cell cell).wins = [w]) (hjudged : w.judged = false) (hfire : w.kind = .fire)
    (hp : (s.blk (cell.val / 16)).pixel w.frame w.m = some p) (hend : w.start + w.view.hi ≤ s.now * 2048) (hslots : (s.blk (cell.val / 16)).slots = [sl])
    (hown : sl.own = true) (hframe : sl.frame = w.frame) (hm : sl.m = w.m) (hk : sl.k = w.k) (hi : sl.judged.testBit (cell.val % 16) = false) :
    ∃ t sl', exec (.shotWindowClose cell) s = .next t ∧ (t.cell cell).wins = [{ w with judged := true, notes := [] }] ∧ (t.blk (cell.val / 16)).slots = [sl'] ∧
      sl'.judged = sl.judged + 2 ^ (cell.val % 16) ∧
      sl'.counted = sl.counted + (if s.winBlanked cell w || sl.dark || decide (w.start + w.view.lo < (s.cell cell).settleUntil * 2048) then 0 else 2 ^ (cell.val % 16)) ∧
      (s.winBlanked cell w = true → (t.cell cell).out = (s.cell cell).out.filter (fun u => !(u.frame = w.frame && u.m = w.m && u.shot = w.k))) := by
  obtain ⟨t, ht, hrx⟩ := shotWindowClose_rx (s := s) (cell := cell)
  obtain ⟨hwins', hslots', hout⟩ := closeShot_judges hwins hjudged hfire hp hend (slotOf_single hslots hown hframe hm hk)
  rw [judge_slots hslots hown hframe hm hk hi] at hslots'
  have hcell : t.cell cell = (closeShot cell s).1.cell cell := cell_of_kept hrx
  have hblk : t.blk (cell.val / 16) = (closeShot cell s).1.blk (cell.val / 16) := blk_of_kept hrx
  refine ⟨t, _, ht, hcell ▸ hwins', hblk ▸ hslots', rfl, ?_, fun h => ?_⟩
  · show sl.counted + (if s.shotCounts cell w sl then _ else 0) = _
    unfold State.shotCounts
    cases s.winBlanked cell w || sl.dark || decide (w.start + w.view.lo < (s.cell cell).settleUntil * 2048) <;> rfl
  · rw [hcell]
    exact hout (by rw [State.shotCounts, h]; rfl)

/-! ### A pixel closes (R187) -/

theorem pixelClose_early {block : Fin 48} {y : Bool} (hold : (s.blk block).oldest = some (p, y)) (hcut : p.cutAt = none)
    (hnow : s.now * 2048 < (closeAt block (s.blk block) p).2) : exec (.pixelClose block) s = .next s := by
  refine congrArg Host.Outcome.next ?_
  simp only [hold, hcut]
  exact if_pos hnow

/-- A pixel closed at an instant, with no flag added to it. -/
def Pixel.shut (instant : Nat) (p : Pixel) : Pixel := { p with closedAt := some instant, flags := p.flags ||| 0 }

/-- The block once its oldest pixel has closed, with no cap. -/
def State.closed (s : State) (k : Nat) (p : Pixel) (y : Bool) : State :=
  fset (HS_BLK_STATUS k) HS_BLK_STATUS.last_buffer (b2n y) (setBlk k ((s.blk k).mapPixel p.frame p.m (Pixel.shut (((closeAt k (s.blk k) p).2 + 2047) / 2048))) s)

theorem pixelClose_eq {block : Fin 48} {y : Bool} (hold : (s.blk block).oldest = some (p, y)) (hcut : p.cutAt = none)
    (hnow : (closeAt block (s.blk block) p).2 ≤ s.now * 2048) (hcap : (closeAt block (s.blk block) p).1 = (closeAt block (s.blk block) p).2) :
    exec (.pixelClose block) s = .next (fgLeft block (s.closed block p y)) := by
  refine congrArg Host.Outcome.next ?_
  simp only [hold, hcut, hcap, lt_irrefl, decide_false, Bool.and_false]
  exact if_neg (by omega)

theorem fgLeft_fget {r : Nat} {f : Fld} (h : r ≠ CAL_FG_STATUS) : (fgLeft k s).fget r f = s.fget r f := by
  unfold fgLeft
  extract_lets b old
  split_ifs
  · exact fset_fget_other h
  · rfl

theorem pixelClose_takes {block : Fin 48} {y : Bool} (hold : (s.blk block).oldest = some (p, y)) (hp : (s.blk block).pixel p.frame p.m = some p) (hcut : p.cutAt = none)
    (hnow : (closeAt block (s.blk block) p).2 ≤ s.now * 2048) (hcap : (closeAt block (s.blk block) p).1 = (closeAt block (s.blk block) p).2) :
    ∃ t p', exec (.pixelClose block) s = .next t ∧ (t.blk block).pixel p.frame p.m = some p' ∧
      p'.closedAt = some (((closeAt block (s.blk block) p).2 + 2047) / 2048) ∧ p'.flags = p.flags ∧
      t.fget (HS_BLK_STATUS block) HS_BLK_STATUS.last_buffer = (if y then 1 else 0) := by
  refine ⟨_, p.shut (((closeAt block (s.blk block) p).2 + 2047) / 2048), pixelClose_eq hold hcut hnow hcap, ?_, rfl,
    Nat.or_zero _, ?_⟩
  · obtain ⟨hx, hy⟩ := fgLeft_bufs (k := block) (s := s.closed block p y)
    rw [pixel_eq_or, hx, hy, ← pixel_eq_or]
    exact (congrArg (fun b : RxBlk => b.pixel p.frame p.m) setBlk_blk_same).trans ((pixel_mapPixel (f := Pixel.shut _) fun _ => ⟨rfl, rfl⟩).trans (congrArg (Option.map _) hp))
  · have hne : HS_BLK_STATUS block ≠ CAL_FG_STATUS := by
      have hge := baseRxBlk_ge (k := block)
      simp only [HS_BLK_STATUS, CAL_FG_STATUS, baseCf]
      omega
    rw [fgLeft_fget hne, State.closed, fset_fget_same (by decide)]
    cases y <;> rfl

/-! ### A cell is read (R188) -/

theorem cellExtract_early {cell : Fin 768} (hread : (s.blk (cell.val / 16)).reading = some p) (hnow : s.now < p.closedAt.getD 0 + 128 * (cell.val % 16)) :
    exec (.cellExtract cell false 0) s = .next s := by
  refine congrArg Host.Outcome.next ?_
  simp only [Fin.reduceEq, if_false, hread]
  rw [if_pos (.inr hnow)]

theorem cellExtract_takes {cell : Fin 768} {v : Pixel} (hread : (s.blk (cell.val / 16)).reading = some p) (hi : p.read = cell.val % 16)
    (hnow : p.closedAt.getD 0 + 128 * (cell.val % 16) ≤ s.now) (hfence : s.fenced (rxRegion (cell.val / 16)) = false) (hlast : cell.val % 16 ≠ 15)
    (hsingle : rxPairing p.plane cell = 0) (hreport : reporting p.plane (cell.val / 16) (cell.val % 16) = true) (hoff : s.mode ≠ .off) (hload : s.mode ≠ .loader)
    {s1 : State} (h1 : s1 = setBlk (cell.val / 16) ((s.blk (cell.val / 16)).mapPixel p.frame p.m (fun v => { v with read := cell.val % 16 + 1 })) s)
    (hv : (s1.blk (cell.val / 16)).pixel p.frame p.m = some v) :
    exec (.cellExtract cell false 0) s = .next (extract s1 (cell.val / 16) (cell.val % 16) v s1) := by
  have hcheck : checkable p.plane (cell.val / 16) (cell.val % 16) = true := (Bool.and_eq_true_iff.mp hreport).1
  refine congrArg Host.Outcome.next ?_
  simp only [Fin.reduceEq, if_false, hread]
  rw [if_neg (not_or.mpr ⟨not_not.mpr hi, not_lt.mpr hnow⟩), if_neg hlast]
  simp only [← h1, hfence, hcheck, hsingle, hreport, hv, flagIf, Bool.not_true, Bool.and_false, Bool.or_false, decide_false, Nat.reduceEqDiff, Bool.false_eq_true, if_false,
    cond_false, cond_true, hoff, hload, or_self]

/-! ### The histogram window (R184, R189, R545) -/

theorem histAddr_mod {n j c16 bin : Nat} {y : Bool} : histAddr n j c16 bin y % 4 = 0 := by
  unfold histAddr
  omega

/-- The window answers, in a state in which the block's bins can be read (R189, R545). -/
structure WindowOpen (s : State) (n j : Nat) : Prop where
  answers : s.answers = true
  unfenced : s.fenced (8 + n) = false
  good : s.domGood (n * 8 + j) = true
  notRun : s.mode ≠ .run
  notService : s.mode ≠ .service

/-- A bin read that is not uncorrectable: the word, and the flag of a corrected one. -/
theorem histRead_answers {q n j c16 bin ecc : Nat} {y : Bool} (h : WindowOpen s n j) (hecc : ecc ≠ 2) : histRead q n j c16 bin y ecc s =
    complete q 0 (histAddr n j c16 bin y) ((s.blk (n * 8 + j)).binWord (n * 8 + j) c16 y bin)
      (flagIf (decide (ecc = 1)) (HS_CELL_FLAGS ((n * 8 + j) * 16 + c16)) HS_CELL_FLAGS.ecc_corrected s) := by
  obtain ⟨hanswers, hfence, hgood, hrun, hservice⟩ := h
  unfold histRead
  simp only [hanswers, hfence, hgood, hrun, hservice, hecc, Bool.not_true, Bool.false_eq_true, if_false, or_self]

theorem histRead_clean {q n j c16 bin : Nat} {y : Bool} (h : WindowOpen s n j) : histRead q n j c16 bin y 0 s = setReq q { s.req q with
    status := 0, data := (s.blk (n * 8 + j)).binWord (n * 8 + j) c16 y bin, lastAccess := some (histAddr n j c16 bin y / 4 * 4) } s := by
  have haligned := histAddr_mod (n := n) (j := j) (c16 := c16) (bin := bin) (y := y)
  rw [histRead_answers h (by decide), flagIf, if_neg (by decide), complete_ok, if_neg (by omega)]

theorem histRead_uncorrectable {q n j c16 bin : Nat} {y : Bool} (h : WindowOpen s n j) : histRead q n j c16 bin y 2 s =
    complete q 8 (histAddr n j c16 bin y) 0xFFFFFFFF (maskCell ((n * 8 + j) * 16 + c16) (flag (HS_CELL_FLAGS ((n * 8 + j) * 16 + c16)) HS_CELL_FLAGS.ecc_fatal
      (drawFree (setBlk (n * 8 + j) ((s.blk (n * 8 + j)).spoilBin (n * 8 + j) c16 y bin s.free) s)))) := by
  obtain ⟨hanswers, hfence, hgood, hrun, hservice⟩ := h
  unfold histRead
  simp only [hanswers, hfence, hgood, hrun, hservice, Bool.not_true, Bool.false_eq_true, if_false, or_self, if_true]

theorem mgmtError_reg_rx {q status addr : Nat} (hq : q < 34) (h : 0x8000000 ≤ a) : (mgmtError q status addr s).reg a = s.reg a := by
  refine mgmtError_onlyRegs a fun hmem => ?_
  simp only [List.mem_cons, List.not_mem_nil, or_false, MGMT_ERR, MGMT_FLAGS, MGMT_ERR_ADDR, MGMT_ERR_INFO, REC_LOST, REC_STATUS, baseMgmt, baseRec] at hmem
  omega

/-- The registers of a receive region stand when an access completes. -/
theorem complete_reg_rx {q status addr : Nat} {w : Word} (hq : q < 34) (h : 0x8000000 ≤ a) : (complete q status addr w s).reg a = s.reg a := by
  by_cases hok : status = 0
  · rw [hok, complete_ok]
    rfl
  · rw [State.reg, complete_regs hok]
    exact mgmtError_reg_rx hq h

theorem cellFlags_ne : HS_CELL_FLAGS c ≠ RX_CELL_STATUS c ∧ HS_CELL_FLAGS c ≠ REC_LOST ∧ HS_CELL_FLAGS c ≠ REC_STATUS := by
  have hge := baseRxCell_ge (c := c)
  simp only [HS_CELL_FLAGS, RX_CELL_STATUS, REC_LOST, REC_STATUS, baseRec]
  omega

theorem histRead_corrected {q n j c16 bin : Nat} {y : Bool} (hq : q < 34) (h : WindowOpen s n j) :
    (histRead q n j c16 bin y 1 s).rbit (HS_CELL_FLAGS ((n * 8 + j) * 16 + c16)) HS_CELL_FLAGS.ecc_corrected.lo = true := by
  obtain ⟨-, hlost, hrec⟩ := cellFlags_ne (c := (n * 8 + j) * 16 + c16)
  rw [histRead_answers h (by decide), State.rbit, complete_reg_rx hq cellFlags_ge, flagIf, if_pos (by decide),
    flag_reg_same hlost hrec, getLsbD_setBit (by decide)]

theorem histRead_fatal {q n j c16 bin : Nat} {y : Bool} (hq : q < 34) (h : WindowOpen s n j) :
    (histRead q n j c16 bin y 2 s).rbit (HS_CELL_FLAGS ((n * 8 + j) * 16 + c16)) HS_CELL_FLAGS.ecc_fatal.lo = true ∧
      (histRead q n j c16 bin y 2 s).masked ((n * 8 + j) * 16 + c16) = true ∧ ((histRead q n j c16 bin y 2 s).req q).status = 8 := by
  obtain ⟨hstatus, hlost, hrec⟩ := cellFlags_ne (c := (n * 8 + j) * 16 + c16)
  rw [histRead_uncorrectable h]
  refine ⟨?_, ?_, complete_req.1⟩
  · rw [State.rbit, complete_reg_rx hq cellFlags_ge, maskCell, fset, setReg_reg_other hstatus, flag_reg_same hlost hrec,
      getLsbD_setBit (by decide)]
  · rw [State.masked, State.fget, complete_reg_rx hq cellStatus_ge, maskCell, fset, setReg_reg_same, getF_setF_same (by decide)]
    rfl

/-! ### O22 -/

/-- Settles O22: each event by its lemma above. -/
theorem pixelsOpenFillCloseAndAreRead : Obligations.PixelsOpenFillCloseAndAreRead := by
  intro block cell rx lane c16 bin8 inY q s b x k i at_
  refine ⟨fun o rest hopens hshoot hstart => ?_, fun o rest hopens hnow => ?_, fun pu rest hout hnext => ⟨fun hlate => ?_, ?_⟩, ?_, fun p y hold hp hcut => ?_,
    fun p hread hi => ?_, fun hanswers hfence hgood hrun hservice => ?_⟩
  · refine ⟨pixelBoundary_eq hopens hshoot hstart, fun hwaiting hwrites hpart hwait hback => ?_⟩
    have hblk : (setBlk block { b with opens := rest } s).blk block = { b with opens := rest } := setBlk_blk_same
    have hpart' : (setBlk block { b with opens := rest } s).takesPart block = true := (takesPart_of_boundaryView (setBlk_boundaryView (b := { b with opens := rest }) rfl)).trans hpart
    have h := openBoundary_opens (s := setBlk block { b with opens := rest } s) (o := o) block.isLt hwaiting hwrites hpart' (by rw [hblk]; exact hwait) (by rw [hblk]; exact hback)
    rw [hblk] at h
    exact ⟨_, pixelBoundary_eq hopens hshoot hstart, h⟩
  · exact pixelBoundary_early hopens hnow
  · rw [pulsePlace_eq hout hnext]
    exact congrArg Host.Outcome.next (placePulse_late hlate)
  · intro p hp hopen hstages hsingle hcounted w d bin
    have htakes : Takes (setCell cell { x with out := rest } s) cell pu p := ⟨hp, hopen, hstages, hsingle, hcounted⟩
    refine ⟨fun hlow h256 hreach hcount hfine => ?_, fun hbin => ?_⟩
    · obtain ⟨t, p', ht, hcell, hrest⟩ := placePulse_fills htakes rfl rfl rfl hlow h256 hreach hcount hfine
      refine ⟨t, p', (pulsePlace_eq hout hnext).trans (congrArg Host.Outcome.next ht), ?_, hrest⟩
      rw [hcell, setCell_cell_same]
    · exact (pulsePlace_eq hout hnext).trans (congrArg Host.Outcome.next (placePulse_outside htakes hbin))
  · exact fun w p sl hwins hjudged hfire hp hend hslots hown hframe hm hk hi => shotWindowClose_takes hwins hjudged hfire hp hend hslots hown hframe hm hk hi
  · exact ⟨pixelClose_early hold hcut, pixelClose_takes hold hp hcut⟩
  · refine ⟨cellExtract_early hread, fun hnow hfence hlast hsingle hreport hoff hload => ?_⟩
    intro s1 v hv
    exact cellExtract_takes hread hi hnow hfence hlast hsingle hreport hoff hload rfl hv
  · have hwin : WindowOpen s rx lane := ⟨hanswers, hfence, hgood, hrun, hservice⟩
    refine ⟨congrArg Host.Outcome.next (histRead_clean hwin), ⟨_, rfl, histRead_corrected q.isLt hwin⟩,
      ⟨_, rfl, histRead_fatal q.isLt hwin⟩⟩

end Sys2Proof.Machine
end

/-!
PROOFS of the architecture statements, part 11: the window of the shadow plane, its commands and its owner (R67, R68, R71, R73, R522, R547, R548, R616), O17.
-/
section
namespace Sys2Proof.Machine

set_option Elab.async false

variable {s t u : State} {a i n off : Nat} {w : Word}

/-! ### Writes of `CUT_CTRL` -/

/-- `CUT_CTRL` lies in CF, which answers it itself (R549). -/
theorem takes_cutCtrl (hs : s.answers = true) : s.takes CUT_CTRL := ⟨hs, if_pos (by decide)⟩

theorem cutWrite_owned {q : Nat} {f : State → State} (hs : s.answers = true) (ho : s.ownsShadow q = true) :
    hostWrite q CUT_CTRL (byOwner q f) s = completeOk q (CUT_CTRL + 1) (f s) := by
  rw [hostWrite_takes (takes_cutCtrl hs), byOwner, if_pos ho]

theorem cutWrite_foreign {q : Nat} {f : State → State} (hs : s.answers = true) (ho : s.ownsShadow q = false) :
    hostWrite q CUT_CTRL (byOwner q f) s = completeOk q (CUT_CTRL + 1) (cutRefuse 0x24 s) := by
  rw [hostWrite_takes (takes_cutCtrl hs), byOwner, if_neg (by rw [ho]; decide)]

theorem completeOk_status {q : Nat} : ((completeOk q a s).req q).status = 0 := complete_ok_answer.1

theorem completeOk_cut {q : Nat} : (completeOk q a s).cut = s.cut := rfl

theorem completeOk_shadowState {q : Nat} : (completeOk q a s).shadowState = s.shadowState := rfl

theorem completeOk_fget {q : Nat} {g : Fld} : (completeOk q a s).fget n g = s.fget n g := rfl

theorem completeOk_onlyRegs {q : Nat} {l : List Nat} (h : OnlyRegs l s t) : OnlyRegs l s (completeOk q a t) := h

/-! ### A plane that a requester begins to write -/

/-- The plane once a requester begins to write it: WRITING, of that requester where it was EMPTY, and no longer VALID (R67, R616). -/
def State.begun (q : Nat) (s : State) : State := setShadow 1 (takeShadow q (if s.shadowState = 3 then unstage s else s))

theorem begun_of_not_valid {q : Nat} (h3 : s.shadowState ≠ 3) : s.begun q = setShadow 1 (takeShadow q s) := by
  rw [State.begun, if_neg h3]

theorem takeShadow_onlyRegs {q : Nat} : OnlyRegs [CUT_STATUS] s (takeShadow q s) := by
  rw [takeShadow]
  split_ifs
  · exact OnlyRegs.refl.setReg (List.mem_singleton.mpr rfl)
  · exact .refl

theorem begun_shadowState {q : Nat} : (s.begun q).shadowState = 1 := fset_fget_same (by decide)

theorem begun_shadow {q : Nat} : (s.begun q).cut.shadow = s.cut.shadow := by
  have hcut (u : State) : (setShadow 1 (takeShadow q u)).cut = u.cut := fset_kept (p := .cut) (by decide) (takeShadow_kept (by decide) (.refl _ u))
  rw [State.begun, hcut]
  split_ifs
  · rw [unstage_cut]
  · rfl

theorem begun_owner {q : Requester} (h0 : s.shadowState = 0) :
    (s.begun q).fget CUT_STATUS CUT_STATUS.owner = ownerCode q ∧ (s.begun q).fget CUT_STATUS CUT_STATUS.owner_lane = ownerLane q := by
  have hcode : ownerCode q < 4 := by
    unfold ownerCode
    split_ifs <;> decide
  have hlane : ownerLane q < 32 := by
    unfold ownerLane
    split_ifs <;> omega
  have hreg : (s.begun q).reg CUT_STATUS = setF CUT_STATUS.shadow_state 1 (setF CUT_STATUS.owner_lane (ownerLane q) (setF CUT_STATUS.owner (ownerCode q) (s.reg CUT_STATUS))) := by
    rw [begun_of_not_valid (by rw [h0]; decide), takeShadow, if_pos h0, setShadow, fset_reg, if_pos rfl, fsets_reg, if_pos rfl]
    rfl
  rw [State.fget, State.fget, hreg, getF_setF_other (by decide), getF_setF_other (by decide), getF_setF_same (by decide), getF_setF_other (by decide),
    getF_setF_same (by decide)]
  exact ⟨Nat.mod_eq_of_lt hcode, Nat.mod_eq_of_lt hlane⟩

theorem begun_onlyRegs {q : Nat} (h3 : s.shadowState ≠ 3) : OnlyRegs [CUT_STATUS] s (s.begun q) := by
  rw [begun_of_not_valid h3]
  exact takeShadow_onlyRegs.setReg (List.mem_singleton.mpr rfl)

theorem begun_kept {q : Nat} {p : Part} (h3 : s.shadowState ≠ 3) (hregs : p ≠ .regs) : Kept p s (s.begun q) := by
  rw [begun_of_not_valid h3]
  exact fset_kept hregs (takeShadow_kept hregs (.refl p s))

/-! ### CUT_WINDOW_WRITE -/

theorem storeShadow_eq {q : Nat} : storeShadow q off w s = (s.begun q).withShadow (put (fun _ => 0) (s.begun q).cut.shadow off w) := rfl

theorem storeShadow_shadowState {q : Nat} : (storeShadow q off w s).shadowState = 1 := begun_shadowState

theorem storeShadow_shadowWord {q : Nat} : (storeShadow q off w s).shadowWord i = if i = off then w else s.shadowWord i := by
  rw [storeShadow_eq, begun_shadow]
  exact look_put _ _ _ _

theorem cutWindowStatus_granted {q : Nat} (ho : s.ownsShadow q = true) (h2 : s.shadowState ≠ 2) (h5 : s.shadowState ≠ 5) (h6 : s.shadowState ≠ 6) :
    s.cutWindowStatus q = 0 := by
  rw [State.cutWindowStatus, ho, if_neg (by decide), if_neg (by omega)]

theorem cutWindowStatus_foreign {q : Nat} (ho : s.ownsShadow q = false) : s.cutWindowStatus q = 7 := by
  rw [State.cutWindowStatus, ho]
  rfl

theorem cutWindowStatus_busy {q : Nat} (ho : s.ownsShadow q = true) (h : s.shadowState = 2 ∨ s.shadowState = 5 ∨ s.shadowState = 6) :
    s.cutWindowStatus q = 1 := by
  rw [State.cutWindowStatus, ho, if_neg (by decide), if_pos h]

/-- A write that the state and the owner allow is stored (R67, R547). -/
theorem cutWindowWrite_takes {q : Requester} {off : BitVec 19} (hs : s.answers = true) (ho : s.ownsShadow q = true) (h2 : s.shadowState ≠ 2)
    (h5 : s.shadowState ≠ 5) (h6 : s.shadowState ≠ 6) :
    ∃ t, exec (.cutWindowWrite q off w) s = .next t ∧ (t.req q).status = 0 ∧
      t.shadowWord off.toNat = w ∧ (∀ i, i ≠ off.toNat → t.shadowWord i = s.shadowWord i) ∧ t.shadowState = 1 ∧
      (s.shadowState = 0 → t.fget CUT_STATUS CUT_STATUS.owner = ownerCode q ∧ t.fget CUT_STATUS CUT_STATUS.owner_lane = ownerLane q) ∧
      (s.shadowState ≠ 3 → OnlyRegs [CUT_STATUS] s t ∧ OnlyParts [.regs, .cut, .mgmt, .shadow] s t) := by
  have hexec : exec (.cutWindowWrite q off w) s = .next (completeOk q (0x30000000 + 4 * off.toNat + 1) (storeShadow q off.toNat w s)) := by
    refine congrArg Host.Outcome.next ?_
    rw [windowWrite, hs, cutWindowStatus_granted ho h2 h5 h6]
    rfl
  refine ⟨_, hexec, completeOk_status, storeShadow_shadowWord.trans (if_pos rfl), fun i hi => storeShadow_shadowWord.trans (if_neg hi), completeOk_shadowState.trans storeShadow_shadowState,
    fun h0 => begun_owner h0,
    fun h3 => ⟨completeOk_onlyRegs (begun_onlyRegs h3), fun p hp => complete_ok_only_mgmt (ne_of_untouched hp) ?_⟩⟩
  exact cut_kept (ne_of_untouched hp) (ne_of_untouched hp) (fun ⟨_, _, hshadow, _⟩ => canon_put hshadow _ _) (begun_kept h3 (ne_of_untouched hp))

/-- Any other write is not stored, and ends with the status of its cause (R548). -/
theorem cutWindowWrite_reported {q : Requester} {off : BitVec 19} (hs : s.answers = true) (h1 : 1 ≤ n) (h8 : n ≤ 8) (hstatus : s.cutWindowStatus q = n) :
    ∃ t, exec (.cutWindowWrite q off w) s = .next t ∧ Reported q n (0x30000000 + 4 * off.toNat + 1) s t := by
  refine ⟨complete q n (0x30000000 + 4 * off.toNat + 1) 0 s, congrArg Host.Outcome.next ?_, complete_reported h1 h8⟩
  rw [windowWrite, hs, hstatus, if_neg (by decide), if_neg (by omega)]

/-! ### LOAD_SLOT -/

theorem loadSlot_refused {q slot : Nat} (h : s.pausing = true ∨ s.shadowState = 2) : loadSlot q slot s = cutRefuse 0x24 s := if_pos h

theorem loadSlot_starts {q slot : Nat} (hp : s.pausing = false) (h : s.shadowState = 0 ∨ s.shadowState = 1 ∨ s.shadowState = 3 ∨ s.shadowState = 4) :
    loadSlot q slot s = { s.begun q with cut := { (s.begun q).cut with copying := some slot } } := by
  rw [loadSlot]
  dsimp only
  rw [if_neg (not_or.mpr ⟨by rw [hp]; decide, by omega⟩), if_neg (by omega)]
  rfl

theorem loadSlot_takes {q : Requester} {slot : BitVec 2} (hs : s.answers = true) (ho : s.ownsShadow q = true) (hp : s.pausing = false)
    (h : s.shadowState = 0 ∨ s.shadowState = 1 ∨ s.shadowState = 3 ∨ s.shadowState = 4) :
    ∃ t, exec (.loadSlot q slot) s = .next t ∧ (t.req q).status = 0 ∧
      t.cut.copying = some slot.toNat ∧ t.shadowState = 1 ∧ t.cut.shadow = s.cut.shadow := by
  refine ⟨_, congrArg Host.Outcome.next (cutWrite_owned hs ho), completeOk_status, ?_, ?_, ?_⟩
  · rw [completeOk_cut, loadSlot_starts hp h]
  · rw [completeOk_shadowState, loadSlot_starts hp h]
    exact begun_shadowState
  · rw [completeOk_cut, loadSlot_starts hp h]
    exact begun_shadow

/-! ### VALIDATE -/

theorem validate_starts (h : s.shadowState = 1 ∨ s.shadowState = 3 ∨ s.shadowState = 4) : validate s = beginValidate s := by
  rw [validate]
  rcases h with h | h | h <;> rw [h] <;> rfl

theorem validate_empty (h : s.shadowState = 0) : validate s = cutRefuse 0x22 s := by
  rw [validate, h]
  rfl

theorem validate_busy (h : s.shadowState = 2) : validate s = cutRefuse 0x24 s := by
  rw [validate, h]
  rfl

theorem beginValidate_onlyRegs : OnlyRegs ([CUT_STATUS] ++ (List.range 8).map SHADOW_DIGEST) s (beginValidate s) := by
  intro a ha
  simp only [List.cons_append, List.nil_append, List.mem_cons, not_or] at ha
  obtain ⟨hstatus, hdigests⟩ := ha
  exact beginValidate_reg (fun j hj e => hdigests (List.mem_map.mpr ⟨j, List.mem_range.mpr hj, e.symm⟩)) hstatus

theorem validate_takes {q : Requester} (hs : s.answers = true) (ho : s.ownsShadow q = true)
    (h : s.shadowState = 1 ∨ s.shadowState = 3 ∨ s.shadowState = 4) :
    ∃ t, exec (.validate q) s = .next t ∧ (t.req q).status = 0 ∧ t.shadowState = 2 ∧
      t.cut = { s.cut with presenceAtValidate := s.presence, staged := none, stagedKeys := [], copying := none } ∧
      (∀ i : Fin 8, t.reg (SHADOW_DIGEST i) = 0) ∧ OnlyRegs ([CUT_STATUS] ++ (List.range 8).map SHADOW_DIGEST) s t ∧ OnlyParts [.regs, .cut, .mgmt] s t := by
  have hexec : exec (.validate q) s = .next (completeOk q (CUT_CTRL + 1) (beginValidate s)) :=
    congrArg Host.Outcome.next ((cutWrite_owned hs ho).trans (by rw [validate_starts h]))
  exact ⟨_, hexec, completeOk_status, completeOk_shadowState.trans beginValidate_shadowState, completeOk_cut.trans beginValidate_cut,
    fun i => completeOk_reg.trans beginValidate_digest, completeOk_onlyRegs beginValidate_onlyRegs,
    fun p hp => exec_kept hexec hp⟩

/-! ### SCHEDULE -/

/-- What SCHEDULE does with a VALID plane while no swap is scheduled or in progress, outside SERVICE and below the last epoch (R65, R68, R71). -/
theorem schedule_valid (h3 : s.shadowState = 3) (hmode : s.mode ≠ .service) (hat : s.cut.swapAt = none) (hin : s.cut.inSwap = false)
    (hepoch : s.reg LIVE_EPOCH ≠ 0xFFFFFFFF) : schedule s =
      if (s.reg CUT_SWAP_FRAME).toNat = 0 then
        (if s.mode = .loader ∨ s.mode = .configured then scheduleAt (.atTime (s.now + 10000)) s else cutRefuse 0x23 s)
      else if s.lateFrame (s.reg CUT_SWAP_FRAME).toNat then cutRefuse 0x21 (flag TIME_STATUS TIME_STATUS.late_instant s)
      else scheduleAt (.atFrame (s.reg CUT_SWAP_FRAME).toNat) s := by
  rw [schedule, h3, if_neg (by decide), if_neg (by decide), if_neg hmode, hat, hin, if_neg (by decide), if_neg hepoch]

theorem schedule_service (h3 : s.shadowState = 3) (hmode : s.mode = .service) : schedule s = cutRefuse 0x23 s := by
  rw [schedule, h3, if_neg (by decide), if_neg (by decide), if_pos hmode]

theorem schedule_not_valid (h : s.shadowState = 0 ∨ s.shadowState = 1 ∨ s.shadowState = 2 ∨ s.shadowState = 4) : schedule s = cutRefuse 0x22 s := by
  rw [schedule, if_neg (by omega), if_pos (by omega)]

theorem scheduleAt_onlyRegs {x : Inst} : OnlyRegs [CUT_STATUS] s (scheduleAt x s) :=
  fun _ ha => scheduleAt_reg.trans (if_neg fun e => ha (List.mem_singleton.mpr e))

/-- A SCHEDULE that is accepted for the instant `x`. -/
theorem schedule_takes {q : Requester} {x : Inst} (hs : s.answers = true) (ho : s.ownsShadow q = true) (h : schedule s = scheduleAt x s) :
    ∃ t, exec (.schedule q) s = .next t ∧ (t.req q).status = 0 ∧ t.shadowState = 5 ∧
      t.cut = { s.cut with swapAt := some x, order := s.time.accepted } ∧
      OnlyRegs [CUT_STATUS] s t ∧ OnlyParts [.regs, .cut, .mgmt, .time] s t := by
  have hexec : exec (.schedule q) s = .next (completeOk q (CUT_CTRL + 1) (scheduleAt x s)) :=
    congrArg Host.Outcome.next ((cutWrite_owned hs ho).trans (by rw [h]))
  have hstate : (scheduleAt x s).shadowState = 5 := by
    rw [State.shadowState, State.fget, scheduleAt_reg, if_pos rfl, getF_setF_same (by decide)]
    rfl
  refine ⟨_, hexec, completeOk_status, completeOk_shadowState.trans hstate, completeOk_cut.trans scheduleAt_cut, completeOk_onlyRegs scheduleAt_onlyRegs,
    fun p hp => exec_kept hexec fun h => hp ?_⟩
  simpa [touches, or_comm, or_left_comm, or_assoc] using h

/-! ### CANCEL and DISCARD -/

theorem cancellable_of_ahead (h : s.frameNum + 2 ≤ (s.reg CUT_SWAP_FRAME).toNat) : s.cancellable = true := decide_eq_true h

theorem cancellable_of_near (h : (s.reg CUT_SWAP_FRAME).toNat < s.frameNum + 2) : s.cancellable = false := decide_eq_false (Nat.not_le.mpr h)

theorem cancelSwap_shadowState : (cancelSwap s).shadowState = 3 := fset_fget_same (a := CUT_STATUS) (f := CUT_STATUS.shadow_state) (by decide)

theorem cancelSwap_cut : (cancelSwap s).cut = { s.cut with swapAt := none } := rfl

theorem cancelSwap_onlyRegs : OnlyRegs [CUT_STATUS] s (cancelSwap s) := OnlyRegs.refl.setReg (List.mem_singleton.mpr rfl)

theorem cancel_takes {q : Requester} (hs : s.answers = true) (ho : s.ownsShadow q = true) (h5 : s.shadowState = 5)
    (hahead : s.frameNum + 2 ≤ (s.reg CUT_SWAP_FRAME).toNat) :
    ∃ t, exec (.cancel q) s = .next t ∧ (t.req q).status = 0 ∧ t.shadowState = 3 ∧
      t.cut = { s.cut with swapAt := none } ∧ OnlyRegs [CUT_STATUS] s t ∧ OnlyParts [.regs, .cut, .mgmt] s t := by
  have hcancel : cancel s = cancelSwap s := by
    rw [cancel, h5]
    exact if_pos (cancellable_of_ahead hahead)
  have hexec : exec (.cancel q) s = .next (completeOk q (CUT_CTRL + 1) (cancelSwap s)) :=
    congrArg Host.Outcome.next ((cutWrite_owned hs ho).trans (by rw [hcancel]))
  exact ⟨_, hexec, completeOk_status, completeOk_shadowState.trans cancelSwap_shadowState, completeOk_cut.trans cancelSwap_cut,
    completeOk_onlyRegs cancelSwap_onlyRegs, fun p hp => exec_kept hexec hp⟩

/-- A swap that comes within two frames, or has come, can be given up no more (R68). -/
theorem cancel_late (h : s.shadowState = 6 ∨ (s.shadowState = 5 ∧ (s.reg CUT_SWAP_FRAME).toNat < s.frameNum + 2)) : cancel s = cutRefuse 0x21 s := by
  rw [cancel]
  rcases h with h6 | ⟨h5, hnear⟩
  · rw [h6]
    rfl
  · rw [h5, cancellable_of_near hnear]
    rfl

theorem discard_late (h : s.shadowState = 6 ∨ (s.shadowState = 5 ∧ (s.reg CUT_SWAP_FRAME).toNat < s.frameNum + 2)) : discard s = cutRefuse 0x21 s := by
  rw [discard]
  rcases h with h6 | ⟨h5, hnear⟩
  · rw [h6]
    rfl
  · rw [h5, cancellable_of_near hnear]
    rfl

/-- DISCARD empties the plane, once a swap scheduled for it has been given up. -/
theorem discard_eq (h : (s.shadowState = 5 ∧ s.frameNum + 2 ≤ (s.reg CUT_SWAP_FRAME).toNat) ∨ s.shadowState = 1 ∨ s.shadowState = 2 ∨ s.shadowState = 3 ∨
    s.shadowState = 4) : discard s = discardShadow (if s.shadowState = 5 then cancelSwap s else s) := by
  rw [discard]
  rcases h with ⟨h, hahead⟩ | h | h | h | h <;> rw [h]
  · exact if_pos (cancellable_of_ahead hahead)
  all_goals rfl

theorem discardShadow_cut : (discardShadow s).cut = { s.cut with shadow := [], staged := none, stagedKeys := [], copying := none } := by
  have hoff : (switchOffShadow s).cut = s.cut := by
    apply switchOffShadow_kept (p := .cut) (k := .refl _ s) <;> decide
  rw [discardShadow, emptyShadow_cut, hoff]

theorem discardShadow_shadowState : (discardShadow s).shadowState = 0 := emptyShadow_shadowState

theorem discardShadow_owner : (discardShadow s).fget CUT_STATUS CUT_STATUS.owner = 0 := emptyShadow_owner

theorem discard_takes {q : Requester} (hs : s.answers = true) (ho : s.ownsShadow q = true)
    (h : (s.shadowState = 5 ∧ s.frameNum + 2 ≤ (s.reg CUT_SWAP_FRAME).toNat) ∨ s.shadowState = 1 ∨ s.shadowState = 2 ∨ s.shadowState = 3 ∨ s.shadowState = 4) :
    ∃ t, exec (.discard q) s = .next t ∧ (t.req q).status = 0 ∧
      t.shadowState = 0 ∧ t.cut.shadow = [] ∧ t.cut.staged = none ∧ t.cut.copying = none ∧ t.fget CUT_STATUS CUT_STATUS.owner = 0 ∧
      (s.shadowState = 5 → t.cut.swapAt = none) ∧ t.cut.live = s.cut.live := by
  have hexec : exec (.discard q) s = .next (completeOk q (CUT_CTRL + 1) (discardShadow (if s.shadowState = 5 then cancelSwap s else s))) :=
    congrArg Host.Outcome.next ((cutWrite_owned hs ho).trans (by rw [discard_eq h]))
  refine ⟨_, hexec, completeOk_status, completeOk_shadowState.trans discardShadow_shadowState, ?_⟩
  rw [completeOk_cut, discardShadow_cut]
  refine ⟨rfl, rfl, rfl, completeOk_fget.trans discardShadow_owner, fun h5 => ?_, ?_⟩
  · rw [if_pos h5, cancelSwap_cut]
  · split_ifs <;> rfl

/-! ### O17 -/

/-- Settles O17: each accepted command by its lemma above; a refused one is the refusal of its code, by the owner and the state of the plane. -/
theorem theShadowPlaneIsWrittenCommandedAndOwned : Obligations.TheShadowPlaneIsWrittenCommandedAndOwned := by
  intro q off data slot cmd s hs st refused f
  have hrefused {c : State → State} {code : Nat} (ho : s.ownsShadow q = true) (hc : c s = cutRefuse code s) :
      Host.Outcome.next (hostWrite q CUT_CTRL (byOwner q c) s) = (.next (refused code) : Out) :=
    congrArg _ ((cutWrite_owned hs ho).trans (congrArg _ hc))
  have hforeign {c : State → State} (ho : s.ownsShadow q = false) : Host.Outcome.next (hostWrite q CUT_CTRL (byOwner q c) s) = (.next (refused 0x24) : Out) :=
    congrArg _ (cutWrite_foreign hs ho)
  refine ⟨fun ho h2 h5 h6 => cutWindowWrite_takes hs ho h2 h5 h6,
    fun ho => cutWindowWrite_reported hs (by decide) (by decide) (cutWindowStatus_foreign ho),
    fun ho hst => cutWindowWrite_reported hs (by decide) (by decide) (cutWindowStatus_busy ho hst),
    fun ho => ?owned,
    fun ho => ⟨hforeign ho, hforeign ho, hforeign ho, hforeign ho, hforeign ho⟩,
    fun hcmd => ?unknown⟩
  case owned =>
    refine ⟨fun hp hst => loadSlot_takes hs ho hp hst,
      fun h => hrefused ho (loadSlot_refused h),
      fun hst => validate_takes hs ho hst,
      fun h0 => hrefused ho (validate_empty h0),
      fun h2 => hrefused ho (validate_busy h2),
      fun h3 hmode hat hin hepoch => ⟨fun h0 hidle => ?atOnce, fun hlater => ?atFrame⟩,
      fun h3 hmode => hrefused ho (schedule_service h3 hmode),
      fun hst => hrefused ho (schedule_not_valid hst),
      fun h5 hahead => cancel_takes hs ho h5 hahead,
      fun hlate => ⟨hrefused ho (cancel_late hlate), hrefused ho (discard_late hlate)⟩,
      fun hst => discard_takes hs ho hst⟩
    case atOnce => exact schedule_takes hs ho ((schedule_valid h3 hmode hat hin hepoch).trans ((if_pos h0).trans (if_pos hidle)))
    case atFrame =>
      have hne : f ≠ 0 := by omega
      have hahead : ¬s.lateFrame f = true := fun h => absurd (of_decide_eq_true h) (by omega)
      exact schedule_takes hs ho ((schedule_valid h3 hmode hat hin hepoch).trans ((if_neg hne).trans (if_neg hahead)))
  case unknown =>
    have hbad : ¬(1 ≤ cmd.toNat ∧ cmd.toNat ≤ 5) := by
      rcases hcmd with rfl | h
      · decide
      · omega
    exact congrArg Host.Outcome.next ((if_neg hbad).trans (hostWrite_takes (takes_cutCtrl hs)))

end Sys2Proof.Machine
end

/-!
PROOFS of the architecture statements, part 12: BLANK_N and the blanking of the receive blocks (R90, R91, R109), O19.
-/
section
namespace Sys2Proof.Machine

set_option Elab.async false

variable {s : State} {f k n r : Nat} {i : BitVec 64}

/-! ### One change in every block -/

theorem forUp_setBlk_blk {g : Nat → RxBlk → RxBlk} {j : Nat} :
    (forUp (fun m t => setBlk m (g m (t.blk m)) t) j n s).blk k = if j ≤ k ∧ k < j + n then g k (s.blk k) else s.blk k := by
  induction n generalizing j s with
  | zero => exact (if_neg (by omega)).symm
  | succ n ih =>
    rw [forUp, ih, setBlk_blk]
    rcases Nat.lt_trichotomy k j with h | rfl | h
    · rw [if_neg (by omega), if_neg (by omega), if_neg (by omega)]
    · rw [if_neg (by omega), if_pos rfl, if_pos (by omega)]
    · rw [if_neg (show ¬k = j by omega)]
      exact if_congr (by omega) rfl rfl

/-- The state with another record of BLANK_N. -/
def State.withLows (low : Option Nat) (last : Option (Nat × Nat)) (s : State) : State := { s with rx := { s.rx with blankLow := low, blankLast := last } }

theorem mapBlanks_blk {g : Nat → List (Nat × Option Nat) → List (Nat × Option Nat)} (hk : k < 48) :
    (mapBlanks g s).blk k = { s.blk k with blanks := g k (s.blk k).blanks } :=
  (forUp_setBlk_blk (g := fun m b => { b with blanks := g m b.blanks })).trans (if_pos (by omega))

theorem mapBlanks_withLows {g : Nat → List (Nat × Option Nat) → List (Nat × Option Nat)} {low : Option Nat} {last : Option (Nat × Nat)} :
    (mapBlanks g (s.withLows low last)).rx.blankLow = low ∧ (mapBlanks g (s.withLows low last)).rx.blankLast = last :=
  ⟨forUp_proj (π := fun u => u.rx.blankLow) fun _ _ => rfl, forUp_proj (π := fun u => u.rx.blankLast) fun _ _ => rfl⟩

/-- A low that ended goes on: its end is forgotten. -/
def reopened (f r : Nat) (e : Nat × Option Nat) : Nat × Option Nat := if e = (f, some r) then (f, none) else e

theorem mergeLow_blk (hk : k < 48) : (mergeLow f r s).blk k = { s.blk k with
    blanks := (s.blk k).blanks.map (reopened f r), slots := (s.blk k).slots.map fun sl => { sl with known := sl.known.map (reopened f r) } } :=
  (forUp_setBlk_blk (g := fun _ b => { b with
    blanks := b.blanks.map (reopened f r), slots := b.slots.map fun sl => { sl with known := sl.known.map (reopened f r) } })).trans (if_pos (by omega))

theorem mergeLow_withLows {low : Option Nat} {last : Option (Nat × Nat)} :
    (mergeLow f r (s.withLows low last)).rx.blankLow = low ∧ (mergeLow f r (s.withLows low last)).rx.blankLast = last :=
  ⟨forUp_proj (π := fun u => u.rx.blankLow) fun _ _ => rfl, forUp_proj (π := fun u => u.rx.blankLast) fun _ _ => rfl⟩

/-! ### BLANK_N falls and rises -/

theorem blankNFall_opens (hlow : s.rx.blankLow = none) (hgap : ∀ f r, s.rx.blankLast = some (f, r) → r + 10 ≤ i.toNat) : exec (.blankNFall i) s =
    .next (mapBlanks (fun k l => if s.obeysBlank k then l ++ [(i.toNat, none)] else l) (s.withLows (some i.toNat) s.rx.blankLast)) := by
  refine congrArg Host.Outcome.next ?_
  simp only [hlow]
  cases hlast : s.rx.blankLast with
  | none => simp only [State.withLows, ← hlast]
  | some e =>
    simp only [if_neg (not_lt.mpr (hgap e.1 e.2 hlast))]
    rw [State.withLows, ← hlast]

theorem blankNFall_merges (hlow : s.rx.blankLow = none) (hlast : s.rx.blankLast = some (f, r)) (hgap : i.toNat < r + 10) :
    exec (.blankNFall i) s = .next (mergeLow f r (s.withLows (some f) none)) := by
  refine congrArg Host.Outcome.next ?_
  simp only [hlow, hlast, if_pos hgap]
  rfl

theorem blankNRise_withdraws (hlow : s.rx.blankLow = some f) (hshort : i.toNat < f + 10) : exec (.blankNRise i) s =
    .next (mapBlanks (fun _ l => l.filter fun e => e ≠ (f, none)) (s.withLows none s.rx.blankLast)) := by
  refine congrArg Host.Outcome.next ?_
  simp only [hlow, if_pos hshort]
  rfl

theorem blankNRise_ends (hlow : s.rx.blankLow = some f) (hlong : f + 10 ≤ i.toNat) : exec (.blankNRise i) s =
    .next (mapBlanks (fun _ l => l.map fun e => if e = (f, none) then (f, some i.toNat) else e) (s.withLows none (some (f, i.toNat)))) := by
  refine congrArg Host.Outcome.next ?_
  simp only [hlow, if_neg (not_lt.mpr hlong)]
  rfl

/-! ### An external interval begins and ends -/

theorem fget_b2n {a : Nat} {g : Fld} {x : Bool} (h : g.lo + g.width ≤ 32) (hw : g.width = 1) : (fset a g (b2n x) s).fget a g = if x then 1 else 0 := by
  rw [fset_fget_same h, hw]
  cases x <;> rfl

/-- The block still needs an interval: its end is not known, or is less than 2 µs past, or a check window or a slot is to be judged by it (R84, R90, R96). -/
def State.needsInterval (s : State) (k : Nat) (e : Nat × Option Nat) : Bool :=
  e.2.all fun y =>
    let z := y + blankD (s.planeOf (tgtRx k)) k + blankT (s.planeOf (tgtRx k)) k
    decide (s.now < z + 2000) || (s.blk k).checkFrom.any (fun t => decide (t < z))
      || ((s.blk k).posts ++ (s.blk k).slots).any (fun sl => decide (sl.tn ≤ z) || sl.known.any (fun o => o.1 = e.1))

/-- The block holds these intervals, and shows whether one of them is in progress. -/
def State.withIntervals (s : State) (k : Nat) (l : List (Nat × Option Nat)) : State :=
  let u := setBlk k { s.blk k with blanks := l } s
  fset (RX_BLK_STATUS k) RX_BLK_STATUS.blank_active (b2n (u.blanking k u.now)) u

theorem blankIntervalEnd_eq {block : Fin 48} : exec (.blankIntervalEnd block) s =
    .next (s.withIntervals block ((s.blk block).blanks.filter (s.needsInterval block))) := by
  refine congrArg (fun l => Host.Outcome.next (s.withIntervals block l)) (List.filter_congr fun e _ => ?_)
  obtain ⟨x, _ | y⟩ := e <;> rfl

theorem withIntervals_blk {l : List (Nat × Option Nat)} : (s.withIntervals k l).blk k = { s.blk k with blanks := l } := setBlk_blk_same

theorem withIntervals_active {l : List (Nat × Option Nat)} : (s.withIntervals k l).fget (RX_BLK_STATUS k) RX_BLK_STATUS.blank_active =
    if (s.withIntervals k l).blanking k s.now then 1 else 0 := fget_b2n (by decide) rfl

theorem withIntervals_onlyRegs {l : List (Nat × Option Nat)} : OnlyRegs [RX_BLK_STATUS k] s (s.withIntervals k l) :=
  OnlyRegs.refl.setReg (List.mem_singleton.mpr rfl)

theorem blankStuck_sets {block : Fin 48} (hlow : s.rx.blankLow = some f) (hobeys : s.obeysBlank block = true)
    (hlong : f + 2 ^ cutF (s.planeOf (tgtRx block)) (RX_BLK_EXTBLANK block) RX_BLK_EXTBLANK.blank_max * 1000000 < s.now) :
    exec (.blankStuck block) s = .next (flag (RX_BLK_STATUS block) RX_BLK_STATUS.blank_stuck s) := by
  refine congrArg Host.Outcome.next ?_
  simp only [hlow]
  exact if_pos (by rw [hobeys, decide_eq_true hlong]; rfl)

/-! ### O19 -/

/-- Settles O19: each edge of BLANK_N is one change in every block. -/
theorem blankingIsCapturedAndApplied : Obligations.BlankingIsCapturedAndApplied := by
  intro i k f r s b pl rest
  have hk : k.val < 48 := k.isLt
  refine ⟨fun hlow hgap => ?opens, fun hlow hlast hgap => ?merges, fun hlow hshort => ?withdraws, fun hlow hlong => ?ends,
    fun h => congrArg Host.Outcome.next (if_pos h), ?interval, fun hlow hobeys hlong => blankStuck_sets hlow hobeys hlong⟩
  case opens =>
    have hexec := blankNFall_opens hlow hgap
    refine ⟨_, hexec, mapBlanks_withLows.1, fun _ hp => exec_kept hexec hp, ?_⟩
    rw [mapBlanks_blk hk]
    rfl
  case merges =>
    have hexec := blankNFall_merges hlow hlast hgap
    refine ⟨_, hexec, mergeLow_withLows.1, mergeLow_withLows.2, fun _ hp => exec_kept hexec hp, ?_⟩
    rw [mergeLow_blk hk]
    exact ⟨rfl, rfl⟩
  case withdraws =>
    have hexec := blankNRise_withdraws hlow hshort
    refine ⟨_, hexec, mapBlanks_withLows.1, fun _ hp => exec_kept hexec hp, ?_⟩
    rw [mapBlanks_blk hk]
    rfl
  case ends =>
    have hexec := blankNRise_ends hlow hlong
    refine ⟨_, hexec, mapBlanks_withLows.1, mapBlanks_withLows.2, fun _ hp => exec_kept hexec hp, ?_⟩
    rw [mapBlanks_blk hk]
    rfl
  case interval =>
    have hrest : rest = b.blanks.filter (s.needsInterval k) := List.filter_congr fun e _ => by obtain ⟨x, _ | y⟩ := e <;> rfl
    rw [hrest]
    exact ⟨_, blankIntervalEnd_eq, withIntervals_blk, withIntervals_active, withIntervals_onlyRegs, fun _ hp => exec_kept blankIntervalEnd_eq hp⟩

end Sys2Proof.Machine
end

/-!
PROOFS of the architecture statements, part 13: the connection check of the receive blocks (R95 to R100, R108), O20.
-/
section
namespace Sys2Proof.Machine

set_option Elab.async false

variable {s t : State} {a c i k v lo hi : Nat} {l : List Nat} {f : Fld} {settles : Bool}

/-! ### Registers that an operation may change -/

/-- A flag writes its own register, and its record `REC_LOST` and `REC_STATUS` (R495, R499). -/
theorem OnlyRegs.flag (h : OnlyRegs l s t) (ha : a ∈ l) (hlost : REC_LOST ∈ l) (hrec : REC_STATUS ∈ l) : OnlyRegs l s (flag a f t) :=
  h.trans fun _ hb => flag_reg (ne_of_mem_of_not_mem ha hb).symm (ne_of_mem_of_not_mem hlost hb).symm (ne_of_mem_of_not_mem hrec hb).symm

theorem OnlyRegs.flagIf {x : Bool} (h : OnlyRegs l s t) (ha : a ∈ l) (hlost : REC_LOST ∈ l) (hrec : REC_STATUS ∈ l) : OnlyRegs l s (flagIf x a f t) := by
  unfold Machine.flagIf
  split_ifs
  · exact h.flag ha hlost hrec
  · exact h

theorem OnlyRegs.applyThresholdNow (h : OnlyRegs l s t) (hc : RX_CELL_STATUS c ∈ l) : OnlyRegs l s (applyThresholdNow c t) := by
  unfold Machine.applyThresholdNow applyThreshold
  split_ifs
  · exact h
  · exact h
  · exact h.setReg hc

/-- The registers that the verdict of a connection check may change: the cell's state and flags, and those of its record. -/
def verdictRegs (c : Nat) : List Nat := [RX_CELL_STATUS c, RX_CELL_FLAGS c, REC_LOST, REC_STATUS]

theorem mem_verdictRegs : RX_CELL_STATUS c ∈ verdictRegs c ∧ RX_CELL_FLAGS c ∈ verdictRegs c ∧ REC_LOST ∈ verdictRegs c ∧ REC_STATUS ∈ verdictRegs c := by
  simp [verdictRegs]

theorem cellReg_ne_rec (h : baseRxCell c ≤ a) : a ≠ REC_LOST ∧ a ≠ REC_STATUS := by
  have hge := baseRxCell_ge (c := c)
  simp only [REC_LOST, REC_STATUS, baseRec]
  omega

theorem tone_not_mem : RX_CELL_TONE c ∉ verdictRegs c := by
  have hge := baseRxCell_ge (c := c)
  simp only [verdictRegs, List.mem_cons, List.not_mem_nil, or_false, RX_CELL_TONE, RX_CELL_STATUS, RX_CELL_FLAGS, REC_LOST, REC_STATUS, baseRec]
  omega

/-! ### A check that fails (R97) -/

theorem checkFailed_onlyRegs : OnlyRegs (verdictRegs c) s (checkFailed c settles f s) := by
  obtain ⟨hstatus, hflags, hlost, hrec⟩ := mem_verdictRegs (c := c)
  exact (((OnlyRegs.refl).flag hflags hlost hrec).flagIf hflags hlost hrec).setReg hstatus

theorem checkFailed_masked : (checkFailed c settles f s).masked c = true := by
  rw [State.masked, checkFailed, maskCell, fset_fget_same (by decide)]
  rfl

theorem checkFailed_blk : (checkFailed c settles f s).blk k = s.blk k :=
  flagIf_blk.trans (blk_of_kept (flag_kept (by decide) (by decide) (.refl _ s)))

theorem checkFailed_flag (hf : f.lo < 32) : (checkFailed c settles f s).rbit (RX_CELL_FLAGS c) f.lo = true := by
  obtain ⟨hlost, hrec⟩ := cellReg_ne_rec (c := c) (a := RX_CELL_FLAGS c) (Nat.le_add_right _ _)
  have hne : RX_CELL_FLAGS c ≠ RX_CELL_STATUS c := by simp [RX_CELL_FLAGS, RX_CELL_STATUS]
  have hset : ((flag (RX_CELL_FLAGS c) f s).reg (RX_CELL_FLAGS c)).getLsbD f.lo = true := by rw [flag_reg_same hlost hrec, getLsbD_setBit hf]
  rw [State.rbit, checkFailed, maskCell, fset_reg, if_neg hne]
  show ((flagIf _ _ _ _).reg _).getLsbD _ = true
  unfold flagIf
  split_ifs
  · rw [flag_reg_same hlost hrec, setBit, BitVec.getLsbD_or, hset, Bool.true_or]
  · exact hset

/-! ### A check that passes (R98, R100) -/

theorem applyThresholdNow_blk : (applyThresholdNow c s).blk k = s.blk k := by
  unfold applyThresholdNow applyThreshold
  split_ifs <;> rfl

theorem checkPassed_of_in_service (hstate : s.fget (RX_CELL_STATUS c) RX_CELL_STATUS.state ≠ 1) (hrearm : (s.cell c).rearmAsked = false) : checkPassed c s = s := by
  unfold checkPassed
  rw [if_neg hstate, hrearm]
  rfl

theorem checkPassed_onlyRegs : OnlyRegs (verdictRegs c) s (checkPassed c s) := by
  obtain ⟨hstatus, hflags, hlost, hrec⟩ := mem_verdictRegs (c := c)
  unfold checkPassed
  extract_lets x st s1 s2
  split_ifs
  · exact OnlyRegs.applyThresholdNow (((OnlyRegs.refl).flag hflags hlost hrec).setReg hstatus) hstatus
  · exact (OnlyRegs.refl).flag hflags hlost hrec
  · exact OnlyRegs.refl
  · exact OnlyRegs.applyThresholdNow (OnlyRegs.setReg OnlyRegs.refl hstatus) hstatus
  · exact OnlyRegs.refl

theorem checkPassed_blk : (checkPassed c s).blk k = s.blk k := by
  have hflag {g : Fld} : (flag (RX_CELL_FLAGS c) g s).blk k = s.blk k := blk_of_kept (flag_kept (by decide) (by decide) (.refl _ s))
  unfold checkPassed
  extract_lets x st s1 s2
  split_ifs
  · exact applyThresholdNow_blk.trans hflag
  · exact hflag
  · rfl
  · exact applyThresholdNow_blk
  · rfl

/-! ### The verdict of a window -/

/-- A capacitance is OPEN, PASS or SHORT, and the cell takes the verdict (R97). -/
def classify (c v lo hi : Nat) (settles : Bool) (s : State) : State :=
  if v < lo then checkFailed c settles RX_CELL_FLAGS.open_ s
  else if v ≤ hi then (if settles then checkPassed c s else s) else checkFailed c settles RX_CELL_FLAGS.short s

theorem classify_onlyRegs : OnlyRegs (verdictRegs c) s (classify c v lo hi settles s) := by
  unfold classify
  split_ifs
  · exact checkFailed_onlyRegs
  · exact checkPassed_onlyRegs
  · exact OnlyRegs.refl
  · exact checkFailed_onlyRegs

theorem classify_open (h : v < lo) : (classify c v lo hi settles s).masked c = true ∧
    (classify c v lo hi settles s).rbit (RX_CELL_FLAGS c) RX_CELL_FLAGS.open_.lo = true := by
  rw [classify, if_pos h]
  exact ⟨checkFailed_masked, checkFailed_flag (by decide)⟩

theorem classify_short (hlo : lo ≤ v) (h : hi < v) : (classify c v lo hi settles s).masked c = true ∧
    (classify c v lo hi settles s).rbit (RX_CELL_FLAGS c) RX_CELL_FLAGS.short.lo = true := by
  rw [classify, if_neg (not_lt.mpr hlo), if_neg (not_le.mpr h)]
  exact ⟨checkFailed_masked, checkFailed_flag (by decide)⟩

/-- A cell in service stays as it is where its check passes (R97). -/
theorem classify_pass (hlo : lo ≤ v) (h : v ≤ hi) (hstate : s.fget (RX_CELL_STATUS c) RX_CELL_STATUS.state ≠ 1) (hrearm : (s.cell c).rearmAsked = false) :
    classify c v lo hi settles s = s := by
  rw [classify, if_neg (not_lt.mpr hlo), if_pos h, checkPassed_of_in_service hstate hrearm, ite_self]

theorem classify_blk : (classify c v lo hi settles s).blk k = s.blk k := by
  unfold classify
  split_ifs
  · exact checkFailed_blk
  · exact checkPassed_blk
  · rfl
  · exact checkFailed_blk

theorem classify_now : (classify c v lo hi settles s).now = s.now := by
  have htime : Kept .time s (classify c v lo hi settles s) := by
    unfold classify
    split_ifs
    · exact checkFailed_kept (by decide) (by decide) (by decide) (.refl _ s)
    · exact checkPassed_kept (by decide) (by decide) (by decide) (.refl _ s)
    · exact .refl _ s
    · exact checkFailed_kept (by decide) (by decide) (by decide) (.refl _ s)
  exact congrArg (fun x : Timebase => x.tbase.toNat) htime

/-- The capacitance measured and its class stand in `RX_CELL_TONE`. -/
def State.toned (s : State) (c v r : Nat) : State := fsets (RX_CELL_TONE c) [(RX_CELL_TONE.cap, v), (RX_CELL_TONE.result, r)] s

theorem toned_reg (h : a ≠ RX_CELL_TONE c) : (s.toned c v i).reg a = s.reg a := fsets_reg.trans (if_neg h)

theorem toned_fget (hv : v < 2 ^ 12) (hclass : i < 4) : (s.toned c v i).fget (RX_CELL_TONE c) RX_CELL_TONE.cap = v ∧
    (s.toned c v i).fget (RX_CELL_TONE c) RX_CELL_TONE.result = i := by
  have hreg : (s.toned c v i).reg (RX_CELL_TONE c) = setF RX_CELL_TONE.result i (setF RX_CELL_TONE.cap v (s.reg (RX_CELL_TONE c))) := fsets_reg.trans (if_pos rfl)
  rw [State.fget, State.fget, hreg]
  exact ⟨(getF_setF_other (by decide)).trans ((getF_setF_same (by decide)).trans (Nat.mod_eq_of_lt hv)),
    (getF_setF_same (by decide)).trans (Nat.mod_eq_of_lt hclass)⟩

/-! ### The next window begins (R95) -/

theorem nextWindow_reg : (nextWindow k s).reg a = s.reg a :=
  congrArg (fun m => look regReset m a) (nextWindow_kept (p := .regs) (by decide) (by decide) (.refl _ s))

theorem dropChecks_blk : (dropChecks i s).blk k = s.blk k := by
  unfold dropChecks
  split_ifs <;> rfl

theorem nextWindow_blk : ((nextWindow k s).blk k).checkFrom = some s.now ∧ ((nextWindow k s).blk k).busy = (s.blk k).busy.filter (fun r => decide (s.now < r.2)) := by
  unfold nextWindow
  extract_lets b pl b1 place
  rw [dropChecks_blk]
  cases b.outOfTurn <;> rw [setBlk_blk_same] <;> exact ⟨rfl, rfl⟩

/-! ### A window ends -/

/-- The class of a capacitance: 2 OPEN, 1 PASS, 3 SHORT (R97). -/
def capClass (v lo hi : Nat) : Nat := if v < lo then 2 else if v ≤ hi then 1 else 3

theorem capClass_lt : capClass v lo hi < 4 := by
  unfold capClass
  split_ifs <;> decide

/-- The cell takes its verdict, and the next window of the block begins. -/
def State.windowEnded (s : State) (k c v lo hi : Nat) (settles : Bool) : State := nextWindow k (classify c v lo hi settles (s.toned c v (capClass v lo hi)))

theorem checkWindowEnd_eq {block : Fin 48} {cap : BitVec 12} (h : s.windowOver block = true) : exec (.checkWindowEnd block cap) s =
    .next (s.windowEnded block (block * 16 + s.checkedCell block) cap.toNat (cutF (s.planeOf (tgtRx block)) (RX_BLK_TONE block) RX_BLK_TONE.cap_open)
      (cutF (s.planeOf (tgtRx block)) (RX_BLK_TONE block) RX_BLK_TONE.cap_short) (!(s.blk block).outOfTurn.contains (s.checkedCell block))) :=
  congrArg Host.Outcome.next (if_pos h)

theorem windowEnded_shows {u : State} (hu : u = s.windowEnded k c v lo hi settles) (hv : v < 2 ^ 12) :
    u.fget (RX_CELL_TONE c) RX_CELL_TONE.cap = v ∧ u.fget (RX_CELL_TONE c) RX_CELL_TONE.result = capClass v lo hi ∧
      (v < lo → u.masked c = true ∧ u.rbit (RX_CELL_FLAGS c) RX_CELL_FLAGS.open_.lo = true) ∧
      (hi < v → lo ≤ v → u.masked c = true ∧ u.rbit (RX_CELL_FLAGS c) RX_CELL_FLAGS.short.lo = true) ∧
      (lo ≤ v → v ≤ hi → s.fget (RX_CELL_STATUS c) RX_CELL_STATUS.state ≠ 1 → (s.cell c).rearmAsked = false →
        u.reg (RX_CELL_STATUS c) = s.reg (RX_CELL_STATUS c) ∧ u.reg (RX_CELL_FLAGS c) = s.reg (RX_CELL_FLAGS c)) ∧
      (u.blk k).checkFrom = some s.now ∧ (u.blk k).busy = (s.blk k).busy.filter (fun r => decide (s.now < r.2)) ∧
      OnlyRegs (RX_CELL_TONE c :: verdictRegs c) s u := by
  subst hu
  unfold State.windowEnded
  obtain ⟨hcap, hresult⟩ := toned_fget (s := s) (c := c) hv (capClass_lt (v := v) (lo := lo) (hi := hi))
  have hstatus : (s.toned c v (capClass v lo hi)).reg (RX_CELL_STATUS c) = s.reg (RX_CELL_STATUS c) := toned_reg (by simp [RX_CELL_STATUS, RX_CELL_TONE])
  have hflags : (s.toned c v (capClass v lo hi)).reg (RX_CELL_FLAGS c) = s.reg (RX_CELL_FLAGS c) := toned_reg (by simp [RX_CELL_FLAGS, RX_CELL_TONE])
  have htone : (classify c v lo hi settles (s.toned c v (capClass v lo hi))).reg (RX_CELL_TONE c) = (s.toned c v (capClass v lo hi)).reg (RX_CELL_TONE c) :=
    classify_onlyRegs _ tone_not_mem
  obtain ⟨hfrom, hbusy⟩ := nextWindow_blk (k := k) (s := classify c v lo hi settles (s.toned c v (capClass v lo hi)))
  rw [classify_now] at hfrom hbusy
  rw [classify_blk] at hbusy
  simp only [State.masked, State.fget, State.rbit, nextWindow_reg, htone]
  refine ⟨hcap, hresult, classify_open, fun hshort hlo => classify_short hlo hshort, fun hlo hhi hstate hrearm => ?_, hfrom, hbusy, fun b hb => ?_⟩
  · have hstate' : (s.toned c v (capClass v lo hi)).fget (RX_CELL_STATUS c) RX_CELL_STATUS.state ≠ 1 := by rwa [State.fget, hstatus]
    rw [classify_pass hlo hhi hstate' hrearm]
    exact ⟨hstatus, hflags⟩
  · rw [List.mem_cons, not_or] at hb
    exact nextWindow_reg.trans ((classify_onlyRegs _ hb.2).trans (toned_reg hb.1))

/-! ### Check slots (R96) -/

theorem checkSlotInsert_asks {block : Fin 48} {w t0 : Nat} (hruns : s.checkRuns block = true) (hfrom : (s.blk block).checkFrom = some t0)
    (hlate : t0 + 1000000 ≤ s.now) (hsilent : s.silentTime block t0 < 16000) (hshoot : s.shooting = true)
    (hbound : binding (shotTable (s.planeOf (tgtRx block))) block = some w)
    (hdone : ∀ e ∈ s.tx.checks, e.channel = block.val * 16 + s.checkedCell block → e.stop ≤ s.now) :
    exec (.checkSlotInsert block) s = .next (
      let p := max 1 (seqPeriod (shotTable (s.planeOf (tgtRx block))) w)
      let from_ := t0 + 1000000 + (s.now - (t0 + 1000000)) / 250000 * 250000
      { s with tx := { s.tx with checks := s.tx.checks.filter (fun e => e.channel ≠ block.val * 16 + s.checkedCell block) ++
        [{ channel := block.val * 16 + s.checkedCell block, need := (16000 - s.silentTime block t0 + p - 1) / p, start := from_, stop := from_ + 250000 }] } }) := by
  have hasked : s.tx.checks.any (fun e => e.channel = block.val * 16 + s.checkedCell block && decide (s.now < e.stop)) = false := by
    rw [List.any_eq_false]
    intro e he
    simpa using hdone e he
  refine congrArg Host.Outcome.next ?_
  simp only [hfrom]
  rw [if_pos (by simp [hruns, hlate, hsilent, hshoot, hasked]), hbound]

/-! ### Out-of-turn windows (R98, R100, R108) -/

/-- The block with a window of cell `i` queued, once. -/
def RxBlk.queued (b : RxBlk) (i : Nat) : RxBlk := { b with outOfTurn := if b.outOfTurn.contains i then b.outOfTurn else insertNat i b.outOfTurn }

theorem queueCheck_eq : (queueCheck k i s).blk k = (s.blk k).queued i ∧ (queueCheck k i s).cell c = s.cell c ∧ (queueCheck k i s).regs = s.regs := by
  unfold queueCheck RxBlk.queued
  extract_lets b
  split_ifs
  · exact ⟨rfl, rfl, rfl⟩
  · exact ⟨setBlk_blk_same, rfl, rfl⟩

theorem completeOk_only {q : Nat} {u : State} (h : OnlyParts [.rx] s u) : OnlyParts [.mgmt, .rx] s (completeOk q a u) := fun p hp => by
  rw [List.mem_cons, not_or] at hp
  exact complete_ok_only_mgmt hp.1 (h p hp.2)

theorem cellRearm_eq {q : Requester} {cell : Fin 768} (ht : s.takes (RX_CELL_CMD cell)) (hmasked : s.masked cell = true) : exec (.cellRearm q cell) s =
    .next (completeOk q (RX_CELL_CMD cell + 1) (queueCheck (cell / 16) (cell % 16) (setCell cell { s.cell cell with rearmAsked := true } s))) :=
  congrArg Host.Outcome.next ((hostWrite_takes ht).trans (congrArg _ (if_pos hmasked)))

theorem checkNow_eq {q : Requester} {cell : Fin 768} (ht : s.takes (RX_CELL_CMD cell))
    (hcheck : checkable (s.planeOf (tgtRx (cell / 16))) (cell / 16) (cell % 16) = true) :
    exec (.checkNow q cell) s = .next (completeOk q (RX_CELL_CMD cell + 1) (queueCheck (cell / 16) (cell % 16) s)) :=
  congrArg Host.Outcome.next ((hostWrite_takes ht).trans (congrArg _ (if_pos hcheck)))

/-! ### O20 -/

/-- Settles O20: the end of a window is its verdict followed by the next window, and both commands queue a window. -/
theorem connectionChecksClassifyTheirCell : Obligations.ConnectionChecksClassifyTheirCell := by
  intro q k cap cell s b c pl lo hi v B turns asked queued
  refine ⟨fun hover => ?window, fun w t0 hruns hfrom hlate hsilent hshoot hbound hdone => checkSlotInsert_asks hruns hfrom hlate hsilent hshoot hbound hdone,
    fun ht hmasked => ?rearm, fun ht hcheck => ?now⟩
  case window =>
    have hexec := checkWindowEnd_eq (cap := cap) hover
    obtain ⟨hcap, hresult, hopen, hshort, hpass, hfrom, hbusy, hregs⟩ := windowEnded_shows (s := s) (k := k) rfl cap.isLt
    exact ⟨_, hexec, hcap, hresult, hopen, hshort, hpass, hfrom, hbusy, fun _ hp => exec_kept hexec hp, hregs⟩
  case rearm =>
    have hexec := cellRearm_eq (q := q) ht hmasked
    obtain ⟨hblk, hcell, hregs⟩ := queueCheck_eq (k := B) (i := cell % 16) (c := cell) (s := setCell cell { s.cell cell with rearmAsked := true } s)
    exact ⟨_, hexec, completeOk_status, hcell.trans setCell_cell_same, hblk, hregs,
      completeOk_only fun _ hp => queueCheck_kept (ne_of_untouched hp) (setCell_kept (ne_of_untouched hp) (.refl _ s))⟩
  case now =>
    have hexec := checkNow_eq (q := q) ht hcheck
    obtain ⟨hblk, -, hregs⟩ := queueCheck_eq (k := B) (i := cell % 16) (c := cell) (s := s)
    exact ⟨_, hexec, completeOk_status, hblk, hregs, completeOk_only fun _ hp => queueCheck_kept (ne_of_untouched hp) (.refl _ s)⟩

end Sys2Proof.Machine
end

/-!
PROOFS of the architecture statements, part 14: the restored edge of a discriminator (R121), O21.
-/
section
namespace Sys2Proof.Machine

set_option Elab.async false

variable {s t : State} {c u : Nat} {e : Edge}

/-! ### The dead time of an edge ends -/

/-- The restored edge of a dead time that began at `u`: its time is that of the phase code, which counts in 16 units (R113, R115). -/
def restoredEdge (u : Nat) (level high ovl : Bool) : Edge :=
  { ns := (u + 3072) / 2048, phase := (u + 3072) % 2048 / 16, rising := level, high := high, ovl := ovl, dead := true }

theorem restoredEdge_units {level high ovl : Bool} : (restoredEdge u level high ovl).units = (u + 3072) / 16 * 16 := by
  simp only [Edge.units, restoredEdge]
  omega

theorem deadTimeEnd_restores {cell : Fin 768} {pol level high ovl : Bool} (hlast : (s.cell cell).lastEdge = some (u, pol)) (hdue : u + 3072 < s.now * 2048 + 2048)
    (hlevel : level ≠ pol) (hon : s.frontEndOn cell = true) : exec (.deadTimeEnd cell level high ovl) s =
      .next (takeEdge cell (restoredEdge u level high ovl) (setCell cell { s.cell cell with lastEdge := some (u + 3072, level), lostInDead := false } s)) := by
  refine congrArg Host.Outcome.next ?_
  simp only [hlast]
  refine (if_neg ?_).trans rfl
  rw [not_or, not_or, hon]
  exact ⟨by decide, hlevel, by omega⟩

theorem takeEdge_queues {x : Cell} (hmasked : s.masked c = false) (hsuppressed : s.suppressed c e.units = false) (hsettled : x.settleUntil * 2048 ≤ e.units)
    (hroom : x.queue.length < 16) : ((takeEdge c e (setCell c x s)).cell c).queue = x.queue ++ [e] := by
  have hkept : ((setCell c x s).masked c || (setCell c x s).suppressed c e.units) = false := Bool.or_eq_false_iff.mpr ⟨hmasked, hsuppressed⟩
  have hsettles : (setCell c x s).gainSettles c e.units = false := by rw [State.gainSettles, setCell_cell_same, decide_eq_false (not_lt.mpr hsettled)]
  rw [takeEdge, hkept, hsettles, queueEdge]
  simp only [setCell_cell_same, Bool.false_eq_true, if_false, if_pos hroom]

/-- The restored edge enters the stop queue unless an interval suppresses it at its own time (R121). -/
theorem deadTimeEnd_queues {cell : Fin 768} {pol level high ovl : Bool} (ht : exec (.deadTimeEnd cell level high ovl) s = .next t)
    (hlast : (s.cell cell).lastEdge = some (u, pol)) (hdue : u + 3072 < s.now * 2048 + 2048) (hlevel : level ≠ pol) (hon : s.frontEndOn cell = true)
    (hmasked : s.masked cell = false) (hsuppressed : s.suppressed cell (restoredEdge u level high ovl).units = false)
    (hsettled : (s.cell cell).settleUntil * 2048 ≤ (restoredEdge u level high ovl).units) (hroom : (s.cell cell).queue.length < 16) :
    (t.cell cell).queue = (s.cell cell).queue ++ [restoredEdge u level high ovl] := by
  have hnext := Host.Outcome.next.inj (ht.symm.trans (deadTimeEnd_restores hlast hdue hlevel hon))
  rw [hnext]
  exact takeEdge_queues hmasked hsuppressed hsettled hroom

/-! ### O21 -/

/-- A device in CONFIGURED at 1 ns whose block 0 runs with a crosstalk window of no length about the fires of emitter 0, one of which stands at 3,080 units, 8 of
them its pair's skew (R452). The last captured edge of cell 0 is dated 8 units, which no phase code gives. -/
def offGrid : State :=
  setCell 0 { lastEdge := some (8, true) } (setBlk 0
    { slots := [{ seq := 0, frame := 0, n := 0, m := 0, k := 0, kind := .fire, tn := 0, code := 0, own := false, known := [], dark := false, judged := 0, counted := 0,
                  fires := [{ emitter := 0, ns := 1, q := 64, suppressed := false, dead := false, lag := 8 }] }] }
    (setReg (PWR_DOM_GOOD 0) 1 { State.reset with
      mode := .configured, time := { State.reset.time with running := true, tbase := 1 },
      cut := { State.reset.cut with live := some [⟨regionCommon 8, 1, [1, 1]⟩, ⟨RX_BLK_WIN 0, 2, [0, 1]⟩] } }))

/-- Refutes O21 by its third clause. The statement asks whether the restored edge is suppressed at u + 3,072 units, where u is the date of the last captured
edge; R121's edge, as the model has it, stands at that time in whole steps of 16 units. In `offGrid` u is 8: a crosstalk window holds 3,080 and not 3,072,
so the edge enters the stop queue that the statement leaves empty. -/
theorem not_edgesBecomePulses : ¬Obligations.EdgesBecomePulses := by
  intro h
  obtain ⟨-, -, hdead, -⟩ := h 0 0 0 0 0 false false false false offGrid
  have hlast : (offGrid.cell 0).lastEdge = some (8, true) := by decide
  have hdue : 8 + 3072 < offGrid.now * 2048 + 2048 := by decide
  have hon : offGrid.frontEndOn 0 = true := by decide
  obtain ⟨t, ht, -, hcell⟩ := (hdead 8 true false hlast hdue).2 (by decide) hon
  have hsuppressed : offGrid.suppressed 0 (8 + 3072) = true := by decide
  have hclaimed : (t.cell 0).queue = (offGrid.cell 0).queue := by
    simpa only [Fin.val_zero, hsuppressed, Bool.or_true, Bool.true_or, if_true] using congrArg Cell.queue hcell
  have hpassed : offGrid.suppressed 0 (restoredEdge 8 false false false).units = false := by
    rw [restoredEdge_units]
    decide
  have hqueued := deadTimeEnd_queues (cell := 0) ht hlast hdue (by decide) hon (by decide) hpassed (by decide) (by decide)
  exact List.cons_ne_nil _ _ (hqueued.symm.trans hclaimed)

end Sys2Proof.Machine
end

/-!
PROOFS of the architecture statements, part 15: a pulse that reaches the slice after its pixel has closed (R124, R141), O55.
-/
section
namespace Sys2Proof.Machine

set_option Elab.async false

variable {s t : State} {a c j k n r : Nat}

/-! ### The counters of a cell (R141) -/

theorem cellCount_ne : GD_CELL_CNT3 c ≠ GD_CELL_OVF c ∧ GD_CELL_CNT3 c ≠ REC_LOST ∧ GD_CELL_CNT3 c ≠ REC_STATUS := by
  obtain ⟨hlost, hrec⟩ := cellReg_ne_rec (c := c) (a := GD_CELL_CNT3 c) (Nat.le_add_right _ _)
  exact ⟨by simp [GD_CELL_CNT3, GD_CELL_OVF], hlost, hrec⟩

theorem cellOvf_ne : GD_CELL_OVF c ≠ REC_LOST ∧ GD_CELL_OVF c ≠ REC_STATUS := cellReg_ne_rec (Nat.le_add_right _ _)

/-- late_count of a cell: the high half of `GD_CELL_CNT3`. -/
def lateField : Fld := ⟨16, 16⟩

theorem getF_lateField {w : Word} : getF lateField w = w.toNat / 65536 := by
  have hw := w.isLt
  simp only [getF, lateField]
  omega

theorem gdCount_late : ((gdCount c 7 s).reg (GD_CELL_CNT3 c)).toNat / 65536 = min 0xFFFF ((s.reg (GD_CELL_CNT3 c)).toNat / 65536 + 1) := by
  obtain ⟨hovf, hlost, hrec⟩ := cellCount_ne (c := c)
  have hcount : (gdCount c 7 s).reg (GD_CELL_CNT3 c) = setF lateField (satAdd 0xFFFF (s.fget (GD_CELL_CNT3 c) lateField) 1) (s.reg (GD_CELL_CNT3 c)) :=
    bumpOvf_reg_same hovf hlost hrec
  rw [hcount, ← getF_lateField, getF_setF_same (by decide), State.fget, getF_lateField]
  simp only [satAdd, lateField]
  split_ifs <;> omega

/-- The count that reaches a counter's largest value sets its overflow flag (R492). -/
theorem bumpOvf_flags {n o bit : Nat} {f : Fld} (hbit : bit < 32) (ho : o ≠ REC_LOST ∧ o ≠ REC_STATUS) (hlow : s.fget a f < 2 ^ f.width - 1)
    (hfull : satAdd (2 ^ f.width - 1) (s.fget a f) n = 2 ^ f.width - 1) : (bumpOvf a f n o bit s).rbit o bit = true := by
  unfold bumpOvf
  dsimp only
  rw [if_pos ⟨hlow, hfull⟩, State.rbit, setFlag_reg_same ho.1 ho.2, getLsbD_setBit hbit]

theorem gdCount_late_ovf (h : (s.reg (GD_CELL_CNT3 c)).toNat / 65536 + 1 = 0xFFFF) : (gdCount c 7 s).rbit (GD_CELL_OVF c) 7 = true := by
  have hv : s.fget (GD_CELL_CNT3 c) lateField = 0xFFFE := by
    rw [State.fget, getF_lateField]
    omega
  refine bumpOvf_flags (a := GD_CELL_CNT3 c) (f := lateField) (by decide) cellOvf_ne ?_ ?_
  · rw [hv]
    decide
  · rw [hv]
    decide

/-! ### A pulse of a pixel that has closed (R124) -/

theorem placePulse_closed {pu : EdgeWord} {corrected fatal : Bool} (h : ∀ p, (s.blk (c / 16)).pixel pu.frame pu.m = some p → p.closedAt.isSome = true) :
    placePulse c pu corrected fatal s = gdCount c 7 s := by
  unfold placePulse
  cases hp : (s.blk (c / 16)).pixel pu.frame pu.m with
  | none => simp only [hp]
  | some p => simp only [hp, h p hp, if_true]

theorem pulsePlace_closed {cell : Fin 768} {corrected fatal : Bool} {pu : EdgeWord} {rest : List EdgeWord} (hc : s.nextPulse cell = c)
    (hout : (s.cell c).out = pu :: rest) (h : ∀ p, (s.blk (c / 16)).pixel pu.frame pu.m = some p → p.closedAt.isSome = true) :
    exec (.pulsePlace cell corrected fatal) s = .next (gdCount c 7 (setCell c { s.cell c with out := rest } s)) := by
  refine congrArg Host.Outcome.next ?_
  simp only [hc, hout]
  exact placePulse_closed h

theorem setCell_blk {x : Cell} : (setCell c x s).blk k = s.blk k := rfl

/-- Settles O55: a pulse of a closed pixel is only taken off its queue and counted. -/
theorem pulsesAfterTheCloseAreDropped : Obligations.PulsesAfterTheCloseAreDropped := by
  intro cell corrected fatal pu rest s c late hout hclosed
  have hexec := pulsePlace_closed (corrected := corrected) (fatal := fatal) rfl hout hclosed
  have hrx : Kept .rx (setCell c { s.cell c with out := rest } s) (gdCount c 7 (setCell c { s.cell c with out := rest } s)) :=
    gdCount_kept (by decide) (by decide) (.refl _ _)
  have hcell {j : Nat} := (cell_of_kept (c := j) hrx).trans setCell_cell
  have hcount := gdCount_late (c := c) (s := setCell c { s.cell c with out := rest } s)
  rw [setCell_reg] at hcount
  have hother (p : Part) (hregs : p ≠ .regs) (hmgmt : p ≠ .mgmt) (hrx : p ≠ .rx) := gdCount_kept (x1 := c) (x2 := 7) hregs hmgmt
    (setCell_kept (x1 := c) (x2 := { s.cell c with out := rest }) hrx (.refl p s))
  refine ⟨_, hexec, congrArg Cell.out (hcell.trans (if_pos rfl)), hcount, fun hfull => gdCount_late_ovf ?_, fun k => (blk_of_kept hrx).trans setCell_blk,
    fun j hj => hcell.trans (if_neg hj), hother .aq (by decide) (by decide) (by decide),
    hother .lk (by decide) (by decide) (by decide)⟩
  rwa [setCell_reg]

end Sys2Proof.Machine
end

/-!
PROOFS of the architecture statements, part 16: markers, the skew and the counters of a cell, and the loss of a girdle loop's lock (R117, R118, R137,
R138, R141), O24.
-/
section
namespace Sys2Proof.Machine

set_option Elab.async false

variable {s t : State} {a c j k n r : Nat} {l : List Nat}

/-! ### Markers (R117, R118) -/

theorem markerEdge_enters {block : Fin 48} {d : Int} (hon : s.girdleOn block = true)
    (h : (s.blk block).markersSeen < 256 ∨ (d - sext 16 (s.fget (GD_BLK_SKEW block) GD_BLK_SKEW.skew)).natAbs ≤ 64) :
    exec (.markerEdge block d) s = .next (setBlk block { s.blk block with
      markers := (d :: (s.blk block).markers).take 256, markersSeen := min 256 ((s.blk block).markersSeen + 1), markerBad := false } s) := by
  refine congrArg Host.Outcome.next ?_
  simp only [hon, Bool.not_true, Bool.false_eq_true, if_false]
  exact if_neg (by omega)

/-- The pixel in progress is TIME_SUSPECT where a marker departs (R118). -/
def Pixel.markerSuspect (p : Pixel) : Pixel := if p.inProgress then { p with flags := p.flags ||| 8 } else p

/-- The block in which a marker departs (R118). -/
def RxBlk.departed (b : RxBlk) : RxBlk :=
  { b with markerBad := true, bufX := b.bufX.map Pixel.markerSuspect, bufY := b.bufY.map Pixel.markerSuspect }

theorem markerEdge_departs {block : Fin 48} {d : Int} (hon : s.girdleOn block = true) (hseen : 256 ≤ (s.blk block).markersSeen)
    (h : 64 < (d - sext 16 (s.fget (GD_BLK_SKEW block) GD_BLK_SKEW.skew)).natAbs) :
    exec (.markerEdge block d) s = .next (flag (GD_BLK_STATUS block) GD_BLK_STATUS.marker_jump (setBlk block (s.blk block).departed s)) := by
  refine congrArg Host.Outcome.next ?_
  simp only [hon, Bool.not_true, Bool.false_eq_true, if_false]
  exact if_pos ⟨hseen, h⟩

theorem blkReg_ne_rec (h : baseRxBlk k ≤ a) : a ≠ REC_LOST ∧ a ≠ REC_STATUS := by
  have hge := baseRxBlk_ge (k := k)
  simp only [REC_LOST, REC_STATUS, baseRec]
  omega

theorem blkStatus_ne_rec : GD_BLK_STATUS k ≠ REC_LOST ∧ GD_BLK_STATUS k ≠ REC_STATUS := blkReg_ne_rec (Nat.le_add_right _ _)

theorem flag_rbit {f : Fld} (hf : f.lo < 32) (h : a ≠ REC_LOST ∧ a ≠ REC_STATUS) : (flag a f s).rbit a f.lo = true := by
  rw [State.rbit, flag_reg_same h.1 h.2, getLsbD_setBit hf]

theorem flag_blk {f : Fld} : (flag a f s).blk k = s.blk k := blk_of_kept (flag_kept (by decide) (by decide) (.refl _ s))

theorem skewRefresh_eq {block : Fin 48} (h : (s.blk block).markers ≠ []) : exec (.skewRefresh block) s =
    .next (if s.scheduled block
      then setBlk block { s.blk block with skewNext := some (divRoundI ((s.blk block).markers.foldl (· + ·) 0) (s.blk block).markers.length) } s
      else fset (GD_BLK_SKEW block) GD_BLK_SKEW.skew (toBits 16 (divRoundI ((s.blk block).markers.foldl (· + ·) 0) (s.blk block).markers.length)) s) :=
  congrArg Host.Outcome.next (if_neg h)

/-! ### The counters of a cell are cleared (R141, R14) -/

theorem gdClearCounts_eq {q : Requester} {cell : Fin 768} (ht : s.takes (GD_CELL_CMD cell)) :
    exec (.gdClearCounts q cell) s = .next (completeOk q (GD_CELL_CMD cell + 1) (gdClear cell s)) :=
  congrArg Host.Outcome.next (hostWrite_takes ht)

theorem clearCounts_reg (hn : n < 4) : (clearCounts c s).reg (GD_CELL_CNT0 c + 4 * n) = 0 :=
  setRegs_reg_at (by interval_cases n <;> rfl)

theorem clearCounts_onlyRegs :
    OnlyRegs [GD_CELL_CNT0 c, GD_CELL_CNT0 c + 4, GD_CELL_CNT0 c + 8, GD_CELL_CNT0 c + 12] s (clearCounts c s) :=
  (((OnlyRegs.refl.setReg (by simp)).setReg (by simp)).setReg (by simp)).setReg (by simp)

/-! ### A region is fenced (R37, R138) -/

theorem OnlyRegs.of_kept (h : Kept .regs s t) : OnlyRegs l s t := fun a _ => congrArg (look regReset · a) h

theorem dropEdges_blk : (dropEdges r s).blk k = s.blk k := by
  unfold dropEdges
  extract_lets s1
  have hs1 : s1.blk k = s.blk k := by
    refine forUp_proj (π := fun u : State => u.blk k) fun j u => ?_
    dsimp only
    split_ifs <;> rfl
  clear_value s1
  exact hs1

/-- The registers that the fence of a region changes. -/
abbrev fenceRegs : List Nat := [REGION_FENCE, REC_LOST, REC_STATUS]

theorem setFlag_onlyRegs {bit : Nat} : OnlyRegs [a, REC_LOST, REC_STATUS] s (setFlag a bit s) := fun b hb => by
  simp only [List.mem_cons, List.not_mem_nil, or_false, not_or] at hb
  exact setFlag_reg hb.1 hb.2.1 hb.2.2

/-- A fence of a receive region leaves the records of its blocks, and every register but its own. -/
theorem fenceRegion_receive (hr : 8 ≤ r) : (fenceRegion r s).blk k = s.blk k ∧ OnlyRegs fenceRegs s (fenceRegion r s) := by
  by_cases hfence : (fenceable r && !s.fenced r) = true
  · rw [fenceRegion, if_pos hfence]
    extract_lets out s0 s1
    rw [if_neg (by omega)]
    have hs0 {p : Part} (hp : p ≠ .cal) : Kept p s s0 := ite_kept (missSwap_kept hp (.refl p s)) (.refl p s)
    have hfreeze : (freeze r (dropEdges r s0)).blk k = s.blk k :=
      (blk_of_kept (freeze_kept (by decide) (.refl _ _))).trans (dropEdges_blk.trans (blk_of_kept (hs0 (by decide))))
    have hregs : Kept .regs s (freeze r (dropEdges r s0)) := freeze_kept (by decide) (dropEdges_kept (by decide) (hs0 (by decide)))
    simp only [s1, if_pos hr]
    refine ⟨(blk_of_kept (leaveChanges_kept (by decide) (leaveSwap_kept (by decide) (setFlag_kept (by decide) (by decide) (.refl _ _))))).trans hfreeze, ?_⟩
    exact ((OnlyRegs.of_kept hregs).trans setFlag_onlyRegs).trans (.of_kept (leaveChanges_kept (by decide) (leaveSwap_kept (by decide) (.refl _ _))))
  · rw [fenceRegion, if_neg hfence]
    exact ⟨rfl, .refl⟩

theorem fence_receive (hr : 8 ≤ r) : (fence r s).blk k = s.blk k ∧ OnlyRegs fenceRegs s (fence r s) := by
  obtain ⟨hblk, hregs⟩ := fenceRegion_receive (s := s) (k := k) hr
  unfold fence
  split_ifs with hfenced h6
  · exact ⟨rfl, .refl⟩
  · omega
  · exact ⟨(blk_of_kept (addMarker_kept (by decide) (.refl _ _))).trans hblk, hregs.trans (.of_kept (addMarker_kept (by decide) (.refl _ _)))⟩

/-! ### A girdle loop loses lock (R138) -/

theorem forUp_shift {σ : Type} {f : Nat → σ → σ} {m i n : Nat} {x : σ} : forUp (fun b => f (m + b)) i n x = forUp f (m + i) n x := by
  induction n generalizing i x with
  | zero => rfl
  | succ n ih => exact ih

/-- A block forgets its markers (R138). -/
def RxBlk.unmarked (b : RxBlk) : RxBlk := { b with markers := [], markersSeen := 0 }

/-- A block whose girdle loop has lost lock (R138). -/
def unlockRing (k : Nat) (s : State) : State := fset (GD_BLK_STATUS k) GD_BLK_STATUS.ring_locked 0 (setBlk k (s.blk k).unmarked s)

theorem girdleLockLoss_eq {rx : Fin 6} : exec (.girdleLockLoss rx) s = .next (fence (8 + rx) (forUp unlockRing (rx * 8) 8 s)) :=
  congrArg (fun u => Host.Outcome.next (fence (8 + rx) u)) (forUp_shift (f := unlockRing) (i := 0))

theorem unlockRings_blk : (forUp unlockRing j n s).blk k = if j ≤ k ∧ k < j + n then (s.blk k).unmarked else s.blk k :=
  forUp_blk fun _ _ _ => setBlk_blk.trans (by congr)

theorem blkStatus_ne (h : j ≠ k) : GD_BLK_STATUS j ≠ GD_BLK_STATUS k := by
  simp only [GD_BLK_STATUS, baseRxBlk]
  omega

theorem unlockRings_locked (hj : j ≤ k) (hk : k < j + n) : (forUp unlockRing j n s).fget (GD_BLK_STATUS k) GD_BLK_STATUS.ring_locked = 0 := by
  refine forUp_induction (P := fun m u => j ≤ k → k < m → u.fget (GD_BLK_STATUS k) GD_BLK_STATUS.ring_locked = 0) (fun h h' => by omega)
    (fun m u _ _ ih hj hk => ?_) hj hk
  by_cases hm : k = m
  · rw [hm]
    exact fset_fget_same (by decide)
  · exact (fset_fget_other (blkStatus_ne hm)).trans (ih hj (by omega))

theorem blkStatus_not_fenceReg : GD_BLK_STATUS k ∉ fenceRegs := by
  have hge : 0x8000000 ≤ GD_BLK_STATUS k := baseRxBlk_ge.trans (Nat.le_add_right _ _)
  simp only [fenceRegs, List.mem_cons, List.not_mem_nil, or_false, REGION_FENCE, REC_LOST, REC_STATUS, baseCf, baseRec]
  omega

/-! ### O24 -/

/-- Settles O24: a fence leaves the markers that the lock loss has not taken. -/
theorem markersCentreTheSkewAndCountersClear : Obligations.MarkersCentreTheSkewAndCountersClear := by
  intro q block cell rx d s b skew
  refine ⟨fun hon h => markerEdge_enters hon h, fun hon hseen h => ?departs, fun h => skewRefresh_eq h, fun ht hidle => ?clears, fun ht hsched => ?waits, ?lockLoss⟩
  case departs =>
    have hblk : (flag (GD_BLK_STATUS block) GD_BLK_STATUS.marker_jump (setBlk block b.departed s)).blk block = b.departed := flag_blk.trans setBlk_blk_same
    refine ⟨_, markerEdge_departs hon hseen h, flag_rbit (by decide) blkStatus_ne_rec, ?_, ?_, fun j hj => ?_, fun p hp => ?_, fun p hp => ?_⟩
    · rw [hblk]; rfl
    · rw [hblk]; rfl
    · exact flag_blk.trans (setBlk_blk.trans (if_neg hj))
    · rw [hblk]; exact congrArg (Option.map Pixel.markerSuspect) hp
    · rw [hblk]; exact congrArg (Option.map Pixel.markerSuspect) hp
  case clears =>
    refine ⟨_, (gdClearCounts_eq ht).trans (congrArg _ (congrArg _ (if_neg (by rw [hidle]; decide)))), completeOk_status, fun n hn => clearCounts_reg hn,
      clearCounts_onlyRegs, fun p hp => complete_ok_only_mgmt (ne_of_untouched hp) (clearCounts_kept (ne_of_untouched hp) (.refl p s))⟩
  case waits =>
    exact (gdClearCounts_eq ht).trans (congrArg _ (congrArg _ (if_pos hsched)))
  case lockLoss =>
    refine ⟨_, girdleLockLoss_eq, fence_fenced (by revert rx; decide), fun j hj => ?_⟩
    obtain ⟨hblk, hregs⟩ := fence_receive (s := forUp unlockRing (rx * 8) 8 s) (r := 8 + rx) (k := j) (Nat.le_add_right _ _)
    rw [hblk, unlockRings_blk, State.fget, hregs _ blkStatus_not_fenceReg]
    by_cases hregion : j / 8 = rx.val
    · rw [if_pos (by omega), if_pos hregion]
      exact ⟨rfl, fun _ => ⟨rfl, unlockRings_locked (by omega) (by omega)⟩⟩
    · rw [if_neg (by omega), if_neg hregion]
      exact ⟨rfl, fun h => absurd h hregion⟩

end Sys2Proof.Machine
end

/-!
PROOFS of the architecture statements, part 17: background runs of the reference cell, the load, and the window on the working copies (R135, R319, R329).
-/
section
namespace Sys2Proof.Machine

set_option Elab.async false

variable {s t : State} {a c i j k m n : Nat} {f g : Fld} {l : List Nat}

/-! ### Registers, blocks and tables that an operation leaves alone -/

theorem reg_of_kept (h : Kept .regs s t) : t.reg a = s.reg a := congrArg (look regReset · a) h

theorem fget_of_reg (h : t.reg a = s.reg a) : t.fget a f = s.fget a f := congrArg (getF f) h

theorem fget_of_kept (h : Kept .regs s t) : t.fget a f = s.fget a f := fget_of_reg (reg_of_kept h)

theorem flag_fget_other (h : a ≠ j) (hr : a ≠ REC_LOST ∧ a ≠ REC_STATUS) : (flag j f s).fget a g = s.fget a g := fget_of_reg (flag_reg h hr.1 hr.2)

/-- A flag leaves the fields of its register that it does not lie in. -/
theorem flag_fget_field (hr : a ≠ REC_LOST ∧ a ≠ REC_STATUS) (h : f.lo < g.lo ∨ g.lo + g.width ≤ f.lo) : (flag a f s).fget a g = s.fget a g := by
  rw [State.fget, flag_reg_same hr.1 hr.2, getF_setBit h]
  rfl

/-- A field leaves the other bits of its register. -/
theorem fset_rbit_field {v : Nat} (hi : i < 32) (h : i < f.lo ∨ f.lo + f.width ≤ i) : (fset a f v s).rbit a i = s.rbit a i := by
  rw [State.rbit, fset_reg, if_pos rfl, testBit_setF hi, if_neg (by omega)]
  rfl

theorem OnlyRegs.fset {v : Nat} (h : OnlyRegs l s t) (ha : a ∈ l) : OnlyRegs l s (fset a f v t) := h.setReg ha

theorem bump_fget_field (h : g.lo + g.width ≤ f.lo ∨ f.lo + f.width ≤ g.lo) : (bump a f n s).fget a g = s.fget a g := fset_fget_field h

theorem fset_blk {v : Nat} : (fset a f v s).blk k = s.blk k := rfl

theorem completeOk_blk {q : Nat} : (completeOk q a s).blk k = s.blk k := rfl

theorem completeOk_cal {q : Nat} : (completeOk q a s).cal = s.cal := rfl

/-! ### A background run of the reference cell ends (R135, R143) -/

/-- The run is counted. -/
def State.refCounted (s : State) (k : Nat) : State := fset (GD_BLK_REF k) GD_BLK_REF.runs (satAdd 0x3FFFF (s.fget (GD_BLK_REF k) GD_BLK_REF.runs) 1) s

/-- How many background runs have failed in a row, with this one. -/
def State.refFails (s : State) (k : Nat) : Nat := min 8 (s.fget (GD_BLK_STATUS k) GD_BLK_STATUS.ref_fail_run + 1)

/-- A background run has failed. -/
def State.refFailed (s : State) (k : Nat) : State := fset (GD_BLK_STATUS k) GD_BLK_STATUS.ref_fail_run (s.refFails k)
  (flag (GD_BLK_STATUS k) GD_BLK_STATUS.ref_fail (fset (GD_BLK_REF k) GD_BLK_REF.last_result 2 (s.refCounted k)))

theorem blkRef_ne_rec : GD_BLK_REF k ≠ REC_LOST ∧ GD_BLK_REF k ≠ REC_STATUS := blkReg_ne_rec (Nat.le_add_right _ _)

theorem blkRef_ne_status : GD_BLK_REF k ≠ GD_BLK_STATUS k := by simp [GD_BLK_REF, GD_BLK_STATUS]

theorem refCounted_fails : (s.refCounted k).fget (GD_BLK_STATUS k) GD_BLK_STATUS.ref_fail_run = s.fget (GD_BLK_STATUS k) GD_BLK_STATUS.ref_fail_run :=
  fset_fget_other blkRef_ne_status.symm

theorem backgroundRunEnd_fails {block : Fin 48} {hits : List Nat} (hon : s.girdleOn block = true) (hrun : codeDensity hits 1048576 = none) :
    exec (.backgroundRunEnd block hits) s =
      .next (if s.refFails block = 8 then isolateBlock (rxRegion block) (rxBlock block) (s.refFailed block) else s.refFailed block) := by
  refine congrArg Host.Outcome.next ?_
  simp only [hon, Bool.not_true, Bool.false_eq_true, if_false, hrun]
  rw [← State.refCounted, refCounted_fails]
  rfl

theorem refFailed_shows : (s.refFailed k).fget (GD_BLK_STATUS k) GD_BLK_STATUS.ref_fail_run = s.refFails k ∧
    (s.refFailed k).fget (GD_BLK_REF k) GD_BLK_REF.last_result = 2 ∧ (s.refFailed k).rbit (GD_BLK_STATUS k) GD_BLK_STATUS.ref_fail.lo = true := by
  have hfails : s.refFails k < 2 ^ 4 := by
    unfold State.refFails
    omega
  refine ⟨(fset_fget_same (by decide)).trans (Nat.mod_eq_of_lt hfails), ?_, ?_⟩
  · rw [State.refFailed, fset_fget_other blkRef_ne_status, flag_fget_other blkRef_ne_status blkRef_ne_rec, fset_fget_same (by decide)]
    rfl
  · rw [State.refFailed, fset_rbit_field (by decide) (by decide), flag_rbit (by decide) blkStatus_ne_rec]

theorem refFailed_kept {p : Part} (hregs : p ≠ .regs) (hmgmt : p ≠ .mgmt) : Kept p s (s.refFailed k) :=
  fset_kept hregs (flag_kept hregs hmgmt (fset_kept hregs (fset_kept hregs (.refl p s))))

theorem refFailed_onlyRegs : OnlyRegs [GD_BLK_STATUS k, GD_BLK_REF k, REC_LOST, REC_STATUS] s (s.refFailed k) :=
  ((((OnlyRegs.refl).fset (by simp)).fset (by simp)).flag (by simp) (by simp) (by simp)).fset (by simp)

/-- A block that counts eight failures isolates itself (R135). -/
theorem isolateIf_isolated {r b : Nat} {x : Prop} [Decidable x] : (if x then isolateBlock r b s else s).isolated r b = (s.isolated r b || decide x) := by
  split_ifs with h
  · rw [isolateBlock_isolated, decide_eq_true h, Bool.or_true]
  · rw [decide_eq_false h, Bool.or_false]

theorem isolateIf_kept {r b : Nat} {x : Prop} [Decidable x] {p : Part} (hstartup : p ≠ .startup) : Kept p s (if x then isolateBlock r b s else s) :=
  ite_kept (isolateBlock_kept hstartup (.refl p s)) (.refl p s)

/-- The reference cell's table now: that of the last run that drifted, else the one in force (R135). -/
def State.refTable (s : State) (k : Nat) : List Int :=
  match (s.blk k).refNow with
  | some l => l.map (fun (x : Nat) => (x : Int))
  | none => s.inForce (calKey (rxRegion k) (rxBlock k) 16 1)

/-- The largest departure of a run from a table. -/
def divergence (run : List Nat) (now : List Int) : Nat := run.zipIdx.foldl (fun m p => max m ((p.1 : Int) - nth 0 now p.2).natAbs) 0

/-- A background run has passed with a divergence. -/
def State.refPassed (s : State) (k d : Nat) : State := fset (GD_BLK_STATUS k) GD_BLK_STATUS.ref_fail_run 0
  (fsets (GD_BLK_REF k) [(GD_BLK_REF.last_result, 1), (GD_BLK_REF.divergence, min 0xFFF d)] (s.refCounted k))

/-- The run becomes ref_now of its block, flagged. -/
def State.driftNoted (s : State) (k : Nat) (run : List Nat) : State :=
  flag (GD_BLK_STATUS k) GD_BLK_STATUS.cal_drift (setBlk k { s.blk k with refNow := some run } s)

/-- The drift is brought into the tables of the block (R135, R321). -/
def State.drifted (s : State) (k : Nat) (run : List Nat) : State :=
  bringIn (calKey (rxRegion k) (rxBlock k) 16 1) none none
    (forUp (fun i t => bringIn (calKey (rxRegion k) (rxBlock k) i 1) none (some run) t) 0 16 (s.driftNoted k run))

theorem backgroundRunEnd_passes {block : Fin 48} {hits run : List Nat} (hon : s.girdleOn block = true) (hrun : codeDensity hits 1048576 = some run) :
    exec (.backgroundRunEnd block hits) s = .next (if divergence run (s.refTable block) ≤ 8 then s.refPassed block (divergence run (s.refTable block))
      else (s.refPassed block (divergence run (s.refTable block))).drifted block run) := by
  refine congrArg Host.Outcome.next ?_
  simp only [hon, Bool.not_true, Bool.false_eq_true, if_false, hrun]
  rfl

theorem refPassed_shows {d : Nat} : (s.refPassed k d).fget (GD_BLK_STATUS k) GD_BLK_STATUS.ref_fail_run = 0 ∧
    (s.refPassed k d).fget (GD_BLK_REF k) GD_BLK_REF.last_result = 1 ∧ (s.refPassed k d).fget (GD_BLK_REF k) GD_BLK_REF.divergence = min 0xFFF d := by
  have href : (s.refPassed k d).reg (GD_BLK_REF k) = setF GD_BLK_REF.divergence (min 0xFFF d) (setF GD_BLK_REF.last_result 1 ((s.refCounted k).reg (GD_BLK_REF k))) := by
    rw [State.refPassed, fset_reg, if_neg blkRef_ne_status, fsets_reg, if_pos rfl]
    rfl
  refine ⟨fset_fget_same (by decide), ?_, ?_⟩
  · rw [State.fget, href, getF_setF_other (by decide), getF_setF_same (by decide)]
    rfl
  · rw [State.fget, href, getF_setF_same (by decide)]
    exact Nat.mod_eq_of_lt (show min 0xFFF d < 4096 by omega)

theorem refPassed_kept {p : Part} {d : Nat} (hregs : p ≠ .regs) : Kept p s (s.refPassed k d) :=
  fset_kept hregs (fsets_kept hregs (fset_kept hregs (.refl p s)))

theorem drifted_kept {p : Part} {run : List Nat} (hcal : p ≠ .cal) : Kept p (s.driftNoted k run) (s.drifted k run) :=
  bringIn_kept hcal (forUp_kept (fun _ _ h => bringIn_kept hcal h) (.refl p _))

theorem drifted_shows {run : List Nat} : ((s.drifted k run).blk k).refNow = some run ∧
    (s.drifted k run).rbit (GD_BLK_STATUS k) GD_BLK_STATUS.cal_drift.lo = true ∧
    (s.drifted k run).fget (GD_BLK_STATUS k) GD_BLK_STATUS.ref_fail_run = s.fget (GD_BLK_STATUS k) GD_BLK_STATUS.ref_fail_run := by
  have hregs : Kept .regs (s.driftNoted k run) (s.drifted k run) := drifted_kept (by decide)
  have hblk : (s.drifted k run).blk k = { s.blk k with refNow := some run } :=
    (blk_of_kept (drifted_kept (by decide))).trans (flag_blk.trans setBlk_blk_same)
  refine ⟨congrArg RxBlk.refNow hblk, ?_, (fget_of_kept hregs).trans (flag_fget_field blkStatus_ne_rec (by decide))⟩
  rw [State.rbit, reg_of_kept hregs]
  exact flag_rbit (by decide) blkStatus_ne_rec

theorem drifted_fget_ref {run : List Nat} : (s.drifted k run).fget (GD_BLK_REF k) f = s.fget (GD_BLK_REF k) f :=
  (fget_of_kept (drifted_kept (by decide))).trans (flag_fget_other blkRef_ne_status blkRef_ne_rec)

theorem backgroundRunEnd_takes {block : Fin 48} {hits : List Nat} (hon : s.girdleOn block = true) :
    (codeDensity hits 1048576 = none → ∃ t, exec (.backgroundRunEnd block hits) s = .next t ∧
      t.fget (GD_BLK_STATUS block) GD_BLK_STATUS.ref_fail_run = s.refFails block ∧ t.fget (GD_BLK_REF block) GD_BLK_REF.last_result = 2 ∧
      t.rbit (GD_BLK_STATUS block) GD_BLK_STATUS.ref_fail.lo = true ∧ t.rx = s.rx ∧ t.cal = s.cal ∧
      t.isolated (rxRegion block) (rxBlock block) = (s.isolated (rxRegion block) (rxBlock block) || decide (s.refFails block = 8)) ∧
      OnlyRegs [GD_BLK_STATUS block, GD_BLK_REF block, REC_LOST, REC_STATUS] s t) ∧
    (∀ run, codeDensity hits 1048576 = some run → ∃ t, exec (.backgroundRunEnd block hits) s = .next t ∧
      t.fget (GD_BLK_STATUS block) GD_BLK_STATUS.ref_fail_run = 0 ∧ t.fget (GD_BLK_REF block) GD_BLK_REF.last_result = 1 ∧
      t.fget (GD_BLK_REF block) GD_BLK_REF.divergence = min 0xFFF (divergence run (s.refTable block)) ∧
      (divergence run (s.refTable block) ≤ 8 → t.rx = s.rx ∧ t.cal = s.cal) ∧
      (8 < divergence run (s.refTable block) → (t.blk block).refNow = some run ∧ t.rbit (GD_BLK_STATUS block) GD_BLK_STATUS.cal_drift.lo = true)) := by
  refine ⟨fun hrun => ⟨_, backgroundRunEnd_fails hon hrun, ?_⟩, fun run hrun => ?_⟩
  · have hkept {p : Part} (hp : p ≠ .startup) := isolateIf_kept (s := s.refFailed block) (r := rxRegion block) (b := rxBlock block) (x := s.refFails block = 8) hp
    have hregs := hkept (p := .regs) (by decide)
    obtain ⟨hfails, hresult, hflag⟩ := refFailed_shows (s := s) (k := block)
    refine ⟨(fget_of_kept hregs).trans hfails, (fget_of_kept hregs).trans hresult, ?_, (refFailed_kept (p := .rx) (by decide) (by decide)).trans (hkept (by decide)),
      (refFailed_kept (p := .cal) (by decide) (by decide)).trans (hkept (by decide)), ?_, refFailed_onlyRegs.trans (.of_kept hregs)⟩
    · rw [State.rbit, reg_of_kept hregs]
      exact hflag
    · have hstartup : Kept .startup s (s.refFailed block) := refFailed_kept (by decide) (by decide)
      rw [isolateIf_isolated, State.isolated, hstartup]
      rfl
  · refine ⟨_, backgroundRunEnd_passes hon hrun, ?_⟩
    generalize divergence run (s.refTable block) = d
    obtain ⟨hfails, hresult, hdiv⟩ := refPassed_shows (s := s) (k := block) (d := d)
    split_ifs with hd
    · exact ⟨hfails, hresult, hdiv, fun _ => ⟨refPassed_kept (p := .rx) (by decide), refPassed_kept (p := .cal) (by decide)⟩, fun h => absurd h (by omega)⟩
    · obtain ⟨hnow, hflag, hsame⟩ := drifted_shows (s := s.refPassed block d) (k := block) (run := run)
      exact ⟨hsame.trans hfails, drifted_fget_ref.trans hresult, drifted_fget_ref.trans hdiv, fun h => absurd h hd, fun _ => ⟨hnow, hflag⟩⟩

/-! ### The load (R319) -/

theorem loadRefresh_takes {rx : Fin 6} : ∃ t, exec (.loadRefresh rx) s = .next t ∧
    look (fun _ => 0) t.cal.load (8 + rx.val) = min 1024 (look (fun _ => 0) s.cal.rmw rx * 1024 / 2048000) ∧
    look (fun _ => 0) t.cal.rmw rx = 0 ∧ (∀ j, j ≠ rx.val → look (fun _ => 0) t.cal.rmw j = look (fun _ => 0) s.cal.rmw j) ∧
    (∀ j, j ≠ 8 + rx.val → look (fun _ => 0) t.cal.load j = look (fun _ => 0) s.cal.load j) ∧ t.cal.sections = s.cal.sections :=
  ⟨_, rfl, look_put_same _ _ _, look_put_same _ _ _, fun _ hj => look_put_other _ _ hj, fun _ hj => look_put_other _ _ hj, rfl⟩

/-! ### The window on the working copies (R329) -/

/-- The window shows a word of a stored point, with the count and time of its section. -/
def State.windowShows (s : State) (key : Nat) (w : Word) : State :=
  setReg CAL_WIN_DATA w (setReg CAL_INFO_COUNT (w32 (s.calCount key).1) (setReg CAL_INFO_TIME (s.calCount key).2 s))

theorem windowShows_reads {key : Nat} {w : Word} : (s.windowShows key w).reg CAL_WIN_DATA = w ∧
    (s.windowShows key w).reg CAL_INFO_COUNT = w32 (s.calCount key).1 ∧ (s.windowShows key w).reg CAL_INFO_TIME = (s.calCount key).2 := by
  refine ⟨setReg_reg_same, ?_, ?_⟩
  · rw [State.windowShows, setReg_reg_other (by decide), setReg_reg_same]
  · rw [State.windowShows, setReg_reg_other (by decide), setReg_reg_other (by decide), setReg_reg_same]

theorem windowShows_onlyRegs {key : Nat} {w : Word} : OnlyRegs [CAL_WIN_DATA, CAL_INFO_COUNT, CAL_INFO_TIME] s (s.windowShows key w) :=
  ((OnlyRegs.refl.setReg (by simp)).setReg (by simp)).setReg (by simp)

/-- The key of the section that `CAL_SEL` names. -/
def State.selKey (s : State) : Nat :=
  calKey (s.fget CAL_SEL CAL_SEL.region) (s.fget CAL_SEL CAL_SEL.block) (s.fget CAL_SEL CAL_SEL.cell) (s.fget CAL_SEL CAL_SEL.kind)

/-- Does `CAL_SEL` name a section? -/
def State.selNamed (s : State) : Bool :=
  sectionAt (s.fget CAL_SEL CAL_SEL.region) (s.fget CAL_SEL CAL_SEL.block) (s.fget CAL_SEL CAL_SEL.cell) (s.fget CAL_SEL CAL_SEL.kind)

theorem winRead_stored (hnamed : s.selNamed = true) (hword : s.fget CAL_SEL2 CAL_SEL2.word < pointWords (s.fget CAL_SEL CAL_SEL.kind))
    (hstored : s.fget CAL_SEL2 CAL_SEL2.in_force = 0) (hlight : s.fget CAL_SEL2 CAL_SEL2.load_point = 0)
    (hpoint : s.fget CAL_SEL2 CAL_SEL2.point < (s.section_ s.selKey).set.keys.length) :
    winRead s = s.windowShows s.selKey (nth 0 (nth [] (s.section_ s.selKey).set.points (s.fget CAL_SEL2 CAL_SEL2.point)) (s.fget CAL_SEL2 CAL_SEL2.word)) := by
  unfold State.selNamed at hnamed
  unfold State.selKey at *
  unfold winRead
  simp only [hnamed, hstored, hlight, decide_eq_true hword, decide_eq_true hpoint, Nat.zero_mul, Nat.zero_add]
  rfl

theorem winRead_unnamed (hnamed : s.selNamed = false) : winRead s = flag CAL_STATUS CAL_STATUS.sel_bad (setRegs CAL_WIN_DATA [0, 0, 0] s) := by
  unfold State.selNamed at hnamed
  unfold winRead
  simp only [hnamed]
  rfl

/-! ### Commands of `CAL_CMD` (R324, R330) -/

/-- A command that `CAL_CMD` takes has its effect, and its write completes with OK. -/
theorem calCmd_takes {q : Requester} {x : State → State} (ht : s.takes CAL_CMD) (hx : x s = t) :
    Host.Outcome.next (hostWrite q CAL_CMD x s) = (.next (completeOk q (CAL_CMD + 1) t) : Out) := by
  rw [hostWrite_takes ht, hx]

theorem calCommand_refused (h : n = 0 ∨ 4 ≤ n) : calCommand n s = flag CAL_STATUS CAL_STATUS.fg_refused s := by
  unfold calCommand
  split
  · omega
  · omega
  · omega
  · rfl

end Sys2Proof.Machine
end

/-!
PROOFS of the architecture statements, part 18: foreground requests and the end of a foreground run (R134, R324 to R326), O27.
-/
section
namespace Sys2Proof.Machine

set_option Elab.async false

variable {s t : State} {a c i j k m n : Nat} {f : Fld} {l : List Nat} {pl : Option Plane} {hits refHits : List Nat} {cellHits : List (List Nat)}

/-! ### Counting and checking below a bound -/

theorem countBelow_pos {p : Nat → Bool} (hk : k < n) (h : p k = true) : 0 < countBelow p n := by
  induction n with
  | zero => omega
  | succ n ih =>
    rw [countBelow]
    rcases Nat.lt_succ_iff_lt_or_eq.mp hk with hlt | rfl
    · have := ih hlt
      omega
    · rw [h, b2n, if_pos rfl]
      omega

theorem allBelow_iff {p : Nat → Bool} : allBelow p n = true ↔ ∀ i, i < n → p i = true := by
  induction n with
  | zero => simp [allBelow]
  | succ n ih => rw [allBelow, Bool.and_eq_true, ih, Nat.forall_lt_succ_right]

/-! ### Blocks of a foreground request start (R324, R325) -/

theorem nextBoundary_of (htx : t.tx = s.tx) (hcut : t.cut = s.cut) : t.nextBoundary = s.nextBoundary := by
  have hother : t.nextBoundary = ({ s with tx := t.tx, cut := t.cut } : State).nextBoundary := rfl
  rw [hother, htx, hcut]

/-- A boundary is scheduled by the mode, the sequences, the planes and the boundaries announced to the block (R29). -/
theorem scheduled_of (hshoot : t.shooting = s.shooting) (hblk : t.blk k = s.blk k) (htx : t.tx = s.tx) (hcut : t.cut = s.cut) :
    t.scheduled k = s.scheduled k := by
  rw [State.scheduled, State.scheduled, hshoot, hblk, htx, nextBoundary_of htx hcut]

/-- The state without blocks of a request still to start. -/
def State.noneLeft (s : State) : State := { s with cal := { s.cal with fgLeft := [] } }

theorem fgAdvance_none (h : s.cal.fgLeft = []) : fgAdvance a n s = s ∨ fgAdvance a n s = fset CAL_FG_STATUS CAL_FG_STATUS.state 2 s := by
  cases n with
  | zero => exact .inl rfl
  | succ n =>
    rw [fgAdvance, h]
    dsimp only
    split_ifs
    · exact .inr rfl
    · exact .inl rfl

theorem fgAdvance_busy (h : s.cal.fgLeft = []) (hbusy : s.fgBusy ≠ 0) : fgAdvance a n s = s := by
  cases n with
  | zero => rfl
  | succ n =>
    rw [fgAdvance, h]
    exact if_neg (by rw [decide_eq_false hbusy, Bool.false_and]; decide)

theorem fgBegin_blk : (fgBegin k s).blk j = if j = k then { s.blk k with fgRunning := true, fgLeave := false, fgWait := none } else s.blk j := setBlk_blk

theorem fgBegin_busy (hk : k < 48) : (fgBegin k s).fgBusy ≠ 0 := by
  refine (countBelow_pos hk ?_).ne'
  dsimp only
  rw [fgBegin_blk, if_pos rfl]
  simp [RxBlk.calAbsent]

/-- A request for one block starts it, where nothing runs and no boundary is scheduled for it. -/
theorem fgAdvance_one (hleft : s.cal.fgLeft = [m]) (hbusy : s.fgBusy = 0) (hidle : s.scheduled m = false)
    (hon : blockOn (s.planeOf (tgtRx m)) (rxRegion m) (rxBlock m) = true) (hm : m < 48) : fgAdvance a (n + 1) s = fgBegin m s.noneLeft := by
  have hfirst : fgAdvance a (n + 1) s = fgAdvance a n (fgBegin m s.noneLeft) := by
    rw [fgAdvance, hleft]
    dsimp only
    rw [hbusy, hon, hidle, if_neg (by split_ifs <;> omega)]
    rfl
  rw [hfirst, fgAdvance_busy rfl (fgBegin_busy hm)]

/-- The head ports that `CAL_FG_MASK` names, and those of them whose block the plane enables (R324, R333). -/
def State.fgPorts (s : State) : List Nat :=
  (List.range 48).filter (fun j => ((s.reg CAL_FG_MASK_LO).toNat + (s.reg CAL_FG_MASK_HI).toNat % 65536 * 2 ^ 32).testBit j)
def State.fgRun (s : State) : List Nat := s.fgPorts.filter (fun j => blockOn s.cut.live (rxRegion j) (rxBlock j))

/-- A request has been taken: its counts are clear and its blocks are still to start. -/
def State.fgAsked (s : State) (run : List Nat) (skipped : Nat) : State :=
  let u := fsets CAL_FG_STATUS [(CAL_FG_STATUS.state, 1), (CAL_FG_STATUS.passed, 0), (CAL_FG_STATUS.failed, 0), (CAL_FG_STATUS.skipped, skipped)] s
  { u with cal := { u.cal with fgLeft := run } }

theorem fgStart_takes (hmode : s.mode = .configured ∨ s.mode = .armed ∨ s.mode = .run) (hstate : s.fget CAL_FG_STATUS CAL_FG_STATUS.state ≠ 1) :
    fgStart s = fgAdvance (s.now + 10000) 49 (s.fgAsked s.fgRun (s.fgPorts.length - s.fgRun.length)) := by
  unfold fgStart
  rw [if_pos ⟨hmode, hstate⟩]
  rfl

theorem fgStart_refuses (h : (s.mode ≠ .configured ∧ s.mode ≠ .armed ∧ s.mode ≠ .run) ∨ s.fget CAL_FG_STATUS CAL_FG_STATUS.state = 1) :
    fgStart s = flag CAL_STATUS CAL_STATUS.fg_refused s := by
  unfold fgStart
  rw [if_neg (by tauto)]

theorem fgAsked_scheduled : (s.fgAsked l n).scheduled k = s.scheduled k :=
  scheduled_of (shooting_of rfl (fsets_reg.trans (if_neg (by decide)))) rfl rfl rfl

theorem fgAsked_status : (s.fgAsked l n).reg CAL_FG_STATUS = setF CAL_FG_STATUS.skipped n
    (setF CAL_FG_STATUS.failed 0 (setF CAL_FG_STATUS.passed 0 (setF CAL_FG_STATUS.state 1 (s.reg CAL_FG_STATUS)))) := fsets_reg.trans (if_pos rfl)

/-- One block runs, and the request shows it. -/
def State.fgOne (s : State) (m skipped : Nat) : State := fgBegin m (s.fgAsked [m] skipped).noneLeft

theorem fgStart_one (hmode : s.mode = .configured ∨ s.mode = .armed ∨ s.mode = .run) (hstate : s.fget CAL_FG_STATUS CAL_FG_STATUS.state ≠ 1)
    (hbusy : s.fgBusy = 0) (hidle : s.scheduled m = false) (hon : blockOn (s.planeOf (tgtRx m)) (rxRegion m) (rxBlock m) = true) (hrun : s.fgRun = [m]) :
    fgStart s = s.fgOne m (s.fgPorts.length - 1) := by
  have hm : m ∈ s.fgRun := by
    rw [hrun]
    exact List.mem_singleton.mpr rfl
  have hport : m ∈ List.range 48 := List.mem_of_mem_filter (List.mem_of_mem_filter hm)
  rw [fgStart_takes hmode hstate, hrun, List.length_singleton]
  exact fgAdvance_one rfl hbusy (fgAsked_scheduled.trans hidle) hon (List.mem_range.mp hport)

theorem fgOne_status : (s.fgOne m n).reg CAL_FG_STATUS = setF CAL_FG_STATUS.port m ((s.fgAsked [m] n).reg CAL_FG_STATUS) := setReg_reg_same

theorem fgOne_shows : (s.fgOne m n).fget CAL_FG_STATUS CAL_FG_STATUS.state = 1 ∧ (s.fgOne m n).fget CAL_FG_STATUS CAL_FG_STATUS.passed = 0 ∧
    (s.fgOne m n).fget CAL_FG_STATUS CAL_FG_STATUS.failed = 0 := by
  simp only [State.fget, fgOne_status, fgAsked_status]
  refine ⟨?_, ?_, ?_⟩
  · rw [getF_setF_other (by decide), getF_setF_other (by decide), getF_setF_other (by decide), getF_setF_other (by decide), getF_setF_same (by decide)]
    rfl
  · rw [getF_setF_other (by decide), getF_setF_other (by decide), getF_setF_other (by decide), getF_setF_same (by decide)]
    rfl
  · rw [getF_setF_other (by decide), getF_setF_other (by decide), getF_setF_same (by decide)]
    rfl

theorem fgOne_onlyRegs : OnlyRegs [CAL_FG_STATUS] s (s.fgOne m n) :=
  (OnlyRegs.refl.setReg (List.mem_singleton.mpr rfl)).setReg (List.mem_singleton.mpr rfl)

theorem fgOne_blk : (s.fgOne m n).blk j = if j = m then { s.blk m with fgRunning := true, fgLeave := false, fgWait := none } else s.blk j := fgBegin_blk

/-! ### A request stops (R324) -/

theorem fgDrop_blk_other (h : j ≠ k) : (fgDrop k s).blk j = s.blk j := by
  unfold fgDrop
  extract_lets b
  split_ifs
  · exact setBlk_blk.trans (if_neg h)
  · rfl

theorem fgDrop_stops : ((fgDrop k s).blk k).fgRunning = false ∧ ((fgDrop k s).blk k).fgWait = none := by
  unfold fgDrop
  extract_lets b
  split_ifs with h
  · rw [setBlk_blk_same]
    exact ⟨rfl, rfl⟩
  · have hidle : b.fgWait = none ∧ (b.fgLeave = false ∧ b.fgRunning = false) ∧ b.fgBack = false := by simpa [RxBlk.calAbsent] using h
    obtain ⟨hwait, ⟨-, hrunning⟩, -⟩ := hidle
    exact ⟨hrunning, hwait⟩

theorem fgDrops_stop : ∀ j, j < n → ((forUp fgDrop 0 n s).blk j).fgRunning = false ∧ ((forUp fgDrop 0 n s).blk j).fgWait = none := by
  have hall := forUp_induction (P := fun m u => ∀ j, j < m → (u.blk j).fgRunning = false ∧ (u.blk j).fgWait = none) (f := fgDrop) (i := 0) (n := n) (s := s)
    (fun j hj => absurd hj (Nat.not_lt_zero j)) fun m u _ _ ih j hj => ?_
  · rwa [Nat.zero_add] at hall
  · rcases Nat.lt_succ_iff_lt_or_eq.mp hj with hlt | rfl
    · rw [fgDrop_blk_other hlt.ne]
      exact ih j hlt
    · exact fgDrop_stops

/-- The request is over, without a result. -/
def State.fgAborted (s : State) : State := fset CAL_FG_STATUS CAL_FG_STATUS.state 3 (forUp fgDrop 0 48 s.noneLeft)

theorem fgAbort_stops (h : s.fget CAL_FG_STATUS CAL_FG_STATUS.state = 1) : fgAbort s = s.fgAborted := if_pos h

theorem fgDrops_kept {p : Part} (hrx : p ≠ .rx) : Kept p s (forUp fgDrop 0 n s) := forUp_kept (fun _ _ h => fgDrop_kept hrx h) (.refl p s)

theorem fgAborted_cal : s.fgAborted.cal = { s.cal with fgLeft := [] } := by
  rw [State.fgAborted, fset_cal]
  exact fgDrops_kept (p := .cal) (s := s.noneLeft) (by decide)

theorem fgAborted_shows : s.fgAborted.fget CAL_FG_STATUS CAL_FG_STATUS.state = 3 ∧
    ∀ j, j < 48 → (s.fgAborted.blk j).fgRunning = false ∧ (s.fgAborted.blk j).fgWait = none := by
  simp only [State.fgAborted, fset_blk]
  exact ⟨fset_fget_same (by decide), fgDrops_stop⟩

theorem fgAborted_onlyRegs : OnlyRegs [CAL_FG_STATUS] s s.fgAborted :=
  (OnlyRegs.of_kept (s := s) (fgDrops_kept (p := .regs) (s := s.noneLeft) (by decide))).fset (List.mem_singleton.mpr rfl)

/-! ### The result of a cell (R133, R134, R142) -/

/-- The cell shows a result, and masks itself where it is a failure. -/
def CellJudged (t : State) (c : Nat) (passes : Bool) : Prop :=
  t.fget (GD_CELL_CAL c) GD_CELL_CAL.fg_result = (if passes then 1 else 2) ∧ (t.cell c).needsForeground = !passes ∧ (passes = false → t.masked c = true)

theorem CellJudged.of_same {x : Bool} (h : CellJudged s c x) (hcal : t.reg (GD_CELL_CAL c) = s.reg (GD_CELL_CAL c))
    (hstatus : t.reg (RX_CELL_STATUS c) = s.reg (RX_CELL_STATUS c)) (hcell : t.cell c = s.cell c) : CellJudged t c x := by
  obtain ⟨hresult, hneeds, hmasked⟩ := h
  refine ⟨(fget_of_reg hcal).trans hresult, (congrArg Cell.needsForeground hcell).trans hneeds, fun hx => ?_⟩
  rw [State.masked, fget_of_reg hstatus]
  exact hmasked hx

theorem cellCal_ge : 0x8000000 ≤ GD_CELL_CAL c := baseRxCell_ge.trans (Nat.le_add_right _ _)

theorem cellCal_ne_status : GD_CELL_CAL c ≠ RX_CELL_STATUS j := by
  simp only [GD_CELL_CAL, RX_CELL_STATUS, baseRxCell]
  omega

theorem cellResult_judges (hcheck : checkable (s.planeOf (tgtRx k)) k i = true) :
    CellJudged (cellResult k i hits s) (k * 16 + i) (codeDensity hits 2097152).isSome := by
  unfold cellResult
  simp only [hcheck, Bool.not_true, Bool.false_eq_true, if_false]
  cases codeDensity hits 2097152 with
  | some t =>
    refine ⟨?_, congrArg Cell.needsForeground setCell_cell_same, fun h => absurd h (by simp)⟩
    rw [State.fget, setCell_reg, fsets_reg, if_pos rfl]
    simp only [List.foldl_cons, List.foldl_nil]
    rw [getF_setF_other (by decide), getF_setF_other (by decide), getF_setF_same (by decide)]
    rfl
  | none =>
    refine ⟨?_, congrArg Cell.needsForeground setCell_cell_same, fun _ => ?_⟩
    · exact (fset_fget_other cellCal_ne_status).trans (fset_fget_same (by decide))
    · exact decide_eq_true (fset_fget_same (by decide))

theorem cellResult_blk : (cellResult k i hits s).blk j = s.blk j := by
  unfold cellResult
  dsimp only
  split
  · rfl
  · split <;> rfl

theorem cellResult_cell_other (h : c ≠ k * 16 + i) : (cellResult k i hits s).cell c = s.cell c := by
  unfold cellResult
  dsimp only
  split
  · rfl
  · split <;> exact setCell_cell.trans (if_neg h)

theorem cellResult_reg (hcal : a ≠ GD_CELL_CAL (k * 16 + i)) (hstatus : a ≠ RX_CELL_STATUS (k * 16 + i)) : (cellResult k i hits s).reg a = s.reg a := by
  unfold cellResult
  dsimp only
  split
  · rfl
  · split
    · exact setReg_reg_other hcal
    · exact (setReg_reg_other hstatus).trans (setReg_reg_other hcal)

/-! ### The results of a block -/

/-- Every enabled cell of a block has its result. -/
def State.cellsJudged (s : State) (k : Nat) (cellHits : List (List Nat)) : State := forUp (fun i t => cellResult k i (nth [] cellHits i) t) 0 16 s

theorem cellsJudged_kept {p : Part} (hregs : p ≠ .regs) (hrx : p ≠ .rx) : Kept p s (s.cellsJudged k cellHits) :=
  forUp_kept (fun _ _ h => cellResult_kept hregs hrx h) (.refl p s)

theorem cellsJudged_blk : (s.cellsJudged k cellHits).blk j = s.blk j := forUp_proj (π := fun u : State => u.blk j) fun _ _ => cellResult_blk

theorem cellsJudged_cell_other (h : c / 16 ≠ k) : (s.cellsJudged k cellHits).cell c = s.cell c :=
  forUp_induction (P := fun _ u => u.cell c = s.cell c) (f := fun i t => cellResult k i (nth [] cellHits i) t) (i := 0) (n := 16) rfl
    fun _ _ _ _ ih => (cellResult_cell_other (by omega)).trans ih

theorem cellsJudged_reg (h : a < 0x8000000) : (s.cellsJudged k cellHits).reg a = s.reg a :=
  forUp_proj (π := fun u : State => u.reg a) fun _ _ =>
    cellResult_reg (h.trans_le cellCal_ge).ne (h.trans_le cellStatus_ge).ne

theorem cellReg_ne (hi : i < 16) (hj : j < 16) (h : i ≠ j) :
    GD_CELL_CAL (k * 16 + i) ≠ GD_CELL_CAL (k * 16 + j) ∧ RX_CELL_STATUS (k * 16 + i) ≠ RX_CELL_STATUS (k * 16 + j) := by
  simp only [GD_CELL_CAL, RX_CELL_STATUS, baseRxCell]
  omega

theorem cellsJudged_judged (hi : i < 16) (hcheck : checkable (s.planeOf (tgtRx k)) k i = true) :
    CellJudged (s.cellsJudged k cellHits) (k * 16 + i) (codeDensity (nth [] cellHits i) 2097152).isSome := by
  refine (forUp_induction (P := fun m u => Kept .cut s u ∧ (i < m → CellJudged u (k * 16 + i) (codeDensity (nth [] cellHits i) 2097152).isSome))
    (f := fun i t => cellResult k i (nth [] cellHits i) t) (i := 0) (n := 16) ⟨.refl _ s, fun h => absurd h (Nat.not_lt_zero i)⟩ ?_).2 (by omega)
  intro j u _ hj ⟨hcut, ih⟩
  refine ⟨cellResult_kept (by decide) (by decide) hcut, fun hm => ?_⟩
  rcases Nat.lt_succ_iff_lt_or_eq.mp hm with hlt | rfl
  · obtain ⟨hcal, hstatus⟩ := cellReg_ne (k := k) hi (by omega) hlt.ne
    exact (ih hlt).of_same (cellResult_reg hcal cellCal_ne_status) (cellResult_reg cellCal_ne_status.symm hstatus) (cellResult_cell_other (by omega))
  · refine cellResult_judges ?_
    rwa [State.planeOf, hcut]

/-! ### The sets of a block (R326) -/

/-- The sets of the block are shifted to the results of the run. -/
def State.setsShifted (s : State) (pl : Option Plane) (k : Nat) (cellHits : List (List Nat)) (refHits : List Nat) : State :=
  bringDrift (8 + k / 8) (k % 8) (checkable pl k)
    (shiftCell k 16 refHits (forUp (fun i t => if checkable pl k i then shiftCell k i (nth [] cellHits i) t else t) 0 16 s))

theorem setsShifted_kept {p : Part} (hcal : p ≠ .cal) : Kept p s (s.setsShifted pl k cellHits refHits) :=
  bringDrift_kept hcal (shiftCell_kept hcal (forUp_kept (fun _ _ h => ite_kept (shiftCell_kept hcal h) h) (.refl p s)))

/-- The blocks of a request still to start. -/
def stillLeft (s : State) : List Nat := s.cal.fgLeft

theorem bringIn_stillLeft {key : Nat} {set : Option CalSet} {ref : Option (List Nat)} : stillLeft (bringIn key set ref s) = stillLeft s := by
  unfold bringIn
  dsimp only
  split_ifs <;> rfl

theorem shiftCell_stillLeft : stillLeft (shiftCell k i hits s) = stillLeft s := by
  unfold shiftCell
  dsimp only
  split
  · exact bringIn_stillLeft
  · rfl

theorem bringDrift_stillLeft {own : Nat → Bool} : stillLeft (bringDrift i j own s) = stillLeft s := by
  unfold bringDrift
  refine forUp_proj fun _ _ => ?_
  extract_lets key x
  split_ifs
  · exact bringIn_stillLeft
  · rfl

theorem setsShifted_stillLeft : stillLeft (s.setsShifted pl k cellHits refHits) = stillLeft s := by
  refine bringDrift_stillLeft.trans (shiftCell_stillLeft.trans (forUp_proj fun _ _ => ?_))
  split_ifs
  · exact shiftCell_stillLeft
  · rfl

theorem bump_stillLeft : stillLeft (bump a f n s) = stillLeft s := rfl

/-! ### A foreground run ends (R134, R325, R326) -/

/-- Every enabled cell and the reference pass. -/
def runGood (pl : Option Plane) (k : Nat) (cellHits : List (List Nat)) (refHits : List Nat) : Bool :=
  (codeDensity refHits 2097152).isSome && allBelow (fun i => !checkable pl k i || (codeDensity (nth [] cellHits i) 2097152).isSome) 16

theorem runGood_iff : runGood pl k cellHits refHits = true ↔
    (codeDensity refHits 2097152).isSome = true ∧ ∀ i, i < 16 → checkable pl k i = true → (codeDensity (nth [] cellHits i) 2097152).isSome = true := by
  rw [runGood, Bool.and_eq_true, allBelow_iff]
  refine and_congr_right fun _ => forall₂_congr fun i _ => ?_
  cases checkable pl k i <;> simp

/-- The run has been judged: it counts as passed and brings its sets in, or counts as failed. -/
def State.runJudged (s : State) (k : Nat) (cellHits : List (List Nat)) (refHits : List Nat) : State :=
  if runGood (s.planeOf (tgtRx k)) k cellHits refHits then
    bump CAL_FG_STATUS CAL_FG_STATUS.passed 1 ((s.cellsJudged k cellHits).setsShifted (s.planeOf (tgtRx k)) k cellHits refHits)
  else bump CAL_FG_STATUS CAL_FG_STATUS.failed 1 (s.cellsJudged k cellHits)

/-- The block has left its run, and returns at its next boundary where one is scheduled. -/
def State.runLeft (s : State) (k : Nat) : State := setBlk k { s.blk k with fgRunning := false, fgBack := s.scheduled k } s

/-- The run has ended, and a block still to start takes its place at once where no boundary is scheduled. -/
def State.runEnded (s : State) (k : Nat) : State := if s.scheduled k then s.runLeft k else fgAdvance (s.runLeft k).now 49 (s.runLeft k)

theorem foregroundRunEnd_eq {block : Fin 48} (h : (s.blk block).fgRunning = true) :
    exec (.foregroundRunEnd block cellHits hits) s = .next ((s.runJudged block cellHits hits).runEnded block) :=
  congrArg Host.Outcome.next (if_neg (by rw [h]; decide))

theorem runJudged_kept {p : Part} (hregs : p ≠ .regs) (hrx : p ≠ .rx) (hcal : p ≠ .cal) : Kept p s (s.runJudged k cellHits refHits) :=
  ite_kept (bump_kept hregs ((cellsJudged_kept hregs hrx).trans (setsShifted_kept hcal))) (bump_kept hregs (cellsJudged_kept hregs hrx))

theorem runJudged_rx : Kept .rx (s.cellsJudged k cellHits) (s.runJudged k cellHits refHits) :=
  ite_kept (bump_kept (by decide) (setsShifted_kept (by decide))) (bump_kept (by decide) (.refl _ _))

theorem runJudged_reg (h : a ≠ CAL_FG_STATUS) : (s.runJudged k cellHits refHits).reg a = (s.cellsJudged k cellHits).reg a := by
  unfold State.runJudged
  split_ifs
  · exact (setReg_reg_other h).trans (reg_of_kept (setsShifted_kept (by decide)))
  · exact setReg_reg_other h

theorem runJudged_stillLeft : stillLeft (s.runJudged k cellHits refHits) = stillLeft s := by
  have hcells : stillLeft (s.cellsJudged k cellHits) = stillLeft s := congrArg Cal.fgLeft (cellsJudged_kept (p := .cal) (by decide) (by decide))
  unfold State.runJudged
  split_ifs
  · rw [bump_stillLeft, setsShifted_stillLeft, hcells]
  · rw [bump_stillLeft, hcells]

theorem runJudged_bad (h : runGood (s.planeOf (tgtRx k)) k cellHits refHits = false) : (s.runJudged k cellHits refHits).cal = s.cal ∧
    (s.runJudged k cellHits refHits).fget CAL_FG_STATUS CAL_FG_STATUS.passed = s.fget CAL_FG_STATUS CAL_FG_STATUS.passed := by
  rw [State.runJudged, if_neg (by rw [h]; decide)]
  exact ⟨bump_kept (p := .cal) (by decide) (cellsJudged_kept (by decide) (by decide)),
    (bump_fget_field (by decide)).trans (fget_of_reg (cellsJudged_reg (by decide)))⟩

theorem runJudged_good (h : runGood (s.planeOf (tgtRx k)) k cellHits refHits = true) :
    (s.runJudged k cellHits refHits).fget CAL_FG_STATUS CAL_FG_STATUS.failed = s.fget CAL_FG_STATUS CAL_FG_STATUS.failed := by
  rw [State.runJudged, if_pos h, bump_fget_field (by decide), fget_of_kept (setsShifted_kept (by decide)), fget_of_reg (cellsJudged_reg (by decide))]

theorem runJudged_scheduled : (s.runJudged k cellHits refHits).scheduled j = s.scheduled j :=
  scheduled_of (shooting_of (runJudged_kept (p := .mode) (by decide) (by decide) (by decide))
      ((runJudged_reg (by decide)).trans (cellsJudged_reg (by decide))))
    ((blk_of_kept runJudged_rx).trans cellsJudged_blk) (runJudged_kept (p := .tx) (by decide) (by decide) (by decide))
    (runJudged_kept (p := .cut) (by decide) (by decide) (by decide))

theorem runLeft_left : ((s.runLeft k).blk k).fgRunning = false ∧ ((s.runLeft k).blk k).fgBack = s.scheduled k := by
  rw [State.runLeft, setBlk_blk_same]
  exact ⟨rfl, rfl⟩

theorem runLeft_blk_other (h : j ≠ k) : (s.runLeft k).blk j = s.blk j := setBlk_blk.trans (if_neg h)

/-- With no block still to start, the end of a run changes nothing more than the state of the request. -/
theorem runEnded_of_none (h : s.cal.fgLeft = []) :
    s.runEnded k = s.runLeft k ∨ s.runEnded k = fset CAL_FG_STATUS CAL_FG_STATUS.state 2 (s.runLeft k) := by
  unfold State.runEnded
  split_ifs
  · exact .inl rfl
  · exact fgAdvance_none h

theorem runEnded_kept {p : Part} (hregs : p ≠ .regs) (h : s.cal.fgLeft = []) : Kept p (s.runLeft k) (s.runEnded k) := by
  rcases runEnded_of_none (k := k) h with he | he
  · rw [he]; exact .refl p _
  · rw [he]; exact fset_kept hregs (.refl p _)

theorem runEnded_cal (h : s.cal.fgLeft = []) : (s.runEnded k).cal = s.cal := runEnded_kept (p := .cal) (by decide) h

theorem runEnded_reg (ha : a ≠ CAL_FG_STATUS) (h : s.cal.fgLeft = []) : (s.runEnded k).reg a = s.reg a := by
  rcases runEnded_of_none (k := k) h with he | he
  · rw [he]; rfl
  · rw [he]; exact setReg_reg_other ha

theorem runEnded_fget (hf : 2 ≤ f.lo) (h : s.cal.fgLeft = []) : (s.runEnded k).fget CAL_FG_STATUS f = s.fget CAL_FG_STATUS f := by
  rcases runEnded_of_none (k := k) h with he | he
  · rw [he]; rfl
  · rw [he]; exact fset_fget_field (.inr hf)

theorem foregroundRunEnd_takes {block : Fin 48} (hrun : (s.blk block).fgRunning = true) (hleft : s.cal.fgLeft = []) :
    ∃ t, exec (.foregroundRunEnd block cellHits hits) s = .next t ∧ (t.blk block).fgRunning = false ∧ (t.blk block).fgBack = s.scheduled block ∧
      (∀ i, i < 16 → checkable (s.planeOf (tgtRx block)) block i = true →
        CellJudged t (block * 16 + i) (codeDensity (nth [] cellHits i) 2097152).isSome) ∧
      (∀ c, c / 16 ≠ block.val → t.cell c = s.cell c) ∧ (∀ j, j ≠ block.val → t.blk j = s.blk j) ∧
      (runGood (s.planeOf (tgtRx block)) block cellHits hits = false → t.cal.sections = s.cal.sections ∧ t.cal.counts = s.cal.counts ∧
        t.fget CAL_FG_STATUS CAL_FG_STATUS.passed = s.fget CAL_FG_STATUS CAL_FG_STATUS.passed) ∧
      (runGood (s.planeOf (tgtRx block)) block cellHits hits = true →
        t.fget CAL_FG_STATUS CAL_FG_STATUS.failed = s.fget CAL_FG_STATUS CAL_FG_STATUS.failed) := by
  have hnone : (s.runJudged block cellHits hits).cal.fgLeft = [] := runJudged_stillLeft.trans hleft
  have hrx : Kept .rx ((s.runJudged block cellHits hits).runLeft block) ((s.runJudged block cellHits hits).runEnded block) := runEnded_kept (by decide) hnone
  have hblk {j : Nat} : ((s.runJudged block cellHits hits).runEnded block).blk j = ((s.runJudged block cellHits hits).runLeft block).blk j := blk_of_kept hrx
  obtain ⟨hrunning, hback⟩ := runLeft_left (s := s.runJudged block cellHits hits) (k := block)
  have hcell {c : Nat} : ((s.runJudged block cellHits hits).runEnded block).cell c = (s.cellsJudged block cellHits).cell c :=
    (cell_of_kept hrx).trans (setBlk_cell.trans (cell_of_kept runJudged_rx))
  have hreg {a : Nat} (ha : 0x8000000 ≤ a) : ((s.runJudged block cellHits hits).runEnded block).reg a = (s.cellsJudged block cellHits).reg a := by
    have hne : a ≠ CAL_FG_STATUS := by
      simp only [CAL_FG_STATUS, baseCf]
      omega
    exact (runEnded_reg hne hnone).trans (runJudged_reg hne)
  refine ⟨_, foregroundRunEnd_eq hrun, (congrArg RxBlk.fgRunning hblk).trans hrunning, (congrArg RxBlk.fgBack hblk).trans (hback.trans runJudged_scheduled),
    fun i hi hcheck => ?_, fun c hc => hcell.trans (cellsJudged_cell_other hc), fun j hj => ?_, fun hbad => ?_, fun hgood => ?_⟩
  · exact (cellsJudged_judged hi hcheck).of_same (hreg (baseRxCell_ge.trans (Nat.le_add_right _ _))) (hreg cellStatus_ge) hcell
  · rw [hblk, runLeft_blk_other hj]
    exact (blk_of_kept runJudged_rx).trans cellsJudged_blk
  · obtain ⟨hcal, hpassed⟩ := runJudged_bad hbad
    have hkept : ((s.runJudged block cellHits hits).runEnded block).cal = s.cal := (runEnded_cal hnone).trans hcal
    exact ⟨congrArg Cal.sections hkept, congrArg Cal.counts hkept, (runEnded_fget (by decide) hnone).trans hpassed⟩
  · exact (runEnded_fget (by decide) hnone).trans (runJudged_good hgood)

/-! ### O27 -/

/-- Settles O27: each clause is the lemma of its command. -/
theorem calibrationRunsJudgeAndShift : Obligations.CalibrationRunsJudgeAndShift := by
  intro q block rx cellHits hits v s b k pl pass ok stat good
  refine ⟨fun h => congrArg Host.Outcome.next (if_pos (by simpa using h)), fun hrun hleft => ?foreground, fun hon => ?background, loadRefresh_takes,
    fun ht => ⟨fun m hmode hstat hbusy hidle hon hrun => ?start, fun h => ?refused, fun h => ?abort, fun h => ?noAbort, ⟨?window, fun h => ?unnamed⟩, fun h => ?bad⟩⟩
  case foreground =>
    obtain ⟨t, hexec, hrunning, hback, hcells, hcell, hblk, hbad, hgood⟩ := foregroundRunEnd_takes (cellHits := cellHits) (hits := hits) hrun hleft
    exact ⟨t, hexec, hrunning, hback, hcells, hcell, hblk, fun h => hbad (Bool.eq_false_iff.mpr fun hg => h (runGood_iff.mp hg)), fun h => hgood (runGood_iff.mpr h)⟩
  case background => exact backgroundRunEnd_takes hon
  case start =>
    refine ⟨_, calCmd_takes ht (fgStart_one hmode hstat hbusy hidle hon hrun), completeOk_status, ?_⟩
    generalize s.fgPorts.length - 1 = skipped
    obtain ⟨hstate, hpassed, hfailed⟩ := fgOne_shows (s := s) (m := m) (n := skipped)
    simp only [completeOk_fget, completeOk_blk]
    exact ⟨hstate, congrArg RxBlk.fgRunning (fgOne_blk.trans (if_pos rfl)), hpassed, hfailed, completeOk_onlyRegs fgOne_onlyRegs,
      fun j hj => fgOne_blk.trans (if_neg hj)⟩
  case refused => exact calCmd_takes ht (fgStart_refuses h)
  case abort =>
    obtain ⟨hstate, hidle⟩ := fgAborted_shows (s := s)
    refine ⟨_, calCmd_takes ht (fgAbort_stops h), completeOk_status, ?_⟩
    simp only [completeOk_fget, completeOk_blk, completeOk_cal, fgAborted_cal]
    exact ⟨hstate, trivial, hidle, trivial, completeOk_onlyRegs fgAborted_onlyRegs⟩
  case noAbort => exact calCmd_takes ht (if_neg h)
  case window =>
    intro hnamed hword hstored hlight hpoint
    obtain ⟨hdata, hcount, htime⟩ := windowShows_reads (s := s) (key := s.selKey)
      (w := nth 0 (nth [] (s.section_ s.selKey).set.points (s.fget CAL_SEL2 CAL_SEL2.point)) (s.fget CAL_SEL2 CAL_SEL2.word))
    exact ⟨_, calCmd_takes ht (winRead_stored hnamed hword hstored hlight hpoint), completeOk_status, hdata, hcount, htime,
      completeOk_onlyRegs windowShows_onlyRegs⟩
  case unnamed => exact calCmd_takes ht (winRead_unnamed h)
  case bad => exact calCmd_takes ht (calCommand_refused h)

end Sys2Proof.Machine
end

/-!
PROOFS of the architecture statements, part 19: the fires and monitors of a port, the extra hop, and the slots that a sequence places (R145 to R150,
R155 to R158, R160, R162), O28.
-/
section
namespace Sys2Proof.Machine

set_option Elab.async false

variable {s t : State} {a e j k p q code pix lsb : Nat} {f : Fire} {g : PortFire} {fld : Fld} {sl : Slot} {pl : Option Plane}
  {rest : List PortFire}

/-! ### Ports, sequences and their registers -/

theorem port_of_kept (h : Kept .tx s t) : t.port p = s.port p := congrArg (fun x : Tx => look (fun _ => ({} : Port)) x.ports p) h

theorem portReg_ne_rec (h : baseTxPort p ≤ a) : a ≠ REC_LOST ∧ a ≠ REC_STATUS := by
  simp only [baseTxPort, REC_LOST, REC_STATUS, baseRec] at *
  omega

theorem portFlags_ne_rec : TX_PORT_FLAGS p ≠ REC_LOST ∧ TX_PORT_FLAGS p ≠ REC_STATUS := portReg_ne_rec (Nat.le_add_right _ _)

theorem portStatus_ne_rec : TX_PORT_STATUS p ≠ REC_LOST ∧ TX_PORT_STATUS p ≠ REC_STATUS := portReg_ne_rec (Nat.le_add_right _ _)

theorem portFlags_ne_status : TX_PORT_FLAGS p ≠ TX_PORT_STATUS p := by simp [TX_PORT_FLAGS, TX_PORT_STATUS]

theorem fset_port {v : Nat} : (fset a fld v s).port p = s.port p := rfl

theorem flag_tx : (flag a fld s).tx = s.tx := flag_kept (p := .tx) (by decide) (by decide) (.refl _ s)

theorem flag_port : (flag a fld s).port p = s.port p := port_of_kept flag_tx

/-! ### A fire's instant comes (R145, R147 to R150) -/

theorem firePort_waits (hfires : (s.port p).fires = g :: rest) (h : s.now < g.ns) : firePort p s = s := by
  unfold firePort
  simp only [hfires, if_pos h]

/-- A port that may not drive gives its fire up (R148, R149, R167). -/
theorem firePort_drops (hfires : (s.port p).fires = g :: rest) (hdue : g.ns ≤ s.now)
    (hoff : s.driving = false ∨ (s.port p).masked = true ∨ s.isolated 4 (p / 16) = true) : firePort p s = setPort p { s.port p with fires := rest } s := by
  unfold firePort
  simp only [hfires, if_neg (not_lt.mpr hdue)]
  refine if_pos ?_
  rcases hoff with h | h | h <;> simp [h]

/-- Port `p` has driven its oldest fire `g`: its gate is open, it is counted, and channel B is told (R147, R150). -/
def State.driven (s : State) (p : Nat) (g : PortFire) (rest : List PortFire) : State :=
  let u := setReg64 (TX_PORT_FIRES_LO p) (s.reg64 (TX_PORT_FIRES_LO p) + 1)
    (setPort p { s.port p with fires := rest, gates := (s.port p).gates ++ [g] } (setPort p { s.port p with fires := rest } s))
  { u with tx := { u.tx with tapB := u.tx.tapB ++ [(p, g.width, g.ns)] } }

theorem firePort_drives (hfires : (s.port p).fires = g :: rest) (hdue : g.ns ≤ s.now) (hdrive : s.driving = true) (hmask : (s.port p).masked = false)
    (hiso : s.isolated 4 (p / 16) = false) (hpair : s.pair ≠ .active) (hcount : s.reg64 (TX_PORT_FIRES_LO p) + 2 < 2 ^ 64) :
    firePort p s = s.driven p g rest := by
  have hkept : (setPort p { s.port p with fires := rest, gates := (s.port p).gates ++ [g] } (setPort p { s.port p with fires := rest } s)).reg64
      (TX_PORT_FIRES_LO p) = s.reg64 (TX_PORT_FIRES_LO p) := rfl
  unfold firePort
  simp only [hfires, if_neg (not_lt.mpr hdue)]
  rw [if_neg (by simp [hdrive, hmask, hiso, hpair]), hkept, if_pos (by omega), decide_eq_false (by omega)]
  rfl

theorem driven_port : (s.driven p g rest).port j = if j = p then { s.port p with fires := rest, gates := (s.port p).gates ++ [g] } else s.port j := by
  refine setPort_port.trans ?_
  split_ifs with h
  · rfl
  · exact setPort_port.trans (if_neg h)

theorem driven_counts (h : s.reg64 (TX_PORT_FIRES_LO p) + 1 < 2 ^ 64) :
    (s.driven p g rest).reg64 (TX_PORT_FIRES_LO p) = s.reg64 (TX_PORT_FIRES_LO p) + 1 := setReg64_reg64 h

theorem driven_onlyRegs : OnlyRegs [TX_PORT_FIRES_LO p, TX_PORT_FIRES_LO p + 4] s (s.driven p g rest) :=
  (OnlyRegs.refl.setReg (by simp)).setReg (by simp)

/-! ### A port masks itself (R148, R149) -/

theorem maskPort_port : (maskPort p fld s).port j = if j = p then { s.port p with masked := true, fires := [] } else s.port j := by
  rw [maskPort, port_of_kept (deadSlots_kept (by decide) (.refl _ _)), fset_port, flag_port, setPort_port]

theorem maskPort_tapA : (maskPort p fld s).tx.tapA = s.tx.tapA := by
  have htx : (maskPort p fld s).tx = (setPort p { s.port p with masked := true, fires := [] } s).tx :=
    deadSlots_kept (p := .tx) (by decide) (fset_kept (by decide) (flag_kept (by decide) (by decide) (.refl _ _)))
  rw [htx]
  rfl

theorem maskPort_state : (maskPort p fld s).fget (TX_PORT_STATUS p) TX_PORT_STATUS.state = 1 :=
  (fget_of_kept (deadSlots_kept (by decide) (.refl _ _))).trans (fset_fget_same (by decide))

theorem maskPort_last_charge : (maskPort p fld s).fget (TX_PORT_STATUS p) TX_PORT_STATUS.last_charge = s.fget (TX_PORT_STATUS p) TX_PORT_STATUS.last_charge := by
  rw [maskPort, fget_of_kept (deadSlots_kept (by decide) (.refl _ _)), fset_fget_field (by decide),
    flag_fget_other portFlags_ne_status.symm portStatus_ne_rec]
  rfl

theorem maskPort_flag (h : fld.lo < 32) : (maskPort p fld s).rbit (TX_PORT_FLAGS p) fld.lo = true := by
  rw [maskPort, State.rbit, reg_of_kept (deadSlots_kept (by decide) (.refl _ _)), fset_reg, if_neg portFlags_ne_status]
  exact flag_rbit h portFlags_ne_rec

theorem maskPort_masked : ((maskPort p fld s).port p).masked = true := congrArg Port.masked (maskPort_port.trans (if_pos rfl))

theorem maskPort_fires : ((maskPort p fld s).port p).fires = [] := congrArg Port.fires (maskPort_port.trans (if_pos rfl))

/-! ### The monitor is judged (R148) -/

/-- Port `p` with its counts of codes below and above the limits. -/
def State.withRuns (s : State) (p low high : Nat) : State := setPort p { s.port p with low := low, high := high } s

/-- The limits of the monitor of port `p`, and the run of codes that masks it (R148). -/
def State.monMin (s : State) (p : Nat) : Nat := cutF (s.planeOf tgtTx) (TX_BLK_MON_LIM (p / 16)) TX_BLK_MON_LIM.mon_min
def State.monMax (s : State) (p : Nat) : Nat := cutF (s.planeOf tgtTx) (TX_BLK_MON_LIM (p / 16)) TX_BLK_MON_LIM.mon_max
def State.monPersist (s : State) (p : Nat) : Nat := max 1 (cutF (s.planeOf tgtTx) (TX_BLK_MON_CFG (p / 16)) TX_BLK_MON_CFG.mon_persist)

/-- The counts of port `p` after an evaluated code (R148). -/
def State.lowRun (s : State) (p code : Nat) : Nat := if s.monMin p ≠ 0 ∧ code < s.monMin p then (s.port p).low + 1 else 0
def State.highRun (s : State) (p code : Nat) : Nat := if s.monMax p ≠ 0xFFF ∧ s.monMax p < code then (s.port p).high + 1 else 0

theorem judgeCharge_eq : judgeCharge p code s =
    if s.monPersist p ≤ s.lowRun p code then maskPort p TX_PORT_FLAGS.mon_low (s.withRuns p (s.lowRun p code) (s.highRun p code))
    else if s.monPersist p ≤ s.highRun p code then maskPort p TX_PORT_FLAGS.mon_high (s.withRuns p (s.lowRun p code) (s.highRun p code))
    else s.withRuns p (s.lowRun p code) (s.highRun p code) := rfl

theorem monPersist_pos : 0 < s.monPersist p := Nat.lt_of_lt_of_le Nat.one_pos (Nat.le_max_left _ _)

theorem lowRun_zero (h : s.monMin p ≤ code) : s.lowRun p code = 0 := if_neg fun h' => absurd h'.2 (not_lt.mpr h)

theorem highRun_zero (h : code ≤ s.monMax p) : s.highRun p code = 0 := if_neg fun h' => absurd h'.2 (not_lt.mpr h)

/-- A code within the limits ends both runs. -/
theorem judgeCharge_within (hlo : s.monMin p ≤ code) (hhi : code ≤ s.monMax p) : judgeCharge p code s = s.withRuns p 0 0 := by
  have hpos := monPersist_pos (s := s) (p := p)
  rw [judgeCharge_eq, lowRun_zero hlo, highRun_zero hhi, if_neg (not_le.mpr hpos), if_neg (not_le.mpr hpos)]

theorem judgeCharge_low (hlo : s.monMin p ≠ 0) (hcode : code < s.monMin p) (hrun : s.monPersist p ≤ (s.port p).low + 1) :
    judgeCharge p code s = maskPort p TX_PORT_FLAGS.mon_low (s.withRuns p (s.lowRun p code) (s.highRun p code)) := by
  have hlow : s.lowRun p code = (s.port p).low + 1 := if_pos ⟨hlo, hcode⟩
  rw [judgeCharge_eq, if_pos (hlow ▸ hrun)]

theorem judgeCharge_high (hlo : s.monMin p ≤ code) (hhi : s.monMax p ≠ 0xFFF) (hcode : s.monMax p < code) (hrun : s.monPersist p ≤ (s.port p).high + 1) :
    judgeCharge p code s = maskPort p TX_PORT_FLAGS.mon_high (s.withRuns p (s.lowRun p code) (s.highRun p code)) := by
  have hhigh : s.highRun p code = (s.port p).high + 1 := if_pos ⟨hhi, hcode⟩
  rw [judgeCharge_eq, if_neg (by rw [lowRun_zero hlo]; exact not_le.mpr monPersist_pos), if_pos (hhigh ▸ hrun)]

theorem withRuns_port {low high : Nat} : (s.withRuns p low high).port j = if j = p then { s.port p with low := low, high := high } else s.port j := setPort_port

/-- Whatever the verdict, the gates, the codes told to channel A and the code shown stay, and so do the other ports. -/
def ChargeKept (p : Nat) (s t : State) : Prop :=
  (t.port p).gates = (s.port p).gates ∧ t.tx.tapA = s.tx.tapA ∧
    t.fget (TX_PORT_STATUS p) TX_PORT_STATUS.last_charge = s.fget (TX_PORT_STATUS p) TX_PORT_STATUS.last_charge ∧ ∀ j, j ≠ p → t.port j = s.port j

theorem ChargeKept.refl : ChargeKept p s s := ⟨rfl, rfl, rfl, fun _ _ => rfl⟩

theorem ChargeKept.maskPort (h : ChargeKept p s t) : ChargeKept p s (maskPort p fld t) := by
  obtain ⟨hgates, htap, hlast, hports⟩ := h
  refine ⟨?_, maskPort_tapA.trans htap, maskPort_last_charge.trans hlast, fun j hj => ?_⟩
  · rw [maskPort_port, if_pos rfl]
    exact hgates
  · rw [maskPort_port, if_neg hj]
    exact hports j hj

theorem withRuns_chargeKept {low high : Nat} : ChargeKept p s (s.withRuns p low high) := by
  refine ⟨?_, rfl, rfl, fun j hj => withRuns_port.trans (if_neg hj)⟩
  rw [withRuns_port, if_pos rfl]

theorem judgeCharge_chargeKept : ChargeKept p s (judgeCharge p code s) := by
  rw [judgeCharge_eq]
  split_ifs
  · exact withRuns_chargeKept.maskPort
  · exact withRuns_chargeKept.maskPort
  · exact withRuns_chargeKept

/-- A charge code has come back for the oldest open gate `g`: it is shown, and channel A is told (R147, R150). -/
def State.charged (s : State) (p code : Nat) (g : PortFire) (rest : List PortFire) (evaluated : Bool) : State :=
  let u := fset (TX_PORT_STATUS p) TX_PORT_STATUS.last_charge code (setPort p { s.port p with gates := rest } s)
  { u with tx := { u.tx with tapA := u.tx.tapA ++ [(p, code, g.ns, evaluated)] } }

theorem charged_port {evaluated : Bool} :
    (s.charged p code g rest evaluated).port j = if j = p then { s.port p with gates := rest } else s.port j := setPort_port

theorem charged_port_same {evaluated : Bool} : (s.charged p code g rest evaluated).port p = { s.port p with gates := rest } := charged_port.trans (if_pos rfl)

theorem charged_last_charge {evaluated : Bool} (h : code < 2 ^ 12) :
    (s.charged p code g rest evaluated).fget (TX_PORT_STATUS p) TX_PORT_STATUS.last_charge = code :=
  (fset_fget_same (by decide)).trans (Nat.mod_eq_of_lt h)

theorem charged_shows {evaluated : Bool} (hcode : code < 2 ^ 12) (h : ChargeKept p (s.charged p code g rest evaluated) t) :
    (t.port p).gates = rest ∧ t.tx.tapA = s.tx.tapA ++ [(p, code, g.ns, evaluated)] ∧
      t.fget (TX_PORT_STATUS p) TX_PORT_STATUS.last_charge = code ∧ ∀ j, j ≠ p → t.port j = s.port j := by
  obtain ⟨hgates, htap, hlast, hports⟩ := h
  exact ⟨hgates.trans (congrArg Port.gates charged_port_same), htap, hlast.trans (charged_last_charge hcode),
    fun j hj => (hports j hj).trans (charged_port.trans (if_neg hj))⟩

/-- The code has been judged where the fire was evaluated and its port is not masked (R148). -/
def State.monitored (s : State) (p code : Nat) (g : PortFire) (rest : List PortFire) (evaluated : Bool) : State :=
  if evaluated && !(s.port p).masked then judgeCharge p code (s.charged p code g rest evaluated) else s.charged p code g rest evaluated

theorem monitorCharge_eq {port : Fin 64} {charge : BitVec 12} {evaluated : Bool} (hgates : (s.port port).gates = g :: rest) :
    exec (.monitorCharge port charge evaluated) s = .next (s.monitored port charge.toNat g rest evaluated) := by
  refine congrArg Host.Outcome.next ?_
  simp only [hgates]
  rfl

theorem monitored_chargeKept {evaluated : Bool} :
    ChargeKept p (s.charged p code g rest evaluated) (s.monitored p code g rest evaluated) := by
  unfold State.monitored
  split_ifs
  · exact judgeCharge_chargeKept
  · exact .refl

theorem monitored_unjudged {evaluated : Bool} (h : evaluated = false ∨ (s.port p).masked = true) :
    s.monitored p code g rest evaluated = s.charged p code g rest evaluated := if_neg (by rcases h with h | h <;> simp [h])

theorem monitored_judged (h : (s.port p).masked = false) : s.monitored p code g rest true = judgeCharge p code (s.charged p code g rest true) :=
  if_pos (by rw [h]; rfl)

theorem monitored_within (h : (s.port p).masked = false) (hlo : s.monMin p ≤ code) (hhi : code ≤ s.monMax p) :
    (s.monitored p code g rest true).port p = { s.port p with gates := rest, low := 0, high := 0 } := by
  rw [monitored_judged h, judgeCharge_within (s := s.charged p code g rest true) hlo hhi, withRuns_port, if_pos rfl, charged_port_same]

/-- A code below the limit that completes the run masks the port (R148). -/
theorem monitored_low (h : (s.port p).masked = false) (hlo : s.monMin p ≠ 0) (hcode : code < s.monMin p) (hrun : s.monPersist p ≤ (s.port p).low + 1) :
    ((s.monitored p code g rest true).port p).masked = true ∧ ((s.monitored p code g rest true).port p).fires = [] ∧
      (s.monitored p code g rest true).fget (TX_PORT_STATUS p) TX_PORT_STATUS.state = 1 ∧
      (s.monitored p code g rest true).rbit (TX_PORT_FLAGS p) TX_PORT_FLAGS.mon_low.lo = true := by
  rw [monitored_judged h, judgeCharge_low (s := s.charged p code g rest true) hlo hcode (by rw [charged_port_same]; exact hrun)]
  exact ⟨maskPort_masked, maskPort_fires, maskPort_state, maskPort_flag (by decide)⟩

/-- A code above the limit that completes the run masks the port (R148). -/
theorem monitored_high (h : (s.port p).masked = false) (hlo : s.monMin p ≤ code) (hhi : s.monMax p ≠ 0xFFF) (hcode : s.monMax p < code)
    (hrun : s.monPersist p ≤ (s.port p).high + 1) :
    ((s.monitored p code g rest true).port p).masked = true ∧
      (s.monitored p code g rest true).rbit (TX_PORT_FLAGS p) TX_PORT_FLAGS.mon_high.lo = true := by
  rw [monitored_judged h, judgeCharge_high (s := s.charged p code g rest true) hlo hhi hcode (by rw [charged_port_same]; exact hrun)]
  exact ⟨maskPort_masked, maskPort_flag (by decide)⟩

/-! ### A port is re-armed (R149) -/

theorem portRearm_serving (h : (s.port p).masked = false) : portRearm p s = s := if_pos (by rw [h]; rfl)

theorem portRearm_waits (h : (s.port p).masked = true)
    (hplacing : s.tx.seqs.any (fun e => e.2.placing && (seqEmitters (shotTable e.2.plane) e.1).testBit p) = true) :
    portRearm p s = setPort p { s.port p with rearm := true } s := by
  unfold portRearm
  rw [h, hplacing]
  rfl

theorem portRearm_restores (h : (s.port p).masked = true)
    (hidle : s.tx.seqs.any (fun e => e.2.placing && (seqEmitters (shotTable e.2.plane) e.1).testBit p) = false) : portRearm p s = restorePort p s := by
  unfold portRearm
  rw [h, hidle]
  rfl

theorem restorePort_port :
    (restorePort p s).port j = if j = p then { s.port p with masked := false, rearm := false, low := 0, high := 0 } else s.port j := setPort_port

theorem restorePort_state : (restorePort p s).fget (TX_PORT_STATUS p) TX_PORT_STATUS.state = 0 := fset_fget_same (by decide)

theorem restorePort_onlyRegs : OnlyRegs [TX_PORT_STATUS p] s (restorePort p s) := OnlyRegs.refl.setReg (List.mem_singleton.mpr rfl)

theorem portRearm_exec {c : Requester} {port : Fin 64} (ht : s.takes (TX_PORT_CMD port)) :
    exec (.portRearm c port) s = .next (completeOk c (TX_PORT_CMD port + 1) (portRearm port s)) :=
  congrArg Host.Outcome.next (hostWrite_takes ht)

/-! ### An extra hop (R162) -/

theorem hopFrameWrite_exec {c : Requester} {w : Word} (ht : s.takes TX_HOP_FRAME) :
    exec (.hopFrameWrite c w) s = .next (completeOk c (TX_HOP_FRAME + 1) (hopWrite w s)) :=
  congrArg Host.Outcome.next (hostWrite_takes ht)

/-- An extra hop waits for its frame, in its place among the changes accepted (R44, R162). -/
def State.hopWaits (s : State) (w : Word) : State := setReg TX_HOP_FRAME w (accept { s with tx := { s.tx with hopOrder := s.time.accepted } })

theorem hopWrite_takes {w : Word} (h : w = 0 ∨ s.frameNum < w.toNat) : hopWrite w s = s.hopWaits w := by
  refine if_neg fun ⟨hw, hlate⟩ => ?_
  rcases h with h | h
  · exact hw h
  · exact absurd (of_decide_eq_true hlate) (not_le.mpr h)

theorem hopWrite_refuses {w : Word} (hw : w ≠ 0) (h : w.toNat ≤ s.frameNum) :
    hopWrite w s = flag TX_SCHED_STATUS TX_SCHED_STATUS.hop_refused (flag TIME_STATUS TIME_STATUS.late_instant s) :=
  if_pos ⟨hw, decide_eq_true h⟩

theorem hopWaits_onlyRegs {w : Word} : OnlyRegs [TX_HOP_FRAME] s (s.hopWaits w) :=
  (OnlyRegs.of_kept (s := s) (t := accept { s with tx := { s.tx with hopOrder := s.time.accepted } }) rfl).setReg (List.mem_singleton.mpr rfl)

/-! ### A slot is posted to its blocks (R18, R158) -/

/-- Slot `sl` is posted to block `k`. -/
def postSlot (sl : Slot) (k : Nat) (s : State) : State := setBlk k { s.blk k with posts := (s.blk k).posts ++ [sl] } s

theorem postSlots_kept {c : Part} {l : List Nat} (hrx : c ≠ .rx) : Kept c s (l.foldl (fun u k => postSlot sl k u) s) :=
  foldl_kept (fun _ _ h => setBlk_kept hrx h) (.refl c s)

theorem postSlots_other {l : List Nat} (h : k ∉ l) : (l.foldl (fun u k => postSlot sl k u) s).blk k = s.blk k := by
  induction l generalizing s with
  | nil => rfl
  | cons j l ih =>
    rw [List.mem_cons, not_or] at h
    exact (ih h.2).trans (setBlk_blk.trans (if_neg h.1))

/-- Each block of the list, named once, takes the slot. -/
theorem postSlots_posts {l : List Nat} (hl : l.Nodup) (h : k ∈ l) : ((l.foldl (fun u k => postSlot sl k u) s).blk k).posts = (s.blk k).posts ++ [sl] := by
  induction l generalizing s with
  | nil => cases h
  | cons j l ih =>
    rw [List.nodup_cons] at hl
    rw [List.foldl_cons]
    by_cases hk : k = j
    · subst hk
      rw [postSlots_other hl.1, postSlot, setBlk_blk_same]
    · rw [ih hl.2 ((List.mem_cons.mp h).resolve_left hk), postSlot, setBlk_blk, if_neg hk]

theorem boundTo_nodup {l : List Word} : (boundTo l q).Nodup := List.nodup_range.filter _

theorem mem_boundTo {l : List Word} (hk : k < 48) (h : binding l k = some q) : k ∈ boundTo l q :=
  List.mem_filter.mpr ⟨List.mem_range.mpr hk, decide_eq_true h⟩

/-- The blocks that know a slot for its crosstalk alone are bound to other sequences (R89). -/
theorem not_mem_crossed {l : List Word} {fires : List Fire} (h : binding l k = some q) : k ∉ crossed s q l fires := fun hk => by
  have hne := (List.mem_filter.mp hk).2
  rw [h] at hne
  simp at hne

/-! ### The fires of a slot are loaded into their ports (R154, R157) -/

theorem loadPort_loads (hlive : f.dead = false) (hsup : f.suppressed = false) : loadPort pl q pix lsb f s = setPort f.emitter { s.port f.emitter with
    fires := (s.port f.emitter).fires ++ [⟨pix, lsb, f.ns, f.q, emitterWidth (shotTable pl) f.emitter, q⟩] } s :=
  if_neg (by rw [hlive, hsup]; decide)

theorem loadPort_port_other (h : e ≠ f.emitter) : (loadPort pl q pix lsb f s).port e = s.port e := by
  unfold loadPort
  split_ifs
  · rfl
  · exact setPort_port.trans (if_neg h)

theorem loadPort_seqs : (loadPort pl q pix lsb f s).tx.seqs = s.tx.seqs := by
  unfold loadPort
  split_ifs <;> rfl

theorem loadPorts_kept {c : Part} {l : List Fire} (htx : c ≠ .tx) : Kept c s (l.foldl (fun u f => loadPort pl q pix lsb f u) s) :=
  foldl_kept (fun _ _ h => loadPort_kept htx h) (.refl c s)

theorem loadPorts_other {l : List Fire} (h : e ∉ l.map Fire.emitter) : (l.foldl (fun u f => loadPort pl q pix lsb f u) s).port e = s.port e := by
  induction l generalizing s with
  | nil => rfl
  | cons f l ih =>
    rw [List.map_cons, List.mem_cons, not_or] at h
    exact (ih h.2).trans (loadPort_port_other h.1)

/-- Each live fire of a slot, one to a port, comes last in its port. -/
theorem loadPorts_loads {l : List Fire} (hl : (l.map Fire.emitter).Nodup) (hf : f ∈ l) (hlive : f.dead = false) (hsup : f.suppressed = false) :
    ((l.foldl (fun u f => loadPort pl q pix lsb f u) s).port f.emitter).fires =
      (s.port f.emitter).fires ++ [⟨pix, lsb, f.ns, f.q, emitterWidth (shotTable pl) f.emitter, q⟩] := by
  induction l generalizing s with
  | nil => cases hf
  | cons d l ih =>
    rw [List.map_cons, List.nodup_cons] at hl
    rw [List.foldl_cons]
    rcases List.mem_cons.mp hf with rfl | hmem
    · rw [loadPorts_other hl.1, loadPort_loads hlive hsup, setPort_port_same]
    · have hne : f.emitter ≠ d.emitter := fun h => hl.1 (h ▸ List.mem_map_of_mem hmem)
      rw [ih hl.2 hmem, loadPort_port_other hne]

/-! ### The next slot of a sequence (R155 to R158, R160, R164) -/

/-- A slot fires each emitter of its mask once. -/
theorem slotFires_emitters {mask base : Nat} : (slotFires pl s mask base).map Fire.emitter = (List.range 64).filter (mask.testBit ·) := by
  rw [slotFires, List.map_filterMap, ← List.filterMap_eq_filter]
  congr 1
  funext e
  by_cases h : mask.testBit e = true <;> simp [h, Option.guard]

theorem slotFires_emitters_nodup {mask base : Nat} : ((slotFires pl s mask base).map Fire.emitter).Nodup :=
  slotFires_emitters ▸ List.nodup_range.filter _

theorem slotFires_not_suppressed {mask base : Nat} (h : f ∈ slotFires pl s mask base) : f.suppressed = false := by
  obtain ⟨e, -, he⟩ := List.mem_filterMap.mp h
  split_ifs at he
  rw [← Option.some.inj he]

/-- Is the next slot of sequence `q` a listen slot (R164)? -/
def State.nextListens (s : State) (q : Nat) : Bool :=
  let lp := tw (codeFrame (s.seq q).plane) 2 % 65536
  seqListenEn (shotTable (s.seq q).plane) q && decide (lp ≠ 0) && decide ((s.seq q).n % lp + 1 = lp)

/-- The nominal instant of the next slot of sequence `q`, and its inclusion code (R155, R160). -/
def State.nextInstant (s : State) (q : Nat) : Nat :=
  (s.seq q).edge + seqOffset (shotTable (s.seq q).plane) q + (s.seq q).n * seqPeriod (shotTable (s.seq q).plane) q
def State.nextCode (s : State) (q : Nat) : Nat := lfsrSteps 8 (s.seq q).lfsr % 256

/-- The shot time of the pixel in which the next slot of sequence `q` lies (R155). -/
def State.nextPixel (s : State) (q : Nat) : Nat :=
  let st := shotTable (s.seq q).plane
  (s.seq q).edge + seqOffset st q + (s.seq q).n / seqShots st q * seqShots st q * seqPeriod st q

/-- The fires of the next slot of sequence `q` (R157). -/
def State.nextFires (s : State) (q : Nat) : List Fire :=
  let e := s.seq q
  let dith := if ditherOn e.plane q && s.tx.code ≠ [] then s.nextCode q * 64 * (stepEff e.plane q + 1) else 0
  slotFires e.plane s (if s.nextListens q then 0 else seqPattern (shotTable e.plane) q (e.n % seqPatternLen (shotTable e.plane) q))
    (s.nextInstant q * 128 + dith)

/-- The next slot of sequence `q` with these fires, as its blocks are told of it. -/
def State.nextSlot (s : State) (q : Nat) (fires : List Fire) : Slot :=
  let e := s.seq q
  let shots := seqShots (shotTable e.plane) q
  { seq := q, frame := e.frame, n := e.n, m := e.n / shots, k := e.n % shots, kind := if s.nextListens q then .listen else .fire, tn := s.nextInstant q,
    code := s.nextCode q, lag := s.pairLag, fires := fires, own := true, known := [], dark := false, judged := 0, counted := 0 }

/-- Is there no longer time to post it (R158)? -/
def State.nextLate (s : State) (q : Nat) (fires : List Fire) : Bool :=
  decide ((s.nextSlot q fires).lsb < (s.now + postLead (s.seq q).plane s q fires) * 128)

/-- It has been posted to the blocks bound to the sequence, and for its crosstalk to the blocks that it crosses (R89). -/
def State.slotPosted (s : State) (q : Nat) (fires : List Fire) : State :=
  let st := shotTable (s.seq q).plane
  let u := (boundTo st q).foldl (fun u k => postSlot (s.nextSlot q fires) k u) s
  (crossed u q st fires).foldl (fun u k => postSlot { s.nextSlot q fires with own := false } k u) u

/-- It has been posted, and its fires wait in their ports. -/
def State.slotPlaced (s : State) (q : Nat) (fires : List Fire) : State :=
  fires.foldl (fun u f => loadPort (s.seq q).plane q (s.nextPixel q) (s.nextSlot q fires).lsb f u) (s.slotPosted q fires)

/-- Sequence `q` goes on to the slot after the next. -/
def State.slotPassed (s : State) (q : Nat) (t : State) : State := setSeq q { s.seq q with n := (s.seq q).n + 1, lfsr := lfsrSteps 8 (s.seq q).lfsr } t

theorem placeSlot_idle (h : (s.seq q).placing = false ∨ s.shooting = false) : placeSlot q s = s := if_pos (by rcases h with h | h <;> simp [h])

/-- A slot that is neither the first of its pixel nor the last of its frame, with no check slot asked for. -/
theorem placeSlot_midPixel (hplacing : (s.seq q).placing = true) (hshoot : s.shooting = true) (hchecks : s.tx.checks = [])
    (hshots : seqShots (shotTable (s.seq q).plane) q ≠ 0) (hmid : (s.seq q).n % seqShots (shotTable (s.seq q).plane) q ≠ 0)
    (hmore : (s.seq q).n + 1 < seqPixels (shotTable (s.seq q).plane) q * seqShots (shotTable (s.seq q).plane) q) :
    placeSlot q s = s.slotPassed q (if s.nextLate q (s.nextFires q) then flag TX_SCHED_STATUS TX_SCHED_STATUS.late_slot s
      else s.slotPlaced q (s.nextFires q)) := by
  have hat : (s.seq q).atPixel q = false := by rw [Seq.atPixel, max_eq_right (Nat.pos_of_ne_zero hshots), decide_eq_false hmid]
  have htakers {tn : Nat} {listen : Bool} {fires : List Fire} : takers (s.seq q).plane q tn listen fires s.tx.checks = [] := by rw [hchecks]; rfl
  have hsup {tn : Nat} {fires : List Fire} : suppressedBy (s.seq q).plane q tn fires s.tx.checks = [] := by rw [suppressedBy, htakers]; rfl
  have huse {tn : Nat} {listen : Bool} {fires : List Fire} : useChecks (s.seq q).plane q tn listen fires s = s := by rw [useChecks, htakers]; rfl
  have hfires : (s.nextFires q).map (fun f => { f with suppressed := false }) = s.nextFires q :=
    (List.map_congr_left fun f hf => by rw [← slotFires_not_suppressed hf]; rfl).trans (List.map_id _)
  unfold placeSlot
  rw [if_neg (by simp [hplacing, hshoot])]
  simp only [hat, Bool.false_eq_true, if_false, decide_eq_false hmid, hsup, huse, if_pos hmore]
  rw [if_neg (by omega)]
  exact congrArg (fun l => s.slotPassed q (if s.nextLate q l then flag TX_SCHED_STATUS TX_SCHED_STATUS.late_slot s else s.slotPlaced q l)) hfires

theorem slotPassed_seq : (s.slotPassed q t).seq j = if j = q then { s.seq q with n := (s.seq q).n + 1, lfsr := lfsrSteps 8 (s.seq q).lfsr } else t.seq j :=
  setSeq_seq

theorem slotPassed_ports : (s.slotPassed q t).tx.ports = t.tx.ports := rfl

section
variable {fires : List Fire}

theorem slotPosted_kept {c : Part} (hrx : c ≠ .rx) : Kept c s (s.slotPosted q fires) := (postSlots_kept hrx).trans (postSlots_kept hrx)

theorem slotPosted_posts (hk : k < 48) (h : binding (shotTable (s.seq q).plane) k = some q) :
    ((s.slotPosted q fires).blk k).posts = (s.blk k).posts ++ [s.nextSlot q fires] := by
  rw [State.slotPosted, postSlots_other (not_mem_crossed h), postSlots_posts boundTo_nodup (mem_boundTo hk h)]

theorem slotPlaced_regs : (s.slotPlaced q fires).regs = s.regs :=
  (slotPosted_kept (c := .regs) (by decide)).trans (loadPorts_kept (by decide))

theorem slotPlaced_seq : (s.slotPlaced q fires).seq j = s.seq j := by
  have hposted : (s.slotPosted q fires).tx = s.tx := slotPosted_kept (c := .tx) (by decide)
  have hplaced : (s.slotPlaced q fires).tx.seqs = (s.slotPosted q fires).tx.seqs := foldl_proj (π := fun u : State => u.tx.seqs) fun _ _ => loadPort_seqs
  rw [State.seq, hplaced, hposted]
  rfl

theorem slotPlaced_posts (hk : k < 48) (h : binding (shotTable (s.seq q).plane) k = some q) :
    ((s.slotPlaced q fires).blk k).posts = (s.blk k).posts ++ [s.nextSlot q fires] := by
  rw [State.slotPlaced, blk_of_kept (loadPorts_kept (by decide)), slotPosted_posts hk h]

theorem slotPlaced_loads (hl : (fires.map Fire.emitter).Nodup) (hf : f ∈ fires) (hlive : f.dead = false) (hsup : f.suppressed = false) :
    ((s.slotPlaced q fires).port f.emitter).fires = (s.port f.emitter).fires ++
      [⟨s.nextPixel q, (s.nextSlot q fires).lsb, f.ns, f.q, emitterWidth (shotTable (s.seq q).plane) f.emitter, q⟩] := by
  rw [State.slotPlaced, loadPorts_loads hl hf hlive hsup, port_of_kept (slotPosted_kept (by decide))]

end

/-! ### O28 -/

/-- Settles O28: a slot in the middle of its pixel is placed or too late, and each other clause is the lemma of its command. -/
theorem shotsArePlacedFiredAndMonitored : Obligations.ShotsArePlacedFiredAndMonitored := by
  intro q sq port charge ev w s x e pl st shots period tn lp listen code dith fires slot late hopOk
  refine ⟨fun hplacing hshoot hchecks hshots hmid hmore => ?place, fun h => congrArg Host.Outcome.next (placeSlot_idle h),
    fun f rest hfires => ⟨fun h => congrArg Host.Outcome.next (firePort_waits hfires h),
      fun hdue hoff => congrArg Host.Outcome.next (firePort_drops hfires hdue hoff),
      fun hdue hdrive hmask hiso hpair hcount => ?drive⟩,
    fun f rest hgates => ?charge, fun ht => ⟨fun h => ?serving, fun h hidle => ?restored, fun h hplacing => ?waiting⟩,
    fun ht => ⟨fun h => ?hop, fun hw h => ?noHop⟩⟩
  case place =>
    have hexec : exec (.slotPlace sq) s = .next (s.slotPassed sq (if late then flag TX_SCHED_STATUS TX_SCHED_STATUS.late_slot s else s.slotPlaced sq fires)) :=
      congrArg Host.Outcome.next (placeSlot_midPixel hplacing hshoot hchecks hshots hmid hmore)
    refine ⟨_, hexec, slotPassed_seq.trans (if_pos rfl), fun j hj => ?_, fun hlate => ?_, fun hlate => ?_⟩
    · refine (slotPassed_seq.trans (if_neg hj)).trans ?_
      split_ifs
      · rw [State.seq, flag_tx]
        rfl
      · exact slotPlaced_seq
    · rw [hlate, if_pos rfl]
      exact ⟨flag_rbit (by decide) (by decide), slotPassed_ports.trans (congrArg Tx.ports flag_tx), fun k => congrArg RxBlk.posts flag_blk⟩
    · rw [hlate, if_neg (by decide)]
      refine ⟨slotPlaced_regs, fun k hk hbound => slotPlaced_posts hk hbound, fun f hf hlive => ?_⟩
      exact ⟨_, slotPlaced_loads slotFires_emitters_nodup hf hlive (slotFires_not_suppressed hf), rfl, rfl, rfl, rfl, rfl⟩
  case drive =>
    have hexec : exec (.fire port) s = .next (s.driven port f rest) := congrArg Host.Outcome.next (firePort_drives hfires hdue hdrive hmask hiso hpair hcount)
    exact ⟨_, hexec, driven_port.trans (if_pos rfl), driven_counts (by omega), rfl, fun j hj => driven_port.trans (if_neg hj), driven_onlyRegs⟩
  case charge =>
    intro lo hi n
    obtain ⟨hrest, htap, hlast, hports⟩ := charged_shows charge.isLt (monitored_chargeKept (s := s) (p := port) (g := f) (rest := rest) (evaluated := ev))
    refine ⟨_, monitorCharge_eq hgates, hrest, htap, hlast, hports, fun h => ?unjudged, ?within, ?low, ?high⟩
    case unjudged => rw [monitored_unjudged h, charged_port_same]
    case within =>
      rintro rfl hserving hlo hhi
      exact monitored_within hserving hlo hhi
    case low =>
      rintro rfl hserving hlo hcode hrun
      exact monitored_low hserving hlo hcode hrun
    case high =>
      rintro rfl hserving hlo hhi hcode hrun
      exact monitored_high hserving hlo hhi hcode hrun
  case serving => rw [portRearm_exec ht, portRearm_serving h]
  case restored =>
    have hnone : s.tx.seqs.any (fun a => a.2.placing && (seqEmitters (shotTable a.2.plane) a.1).testBit port) = false :=
      List.any_eq_false.mpr fun a ha => by simp [hidle a ha]
    refine ⟨_, (portRearm_exec ht).trans (congrArg (fun u => Host.Outcome.next (completeOk q _ u)) (portRearm_restores h hnone)), completeOk_status, ?_⟩
    exact ⟨restorePort_port.trans (if_pos rfl), restorePort_state, fun j hj => restorePort_port.trans (if_neg hj), restorePort_onlyRegs⟩
  case waiting =>
    obtain ⟨a, ha, hplaces, hnames⟩ := hplacing
    rw [portRearm_exec ht, portRearm_waits h (List.any_eq_true.mpr ⟨a, ha, Bool.and_eq_true_iff.mpr ⟨hplaces, hnames⟩⟩)]
  case hop =>
    have hexec := (hopFrameWrite_exec (c := q) ht).trans (congrArg (fun u => Host.Outcome.next (completeOk q _ u)) (hopWrite_takes h))
    exact ⟨_, hexec, completeOk_status, setReg_reg_same, rfl, hopWaits_onlyRegs,
      fun p hp => execHopFrameWrite_kept (ne_of_untouched hp) (ne_of_untouched hp) (ne_of_untouched hp) (ne_of_untouched hp) (.refl p s) hexec⟩
  case noHop => rw [hopFrameWrite_exec ht, hopWrite_refuses hw h]

end Sys2Proof.Machine
end

/-!
PROOFS of the architecture statements, part 20: the tracking law's updates of the gate map, and the staging list that a host commits (R68, R193 to
R195, R200), O23.
-/
section
namespace Sys2Proof.Machine

variable {s t : State} {i n : Nat} {w : Word} {q : Requester} {rx : Fin 6}

/-! ### The evidence and the entries of the gate map (R190, R192) -/

theorem setEvidence_evidence_same {x : GateEv} : (setEvidence n i x s).evidence n i = x := look_put_same _ _ _

theorem setGate_gate_same : (setGate n i w s).gate n i = w := look_put_same _ _ _

theorem gateLaw_none {l : List Word} {x : GateEv} (h : getF Gate.state w = 3 ∨ x.nPix = 0) : gateLaw l i x w = none := if_pos h

theorem gateLaw_unpinned {l : List Word} {x : GateEv} {v : Word} (h : gateLaw l i x w = some v) : getF Gate.state w ≠ 3 := fun hpinned => by
  rw [gateLaw_none (.inl hpinned)] at h
  exact absurd h (by simp)

theorem applyUpdate_unpinned {f : Nat} (hi : i < 131072) (h : getF Gate.state (s.gate n i) ≠ 3) :
    applyUpdate (n * 131072 + i, (f, w)) s = setGate n i w s := by
  have hregion : (n * 131072 + i) / 131072 = n := by omega
  have hentry : (n * 131072 + i) % 131072 = i := by omega
  simp only [applyUpdate, hregion, hentry]
  exact if_neg h

/-! ### The evidence of a tile is used (R193 to R195) -/

/-- What the law gives entry `i` of `rx` for the next frame, under the class of the tile's first pixel in `cell` (R193). -/
def State.lawAt (s : State) (rx : Fin 6) (i : Nat) (cell : Fin 128) : Option Word :=
  let k := rx.val * 8 + cell.val / 16
  let l := classTable (s.planeOf (tgtRx k)) (8 + rx)
  gateLaw l (classOf l (cell / 16) ((i - gateBase l (cell / 16) (cell % 16)) * 64)) (s.evidence rx i) (s.gate rx i)

/-- The frame that an update from this evidence is for. -/
def GateEv.updates (x : GateEv) : Nat := (x.frame + 1) % 2 ^ 32

/-- A committed host value replaced the entry at the boundary that its update is for (R195). -/
abbrev State.hostReplaced (s : State) (n i : Nat) : Prop := look (fun _ => 0) s.rx.hostGates (n * 131072 + i) = (s.evidence n i).updates + 1

/-- An update waits for the boundary of its frame. -/
def State.updateWaiting (s : State) (n i : Nat) (w : Word) : State :=
  let u := setEvidence n i {} s
  { u with rx := { u.rx with updates := put (fun _ => (0, 0)) u.rx.updates (n * 131072 + i) ((s.evidence n i).updates, w) } }

/-- An update is discarded, flagged and counted by block `k`. -/
def State.updateLate (s : State) (n i k : Nat) : State :=
  bumpOvf (HS_BLK_CNT k) HS_BLK_CNT.late_update_count 1 (HS_BLK_STATUS k) HS_BLK_STATUS.cnt_ovf.lo
    (flag (HS_BLK_STATUS k) HS_BLK_STATUS.late_update (setEvidence n i {} s))

theorem updates_ne_frame {x : GateEv} : x.updates ≠ x.frame := by
  unfold GateEv.updates
  omega

section
variable {entry : BitVec 17} {cell : Fin 128} {ready : Bool}

theorem gateUpdate_none (h : s.lawAt rx entry.toNat cell = none) :
    exec (.gateUpdate rx entry cell ready) s = .next (setEvidence rx entry.toNat {} s) := by
  refine congrArg Host.Outcome.next ?_
  dsimp only
  split
  · rfl
  · next hw => exact absurd (h.symm.trans hw) (by simp)

/-- A committed host value stands in place of whatever the law gives. -/
theorem gateUpdate_replaced (hhost : s.hostReplaced rx entry.toNat) :
    exec (.gateUpdate rx entry cell ready) s = .next (setEvidence rx entry.toNat {} s) := by
  refine congrArg Host.Outcome.next ?_
  dsimp only
  split
  · rfl
  · exact if_pos (decide_eq_true hhost)

/-- The three ends of an update that no host value replaces: it waits, takes effect at once, or is late. -/
theorem gateUpdate_some (h : s.lawAt rx entry.toNat cell = some w) (hhost : ¬ s.hostReplaced rx entry.toNat) :
    exec (.gateUpdate rx entry cell ready) s = .next (
      if ready = true ∧ (s.frameNum = (s.evidence rx entry.toNat).frame ∨ s.frameNum = (s.evidence rx entry.toNat).updates) then
        if s.frameNum = (s.evidence rx entry.toNat).frame then s.updateWaiting rx entry.toNat w
        else setGate rx entry.toNat w (setEvidence rx entry.toNat {} s)
      else s.updateLate rx entry.toNat (rx.val * 8 + cell.val / 16)) := by
  refine congrArg Host.Outcome.next ?_
  dsimp only
  split
  · next hnone => exact absurd (h.symm.trans hnone) (by simp)
  · next v hv =>
    obtain rfl : w = v := Option.some.inj (h.symm.trans hv)
    refine (if_neg (mt of_decide_eq_true hhost)).trans ?_
    refine if_congr ?_ (if_congr Iff.rfl rfl (applyUpdate_unpinned entry.isLt (gateLaw_unpinned h))) rfl
    simp only [Bool.and_eq_true, Bool.not_eq_true', decide_eq_false_iff_not, not_and_or, not_not]
    rfl

theorem gateUpdate_waits (h : s.lawAt rx entry.toNat cell = some w) (hhost : ¬ s.hostReplaced rx entry.toNat)
    (hframe : s.frameNum = (s.evidence rx entry.toNat).frame) :
    exec (.gateUpdate rx entry cell true) s = .next (s.updateWaiting rx entry.toNat w) := by
  rw [gateUpdate_some h hhost, if_pos ⟨rfl, .inl hframe⟩, if_pos hframe]

theorem gateUpdate_applies (h : s.lawAt rx entry.toNat cell = some w) (hhost : ¬ s.hostReplaced rx entry.toNat)
    (hframe : s.frameNum = (s.evidence rx entry.toNat).updates) :
    exec (.gateUpdate rx entry cell true) s = .next (setGate rx entry.toNat w (setEvidence rx entry.toNat {} s)) := by
  rw [gateUpdate_some h hhost, if_pos ⟨rfl, .inr hframe⟩, if_neg (hframe ▸ updates_ne_frame)]

theorem gateUpdate_late (h : s.lawAt rx entry.toNat cell = some w) (hhost : ¬ s.hostReplaced rx entry.toNat)
    (hlate : ready = false ∨ (s.frameNum ≠ (s.evidence rx entry.toNat).frame ∧ s.frameNum ≠ (s.evidence rx entry.toNat).updates)) :
    exec (.gateUpdate rx entry cell ready) s = .next (s.updateLate rx entry.toNat (rx.val * 8 + cell.val / 16)) := by
  have hrefused : ¬ (ready = true ∧ (s.frameNum = (s.evidence rx entry.toNat).frame ∨ s.frameNum = (s.evidence rx entry.toNat).updates)) := by
    rintro ⟨rfl, hframe⟩
    simp only [Bool.true_eq_false, false_or] at hlate
    exact hframe.elim hlate.1 hlate.2
  rw [gateUpdate_some h hhost, if_neg hrefused]

end

/-! ### The staging list (R195) -/

/-- No entry of the list is for index `i`. -/
abbrev Unstaged (i : Nat) (l : List (Nat × Word)) : Prop := ∀ a b, (a, b) ∈ l → a ≠ i

theorem stageIn_append {l m : List (Nat × Word)} (h : Unstaged i l) : stageIn i w (l ++ m) = l ++ stageIn i w m := by
  induction l with
  | nil => rfl
  | cons x l ih =>
    have hx : x.1 ≠ i := h x.1 x.2 List.mem_cons_self
    exact (if_neg hx).trans (congrArg (x :: ·) (ih fun a b hab => h a b (List.mem_cons_of_mem x hab)))

theorem stageIn_adds {l : List (Nat × Word)} (h : Unstaged i l) : stageIn i w l = l ++ [(i, w)] := by
  simpa [stageIn] using stageIn_append (w := w) (m := []) h

theorem stageIn_replaces {l m : List (Nat × Word)} {v : Word} (h : Unstaged i l) : stageIn i w (l ++ (i, v) :: m) = l ++ (i, w) :: m :=
  (stageIn_append h).trans (congrArg (l ++ ·) (if_pos rfl))

theorem any_staged_false {l : List (Nat × Word)} (h : Unstaged i l) : l.any (fun x => x.1 = i) = false :=
  List.any_eq_false.mpr fun x hx => by simpa using h x.1 x.2 hx

/-! ### Commands of `RX_GATE_CMD` (R68, R195, R200) -/

/-- The index that `RX_GATE_IDX` names. -/
def State.gateIdx (s : State) (n : Nat) : Nat := (s.reg (RX_GATE_IDX n)).toNat % 131072

/-- A command is refused. -/
abbrev gateRefused (n : Nat) (s : State) : State := flag (RX_GATE_STATUS n) RX_GATE_STATUS.refused s

/-- The list of RX`n` is committed for frame `f`, in its place among the changes accepted (R44). -/
def State.gateCommitted (s : State) (n f : Nat) : State :=
  fset (RX_GATE_STATUS n) RX_GATE_STATUS.pending 1 (accept { s with rx := { s.rx with
    commits := put (fun _ => 0) s.rx.commits n f, commitOrder := put (fun _ => 0) s.rx.commitOrder n s.time.accepted } })

/-- The commit of RX`n` is cancelled. -/
def State.gateCancelled (s : State) (n : Nat) : State :=
  fset (RX_GATE_STATUS n) RX_GATE_STATUS.pending 0 { s with rx := { s.rx with commits := put (fun _ => 0) s.rx.commits n 0 } }

theorem gateStage_pending (h : s.committing n = true) : gateStage n s = gateRefused n s := if_pos h

theorem gateStage_takes (h : s.committing n = false) (hroom : (s.staging n).length < 64 ∨ (s.staging n).any (fun x => x.1 = s.gateIdx n)) :
    gateStage n s = setStaging n (stageIn (s.gateIdx n) (s.reg (RX_GATE_DATA n)) (s.staging n)) s :=
  (if_neg (Bool.eq_false_iff.mp h)).trans (if_pos hroom)

theorem gateStage_full (h : s.committing n = false) (hfull : 64 ≤ (s.staging n).length) (hnew : Unstaged (s.gateIdx n) (s.staging n)) :
    gateStage n s = gateRefused n (flag (RX_GATE_STATUS n) RX_GATE_STATUS.stage_full s) := by
  refine (if_neg (Bool.eq_false_iff.mp h)).trans (if_neg ?_)
  rintro (hroom | hstaged)
  · omega
  · exact absurd ((any_staged_false hnew).symm.trans hstaged) (by decide)

theorem gateCommit_pending (h : s.committing n = true) : gateCommit n s = gateRefused n s := if_pos h

theorem gateCommit_late (h : s.committing n = false) (hlate : (s.reg (RX_GATE_FRAME n)).toNat ≤ s.frameNum) :
    gateCommit n s = flag TIME_STATUS TIME_STATUS.late_instant (gateRefused n s) :=
  (if_neg (Bool.eq_false_iff.mp h)).trans (if_pos (decide_eq_true hlate))

theorem gateCommit_takes (h : s.committing n = false) (hahead : s.frameNum < (s.reg (RX_GATE_FRAME n)).toNat) :
    gateCommit n s = s.gateCommitted n (s.reg (RX_GATE_FRAME n)).toNat :=
  (if_neg (Bool.eq_false_iff.mp h)).trans (if_neg (by simpa [State.lateFrame] using hahead))

theorem gateDiscard_cancels (h : s.committing n = true) (hahead : s.frameNum + 2 ≤ look (fun _ => 0) s.rx.commits n) :
    gateDiscard n s = s.gateCancelled n :=
  (if_pos h).trans (if_pos hahead)

theorem gateDiscard_late (h : s.committing n = true) (hlate : look (fun _ => 0) s.rx.commits n < s.frameNum + 2) :
    gateDiscard n s = gateRefused n s :=
  (if_pos h).trans (if_neg (not_le.mpr hlate))

theorem gateDiscard_empties (h : s.committing n = false) : gateDiscard n s = setStaging n [] s := if_neg (Bool.eq_false_iff.mp h)

/-- A code that names no command of `RX_GATE_CMD`. -/
theorem gateCommand_unnamed {c : Nat} (h : c = 0 ∨ 5 ≤ c) : gateCommand n c s = gateRefused n s := by
  unfold gateCommand
  split
  case h_5 => rfl
  all_goals omega

/-- A commit shows in `pending` what was written there. -/
theorem fset_pending_committing {v : Nat} : (fset (RX_GATE_STATUS n) RX_GATE_STATUS.pending v s).committing n = decide (v % 2 = 1) := by
  rw [State.committing, fset_fget_same (by decide)]
  rfl

theorem gateCommitted_shows {f : Nat} : (s.gateCommitted n f).committing n = true ∧ look (fun _ => 0) (s.gateCommitted n f).rx.commits n = f ∧
    (s.gateCommitted n f).staging n = s.staging n ∧ OnlyRegs [RX_GATE_STATUS n] s (s.gateCommitted n f) :=
  ⟨fset_pending_committing, look_put_same _ _ _, rfl, OnlyRegs.refl.fset List.mem_cons_self⟩

theorem gateCancelled_shows : (s.gateCancelled n).committing n = false ∧ (s.gateCancelled n).staging n = s.staging n ∧
    look (fun _ => 0) (s.gateCancelled n).rx.commits n = 0 ∧ OnlyRegs [RX_GATE_STATUS n] s (s.gateCancelled n) :=
  ⟨fset_pending_committing, rfl, look_put_same _ _ _, OnlyRegs.refl.fset List.mem_cons_self⟩

/-- The write of a command of `RX_GATE_CMD` where the region takes it. -/
theorem gateWrite_exec {f : State → State} (ht : s.takes (RX_GATE_CMD rx)) (h : f s = t) :
    (.next (hostWrite q (RX_GATE_CMD rx) f s) : Out) = .next (completeOk q (RX_GATE_CMD rx + 1) t) := by
  rw [hostWrite_takes ht, h]

/-! ### O23 -/

/-- Settles O23: an update of the law has three ends, and each command of `RX_GATE_CMD` is the lemma of its case. -/
theorem gatesTrackAndAreStaged : Obligations.GatesTrackAndAreStaged := by
  intro q rx entry cell v s cmd st refuse i k t0 ev law idx f due host
  refine ⟨fun h => gateUpdate_none (gateLaw_none h), fun _ _ _ hhost => gateUpdate_replaced hhost, fun w hlaw hhost hframe => ?waits,
    fun w hlaw hhost hframe => ?applies, fun w ready hlaw hhost hlate => gateUpdate_late hlaw hhost hlate,
    fun ht => ⟨gateWrite_exec ht rfl, fun hcommit => ?pending, fun hfree => ?free, fun hv => gateWrite_exec ht (gateCommand_unnamed hv)⟩⟩
  case waits =>
    exact ⟨_, gateUpdate_waits hlaw hhost hframe, setEvidence_evidence_same, rfl, rfl, look_put_same _ _ _, fun j hj => look_put_other _ _ hj⟩
  case applies =>
    exact ⟨_, gateUpdate_applies hlaw hhost hframe, setEvidence_evidence_same, rfl, rfl, setGate_gate_same⟩
  case pending =>
    refine ⟨gateWrite_exec ht (gateStage_pending hcommit), gateWrite_exec ht (gateCommit_pending hcommit), fun hahead => ?_,
      fun hlate => gateWrite_exec ht (gateDiscard_late hcommit hlate)⟩
    obtain ⟨hcancelled, hkept, hnone, honly⟩ := gateCancelled_shows (s := s) (n := rx)
    exact ⟨_, gateWrite_exec ht (gateDiscard_cancels hcommit hahead), completeOk_status, hcancelled, hkept, hnone, completeOk_onlyRegs honly⟩
  case free =>
    refine ⟨fun hroom hnew => gateWrite_exec ht ?adds, fun l1 l2 w hl hnew => gateWrite_exec ht ?replaces,
      fun hfull hnew => gateWrite_exec ht (gateStage_full hfree hfull hnew), fun hahead => ?commits,
      fun hlate => gateWrite_exec ht (gateCommit_late hfree hlate), gateWrite_exec ht (gateDiscard_empties hfree)⟩
    case adds => exact (gateStage_takes hfree (.inl hroom)).trans (congrArg (setStaging rx · s) (stageIn_adds hnew))
    case replaces =>
      have hstaged : (s.staging rx).any (fun x => x.1 = idx) = true := List.any_eq_true.mpr ⟨(idx, w), hl ▸ by simp, decide_eq_true rfl⟩
      rw [gateStage_takes hfree (.inr hstaged), hl]
      exact congrArg (setStaging rx · s) (stageIn_replaces hnew)
    case commits =>
      obtain ⟨hcommitted, hframe, hkept, honly⟩ := gateCommitted_shows (s := s) (n := rx) (f := f)
      exact ⟨_, gateWrite_exec ht (gateCommit_takes hfree hahead), completeOk_status, hcommitted, hframe, hkept, completeOk_onlyRegs honly⟩

end Sys2Proof.Machine
end

/-!
PROOFS of the architecture statements, part 21: the commands of a converter (`ADC_CMD`, `ADC_BANK`), its slot boundary where nothing waits for it,
and the runs of a system calibration (R239, R242, R247 to R249, R253, R256, R259, R264), O30.
-/
section
namespace Sys2Proof.Machine

variable {s t : State} {a b j k n : Nat} {v w : Word} {f g : Fld} {q : Requester} {x : Adc} {full : Bool} {run : Nat × Bool × Nat}

/-! ### Tables and fields -/

/-- A second write of the same value changes nothing, canonical form or not. -/
theorem put_put_same {α : Type} [DecidableEq α] {d : Nat → α} {m : Sparse α} {y : α} : put d (put d m k y) k y = put d m k y := by
  have hdrop : ∀ l : Sparse α, y = d k → put d (dropTo k l) k y = dropTo k l := fun l hy => by
    induction l with
    | nil => exact if_pos hy
    | cons e l ih =>
      by_cases hle : e.1 ≤ k
      · rw [show dropTo k (e :: l) = dropTo k l from if_pos hle, ih]
      · rw [show dropTo k (e :: l) = e :: l from if_neg hle]
        exact (if_pos (Nat.lt_of_not_le hle)).trans (if_pos hy)
  induction m with
  | nil =>
    by_cases hy : y = d k <;> simp [put, hy]
  | cons e m ih =>
    obtain ⟨i, u⟩ := e
    rcases Nat.lt_trichotomy k i with hlt | rfl | hgt
    · by_cases hy : y = d k <;> simp [put, hlt, hy]
    · by_cases hy : y = d k
      · rw [show put d ((k, u) :: m) k y = dropTo k m by simp [put, hy], hdrop m hy]
      · simp [put, hy]
    · have hput : ∀ l : Sparse α, put d ((i, u) :: l) k y = (i, u) :: put d l k y := fun l =>
        (if_neg (Nat.lt_asymm hgt)).trans (if_neg (Nat.ne_of_gt hgt))
      rw [hput, hput, ih]

theorem setAdc_setAdc_same : setAdc k x (setAdc k x s) = setAdc k x s := by
  unfold setAdc
  exact congrArg (fun m => ({ s with adcs := m } : State)) put_put_same

theorem fsets_fget {l : List (Fld × Nat)} : (fsets a l s).fget a g = getF g (l.foldl (fun w p => setF p.1 p.2 w) (s.reg a)) :=
  congrArg (getF g) (fsets_reg.trans (if_pos rfl))

theorem fsets_fget_other {l : List (Fld × Nat)} (h : b ≠ a) : (fsets a l s).fget b g = s.fget b g := fget_of_reg (fsets_reg.trans (if_neg h))

theorem OnlyRegs.fsets {l : List Nat} {p : List (Fld × Nat)} (h : OnlyRegs l s t) (ha : a ∈ l) : OnlyRegs l s (fsets a p t) := h.setReg ha

/-! ### The record of a converter -/

theorem adc_of_kept (h : Kept .adcs s t) : t.adc k = s.adc k := congrArg (look (fun _ => ({} : Adc)) · k) h

theorem fsets_adc {l : List (Fld × Nat)} : (fsets a l s).adc k = s.adc k := rfl
theorem showAdc_adc : (showAdc j s).adc k = s.adc k := rfl
theorem completeOk_adc : (completeOk q a s).adc k = s.adc k := rfl
theorem flag_adc : (flag a f s).adc k = s.adc k := adc_of_kept (flag_kept (by decide) (by decide) (.refl _ s))

theorem setAdc_adc_other (h : j ≠ k) : (setAdc k x s).adc j = s.adc j := setAdc_adc.trans (if_neg h)

theorem setAdc_onlyRegs {l : List Nat} (h : OnlyRegs l s t) : OnlyRegs l s (setAdc k x t) := h

/-! ### A system calibration is asked for (R247, R249) -/

/-- The entry that a command of system calibration takes, and its averaging exponent. -/
def State.calEntry (s : State) (k : Nat) : Nat := getF ADC_SYSCAL_IDX.entry (s.adcWritten k (ADC_SYSCAL_IDX k))
def State.calAverage (s : State) (k : Nat) : Nat := min 12 (max 4 (getF ADC_SYSCAL_IDX.avg (s.adcWritten k (ADC_SYSCAL_IDX k))))

/-- The modes that take such a command. -/
abbrev State.calAble (s : State) : Prop := s.mode = .configured ∨ s.mode = .armed ∨ s.mode = .service

/-- The entry exists, and on an ambient converter names none of the channel inputs. -/
abbrev State.calNames (s : State) (k : Nat) : Prop :=
  s.calEntry k < (adcSeq (s.adc k).pl k).length ∧ (k < 48 → 16 ≤ Ent.input (seqCtl (adcSeq (s.adc k).pl k) (s.calEntry k)))

/-- A run is asked for. -/
def State.calAsked (s : State) (k : Nat) (full : Bool) : State :=
  fset (ADC_SYSCAL_STATUS k) ADC_SYSCAL_STATUS.code 0 (setAdc k { s.adc k with
    calAsk := some (s.calEntry k, full, s.calAverage k), calSettle := some (s.calEntry k), zero := if full then (s.adc k).zero else none } s)

theorem calAble_not_run (h : s.calAble) : s.mode ≠ .run := by
  rcases h with h | h | h <;> simp [h]

theorem calBegin_run (h : s.mode = .run) : calBegin k full s = calRefuse k 4 s := if_pos h

theorem calBegin_busy (hable : s.calAble) (h : (s.adc k).calRun.isSome = true ∨ (s.adc k).calAsk.isSome = true) : calBegin k full s = adcRefuse k s :=
  (if_neg (calAble_not_run hable)).trans (if_pos (h.elim .inl (.inr ∘ .inl)))

/-- Where no run is asked for or in progress, the entry and the zero decide. -/
theorem calBegin_idle (hable : s.calAble) (hrun : (s.adc k).calRun = none) (hask : (s.adc k).calAsk = none) :
    calBegin k full s = if ¬s.calNames k then calRefuse k 6 s else if full ∧ (s.adc k).zero.map (·.1) ≠ some (s.calEntry k) then calRefuse k 3 s else s.calAsked k full := by
  have hfree : ¬((s.adc k).calRun.isSome = true ∨ (s.adc k).calAsk.isSome = true ∨ ¬s.calAble) := by simp [hrun, hask, hable]
  have hnames : ((adcSeq (s.adc k).pl k).length ≤ s.calEntry k ∨ (k < 48 ∧ Ent.input (seqCtl (adcSeq (s.adc k).pl k) (s.calEntry k)) < 16)) ↔ ¬s.calNames k := by
    rw [State.calNames, not_and_or, not_lt, Classical.not_imp, not_le]
  exact (if_neg (calAble_not_run hable)).trans ((if_neg hfree).trans (if_congr hnames rfl rfl))

theorem calAsked_shows : (s.calAsked k full).fget (ADC_SYSCAL_STATUS k) ADC_SYSCAL_STATUS.code = 0 ∧ OnlyRegs [ADC_SYSCAL_STATUS k] s (s.calAsked k full) :=
  ⟨fset_fget_same (by decide), OnlyRegs.refl.fset List.mem_cons_self⟩

theorem calAsked_adc : (s.calAsked k full).adc k = { s.adc k with
    calAsk := some (s.calEntry k, full, s.calAverage k), calSettle := some (s.calEntry k), zero := if full then (s.adc k).zero else none } := setAdc_adc_same

/-! ### The other commands of `ADC_CMD` (R242, R256, R259, R264) -/

theorem scanCommand_takes {on : Bool} (h : s.mode = .configured ∨ s.mode = .armed) : scanCommand k on s = setAdc k { s.adc k with hostScan := on } s := if_pos h

theorem scanCommand_refuses {on : Bool} (h1 : s.mode ≠ .configured) (h2 : s.mode ≠ .armed) : scanCommand k on s = adcRefuse k s :=
  if_neg (not_or.mpr ⟨h1, h2⟩)

theorem adcCommand_unnamed (h : n = 0 ∨ 7 ≤ n) : adcCommand k n s = adcRefuse k s := by
  rcases h with rfl | h
  · rfl
  · obtain ⟨m, rfl⟩ := Nat.exists_eq_add_of_le' h
    rfl

theorem bnReset_adc : (bnReset k s).adc k = { s.adc k with peak := 0, ms := 0, env := 0 } := setAdc_adc_same

theorem bnReset_adc_other (h : j ≠ k) : (bnReset k s).adc j = s.adc j := setAdc_adc_other h

theorem bnReset_regs : (bnReset k s).reg (ADC_BN_PEAK k) = 0 ∧ (bnReset k s).reg (ADC_BN_RMS k) = 0 ∧ (bnReset k s).reg (ADC_BN_ENV k) = 0 ∧
    OnlyRegs [ADC_BN_PEAK k, ADC_BN_RMS k, ADC_BN_ENV k] s (bnReset k s) := by
  refine ⟨setReg_reg_same, (setReg_reg_other ?_).trans setReg_reg_same, (setReg_reg_other ?_).trans ((setReg_reg_other ?_).trans setReg_reg_same),
    ((OnlyRegs.setReg (setAdc_onlyRegs .refl) ?_).setReg ?_).setReg ?_⟩ <;> simp [ADC_BN_PEAK, ADC_BN_RMS, ADC_BN_ENV]

theorem adcCmd_exec {op : State → State} (ht : s.takes (ADC_CMD k)) (h : op s = t) : (.next (hostWrite q (ADC_CMD k) op s) : Out) = .next (completeOk q (ADC_CMD k + 1) t) := by
  rw [hostWrite_takes ht, h]

/-! ### A write of `ADC_BANK` (R253, R265) -/

/-- The writes of run-time registers that wait for a boundary of converter `k` or of its island. -/
def State.adcWaiting (s : State) (k : Nat) : List (Nat × Word) := (s.adc k).due ++ s.rx.rtWrites ++ s.hk.writes

theorem bankWrite_refuses (h : (s.adc k).fade.isSome = true ∨ ∃ p ∈ s.adcWaiting k, p.1 = ADC_BANK k) :
    bankWrite k w s = flag (ADC_FLAGS k) ADC_FLAGS.bank_refused s := by
  refine if_pos (Bool.or_eq_true_iff.mpr (h.imp id fun ⟨p, hp, ha⟩ => ?_))
  exact List.any_eq_true.mpr ⟨p, hp, decide_eq_true ha⟩

/-- Where no fade is in progress and none is asked for, the target decides. -/
theorem bankWrite_free (hfade : (s.adc k).fade = none) (hwait : ∀ p ∈ s.adcWaiting k, p.1 ≠ ADC_BANK k) :
    bankWrite k w s = if getF ADC_BANK.target w = s.fget (ADC_BANK k) ADC_BANK.active then s else adcRunWrite k (ADC_BANK k) w s := by
  have hnone : (s.adcWaiting k).any (fun p => p.1 = ADC_BANK k) = false := List.any_eq_false.mpr fun p hp h => hwait p hp (of_decide_eq_true h)
  exact if_neg (Bool.eq_false_iff.mp (Bool.or_eq_false_iff.mpr ⟨by rw [hfade]; rfl, hnone⟩))

theorem bankWrite_exec (ht : s.takes (ADC_BANK k)) (h : bankWrite k w s = t) :
    (.next (hostWrite q (ADC_BANK k) (bankWrite k w) s) : Out) = .next (completeOk q (ADC_BANK k + 1) t) := by
  rw [hostWrite_takes ht, h]

theorem adcDue_adc {i : Nat} : (adcDue k a i w s).adc k = { s.adc k with due := (s.adc k).due ++ [(a, w)] } := setAdc_adc_same

/-! ### A slot boundary where nothing waits for it (R239, R242) -/

/-- The converter runs under the plane in force, no run-time write waits for it, and the choice between scan mask and sequence stands. -/
structure AtRest (s : State) (k : Nat) : Prop where
  epoch : (s.adc k).epoch = s.epochOf (adcTarget k)
  plane : (s.adc k).pl = s.planeOf (adcTarget k)
  due : (s.adc k).due = []
  refWait : (s.adc k).refWait = false
  scan : (s.adc k).scanning = s.wantsScan k

/-- A slot begins. -/
def Adc.slotBegun (x : Adc) (i : Nat) : Adc := { x with lostNow := 0, slotAt := i }
def State.slotBegun (s : State) (k : Nat) : State := setAdc k ((s.adc k).slotBegun s.now) s

theorem slotBegun_adc : (s.slotBegun k).adc k = (s.adc k).slotBegun s.now := setAdc_adc_same

/-- A slot boundary's choice between scan mask and sequence, a lost reference that has come back aside. -/
def scanChosen (k : Nat) (s : State) : State :=
  let y := s.adc k
  let u := if y.refWait && y.scanned && s.refsSettled k then setAdc k { y with refWait := false } s else s
  if (u.adc k).scanning = u.wantsScan k then u else switchMode k (u.wantsScan k) u

theorem scanChosen_stays (href : (s.adc k).refWait = false) (hscan : (s.adc k).scanning = s.wantsScan k) : scanChosen k s = s := by
  unfold scanChosen
  simp only [href, Bool.false_and, Bool.false_eq_true, if_false]
  exact if_pos hscan

/-- A slot begins under the plane in force, which a swap may have changed (R239). -/
def planeTaken (k : Nat) (s : State) : State :=
  if (s.adc k).epoch = s.epochOf (adcTarget k) ∧ (s.adc k).pl = s.planeOf (adcTarget k) then s.slotBegun k else adcNewPlane k (s.slotBegun k)

theorem adcBoundary_eq : adcBoundary k s = showAdc k (calStart k (scanChosen k ((s.adc k).due.foldl (fun t w => applyAdcWrite k w t)
    (setAdc k { (planeTaken k s).adc k with due := [] } (planeTaken k s))))) := rfl

theorem adcBoundary_atRest (h : AtRest s k) : adcBoundary k s = showAdc k (calStart k (s.slotBegun k)) := by
  have hdue : setAdc k { (s.slotBegun k).adc k with due := [] } (s.slotBegun k) = s.slotBegun k := by
    rw [show ({ (s.slotBegun k).adc k with due := [] } : Adc) = (s.adc k).slotBegun s.now by rw [slotBegun_adc, ← h.due]; rfl]
    exact setAdc_setAdc_same
  have hstays : scanChosen k (s.slotBegun k) = s.slotBegun k := by
    refine scanChosen_stays (by rw [slotBegun_adc]; exact h.refWait) ?_
    rw [State.wantsScan, slotBegun_adc]
    exact h.scan
  rw [adcBoundary_eq, show planeTaken k s = s.slotBegun k from if_pos ⟨h.epoch, h.plane⟩, h.due, List.foldl_nil, hdue, hstays]

theorem calStart_none (h : (s.adc k).calAsk = none) : calStart k s = s := by
  unfold calStart
  simp only [h, ite_self]

/-- A run that is asked for begins. -/
def State.calBegun (s : State) (k : Nat) (run : Nat × Bool × Nat) : State :=
  fset (ADC_SYSCAL_STATUS k) ADC_SYSCAL_STATUS.calibrating 1 (setAdc k { s.adc k with calAsk := none, calRun := some run } s)

theorem calStart_begins (hactive : (s.adc k).active = none) (hresume : (s.adc k).resumeAt = none) (hwait : (s.adc k).waiting = [])
    (hask : (s.adc k).calAsk = some run) : calStart k s = s.calBegun k run := by
  have hfree : (if (s.adc k).active.isSome || (s.adc k).resumeAt.isSome || !(s.adc k).waiting.isEmpty then none else (s.adc k).calAsk) = some run := by
    simp [hactive, hresume, hwait, hask]
  unfold calStart
  dsimp only
  rw [hfree]
  rfl

/-- What a converter does, as `ADC_STATUS` shows it (R263). -/
def State.adcState (s : State) (k : Nat) : Nat := if !s.adcRuns k then 0 else if (s.adc k).calRun.isSome then 3 else if (s.adc k).scanning then 1 else 2

theorem showAdc_state : (showAdc k s).fget (ADC_STATUS k) ADC_STATUS.state = s.adcState k := by
  have hlt : s.adcState k < 2 ^ ADC_STATUS.state.width := by
    unfold State.adcState
    split_ifs <;> decide
  rw [showAdc, fsets_fget]
  exact (getF_setF_other (f := ADC_STATUS.entry) (by decide)).trans ((getF_setF_other (f := ADC_STATUS.fading) (by decide)).trans
    ((getF_setF_same (by decide)).trans (Nat.mod_eq_of_lt hlt)))

theorem showAdc_fget (h : a ≠ ADC_STATUS k) : (showAdc k s).fget a f = s.fget a f := fsets_fget_other h

theorem showAdc_onlyRegs {l : List Nat} (h : OnlyRegs l s t) (ha : ADC_STATUS k ∈ l) : OnlyRegs l s (showAdc k t) := h.fsets ha

theorem syscal_ne_status : ADC_SYSCAL_STATUS k ≠ ADC_STATUS k := by simp [ADC_SYSCAL_STATUS, ADC_STATUS]

/-- The boundary at which a run begins (R247). -/
theorem adcBoundary_begins (h : AtRest s k) (hactive : (s.adc k).active = none) (hresume : (s.adc k).resumeAt = none) (hwait : (s.adc k).waiting = [])
    (hask : (s.adc k).calAsk = some run) : adcBoundary k s = showAdc k ((s.slotBegun k).calBegun k run) := by
  rw [adcBoundary_atRest h, calStart_begins] <;> rw [slotBegun_adc] <;> assumption

theorem adcBoundary_idle (h : AtRest s k) (hask : (s.adc k).calAsk = none) : adcBoundary k s = showAdc k (s.slotBegun k) := by
  rw [adcBoundary_atRest h, calStart_none (by rw [slotBegun_adc]; exact hask)]

theorem calBegun_adc : (s.calBegun k run).adc k = { s.adc k with calAsk := none, calRun := some run } := setAdc_adc_same

theorem baseAdc_range (hk : k < 54) : 0x1FF2000 ≤ baseAdc k ∧ (baseAdc k < 0x1FF2200 ∨ 0x3002000 ≤ baseAdc k) := by
  unfold baseAdc
  split_ifs <;> omega

theorem domainAt_word : domainAt a / 32 < 3 := by
  unfold domainAt
  dsimp only
  split_ifs <;> omega

/-- Whether a converter runs hangs on the mode, on the fences and on the domains that are good (R260). -/
theorem adcRuns_of (hmode : t.mode = s.mode) (htime : t.time = s.time) (hfence : t.reg REGION_FENCE = s.reg REGION_FENCE)
    (hgood : ∀ i, i < 3 → t.reg (PWR_DOM_GOOD i) = s.reg (PWR_DOM_GOOD i)) : t.adcRuns k = s.adcRuns k := by
  unfold State.adcRuns State.fenced State.domGood State.rbit
  rw [hmode, htime, hfence, hgood _ domainAt_word]

/-- The registers of a converter are not those by which it runs. -/
theorem adcReg_ne_runs {i : Nat} (hk : k < 54) (hi : i < 3) (h : baseAdc k ≤ a) (h' : a < baseAdc k + 0x100) : REGION_FENCE ≠ a ∧ PWR_DOM_GOOD i ≠ a := by
  have hbase := baseAdc_range hk
  simp only [REGION_FENCE, PWR_DOM_GOOD, baseCf, baseHk]
  omega

theorem fset_adcRuns {i : Nat} (hk : k < 54) (h : baseAdc k ≤ a) (h' : a < baseAdc k + 0x100) : (fset a f i s).adcRuns j = s.adcRuns j :=
  adcRuns_of rfl rfl (setReg_reg_other (adcReg_ne_runs (i := 0) hk (by decide) h h').1) fun _ hi => setReg_reg_other (adcReg_ne_runs hk hi h h').2

theorem calBegun_state (hk : k < 54) : ((s.slotBegun k).calBegun k run).adcState k = if s.adcRuns k then 3 else 0 := by
  have hruns : ((s.slotBegun k).calBegun k run).adcRuns k = s.adcRuns k :=
    fset_adcRuns hk (Nat.le_add_right _ _) (Nat.add_lt_add_left (by decide) _)
  unfold State.adcState
  rw [hruns, calBegun_adc]
  cases s.adcRuns k <;> rfl

/-! ### Runs of a system calibration end (R247, R248) -/

/-- The zero of a run is the rounded mean of its conversions, and stands. -/
def State.zeroHeld (s : State) (k e : Nat) (mean : Int) : State :=
  fsets (ADC_SYSCAL_STATUS k) [(ADC_SYSCAL_STATUS.calibrating, 0), (ADC_SYSCAL_STATUS.state, 1)]
    (setAdc k { s.adc k with calRun := none, zero := some (e, mean) } s)

theorem zeroHeld_shows {e : Nat} {mean : Int} : (s.zeroHeld k e mean).adc k = { s.adc k with calRun := none, zero := some (e, mean) } ∧
    (s.zeroHeld k e mean).fget (ADC_SYSCAL_STATUS k) ADC_SYSCAL_STATUS.state = 1 ∧
    (s.zeroHeld k e mean).fget (ADC_SYSCAL_STATUS k) ADC_SYSCAL_STATUS.calibrating = 0 :=
  ⟨setAdc_adc_same, fsets_fget.trans (getF_setF_same (by decide)), fsets_fget.trans ((getF_setF_other (by decide)).trans (getF_setF_same (by decide)))⟩

theorem OnlyRegs.zeroHeld {l : List Nat} {e : Nat} {mean : Int} (h : OnlyRegs l s t) (ha : ADC_SYSCAL_STATUS k ∈ l) : OnlyRegs l s (t.zeroHeld k e mean) :=
  (setAdc_onlyRegs h).fsets ha

/-- The state in which a run of a converter at rest ends. -/
def State.runBoundary (s : State) (k : Nat) : State := showAdc k (s.slotBegun k)

theorem runBoundary_adc : (s.runBoundary k).adc k = (s.adc k).slotBegun s.now := slotBegun_adc

theorem runBoundary_onlyRegs {l : List Nat} (ha : ADC_STATUS k ∈ l) : OnlyRegs l s (s.runBoundary k) := showAdc_onlyRegs (setAdc_onlyRegs .refl) ha

theorem calRun_boundary (h : AtRest s k) (hask : (s.adc k).calAsk = none) (hrun : (s.adc k).calRun = some run) :
    (if (s.adc k).calRun.isSome then adcBoundary k s else s) = s.runBoundary k := by
  rw [hrun, adcBoundary_idle h hask]
  rfl

theorem calZeroDone_eq {kv : Fin 54} {sum : Int} {e p : Nat} (h : AtRest s kv) (hask : (s.adc kv).calAsk = none) (hrun : (s.adc kv).calRun = some (e, false, p)) :
    exec (.calZeroDone kv sum) s = .next (showAdc kv ((s.runBoundary kv).zeroHeld kv e (divRoundI sum (2 ^ p)))) := by
  have hat : ((s.runBoundary kv).adc kv).calRun = some (e, false, p) := by rw [runBoundary_adc]; exact hrun
  change execCalZeroDone kv sum s = _
  unfold execCalZeroDone
  dsimp only
  rw [calRun_boundary h hask hrun, hat]
  rfl

/-- The full scale of a run with its zero gives the coefficients of the entry. -/
def State.calHeld (s : State) (k e : Nat) (z : Int) (gain : Nat) : State :=
  settleEvent k e true (fsets (ADC_SYSCAL_STATUS k) [(ADC_SYSCAL_STATUS.calibrating, 0), (ADC_SYSCAL_STATUS.state, 2)]
    (setAdc k { s.adc k with calRun := none, zero := none, coefs := put (fun _ => (0, 2 ^ 22)) (s.adc k).coefs e (z, gain) } s))

/-- The gain that a full scale `d` above its zero gives, in 1/2^22 (R248). -/
def State.calGain (s : State) (k : Nat) (d : Int) : Int := divRoundI ((s.reg (ADC_SYSCAL_TARGET k)).toNat * 2 ^ 22 : Nat) d.toNat

theorem calFullDone_eq {kv : Fin 54} {sum z : Int} {e m p : Nat} (h : AtRest s kv) (hask : (s.adc kv).calAsk = none) (hrun : (s.adc kv).calRun = some (e, true, p))
    (hzero : (s.adc kv).zero = some (m, z)) : exec (.calFullDone kv sum) s = .next (showAdc kv (
      if divRoundI sum (2 ^ p) - z < 2 ^ 19 then calFail kv 1 (s.runBoundary kv)
      else if 2 ^ 24 ≤ s.calGain kv (divRoundI sum (2 ^ p) - z) then calFail kv 2 (s.runBoundary kv)
      else (s.runBoundary kv).calHeld kv e z (s.calGain kv (divRoundI sum (2 ^ p) - z)).toNat)) := by
  have hat : ((s.runBoundary kv).adc kv).calRun = some (e, true, p) := by rw [runBoundary_adc]; exact hrun
  have hzat : ((s.runBoundary kv).adc kv).zero = some (m, z) := by rw [runBoundary_adc]; exact hzero
  have htarget : (s.runBoundary kv).reg (ADC_SYSCAL_TARGET kv) = s.reg (ADC_SYSCAL_TARGET kv) :=
    runBoundary_onlyRegs (l := [ADC_STATUS kv]) List.mem_cons_self _ (by simp [ADC_SYSCAL_TARGET, ADC_STATUS])
  change execCalFullDone kv sum s = _
  unfold execCalFullDone
  dsimp only
  rw [calRun_boundary h hask hrun, hat, hzat]
  dsimp only
  rw [htarget]
  simp only [apply_ite (showAdc kv)]
  rfl

theorem calFail_shows {c : Nat} (hc : c < 2 ^ 4) : ((calFail k c s).adc k) = { s.adc k with calRun := none, calAsk := none, zero := none, calSettle := none } ∧
    (calFail k c s).fget (ADC_SYSCAL_STATUS k) ADC_SYSCAL_STATUS.state = 3 ∧ (calFail k c s).fget (ADC_SYSCAL_STATUS k) ADC_SYSCAL_STATUS.code = c :=
  ⟨setAdc_adc_same, fsets_fget.trans ((getF_setF_other (f := ADC_SYSCAL_STATUS.code) (by decide)).trans ((getF_setF_other (by decide)).trans (getF_setF_same (by decide)))),
    fsets_fget.trans ((getF_setF_same (by decide)).trans (Nat.mod_eq_of_lt hc))⟩

theorem settleEvent_adc {e : Nat} {dc : Bool} : ∃ c, (settleEvent k e dc s).adc k = (s.adc k).setChain e c := ⟨_, flag_adc.trans setAdc_adc_same⟩

theorem settleEvent_reg {e : Nat} {dc : Bool} (h : b ≠ ADC_FLAGS k) (h1 : b ≠ REC_LOST) (h2 : b ≠ REC_STATUS) : (settleEvent k e dc s).reg b = s.reg b := flag_reg h h1 h2

theorem adcReg_ne_rec (h : baseAdc k ≤ a) : a ≠ REC_LOST ∧ a ≠ REC_STATUS := by
  have hbase : 0x1FF2000 ≤ baseAdc k := by
    unfold baseAdc
    split_ifs <;> omega
  simp only [REC_LOST, REC_STATUS, baseRec]
  omega

theorem calHeld_adc {e gain : Nat} {z : Int} : ((s.calHeld k e z gain).adc k).calRun = none ∧
    ((s.calHeld k e z gain).adc k).coefs = put (fun _ => (0, 2 ^ 22)) (s.adc k).coefs e (z, gain) := by
  obtain ⟨c, hc⟩ := settleEvent_adc (k := k) (e := e) (dc := true)
    (s := fsets (ADC_SYSCAL_STATUS k) [(ADC_SYSCAL_STATUS.calibrating, 0), (ADC_SYSCAL_STATUS.state, 2)]
      (setAdc k { s.adc k with calRun := none, zero := none, coefs := put (fun _ => (0, 2 ^ 22)) (s.adc k).coefs e (z, gain) } s))
  rw [State.calHeld, hc, fsets_adc, setAdc_adc_same]
  exact ⟨rfl, rfl⟩

theorem calHeld_fget {e gain : Nat} {z : Int} : (s.calHeld k e z gain).fget (ADC_SYSCAL_STATUS k) ADC_SYSCAL_STATUS.state = 2 ∧
    (s.calHeld k e z gain).fget (ADC_SYSCAL_STATUS k) ADC_SYSCAL_STATUS.calibrating = 0 := by
  have hrec := adcReg_ne_rec (k := k) (a := ADC_SYSCAL_STATUS k) (Nat.le_add_right _ _)
  have hflags : ADC_SYSCAL_STATUS k ≠ ADC_FLAGS k := by simp [ADC_SYSCAL_STATUS, ADC_FLAGS]
  rw [State.calHeld, fget_of_reg (settleEvent_reg hflags hrec.1 hrec.2), fget_of_reg (settleEvent_reg hflags hrec.1 hrec.2)]
  exact ⟨fsets_fget.trans (getF_setF_same (by decide)), fsets_fget.trans ((getF_setF_other (by decide)).trans (getF_setF_same (by decide)))⟩

/-! ### O30 -/

/-- Settles O30: each command by its lemma above. -/
theorem converterCommandsCalibrateScanAndSelect : Obligations.ConverterCommandsCalibrateScanAndSelect := by
  intro q kv v w sum s k x ok refuse e avg sq able valid quiet stat wait
  have hrest : quiet → AtRest s k := fun ⟨hepoch, hplane, hdue, href, hscan, _⟩ => ⟨hepoch, hplane, hdue, href, hscan⟩
  refine ⟨fun ht => ⟨fun hmode => ⟨adcCmd_exec ht (calBegin_run hmode), adcCmd_exec ht (calBegin_run hmode)⟩,
      fun hable hbusy => ⟨adcCmd_exec ht (calBegin_busy hable hbusy), adcCmd_exec ht (calBegin_busy hable hbusy)⟩,
      fun hable hrun hask hnot => ?unnamed, fun hable hrun hask hvalid => ?zero, fun z hable hrun hask hvalid hzero => ?full,
      fun hable hrun hask hvalid hzero => ?noZero,
      fun hmode => ⟨adcCmd_exec ht (scanCommand_takes hmode), adcCmd_exec ht (scanCommand_takes hmode)⟩,
      fun h1 h2 => ⟨adcCmd_exec ht (scanCommand_refuses h1 h2), adcCmd_exec ht (scanCommand_refuses h1 h2)⟩, ?reset,
      fun hmode => adcCmd_exec ht (if_pos hmode), fun hmode => adcCmd_exec ht (if_neg hmode), fun hv => adcCmd_exec ht (adcCommand_unnamed hv)⟩,
    fun ht => ⟨fun h => bankWrite_exec ht (bankWrite_refuses h), fun hfade hwait hsame => bankWrite_exec ht ((bankWrite_free hfade hwait).trans (if_pos hsame)),
      fun hfade hwait hother => ?bank⟩,
    adcDue_adc, fun r hq hask => ?begins, fun n a hq hask hrun => ?zeroDone, fun n a m z hq hask hrun hzero => ⟨fun hlow => ?low, fun hhigh hgain => ?held⟩⟩
  case unnamed =>
    have hbegin : ∀ full, calBegin k full s = calRefuse k 6 s := fun full => (calBegin_idle hable hrun hask).trans (if_pos hnot)
    exact ⟨adcCmd_exec ht (hbegin false), adcCmd_exec ht (hbegin true)⟩
  case zero =>
    have hbegin : calBegin k false s = s.calAsked k false := (calBegin_idle hable hrun hask).trans ((if_neg (not_not.mpr hvalid)).trans (if_neg (by simp)))
    obtain ⟨hcode, honly⟩ := calAsked_shows (s := s) (k := k) (full := false)
    exact ⟨_, adcCmd_exec ht hbegin, completeOk_status, completeOk_adc.trans calAsked_adc, hcode, completeOk_onlyRegs honly⟩
  case full =>
    have hheld : ¬(true ∧ (s.adc k).zero.map (·.1) ≠ some (s.calEntry k)) := by simp [show (s.adc k).zero = some (s.calEntry k, z) from hzero]
    have hbegin : calBegin k true s = s.calAsked k true := (calBegin_idle hable hrun hask).trans ((if_neg (not_not.mpr hvalid)).trans (if_neg hheld))
    obtain ⟨hcode, honly⟩ := calAsked_shows (s := s) (k := k) (full := true)
    exact ⟨_, adcCmd_exec ht hbegin, completeOk_status, completeOk_adc.trans calAsked_adc, hcode, completeOk_onlyRegs honly⟩
  case noZero =>
    have hbare : true ∧ (s.adc k).zero.map (·.1) ≠ some (s.calEntry k) := by simp [show (s.adc k).zero = none from hzero]
    exact adcCmd_exec ht ((calBegin_idle hable hrun hask).trans ((if_neg (not_not.mpr hvalid)).trans (if_pos hbare)))
  case reset =>
    obtain ⟨hpeak, hrms, henv, honly⟩ := bnReset_regs (s := s) (k := k)
    exact ⟨_, adcCmd_exec ht rfl, completeOk_status, completeOk_adc.trans bnReset_adc, hpeak, hrms, henv, completeOk_onlyRegs honly,
      fun j hj => completeOk_adc.trans (bnReset_adc_other hj)⟩
  case bank =>
    have hbank : bankWrite k w s = adcRunWrite k (ADC_BANK k) w s := (bankWrite_free hfade hwait).trans (if_neg hother)
    exact ⟨fun hk hs => bankWrite_exec ht (hbank.trans (adcRunWrite_scheduled hk hs)),
      fun hk h => bankWrite_exec ht (hbank.trans (adcRunWrite_due
        ((lt_or_ge k 48).imp (fun h48 => ⟨h48, h.resolve_left (not_le.mpr h48)⟩) fun h48 => ⟨h48, hk⟩))),
      fun hk => bankWrite_exec ht (hbank.trans (adcRunWrite_hk hk))⟩
  case begins =>
    have hat := hrest hq
    obtain ⟨-, -, -, -, -, hactive, hresume, hwaiting⟩ := hq
    rw [adcBoundary_begins hat hactive hresume hwaiting hask, showAdc_adc, calBegun_adc]
    exact ⟨rfl, rfl, (showAdc_fget syscal_ne_status).trans (fset_fget_same (by decide)), showAdc_state.trans (calBegun_state kv.isLt)⟩
  case zeroDone =>
    obtain ⟨hadc, hstate, hcal⟩ := zeroHeld_shows (s := s.runBoundary k) (k := k) (e := n) (mean := divRoundI sum (2 ^ a))
    have hshown : ADC_STATUS k ∈ [stat, ADC_STATUS k] := List.mem_cons_of_mem _ List.mem_cons_self
    refine ⟨_, calZeroDone_eq (hrest hq) hask hrun, ?_⟩
    rw [showAdc_adc, hadc, runBoundary_adc, showAdc_fget syscal_ne_status, showAdc_fget syscal_ne_status]
    exact ⟨rfl, rfl, rfl, hstate, hcal, showAdc_onlyRegs ((runBoundary_onlyRegs hshown).zeroHeld List.mem_cons_self) hshown⟩
  case low =>
    obtain ⟨hadc, hstate, hcode⟩ := calFail_shows (s := s.runBoundary k) (k := k) (c := 1) (by decide)
    have hexec := calFullDone_eq (sum := sum) (hrest hq) hask hrun hzero
    rw [if_pos hlow] at hexec
    refine ⟨_, hexec, ?_⟩
    rw [showAdc_adc, hadc, runBoundary_adc, showAdc_fget syscal_ne_status, showAdc_fget syscal_ne_status]
    exact ⟨rfl, rfl, rfl, hstate, hcode⟩
  case held =>
    have hgain' : ¬2 ^ 24 ≤ s.calGain kv (divRoundI sum (2 ^ a) - z) := not_le.mpr hgain
    have hexec := calFullDone_eq (sum := sum) (hrest hq) hask hrun hzero
    rw [if_neg (not_lt.mpr hhigh), if_neg hgain'] at hexec
    obtain ⟨hended, hcoefs⟩ := calHeld_adc (s := s.runBoundary k) (k := k) (e := n) (gain := (s.calGain k (divRoundI sum (2 ^ a) - z)).toNat) (z := z)
    obtain ⟨hstate, hcal⟩ := calHeld_fget (s := s.runBoundary k) (k := k) (e := n) (gain := (s.calGain k (divRoundI sum (2 ^ a) - z)).toNat) (z := z)
    rw [runBoundary_adc] at hcoefs
    refine ⟨_, hexec, hended, ?_, fun j hj => ?_, (showAdc_fget syscal_ne_status).trans hstate, (showAdc_fget syscal_ne_status).trans hcal⟩
    · exact (congrArg (look _ · n) hcoefs).trans (look_put_same _ _ _)
    · exact (congrArg (look _ · j) hcoefs).trans (look_put_other _ _ hj)

end Sys2Proof.Machine
end

/-!
PROOFS of the architecture statements, part 22: what a stop of the shot scheduler leaves alone (R167); conversion slots, injected conversions,
self-checks and references of a converter (R94, R230, R232, R233, R238, R241, R243, R244, R246, R259), O29.
-/
section
namespace Sys2Proof.Machine

variable {s t u : State} {a b e i j k n : Nat} {w : Word} {f : Fld} {q : Requester} {x : Adc}

/-! ### The registers of HK, SF and SC through a stop of the scheduler -/

/-- The registers of HK, SF and SC. -/
abbrev InHkSfSc (a : Nat) : Prop := 0x1000000 ≤ a ∧ a < 0x4000000

theorem InHkSfSc.ne_rec (h : InHkSfSc a) : a ≠ REC_LOST ∧ a ≠ REC_STATUS := by
  simp only [REC_LOST, REC_STATUS, baseRec]
  omega

theorem InHkSfSc.ne_fg (h : InHkSfSc a) : a ≠ CAL_FG_STATUS := by
  simp only [CAL_FG_STATUS, baseCf]
  omega

theorem InHkSfSc.ne_missed (h : InHkSfSc a) : a ≠ RX_BLK_SEQ_CNT k := by
  simp only [RX_BLK_SEQ_CNT, baseRxBlk]
  omega

theorem InHkSfSc.ne_sched (h : InHkSfSc a) : a ≠ TX_SCHED_STATUS := by
  simp only [TX_SCHED_STATUS, baseTx]
  omega

theorem fgFill_reg (h : a ≠ CAL_FG_STATUS) : (fgFill n s).reg a = s.reg a := by
  induction n generalizing s with
  | zero => rfl
  | succ n ih =>
    unfold fgFill
    split
    · split_ifs
      · exact setReg_reg_other h
      · rfl
    · have hite : ∀ (c : Prop) [Decidable c] (u : State), u.reg a = s.reg a → (if c then s else u).reg a = s.reg a := fun c _ u hu => by
        split_ifs
        · rfl
        · exact hu
      refine hite _ _ (ih.trans ?_)
      split <;> exact setReg_reg_other h

theorem stopBlock_reg (h : InHkSfSc a) : (stopBlock k s).reg a = s.reg a := by
  unfold stopBlock
  dsimp only
  split_ifs
  · exact setReg_reg_other h.ne_fg
  · rfl
  · exact (setReg_reg_other h.ne_missed).trans (setReg_reg_other h.ne_fg)
  · exact setReg_reg_other h.ne_missed

theorem withTx_reg {x : Tx} : ({ s with tx := x } : State).reg a = s.reg a := rfl

theorem stopShooting_reg (h : InHkSfSc a) : (stopShooting s).reg a = s.reg a := by
  unfold stopShooting
  dsimp only
  rw [flagIf_reg h.ne_sched h.ne_rec.1 h.ne_rec.2, fsets_reg, if_neg h.ne_sched, withTx_reg, reg_of_kept (stampChanges_kept (by decide) (slewFinish_kept (by decide) (.refl _ _))), fgFill_reg h.ne_fg,
    forUp_proj (π := fun u => u.reg a) fun j u => reg_of_kept (stopCell_kept (by decide) (.refl _ u)),
    forUp_proj (π := fun u => u.reg a) fun j u => stopBlock_reg h,
    forUp_proj (π := fun u => u.reg a) fun j u => reg_of_kept (stopSeq_kept (by decide) (.refl _ u)),
    forUp_proj (π := fun u => u.reg a) fun j u => reg_of_kept (stopPort_kept (by decide) (.refl _ u))]

theorem toConfigured_reg (h : InHkSfSc a) : (toConfigured s).reg a = s.reg a := by
  unfold toConfigured
  split
  · exact stopShooting_reg h
  · rfl
  · rfl

theorem chipReaction_reg {c : ChipCause} {p0 p2 : Nat} (h : InHkSfSc a) : (chipReaction c p0 p2 s).reg a = s.reg a := by
  refine (toConfigured_reg h).trans ?_
  change State.reg (if s.startup.chip = [] then kindOne 0 5 p0 p2 s else s) a = _
  split_ifs
  · exact recordEvent_reg h.ne_rec.1 h.ne_rec.2
  · rfl

/-! ### The registers of a converter's results (R261) -/

theorem resVal_ne (h : i ≠ j) : ADC_RES_VAL k i ≠ ADC_RES_VAL k j := by
  simp only [ADC_RES_VAL, ADC_RES]
  omega

theorem resTime_ne (h : i ≠ j) : ADC_RES_TIME k i ≠ ADC_RES_TIME k j := by
  simp only [ADC_RES_TIME, ADC_RES]
  omega

theorem resVal_ne_time : ADC_RES_VAL k i ≠ ADC_RES_TIME k j := by
  simp only [ADC_RES_VAL, ADC_RES_TIME, ADC_RES]
  omega

/-- A register above those by which a converter reports what it does. -/
abbrev AboveFlags (k b : Nat) : Prop := baseAdc k + 0x18 ≤ b

theorem AboveFlags.ne (h : AboveFlags k b) : b ≠ ADC_FLAGS k ∧ b ≠ ADC_STATUS k ∧ b ≠ REC_LOST ∧ b ≠ REC_STATUS := by
  have hrec := adcReg_ne_rec (k := k) (a := b) (by omega)
  exact ⟨by simp only [ADC_FLAGS]; omega, by simp only [ADC_STATUS]; omega, hrec⟩

theorem resVal_above : AboveFlags k (ADC_RES_VAL k i) := by
  simp only [AboveFlags, ADC_RES_VAL, ADC_RES]
  omega

theorem resTime_above : AboveFlags k (ADC_RES_TIME k i) := by
  simp only [AboveFlags, ADC_RES_TIME, ADC_RES]
  omega

theorem putRes_val : (putRes k e w i s).reg (ADC_RES_VAL k e) = w := (setReg_reg_other resVal_ne_time).trans setReg_reg_same
theorem putRes_time : (putRes k e w i s).reg (ADC_RES_TIME k e) = w32 i := setReg_reg_same
theorem putRes_reg (h : b ≠ ADC_RES_VAL k e) (h' : b ≠ ADC_RES_TIME k e) : (putRes k e w i s).reg b = s.reg b :=
  (setReg_reg_other h').trans (setReg_reg_other h)

theorem putRes_other (h : j ≠ e) : (putRes k e w i s).reg (ADC_RES_VAL k j) = s.reg (ADC_RES_VAL k j) ∧
    (putRes k e w i s).reg (ADC_RES_TIME k j) = s.reg (ADC_RES_TIME k j) :=
  ⟨putRes_reg (resVal_ne h) resVal_ne_time, putRes_reg resVal_ne_time.symm (resTime_ne h)⟩

/-! ### What a slot leaves of its converter's record -/

/-- The record of a converter without what its results, samples and completed passes leave there. -/
def Adc.bare (x : Adc) : Adc := { x with lastGood := [], times := [], excAt := [], passes := 0, scanned := false, scanClean := false }

theorem bare_field {α : Type} {x y : Adc} (p : Adc → α) (h : x.bare = y.bare) (hp : ∀ x : Adc, p x.bare = p x := by intro _; rfl) : p x = p y := by
  rw [← hp x, h, hp]

/-- Results, samples and passes leave a converter at rest, in whatever place of its pass. -/
theorem AtRest.of_bare (h : AtRest s k) (hbare : (t.adc k).bare = ({ s.adc k with pos := n } : Adc).bare) (hcut : t.cut = s.cut) (hmode : t.mode = s.mode)
    (hepoch : t.reg LIVE_EPOCH = s.reg LIVE_EPOCH) : AtRest t k := by
  have hwants : t.wantsScan k = s.wantsScan k := by
    unfold State.wantsScan
    dsimp only
    rw [hmode, bare_field Adc.released hbare, bare_field Adc.hostScan hbare, bare_field Adc.refWait hbare, bare_field Adc.rearm hbare]
  have hplane : t.planeOf (adcTarget k) = s.planeOf (adcTarget k) := by rw [State.planeOf, State.planeOf, hcut]
  have hepochOf : t.epochOf (adcTarget k) = s.epochOf (adcTarget k) := by rw [State.epochOf, State.epochOf, hcut, hepoch]
  exact ⟨(bare_field Adc.epoch hbare).trans (h.epoch.trans hepochOf.symm), (bare_field Adc.pl hbare).trans (h.plane.trans hplane.symm),
    (bare_field Adc.due hbare).trans h.due, (bare_field Adc.refWait hbare).trans h.refWait, (bare_field Adc.scanning hbare).trans (h.scan.trans hwants.symm)⟩

theorem setAdc_bare (h : x.bare = (s.adc k).bare) : ((setAdc k x s).adc k).bare = (s.adc k).bare := by
  rw [setAdc_adc_same, h]

theorem putRes_bare : ((putRes k e w i s).adc k).bare = (s.adc k).bare := setAdc_bare rfl

theorem keepGood_bare : ((keepGood k i w s).adc k).bare = (s.adc k).bare := by
  unfold keepGood
  split
  · rfl
  · exact setAdc_bare rfl

theorem keepGood_reg : (keepGood k i w s).reg b = s.reg b := reg_of_kept (keepGood_kept (by decide) (.refl _ s))

theorem noteFlags_adc : (noteFlags k n s).adc j = s.adc j := adc_of_kept (noteFlags_kept (by decide) (by decide) (.refl _ s))

theorem noteFlags_reg (h : b ≠ ADC_FLAGS k) (h1 : b ≠ REC_LOST) (h2 : b ≠ REC_STATUS) : (noteFlags k n s).reg b = s.reg b :=
  (flagIf_reg h h1 h2).trans (flagIf_reg h h1 h2)

theorem noteFlags_none (hinv : n.testBit resInvalid = false) (hover : n.testBit resOver = false) : noteFlags k n s = s := by
  rw [noteFlags, hinv, hover]
  rfl

/-- The place after the one at `p`, of `n`. -/
def nextPlace (p n : Nat) : Nat := if p + 1 < n then p + 1 else 0

theorem advance_bare : ((advance k n s).adc k).bare = ({ s.adc k with pos := nextPlace (s.adc k).pos n } : Adc).bare := by
  unfold advance nextPlace
  dsimp only
  split_ifs
  · rw [setAdc_adc_same]
  · rw [setAdc_adc_same]
    rfl

/-- What a conversion leaves that the end of its slot asks for. -/
structure SlotKept (k : Nat) (s u : State) : Prop where
  bare : (u.adc k).bare = (s.adc k).bare
  cut : u.cut = s.cut
  mode : u.mode = s.mode
  epoch : u.reg LIVE_EPOCH = s.reg LIVE_EPOCH

theorem SlotKept.trans (h : SlotKept k s t) (h' : SlotKept k t u) : SlotKept k s u :=
  ⟨h'.bare.trans h.bare, h'.cut.trans h.cut, h'.mode.trans h.mode, h'.epoch.trans h.epoch⟩

/-- The end of a slot at a converter at rest: the next place, and no register but `ADC_STATUS`. -/
theorem slotEnd_atRest (h : AtRest s k) (hask : (s.adc k).calAsk = none) (hkept : SlotKept k s u) : ((adcBoundary k (advance k n u)).adc k).pos = nextPlace (s.adc k).pos n ∧
    ∀ b, b ≠ ADC_STATUS k → (adcBoundary k (advance k n u)).reg b = u.reg b := by
  obtain ⟨hbare, hcut, hmode, hepoch⟩ := hkept
  have hsame : ({ u.adc k with pos := nextPlace (u.adc k).pos n } : Adc).bare = ({ s.adc k with pos := nextPlace (s.adc k).pos n } : Adc).bare := by
    rw [bare_field Adc.pos hbare]
    exact congrArg (fun x : Adc => { x with pos := nextPlace (s.adc k).pos n }) hbare
  have hadv := advance_bare.trans hsame
  have hpart : ∀ p, p ≠ .adcs → Kept p u (advance k n u) := fun p hp => advance_kept hp (.refl p u)
  have hat : AtRest (advance k n u) k := h.of_bare hadv (Eq.trans (hpart .cut (by decide)) hcut) (Eq.trans (hpart .mode (by decide)) hmode)
    ((reg_of_kept (hpart .regs (by decide))).trans hepoch)
  rw [adcBoundary_idle hat ((bare_field Adc.calAsk hadv).trans hask)]
  exact ⟨(congrArg Adc.pos slotBegun_adc).trans (bare_field Adc.pos hadv), fun b hb => (fsets_reg.trans (if_neg hb)).trans (reg_of_kept (hpart .regs (by decide)))⟩

/-! ### A slot of the scan mask ends (R241, R249) -/

theorem adcResume_none (h : (s.adc k).resumeAt = none) : adcResume k s = s := by
  unfold adcResume
  simp only [h]

/-- The places of a sequence that name an input take its scan result. -/
def putWhere (k input : Nat) (r : Nat → Word) (i : Nat) (l : List (List Word × Nat)) (s : State) : State :=
  l.foldl (fun u e => if Ent.input (Ent.ctl e.1) = input then putRes k e.2 (r e.2) i u else u) s

theorem putWhere_skips {input : Nat} {r : Nat → Word} {l : List (List Word × Nat)} (h : ∀ y ∈ l, y.2 = e → Ent.input (Ent.ctl y.1) ≠ input) :
    (putWhere k input r i l s).reg (ADC_RES_VAL k e) = s.reg (ADC_RES_VAL k e) ∧ (putWhere k input r i l s).reg (ADC_RES_TIME k e) = s.reg (ADC_RES_TIME k e) := by
  induction l generalizing s with
  | nil => exact ⟨rfl, rfl⟩
  | cons y l ih =>
    obtain ⟨hval, htime⟩ := ih (s := if Ent.input (Ent.ctl y.1) = input then putRes k y.2 (r y.2) i s else s) fun z hz => h z (List.mem_cons_of_mem y hz)
    by_cases hy : Ent.input (Ent.ctl y.1) = input
    · rw [if_pos hy] at hval htime
      have hother := putRes_other (k := k) (w := r y.2) (i := i) (s := s) fun he : e = y.2 => h y List.mem_cons_self he.symm hy
      rw [putWhere, List.foldl_cons, if_pos hy]
      exact ⟨hval.trans hother.1, htime.trans hother.2⟩
    · rw [if_neg hy] at hval htime
      rw [putWhere, List.foldl_cons, if_neg hy]
      exact ⟨hval, htime⟩

theorem putWhere_puts {input : Nat} {r : Nat → Word} {l : List (List Word × Nat)} {ent : List Word} (hl : (l.map Prod.snd).Nodup) (hmem : (ent, e) ∈ l)
    (hent : Ent.input (Ent.ctl ent) = input) :
    (putWhere k input r i l s).reg (ADC_RES_VAL k e) = r e ∧ (putWhere k input r i l s).reg (ADC_RES_TIME k e) = w32 i := by
  induction l generalizing s with
  | nil => exact absurd hmem List.not_mem_nil
  | cons y l ih =>
    obtain ⟨hnew, hl⟩ := List.nodup_cons.mp hl
    rcases List.mem_cons.mp hmem with rfl | hmem
    · have hrest := putWhere_skips (k := k) (i := i) (input := input) (r := r) (l := l) (e := e) (s := putRes k e (r e) i s)
        fun z hz he => absurd (List.mem_map.mpr ⟨z, hz, he⟩) hnew
      rw [putWhere, List.foldl_cons, if_pos hent]
      exact ⟨hrest.1.trans putRes_val, hrest.2.trans putRes_time⟩
    · exact ih hl hmem

theorem putWhere_bare {input : Nat} {r : Nat → Word} {l : List (List Word × Nat)} : ((putWhere k input r i l s).adc k).bare = (s.adc k).bare :=
  foldl_proj (π := fun u => (u.adc k).bare) fun u y => by
    split_ifs
    · exact putRes_bare
    · rfl

theorem zipIdx_places_nodup {l : List (List Word)} : (l.zipIdx.map Prod.snd).Nodup := by
  rw [List.zipIdx_map_snd]
  exact List.nodup_range'

/-- The word that entry `e` of a converter takes from the scan mask. -/
def State.scanWord (s : State) (k : Nat) (raw : Int) (fl e : Nat) : Word :=
  resWord raw (fl + 2 ^ resScan + resBit ((s.adc k).calSettle = some e) resSettling)

theorem scanResult_eq {raw : Int} {fl : Nat} : scanResult k j raw fl i s =
    putWhere k j (s.scanWord k raw fl) i (adcSeq (s.adc k).pl k).zipIdx (keepGood k j (resWord raw fl) s) := rfl

/-- The input of the scan mask in its slot. -/
def State.scanInput (s : State) (k : Nat) : Nat := nth 31 (scanInputs (s.adc k).pl k) (s.adc k).pos

/-- The conversion of a scan input has gone to its entries. -/
def State.scanConverted (s : State) (k raw : Nat) : State :=
  let c := s.trim k 0 (adcBits k) raw
  let fl := s.convFlags k (s.scanInput k) 0 c
  scanResult k (s.scanInput k) (sampleOf k c) fl (s.now - convPhase k) (noteFlags k fl s)

theorem conversionSlotEnd_scan {kv : Fin 54} {code : BitVec 16} {fine : BitVec 2} (hruns : s.adcRuns kv = true) (hactive : (s.adc kv).active = none)
    (hresume : (s.adc kv).resumeAt = none) (hrun : (s.adc kv).calRun = none) (hscan : (s.adc kv).scanning = true) (hk : 48 ≤ kv.val) :
    exec (.conversionSlotEnd kv code fine) s =
      .next (adcBoundary kv (advance kv (scanInputs (s.adc kv).pl kv).length (s.scanConverted kv (rawCode kv code fine)))) := by
  have hamb : ¬(kv.val < 48 ∧ s.scanInput kv < 16 ∧ cellOn (s.adc kv).pl (8 + kv / 8) (kv % 8) (s.scanInput kv)) := fun h => absurd h.1 (not_lt.mpr hk)
  have hfree : ¬((!s.adcRuns kv || (s.adc kv).active.isSome || (s.adc kv).resumeAt.isSome) = true) := by simp [hruns, hactive, hresume]
  change execConversionSlotEnd kv code fine s = _
  unfold execConversionSlotEnd
  dsimp only
  rw [adcResume_none hresume, if_neg hfree, hrun]
  dsimp only
  rw [if_pos hscan]
  exact congrArg (fun u => Host.Outcome.next (adcBoundary kv (advance kv _ u))) (if_neg hamb)

theorem liveEpoch_ne : LIVE_EPOCH ≠ ADC_FLAGS k ∧ LIVE_EPOCH ≠ REC_LOST ∧ LIVE_EPOCH ≠ REC_STATUS := by
  refine ⟨fun h => ?_, by decide, by decide⟩
  have hge : 0x1000000 ≤ ADC_FLAGS k := by
    simp only [ADC_FLAGS, baseAdc]
    split_ifs <;> omega
  rw [← h] at hge
  exact absurd hge (by decide)

theorem putWhere_below {input : Nat} {r : Nat → Word} {l : List (List Word × Nat)} (h : b < baseAdc k) : (putWhere k input r i l s).reg b = s.reg b :=
  foldl_proj (π := fun u => u.reg b) fun u y => by
    split_ifs
    · refine putRes_reg (Nat.ne_of_lt ?_) (Nat.ne_of_lt ?_) <;> exact Nat.lt_of_lt_of_le h ((Nat.le_add_right _ _).trans (Nat.le_add_right _ _))
    · rfl

theorem liveEpoch_below : LIVE_EPOCH < baseAdc k := by
  simp only [LIVE_EPOCH, baseCf, baseAdc]
  split_ifs <;> omega

theorem noteFlags_slotKept : SlotKept k s (noteFlags k n s) := by
  obtain ⟨hflags, hlost, hrec⟩ := liveEpoch_ne (k := k)
  exact ⟨congrArg Adc.bare noteFlags_adc, noteFlags_kept (p := .cut) (by decide) (by decide) (.refl _ s),
    noteFlags_kept (p := .mode) (by decide) (by decide) (.refl _ s), noteFlags_reg hflags hlost hrec⟩

theorem keepGood_slotKept : SlotKept k s (keepGood k i w s) :=
  ⟨keepGood_bare, keepGood_kept (p := .cut) (by decide) (.refl _ s), keepGood_kept (p := .mode) (by decide) (.refl _ s), keepGood_reg⟩

theorem scanResult_slotKept {raw : Int} : SlotKept k s (scanResult k j raw n i s) :=
  ⟨(congrArg (fun u : State => (u.adc k).bare) scanResult_eq).trans (putWhere_bare.trans keepGood_bare),
    scanResult_kept (p := .cut) (by decide) (by decide) (.refl _ s), scanResult_kept (p := .mode) (by decide) (by decide) (.refl _ s),
    (congrArg (State.reg · LIVE_EPOCH) scanResult_eq).trans ((putWhere_below liveEpoch_below).trans keepGood_reg)⟩

/-- The result registers of entry `i` read as in `s`. -/
def ResKept (k i : Nat) (s t : State) : Prop := t.reg (ADC_RES_VAL k i) = s.reg (ADC_RES_VAL k i) ∧ t.reg (ADC_RES_TIME k i) = s.reg (ADC_RES_TIME k i)

theorem noteFlags_resKept : ResKept k i s (noteFlags k n s) := by
  obtain ⟨hflags, -, hlost, hrec⟩ := (resVal_above (k := k) (i := i)).ne
  obtain ⟨hflags', -, hlost', hrec'⟩ := (resTime_above (k := k) (i := i)).ne
  exact ⟨noteFlags_reg hflags hlost hrec, noteFlags_reg hflags' hlost' hrec'⟩

theorem scanConverted_slotKept : SlotKept k s (s.scanConverted k n) := noteFlags_slotKept.trans scanResult_slotKept

theorem scanConverted_entry {ent : List Word} (hent : (adcSeq (s.adc k).pl k)[e]? = some ent) :
    (Ent.input (Ent.ctl ent) = s.scanInput k →
      (s.scanConverted k n).reg (ADC_RES_VAL k e) = s.scanWord k (sampleOf k (s.trim k 0 (adcBits k) n)) (s.convFlags k (s.scanInput k) 0 (s.trim k 0 (adcBits k) n)) e ∧
      (s.scanConverted k n).reg (ADC_RES_TIME k e) = w32 (s.now - convPhase k)) ∧
    (Ent.input (Ent.ctl ent) ≠ s.scanInput k → ResKept k e s (s.scanConverted k n)) := by
  have hmem : (ent, e) ∈ (adcSeq (s.adc k).pl k).zipIdx := List.mk_mem_zipIdx_iff_getElem?.mpr hent
  unfold State.scanConverted
  dsimp only
  rw [scanResult_eq, noteFlags_adc]
  refine ⟨fun hin => ?_, fun hout => ?_⟩
  · obtain ⟨hval, htime⟩ := putWhere_puts (k := k) (i := s.now - convPhase k) zipIdx_places_nodup hmem hin
    exact ⟨hval.trans (by rw [State.scanWord, noteFlags_adc]; rfl), htime⟩
  · have hskip : ∀ y ∈ (adcSeq (s.adc k).pl k).zipIdx, y.2 = e → Ent.input (Ent.ctl y.1) ≠ s.scanInput k := fun y hy he => by
      have hy' := List.mk_mem_zipIdx_iff_getElem?.mp (show (y.1, y.2) ∈ _ from hy)
      rw [he, hent] at hy'
      rwa [← Option.some.inj hy']
    obtain ⟨hval, htime⟩ := putWhere_skips (k := k) (i := s.now - convPhase k) hskip
    obtain ⟨hval', htime'⟩ := noteFlags_resKept (k := k) (i := e) (s := s)
    exact ⟨hval.trans (keepGood_reg.trans hval'), htime.trans (keepGood_reg.trans htime')⟩

/-! ### A slot of the sequence ends (R238, R250) -/

theorem setAdc_bare_any (h : x.bare = (s.adc j).bare) : ((setAdc j x s).adc k).bare = (s.adc k).bare := by
  rw [setAdc_adc]
  split_ifs with hk
  · rw [hk, h]
  · rfl

theorem axisStatus_ne_epoch : LIVE_EPOCH ≠ SC_AXIS_STATUS a := by
  simp only [LIVE_EPOCH, baseCf, SC_AXIS_STATUS, baseScAxis]
  omega

theorem applyExcitation_slotKept : SlotKept k s (applyExcitation a i s) := by
  unfold applyExcitation reportExcitation
  dsimp only
  split
  · exact ⟨setAdc_bare_any rfl, rfl, rfl, setReg_reg_other axisStatus_ne_epoch⟩
  · exact ⟨rfl, rfl, rfl, setReg_reg_other axisStatus_ne_epoch⟩

theorem applyExcitation_reg (h : b ≠ SC_AXIS_STATUS a) : (applyExcitation a i s).reg b = s.reg b := by
  unfold applyExcitation
  dsimp only
  split
  · exact (reg_of_kept (reportExcitation_kept (by decide) (.refl _ _))).trans (setReg_reg_other h)
  · exact setReg_reg_other h

theorem SlotKept.refl : SlotKept k s s := ⟨rfl, rfl, rfl, rfl⟩

theorem axisOutput_slotKept : SlotKept k s (axisOutput j e i s) := by
  refine forUp_induction (P := fun _ u => SlotKept k s u) .refl fun a u _ _ hu => ?_
  dsimp only
  split_ifs
  · exact hu.trans (SlotKept.trans (t := setAxis _ _ u) ⟨rfl, rfl, rfl, rfl⟩ applyExcitation_slotKept)
  · exact hu.trans ⟨rfl, rfl, rfl, rfl⟩
  · exact hu

theorem axisOutput_reg (h : ∀ a, a < 8 → b ≠ SC_AXIS_STATUS a) : (axisOutput j e i s).reg b = s.reg b := by
  refine forUp_induction (P := fun _ u => u.reg b = s.reg b) rfl fun a u _ ha hu => ?_
  dsimp only
  split_ifs
  · exact (applyExcitation_reg (h a (by omega))).trans hu
  · exact hu
  · exact hu

theorem adcReg_ne_axis (hk : k < 54) (h : baseAdc k ≤ b) (h' : b < baseAdc k + 0x100) : ∀ a, a < 8 → b ≠ SC_AXIS_STATUS a := fun a ha => by
  have hbase := baseAdc_range hk
  simp only [SC_AXIS_STATUS, baseScAxis]
  omega

theorem res_ne_axis (hk : k < 54) (hi : i < 16) : (∀ a, a < 8 → ADC_RES_VAL k i ≠ SC_AXIS_STATUS a) ∧ ∀ a, a < 8 → ADC_RES_TIME k i ≠ SC_AXIS_STATUS a := by
  simp only [ADC_RES_VAL, ADC_RES_TIME, ADC_RES]
  exact ⟨adcReg_ne_axis hk (by omega) (by omega), adcReg_ne_axis hk (by omega) (by omega)⟩

theorem calSettled_none (h : (s.adc k).calSettle = none) : calSettled k e s = s := if_neg fun h' => by simp [h] at h'

theorem detect_off {y : Int} (h : s.fget (ADC_BN_CFG k) ADC_BN_CFG.en = 0) : detect k e y s = s := if_pos (.inl h)

theorem putResult_plain {ent : List Word} {y : Int} (hcurve : Ent.curve (Ent.ctl ent) = 0) (hoff : s.fget (ADC_BN_CFG k) ADC_BN_CFG.en = 0)
    (hcal : (s.adc k).calSettle = none) : putResult k e ent y n i s =
      feedLoops k e { word := resWord y n, time := i, held := false } (putRes k e (resWord y n) i s) := by
  unfold putResult
  dsimp only
  rw [detect_off hoff, if_pos hcurve]
  dsimp only
  rw [hcal]
  rfl

/-- The result of an entry without filter and curve. -/
def State.entryWord (s : State) (k e : Nat) (raw : Int) (fl : Nat) : Word := resWord (sysCal ((s.adc k).coef e) raw) fl

theorem seqSample_plain {ent : List Word} {raw : Int} (hk : k < 54) (hfilt : Ent.filt (Ent.ctl ent) = 0) (hcurve : Ent.curve (Ent.ctl ent) = 0)
    (hoff : s.fget (ADC_BN_CFG k) ADC_BN_CFG.en = 0) (hcal : (s.adc k).calSettle = none) : seqSample k e ent raw n i s =
      feedLoops k e { word := s.entryWord k e raw n, time := i, held := false } (putRes k e (s.entryWord k e raw n) i
        (axisOutput k e i (keepGood k (Ent.input (Ent.ctl ent)) (s.entryWord k e raw n) s))) := by
  have hslot := axisOutput_slotKept (k := k) (j := k) (e := e) (i := i) (s := keepGood k (Ent.input (Ent.ctl ent)) (s.entryWord k e raw n) s)
  have hcal' := (bare_field Adc.calSettle (hslot.bare.trans keepGood_bare)).trans hcal
  have hoff' := (fget_of_reg (axisOutput_reg (j := k) (e := e) (i := i) (s := keepGood k (Ent.input (Ent.ctl ent)) (s.entryWord k e raw n) s)
    (adcReg_ne_axis hk (b := ADC_BN_CFG k) (Nat.le_add_right _ _) (Nat.add_lt_add_left (by decide) _)))).trans ((fget_of_reg keepGood_reg).trans hoff)
  unfold seqSample
  dsimp only
  rw [calSettled_none hcal, if_pos hfilt]
  exact putResult_plain hcurve hoff' hcal'

/-- The conversion of the entry in its slot has gone to its result. -/
def State.seqConverted (s : State) (k raw : Nat) (ent : List Word) : State :=
  let c := s.trim k (Ent.gain (Ent.ctl ent)) (adcBits k) raw
  let fl := s.convFlags k (Ent.input (Ent.ctl ent)) (Ent.ref (Ent.ctl ent)) c
  seqSample k (s.adc k).pos ent (sampleOf k c) fl (s.now - convPhase k) (noteFlags k fl s)

theorem conversionSlotEnd_seq {kv : Fin 54} {code : BitVec 16} {fine : BitVec 2} {ent : List Word} (hruns : s.adcRuns kv = true) (hactive : (s.adc kv).active = none)
    (hresume : (s.adc kv).resumeAt = none) (hrun : (s.adc kv).calRun = none) (hscan : (s.adc kv).scanning = false)
    (hent : (adcSeq (s.adc kv).pl kv)[(s.adc kv).pos]? = some ent) (hk : 48 ≤ kv.val ∨ 16 ≤ Ent.input (Ent.ctl ent)) :
    exec (.conversionSlotEnd kv code fine) s =
      .next (adcBoundary kv (advance kv (adcSeq (s.adc kv).pl kv).length (s.seqConverted kv (rawCode kv code fine) ent))) := by
  have hamb : ¬(kv.val < 48 ∧ Ent.input (Ent.ctl ent) < 16) := by omega
  have hfree : ¬((!s.adcRuns kv || (s.adc kv).active.isSome || (s.adc kv).resumeAt.isSome) = true) := by simp [hruns, hactive, hresume]
  have hsome : adcSeq (s.adc kv).pl kv ≠ [] := fun hnil => by simp [hnil] at hent
  change execConversionSlotEnd kv code fine s = _
  unfold execConversionSlotEnd
  dsimp only
  rw [adcResume_none hresume, if_neg hfree, hrun]
  dsimp only
  rw [if_neg (by simp [hscan]), if_neg hsome, nth_of_getElem? hent, if_neg hamb]
  rfl

theorem seqConverted_shows {ent : List Word} {c : Nat} (hc : s.trim k (Ent.gain (Ent.ctl ent)) (adcBits k) n = c) (hk : k < 54)
    (hfilt : Ent.filt (Ent.ctl ent) = 0) (hcurve : Ent.curve (Ent.ctl ent) = 0) (hoff : s.fget (ADC_BN_CFG k) ADC_BN_CFG.en = 0)
    (hcal : (s.adc k).calSettle = none) : SlotKept k s (s.seqConverted k n ent) ∧
    (s.seqConverted k n ent).reg (ADC_RES_VAL k (s.adc k).pos) =
      s.entryWord k (s.adc k).pos (sampleOf k c) (s.convFlags k (Ent.input (Ent.ctl ent)) (Ent.ref (Ent.ctl ent)) c) ∧
    (s.seqConverted k n ent).reg (ADC_RES_TIME k (s.adc k).pos) = w32 (s.now - convPhase k) ∧
    ∀ j, j < 16 → j ≠ (s.adc k).pos → (s.seqConverted k n ent).reg (ADC_RES_VAL k j) = s.reg (ADC_RES_VAL k j) := by
  unfold State.seqConverted
  dsimp only
  rw [hc]
  generalize hfl : s.convFlags k (Ent.input (Ent.ctl ent)) (Ent.ref (Ent.ctl ent)) c = fl
  have hcfg : (noteFlags k fl s).reg (ADC_BN_CFG k) = s.reg (ADC_BN_CFG k) := by
    obtain ⟨hflags, -, hlost, hrec⟩ := AboveFlags.ne (k := k) (b := ADC_BN_CFG k) (Nat.add_le_add_left (by decide) _)
    exact noteFlags_reg hflags hlost hrec
  have hword : (noteFlags k fl s).entryWord k (s.adc k).pos (sampleOf k c) fl = s.entryWord k (s.adc k).pos (sampleOf k c) fl := by
    rw [State.entryWord, noteFlags_adc]
    rfl
  rw [seqSample_plain hk hfilt hcurve ((fget_of_reg hcfg).trans hoff) ((congrArg Adc.calSettle noteFlags_adc).trans hcal), hword]
  generalize s.entryWord k (s.adc k).pos (sampleOf k c) fl = w
  generalize hu : axisOutput k (s.adc k).pos (s.now - convPhase k) (keepGood k (Ent.input (Ent.ctl ent)) w (noteFlags k fl s)) = u
  have hslot : SlotKept k s u := hu ▸ noteFlags_slotKept.trans (keepGood_slotKept.trans axisOutput_slotKept)
  have hres : ∀ j, j < 16 → u.reg (ADC_RES_VAL k j) = s.reg (ADC_RES_VAL k j) := fun j hj =>
    hu ▸ (axisOutput_reg (res_ne_axis hk hj).1).trans (keepGood_reg.trans noteFlags_resKept.1)
  have hfed : ∀ p, p ≠ .sc → Kept p (putRes k (s.adc k).pos w (s.now - convPhase k) u)
      (feedLoops k (s.adc k).pos { word := w, time := s.now - convPhase k, held := false } (putRes k (s.adc k).pos w (s.now - convPhase k) u)) :=
    fun p hp => feedLoops_kept hp (.refl p _)
  have hput : SlotKept k u (putRes k (s.adc k).pos w (s.now - convPhase k) u) :=
    ⟨putRes_bare, rfl, rfl, putRes_reg (Nat.ne_of_lt (Nat.lt_of_lt_of_le liveEpoch_below ((Nat.le_add_right _ _).trans (Nat.le_add_right _ _))))
      (Nat.ne_of_lt (Nat.lt_of_lt_of_le liveEpoch_below ((Nat.le_add_right _ _).trans (Nat.le_add_right _ _))))⟩
  refine ⟨hslot.trans (hput.trans ⟨congrArg Adc.bare (adc_of_kept (hfed .adcs (by decide))), hfed .cut (by decide), hfed .mode (by decide),
      reg_of_kept (hfed .regs (by decide))⟩), (reg_of_kept (hfed .regs (by decide))).trans putRes_val, (reg_of_kept (hfed .regs (by decide))).trans putRes_time,
    fun j hj hne => (reg_of_kept (hfed .regs (by decide))).trans ((putRes_other hne).1.trans (hres j hj))⟩

/-! ### A request arrives (R243, R244, R249) -/

theorem adcResume_early (h : ∀ z, (s.adc k).resumeAt = some z → s.now < z) : adcResume k s = s := by
  unfold adcResume
  dsimp only
  split
  · next z hz => exact if_neg (not_le.mpr (h z hz))
  · rfl

/-- The waiting request of highest priority interrupts the reconversion, whose instant has come. -/
theorem adcResume_due {r : InjReq} {rest : List InjReq} (hresume : (s.adc k).resumeAt = some i) (hdue : i ≤ s.now) (hwait : (s.adc k).waiting = r :: rest) :
    adcResume k s = setAdc k { s.adc k with resumeAt := none, slotAt := i, lostNow := 0, active := some r, waiting := rest } s := by
  unfold adcResume
  dsimp only
  rw [hresume, hwait]
  exact if_pos hdue

theorem conversionSlotEnd_interrupted {kv : Fin 54} {code : BitVec 16} {fine : BitVec 2} {r : InjReq} {rest : List InjReq}
    (hresume : (s.adc kv).resumeAt = some i) (hdue : i ≤ s.now) (hwait : (s.adc kv).waiting = r :: rest) : exec (.conversionSlotEnd kv code fine) s =
      .next (setAdc kv { s.adc kv with resumeAt := none, slotAt := i, lostNow := 0, active := some r, waiting := rest } s) := by
  change execConversionSlotEnd kv code fine s = _
  unfold execConversionSlotEnd
  dsimp only
  rw [adcResume_due hresume hdue hwait, setAdc_adc_same]
  exact congrArg Host.Outcome.next (if_pos (by simp))

theorem injectedRequest_free {kv : Fin 54} {r : InjReq} {rest : List InjReq} (hin : (s.adc kv).incoming = r :: rest) (hruns : s.adcRuns kv = true)
    (hrun : (s.adc kv).calRun = none) (hwait : ∀ z, (s.adc kv).resumeAt = some z → s.now < z) : exec (.injectedRequest kv) s =
      .next (setAdc kv (if (s.adc kv).active.isSome || (s.adc kv).resumeAt.isSome then { s.adc kv with incoming := rest, waiting := insertReq r (s.adc kv).waiting }
        else { s.adc kv with incoming := rest, active := some r, lostNow := 0 }) (setAdc kv { s.adc kv with incoming := rest } s)) := by
  change execInjectedRequest kv s = _
  unfold execInjectedRequest
  dsimp only
  rw [adcResume_early hwait, hin]
  dsimp only
  rw [if_neg (by simp [hruns]), if_neg (by simp [hrun]), apply_ite (setAdc kv · _)]

theorem injectedRequest_stale {kv : Fin 54} {r : InjReq} {rest : List InjReq} {v : Nat × Word} (hin : (s.adc kv).incoming = r :: rest)
    (hruns : s.adcRuns kv = true) (hrun : (s.adc kv).calRun.isSome = true) (hresume : (s.adc kv).resumeAt = none)
    (hgood : (s.adc kv).lastGood.find? (fun e => e.1 = Ent.input r.ctl) = some v) : exec (.injectedRequest kv) s =
      .next (deliver kv r (setBit resStale v.2 ||| w32 (resBit (s.adcFault kv) resInvalid)) s.now
        (flag (ADC_FLAGS kv) ADC_FLAGS.inj_stale (setAdc kv { s.adc kv with incoming := rest } s))) := by
  change execInjectedRequest kv s = _
  unfold execInjectedRequest
  dsimp only
  rw [adcResume_none hresume, hin]
  dsimp only
  rw [if_neg (by simp [hruns]), if_pos hrun, hgood]

/-! ### An injected conversion completes (R243 to R245) -/

theorem reportBias_kept_of_other {p : Part} (hp : p ≠ .regs) : Kept p s (if k < 48 ∧ j = 16 then reportBias k w s else s) :=
  ite_kept (reportBias_kept hp (.refl p s)) (.refl p s)

/-- What an answer carries to its requester. -/
theorem deliver_loop {r : InjReq} {l : Nat} (h : r.src = .loop l) :
    ((deliver k r w i s).loop_ l).inbox = (s.loop_ l).inbox ++ [{ word := w, time := i, held := false }] := by
  have hsc : (if k < 48 ∧ Ent.input r.ctl = 16 then reportBias k w s else s).sc = s.sc := reportBias_kept_of_other (p := .sc) (by decide)
  unfold deliver
  dsimp only
  rw [h]
  dsimp only
  rw [setLoop_get_same, State.loop_, hsc]
  rfl

theorem deliver_bias {r : InjReq} (h : r.src = .bias) : (deliver k r w i s).sc = s.sc ∧ (deliver k r w i s).motionIn = s.motionIn := by
  unfold deliver
  dsimp only
  rw [h]
  exact ⟨reportBias_kept_of_other (p := .sc) (by decide), (reportBias_kept_of_other (p := .motionIn) (by decide)).1⟩

theorem deliver_sf {r : InjReq} {c : Nat} (h : r.src = .sf c) : if 30 ≤ Ent.input r.ctl then (deliver k r w i s).testIn = s.testIn ++ [(k, Ent.input r.ctl, w)]
    else if k < 52 then (deliver k r w i s).motionIn = s.motionIn ++ [(c, 2 * (k - 48) + Ent.input r.ctl % 2, w, i)]
    else (deliver k r w i s).supplyIn = s.supplyIn ++ [(c, w)] := by
  obtain ⟨hmotion, hsupply, htest⟩ := reportBias_kept_of_other (p := .motionIn) (s := s) (k := k) (j := Ent.input r.ctl) (w := w) (by decide)
  unfold deliver
  dsimp only
  rw [h]
  generalize (if k < 48 ∧ Ent.input r.ctl = 16 then reportBias k w s else s) = u at hmotion hsupply htest ⊢
  dsimp only
  split_ifs
  · exact congrArg (· ++ _) htest
  · exact congrArg (· ++ _) hmotion
  · exact congrArg (· ++ _) hsupply

theorem slotNs_of_bare (h : (t.adc k).bare = (s.adc k).bare) : t.slotNs k = s.slotNs k := by
  unfold State.slotNs
  dsimp only
  rw [bare_field Adc.scanning h, bare_field Adc.pl h, bare_field Adc.pos h]

/-- The converter idles until the reconversion. -/
theorem adcIdle_adc {len : Nat} : (adcIdle k len s).adc k = { s.adc k with active := none, lostNow := 0, resumeAt := some ((s.adc k).slotAt + s.slotNs k + len) } :=
  setAdc_adc_same

/-- The word that answers a request, whose conversion has given the code `c`. -/
def State.answerWord (s : State) (k : Nat) (r : InjReq) (c : Nat) : Word :=
  resWord (sysCal ((s.adc k).reqCoef k r.ctl) (sampleOf k c)) (s.convFlags k (Ent.input r.ctl) (Ent.ref r.ctl) c)

/-- An injected conversion has ended, and its answer leaves. -/
def State.answerReady (s : State) (k : Nat) (r : InjReq) (c : Nat) : State :=
  adcIdle k (ctlSlot k r.ctl) (keepGood k (Ent.input r.ctl) (s.answerWord k r c) (noteFlags k (s.convFlags k (Ent.input r.ctl) (Ent.ref r.ctl) c) s))

theorem injectedResult_eq {kv : Fin 54} {code : BitVec 16} {fine : BitVec 2} {r : InjReq} (hactive : (s.adc kv).active = some r) (hresume : (s.adc kv).resumeAt = none) :
    exec (.injectedResult kv code fine) s = .next (showAdc kv (deliver kv r
      (s.answerWord kv r (s.trim kv (Ent.gain r.ctl) (adcBits kv) (rawCode kv code fine))) (s.now - convPhase kv)
      (s.answerReady kv r (s.trim kv (Ent.gain r.ctl) (adcBits kv) (rawCode kv code fine))))) := by
  change execInjectedResult kv code fine s = _
  unfold execInjectedResult
  dsimp only
  rw [adcResume_none hresume, hactive]
  rfl

theorem answerReady_kept {p : Part} {r : InjReq} {c : Nat} (hregs : p ≠ .regs) (hmgmt : p ≠ .mgmt) (hadcs : p ≠ .adcs) : Kept p s (s.answerReady k r c) :=
  adcIdle_kept hadcs (keepGood_kept hadcs (noteFlags_kept hregs hmgmt (.refl p s)))

theorem answerReady_adc {r : InjReq} {c : Nat} : ((s.answerReady k r c).adc k).active = none ∧ ((s.answerReady k r c).adc k).waiting = (s.adc k).waiting ∧
    ((s.answerReady k r c).adc k).resumeAt = some ((s.adc k).slotAt + s.slotNs k + ctlSlot k r.ctl) := by
  have hslot := (noteFlags_slotKept (k := k) (s := s) (n := s.convFlags k (Ent.input r.ctl) (Ent.ref r.ctl) c)).trans
    (keepGood_slotKept (i := Ent.input r.ctl) (w := s.answerWord k r c))
  have hwait := bare_field Adc.waiting hslot.bare
  rw [State.answerReady, adcIdle_adc, slotNs_of_bare hslot.bare, bare_field Adc.slotAt hslot.bare]
  exact ⟨rfl, hwait, rfl⟩

/-! ### A converter enters fault (R259) -/

theorem adcFlag_inHkSfSc (hk : 52 ≤ k) (hk' : k < 54) (h : baseAdc k ≤ b) (h' : b < baseAdc k + 0x100) : InHkSfSc b := by
  simp only [baseAdc, if_neg (show ¬k < 48 by omega), if_neg (show ¬k < 52 by omega)] at h h'
  exact ⟨by omega, by omega⟩

theorem converterFault_adc : (converterFault k s).adc j = s.adc j :=
  adc_of_kept (converterFault_kept (by decide) (by decide) (by decide) (by decide) (by decide) (by decide) (by decide) (by decide) (by decide) (by decide) (by decide) (.refl _ s))

/-- What a fault isolates, feeds or reacts with leaves the registers of its converter but the two that report it. -/
theorem converterFault_reg (hk : k < 54) (h : baseAdc k ≤ b) (h' : b < baseAdc k + 0x100) (hs : s.adcFault k = false) :
    (converterFault k s).reg b = (fset (ADC_STATUS k) ADC_STATUS.fault 1 (flag (ADC_FLAGS k) ADC_FLAGS.fault s)).reg b := by
  unfold converterFault
  rw [if_neg (by simp [hs])]
  dsimp only
  split_ifs
  · exact reg_of_kept (isolateBlock_kept (by decide) (.refl _ _))
  · exact reg_of_kept (feedLost_kept (by decide) (.refl _ _))
  · exact chipReaction_reg (adcFlag_inHkSfSc (by omega) hk h h')

theorem adcFlags_near : baseAdc k ≤ ADC_FLAGS k ∧ ADC_FLAGS k < baseAdc k + 0x100 := ⟨Nat.le_add_right _ _, Nat.add_lt_add_left (by decide) _⟩
theorem adcStatus_near : baseAdc k ≤ ADC_STATUS k ∧ ADC_STATUS k < baseAdc k + 0x100 := ⟨Nat.le_add_right _ _, Nat.add_lt_add_left (by decide) _⟩
theorem adcRef_near : baseAdc k ≤ ADC_REF k ∧ ADC_REF k < baseAdc k + 0x100 := ⟨Nat.le_add_right _ _, Nat.add_lt_add_left (by decide) _⟩
theorem adcFlags_ne_status : ADC_FLAGS k ≠ ADC_STATUS k := Nat.ne_of_gt (Nat.add_lt_add_left (by decide) _)

theorem converterFault_adcFault (hk : k < 54) : (converterFault k s).adcFault k = true := by
  by_cases hs : s.adcFault k = true
  · rwa [converterFault, if_pos hs]
  · rw [State.adcFault, fget_of_reg (converterFault_reg hk adcStatus_near.1 adcStatus_near.2 (by simpa using hs)), fset_fget_same (by decide)]
    rfl

theorem converterFault_selfcheck (hk : k < 54) (h : s.rbit (ADC_FLAGS k) ADC_FLAGS.selfcheck_fail.lo = true) :
    (converterFault k s).rbit (ADC_FLAGS k) ADC_FLAGS.selfcheck_fail.lo = true := by
  by_cases hs : s.adcFault k = true
  · rwa [converterFault, if_pos hs]
  · obtain ⟨hlost, hrec⟩ := adcReg_ne_rec (adcFlags_near (k := k)).1
    rw [State.rbit, converterFault_reg hk adcFlags_near.1 adcFlags_near.2 (by simpa using hs), fset_reg, if_neg adcFlags_ne_status,
      flag_reg_same hlost hrec, getLsbD_setBit_other (by decide)]
    exact h

/-! ### A self-check (R246) -/

/-- The record of a converter after a self-check that has failed, or passed. -/
def Adc.selfChecked (x : Adc) (bad : Bool) : Adc :=
  let x1 := { x with passes := 0, checkFull := !x.checkFull }
  if x.checkFull then { x1 with fail31 := if bad then x.fail31 + 1 else 0, pass31 := if bad then 0 else x.pass31 + 1 }
  else { x1 with fail30 := if bad then x.fail30 + 1 else 0, pass30 := if bad then 0 else x.pass30 + 1 }

/-- The count of failures running of the input that a self-check takes. -/
def Adc.fails (x : Adc) (full : Bool) : Nat := if full then x.fail31 else x.fail30
def Adc.goods (x : Adc) (full : Bool) : Nat := if full then x.pass31 else x.pass30

theorem goods_other {full : Bool} : x.goods (!full) = if full then x.pass30 else x.pass31 := by
  cases full <;> rfl

theorem selfChecked_turn {bad : Bool} : (x.selfChecked bad).passes = 0 ∧ (x.selfChecked bad).checkFull = (!x.checkFull) ∧ (x.selfChecked bad).rearm = x.rearm := by
  unfold Adc.selfChecked
  dsimp only
  split_ifs <;> exact ⟨rfl, rfl, rfl⟩

theorem selfChecked_counts {bad : Bool} : (x.selfChecked bad).fails x.checkFull = (if bad then x.fails x.checkFull + 1 else 0) ∧
    (x.selfChecked bad).goods x.checkFull = (if bad then 0 else x.goods x.checkFull + 1) ∧
    (x.selfChecked bad).fails (!x.checkFull) = x.fails (!x.checkFull) ∧ (x.selfChecked bad).goods (!x.checkFull) = x.goods (!x.checkFull) := by
  unfold Adc.selfChecked Adc.fails Adc.goods
  cases x.checkFull <;> exact ⟨rfl, rfl, rfl, rfl⟩

/-- A count of either input, by the input checked and the other. -/
theorem fails_iff {full : Bool} {p : Nat → Prop} : (p x.fail30 ∨ p x.fail31) ↔ (p (x.fails full) ∨ p (x.fails (!full))) := by
  cases full
  · exact Iff.rfl
  · exact or_comm

theorem goods_iff {full : Bool} {p : Nat → Prop} : (p x.pass30 ∧ p x.pass31) ↔ (p (x.goods full) ∧ p (x.goods (!full))) := by
  cases full
  · exact Iff.rfl
  · exact and_comm

/-- A self-check has been noted. -/
def State.checkNoted (s : State) (k c : Nat) (bad : Bool) : State :=
  noteFlags k (s.convFlags k (if (s.adc k).checkFull then 31 else 30) 0 c)
    (flagIf bad (ADC_FLAGS k) ADC_FLAGS.selfcheck_fail (adcIdle k (ctlSlot k 0) (setAdc k ((s.adc k).selfChecked bad) s)))

/-- The re-arm ends. -/
def rearmed (k : Nat) (s : State) : State :=
  endCause (.converter k) (fset (ADC_STATUS k) ADC_STATUS.fault 0 (setAdc k { s.adc k with rearm := false } s))

theorem selfCheck_eq {kv : Fin 54} {full : BitVec 18} {c : Nat} {bad : Bool} (hruns : s.adcRuns kv = true) (hpasses : 2048 ≤ (s.adc kv).passes)
    (hactive : (s.adc kv).active = none) (hresume : (s.adc kv).resumeAt = none) (hrun : (s.adc kv).calRun = none)
    (hc : s.trim kv 0 (adcBits kv) (full.toNat % 2 ^ adcBits kv) = c) (hbad : checkFails kv (s.adc kv).checkFull (sampleOf kv c) = bad) :
    exec (.selfCheck kv full) s = .next (
      let y := (s.adc kv).selfChecked bad
      if 2 ≤ y.fail30 ∨ 2 ≤ y.fail31 then converterFault kv (s.checkNoted kv c bad)
      else if (s.adc kv).rearm ∧ 2 ≤ y.pass30 ∧ 2 ≤ y.pass31 then rearmed kv (s.checkNoted kv c bad)
      else s.checkNoted kv c bad) := by
  have hdue : ¬((!s.adcRuns kv || decide ((s.adc kv).passes < 2048) || (s.adc kv).calRun.isSome) = true) := by simp [hruns, hrun, hpasses]
  change execSelfCheck kv full s = _
  unfold execSelfCheck
  dsimp only
  rw [if_neg hdue, adcResume_none hresume, if_neg (by simp [hactive, hresume]), hc, hbad]
  rfl

theorem selfCheck_early {kv : Fin 54} {full : BitVec 18} (h : (s.adc kv).passes < 2048) : exec (.selfCheck kv full) s = .next s := by
  change execSelfCheck kv full s = _
  unfold execSelfCheck
  dsimp only
  rw [if_pos (by simp [h])]

theorem checkNoted_adc {c : Nat} {bad : Bool} : ∃ z, (s.checkNoted k c bad).adc k = { (s.adc k).selfChecked bad with active := none, lostNow := 0, resumeAt := z } := by
  have hidle := adcIdle_adc (k := k) (len := ctlSlot k 0) (s := setAdc k ((s.adc k).selfChecked bad) s)
  rw [setAdc_adc_same] at hidle
  exact ⟨_, noteFlags_adc.trans (Eq.trans (adc_of_kept (flagIf_kept (by decide) (by decide) (.refl _ _))) hidle)⟩

/-- A flag leaves the bits of its register that are set. -/
theorem flagIf_rbit_kept {c : Bool} (h : a ≠ REC_LOST ∧ a ≠ REC_STATUS) (hb : s.rbit a i = true) : (flagIf c a f s).rbit a i = true := by
  unfold flagIf
  split_ifs
  · rw [State.rbit] at hb
    rw [State.rbit, flag_reg_same h.1 h.2, setBit, BitVec.getLsbD_or, hb]
    rfl
  · exact hb

theorem checkNoted_failed {c : Nat} : (s.checkNoted k c true).rbit (ADC_FLAGS k) ADC_FLAGS.selfcheck_fail.lo = true := by
  have hrec := adcReg_ne_rec (adcFlags_near (k := k)).1
  unfold State.checkNoted noteFlags
  refine flagIf_rbit_kept hrec (flagIf_rbit_kept hrec ?_)
  rw [flagIf, if_pos rfl, flag_rbit (by decide) hrec]

theorem checkNoted_quiet {c : Nat} (hinv : (s.convFlags k (if (s.adc k).checkFull then 31 else 30) 0 c).testBit resInvalid = false)
    (hover : (s.convFlags k (if (s.adc k).checkFull then 31 else 30) 0 c).testBit resOver = false) : (s.checkNoted k c false).regs = s.regs := by
  rw [State.checkNoted, noteFlags_none hinv hover]
  rfl

theorem rearmed_adc : (rearmed k s).adc k = { s.adc k with rearm := false } := setAdc_adc_same

theorem rearmed_adcFault : (rearmed k s).adcFault k = false := by
  have hfault : (rearmed k s).fget (ADC_STATUS k) ADC_STATUS.fault = 0 :=
    fset_fget_same (s := setAdc k { s.adc k with rearm := false } s) (f := ADC_STATUS.fault) (v := 0) (by decide)
  rw [State.adcFault, hfault]
  rfl

/-- A failure counts; the second one running of an input is a fault. -/
theorem selfCheck_fails {kv : Fin 54} {full : BitVec 18} {c : Nat} (hruns : s.adcRuns kv = true) (hpasses : 2048 ≤ (s.adc kv).passes)
    (hactive : (s.adc kv).active = none) (hresume : (s.adc kv).resumeAt = none) (hrun : (s.adc kv).calRun = none)
    (hc : s.trim kv 0 (adcBits kv) (full.toNat % 2 ^ adcBits kv) = c) (hbad : checkFails kv (s.adc kv).checkFull (sampleOf kv c) = true) :
    ∃ t, exec (.selfCheck kv full) s = .next t ∧ (t.adc kv).passes = 0 ∧ (t.adc kv).checkFull = (!(s.adc kv).checkFull) ∧
      (t.adc kv).fails (s.adc kv).checkFull = (s.adc kv).fails (s.adc kv).checkFull + 1 ∧ t.rbit (ADC_FLAGS kv) ADC_FLAGS.selfcheck_fail.lo = true ∧
      (2 ≤ (s.adc kv).fails (s.adc kv).checkFull + 1 → t.adcFault kv = true) := by
  obtain ⟨hzero, hturn, -⟩ := selfChecked_turn (x := s.adc kv) (bad := true)
  obtain ⟨hfails, hgoods, -, -⟩ := selfChecked_counts (x := s.adc kv) (bad := true)
  obtain ⟨z, hadc⟩ := checkNoted_adc (s := s) (k := kv) (c := c) (bad := true)
  have hflag := checkNoted_failed (s := s) (k := kv) (c := c)
  rw [if_pos rfl] at hfails hgoods
  have hnoRearm : ¬((s.adc kv).rearm ∧ 2 ≤ ((s.adc kv).selfChecked true).pass30 ∧ 2 ≤ ((s.adc kv).selfChecked true).pass31) := fun ⟨_, h⟩ =>
    absurd ((goods_iff (full := (s.adc kv).checkFull) (p := (2 ≤ ·))).mp h).1 (by omega)
  have hcounted : ∀ {y : Adc}, y = { (s.adc kv).selfChecked true with active := none, lostNow := 0, resumeAt := z } →
      y.passes = 0 ∧ y.checkFull = (!(s.adc kv).checkFull) ∧ y.fails (s.adc kv).checkFull = (s.adc kv).fails (s.adc kv).checkFull + 1 := fun h =>
    h ▸ ⟨hzero, hturn, hfails⟩
  refine ⟨_, selfCheck_eq hruns hpasses hactive hresume hrun hc hbad, ?_⟩
  dsimp only
  split_ifs with hfault
  · obtain ⟨h1, h2, h3⟩ := hcounted (converterFault_adc.trans hadc)
    exact ⟨h1, h2, h3, converterFault_selfcheck kv.isLt hflag, fun _ => converterFault_adcFault kv.isLt⟩
  · obtain ⟨h1, h2, h3⟩ := hcounted hadc
    exact ⟨h1, h2, h3, hflag, fun h => absurd ((fails_iff (p := (2 ≤ ·))).mpr (.inl (hfails ▸ h))) hfault⟩

/-- A pass ends a row of failures, and the second pass of both inputs a re-arm. -/
theorem selfCheck_passes {kv : Fin 54} {full : BitVec 18} {c : Nat} (hruns : s.adcRuns kv = true) (hpasses : 2048 ≤ (s.adc kv).passes)
    (hactive : (s.adc kv).active = none) (hresume : (s.adc kv).resumeAt = none) (hrun : (s.adc kv).calRun = none)
    (hc : s.trim kv 0 (adcBits kv) (full.toNat % 2 ^ adcBits kv) = c) (hbad : checkFails kv (s.adc kv).checkFull (sampleOf kv c) = false)
    (h30 : (s.adc kv).fail30 < 2) (h31 : (s.adc kv).fail31 < 2) :
    ∃ t, exec (.selfCheck kv full) s = .next t ∧ (t.adc kv).passes = 0 ∧ (t.adc kv).checkFull = (!(s.adc kv).checkFull) ∧
      (t.adc kv).fails (s.adc kv).checkFull = 0 ∧
      ((s.adc kv).rearm = false → (s.convFlags kv (if (s.adc kv).checkFull then 31 else 30) 0 c).testBit resInvalid = false →
        (s.convFlags kv (if (s.adc kv).checkFull then 31 else 30) 0 c).testBit resOver = false → t.regs = s.regs) ∧
      ((s.adc kv).rearm = true → 1 ≤ (s.adc kv).goods (s.adc kv).checkFull → 2 ≤ (s.adc kv).goods (!(s.adc kv).checkFull) →
        t.adcFault kv = false ∧ (t.adc kv).rearm = false) := by
  obtain ⟨hzero, hturn, -⟩ := selfChecked_turn (x := s.adc kv) (bad := false)
  obtain ⟨hfails, hgoods, hfails', hgoods'⟩ := selfChecked_counts (x := s.adc kv) (bad := false)
  obtain ⟨z, hadc⟩ := checkNoted_adc (s := s) (k := kv) (c := c) (bad := false)
  rw [if_neg (by decide)] at hfails hgoods
  have hless : ¬(2 ≤ (s.adc kv).fails (s.adc kv).checkFull ∨ 2 ≤ (s.adc kv).fails (!(s.adc kv).checkFull)) := fun h => by
    have := (fails_iff (x := s.adc kv) (p := (2 ≤ ·))).mpr h
    omega
  have hnoFault : ¬(2 ≤ ((s.adc kv).selfChecked false).fail30 ∨ 2 ≤ ((s.adc kv).selfChecked false).fail31) := fun h => by
    have := (fails_iff (full := (s.adc kv).checkFull) (p := (2 ≤ ·))).mp h
    omega
  have hgoodsIff := goods_iff (x := (s.adc kv).selfChecked false) (full := (s.adc kv).checkFull) (p := (2 ≤ ·))
  refine ⟨_, selfCheck_eq hruns hpasses hactive hresume hrun hc hbad, ?_⟩
  dsimp only
  rw [if_neg hnoFault]
  by_cases hrearm : (s.adc kv).rearm ∧ 2 ≤ ((s.adc kv).selfChecked false).pass30 ∧ 2 ≤ ((s.adc kv).selfChecked false).pass31
  · rw [if_pos hrearm, rearmed_adc, hadc]
    exact ⟨hzero, hturn, hfails, fun h => absurd hrearm.1 (by simp [h]), fun _ _ _ => ⟨rearmed_adcFault, rfl⟩⟩
  · rw [if_neg hrearm, hadc]
    exact ⟨hzero, hturn, hfails, fun _ => checkNoted_quiet, fun h h1 h2 => absurd ⟨h, hgoodsIff.mpr ⟨by omega, by omega⟩⟩ hrearm⟩

/-! ### References (R232, R233) -/

theorem settledRefs_bit (hi : i < 4) : (s.settledRefs k).testBit i = (s.reg (ADC_REF k)).getLsbD i := by
  rw [State.settledRefs, show (16 : Nat) = 2 ^ 4 from rfl, Nat.testBit_mod_two_pow, decide_eq_true hi, Bool.true_and]
  rfl

theorem settleWhere_reg {dc : Bool} {p : Nat → Bool} (h : b ≠ ADC_FLAGS k) (h' : b ≠ REC_LOST ∧ b ≠ REC_STATUS) : (settleWhere k dc p s).reg b = s.reg b :=
  foldl_proj (π := fun u => u.reg b) fun u y => by
    split_ifs
    · exact settleEvent_reg h h'.1 h'.2
    · rfl

theorem referenceSettled_takes {kv : Fin 54} {ref : Fin 4} {level mean kept : Nat} (hex : refExists kv ref = true) (hruns : s.adcRuns kv = true)
    (hjudged : s.vrefJudged kv ref true = true) (hsettles : s.refSettles kv ref level mean kept = true) :
    ((s.adc kv).lostRefs.testBit ref = false →
      exec (.referenceSettled kv ⟨ref, level, mean, kept⟩) s = .next (setReg (ADC_REF kv) (setBit ref (s.reg (ADC_REF kv))) s)) ∧
    ((s.adc kv).lostRefs.testBit ref = true → ∃ t, exec (.referenceSettled kv ⟨ref, level, mean, kept⟩) s = .next t ∧ (t.settledRefs kv).testBit ref = true) := by
  have htakes : ¬((!refExists kv ref || !s.adcRuns kv || !s.vrefJudged kv ref true || !s.refSettles kv ref level mean kept) = true) := by
    simp [hex, hruns, hjudged, hsettles]
  have hexec : exec (.referenceSettled kv ⟨ref, level, mean, kept⟩) s = .next _ := congrArg Host.Outcome.next (if_neg htakes)
  refine ⟨fun h => hexec.trans (congrArg Host.Outcome.next (if_neg (by simp [h]))), fun h => ⟨_, hexec.trans (congrArg Host.Outcome.next (if_pos h)), ?_⟩⟩
  have hflags : ADC_REF kv ≠ ADC_FLAGS kv := Nat.ne_of_lt (Nat.add_lt_add_left (by decide) _)
  rw [settledRefs_bit ref.isLt, settleWhere_reg hflags (adcReg_ne_rec adcRef_near.1), setAdc_reg, setReg_reg_same, getLsbD_setBit (by omega)]

theorem referenceSettled_not {kv : Fin 54} {ref : Fin 4} {level mean kept : Nat} (h : s.refSettles kv ref level mean kept = false) :
    exec (.referenceSettled kv ⟨ref, level, mean, kept⟩) s = .next s := congrArg Host.Outcome.next (if_pos (by simp [h]))

theorem referenceLost_not {kv : Fin 54} {ref : Fin 4} {level mean kept : Nat} (h : (s.settledRefs kv).testBit ref = false ∨ s.refLost ref level mean = false) :
    exec (.referenceLost kv ⟨ref, level, mean, kept⟩) s = .next s := by
  change execReferenceLost kv ⟨ref, level, mean, kept⟩ s = _
  unfold execReferenceLost
  dsimp only
  rcases h with h | h
  · have hnone : loseRef kv ref s = s := if_pos (by simp [h])
    rw [hnone, ite_self]
  · rw [if_neg (by simp [h])]

/-- The record of a converter that has lost reference `i`. -/
def Adc.refLost (x : Adc) (k i : Nat) : Adc :=
  let used := (seqRefs x.pl k).testBit i
  { x with lostNow := x.lostNow ||| 2 ^ i, lostRefs := x.lostRefs ||| 2 ^ i, refWait := x.refWait || used, scanned := x.scanned && !used, scanClean := x.scanClean && !used }

theorem loseRef_adc (h : (s.settledRefs k).testBit i = true) : (loseRef k i s).adc j = if j = k then (s.adc k).refLost k i else s.adc j := by
  unfold loseRef
  rw [if_neg (by simp [h])]
  exact (adc_of_kept (feedLostInjected_kept (by decide) (feedLost_kept (by decide) (.refl _ _)))).trans (setAdc_adc.trans
    (ite_congr rfl (fun _ => rfl) fun _ => adc_of_kept (setFlag_kept (by decide) (by decide) (setReg_kept (by decide) (.refl _ s)))))

theorem loseRef_ref (h : (s.settledRefs k).testBit i = true) : (loseRef k i s).reg (ADC_REF k) = setBit (8 + i) (clrBit i (s.reg (ADC_REF k))) := by
  have hrec := adcReg_ne_rec (adcRef_near (k := k)).1
  unfold loseRef
  rw [if_neg (by simp [h])]
  refine (reg_of_kept (feedLostInjected_kept (by decide) (feedLost_kept (by decide) (.refl _ _)))).trans ?_
  rw [setAdc_reg, setFlag_reg_same hrec.1 hrec.2, setReg_reg_same]

theorem referenceLost_takes {kv : Fin 54} {ref : Fin 4} {level mean kept : Nat} (hset : (s.settledRefs kv).testBit ref = true)
    (hjudged : s.vrefJudged kv ref false = true) (hlost : s.refLost ref level mean = true) :
    ∃ t, exec (.referenceLost kv ⟨ref, level, mean, kept⟩) s = .next t ∧ (t.settledRefs kv).testBit ref = false ∧
      t.rbit (ADC_REF kv) (8 + ref) = true ∧ (t.adc kv).lostNow.testBit ref = true ∧ (t.adc kv).lostRefs.testBit ref = true ∧
      ((seqRefs (s.adc kv).pl kv).testBit ref = true → (t.adc kv).refWait = true ∧ t.wantsScan kv = true) ∧ ∀ j, j ≠ kv.val → t.adc j = s.adc j := by
  have hadc : (loseRef kv ref s).adc kv = (s.adc kv).refLost kv ref := (loseRef_adc hset).trans (if_pos rfl)
  have hreg := loseRef_ref hset
  refine ⟨loseRef kv ref s, congrArg Host.Outcome.next (if_pos (by simp [hjudged, hlost])), ?_, ?_, ?_, ?_, fun hused => ?_, fun j hj => (loseRef_adc hset).trans (if_neg hj)⟩
  · rw [settledRefs_bit ref.isLt, hreg, getLsbD_setBit_other (by omega), getLsbD_clrBit]
    simp
  · rw [State.rbit, hreg, getLsbD_setBit (by omega)]
  · rw [hadc]
    simp [Adc.refLost, Nat.testBit_or, Nat.testBit_two_pow_self]
  · rw [hadc]
    simp [Adc.refLost, Nat.testBit_or, Nat.testBit_two_pow_self]
  · have hwait : ((loseRef kv ref s).adc kv).refWait = true := by
      rw [hadc]
      simp [Adc.refLost, hused]
    refine ⟨hwait, ?_⟩
    unfold State.wantsScan
    simp [hwait]

/-! ### O29 -/

theorem rawCode_eq {code : BitVec 16} {fine : BitVec 2} : rawCode k code fine = if 48 ≤ k ∧ k < 52 then code.toNat * 4 + fine.toNat else code.toNat := by
  simp [rawCode, adcSensor]

/-- A slot of the scan mask. -/
theorem scanSlot_shows {kv : Fin 54} {code : BitVec 16} {fine : BitVec 2} (hruns : s.adcRuns kv = true) (hrest : AtRest s kv) (hactive : (s.adc kv).active = none)
    (hresume : (s.adc kv).resumeAt = none) (hrun : (s.adc kv).calRun = none) (hask : (s.adc kv).calAsk = none) (hscan : (s.adc kv).scanning = true) (hk : 48 ≤ kv.val) :
    ∃ t, exec (.conversionSlotEnd kv code fine) s = .next t ∧ (t.adc kv).pos = nextPlace (s.adc kv).pos (scanInputs (s.adc kv).pl kv).length ∧
      ∀ e, ResKept kv e (s.scanConverted kv (rawCode kv code fine)) t := by
  obtain ⟨hpos, hreg⟩ := slotEnd_atRest (n := (scanInputs (s.adc kv).pl kv).length) hrest hask (scanConverted_slotKept (n := rawCode kv code fine))
  exact ⟨_, conversionSlotEnd_scan hruns hactive hresume hrun hscan hk, hpos, fun e => ⟨hreg _ resVal_above.ne.2.1, hreg _ resTime_above.ne.2.1⟩⟩

/-- A slot of the sequence. -/
theorem seqSlot_shows {kv : Fin 54} {code : BitVec 16} {fine : BitVec 2} {ent : List Word} (hruns : s.adcRuns kv = true) (hrest : AtRest s kv)
    (hactive : (s.adc kv).active = none) (hresume : (s.adc kv).resumeAt = none) (hrun : (s.adc kv).calRun = none) (hask : (s.adc kv).calAsk = none)
    (hscan : (s.adc kv).scanning = false) (hent : (adcSeq (s.adc kv).pl kv)[(s.adc kv).pos]? = some ent) (hk : 48 ≤ kv.val ∨ 16 ≤ Ent.input (Ent.ctl ent))
    (hfilt : Ent.filt (Ent.ctl ent) = 0) (hcurve : Ent.curve (Ent.ctl ent) = 0) (hcal : (s.adc kv).calSettle = none) (hoff : s.fget (ADC_BN_CFG kv) ADC_BN_CFG.en = 0) :
    ∃ t, exec (.conversionSlotEnd kv code fine) s = .next t ∧ (t.adc kv).pos = nextPlace (s.adc kv).pos (adcSeq (s.adc kv).pl kv).length ∧
      ∀ e, ResKept kv e (s.seqConverted kv (rawCode kv code fine) ent) t := by
  obtain ⟨hslot, -⟩ := seqConverted_shows (ent := ent) (n := rawCode kv code fine) rfl kv.isLt hfilt hcurve hoff hcal
  obtain ⟨hpos, hreg⟩ := slotEnd_atRest (n := (adcSeq (s.adc kv).pl kv).length) hrest hask hslot
  exact ⟨_, conversionSlotEnd_seq hruns hactive hresume hrun hscan hent hk, hpos, fun e => ⟨hreg _ resVal_above.ne.2.1, hreg _ resTime_above.ne.2.1⟩⟩

theorem injectedRequest_shows {kv : Fin 54} {r : InjReq} {rest : List InjReq} (hin : (s.adc kv).incoming = r :: rest) (hruns : s.adcRuns kv = true)
    (hrun : (s.adc kv).calRun = none) (hwait : ∀ z, (s.adc kv).resumeAt = some z → s.now < z) :
    ∃ t, exec (.injectedRequest kv) s = .next t ∧ t.regs = s.regs ∧ (∀ j, j ≠ kv.val → t.adc j = s.adc j) ∧
      ((s.adc kv).active = none → (s.adc kv).resumeAt = none → t.adc kv = { s.adc kv with incoming := rest, active := some r, lostNow := 0 }) ∧
      ((s.adc kv).active ≠ none ∨ (s.adc kv).resumeAt ≠ none → t.adc kv = { s.adc kv with incoming := rest, waiting := insertReq r (s.adc kv).waiting }) := by
  refine ⟨_, injectedRequest_free hin hruns hrun hwait, rfl, fun j hj => (setAdc_adc_other hj).trans (setAdc_adc_other hj), fun ha hr => ?_, fun h => ?_⟩
  · rw [setAdc_adc_same, if_neg (by simp [ha, hr])]
  · have hbusy : ((s.adc kv).active.isSome || (s.adc kv).resumeAt.isSome) = true := by
      simpa [Option.isSome_iff_ne_none] using h
    rw [setAdc_adc_same, if_pos hbusy]

theorem loop_of_sc {l : Nat} (h : t.sc = s.sc) : t.loop_ l = s.loop_ l := congrArg (fun x : Sc => look (fun _ => ({} : Loop)) x.loops l) h

theorem answerReady_loop {r : InjReq} {c l : Nat} : (s.answerReady k r c).loop_ l = s.loop_ l :=
  loop_of_sc (answerReady_kept (p := .sc) (by decide) (by decide) (by decide))

/-- An answer leaves, and its converter idles. -/
theorem injectedResult_shows {kv : Fin 54} {code : BitVec 16} {fine : BitVec 2} {r : InjReq} {c : Nat} (hactive : (s.adc kv).active = some r)
    (hresume : (s.adc kv).resumeAt = none) (hc : s.trim kv (Ent.gain r.ctl) (adcBits kv) (rawCode kv code fine) = c) :
    ∃ t, exec (.injectedResult kv code fine) s = .next t ∧ (t.adc kv).active = none ∧ (t.adc kv).waiting = (s.adc kv).waiting ∧
      (t.adc kv).resumeAt = some ((s.adc kv).slotAt + s.slotNs kv + ctlSlot kv r.ctl) ∧
      t.sc = (deliver kv r (s.answerWord kv r c) (s.now - convPhase kv) (s.answerReady kv r c)).sc ∧
      t.motionIn = (deliver kv r (s.answerWord kv r c) (s.now - convPhase kv) (s.answerReady kv r c)).motionIn ∧
      t.supplyIn = (deliver kv r (s.answerWord kv r c) (s.now - convPhase kv) (s.answerReady kv r c)).supplyIn ∧
      t.testIn = (deliver kv r (s.answerWord kv r c) (s.now - convPhase kv) (s.answerReady kv r c)).testIn := by
  obtain ⟨hnone, hwait, hidle⟩ := answerReady_adc (s := s) (k := kv) (r := r) (c := c)
  have hadc : (showAdc kv (deliver kv r (s.answerWord kv r c) (s.now - convPhase kv) (s.answerReady kv r c))).adc kv = (s.answerReady kv r c).adc kv :=
    showAdc_adc.trans (adc_of_kept (deliver_kept (by decide) (by decide) (by decide) (.refl _ _)))
  subst hc
  exact ⟨_, injectedResult_eq hactive hresume, hadc ▸ hnone, hadc ▸ hwait, hadc ▸ hidle, rfl, rfl, rfl, rfl⟩

/-- A block asks for its bias (R94). -/
theorem biasConversionRequest_cases {block : Fin 48} {div : Nat} (hdiv : (cutReg (s.planeOf (tgtRx block)) (RX_BLK_BIAS_CFG block)).toNat % 65536 = div) :
    (div = 0 → exec (.biasConversionRequest block) s = .next (fset (RX_BLK_BIAS_SNS block) RX_BLK_BIAS_SNS.valid 0 s)) ∧
    (div ≠ 0 → s.loopState (8 + block) = 0 → (s.blk block).biasAt + 1000000 ≤ s.now → s.adcRuns block = true →
      exec (.biasConversionRequest block) s = .next (setAdc block { s.adc block with
        incoming := insertReq { src := .bias, ctl := 16 } (s.adc block).incoming } (setBlk block { s.blk block with biasAt := s.now } s))) ∧
    (div ≠ 0 → s.loopState (8 + block) ≠ 0 ∨ s.now < (s.blk block).biasAt + 1000000 → exec (.biasConversionRequest block) s = .next s) := by
  subst hdiv
  have hexec : exec (.biasConversionRequest block) s = .next (if (cutReg (s.planeOf (tgtRx block)) (RX_BLK_BIAS_CFG block)).toNat % 65536 = 0 then _ else _) := rfl
  refine ⟨fun h => hexec.trans (congrArg Host.Outcome.next (if_pos h)), fun h hloop hdue hruns => ?_, fun h hnot => ?_⟩
  · rw [hexec, if_neg h, if_neg (by simp [hloop, hruns, hdue])]
    rfl
  · rw [hexec, if_neg h, if_pos (by tauto)]

/-- Settles O29: each command by its lemma above. -/
theorem convertersConvertAnswerAndCheckThemselves : Obligations.ConvertersConvertAnswerAndCheckThemselves := by
  intro kv block ref level mean kept code fine full s k x sq raw checked z quiet
  have hraw : rawCode k code fine = raw := rawCode_eq
  have hrest : quiet → AtRest s k := fun ⟨_, _, _, _, hepoch, hplane, hdue, hwait, hscan, _⟩ => ⟨hepoch, hplane, hdue, hwait, hscan⟩
  refine ⟨fun hruns hq hscan hk => ?_, fun ent hruns hq hscan hent hk hfilt hcurve hcal hoff => ?_, fun r rest hin hruns => ⟨fun hrun hwait => ?_, fun v hrun hresume hgood => ?_⟩,
    fun r hactive hresume => ?_, fun r rest z hruns hresume hdue hwait => ?_, fun hruns hpasses hactive hresume hrun => ⟨fun hfails => ?_, fun hfails h30 h31 => ?_⟩,
    fun hruns hpasses => ?_, fun hex hruns hjudged hsettles => ?_, referenceSettled_not, referenceLost_not, referenceLost_takes, biasConversionRequest_cases rfl⟩
  · obtain ⟨hactive, hrun, hask, hresume, -⟩ := id hq
    obtain ⟨t, hexec, hpos, hkept⟩ := scanSlot_shows (code := code) (fine := fine) hruns (hrest hq) hactive hresume hrun hask hscan hk
    refine ⟨t, hexec, fun e ent hent => ?_, hpos⟩
    obtain ⟨hval, htime⟩ := hkept e
    obtain ⟨hin, hout⟩ := scanConverted_entry (n := rawCode k code fine) hent
    rw [hraw] at hval htime hin hout
    exact ⟨fun h => ⟨hval.trans (hin h).1, htime.trans (hin h).2⟩, fun h => ⟨hval.trans (hout h).1, htime.trans (hout h).2⟩⟩
  · obtain ⟨hactive, hrun, hask, hresume, -⟩ := id hq
    obtain ⟨t, hexec, hpos, hkept⟩ := seqSlot_shows (code := code) (fine := fine) hruns (hrest hq) hactive hresume hrun hask hscan hent hk hfilt hcurve hcal hoff
    obtain ⟨-, hval, htime, hother⟩ := seqConverted_shows (ent := ent) (n := raw) rfl kv.isLt hfilt hcurve hoff hcal
    rw [hraw] at hkept
    exact ⟨t, hexec, (hkept _).2.trans htime, (hkept _).1.trans hval, fun e he hne => (hkept e).1.trans (hother e he hne), hpos⟩
  · exact injectedRequest_shows hin hruns hrun hwait
  · exact injectedRequest_stale hin hruns hrun hresume hgood
  · intro c w
    obtain ⟨t, hexec, hnone, hwait, hidle, hsc, hmotion, hsupply, htest⟩ := injectedResult_shows (code := code) (fine := fine) hactive hresume
      (congrArg (s.trim k (Ent.gain r.ctl) (adcBits k)) hraw)
    have hready : ∀ {p : Part}, p ≠ .regs → p ≠ .mgmt → p ≠ .adcs → Kept p s (s.answerReady k r c) := answerReady_kept
    obtain ⟨hmotion', hsupply', htest'⟩ := hready (p := .motionIn) (by decide) (by decide) (by decide)
    refine ⟨t, hexec, hnone, hwait, hidle, fun l hl => ?_, fun n hn => ?_, fun hb => ?_⟩
    · have hloop := deliver_loop (s := s.answerReady k r c) (k := k) (w := w) (i := z) hl
      rw [answerReady_loop] at hloop
      exact (congrArg Loop.inbox (loop_of_sc hsc)).trans hloop
    · have hsf := deliver_sf (s := s.answerReady k r c) (k := k) (w := w) (i := z) hn
      rw [hmotion', hsupply', htest'] at hsf
      exact hmotion ▸ hsupply ▸ htest ▸ hsf
    · obtain ⟨hb1, hb2⟩ := deliver_bias (s := s.answerReady k r c) (k := k) (w := w) (i := z) hb
      exact ⟨hsc.trans (hb1.trans (hready (p := .sc) (by decide) (by decide) (by decide))), hmotion.trans (hb2.trans hmotion')⟩
  · exact conversionSlotEnd_interrupted hresume hdue hwait
  · exact selfCheck_fails hruns hpasses hactive hresume hrun rfl hfails
  · have hpass := selfCheck_passes hruns hpasses hactive hresume hrun rfl hfails h30 h31
    rw [goods_other] at hpass
    exact hpass
  · exact selfCheck_early hpasses
  · exact referenceSettled_takes hex hruns hjudged hsettles

end Sys2Proof.Machine
end

/-!
PROOFS of the architecture statements, part 23: the conditions of the safety channels, how a channel trips or goes to FAULT, and what arrives at it
(R243, R405, R407, R408, R412 to R419, R424, R426, R427), O33.
-/
section
namespace Sys2Proof.Machine

variable {s t u : State} {a b e i j n x y st v : Nat} {w : Word} {f g : Fld} {on : Bool} {c : SfChan} {m : Mode}

/-! ### What a reaction of a channel leaves alone -/

/-- What a reaction of channel `x` leaves alone: its peer, the set in force, the taps, the clock, and the registers that do not show its state. -/
structure SfLocal (x : Nat) (s t : State) : Prop where
  peer : ∀ y, y ≠ x → t.sfc y = s.sfc y
  set : t.sf.set = s.sf.set
  tapA : t.tx.tapA = s.tx.tapA
  tapB : t.tx.tapB = s.tx.tapB
  clock : t.clock = s.clock
  status : ∀ g : Fld, (g.lo + g.width ≤ (sfField x).lo ∨ (sfField x).lo + (sfField x).width ≤ g.lo) → t.fget SF_STATUS g = s.fget SF_STATUS g
  regs : ∀ a, InHkSfSc a → a ≠ SF_STATUS → a ≠ SF_CAUSE → a ≠ SF_FLAGS → t.reg a = s.reg a

theorem SfLocal.refl : SfLocal x s s := ⟨fun _ _ => rfl, rfl, rfl, rfl, rfl, fun _ _ => rfl, fun _ _ _ _ _ => rfl⟩

theorem SfLocal.trans (h : SfLocal x s t) (h' : SfLocal x t u) : SfLocal x s u :=
  ⟨fun y hy => (h'.peer y hy).trans (h.peer y hy), h'.set.trans h.set, h'.tapA.trans h.tapA, h'.tapB.trans h.tapB, h'.clock.trans h.clock,
    fun g hg => (h'.status g hg).trans (h.status g hg), fun a ha h1 h2 h3 => (h'.regs a ha h1 h2 h3).trans (h.regs a ha h1 h2 h3)⟩

theorem sfReg_inHkSfSc : InHkSfSc SF_STATUS ∧ InHkSfSc SF_CAUSE ∧ InHkSfSc SF_FLAGS := by decide

theorem sfField_fits : (sfField x).lo + (sfField x).width ≤ 32 ∧ (sfField x).width = 4 := by
  unfold sfField
  split_ifs <;> decide

theorem sfField_apart (hx : x < 2) (hy : y < 2) (h : y ≠ x) :
    (sfField y).lo + (sfField y).width ≤ (sfField x).lo ∨ (sfField x).lo + (sfField x).width ≤ (sfField y).lo := by
  obtain ⟨rfl, rfl⟩ | ⟨rfl, rfl⟩ : x = 0 ∧ y = 1 ∨ x = 1 ∧ y = 0 := by omega
  · decide
  · decide

theorem SfLocal.state (h : SfLocal x s t) (hx : x < 2) (hy : y < 2) (hne : y ≠ x) : t.sfState y = s.sfState y := h.status _ (sfField_apart hx hy hne)
theorem SfLocal.word (h : SfLocal x s t) : t.sfWord i = s.sfWord i := by rw [State.sfWord, State.sfWord, h.set]
theorem SfLocal.time (h : SfLocal x s t) : t.now = s.now := by
  change t.clock.tbase.toNat = s.clock.tbase.toNat
  rw [h.clock]

theorem setSfc_local : SfLocal x s (setSfc x c s) := ⟨fun _ hy => setSfc_sfc.trans (if_neg hy), rfl, rfl, rfl, rfl, fun _ _ => rfl, fun _ _ _ _ _ => rfl⟩

theorem showCause_local : SfLocal x s (showCause s) :=
  ⟨fun _ _ => rfl, rfl, rfl, rfl, rfl, fun _ _ => fget_of_reg (setReg_reg_other (by decide)), fun _ _ _ h _ => setReg_reg_other h⟩

theorem sfFlagIf_local : SfLocal x s (flagIf on SF_FLAGS f s) := by
  have hkept : ∀ p, p ≠ .regs → p ≠ .mgmt → Kept p s (flagIf on SF_FLAGS f s) := fun p h h' => flagIf_kept h h' (.refl p s)
  have hsf : (flagIf on SF_FLAGS f s).sf = s.sf := hkept .sf (by decide) (by decide)
  have htx : (flagIf on SF_FLAGS f s).tx = s.tx := hkept .tx (by decide) (by decide)
  have htime : (flagIf on SF_FLAGS f s).time = s.time := hkept .time (by decide) (by decide)
  refine ⟨fun y _ => ?_, congrArg _ hsf, congrArg _ htx, congrArg _ htx, ?_, fun g _ => fget_of_reg (flagIf_reg (by decide) (by decide) (by decide)),
    fun a ha _ _ h => flagIf_reg h ha.ne_rec.1 ha.ne_rec.2⟩
  · rw [State.sfc, hsf]
    rfl
  · rw [State.clock, htime]
    rfl

theorem toConfigured_sf : (toConfigured s).sf = s.sf :=
  toConfigured_kept (p := .sf) (by decide) (by decide) (by decide) (by decide) (by decide) (by decide) (by decide) (by decide) (.refl _ s)

/-- The records that the count tap and the charge codes wait in. -/
def State.taps (s : State) : List (Nat × Nat × Nat) × List (Nat × Nat × Nat × Bool) := (s.tx.tapB, s.tx.tapA)

theorem taps_of_kept (h : Kept .tx s t) : t.taps = s.taps := congrArg (fun z : Tx => (z.tapB, z.tapA)) h

theorem withTx_taps {z : Bool} : ({ s with tx := { s.tx with shooting := z, checks := [] } } : State).taps = s.taps := rfl

theorem stopShooting_taps : (stopShooting s).taps = s.taps := by
  unfold stopShooting
  dsimp only
  refine (taps_of_kept (flagIf_kept (by decide) (by decide) (fsets_kept (by decide) (.refl _ _)))).trans ?_
  rw [withTx_taps, taps_of_kept (stampChanges_kept (by decide) (slewFinish_kept (by decide) (fgFill_kept (by decide) (by decide) (by decide) (.refl _ _)))),
    forUp_proj (π := State.taps) fun j u => taps_of_kept (stopCell_kept (by decide) (.refl _ u)),
    forUp_proj (π := State.taps) fun j u => taps_of_kept (stopBlock_kept (by decide) (by decide) (by decide) (.refl _ u)),
    forUp_proj (π := State.taps) fun j u => ?_, forUp_proj (π := State.taps) fun j u => ?_]
  · unfold stopPort
    dsimp only
    split_ifs <;> rfl
  · unfold stopSeq
    dsimp only
    split_ifs <;> rfl

theorem toConfigured_taps : (toConfigured s).taps = s.taps := by
  unfold toConfigured
  split
  · exact stopShooting_taps
  · rfl
  · rfl

theorem toConfigured_local : SfLocal x s (toConfigured s) :=
  ⟨fun y _ => congrArg (fun z : Sf => look (fun _ => ({} : SfChan)) z.chans y) toConfigured_sf, congrArg _ toConfigured_sf, congrArg (fun z => z.2) toConfigured_taps,
    congrArg (fun z => z.1) toConfigured_taps, clock_of_calm (toConfigured_calm (a := LIVE_EPOCH) (by decide)), fun _ _ => fget_of_reg (toConfigured_reg sfReg_inHkSfSc.1),
    fun _ h _ _ _ => toConfigured_reg h⟩

theorem armIfReady_local : SfLocal x s (armIfReady s) := by
  unfold armIfReady
  dsimp only
  split_ifs
  · exact ⟨fun _ _ => rfl, rfl, rfl, rfl, rfl, fun _ _ => rfl, fun _ _ _ _ _ => rfl⟩
  · exact .refl

/-! ### A condition appears or ends (R408) -/

theorem setCause_local : SfLocal x s (setCause x n on s) := by
  unfold setCause
  dsimp only
  split_ifs
  · exact .refl
  · exact setSfc_local.trans showCause_local

theorem setCause_sfc : (setCause x n on s).sfc x =
    { s.sfc x with cause := if (s.sfc x).cause.testBit n = on then (s.sfc x).cause else (s.sfc x).cause ^^^ 2 ^ n } := by
  unfold setCause
  dsimp only
  split_ifs
  · rfl
  · exact setSfc_sfc_same

theorem setCause_reg (h : b ≠ SF_CAUSE) : (setCause x n on s).reg b = s.reg b := by
  unfold setCause
  dsimp only
  split_ifs
  · rfl
  · exact setReg_reg_other h

theorem setCause_state : (setCause x n on s).sfState y = s.sfState y := fget_of_reg (setCause_reg (by decide))
theorem setCause_mode : (setCause x n on s).mode = s.mode := setCause_kept (p := .mode) (by decide) (by decide) (.refl _ s)

theorem setCause_has : (setCause x n true s).sfHas x n = true := by
  rw [State.sfHas, setCause_sfc]
  dsimp only
  split_ifs with h
  · exact h
  · rw [Nat.testBit_xor, Nat.testBit_two_pow_self]
    simpa using h

/-! ### A channel changes its state (R405, R407, R424) -/

/-- The record of a channel that goes from state `old` to state `st` at instant `i`. -/
def SfChan.entering (c : SfChan) (i old st : Nat) : SfChan :=
  { c with en := decide (st = 4), enAt := if c.en = decide (st = 4) then c.enAt else i, pulse := none, fbBad := 0, move := none,
           crossOff := (decide (st = 2) || decide (st = 6)) && (c.crossOff || decide (old = 4)) }

/-- A channel shows its new state, before the device follows. -/
def State.entered (s : State) (x st : Nat) : State :=
  flagIf (st = 2) SF_FLAGS SF_FLAGS.tripped (flagIf (st = 6) SF_FLAGS SF_FLAGS.fault
    (fset SF_STATUS (sfField x) st (setSfc x ((s.sfc x).entering s.now (s.sfState x) st) s)))

theorem enterSf_eq (h : s.sfState x ≠ st) : enterSf x st s =
    if (s.sfState x = 4 ∨ s.sfState x = 5) ∧ st ≠ 4 ∧ st ≠ 5 then toConfigured (s.entered x st) else armIfReady (s.entered x st) := if_neg h

theorem entered_local : SfLocal x s (s.entered x st) := by
  have hshown : ∀ u, SfLocal x u (fset SF_STATUS (sfField x) st u) := fun u =>
    ⟨fun _ _ => rfl, rfl, rfl, rfl, rfl, fun _ h => fset_fget_field h, fun _ _ h _ _ => fset_reg.trans (if_neg h)⟩
  exact setSfc_local.trans ((hshown _).trans (sfFlagIf_local.trans sfFlagIf_local))

theorem enterSf_local : SfLocal x s (enterSf x st s) := by
  by_cases h : s.sfState x = st
  · rw [enterSf, if_pos h]
    exact .refl
  · rw [enterSf_eq h]
    split_ifs
    · exact entered_local.trans toConfigured_local
    · exact entered_local.trans armIfReady_local

theorem entered_sf : (s.entered x st).sf = (setSfc x ((s.sfc x).entering s.now (s.sfState x) st) s).sf :=
  flagIf_kept (p := .sf) (by decide) (by decide) (flagIf_kept (by decide) (by decide) (fset_kept (by decide) (.refl _ _)))

theorem entered_sfc : (s.entered x st).sfc x = (s.sfc x).entering s.now (s.sfState x) st :=
  (congrArg (fun z : Sf => look (fun _ => ({} : SfChan)) z.chans x) entered_sf).trans setSfc_sfc_same

theorem entered_state (hst : st < 16) : (s.entered x st).sfState x = st := by
  obtain ⟨hfits, hwidth⟩ := sfField_fits (x := x)
  have hkept : (s.entered x st).reg SF_STATUS = (fset SF_STATUS (sfField x) st (setSfc x ((s.sfc x).entering s.now (s.sfState x) st) s)).reg SF_STATUS :=
    (flagIf_reg (by decide) (by decide) (by decide)).trans (flagIf_reg (by decide) (by decide) (by decide))
  rw [State.sfState, fget_of_reg hkept, fset_fget_same hfits, hwidth]
  exact Nat.mod_eq_of_lt hst

/-- What the device does next leaves the channels and the registers of SF. -/
theorem enterSf_follows (h : s.sfState x ≠ st) : (enterSf x st s).sf = (s.entered x st).sf ∧ ∀ b, InHkSfSc b → (enterSf x st s).reg b = (s.entered x st).reg b := by
  rw [enterSf_eq h]
  split_ifs
  · exact ⟨toConfigured_sf, fun b hb => toConfigured_reg hb⟩
  · exact ⟨armIfReady_kept (p := .sf) (by decide) (.refl _ _), fun b _ => reg_of_kept (armIfReady_kept (by decide) (.refl _ _))⟩

theorem enterSf_sfc (h : s.sfState x ≠ st) : (enterSf x st s).sfc x = (s.sfc x).entering s.now (s.sfState x) st :=
  (congrArg (fun z : Sf => look (fun _ => ({} : SfChan)) z.chans x) (enterSf_follows h).1).trans entered_sfc

theorem enterSf_state (hst : st < 16) : (enterSf x st s).sfState x = st := by
  by_cases h : s.sfState x = st
  · rwa [enterSf, if_pos h]
  · exact (fget_of_reg ((enterSf_follows h).2 _ sfReg_inHkSfSc.1)).trans (entered_state hst)

/-! ### Trips and faults (R408) -/

/-- Channel `x` has tripped on condition `n`, in a device that was in mode `m`. -/
def SfTripped (m : Mode) (x n : Nat) (t : State) : Prop :=
  t.sfState x = 2 ∧ (t.sfc x).en = false ∧ (t.sfc x).crossOff = true ∧ t.sfHas x n = true ∧ t.rbit SF_FLAGS SF_FLAGS.tripped.lo = true ∧
    t.mode = if m = .armed ∨ m = .run then .configured else m

theorem judgeSf_calm_of_none (h : (s.sfc x).cause = 0) : judgeSf x s = s := by
  rw [judgeSf, h]
  exact (if_neg fun ⟨h, _⟩ => h rfl).trans (if_neg fun ⟨h, _⟩ => h rfl)

theorem judgeSf_local : SfLocal x s (judgeSf x s) := by
  unfold judgeSf
  dsimp only
  split_ifs
  · exact enterSf_local
  · exact enterSf_local
  · exact .refl

theorem raiseSf_local : SfLocal x s (raiseSf x n s) := setCause_local.trans judgeSf_local

theorem faultSf_local : SfLocal x s (faultSf x n s) := by
  unfold faultSf
  split_ifs
  · exact .refl
  · exact raiseSf_local

/-- A trip cause alone moves a channel in PERMIT to TRIPPED. -/
theorem judgeSf_trips (hn : n < 6) (h4 : s.sfState x = 4) (hcause : (s.sfc x).cause = 2 ^ n) : SfTripped s.mode x n (judgeSf x s) := by
  have hpow : (2 : Nat) ^ n < 64 := Nat.pow_lt_pow_right (by decide) hn
  have hpos := Nat.two_pow_pos n
  have hjudge : judgeSf x s = enterSf x 2 s := by
    rw [judgeSf, hcause, h4]
    exact (if_neg fun ⟨h, _⟩ => h (Nat.div_eq_of_lt (by omega))).trans (if_pos ⟨by rw [Nat.mod_eq_of_lt hpow]; omega, by decide⟩)
  have hne : s.sfState x ≠ 2 := by omega
  have hsfc := enterSf_sfc hne
  have hmode : (s.entered x 2).mode = s.mode :=
    flagIf_kept (p := .mode) (by decide) (by decide) (flagIf_kept (by decide) (by decide) (fset_kept (by decide) (setSfc_kept (by decide) (.refl _ s))))
  rw [hjudge]
  refine ⟨enterSf_state (by decide), ?_, ?_, ?_, ?_, ?_⟩
  · rw [hsfc]
    rfl
  · rw [hsfc, h4]
    simp [SfChan.entering]
  · rw [State.sfHas, hsfc]
    exact hcause ▸ Nat.testBit_two_pow_self
  · rw [State.rbit, (enterSf_follows hne).2 _ sfReg_inHkSfSc.2.2]
    exact flag_rbit (by decide) (by decide)
  · rw [enterSf_eq hne, if_pos ⟨.inl h4, by decide, by decide⟩, toConfigured_mode, hmode]

theorem enterSf_cause : ((enterSf x st s).sfc x).cause = (s.sfc x).cause := by
  by_cases h : s.sfState x = st
  · rw [enterSf, if_pos h]
  · rw [enterSf_sfc h]
    rfl

theorem setCause_cause (h0 : (s.sfc x).cause = 0) : ((setCause x n true s).sfc x).cause = 2 ^ n := by
  rw [setCause_sfc, h0]
  simp

theorem raiseSf_cause (h0 : (s.sfc x).cause = 0) : ((raiseSf x n s).sfc x).cause = 2 ^ n := by
  refine Eq.trans ?_ (setCause_cause h0)
  unfold raiseSf judgeSf
  dsimp only
  split_ifs
  · exact enterSf_cause
  · exact enterSf_cause
  · rfl

theorem raiseSf_trips (hn : n < 6) (h4 : s.sfState x = 4) (h0 : (s.sfc x).cause = 0) : SfTripped s.mode x n (raiseSf x n s) := by
  have htrip := judgeSf_trips (x := x) hn (setCause_state.trans h4) (setCause_cause h0)
  rwa [setCause_mode] at htrip

/-- A condition that stands already, in a channel that has tripped, changes nothing. -/
theorem raiseSf_again (h2 : s.sfState x = 2) (hhas : s.sfHas x n = true) (hless : (s.sfc x).cause < 256) : raiseSf x n s = s := by
  have hset : setCause x n true s = s := if_pos hhas
  rw [raiseSf, hset, judgeSf, h2]
  exact (if_neg fun ⟨h, _⟩ => h (Nat.div_eq_of_lt hless)).trans (if_neg fun ⟨_, h⟩ => absurd h (by decide))

/-- A fault moves a channel from any state but INIT to FAULT. -/
theorem faultSf_faults (hn : 8 ≤ n) (h : s.sfState x ≠ 0) :
    (faultSf x n s).sfState x = 6 ∧ (faultSf x n s).sfHas x n = true ∧ (s.sfState x ≠ 6 → ((faultSf x n s).sfc x).en = false) := by
  have hhas := setCause_has (x := x) (n := n) (s := s)
  have hstate : (setCause x n true s).sfState x = s.sfState x := setCause_state
  have hbig : ((setCause x n true s).sfc x).cause / 256 ≠ 0 := fun h0 => by
    have hlt : ((setCause x n true s).sfc x).cause < 2 ^ n := by
      have := Nat.pow_le_pow_right (n := 2) (by decide) hn
      omega
    rw [State.sfHas, Nat.testBit_lt_two_pow hlt] at hhas
    exact Bool.noConfusion hhas
  rw [faultSf, if_neg h, raiseSf, judgeSf, hstate]
  by_cases h6 : s.sfState x = 6
  · rw [if_neg fun ⟨_, _, hne⟩ => hne h6, if_neg (by omega)]
    exact ⟨hstate.trans h6, hhas, fun hne => absurd h6 hne⟩
  · have hne : (setCause x n true s).sfState x ≠ 6 := by omega
    rw [if_pos ⟨hbig, h, h6⟩]
    refine ⟨enterSf_state (by decide), ?_, fun _ => ?_⟩
    · rw [State.sfHas, enterSf_sfc hne]
      exact hhas
    · rw [enterSf_sfc hne]
      rfl

/-! ### What a reaction leaves of the channel's own record -/

/-- The record of a channel without what a reaction changes there. -/
def SfChan.rest (c : SfChan) : SfChan := { c with cause := 0, en := false, enAt := 0, pulse := none, fbBad := 0, move := none, crossOff := false }

theorem rest_field {α : Type} {c d : SfChan} (p : SfChan → α) (h : c.rest = d.rest) (hp : ∀ c : SfChan, p c.rest = p c := by intro _; rfl) : p c = p d := by
  rw [← hp c, h, hp]

theorem setCause_rest : ((setCause x n on s).sfc x).rest = (s.sfc x).rest := by rw [setCause_sfc]; rfl

theorem enterSf_rest : ((enterSf x st s).sfc x).rest = (s.sfc x).rest := by
  by_cases h : s.sfState x = st
  · rw [enterSf, if_pos h]
  · rw [enterSf_sfc h]
    rfl

theorem judgeSf_rest : ((judgeSf x s).sfc x).rest = (s.sfc x).rest := by
  unfold judgeSf
  dsimp only
  split_ifs
  · exact enterSf_rest
  · exact enterSf_rest
  · rfl

theorem raiseSf_rest : ((raiseSf x n s).sfc x).rest = (s.sfc x).rest := judgeSf_rest.trans setCause_rest

/-! ### Emergency stop and demands (R405, R418, R419) -/

/-- The input that an emergency stop of channel `x` shows. -/
def estopField (x : Nat) : Fld := if x = 0 then SF_STATUS.estop_a else SF_STATUS.estop_b

theorem estopField_apart : (estopField x).lo + (estopField x).width ≤ 32 ∧ (estopField x).width = 1 ∧ (sfField y).lo + (sfField y).width ≤ (estopField x).lo := by
  unfold estopField sfField
  split_ifs <;> decide

/-- The stop input of a channel shows what it is. -/
def State.estopShown (s : State) (x : Nat) (on : Bool) : State := fset SF_STATUS (estopField x) (b2n on) s

theorem estopShown_state : (s.estopShown x on).sfState y = s.sfState y := fset_fget_field (.inl estopField_apart.2.2)

theorem estopShown_field : (s.estopShown x on).fget SF_STATUS (estopField x) = b2n on := by
  obtain ⟨hfits, hwidth, -⟩ := estopField_apart (x := x) (y := 0)
  rw [State.estopShown, fset_fget_same hfits, hwidth]
  cases on <;> rfl

theorem estopChange_eq {xv : Fin 2} : ∃ d, exec (.estopChange xv on) s = .next
    (let t := judgeSf xv (setCause xv 0 on (s.estopShown xv on))
     { t with sf := { t.sf with estopDiff := d } }) := ⟨_, rfl⟩

theorem estopChange_trips {xv : Fin 2} (h4 : s.sfState xv = 4) (h0 : (s.sfc xv).cause = 0) : ∃ t, exec (.estopChange xv true) s = .next t ∧
    SfTripped s.mode xv 0 t ∧ t.fget SF_STATUS (estopField xv) = 1 ∧ t.sfState (1 - xv) = s.sfState (1 - xv) := by
  obtain ⟨d, hexec⟩ := estopChange_eq (xv := xv) (on := true) (s := s)
  have htrip : SfTripped s.mode xv 0 (raiseSf xv 0 (s.estopShown xv true)) := raiseSf_trips (by decide) (estopShown_state.trans h4) h0
  have hlocal : SfLocal xv (s.estopShown xv true) (raiseSf xv 0 (s.estopShown xv true)) := raiseSf_local
  exact ⟨_, hexec, htrip, (hlocal.status _ (.inr estopField_apart.2.2)).trans estopShown_field,
    (hlocal.state xv.isLt (by omega) (by omega)).trans estopShown_state⟩

theorem estopChange_releases {xv : Fin 2} (h1 : (s.sfc xv).cause = 1) : ∃ t, exec (.estopChange xv false) s = .next t ∧ (t.sfc xv).cause = 0 ∧
    t.sfState xv = s.sfState xv ∧ t.mode = s.mode ∧ t.fget SF_STATUS (estopField xv) = 0 := by
  obtain ⟨d, hexec⟩ := estopChange_eq (xv := xv) (on := false) (s := s)
  have hcause : ((setCause xv 0 false (s.estopShown xv false)).sfc xv).cause = 0 := by
    rw [setCause_sfc]
    change (if (s.sfc xv).cause.testBit 0 = false then (s.sfc xv).cause else (s.sfc xv).cause ^^^ 2 ^ 0) = 0
    rw [h1]
    rfl
  rw [judgeSf_calm_of_none hcause] at hexec
  exact ⟨_, hexec, hcause, setCause_state.trans estopShown_state, setCause_mode, (fget_of_reg (setCause_reg (by decide))).trans estopShown_field⟩

theorem estopDiscrepancy_eq {z : Nat} (hdiff : s.sf.estopDiff = some z) (hset : s.sf.set.isSome = true) : exec .estopDiscrepancy s =
    .next (if z + s.sfWord 12 % 65536 * 1000000 < s.now then faultSf 1 12 (faultSf 0 12 s) else s) := by
  change execEstopDiscrepancy s = _
  unfold execEstopDiscrepancy
  rw [hdiff]
  simp only [hset, Bool.true_and, decide_eq_true_eq]

/-- Inputs that differ too long put both channels in FAULT, one in INIT apart. -/
theorem discrepancy_faults (hy : y < 2) (h : s.sfState y ≠ 0) : (faultSf 1 12 (faultSf 0 12 s)).sfState y = 6 ∧ (faultSf 1 12 (faultSf 0 12 s)).sfHas y 12 = true ∧
    (s.sfState y ≠ 6 → ((faultSf 1 12 (faultSf 0 12 s)).sfc y).en = false) := by
  have hlocal0 : SfLocal 0 s (faultSf 0 12 s) := faultSf_local
  have hlocal1 : SfLocal 1 (faultSf 0 12 s) (faultSf 1 12 (faultSf 0 12 s)) := faultSf_local
  obtain rfl | rfl : y = 0 ∨ y = 1 := by omega
  · obtain ⟨hstate, hhas, hen⟩ := faultSf_faults (n := 12) (by decide) h
    have hpeer := hlocal1.peer 0 (by decide)
    exact ⟨(hlocal1.state (by decide) (by decide) (by decide)).trans hstate, (congrArg (fun c : SfChan => c.cause.testBit 12) hpeer).trans hhas,
      fun h6 => (congrArg SfChan.en hpeer).trans (hen h6)⟩
  · have hstate : (faultSf 0 12 s).sfState 1 = s.sfState 1 := hlocal0.state (by decide) (by decide) (by decide)
    exact hstate ▸ faultSf_faults (by decide) (hstate.symm ▸ h)

theorem crossOff_trips {xv : Fin 2} (h4 : s.sfState xv = 4) (h0 : (s.sfc xv).cause = 0) (hon : s.sfOn xv = true) (hpeer : (s.sfc (1 - xv)).crossOff = true) :
    ∃ t, exec (.crossOff xv) s = .next t ∧ SfTripped s.mode xv 4 t :=
  ⟨_, congrArg Host.Outcome.next (if_pos (by rw [hon]; exact hpeer)), raiseSf_trips (by decide) h4 h0⟩

theorem crossOff_rests {xv : Fin 2} (hpeer : (s.sfc (1 - xv)).crossOff = false) : exec (.crossOff xv) s = .next s :=
  congrArg Host.Outcome.next (if_neg (by simp [hpeer]))

theorem offDemand_trips {xv : Fin 2} (h4 : s.sfState xv = 4) (h0 : (s.sfc xv).cause = 0) (hon : s.sfOn xv = true) (hchip : s.startup.chip ≠ []) :
    ∃ t, exec (.offDemand xv) s = .next t ∧ SfTripped s.mode xv 3 t := by
  have hfault : s.chipFault = true := decide_eq_true hchip
  refine ⟨raiseSf xv 3 s, ?_, raiseSf_trips (by decide) h4 h0⟩
  rw [raiseSf, ← hfault]
  exact congrArg Host.Outcome.next (if_pos hon)

/-! ### Fires (R412 to R414) -/

/-- The record of a channel after a fire. -/
def SfChan.fired (c : SfChan) (set : List Word) (e v i : Nat) (compared : Bool) : SfChan :=
  let key := i / 100000 * 64 + e
  let old := look (fun _ => (0, 0)) c.compared key
  let c := c.account set e v (i / 100000)
  let c := if compared then { c with compared := put (fun _ => (0, 0)) c.compared key (old.1 + 1, old.2 + v) } else c
  if c.stopAt.any (fun t => decide (t ≤ i)) then { c with stopSum := c.stopSum + v } else c

theorem fired_buckets {set : List Word} : (c.fired set e v i on).buckets = (c.account set e v (i / 100000)).buckets := by
  unfold SfChan.fired
  dsimp only
  split_ifs <;> rfl

/-- A condition that may arise. -/
theorem raiseIf_local {p : Prop} [Decidable p] : SfLocal x s (if p then raiseSf x n s else s) ∧ ((if p then raiseSf x n s else s).sfc x).rest = (s.sfc x).rest := by
  split_ifs
  · exact ⟨raiseSf_local, raiseSf_rest⟩
  · exact ⟨.refl, rfl⟩

theorem sfFire_accounts (h : (s.sfc x).atLimit = false) : SfLocal x s (sfFire x e v i on s) ∧
    ((sfFire x e v i on s).sfc x).buckets = ((s.sfc x).account (s.sf.set.getD []) e v (i / 100000)).buckets := by
  have hfire : ∃ (p q : Prop) (hp : Decidable p) (hq : Decidable q), sfFire x e v i on s =
      (let s2 := if p then raiseSf x 2 (setSfc x ((s.sfc x).fired (s.sf.set.getD []) e v i on) s) else setSfc x ((s.sfc x).fired (s.sf.set.getD []) e v i on) s
       if q then raiseSf x 1 s2 else s2) := by
    unfold sfFire
    dsimp only
    rw [h]
    exact ⟨_, _, _, _, rfl⟩
  obtain ⟨p, q, hp, hq, hfire⟩ := hfire
  obtain ⟨hlocal, hrest⟩ := raiseIf_local (p := p) (x := x) (n := 2) (s := setSfc x ((s.sfc x).fired (s.sf.set.getD []) e v i on) s)
  obtain ⟨hlocal', hrest'⟩ := raiseIf_local (p := q) (x := x) (n := 1)
    (s := if p then raiseSf x 2 (setSfc x ((s.sfc x).fired (s.sf.set.getD []) e v i on) s) else setSfc x ((s.sfc x).fired (s.sf.set.getD []) e v i on) s)
  rw [hfire]
  refine ⟨setSfc_local.trans (hlocal.trans hlocal'), (rest_field SfChan.buckets (hrest'.trans hrest)).trans ?_⟩
  rw [setSfc_sfc_same, fired_buckets]

/-- The oldest record of the count tap has been taken. -/
def State.tapBTaken (s : State) (rest : List (Nat × Nat × Nat)) : State := { s with tx := { s.tx with tapB := rest } }
/-- The oldest charge code has been taken. -/
def State.tapATaken (s : State) (rest : List (Nat × Nat × Nat × Bool)) : State := { s with tx := { s.tx with tapA := rest } }

theorem fireReport_eq {rest : List (Nat × Nat × Nat)} {fb : Bool} (htap : s.tx.tapB = (e, v, i) :: rest) (hon : s.sfOn 1 = true) (hset : s.sf.set.isSome = true) :
    exec (.fireReport fb on) s = .next (if fb then sfFire 1 e ((sfKnown 1 e (s.tapBTaken rest)).sfWord (80 + e) % 65536 * (8 + v)) i on (sfKnown 1 e (s.tapBTaken rest))
      else sfKnown 1 e (s.tapBTaken rest)) := by
  change execFireReport fb on s = _
  unfold execFireReport
  rw [htap]
  have htakes : ¬((!(s.tapBTaken rest).sfOn 1 || (s.tapBTaken rest).sf.set.isNone) = true) := by
    change ¬((!s.sfOn 1 || s.sf.set.isNone) = true)
    rw [hon, Option.isNone_eq_false_iff.mpr hset]
    decide
  exact congrArg Host.Outcome.next (if_neg htakes)

theorem chargeReport_eq {rest : List (Nat × Nat × Nat × Bool)} (htap : s.tx.tapA = (e, v, i, on) :: rest) (hon : s.sfOn 0 = true) (hset : s.sf.set.isSome = true) :
    exec .chargeReport s = .next (sfFire 0 e ((sfKnown 0 e (s.tapATaken rest)).sfWord (16 + e) % 65536 * v) i on (sfKnown 0 e (s.tapATaken rest))) := by
  change execChargeReport s = _
  unfold execChargeReport
  rw [htap]
  have htakes : ¬((!(s.tapATaken rest).sfOn 0 || (s.tapATaken rest).sf.set.isNone) = true) := by
    change ¬((!s.sfOn 0 || s.sf.set.isNone) = true)
    rw [hon, Option.isNone_eq_false_iff.mpr hset]
    decide
  exact congrArg Host.Outcome.next (if_neg htakes)

theorem sfKnown_known (h : (s.sfWord (1 + e / 32)).testBit (e % 32) = true) : sfKnown x e s = s := if_pos h
theorem sfKnown_unknown (h : (s.sfWord (1 + e / 32)).testBit (e % 32) = false) : sfKnown x e s = raiseSf x 5 s := if_neg (by simp [h])

/-- A fire of an emitter outside emitter_en trips channel B, seen or not. -/
theorem fireReport_trips {rest : List (Nat × Nat × Nat)} (htap : s.tx.tapB = (e, v, i) :: rest) (hon : s.sfOn 1 = true) (hset : s.sf.set.isSome = true)
    (h4 : s.sfState 1 = 4) (h0 : (s.sfc 1).cause = 0) (hout : (s.sfWord (1 + e / 32)).testBit (e % 32) = false) :
    ∃ t, exec (.fireReport false on) s = .next t ∧ SfTripped s.mode 1 5 t ∧ t.tx.tapB = rest := by
  have hknown := sfKnown_unknown (s := s.tapBTaken rest) (x := 1) hout
  refine ⟨_, fireReport_eq htap hon hset, ?_⟩
  rw [hknown]
  exact ⟨raiseSf_trips (s := s.tapBTaken rest) (by decide) h4 h0, raiseSf_local.tapB⟩

/-- A known fire: for B only while it was seen. -/
theorem fireReport_known {rest : List (Nat × Nat × Nat)} (htap : s.tx.tapB = (e, v, i) :: rest) (hon : s.sfOn 1 = true) (hset : s.sf.set.isSome = true)
    (hin : (s.sfWord (1 + e / 32)).testBit (e % 32) = true) : exec (.fireReport false on) s = .next (s.tapBTaken rest) ∧
    ((s.sfc 1).atLimit = false → ∃ t, exec (.fireReport true on) s = .next t ∧ t.tx.tapB = rest ∧
      (t.sfc 1).buckets = ((s.sfc 1).account (s.sf.set.getD []) e (s.sfWord (80 + e) % 65536 * (8 + v)) (i / 100000)).buckets ∧ t.sfc 0 = s.sfc 0) := by
  have hknown := sfKnown_known (s := s.tapBTaken rest) (x := 1) hin
  refine ⟨?_, fun hlim => ?_⟩
  · rw [fireReport_eq htap hon hset, hknown]
    rfl
  · obtain ⟨hlocal, hbuckets⟩ := sfFire_accounts (s := s.tapBTaken rest) (x := 1) (e := e) (v := s.sfWord (80 + e) % 65536 * (8 + v)) (i := i) (on := on) hlim
    refine ⟨_, fireReport_eq htap hon hset, ?_⟩
    rw [hknown]
    exact ⟨hlocal.tapB, hbuckets, hlocal.peer 0 (by decide)⟩

theorem chargeReport_known {rest : List (Nat × Nat × Nat × Bool)} (htap : s.tx.tapA = (e, v, i, on) :: rest) (hon : s.sfOn 0 = true)
    (hset : s.sf.set.isSome = true) (hin : (s.sfWord (1 + e / 32)).testBit (e % 32) = true) (hlim : (s.sfc 0).atLimit = false) :
    ∃ t, exec .chargeReport s = .next t ∧ t.tx.tapA = rest ∧
      (t.sfc 0).buckets = ((s.sfc 0).account (s.sf.set.getD []) e (s.sfWord (16 + e) % 65536 * v) (i / 100000)).buckets ∧ t.sfc 1 = s.sfc 1 := by
  have hknown := sfKnown_known (s := s.tapATaken rest) (x := 0) hin
  obtain ⟨hlocal, hbuckets⟩ := sfFire_accounts (s := s.tapATaken rest) (x := 0) (e := e) (v := s.sfWord (16 + e) % 65536 * v) (i := i) (on := on) hlim
  refine ⟨_, chargeReport_eq htap hon hset, ?_⟩
  rw [hknown]
  exact ⟨hlocal.tapA, hbuckets, hlocal.peer 1 (by decide)⟩

/-! ### Scan faults and motion (R300, R416, R417) -/

theorem setLost_sfc : ∃ l, (setLost x a on s).sfc x = { s.sfc x with lost := l } := by
  unfold setLost
  dsimp only
  split_ifs
  · exact ⟨_, rfl⟩
  · have hsf : (flagIf on SF_FLAGS SF_FLAGS.motion_lost (setSfc x { s.sfc x with lost := (s.sfc x).lost ^^^ 2 ^ a } s)).sf = _ :=
      flagIf_kept (p := .sf) (by decide) (by decide) (.refl _ _)
    exact ⟨_, (congrArg (fun z : Sf => look (fun _ => ({} : SfChan)) z.chans x) hsf).trans setSfc_sfc_same⟩

theorem setLost_local : SfLocal x s (setLost x a on s) := by
  unfold setLost
  dsimp only
  split_ifs
  · exact .refl
  · exact setSfc_local.trans sfFlagIf_local

theorem setLost_state : (setLost x a on s).sfState y = s.sfState y := by
  unfold setLost
  dsimp only
  split_ifs
  · rfl
  · exact fget_of_reg (flagIf_reg (by decide) (by decide) (by decide))

/-- What arrives at a channel about its axes. -/
def SfChan.heardAxes (c : SfChan) : Nat × Sparse (List Int) := (c.scanFault, c.motion)

theorem heardAxes_of_rest {c d : SfChan} (h : c.rest = d.rest) : c.heardAxes = d.heardAxes := rest_field SfChan.heardAxes h

theorem setLost_heardAxes : ((setLost x a on s).sfc x).heardAxes = (s.sfc x).heardAxes := by
  obtain ⟨l, hl⟩ := setLost_sfc (x := x) (a := a) (on := on) (s := s)
  rw [hl]
  rfl

theorem setSfc_heardAxes (h : c.heardAxes = (s.sfc x).heardAxes) : ((setSfc x c s).sfc x).heardAxes = (s.sfc x).heardAxes := by
  rw [setSfc_sfc_same, h]

theorem updateStop_heardAxes : ((updateStop x s).sfc x).heardAxes = (s.sfc x).heardAxes := by
  unfold updateStop
  dsimp only
  split_ifs
  · exact (heardAxes_of_rest setCause_rest).trans (setSfc_heardAxes rfl)
  · rfl
  · exact (heardAxes_of_rest raiseSf_rest).trans (setSfc_heardAxes rfl)
  · exact setSfc_heardAxes rfl
  · rfl

theorem stopAxis_heardAxes : ((stopAxis x a on s).sfc x).heardAxes = (s.sfc x).heardAxes := by
  unfold stopAxis
  dsimp only
  split_ifs
  · rfl
  · exact updateStop_heardAxes.trans (setSfc_heardAxes rfl)

/-- What the motion window of an axis says has been noted. -/
def State.lossNoted (s : State) (x a : Nat) : State :=
  match s.motionOf x a with
  | some moves => setLost x a (!moves) s
  | none => s

theorem judgeAxis_eq : judgeAxis x a s =
    if !s.scanReq a then stopAxis x a false (setLost x a false s)
    else if ((s.lossNoted x a).sfc x).scanFault.testBit a || decide (s.motionOf x a = some false) then
      if (stopAxis x a true (s.lossNoted x a)).haltsStandby x then raiseSf x 2 (stopAxis x a true (s.lossNoted x a)) else stopAxis x a true (s.lossNoted x a)
    else if s.motionOf x a = some true then stopAxis x a false (s.lossNoted x a)
    else s.lossNoted x a := rfl

/-- Noting it touches the channel's list of such axes alone. -/
theorem lossNoted_of {P : State → Prop} (h : P s) (hlost : ∀ on, P (setLost x a on s)) : P (s.lossNoted x a) := by
  unfold State.lossNoted
  split
  · exact hlost _
  · exact h

theorem judgeAxis_heardAxes : ((judgeAxis x a s).sfc x).heardAxes = (s.sfc x).heardAxes := by
  have hnoted : ((s.lossNoted x a).sfc x).heardAxes = (s.sfc x).heardAxes :=
    lossNoted_of (P := fun u => (u.sfc x).heardAxes = (s.sfc x).heardAxes) rfl fun _ => setLost_heardAxes
  rw [judgeAxis_eq]
  split_ifs
  · exact stopAxis_heardAxes.trans setLost_heardAxes
  · exact (heardAxes_of_rest raiseSf_rest).trans (stopAxis_heardAxes.trans hnoted)
  · exact stopAxis_heardAxes.trans hnoted
  · exact stopAxis_heardAxes.trans hnoted
  · exact hnoted

/-- Scan-stop begins in a channel with the first axis. -/
theorem stopAxis_begins (hstop : (s.sfc x).stopped = 0) (hat : (s.sfc x).stopAt = none) :
    ((stopAxis x a true s).sfc x).stopped.testBit a = true ∧ ((stopAxis x a true s).sfc x).stopAt = some s.now ∧
      (s.sfState x = 4 → (s.sfc x).cause = 0 → s.sfWord 9 = 0 → SfTripped s.mode x 2 (stopAxis x a true s) ∧ ((stopAxis x a true s).sfc x).cause = 4) := by
  have hpos := Nat.two_pow_pos a
  generalize hu : setSfc x { s.sfc x with stopped := 2 ^ a } s = u
  have hsfc : u.sfc x = { s.sfc x with stopped := 2 ^ a } := hu ▸ setSfc_sfc_same
  have hnow : u.now = s.now := hu ▸ rfl
  generalize hu' : setSfc x { u.sfc x with stopAt := some u.now, stopSum := 0 } u = u'
  have hsfc' : u'.sfc x = { s.sfc x with stopped := 2 ^ a, stopAt := some s.now, stopSum := 0 } := by
    rw [← hu', setSfc_sfc_same, hsfc, hnow]
  have hword : u.sfWord 9 = s.sfWord 9 := hu ▸ rfl
  have heq : stopAxis x a true s = if s.sfWord 9 = 0 then raiseSf x 2 u' else u' := by
    unfold stopAxis
    dsimp only
    rw [hstop, if_neg (by simp), Nat.zero_xor, hu]
    unfold updateStop
    dsimp only
    rw [hu', hword, if_neg (by rw [hsfc]; exact hpos.ne'), if_pos (by rw [hsfc, hat]; rfl)]
  have hraised := raiseIf_local (p := s.sfWord 9 = 0) (x := x) (n := 2) (s := u')
  rw [← heq] at hraised
  refine ⟨?_, ?_, fun h4 h0 h9 => ?_⟩
  · rw [rest_field SfChan.stopped hraised.2, hsfc']
    exact Nat.testBit_two_pow_self
  · rw [rest_field SfChan.stopAt hraised.2, hsfc']
  · rw [heq, if_pos h9]
    have h4' : u'.sfState x = 4 := by
      rw [← hu', ← hu]
      exact h4
    have h0' : (u'.sfc x).cause = 0 := by
      rw [hsfc']
      exact h0
    have hmode : u'.mode = s.mode := by
      rw [← hu', ← hu]
      rfl
    exact ⟨hmode ▸ raiseSf_trips (by decide) h4' h0', raiseSf_cause h0'⟩

/-- A required axis whose scan fault stands begins the scan-stop, and trips a channel without energy margin. -/
theorem judgeAxis_stops (hreq : s.scanReq a = true) (hfault : (s.sfc x).scanFault.testBit a = true) (hstop : (s.sfc x).stopped = 0) (hat : (s.sfc x).stopAt = none) :
    ((judgeAxis x a s).sfc x).stopped.testBit a = true ∧ ((judgeAxis x a s).sfc x).stopAt = some s.now ∧
      (s.sfState x = 4 → (s.sfc x).cause = 0 → s.sfWord 9 = 0 → SfTripped s.mode x 2 (judgeAxis x a s)) := by
  have hlost : ∀ on, ∃ l, (setLost x a on s).sfc x = { s.sfc x with lost := l } := fun on => setLost_sfc
  obtain ⟨l, hsfc⟩ : ∃ l, (s.lossNoted x a).sfc x = { s.sfc x with lost := l } := lossNoted_of (P := fun u => ∃ l, u.sfc x = { s.sfc x with lost := l }) ⟨_, rfl⟩ hlost
  have hlocal : SfLocal x s (s.lossNoted x a) := lossNoted_of .refl fun _ => setLost_local
  have hstate : (s.lossNoted x a).sfState x = s.sfState x := lossNoted_of (P := fun u => u.sfState x = s.sfState x) rfl fun _ => setLost_state
  have hmode : (s.lossNoted x a).mode = s.mode := lossNoted_of (P := fun u => u.mode = s.mode) rfl
    fun _ => setLost_kept (p := .mode) (by decide) (by decide) (by decide) (.refl _ s)
  obtain ⟨hstopped, hstopAt, htrip⟩ := stopAxis_begins (a := a) (s := s.lossNoted x a) (x := x) (by rw [hsfc, hstop]) (by rw [hsfc, hat])
  have heq : judgeAxis x a s = if (stopAxis x a true (s.lossNoted x a)).haltsStandby x then raiseSf x 2 (stopAxis x a true (s.lossNoted x a))
      else stopAxis x a true (s.lossNoted x a) := by
    rw [judgeAxis_eq, if_neg (by simp [hreq]), if_pos (by simp [hsfc, hfault])]
  have hraised := raiseIf_local (p := (stopAxis x a true (s.lossNoted x a)).haltsStandby x = true) (x := x) (n := 2) (s := stopAxis x a true (s.lossNoted x a))
  rw [← heq] at hraised
  refine ⟨?_, ?_, fun h4 h0 h9 => ?_⟩
  · rw [rest_field SfChan.stopped hraised.2, hstopped]
  · rw [rest_field SfChan.stopAt hraised.2, hstopAt, hlocal.time]
  · obtain ⟨htripped, hcause⟩ := htrip (hstate.trans h4) (by rw [hsfc, h0]) (hlocal.word.trans h9)
    rw [hmode] at htripped
    have hagain : raiseSf x 2 (stopAxis x a true (s.lossNoted x a)) = stopAxis x a true (s.lossNoted x a) :=
      raiseSf_again htripped.1 (by rw [State.sfHas, hcause]; rfl) (by rw [hcause]; decide)
    rwa [heq, hagain, ite_self]

/-- The reports of SC's scan faults to channel `x`. -/
def State.scanInbox (s : State) (x : Nat) : List (Nat × Bool) := if x = 0 then s.sc.toA else s.sc.toB

/-- The oldest report of a scan fault has been taken, and noted in a channel where it was clear. -/
def State.scanNoted (s : State) (x a : Nat) (rest : List (Nat × Bool)) : State :=
  setSfc x { s.sfc x with scanFault := (s.sfc x).scanFault ^^^ 2 ^ a } { s with sc := if x = 0 then { s.sc with toA := rest } else { s.sc with toB := rest } }

theorem scanFault_eq {xv : Fin 2} {rest : List (Nat × Bool)} (hin : s.scanInbox xv = (a, true) :: rest) (hclear : (s.sfc xv).scanFault.testBit a = false) :
    exec (.scanFault xv) s = .next (judgeAxis xv a (s.scanNoted xv a rest)) := by
  change execScanFault xv s = _
  unfold State.scanInbox at hin
  unfold execScanFault
  dsimp only
  rw [hin]
  exact congrArg (fun u => Host.Outcome.next (judgeAxis xv a u)) (if_neg (by change ¬(s.sfc xv).scanFault.testBit a = true; simp [hclear]))

theorem scanNoted_inbox {rest : List (Nat × Bool)} : (s.scanNoted x a rest).scanInbox x = rest := by
  unfold State.scanInbox State.scanNoted
  split_ifs <;> rfl

theorem scanNoted_sfc {rest : List (Nat × Bool)} : (s.scanNoted x a rest).sfc x = { s.sfc x with scanFault := (s.sfc x).scanFault ^^^ 2 ^ a } := setSfc_sfc_same

theorem scanFault_takes {xv : Fin 2} {rest : List (Nat × Bool)} (hin : s.scanInbox xv = (n, true) :: rest) (hclear : (s.sfc xv).scanFault.testBit n = false) :
    ∃ t, exec (.scanFault xv) s = .next t ∧ t.scanInbox xv = rest ∧ (t.sfc xv).scanFault.testBit n = true ∧
      (s.scanReq n = true → (s.sfc xv).stopped = 0 → (s.sfc xv).stopAt = none → (t.sfc xv).stopped.testBit n = true ∧ (t.sfc xv).stopAt = some s.now ∧
        (s.sfState xv = 4 ∧ (s.sfc xv).cause = 0 → s.sfWord 9 = 0 → SfTripped s.mode xv 2 t)) := by
  have hsfc := scanNoted_sfc (s := s) (x := xv) (a := n) (rest := rest)
  have hbit : ((s.scanNoted xv n rest).sfc xv).scanFault.testBit n = true := by
    rw [hsfc]
    simp [Nat.testBit_xor, Nat.testBit_two_pow_self, hclear]
  have hsc : (judgeAxis xv n (s.scanNoted xv n rest)).sc = (s.scanNoted xv n rest).sc :=
    judgeAxis_kept (p := .sc) (by decide) (by decide) (by decide) (by decide) (by decide) (by decide) (by decide) (by decide) (by decide) (.refl _ _)
  refine ⟨_, scanFault_eq hin hclear, ?_, ?_, fun hreq hstop hat => ?_⟩
  · rw [State.scanInbox, hsc]
    exact scanNoted_inbox
  · rw [show ((judgeAxis xv n (s.scanNoted xv n rest)).sfc xv).scanFault = _ from congrArg Prod.fst judgeAxis_heardAxes]
    exact hbit
  · obtain ⟨h1, h2, h3⟩ := judgeAxis_stops (s := s.scanNoted xv n rest) (x := xv) (a := n) hreq hbit (by rw [hsfc]; exact hstop) (by rw [hsfc]; exact hat)
    exact ⟨h1, h2, fun ⟨h4, h0⟩ h9 => h3 h4 (by rw [hsfc]; exact h0) h9⟩

/-! ### Motion samples (R416, R424) -/

/-- Channel A asks for the first sample of a required axis. -/
theorem motionSampleRequest_asks {xv : Fin 2} {av : Fin 8} (hon : s.sfOn xv = true) (hreq : s.scanReq av = true) (hx : xv.val = 0) (hasked : (s.sfc xv).asked = []) :
    ∃ t, exec (.motionSampleRequest xv av) s = .next t ∧
      (t.adc (48 + av / 2)).incoming = insertReq { src := .sf xv, ctl := s.bridgeCtl av } (s.adc (48 + av / 2)).incoming ∧
      look (fun _ => 0) (t.sfc xv).asked av = s.now ∧ t.regs = s.regs := by
  have hdue : s.motionDue xv av = true := by
    simp [State.motionDue, State.askedAt, hx, hx ▸ hasked]
  refine ⟨_, congrArg Host.Outcome.next (if_pos (by rw [hon, hreq, hdue]; rfl)), ?_, ?_, rfl⟩
  · exact congrArg Adc.incoming setAdc_adc_same
  · refine (congrArg (fun c : SfChan => look (fun _ => 0) c.asked av) setSfc_sfc_same).trans ?_
    exact look_put_same _ _ _

theorem motionSampleRequest_rests {xv : Fin 2} {av : Fin 8} (hreq : s.scanReq av = false) : exec (.motionSampleRequest xv av) s = .next s :=
  congrArg Host.Outcome.next (if_neg (by simp [hreq]))

/-- The motion window of axis `a` with a sample `w`, converted at instant `i`. -/
def State.motionWith (s : State) (x a : Nat) (w : Word) (i : Nat) : List Int :=
  ((resValue w * s.polarityAt a i) :: look (fun _ => []) (s.sfc x).motion a).take (max 1 (s.sfWord 10 / 1024 % 1024))

/-- A valid sample of axis `a`, converted at instant `i`, has been taken. -/
def State.motionNoted (s : State) (x a : Nat) (w : Word) (i : Nat) (rest : List (Nat × Nat × Word × Nat)) : State :=
  setSfc x { s.sfc x with motion := put (fun _ => []) (s.sfc x).motion a (s.motionWith x a w i) } { s with motionIn := rest }

theorem takeMotion_head {rest : List (Nat × Nat × Word × Nat)} : takeMotion x ((x, n, w, i) :: rest) = some ((n, w, i), rest) := if_pos rfl

theorem motionSample_takes {xv : Fin 2} {rest : List (Nat × Nat × Word × Nat)} (hin : s.motionIn = (xv.val, n, w, i) :: rest) (hvalid : w.getLsbD resInvalid = false)
    (hrange : w.getLsbD resOver = false) : ∃ t, exec (.motionSample xv) s = .next t ∧ t.motionIn = rest ∧
      look (fun _ => []) (t.sfc xv).motion n = s.motionWith xv n w i := by
  have hexec : exec (.motionSample xv) s = .next (judgeAxis xv n (s.motionNoted xv n w i rest)) := by
    change execMotionSample xv s = _
    unfold execMotionSample
    rw [hin]
    dsimp only
    rw [takeMotion_head]
    dsimp only
    rw [hvalid, hrange]
    rfl
  have hkept : Kept .motionIn (s.motionNoted xv n w i rest) (judgeAxis xv n (s.motionNoted xv n w i rest)) :=
    judgeAxis_kept (by decide) (by decide) (by decide) (by decide) (by decide) (by decide) (by decide) (by decide) (by decide) (.refl _ _)
  refine ⟨_, hexec, hkept.1, ?_⟩
  have hmotion : ((judgeAxis xv n (s.motionNoted xv n w i rest)).sfc xv).motion = ((s.motionNoted xv n w i rest).sfc xv).motion :=
    congrArg Prod.snd judgeAxis_heardAxes
  rw [hmotion, State.motionNoted, setSfc_sfc_same]
  exact look_put_same _ _ _

/-! ### A channel's own supply (R243, R427) -/

theorem safetySupplyCheck_eq {xv : Fin 2} : exec (.safetySupplyCheck xv false) s =
    .next (if s.sfOn xv && s.sfState xv ≠ 1 && ((s.sfc xv).supplyAt = 0 || decide ((s.sfc xv).supplyAt + 10000000 ≤ s.now)) then
      sendReq 53 { src := .sf xv, ctl := 7 + xv } (setSfc xv { s.sfc xv with supplyAt := s.now } s) else s) :=
  congrArg Host.Outcome.next (if_neg Bool.false_ne_true)

theorem safetySupplyCheck_asks {xv : Fin 2} (hon : s.sfOn xv = true) (h1 : s.sfState xv ≠ 1) (hdue : (s.sfc xv).supplyAt + 10000000 ≤ s.now) :
    ∃ t, exec (.safetySupplyCheck xv false) s = .next t ∧ (t.sfc xv).supplyAt = s.now ∧
      (t.adc 53).incoming = insertReq { src := .sf xv, ctl := 7 + xv } (s.adc 53).incoming ∧ t.regs = s.regs := by
  have hask := safetySupplyCheck_eq (xv := xv) (s := s)
  rw [if_pos (by simp [hon, h1, hdue])] at hask
  exact ⟨_, hask, congrArg SfChan.supplyAt setSfc_sfc_same, congrArg Adc.incoming setAdc_adc_same, rfl⟩

theorem safetySupplyCheck_rests {xv : Fin 2} (hasked : (s.sfc xv).supplyAt ≠ 0) (hearly : s.now < (s.sfc xv).supplyAt + 10000000) :
    exec (.safetySupplyCheck xv false) s = .next s := by
  rw [safetySupplyCheck_eq, if_neg (by simp [hasked, Nat.not_le.mpr hearly])]

/-- The answers to a channel's requests have been taken. -/
def State.supplyTaken (s : State) : State := { s with supplyIn := [] }

theorem safetySupplyCheck_judges {xv : Fin 2} (hon : s.sfOn xv = true) (h1 : s.sfState xv ≠ 1) (hin : s.supplyIn = [(xv.val, w)]) :
    exec (.safetySupplyCheck xv true) s = .next (if supplyInside w then s.supplyTaken else faultSf xv 11 s.supplyTaken) := by
  have hfind : s.supplyIn.find? (fun p => p.1 = xv.val) = some (xv.val, w) := by simp [hin]
  have hfilter : s.supplyIn.filter (fun p => p.1 ≠ xv.val) = [] := by simp [hin]
  change execSafetySupplyCheck xv true s = _
  unfold execSafetySupplyCheck
  dsimp only
  rw [if_pos rfl, if_neg h1, hfind]
  dsimp only
  rw [hfilter, hon]
  cases supplyInside w <;> rfl

theorem supplyInside_iff : supplyInside w = true ↔ 1140000 * 2 ^ 23 ≤ resValue w * 2500000 ∧ resValue w * 2500000 ≤ 1260000 * 2 ^ 23 := decide_eq_true_iff

theorem safetySupplyCheck_faults {xv : Fin 2} (hon : s.sfOn xv = true) (h1 : s.sfState xv ≠ 1) (h0 : s.sfState xv ≠ 0) (hin : s.supplyIn = [(xv.val, w)])
    (hout : resValue w * 2500000 < 1140000 * 2 ^ 23 ∨ 1260000 * 2 ^ 23 < resValue w * 2500000) :
    ∃ t, exec (.safetySupplyCheck xv true) s = .next t ∧ t.sfState xv = 6 ∧ t.sfHas xv 11 = true ∧ t.supplyIn = [] := by
  have houtside : ¬supplyInside w = true := fun h => by
    obtain ⟨hlow, hhigh⟩ := supplyInside_iff.mp h
    omega
  have hjudge := safetySupplyCheck_judges hon h1 hin
  rw [if_neg houtside] at hjudge
  obtain ⟨hstate, hhas, -⟩ := faultSf_faults (n := 11) (s := s.supplyTaken) (by decide) h0
  have hkept : Kept .motionIn s.supplyTaken (faultSf xv 11 s.supplyTaken) :=
    faultSf_kept (by decide) (by decide) (by decide) (by decide) (by decide) (by decide) (by decide) (by decide) (by decide) (.refl _ _)
  exact ⟨_, hjudge, hstate, hhas, hkept.2.1⟩

theorem safetySupplyCheck_passes {xv : Fin 2} (hon : s.sfOn xv = true) (h1 : s.sfState xv ≠ 1) (hin : s.supplyIn = [(xv.val, w)])
    (hlow : 1140000 * 2 ^ 23 ≤ resValue w * 2500000) (hhigh : resValue w * 2500000 ≤ 1260000 * 2 ^ 23) :
    exec (.safetySupplyCheck xv true) s = .next s.supplyTaken := by
  rw [safetySupplyCheck_judges hon h1 hin, if_pos (supplyInside_iff.mpr ⟨hlow, hhigh⟩)]

/-! ### A standby without a budget state (R426) -/

theorem staleSf_local : SfLocal x s (staleSf x s) := by
  have hnoted : SfLocal x s (setCause x 7 true (setSfc x { s.sfc x with atLimit := true } s)) := setSfc_local.trans setCause_local
  unfold staleSf
  dsimp only
  split_ifs
  · exact hnoted.trans enterSf_local
  · exact hnoted

/-- The sums of a channel stand at their limits, and HOT gives way to READY. -/
theorem staleSf_stales : (staleSf x s).sfHas x 7 = true ∧ ((staleSf x s).sfc x).atLimit = true ∧ (s.sfState x = 5 → (staleSf x s).sfState x = 3) ∧
    (s.sfState x ≠ 5 → (staleSf x s).sfState x = s.sfState x) := by
  generalize hu : setCause x 7 true (setSfc x { s.sfc x with atLimit := true } s) = u
  have hstate : u.sfState x = s.sfState x := hu ▸ setCause_state
  have hhas : u.sfHas x 7 = true := hu ▸ setCause_has
  have hlim : (u.sfc x).atLimit = true := by
    rw [← hu, setCause_sfc, setSfc_sfc_same]
  have heq : staleSf x s = if s.sfState x = 5 then enterSf x 3 u else u := by
    unfold staleSf
    dsimp only
    rw [hu, hstate]
  rw [heq]
  split_ifs with h5
  · refine ⟨?_, ?_, fun _ => enterSf_state (by decide), fun h => absurd h5 h⟩
    · rw [State.sfHas, enterSf_cause]
      exact hhas
    · rw [rest_field SfChan.atLimit enterSf_rest, hlim]
  · exact ⟨hhas, hlim, fun h => absurd h h5, fun _ => hstate⟩

/-- A channel whose program runs loses its budget. -/
def staleIfOn (x : Nat) (s : State) : State := if s.sfOn x then staleSf x s else s

theorem staleIfOn_local : SfLocal x s (staleIfOn x s) := by
  unfold staleIfOn
  split_ifs
  · exact staleSf_local
  · exact .refl

theorem SfLocal.runs (h : SfLocal x s t) (hy : y < 2) : t.sfOn y = s.sfOn y := by
  have hreg : t.reg (PWR_DOM_GOOD ((67 + y) / 32)) = s.reg (PWR_DOM_GOOD ((67 + y) / 32)) := by
    rw [show (67 + y) / 32 = 2 by omega]
    exact h.regs _ (by decide) (by decide) (by decide) (by decide)
  have hrun : t.clock.running = s.clock.running := congrArg Timebase.running h.clock
  change t.time.running = s.time.running at hrun
  simp only [State.sfOn, State.domGood, State.rbit, hreg, hrun]

theorem forUp_two {h : Nat → State → State} : forUp h 0 2 s = h 1 (h 0 s) := rfl

theorem budgetStale_eq (hpair : s.pair = .standby) (hold : ∀ z, s.pairSt.budgetAt = some z → z + 300000 ≤ s.now) :
    exec .budgetStale s = .next (staleIfOn 1 (staleIfOn 0 s)) := by
  have hall : s.pairSt.budgetAt.all (fun t => decide (t + 300000 ≤ s.now)) = true := by
    cases hz : s.pairSt.budgetAt with
    | none => rfl
    | some z =>
      rw [Option.all_some]
      exact decide_eq_true (hold z hz)
  have hstale : (s.pair = .standby && s.pairSt.budgetAt.all (fun t => decide (t + 300000 ≤ s.now))) = true := by rw [hpair, hall]; rfl
  change execBudgetStale s = _
  rw [execBudgetStale, if_pos hstale, forUp_two]
  rfl

theorem budgetStale_stales {xv : Fin 2} (hpair : s.pair = .standby) (hon : s.sfOn xv = true) (hold : ∀ z, s.pairSt.budgetAt = some z → z + 300000 ≤ s.now) :
    ∃ t, exec .budgetStale s = .next t ∧ t.sfHas xv 7 = true ∧ (t.sfc xv).atLimit = true ∧ (s.sfState xv = 5 → t.sfState xv = 3) ∧
      (s.sfState xv ≠ 5 → t.sfState xv = s.sfState xv) := by
  refine ⟨_, budgetStale_eq hpair hold, ?_⟩
  have hlocal0 : SfLocal 0 s (staleIfOn 0 s) := staleIfOn_local
  have hlocal1 : SfLocal 1 (staleIfOn 0 s) (staleIfOn 1 (staleIfOn 0 s)) := staleIfOn_local
  have hstale : ∀ {u : State} {y : Nat}, u.sfOn y = true → staleIfOn y u = staleSf y u := fun h => if_pos h
  generalize hx : xv.val = x at hon ⊢
  obtain rfl | rfl : x = 0 ∨ x = 1 := by omega
  · obtain ⟨hhas, hlim, hhot, hother⟩ := staleSf_stales (x := 0) (s := s)
    rw [← hstale hon] at hhas hlim hhot hother
    have hpeer := hlocal1.peer 0 (by decide)
    have hstate := hlocal1.state (y := 0) (by decide) (by decide) (by decide)
    rw [State.sfHas, hpeer, hstate]
    exact ⟨hhas, hlim, hhot, hother⟩
  · have hstate := hlocal0.state (y := 1) (by decide) (by decide) (by decide)
    rw [hstale ((hlocal0.runs (by decide)).trans hon), ← hstate]
    exact staleSf_stales

theorem budgetStale_rests (h : s.pair = .solo ∨ s.pair = .active) : exec .budgetStale s = .next s :=
  congrArg Host.Outcome.next (if_neg (by rcases h with h | h <;> simp [h]))

/-! ### O33 -/

/-- Settles O33: each event by its lemma above. -/
theorem safetyConditionsTripTheirChannel : Obligations.SafetyConditionsTripTheirChannel := by
  intro xv av cmp s x a c set clean tripped
  refine ⟨fun ⟨h4, h0⟩ => estopChange_trips h4 h0, estopChange_releases, fun z hdiff hset => ⟨fun hlong => ?_, fun hshort => ?_⟩,
    fun ⟨h4, h0⟩ => crossOff_trips h4 h0, fun _ => crossOff_rests, fun ⟨h4, h0⟩ => offDemand_trips h4 h0, fun e w ns rest htap hon hset =>
      ⟨fun h4 h0 hout => fireReport_trips htap hon hset h4 h0 hout, fun hin => ⟨(fireReport_known (on := cmp) htap hon hset hin).1, (fireReport_known htap hon hset hin).2⟩⟩,
    fun e n ns ev rest htap hon hset hin hlim => chargeReport_known htap hon hset hin hlim, fun n rest hin hclear => scanFault_takes hin hclear,
    fun hon hreq hx hasked => motionSampleRequest_asks hon hreq hx hasked, motionSampleRequest_rests,
    fun n w z rest hin hvalid hrange => motionSample_takes hin hvalid hrange,
    fun hon h1 h0 => ⟨safetySupplyCheck_asks hon h1, safetySupplyCheck_rests, fun w hin => ⟨safetySupplyCheck_faults hon h1 h0 hin, safetySupplyCheck_passes hon h1 hin⟩⟩,
    fun hpair hon hold => budgetStale_stales hpair hon hold, budgetStale_rests⟩
  · exact ⟨_, (estopDiscrepancy_eq hdiff hset).trans (congrArg Host.Outcome.next (if_pos hlong)), fun y hy => discrepancy_faults hy⟩
  · exact (estopDiscrepancy_eq hdiff hset).trans (congrArg Host.Outcome.next (if_neg (Nat.not_lt.mpr hshort)))

end Sys2Proof.Machine
end

/-!
PROOFS of the architecture statements, part 24: the scan fault of an axis and HOLD; requests, samples and evaluations of the control loops, and the
writes and commands of a loop (R278 to R280, R284 to R286, R289, R295, R298, R300 to R302), O31.
-/
section
namespace Sys2Proof.Machine

variable {s t u : State} {a b i j k l n z : Nat} {w : Word} {f g : Fld} {x y : Loop} {fb v : Int} {on held : Bool} {law : Law}

/-! ### Loops, axes and the registers of a loop (R309) -/

theorem axis_of_sc (h : t.sc = s.sc) : t.axis a = s.axis a := congrArg (fun x : Sc => look (fun _ => ({} : Axis)) x.axes a) h

theorem flag_sc : (flag a f s).sc = s.sc := flag_kept (p := .sc) (by decide) (by decide) (.refl _ s)

theorem flagIf_sc : (flagIf on a f s).sc = s.sc := flagIf_kept (p := .sc) (by decide) (by decide) (.refl _ s)

theorem setLoop_get_other (h : j ≠ l) : (setLoop l x s).loop_ j = s.loop_ j := setLoop_get.trans (if_neg h)

/-- A register of loop `l`. -/
abbrev LoopReg (l b : Nat) : Prop := baseScLoop l ≤ b ∧ b < baseScLoop l + 0x100

theorem loopReg_near (h : i < 0x100) : LoopReg l (baseScLoop l + i) := ⟨Nat.le_add_right _ _, Nat.add_lt_add_left h _⟩

theorem scLoop_ne (h : i ≠ j) : baseScLoop l + i ≠ baseScLoop l + j := fun e => h (Nat.add_left_cancel e)

theorem LoopReg.ne_rec (h : LoopReg l b) : b ≠ REC_LOST ∧ b ≠ REC_STATUS := by
  simp only [LoopReg, baseScLoop, REC_LOST, REC_STATUS, baseRec] at h ⊢
  omega

theorem LoopReg.ne_axis (h : LoopReg l b) (ha : a < 8) (hi : i < 0x100) : b ≠ baseScAxis a + i := by
  simp only [LoopReg, baseScLoop, baseScAxis] at h ⊢
  omega

theorem LoopReg.ne_eng (h : LoopReg l b) (hl : l < 64) : b ≠ SC_ENG_STATUS ∧ b ≠ SC_ENG_FLAGS := by
  simp only [LoopReg, baseScLoop, SC_ENG_STATUS, SC_ENG_FLAGS, baseScEng] at h ⊢
  omega

theorem axisReg_ne_eng : SC_AXIS_STATUS a ≠ SC_ENG_STATUS ∧ SC_AXIS_STATUS a ≠ SC_ENG_FLAGS := by
  simp only [SC_AXIS_STATUS, baseScAxis, SC_ENG_STATUS, SC_ENG_FLAGS, baseScEng]
  omega

theorem axisReg_ne_rec : baseScAxis a + i ≠ REC_LOST ∧ baseScAxis a + i ≠ REC_STATUS := by
  simp only [baseScAxis, REC_LOST, REC_STATUS, baseRec]
  omega

/-- Two fields share no bit. -/
abbrev Apart (f g : Fld) : Prop := g.lo + g.width ≤ f.lo ∨ f.lo + f.width ≤ g.lo

/-- A run of fields leaves a field that none of them overlaps. -/
theorem fsets_fget_apart {p : List (Fld × Nat)} (h : ∀ f ∈ p.map Prod.fst, Apart f g) : (fsets a p s).fget a g = s.fget a g := by
  rw [fsets_fget, State.fget]
  induction p generalizing s with
  | nil => rfl
  | cons e p ih =>
    have htail := ih (s := setReg a (setF e.1 e.2 (s.reg a)) s) fun f hf => h f (List.mem_cons_of_mem _ hf)
    rw [setReg_reg_same] at htail
    exact htail.trans (getF_setF_other (h e.1 List.mem_cons_self))

theorem rbit_of_reg (h : t.reg a = s.reg a) : t.rbit a i = s.rbit a i := congrArg (BitVec.getLsbD · i) h

theorem flag_rbit_kept (h : a ≠ REC_LOST ∧ a ≠ REC_STATUS) (hb : s.rbit a i = true) : (flag a f s).rbit a i = true := by
  have hkept := flagIf_rbit_kept (c := true) (f := f) h hb
  rwa [flagIf, if_pos rfl] at hkept

/-! ### The scan fault of an axis (R300, R308, R310) -/

/-- The SC region, the reports of scan faults on their way to the safety channels aside. -/
def Sc.unreported (c : Sc) : Sc := { c with toA := [], toB := [] }

theorem unreported_field {α : Type} {c d : Sc} (p : Sc → α) (h : c.unreported = d.unreported) (hp : ∀ c : Sc, p c.unreported = p c := by intro _; rfl) : p c = p d := by
  rw [← hp c, h, hp]

theorem loop_of_unreported (h : t.sc.unreported = s.sc.unreported) : t.loop_ j = s.loop_ j :=
  unreported_field (fun c : Sc => look (fun _ => ({} : Loop)) c.loops j) h

theorem scanFault_sc : (scanFault a on s).sc.unreported = s.sc.unreported := by
  unfold scanFault
  dsimp only
  split
  · rfl
  · change (flagIf _ _ _ _).sc.unreported = _
    rw [flagIf_sc]
    rfl

theorem scanFault_reg (h : b ≠ SC_AXIS_STATUS a) (he : b ≠ SC_ENG_STATUS ∧ b ≠ SC_ENG_FLAGS) (hr : b ≠ REC_LOST ∧ b ≠ REC_STATUS) :
    (scanFault a on s).reg b = s.reg b := by
  unfold scanFault
  dsimp only
  split
  · rfl
  · exact (flagIf_reg he.2 hr.1 hr.2).trans ((setReg_reg_other he.1).trans (setReg_reg_other h))

theorem scanFault_shows : (scanFault a on s).fget (SC_AXIS_STATUS a) SC_AXIS_STATUS.scan_fault = b2n on := by
  unfold scanFault
  dsimp only
  split
  next hsame =>
    have hbit : s.fget (SC_AXIS_STATUS a) SC_AXIS_STATUS.scan_fault < 2 := Nat.mod_lt _ (by decide)
    cases on
    · rw [b2n, if_neg Bool.false_ne_true]
      simp only [Bool.false_eq_true, eq_iff_iff, iff_false] at hsame
      omega
    · rw [b2n, if_pos rfl]
      simpa using hsame
  next =>
    refine (fget_of_reg ((flagIf_reg axisReg_ne_eng.2 axisReg_ne_rec.1 axisReg_ne_rec.2).trans (setReg_reg_other axisReg_ne_eng.1))).trans
      ((fset_fget_same (by decide)).trans ?_)
    cases on <;> rfl

/-! ### HOLD (R298, R300, R302) -/

/-- A loop is in HOLD, and an axis shows its scan fault. -/
abbrev InHold (l : Nat) (t : State) : Prop := t.loopState l = 2 ∧ (l < 8 → t.fget (SC_AXIS_STATUS l) SC_AXIS_STATUS.scan_fault = 1)

/-- A loop shows HOLD and its cause, before its axis shows the scan fault. -/
def State.holding (s : State) (l : Nat) (f : Fld) : State :=
  setLoopState l 2 (flag (SC_LOOP_FLAGS l) f (flagIf (s.loopState l = 4) (SC_LOOP_FLAGS l) SC_LOOP_FLAGS.rearm_failed s))

theorem enterHold_eq : enterHold l f s = if l < 8 then scanFault l true (s.holding l f) else s.holding l f := rfl

theorem enterHold_sc : (enterHold l f s).sc.unreported = s.sc.unreported := by
  have hholding : (s.holding l f).sc = s.sc := flag_sc.trans flagIf_sc
  rw [enterHold_eq, ← hholding]
  split_ifs
  · exact scanFault_sc
  · rfl

theorem enterHold_loopReg (hl : l < 64) (h : LoopReg l b) : (enterHold l f s).reg b = (s.holding l f).reg b := by
  rw [enterHold_eq]
  split_ifs with h8
  · exact scanFault_reg (h.ne_axis h8 (by decide)) (h.ne_eng hl) h.ne_rec
  · rfl

theorem enterHold_reg (hl : l < 64) (h : LoopReg l b) (hs : b ≠ SC_LOOP_STATUS l) (hf : b ≠ SC_LOOP_FLAGS l) : (enterHold l f s).reg b = s.reg b :=
  (enterHold_loopReg hl h).trans ((setReg_reg_other hs).trans ((flag_reg hf h.ne_rec.1 h.ne_rec.2).trans (flagIf_reg hf h.ne_rec.1 h.ne_rec.2)))

theorem enterHold_held (hl : l < 64) : InHold l (enterHold l f s) := by
  refine ⟨(fget_of_reg (enterHold_loopReg hl (loopReg_near (by decide)))).trans (fset_fget_same (by decide)), fun h8 => ?_⟩
  rw [enterHold_eq, if_pos h8]
  exact scanFault_shows

theorem enterHold_flag (hl : l < 64) (hf : f.lo < 32) : (enterHold l f s).rbit (SC_LOOP_FLAGS l) f.lo = true := by
  have hnear : LoopReg l (SC_LOOP_FLAGS l) := loopReg_near (by decide)
  exact (rbit_of_reg ((enterHold_loopReg hl hnear).trans (setReg_reg_other (scLoop_ne (by decide))))).trans (flag_rbit hf hnear.ne_rec)

/-! ### What the engine issues (R279) -/

theorem readyAt_none (h : s.loopState j = 0 ∨ (s.loop_ j).pend = none ∧ s.loopState j ≠ 3) : s.readyAt j = none := by
  unfold State.readyAt
  rcases h with h | ⟨hpend, h3⟩
  · exact if_pos h
  · simp [hpend, h3]

theorem readyAt_none_iff (hissued : s.sc.issued = []) : s.readyAt j = none ↔ s.loopState j = 0 ∨ (s.loop_ j).pend = none ∧ s.loopState j ≠ 3 := by
  refine ⟨fun h => ?_, readyAt_none⟩
  unfold State.readyAt at h
  by_cases h0 : s.loopState j = 0
  · exact .inl h0
  · cases hpend : (s.loop_ j).pend <;> simp_all

theorem mem_readyLoops : (j, z) ∈ s.readyLoops ↔ j < 64 ∧ s.readyAt j = some z := by
  simp [State.readyLoops, List.mem_filterMap]

theorem nextIssue_idle (h : ∀ j, j < 64 → s.readyAt j = none) : s.nextIssue = none := by
  have hnil : s.readyLoops = [] := List.eq_nil_iff_forall_not_mem.mpr fun ⟨j, z⟩ hmem => by
    obtain ⟨hj, hz⟩ := mem_readyLoops.mp hmem
    rw [h j hj] at hz
    contradiction
  rw [State.nextIssue, hnil]

theorem nextIssue_single (h : s.readyLoops = [(l, z)]) (hz : z ≤ s.now) (hgap : ∀ b, s.sc.issueAt = some b → b + 250 ≤ z) : s.nextIssue = some (l, z) := by
  rw [State.nextIssue, h]
  cases hb : s.sc.issueAt with
  | none => simp [hz]
  | some b => simp [Nat.max_eq_right (hgap b hb), hz]

theorem issueAll_idle (h : s.nextIssue = none) : issueAll n s = s := by
  cases n with
  | zero => rfl
  | succ n => rw [issueAll, h]

theorem engineRun_idle (h : s.nextIssue = none) : engineRun s = s := by
  rw [engineRun, issueAll_idle h, ite_self]

theorem engineRun_issues (hruns : s.scRuns = true) (h : s.nextIssue = some (l, z)) (hlast : (issue l z s).nextIssue = none) : engineRun s = issue l z s := by
  rw [engineRun, if_pos hruns, issueAll, h]
  exact issueAll_idle hlast

theorem engineRun_regs : (engineRun s).regs = s.regs := engineRun_kept (p := .regs) (by decide) (.refl _ s)

theorem engineRun_now : (engineRun s).now = s.now := congrArg (fun c : Timebase => c.tbase.toNat) (engineRun_kept (p := .time) (by decide) (.refl _ s))

theorem issue_loop (hpend : (s.loop_ l).pend.isSome = true) : (issue l z s).loop_ j = if j = l then { s.loop_ l with pend := none } else s.loop_ j := by
  change (setLoop l (if (s.loop_ l).pend.isSome then { s.loop_ l with pend := none } else { s.loop_ l with heldAt := z }) s).loop_ j = _
  rw [if_pos hpend, setLoop_get]

/-- The issue of the one evaluation that is ready leaves none. -/
theorem issue_last (hready : s.readyLoops = [(l, z)]) (hpend : (s.loop_ l).pend.isSome = true) (h3 : s.loopState l ≠ 3) (hissued : s.sc.issued = []) :
    (issue l z s).nextIssue = none := by
  refine nextIssue_idle fun j hj => readyAt_none ?_
  change s.loopState j = 0 ∨ ((issue l z s).loop_ j).pend = none ∧ s.loopState j ≠ 3
  rw [issue_loop hpend]
  split_ifs with hjl
  · exact .inr ⟨rfl, hjl ▸ h3⟩
  · refine (readyAt_none_iff hissued).mp ?_
    cases hz : s.readyAt j with
    | none => rfl
    | some z' =>
      have hmem : (j, z') ∈ s.readyLoops := mem_readyLoops.mpr ⟨hj, hz⟩
      rw [hready, List.mem_singleton, Prod.mk.injEq] at hmem
      exact absurd hmem.1 hjl

theorem readyAt_suppressed (h3 : s.loopState l = 3) (hpend : (s.loop_ l).pend = none) (hissued : s.sc.issued = []) :
    s.readyAt l = some ((s.loop_ l).heldAt + LSet.period (s.loop_ l).set) := by
  simp [State.readyAt, h3, hpend, hissued]

/-! ### Requests and samples (R278, R279, R301) -/

theorem loopRequest_sends {lv : Fin 64} (hruns : s.scRuns = true) (hst : s.loopState lv ≠ 0) (hinj : loopInjects lv (s.loop_ lv).set = true)
    (hdue : (s.loop_ lv).lastReq + LSet.period (s.loop_ lv).set ≤ s.now) (hk : k = loopConv lv (s.loop_ lv).set) (hin : (s.adc k).incoming = [])
    (hwait : (s.adc k).waiting = []) (hactive : (s.adc k).active = none) : exec (.loopRequest lv) s = .next (setAdc k
      { s.adc k with incoming := [{ src := .loop lv, ctl := loopReq lv (s.loop_ lv).set }] } (setLoop lv { s.loop_ lv with lastReq := s.now } s)) := by
  subst hk
  have hsend : (!s.scRuns || s.loopState lv = 0 || !loopInjects lv (s.loop_ lv).set || s.now < (s.loop_ lv).lastReq + LSet.period (s.loop_ lv).set
      || (s.adc (loopConv lv (s.loop_ lv).set)).incoming.any (fun r : InjReq => r.src = .loop lv)
      || (s.adc (loopConv lv (s.loop_ lv).set)).waiting.any (fun r : InjReq => r.src = .loop lv)
      || (s.adc (loopConv lv (s.loop_ lv).set)).active.any (fun r : InjReq => r.src = .loop lv)) = false := by
    simp [hruns, hst, hinj, Nat.not_lt.mpr hdue, hin, hwait, hactive]
  have hinsert : insertReq { src := .loop lv, ctl := loopReq lv (s.loop_ lv).set } (s.adc (loopConv lv (s.loop_ lv).set)).incoming =
      [{ src := .loop lv, ctl := loopReq lv (s.loop_ lv).set }] := by rw [hin]; rfl
  refine (congrArg Host.Outcome.next (if_neg (Bool.eq_false_iff.mp hsend))).trans ?_
  rw [← hinsert]
  rfl

/-- A sample of a loop that runs, resonant or not, is held or becomes the pending one. -/
theorem loopSample_eq {lv : Fin 64} {it : LoopIn} {rest : List LoopIn} (hin : (s.loop_ lv).inbox = it :: rest) :
    exec (.loopSample lv) s = .next (
      let x := s.loop_ lv
      let s1 := setLoop lv { x with inbox := rest } s
      let resonant := decide (lv.val < 8 ∧ LSet.kind x.set = 1)
      if !s.scRuns || s.loopState lv = 0 then s1
      else if it.held then
        let s2 := setLoop lv { x with inbox := rest, arrived := s.now, hist := [], lastY := none, crossed := false, lowPeriods := 0 } s1
        if !resonant && s.loopState lv = 1 then setLoopState lv 3 (setLoop lv { s2.loop_ lv with heldAt := s.now - LSet.period x.set } s2) else s2
      else if it.lost then pendSample lv 0 it.word it.time s1
      else if resonant then resonantOutput lv (s.feedback lv (resValue it.word) it.time) it.word it.time s1
      else pendSample lv (s.feedback lv (resValue it.word) it.time) it.word it.time s1) := by
  change execLoopSample lv s = _
  unfold execLoopSample
  dsimp only
  rw [hin]

theorem loopSample_inactive {lv : Fin 64} {it : LoopIn} {rest : List LoopIn} (hin : (s.loop_ lv).inbox = it :: rest) (h0 : s.loopState lv = 0) :
    exec (.loopSample lv) s = .next (setLoop lv { s.loop_ lv with inbox := rest } s) := by
  rw [loopSample_eq hin]
  exact congrArg Host.Outcome.next (if_pos (by simp [h0]))

/-- A held sample has been taken: the feedback of the loop is suppressed. -/
def State.sampleHeld (s : State) (l : Nat) (rest : List LoopIn) : State := setLoop l
  { s.loop_ l with inbox := rest, arrived := s.now, hist := [], lastY := none, crossed := false, lowPeriods := 0 } (setLoop l { s.loop_ l with inbox := rest } s)

theorem sampleHeld_loop {rest : List LoopIn} : (s.sampleHeld l rest).loop_ l =
    { s.loop_ l with inbox := rest, arrived := s.now, hist := [], lastY := none, crossed := false, lowPeriods := 0 } := setLoop_get_same

/-- A loop enters SETTLE_HOLD, in which it is due at once. -/
def settleHold (l period : Nat) (s : State) : State := setLoopState l 3 (setLoop l { s.loop_ l with heldAt := s.now - period } s)

theorem settleHold_loop : (settleHold l n s).loop_ l = { s.loop_ l with heldAt := s.now - n } := setLoop_get_same

/-- A held sample puts a running loop in SETTLE_HOLD. -/
theorem loopSample_held {lv : Fin 64} {it : LoopIn} {rest : List LoopIn} (hin : (s.loop_ lv).inbox = it :: rest) (hruns : s.scRuns = true) (h1 : s.loopState lv = 1)
    (hres : decide (lv.val < 8 ∧ LSet.kind (s.loop_ lv).set = 1) = false) (hheld : it.held = true) : ∃ t, exec (.loopSample lv) s = .next t ∧ t.loopState lv = 3 ∧
      (t.loop_ lv).inbox = rest ∧ (t.loop_ lv).pend = (s.loop_ lv).pend ∧ (t.loop_ lv).hist = [] ∧ OnlyRegs [SC_LOOP_STATUS lv] s t := by
  have hexec := loopSample_eq hin
  dsimp only at hexec
  rw [if_neg (by simp [hruns, h1]), if_pos hheld, hres, if_pos (by simp [h1])] at hexec
  refine ⟨settleHold lv (LSet.period (s.loop_ lv).set) (s.sampleHeld lv rest), hexec, fset_fget_same (by decide), ?_, ?_, ?_,
    OnlyRegs.refl.setReg (List.mem_singleton.mpr rfl)⟩
  · rw [settleHold_loop, sampleHeld_loop]
  · rw [settleHold_loop, sampleHeld_loop]
  · rw [settleHold_loop, sampleHeld_loop]

/-- A sample that is not held becomes the pending one. -/
theorem loopSample_pends {lv : Fin 64} {it : LoopIn} {rest : List LoopIn} (hin : (s.loop_ lv).inbox = it :: rest) (hruns : s.scRuns = true) (hst : s.loopState lv ≠ 0)
    (hheld : it.held = false) (hres : it.lost = true ∨ decide (lv.val < 8 ∧ LSet.kind (s.loop_ lv).set = 1) = false) :
    exec (.loopSample lv) s = .next (pendSample lv (if it.lost then 0 else s.feedback lv (resValue it.word) it.time) it.word it.time
      (setLoop lv { s.loop_ lv with inbox := rest } s)) := by
  have hexec := loopSample_eq hin
  dsimp only at hexec
  rw [if_neg (by simp [hruns, hst]), if_neg (by simp [hheld])] at hexec
  cases hlost : it.lost with
  | true =>
    rw [if_pos hlost] at hexec
    exact hexec
  | false =>
    rw [if_neg (by simp [hlost]), hres.resolve_left (by simp [hlost])] at hexec
    exact hexec

/-- The pending sample of loop `l` is a new one. -/
def State.pended (s : State) (l : Nat) (p : Int × Word × Nat) : State := setLoop l { s.loop_ l with pend := some p, pendAt := s.now, arrived := s.now } s

theorem pendSample_eq : pendSample l v w i s = if ((engineRun s).loop_ l).pend.isSome then
      flag SC_ENG_FLAGS SC_ENG_FLAGS.overrun_any (flag (SC_LOOP_FLAGS l) SC_LOOP_FLAGS.overrun
        (bumpOvf (SC_LOOP_FLAGS l) SC_LOOP_FLAGS.overrun_count 1 (SC_LOOP_FLAGS l) SC_LOOP_FLAGS.overrun_ovf.lo ((engineRun s).pended l (v, w, i))))
    else (engineRun s).pended l (v, w, i) := rfl

theorem pendSample_sc : (pendSample l v w i s).sc = ((engineRun s).pended l (v, w, i)).sc := by
  rw [pendSample_eq]
  split_ifs
  · exact flag_sc.trans (flag_sc.trans (bumpOvf_kept (p := .sc) (by decide) (by decide) (.refl _ _)))
  · rfl

theorem pendSample_issued : (pendSample l v w i s).sc.issued = (engineRun s).sc.issued := (congrArg Sc.issued pendSample_sc).trans rfl

theorem pendSample_loop : (pendSample l v w i s).loop_ l = { (engineRun s).loop_ l with pend := some (v, w, i), pendAt := s.now, arrived := s.now } := by
  rw [loop_of_sc pendSample_sc, State.pended, setLoop_get_same, engineRun_now]

theorem pendSample_regs (h : ((engineRun s).loop_ l).pend = none) : (pendSample l v w i s).regs = s.regs := by
  rw [pendSample_eq, h]
  exact engineRun_regs

theorem pendSample_overrun (hl : l < 64) (h : ((engineRun s).loop_ l).pend.isSome = true) : (pendSample l v w i s).rbit (SC_LOOP_FLAGS l) SC_LOOP_FLAGS.overrun.lo = true := by
  have hnear : LoopReg l (SC_LOOP_FLAGS l) := loopReg_near (by decide)
  rw [pendSample_eq, if_pos h]
  exact (rbit_of_reg (flag_reg (hnear.ne_eng hl).2 hnear.ne_rec.1 hnear.ne_rec.2)).trans (flag_rbit (by decide) hnear.ne_rec)

/-! ### An evaluation is issued and completes (R279) -/

theorem completes_none {sampled : Bool} (h : ∀ i is, s.sc.issued = i :: is → i.loop ≠ l ∨ s.now < i.at_ + 300) : s.completes l sampled = none := by
  unfold State.completes
  cases hissued : s.sc.issued with
  | nil => rfl
  | cons i is =>
    refine if_neg ?_
    rcases h i is hissued with hloop | hearly
    · simp [hloop]
    · simp [Nat.not_le.mpr hearly]

theorem completes_some {sampled : Bool} {i : Issue} {is : List Issue} (hissued : s.sc.issued = i :: is) (hloop : i.loop = l) (hsample : i.sample.isSome = sampled)
    (hdue : i.at_ + 300 ≤ s.now) : s.completes l sampled = some i := by
  unfold State.completes
  rw [hissued]
  exact if_pos (by simp [hloop, hsample, hdue])

theorem loopEvaluation_none {lv : Fin 64} (h : (engineRun s).completes lv true = none) : exec (.loopEvaluation lv) s = .next (engineRun s) := by
  change execLoopEvaluation lv s = _
  unfold execLoopEvaluation
  refine congrArg Host.Outcome.next ?_
  extract_lets l e
  have hnone : (if s.scRuns then e.completes l true else none) = none := (ite_congr rfl (fun _ => h) fun _ => rfl).trans (ite_self _)
  rw [hnone]
  rfl

theorem settleHoldEvaluation_none {lv : Fin 64} (h : (engineRun s).completes lv false = none) : exec (.settleHoldEvaluation lv) s = .next (engineRun s) :=
  congrArg Host.Outcome.next (if_pos (by simp [h]))

theorem loopEvaluation_issues {lv : Fin 64} (hruns : s.scRuns = true) (h1 : s.loopState lv = 1) (hpend : (s.loop_ lv).pend.isSome = true)
    (hready : s.readyLoops = [(lv.val, z)]) (hz : z ≤ s.now) (hnow : s.now < z + 300) (hgap : ∀ b, s.sc.issueAt = some b → b + 250 ≤ z) (hissued : s.sc.issued = []) :
    ∃ t, exec (.loopEvaluation lv) s = .next t ∧ t.sc.issued = [{ loop := lv, sample := (s.loop_ lv).pend, at_ := z }] ∧ (t.loop_ lv).pend = none ∧
      t.sc.issueAt = some z ∧ t.regs = s.regs := by
  have hrun : engineRun s = issue lv z s := engineRun_issues hruns (nextIssue_single hready hz hgap) (issue_last hready hpend (by omega) hissued)
  have hone : (issue lv z s).sc.issued = [{ loop := lv, sample := (s.loop_ lv).pend, at_ := z }] := by
    change s.sc.issued ++ _ = _
    rw [hissued]
    rfl
  have hearly : (issue lv z s).completes lv true = none := completes_none fun i is h => .inr (by
    obtain ⟨rfl, -⟩ := List.cons.inj (hone.symm.trans h)
    exact hnow)
  have hexec := loopEvaluation_none (hrun ▸ hearly)
  exact ⟨_, hexec.trans (congrArg _ hrun), hone, congrArg Loop.pend ((issue_loop hpend).trans (if_pos rfl)), rfl, rfl⟩

theorem loopEvaluations_rest {lv : Fin 64} (hnext : s.nextIssue = none) (h : ∀ i is, s.sc.issued = i :: is → i.loop ≠ lv ∨ s.now < i.at_ + 300) :
    exec (.loopEvaluation lv) s = .next s ∧ exec (.settleHoldEvaluation lv) s = .next s := by
  have hrun := engineRun_idle hnext
  have heval := loopEvaluation_none (s := s) (lv := lv) (by rw [hrun]; exact completes_none h)
  have hsettle := settleHoldEvaluation_none (s := s) (lv := lv) (by rw [hrun]; exact completes_none h)
  rw [hrun] at heval hsettle
  exact ⟨heval, hsettle⟩

/-- A sample whose evaluation completes shows its instant, and the loop goes on under its set. -/
def State.evaluating (s : State) (l time : Nat) : State := setReg (SC_LOOP_TIME l) (w32 time) (setLoop l (s.loop_ l) (stampChanges (· = tgtSc) time (takeIssue s)))

/-- A sample that no loop in RUN may take (R298). -/
def badSample (set : List Word) (fb : Int) (w : Word) : Bool := w.getLsbD resInvalid || w.getLsbD resOver || decide (fb < LSet.fbMin set ∨ LSet.fbMax set < fb)

/-- What an evaluation comes to in HOLD, and in RUN. -/
def State.evaluationOf (s : State) (l : Nat) (fb : Int) (w : Word) (time : Nat) : State :=
  if s.loopState l = 2 then setReg (SC_LOOP_FB l) (w32 (toBits 24 fb)) s
  else if badSample (s.loop_ l).set fb w then enterHold l SC_LOOP_FLAGS.out_of_range s
  else evaluate l fb time false (setLoopState l 1 s)

theorem evaluating_sc : (s.evaluating l z).sc = { s.sc with issued := s.sc.issued.drop 1, evals := s.sc.evals + 1, loops := put (fun _ => {}) s.sc.loops l (s.loop_ l) } := by
  have hsc : (stampChanges (· = tgtSc) z (takeIssue s)).sc = (takeIssue s).sc := stampChanges_kept (p := .sc) (by decide) (.refl _ _)
  change { (stampChanges (· = tgtSc) z (takeIssue s)).sc with loops := put (fun _ => {}) (stampChanges (· = tgtSc) z (takeIssue s)).sc.loops l (s.loop_ l) } = _
  rw [hsc]
  rfl

theorem evaluating_loop : (s.evaluating l z).loop_ j = s.loop_ j := by
  unfold State.loop_
  rw [evaluating_sc]
  refine (look_put _ _ _ _).trans ?_
  split_ifs with h
  · rw [h]
    rfl
  · rfl

theorem evaluating_regs : (s.evaluating l z).regs = (setReg (SC_LOOP_TIME l) (w32 z) s).regs := by
  have hregs : (stampChanges (· = tgtSc) z (takeIssue s)).regs = s.regs :=
    stampChanges_kept (p := .regs) (by decide) (takeIssue_kept (by decide) (.refl _ s))
  change put regReset (stampChanges (· = tgtSc) z (takeIssue s)).regs _ _ = _
  rw [hregs]
  rfl

theorem evaluating_reg : (s.evaluating l z).reg b = if b = SC_LOOP_TIME l then w32 z else s.reg b :=
  (congrArg (look regReset · b) evaluating_regs).trans setReg_reg

/-- The evaluation of a sample of a loop in RUN or HOLD, with nothing to issue, no swap to take and no set-point to come into force. -/
theorem loopEvaluation_completes {lv : Fin 64} {i : Issue} {is : List Issue} (hissued : s.sc.issued = i :: is) (hloop : i.loop = lv) (hsample : i.sample = some (fb, w, z))
    (hdue : i.at_ + 300 ≤ s.now) (hnext : s.nextIssue = none) (hruns : s.scRuns = true) (hwait : s.cut.waiting = [])
    (hset : (s.loop_ lv).set = loopSet (s.planeOf tgtSc) lv) (hsp : (s.loop_ lv).spNext = []) (hkind : LSet.kind (s.loop_ lv).set = 0)
    (hinv : LSet.invert (s.loop_ lv).set = false) (hst : s.loopState lv = 1 ∨ s.loopState lv = 2) :
    exec (.loopEvaluation lv) s = .next ((s.evaluating lv z).evaluationOf lv fb w z) := by
  have hidle := engineRun_idle hnext
  have hcompletes : s.completes lv true = some i := completes_some hissued hloop (by rw [hsample]; rfl) hdue
  change execLoopEvaluation lv s = _
  unfold execLoopEvaluation
  refine congrArg Host.Outcome.next ?_
  extract_lets l e
  have he : e = s := hidle
  clear_value e
  subst he
  have hsome : (if e.scRuns then e.completes l true else none).bind (·.sample) = some (fb, w, z) := by
    rw [if_pos hruns, hcompletes]
    exact hsample
  rw [hsome]
  dsimp -zeta only
  extract_lets s0 s1 s2 y0 due y s3 set v bad still
  have hcut : s0.cut = e.cut := stampChanges_kept (p := .cut) (by decide) (takeIssue_kept (by decide) (.refl _ e))
  have hwait0 : s0.cut.waiting.contains tgtSc = false := by rw [hcut, hwait]; rfl
  have hloop0 : s0.loop_ l = e.loop_ l := loop_of_sc (s := takeIssue e) (stampChanges_kept (p := .sc) (by decide) (.refl _ _))
  have hs1 : s1 = s0 := if_neg fun h => by rw [hwait0] at h; exact Bool.false_ne_true h.1
  have hs2 : s2 = s0 := by
    have hsame : s1.planeOf tgtSc = e.planeOf tgtSc := by rw [hs1, State.planeOf, State.planeOf, hcut]
    have hstay : changeSet l (loopSet (s1.planeOf tgtSc) l) s1 = s1 := if_pos (by rw [hs1, hloop0, ← hs1, hsame]; exact hset)
    exact ((ite_congr rfl (fun _ => hstay) fun _ => rfl).trans (ite_self _)).trans hs1
  have hy0 : y0 = e.loop_ l := (congrArg (State.loop_ · l) hs2).trans hloop0
  have hy : y = e.loop_ l := by
    have hnil : y0.spNext = [] := (congrArg Loop.spNext hy0).trans hsp
    simp only [y, due, hnil, List.filter_nil, List.getLast?_nil, Option.map_none, Option.getD_none]
    exact (congrArg (fun l => { y0 with spNext := l }) hnil.symm).trans hy0
  have hs3 : s3 = e.evaluating l z := by
    change setReg (SC_LOOP_TIME l) (w32 z) (setLoop l y s2) = _
    rw [hy, hs2]
    rfl
  have hset' : set = (e.loop_ l).set := congrArg Loop.set hy
  have hv : v = fb := if_neg (by rw [hset', hinv]; exact Bool.false_ne_true)
  have hbad : bad = badSample (e.loop_ l).set fb w := by
    change (_ || decide (v < LSet.fbMin set ∨ LSet.fbMax set < v)) = _
    rw [hv, hset']
    rfl
  have hstill : still = false := decide_eq_false fun ⟨_, h, _⟩ => by
    rw [hset', hkind] at h
    contradiction
  have hstate : (e.evaluating l z).loopState l = e.loopState l := fget_of_reg (evaluating_reg.trans (if_neg (scLoop_ne (by decide))))
  rw [hs3, hbad, hstill, hv, State.evaluationOf, hstate, evaluating_loop]
  rcases hst with h | h
  · rw [h, if_neg (show ¬(1 = 2) by decide), if_neg Bool.false_ne_true]
    rfl
  · rw [h, if_pos rfl]
    rfl

/-! ### What an evaluation shows (R284, R285, R298, R300, R302) -/

theorem evaluating_loopReg (h : b ≠ SC_LOOP_TIME l) : (s.evaluating l z).reg b = s.reg b := evaluating_reg.trans (if_neg h)

theorem evaluating_state : (s.evaluating l z).loopState j = s.loopState j :=
  fget_of_reg (evaluating_loopReg (by simp only [SC_LOOP_STATUS, SC_LOOP_TIME, baseScLoop]; omega))

theorem evaluating_issued {i : Issue} {is : List Issue} (h : s.sc.issued = i :: is) : (s.evaluating l z).sc.issued = is := by
  rw [evaluating_sc, h]
  rfl

theorem evaluating_onlyRegs {r : List Nat} (h : SC_LOOP_TIME l ∈ r) : OnlyRegs r s (s.evaluating l z) :=
  fun _ hb => evaluating_loopReg fun e => hb (e ▸ h)

theorem evaluationOf_bad (hl : l < 64) (h1 : s.loopState l = 1) (hbad : badSample (s.loop_ l).set fb w = true) : InHold l (s.evaluationOf l fb w z) ∧
    (s.evaluationOf l fb w z).rbit (SC_LOOP_FLAGS l) SC_LOOP_FLAGS.out_of_range.lo = true ∧ (s.evaluationOf l fb w z).sc.issued = s.sc.issued ∧
    (s.evaluationOf l fb w z).loop_ l = s.loop_ l ∧ (s.evaluationOf l fb w z).reg (SC_LOOP_OUT l) = s.reg (SC_LOOP_OUT l) := by
  rw [State.evaluationOf, if_neg (by omega), if_pos hbad]
  exact ⟨enterHold_held hl, enterHold_flag hl (by decide), unreported_field Sc.issued enterHold_sc, loop_of_unreported enterHold_sc,
    enterHold_reg hl (loopReg_near (by decide)) (scLoop_ne (by decide)) (scLoop_ne (by decide))⟩

/-- The integrator and the output of one step of the PID law on feedback `fb`, towards the set-point in force (R284). -/
def Loop.pid (x : Loop) (fb : Int) : Int × Int :=
  let e := x.spNow - fb
  let p := (LSet.kp x.set * e) / 2 ^ 16
  let d := (LSet.kd x.set * (x.fbPrev - fb)) / 2 ^ 16
  let raw := p + x.iAcc / 2 ^ 16 + d
  let ki := LSet.ki x.set
  let i1 := if (LSet.uMax x.set ≤ raw ∧ 0 < ki * e) ∨ (raw ≤ LSet.uMin x.set ∧ ki * e < 0) then x.iAcc else clampI (-(2 ^ 39)) (2 ^ 39 - 1) (x.iAcc + ki * e)
  (i1, clampI (LSet.uMin x.set) (LSet.uMax x.set) (p + i1 / 2 ^ 16 + d))

/-- After the first evaluation and without a limit of the set-point's rate, a loop follows the PID law. -/
theorem loopLaw_pid (hfirst : x.first = false) (hrate : LSet.rateLim x.set = 0) : (loopLaw x false false fb x.spNow).x.iAcc = (x.pid fb).1 ∧
    (loopLaw x false false fb x.spNow).x.uPrev = (x.pid fb).2 ∧ (loopLaw x false false fb x.spNow).u = (x.pid fb).2 ∧
    (loopLaw x false false fb x.spNow).x.fbPrev = fb ∧ (loopLaw x false false fb x.spNow).limited = false := by
  have hround : (x.spNow * 65536 + 32768) / 65536 = x.spNow := by omega
  simp [loopLaw, Loop.pid, hfirst, hrate, hround]

/-- What a law leaves in a loop on feedback `fb0`, which is `fb` after the inversion. -/
def Law.kept (law : Law) (x : Loop) (fb0 fb : Int) (time : Nat) (held : Bool) : Loop :=
  { law.x with hist := if held then [] else ((fb, law.u) :: x.hist).take (max 1 (LSet.frzN x.set)), lastFb := some (fb0, time) }

/-- A loop shows what its law has computed. -/
def State.lawShown (s : State) (l : Nat) (law : Law) (y : Loop) (fb : Int) : State :=
  setReg (SC_LOOP_FB l) (w32 (toBits 24 fb)) (flagIf law.limited (SC_LOOP_FLAGS l) SC_LOOP_FLAGS.ramp_limited_seen
    (fsets (SC_LOOP_STATUS l) [(SC_LOOP_STATUS.ramp_limited, b2n law.limited), (SC_LOOP_STATUS.sat_hi, b2n (decide (law.u = LSet.uMax (s.loop_ l).set))),
      (SC_LOOP_STATUS.sat_lo, b2n (decide (law.u = LSet.uMin (s.loop_ l).set)))] (setLoop l y s)))

/-- The law of loop `l` on feedback `fb0`. -/
def State.lawOf (s : State) (l : Nat) (fb0 : Int) (time : Nat) (held : Bool) : Law :=
  loopLaw (s.loop_ l) (decide (l < 8 ∧ LSet.kind (s.loop_ l).set = 1)) held (if LSet.invert (s.loop_ l).set then -fb0 else fb0) (s.loopTarget l time)

/-- The evaluation of a loop whose temperature has been read. -/
def State.lawGiven (s : State) (l : Nat) (fb0 : Int) (time : Nat) (held : Bool) : State :=
  let fb := if LSet.invert (s.loop_ l).set then -fb0 else fb0
  let law := s.lawOf l fb0 time held
  emitOutput l law.u time held (s.lawShown l law (law.kept (s.loop_ l) fb0 fb time held) fb)

/-- A bias loop has read its temperature. -/
def State.tempRead (s : State) (l : Nat) : State := if loopBias l then readBiasTemp l (s.loop_ l).set s else s

theorem frozen_off {y : Loop} (h : LSet.frzN y.set = 0) : y.frozen k = false := by simp [Loop.frozen, h]

theorem evaluate_thawed (h : held = true ∨ LSet.frzN ((s.tempRead l).loop_ l).set = 0) : evaluate l fb z held s = (s.tempRead l).lawGiven l fb z held := by
  refine if_neg fun hfrozen => ?_
  rw [Bool.and_eq_true, Bool.and_eq_true] at hfrozen
  obtain ⟨⟨hfree, -⟩, hfrozen⟩ := hfrozen
  rcases h with rfl | h
  · contradiction
  · exact Bool.noConfusion (hfrozen.symm.trans (frozen_off h))

theorem lawShown_state : (s.lawShown l law y fb).loopState l = s.loopState l := by
  have hnear : LoopReg l (SC_LOOP_STATUS l) := loopReg_near (by decide)
  refine (fget_of_reg ((setReg_reg_other (scLoop_ne (by decide))).trans (flagIf_reg (scLoop_ne (by decide)) hnear.ne_rec.1 hnear.ne_rec.2))).trans ?_
  exact fsets_fget_apart (show ∀ f ∈ [SC_LOOP_STATUS.ramp_limited, SC_LOOP_STATUS.sat_hi, SC_LOOP_STATUS.sat_lo], Apart f SC_LOOP_STATUS.state by decide)

theorem lawShown_sc : (s.lawShown l law y fb).sc = (setLoop l y s).sc := flagIf_sc

/-! ### An axis under the PID law (R284, R289) -/

theorem loopTarget_free (hl : l < 8) (hcascade : s.cascadeOf l = none) (hprof : LSet.nProf (s.loop_ l).set = 0) : s.loopTarget l z = (s.loop_ l).spNow := by
  have hbias : loopBias l = false := by simp [loopBias, Nat.not_le.mpr hl]
  simp [State.loopTarget, hcascade, hbias, hprof]

/-- The loop that drives a set-point is found by the sets and states of the generic loops. -/
theorem cascadeOf_none_of (h : s.cascadeOf l = none) (hloop : ∀ j, t.loop_ j = s.loop_ j) (hstate : ∀ j, 56 ≤ j → t.loopState j = s.loopState j) : t.cascadeOf l = none := by
  unfold State.cascadeOf at h ⊢
  rw [List.find?_eq_none] at h ⊢
  intro j hj
  obtain ⟨i, -, rfl⟩ := List.mem_map.mp hj
  have hfree := h _ hj
  dsimp only at hfree ⊢
  rwa [hloop, hstate _ (Nat.le_add_left 56 i)]

/-- The output of loop `l` has left as the next drive word of its axis. -/
def State.drivenBy (s : State) (l : Nat) (v : Int) (time : Nat) : State :=
  setAxis l { s.axis l with drive := some { value := v, time := time, held := false, loop := l } } (setReg (SC_LOOP_OUT l) (w32 (toBits 24 v)) s)

theorem drivenBy_reg : (s.drivenBy l v z).reg b = if b = SC_LOOP_OUT l then w32 (toBits 24 v) else s.reg b := setReg_reg

theorem drivenBy_drive : ((s.drivenBy l v z).axis l).drive = some { value := v, time := z, held := false, loop := l } := congrArg Axis.drive setAxis_axis_same

theorem drivenBy_onlyRegs {r : List Nat} (h : SC_LOOP_OUT l ∈ r) : OnlyRegs r s (s.drivenBy l v z) := OnlyRegs.refl.setReg h

/-- The output of an axis under the PID law leaves as its next drive word. -/
theorem emitOutput_axis (hl : l < 8) (hkind : LSet.kind (s.loop_ l).set = 0) : emitOutput l v z false s = s.drivenBy l v z :=
  (if_pos hl).trans (if_neg fun h => by
    have hone : LSet.kind (s.loop_ l).set = 1 := h.1
    omega)

/-- Loop `l` has followed its law in RUN. -/
def State.followed (s : State) (l : Nat) (fb : Int) (time : Nat) : State :=
  let law := loopLaw (s.loop_ l) false false fb (s.loop_ l).spNow
  (setLoopState l 1 s).lawShown l law (law.kept (s.loop_ l) fb fb time false) fb

/-- What the law leaves in loop `l`. -/
theorem followed_sc : (s.followed l fb z).sc = (setLoop l ((loopLaw (s.loop_ l) false false fb (s.loop_ l).spNow).kept (s.loop_ l) fb fb z false) s).sc :=
  lawShown_sc

theorem followed_issued : (s.followed l fb z).sc.issued = s.sc.issued := (congrArg Sc.issued followed_sc).trans rfl

theorem evaluationOf_runs (hl : l < 8) (h1 : s.loopState l = 1) (hgood : badSample (s.loop_ l).set fb w = false) (hkind : LSet.kind (s.loop_ l).set = 0)
    (hinv : LSet.invert (s.loop_ l).set = false) (hfirst : (s.loop_ l).first = false) (hrate : LSet.rateLim (s.loop_ l).set = 0)
    (hprof : LSet.nProf (s.loop_ l).set = 0) (hfrz : LSet.frzN (s.loop_ l).set = 0) (hcascade : s.cascadeOf l = none) :
    s.evaluationOf l fb w z = (s.followed l fb z).drivenBy l ((s.loop_ l).pid fb).2 z := by
  have htemp : (setLoopState l 1 s).tempRead l = setLoopState l 1 s := if_neg (by simp [loopBias, Nat.not_le.mpr hl])
  have hcascade' : (setLoopState l 1 s).cascadeOf l = none :=
    cascadeOf_none_of hcascade (fun _ => rfl) fun j hj => fset_fget_other (by simp only [SC_LOOP_STATUS, baseScLoop]; omega)
  have hlaw : (setLoopState l 1 s).lawOf l fb z false = loopLaw (s.loop_ l) false false fb (s.loop_ l).spNow := by
    rw [State.lawOf, loopTarget_free hl hcascade' hprof]
    change loopLaw (s.loop_ l) (decide (l < 8 ∧ LSet.kind (s.loop_ l).set = 1)) false (if LSet.invert (s.loop_ l).set then -fb else fb) _ = _
    rw [hkind, hinv, if_neg Bool.false_ne_true, decide_eq_false fun h => Nat.zero_ne_one h.2]
    rfl
  have hgiven : (setLoopState l 1 s).lawGiven l fb z false = emitOutput l ((s.loop_ l).pid fb).2 z false (s.followed l fb z) := by
    have hfb : (if LSet.invert ((setLoopState l 1 s).loop_ l).set then -fb else fb) = fb := if_neg (by
      change ¬LSet.invert (s.loop_ l).set = true
      rw [hinv]
      exact Bool.false_ne_true)
    rw [State.lawGiven, hfb, hlaw, (loopLaw_pid hfirst hrate).2.2.1]
    rfl
  have hset : ((s.followed l fb z).loop_ l).set = (s.loop_ l).set := by
    rw [State.followed, loop_of_sc lawShown_sc, setLoop_get_same]
    rfl
  rw [State.evaluationOf, h1, if_neg (by decide), if_neg (by rw [hgood]; exact Bool.false_ne_true),
    evaluate_thawed (.inr (by rw [htemp]; exact hfrz)), htemp, hgiven, emitOutput_axis hl (by rw [hset, hkind])]

theorem followed_shows (hfirst : (s.loop_ l).first = false) (hrate : LSet.rateLim (s.loop_ l).set = 0) :
    ((s.followed l fb z).loop_ l).pend = (s.loop_ l).pend ∧ ((s.followed l fb z).loop_ l).iAcc = ((s.loop_ l).pid fb).1 ∧
      ((s.followed l fb z).loop_ l).uPrev = ((s.loop_ l).pid fb).2 ∧ ((s.followed l fb z).loop_ l).fbPrev = fb ∧ (s.followed l fb z).loopState l = 1 ∧
      (s.followed l fb z).sc.issued = s.sc.issued := by
  obtain ⟨hacc, hout, -, hprev, -⟩ := loopLaw_pid (fb := fb) hfirst hrate
  have hloop : (s.followed l fb z).loop_ l = (loopLaw (s.loop_ l) false false fb (s.loop_ l).spNow).kept (s.loop_ l) fb fb z false :=
    (loop_of_sc followed_sc).trans setLoop_get_same
  rw [hloop]
  exact ⟨rfl, hacc, hout, hprev, lawShown_state.trans (fset_fget_same (by decide)), followed_issued⟩

theorem followed_onlyRegs {r : List Nat} (hfirst : (s.loop_ l).first = false) (hrate : LSet.rateLim (s.loop_ l).set = 0) (hs : SC_LOOP_STATUS l ∈ r)
    (hf : SC_LOOP_FB l ∈ r) : OnlyRegs r s (s.followed l fb z) := by
  have hlimited : (loopLaw (s.loop_ l) false false fb (s.loop_ l).spNow).limited = false := (loopLaw_pid hfirst hrate).2.2.2.2
  simp only [State.followed, State.lawShown, hlimited]
  exact (((OnlyRegs.refl.fset hs).trans .refl).fsets hs).setReg hf

theorem followed_fb : (s.followed l fb z).reg (SC_LOOP_FB l) = w32 (toBits 24 fb) := setReg_reg_same

/-- A sample of a loop in HOLD shows its feedback and leaves the loop there. -/
theorem evaluationOf_waits (h2 : s.loopState l = 2) : s.evaluationOf l fb w z = setReg (SC_LOOP_FB l) (w32 (toBits 24 fb)) s := if_pos h2

/-! ### No sample comes in two periods (R298) -/

theorem loopTimeout_eq {lv : Fin 64} (hruns : s.scRuns = true) (hst : s.loopState lv = 1 ∨ s.loopState lv = 4) (hfree : s.loopSuppressed lv = false)
    (hres : decide (lv.val < 8 ∧ LSet.kind (s.loop_ lv).set = 1) = false) : exec (.loopTimeout lv) s = .next (
      if (s.loop_ lv).arrived + 2 * LSet.period (s.loop_ lv).set ≤ s.now then enterHold lv SC_LOOP_FLAGS.timeout s else s) := by
  have hwatched : (s.loopState lv ≠ 1 && s.loopState lv ≠ 4) = false := by rcases hst with h | h <;> rw [h] <;> rfl
  change execLoopTimeout lv s = _
  unfold execLoopTimeout
  dsimp only
  rw [hres, hruns, hwatched, hfree]
  by_cases hlate : (s.loop_ lv).arrived + 2 * LSet.period (s.loop_ lv).set ≤ s.now
  · simp [hlate, flagIf]
  · simp [hlate]

/-! ### An evaluation on suppressed feedback (R301) -/

/-- What an evaluation of loop `l` in SETTLE_HOLD leaves: the evaluations to come, the loop's state and its flag settle_held. -/
structure Suppressed (l : Nat) (is : List Issue) (s : State) : Prop where
  issued : s.sc.issued = is
  state : s.loopState l = 3
  flagged : s.rbit (SC_LOOP_FLAGS l) SC_LOOP_FLAGS.settle_held.lo = true

theorem Suppressed.of_regs {is : List Issue} (h : Suppressed l is s) (hissued : t.sc.issued = s.sc.issued) (hstate : t.reg (SC_LOOP_STATUS l) = s.reg (SC_LOOP_STATUS l))
    (hflags : t.reg (SC_LOOP_FLAGS l) = s.reg (SC_LOOP_FLAGS l)) : Suppressed l is t :=
  ⟨hissued.trans h.issued, (fget_of_reg hstate).trans h.state, (rbit_of_reg hflags).trans h.flagged⟩

theorem readBiasTemp_eq {set : List Word} : readBiasTemp l set s = flag (SC_LOOP_FLAGS l) SC_LOOP_FLAGS.temp_stale s ∨
    ∃ v, readBiasTemp l set s = setLoop l { s.loop_ l with temp := some v } s := by
  unfold readBiasTemp
  dsimp only
  split_ifs
  · exact .inl rfl
  · exact .inr ⟨_, rfl⟩

theorem Suppressed.tempRead {is : List Issue} (h : Suppressed l is s) : Suppressed l is (s.tempRead l) := by
  have hnear : LoopReg l (SC_LOOP_STATUS l) := loopReg_near (by decide)
  have hflags : LoopReg l (SC_LOOP_FLAGS l) := loopReg_near (by decide)
  unfold State.tempRead
  split_ifs
  · obtain heq | ⟨v, heq⟩ := readBiasTemp_eq (l := l) (set := (s.loop_ l).set) (s := s)
    · rw [heq]
      have hreg : (flag (SC_LOOP_FLAGS l) SC_LOOP_FLAGS.temp_stale s).reg (SC_LOOP_STATUS l) = s.reg (SC_LOOP_STATUS l) :=
        flag_reg (scLoop_ne (by decide)) hnear.ne_rec.1 hnear.ne_rec.2
      exact ⟨(congrArg Sc.issued flag_sc).trans h.issued, (fget_of_reg hreg).trans h.state, flag_rbit_kept hflags.ne_rec h.flagged⟩
    · rw [heq]
      exact h.of_regs rfl rfl rfl
  · exact h

theorem tempRead_law : ((s.tempRead l).loop_ l).first = (s.loop_ l).first ∧ ((s.tempRead l).loop_ l).iAcc = (s.loop_ l).iAcc := by
  unfold State.tempRead
  split_ifs
  · obtain heq | ⟨v, heq⟩ := readBiasTemp_eq (l := l) (set := (s.loop_ l).set) (s := s)
    · rw [heq, loop_of_sc flag_sc]
      exact ⟨rfl, rfl⟩
    · rw [heq, setLoop_get_same]
      exact ⟨rfl, rfl⟩
  · exact ⟨rfl, rfl⟩

theorem Suppressed.lawShown {is : List Issue} (h : Suppressed l is s) : Suppressed l is (s.lawShown l law y fb) := by
  have hflags : LoopReg l (SC_LOOP_FLAGS l) := loopReg_near (by decide)
  refine ⟨(congrArg Sc.issued lawShown_sc).trans h.issued, lawShown_state.trans h.state, ?_⟩
  refine (rbit_of_reg (setReg_reg_other (scLoop_ne (by decide)))).trans (flagIf_rbit_kept hflags.ne_rec ?_)
  exact (rbit_of_reg (fsets_reg.trans (if_neg (scLoop_ne (by decide))))).trans h.flagged

/-- An output changes, of the state, status and flags of its loop, nothing. -/
theorem Suppressed.emitOutput {is : List Issue} (h : Suppressed l is s) : Suppressed l is (emitOutput l v z held s) := by
  have hbase : Suppressed l is (setReg (SC_LOOP_OUT l) (w32 (toBits 24 v)) s) :=
    h.of_regs rfl (setReg_reg_other (scLoop_ne (by decide))) (setReg_reg_other (scLoop_ne (by decide)))
  have hstatus : LoopReg l (SC_LOOP_STATUS l) := loopReg_near (by decide)
  have hflags : LoopReg l (SC_LOOP_FLAGS l) := loopReg_near (by decide)
  unfold Machine.emitOutput
  dsimp only
  split_ifs
  · exact hbase
  · exact hbase.of_regs rfl rfl rfl
  · exact hbase.of_regs rfl (setReg_reg_other (scLoop_ne (by decide))) (setReg_reg_other (scLoop_ne (by decide)))
  · exact hbase.of_regs rfl rfl rfl
  · exact hbase.of_regs rfl (setReg_reg_other (hstatus.ne_axis (Nat.mod_lt _ (by decide)) (by decide)))
      (setReg_reg_other (hflags.ne_axis (Nat.mod_lt _ (by decide)) (by decide)))
  · exact hbase

theorem noteDelay_loop : (noteDelay l n s).loop_ l = { s.loop_ l with delayFresh := false } := setLoop_get_same

theorem emitOutput_iAcc : ((emitOutput l v z held s).loop_ l).iAcc = (s.loop_ l).iAcc := by
  unfold emitOutput
  dsimp only
  split_ifs
  · rfl
  · rfl
  · exact (congrArg Loop.iAcc noteDelay_loop).trans rfl
  · rfl
  · rfl
  · rfl

/-- Held feedback leaves the integrator. -/
theorem loopLaw_held {res : Bool} {tgt : Int} (hfirst : x.first = false) : (loopLaw x res true fb tgt).x.iAcc = x.iAcc := by
  simp [loopLaw, hfirst]

theorem evaluate_held {is : List Issue} (h : Suppressed l is s) : Suppressed l is (evaluate l fb z true s) ∧
    ((s.loop_ l).first = false → ((evaluate l fb z true s).loop_ l).iAcc = (s.loop_ l).iAcc) := by
  rw [evaluate_thawed (.inl rfl)]
  refine ⟨h.tempRead.lawShown.emitOutput, fun hfirst => emitOutput_iAcc.trans ?_⟩
  rw [loop_of_sc lawShown_sc, setLoop_get_same]
  exact (loopLaw_held (tempRead_law.1.trans hfirst)).trans tempRead_law.2

/-- The evaluation on the last valid sample, where one has come. -/
def State.heldOn (s : State) (l : Nat) : State :=
  match (s.loop_ l).lastFb with
  | none => s
  | some (fb, time) => evaluate l fb time true s

theorem heldOn_keeps {is : List Issue} (h : Suppressed l is s) : Suppressed l is (s.heldOn l) ∧
    ((s.loop_ l).first = false → ((s.heldOn l).loop_ l).iAcc = (s.loop_ l).iAcc) := by
  unfold State.heldOn
  split
  · exact ⟨h, fun _ => rfl⟩
  · exact evaluate_held h

theorem settleHoldEvaluation_completes {lv : Fin 64} {i : Issue} {is : List Issue} (hissued : s.sc.issued = i :: is) (hloop : i.loop = lv) (hsample : i.sample = none)
    (hdue : i.at_ + 300 ≤ s.now) (hnext : s.nextIssue = none) (hruns : s.scRuns = true) (h3 : s.loopState lv = 3) :
    ∃ t, exec (.settleHoldEvaluation lv) s = .next t ∧ Suppressed lv is t ∧ ((s.loop_ lv).first = false → (t.loop_ lv).iAcc = (s.loop_ lv).iAcc) := by
  have hcompletes : s.completes lv false = some i := completes_some hissued hloop (by rw [hsample]; rfl) hdue
  have hnear : LoopReg lv (SC_LOOP_FLAGS lv) := loopReg_near (by decide)
  have hnear' : LoopReg lv (SC_LOOP_STATUS lv) := loopReg_near (by decide)
  have hflagged : Suppressed lv is (flag (SC_LOOP_FLAGS lv) SC_LOOP_FLAGS.settle_held (takeIssue s)) := by
    have hstatus : (flag (SC_LOOP_FLAGS lv) SC_LOOP_FLAGS.settle_held (takeIssue s)).reg (SC_LOOP_STATUS lv) = s.reg (SC_LOOP_STATUS lv) :=
      flag_reg (scLoop_ne (by decide)) hnear'.ne_rec.1 hnear'.ne_rec.2
    refine ⟨(congrArg Sc.issued flag_sc).trans ?_, (fget_of_reg hstatus).trans h3, flag_rbit (by decide) hnear.ne_rec⟩
    change s.sc.issued.drop 1 = is
    rw [hissued]
    rfl
  have hloops : (flag (SC_LOOP_FLAGS lv) SC_LOOP_FLAGS.settle_held (takeIssue s)).loop_ lv = s.loop_ lv := loop_of_sc (s := takeIssue s) flag_sc
  have hstay : ¬(takeIssue s).loopState lv ≠ 3 := not_not.mpr h3
  have hexec : exec (.settleHoldEvaluation lv) s = .next ((flag (SC_LOOP_FLAGS lv) SC_LOOP_FLAGS.settle_held (takeIssue s)).heldOn lv) := by
    change execSettleHoldEvaluation lv s = _
    unfold execSettleHoldEvaluation
    dsimp only
    rw [engineRun_idle hnext, hcompletes, hruns, if_neg (by simp), if_neg hstay]
    rfl
  obtain ⟨hkept, hacc⟩ := heldOn_keeps hflagged
  rw [hloops] at hacc
  exact ⟨_, hexec, hkept, hacc⟩

/-! ### The load of the engine (R280) -/

/-- The engine shows its load and counts from 0. -/
def State.loadShown (s : State) : State :=
  fset SC_ENG_STATUS SC_ENG_STATUS.load (min 8191 s.sc.evals) { s with sc := { s.sc with evals := 0 } }

theorem engineLoadUpdate_eq : exec .engineLoadUpdate s = .next (flagIf (4000 ≤ s.sc.evals) SC_ENG_FLAGS SC_ENG_FLAGS.overload s.loadShown) := rfl

theorem engineLoadUpdate_shows : ∃ t, exec .engineLoadUpdate s = .next t ∧ t.sc.evals = 0 ∧ t.fget SC_ENG_STATUS SC_ENG_STATUS.load = min 8191 s.sc.evals ∧
    (4000 ≤ s.sc.evals → t.rbit SC_ENG_FLAGS SC_ENG_FLAGS.overload.lo = true) ∧ (s.sc.evals < 4000 → OnlyRegs [SC_ENG_STATUS] s t) := by
  refine ⟨_, engineLoadUpdate_eq, congrArg Sc.evals flagIf_sc, ?_, fun h => ?_, fun h => ?_⟩
  · refine (fget_of_reg (flagIf_reg (by decide) (by decide) (by decide))).trans ((fset_fget_same (by decide)).trans ?_)
    exact Nat.mod_eq_of_lt (Nat.lt_succ_of_le (Nat.min_le_left 8191 _))
  · rw [flagIf, if_pos (decide_eq_true h)]
    exact flag_rbit (by decide) ⟨by decide, by decide⟩
  · rw [flagIf, if_neg (by simpa using h)]
    exact (OnlyRegs.refl (s := s)).setReg (t := { s with sc := { s.sc with evals := 0 } }) List.mem_cons_self

/-! ### Commands and writes of a loop (R286, R289, R295, R302) -/

/-- A loop re-armed from HOLD, before its axis withdraws the scan fault. -/
def State.rearming (s : State) (l : Nat) : State := setLoopState l 4
  (setLoop l { s.loop_ l with rearmGood := 0, rearmPeriods := 0, hist := [], lowPeriods := 0, crossed := false, arrived := s.now } s)

theorem loopRearm_held (h2 : s.loopState l = 2) : loopRearm l s = if l < 8 then scanFault l false (s.rearming l) else s.rearming l := if_pos h2

theorem loopRearm_loop (h2 : s.loopState l = 2) : (loopRearm l s).loop_ j = (s.rearming l).loop_ j := by
  rw [loopRearm_held h2]
  split_ifs
  · exact loop_of_unreported scanFault_sc
  · rfl

theorem loopRearm_state (hl : l < 64) (h2 : s.loopState l = 2) : (loopRearm l s).loopState l = 4 := by
  have hnear : LoopReg l (SC_LOOP_STATUS l) := loopReg_near (by decide)
  have hstate : (s.rearming l).loopState l = 4 := fset_fget_same (by decide)
  rw [loopRearm_held h2]
  split_ifs with h8
  · exact (fget_of_reg (scanFault_reg (hnear.ne_axis h8 (by decide)) (hnear.ne_eng hl) hnear.ne_rec)).trans hstate
  · exact hstate

theorem loopRearm_fault (h8 : l < 8) (h2 : s.loopState l = 2) : (loopRearm l s).fget (SC_AXIS_STATUS l) SC_AXIS_STATUS.scan_fault = 0 := by
  rw [loopRearm_held h2, if_pos h8, scanFault_shows]
  rfl

theorem clearDelay_least : (clearDelay l s).fget (SC_LOOP_DELAY l) SC_LOOP_DELAY.least = 0 := by
  rw [clearDelay, fsets_fget]
  exact (getF_setF_other (by decide)).trans (getF_setF_same (by decide))

theorem clearDelay_greatest : (clearDelay l s).fget (SC_LOOP_DELAY l) SC_LOOP_DELAY.greatest = 0 := by
  rw [clearDelay, fsets_fget]
  exact getF_setF_same (by decide)

theorem clearDelay_loop : (clearDelay l s).loop_ l = { s.loop_ l with delayFresh := true } := setLoop_get_same

theorem hostWriteIf_discards {q : Nat} {f : State → State} (h : s.takes a) : hostWriteIf false q a f s = discardWrite q a s := by
  obtain ⟨hanswers, htarget⟩ := h
  rw [hostWriteIf, if_neg Bool.false_ne_true, hanswers, htarget]
  rfl

theorem loopRearm_eq {q : Requester} {lv : Fin 64} (ht : s.takes (SC_LOOP_CMD lv)) :
    exec (.loopRearm q lv) s = .next (completeOk q (SC_LOOP_CMD lv + 1) (loopRearm lv s)) := congrArg Host.Outcome.next (hostWrite_takes ht)

theorem clearDelay_eq {q : Requester} {lv : Fin 64} (ht : s.takes (SC_LOOP_CMD lv)) :
    exec (.clearDelay q lv) s = .next (completeOk q (SC_LOOP_CMD lv + 1) (clearDelay lv s)) := congrArg Host.Outcome.next (hostWrite_takes ht)

theorem amplitudeWrite_eq {q : Requester} {av : Fin 8} {on : Bool} (hdriven : s.ampDriven av = on) :
    exec (.amplitudeWrite q av w) s = .next (hostWriteIf (!on) q (SC_AXIS_AMP av) (ampWrite av w) s) := by
  rw [← hdriven]
  rfl

/-! ### O31 -/

/-- A bad sample of a loop in RUN. -/
theorem evaluation_bad {i : Issue} {is : List Issue} (hl : l < 64) (hissued : s.sc.issued = i :: is) (h1 : s.loopState l = 1)
    (hbad : badSample (s.loop_ l).set fb w = true) :
    let t := (s.evaluating l z).evaluationOf l fb w z
    InHold l t ∧ t.rbit (SC_LOOP_FLAGS l) SC_LOOP_FLAGS.out_of_range.lo = true ∧ t.sc.issued = is ∧ (t.loop_ l).pend = (s.loop_ l).pend ∧
      t.reg (SC_LOOP_OUT l) = s.reg (SC_LOOP_OUT l) := by
  obtain ⟨hheld, hflag, hsame, hloop, hout⟩ := evaluationOf_bad (s := s.evaluating l z) (z := z) hl (evaluating_state.trans h1) (by rwa [evaluating_loop])
  refine ⟨hheld, hflag, hsame.trans (evaluating_issued hissued), ?_, hout.trans (evaluating_loopReg (scLoop_ne (by decide)))⟩
  rw [hloop, evaluating_loop]

/-- A sample of a loop in HOLD. -/
theorem evaluation_waits {i : Issue} {is : List Issue} (hissued : s.sc.issued = i :: is) (h2 : s.loopState l = 2) :
    let t := (s.evaluating l z).evaluationOf l fb w z
    t.loopState l = 2 ∧ t.sc.issued = is ∧ (t.loop_ l).pend = (s.loop_ l).pend ∧ t.reg (SC_LOOP_TIME l) = BitVec.ofNat 32 z ∧
      t.reg (SC_LOOP_FB l) = BitVec.ofNat 32 (toBits 24 fb) ∧ OnlyRegs [SC_LOOP_TIME l, SC_LOOP_FB l] s t := by
  intro t
  have ht : t = setReg (SC_LOOP_FB l) (w32 (toBits 24 fb)) (s.evaluating l z) := evaluationOf_waits (evaluating_state.trans h2)
  rw [ht]
  exact ⟨(fget_of_reg (setReg_reg_other (scLoop_ne (by decide)))).trans (evaluating_state.trans h2), evaluating_issued hissued, congrArg Loop.pend evaluating_loop,
    (setReg_reg_other (scLoop_ne (by decide))).trans (evaluating_reg.trans (if_pos rfl)), setReg_reg_same,
    (evaluating_onlyRegs (by simp)).setReg (by simp)⟩

/-- A good sample of an axis in RUN under the PID law. -/
theorem evaluation_runs {i : Issue} {is : List Issue} (hl : l < 8) (hissued : s.sc.issued = i :: is) (h1 : s.loopState l = 1)
    (hgood : badSample (s.loop_ l).set fb w = false) (hkind : LSet.kind (s.loop_ l).set = 0) (hinv : LSet.invert (s.loop_ l).set = false)
    (hfirst : (s.loop_ l).first = false) (hrate : LSet.rateLim (s.loop_ l).set = 0) (hprof : LSet.nProf (s.loop_ l).set = 0)
    (hfrz : LSet.frzN (s.loop_ l).set = 0) (hcascade : s.cascadeOf l = none) :
    let t := (s.evaluating l z).evaluationOf l fb w z
    let u := ((s.loop_ l).pid fb).2
    t.loopState l = 1 ∧ t.sc.issued = is ∧ (t.loop_ l).pend = (s.loop_ l).pend ∧ (t.loop_ l).iAcc = ((s.loop_ l).pid fb).1 ∧ (t.loop_ l).uPrev = u ∧
      (t.loop_ l).fbPrev = fb ∧ t.reg (SC_LOOP_OUT l) = BitVec.ofNat 32 (toBits 24 u) ∧ t.reg (SC_LOOP_FB l) = BitVec.ofNat 32 (toBits 24 fb) ∧
      t.reg (SC_LOOP_TIME l) = BitVec.ofNat 32 z ∧ (t.axis l).drive = some { value := u, time := z, held := false, loop := l } ∧
      OnlyRegs [SC_LOOP_STATUS l, SC_LOOP_TIME l, SC_LOOP_FB l, SC_LOOP_OUT l] s t := by
  have hloop : (s.evaluating l z).loop_ l = s.loop_ l := evaluating_loop
  have hcascade' : (s.evaluating l z).cascadeOf l = none := cascadeOf_none_of hcascade (fun _ => evaluating_loop) fun _ _ => evaluating_state
  rw [evaluationOf_runs (s := s.evaluating l z) hl (evaluating_state.trans h1) (by rwa [hloop]) (by rwa [hloop]) (by rwa [hloop])
    (by rwa [hloop]) (by rwa [hloop]) (by rwa [hloop]) (by rwa [hloop]) hcascade']
  have hshows := followed_shows (s := s.evaluating l z) (l := l) (fb := fb) (z := z) (by rwa [hloop]) (by rwa [hloop])
  have honly := fun r => followed_onlyRegs (r := r) (s := s.evaluating l z) (l := l) (fb := fb) (z := z) (by rwa [hloop]) (by rwa [hloop])
  rw [hloop] at hshows ⊢
  obtain ⟨hpend, hacc, hout, hprev, hstate, hsame⟩ := hshows
  have htime : ((s.evaluating l z).followed l fb z).reg (SC_LOOP_TIME l) = w32 z :=
    (honly [SC_LOOP_STATUS l, SC_LOOP_FB l] (by simp) (by simp) _ (by simp [SC_LOOP_TIME, SC_LOOP_STATUS, SC_LOOP_FB])).trans (evaluating_reg.trans (if_pos rfl))
  have hfb : ((s.evaluating l z).followed l fb z).reg (SC_LOOP_FB l) = w32 (toBits 24 fb) := followed_fb
  have hbase : OnlyRegs [SC_LOOP_STATUS l, SC_LOOP_TIME l, SC_LOOP_FB l, SC_LOOP_OUT l] s ((s.evaluating l z).followed l fb z) :=
    (evaluating_onlyRegs (by simp)).trans (honly _ (by simp) (by simp))
  have hnext := evaluating_issued (l := l) (z := z) hissued
  generalize (s.evaluating l z).followed l fb z = e at *
  refine ⟨(fget_of_reg (drivenBy_reg.trans (if_neg (scLoop_ne (by decide))))).trans hstate, hsame.trans hnext, hpend, hacc, hout, hprev,
    drivenBy_reg.trans (if_pos rfl), (drivenBy_reg.trans (if_neg (scLoop_ne (by decide)))).trans hfb, (drivenBy_reg.trans (if_neg (scLoop_ne (by decide)))).trans htime,
    drivenBy_drive, hbase.trans (drivenBy_onlyRegs (by simp))⟩

/-- Settles O31: each event by its lemma above. -/
theorem loopsSampleEvaluateHoldAndRearm : Obligations.LoopsSampleEvaluateHoldAndRearm := by
  intro q lv axis w s l x st resonant k held
  refine ⟨fun hruns hst hinj hdue hin hwait hactive => loopRequest_sends hruns hst hinj hdue rfl hin hwait hactive, fun it rest hin => ⟨loopSample_inactive hin, ?_, ?_⟩,
    fun z hruns h1 hpend hready hz hnow hgap hissued => loopEvaluation_issues hruns h1 hpend hready hz hnow hgap hissued, readyAt_suppressed, ?_,
    loopEvaluations_rest, fun hruns hst hfree hres => ⟨fun hearly => ?_, fun hlate => ?_⟩, ?_, engineLoadUpdate_shows, fun ht => ⟨fun h2 => ?_, fun h2 => ?_, ?_⟩,
    fun ht => congrArg Host.Outcome.next (hostWrite_takes ht), fun ht => ⟨fun hfree => ?_, fun hdriven => ?_⟩⟩
  · exact fun hruns h1 hres hheld => loopSample_held hin hruns h1 hres hheld
  · intro hruns hst hheld hres e
    refine ⟨_, loopSample_pends hin hruns hst hheld hres, ?_, pendSample_issued, pendSample_regs, pendSample_overrun lv.isLt⟩
    exact pendSample_loop.trans rfl
  · intro fb word z i is hissued hloop hsample hdue hnext hruns hwait hset hsp hkind hinv bad
    have hexec := fun h => loopEvaluation_completes (lv := lv) hissued hloop hsample hdue hnext hruns hwait hset hsp hkind hinv h
    refine ⟨fun h1 hbad => ⟨_, hexec (.inl h1), evaluation_bad lv.isLt hissued h1 hbad⟩, fun h2 => ⟨_, hexec (.inr h2), evaluation_waits hissued h2⟩,
      fun h1 hgood hl hfirst hrate hprof hfrz hcascade => ⟨_, hexec (.inl h1), ?_⟩⟩
    exact evaluation_runs hl hissued h1 hgood hkind hinv hfirst hrate hprof hfrz hcascade
  · exact (loopTimeout_eq hruns hst hfree hres).trans (congrArg Host.Outcome.next (if_neg (Nat.not_le.mpr hearly)))
  · exact ⟨_, (loopTimeout_eq hruns hst hfree hres).trans (congrArg Host.Outcome.next (if_pos hlate)), enterHold_held lv.isLt, enterHold_flag lv.isLt (by decide),
      fun _ => loop_of_unreported enterHold_sc⟩
  · intro i is hissued hloop hsample hdue hnext hruns h3
    obtain ⟨t, hexec, ⟨hlist, hstate, hflag⟩, hacc⟩ := settleHoldEvaluation_completes (lv := lv) hissued hloop hsample hdue hnext hruns h3
    exact ⟨t, hexec, hlist, hstate, hflag, hacc⟩
  · refine ⟨_, loopRearm_eq ht, completeOk_status, loopRearm_state lv.isLt h2, ?_, fun h8 => loopRearm_fault h8 h2, fun j hj => ?_⟩
    · exact congrArg Loop.rearmGood ((loopRearm_loop h2).trans setLoop_get_same)
    · exact (loopRearm_loop h2).trans (setLoop_get_other hj)
  · exact (loopRearm_eq ht).trans (congrArg (fun t => Host.Outcome.next (completeOk q _ t)) (if_neg h2))
  · exact ⟨_, clearDelay_eq ht, completeOk_status, clearDelay_loop, clearDelay_least, clearDelay_greatest,
      completeOk_onlyRegs (OnlyRegs.refl.fsets (t := setLoop lv _ s) List.mem_cons_self)⟩
  · exact (amplitudeWrite_eq hfree).trans (congrArg Host.Outcome.next (hostWriteIf_takes ht rfl))
  · exact (amplitudeWrite_eq hdriven).trans (congrArg Host.Outcome.next (hostWriteIf_discards ht))

end Sys2Proof.Machine
end

/-!
PROOFS of the architecture statements, part 25: what the release of a converter and a slot boundary leave; the excitation of an axis, its current limit
and its reversals; the words of the drive link (R239, R268, R269, R271, R272, R274, R275, R289, R295, R303, R454, R566), O32.
-/
section
namespace Sys2Proof.Machine

variable {s t u : State} {a b i j k l n z : Nat} {w : Word} {f g : Fld} {x : Axis} {v : Int} {on : Bool} {dv : DriveVal}

/-! ### What a slot boundary and the start of loops leave (R239, R303) -/

theorem setAdc_released {c : Adc} (h : c.released = (s.adc k).released) : ((setAdc k c s).adc j).released = (s.adc j).released := by
  rw [setAdc_adc]
  split_ifs with hj
  · rw [h, hj]
  · rfl

theorem settleEvent_released {dc : Bool} : ((settleEvent k i dc s).adc j).released = (s.adc j).released :=
  (congrArg Adc.released flag_adc).trans (setAdc_released rfl)

theorem settleWhere_released {dc : Bool} {p : Nat → Bool} : ((settleWhere k dc p s).adc j).released = (s.adc j).released :=
  foldl_proj (π := fun t : State => (t.adc j).released) fun _ _ => by
    split_ifs
    · exact settleEvent_released
    · rfl

theorem putRes_released : ((putRes k i w n s).adc j).released = (s.adc j).released := setAdc_released rfl

theorem calFail_released : ((calFail k n s).adc j).released = (s.adc j).released := setAdc_released rfl

/-- A new plane releases no converter, and takes none's release back. -/
theorem adcNewPlane_released : ((adcNewPlane k s).adc j).released = (s.adc j).released := by
  unfold adcNewPlane
  extract_lets x pl old new changed s1 sources vals chains x1 exc s2 s3 s4 s5 src s6
  have h1 : (s1.adc j).released = (s.adc j).released := by
    unfold s1
    split_ifs
    · exact calFail_released
    · rfl
  have h2 : (s2.adc j).released = (s.adc j).released := by
    refine (setAdc_released ?_).trans h1
    rfl
  have h3 : (s3.adc j).released = (s.adc j).released := by
    unfold s3
    split_ifs
    · exact h2
    · exact (foldl_proj (π := fun t : State => (t.adc j).released) fun _ _ => putRes_released).trans h2
  have h4 : (s4.adc j).released = (s.adc j).released := by
    refine (foldl_proj (π := fun t : State => (t.adc j).released) fun _ _ => ?_).trans h3
    split_ifs
    · exact settleEvent_released
    · rfl
  have h5 : (s5.adc j).released = (s.adc j).released := by
    unfold s5
    split_ifs
    · exact (congrArg Adc.released (adc_of_kept (dropReadings_kept (by decide) (.refl _ s4)))).trans h4
    · exact h4
  have h6 : (s6.adc j).released = (s.adc j).released := by
    refine (setAdc_released ?_).trans h5
    rfl
  split
  · split_ifs
    · exact h6
    · refine (setAdc_released ?_).trans h6
      rfl
  · split_ifs
    · exact h6
    · refine settleWhere_released.trans ((setAdc_released ?_).trans h6)
      rfl

theorem planeTaken_released : ((planeTaken k s).adc j).released = (s.adc j).released := by
  have hbegun : ((s.slotBegun k).adc j).released = (s.adc j).released := setAdc_released rfl
  unfold planeTaken
  split_ifs
  · exact hbegun
  · exact adcNewPlane_released.trans hbegun

theorem scanChosen_released : ((scanChosen k s).adc j).released = (s.adc j).released := by
  have hswitch : ∀ u : State, ((if (u.adc k).scanning = u.wantsScan k then u else switchMode k (u.wantsScan k) u).adc j).released = (u.adc j).released :=
    fun u => by
      split_ifs
      · rfl
      · exact settleWhere_released.trans (setAdc_released rfl)
  refine (hswitch _).trans ?_
  split_ifs
  · exact setAdc_released rfl
  · rfl

theorem calStart_released : ((calStart k s).adc j).released = (s.adc j).released := by
  unfold calStart
  dsimp only
  split
  · exact setAdc_released rfl
  · rfl

theorem adcBoundary_released (h : (s.adc k).due = []) : ((adcBoundary k s).adc j).released = (s.adc j).released := by
  rw [adcBoundary_eq, h, List.foldl_nil]
  refine calStart_released.trans (scanChosen_released.trans ((setAdc_released ?_).trans planeTaken_released))
  rfl

/-- A slot boundary where no run-time write waits and the plane stays changes registers of its own converter alone. -/
theorem scanChosen_reg (h : b ≠ ADC_FLAGS k) (hr : b ≠ REC_LOST ∧ b ≠ REC_STATUS) : (scanChosen k s).reg b = s.reg b := by
  have hswitch : ∀ u : State, (if (u.adc k).scanning = u.wantsScan k then u else switchMode k (u.wantsScan k) u).reg b = u.reg b := fun u => by
    split_ifs
    · rfl
    · exact settleWhere_reg h hr
  refine (hswitch _).trans ?_
  split_ifs <;> rfl

theorem calStart_reg (h : b ≠ ADC_SYSCAL_STATUS k) : (calStart k s).reg b = s.reg b := by
  unfold calStart
  dsimp only
  split
  · exact setReg_reg_other h
  · rfl

theorem adcBoundary_reg (hepoch : (s.adc k).epoch = s.epochOf (adcTarget k)) (hplane : (s.adc k).pl = s.planeOf (adcTarget k)) (hdue : (s.adc k).due = [])
    (h : b < baseAdc k ∨ baseAdc k + 0x100 ≤ b) (hr : b ≠ REC_LOST ∧ b ≠ REC_STATUS) : (adcBoundary k s).reg b = s.reg b := by
  have htaken : (planeTaken k s).reg b = s.reg b := by
    rw [planeTaken, if_pos ⟨hepoch, hplane⟩]
    rfl
  rw [adcBoundary_eq, hdue]
  refine (setReg_reg_other ?_).trans ((calStart_reg ?_).trans ((scanChosen_reg ?_ hr).trans htaken))
  · simp only [ADC_STATUS]
    omega
  · simp only [ADC_SYSCAL_STATUS]
    omega
  · simp only [ADC_FLAGS]
    omega

/-! ### What an axis is excited by (R269, R303, R566) -/

/-- What says whether axis `j` is excited is the same in two states. -/
structure ExcKept (j : Nat) (s t : State) : Prop where
  cut : t.cut = s.cut
  exc : t.reg (SC_AXIS_EXC j) = s.reg (SC_AXIS_EXC j)
  pair : t.reg PAIR_STATUS = s.reg PAIR_STATUS
  released : (t.adc (48 + j / 2)).released = (s.adc (48 + j / 2)).released
  fault : (t.axis j).fault = (s.axis j).fault

theorem ExcKept.refl : ExcKept j s s := ⟨rfl, rfl, rfl, rfl, rfl⟩

theorem ExcKept.trans (h : ExcKept j s t) (h' : ExcKept j t u) : ExcKept j s u :=
  ⟨h'.cut.trans h.cut, h'.exc.trans h.exc, h'.pair.trans h.pair, h'.released.trans h.released, h'.fault.trans h.fault⟩

/-- An axis that its plane, its register and its converter excite, without a fault, in a unit that excites. -/
structure Excitable (s : State) (j : Nat) : Prop where
  enabled : cellOn (s.planeOf tgtSc) 3 0 j = true
  fault : (s.axis j).fault = false
  on : s.fget (SC_AXIS_EXC j) SC_AXIS_EXC.exc_on = 1
  mode : cutF (s.planeOf tgtSc) (SC_AXIS_CFG j) SC_AXIS_CFG.mode = 1
  pair : s.pair = .solo
  released : (s.adc (48 + j / 2)).released = true

theorem pair_of_reg (h : t.reg PAIR_STATUS = s.reg PAIR_STATUS) : t.pair = s.pair := by
  unfold State.pair
  rw [fget_of_reg h]

theorem planeOf_of_cut (h : t.cut = s.cut) : t.planeOf n = s.planeOf n := by
  unfold State.planeOf
  rw [h]

theorem Excitable.kept (h : Excitable s j) (hk : ExcKept j s t) : Excitable t j := by
  obtain ⟨hcut, hexc, hpair, hreleased, hfault⟩ := hk
  have hplane := planeOf_of_cut (n := tgtSc) hcut
  exact ⟨by rw [hplane]; exact h.enabled, hfault.trans h.fault, (fget_of_reg hexc).trans h.on, by rw [hplane]; exact h.mode, (pair_of_reg hpair).trans h.pair,
    hreleased.trans h.released⟩

theorem axisReg_ne_other (h : i ≠ j) (ha : a < 0x100) (hb : b < 0x100) : baseScAxis i + a ≠ baseScAxis j + b := by
  unfold baseScAxis
  omega

theorem axisReg_ne (h : a ≠ b) : baseScAxis j + a ≠ baseScAxis j + b := fun e => h (Nat.add_left_cancel e)

theorem pairStatus_ne_axis : PAIR_STATUS ≠ baseScAxis j + a := by
  simp only [PAIR_STATUS, baseCf, baseScAxis]
  omega

/-- What an excited axis has applied. -/
def State.excApplied (s : State) (a : Nat) : State :=
  let x := s.axis a
  let w := s.reg (SC_AXIS_EXC a)
  let mode := cutF (s.planeOf tgtSc) (SC_AXIS_CFG a) SC_AXIS_CFG.mode
  let on := getF SC_AXIS_EXC.exc_on w = 1 && !x.fault && cellOn (s.planeOf tgtSc) 3 0 a && (s.adc (48 + a / 2)).released && (mode = 1 || mode = 2) &&
    s.pair ≠ .standby && s.pair ≠ .withdrawn
  fset (SC_AXIS_STATUS a) SC_AXIS_STATUS.exc_state (if x.fault then 3 else if !on then 0 else if x.reversed then 2 else 1)
    (setAxis a { x with on := on, level := min 150 (getF SC_AXIS_EXC.level w), excWrite := false } s)

theorem reportExcitation_reg : (reportExcitation a i s).reg b = s.reg b := reg_of_kept (reportExcitation_kept (by decide) (.refl _ s))

theorem reportExcitation_axis : (reportExcitation a i s).axis j = s.axis j := axis_of_sc (reportExcitation_kept (p := .sc) (by decide) (.refl _ s))

theorem reportExcitation_released : ((reportExcitation a i s).adc j).released = (s.adc j).released := setAdc_released rfl

/-- A change of the excitation is reported to the sensor converter. -/
theorem applyExcitation_eq : applyExcitation a i s = s.excApplied a ∨ applyExcitation a i s = reportExcitation a i (s.excApplied a) := by
  unfold applyExcitation
  extract_lets x w mode on level changed s1 s2
  have hs2 : s2 = s.excApplied a := rfl
  rw [hs2]
  by_cases h : changed = true
  · exact .inr (if_pos h)
  · exact .inl (if_neg h)

theorem applyExcitation_axis : (applyExcitation a i s).axis j = (s.excApplied a).axis j := by
  rcases applyExcitation_eq (a := a) (i := i) (s := s) with h | h
  · rw [h]
  · rw [h, reportExcitation_axis]

theorem applyExcitation_axis_other (h : j ≠ a) : (applyExcitation a i s).axis j = s.axis j := applyExcitation_axis.trans (setAxis_axis.trans (if_neg h))

theorem applyExcitation_released : ((applyExcitation a i s).adc j).released = (s.adc j).released := by
  rcases applyExcitation_eq (a := a) (i := i) (s := s) with h | h
  · rw [h]
    rfl
  · rw [h, reportExcitation_released]
    rfl

/-- An excitable axis is excited under the level and the switch of its register. -/
theorem excApplied_axis (h : cellOn (s.planeOf tgtSc) 3 0 a = true) (hfault : (s.axis a).fault = false)
    (hmode : cutF (s.planeOf tgtSc) (SC_AXIS_CFG a) SC_AXIS_CFG.mode = 1) (hpair : s.pair = .solo) (hreleased : (s.adc (48 + a / 2)).released = true) :
    (s.excApplied a).axis a = { s.axis a with
      on := decide (getF SC_AXIS_EXC.exc_on (s.reg (SC_AXIS_EXC a)) = 1), level := min 150 (getF SC_AXIS_EXC.level (s.reg (SC_AXIS_EXC a))), excWrite := false } := by
  refine setAxis_axis_same.trans ?_
  simp [h, hfault, hmode, hpair, hreleased]

theorem applyExcitation_on (h : Excitable s a) : ((applyExcitation a i s).axis a).on = true := by
  rw [applyExcitation_axis, excApplied_axis h.enabled h.fault h.mode h.pair h.released]
  exact decide_eq_true h.on

theorem applyExcitation_excKept (h : i ≠ j) : ExcKept j s (applyExcitation i n s) :=
  ⟨applyExcitation_kept (p := .cut) (by decide) (by decide) (by decide) (.refl _ s), applyExcitation_reg (axisReg_ne_other h.symm (by decide) (by decide)),
    applyExcitation_reg pairStatus_ne_axis, applyExcitation_released, congrArg Axis.fault (applyExcitation_axis_other h.symm)⟩

/-! ### Loops that the release of a converter lets run (R303, R566) -/

theorem axis_of_unreported (h : t.sc.unreported = s.sc.unreported) : t.axis j = s.axis j :=
  unreported_field (fun c : Sc => look (fun _ => ({} : Axis)) c.axes j) h

theorem freshAxis_reg (h : b ≠ SC_AXIS_STATUS a) (he : b ≠ SC_ENG_STATUS ∧ b ≠ SC_ENG_FLAGS) (hr : b ≠ REC_LOST ∧ b ≠ REC_STATUS) :
    (freshAxis a s).reg b = s.reg b :=
  (setReg_reg_other h).trans ((scanFault_reg h he hr).trans (setReg_reg_other h))

theorem freshAxis_fault : ((freshAxis a s).axis j).fault = (s.axis j).fault := by
  have hscan : (freshAxis a s).axis j = (setAxis a { s.axis a with drive := none, osc := none } s).axis j :=
    (axis_of_unreported (t := freshAxis a s) scanFault_sc).trans rfl
  rw [hscan, setAxis_axis]
  split_ifs with h
  · rw [h]
  · rfl

theorem startLoop_reg {set : List Word} (h : b ≠ SC_LOOP_STATUS l) (hs : b ≠ SC_AXIS_STATUS l) (he : b ≠ SC_ENG_STATUS ∧ b ≠ SC_ENG_FLAGS)
    (hr : b ≠ REC_LOST ∧ b ≠ REC_STATUS) : (startLoop l set s).reg b = s.reg b := by
  unfold startLoop
  dsimp only
  split_ifs
  · exact (freshAxis_reg hs he hr).trans (setReg_reg_other h)
  · exact setReg_reg_other h

theorem startLoop_fault {set : List Word} : ((startLoop l set s).axis j).fault = (s.axis j).fault := by
  unfold startLoop
  dsimp only
  split_ifs
  · exact freshAxis_fault
  · rfl

theorem startLoop_excKept {set : List Word} (hj : j < 8) : ExcKept j s (startLoop l set s) := by
  refine ⟨startLoop_kept (p := .cut) (by decide) (by decide) (by decide) (.refl _ s), startLoop_reg ?_ ?_ ?_ axisReg_ne_rec, startLoop_reg ?_ ?_ ?_ ?_,
    congrArg Adc.released (adc_of_kept (startLoop_kept (by decide) (by decide) (by decide) (.refl _ s))), startLoop_fault⟩
  · exact ((loopReg_near (by decide) : LoopReg l (SC_LOOP_STATUS l)).ne_axis (i := 4) hj (by decide)).symm
  · simp only [SC_AXIS_EXC, SC_AXIS_STATUS, baseScAxis]
    omega
  · simp only [SC_AXIS_EXC, baseScAxis, SC_ENG_STATUS, SC_ENG_FLAGS, baseScEng]
    omega
  · simp only [PAIR_STATUS, baseCf, SC_LOOP_STATUS, baseScLoop]
    omega
  · exact pairStatus_ne_axis
  · decide
  · decide

theorem startFed_excKept (hj : j < 8) : ExcKept j s (startFed k s) := by
  unfold startFed
  dsimp only
  split_ifs
  · refine forUp_induction (P := fun _ u => ExcKept j s u) .refl fun l u _ _ hu => ?_
    split_ifs
    · exact hu.trans (startLoop_excKept hj)
    · exact hu
  · exact .refl

theorem startFed_adc : (startFed k s).adc j = s.adc j := adc_of_kept (startFed_kept (by decide) (by decide) (by decide) (.refl _ s))

/-! ### The release of a converter (R566) -/

/-- The released converter begins its slot, and the loops it feeds start. -/
def State.releasing (s : State) (k : Nat) : State := startFed k (adcBoundary k (setAdc k { s.adc k with released := true } s))

/-- An enabled axis is excited. -/
def exciteAxis (a : Nat) (s : State) : State := if cellOn (s.planeOf tgtSc) 3 0 a then applyExcitation a s.now s else s

theorem exciteAxis_released : ((exciteAxis a s).adc j).released = (s.adc j).released := by
  unfold exciteAxis
  split_ifs
  · exact applyExcitation_released
  · rfl

theorem exciteAxis_excKept (h : i ≠ j) : ExcKept j s (exciteAxis i s) := by
  unfold exciteAxis
  split_ifs
  · exact applyExcitation_excKept h
  · exact .refl

theorem exciteAxis_axis_other (h : j ≠ a) : (exciteAxis a s).axis j = s.axis j := by
  unfold exciteAxis
  split_ifs
  · exact applyExcitation_axis_other h
  · rfl

theorem exciteAxis_on (h : Excitable s a) : ((exciteAxis a s).axis a).on = true := by
  rw [exciteAxis, if_pos h.enabled]
  exact applyExcitation_on h

/-- The axes of a sensor converter are excited with its release. -/
theorem exciteBoth_on (h : Excitable s j) (hi : i ≤ j) (hj : j < i + 2) : ((forUp exciteAxis i 2 s).axis j).on = true := by
  change ((exciteAxis (i + 1) (exciteAxis i s)).axis j).on = true
  obtain rfl | rfl : j = i ∨ j = i + 1 := by omega
  · rw [exciteAxis_axis_other (by omega)]
    exact exciteAxis_on h
  · exact exciteAxis_on (h.kept (exciteAxis_excKept (by omega)))

theorem converterRelease_releases {kv : Fin 54} (hruns : s.adcRuns kv = true) (hnew : (s.adc kv).released = false) (hmode : s.mode ≠ .loader)
    (hfault : s.adcFault kv = false) (hsettled : s.refsSettled kv = true) (hscanned : (s.adc kv).scanned = true) (hslot : (s.adc kv).slotAt = s.now) :
    exec (.converterRelease kv) s = .next (if 48 ≤ kv.val ∧ kv.val < 52 then forUp exciteAxis (2 * (kv.val - 48)) 2 (s.releasing kv) else s.releasing kv) :=
  congrArg Host.Outcome.next ((if_neg (by simp [hruns, hnew, hmode, hfault])).trans (if_pos (by simp [hsettled, hscanned, hslot])))

theorem converterRelease_unsettled {kv : Fin 54} (hruns : s.adcRuns kv = true) (hnew : (s.adc kv).released = false) (hmode : s.mode ≠ .loader)
    (hfault : s.adcFault kv = false) (hsettled : s.refsSettled kv = false) : exec (.converterRelease kv) s =
      .next (if max s.cut.swapI (s.adc kv).enabledAt + 5000000 ≤ s.now then converterFault kv (startFed kv s) else s) :=
  congrArg Host.Outcome.next ((if_neg (by simp [hruns, hnew, hmode, hfault])).trans (if_neg (by simp [hsettled])))

theorem releasing_released (hdue : (s.adc k).due = []) : ((s.releasing k).adc k).released = true := by
  rw [State.releasing, startFed_adc, adcBoundary_released (by rw [setAdc_adc_same]; exact hdue), setAdc_adc_same]

/-- The axes of a released sensor converter can be excited where its plane stays. -/
theorem releasing_excitable (h48 : 48 ≤ k) (h52 : k < 52) (hdue : (s.adc k).due = []) (hepoch : (s.adc k).epoch = s.epochOf (adcTarget k))
    (hplane : (s.adc k).pl = s.planeOf (adcTarget k)) (hk : 48 + j / 2 = k) (henabled : cellOn (s.planeOf tgtSc) 3 0 j = true) (hfault : (s.axis j).fault = false)
    (hon : s.fget (SC_AXIS_EXC j) SC_AXIS_EXC.exc_on = 1) (hmode : cutF (s.planeOf tgtSc) (SC_AXIS_CFG j) SC_AXIS_CFG.mode = 1) (hpair : s.pair = .solo) :
    Excitable (s.releasing k) j := by
  have hsame : (setAdc k { s.adc k with released := true } s).adc k = { s.adc k with released := true } := setAdc_adc_same
  have hbase : Excitable (setAdc k { s.adc k with released := true } s) j :=
    ⟨henabled, hfault, hon, hmode, hpair, by rw [hk]; exact congrArg Adc.released hsame⟩
  have hreg : ∀ b, b < baseAdc k ∨ baseAdc k + 0x100 ≤ b → b ≠ REC_LOST ∧ b ≠ REC_STATUS →
      (adcBoundary k (setAdc k { s.adc k with released := true } s)).reg b = s.reg b :=
    fun b h hr => adcBoundary_reg (by rw [hsame]; exact hepoch) (by rw [hsame]; exact hplane) (by rw [hsame]; exact hdue) h hr
  refine (hbase.kept (t := adcBoundary k (setAdc k { s.adc k with released := true } s)) ⟨?_, hreg _ ?_ axisReg_ne_rec, hreg _ ?_ ?_, ?_, ?_⟩).kept (startFed_excKept (by omega))
  · exact adcBoundary_kept (p := .cut) (by decide) (by decide) (by decide) (by decide) (.refl _ _)
  · simp only [SC_AXIS_EXC, baseScAxis, baseAdc]
    split_ifs <;> omega
  · simp only [PAIR_STATUS, baseCf, baseAdc]
    split_ifs <;> omega
  · decide
  · exact adcBoundary_released (by rw [hsame]; exact hdue)
  · exact congrArg Axis.fault (axis_of_sc (adcBoundary_kept (p := .sc) (by decide) (by decide) (by decide) (by decide) (.refl _ _)))

/-! ### The current limit (R269) -/

/-- The excitation of an axis is switched off, with its fault. -/
def State.limited (s : State) (a : Nat) : State :=
  fset (SC_AXIS_STATUS a) SC_AXIS_STATUS.exc_state 3 (flag (SC_AXIS_FLAGS a) SC_AXIS_FLAGS.exc_fault (setAxis a { s.axis a with on := false, fault := true } s))

theorem excCurrentLimit_off {av : Fin 8} (h : (s.axis av).on = false) : exec (.excCurrentLimit av) s = .next s :=
  congrArg Host.Outcome.next (if_pos (by rw [h]; rfl))

theorem excCurrentLimit_on {av : Fin 8} (h : (s.axis av).on = true) : exec (.excCurrentLimit av) s = .next (reportExcitation av s.now (s.limited av)) :=
  congrArg Host.Outcome.next (if_neg (by rw [h]; exact Bool.false_ne_true))

theorem limited_axis : (s.limited a).axis j = if j = a then { s.axis a with on := false, fault := true } else s.axis j :=
  (axis_of_sc (t := s.limited a) flag_sc).trans setAxis_axis

theorem limited_state : (s.limited a).fget (SC_AXIS_STATUS a) SC_AXIS_STATUS.exc_state = 3 := fset_fget_same (by decide)

theorem limited_flag : (s.limited a).rbit (SC_AXIS_FLAGS a) SC_AXIS_FLAGS.exc_fault.lo = true :=
  (rbit_of_reg (setReg_reg_other (axisReg_ne (by decide)))).trans (flag_rbit (by decide) axisReg_ne_rec)

/-! ### A write of `SC_AXIS_EXC` (R269, R271, R272) -/

/-- `SC_AXIS_EXC` holds a written value. -/
def State.excWritten (s : State) (a : Nat) (w : Word) : State := setReg (SC_AXIS_EXC a) (w32 (w.toNat % 512)) s

theorem excWrite_exec {q : Requester} {av : Fin 8} (ht : s.takes (SC_AXIS_EXC av)) :
    exec (.excWrite q av w) s = .next (completeOk q (SC_AXIS_EXC av + 1) (excWrite av w s)) := congrArg Host.Outcome.next (hostWrite_takes ht)

theorem excWritten_reg (h : b ≠ SC_AXIS_EXC a) : (s.excWritten a w).reg b = s.reg b := setReg_reg_other h

theorem fence_ne_axisExc : REGION_FENCE ≠ SC_AXIS_EXC a := by
  simp only [REGION_FENCE, baseCf, SC_AXIS_EXC, baseScAxis]
  omega

theorem domGood_ne_axisExc (h : i < 3) : PWR_DOM_GOOD i ≠ SC_AXIS_EXC a := by
  simp only [PWR_DOM_GOOD, baseHk, SC_AXIS_EXC, baseScAxis]
  omega

/-- Whether SC runs hangs on the mode, on its fence, on its domain and on what is isolated (R303). -/
theorem scRuns_of (hmode : t.mode = s.mode) (htime : t.time = s.time) (hstartup : t.startup = s.startup) (hfence : t.reg REGION_FENCE = s.reg REGION_FENCE)
    (hgood : t.reg (PWR_DOM_GOOD 2) = s.reg (PWR_DOM_GOOD 2)) : t.scRuns = s.scRuns := by
  unfold State.scRuns State.fenced State.domGood State.isolated State.rbit
  rw [hmode, htime, hstartup, hfence, show 64 / 32 = 2 from rfl, hgood]

theorem excWritten_scRuns : (s.excWritten a w).scRuns = s.scRuns :=
  scRuns_of rfl rfl rfl (excWritten_reg fence_ne_axisExc) (excWritten_reg (domGood_ne_axisExc (by decide)))

theorem excWritten_adcRuns : (s.excWritten a w).adcRuns k = s.adcRuns k :=
  adcRuns_of rfl rfl (excWritten_reg fence_ne_axisExc) fun _ hi => excWritten_reg (domGood_ne_axisExc hi)

/-- A write of `SC_AXIS_EXC` that ends no current limit. -/
theorem excWrite_keeps (h : (s.axis a).fault = false ∨ w.getLsbD 8 = false ∨ s.rbit (SC_AXIS_FLAGS a) SC_AXIS_FLAGS.exc_fault.lo = true) :
    excWrite a w s = if s.scRuns then excitationDue a (s.excWritten a w) else s.excWritten a w := by
  have hkept : ((s.axis a).fault && (w.getLsbD 8 && !s.rbit (SC_AXIS_FLAGS a) 0)) = false := by
    rcases h with h | h | h
    · rw [h, Bool.false_and]
    · rw [h, Bool.false_and, Bool.and_false]
    · rw [show s.rbit (SC_AXIS_FLAGS a) 0 = true from h, Bool.not_true, Bool.and_false, Bool.and_false]
  unfold excWrite
  dsimp only
  rw [hkept, if_neg Bool.false_ne_true]
  exact ite_congr (congrArg (· = true) excWritten_scRuns) (fun _ => rfl) fun _ => rfl

/-- A write of exc_on = 1 with the flag cleared ends a current limit. -/
theorem excWrite_ends (hfault : (s.axis a).fault = true) (hon : w.getLsbD 8 = true) (hflag : s.rbit (SC_AXIS_FLAGS a) SC_AXIS_FLAGS.exc_fault.lo = false)
    (hruns : s.scRuns = false) : (excWrite a w s).axis a = { s.axis a with fault := false } := by
  have hends : ((s.axis a).fault && (w.getLsbD 8 && !s.rbit (SC_AXIS_FLAGS a) 0)) = true := by
    rw [hfault, hon, show s.rbit (SC_AXIS_FLAGS a) 0 = false from hflag]
    rfl
  have hstop : ¬((setAxis a { s.axis a with fault := false } s).excWritten a w).scRuns = true := by
    rw [excWritten_scRuns]
    exact Bool.eq_false_iff.mp hruns
  unfold excWrite
  dsimp only
  rw [hends, if_pos rfl]
  exact (congrArg (State.axis · a) (if_neg hstop)).trans setAxis_axis_same

theorem getF_written (h : f.lo + f.width ≤ 9) : getF f (BitVec.ofNat 32 (w.toNat % 512)) = getF f w := by
  have hlt : w.toNat % 512 < 2 ^ 32 := by omega
  refine Nat.eq_of_testBit_eq fun i => ?_
  rw [getF, getF, BitVec.toNat_ofNat, Nat.mod_eq_of_lt hlt, Nat.testBit_mod_two_pow, Nat.testBit_mod_two_pow, Nat.testBit_div_two_pow, Nat.testBit_div_two_pow,
    show (512 : Nat) = 2 ^ 9 from rfl, Nat.testBit_mod_two_pow]
  by_cases hi : i < f.width
  · rw [decide_eq_true (show i + f.lo < 9 by omega), Bool.true_and]
  · rw [decide_eq_false hi, Bool.false_and, Bool.false_and]

/-- A write that waits for no output is applied at once. -/
theorem excitationDue_now (h : loopSet (s.planeOf tgtSc) a = []) : excitationDue a s = applyExcitation a s.now s := if_neg fun hwaits => hwaits.1 h

theorem excitationDue_waits (hset : loopSet (s.planeOf tgtSc) a ≠ []) (hinj : loopInjects a (loopSet (s.planeOf tgtSc) a) = false)
    (hscan : (s.adc (LSet.conv (loopSet (s.planeOf tgtSc) a))).scanning = false) (hruns : s.adcRuns (LSet.conv (loopSet (s.planeOf tgtSc) a)) = true) :
    excitationDue a s = setAxis a { s.axis a with excWrite := true } s := if_pos ⟨hset, by rw [hinj]; decide, by rw [hscan]; decide, hruns⟩

/-! ### Reversals (R271, R272, R454) -/

/-- The polarity of an axis has reversed. -/
def State.reversing (s : State) (a n : Nat) : State :=
  let s1 := setAxis a { s.axis a with wasReversed := (s.axis a).reversed, reversed := !(s.axis a).reversed, revAt := n, outputs := 0 } s
  if (s.axis a).on then fset (SC_AXIS_STATUS a) SC_AXIS_STATUS.exc_state (if (s.axis a).reversed then 1 else 2) s1 else s1

theorem reverse_eq : reverse a n s = reportExcitation a n (s.reversing a n) := rfl

theorem reverse_axis : (reverse a n s).axis a =
    { s.axis a with wasReversed := (s.axis a).reversed, reversed := !(s.axis a).reversed, revAt := n, outputs := 0 } := by
  rw [reverse_eq, reportExcitation_axis, State.reversing]
  dsimp only
  split_ifs <;> exact setAxis_axis_same

theorem reverse_shows (h : (s.axis a).on = true) :
    (reverse a n s).fget (SC_AXIS_STATUS a) SC_AXIS_STATUS.exc_state = if (s.axis a).reversed then 1 else 2 := by
  rw [reverse_eq, fget_of_reg reportExcitation_reg, State.reversing, if_pos h, fset_fget_same (by decide)]
  split_ifs <;> rfl

theorem reverse_onlyRegs : OnlyRegs [SC_AXIS_STATUS a] s (reverse a n s) := fun b hb => by
  have hb' : b ≠ SC_AXIS_STATUS a := fun h => hb (List.mem_singleton.mpr h)
  rw [reverse_eq, reportExcitation_reg, State.reversing]
  by_cases hon : (s.axis a).on = true
  · rw [if_pos hon]
    exact setReg_reg_other hb'
  · rw [if_neg hon]
    rfl

theorem chopReversal_early {av : Fin 8} (h : (s.axis av).outputs < max 16 (cutF (s.planeOf tgtSc) (SC_AXIS_CFG av) SC_AXIS_CFG.chop_n)) :
    exec (.chopReversal av) s = .next s := congrArg Host.Outcome.next (if_pos (by simp only [h, decide_true, Bool.or_true]))

theorem chopReversal_reverses {av : Fin 8} (hruns : s.scRuns = true) (hon : (s.axis av).on = true)
    (hchop : cutF (s.planeOf tgtSc) (SC_AXIS_CFG av) SC_AXIS_CFG.chop_en ≠ 0)
    (h : max 16 (cutF (s.planeOf tgtSc) (SC_AXIS_CFG av) SC_AXIS_CFG.chop_n) ≤ (s.axis av).outputs) :
    exec (.chopReversal av) s = .next (reverse av ((s.axis av).outAt + 100) s) :=
  congrArg Host.Outcome.next (if_neg (by
    rw [hruns, hon, decide_eq_false hchop, decide_eq_false (Nat.not_lt.mpr h)]
    decide))

theorem reversalSensed_takes {av : Fin 8} (hruns : s.scRuns = true) (hpair : s.pair = .standby ∨ s.pair = .withdrawn) :
    exec (.excitationReversalSensed av) s = .next (reverse av (s.now - 100) s) := congrArg Host.Outcome.next (if_pos (by simp [hruns, hpair]))

theorem reversalSensed_skips {av : Fin 8} (hpair : s.pair = .solo ∨ s.pair = .active) : exec (.excitationReversalSensed av) s = .next s :=
  congrArg Host.Outcome.next (if_neg (by rcases hpair with h | h <;> simp [h]))

/-! ### The drive link (R268, R274, R275, R289, R295) -/

/-- A word has left on the link of axis `a` of a state that sends it. -/
structure Leaves (s : State) (a : Nat) (v : Int) (kind delay : Nat) (t : State) : Prop where
  sent : (t.axis a).sent = some (driveWord v kind (b2n (s.loopState a = 2)) (s.axis a).seq s.carat delay)
  seq : (t.axis a).seq = ((s.axis a).seq + 1) % 16
  busy : (t.axis a).busyUntil = s.now + 525
  started : (t.axis a).startedAt = s.now
  others : ∀ j, j ≠ a → t.axis j = s.axis j

theorem sendDrive_axis : (sendDrive a v k n s).axis a = { s.axis a with
    seq := ((s.axis a).seq + 1) % 16, startedAt := s.now, busyUntil := s.now + 525,
    sent := some (driveWord v k (b2n (s.loopState a = 2)) (s.axis a).seq s.carat n) } := setAxis_axis_same

theorem sendDrive_reg : (sendDrive a v k n s).reg b = s.reg b := rfl

/-- What a word carries besides its value and its delay is the same in two states. -/
structure WordKept (a : Nat) (s t : State) : Prop where
  seq : (t.axis a).seq = (s.axis a).seq
  others : ∀ j, j ≠ a → t.axis j = s.axis j
  state : t.loopState a = s.loopState a
  carat : t.carat = s.carat
  now : t.now = s.now

theorem WordKept.sends (h : WordKept a s t) : Leaves s a v k n (sendDrive a v k n t) := by
  obtain ⟨hseq, hothers, hstate, hcarat, hnow⟩ := h
  refine ⟨?_, ?_, ?_, ?_, fun j hj => setAxis_axis.trans ((if_neg hj).trans (hothers j hj))⟩
  · rw [sendDrive_axis, hseq, hstate, hcarat]
  · rw [sendDrive_axis, hseq]
  · rw [sendDrive_axis, hnow]
  · rw [sendDrive_axis, hnow]

theorem carat_of (hcut : t.cut = s.cut) (hpair : t.pairSt = s.pairSt) (hstatus : t.reg PAIR_STATUS = s.reg PAIR_STATUS) : t.carat = s.carat := by
  unfold State.carat
  rw [pair_of_reg hstatus, hcut, hpair, fget_of_reg hstatus]

theorem delayCode_lt {held : Bool} : delayCode n i held < 2 ^ 8 := by
  unfold delayCode
  split_ifs <;> omega

theorem noteDelay_reg (h : b ≠ SC_LOOP_DELAY l) : (noteDelay l n s).reg b = s.reg b := setReg_reg_other h

theorem noteDelay_last (h : n < 2 ^ 8) : (noteDelay l n s).fget (SC_LOOP_DELAY l) SC_LOOP_DELAY.last = n := by
  rw [noteDelay, fsets_fget]
  exact (getF_setF_other (f := SC_LOOP_DELAY.greatest) (by decide)).trans ((getF_setF_other (f := SC_LOOP_DELAY.least) (by decide)).trans
    ((getF_setF_same (by decide)).trans (Nat.mod_eq_of_lt h)))

theorem loopDelay_ne_state : SC_LOOP_STATUS a ≠ SC_LOOP_DELAY l := by
  simp only [SC_LOOP_STATUS, SC_LOOP_DELAY, baseScLoop]
  omega

theorem pairStatus_ne_delay : PAIR_STATUS ≠ SC_LOOP_DELAY l := by
  simp only [PAIR_STATUS, baseCf, SC_LOOP_DELAY, baseScLoop]
  omega

/-- An axis with a value taken from those that wait, whose delay its loop has shown. -/
def State.valueTaken (s : State) (a l n : Nat) (x : Axis) : State := noteDelay l n (setAxis a x s)

theorem valueTaken_axis : (s.valueTaken a l n x).axis a = x := setAxis_axis_same

theorem valueTaken_wordKept (h : x.seq = (s.axis a).seq) : WordKept a s (s.valueTaken a l n x) :=
  ⟨(congrArg Axis.seq valueTaken_axis).trans h, fun _ hj => setAxis_axis.trans (if_neg hj), fget_of_reg (noteDelay_reg loopDelay_ne_state),
    carat_of rfl rfl (noteDelay_reg pairStatus_ne_delay), rfl⟩

theorem valueTaken_onlyRegs : OnlyRegs [SC_LOOP_DELAY l] s (s.valueTaken a l n x) := fun _ hb => noteDelay_reg fun h => hb (List.mem_singleton.mpr h)

theorem valueTaken_last (h : n < 2 ^ 8) : (s.valueTaken a l n x).fget (SC_LOOP_DELAY l) SC_LOOP_DELAY.last = n := noteDelay_last h

theorem driveWord_busy {av : Fin 8} (h : s.now < (s.axis av).busyUntil) : exec (.driveWord av) s = .next s :=
  congrArg Host.Outcome.next (if_pos (by simp only [h, decide_true, Bool.or_true, Bool.true_or]))

theorem keepalive_busy {av : Fin 8} (h : s.now < (s.axis av).busyUntil) : exec (.keepalive av) s = .next s :=
  congrArg Host.Outcome.next (if_pos (by simp only [h, decide_true, Bool.or_true, Bool.true_or]))

theorem linkFree (hruns : s.scRuns = true) (hbusy : (s.axis a).busyUntil ≤ s.now) (hon : cellOn (s.planeOf tgtSc) 3 0 a = true) :
    ¬(!s.scRuns || decide (s.now < (s.axis a).busyUntil) || !cellOn (s.planeOf tgtSc) 3 0 a) = true := by
  rw [hruns, hon, decide_eq_false (Nat.not_lt.mpr hbusy)]
  decide

/-- What a free link of an enabled axis that is not resonant, or whose loop does not run, takes next. -/
theorem driveWord_free {av : Fin 8} (hruns : s.scRuns = true) (hbusy : (s.axis av).busyUntil ≤ s.now) (hon : cellOn (s.planeOf tgtSc) 3 0 av = true)
    (hkind : LSet.kind (s.loop_ av).set ≠ 1 ∨ s.loopState av = 0) :
    (∀ dv, (s.axis av).drive = some dv → exec (.driveWord av) s = .next (sendDrive av dv.value 0 (delayCode (s.now + 400) dv.time dv.held)
      (s.valueTaken av dv.loop (delayCode (s.now + 400) dv.time dv.held) { s.axis av with drive := none, lastDrive := dv.value }))) ∧
    (∀ dv rest, (s.axis av).drive = none → (s.axis av).aux = dv :: rest → exec (.driveWord av) s = .next (sendDrive av dv.value 2
      (delayCode (s.now + 400) dv.time dv.held) (s.valueTaken av dv.loop (delayCode (s.now + 400) dv.time dv.held) { s.axis av with aux := rest }))) ∧
    ((s.axis av).drive = none → (s.axis av).aux = [] → exec (.driveWord av) s = .next s) := by
  have hfree := linkFree hruns hbusy hon
  have hplain : ¬(LSet.kind (s.loop_ av).set = 1 ∧ s.loopState av ≠ 0) := fun h => hkind.elim (· h.1) h.2
  refine ⟨fun dv hdrive => ?_, fun dv rest hdrive haux => ?_, fun hdrive haux => ?_⟩ <;> refine congrArg Host.Outcome.next ((if_neg hfree).trans ((if_neg hplain).trans ?_))
  · split
    next dv' h =>
      obtain rfl := Option.some.inj (hdrive.symm.trans h)
      rfl
    next h => exact absurd (hdrive.symm.trans h) (Option.some_ne_none _)
  · split
    next dv' h => exact absurd (hdrive.symm.trans h).symm (Option.some_ne_none _)
    next =>
      split
      next dv' rest' h =>
        obtain ⟨rfl, rfl⟩ := List.cons.inj (haux.symm.trans h)
        rfl
      next h => exact absurd (haux.symm.trans h) (List.cons_ne_nil _ _)
  · rw [hdrive, haux]

/-- A resonant axis without a frame period sends 0. -/
def State.waitShown (s : State) (a : Nat) : State := setAxis a { s.axis a with lastDrive := 0 } (showWait a s)

theorem driveWord_waits {av : Fin 8} (hruns : s.scRuns = true) (hbusy : (s.axis av).busyUntil ≤ s.now) (hon : cellOn (s.planeOf tgtSc) 3 0 av = true)
    (hst : s.loopState av ≠ 0) (hkind : LSet.kind (s.loop_ av).set = 1) (hperiod : s.time.period = none) :
    exec (.driveWord av) s = .next (sendDrive av 0 0 0xFF (s.waitShown av)) := by
  have hfree := linkFree hruns hbusy hon
  refine congrArg Host.Outcome.next ((if_neg hfree).trans ((if_pos ⟨hkind, hst⟩).trans ?_))
  rw [hperiod]
  rfl

theorem waitShown_wordKept (ha : a < 8) : WordKept a s (s.waitShown a) := by
  refine ⟨(congrArg Axis.seq setAxis_axis_same).trans rfl, fun _ hj => setAxis_axis.trans (if_neg hj), fset_fget_other ?_, carat_of rfl rfl (setReg_reg_other pairStatus_ne_axis), rfl⟩
  exact (loopReg_near (by decide) : LoopReg a (SC_LOOP_STATUS a)).ne_axis (i := 0x0C) ha (by decide)

theorem waitShown_shows (hst : s.loopState a ≠ 0) (hkind : LSet.kind (s.loop_ a).set = 1) (hperiod : s.time.period = none) :
    (s.waitShown a).fget (SC_AXIS_STATUS a) SC_AXIS_STATUS.wait_frame = 1 := by
  have hwaits : s.waitsFrame a = true := by simp [State.waitsFrame, hst, hkind, hperiod]
  refine (fset_fget_same (by decide)).trans ?_
  rw [hwaits]
  rfl

theorem keepalive_repeats {av : Fin 8} (hfence : s.fenced 3 = false) (hgood : s.domGood 64 = true)
    (hon : s.planeOf tgtSc = none ∨ cellOn (s.planeOf tgtSc) 3 0 av = true) (hgap : (s.axis av).startedAt + 10000 ≤ s.now) (hbusy : (s.axis av).busyUntil ≤ s.now)
    (hnone : s.scRuns = false ∨ (s.axis av).drive = none ∧ (s.axis av).aux = []) :
    exec (.keepalive av) s = .next (sendDrive av (if s.scRuns then (s.axis av).lastDrive else 0) 1 0 s) := by
  have hport : ((s.planeOf tgtSc).isSome && !cellOn (s.planeOf tgtSc) 3 0 av) = false := by
    rcases hon with h | h
    · rw [h]
      rfl
    · rw [h, Bool.not_true, Bool.and_false]
  have hquiet : (s.scRuns && ((s.axis av).drive.isSome || decide ((s.axis av).aux ≠ []))) = false := by
    rcases hnone with h | ⟨hdrive, haux⟩
    · rw [h, Bool.false_and]
    · simp [hdrive, haux]
  refine congrArg Host.Outcome.next (if_neg ?_)
  rw [hfence, hgood, hport, hquiet, decide_eq_false (Nat.not_lt.mpr hgap), decide_eq_false (Nat.not_lt.mpr hbusy)]
  decide

theorem keepalive_rests {av : Fin 8} (h : s.now < (s.axis av).startedAt + 10000 ∨ (s.planeOf tgtSc ≠ none ∧ cellOn (s.planeOf tgtSc) 3 0 av = false) ∨
    (s.scRuns = true ∧ ((s.axis av).drive ≠ none ∨ (s.axis av).aux ≠ []))) : exec (.keepalive av) s = .next s := by
  refine congrArg Host.Outcome.next (if_pos ?_)
  rcases h with h | ⟨hplane, hoff⟩ | ⟨hruns, hwaits⟩
  · simp [h]
  · have hsome := Option.isSome_iff_ne_none.mpr hplane
    simp [hsome, hoff]
  · have hword : ((s.axis av).drive.isSome || decide ((s.axis av).aux ≠ [])) = true := by
      rcases hwaits with h | h
      · simp [Option.isSome_iff_ne_none.mpr h]
      · simp [h]
    rw [hruns, hword]
    simp

/-! ### O32 -/

theorem converterRelease_shows {kv : Fin 54} (hruns : s.adcRuns kv = true) (hnew : (s.adc kv).released = false) (hmode : s.mode ≠ .loader)
    (hfault : s.adcFault kv = false) (hsettled : s.refsSettled kv = true) (hscanned : (s.adc kv).scanned = true) (hslot : (s.adc kv).slotAt = s.now)
    (hdue : (s.adc kv).due = []) : ∃ t, exec (.converterRelease kv) s = .next t ∧ (t.adc kv).released = true ∧
      (48 ≤ kv.val → kv.val < 52 → (s.adc kv).epoch = s.epochOf (adcTarget kv) → (s.adc kv).pl = s.planeOf (adcTarget kv) →
        ∀ j, 2 * (kv.val - 48) ≤ j → j < 2 * (kv.val - 48) + 2 → cellOn (s.planeOf tgtSc) 3 0 j = true → (s.axis j).fault = false →
          s.fget (SC_AXIS_EXC j) SC_AXIS_EXC.exc_on = 1 → cutF (s.planeOf tgtSc) (SC_AXIS_CFG j) SC_AXIS_CFG.mode = 1 → s.pair = .solo →
          (t.axis j).on = true) := by
  refine ⟨_, converterRelease_releases hruns hnew hmode hfault hsettled hscanned hslot, ?_, ?_⟩
  · split_ifs
    · exact (forUp_proj (π := fun t : State => (t.adc kv).released) fun _ _ => exciteAxis_released).trans (releasing_released hdue)
    · exact releasing_released hdue
  · intro h48 h52 hepoch hplane j hi hj henabled hclear hon hexc hpair
    rw [if_pos ⟨h48, h52⟩]
    exact exciteBoth_on (releasing_excitable h48 h52 hdue hepoch hplane (by omega) henabled hclear hon hexc hpair) hi hj

theorem converterRelease_faults {kv : Fin 54} (hruns : s.adcRuns kv = true) (hnew : (s.adc kv).released = false) (hmode : s.mode ≠ .loader)
    (hfault : s.adcFault kv = false) (hsettled : s.refsSettled kv = false) (hlate : max s.cut.swapI (s.adc kv).enabledAt + 5000000 ≤ s.now) :
    ∃ t, exec (.converterRelease kv) s = .next t ∧ t.adcFault kv = true ∧ t.adc kv = s.adc kv :=
  ⟨_, (converterRelease_unsettled hruns hnew hmode hfault hsettled).trans (congrArg Host.Outcome.next (if_pos hlate)), converterFault_adcFault kv.isLt,
    converterFault_adc.trans startFed_adc⟩

/-- A write of the excitation of an axis without a feedback loop is in force at once. -/
theorem excWrite_applies {q : Requester} {av : Fin 8} (ht : s.takes (SC_AXIS_EXC av)) (hruns : s.scRuns = true) (hset : loopSet (s.planeOf tgtSc) av = [])
    (hmode : cutF (s.planeOf tgtSc) (SC_AXIS_CFG av) SC_AXIS_CFG.mode = 1) (hfault : (s.axis av).fault = false) (hon : cellOn (s.planeOf tgtSc) 3 0 av = true)
    (hreleased : (s.adc (48 + av.val / 2)).released = true) (hpair : s.pair = .solo) : ∃ t, exec (.excWrite q av w) s = .next t ∧ (t.req q).status = 0 ∧
      t.reg (SC_AXIS_EXC av) = BitVec.ofNat 32 (w.toNat % 512) ∧ t.axis av = { s.axis av with
        on := decide (getF SC_AXIS_EXC.exc_on w = 1), level := min 150 (getF SC_AXIS_EXC.level w), excWrite := false } ∧
      OnlyRegs [SC_AXIS_EXC av, SC_AXIS_STATUS av] s t := by
  have hwrite : excWrite av w s = applyExcitation av s.now (s.excWritten av w) :=
    (excWrite_keeps (.inl hfault)).trans ((if_pos hruns).trans (excitationDue_now hset))
  have hexc : (s.excWritten av w).reg (SC_AXIS_EXC av) = BitVec.ofNat 32 (w.toNat % 512) := setReg_reg_same
  have hpair' : (s.excWritten av w).pair = .solo := (pair_of_reg (excWritten_reg pairStatus_ne_axis)).trans hpair
  rw [excWrite_exec ht, hwrite]
  refine ⟨_, rfl, completeOk_status, (applyExcitation_reg (axisReg_ne (by decide))).trans hexc, ?_, completeOk_onlyRegs fun b hb => ?_⟩
  · refine (applyExcitation_axis.trans (excApplied_axis (s := s.excWritten av w) hon hfault hmode hpair' hreleased)).trans ?_
    rw [hexc, getF_written (by decide), getF_written (by decide)]
    rfl
  · rw [List.mem_cons, List.mem_singleton, not_or] at hb
    exact (applyExcitation_reg hb.2).trans (excWritten_reg hb.1)

/-- Settles O32: each event by its lemma above. -/
theorem excitationReversesAndDriveWordsLeave : Obligations.ExcitationReversesAndDriveWordsLeave := by
  intro q kv av w s k c a x pl mode hold leaves
  have hleaves : ∀ {v kind delay t}, Leaves s av v kind delay t → leaves v kind delay t := fun h => ⟨h.sent, h.seq, h.busy, h.started, h.others⟩
  refine ⟨fun hruns hnew hmode hfault => ⟨fun hsettled hscanned hslot hdue => converterRelease_shows hruns hnew hmode hfault hsettled hscanned hslot hdue,
      converterRelease_faults hruns hnew hmode hfault, fun hsettled hearly => ?_⟩, fun hreleased => ?_, excCurrentLimit_off, fun hon => ?_,
    fun ht => ⟨fun hruns hfault hon hflag => ⟨_, excWrite_exec ht, excWrite_ends hfault hon hflag hruns⟩, fun hruns hkeeps => ?_,
      fun hruns hset hmode hfault hon hreleased hpair => excWrite_applies ht hruns hset hmode hfault hon hreleased hpair, ?_⟩,
    fun hruns hon hchop => ⟨chopReversal_early, fun hdue => ⟨_, chopReversal_reverses hruns hon hchop hdue, reverse_axis, reverse_shows hon, reverse_onlyRegs⟩⟩,
    fun hruns hpair => ⟨_, reversalSensed_takes hruns hpair, reverse_axis⟩, reversalSensed_skips, fun hbusy => ⟨driveWord_busy hbusy, keepalive_busy hbusy⟩,
    fun hruns hbusy hon => ⟨fun hkind => ?_, fun hst hkind hperiod => ?_⟩, fun hfence hgood hon hgap hbusy hnone => ?_, keepalive_rests⟩
  · exact (converterRelease_unsettled hruns hnew hmode hfault hsettled).trans (congrArg Host.Outcome.next (if_neg (Nat.not_le.mpr hearly)))
  · exact congrArg Host.Outcome.next (if_pos (by simp [show (s.adc kv).released = true from hreleased]))
  · exact ⟨_, excCurrentLimit_on hon, reportExcitation_axis.trans (limited_axis.trans (if_pos rfl)), (fget_of_reg reportExcitation_reg).trans limited_state,
      (rbit_of_reg reportExcitation_reg).trans limited_flag, fun j hj => reportExcitation_axis.trans (limited_axis.trans (if_neg hj))⟩
  · rw [excWrite_exec ht, excWrite_keeps hkeeps, if_neg (by rw [hruns]; exact Bool.false_ne_true)]
    rfl
  · intro ps hruns hfault hset hsome hinj hscan hadc
    subst hset
    rw [excWrite_exec ht, excWrite_keeps (.inl hfault), if_pos hruns,
      excitationDue_waits (s := s.excWritten av w) hsome hinj hscan (excWritten_adcRuns.trans hadc)]
    rfl
  · obtain ⟨hdrive, haux, hnone⟩ := driveWord_free hruns hbusy hon hkind
    refine ⟨fun dv hdv _ => ⟨_, hdrive dv hdv, hleaves (WordKept.sends (valueTaken_wordKept (by rfl))), ?_, ?_, ?_, ?_⟩,
      fun dv rest hdv hrest _ => ⟨_, haux dv rest hdv hrest, hleaves (WordKept.sends (valueTaken_wordKept (by rfl))), ?_, ?_⟩, hnone⟩
    · rw [sendDrive_axis, valueTaken_axis]
    · rw [sendDrive_axis, valueTaken_axis]
    · exact (fget_of_reg sendDrive_reg).trans (valueTaken_last delayCode_lt)
    · exact fun b hb => sendDrive_reg.trans (valueTaken_onlyRegs b hb)
    · rw [sendDrive_axis, valueTaken_axis]
    · rw [sendDrive_axis, valueTaken_axis]
  · exact ⟨_, driveWord_waits hruns hbusy hon hst hkind hperiod, hleaves (waitShown_wordKept av.isLt).sends, waitShown_shows hst hkind hperiod⟩
  · exact ⟨_, keepalive_repeats hfence hgood hon hgap hbusy hnone, hleaves (WordKept.sends ⟨rfl, fun _ _ => rfl, rfl, rfl, rfl⟩), rfl⟩

end Sys2Proof.Machine
end

/-!
PROOFS of the architecture statements, part 26: the region FIFOs and the merger, the release of an event into its slot, the close and the opening of a
segment (R335, R336, R339, R340, R343, R344), O25.
-/
section
namespace Sys2Proof.Machine

variable {s t : State} {a b i j k n o z : Nat} {w : Word} {ws : List Word} {f : Fld} {e : AqEvent} {g : Segment} {l rest : List AqEvent}

/-! ### What the engine's standing rests on (R357) -/

theorem flag_aq : (flag a f s).aq = s.aq := flag_kept (p := .aq) (by decide) (by decide) (.refl _ s)

theorem bumpOvf_aq : (bumpOvf a f n i j s).aq = s.aq := bumpOvf_kept (p := .aq) (by decide) (by decide) (.refl _ s)

/-- Capture runs by the planes, the timebase, the mode, its power domain and its fence. -/
theorem aqOn_congr (hcut : t.cut = s.cut) (htime : t.time = s.time) (hmode : t.mode = s.mode) (hgood : t.reg (PWR_DOM_GOOD 1) = s.reg (PWR_DOM_GOOD 1))
    (hfence : t.reg REGION_FENCE = s.reg REGION_FENCE) : t.aqOn = s.aqOn := by
  have hdom : t.domGood 63 = s.domGood 63 := congrArg₂ (fun (x : Timebase) y => x.running && y) htime (rbit_of_reg hgood)
  have hfenced : t.fenced 6 = s.fenced 6 := rbit_of_reg hfence
  unfold State.aqOn
  rw [planeOf_of_cut hcut, hdom, hfenced, hmode]

/-- A counter reads what was added, up to its largest value. -/
theorem bumpOvf_fget (h : f.lo + f.width ≤ 32) (ha : a ≠ i) (hr : a ≠ REC_LOST ∧ a ≠ REC_STATUS) :
    (bumpOvf a f n i j s).fget a f = satAdd (2 ^ f.width - 1) (s.fget a f) n := by
  rw [State.fget, bumpOvf_reg_same ha hr.1 hr.2, getF_setF_same h]
  exact Nat.mod_eq_of_lt (Nat.lt_of_le_of_lt satAdd_le (Nat.sub_lt (Nat.two_pow_pos _) Nat.one_pos))

/-! ### The merger takes from a region's FIFO (R339) -/

theorem setFifo_fifo : (setFifo n l s).fifo j = if j = n then l else s.fifo j := look_put _ _ _ _

theorem mergeFrom_fifo : (mergeFrom n k s).fifo j = if j = n then (s.fifo n).drop k else s.fifo j := setFifo_fifo

theorem mergeFrom_fifo_same : (mergeFrom n k s).fifo n = (s.fifo n).drop k := mergeFrom_fifo.trans (if_pos rfl)

theorem addMarker_open (h : s.aq.seg.isSome = true) : addMarker e s = { s with aq := { s.aq with merger := insertItem e s.aq.merger } } := if_pos h

/-! ### A delivered edge arrives (R339, R340, R344) -/

/-- The first edge on the way from region `n` is taken, and the merger has taken `k` entries of the region's FIFO. -/
def State.arriving (s : State) (n k : Nat) (rest : List AqEvent) : State :=
  mergeFrom n k { s with rx := { s.rx with toAq := put (fun _ => []) s.rx.toAq n rest } }

/-- The lost edges of region `n` with edge `e`: their number and the time of the first. -/
def State.lostWith (s : State) (n : Nat) (e : AqEvent) : Nat × Nat :=
  let lost := look (fun _ => (0, 0)) s.aq.lost n
  (satAdd 0xFFFFFFFF lost.1 1, if lost.1 = 0 then e.tLsb else lost.2)

/-- Region `n` and the open segment note a lost edge. -/
def State.lossCounted (s : State) (n : Nat) (e : AqEvent) : State :=
  { s with aq := { s.aq with lost := put (fun _ => (0, 0)) s.aq.lost n (s.lostWith n e)
                             seg := s.aq.seg.map (fun g => { g with lost := satAdd 0xFFFFFFFF g.lost 1 }) } }

/-- An edge of region `n` finds the FIFO full and is lost. -/
def State.edgeLost (s : State) (n : Nat) (e : AqEvent) : State :=
  flag AQ_FLAGS AQ_FLAGS.ingress_loss (bumpOvf AQ_LOST whole 1 AQ_FLAGS AQ_FLAGS.cnt_ovf.lo (s.lossCounted n e))

theorem captureEdgeArrival_takes {rx : Fin 6} (hto : look (fun _ => []) s.rx.toAq rx = e :: rest) (hon : s.aqOn = true) :
    exec (.captureEdgeArrival rx k) s = .next (
      if ((s.arriving rx k rest).fifo rx).length < 64 then setFifo rx ((s.arriving rx k rest).fifo rx ++ [e]) (s.arriving rx k rest)
      else if (s.arriving rx k rest).inGap e then s.arriving rx k rest else (s.arriving rx k rest).edgeLost rx e) := by
  have hon' : ({ s with rx := { s.rx with toAq := put (fun _ => []) s.rx.toAq rx rest } } : State).aqOn = true := hon
  refine congrArg Host.Outcome.next ?_
  rw [hto]
  dsimp only
  rw [hon']
  rfl

theorem arriving_toAq : look (fun _ => []) (s.arriving n k rest).rx.toAq n = rest := look_put_same _ _ _

theorem arriving_merger : (s.arriving n k rest).aq.merger = ((s.fifo n).take k).foldl (fun m v => insertItem v m) s.aq.merger := rfl

theorem arriving_fifo : (s.arriving n k rest).fifo j = if j = n then (s.fifo n).drop k else s.fifo j := mergeFrom_fifo

theorem arriving_fifo_same : (s.arriving n k rest).fifo n = (s.fifo n).drop k := arriving_fifo.trans (if_pos rfl)

theorem edgeLost_aq : (s.edgeLost n e).aq = (s.lossCounted n e).aq := flag_aq.trans bumpOvf_aq

theorem edgeLost_fifo : (s.edgeLost n e).fifo j = s.fifo j :=
  show (s.edgeLost n e).fifo j = (s.lossCounted n e).fifo j from congrArg (fun x : Aq => look (fun _ => []) x.fifos j) edgeLost_aq

theorem edgeLost_lost : look (fun _ => (0, 0)) (s.edgeLost n e).aq.lost n = s.lostWith n e :=
  (congrArg (fun x : Aq => look (fun _ => (0, 0)) x.lost n) edgeLost_aq).trans (look_put_same _ _ _)

theorem edgeLost_rx : (s.edgeLost n e).rx = s.rx :=
  show (s.edgeLost n e).rx = (s.lossCounted n e).rx from flag_kept (p := .rx) (by decide) (by decide) (bumpOvf_kept (by decide) (by decide) (.refl _ (s.lossCounted n e)))

theorem edgeLost_flag : (s.edgeLost n e).rbit AQ_FLAGS AQ_FLAGS.ingress_loss.lo = true := flag_rbit (by decide) (by decide)

theorem edgeLost_count : (s.edgeLost n e).fget AQ_LOST whole = satAdd 0xFFFFFFFF (s.fget AQ_LOST whole) 1 :=
  (flag_fget_other (by decide) (by decide)).trans (bumpOvf_fget (by decide) (by decide) (by decide))

/-- An arriving edge joins its FIFO, is dropped without a count in a gap, or is lost. -/
theorem captureEdgeArrival_arrives {rx : Fin 6} (hto : look (fun _ => []) s.rx.toAq rx = e :: rest) (hon : s.aqOn = true) :
    ∃ t, exec (.captureEdgeArrival rx k) s = .next t ∧ look (fun _ => []) t.rx.toAq rx = rest ∧
      t.aq.merger = ((s.fifo rx).take k).foldl (fun m v => insertItem v m) s.aq.merger ∧ (∀ j, j ≠ rx.val → t.fifo j = s.fifo j) ∧
      (((s.fifo rx).drop k).length < 64 → t.fifo rx = (s.fifo rx).drop k ++ [e] ∧ t.regs = s.regs ∧ t.aq.lost = s.aq.lost) ∧
      (64 ≤ ((s.fifo rx).drop k).length → s.inGap e = true → t.fifo rx = (s.fifo rx).drop k ∧ t.regs = s.regs ∧ t.aq.lost = s.aq.lost) ∧
      (64 ≤ ((s.fifo rx).drop k).length → s.inGap e = false → t.fifo rx = (s.fifo rx).drop k ∧ t.rbit AQ_FLAGS AQ_FLAGS.ingress_loss.lo = true ∧
        t.fget AQ_LOST whole = satAdd 0xFFFFFFFF (s.fget AQ_LOST whole) 1 ∧
        look (fun _ => (0, 0)) t.aq.lost rx = s.lostWith rx e) := by
  have hgap : (s.arriving rx k rest).inGap e = s.inGap e := rfl
  refine ⟨_, captureEdgeArrival_takes hto hon, ?_⟩
  rw [arriving_fifo_same, hgap]
  by_cases hfree : ((s.fifo rx).drop k).length < 64
  · rw [if_pos hfree]
    refine ⟨arriving_toAq (k := k), arriving_merger, fun j hj => ?_, fun _ => ⟨setFifo_fifo.trans (if_pos rfl), rfl, rfl⟩, fun h => ?_, fun h => ?_⟩
    · exact (setFifo_fifo.trans (if_neg hj)).trans (arriving_fifo.trans (if_neg hj))
    · exact absurd hfree (Nat.not_lt.mpr h)
    · exact absurd hfree (Nat.not_lt.mpr h)
  · rw [if_neg hfree]
    by_cases hin : s.inGap e = true
    · rw [if_pos hin]
      exact ⟨arriving_toAq (k := k), arriving_merger, fun j hj => arriving_fifo.trans (if_neg hj), fun h => absurd h hfree,
        fun _ _ => ⟨arriving_fifo_same, rfl, rfl⟩, fun _ h => absurd hin (by simp [h])⟩
    · rw [if_neg hin]
      refine ⟨(congrArg (fun x : Rx => look (fun _ => []) x.toAq rx) edgeLost_rx).trans (arriving_toAq (k := k)), (congrArg Aq.merger edgeLost_aq).trans arriving_merger,
        fun j hj => edgeLost_fifo.trans (arriving_fifo.trans (if_neg hj)), fun h => absurd h hfree, fun _ h => absurd h hin,
        fun _ _ => ⟨edgeLost_fifo.trans arriving_fifo_same, edgeLost_flag, edgeLost_count, edgeLost_lost⟩⟩

/-! ### A GAP marker reports lost edges (R340) -/

/-- The GAP marker of region `n` for edges lost since the last one. -/
def gapItem (n : Nat) (lost : Nat × Nat) : AqEvent :=
  { tLsb := lost.2, shot := min lost.1 0xFFFF, attr := 0, stop := n, pol := false, channel := 0x3FD }

theorem gapMarker_reports {rx : Fin 6} (hopen : s.aq.seg.isSome = true) (hlost : (look (fun _ => (0, 0)) s.aq.lost rx).1 ≠ 0)
    (hspace : ((s.fifo rx).drop k).length < 48) :
    ∃ t, exec (.gapMarker rx k) s = .next t ∧ look (fun _ => (0, 0)) t.aq.lost rx = (0, 0) ∧ t.fifo rx = (s.fifo rx).drop k ∧
      t.aq.merger = insertItem (gapItem rx (look (fun _ => (0, 0)) s.aq.lost rx)) (((s.fifo rx).take k).foldl (fun m v => insertItem v m) s.aq.merger) := by
  have hreport : ¬((look (fun _ => (0, 0)) (mergeFrom rx k s).aq.lost rx).1 = 0 ∨ 48 ≤ ((mergeFrom rx k s).fifo rx).length) := by
    rw [mergeFrom_fifo_same]
    exact not_or.mpr ⟨hlost, Nat.not_le.mpr hspace⟩
  refine ⟨_, congrArg Host.Outcome.next ((if_neg hreport).trans (addMarker_open hopen)), look_put_same _ _ _, mergeFrom_fifo_same, rfl⟩

/-! ### The earliest item is released (R336, R339) -/

/-- Taking an item touches the merger and the FIFOs, and the merger gains nothing. -/
theorem takeItem_eq : ∃ m q, (∀ v ∈ m, v ∈ s.aq.merger) ∧ takeItem e s = { s with aq := { s.aq with merger := m, fifos := q } } := by
  unfold takeItem
  split_ifs
  · exact ⟨_, s.aq.fifos, fun v => List.mem_of_mem_erase, rfl⟩
  · exact ⟨s.aq.merger, _, fun v => id, rfl⟩

theorem applyAq_of_none_waiting (h : s.cut.waiting = []) : applyAq i s = s := if_neg (by rw [h]; decide)

theorem edgeSources_off (h : s.rbit (AQ_TRIG (e.channel / 32)) (e.channel % 32) = false) : edgeSources e s = s := if_neg (by simp [h])

/-- A merger that holds no marker has none to flush. -/
theorem flushMarkers_of_edges (h : ∀ v ∈ s.aq.merger, v.channel < 768) : flushMarkers e s = s := by
  have hedge (v : AqEvent) (hv : v ∈ s.aq.merger) : decide (768 ≤ v.channel ∧ v.before e = true) = false :=
    decide_eq_false fun hm => absurd (h v hv) (Nat.not_lt.mpr hm.1)
  have hout : s.aq.merger.filter (fun v => decide (768 ≤ v.channel ∧ v.before e = true)) = [] :=
    List.filter_eq_nil_iff.mpr fun v hv => Bool.eq_false_iff.mp (hedge v hv)
  have hstay : s.aq.merger.filter (fun v => !decide (768 ≤ v.channel ∧ v.before e = true)) = s.aq.merger :=
    List.filter_eq_self.mpr fun v hv => congrArg Bool.not (hedge v hv)
  unfold flushMarkers
  rw [hout, hstay]
  rfl

theorem eventRelease_early (h : s.earliest = some e) (hearly : s.now * 128 < e.tLsb + 32768) : exec .eventRelease s = .next s := by
  refine congrArg Host.Outcome.next ?_
  rw [h]
  exact if_pos (.inl hearly)

/-- The release of an item that is due. -/
theorem eventRelease_due (h : s.earliest = some e) (hdue : e.tLsb + 32768 ≤ s.now * 128) (hon : s.aqOn = true) :
    exec .eventRelease s = .next (if 768 ≤ e.channel then storeItem e (takeItem e s) else
      let u := if (takeItem e s).cut.swapI * 128 ≤ e.tLsb then applyAq (e.tLsb / 128) (takeItem e s) else takeItem e s
      storeItem e (flushMarkers e (edgeSources e (if e.pol then edgeGap e u else u)))) := by
  refine congrArg Host.Outcome.next ?_
  rw [h]
  exact if_neg (by simpa [hon] using hdue)

/-- A falling edge that no mask and no source watches is stored as it comes out. -/
theorem eventRelease_stores (h : s.earliest = some e) (hdue : e.tLsb + 32768 ≤ s.now * 128) (hon : s.aqOn = true) (hedge : e.channel < 768)
    (hfall : e.pol = false) (hwait : s.cut.waiting = []) (hoff : s.rbit (AQ_TRIG (e.channel / 32)) (e.channel % 32) = false)
    (hedges : ∀ v ∈ s.aq.merger, v.channel < 768) : exec .eventRelease s = .next (storeItem e (takeItem e s)) := by
  obtain ⟨m, q, hm, htake⟩ := takeItem_eq (s := s) (e := e)
  have hwait' : (takeItem e s).cut.waiting = [] := by rw [htake]; exact hwait
  have hoff' : (takeItem e s).rbit (AQ_TRIG (e.channel / 32)) (e.channel % 32) = false := by rw [htake]; exact hoff
  have hedges' : ∀ v ∈ (takeItem e s).aq.merger, v.channel < 768 := by rw [htake]; exact fun v hv => hedges v (hm v hv)
  rw [eventRelease_due h hdue hon, if_neg (Nat.not_le.mpr hedge), hfall, applyAq_of_none_waiting hwait', ite_self]
  dsimp only
  rw [if_neg Bool.false_ne_true, edgeSources_off hoff', flushMarkers_of_edges hedges']

/-! ### Words of capture memory (R341) -/

theorem putMems_aq : (putMems n ws s).aq = { s.aq with mem := (putMems n ws s).aq.mem } := by
  induction ws generalizing n s with
  | nil => rfl
  | cons w ws ih => exact ih

theorem putMems_regs : (putMems n ws s).regs = s.regs := putMems_kept (p := .regs) (by decide) (by decide) (.refl _ s)

theorem putMem_mem : look (fun _ => 0) (putMem n w s).aq.mem o = if o = n then w else look (fun _ => 0) s.aq.mem o := look_put _ _ _ _

/-- Words outside the run written are as before. -/
theorem putMems_mem_outside (h : o < n ∨ n + ws.length ≤ o) : look (fun _ => 0) (putMems n ws s).aq.mem o = look (fun _ => 0) s.aq.mem o := by
  induction ws generalizing n s with
  | nil => rfl
  | cons w ws ih =>
    rw [List.length_cons] at h
    exact (ih (by omega)).trans (putMem_mem.trans (if_neg (by omega)))

/-- The words of a run stand one behind the other. -/
theorem putMems_mem (h : ws[i]? = some w) : look (fun _ => 0) (putMems n ws s).aq.mem (n + i) = w := by
  induction ws generalizing n i s with
  | nil => cases h
  | cons v ws ih =>
    cases i with
    | zero =>
      obtain rfl : v = w := Option.some.inj h
      exact (putMems_mem_outside (.inl (Nat.lt_succ_self n))).trans (putMem_mem.trans (if_pos rfl))
    | succ i =>
      rw [show n + (i + 1) = n + 1 + i by omega]
      exact ih h

/-! ### An event goes into the next slot (R336, R343) -/

/-- A segment with a free slot that no trigger has marked, after an edge has gone into it. -/
theorem Segment.advance_of_free (hmark : g.trigSlot = none) (hfree : g.stored < g.slots) (hedge : n < 768) :
    g.advance n = { g with stored := g.stored + 1, next := (g.next + 1) % g.slots, swapSlot := if g.swapSlot = some g.next then none else g.swapSlot } := by
  have hfull : decide (g.stored = g.slots) = false := decide_eq_false (Nat.ne_of_lt hfree)
  unfold Segment.advance
  rw [hfull, hmark, if_neg (show n ≠ 0x3FE by omega), if_neg (show n ≠ 0x3FC by omega)]
  dsimp only
  rw [Bool.or_false]
  rfl

theorem pushSlot_unmarked (hseg : s.aq.seg = some g) (hmark : g.trigSlot = none) (hedge : e.channel < 768) : pushSlot e o s = putSlot g e o s := by
  have hadvance : (g.advance e.channel).trigSlot = none := (if_neg (by omega)).trans hmark
  unfold pushSlot
  rw [hseg]
  dsimp only
  rw [hmark, hadvance]
  rfl

/-- An item within the segment's present span goes into the next slot with its offset in the span. -/
theorem storeItem_inSpan (hseg : s.aq.seg = some g) (hstart : g.start * 128 ≤ e.tLsb) (hspan : (e.tLsb - g.start * 128) / 2 ^ 32 ≤ g.span) :
    storeItem e s = pushSlot e ((e.tLsb - g.start * 128) % 2 ^ 32) s := by
  unfold storeItem
  rw [hseg]
  dsimp only
  rw [if_neg (Nat.not_lt.mpr hstart), if_pos hspan]

theorem setSeg_mem : (setSeg g s).aq.mem = s.aq.mem := rfl

theorem putSlot_eq : putSlot g e o s = setSeg (g.advance e.channel) (putMems (g.base + 16 + 2 * g.next) [(e.words o).1, (e.words o).2] s) := rfl

theorem putSlot_seg : (putSlot g e o s).aq.seg = some (g.advance e.channel) := rfl

theorem putSlot_regs : (putSlot g e o s).regs = s.regs := putMems_regs

/-- The two words of a slot take the event. -/
theorem putSlot_words : look (fun _ => 0) (putSlot g e o s).aq.mem (g.base + 16 + 2 * g.next) = (e.words o).1 ∧
    look (fun _ => 0) (putSlot g e o s).aq.mem (g.base + 16 + 2 * g.next + 1) = (e.words o).2 := by
  rw [putSlot_eq, setSeg_mem]
  exact ⟨putMems_mem (i := 0) rfl, putMems_mem (i := 1) rfl⟩

/-- No word but those of the slot changes. -/
theorem putSlot_mem_other (h : i ≠ g.base + 16 + 2 * g.next) (h1 : i ≠ g.base + 16 + 2 * g.next + 1) :
    look (fun _ => 0) (putSlot g e o s).aq.mem i = look (fun _ => 0) s.aq.mem i := by
  rw [putSlot_eq, setSeg_mem]
  refine putMems_mem_outside ?_
  rw [List.length_cons, List.length_singleton]
  omega

/-! ### A segment closes (R342, R343) -/

/-- The header of the open segment `g` is written with a state code, and the segment is closed. -/
def State.closing (s : State) (g : Segment) (st : Nat) : State :=
  let u := putMems g.base (g.header st (s.reg LIVE_EPOCH) (s.reg (LIVE_DIGEST 0)))
    { s with aq := { s.aq with seg := none, closed := some (g, st), merger := s.aq.merger.filter (fun e => e.channel < 768) } }
  fsets AQ_STATUS [(AQ_STATUS.closed, satAdd 4096 (u.fget AQ_STATUS AQ_STATUS.closed) 1), (AQ_STATUS.segment, g.seg)] u

theorem closing_seg {st : Nat} : (s.closing g st).aq.seg = none := congrArg Aq.seg putMems_aq

theorem closing_fget {st : Nat} (h : a ≠ AQ_STATUS) : (s.closing g st).fget a f = s.fget a f := (fsets_fget_other h).trans (fget_of_kept putMems_regs)

theorem closing_closed {st : Nat} : (s.closing g st).fget AQ_STATUS AQ_STATUS.closed = satAdd 4096 (s.fget AQ_STATUS AQ_STATUS.closed) 1 := by
  have hcount : satAdd 4096 (s.fget AQ_STATUS AQ_STATUS.closed) 1 % 2 ^ AQ_STATUS.closed.width = satAdd 4096 (s.fget AQ_STATUS AQ_STATUS.closed) 1 :=
    Nat.mod_eq_of_lt (Nat.lt_of_le_of_lt satAdd_le (by decide))
  unfold State.closing
  rw [fsets_fget, fget_of_kept putMems_regs]
  show getF AQ_STATUS.closed (setF AQ_STATUS.segment _ (setF AQ_STATUS.closed _ _)) = _
  rw [getF_setF_other (by decide), getF_setF_same (by decide)]
  exact hcount

theorem closing_mem {st : Nat} (h : (g.header st (s.reg LIVE_EPOCH) (s.reg (LIVE_DIGEST 0)))[i]? = some w) :
    look (fun _ => 0) (s.closing g st).aq.mem (g.seg * (g.slots + 8) * 2 + i) = w := putMems_mem h

/-- What follows the close of segment `g` with a state code: the re-arm of a sequence, or the end of the capture. -/
def State.moveOn (s : State) (g : Segment) (st : Nat) : State :=
  if st = 3 ∨ st = 5 then
    match s.fget AQ_CFG AQ_CFG.seq_mode with
    | 1 => if g.seg + 1 < s.segCount then rearm (g.seg + 1) s else setAqState 4 s
    | 2 => rearm ((g.seg + 1) % s.segCount) s
    | _ => setAqState 4 s
  else flagIf (st = 6) AQ_FLAGS AQ_FLAGS.aborted (setAqState 5 s)

/-- Without CAPT streaming the close of a segment hands nothing to the lanes. -/
theorem closeSegment_unstreamed {st : Nat} (hseg : s.aq.seg = some g) (hstream : s.fget AQ_CFG AQ_CFG.stream = 0) :
    closeSegment st s = (s.closing g st).moveOn g st := by
  have hoff : (s.closing g st).fget AQ_CFG AQ_CFG.stream = 0 := (closing_fget (by decide)).trans hstream
  unfold closeSegment
  rw [hseg]
  dsimp -zeta only
  extract_lets head aq written counted aq2 queued sent
  have hsent : sent = s.closing g st := if_neg (by rw [show counted.fget AQ_CFG AQ_CFG.stream = 0 from hoff]; simp)
  rw [hsent]
  rfl

/-- A single segment that completes ends the capture. -/
theorem closeSegment_completes (hseg : s.aq.seg = some g) (hstream : s.fget AQ_CFG AQ_CFG.stream = 0) (hsingle : s.fget AQ_CFG AQ_CFG.seq_mode = 0) :
    closeSegment 3 s = setAqState 4 (s.closing g 3) := by
  rw [closeSegment_unstreamed hseg hstream, State.moveOn, if_pos (.inl rfl), closing_fget (by decide), hsingle]
  rfl

theorem setAqState_aqState (h : n < 8) : (setAqState n s).aqState = n := (fset_fget_same (by decide)).trans (Nat.mod_eq_of_lt h)

theorem setAqState_aq : (setAqState n s).aq = s.aq := rfl

theorem closeSegment_done (hseg : s.aq.seg = some g) (hstream : s.fget AQ_CFG AQ_CFG.stream = 0) (hsingle : s.fget AQ_CFG AQ_CFG.seq_mode = 0) :
    (closeSegment 3 s).aq.seg = none ∧ (closeSegment 3 s).aqState = 4 ∧
      (closeSegment 3 s).fget AQ_STATUS AQ_STATUS.closed = satAdd 4096 (s.fget AQ_STATUS AQ_STATUS.closed) 1 ∧
      ∀ i w, (g.header 3 (s.reg LIVE_EPOCH) (s.reg (LIVE_DIGEST 0)))[i]? = some w →
        look (fun _ => 0) (closeSegment 3 s).aq.mem (g.seg * (g.slots + 8) * 2 + i) = w := by
  rw [closeSegment_completes hseg hstream hsingle, setAqState_aq]
  exact ⟨closing_seg, setAqState_aqState (by decide), (fset_fget_field (by decide)).trans closing_closed, fun i w h => closing_mem h⟩

/-- With nothing earlier held back, post_time after the trigger closes the segment, and not before (R343). -/
theorem postTimeExpiry_closes (hseg : s.aq.seg = some g) (htrig : g.trig = some z) (hpost : (s.reg AQ_POST_TIME).toNat ≠ 0) (hmerger : s.aq.merger = [])
    (hfifos : s.aq.fifos = []) :
    exec .postTimeExpiry s = .next (if z + (s.reg AQ_POST_TIME).toNat + 256 ≤ s.now then closeSegment 3 s else s) := by
  show execPostTimeExpiry s = _
  unfold execPostTimeExpiry
  rw [hseg]
  dsimp only
  rw [htrig]
  dsimp only
  rw [flushMarkers_of_edges (by simp [hmerger]), hmerger, hfifos]
  simp [hpost]

/-! ### A segment opens (R343, R344) -/

theorem openSegment_state : (openSegment n s).aqState = 1 := by
  rw [State.aqState, openSegment, fsets_fget]
  show getF AQ_STATUS.state (setF AQ_STATUS.segment _ (setF AQ_STATUS.state 1 _)) = 1
  rw [getF_setF_other (by decide), getF_setF_same (by decide)]
  rfl

theorem openSegment_segment : (openSegment n s).fget AQ_STATUS AQ_STATUS.segment = n % 2 ^ AQ_STATUS.segment.width := by
  rw [openSegment, fsets_fget]
  exact getF_setF_same (by decide)

theorem openSegment_seg : (openSegment n s).aq.seg =
    some { seg := n, start := s.now, slots := s.segSlots - 8, frameStart := s.frameNum, epochStart := s.reg LIVE_EPOCH, fragStart := s.reg (LIVE_DIGEST 0) } := rfl

theorem openSegment_onlyRegs {r : List Nat} (h : OnlyRegs r s t) (ha : AQ_STATUS ∈ r) : OnlyRegs r s (openSegment n t) := h.setReg ha

theorem segmentOpen_opens (hon : s.aqOn = true) (hstate : s.aqState = 3) (hfree : s.transmitting s.aq.nextSeg = false) :
    exec .segmentOpen s = .next (openSegment s.aq.nextSeg s) := congrArg Host.Outcome.next (if_pos (by simp [hon, hstate, hfree]))

/-! ### O25 -/

/-- Settles O25: an arriving edge, a GAP marker, a release, a close and an opening, one lemma each. -/
theorem captureQueuesReleasesAndStores : Obligations.CaptureQueuesReleasesAndStores := by
  unfold Obligations.CaptureQueuesReleasesAndStores
  intro rx taken s l merged lost
  refine ⟨fun e rest hto hon => captureEdgeArrival_arrives hto hon, fun hopen hlost hspace => gapMarker_reports hopen hlost hspace,
    fun e h => ⟨eventRelease_early h, fun hdue hon hmarker => (eventRelease_due h hdue hon).trans (congrArg Host.Outcome.next (if_pos hmarker)), ?_⟩,
    fun g z hseg htrig hpost hmerger hfifos => postTimeExpiry_closes hseg htrig hpost hmerger hfifos,
    fun g hseg hstream hsingle => closeSegment_done hseg hstream hsingle,
    fun hon hstate hfree => ⟨_, segmentOpen_opens hon hstate hfree, openSegment_state, openSegment_segment, openSegment_seg,
      openSegment_onlyRegs .refl List.mem_cons_self⟩⟩
  intro g hdue hon hedge hfall hwait hoff hedges hseg hmark hstart hspan hfree base w
  obtain ⟨m, q, -, htake⟩ := takeItem_eq (s := s) (e := e)
  have hseg' : (takeItem e s).aq.seg = some g := by rw [htake]; exact hseg
  have hstored : storeItem e (takeItem e s) = putSlot g e ((e.tLsb - g.start * 128) % 2 ^ 32) (takeItem e s) :=
    (storeItem_inSpan hseg' hstart hspan).trans (pushSlot_unmarked hseg' hmark hedge)
  obtain ⟨hlo, hhi⟩ := putSlot_words (s := takeItem e s) (g := g) (e := e) (o := (e.tLsb - g.start * 128) % 2 ^ 32)
  refine ⟨_, (eventRelease_stores h hdue hon hedge hfall hwait hoff hedges).trans (congrArg Host.Outcome.next hstored),
    putSlot_seg.trans (congrArg some (Segment.advance_of_free hmark hfree hedge)), hlo, hhi, putSlot_regs.trans ?_, fun o h h1 => (putSlot_mem_other h h1).trans ?_⟩
  · rw [htake]
  · rw [htake]

end Sys2Proof.Machine
end

/-!
PROOFS of the architecture statements, part 27: triggers and what they join, the commands of `AQ_CTRL`, the edges of EXT_TRIG and XLINE, the capture
window (R343, R345 to R349, R360, R546), O26.
-/
section
namespace Sys2Proof.Machine

variable {s t : State} {a b i j k n o z code st high lasts low : Nat} {f : Fld} {g : Segment} {q : Requester}

/-! ### What a flag leaves of the engine -/

theorem flag_now : (flag a f s).now = s.now :=
  congrArg (fun c : Timebase => c.tbase.toNat) (flag_kept (p := .time) (by decide) (by decide) (.refl _ s))

theorem flag_aqOn : (flag AQ_FLAGS f s).aqOn = s.aqOn :=
  aqOn_congr (flag_kept (p := .cut) (by decide) (by decide) (.refl _ s)) (flag_kept (p := .time) (by decide) (by decide) (.refl _ s))
    (flag_kept (p := .mode) (by decide) (by decide) (.refl _ s)) (flag_reg (by decide) (by decide) (by decide)) (flag_reg (by decide) (by decide) (by decide))

theorem flag_closedNow : (flag a f s).closedNow = s.closedNow := by
  unfold State.closedNow
  rw [flag_aq, flag_now]

/-! ### A trigger fires (R346, R349) -/

/-- The open segment `g` with a trigger of source `code` at instant `z`. -/
def State.fired (s : State) (g : Segment) (code z : Nat) : Segment :=
  { g with trig := some z, tick := s.now / 2, cause := 2 ^ code, fired := code, frameTrig := s.frameAt z, triggered := true }

/-- From `s` to `t` segment `g` has taken a trigger: its cause, the state POST, the flag and the marker. -/
abbrev Fires (s : State) (code z : Nat) (g : Segment) (t : State) : Prop :=
  t.aq.seg = some (s.fired g code z) ∧ t.aqState = 2 ∧ t.rbit AQ_FLAGS AQ_FLAGS.triggered.lo = true ∧
    t.aq.merger = insertItem { tLsb := z * 128, shot := 2 ^ code, attr := 0, stop := code, pol := false, channel := 0x3FE } s.aq.merger

/-- The decision to pull XLINE touches nothing but the pull. -/
theorem settlePull_eq : ∃ p b, settlePull n s = { s with aq := { s.aq with pullUntil := p, pullAt := b } } := by
  unfold settlePull
  dsimp only
  split_ifs
  · exact ⟨none, s.aq.pullAt, rfl⟩
  · exact ⟨s.aq.pullUntil, s.aq.pullAt, rfl⟩
  · exact ⟨s.aq.pullUntil, s.aq.pullAt, rfl⟩
  · exact ⟨_, _, rfl⟩

theorem settlePull_closed : (settlePull n s).aq.closed = s.aq.closed := by
  obtain ⟨p, b, hpull⟩ := settlePull_eq (n := n) (s := s)
  rw [hpull]

theorem loupeSource_aq : (loupeSource code z s).aq = s.aq := loupeSource_kept (p := .aq) (by decide) (by decide) (.refl _ s)

/-- Segment `g` has its trigger, and the engine is in POST. -/
def State.posted (s : State) (g : Segment) (code z : Nat) : State := flag AQ_FLAGS AQ_FLAGS.triggered (setAqState 2 (setSeg (s.fired g code z) s))

/-- The engine after a trigger: the segment, the marker in its place, and XLINE. -/
theorem fireTrigger_aq : ∃ p b, (fireTrigger g code z s).aq = { s.aq with
    seg := some (s.fired g code z)
    merger := insertItem { tLsb := z * 128, shot := 2 ^ code, attr := 0, stop := code, pol := false, channel := 0x3FE } s.aq.merger
    pullUntil := p, pullAt := b } := by
  have haq : (s.posted g code z).aq = { s.aq with seg := some (s.fired g code z) } := flag_aq
  have hopen : (s.posted g code z).aq.seg.isSome = true := by rw [haq]; rfl
  obtain ⟨p, b, hpull⟩ := settlePull_eq (n := code) (s := addMarker (s.fired g code z).marker (s.posted g code z))
  refine ⟨p, b, loupeSource_aq.trans ((congrArg State.aq hpull).trans ?_)⟩
  rw [addMarker_open hopen, haq]
  rfl

/-- Beside Loupe's registers, a trigger shows in the state of the engine and in its flag. -/
theorem fireTrigger_reg (h : a ∉ [LOUPE_STATUS, LOUPE_TIME_LO, LOUPE_TIME_HI, REC_LOST, REC_STATUS]) :
    (fireTrigger g code z s).reg a = (s.posted g code z).reg a :=
  (loupeSource_onlyRegs a h).trans (reg_of_kept (settlePull_kept (by decide) (addMarker_kept (by decide) (.refl _ _))))

theorem fireTrigger_fires : Fires s code z g (fireTrigger g code z s) := by
  obtain ⟨p, b, haq⟩ := fireTrigger_aq (s := s) (g := g) (code := code) (z := z)
  refine ⟨congrArg Aq.seg haq, ?_, (rbit_of_reg (fireTrigger_reg (by decide))).trans (flag_rbit (by decide) (by decide)), congrArg Aq.merger haq⟩
  exact (fget_of_reg (fireTrigger_reg (by decide))).trans ((flag_fget_other (by decide) (by decide)).trans (setAqState_aqState (by decide)))

theorem triggerSource_fires (hon : s.aqOn = true) (hclosed : s.closedNow = none) (hseg : s.aq.seg = some g) (htrig : g.trig = none) :
    triggerSource code z s = fireTrigger g code z s := by
  have hfirst : g.trig.isNone = true := by rw [htrig]; rfl
  unfold triggerSource
  rw [hon, hclosed, hseg]
  exact if_pos hfirst

/-- With no segment open, and none closed in this tick, a source is counted as ignored. -/
theorem triggerSource_ignored (hon : s.aqOn = true) (hclosed : s.closedNow = none) (hseg : s.aq.seg = none) :
    triggerSource code z s = bumpOvf AQ_CNT AQ_CNT.trig_ignored 1 AQ_FLAGS AQ_FLAGS.cnt_ovf.lo s := by
  unfold triggerSource
  rw [hon, hclosed, hseg]
  rfl

theorem triggerSource_joins (hon : s.aqOn = true) (hclosed : s.closedNow = some (g, st)) : triggerSource code z s = joinClosed g st code z s := by
  unfold triggerSource
  rw [hon, hclosed]
  rfl

/-! ### A further source of the tick of a close (R349) -/

theorem frameAt_congr (hnum : t.reg FRAME_NUM = s.reg FRAME_NUM) (hlo : t.reg FRAME_EDGE_LO = s.reg FRAME_EDGE_LO)
    (hhi : t.reg (FRAME_EDGE_LO + 4) = s.reg (FRAME_EDGE_LO + 4)) : t.frameAt z = s.frameAt z := by
  unfold State.frameAt State.frameEdge State.frameNum State.reg64
  rw [hnum, hlo, hhi]

theorem joined_congr (h : t.frameAt z = s.frameAt z) : t.joined g code z = s.joined g code z := by
  unfold State.joined
  rw [h]

theorem flag_frameAt : (flag AQ_FLAGS f s).frameAt z = s.frameAt z :=
  frameAt_congr (flag_reg (by decide) (by decide) (by decide)) (flag_reg (by decide) (by decide) (by decide)) (flag_reg (by decide) (by decide) (by decide))

theorem loupeSource_frameAt : (loupeSource code n s).frameAt z = s.frameAt z :=
  frameAt_congr (loupeSource_onlyRegs _ (by decide)) (loupeSource_onlyRegs _ (by decide)) (loupeSource_onlyRegs _ (by decide))

/-- The segment that has closed in the tick takes the source. -/
theorem joinClosed_closed : (joinClosed g st code z s).aq.closed = some ({ s.joined g code z with triggered := true }, st) := by
  unfold joinClosed
  extract_lets u joined g1 head s1 ps
  have hframe : u.frameAt z = s.frameAt z := by
    unfold u
    split_ifs
    · rfl
    · exact loupeSource_frameAt.trans flag_frameAt
  have hjoin : joined = s.joined g code z := joined_congr hframe
  refine settlePull_closed.trans ?_
  show some (({ joined with triggered := true } : Segment), st) = _
  rw [hjoin]

/-! ### ARM (R343, R360) -/

/-- Every header is EMPTY, and the counts of closed segments and of lost edges are clear. -/
def State.aqEmptied (s : State) : State :=
  let u := fset AQ_STATUS AQ_STATUS.closed 0 (setReg AQ_LOST 0 (emptyHeaders s))
  { u with aq := { u.aq with undefinedSeg := none, gapFrom := none } }

theorem segSlots_congr (h : t.reg AQ_SEG_CFG = s.reg AQ_SEG_CFG) : t.segSlots = s.segSlots := by
  unfold State.segSlots
  rw [h]

theorem segSlots_pos : 0 < s.segSlots := Nat.div_pos (by omega) (by omega)

theorem transmitting_congr (hsend : t.aq.sending = s.aq.sending) (hlk : t.lk = s.lk) (hnow : t.now = s.now) : t.transmitting n = s.transmitting n := by
  unfold State.transmitting
  rw [hsend, hlk, hnow]

theorem aqEmptied_mem : s.aqEmptied.aq.mem = (emptyHeaders s).aq.mem := rfl

theorem openSegment_mem : (openSegment n s).aq.mem = s.aq.mem := rfl

theorem completeOk_aq : (completeOk q a s).aq = s.aq := rfl

/-- The header of each segment names it with the state EMPTY. -/
theorem emptyHeaders_mem (h : n < s.segCount) : look (fun _ => 0) (emptyHeaders s).aq.mem (n * s.segSlots * 2) = w32 n := by
  have hall := forUp_induction (f := fun g u => putMem (g * u.segSlots * 2) (w32 g) u) (i := 0) (n := s.segCount) (s := s)
    (P := fun m u => u.segSlots = s.segSlots ∧ ∀ j, j < m → look (fun _ => 0) u.aq.mem (j * s.segSlots * 2) = w32 j)
    ⟨rfl, fun _ hj => absurd hj (Nat.not_lt_zero _)⟩ fun m u _ _ ⟨hslots, hmem⟩ => ⟨hslots, fun j hj => ?_⟩
  · exact hall.2 n (by omega)
  · rw [putMem_mem, hslots]
    by_cases hm : j = m
    · rw [if_pos (by rw [hm]), hm]
    · have hlt : j * s.segSlots < m * s.segSlots := Nat.mul_lt_mul_of_pos_right (by omega) segSlots_pos
      rw [if_neg (by omega)]
      exact hmem j (by omega)

theorem aqEmptied_onlyRegs : OnlyRegs [AQ_STATUS, AQ_LOST] s s.aqEmptied := by
  have hheaders : OnlyRegs [AQ_STATUS, AQ_LOST] s (emptyHeaders s) := .of_kept (emptyHeaders_kept (by decide) (by decide) (.refl _ s))
  exact (hheaders.setReg (r := AQ_LOST) (v := 0) (by decide)).fset (a := AQ_STATUS) (f := AQ_STATUS.closed) (v := 0) (by decide)

theorem aqEmptied_now : s.aqEmptied.now = s.now :=
  congrArg (fun c : Timebase => c.tbase.toNat) (emptyHeaders_kept (p := .time) (by decide) (by decide) (.refl _ s))

theorem aqEmptied_segSlots : s.aqEmptied.segSlots = s.segSlots := segSlots_congr (aqEmptied_onlyRegs _ (by decide))

theorem aqEmptied_transmitting : s.aqEmptied.transmitting n = s.transmitting n :=
  transmitting_congr (forUp_proj (π := fun u : State => u.aq.sending) fun _ _ => rfl) (emptyHeaders_kept (p := .lk) (by decide) (by decide) (.refl _ s)) aqEmptied_now

theorem aqArm_opens (hrest : s.aqState = 0 ∨ s.aqState = 4 ∨ s.aqState = 5) (hfree : s.transmitting 0 = false) : aqArm s = openSegment 0 s.aqEmptied := by
  have hfree' : s.aqEmptied.transmitting 0 = false := aqEmptied_transmitting.trans hfree
  unfold aqArm
  rw [if_pos hrest]
  exact if_neg (Bool.eq_false_iff.mp hfree')

theorem aqArm_refused (h : s.aqState = 1 ∨ s.aqState = 2 ∨ s.aqState = 3) : aqArm s = flag AQ_FLAGS AQ_FLAGS.cmd_refused s := if_neg (by omega)

theorem aqEmptied_closed : s.aqEmptied.fget AQ_STATUS AQ_STATUS.closed = 0 :=
  (fset_fget_same (s := setReg AQ_LOST 0 (emptyHeaders s)) (by decide)).trans (Nat.zero_mod _)

theorem aqEmptied_lost : s.aqEmptied.reg AQ_LOST = 0 :=
  (setReg_reg_other (s := setReg AQ_LOST 0 (emptyHeaders s)) (by decide)).trans setReg_reg_same

theorem openSegment_closed : (openSegment n s).fget AQ_STATUS AQ_STATUS.closed = s.fget AQ_STATUS AQ_STATUS.closed := by
  rw [openSegment, fsets_fget]
  show getF AQ_STATUS.closed (setF AQ_STATUS.segment _ (setF AQ_STATUS.state _ _)) = _
  rw [getF_setF_other (by decide), getF_setF_other (by decide)]
  rfl

theorem openSegment_reg (h : a ≠ AQ_STATUS) : (openSegment n s).reg a = s.reg a := setReg_reg_other h

theorem captureArm_arms (ht : s.takes AQ_CTRL) (hrest : s.aqState = 0 ∨ s.aqState = 4 ∨ s.aqState = 5) (hfree : s.transmitting 0 = false) :
    ∃ t, exec (.captureArm q) s = .next t ∧ (t.req q).status = 0 ∧ t.aqState = 1 ∧ t.fget AQ_STATUS AQ_STATUS.closed = 0 ∧ t.reg AQ_LOST = 0 ∧
      (∃ g, t.aq.seg = some g ∧ g.seg = 0 ∧ g.start = s.now ∧ g.stored = 0 ∧ g.slots = s.segSlots - 8) ∧ OnlyRegs [AQ_STATUS, AQ_LOST] s t ∧
      ∀ n, n < s.segCount → look (fun _ => 0) t.aq.mem (n * s.segSlots * 2) = BitVec.ofNat 32 n := by
  refine ⟨_, congrArg Host.Outcome.next ((hostWrite_takes ht).trans (congrArg _ (aqArm_opens hrest hfree))), completeOk_status, completeOk_fget.trans openSegment_state,
    completeOk_fget.trans (openSegment_closed.trans aqEmptied_closed), completeOk_reg.trans ((openSegment_reg (by decide)).trans aqEmptied_lost),
    ⟨_, openSegment_seg, rfl, aqEmptied_now, rfl, congrArg (· - 8) aqEmptied_segSlots⟩, completeOk_onlyRegs (openSegment_onlyRegs aqEmptied_onlyRegs (by decide)),
    fun n hn => ?_⟩
  rw [completeOk_aq, openSegment_mem, aqEmptied_mem]
  exact emptyHeaders_mem hn

/-! ### ABORT, FORCE and CLEAR_CNT (R343, R346, R360) -/

theorem aqAbort_open (hseg : s.aq.seg = some g) : aqAbort s = closeSegment 6 s := by
  unfold aqAbort
  rw [hseg]

theorem aqAbort_rests (hseg : s.aq.seg = none) (hstate : s.aqState ≠ 3) : aqAbort s = s := by
  unfold aqAbort
  rw [hseg]
  exact if_neg hstate

theorem closeSegment_stops (hseg : s.aq.seg = some g) (hstream : s.fget AQ_CFG AQ_CFG.stream = 0) :
    closeSegment 6 s = flag AQ_FLAGS AQ_FLAGS.aborted (setAqState 5 (s.closing g 6)) := by
  rw [closeSegment_unstreamed hseg hstream, State.moveOn, if_neg (by decide)]
  rfl

theorem closeSegment_aborts (hseg : s.aq.seg = some g) (hstream : s.fget AQ_CFG AQ_CFG.stream = 0) :
    (closeSegment 6 s).aq.seg = none ∧ (closeSegment 6 s).aqState = 5 ∧ (closeSegment 6 s).rbit AQ_FLAGS AQ_FLAGS.aborted.lo = true := by
  rw [closeSegment_stops hseg hstream, flag_aq, setAqState_aq]
  exact ⟨closing_seg, (flag_fget_other (by decide) (by decide)).trans (setAqState_aqState (by decide)), flag_rbit (by decide) (by decide)⟩

theorem aqForce_recording (h : s.aqState = 1) : aqForce s = triggerSource 5 s.now s := by
  unfold aqForce
  rw [if_pos h]

theorem aqForce_refused (h : s.aqState ≠ 1) :
    aqForce s = triggerSource 5 s.now (flag AQ_FLAGS AQ_FLAGS.cmd_refused s) := by
  unfold aqForce
  rw [if_neg h]
  dsimp only
  rw [flag_now]

/-- FORCE joins the trigger of a segment that has closed in the tick, refused or not. -/
theorem aqForce_joins (hon : s.aqOn = true) (hclosed : s.closedNow = some (g, st)) :
    (aqForce s).aq.closed = some ({ s.joined g 5 s.now with triggered := true }, st) := by
  by_cases h : s.aqState = 1
  · rw [aqForce_recording h, triggerSource_joins hon hclosed, joinClosed_closed]
  · rw [aqForce_refused h, triggerSource_joins (flag_aqOn.trans hon) (flag_closedNow.trans hclosed), joinClosed_closed, joined_congr flag_frameAt]

theorem aqCommand_unnamed (h : n = 0 ∨ 5 ≤ n) : aqCommand n s = flag AQ_FLAGS AQ_FLAGS.cmd_refused s := by
  obtain rfl | ⟨m, rfl⟩ : n = 0 ∨ ∃ m, n = m + 5 := h.imp id fun h5 => ⟨n - 5, by omega⟩
  · rfl
  · rfl

/-- A command of `AQ_CTRL` that the engine takes. -/
theorem aqCtrl_exec {op : State → State} (ht : s.takes AQ_CTRL) (h : op s = t) :
    (.next (hostWrite q AQ_CTRL op s) : Out) = .next (completeOk q (AQ_CTRL + 1) t) := by
  rw [hostWrite_takes ht, h]

/-! ### EXT_TRIG (R347) -/

/-- An edge of EXT_TRIG has been seen at `z`. -/
def State.extSeen (s : State) (z : Nat) : State := { s with aq := { s.aq with extAt := some z } }

/-- The pulse that an edge at `z` begins or ends is shorter than 10 ns. -/
abbrev State.extShort (s : State) (z lasts : Nat) : Prop := lasts < 10 ∨ ∃ e, s.aq.extAt = some e ∧ z < e + 10

theorem extShort_iff : (decide (lasts < 10) || s.aq.extAt.any (fun e => decide (z < e + 10))) = true ↔ s.extShort z lasts := by
  rw [Bool.or_eq_true, decide_eq_true_iff, Option.any_eq_true]
  simp only [decide_eq_true_iff]

theorem extTrigEdge_active {x : BitVec 64} {rising : Bool} (hen : s.fget AQ_CFG AQ_CFG.ext_en = 1) (hpol : s.fget AQ_CFG AQ_CFG.ext_pol = b2n rising)
    (hlong : ¬s.extShort x.toNat lasts) : exec (.extTrigEdge x ⟨rising, lasts⟩) s = .next (triggerSource 0 x.toNat (s.extSeen x.toNat)) :=
  congrArg Host.Outcome.next (if_pos ⟨hen, hpol.symm, mt extShort_iff.mp hlong⟩)

theorem extTrigEdge_inactive {x : BitVec 64} {rising : Bool}
    (h : s.fget AQ_CFG AQ_CFG.ext_en = 0 ∨ s.fget AQ_CFG AQ_CFG.ext_pol ≠ b2n rising ∨ s.extShort x.toNat lasts) :
    exec (.extTrigEdge x ⟨rising, lasts⟩) s = .next (s.extSeen x.toNat) := by
  refine congrArg Host.Outcome.next (if_neg fun ⟨hen, hpol, hlong⟩ => ?_)
  obtain hoff | hother | hshort := h
  · exact absurd (hen.symm.trans hoff) (by decide)
  · exact hother hpol.symm
  · exact hlong (extShort_iff.mpr hshort)

/-! ### XLINE (R346 to R348) -/

/-- A line that has been high for 1,000 ns is no longer stuck. -/
def State.lineHigh (s : State) (high : Nat) : State := if 1000 ≤ high then { s with aq := { s.aq with stuck := false } } else s

/-- XLINE's fall is a source of this unit's trigger. -/
abbrev State.lineActive (s : State) (z high lasts : Nat) : Bool :=
  s.fget AQ_CFG AQ_CFG.xline_in = 1 && !s.ownXline z && !s.aq.stuck && decide (10 ≤ high ∧ 10 ≤ lasts)

theorem xlineEdge_eq {x : BitVec 64} : exec (.xlineEdge x ⟨high, lasts⟩) s =
    .next (if (s.lineHigh high).lineActive x.toNat high lasts then triggerSource 1 x.toNat (s.lineHigh high) else s.lineHigh high) := rfl

theorem lineHigh_free (h : s.aq.stuck = false ∨ 1000 ≤ high) : s.lineHigh high = { s with aq := { s.aq with stuck := false } } := by
  unfold State.lineHigh
  split_ifs with hhigh
  · rfl
  · rw [← h.resolve_right hhigh]

theorem xlineEdge_fires {x : BitVec 64} (hin : s.fget AQ_CFG AQ_CFG.xline_in = 1) (hown : s.ownXline x.toNat = false) (hfree : s.aq.stuck = false ∨ 1000 ≤ high)
    (hon : s.aqOn = true) (hclosed : s.closedNow = none) (hhigh : 10 ≤ high) (hlasts : 10 ≤ lasts) (hseg : s.aq.seg = some g) (htrig : g.trig = none) :
    ∃ t, exec (.xlineEdge x ⟨high, lasts⟩) s = .next t ∧ t.aq.stuck = false ∧ Fires s 1 x.toNat g t := by
  let u : State := { s with aq := { s.aq with stuck := false } }
  have hactive : u.lineActive x.toNat high lasts = true := by
    have hin' : u.fget AQ_CFG AQ_CFG.xline_in = 1 := hin
    have hown' : u.ownXline x.toNat = false := hown
    unfold State.lineActive
    rw [hin', hown', decide_eq_true (And.intro hhigh hlasts)]
    rfl
  obtain ⟨p, b, haq⟩ := fireTrigger_aq (s := u) (g := g) (code := 1) (z := x.toNat)
  refine ⟨fireTrigger g 1 x.toNat u, ?_, congrArg Aq.stuck haq, fireTrigger_fires (s := u)⟩
  rw [xlineEdge_eq, lineHigh_free hfree, if_pos hactive, triggerSource_fires (s := u) hon hclosed hseg htrig]

theorem xlineEdge_inactive {x : BitVec 64} (hhigh : high < 1000)
    (h : s.fget AQ_CFG AQ_CFG.xline_in = 0 ∨ s.ownXline x.toNat = true ∨ s.aq.stuck = true ∨ high < 10 ∨ lasts < 10) :
    exec (.xlineEdge x ⟨high, lasts⟩) s = .next s := by
  have hrest : s.lineHigh high = s := if_neg (Nat.not_le.mpr hhigh)
  have hpassive : s.lineActive x.toNat high lasts = false := by
    unfold State.lineActive
    obtain h | h | h | h := h
    · simp [h]
    · simp [h]
    · simp [h]
    · have hshort : ¬(10 ≤ high ∧ 10 ≤ lasts) := by omega
      simp [hshort]
  rw [xlineEdge_eq, hrest, hpassive]
  rfl

theorem xlineRelease_eq (h : s.aq.pullUntil = some z) :
    exec .xlineRelease s = .next (if z ≤ s.now then { s with aq := { s.aq with pullUntil := none, released := some s.now } } else s) := by
  refine congrArg Host.Outcome.next ?_
  rw [h]

/-! ### The capture window (R345, R546) -/

/-- The window shows the memory: AQ is enabled, supplied and not fenced, and no fence has left a segment undefined. -/
structure WindowShows (s : State) : Prop where
  answers : s.answers = true
  fence : s.fenced 6 = false
  enabled : blockOn (s.planeOf tgtAq) 6 0 = true
  good : s.domGood 63 = true
  defined : s.aq.undefinedSeg = none

/-- A read without an error of the memory is refused for the open segment, and answered elsewhere. -/
theorem captRead_eq (h : WindowShows s) : captRead n o 0 s =
    if s.aq.seg.any (fun g => g.seg = o / 2 / s.segSlots) && decide (o / 2 / s.segSlots < s.segCount) then complete n 1 (0x20000000 + o * 4) 0 s
    else complete n 0 (0x20000000 + o * 4) (look (fun _ => 0) s.aq.mem o) s := by
  have hother : s.aq.undefinedSeg ≠ some (o / 2 / s.segSlots) := by rw [h.defined]; exact nofun
  unfold captRead
  simp only [h.answers, h.fence, h.enabled, h.good, Bool.not_true, Bool.or_self, Bool.false_eq_true, ↓reduceIte]
  exact if_congr Iff.rfl rfl (if_neg hother)

theorem captRead_memory (h : WindowShows s) (hseg : s.aq.seg = none) :
    captRead n o 0 s = setReq n { s.req n with status := 0, data := look (fun _ => 0) s.aq.mem o, lastAccess := some (0x20000000 + o * 4) } s := by
  rw [captRead_eq h, hseg]
  exact complete_ok_read (by omega)

theorem captRead_open (h : WindowShows s) (hseg : s.aq.seg = some g) (hin : g.seg = o / 2 / s.segSlots) (hrange : o / 2 / s.segSlots < s.segCount) :
    captRead n o 0 s = complete n 1 (0x20000000 + o * 4) 0 s := by
  rw [captRead_eq h, hseg]
  exact if_pos (by simp [hin, hrange])

/-! ### O26 -/

/-- Settles O26: the commands of `AQ_CTRL`, then EXT_TRIG, XLINE and the window. -/
theorem captureCommandsAndTriggers : Obligations.CaptureCommandsAndTriggers := by
  unfold Obligations.CaptureCommandsAndTriggers
  intro q x rising lasts high low v off s ok fires seen ignored
  refine ⟨fun ht => ⟨captureArm_arms ht, fun h => aqCtrl_exec ht (aqArm_refused h), fun g hseg => ⟨aqCtrl_exec ht (aqAbort_open hseg), closeSegment_aborts hseg⟩,
      fun hseg hstate => aqCtrl_exec ht (aqAbort_rests hseg hstate), fun g hon hstate hclosed hseg htrig => ?_, fun hstate hon hclosed hseg => ?_,
      fun g st hon hclosed => ⟨_, aqCtrl_exec ht rfl, aqForce_joins hon hclosed⟩, aqCtrl_exec ht rfl, fun h => aqCtrl_exec ht (aqCommand_unnamed h)⟩,
    extTrigEdge_inactive, fun g hen hpol hon hclosed hlasts hgap => ?_,
    fun g hin hown hfree hon hclosed hhigh hlasts hseg htrig => xlineEdge_fires hin hown hfree hon hclosed hhigh hlasts hseg htrig, xlineEdge_inactive,
    fun z => xlineRelease_eq, rfl, fun hans hfence hblock hgood hdefined =>
      ⟨fun hseg => congrArg Host.Outcome.next (captRead_memory ⟨hans, hfence, hblock, hgood, hdefined⟩ hseg), fun g hseg hin hrange =>
        congrArg Host.Outcome.next (captRead_open ⟨hans, hfence, hblock, hgood, hdefined⟩ hseg hin hrange)⟩⟩
  · exact ⟨_, aqCtrl_exec ht ((aqForce_recording hstate).trans (triggerSource_fires hon hclosed hseg htrig)), completeOk_status, fireTrigger_fires⟩
  · exact aqCtrl_exec ht ((aqForce_refused hstate).trans (triggerSource_ignored (flag_aqOn.trans hon) (flag_closedNow.trans hclosed) ((congrArg Aq.seg flag_aq).trans hseg)))
  · have hlong : ¬s.extShort x.toNat lasts := by
      rintro (hshort | ⟨e, hat, hshort⟩)
      · omega
      · exact absurd (hgap e hat) (Nat.not_le.mpr hshort)
    refine ⟨fun hseg => ?_, fun hseg htrig => ⟨_, (extTrigEdge_active hen hpol hlong).trans (congrArg Host.Outcome.next
      (triggerSource_fires (s := s.extSeen x.toNat) hon hclosed hseg htrig)), fireTrigger_fires (s := s.extSeen x.toNat)⟩⟩
    exact (extTrigEdge_active hen hpol hlong).trans (congrArg Host.Outcome.next (triggerSource_ignored (s := s.extSeen x.toNat) hon hclosed hseg))

end Sys2Proof.Machine
end
